-- ==== Sys2Proof/Word.lean ====
section
/-! DEFINITION. The word types of the CT-3272 model and the one packing helper every layout uses. -/

namespace Sys2Proof

abbrev Byte := BitVec 8
abbrev U16 := BitVec 16
abbrev U32 := BitVec 32
abbrev U64 := BitVec 64
/-- A 32-byte ring record or packet header, byte 0 in the low bits (R6). -/
abbrev W256 := BitVec 256

end Sys2Proof
end

