-- ==== Sys2Proof/Syntax.lean ====
section
/-! DEFINITION. The commands of the block, one constructor per row of the table, and the plain data their operands carry:
the parts of an Ehrist binary (whose byte form the manual does not give), images, images of flits and requesters. -/

namespace Sys2Proof

/-- A unit of a compute die: die 0-23, unit 0-15 (R24, R25). -/
structure UnitId where
  die : Fin 24
  u : Fin 16
deriving DecidableEq, Repr

/-- A vector engine VXEv of a compute die (unit 4 + v). -/
structure VxId where
  die : Fin 24
  v : Fin 4
deriving DecidableEq, Repr

/-- A PCIe function: port 0 is A, 1 is B; function 0 is the PF (R404). -/
structure Func where
  port : Fin 2
  fn : Fin 16
deriving DecidableEq, Repr

/-- The four fields of a vector instruction below its opcode (R224). -/
structure VOps where
  dst : BitVec 6
  a : BitVec 6
  b : BitVec 6
  m : BitVec 6
deriving DecidableEq, Repr

/-- A 128-byte tensor descriptor (R145). -/
abbrev TD := BitVec 1024

/-- A queue of a binary: its consumer die, QID and QCFG word (R54). -/
structure QDecl where
  die : Fin 24
  qid : Fin 512
  qcfg : U64
deriving DecidableEq, Repr

/-- A sync object a binary declares (R62, R63, R266). -/
structure SyncDecl where
  sid : U16
  value : U64
  work : Bool
  signed : Bool
  bound : BitVec 48
  rearm : Option (BitVec 12)
deriving DecidableEq, Repr

/-- What a mark of a step program stands for (R103, R353, R104). -/
inductive MarkRole where
  | ingestOpen | ingestClose | fwdStart | gather | reduced | normed | cork | stepEnd | corkRelease
  | contrib (bucket : Nat)
  | endMark
  | release (query : Nat)
  | other
deriving DecidableEq, Repr

/-- A mark: its ID, its offset from the base in cycles, whether it recurs every STEP_BEATS (R96). -/
structure MarkDecl where
  id : BitVec 12
  offset : Nat
  step : Bool
  role : MarkRole
deriving DecidableEq, Repr

/-- A mark that gates one point of a command (R540): the loop level whose inner counters are zero. -/
structure Gate where
  level : Nat
  mark : BitVec 12
deriving DecidableEq, Repr

/-- A sync wait that gates iterations of a level (R46, R67). -/
structure SyncGate where
  level : Nat
  sid : U16
  value : U64
deriving DecidableEq, Repr

/-- A port bound to a loop level (R40). Port 8 is the FTQ (R217). -/
structure PortBind where
  port : Fin 9
  level : Nat
  inline : Bool := true
  ref : Option Bool := none
deriving DecidableEq, Repr

/-- One term of a tile's origin: the counter of a loop level times a step, along one dimension (R39, R151). -/
structure Axis where
  dim : Fin 6
  level : Fin 6
  step : Nat
deriving DecidableEq, Repr

/-- What an MXE command's loop nest binds (R201): the dimensions of the array's rows and columns, the tile's origin in each
tensor, the descriptor through which rows of references are read, and the marks of its live Decants (R191). The manual
leaves their encoding to the binary. -/
structure MxeBind where
  aM : Fin 6
  aK : Fin 6
  bK : Fin 6
  bN : Fin 6
  aOrg : List Axis
  bOrg : List Axis
  outOrg : List Axis
  aRef : Nat
  liveMarks : List (BitVec 12)
deriving DecidableEq, Repr

/-- The same of a VXE command: the dimensions of rows and lanes in its input tensors, the tile's origin in each. -/
structure VxeBind where
  rowDim : Fin 6
  laneDim : Fin 6
  inOrg : List (List Axis)
  outOrg : List Axis
deriving DecidableEq, Repr

/-- The box of IN_TD an RXE command's iteration takes. -/
structure RxeBind where
  org : List Axis
  size : List Nat
deriving DecidableEq, Repr

/-- A box of element indices: first index and extent in each dimension. -/
structure Region where
  org : List Int
  ext : List Nat
deriving DecidableEq, Repr

/-- What an HXU command sends its region to (R164). -/
inductive HxuDest where
  | onModule (td : Nat) (reg : Region) (sid : U16)
  | peer (port : Fin 6) (handle : U16) (offset : U32) (hops : BitVec 5)
deriving DecidableEq, Repr

/-- The bodies of commands: the ones whose bytes the manual gives stand as words (R200, R205, R222, R238, R267). -/
inductive Body where
  | mxe (body dec : BitVec 256) (bind : MxeBind)
  | vxe (body : BitVec 512) (dec : BitVec 256) (bind : VxeBind)
  | rxe (body : BitVec 128) (bind : RxeBind)
  | gse (body : BitVec 256)
  | lmv (src dst : Nat) (srcReg dstReg : Region) (srPass : BitVec 20)
  | dmx (src dst : Nat) (srcReg dstReg : Region)
  | hxu (src : Nat) (reg : Region) (dest : HxuDest)
  | upe
deriving DecidableEq, Repr

/-- Which bank of the banked tensors a command names (R295). -/
inductive BankSel where
  | none | active | inactive | query
deriving DecidableEq, Repr

/-- A command of a unit (R38 to R45, R262). `syncSet` marks a command naming SET (R64). -/
structure Cmd where
  tag : U32
  bounds : List U32
  maxb : List U32
  ins : List PortBind
  outs : List PortBind
  markFwd : BitVec 8
  gates : List Gate
  waits : List SyncGate
  claim : U64
  bank : BankSel
  tdMaxb : List (Nat × U32)
  envelope : List (Nat × List Byte)
  writes : List Nat
  stage : Nat
  namesSet : Bool
  body : Body
deriving DecidableEq, Repr

/-- The commands and start values of one unit (R38, R532, R220). -/
structure UnitProg where
  x : UnitId
  cmds : List Cmd
  bound : List U32
  bindPtr : List (BitVec 57)
  recipe : List U32
deriving DecidableEq, Repr

/-- A reconfiguration bound to a mark (R70). -/
structure Reconf where
  mark : BitVec 12
  flush : Bool
  units : List UnitProg
  queues : List QDecl
deriving DecidableEq, Repr

/-- A scratchpad range of RESOURCES (R108, R163, R286). -/
structure ScratchRange where
  dva : Nat
  len : Nat
  die : Fin 24
  off : Nat
  diagonal : Bool
  cellar : Bool
deriving DecidableEq, Repr

/-- A pinned range of RESOURCES (R392). -/
structure PinRange where
  dva : Nat
  len : Nat
  write : Bool
deriving DecidableEq, Repr

/-- The TORUS field (R108, R323): sizes, origin and the rank of each module ID. -/
structure Torus where
  x : Nat
  y : Nat
  z : Nat
  origin : BitVec 15
  ranks : List (BitVec 15 × Nat)
deriving DecidableEq, Repr

/-- A gated action of the plan (RELEASES, R104): unit, port or pin, and its offset in cycles. -/
structure ReleasePlan where
  unit : Nat
  port : Nat
  at_ : Nat
deriving DecidableEq, Repr

/-- A command of the plan (UNIT_PLAN): unit, command tag, planned start and end in cycles. -/
structure CmdPlan where
  unit : Nat
  tag : U32
  start : Nat
  end_ : Nat
deriving DecidableEq, Repr

/-- A reconvergence (R60): its short path's queue, the two latencies in cycles, and the depth chosen. -/
structure Reconvergence where
  die : Fin 24
  qid : Fin 512
  long : Nat
  short : Nat
  depth : Nat
deriving DecidableEq, Repr

/-- The schedule report (R108): what admission checks and the module uses; of the rest, the gated actions, the plan of each unit, the
reconvergences, the bound words with their MAXB, and capacities with densities by command tag. MARKS with the units they gate
and QUEUES are the binary's marks, commands and queues. -/
structure Report where
  reserveBeats : Nat
  portShare : Nat
  stepBeats : Nat
  steps : Nat
  crossModule : Bool
  endOffset : Nat
  pins : List PinRange
  scratch : List ScratchRange
  saveBytes : Nat
  cxlLat : Nat
  recordBw : Bool
  sampleStrobe : Bool
  samples : Nat
  corkHolders : List Nat
  initial : List (Nat × Nat)
  torus : Torus
  releases : List ReleasePlan := []
  unitPlan : List CmdPlan := []
  reconvergences : List Reconvergence := []
  bounds : List (U32 × Nat) := []
  capacities : List (U32 × Nat × Nat) := []
deriving DecidableEq, Repr

/-- A handle of the halo table (R363). -/
structure HaloEntry where
  handle : U16
  td : Nat
  off : Nat
  len : Nat
  sid : U16
deriving DecidableEq, Repr

/-- One packet of the exchange plan (R339): the port and the order it leaves in, with the offset of its slot from the period's start in
cycles. `own`: this module originates it; else it passes through, with `left` hops still to travel as it leaves. Kinds: 1 REDUCE,
2 SPREAD, 4 CORK (R335). The phase, the direction and the first block name it; R345 to R347 give the rest. -/
structure PlanPkt where
  port : Fin 6
  kind : BitVec 4
  own : Bool
  bucket : BitVec 12
  dim : BitVec 2
  dir : Bool
  left : BitVec 5
  first : Nat
  slot : Nat
deriving DecidableEq, Repr

/-- The exchange part of a binary: header and bucket table (R341), halo table, first block of each layer (R340). -/
structure ExchSec where
  header : BitVec 256
  buckets : List (BitVec 256)
  halo : List HaloEntry
  layerBlock : List Nat
  plan : List PlanPkt
deriving DecidableEq, Repr

/-- Rows of a layer that the binary assigns to an update engine (R311); the manual does not lay the assignment out (log entry 34). -/
structure RowShare where
  layer : Nat
  upe : UnitId
  first : Nat
  rows : Nat
deriving DecidableEq, Repr

/-- The update part of a binary: header (R289), layer table (R290), parameter groups (R299), rows of the update engines (R311). -/
structure UpdateSec where
  header : BitVec 512
  layers : List (BitVec 256)
  groups : List (BitVec 512)
  assign : List RowShare
deriving DecidableEq, Repr

/-- An Ehrist binary as the module holds it after a fetch. -/
structure Binary where
  digest : BitVec 512
  tds : List TD
  queues : List QDecl
  syncs : List SyncDecl
  marks : List MarkDecl
  units : List UnitProg
  reconfs : List Reconf
  report : Report
  exch : Option ExchSec
  update : Option UpdateSec
deriving DecidableEq, Repr

/-- A ring entry the module fetched: the 64-byte descriptor (R415) and, for a RUN, the binary its DVA named. -/
structure Fetched where
  desc : BitVec 512
  bin : Option Binary
deriving DecidableEq, Repr

/-- A firmware image: the 1,024-byte header (R487) and its payload. -/
structure Image where
  hdr : BitVec 8192
  payload : List Byte
deriving DecidableEq, Repr

/-- The error pattern a GDDR7 read or scrub meets in a burst: its 32 symbols of 16 bits, each 0 where the symbol is right (R372). -/
structure EccErr where
  pattern : BitVec 512
deriving DecidableEq, Repr

/-- What a scrub window found on one device (R373). -/
structure ScrubErr where
  dev : Fin 48
  slot : Fin 31
  err : EccErr
deriving DecidableEq, Repr

/-- Who issues a memory access: a unit, a link die (0 or 1), or a walk of a context. -/
inductive Stream where
  | unit (x : UnitId)
  | link (l : Fin 2)
deriving DecidableEq, Repr

/-- Who issues a sync operation (R64, R66). -/
inductive SyncBy where
  | unit (x : UnitId)
  | soft (f : Func)
  | module
deriving DecidableEq, Repr

/-- The per-beat measurements of R473, R480 and R518: VIN and IIN in 10 mV and 10 mA, junctions and coolant in 1/16 °C. -/
structure BeatEnv where
  vin : Nat
  iin : Nat
  temps : List Nat
  coolIn : Nat
  coolOut : Nat
deriving DecidableEq, Repr

/-- Why the management endpoint answers NACK (R512). -/
inductive NackCause where
  | badPec | unknownCommand (c : Byte) | write
deriving DecidableEq, Repr

/-- A resource claim of R467. -/
inductive Claimed where
  | trig | dmx1 (die : Fin 24)
deriving DecidableEq, Repr

/-- The commands: one constructor for each row of the table of operations and events. -/
inductive Instr where
  | beatBoundary (env : BeatEnv)
  | beatEdge (sinceNs : Nat)
  | beatSetWrite (f : Func) (v : U64)
  | timeCtrlWrite (f : Func) (v : U64)
  | timingWordReceive (p : Fin 6) (w : BitVec 128) (whole : Bool) (arr16 : Nat)
  | delayEchoReceive (p : Fin 6) (roundTripPs : Nat)
  | delayRemeasure
  | holdoverEntry
  | holdoverExpiry
  | markTakeEffect
  | reconfigDrain
  | commandStart (x : UnitId)
  | boundReadReply (x : UnitId) (slot : Nat)
  | iterationFire (x : UnitId)
  | markTokenPop (x : UnitId) (port : Fin 9)
  | drainTokenPop (x : UnitId) (port : Fin 9)
  | commandEnd (x : UnitId)
  | endTokenPop (x : UnitId)
  | tokenCrossing (src dst : Fin 24)
  | creditReturn (die : Fin 24) (q : Fin 512)
  | qcfgWrite (f : Func) (die : Fin 24) (q : Fin 512) (v : U64)
  | fetchAdd (x : UnitId) (sid : U16) (a : U64)
  | fetchMin (x : UnitId) (sid : U16) (a : U64)
  | fetchMax (x : UnitId) (sid : U16) (a : U64)
  | signal (x : UnitId) (sid : U16) (a : U64)
  | waitGe (x : UnitId) (sid : U16) (v : U64)
  | read (by_ : SyncBy) (sid : U16)
  | set (by_ : SyncBy) (sid : U16) (v ctl : U64)
  | syncReply (x : UnitId)
  | watchNotify (x : UnitId)
  | preemptStop (jid : U64)
  | chainSave (jid : U64)
  | resumeRestore (jid : U64)
  | mxeCommand (die : Fin 24) (m : Fin 4) (rows : Nat)
  | accTake (die : Fin 24) (m : Fin 4)
  | mxeDrain (die : Fin 24) (m : Fin 4)
  | decantRow (x : UnitId)
  | tileComplete (x : UnitId)
  | fadd (v : VxId) (w : VOps)
  | fsub (v : VxId) (w : VOps)
  | fmul (v : VxId) (w : VOps)
  | fma (v : VxId) (w : VOps)
  | fmax (v : VxId) (w : VOps)
  | fmin (v : VxId) (w : VOps)
  | faddPk (v : VxId) (w : VOps)
  | fsubPk (v : VxId) (w : VOps)
  | fmulPk (v : VxId) (w : VOps)
  | fmaPk (v : VxId) (w : VOps)
  | fmaxPk (v : VxId) (w : VOps)
  | fminPk (v : VxId) (w : VOps)
  | exp2 (v : VxId) (w : VOps)
  | log2 (v : VxId) (w : VOps)
  | rcp (v : VxId) (w : VOps)
  | rsqrt (v : VxId) (w : VOps)
  | tanh (v : VxId) (w : VOps)
  | sin (v : VxId) (w : VOps)
  | cos (v : VxId) (w : VOps)
  | cmp (v : VxId) (w : VOps)
  | sel (v : VxId) (w : VOps)
  | cvt (v : VxId) (w : VOps)
  | and (v : VxId) (w : VOps)
  | or (v : VxId) (w : VOps)
  | xor (v : VxId) (w : VOps)
  | shl (v : VxId) (w : VOps)
  | shr (v : VxId) (w : VOps)
  | pop (v : VxId) (w : VOps)
  | push (v : VxId) (w : VOps)
  | lred (v : VxId) (w : VOps)
  | rxeSum (die : Fin 24)
  | rxeSumsq (die : Fin 24)
  | rxeNorm2 (die : Fin 24)
  | rxeMean (die : Fin 24)
  | rxeMax (die : Fin 24)
  | rxeMin (die : Fin 24)
  | rxeArgmax (die : Fin 24)
  | rxeArgmin (die : Fin 24)
  | rxeTopk (die : Fin 24)
  | gather (die : Fin 24) (rows : Nat := 1)
  | scatterAdd (die : Fin 24) (steps : Nat := 1)
  | route (die : Fin 24) (tokens : Nat := 1)
  | claim (x : UnitId)
  | dmaTransfer (die : Fin 24) (e : Fin 2) (words : Nat := 1)
  | carryAdd (jid : U64) (bucket : Nat)
  | hxuCommand (die : Fin 24)
  | lmvCopy (die : Fin 24)
  | pass1Norm (jid : U64)
  | normDerive (jid : U64)
  | pass2Update (jid : U64) (layer : Nat) (elems : Nat := 1)
  | queryCommand (jid : U64) (query : Nat)
  | ingestArrival (jid : U64) (port : Fin 2) (query : Bool) (dva : BitVec 57) (data : List Byte)
  | flitSlot (p : Fin 6)
  | flitReceive (p : Fin 6) (flit : BitVec 2048)
  | nakReplay (p : Fin 6)
  | packetOriginate (p : Fin 6)
  | reduce (p : Fin 6)
  | adderOperandReady (p : Fin 6)
  | spread (p : Fin 6)
  | halo (p : Fin 6)
  | corkPacket (p : Fin 6)
  | corkPhaseStart (jid : U64)
  | linkDown (p : Fin 6)
  | portTrained (p : Fin 6) (roundTripPs : Nat) (polarity : Byte)
  | laneLockLoss (p : Fin 6)
  | noHeaderTimeout (p : Fin 6)
  | scrubWindow (errs : List ScrubErr)
  | gddr7Read (by_ : Stream) (a : BitVec 45) (err : EccErr)
  | gddr7Write (by_ : Stream) (a : BitVec 45) (data : List Byte) (err : EccErr)
  | eccCorrected (dev : Fin 48)
  | cxlCompletion (c : Fin 4) (id : Nat) (poison : Bool) (ns : Nat)
  | hdmCommit (f : Func) (c : Fin 4) (k : Fin 4) (v : U64) (devOk : Bool)
  | cxlPortDown (c : Fin 4) (cause : Fin 7)
  | cxlPortUp (c : Fin 4) (full : Bool) (devices : BitVec 4) (prsnt : Bool := true)
  | translationWalk (by_ : Stream) (ctx : Fin 32) (dva : BitVec 57) (write : Bool)
  | invalidate (f : Func) (v : U64)
  | invalidateDone (ctx : Fin 32)
  | atsInvalidation (port : Fin 2) (lo hi : Nat)
  | pageResponse (ctx : Fin 32) (fid : U32) (success : Bool)
  | retry (f : Func) (fid : U32)
  | abortFault (f : Func) (fid : U32)
  | pinEnable (f : Func) (pin : Fin 64) (v : U64)
  | pinComplete (ctx : Fin 32) (pin : Fin 64)
  | pinDisable (f : Func) (pin : Fin 64)
  | doorbellPoll
  | doorbellInvalidate (ctx : Fin 32)
  | doorbellLine (ctx : Fin 32) (line : BitVec 512)
  | descriptorFetch (ctx : Fin 32) (ds : List Fetched)
  | run
  | resume
  | preempt
  | abort
  | jobStart (jid : U64)
  | lentJobStart (jid : U64)
  | park (jid : U64)
  | reservationEnd (jid : U64)
  | jobEnd (jid : U64)
  | contextEnable (f : Func)
  | contextDisable (f : Func)
  | portLinkTimeout (port : Fin 2)
  | handover (f : Func) (port : Fin 2)
  | snap (f : Func)
  | clear (f : Func)
  | traceDrain (die : Fin 32)
  | traceDrop (die : Fin 32)
  | softTrig (f : Func)
  | trigger (ctx : Fin 32)
  | hang (jid : U64)
  | dumpRequest (f : Func) (scope : Bool)
  | stringDump
  | dumpRestart
  | resourceClaim (f : Func) (r : Claimed) (want : Bool)
  | trigEdge (lowNs sinceNs : Nat)
  | powerOn (vin ms : Nat)
  | boot (slotA slotB micro train : Option Image) (failedDev : Option (Fin 48))
  | overvoltageTrip (vin : Nat)
  | presBreak
  | shedEntry
  | shedRecovery
  | forceLevel (f : Func) (v : U64)
  | quiesce (f : Func) (die : Fin 32)
  | fence (f : Func) (die : Fin 32)
  | dieFenced (die : Fin 32)
  | reset (f : Func) (die : Fin 32)
  | rejoin (f : Func) (die : Fin 32)
  | modRst (low : Bool)
  | warmReset
  | watchdogExpiry
  | perst (port : Fin 2)
  | functionLevelReset (f : Func)
  | fwStage (f : Func) (img : Image)
  | fwSelect (f : Func)
  | fwActivateDie (f : Func) (die : Fin 32)
  | advanceSvn (f : Func) (ty : Byte)
  | debugChallenge (f : Func)
  | debugUnlock (f : Func) (token : BitVec 8192)
  | moduleReset (f : Func)
  | getVersion (port : Fin 2)
  | getCapabilities (port : Fin 2)
  | negotiateAlgorithms (port : Fin 2)
  | getDigests (port : Fin 2)
  | getCertificate (port : Fin 2) (slot : Byte)
  | challenge (port : Fin 2) (slot : Byte) (nonce : BitVec 256)
  | getMeasurements (port : Fin 2) (nonce : BitVec 256)
  | smbPwrStatus
  | smbPwrTherm
  | smbSecBoot
  | smbGtNow
  | smbCoolant
  | smbHpStatus
  | smbSerial
  | smbNack (why : NackCause)
  | nlEnable (f : Func) (p : Fin 6)
  | nlDisable (f : Func) (p : Fin 6)
  | retrain (f : Func) (p : Fin 6)
  | nlTorusWrite (f : Func) (p : Fin 6) (v : U64)
  | unsupportedRequest (f : Func) (addr size : Nat)
  | deniedAccess (f : Func) (addr : Nat) (write : Bool)
  | registerWrite (f : Func) (addr : Nat) (half : Bool) (v : U64)
  | hostLinkDown (port : Fin 2)
  | hostLinkUp (port : Fin 2) (cxl full : Bool)
  | vinRemoved
  | cblPres (p : Fin 6) (low : Bool)
  | atsTranslationCompletion (port : Fin 2) (page : Nat) (present write : Bool) (ctx : Fin 32 := 0) (order : Fin 41 := 0)
  | fruEepromWrite (addr : Nat) (data : List Byte)
deriving DecidableEq, Repr

end Sys2Proof
end

