-- ==== Sys2Proof/Config.lean ====
section
/-! DEFINITION. The free values of the model: constants without a body, standing for what the manual leaves open.
No proof can see what they are, so a statement about them holds for every value. -/

namespace Sys2Proof.Config

/-- Value of an elementary vector function (code: 0 EXP2, 1 LOG2, 2 RCP, 3 RSQRT, 4 TANH, 5 SIN, 6 COS) where
R227 and R143 give only a bound; a fixed function of the input (R227). -/
opaque elemValue : Nat → BitVec 32 → BitVec 32

/-- SHA-512 of a byte string (R78, R459, R487): named by the manual, defined outside it. -/
opaque sha512 : List (BitVec 8) → BitVec 512

/-- RSASSA-PSS verification under boot-ROM key `k` of a message and signature (R487, R491). -/
opaque rsaVerify : Nat → BitVec 4096 → BitVec 4096 → Bool

/-- The signature the identity key gives a transcript digest (R490). -/
opaque rsaSign : BitVec 512 → BitVec 4096

/-- Whether an error of three or more symbols is detected (R372): of the burst as stored and the error pattern in it. -/
opaque eccDetects : BitVec 512 → BitVec 512 → Bool

/-- The byte a miscorrection delivers and writes back (R372): of the burst as stored, the error pattern, its place in the burst. -/
opaque eccByte : BitVec 512 → BitVec 512 → Nat → BitVec 8

/-- What a read of host memory returns (the host may change it at any time): counter, GT, reader, key. -/
opaque hostByte : Nat → Nat → Nat → Nat → BitVec 8

/-- Whether a lookup before DONE still uses the old cached entry (R388): counter, GT, address. -/
opaque staleLookup : Nat → Nat → Nat → Bool

/-- The effect an outstanding CXL write has on the device when its port goes down (R383). -/
opaque cxlLostByte : Nat → Nat → BitVec 8

/-- A byte the module has written whose value the manual does not lay out (the inside of a save image, a dump segment, a recording),
or that lost its value with the power: number of the write, address. -/
opaque veiledByte : Nat → Nat → BitVec 8

/-- Where FLAGS stands in a unit's 512-byte entry of a dump segment, whose layout is internal (R457). -/
opaque dumpFlagsAt : Nat

/-- A debug challenge nonce (R491): "fresh". -/
opaque nonce : Nat → BitVec 256

/-- A value the manual states nowhere for a register or field the module fills itself, numbered by the counter. -/
opaque freeWord : Nat → BitVec 64

/-- Words a counter of the fabric holds, or energy one of the meter: when the counting began, transfers and accesses that may have crossed, or cycles passed, and the register offset (R441). -/
opaque freeCount : Nat → Nat → Nat → BitVec 64

/-- FORMAT of a recording's header (R458), whose value the manual does not state. -/
opaque recordFormat : BitVec 32

/-- Identity values burnt in at manufacture (R515, R526): stepping, ROM version, serial number. -/
opaque stepping : BitVec 8
opaque romVersion : BitVec 32
opaque serial : BitVec 64
/-- CERT_DIGEST and MFG_DATE of the FRU identity block (R515). -/
opaque certDigest : BitVec 512
opaque mfgDate : BitVec 32

end Sys2Proof.Config
end

