-- ==== Sys2Proof/Machine/State.lean ====
section
/-! DEFINITION. The state of the block: every register, queue, buffer, counter, mode and pin the manual gives it, as plain
data, with its value at reset. Tables indexed by a number are lists in one canonical form (Machine/Table.lean). -/

namespace Sys2Proof.Machine

/-- Why the machine stops. -/
inductive Fault where
  /-- Raised by an input voltage above 100 V, for which R470 states only that damage is possible. Safe: no effect is claimed. -/
  | absoluteMaximum
deriving DecidableEq, Repr

/-- Why a command has no meaning. -/
inductive Refusal where
  /-- Raised by no meaning of this model; the mark of a command not modelled yet. Safe. -/
  | notModelled (mnemonic : String)
deriving DecidableEq, Repr

/-- A table: entries by rising number, none equal to the table's default. -/
abbrev Tab (α : Type) := List (Nat × α)

/-- A value: NaN (signalling or not), an infinity, or ± m × 2^e; a zero keeps its sign (R116). -/
inductive Val where
  | nan (sig : Bool)
  | inf (neg : Bool)
  | fin (neg : Bool) (m : Nat) (e : Int)
deriving DecidableEq, Repr

/-- A running exact sum: the integer in units of 2^-298, and what special values it met (R240). -/
structure Exact where
  i : Int
  nan : Bool
  pinf : Bool
  ninf : Bool
  allNegZero : Bool
  count : Nat
deriving DecidableEq, Repr

/-- An open result of the reduction engine (R243): its index, the sum, positions seen, a signalling NaN met, a NaN left out, and the best
values with their indices. -/
structure RxeAcc where
  key : List Int
  ex : Exact
  sq : Exact
  seen : Nat
  flags : U16
  nans : Bool
  top : List (Val × Nat)
deriving DecidableEq, Repr

/-- The time state (R89). -/
inductive TState where
  | free | acquiring | locked | holdover
deriving DecidableEq, Repr

/-- Global time and the time block (R81 to R95). -/
structure TimeSt where
  beat : Nat
  phase : Nat
  role : BitVec 2
  upstream : BitVec 3
  downMask : BitVec 6
  ctrlNext : Option U64
  st : TState
  hops : BitVec 6
  rootId : BitVec 15
  lossCount : Nat
  badWords : Nat
  beatSet : Option Nat
  localSet : Option Nat
  lockDelta : Option Int
  margin : BitVec 8
  holdBeats : BitVec 11
  silent : Nat
  held : Nat
  seen : Bool
  agree : Nat
  acqAt : Option Nat
  lastRoot : Option (BitVec 15)
deriving DecidableEq, Repr

/-- A token of a queue (R49): header and 56 payload bytes as one word. -/
structure Token where
  hdr : U64
  pay : BitVec 448
deriving DecidableEq, Repr

/-- A queue (R53 to R58): QCFG, the ring's consumer side, the producer's push count, and the credits that travel back. -/
structure QueueSt where
  cfg : U64
  toks : List Token
  head : Nat
  tail : Nat
  seq : Nat
  credBack : Nat
deriving DecidableEq, Repr

/-- A token on a token channel (R57): its queue, the cycle in which it became ready, the token. -/
structure Flying where
  q : Nat
  ready : Nat
  tok : Token
deriving DecidableEq, Repr

/-- A sync object (R62), with its REARM mark and declared initial value (R266). -/
structure SyncObj where
  value : U64
  ty : BitVec 2
  armed : Bool
  ctx : BitVec 5
  signed : Bool
  bound : BitVec 48
  rearm : Option (BitVec 12)
  initial : U64
deriving DecidableEq, Repr

/-- A WAIT_GE watch of a unit (R67): object, value, and whether it is satisfied and its notification travels. -/
structure Watch where
  sid : U16
  value : U64
  hit : Bool
deriving DecidableEq, Repr

/-- The reply of a sync operation on its way to a unit (R66): object, value, and what asked (0 operation, 1 bound word n,
2 claim). -/
structure SyncReply where
  sid : U16
  value : U64
  kind : Nat
  slot : Nat
deriving DecidableEq, Repr

/-- A bound word whose read is outstanding (R44): loop level 0-5, or 6 + n for extent n of the tdMaxb list. -/
structure BoundRead where
  slot : Nat
  word : U32
  maxb : U32
deriving DecidableEq, Repr

/-- The claim state of a unit (R263): next claim, end of the granted range, the reply in hand, BOUND reached. -/
structure ClaimSt where
  cur : Nat
  hi : Nat
  next : Option Nat
  inFlight : Bool
  ended : Bool
  started : Bool
deriving DecidableEq, Repr

/-- A wait state (R47) with its operand: OPND_ID and WAIT_OPERAND (R531). -/
structure WaitSt where
  code : BitVec 4
  opnd : U16
  word : U64
deriving DecidableEq, Repr

/-- A unit (R38 to R48, R69, R437, R531). `before` is the wait state in which a stop found it (R76); `gated` are the marks its command has passed, `passed` those its commands have since they
were loaded in period `period` (R540). -/
structure UnitSt where
  job : Option U64
  cmds : List Cmd
  idx : Nat
  started : Bool
  done : Bool
  endSent : Bool
  ctr : List U32
  bnd : List U32
  ext : List (Nat × U32)
  reads : List BoundRead
  wait : WaitSt
  before : WaitSt
  stopped : Bool
  gated : List (BitVec 12)
  passed : List (BitVec 12)
  period : Nat
  satisfied : List (U16 × U64)
  fired : List U32
  waitAt : Nat
  owed : List Nat
  sigOwed : Bool
  bankB : Bool
  inTok : List (Nat × Token)
  replies : List SyncReply
  claim : ClaimSt
  startGt : Nat
  effMap : List (Nat × List Byte)
  prog : Nat
  epoch : BitVec 4
  lastMark : BitVec 12
  flags : U16
  lanes : List U16
  boundClamps : U32
  markLate : BitVec 48
  drainLate : BitVec 48
  discards : BitVec 48
  ocredit : List (BitVec 13)
  bound : List U32
  bindPtr : List (BitVec 57)
  cnt : List (BitVec 48)
  snap : List (BitVec 48)
  liveTag : U32
  liveCtx : BitVec 5
  snapTag : U32
  snapCtx : BitVec 5
deriving DecidableEq, Repr

/-- A pending mark (R97): GT in cycles, job, and the compute dies whose DCUs hold it, each with the mask of the units it gates there. -/
structure MarkSt where
  gt : Nat
  jid : U64
  decl : MarkDecl
  period : Nat
  dies : List (Nat × U16)
deriving DecidableEq, Repr

/-- A pending reconfiguration (R70, R71): the cycle of its mark once it has passed, and what its flush has discarded. -/
structure RecfgSt where
  jid : U64
  rc : Reconf
  period : Nat
  passed : Nat
  switched : Bool
  units : List Nat
  tokens : Nat
deriving DecidableEq, Repr

/-- An LA576 accumulator (R123, R126). -/
structure LAcc where
  i : Int
  nan : Bool
  pinf : Bool
  ninf : Bool
  ovf : Bool
deriving DecidableEq, Repr

/-- A slot of the accumulator file in use (R175): its number 0 to 7, the 128-row group of the tile it holds, the accumulators of the
group's rows that have entered in the pass, and how many of them the write-back has stored or Decant has taken. -/
structure AccSlot where
  no : Nat
  group : Nat
  rows : List (List LAcc)
  out : Nat
deriving DecidableEq, Repr

/-- The tile a matrix engine computes (R175 to R178): coordinate, the pass and the row that enters next, the slots in use, oldest first,
whether its accumulators go to Decant (R197). -/
structure MxeTile where
  coord : Nat
  pass : Nat
  passes : Nat
  row : Nat
  file : List AccSlot
  emax : Option Int
  tag : BitVec 12
  home : Nat
  pass0 : Nat
  last : Bool
deriving DecidableEq, Repr

/-- One logical K position of the stationary block in one column: its value, read and cast. -/
structure BCell where
  k : Nat
  v : Val
deriving DecidableEq, Repr

/-- One column of the stationary block: the cells that form products, whether the column is unmasked, absent 32 × 32 blocks met, whether
any position is present, flags and clamps of its load. -/
structure BCol where
  cells : List BCell
  live : Bool
  absent : List Nat
  present : Bool
  flags : U16
  ooa : Nat
deriving DecidableEq, Repr

/-- A loaded stationary block (R165): of which command, tile and pass, its columns. -/
structure WBlock where
  tag : U32
  tile : List U32
  pass : Nat
  cols : List BCol
deriving DecidableEq, Repr

/-- A matrix engine beside its tile: the two buffers of its weight latch, the one the array computes against first (R166), the slot
assigned next (R175), whether the conflict it waits on has been counted (R196). -/
structure EngSt where
  cur : Option WBlock
  other : Option WBlock
  turn : Nat
  clash : Bool
deriving DecidableEq, Repr

/-- An accumulator directory entry (R194). -/
structure AccEntry where
  tensor : U32
  coord : Nat
  opId : U16
  holder : Nat
  shared : Bool
  psum : Nat
  next : Nat
  passNo : Nat
  held : Bool
deriving DecidableEq, Repr

/-- A lane: 32 bits and the VALID tag (R220, R221). -/
structure Lane where
  bits : U32
  valid : Bool
deriving DecidableEq, Repr

abbrev VReg := List Lane

/-- A vector engine's recipe position and tile (R222, R233): the row the execution begins at, instructions issued in it,
SR conversions met, whether the FTQ entry's credit has set out (R218). -/
structure VxSt where
  base : Nat
  pos : Nat
  srCount : Nat
  freed : Bool
deriving DecidableEq, Repr

/-- A row waiting at Decant (R204): tile row, lanes or accumulators' exact values, write mask. -/
structure DecRow where
  row : Nat
  lanes : List Lane
  accs : List LAcc
  mask : BitVec 256
  tag : BitVec 12
deriving DecidableEq, Repr

/-- An element that waits for the rest of its MX block: its index, value, random value, whether its write mask enables it, and its number
in the ring of an FTQ. -/
structure MxWait where
  idx : List Int
  val : Val
  rnd : Nat
  on : Bool
  ring : Option Nat
deriving DecidableEq, Repr

/-- Bits of a byte stored in a tile so far, with the index of the element that stored them (R160). -/
abbrev Wrote := List (Nat × Byte × List Int)

/-- Decant of a unit (R204 to R215): rows offered, rows stored, group states, stored byte range, the fused token, elements of MX blocks
that wait for the rest of their block, bits stored in the tile, elements flushed to zero (R319), whether
the tile holds its credits, whether it is a live Decant. -/
structure DecSt where
  rows : List DecRow
  stored : Nat
  groups : List (Nat × Bool × Nat)
  lo : Option Nat
  hi : Nat
  firstDva : Nat
  fuse : Option Token
  mx : List MxWait
  bytes : List Byte
  wrote : Wrote
  flushed : Nat
  paid : Bool
  live : Bool
  tag : BitVec 12
  ready : Bool
  drain : Option Token
  asked : List (BitVec 12)
deriving DecidableEq, Repr

/-- The GSE's unit state (R277): row or token position, overflow counts, FILL and DEMAND, the mask written so far; of the destination a
scatter works on, the message rows added and the accumulator; bits stored in the tile. -/
structure GseSt where
  row : Nat
  ovfBypass : Nat
  ovfDrop : Nat
  fill : List Nat
  demand : List Nat
  mask : List Bool
  edge : Nat
  last : Nat
  acc : Option (List Nat)
  wrote : Wrote
  unsent : Bool
deriving DecidableEq, Repr

/-- The phase of a job (R417, R430, R431, R456). -/
inductive JobPhase where
  | waiting | admitted | running | stopping | saving | preempted | parked | resuming | dumping | ended
deriving DecidableEq, Repr

/-- The outcome of a period (R282). -/
inductive PeriodOutcome where
  | none | commit | skip | repeat_ (reason : Nat)
deriving DecidableEq, Repr

/-- A layer of a training job (R291 to R293, R306, R310, R319). -/
structure LayerSt where
  c : Int
  cPrev : Int
  emax : Option Int
  sysEmax : Option Int
  gzero : Nat
  lost : Nat
  flushed : Nat
  nfZeroed : Nat
  quiet : Bool
  quietRun : Nat
  ng : Nat
  nw : Nat
  nd : Nat
  tr : U32
  done : Bool
deriving DecidableEq, Repr

/-- Blocks of a bucket delivered to this module (R345 to R351): phase dimension, all-gather or not, first block and number,
header of the packet. -/
structure Part where
  dim : Nat
  spread : Bool
  first : Nat
  n : Nat
  count : Nat
  nf : Bool
  sat : Bool
  nfMin : Nat
deriving DecidableEq, Repr

/-- A bucket (R351 to R357): delivered parts, the late decision, GXI in force, a late contribution not added yet, one added
in this period, contributions carried and the layers' carried scales then, contributions folded in this period. -/
structure BucketSt where
  parts : List Part
  late : Bool
  decided : Bool
  gxi : Bool
  owes : Bool
  added : Bool
  carry : Nat
  carryC : List Int
  fold : Nat
deriving DecidableEq, Repr

/-- A local operand in a contribution buffer (R348): port, bucket, phase dimension, first block, encoded elements by block,
included count, flags, NF_MIN_ID. -/
structure Operand where
  port : Nat
  bucket : Nat
  dim : Nat
  first : Nat
  blocks : List (List U32)
  count : Nat
  nf : Bool
  sat : Bool
  nfMin : Nat
deriving DecidableEq, Repr

/-- A packet on the links (R335): 32-byte header, block scales, body bytes, stamp of arrival (R338). -/
structure Packet where
  hdr : W256
  scales : List Byte
  data : List Byte
  stamp : Nat
deriving DecidableEq, Repr

/-- A Cork value (R358): COVER, UPDATE, DELIVERED, NF and the EMAX array. -/
structure CorkVal where
  cover : Nat
  update : Bool
  delivered : Bool
  nf : Bool
  emax : List (Option Int)
deriving DecidableEq, Repr

/-- The link dies' state of a job (R342, R348, R351, R359, R366). -/
structure ExchSt where
  per : Nat
  buckets : List BucketSt
  norm : BucketSt
  opnds : List Operand
  planPos : List Nat
  cork : Option CorkVal
  corkPhase : Nat
  corkPos : Option CorkVal
  corkNeg : Option CorkVal
  corkBad : Bool
  result : Option CorkVal
  linkDown : Bool
  skip : Bool
  gathered : Bool
  own : Option CorkVal
  normLate : Bool
deriving DecidableEq, Repr

/-- Where an update engine stands in a layer (R311, R312): its row, the place among the row's kept elements, the working copy's bytes
of the row so far (R460), and the row's sum with its elements. -/
structure UpePos where
  upe : Nat
  row : Nat
  slot : Nat
  bytes : List Byte
  sum : Exact
  kept : Nat
deriving DecidableEq, Repr

/-- Pass 2 within a layer (R304, R306, R311): where each update engine stands, the row sums that are whole and the column sums, each with
its elements, and the counts. -/
structure P2 where
  pos : List UpePos
  rows : List (Exact × Nat)
  cols : List (Exact × Nat)
  gzero : Nat
  lost : Nat
  nf : Nat
  kept : Nat
deriving DecidableEq, Repr

/-- A sample or query that entered a job (R100, R285, R321, R356). -/
structure Ingest where
  stamp : Nat
  query : Bool
  dva : Nat
  data : List Byte
  window : Nat
  late : Bool
  bank : Bool
deriving DecidableEq, Repr

/-- A job (R415 to R435, R281 to R283). -/
structure Job where
  jid : U64
  ctx : Fin 32
  cls : BitVec 2
  desc : BitVec 512
  bin : Binary
  phase : JobPhase
  base : Nat
  endBeat : Nat
  lent : Bool
  widened : Bool
  isExact : Bool
  reasons : BitVec 8
  flags : U16
  period : Nat
  s : Nat
  commits : Nat
  gstep : U64
  active : Bool
  outcome : PeriodOutcome
  layers : List LayerSt
  gnorm : U32
  clips : List U32
  lrs : List (Nat × List U32)
  p2 : Option P2
  pass1 : Bool
  norms : Bool
  updated : Bool
  x : ExchSt
  ingest : List Ingest
  windowOpen : Bool
  window : Nat
  lateContrib : Nat
  carryLost : Nat
  lateSamples : Nat
  carriedSamples : Nat
  droppedSamples : Nat
  emptySlots : List Nat
  adderHold : List Nat
  silentBeats : Nat
  progress : Bool
  hung : Bool
  saveDva : Nat
  saveAt : Nat
  rejoin : Nat
  cause : Nat
  pendAbort : Option Nat
  faulted : Bool
  traced : Bool
  recorded : Bool
  strobed : Bool
deriving DecidableEq, Repr

/-- A save image (R75 to R79): what the Marionette chain saved of a job. -/
structure SaveImg where
  jid : U64
  ctx : Fin 32
  dva : Nat
  pa : Nat
  digest : BitVec 512
  units : List (Nat × UnitSt)
  queues : List (Nat × QueueSt)
  syncs : List (Nat × SyncObj)
  watches : List (Nat × Watch)
  scratch : List Host.Cell
  mxe : List (Nat × Option MxeTile)
  dir : List (Nat × List AccEntry)
  dec : List (Nat × DecSt)
  vregs : List (Nat × VReg)
  vmask : List (Nat × BitVec 256)
  vx : List (Nat × VxSt)
  recipe : List (Nat × List U32)
  gse : List (Nat × GseSt)
  rxe : List (Nat × List RxeAcc)
  marks : List MarkSt
  recfgs : List RecfgSt
  faults : List (Nat × Nat × Bool)
  saveGt : Nat
deriving DecidableEq, Repr

/-- An outstanding translation fault (R396 to R399). -/
structure FaultSt where
  fid : U32
  ctx : Fin 32
  jid : U64
  stream : Nat
  joined : List Nat
  dva : Nat
  write : Bool
  cause : Nat
  pri : Bool
deriving DecidableEq, Repr

/-- A cached or locked translation (R388): the die whose translation unit caches it, ASID, page base, size, target, output base,
permissions, and for a locked one, which every unit holds, its context, its PIN entry and the host translations it takes (R391). -/
structure TlbEntry where
  die : Nat
  asid : Nat
  lo : Nat
  size : Nat
  tgt : Nat
  out : Nat
  w : Bool
  ctx : Nat
  pin : Nat
  grants : Nat
deriving DecidableEq, Repr

/-- A host translation (R390): port, the context that asked, first 4 KiB page and the order of its size as granted, answered yet, present,
write permission, and whether a pin that goes on asked for it. -/
structure AtsEntry where
  port : Nat
  ctx : Nat
  page : Nat
  order : Nat
  known : Bool
  present : Bool
  w : Bool
  forPin : Bool
deriving DecidableEq, Repr

/-- A PIN entry (R391); `gone` after EN was cleared over a pinned range (R394). -/
structure PinEnt where
  en : Bool
  w : Bool
  base : Nat
  limit : Nat
  st : Nat
  cause : Nat
  gone : Bool
deriving DecidableEq, Repr

/-- A ring (R409, R411): its register, the module's index, software's index, records waiting. -/
structure Ring where
  reg : U64
  tail : Nat
  head : Nat
  wait : List W256
  wrote : Bool
deriving DecidableEq, Repr

/-- A context block (R387, R391, R409, R443, R528). -/
structure CtxSt where
  en : Bool
  dbErr : Bool
  evtDrops : Nat
  stepDrops : Nat
  dropsSince : Nat
  sub : Ring
  cpl : Ring
  evt : Ring
  flt : Ring
  dbAddr : U64
  statusAddr : U64
  msix : U64
  lastSeq : Option Nat
  dbWatch : Bool
  statusDirty : Bool
  sentVec : List Nat
  cands : List (Fetched × Nat)
  fetchedBeat : Nat
  ttRoot : U64
  ttCtrl : U64
  invalBase : U64
  invalCtrl : U64
  invalBusy : Bool
  stale : Nat
  nextFid : Nat
  traceCfg : U64
  traceDies : U64
  traceRing : U64
  traceHead : U64
  hang : U64
  dumpDva : U64
  dumpCtrl : U64
  recArea : U64
  recSize : U64
  fullArea : U64
  replay : U64
  counters : List (BitVec 48)
  pins : Tab PinEnt
  trigAt : Option Nat
  trigSrc : Nat
  trigDone : Bool
deriving DecidableEq, Repr

/-- A host port (R406, R408). -/
structure HostPort where
  link : BitVec 2
  cxl : Bool
  full : Bool
  control : Bool
  denied : Nat
  share : BitVec 9
  horizon : U32
  handover : Bool
  downBeats : Nat
  fetched : Nat
deriving DecidableEq, Repr

/-- A flit's content below its header (R329), and the header of its packet. -/
structure FlitBody where
  ftype : BitVec 2
  vc : BitVec 2
  last : Bool
  body : BitVec 1920
  pk : W256
deriving DecidableEq, Repr

/-- A Nelil port (R327 to R338, R364, R535). -/
structure NlPort where
  en : Bool
  cable : Bool
  st : BitVec 2
  cause : BitVec 3
  polarity : Byte
  delay : Nat
  delayNext : Option Nat
  echo : Bool
  tx : List (List FlitBody)
  cred : List Nat
  txSeq : Nat
  replay : List (Nat × FlitBody)
  resend : List (Nat × FlitBody)
  rxNext : Nat
  rxGap : Bool
  ack : Bool
  nak : Bool
  nakIn : Bool
  nakFrom : Nat
  nakRun : Nat
  nakSeq : Nat
  silentSlots : Nat
  part : List (List FlitBody)
  pkts : List Packet
  held : Option Packet
  since : Nat
  freed : List Nat
  twDue : Bool
  ctrlTx : List (BitVec 2 × U16)
  ctrlRx : List (BitVec 2 × U16)
  lastTx : BitVec 2048
deriving DecidableEq, Repr

/-- A GDDR7 device (R370 to R377, R534). -/
structure DevSt where
  trained : Bool
  devFault : Bool
  selfRefresh : Bool
  passes : U32
  nextBlock : BitVec 21
  lastScrub : Option Nat
  poisonAddr : BitVec 45
  poisonValid : Bool
  since : Nat
  lastAddr : BitVec 45
  lastSym : Nat
  hard : Bool
  lastEvent : Option Nat
  hist : List (Nat × Nat × Nat × Nat)
  rewritten : List Nat
deriving DecidableEq, Repr

/-- A CXL read or write outstanding at a port (R381): number, stream, address, write, bytes, done with poison or not. -/
structure CxlReq where
  id : Nat
  stream : Nat
  addr : Nat
  write : Bool
  bytes : List Byte
  done : Option Bool
deriving DecidableEq, Repr

/-- An HDM decoder (R380, R383). -/
structure Hdm where
  base : Nat
  size : Nat
  ways : BitVec 2
  pos : BitVec 2
  commit : Bool
  committed : Bool
  err : BitVec 3
deriving DecidableEq, Repr

/-- A CXL root port (R378 to R383). -/
structure CxlPort where
  link : BitVec 2
  prsnt : Bool
  perst : Bool
  full : Bool
  devices : BitVec 4
  en : Bool
  prefetch : Bool
  latMax : U16
  lateCpl : U32
  hdm : List Hdm
  reqs : List CxlReq
  nextId : Nat
  ra : List Nat
  lastGran : Tab Nat
deriving DecidableEq, Repr

/-- A die's trace state (R444 to R452) with the records its drain has not written yet. -/
structure TraceSt where
  recs : List W256
  frozen : Bool
  triggered : Bool
  shed : Bool
  ctx : BitVec 5
  drops : U32
  missed : Nat
  gap : Nat
  sinceEvent : Nat
  lastEvent : Option Nat
  postLeft : Option Nat
  jid : Option U64
deriving DecidableEq, Repr

/-- An entry of a recording (R459): kind, step, GT, content words, full data. -/
structure RecEntry where
  kind : Nat
  s : Nat
  gt : Nat
  words : List Nat
  data : List Byte
deriving DecidableEq, Repr

/-- A recording or a replay of a job (R458 to R466). `div` holds TENSOR_ID, TILE, EXPECTED and GOT of the first divergence; `shown`
are the bytes of entries and of full data written to the areas so far; `closed` says that the header there is final. -/
structure RecSt where
  jid : U64
  ctx : Nat
  area : Nat
  cap : Nat
  fullCap : Nat
  full : Bool
  state : Nat
  entries : List RecEntry
  bytes : Nat
  fullBytes : Nat
  truncS : Nat
  fullEndS : Nat
  binDigest : BitVec 512
  replayOf : Option U64
  status : Nat
  kind : Nat
  divUnit : Nat
  firstS : Nat
  pi : Nat
  diverged : Nat
  div : List Nat
  shown : Nat × Nat
  closed : Bool
deriving DecidableEq, Repr

/-- A String Dump (R455 to R457): context, scope, jobs, boundary, cause. -/
structure DumpSt where
  ctx : Fin 32
  scope : Bool
  hang : Bool
  at_ : Nat
  jobs : List U64
  taken : Bool
  units : List (Nat × WaitSt)
deriving DecidableEq, Repr

/-- A claim of a shared resource since the last boundary (R468): context, resource, claimed or given up, cycle and port of the write. -/
structure ClaimReq where
  ctx : Nat
  what : Claimed
  want : Bool
  gt : Nat
  port : Nat
deriving DecidableEq, Repr

/-- Observation: global counters (R441), traces, dumps, recordings, resource owners (R467, R469). -/
structure ObsSt where
  cnt : Tab (BitVec 48)
  snap : Tab (BitVec 48)
  status : U64
  snapReq : Bool
  clearReq : Bool
  trace : Tab TraceSt
  dumps : List DumpSt
  recs : List RecSt
  trigOwner : BitVec 3
  trigCtx : BitVec 5
  sramOwner : BitVec 3
  sramCtx : BitVec 5
  recCtx : BitVec 5
  split : Bool
  resReq : Tab Bool
  claims : List ClaimReq
deriving DecidableEq, Repr

/-- Words on the memory channels (R15, R441): transfers the commands made, by the counters of the edges they crossed; memory accesses by
the die they came from; `fresh` and GT as the counting began, and the GT it ran to. -/
structure Traffic where
  words : Tab Nat
  loads : Tab Nat
  base : Nat
  since : Nat
  upto : Nat
deriving DecidableEq, Repr

/-- The package fabric's counters: live, and as the last snapshot took them (R442). -/
structure FabricSt where
  live : Traffic
  snap : Traffic
deriving DecidableEq, Repr

/-- The state of a die under DIE_CTRL (R480 to R484): commands written since the last boundary, the beat of its FENCE, whether
DIE_FENCED has been posted, whether the shed ladder holds it, whether its next RESET loads the staged image. -/
structure DieSt where
  st : BitVec 3
  err : BitVec 3
  epoch : U16
  fwVer : U32
  fwDigest : BitVec 512
  cmds : List (BitVec 3)
  since : Nat
  posted : Bool
  ladder : Bool
  staged : Bool
  fwOk : Bool
deriving DecidableEq, Repr

/-- Supply and shedding (R470 to R480): the input switch opened on overvoltage; the two levels and the floor; the effective level
as of the last boundary (`level`) and the highest level whose entry actions have begun (`eff`); those actions still open;
consecutive beats beyond each entry threshold and at or beyond the exit threshold; a recovery step taken at this boundary. -/
structure PowerSt where
  on : Bool
  vin : Nat
  iin : Nat
  tripped : Bool
  temps : List Nat
  supply : Nat
  thermal : Nat
  force : Nat
  level : Nat
  eff : Nat
  acting : Bool
  stepped : Bool
  supIn : List Nat
  supOut : Nat
  thIn : List Nat
  thOut : Nat
  coolIn : Nat
  coolOut : Nat
deriving DecidableEq, Repr

/-- Boot, security mailbox, attestation (R486 to R494). -/
structure SecSt where
  stage : BitVec 4
  ready : Bool
  slot : Bool
  recovery : Bool
  wdog : Bool
  err : Byte
  dev : BitVec 6
  addr : U64
  len : U32
  status : BitVec 2
  code : Byte
  nonce : BitVec 256
  nonceLive : Bool
  scope : BitVec 2
  svn : List Nat
  revoked : BitVec 4
  mgmtVersion : U32
  mgmtSvn : Byte
  microVersion : U32
  microDigest : BitVec 512
  runSvn : List Nat
  flash : List (Option Image)
  preferred : Bool
  stagedDie : Option Image
  meas : List (BitVec 512)
  resetAt : Option Nat
deriving DecidableEq, Repr

/-- Sideband pins (R504 to R518). -/
structure PinSt where
  modRst : Bool
  trigLast : Option Nat
  alert : Bool
  beatMon : Nat
  fru : Tab Byte
  fruWp : Bool
  pres : Bool
  strobes : Nat
  smb : List Byte
deriving DecidableEq, Repr

/-- The answer the module gave last to a requester outside it. -/
inductive Answer where
  | none
  | value (v : U64)
  | unsupported
  | nack
  | bytes (b : List Byte)
  | spdm (code : Nat) (slot : Nat) (digests : List (BitVec 512)) (sig : Option (BitVec 4096))
deriving DecidableEq, Repr

/-- The whole block. `veiled` are ranges of device memory (first, end, number) whose bytes the manual does not give. -/
structure State where
  pending : List Instr
  time : TimeSt
  mem : List Host.Cell
  host : List Host.Cell
  veiled : List (Nat × Nat × Nat)
  units : Tab UnitSt
  queues : Tab QueueSt
  chans : Tab (List Flying)
  syncs : Tab SyncObj
  watches : Tab (Option Watch)
  marks : List MarkSt
  recfgs : List RecfgSt
  mxe : Tab (Option MxeTile)
  eng : Tab EngSt
  accDir : Tab (List AccEntry)
  vregs : Tab VReg
  vmask : Tab (BitVec 256)
  vx : Tab VxSt
  recipes : Tab (List U32)
  dec : Tab DecSt
  gse : Tab GseSt
  rxe : Tab (List RxeAcc)
  jobs : List Job
  saves : List SaveImg
  ports : Tab NlPort
  torus : U64
  devs : Tab DevSt
  poison : Tab Bool
  cxl : Tab CxlPort
  tlb : List TlbEntry
  locked : List TlbEntry
  ats : List AtsEntry
  faults : List FaultSt
  ctxs : Tab CtxSt
  hp : Tab HostPort
  obs : ObsSt
  fabric : FabricSt
  pwr : PowerSt
  dies : Tab DieSt
  sec : SecSt
  pins : PinSt
  answer : Answer
  fresh : Nat
deriving DecidableEq, Repr

/-! ### Reset values -/

def TimeSt.reset : TimeSt :=
  { beat := 0, phase := 0, role := 0, upstream := 0, downMask := 0, ctrlNext := none, st := .free, hops := 0, rootId := 0,
    lossCount := 0, badWords := 0, beatSet := none, localSet := none, lockDelta := none,
    margin := 32, holdBeats := 256, silent := 0, held := 0, seen := false, agree := 0, acqAt := none, lastRoot := none }

def QueueSt.reset : QueueSt := { cfg := 0, toks := [], head := 0, tail := 0, seq := 0, credBack := 0 }

def SyncObj.reset : SyncObj :=
  { value := 0, ty := 0, armed := false, ctx := 0, signed := false, bound := 0, rearm := none, initial := 0 }

def WaitSt.idle : WaitSt := { code := 0, opnd := 0, word := 0 }

def ClaimSt.idle : ClaimSt := { cur := 0, hi := 0, next := none, inFlight := false, ended := false, started := false }

def UnitSt.reset : UnitSt :=
  { job := none, cmds := [], idx := 0, started := false, done := false, endSent := false, ctr := List.replicate 6 0,
    bnd := List.replicate 6 1, ext := [], reads := [], wait := .idle, before := .idle,
    stopped := false, gated := [], passed := [], period := 0, satisfied := [], fired := List.replicate 6 0, waitAt := 0,
    owed := [], sigOwed := false, bankB := false, inTok := [],
    replies := [], claim := .idle, startGt := 0, effMap := [], prog := 0, epoch := 0, lastMark := 0, flags := 0, lanes := [], boundClamps := 0,
    markLate := 0, drainLate := 0, discards := 0, ocredit := List.replicate 9 0, bound := List.replicate 16 0,
    bindPtr := List.replicate 16 0, cnt := List.replicate 8 0, snap := List.replicate 8 0, liveTag := 0, liveCtx := 0,
    snapTag := 0, snapCtx := 0 }

/-- V0 to V53 at job start: 0, VALID 1 (R220). -/
def VReg.reset : VReg := List.replicate 256 { bits := 0, valid := true }

/-- M0 to M7 at job start: all ones (R220). -/
def vmaskReset : BitVec 256 := BitVec.allOnes 256

def VxSt.reset : VxSt := { base := 0, pos := 0, srCount := 0, freed := false }

def EngSt.reset : EngSt := { cur := none, other := none, turn := 0, clash := false }

def DecSt.reset : DecSt :=
  { rows := [], stored := 0, groups := [], lo := none, hi := 0, firstDva := 0, fuse := none, mx := [], bytes := [], wrote := [], flushed := 0, paid := false, live := false, tag := 0, ready := false, drain := none, asked := [] }

def GseSt.reset : GseSt := { row := 0, ovfBypass := 0, ovfDrop := 0, fill := [], demand := [], mask := [], edge := 0, last := 0, acc := none, wrote := [], unsent := false }

def LAcc.zero : LAcc := { i := 0, nan := false, pinf := false, ninf := false, ovf := false }

def BucketSt.fresh : BucketSt :=
  { parts := [], late := false, decided := false, gxi := false, owes := false, added := false, carry := 0, carryC := [], fold := 0 }

def ExchSt.empty : ExchSt :=
  { per := 0, buckets := [], norm := .fresh, opnds := [], planPos := List.replicate 12 0, cork := none, corkPhase := 0,
    corkPos := none, corkNeg := none, corkBad := false, result := none, linkDown := false, skip := false, gathered := false,
    own := none, normLate := false }

def PinEnt.reset : PinEnt := { en := false, w := false, base := 0, limit := 0, st := 0, cause := 0, gone := false }

def Ring.reset : Ring := { reg := 0, tail := 0, head := 0, wait := [], wrote := false }

/-- A context block at reset. TT_CTRL.ASID resets to the context number (R387), so the default carries 0 there and the
block of context n holds `CtxSt.resetAt n`. -/
def CtxSt.resetAt (n : Nat) : CtxSt :=
  { en := false, dbErr := false, evtDrops := 0, stepDrops := 0, dropsSince := 0, sub := .reset, cpl := .reset, evt := .reset,
    flt := .reset, dbAddr := 0, statusAddr := 0, msix := 0, lastSeq := none, dbWatch := false, statusDirty := false,
    sentVec := List.replicate 4 0, cands := [], fetchedBeat := 0, ttRoot := 0, ttCtrl := BitVec.ofNat 64 (n % 32 * 16),
    invalBase := 0, invalCtrl := 4, invalBusy := false, stale := 0, nextFid := 1, traceCfg := BitVec.ofNat 64 (0x7F * 256 + 4096 * 2 ^ 32),
    traceDies := 0, traceRing := 0, traceHead := 0, hang := 20, dumpDva := 0, dumpCtrl := 0, recArea := 0, recSize := 0,
    fullArea := 0, replay := 0, counters := List.replicate 11 0, pins := [], trigAt := none, trigSrc := 0, trigDone := false }

/-- A host port at reset: port A (0) holds control (R406, R408). -/
def HostPort.resetAt (p : Nat) : HostPort :=
  { link := 0, cxl := false, full := false, control := p == 0, denied := 0, share := 256, horizon := 16777216,
    handover := false, downBeats := 0, fetched := 0 }

def NlPort.reset : NlPort :=
  { en := false, cable := false, st := 0, cause := 0, polarity := 0, delay := 0, delayNext := none, echo := false,
    tx := [[], [], []], cred := [1024, 384, 64], txSeq := 0, replay := [], resend := [], rxNext := 0, rxGap := false,
    ack := false, nak := false, nakIn := false, nakFrom := 0, nakRun := 0, nakSeq := 0, silentSlots := 0, part := [[], [], []], pkts := [],
    held := none, since := 0, freed := [0, 0, 0], twDue := false, ctrlTx := [], ctrlRx := [], lastTx := 0 }

def DevSt.reset : DevSt :=
  { trained := false, devFault := false, selfRefresh := false, passes := 0, nextBlock := 0, lastScrub := none, poisonAddr := 0,
    poisonValid := false, since := 0, lastAddr := 0, lastSym := 0, hard := false, lastEvent := none, hist := [], rewritten := [] }

def Hdm.reset : Hdm := { base := 0, size := 0, ways := 0, pos := 0, commit := false, committed := false, err := 0 }

def CxlPort.reset : CxlPort :=
  { link := 0, prsnt := false, perst := true, full := false, devices := 0, en := false, prefetch := true, latMax := 0, lateCpl := 0,
    hdm := List.replicate 4 .reset, reqs := [], nextId := 0, ra := [], lastGran := [] }

def TraceSt.reset : TraceSt :=
  { recs := [], frozen := false, triggered := false, shed := false, ctx := 0, drops := 0, missed := 0, gap := 0,
    sinceEvent := 0, lastEvent := none, postLeft := none, jid := none }

def ObsSt.reset : ObsSt :=
  { cnt := [], snap := [], status := 0, snapReq := false, clearReq := false, trace := [], dumps := [], recs := [],
    trigOwner := 0, trigCtx := 0, sramOwner := 0, sramCtx := 0, recCtx := 0, split := false, resReq := [], claims := [] }

def Traffic.reset : Traffic := { words := [], loads := [], base := 0, since := 0, upto := 0 }

def FabricSt.reset : FabricSt := { live := .reset, snap := .reset }

def DieSt.reset : DieSt :=
  { st := 0, err := 0, epoch := 0, fwVer := 0, fwDigest := 0, cmds := [], since := 0, posted := false, ladder := false, staged := false, fwOk := false }

def PowerSt.reset : PowerSt :=
  { on := true, vin := 0, iin := 0, tripped := false, temps := List.replicate 32 0, supply := 0, thermal := 0, force := 0,
    level := 0, eff := 0, acting := false, stepped := false, supIn := List.replicate 5 0, supOut := 0, thIn := List.replicate 5 0, thOut := 0,
    coolIn := 0, coolOut := 0 }

def SecSt.reset : SecSt :=
  { stage := 0, ready := false, slot := false, recovery := false, wdog := false, err := 0, dev := 0, addr := 0, len := 0,
    status := 0, code := 0, nonce := 0, nonceLive := false, scope := 0, svn := [0, 0, 0], revoked := 0, mgmtVersion := 0,
    mgmtSvn := 0, microVersion := 0, microDigest := 0, runSvn := [0, 0, 0], flash := [none, none], preferred := false, stagedDie := none,
    meas := List.replicate 6 0, resetAt := none }

def PinSt.reset : PinSt :=
  { modRst := false, trigLast := none, alert := false, beatMon := 0, fru := [], fruWp := false, pres := true, strobes := 0,
    smb := [] }

/-- The machine right after module reset: every field at the value of its field map, nothing listed in memory. -/
def State.reset : State :=
  { pending := [], time := .reset, mem := [], host := [], veiled := [], units := [], queues := [], chans := [], syncs := [], watches := [],
    marks := [], recfgs := [], mxe := [], eng := [], accDir := [], vregs := [], vmask := [], vx := [], recipes := [], dec := [], gse := [], rxe := [],
    jobs := [], saves := [], ports := [], torus := 0, devs := [], poison := [], cxl := [], tlb := [], locked := [], ats := [],
    faults := [], ctxs := [], hp := [], obs := .reset, fabric := .reset, pwr := .reset, dies := [], sec := .reset, pins := .reset,
    answer := .none, fresh := 0 }

end Sys2Proof.Machine
end

