-- ==== Sys2Proof/Machine/Table.lean ====
section
/-! DEFINITION. Tables in canonical form, bit fields, byte strings: the plain operations everything else uses. -/

namespace Sys2Proof.Machine

/-- The entry of a table at a number, or the default. -/
def tabGet {α : Type} (d : α) : Tab α → Nat → α
  | [], _ => d
  | (k, v) :: t, a => if a = k then v else tabGet d t a

/-- Write an entry: the table keeps rising numbers and lists nothing equal to the default. -/
def tabSet {α : Type} [DecidableEq α] (d : α) : Tab α → Nat → α → Tab α
  | [], a, v => if v = d then [] else [(a, v)]
  | (k, w) :: t, a, v =>
    if a = k then tabSet d t a v
    else if a < k ∧ v ≠ d then (a, v) :: (k, w) :: t
    else (k, w) :: tabSet d t a v

/-- Every number of the table is above `lo` (none: any), they rise, and no entry is the default. -/
def tabWfFrom {α : Type} [DecidableEq α] (d : α) : Option Nat → Tab α → Bool
  | _, [] => true
  | lo, (k, v) :: t => (match lo with | none => true | some l => decide (l < k)) && decide (v ≠ d) && tabWfFrom d (some k) t

/-- The canonical form. -/
def tabWf {α : Type} [DecidableEq α] (d : α) (t : Tab α) : Bool := tabWfFrom d none t

/-- What an unlisted byte of device memory reads as (log entry 2). -/
def memDefault : Byte := 0

/-- The canonical form of memory. -/
def Memory.wf (m : List Host.Cell) : Bool := tabWf memDefault m

/-- Field [lo + len - 1 : lo] of a word as a number (R5). -/
def bits {n : Nat} (w : BitVec n) (lo len : Nat) : Nat := (w.toNat >>> lo) % 2 ^ len

/-- Bit `i` of a word. -/
def bit {n : Nat} (w : BitVec n) (i : Nat) : Bool := w.getLsbD i

/-- A word from (lowest bit, length, value) fields. -/
def pack (n : Nat) : List (Nat × Nat × Nat) → BitVec n
  | [] => 0
  | (lo, len, v) :: t => BitVec.ofNat n ((v % 2 ^ len) <<< lo) ||| pack n t

/-- Replace field [lo + len - 1 : lo]. -/
def putField {n : Nat} (w : BitVec n) (lo len v : Nat) : BitVec n :=
  (w &&& ~~~ (BitVec.ofNat n ((2 ^ len - 1) <<< lo))) ||| BitVec.ofNat n ((v % 2 ^ len) <<< lo)

/-- 1 or 0. -/
def b2n (b : Bool) : Nat := if b then 1 else 0

/-- The `n` little-endian bytes of a number (R6). -/
def bytesOf : Nat → Nat → List Byte
  | 0, _ => []
  | n + 1, v => BitVec.ofNat 8 (v % 256) :: bytesOf n (v / 256)

/-- The number a little-endian byte string holds. -/
def ofBytes : List Byte → Nat
  | [] => 0
  | b :: t => b.toNat + 256 * ofBytes t

/-- Two's-complement reading of the low `n` bits of a number. -/
def signed (n v : Nat) : Int := let w := v % 2 ^ n; if 2 * w < 2 ^ n then (w : Int) else (w : Int) - (2 ^ n : Nat)

/-- The `n`-bit two's-complement image of an integer. -/
def unsigned (n : Nat) (v : Int) : Nat := (v % ((2 ^ n : Nat) : Int)).toNat

/-- Saturating addition below 2^n. -/
def satAdd {n : Nat} (w : BitVec n) (k : Nat) : BitVec n := BitVec.ofNat n (min (w.toNat + k) (2 ^ n - 1))

/-- ceil(a / b). -/
def ceilDiv (a b : Nat) : Nat := (a + b - 1) / b

/-- Replace element `i` of a list, if it has one. -/
def setAt {α : Type} : List α → Nat → α → List α
  | [], _, _ => []
  | _ :: t, 0, v => v :: t
  | a :: t, i + 1, v => a :: setAt t i v

/-- Change element `i` of a list, if it has one. -/
def modAt {α : Type} : List α → Nat → (α → α) → List α
  | [], _, _ => []
  | a :: t, 0, f => f a :: t
  | a :: t, i + 1, f => a :: modAt t i f

/-- Read a number from an association list. -/
def assoc {α : Type} : List (Nat × α) → Nat → Option α
  | [], _ => none
  | (k, v) :: t, a => if a = k then some v else assoc t a

/-- Write an association list, newest value in place of the old. -/
def assocSet {α : Type} : List (Nat × α) → Nat → α → List (Nat × α)
  | [], a, v => [(a, v)]
  | (k, w) :: t, a, v => if a = k then (k, v) :: t else (k, w) :: assocSet t a v

/-- Byte `a` of memory. -/
def readByte (m : List Host.Cell) (a : Nat) : Byte := tabGet memDefault m a

/-- Store byte `a`. -/
def writeByte (m : List Host.Cell) (a : Nat) (v : Byte) : List Host.Cell := tabSet memDefault m a v

/-- `n` bytes from `a` upward. -/
def readBytes (m : List Host.Cell) (a : Nat) : Nat → List Byte
  | 0 => []
  | n + 1 => readByte m a :: readBytes m (a + 1) n

/-- Store bytes from `a` upward. -/
def writeBytes (m : List Host.Cell) (a : Nat) : List Byte → List Host.Cell
  | [] => m
  | b :: t => writeBytes (writeByte m a b) (a + 1) t

/-- Store bit `i` (counted from bit 0 of byte `a`) of memory. -/
def writeBit (m : List Host.Cell) (a i : Nat) (v : Bool) : List Host.Cell :=
  let k := a + i / 8
  let old := readByte m k
  writeByte m k (putField old (i % 8) 1 (b2n v))

end Sys2Proof.Machine
end

