-- ==== Sys2Proof/Machine/Ops.lean ====
section
/-! DEFINITION. The named operations over the state: one reader and one writer for each component, global time,
functions and their rights, the global counters. -/

namespace Sys2Proof

/-- The unit address die × 16 + u (R25). -/
def UnitId.addr (x : UnitId) : Nat := x.die.val * 16 + x.u.val

/-- VXEv is unit 4 + v (R24). -/
def VxId.addr (x : VxId) : Nat := x.die.val * 16 + 4 + x.v.val

/-- The context of a function (R404). -/
def Func.ctx (f : Func) : Nat := 16 * f.port.val + f.fn.val

end Sys2Proof

namespace Sys2Proof.Machine

/-! ### Readers and writers of the tables -/

def State.unit (s : State) (x : Nat) : UnitSt := tabGet .reset s.units x
def State.setUnit (s : State) (x : Nat) (v : UnitSt) : State := { s with units := tabSet .reset s.units x v }
def State.updUnit (s : State) (x : Nat) (f : UnitSt → UnitSt) : State := s.setUnit x (f (s.unit x))

def State.queue (s : State) (q : Nat) : QueueSt := tabGet .reset s.queues q
def State.setQueue (s : State) (q : Nat) (v : QueueSt) : State := { s with queues := tabSet .reset s.queues q v }
def State.updQueue (s : State) (q : Nat) (f : QueueSt → QueueSt) : State := s.setQueue q (f (s.queue q))

def State.chan (s : State) (c : Nat) : List Flying := tabGet [] s.chans c
def State.setChan (s : State) (c : Nat) (v : List Flying) : State := { s with chans := tabSet [] s.chans c v }

def State.sync (s : State) (i : Nat) : SyncObj := tabGet .reset s.syncs i
def State.setSync (s : State) (i : Nat) (v : SyncObj) : State := { s with syncs := tabSet .reset s.syncs i v }

def State.watch (s : State) (x : Nat) : Option Watch := tabGet none s.watches x
def State.setWatch (s : State) (x : Nat) (v : Option Watch) : State := { s with watches := tabSet none s.watches x v }

def State.tile (s : State) (x : Nat) : Option MxeTile := tabGet none s.mxe x
def State.setTile (s : State) (x : Nat) (v : Option MxeTile) : State := { s with mxe := tabSet none s.mxe x v }

def State.engAt (s : State) (x : Nat) : EngSt := tabGet .reset s.eng x
def State.setEng (s : State) (x : Nat) (v : EngSt) : State := { s with eng := tabSet .reset s.eng x v }

def State.dir (s : State) (d : Nat) : List AccEntry := tabGet [] s.accDir d
def State.setDir (s : State) (d : Nat) (v : List AccEntry) : State := { s with accDir := tabSet [] s.accDir d v }

def State.vmaskAt (s : State) (k : Nat) : BitVec 256 := tabGet vmaskReset s.vmask k
def State.setVmask (s : State) (k : Nat) (v : BitVec 256) : State := { s with vmask := tabSet vmaskReset s.vmask k v }

def State.vxAt (s : State) (x : Nat) : VxSt := tabGet .reset s.vx x
def State.setVx (s : State) (x : Nat) (v : VxSt) : State := { s with vx := tabSet .reset s.vx x v }

def State.recipe (s : State) (x : Nat) : List U32 := tabGet [] s.recipes x
def State.setRecipe (s : State) (x : Nat) (v : List U32) : State := { s with recipes := tabSet [] s.recipes x v }

def State.decAt (s : State) (x : Nat) : DecSt := tabGet .reset s.dec x
def State.setDec (s : State) (x : Nat) (v : DecSt) : State := { s with dec := tabSet .reset s.dec x v }

def State.gseAt (s : State) (d : Nat) : GseSt := tabGet .reset s.gse d
def State.setGse (s : State) (d : Nat) (v : GseSt) : State := { s with gse := tabSet .reset s.gse d v }

def State.rxeAt (s : State) (d : Nat) : List RxeAcc := tabGet [] s.rxe d
def State.setRxe (s : State) (d : Nat) (v : List RxeAcc) : State := { s with rxe := tabSet [] s.rxe d v }

def State.port (s : State) (p : Nat) : NlPort := tabGet .reset s.ports p
def State.setPort (s : State) (p : Nat) (v : NlPort) : State := { s with ports := tabSet .reset s.ports p v }
def State.updPort (s : State) (p : Nat) (f : NlPort → NlPort) : State := s.setPort p (f (s.port p))

def State.devAt (s : State) (i : Nat) : DevSt := tabGet .reset s.devs i
def State.setDev (s : State) (i : Nat) (v : DevSt) : State := { s with devs := tabSet .reset s.devs i v }
def State.updDev (s : State) (i : Nat) (f : DevSt → DevSt) : State := s.setDev i (f (s.devAt i))

def State.poisoned (s : State) (burst : Nat) : Bool := tabGet false s.poison burst
def State.setPoison (s : State) (burst : Nat) (v : Bool) : State := { s with poison := tabSet false s.poison burst v }

def State.cxlAt (s : State) (c : Nat) : CxlPort := tabGet .reset s.cxl c
def State.setCxl (s : State) (c : Nat) (v : CxlPort) : State := { s with cxl := tabSet .reset s.cxl c v }
def State.updCxl (s : State) (c : Nat) (f : CxlPort → CxlPort) : State := s.setCxl c (f (s.cxlAt c))

def State.ctxAt (s : State) (n : Nat) : CtxSt := tabGet (.resetAt n) s.ctxs n
def State.setCtx (s : State) (n : Nat) (v : CtxSt) : State := { s with ctxs := tabSet (.resetAt n) s.ctxs n v }
def State.updCtx (s : State) (n : Nat) (f : CtxSt → CtxSt) : State := s.setCtx n (f (s.ctxAt n))

def State.hpAt (s : State) (p : Nat) : HostPort := tabGet (.resetAt p) s.hp p
def State.setHp (s : State) (p : Nat) (v : HostPort) : State := { s with hp := tabSet (.resetAt p) s.hp p v }
def State.updHp (s : State) (p : Nat) (f : HostPort → HostPort) : State := s.setHp p (f (s.hpAt p))

def State.dieAt (s : State) (d : Nat) : DieSt := tabGet .reset s.dies d
def State.setDie (s : State) (d : Nat) (v : DieSt) : State := { s with dies := tabSet .reset s.dies d v }
def State.updDie (s : State) (d : Nat) (f : DieSt → DieSt) : State := s.setDie d (f (s.dieAt d))

def State.traceAt (s : State) (d : Nat) : TraceSt := tabGet .reset s.obs.trace d
def State.setTrace (s : State) (d : Nat) (v : TraceSt) : State :=
  { s with obs := { s.obs with trace := tabSet .reset s.obs.trace d v } }

def State.setTime (s : State) (t : TimeSt) : State := { s with time := t }
def State.setMem (s : State) (m : List Host.Cell) : State := { s with mem := m }

/-! ### Device memory: the cells, and the ranges of free bytes over them -/

/-- The byte of device memory at a device-physical address. -/
def State.byteAt (s : State) (a : Nat) : Byte :=
  match s.veiled.find? fun v => decide (v.1 ≤ a) && decide (a < v.2.1) with
  | some v => Config.veiledByte v.2.2 a
  | none => readByte s.mem a

/-- `n` bytes upward. -/
def State.bytesAt (s : State) (a : Nat) : Nat → List Byte
  | 0 => []
  | n + 1 => s.byteAt a :: State.bytesAt s (a + 1) n

/-- A range of free bytes without one address. -/
def unveil (a : Nat) (v : Nat × Nat × Nat) : List (Nat × Nat × Nat) :=
  if v.1 ≤ a ∧ a < v.2.1 then [(v.1, a, v.2.2), (a + 1, v.2.1, v.2.2)].filter fun e => decide (e.1 < e.2.1) else [v]

/-- Store one byte. -/
def State.putByte (s : State) (a : Nat) (b : Byte) : State :=
  { s with mem := writeByte s.mem a b, veiled := s.veiled.flatMap (unveil a) }

/-- Store bytes upward. -/
def State.putBytes (s : State) (a : Nat) : List Byte → State
  | [] => s
  | b :: t => State.putBytes (s.putByte a b) (a + 1) t

/-- The bytes from `lo` up to `hi` become 0, which an unlisted byte reads as. -/
def State.blank (s : State) (lo hi : Nat) : State :=
  if hi ≤ lo then s
  else
    let keep (v : Nat × Nat × Nat) : List (Nat × Nat × Nat) := [(v.1, min v.2.1 lo, v.2.2), (max v.1 hi, v.2.1, v.2.2)].filter fun e => decide (e.1 < e.2.1)
    { s with mem := s.mem.filter fun c => !(decide (lo ≤ c.1) && decide (c.1 < hi)), veiled := s.veiled.flatMap keep }

/-- The bytes from `lo` up to `hi` take values the manual does not give. -/
def State.veil (s : State) (lo hi : Nat) : State :=
  if hi ≤ lo then s
  else
    let s1 := s.blank lo hi
    { s1 with veiled := (lo, hi, s.fresh) :: s1.veiled, fresh := s.fresh + 1 }
def State.setObs (s : State) (o : ObsSt) : State := { s with obs := o }
def State.setPwr (s : State) (p : PowerSt) : State := { s with pwr := p }
def State.setSec (s : State) (p : SecSt) : State := { s with sec := p }
def State.setPins (s : State) (p : PinSt) : State := { s with pins := p }
def State.reply (s : State) (a : Answer) : State := { s with answer := a }

/-- Element `k` of a vector register of a unit: register `r` of unit address `x` is entry 64 x + r (R220). -/
def State.vreg (s : State) (x r : Nat) : VReg := tabGet .reset s.vregs (64 * x + r)
def State.setVreg (s : State) (x r : Nat) (v : VReg) : State := { s with vregs := tabSet .reset s.vregs (64 * x + r) v }

/-- The next number of a free value, and the counter stepped. -/
def State.tickFresh (s : State) (n : Nat) : State := { s with fresh := s.fresh + n }

/-! ### Names -/

/-- MXEm is unit m (R24). -/
def mxeAddr (die : Fin 24) (m : Fin 4) : Nat := die.val * 16 + m.val

/-- Queue q of compute die d has table number 512 d + q; FTQn of die d has 12,288 + 4 d + n (R53, R217). -/
def queueKey (die q : Nat) : Nat := 512 * die + q
def ftqKey (die n : Nat) : Nat := 12288 + 4 * die + n

/-- The home die of a sync object (R34). -/
def syncHome (sid : U16) : Nat := if sid.toNat < 49152 then sid.toNat / 2048 else 24 + (sid.toNat - 49152) / 4096

/-! ### Global time (R94) -/

/-- GT in cycles. -/
def State.gt (s : State) : Nat := s.time.beat * 2250 + s.time.phase

/-- A cycle count as a GT word: PHASE in [11:0], BEAT in [59:12] (R94). -/
def gtWord (cycles : Nat) : U64 := pack 64 [(0, 12, cycles % 2250), (12, 48, cycles / 2250)]

def State.gtNow (s : State) : U64 := gtWord s.gt

/-! ### Rights (R404 to R407) -/

/-- The control function is the PF of the port that holds control (R406). -/
def State.isControl (s : State) (f : Func) : Bool := f.fn == 0 && (s.hpAt f.port.val).control

/-- The context of the control function. -/
def State.controlCtx (s : State) : Nat := if (s.hpAt 0).control then 0 else 16

/-! ### Global counters (R441): a counter's number is its offset in the CNT_ region -/

def State.cntAdd (s : State) (off k : Nat) : State :=
  s.setObs { s.obs with cnt := tabSet 0 s.obs.cnt off (satAdd (tabGet 0 s.obs.cnt off) k) }

def State.cntAt (s : State) (off : Nat) : BitVec 48 := tabGet 0 s.obs.cnt off

/-- Counter i of Nelil port p (R369), of GDDR7 device, CXL port, host port (R441). -/
def cntNelil (p i : Nat) : Nat := 0x20000 + p * 0x100 + i * 16
def cntDev (d i : Nat) : Nat := 0x30000 + d * 0x80 + i * 16
def cntCxl (c i : Nat) : Nat := 0x40000 + c * 0x40 + i * 16
def cntHost (h i : Nat) : Nat := 0x50000 + h * 0x40 + i * 16
def cntModule (i : Nat) : Nat := 0x60000 + i * 16

/-- A denied access: HP_STATUS.DENIED of the port that carried it (R405) and its global counter (R441). -/
def State.deny (s : State) (f : Func) : State :=
  (s.updHp f.port.val fun h => { h with denied := min (h.denied + 1) 0xFFFF }).cntAdd (cntHost f.port.val 3) 1

/-- A privileged write: done by the control function, denied to any other (R404, R405). -/
def State.privileged (s : State) (f : Func) (g : State → State) : State := if s.isControl f then g s else s.deny f

/-- Every command answers a next state; at L5, or with the input switch open, nothing on the module runs (R470, R474). -/
def State.ran (s : State) (g : State → State) : Host.Outcome State Fault Refusal := .next (if s.pwr.on then g s else s)

/-- BAR0 is served below L4 and outside recovery (R474, R486); there only configuration space, DOE and management are. -/
def State.barOpen (s : State) : Bool := decide (s.pwr.eff < 4) && !s.sec.recovery

/-! ### Jobs and dies -/

/-- The live job of a JOB_ID. -/
def State.job? (s : State) (jid : U64) : Option Job := s.jobs.find? fun j => j.jid == jid && j.phase != .ended

def State.updJob (s : State) (jid : U64) (f : Job → Job) : State :=
  { s with jobs := s.jobs.map fun j => if j.jid == jid && j.phase != .ended then f j else j }

/-- Do something with a live job, or nothing when there is none. -/
def State.withJob (s : State) (jid : U64) (f : Job → State) : State := match s.job? jid with | some j => f j | none => s

/-- A die answers new requests unless it is fenced, resetting or off (R483). -/
def State.dieAnswers (s : State) (d : Nat) : Bool := s.pwr.on && (s.dieAt d).st.toNat ≤ 1

/-- A command that reaches the module as a register access: a die that answers no request lets it have no effect, uncounted (R483). -/
def State.byBar (s : State) (die : Nat) (g : State → State) : Host.Outcome State Fault Refusal :=
  s.ran fun s => if s.barOpen && s.dieAnswers die then g s else s

/-- An access to the power block is management, so it is served at L4 too (R472, R474). -/
def State.byPwr (s : State) (g : State → State) : Host.Outcome State Fault Refusal := s.ran fun s => if s.sec.recovery then s else g s

/-- A job is live from acceptance to its end (R409, R431). -/
def Job.live (j : Job) : Bool := j.phase != .ended

/-- A job with marks that counts for the guard of R90: admitted or preempted, not merely waiting. -/
def Job.guards (j : Job) : Bool := j.live && j.phase != .waiting && !j.bin.marks.isEmpty

/-- The guard of R90. -/
def State.stepGuard (s : State) : Bool := s.jobs.any Job.guards

/-- A job with cross-module marks (R93). -/
def Job.cross (j : Job) : Bool := j.bin.report.crossModule

/-- Class codes of the descriptor (R415). -/
def Job.guaranteed (j : Job) : Bool := j.cls == 0
def Job.preemptible (j : Job) : Bool := j.cls == 2

/-- A job with cross-module marks is admitted (R95, R326). -/
def State.crossAdmitted (s : State) : Bool := s.jobs.any fun j => j.live && j.cross && j.phase != .waiting

/-- Unit addresses of a job. -/
def State.unitsOf (s : State) (jid : U64) : List Nat := (s.units.filter fun e => e.2.job == some jid).map (·.1)

/-- Counter n of a unit (R436), saturating at 2^48 - 1. -/
def UnitSt.count (u : UnitSt) (n k : Nat) : UnitSt := { u with cnt := modAt u.cnt n fun c => satAdd c k }

/-- OR flags into a unit's FLAGS (R138, R139). -/
def UnitSt.orFlags (u : UnitSt) (f : U16) : UnitSt := { u with flags := u.flags ||| f }

/-- OR two lists of lanes' flags, lane by lane. -/
def orList : List U16 → List U16 → List U16
  | [], l => l
  | l, [] => l
  | a :: s, b :: t => (a ||| b) :: orList s t

/-- Flags met in the lanes of the tile in progress: the arithmetic ones wait in their lane (R137), those of an access or a bound are the
unit's at once (R45, R156). -/
def UnitSt.orLanes (u : UnitSt) (fs : List U16) : UnitSt :=
  { u.orFlags (fs.foldl (fun f k => f ||| k) 0 &&& 0xFFC0) with lanes := orList u.lanes (fs.map fun f => f &&& 0x3F) }

/-- The flags of one lane. -/
def atLane (l : Nat) (f : U16) : List U16 := List.replicate l 0 ++ [f]

/-- The end of a tile: the lanes' flags are ORed into FLAGS (R139). -/
def UnitSt.endTile (u : UnitSt) : UnitSt := { u.orFlags (u.lanes.foldl (fun f k => f ||| k) 0) with lanes := [] }

/-- The current command of a unit (R38). -/
def UnitSt.cmd? (u : UnitSt) : Option Cmd := u.cmds[u.idx]?

/-! ### Wait states (R47, R531) -/

def WaitSt.run (tag : U32) : WaitSt := { code := 1, opnd := 0, word := tag.setWidth 64 }
def WaitSt.mark (gt : Nat) : WaitSt := { code := 2, opnd := 0, word := gtWord gt }
def WaitSt.sync (sid : U16) (v : U64) : WaitSt := { code := 3, opnd := sid, word := v }
def WaitSt.token (q : Nat) : WaitSt := { code := 4, opnd := BitVec.ofNat 16 q, word := 0 }
def WaitSt.credit (q : Nat) : WaitSt := { code := 5, opnd := BitVec.ofNat 16 q, word := 0 }
def WaitSt.fault (dva : Nat) : WaitSt := { code := 6, opnd := 0, word := BitVec.ofNat 64 (dva % 2 ^ 57) }
/-- WAIT_ACC with its operand, FULL, NO_HOLDER and the rank awaited (R531). -/
def WaitSt.acc (opId : Nat) (full noHolder : Bool) (rank : Nat) : WaitSt :=
  { code := 7, opnd := BitVec.ofNat 16 opId, word := pack 64 [(0, 16, opId), (16, 1, b2n full), (17, 1, b2n noHolder), (18, 4, rank)] }
def WaitSt.stopped : WaitSt := { code := 8, opnd := 0, word := 0 }

end Sys2Proof.Machine
end

