-- ==== Sys2Proof/Machine/Fabric.lean ====
section
/-! DEFINITION. The package fabric: where the dies sit, what their edges lead to, the route of memory-channel traffic, and the
words that cross it (R13 to R19, R31, R33, R441). -/

namespace Sys2Proof.Machine

/-! ### Places and edges (R13, R14) -/

/-- Row and column of a compute die. -/
def dieRow (d : Nat) : Nat := d / 6
def dieCol (d : Nat) : Nat := d % 6

/-- The compute dies a non-compute die has an edge to, in rising order; a compute die enters the grid at itself. -/
def attachments (d : Nat) : List Nat :=
  match d with
  | 24 => [0, 1, 2]
  | 25 => [3, 4, 5]
  | 26 => [18, 19, 20]
  | 27 => [21, 22, 23]
  | 28 => [0, 6]
  | 29 => [12, 18]
  | 30 => [5, 11]
  | 31 => [17, 23]
  | _ => [d]

/-- The die an edge of a compute die leads to: 0 N, 1 S, 2 E, 3 W. -/
def edgeTo (d k : Nat) : Nat :=
  match k with
  | 0 => if dieRow d = 0 then 24 + dieCol d / 3 else d - 6
  | 1 => if dieRow d = 3 then 26 + dieCol d / 3 else d + 6
  | 2 => if dieCol d = 5 then 30 + dieRow d / 2 else d + 1
  | _ => if dieCol d = 0 then 28 + dieRow d / 2 else d - 1

/-- The edge of compute die `src` toward `dst`. -/
def edgeOf (src dst : Nat) : Option Nat := [0, 1, 2, 3].find? fun k => edgeTo src k == dst

/-! ### Routes (R18, R19) -/

/-- Hops between two compute dies. -/
def hops (a b : Nat) : Nat :=
  (max (dieRow a) (dieRow b) - min (dieRow a) (dieRow b)) + (max (dieCol a) (dieCol b) - min (dieCol a) (dieCol b))

/-- The compute dies from `a` to `b`, `n` hops at most, `a` left out: along the row, then along the column. -/
def gridPath (a b : Nat) : Nat → List Nat
  | 0 => []
  | n + 1 =>
    let next := if dieCol a < dieCol b then some (a + 1) else if dieCol b < dieCol a then some (a - 1)
      else if dieRow a < dieRow b then some (a + 6) else if dieRow b < dieRow a then some (a - 6) else none
    match next with
    | some c => c :: gridPath c b n
    | none => []

/-- Where traffic enters and leaves the grid: fewest hops, then the lower source-side die, then the lower destination-side one. -/
def entry (src dst : Nat) : Nat × Nat :=
  let pairs := (attachments src).flatMap fun a => (attachments dst).map fun b => (a, b)
  pairs.foldl (fun (r : Nat × Nat) p => if hops p.1 p.2 < hops r.1 r.2 then p else r) ((attachments src).headD 0, (attachments dst).headD 0)

/-- LD0 and LD1 are joined by the link bridge. -/
def overBridge (src dst : Nat) : Bool := (src == 28 && dst == 29) || (src == 29 && dst == 28)

/-- The dies traffic passes from `src` to `dst`, both in it. -/
def route (src dst : Nat) : List Nat :=
  if src = dst then [src]
  else if overBridge src dst then [src, dst]
  else
    let e := entry src dst
    (if src < 24 then [] else [src]) ++ e.1 :: gridPath e.1 e.2 8 ++ (if dst < 24 then [] else [dst])

/-- The hop count of a route. -/
def routeHops (src dst : Nat) : Nat := (route src dst).length - 1

/-! ### The counters of the edges (R441) -/

/-- TOKENS_OUT of edge k of compute die d. -/
def cntEdge (d k : Nat) : Nat := 0x10000 + (4 * d + k) * 0x20

/-- The WORDS counter of the edge from one die to the next: WORDS_OUT of a compute die, WORDS of the link bridge; an edge out of any
other die has none. -/
def wordsKey (a b : Nat) : Option Nat :=
  if overBridge a b then some (0x11010 + (a - 28) * 0x20)
  else if a < 24 then (edgeOf a b).map fun k => cntEdge a k + 16
  else none

/-- The counters of the edges a path crosses. -/
def pathKeys : List Nat → List Nat
  | a :: b :: t => (match wordsKey a b with | some k => [k] | none => []) ++ pathKeys (b :: t)
  | _ => []

def routeKeys (src dst : Nat) : List Nat := pathKeys (route src dst)

/-! ### Words that cross -/

/-- A transfer from one die to another crosses the edges of its route. -/
def Traffic.carry (t : Traffic) (src dst : Nat) : Traffic :=
  { t with words := (routeKeys src dst).foldl (fun w k => tabSet 0 w k (tabGet 0 w k + 1)) t.words }

def State.carry (s : State) (src dst : Nat) : State := { s with fabric := { s.fabric with live := s.fabric.live.carry src dst } }

/-- A request and its answer. -/
def State.exchange (s : State) (src dst : Nat) : State := (s.carry src dst).carry dst src

/-- A die accesses memory, wherever its addresses lie: words go to the owning dies and come back. -/
def State.accessed (s : State) (die : Nat) : State :=
  { s with fabric := { s.fabric with live := { s.fabric.live with loads := tabSet 0 s.fabric.live.loads die (tabGet 0 s.fabric.live.loads die + 1) } } }

/-- Accesses whose words may have crossed an edge: those of the dies with a route over it, to or from some die. -/
def Traffic.mayCross (t : Traffic) (key : Nat) : Nat :=
  ((t.loads.filter fun e => (List.range 32).any fun d => (routeKeys e.1 d).contains key || (routeKeys d e.1).contains key).map (·.2)).foldl (· + ·) 0

/-- What a WORDS counter holds: 0 while nothing has crossed its edge, else a number of words the manual does not give. -/
def Traffic.count (t : Traffic) (key : Nat) : Nat :=
  let n := tabGet 0 t.words key + t.mayCross key
  if n = 0 then 0 else (Config.freeCount t.base n key).toNat % 2 ^ 48

/-- What an ENERGY_MJ counter holds: 0 as it starts, then what the dies have consumed, which no rule gives. -/
def Traffic.energy (t : Traffic) (key : Nat) : Nat :=
  if t.upto ≤ t.since then 0 else (Config.freeCount t.base (t.upto - t.since) key).toNat % 2 ^ 48

/-- The live counters as they stand now. -/
def State.traffic (s : State) : Traffic := { s.fabric.live with upto := s.gt }

/-- A snapshot takes the live counters; a clear begins them anew (R442). -/
def State.snapFabric (s : State) : State := { s with fabric := { s.fabric with snap := s.traffic } }
def State.clearFabric (s : State) : State :=
  { s with fabric := { s.fabric with live := { words := [], loads := [], base := s.fresh, since := s.gt, upto := 0 } }, fresh := s.fresh + 1 }

/-- A register access that a host port carries to the die that owns the block, and its answer (R19, R33). -/
def State.byBarOf (s : State) (f : Func) (die : Nat) (g : State → State) : Host.Outcome State Fault Refusal :=
  s.byBar die fun s => g (s.exchange (30 + f.port.val) die)

end Sys2Proof.Machine
end

