-- ==== Sys2Proof/Machine/Trace.lean ====
section
/-! DEFINITION. Writing trace records, wait states of units, recording entries (R47, R443 to R451, R458 to R461). -/

namespace Sys2Proof.Machine

/-- Records a die's trace SRAM holds (R444); half of it while the SRAMs are split (R467). -/
def State.traceCap (s : State) (d : Nat) : Nat :=
  let n := if d < 24 then 8192 else 2048
  if s.obs.split then n / 2 else n

/-- A trace record (R444): payload fields as (byte, bytes, value). -/
def traceRecord (kind unit : Nat) (tag : U32) (gt : Nat) (payload : List (Nat × Nat × Nat)) : W256 :=
  pack 256 ([(0, 5, kind), (8, 9, unit), (32, 32, tag.toNat), (64, 64, (gtWord gt).toNat)] ++
    payload.map fun p => (8 * p.1, 8 * p.2.1, min p.2.2 (2 ^ (8 * p.2.1) - 1)))

/-- Count a record lost (R448). -/
def TraceSt.lose (t : TraceSt) : TraceSt := { t with drops := satAdd t.drops 1, sinceEvent := t.sinceEvent + 1 }

/-- After a record was written: the post-trigger count of CENTRED (R446). -/
def TraceSt.counted (t : TraceSt) : TraceSt :=
  match t.postLeft with
  | none => t
  | some n => { t with postLeft := some (n - 1), frozen := t.frozen || decide (n ≤ 1) }

/-- Write a record under a mode (R446): 0 STOP, else WRAP, with CENTRED's freeze. `dropRec n` is the DROP record of n. -/
def TraceSt.put (t : TraceSt) (mode cap : Nat) (dropRec : Nat → W256) (r : W256) : TraceSt :=
  if t.frozen || t.shed || t.jid.isNone then t
  else if mode = 0 then
    if cap ≤ t.recs.length then { t.lose with missed := t.missed + 1 }
    else if t.missed = 0 then { t with recs := t.recs ++ [r] }
    else if cap ≤ t.recs.length + 1 then { t.lose with recs := t.recs ++ [dropRec t.missed], missed := 1 }
    else { t with recs := t.recs ++ [dropRec t.missed, r], missed := 0 }
  else if cap ≤ t.recs.length then ({ t.lose with recs := t.recs.tail ++ [r], gap := t.gap + 1 } : TraceSt).counted
  else ({ t with recs := t.recs ++ [r] } : TraceSt).counted

/-- UNIT of a die's own records: die × 16 (R444). -/
def dieUnit (d : Nat) : Nat := d * 16

/-- Put one record into a die's SRAM; the DCU counts the records written and those lost, which under WRAP may be one of each (R436, R448). -/
def State.tracePut (s : State) (d : Nat) (r : W256) : State :=
  let t := s.traceAt d
  let mode := bits (s.ctxAt t.ctx.toNat).traceCfg 0 2
  let t1 := t.put mode (s.traceCap d) (fun n => traceRecord 0x0B (dieUnit d) 0 s.gt [(16, 4, n)]) r
  let s1 := s.setTrace d t1
  if d < 24 && t.jid.isSome && !t.frozen && !t.shed then
    (s1.updUnit (d * 16 + 15) fun u => u.count 3 (if mode = 0 then t1.recs.length - t.recs.length else 1)).updUnit (d * 16 + 15) fun u =>
      u.count 4 (t1.sinceEvent - t.sinceEvent)
  else s1

/-- The job a context traces on a die. -/
def State.isTraced (s : State) (ctx : Nat) (jid : U64) : Bool :=
  s.obs.trace.any fun e => e.2.jid == some jid && e.2.ctx.toNat == ctx

/-- Write an event of a job on a die if that die traces the job and KINDS selects the class (R443, R445). -/
def State.traceEv (s : State) (d kind cls : Nat) (jid : U64) (unit : Nat) (tag : U32) (payload : List (Nat × Nat × Nat)) : State :=
  let t := s.traceAt d
  if t.jid == some jid && bit (s.ctxAt t.ctx.toNat).traceCfg (8 + cls) then
    s.tracePut d (traceRecord kind unit tag s.gt payload)
  else s

/-- Note the triggering event of a context's selected source, once per job (R449). -/
def State.noteTrigger (s : State) (ctx src : Nat) : State :=
  let c := s.ctxAt ctx
  if c.trigAt.isNone && !c.trigDone && bits c.traceCfg 3 3 == src then s.setCtx ctx { c with trigAt := some s.gt, trigSrc := src }
  else s

/-- The trigger of an event of a job in its own context. -/
def State.jobTrigger (s : State) (jid : U64) (src : Nat) (arg : Option Nat) : State :=
  match s.job? jid with
  | none => s
  | some j =>
    if s.isTraced j.ctx.val jid && (arg.isNone || arg == some (bits (s.ctxAt j.ctx.val).traceCfg 16 16)) then
      s.noteTrigger j.ctx.val src
    else s

/-! ### Wait states -/

/-- The operand a WAIT record or a HANG event shows (R445, R426). -/
def WaitSt.operand (w : WaitSt) : Nat :=
  if w.code == 3 || w.code == 4 || w.code == 5 || w.code == 7 then w.opnd.toNat else w.word.toNat % 2 ^ 32

/-- Enter a wait state; a change of code is traced and may trigger (R445, R449). -/
def State.setWait (s : State) (x : Nat) (w : WaitSt) : State :=
  let u := s.unit x
  if u.wait.code == w.code then s.setUnit x { u with wait := w }
  else
    let s1 := s.setUnit x { u with wait := w, waitAt := s.gt }
    match u.job with
    | none => s1
    | some k => (s1.traceEv (x / 16) 0x03 1 k x u.liveTag [(16, 1, w.code.toNat), (17, 1, u.wait.code.toNat), (20, 4, w.operand),
        (24, 4, s.gt - u.waitAt)]).jobTrigger k 3 (some w.code.toNat)

/-! ### The Recorder -/

/-- Bytes of an entry: its 16-byte head and its content words (R459). -/
def RecEntry.size (e : RecEntry) : Nat := 16 + 8 * e.words.length

/-- Add an entry, or stop with TRUNC_S when the area is full (R461). -/
def RecSt.add (r : RecSt) (e : RecEntry) : RecSt :=
  if r.state != 0 then r
  else if r.replayOf.isNone && decide (r.cap < 256 + r.bytes + e.size) then { r with state := 2, truncS := e.s }
  else
    let store := r.full && r.replayOf.isNone && decide (e.s < r.fullEndS)
    if store && decide (r.fullCap < r.fullBytes + e.data.length) then { r with state := 2, truncS := e.s }
    else if store then { r with entries := r.entries ++ [e], bytes := r.bytes + e.size, fullBytes := r.fullBytes + e.data.length }
    else { r with entries := r.entries ++ [{ e with data := [] }], bytes := r.bytes + e.size }

/-- The Recorder writes an entry for a job that records or replays (R459, R465). -/
def State.record (s : State) (jid : U64) (kind : Nat) (words : List Nat) (data : List Byte) : State :=
  match s.job? jid with
  | none => s
  | some j =>
    s.setObs { s.obs with recs := s.obs.recs.map fun r =>
      if r.jid == jid then r.add { kind := kind, s := j.s, gt := s.gt, words := words, data := data } else r }

/-- What a replay takes from its recording (R464): the entry of a kind whose words begin with a key that stands where the replay is
among its own entries of that kind and key. -/
def State.replayed (s : State) (jid : U64) (kind : Nat) (key : List Nat) : Option RecEntry :=
  match s.obs.recs.find? fun r => r.jid == jid && r.replayOf.isSome with
  | none => none
  | some r =>
    let mine (e : RecEntry) : Bool := e.kind == kind && e.words.take key.length == key
    match s.obs.recs.find? fun q => q.replayOf.isNone && some q.jid == r.replayOf && q.ctx == r.ctx with
    | none => none
    | some q => (q.entries.filter mine)[(r.entries.filter mine).length]?

/-- The digest of an item, as a number (R459). -/
def digestOf (b : List Byte) : Nat := (Config.sha512 b).toNat

/-- The first eight bytes of a digest (R460). -/
def digest8 (b : List Byte) : Nat := digestOf b % 2 ^ 64

/-- A stored tile (R460): the digest covers TENSOR_ID, TILE and the bytes written. -/
def State.recordTile (s : State) (jid : U64) (unit : Nat) (tag : U32) (tensor : U32) (tile : Nat) (b : List Byte) : State :=
  s.record jid 0x08 [unit, tag.toNat, tensor.toNat, tile, digest8 (bytesOf 4 tensor.toNat ++ bytesOf 8 tile ++ b)] []

end Sys2Proof.Machine
end

