-- ==== Sys2Proof/Machine/Records.lean ====
section
/-! DEFINITION. Rings and records: completion, event and fault records, the status line (R411, R414, R422 to R429). -/

namespace Sys2Proof.Machine

inductive RingKind where
  | cpl | evt | flt
deriving DecidableEq, Repr

def CtxSt.ring (c : CtxSt) : RingKind → Ring
  | .cpl => c.cpl | .evt => c.evt | .flt => c.flt

def CtxSt.setRing (c : CtxSt) (k : RingKind) (r : Ring) : CtxSt :=
  match k with
  | .cpl => { c with cpl := r }
  | .evt => { c with evt := r }
  | .flt => { c with flt := r }

/-- Entries of a ring: 2^LOG2N (R409, R411). -/
def Ring.size (r : Ring) : Nat := 2 ^ bits r.reg 0 5

/-- Host address of the ring's first entry (R409). -/
def Ring.base (r : Ring) : Nat := bits r.reg 12 52 * 4096

/-- Room for one more record (R414). -/
def Ring.room (r : Ring) : Bool := decide ((r.tail + 2 ^ 32 - r.head) % 2 ^ 32 < r.size)

/-- The phase bit of the record at an index: 1 on the first pass round the ring (R411). -/
def Ring.phaseBit (r : Ring) : Nat := if r.tail / r.size % 2 = 0 then 1 else 0

/-- The key of a host byte: port × 2^64 + address. -/
def hostKey (port addr : Nat) : Nat := port * 2 ^ 64 + addr

/-- The module writes bytes to host memory (R104); the port counts them (R441). -/
def State.hostWrite (s : State) (port addr : Nat) (b : List Byte) : State :=
  ({ s with host := writeBytes s.host (hostKey port addr) b } : State).cntAdd (cntHost port 1) b.length

/-- Records of a context can be written: it is enabled, its port is UP, its ring has space and none waits before (R410, R414). -/
def State.ringOpen (s : State) (ctx : Nat) (k : RingKind) : Bool :=
  let c := s.ctxAt ctx
  c.en && (s.hpAt (ctx / 16)).link == 2 && (c.ring k).room

/-- Write one record at the ring's tail (R411); an event carries the drops since the last one written (R414). -/
def State.emit (s : State) (ctx : Nat) (k : RingKind) (r : W256) : State :=
  let c := s.ctxAt ctx
  let g := c.ring k
  let r1 := if k = .evt then putField r 16 16 (min c.dropsSince 0xFFFF) else r
  let w := putField r1 0 1 g.phaseBit
  let s1 := s.hostWrite (ctx / 16) (g.base + 32 * (g.tail % g.size)) (bytesOf 32 w.toNat)
  let c1 := c.setRing k { g with tail := (g.tail + 1) % 2 ^ 32, wrote := true }
  s1.setCtx ctx { c1 with dropsSince := if k = .evt then 0 else c1.dropsSince }

/-- Write waiting records while the ring has space, oldest first (R414). -/
def State.flushRing (s : State) (ctx : Nat) (k : RingKind) : List W256 → State
  | [] => s.updCtx ctx fun c => c.setRing k { c.ring k with wait := [] }
  | r :: t =>
    if s.ringOpen ctx k then State.flushRing (s.emit ctx k r) ctx k t
    else s.updCtx ctx fun c => c.setRing k { c.ring k with wait := r :: t }

/-- Post a record: written at once if nothing waits before it and there is space, else it waits; a step record finding
240 waiting and an event finding 256 waiting are dropped and counted (R414, R398). -/
def State.post (s : State) (ctx : Nat) (k : RingKind) (r : W256) : State :=
  let c := s.ctxAt ctx
  let g := c.ring k
  if g.wait.isEmpty && s.ringOpen ctx k then
    (s.emit ctx k r).updCtx ctx fun c => { c with statusDirty := true }
  else if k = .cpl && bit r 1 && decide (240 ≤ g.wait.length) then
    s.setCtx ctx { c with stepDrops := min (c.stepDrops + 1) 0xFFFFFFFF, statusDirty := true }
  else if k = .evt && decide (256 ≤ g.wait.length) then
    s.setCtx ctx { c with evtDrops := min (c.evtDrops + 1) 0xFFFFFFFF, dropsSince := c.dropsSince + 1, statusDirty := true }
  else
    s.setCtx ctx { c.setRing k { g with wait := g.wait ++ [r] } with statusDirty := true }

/-- Write whatever waits on the three rings of a context. -/
def State.flushCtx (s : State) (ctx : Nat) : State :=
  let s1 := s.flushRing ctx .cpl (s.ctxAt ctx).cpl.wait
  let s2 := s1.flushRing ctx .evt (s1.ctxAt ctx).evt.wait
  s2.flushRing ctx .flt (s2.ctxAt ctx).flt.wait

/-! ### Events (R426, R427) -/

/-- An event record: payload fields as (byte, bytes, value) from byte 16 upward. -/
def eventRecord (ctx code : Nat) (jid : U64) (gt : Nat) (payload : List (Nat × Nat × Nat)) : W256 :=
  pack 256 ([(1, 5, ctx), (8, 8, code), (32, 32, jid.toNat), (64, 64, (gtWord gt).toNat)] ++
    payload.map fun p => (8 * p.1, 8 * p.2.1, min p.2.2 (2 ^ (8 * p.2.1) - 1)))

/-- Post an event to one context. -/
def State.event (s : State) (ctx code : Nat) (jid : U64) (payload : List (Nat × Nat × Nat)) : State :=
  s.post ctx .evt (eventRecord ctx code jid s.gt payload)

/-- Post an event to each of a list of contexts. -/
def State.eventTo (s : State) (code : Nat) (payload : List (Nat × Nat × Nat)) : List Nat → State
  | [] => s
  | c :: t => State.eventTo (s.event c code 0 payload) code payload t

/-- A module-wide event: to the control function's context and to the contexts of the live jobs it affects, once each (R427). -/
def State.moduleEvent (s : State) (code : Nat) (payload : List (Nat × Nat × Nat)) (affects : Job → Bool) : State :=
  let cs := (s.jobs.filter fun j => j.live && affects j).map fun j => j.ctx.val
  s.eventTo code payload (s.controlCtx :: (cs.eraseDups.filter fun c => c != s.controlCtx))

/-- A LINK_DOWN event (R426): port kind, port, cause. -/
def State.linkDownEvent (s : State) (kind port cause : Nat) (affects : Job → Bool) : State :=
  s.moduleEvent 0x07 [(16, 1, kind), (17, 1, port), (18, 1, cause)] affects

/-- Time-state codes (R89). -/
def TState.code : TState → Nat
  | .free => 0 | .acquiring => 1 | .locked => 2 | .holdover => 3

/-! ### Fault records (R428) -/

/-- A fault record's fields. -/
structure FaultRec where
  cause : Nat
  access : Nat
  pri : Bool
  unitIsDie : Bool
  unit : Nat
  fid : Nat
  jid : U64
  dva : Nat
  bytes : Nat
deriving DecidableEq, Repr

def faultRecord (ctx gt : Nat) (f : FaultRec) : W256 :=
  pack 256 [(1, 5, ctx), (6, 8, f.cause), (14, 2, f.access), (16, 1, b2n f.pri), (22, 1, b2n f.unitIsDie), (23, 9, f.unit),
    (32, 32, f.fid), (64, 32, f.jid.toNat), (96, 57, if f.access = 3 then 0 else f.dva), (160, 64, (gtWord gt).toNat),
    (224, 32, min f.bytes 0xFFFFFFFF)]

/-- The next FAULT_ID of a context and the record posted under it (R398); a FAULT trigger of a traced job is noted (R449). -/
def State.postFault (s : State) (ctx : Nat) (f : FaultRec) : State :=
  let c := s.ctxAt ctx
  let s0 := s.setCtx ctx { c with nextFid := (c.nextFid + 1) % 2 ^ 32 }
  let s1 := (if s0.isTraced ctx f.jid then s0.noteTrigger ctx 4 else s0).traceEv (if f.unitIsDie then f.unit else f.unit / 16)
    6 4 f.jid (if f.unitIsDie then f.unit * 16 else f.unit) 0 [(16, 4, c.nextFid), (24, 8, f.dva)]
  s1.post ctx .flt (faultRecord ctx s.gt { f with fid := c.nextFid })

/-- A stream joins a fault whose record still waits for ring space: JOINED of the waiting record rises (R397, R428). -/
def bumpJoined (fid : Nat) (r : W256) : W256 :=
  if bits r 32 32 = fid then putField r 17 5 (min (bits r 17 5 + 1) 31) else r

/-! ### Completion records (R422 to R425) -/

/-- A completion record's fields. -/
structure CplRec where
  step : Bool
  disp : Nat
  reason : Nat
  isExact : Bool
  widened : Bool
  flags : U16
  late : Nat
  jid : U64
  detail : U64
deriving DecidableEq, Repr

def cplRecord (ctx gt : Nat) (r : CplRec) : W256 :=
  pack 256 [(1, 1, b2n r.step), (2, 4, r.disp), (6, 3, r.reason), (9, 1, b2n r.isExact), (10, 1, b2n r.widened), (11, 5, ctx),
    (16, 16, r.flags.toNat), (32, 32, min r.late 0xFFFFFFFF), (64, 64, r.jid.toNat), (128, 64, (gtWord gt).toNat),
    (192, 64, r.detail.toNat)]

def State.postCpl (s : State) (ctx : Nat) (r : CplRec) : State := s.post ctx .cpl (cplRecord ctx s.gt r)

/-- A refusal or an abort at admission (R417, R423): nothing of the job stays. The trace of a live job whose RESUME this is has the disposition (R445). -/
def State.refuse (s : State) (ctx : Nat) (jid : U64) (disp : Nat) : State :=
  (s.traceEv 30 0x09 6 jid 480 0 [(16, 1, disp)]).postCpl ctx { step := false, disp := disp, reason := 0, isExact := false, widened := false, flags := 0, late := 0, jid := jid, detail := 0 }

/-! ### The status line (R414) -/

/-- Live jobs of a context: waiting, admitted or preempted (R409). -/
def State.jobsOf (s : State) (ctx : Nat) : Nat := (s.jobs.filter fun j => j.live && j.ctx.val == ctx).length

def State.statusLine (s : State) (ctx : Nat) : BitVec 512 :=
  let c := s.ctxAt ctx
  pack 512 [(0, 32, c.sub.tail), (32, 32, c.lastSeq.getD 0), (64, 64, s.gtNow.toNat), (128, 16, c.cpl.wait.length),
    (144, 16, c.evt.wait.length), (160, 16, c.flt.wait.length), (176, 16, s.jobsOf ctx), (192, 32, c.evtDrops), (224, 32, c.stepDrops)]

/-- Count a vector sent. -/
def bumpVec (v : List Nat) (i : Nat) : List Nat := modAt v i (· + 1)

/-- At the end of a beat in which a field changed the ring engine writes the status line and sends each enabled vector of a
ring it wrote once (R414). -/
def State.writeStatus (s : State) (ctx : Nat) : State :=
  let s := s.flushCtx ctx
  let c := s.ctxAt ctx
  if c.en && (s.hpAt (ctx / 16)).link == 2 && (c.statusDirty || c.cpl.wrote || c.evt.wrote || c.flt.wrote) then
    let s1 := s.hostWrite (ctx / 16) (bits c.statusAddr 6 58 * 64) (bytesOf 64 (s.statusLine ctx).toNat)
    let v1 := if c.cpl.wrote && bit c.msix 6 then bumpVec c.sentVec (bits c.msix 0 2) else c.sentVec
    let v2 := if c.evt.wrote && bit c.msix 7 then bumpVec v1 (bits c.msix 2 2) else v1
    let v3 := if c.flt.wrote && bit c.msix 8 then bumpVec v2 (bits c.msix 4 2) else v2
    let cpl1 := { c.cpl with wrote := false }
    let evt1 := { c.evt with wrote := false }
    let flt1 := { c.flt with wrote := false }
    s1.setCtx ctx { c with statusDirty := false, sentVec := v3, cpl := cpl1, evt := evt1, flt := flt1 }
  else s

/-- Every context in turn. -/
def State.writeStatusFrom (s : State) : Nat → State
  | 0 => s
  | n + 1 => State.writeStatus (State.writeStatusFrom s n) n

end Sys2Proof.Machine
end

