-- ==== Sys2Proof/Machine/Walk.lean ====
section
/-! DEFINITION. The device-physical map, the GDDR7 spread, the CXL decoders and the table walk (R31, R32, R371, R379,
R384 to R394). -/

namespace Sys2Proof.Machine

/-! ### The device-physical space (R31) -/

def gddrTop : Nat := 0x2E80000000
def scratchBase : Nat := 0x4000000000
def scratchTop : Nat := 0x40C0000000
def cxlBase : Nat := 0x100000000000
def cxlTop : Nat := 0x200000000000

def inGddr (a : Nat) : Bool := decide (a < gddrTop)
def inScratch (a : Nat) : Bool := decide (scratchBase ≤ a) && decide (a < scratchTop)
def inCxl (a : Nat) : Bool := decide (cxlBase ≤ a) && decide (a < cxlTop)

/-- The device-physical address of a scratchpad byte (R31). -/
def scratchAddr (die off : Nat) : Nat := scratchBase + die * 0x8000000 + off % 0x8000000

/-- The die of a scratchpad address. -/
def scratchDie (a : Nat) : Nat := (a - scratchBase) / 0x8000000

/-- Where a GDDR7 address lies (R371). -/
structure GddrLoc where
  dev : Nat
  blk : Nat
  slot : Nat
  raw : Nat
  bank : Nat
deriving DecidableEq, Repr

def gddrMap (a : Nat) : GddrLoc :=
  let g := a / 256
  let q := g / 48 * 4 + a / 64 % 4
  { dev := 12 * (g % 4) + g / 4 % 12, blk := q / 31, slot := q % 31, raw := q / 31 * 32 + q % 31, bank := q / 31 % 16 }

/-- The device-physical address of data burst (dev, blk, slot): the inverse of R371. -/
def gddrUnmap (dev blk slot : Nat) : Nat :=
  let q := blk * 31 + slot
  let g := q / 4 * 48 + dev % 12 * 4 + dev / 12
  g * 256 + q % 4 * 64

/-- The burst of an address: the key of the poison table. -/
def burstOf (a : Nat) : Nat := a / 64

/-! ### CXL decoders (R379) -/

/-- WAYS of a decoder. -/
def Hdm.nways (h : Hdm) : Nat := 2 ^ h.ways.toNat

def Hdm.hits (h : Hdm) (hpa : Nat) : Bool :=
  h.committed && decide (h.base ≤ hpa) && decide (hpa < h.base + h.size) && hpa / 4096 % h.nways == h.pos.toNat

/-- The port that carries a CXL address, lowest first. -/
def State.cxlRoute (s : State) (a : Nat) : Option Nat :=
  [0, 1, 2, 3].find? fun c => (s.cxlAt c).hdm.any fun h => h.hits (a - cxlBase)

/-! ### Walks -/

/-- Where an access leads: a device-physical address, or an address on a host port. -/
inductive Loc where
  | phys (a : Nat)
  | host (port a : Nat)
deriving DecidableEq, Repr

/-- What an access meets: its place, a fault cause (R429), or a host translation outstanding. -/
inductive Xl where
  | ok (l : Loc)
  | bad (cause : Nat)
  | wait
deriving DecidableEq, Repr

/-- A leaf: page base in DVA, size, target, output base, R, W. -/
structure Leaf where
  lo : Nat
  size : Nat
  tgt : Nat
  out : Nat
  r : Bool
  w : Bool
deriving DecidableEq, Repr

inductive LeafRes where
  | ok (l : Leaf)
  | bad (cause : Nat)
deriving DecidableEq, Repr

/-- Index of a DVA at a level, 3 the root (R384). -/
def dvaIndex (level dva : Nat) : Nat :=
  match level with
  | 3 => dva / 2 ^ 39 % 262144
  | 2 => dva / 2 ^ 30 % 512
  | 1 => dva / 2 ^ 21 % 512
  | _ => dva / 2 ^ 16 % 32

/-- Bytes of a table of a level, and the page a leaf there maps. -/
def tableSize (level : Nat) : Nat := match level with | 3 => 0x200000 | 2 => 4096 | 1 => 4096 | _ => 256
def pageSize (level : Nat) : Nat := match level with | 2 => 2 ^ 30 | 1 => 2 ^ 21 | _ => 2 ^ 16

/-- A leaf of a DVA: its alignment and device-physical bound. -/
def checkLeaf (dva : Nat) (e : U64) (addr level : Nat) : LeafRes :=
  if addr % pageSize level != 0 || (bits e 4 2 == 0 && decide (2 ^ 45 ≤ addr)) then .bad 3
  else .ok { lo := dva / pageSize level * pageSize level, size := pageSize level, tgt := bits e 4 2, out := addr, r := bit e 2, w := bit e 3 }

/-- One entry of R386: `fuel` levels are left below. -/
def State.walkFrom (s : State) (dva : Nat) : Nat → Nat → LeafRes
  | level, table =>
    let ea := table + 8 * dvaIndex level dva
    if s.poisoned (burstOf ea) then .bad 0xC
    else
      let e : U64 := BitVec.ofNat 64 (ofBytes (s.bytesAt ea 8))
      let addr := bits e 8 56 * 256
      let leaf := bit e 1
      if !bit e 0 then .bad 1
      else if bits e 6 2 != 0 || bits e 4 2 == 3 || (leaf && bit e 3 && !bit e 2) || (!leaf && bits e 4 2 != 0) then .bad 3
      else
        match level with
        | 0 =>
          if !leaf then .bad 3
          else checkLeaf dva e addr 0
        | n + 1 =>
          if leaf then (if n + 1 = 3 then .bad 3 else checkLeaf dva e addr (n + 1))
          else if !inGddr addr || addr % tableSize n != 0 then .bad 3
          else State.walkFrom s dva n addr

/-- The leaf of a DVA in a context's tables (R386, R387). -/
def State.walk (s : State) (ctx dva : Nat) : LeafRes :=
  let c := s.ctxAt ctx
  if !bit c.ttCtrl 0 then .bad 1
  else
    let root := bits c.ttRoot 21 24 * 0x200000
    if !inGddr root then .bad 3 else s.walkFrom dva 3 root

/-- The ASID of a context. -/
def CtxSt.asid (c : CtxSt) : Nat := bits c.ttCtrl 4 5

/-- The die that owns a device-physical address below the CXL tier: a compute die, or the memory die of the device (R31, R370). -/
def ownerDie (a : Nat) : Nat := if inScratch a then scratchDie a else 24 + (gddrMap a).dev / 12

/-- The die a device-physical access travels to: the owner, or the host die of the CXL port. -/
def State.homeDie (s : State) (a : Nat) : Nat :=
  if inCxl a then (match s.cxlRoute a with | some c => 30 + c / 2 | none => 30) else ownerDie a

/-- The device-physical checks of R32 and R383; a fenced die answers UNAVAILABLE (R483), which this model numbers 0xFE. -/
def State.physCheck (s : State) (a : Nat) : Xl :=
  if inGddr a || inScratch a then (if s.dieAnswers (ownerDie a) then .ok (.phys a) else .bad 0xFE)
  else if inCxl a then
    match s.cxlRoute a with
    | none => .bad 5
    | some c => if (s.cxlAt c).link == 2 then .ok (.phys a) else .bad 6
  else .bad 4

def AtsEntry.covers (e : AtsEntry) (port ctx page : Nat) : Bool :=
  e.port == port && e.ctx == ctx && decide (e.page ≤ page) && decide (page < e.page + 2 ^ e.order)

/-- The host's answer for an untranslated address of a context (R390). A missing answer is waited for. -/
def State.hostCheck (s : State) (ctx port a : Nat) (write : Bool) : Xl :=
  match s.ats.find? fun e => e.covers port ctx (a / 4096) with
  | none => .wait
  | some e =>
    if !e.known then .wait
    else if !e.present then .bad (if bit (s.ctxAt ctx).ttCtrl 1 then 8 else 7)
    else if write && !e.w then .bad 2
    else .ok (.host port a)

/-- Permissions and target of a leaf for an access. -/
def State.useLeaf (s : State) (ctx : Nat) (l : Leaf) (dva : Nat) (write : Bool) (locked : Bool) : Xl :=
  if (write && !l.w) || (!write && !l.r) then .bad 2
  else
    let a := l.out + (dva - l.lo)
    if l.tgt = 0 then s.physCheck a
    else if locked then .ok (.host (l.tgt - 1) a)
    else s.hostCheck ctx (l.tgt - 1) a write

def TlbEntry.covers (e : TlbEntry) (asid dva : Nat) : Bool := e.asid == asid && decide (e.lo ≤ dva) && decide (dva < e.lo + e.size)

def TlbEntry.leaf (e : TlbEntry) : Leaf := { lo := e.lo, size := e.size, tgt := e.tgt, out := e.out, r := true, w := e.w }

/-- An access by a GUARANTEED job or a link die: locked entries only (R393, R394, R402). -/
def State.lockedXlate (s : State) (ctx dva : Nat) (write : Bool) : Xl :=
  let c := s.ctxAt ctx
  match s.locked.find? fun e => e.covers c.asid dva with
  | some e => s.useLeaf ctx e.leaf dva write true
  | none =>
    if c.pins.any fun p => (p.2.st == 4 || p.2.gone) && decide (p.2.base ≤ dva) && decide (dva < p.2.limit) then .bad 0xB else .bad 0xA

/-- An access of any other job from a die (R386, R388, R390): a differing entry its translation unit holds may still be used before DONE. -/
def State.openXlate (s : State) (die ctx dva : Nat) (write : Bool) : Xl :=
  let c := s.ctxAt ctx
  let cached := s.tlb.find? fun e => e.die == die && e.covers c.asid dva
  match cached, s.walk ctx dva with
  | some e, .ok l =>
    if e.leaf = { l with r := true } then s.useLeaf ctx l dva write false
    else if Config.staleLookup s.fresh s.gt dva then s.useLeaf ctx e.leaf dva write false
    else s.useLeaf ctx l dva write false
  | some e, .bad k => if Config.staleLookup s.fresh s.gt dva then s.useLeaf ctx e.leaf dva write false else .bad k
  | none, .ok l => s.useLeaf ctx l dva write false
  | none, .bad k => .bad k

/-- A translation for an access of a job's class from a die (R393). -/
def State.xlate (s : State) (die ctx : Nat) (lockedOnly : Bool) (dva : Nat) (write : Bool) : Xl :=
  if lockedOnly then s.lockedXlate ctx dva write else s.openXlate die ctx dva write

/-- The device-physical address a DVA reads without side effect, when it has one: for the module's own looks at labels
and rings, made from HD0. -/
def State.peek? (s : State) (ctx dva : Nat) : Option Nat :=
  match s.lockedXlate ctx dva false with
  | .ok (.phys a) => some a
  | _ => match s.openXlate 30 ctx dva false with
    | .ok (.phys a) => some a
    | _ => none

end Sys2Proof.Machine
end

