-- ==== Sys2Proof/Machine/Jobs.lean ====
section
/-! DEFINITION. The end of a job: what is released, its completion record, an abort by a fault (R63, R367, R422 to R425,
R431, R450). -/

namespace Sys2Proof.Machine

/-- Remember a reason of R425 and lose the exact match (R112). Codes as REASON (R422). -/
def Job.reason (j : Job) (code : Nat) : Job :=
  { j with isExact := false, reasons := j.reasons ||| BitVec.ofNat 8 (2 ^ code) }

/-- A schedule error: the job completes DONE_LATE with reason FAULT, whenever it ends (R112). Bit 0 of `reasons` says so. -/
def Job.scheduleError (j : Job) : Job := { j.reason 1 with reasons := (j.reason 1).reasons ||| 1 }

/-- A unit whose job is gone keeps its counters and job-scoped registers (R439, R440) and is idle. -/
def UnitSt.idle (u : UnitSt) : UnitSt :=
  { u with
    job := none, cmds := [], idx := 0, started := false, done := false, endSent := false, ctr := List.replicate 6 0,
    bnd := List.replicate 6 1, ext := [], reads := [], wait := .idle, before := .idle, stopped := false, gated := [], passed := [], period := 0, satisfied := [], fired := List.replicate 6 0, owed := [], sigOwed := false, bankB := false, inTok := [],
    replies := [], claim := .idle, effMap := [], prog := 0, lanes := [], ocredit := List.replicate 9 0 }

/-- Queue numbers of a binary, every epoch's. -/
def binQueues (b : Binary) : List Nat :=
  ((b.queues ++ b.reconfs.flatMap (·.queues)).map fun q => queueKey q.die.val q.qid.val).eraseDups

/-- FTQ numbers of the matrix engines of a list of units (R217). -/
def ftqKeys (xs : List Nat) : List Nat := (xs.filter fun x => x % 16 < 4).map fun x => ftqKey (x / 16) (x % 16)

/-- Free the directory entries a unit holds, whichever die is their home (R194, R195). -/
def State.freeDirs (s : State) (x : Nat) : State :=
  let ds : Tab (List AccEntry) := s.accDir.map fun d => (d.1, d.2.filter fun e => e.holder != x)
  { s with accDir := ds.filter fun d => !d.2.isEmpty }

/-- Forget the unit state of a list of units. -/
def State.clearUnits (s : State) : List Nat → State
  | [] => s
  | x :: t =>
    let s1 := (((s.updUnit x UnitSt.idle).setWatch x none).setTile x none).setEng x .reset
    let s2 := (s1.setVx x .reset).setDec x .reset
    let s3 := if x % 16 = 10 then s2.setGse (x / 16) .reset else if x % 16 = 8 then s2.setRxe (x / 16) [] else s2
    let s4 := s3.freeDirs x
    let s5 : State := { s4 with vregs := s4.vregs.filter fun e => e.1 / 64 != x, vmask := s4.vmask.filter fun e => e.1 / 8 != x }
    State.clearUnits s5 t

/-- Empty and disable queues, with what travels to or from them. -/
def State.clearQueues (s : State) : List Nat → State
  | [] => s
  | q :: t =>
    let cs : Tab (List Flying) := s.chans.map fun c => (c.1, c.2.filter fun f => f.q != q)
    let s1 : State := { s with chans := cs.filter fun c => !c.2.isEmpty }
    State.clearQueues (s1.setQueue q .reset) t

/-- Disarm the objects a job declared (R63). -/
def State.disarm (s : State) : List SyncDecl → State
  | [] => s
  | d :: t => State.disarm (s.setSync d.sid.toNat { s.sync d.sid.toNat with armed := false }) t

/-- Trace of a job stops at its end; the drain then empties the SRAMs (R450). -/
def State.stopTrace (s : State) (jid : U64) : State :=
  s.setObs { s.obs with
    trace := s.obs.trace.map fun e =>
    if e.2.jid == some jid then (e.1, { e.2 with jid := none }) else e }

/-- Owners of shared resources the job held are free again (R467). -/
def State.freeOwners (s : State) (j : Job) : State :=
  let o := s.obs
  let o1 := if j.strobed && o.trigOwner == 1 then { o with trigOwner := 0, trigCtx := 0 } else o
  let o2 := if j.traced then { o1 with sramOwner := if o1.sramOwner == 7 then 3 else if o1.sramOwner == 4 then 0 else o1.sramOwner, sramCtx := 0 } else o1
  let o3 := if j.recorded then { o2 with sramOwner := if o2.sramOwner == 7 then 4 else if o2.sramOwner == 3 then 0 else o2.sramOwner, recCtx := 0 } else o2
  s.setObs { o3 with
    recs := o3.recs.map fun r => if r.jid == j.jid && r.state == 0 then { r with state := 1, status := if r.replayOf.isSome && r.status == 0 then 1 else r.status } else r,
    dumps := o3.dumps.map fun d => { d with jobs := d.jobs.filter fun k => k != j.jid } }

/-- The job counters of R528, in the order of their registers. -/
def Job.counters (j : Job) : List Nat :=
  [j.lateContrib, j.carryLost, j.lateSamples, j.carriedSamples, j.droppedSamples] ++ (List.range 6).map fun p => j.adderHold.getD p 0

/-- EPOCH_DISCARD of a reconfiguration in which units discarded tokens (R74): its mark, how many units and how many tokens. -/
def State.postDiscard (s : State) (r : RecfgSt) : State :=
  if r.tokens = 0 then s
  else match s.job? r.jid with
    | some j => s.event j.ctx.val 0x0D r.jid [(16, 2, r.rc.mark.toNat), (18, 2, r.units.length), (20, 4, r.tokens)]
    | none => s

/-- The reconfigurations of a job that leaves: those in which tokens were discarded are posted (R74). -/
def State.dropRecfgs (s : State) (jid : U64) : State :=
  let s1 := (s.recfgs.filter fun r => r.jid == jid).foldl State.postDiscard s
  { s1 with recfgs := s1.recfgs.filter fun r => r.jid != jid }

/-- Everything of a job leaves the module (R423); its counters keep their final values (R528). -/
def State.release (s : State) (j : Job) : State :=
  let xs := s.unitsOf j.jid
  let s1 := ((s.dropRecfgs j.jid).clearUnits xs).clearQueues (binQueues j.bin ++ ftqKeys xs)
  let s2 := ((s1.disarm j.bin.syncs).stopTrace j.jid).freeOwners j
  let s3 : State := { s2 with
    jobs := s2.jobs.filter fun k => k.jid != j.jid
    marks := s2.marks.filter fun m => m.jid != j.jid
    faults := s2.faults.filter fun f => f.jid != j.jid
    saves := s2.saves.filter fun v => v.jid != j.jid }
  s3.updCtx j.ctx.val fun c => { c with
    statusDirty := true, trigAt := none, trigDone := false, counters := j.counters.map fun n => BitVec.ofNat 48 (min n (2 ^ 48 - 1)) }

/-- ORed FLAGS of a job's units (R139), with what the job kept of units it no longer holds. -/
def State.jobFlags (s : State) (j : Job) : U16 :=
  (s.unitsOf j.jid).foldl (fun f x => f ||| (s.unit x).flags) j.flags

/-- STATE of a bank's label (R297), read without effect. -/
def State.labelState (s : State) (j : Job) (bank : Bool) : Nat :=
  match j.bin.update with
  | none => 0
  | some u => match s.peek? j.ctx.val (bits u.header (if bank then 192 else 128) 57 + 8) with
    | some a => (s.byteAt a).toNat % 4
    | none => 0

/-- DETAIL of a job's end: BANKS for a training job, else 0 (R423, R424). -/
def State.banks (s : State) (j : Job) : U64 :=
  if j.bin.update.isSome then
    pack 64 [(0, 48, j.gstep.toNat), (48, 1, b2n j.active), (49, 2, s.labelState j false), (51, 2, s.labelState j true)]
  else 0

/-- The completion record of a job's end. EXACT is 0 of a job that ends DELAYED, aborted or STEP_REPEATED, as of PREEMPTED and step
records, whatever held until then: R109 speaks of a job that completes (log entry 78). -/
def State.endRecord (s : State) (j : Job) (disp reason late : Nat) (detail : U64) : CplRec :=
  { step := false, disp := disp, reason := reason, isExact := j.isExact && decide (disp ≤ 1), widened := j.widened,
    flags := s.jobFlags j, late := late, jid := j.jid, detail := detail }

/-- A job ends: its record is written and everything of it released. -/
def State.finish (s : State) (j : Job) (disp reason late : Nat) : State :=
  (s.postCpl j.ctx.val (s.endRecord j disp reason late (s.banks j))).release j

/-- End a live job with a disposition that needs no lateness: the aborts. -/
def State.abortJob (s : State) (jid : U64) (disp : Nat) : State :=
  s.withJob jid fun j => s.finish j disp 0 0

/-- Abort a list of jobs in order. -/
def State.abortAll (s : State) (disp : Nat) : List U64 → State
  | [] => s
  | k :: t => State.abortAll (s.abortJob k disp) disp t

/-- A fault that ends its job (R429): the fault record, then ABORTED_FAULT. -/
def State.jobFault (s : State) (jid : U64) (cause access unit : Nat) (isDie : Bool) (dva bytes : Nat) : State :=
  s.withJob jid fun j =>
    (s.postFault j.ctx.val {
      cause := cause, access := access, pri := false, unitIsDie := isDie, unit := unit, fid := 0,
      jid := jid, dva := dva, bytes := bytes }).abortJob jid 6

/-- Poison met by a job's stream (R376): the abort, and ECC_UNCORRECTED in the job's context. -/
def State.poisonFault (s : State) (jid : U64) (access unit : Nat) (isDie : Bool) (dva addr bytes : Nat) : State :=
  s.withJob jid fun j =>
    (s.event j.ctx.val 0x0A jid [(16, 1, (gddrMap addr).dev), (18, 1, b2n (s.devAt (gddrMap addr).dev).hard), (24, 8, addr)]).jobFault
      jid 0x0C access unit isDie dva bytes

/-- Note a reason for a job. -/
def State.jobReason (s : State) (jid : U64) (code : Nat) : State := s.updJob jid fun j => j.reason code

/-- Jobs of a context in order of admission. -/
def State.ctxJobs (s : State) (ctx : Nat) : List U64 := (s.jobs.filter fun j => j.live && j.ctx.val == ctx).map (·.jid)

end Sys2Proof.Machine
end

