-- ==== Sys2Proof/Machine/Mem.lean ====
section
/-! DEFINITION. Accesses of streams through translation, with poison, and the faults they take (R376, R393 to R402). -/

namespace Sys2Proof.Machine

/-- Who accesses memory: unit address or die ID, context, job, and whether only locked entries serve it (R393). -/
structure Who where
  unit : Nat
  isDie : Bool
  ctx : Nat
  jid : U64
  lockedOnly : Bool
deriving DecidableEq, Repr

/-- The die an access comes from. -/
def Who.die (w : Who) : Nat := if w.isDie then w.unit else w.unit / 16

/-- What an access gives: its value, a fault (cause, access type, DVA, physical address), or a host answer awaited. -/
inductive Acc (α : Type) where
  | ok (v : α)
  | bad (cause access dva addr : Nat)
  | wait (dva : Nat)
deriving DecidableEq, Repr

/-- Chain accesses. -/
def Acc.bind {α β : Type} (a : Acc α) (f : α → Acc β) : Acc β :=
  match a with
  | .ok v => f v
  | .bad c x d p => .bad c x d p
  | .wait d => .wait d

def Acc.map {α β : Type} (f : α → β) (a : Acc α) : Acc β := a.bind fun v => .ok (f v)

/-- Do an access for each element in order, up to the first that faults. -/
def accAll {α β : Type} (f : α → Acc β) : List α → Acc (List β)
  | [] => .ok []
  | a :: t => (f a).bind fun v => (accAll f t).bind fun vs => .ok (v :: vs)

/-- The translation of one byte. -/
def State.locate (s : State) (w : Who) (dva : Nat) (write : Bool) : Acc Loc :=
  match s.xlate w.die w.ctx w.lockedOnly dva write with
  | .ok l => .ok l
  | .bad c => .bad c (if c = 0xC then 2 else b2n write) dva dva
  | .wait => .wait dva

/-- A byte at its place. Poisoned GDDR7 bursts give poison (R375); a host byte is free (Config.hostByte). -/
def State.loadAt (s : State) (w : Who) (dva : Nat) : Loc → Acc Byte
  | .phys a => if inGddr a && s.poisoned (burstOf a) then .bad 0xC 0 dva a else .ok (s.byteAt a)
  | .host p a => .ok (Config.hostByte s.fresh s.gt (if w.isDie then 512 + w.unit else w.unit) (hostKey p a))

def State.loadByte (s : State) (w : Who) (dva : Nat) : Acc Byte := (s.locate w dva false).bind (s.loadAt w dva)

/-- `n` bytes at a DVA. -/
def State.load (s : State) (w : Who) (dva : Nat) : Nat → Acc (List Byte)
  | 0 => .ok []
  | n + 1 => (s.loadByte w dva).bind fun b => (State.load s w (dva + 1) n).bind fun t => .ok (b :: t)

/-- A byte to store at a place. -/
abbrev Stores := List (Nat × Byte)

/-- A burst is written whole by a list of stores (R375). -/
def coversBurst (l : List (Loc × Byte)) (burst : Nat) : Bool :=
  (List.range 64).all fun i => l.any fun e => e.1 == .phys (burst * 64 + i)

/-- Store located bytes. Whole bursts clear poison; granules in a read-ahead buffer are dropped (R382). -/
def State.storeLoc (s : State) : List (Loc × Byte) → State
  | [] => s
  | (.phys a, b) :: t => State.storeLoc (s.putByte a b) t
  | (.host p a, b) :: t => State.storeLoc (s.hostWrite p a [b]) t

/-- A whole burst written clears its poison; its device remembers that it was rewritten (R375, R377). -/
def State.cleanBurst (s : State) (k : Nat) : State :=
  if !s.poisoned k then s
  else (s.setPoison k false).updDev (gddrMap (k * 64)).dev fun d => { d with rewritten := if d.rewritten.contains k then d.rewritten else d.rewritten ++ [k] }

/-- Clear the poison of the bursts a store list writes whole. -/
def State.unpoison (s : State) : List Nat → State
  | [] => s
  | k :: t => State.unpoison (s.cleanBurst k) t

/-- Drop read-ahead granules a store touches. -/
def State.dropAhead (s : State) (l : List (Loc × Byte)) : State :=
  let gs := (l.filterMap fun e => match e.1 with | .phys a => if inCxl a then some (a / 4096) else none | _ => none).eraseDups
  gs.foldl (fun s g => match s.cxlRoute (g * 4096) with
    | some c => s.updCxl c fun p => { p with ra := p.ra.filter fun x => x != g }
    | none => s) s

/-- Stored bytes travel from the die of the access to the dies that own their addresses (R18, R19, R31). -/
def State.carryStores (s : State) (w : Who) (l : List Loc) : State :=
  ((l.filterMap fun p => match p with | .phys a => some (s.homeDie a) | .host p _ => some (30 + p)).eraseDups).foldl (fun s d => s.carry w.die d) s

/-- Store bytes at DVAs: every one is translated before any is written (R396). -/
def State.storeAll (s : State) (w : Who) (l : Stores) : Acc State :=
  (accAll (fun e : Nat × Byte => (s.locate w e.1 true).bind fun p => .ok (e.1, p, e.2)) l).bind fun ps =>
    let places := ps.map fun e => e.2
    match ps.find? fun e => match e.2.1 with
        | .phys a => inGddr a && s.poisoned (burstOf a) && !coversBurst places (burstOf a)
        | _ => false with
    | some (d, .phys a, _) => .bad 0xC 1 d a
    | some (d, .host _ a, _) => .bad 0xC 1 d a
    | none =>
      let bursts := (places.filterMap fun e => match e.1 with
        | .phys a => if inGddr a && s.poisoned (burstOf a) then some (burstOf a) else none
        | _ => none).eraseDups
      .ok ((((s.storeLoc places).unpoison bursts).dropAhead places).carryStores w (places.map (·.1)))

/-- Consecutive bytes as stores. -/
def storesAt (dva : Nat) : List Byte → Stores
  | [] => []
  | b :: t => (dva, b) :: storesAt (dva + 1) t

def State.store (s : State) (w : Who) (dva : Nat) (b : List Byte) : Acc State := s.storeAll w (storesAt dva b)

/-! ### Faults of streams (R396 to R400) -/

/-- Page of 64 KiB. -/
def page64 (dva : Nat) : Nat := dva / 65536

/-- The stream number of a unit or link die: unit address, or 512 + die ID. -/
def Who.stream (w : Who) : Nat := if w.isDie then 512 + w.unit else w.unit

/-- Raise JOINED in a record of the fault that still waits for ring space (R397). -/
def State.joinRecord (s : State) (ctx fid : Nat) : State :=
  s.updCtx ctx fun c => { c with flt := { c.flt with wait := c.flt.wait.map (bumpJoined fid) } }

/-- A stalling fault in a job that is not GUARANTEED: post or join, and wait (R396, R397). -/
def State.stall (s : State) (w : Who) (cause access dva bytes : Nat) : State :=
  let stalled (s : State) : State := if w.isDie then s else s.setWait w.unit (.fault dva)
  match s.faults.find? fun f => f.ctx.val == w.ctx && page64 f.dva == page64 dva && f.write == (access == 1) with
  | some f =>
    let fs := s.faults.map fun g => if g == f then { g with joined := g.joined ++ [w.stream] } else g
    stalled (({ s with faults := fs } : State).joinRecord w.ctx f.fid.toNat)
  | none =>
    let fid := BitVec.ofNat 32 (s.ctxAt w.ctx).nextFid
    let s1 := s.postFault w.ctx {
      cause := cause, access := access, pri := cause == 8, unitIsDie := w.isDie, unit := w.unit,
      fid := 0, jid := w.jid, dva := dva, bytes := bytes }
    stalled (({ s1 with faults := s1.faults ++ [{
      fid := fid, ctx := BitVec.toFin (BitVec.ofNat 5 w.ctx), jid := w.jid, stream := w.stream,
      joined := [], dva := dva, write := access == 1, cause := cause, pri := cause == 8 }] } : State).updJob w.jid fun j => { j.reason 1 with faulted := true })

/-- A job that meets UNAVAILABLE at a die spans it and ends at the next boundary (R482, R483). -/
def State.unavailable (s : State) (jid : U64) : State := s.updJob jid fun j => { j with pendAbort := some (j.pendAbort.getD 0xA) }

/-- What a faulting access does to its stream and job (R376, R396, R400). -/
def State.streamFault (s : State) (w : Who) (cause access dva addr bytes : Nat) : State :=
  match s.job? w.jid with
  | none => s
  | some j =>
    if cause = 0xFE then s.unavailable w.jid
    else if cause = 0xC then s.poisonFault w.jid access w.unit w.isDie dva addr bytes
    else if 0xC < cause then s.jobFault w.jid cause access w.unit w.isDie dva bytes
    else if j.guaranteed then s.jobFault w.jid cause access w.unit w.isDie dva bytes
    else s.stall w cause access dva bytes

/-- Run the rest of a meaning on an access's value, its words carried over the fabric; a fault or a wait gives the stream's stall instead. -/
def State.on {α : Type} (s : State) (w : Who) (a : Acc α) (f : α → State) : State :=
  match a with
  | .ok v => (f v).accessed w.die
  | .bad c x d p => s.streamFault w c x d p 0
  | .wait d => if w.isDie then s else s.setWait w.unit (.fault d)

/-- The accessor of a unit's job; a unit without a job accesses nothing. -/
def whoOf (x : Nat) (j : Job) : Who :=
  { unit := x, isDie := false, ctx := j.ctx.val, jid := j.jid, lockedOnly := j.guaranteed }

/-- The streams of a fault, its own first. -/
def FaultSt.streams (f : FaultSt) : List Nat := f.stream :: f.joined

/-- A unit whose access waits in an outstanding fault's record: its stream stands still until the fault is resolved (R399, R400). -/
def State.stalled (s : State) (x : Nat) : Bool := s.faults.any fun f => f.streams.contains x

/-- Do something with the job of a unit, or nothing. -/
def State.withUnitJob (s : State) (x : Nat) (f : Job → State) : State :=
  match (s.unit x).job with
  | none => s
  | some k => s.withJob k f

/-- The module's own writes of labels, headers and areas: they go where the context's translation leads and nowhere else. -/
def State.storeQuiet (s : State) (ctx : Nat) (dva : Nat) (b : List Byte) : State :=
  let w : Who := { unit := 30, isDie := true, ctx := ctx, jid := 0, lockedOnly := false }
  match s.storeAll { w with lockedOnly := true } (storesAt dva b) with
  | .ok s1 => s1
  | _ => match s.storeAll w (storesAt dva b) with
    | .ok s1 => s1
    | _ => s

end Sys2Proof.Machine
end

