-- ==== Sys2Proof/Machine/Sync.lean ====
section
/-! DEFINITION. RUN and IDLE of units, and the operations on sync objects (R47, R62 to R68). -/

namespace Sys2Proof.Machine

/-! ### Wait states -/

/-- RUN with the tag of the unit's current command, or IDLE when it has none (R47). -/
def State.setRun (s : State) (x : Nat) : State :=
  s.setWait x (match (s.unit x).cmd? with | some c => .run c.tag | none => .idle)

/-! ### The home bank (R64 to R67) -/

/-- An object's value as its comparisons take it (R62). -/
def SyncObj.asInt (o : SyncObj) (v : U64) : Int := if o.signed then v.toInt else v.toNat

/-- The condition of WAIT_GE (R64). -/
def SyncObj.reached (o : SyncObj) (v : U64) : Bool := decide (o.asInt v ≤ o.asInt o.value)

/-- FETCH_ADD's new value and its reply (R64). -/
def SyncObj.fetchAdd (o : SyncObj) (a : U64) : U64 × U64 :=
  if o.ty == 1 then
    (BitVec.ofNat 64 (min (o.value.toNat + a.toNat) o.bound.toNat), BitVec.ofNat 64 (min o.value.toNat o.bound.toNat))
  else (o.value + a, o.value)

def SyncObj.fetchMin (o : SyncObj) (a : U64) : U64 := if o.asInt a < o.asInt o.value then a else o.value
def SyncObj.fetchMax (o : SyncObj) (a : U64) : U64 := if o.asInt o.value < o.asInt a then a else o.value

/-- Watches on an object whose value changed are satisfied when it is reached (R67). -/
def State.wake (s : State) (sid : U16) : State :=
  let o := s.sync sid.toNat
  { s with watches := s.watches.map fun e => match e.2 with
    | some w => if w.sid == sid && o.reached w.value then (e.1, some { w with hit := true }) else e
    | none => e }

/-- Write an object's value. -/
def State.putValue (s : State) (sid : U16) (v : U64) : State :=
  let o := s.sync sid.toNat
  if o.value == v then s else (s.setSync sid.toNat { o with value := v }).wake sid

/-- The trace record and the DCU's count of an operation (R445, R436). Operations are numbered in the order of R64's table. -/
def State.syncDone (s : State) (x : Nat) (sid : U16) (op : Nat) (ret : U64) : State :=
  let home := syncHome sid
  let s1 := if home < 24 then s.updUnit (home * 16 + 15) fun u => u.count 1 1 else s
  match (s.unit x).job with
  | none => s1
  | some k => s1.traceEv (x / 16) 0x05 3 k x (s.unit x).liveTag [(16, 1, op), (18, 2, sid.toNat), (24, 8, ret.toNat)]

/-- A reply sets out for the unit (R66). -/
def State.sendReply (s : State) (x : Nat) (sid : U16) (v : U64) (kind slot : Nat) : State :=
  s.updUnit x fun u => { u with replies := u.replies ++ [{ sid := sid, value := v, kind := kind, slot := slot }] }

/-- A unit's operation on an object: the home die must answer, the object must be armed (R68). Until it stops, a unit of a job that is
being preempted still issues those of the iteration in flight (R77). -/
def State.syncOp (s : State) (x : Nat) (sid : U16) (f : SyncObj → State) : State :=
  s.withUnitJob x fun j =>
    let o := s.sync sid.toNat
    if (s.unit x).stopped || !(j.phase == .running || j.phase == .stopping) || !s.dieAnswers (x / 16) then s
    else if !s.dieAnswers (syncHome sid) then s.unavailable j.jid
    else if !o.armed then s.jobFault j.jid 0x14 3 x false 0 0
    else (f o).exchange (x / 16) (syncHome sid)

/-- The bound word whose outstanding read of an object the home bank has not performed yet (R44). -/
def UnitSt.boundRead? (u : UnitSt) (sid : U16) : Option BoundRead :=
  u.reads.find? fun r => bits r.word 29 2 == 1 && bits r.word 0 16 == sid.toNat && !(u.replies.any fun q => q.kind == 1 && q.slot == r.slot)

/-- The home bank performs the read of a bound word, issued in the command's start cycle; a stop that came since does not recall it (R44,
R66, R77). -/
def State.performRead (s : State) (x : Nat) (sid : U16) (slot : Nat) : State :=
  s.withUnitJob x fun j =>
    let o := s.sync sid.toNat
    if !(j.phase == .running || j.phase == .stopping || j.phase == .saving) || !s.dieAnswers (x / 16) then s
    else if !s.dieAnswers (syncHome sid) then s.unavailable j.jid
    else if !o.armed then s.jobFault j.jid 0x14 3 x false 0 0
    else ((s.sendReply x sid o.value 1 slot).syncDone x sid 6 o.value).exchange (x / 16) (syncHome sid)

/-- FETCH_ADD at the home bank, with its reply of a kind. -/
def State.doFetchAdd (s : State) (x : Nat) (sid : U16) (a : U64) (kind slot : Nat) : State :=
  s.syncOp x sid fun o =>
    ((s.putValue sid (o.fetchAdd a).1).sendReply x sid (o.fetchAdd a).2 kind slot).syncDone x sid 0 (o.fetchAdd a).2

/-- SIGNAL: FETCH_ADD, posted. -/
def State.doSignal (s : State) (x : Nat) (sid : U16) (a : U64) : State :=
  s.syncOp x sid fun o => (s.putValue sid (o.fetchAdd a).1).syncDone x sid 3 0

/-- FETCH_ADD (R64). -/
def execFetchAdd (x : UnitId) (sid : U16) (a : U64) (s : State) : Host.Outcome State Fault Refusal :=
  s.ran fun s => s.doFetchAdd x.addr sid a 0 0

/-- FETCH_MIN (R64). -/
def execFetchMin (x : UnitId) (sid : U16) (a : U64) (s : State) : Host.Outcome State Fault Refusal :=
  s.ran fun s => s.syncOp x.addr sid fun o =>
    ((s.putValue sid (o.fetchMin a)).sendReply x.addr sid o.value 0 0).syncDone x.addr sid 1 o.value

/-- FETCH_MAX (R64). -/
def execFetchMax (x : UnitId) (sid : U16) (a : U64) (s : State) : Host.Outcome State Fault Refusal :=
  s.ran fun s => s.syncOp x.addr sid fun o =>
    ((s.putValue sid (o.fetchMax a)).sendReply x.addr sid o.value 0 0).syncDone x.addr sid 2 o.value

/-- SIGNAL (R64). -/
def execSignal (x : UnitId) (sid : U16) (a : U64) (s : State) : Host.Outcome State Fault Refusal :=
  s.ran fun s => s.doSignal x.addr sid a

/-- WAIT_GE (R64, R67): a watch, one per unit address; satisfied at once when the value is reached already. -/
def execWaitGe (x : UnitId) (sid : U16) (v : U64) (s : State) : Host.Outcome State Fault Refusal :=
  s.ran fun s => s.syncOp x.addr sid fun o =>
    ((s.setWatch x.addr (some { sid := sid, value := v, hit := o.reached v })).setWait x.addr (.sync sid v)).syncDone x.addr sid 4 0

/-- A software access to a sync window is allowed: the control function, or the owner of the object's context (R63, R404). -/
def State.mayRead (s : State) (f : Func) (sid : U16) : Bool := s.isControl f || (s.sync sid.toNat).ctx.toNat == f.ctx

/-- READ (R44, R64, R66): by a unit, of its own or for an outstanding bound word, or by software through the sync window. -/
def execRead (by_ : SyncBy) (sid : U16) (s : State) : Host.Outcome State Fault Refusal :=
  s.ran fun s =>
    match by_ with
    | .unit x => (match (s.unit x.addr).boundRead? sid with
      | some r => s.performRead x.addr sid r.slot
      | none => s.syncOp x.addr sid fun o => (s.sendReply x.addr sid o.value 0 0).syncDone x.addr sid 6 o.value)
    | .soft f =>
      if !s.barOpen then s
      else if !s.dieAnswers (syncHome sid) then s.reply (.value 0)
      else
        let r := s.exchange (30 + f.port.val) (syncHome sid)
        if s.mayRead f sid then r.reply (.value (s.sync sid.toNat).value) else (r.deny f).reply (.value 0)
    | .module => s

/-- A control word's effect on an object: a reserved TYPE leaves TYPE (R62). -/
def SyncObj.control (o : SyncObj) (c : U64) : SyncObj :=
  { o with
    ty := if 2 ≤ bits c 0 2 then o.ty else BitVec.ofNat 2 (bits c 0 2)
    armed := bit c 2
    ctx := BitVec.ofNat 5 (bits c 3 5)
    signed := bit c 8
    bound := BitVec.ofNat 48 (bits c 16 48) }

/-- CONTROL as it reads (R62). -/
def SyncObj.controlWord (o : SyncObj) : U64 :=
  pack 64 [(0, 2, o.ty.toNat), (2, 1, b2n o.armed), (3, 5, o.ctx.toNat), (8, 1, b2n o.signed), (16, 48, o.bound.toNat)]

/-- A software write to an armed object is refused with ARMED_WRITE in the writer's context (R68). -/
def State.armedWrite (s : State) (f : Func) : State :=
  s.postFault f.ctx { cause := 0x13, access := 3, pri := false, unitIsDie := true, unit := 30 + f.port.val, fid := 0, jid := 0, dva := 0, bytes := 0 }

/-- SET (R63, R64): allowed while disarmed, from the module or the control function. No unit issues it. -/
def execSet (by_ : SyncBy) (sid : U16) (v ctl : U64) (s : State) : Host.Outcome State Fault Refusal :=
  s.ran fun s =>
    let o := s.sync sid.toNat
    match by_ with
    | .unit _ => s
    | .module => if o.armed then s else (s.setSync sid.toNat { o.control ctl with value := v }).wake sid
    | .soft f => if !s.barOpen || !s.dieAnswers (syncHome sid) then s else (s.exchange (30 + f.port.val) (syncHome sid)).privileged f fun s =>
      if o.armed then s.armedWrite f
      else (s.setSync sid.toNat { o.control ctl with value := v }).wake sid

/-- SYNC_REPLY (R66): the oldest reply to an operation or a claim reaches its unit; a claim's reply is kept for its claims (R263). The
reply to a bound read is BOUND_READ_REPLY's. -/
def execSyncReply (x : UnitId) (s : State) : Host.Outcome State Fault Refusal :=
  s.ran fun s =>
    let u := s.unit x.addr
    match u.replies.find? fun r => r.kind != 1 with
    | none => s
    | some r =>
      let u1 := { u with replies := u.replies.erase r }
      if r.kind = 2 then s.setUnit x.addr { u1 with claim := { u1.claim with next := some r.value.toNat, inFlight := false } }
      else s.setUnit x.addr u1

/-- WATCH_NOTIFY (R67): a satisfied watch reaches its unit, which may fire from now on. -/
def execWatchNotify (x : UnitId) (s : State) : Host.Outcome State Fault Refusal :=
  s.ran fun s =>
    match s.watch x.addr with
    | none => s
    | some w =>
      if !w.hit then s
      else
        let s1 := (s.setWatch x.addr none).updUnit x.addr fun u => { u with satisfied := u.satisfied ++ [(w.sid, w.value)] }
        let s2 := (if (s1.unit x.addr).wait.code == 3 && !(s1.unit x.addr).stopped then s1.setRun x.addr else s1).carry (syncHome w.sid) x.die.val
        if syncHome w.sid < 24 then s2.updUnit (syncHome w.sid * 16 + 15) fun u => u.count 5 1 else s2

end Sys2Proof.Machine
end

