-- ==== Sys2Proof/Machine/Units.lean ====
section
/-! DEFINITION. Units: commands and loop nests, the firing rule, tokens, queues and credits, claims (R38 to R61, R262 to R264). -/

namespace Sys2Proof

/-! The claim word of a command (R262). -/

def Cmd.claimEn (c : Cmd) : Bool := Machine.bit c.claim 0
def Cmd.claimLevel (c : Cmd) : Nat := Machine.bits c.claim 1 3
def Cmd.claimSize (c : Cmd) : Nat := Machine.bits c.claim 8 16
def Cmd.claimSync (c : Cmd) : U16 := BitVec.ofNat 16 (Machine.bits c.claim 32 16)
def Cmd.doneSync (c : Cmd) : U16 := BitVec.ofNat 16 (Machine.bits c.claim 48 16)

/-- A bound each claim reads for itself: inside CLAIM_LEVEL, from memory (R263). -/
def Cmd.perClaim (c : Cmd) (l : Nat) : Bool :=
  let w := c.bounds.getD l 1
  c.claimEn && decide (c.claimLevel < l) && decide (l < 6) && Machine.bit w 31 && Machine.bits w 29 2 == 2

/-- Units whose iterations are work of a datapath: their pushes wait for it. -/
def Cmd.worked (c : Cmd) : Bool := match c.body with | .upe => false | _ => true

end Sys2Proof

namespace Sys2Proof.Machine

/-! ### Queues (R53 to R58) -/

def QueueSt.base (q : QueueSt) : Nat := bits q.cfg 0 15
def QueueSt.depth (q : QueueSt) : Nat := bits q.cfg 16 12 + 1
def QueueSt.producer (q : QueueSt) : Nat := bits q.cfg 28 5 * 16 + bits q.cfg 33 4
def QueueSt.prodPort (q : QueueSt) : Nat := bits q.cfg 37 3
def QueueSt.consU (q : QueueSt) : Nat := bits q.cfg 40 4
def QueueSt.consPort (q : QueueSt) : Nat := bits q.cfg 44 3
def QueueSt.en (q : QueueSt) : Bool := bit q.cfg 47

/-- The 48 bits of QCFG that hold fields. -/
def qcfgMask : U64 := 0xFFFFFFFF7FFF#64

/-- The die of a queue's slots: an FTQ lies on its own die (R217). -/
def queueDie (k : Nat) : Nat := if k < 12288 then k / 512 else (k - 12288) / 4

/-- The QID a wait records: 512 + n for FTQn (R217). -/
def queueId (k : Nat) : Nat := if k < 12288 then k % 512 else 512 + (k - 12288) % 4

/-- The queue an output port produces into; port 8 of MXEn is FTQn. -/
def State.outQueue (s : State) (x port : Nat) : Option Nat :=
  if port = 8 then (if x % 16 < 4 then some (ftqKey (x / 16) (x % 16)) else none)
  else (s.queues.find? fun e => decide (e.1 < 12288) && e.2.en && e.2.producer == x && e.2.prodPort == port).map (·.1)

/-- The queue an input port consumes from; port 8 of VXEn is FTQn. -/
def State.inQueue (s : State) (x port : Nat) : Option Nat :=
  if port = 8 then (if 4 ≤ x % 16 ∧ x % 16 < 8 then some (ftqKey (x / 16) (x % 16 - 4)) else none)
  else (s.queues.find? fun e => e.1 / 512 == x / 16 && decide (e.1 < 12288) && e.2.en && e.2.consU == x % 16 && e.2.consPort == port).map (·.1)

/-- The producer of a queue and its port. -/
def State.prodOf (s : State) (k : Nat) : Nat × Nat :=
  if k < 12288 then ((s.queue k).producer, (s.queue k).prodPort) else (queueDie k * 16 + (k - 12288) % 4, 8)

/-! ### Tokens (R49 to R51) -/

def Token.epoch (t : Token) : Nat := bits t.hdr 0 4
def Token.tag (t : Token) : BitVec 12 := BitVec.ofNat 12 (bits t.hdr 4 12)
def Token.kind (t : Token) : Nat := bits t.hdr 16 2
def Token.isRef (t : Token) : Bool := bit t.hdr 18
/-- Fields of a reference (R50): payload bytes 8 to 23 are bytes 0 to 15 of the payload word. -/
def Token.off (t : Token) : Nat := bits t.pay 0 27
def Token.die (t : Token) : Nat := bits t.pay 27 5
def Token.len (t : Token) : Nat := bits t.pay 32 32
def Token.tile (t : Token) : Nat := bits t.pay 64 48
/-- Side data: row mask at bytes 24-31, SCALE_PTR at 32-39, BLK_POS at byte 40 (R222, R539). -/
def Token.rowMask (t : Token) : Nat := bits t.pay 128 64
def Token.scalePtr (t : Token) : Nat := bits t.pay 192 64
def Token.blkPos (t : Token) : Nat := bits t.pay 256 8

/-- A reference's payload (R50, R539). -/
def refPayload (die off len tile rowMask scalePtr blkPos : Nat) : BitVec 448 :=
  pack 448 [(0, 27, off), (27, 5, die), (32, 32, len), (64, 48, tile), (128, 64, rowMask), (192, 64, scalePtr), (256, 8, blkPos)]

/-- A token header (R49). -/
def tokenHdr (epoch : Nat) (tag : BitVec 12) (kind : Nat) (ref : Bool) (src len seq : Nat) : U64 :=
  pack 64 [(0, 4, epoch), (4, 12, tag.toNat), (16, 2, kind), (18, 1, b2n ref), (24, 9, src), (33, 6, len), (48, 16, seq)]

/-- A tag the compiler assigns and no structure of the manual carries: a free value. -/
def freshTag (s : State) : BitVec 12 := BitVec.ofNat 12 (bits (Config.freeWord s.fresh) 0 12)

/-- FTQ_DEPTH in tiles of a matrix engine's current command (R205). -/
def UnitSt.ftqDepth (u : UnitSt) : Nat :=
  match u.cmd? with
  | some c => (match c.body with | .mxe _ dec _ => bits dec 48 3 + 1 | _ => 1)
  | none => 1

/-- Credits an output port holds. Decant's for the FTQ are the tile buffers not filled, queued or held by VXEn, which returns an entry's
credit with the last POP that reads it (R218). -/
def State.credits (s : State) (x port : Nat) : Nat :=
  let u := s.unit x
  if port = 8 then u.ftqDepth - ((s.queue (ftqKey (x / 16) (x % 16))).toks.length +
    b2n ((assoc (s.unit (x + 4)).inTok 8).isSome && !(s.vxAt (x + 4)).freed) + b2n (s.decAt x).paid)
  else (u.ocredit.getD port 0).toNat

/-- Spend one credit; those of the FTQ follow from its contents. -/
def State.spend (s : State) (x port : Nat) : State :=
  s.updUnit x fun u => { u with ocredit := modAt u.ocredit port fun c => if port = 8 then c else c - 1 }

/-- Push a token on an output port: into the queue on its own die, or onto the token channel (R49, R57). LEN of a reference is 16. -/
def State.pushToken (s : State) (x port : Nat) (tag : BitVec 12) (kind : Nat) (ref : Bool) (len : Nat) (pay : BitVec 448) : State :=
  match s.outQueue x port with
  | none => s
  | some k =>
    let q := s.queue k
    let t : Token := { hdr := tokenHdr (s.unit x).epoch.toNat tag kind ref x (if ref then 16 else len) q.seq, pay := pay }
    let q1 := { q with seq := (q.seq + 1) % 65536 }
    if 12288 ≤ k then s.setQueue k { q1 with toks := q.toks ++ [t], tail := q.tail + b2n (kind == 0) }
    else if x / 16 = queueDie k then s.setQueue k { q1 with toks := q.toks ++ [t], tail := (q.tail + 1) % q.depth }
    else
      let c := x / 16 * 32 + queueDie k
      let s1 := (s.setQueue k q1).setChan c (s.chan c ++ [{ q := k, ready := s.gt, tok := t }])
      s1

/-- Pop the head of a queue: its credit sets out for the producer (R58). -/
def State.popQueue (s : State) (k : Nat) : State :=
  let q := s.queue k
  s.setQueue k { q with toks := q.toks.tail, head := (q.head + 1) % q.depth, credBack := q.credBack + b2n (decide (k < 12288)) }

/-- The head token of an input port. -/
def State.headTok (s : State) (x port : Nat) : Option (Nat × Token) :=
  match s.inQueue x port with
  | none => none
  | some k => (s.queue k).toks.head?.map fun t => (k, t)

/-- Queues and units of a reconfiguration. -/
def rcKeys (r : Reconf) : List Nat := r.queues.map fun q => queueKey q.die.val q.qid.val
def rcUnits (r : Reconf) : List Nat := r.units.map fun u => u.x.addr

/-- A token of an older epoch still waits for a unit of a reconfiguration, or travels to it. -/
def State.staleLeft (s : State) (r : RecfgSt) : Bool :=
  let old (k : Nat) (t : Token) : Bool :=
    let x := queueDie k * 16 + (s.queue k).consU
    decide (k < 12288) && (rcUnits r.rc).contains x && t.epoch != (s.unit x).epoch.toNat
  s.queues.any (fun e => e.2.toks.any (old e.1)) || s.chans.any fun c => c.2.any fun f => old f.q f.tok

/-- A reconfiguration that has switched and whose stale tokens are gone is over: EPOCH_DISCARD if units discarded any (R74). -/
def State.closeReconf (s : State) (r : RecfgSt) : State :=
  if !r.switched || s.staleLeft r then s else ({ s with recfgs := s.recfgs.erase r } : State).postDiscard r

def State.closeReconfs (s : State) : State := s.recfgs.foldl State.closeReconf s

/-- A token a unit discarded counts for the reconfiguration that switched the unit last. -/
def chargeDiscard (jid : U64) (x : Nat) : List RecfgSt → List RecfgSt
  | [] => []
  | r :: t =>
    if r.jid == jid && r.switched && (rcUnits r.rc).contains x then
      { r with tokens := r.tokens + 1, units := if r.units.contains x then r.units else r.units ++ [x] } :: t
    else r :: chargeDiscard jid x t

/-- Discard a stale head (R73); the reconfiguration's count rises, and its event is posted with its last stale token (R74). -/
def State.discardHead (s : State) (x k : Nat) : State :=
  let s1 := (s.popQueue k).updUnit x fun u => { u with discards := satAdd u.discards 1 }
  match (s.unit x).job with
  | none => s1
  | some jid => State.closeReconfs { s1 with recfgs := (chargeDiscard jid x s1.recfgs.reverse).reverse }

/-! ### The loop nest (R39, R40, R263) -/

/-- Levels inside level k all hold their first value; the claim level does in the unit's first claim. -/
def innerZero (c : Cmd) (u : UnitSt) (k : Nat) : Bool :=
  (List.range 6).all fun l => decide (l ≤ k) || (if c.claimEn && l == c.claimLevel then !u.claim.started else u.ctr.getD l 0 == 0)

/-- Levels inside level k all hold their last value; the claim level never does in an iteration. -/
def innerLast (c : Cmd) (u : UnitSt) (k : Nat) : Bool :=
  (List.range 6).all fun l => decide (l ≤ k) ||
    (if c.claimEn && l == c.claimLevel then false else (u.ctr.getD l 0).toNat + 1 == (u.bnd.getD l 1).toNat)

/-- Any bound 0: no iterations (R45). CLAIM_LEVEL's is the object's, and a bound read for each claim is that claim's alone. -/
def UnitSt.empty (u : UnitSt) (c : Cmd) : Bool :=
  (List.range 6).any fun l => u.bnd.getD l 1 == 0 && !(c.claimEn && l == c.claimLevel) && !c.perClaim l

/-- The claim in hand has no iterations: a bound read for it is 0. -/
def UnitSt.emptyClaim (u : UnitSt) (c : Cmd) : Bool := (List.range 6).any fun l => c.perClaim l && u.bnd.getD l 1 == 0

/-- The reads a claim begins with (R263). -/
def claimReads (c : Cmd) : List BoundRead :=
  (List.range 6).filterMap fun l => if c.perClaim l then some { slot := l, word := c.bounds.getD l 1, maxb := c.maxb.getD l 0 } else none

/-- Step the counters below level `lo`, innermost first: the new counters, and whether level `lo` must step. -/
def stepCtr (bnd : List U32) : Nat → List U32 → List U32 × Bool
  | 0, c => (c, true)
  | n + 1, c =>
    if (c.getD n 0).toNat + 1 < (bnd.getD n 1).toNat then (setAt c n (c.getD n 0 + 1), false)
    else stepCtr bnd n (setAt c n 0)

/-- Step only the levels inside `lo`: true when all of them wrapped. -/
def stepInner (bnd : List U32) (lo : Nat) : Nat → List U32 → List U32 × Bool
  | 0, c => (c, true)
  | n + 1, c =>
    if n + 1 ≤ lo + 1 then (c, true)
    else if (c.getD n 0).toNat + 1 < (bnd.getD n 1).toNat then (setAt c n (c.getD n 0 + 1), false)
    else stepInner bnd lo n (setAt c n 0)

/-! ### Bounds bound at issue (R43 to R45, R152) -/

/-- Set a bound or an extent; a value above MAXB is clamped, flagged and counted. -/
def UnitSt.setBound (u : UnitSt) (c : Cmd) (slot : Nat) (v maxb : Nat) (checked : Bool) : UnitSt :=
  let high := checked && decide (maxb < v)
  let w : U32 := BitVec.ofNat 32 (if high then maxb else v)
  let u1 := if high then { u.orFlags 0x100 with boundClamps := satAdd u.boundClamps 1 } else u
  if slot < 6 then { u1 with bnd := setAt u1.bnd slot w }
  else match c.tdMaxb[slot - 6]? with
    | some (key, _) => { u1 with ext := assocSet u1.ext key w }
    | none => u1

/-- Take one bound word at the start cycle: literals and registers at once, others wait for their read. -/
def UnitSt.takeBound (u : UnitSt) (c : Cmd) (slot : Nat) (w maxb : U32) : UnitSt :=
  if !bit w 31 then u.setBound c slot (bits w 0 31) 0 false
  else if bits w 29 2 = 0 then u.setBound c slot (u.bound.getD (bits w 0 4) 0).toNat maxb.toNat true
  else { u with reads := u.reads ++ [{ slot := slot, word := w, maxb := maxb }] }

/-- Extent d of a TD as a bound word (R145). -/
def tdExtentWord (t : TD) (d : Nat) : U32 := BitVec.ofNat 32 (bits t (8 * (32 + 4 * d)) 32)

/-- COUNT of a GSE command, a bound word (R267); its key in the list of extents is 8 × 0xFFFF, the index of no descriptor. -/
def countWord (c : Cmd) : U32 := match c.body with | .gse b => BitVec.ofNat 32 (bits b 192 32) | _ => 1
def countKey : Nat := 8 * 0xFFFF

/-- All bound words of a command: six levels, then the extents its list names (key = 8 × TD index + dimension). -/
def boundSlots (b : Binary) (c : Cmd) : List (Nat × U32 × U32) :=
  ((List.range 6).map fun l => (l, c.bounds.getD l 1, c.maxb.getD l 0)) ++
    (c.tdMaxb.zipIdx.map fun e => (6 + e.2, (match b.tds[e.1.1 / 8]? with | some t => tdExtentWord t (e.1.1 % 8) | none => countWord c), e.1.2))

/-- The wait state while reads are outstanding (R44). -/
def State.readWait (s : State) (x : Nat) : State :=
  match (s.unit x).reads.find? fun r => bits r.word 29 2 == 1 with
  | some r => s.setWait x (.sync (BitVec.ofNat 16 (bits r.word 0 16)) 0)
  | none => s.setRun x

/-- A unit that may act for its job on a die that answers, no fault of it outstanding; `late` lets it act between a preemption request and its stop (R77). -/
def State.unitActs (s : State) (x : Nat) (late : Bool) (f : Job → Cmd → State) : State :=
  s.withUnitJob x fun j =>
    let u := s.unit x
    if u.stopped || s.stalled x || !(j.phase == .running || (late && j.phase == .stopping)) || !s.dieAnswers (x / 16) then s
    else match u.cmd? with
      | some c => f j c
      | none => s

/-- A unit that may act for its running job. -/
def State.unitRuns (s : State) (x : Nat) (f : Job → Cmd → State) : State := s.unitActs x false f

/-- A unit that may go on with the iteration in flight, until it stops (R77). -/
def State.unitWorks (s : State) (x : Nat) (f : Job → Cmd → State) : State := s.unitActs x true f

/-- Count the 1 bits of a that b lacks, among the first n. -/
def lostBits : Nat → List Byte → List Byte → Nat
  | n, a :: s, b :: t => ((List.range (min n 8)).filter fun i => bit a i && !bit b i).length + lostBits (n - 8) s t
  | _, _, _ => 0

/-- Blocks of a block map, each extent at its MAXB (R246, R253); what is left of the last byte is no block. -/
def mapBlocks (b : Binary) (c : Cmd) (td : Nat) : Nat :=
  let e (d : Nat) : Nat := match b.tds[td]? with
    | none => 0
    | some t =>
      let w := tdExtentWord t d
      if bit w 31 then ((c.tdMaxb.find? fun e => e.1 == 8 * td + d).map fun e => e.2.toNat).getD 0x7FFFFFFF else bits w 0 31
  ceilDiv (e 0) 32 * ceilDiv (e 1) 32 * e 2 * e 3 * e 4 * e 5

/-- The effective maps of a command (R254): map AND envelope, TD by TD. -/
def State.effMaps (s : State) (w : Who) (b : Binary) (c : Cmd) : List (Nat × List Byte) → Acc (List (Nat × List Byte) × Nat)
  | [] => .ok ([], 0)
  | (td, env) :: t =>
    let ptr := match b.tds[td]? with | some d => bits d 832 57 | none => 0
    (s.load w ptr env.length).bind fun m => (State.effMaps s w b c t).bind fun r =>
      .ok ((td, (m.zip env).map fun e => e.1 &&& e.2) :: r.1, lostBits (mapBlocks b c td) m env + r.2)

/-- What a unit starts a command with: counters snapshotted and cleared (R438), loop state fresh. -/
def UnitSt.begin (u : UnitSt) (c : Cmd) (ctx : Fin 32) (gt : Nat) : UnitSt :=
  { u with
    snap := u.cnt, snapTag := u.liveTag, snapCtx := u.liveCtx, cnt := List.replicate 8 0, liveTag := c.tag,
    liveCtx := BitVec.ofNat 5 ctx.val, started := true, done := false, endSent := false, ctr := List.replicate 6 0,
    fired := List.replicate 6 0, ext := [], reads := [], gated := [], satisfied := [], claim := .idle, startGt := gt, effMap := [], prog := 0 }

/-- What an engine's weight latch keeps when a command starts: a block its PRELOAD loaded for it during the previous command's last pass,
nothing else (R187). -/
def EngSt.start (e : EngSt) (c : Cmd) : EngSt :=
  match c.body with
  | .mxe b _ _ => { e with cur := none, other := if bit b 136 then e.other.filter fun w => w.tag == c.tag else none }
  | _ => e

/-- V56 to V63 take K0 to K7 at a VXE command's start (R220). -/
def State.loadK (s : State) (x : Nat) (body : BitVec 512) : State :=
  (List.range 8).foldl (fun s i => s.setVreg x (56 + i) (List.replicate 256 { bits := BitVec.ofNat 32 (bits body (256 + 32 * i) 32), valid := true })) s

/-- The engine reads the maps of its command; a fault leaves it in WAIT_FAULT before its first iteration (R254). -/
def State.readMaps (s : State) (x : Nat) (j : Job) (c : Cmd) : State :=
  s.on (whoOf x j) (s.effMaps (whoOf x j) j.bin c c.envelope) fun r =>
    s.updUnit x fun u => { (if r.2 = 0 then u else u.orFlags 0x100) with effMap := r.1, boundClamps := satAdd u.boundClamps r.2 }

/-- The bank a command names, at its start: true for bank B (R295, R321). -/
def bankOf (j : Job) (c : Cmd) : Bool :=
  match c.bank with
  | .none => false
  | .active => j.active
  | .inactive => !j.active
  | .query => ((j.ingest.find? fun q => q.query).map fun q => q.bank).getD j.active

/-- COMMAND_START (R44, R438, R254). -/
def execCommandStart (x : UnitId) (s : State) : Host.Outcome State Fault Refusal :=
  s.ran fun s => s.unitRuns x.addr fun j c =>
    let a := x.addr
    let u := s.unit a
    if u.started then s
    else
      let u1 := (boundSlots j.bin c).foldl (fun u e => u.takeBound c e.1 e.2.1 e.2.2) { u.begin c j.ctx s.gt with bankB := bankOf j c }
      let s1 := ((s.setUnit a u1).setDec a .reset).setEng a ((s.engAt a).start c)
      let s2 := match c.body with | .vxe body _ _ => (s1.loadK a body).setVx a .reset | .gse _ => s1.setGse x.die.val .reset | _ => s1
      let s3 := s2.readMaps a j c
      let s4 := s3.traceEv x.die.val 0x01 0 j.jid a c.tag [(16, 4, u.idx), (20, 4, (u1.bnd.getD 0 0).toNat), (24, 4, (u1.bnd.getD 1 0).toNat), (28, 4, (u1.bnd.getD 2 0).toNat)]
      if (s4.unit a).wait.code == 6 then s4 else s4.readWait a

/-- The word a pointer register names; a bound read for each claim lies 4 × the claim on (R43, R263). -/
def State.boundWord (s : State) (x : Nat) (j : Job) (c : Cmd) (r : BoundRead) : Acc Nat :=
  let u := s.unit x
  let p := (u.bindPtr.getD (bits r.word 0 4) 0).toNat + if c.perClaim r.slot then 4 * u.claim.cur else 0
  (s.load (whoOf x j) p 4).map ofBytes

/-- A bound word has its value: recorded, or taken from the recording of a replay; the wait goes on while others are outstanding. -/
def State.takeReply (s : State) (x : Nat) (j : Job) (c : Cmd) (r : BoundRead) (v0 : Nat) : State :=
  let v := match s.replayed j.jid 4 [x, c.tag.toNat, r.word.toNat] with | some e => e.words.getD 3 v0 | none => v0
  let s1 := s.updUnit x fun u => ({ u with reads := u.reads.filter fun q => q.slot != r.slot } : UnitSt).setBound c r.slot v r.maxb.toNat true
  let s2 := s1.record j.jid 0x04 [x, c.tag.toNat, r.word.toNat, v] []
  if (s2.unit x).stopped then s2 else s2.readWait x

/-- BOUND_READ_REPLY (R44, R45): of a sync object, the reply its home bank sent (READ), which a stopped unit takes too (R77); of memory,
the word as it stands. -/
def execBoundReadReply (x : UnitId) (slot : Nat) (s : State) : Host.Outcome State Fault Refusal :=
  s.ran fun s => s.withUnitJob x.addr fun j =>
    let a := x.addr
    let u := s.unit a
    match u.cmd?, u.reads.find? fun r => r.slot == slot with
    | some c, some r =>
      if !s.dieAnswers x.die.val then s
      else if bits r.word 29 2 = 1 then
        match u.replies.find? fun q => q.kind == 1 && q.slot == slot with
        | some q => (s.updUnit a fun u => { u with replies := u.replies.erase q }).takeReply a j c r (q.value.toNat % 2 ^ 32)
        | none => s
      else if u.stopped || j.phase != .running then s
      else s.on (whoOf a j) (s.boundWord a j c r) fun v => s.takeReply a j c r v
    | _, _ => s

/-! ### Firing (R46, R47, R99, R540) -/

/-- GT of a mark of a job (R96, R281). -/
def markGt (j : Job) (m : MarkDecl) (p : Nat) : Nat :=
  j.base * 2250 + m.offset + if m.step then p * j.bin.report.stepBeats * 2250 else 0

/-- The period of the mark a unit's next point of it stands in: its stream meets a step mark once a period (R540). -/
def UnitSt.markPeriod (u : UnitSt) (m : BitVec 12) : Nat := u.period + (u.passed.filter fun k => k == m).length

/-- GT of the mark a gate of a unit names. -/
def gateGt (j : Job) (u : UnitSt) (m : BitVec 12) : Option Nat :=
  (j.bin.marks.find? fun d => d.id == m).map fun d => markGt j d (u.markPeriod m)

/-- A mark still pending, or a reconfiguration bound to it that has not switched this unit (R98). -/
def State.markWaits (s : State) (jid : U64) (x : Nat) (m : BitVec 12) : Bool :=
  s.marks.any (fun p => p.jid == jid && p.decl.id == m && (!p.decl.step || decide (p.period ≤ (s.unit x).markPeriod m))) ||
    s.recfgs.any fun r => r.jid == jid && r.rc.mark == m && !r.switched && r.rc.units.any fun u => u.x.addr == x

/-- What stops an iteration: the wait state to record, a stale head to discard, an END in place of DATA. -/
inductive Block where
  | wait (w : WaitSt)
  | stale (k : Nat)
  | underrun
  | notData
deriving DecidableEq, Repr

/-- The first mark gate of this iteration that is not passed (R46, R540). -/
def State.gateBlock (s : State) (x : Nat) (j : Job) (c : Cmd) : Option Block :=
  let u := s.unit x
  (c.gates.find? fun g => innerZero c u g.level && !u.gated.contains g.mark && s.markWaits j.jid x g.mark).map fun g =>
    .wait (.mark ((gateGt j u g.mark).getD s.gt))

/-- The first sync wait that is not satisfied. -/
def State.syncBlock (s : State) (x : Nat) (c : Cmd) : Option Block :=
  let u := s.unit x
  (c.waits.find? fun g => innerZero c u g.level && !u.satisfied.contains (g.sid, g.value)).map fun g => .wait (.sync g.sid g.value)

/-- Ports of a list in ascending number. -/
def sortPorts (l : List PortBind) : List PortBind := (List.range 9).flatMap fun p => l.filter fun b => b.port.val == p

/-- The first of a list of input ports without a usable DATA token (R42, R73). -/
def State.portsBlock (s : State) (x : Nat) (ps : List PortBind) : Option Block :=
  let u := s.unit x
  ps.findSome? fun b =>
    match s.inQueue x b.port.val with
    | none => some (.wait (.token 0))
    | some k =>
      match (s.queue k).toks.head? with
      | none => some (.wait (.token (queueId k)))
      | some t =>
        if t.epoch ≠ u.epoch.toNat then some (.stale k)
        else if t.kind = 3 then some .underrun
        else if t.kind = 0 then none
        else some .notData

/-- The first input port of this iteration without a usable DATA token. -/
def State.inBlock (s : State) (x : Nat) (c : Cmd) : Option Block :=
  s.portsBlock x ((sortPorts c.ins).filter fun b => innerZero c (s.unit x) b.level)

/-- The first output port of this iteration without a credit. Ports whose tokens the unit's datapath pushes (Decant, the FTQ,
a PUSH) take their credit there (R215). -/
def State.outBlock (s : State) (x : Nat) (c : Cmd) : Option Block :=
  let u := s.unit x
  ((sortPorts c.outs).filter fun b => b.inline && innerLast c u b.level).findSome? fun b =>
    if s.credits x b.port.val = 0 then some (.wait (.credit (match s.outQueue x b.port.val with | some k => queueId k | none => 0))) else none

/-- R46's conditions in order. -/
def State.fireBlock (s : State) (x : Nat) (j : Job) (c : Cmd) : Option Block :=
  (s.gateBlock x j c).orElse fun _ => (s.syncBlock x c).orElse fun _ => (s.inBlock x c).orElse fun _ => s.outBlock x c

/-- The unit is clock-gated until a mark (R48): it waits on WAIT_MARK, and the mark has not been reached. -/
def State.clockGated (s : State) (x : Nat) (j : Job) (c : Cmd) : Bool := (s.unit x).wait.code == 2 && (s.gateBlock x j c).isSome

/-- Lateness of the gates this iteration passes (R99). -/
def lateness (j : Job) (c : Cmd) (u : UnitSt) (now : Nat) : Nat × List (BitVec 12) :=
  (c.gates.filter fun g => innerZero c u g.level && !u.gated.contains g.mark).foldl (fun r g =>
    (r.1 + (now - (gateGt j u g.mark).getD now), r.2 ++ [g.mark])) (0, [])

/-- Pop the tokens of the ports this iteration serves. -/
def State.popPorts (s : State) (x : Nat) : List PortBind → State × List Token
  | [] => (s, [])
  | b :: t =>
    match s.headTok x b.port.val with
    | none => State.popPorts s x t
    | some (k, tok) =>
      let s1 := (s.popQueue k).updUnit x fun u => { u with inTok := assocSet u.inTok b.port.val tok }
      let r := State.popPorts s1 x t
      (r.1, tok :: r.2)

/-- Push the tokens of the output ports served, each spending its credit; their contents are the unit's own. -/
def State.pushPorts (s : State) (x : Nat) : List PortBind → State
  | [] => s
  | b :: t =>
    State.pushPorts (((s.spend x b.port.val).pushToken x b.port.val (freshTag s) 0 false 56
      (BitVec.ofNat 448 (Config.freeWord (s.fresh + 1)).toNat)).tickFresh 2) x t

/-- A claim is over: the next one of the reply in hand, if there is one, reads its bounds (R263). -/
def UnitSt.nextClaim (u : UnitSt) (c : Cmd) : UnitSt :=
  let n := u.claim.cur + 1
  { u with
    ctr := setAt (List.replicate 6 0) c.claimLevel (BitVec.ofNat 32 n)
    reads := u.reads ++ if n < u.claim.hi then claimReads c else []
    claim := { u.claim with cur := n } }

/-- The counters after an iteration: done when every level wrapped, or the end of one claim (R263). -/
def UnitSt.advance (u : UnitSt) (c : Cmd) : UnitSt × Bool :=
  let f := { u with fired := u.ctr }
  if c.claimEn then
    let r := stepInner u.bnd c.claimLevel 6 u.ctr
    if r.2 then ({ (f.nextClaim c) with ctr := setAt r.1 c.claimLevel (BitVec.ofNat 32 (u.claim.cur + 1)), claim := { (f.nextClaim c).claim with started := true } }, true)
    else ({ f with ctr := r.1, claim := { u.claim with started := true } }, false)
  else
    let r := stepCtr u.bnd 6 u.ctr
    ({ f with ctr := r.1, done := r.2 }, false)

/-- Take the credits of a list of ports and owe their tokens (R40). -/
def State.owe (s : State) (x : Nat) : List Nat → State
  | [] => s
  | p :: t => State.owe ((s.spend x p).updUnit x fun u => { u with owed := u.owed ++ [p] }) x t

/-- Push the owed tokens; their contents are the unit's own, and the manual gives
no length: LEN 56 (DESIGN CHOICE, log entry 26). -/
def State.pushOwed (s : State) (x : Nat) : List Nat → State
  | [] => s.updUnit x fun u => { u with owed := [] }
  | p :: t =>
    State.pushOwed ((s.pushToken x p (freshTag s) 0 false 56 (BitVec.ofNat 448 (Config.freeWord (s.fresh + 1)).toNat)).tickFresh 2) x t

/-- The work of an iteration is complete: its tile has ended (R139), its tokens go out, and a finished claim SIGNALs (R40, R263). -/
def State.workDone (s : State) (x : Nat) : State :=
  let u := s.unit x
  let s0 := (s.pushOwed x u.owed).updUnit x fun u => { u.endTile with prog := 0, sigOwed := false }
  let s1 := if 4 ≤ x % 16 ∧ x % 16 < 8 then s0.setVx x .reset else s0
  match u.cmd? with
  | some c => if u.sigOwed then s1.doSignal x c.doneSync 1 else s1
  | none => s1

/-- An iteration fires: after the pops. -/
def State.fired (s : State) (x : Nat) (j : Job) (c : Cmd) (u : UnitSt) : State :=
  let ps := (sortPorts c.outs).filter fun b => b.inline && innerLast c u b.level
  let s1 := s.owe x (ps.map (·.port.val))
  let r := (s1.unit x).advance c
  let s2 := (s1.setUnit x { r.1 with prog := 1, sigOwed := r.2 }).updJob j.jid fun j => { j with progress := true }
  let s3 := if c.worked then s2 else s2.workDone x
  if (s3.unit x).job.isSome then s3.setRun x else s3

/-- A unit met a mark late (R99): the exact match is lost; in a GUARANTEED job that nothing else has disturbed it is a schedule error,
such as a queue shallower than R60 asks for (R61, R112; DEDUCED, log entry 81). -/
def Job.markLate (j : Job) : Job := if j.guaranteed && j.reasons == 0 then j.scheduleError else { j with isExact := false }

/-- Fire the iteration: pop, spend, count. -/
def State.fire (s : State) (x : Nat) (j : Job) (c : Cmd) : State :=
  let u := s.unit x
  let late := lateness j c u s.gt
  let s1 := s.updUnit x fun u => { u with markLate := satAdd u.markLate late.1, gated := u.gated ++ late.2, passed := u.passed ++ late.2, satisfied := [] }
  let s2 := late.2.foldl (fun (s : State) m => s.traceEv (x / 16) 0x04 2 j.jid x c.tag [(16, 2, m.toNat), (20, 4, s.gt - (gateGt j u m).getD s.gt)])
    (if late.1 = 0 then s1 else s1.updJob j.jid Job.markLate)
  let p := s2.popPorts x ((sortPorts c.ins).filter fun b => innerZero c u b.level)
  match p.2 with
  | a :: b :: t =>
    if (b :: t).all fun k => k.tag == a.tag then State.fired p.1 x j c u else p.1.jobFault j.jid 0x12 3 x false 0 0
  | _ => State.fired p.1 x j c u

/-- A claim without iterations is finished at once: its SIGNAL, then the next (R45, R263). -/
def State.skipClaim (s : State) (x : Nat) (c : Cmd) : State :=
  (s.updUnit x fun u => u.nextClaim c).doSignal x c.doneSync 1

/-- ITERATION_FIRE (R46, R47, R42, R52, R73, R99). -/
def execIterationFire (x : UnitId) (s : State) : Host.Outcome State Fault Refusal :=
  s.ran fun s => s.unitRuns x.addr fun j c =>
    let a := x.addr
    let u := s.unit a
    if !u.started || u.done || !u.reads.isEmpty || u.prog != 0 then s
    else if !c.envelope.isEmpty && u.effMap.isEmpty then s.readMaps a j c
    else if u.empty c then s.updUnit a fun u => { u with done := true }
    else if c.claimEn && decide (u.claim.hi ≤ u.claim.cur) then s
    else if u.emptyClaim c then s.skipClaim a c
    else match s.fireBlock a j c with
      | some (.wait w) => s.setWait a w
      | some (.stale k) => s.discardHead a k
      | some .underrun => s.jobFault j.jid 0x10 3 a false 0 0
      | some .notData => s
      | none => s.fire a j c

/-- Output ports bound to a list of levels, or named by a mask, that lack a credit. -/
def State.noCredit (s : State) (x : Nat) (ports : List Nat) : Option WaitSt :=
  (ports.find? fun p => s.credits x p == 0).map fun p => .credit (match s.outQueue x p with | some k => queueId k | none => 0)

/-- Push one token of a kind on each port of a list. -/
def State.pushAll (s : State) (x : Nat) (tag : BitVec 12) (kind : Nat) (ref : Bool) (len : Nat) (pay : BitVec 448) : List Nat → State
  | [] => s
  | p :: t => State.pushAll ((s.spend x p).pushToken x p tag kind ref len pay) x tag kind ref len pay t

/-- MARK_TOKEN_POP (R51): LAST_MARK takes the tag, copies go out on the mark-forward ports. A clock-gated unit pops nothing (R48). -/
def execMarkTokenPop (x : UnitId) (port : Fin 9) (s : State) : Host.Outcome State Fault Refusal :=
  s.ran fun s => s.unitRuns x.addr fun j c =>
    let a := x.addr
    if s.clockGated a j c then s
    else match s.headTok a port.val with
    | none => s
    | some (k, t) =>
      if t.epoch ≠ (s.unit a).epoch.toNat then s.discardHead a k
      else if t.kind ≠ 1 then s
      else
        let ps := (List.range 8).filter fun p => bit c.markFwd p
        match s.noCredit a ps with
        | some w => s.setWait a w
        | none =>
          ((s.popQueue k).updUnit a fun u => { u with lastMark := t.tag }).pushAll a t.tag 1 t.isRef (bits t.hdr 33 6) t.pay ps

/-- The port of a matrix engine's streamed input: the lowest bound one that is not the fused operand's (R189, R205). -/
def streamPort (c : Cmd) : Option PortBind :=
  match c.body with
  | .mxe _ d _ => (sortPorts c.ins).find? fun b => !(bits d 16 2 != 0 && bit d 18 && b.port.val == bits d 19 3)
  | _ => none

/-- DRAIN_TOKEN_POP (R51): once the unit's work in flight is retired, DRAIN goes out on the ports of the same level. A DRAIN on
a matrix engine's streamed input is MXE_DRAIN. -/
def execDrainTokenPop (x : UnitId) (port : Fin 9) (s : State) : Host.Outcome State Fault Refusal :=
  s.ran fun s => s.unitRuns x.addr fun j c =>
    let a := x.addr
    if s.clockGated a j c then s
    else match s.headTok a port.val with
    | none => s
    | some (k, t) =>
      if t.epoch ≠ (s.unit a).epoch.toNat then s.discardHead a k
      else if t.kind ≠ 2 || (streamPort c).any (fun b => b.port == port) || (s.unit a).prog != 0 then s
      else
        let lv := (c.ins.filter fun b => b.port == port).map (·.level)
        let ps := (c.outs.filter fun b => lv.contains b.level).map (·.port.val)
        match s.noCredit a ps with
        | some w => s.setWait a w
        | none => (s.popQueue k).pushAll a t.tag 2 t.isRef (bits t.hdr 33 6) t.pay ps

/-- COMMAND_END (R41): after the last iteration one END goes out on every output port. -/
def execCommandEnd (x : UnitId) (s : State) : Host.Outcome State Fault Refusal :=
  s.ran fun s => s.unitRuns x.addr fun j c =>
    let a := x.addr
    let u := s.unit a
    if !u.started || u.endSent || !u.reads.isEmpty || u.prog != 0 || !(u.done || u.empty c) || (c.claimEn && !u.claim.ended && !u.empty c) then s
    else
      let ps := (sortPorts c.outs).map (·.port.val)
      match s.noCredit a ps with
      | some w => s.setWait a w
      | none =>
        let s1 := ((s.pushAll a (freshTag s) 3 false 0 0 ps).tickFresh 1).updUnit a fun u => { u with endSent := true, done := true }
        s1.traceEv x.die.val 0x02 0 j.jid a c.tag [(16, 4, s.gt - u.startGt), (20, 6, (u.cnt.getD 0 0).toNat)]

/-- What END_TOKEN_POP meets at a list of ports, in ascending order: a stale head, a DATA token, an empty queue. -/
def State.endBlock (s : State) (x : Nat) : List Nat → Option Block
  | [] => none
  | p :: t =>
    match s.inQueue x p with
    | none => State.endBlock s x t
    | some k =>
      match (s.queue k).toks.head? with
      | none => some (.wait (.token (queueId k)))
      | some tok =>
        if tok.epoch ≠ (s.unit x).epoch.toNat then some (.stale k)
        else if tok.kind = 0 then some .underrun
        else if tok.kind = 3 then State.endBlock s x t
        else some .notData

/-- Pop the heads of a list of ports. -/
def State.popHeads (s : State) (x : Nat) : List Nat → State
  | [] => s
  | p :: t => match s.inQueue x p with
    | none => State.popHeads s x t
    | some k => State.popHeads (s.popQueue k) x t

/-- END_TOKEN_POP (R41, R42): an END from each input port, and the unit may start its next command. -/
def execEndTokenPop (x : UnitId) (s : State) : Host.Outcome State Fault Refusal :=
  s.ran fun s => s.unitRuns x.addr fun j c =>
    let a := x.addr
    if !(s.unit a).endSent then s
    else
      let ps := (sortPorts c.ins).map (·.port.val)
      match s.endBlock a ps with
      | some (.wait w) => s.setWait a w
      | some (.stale k) => s.discardHead a k
      | some .underrun => s.jobFault j.jid 0x11 3 a false 0 0
      | some .notData => s
      | none =>
        let s1 := (s.popHeads a ps).updUnit a fun u => { u with idx := u.idx + 1, started := false, done := false, endSent := false, inTok := [] }
        s1.setRun a

/-! ### Claims (R263) -/

/-- Input ports of a claiming command served when the reply equal to BOUND arrives: those bound outside the claim level, if the unit
took no claim. -/
def claimEndIns (c : Cmd) (u : UnitSt) : List PortBind := (sortPorts c.ins).filter fun b => decide (b.level < c.claimLevel) && !u.claim.started

/-- The ports served at that reply; outputs bound outside the claim level among them. -/
def State.claimEnd (s : State) (x : Nat) (c : Cmd) : State :=
  let u := s.unit x
  let ins := claimEndIns c u
  let outs := (sortPorts c.outs).filter fun b => b.inline && decide (b.level < c.claimLevel)
  ((s.popPorts x ins).1.pushPorts x outs).updUnit x fun u => { u with done := true, claim := { u.claim with ended := true } }

/-- CLAIM (R263): the first request; then the claims of a reply, with the next request in flight. At the reply equal to BOUND the input
ports served must hold their DATA tokens (R42). -/
def execClaim (x : UnitId) (s : State) : Host.Outcome State Fault Refusal :=
  s.ran fun s => s.unitRuns x.addr fun j c =>
    let a := x.addr
    let u := s.unit a
    let cl := u.claim
    if !c.claimEn || !u.started || cl.ended || !u.reads.isEmpty || u.empty c || s.clockGated a j c then s
    else
      let ask (s : State) : State := (s.doFetchAdd a c.claimSync (BitVec.ofNat 64 c.claimSize) 2 0).updUnit a fun u => { u with claim := { u.claim with inFlight := true } }
      let bound := (s.sync c.claimSync.toNat).bound.toNat
      if cl.cur < cl.hi then s
      else match cl.next with
        | none => if cl.inFlight then s.setWait a (.sync c.claimSync 0) else (ask s).setWait a (.sync c.claimSync 0)
        | some n0 =>
          let n := match s.replayed j.jid 4 [a, c.tag.toNat, c.claimSync.toNat] with | some e => e.words.getD 3 n0 | none => n0
          let s0 := s.record j.jid 0x04 [a, c.tag.toNat, c.claimSync.toNat, n] []
          if bound ≤ n then
            if u.prog != 0 then s else match s0.noCredit a (((sortPorts c.outs).filter fun b => b.inline && decide (b.level < c.claimLevel)).map (·.port.val)) with
            | some w => s.setWait a w
            | none => (match s.portsBlock a (claimEndIns c u) with
              | some (.wait w) => s.setWait a w
              | some (.stale k) => s.discardHead a k
              | some .underrun => s.jobFault j.jid 0x10 3 a false 0 0
              | some .notData => s
              | none => s0.claimEnd a c)
          else
            let s1 := s0.updUnit a fun u => { u with
              ctr := setAt (List.replicate 6 0) c.claimLevel (BitVec.ofNat 32 n), reads := u.reads ++ claimReads c,
              claim := { u.claim with cur := n, hi := min (n + c.claimSize) bound, next := none, inFlight := false } }
            (ask s1).setRun a

/-! ### Channels and credits (R57, R58) -/

/-- The token that crosses next: the oldest ready, then the lowest QID. -/
def nextFlying : List Flying → Option Flying
  | [] => none
  | f :: t => match nextFlying t with
    | none => some f
    | some g => if g.ready < f.ready ∨ (g.ready = f.ready ∧ g.q < f.q) then some g else some f

/-- TOKEN_CROSSING (R57). -/
def execTokenCrossing (src dst : Fin 24) (s : State) : Host.Outcome State Fault Refusal :=
  s.ran fun s =>
    let c := src.val * 32 + dst.val
    match nextFlying (s.chan c) with
    | none => s
    | some f =>
      let q := s.queue f.q
      (((edgeOf src.val dst.val).elim s fun k => s.cntAdd (cntEdge src.val k) 1).setChan c ((s.chan c).erase f)).setQueue f.q { q with toks := q.toks ++ [f.tok], tail := (q.tail + 1) % q.depth }

/-- One credit reaches the producer of queue k. -/
def State.landCredit (s : State) (k : Nat) : State :=
  let q := s.queue k
  if q.credBack = 0 then s
  else
    let p := s.prodOf k
    (s.setQueue k { q with credBack := q.credBack - 1 }).updUnit p.1 fun u => { u with ocredit := modAt u.ocredit p.2 fun c => c + 1 }

/-- CREDIT_RETURN (R58). -/
def execCreditReturn (die : Fin 24) (q : Fin 512) (s : State) : Host.Outcome State Fault Refusal :=
  s.ran fun s => s.landCredit (queueKey die.val q.val)

/-- A queue takes a QCFG word; enabled, its producer holds DEPTH credits (R58). -/
def State.configure (s : State) (k : Nat) (v : U64) : State :=
  let q := { s.queue k with cfg := v &&& qcfgMask }
  let s1 := s.setQueue k q
  if q.en then s1.updUnit q.producer fun u => { u with ocredit := setAt u.ocredit q.prodPort (BitVec.ofNat 13 q.depth) } else s1

/-- A write of QCFG: only while EN is 0. -/
def State.writeQcfg (s : State) (k : Nat) (v : U64) : State := if (s.queue k).en then s else s.configure k v

/-- QCFG_WRITE (R54). -/
def execQcfgWrite (f : Func) (die : Fin 24) (q : Fin 512) (v : U64) (s : State) : Host.Outcome State Fault Refusal :=
  s.byBarOf f die.val fun s => s.privileged f fun s => s.writeQcfg (queueKey die.val q.val) v

end Sys2Proof.Machine
end

