-- ==== Sys2Proof/Machine/Flags.lean ====
section
/-! DEFINITION. The ARITH_FLAGS word (R137, R138). -/

namespace Sys2Proof.Machine

def fIV : U16 := 0x001
def fDZ : U16 := 0x002
def fOF : U16 := 0x004
def fUF : U16 := 0x008
def fNX : U16 := 0x010
def fSAT : U16 := 0x020
def fOOA : U16 := 0x040
def fLONGK : U16 := 0x080
def fBC : U16 := 0x100
def fEMPTY : U16 := 0x200

/-- A flag if a condition holds. -/
def flagIf (b : Bool) (f : U16) : U16 := if b then f else 0

end Sys2Proof.Machine
end

