-- ==== Sys2Proof/Machine/SrGen.lean ====
section
/-! DEFINITION. The stochastic-rounding generator (R134, R135). -/

namespace Sys2Proof.Machine

/-- One of the four rounds of R135: x, k0, k1. -/
def srRound (x k0 k1 : U64) : U64 :=
  let a := x ^^^ k0
  let b := (a ^^^ (a >>> 31)) * 0xA3B195C47E2D5F1B#64
  let c := b ^^^ k1
  let d := (c ^^^ (c >>> 29)) * 0xE7C52D93B04A6C8D#64
  d ^^^ (d >>> 32)

def srLoop : Nat → U64 → U64 → U64 → U64
  | 0, x, _, _ => x
  | n + 1, x, k0, k1 => srLoop n (srRound x k0 k1) (k0 + 0x9E3779B97F4A7C15#64) (k1.rotateLeft 23)

/-- The inputs of the generator (R134). -/
structure SrIn where
  seed : U64
  stream : Nat
  tile : Nat
  site : Nat
  pass : Nat
  lane : Nat
  index : Nat
deriving DecidableEq, Repr

/-- The 16-bit value r. -/
def srRandom (i : SrIn) : Nat :=
  let k1 := pack 64 [(32, 32, i.stream), (28, 4, i.site), (8, 20, i.pass), (0, 8, i.lane)]
  let x0 := pack 64 [(16, 48, i.tile), (0, 16, i.index / 4)]
  (srLoop 4 x0 i.seed k1 >>> (16 * (i.index % 4))).toNat % 65536

/-- The step seed (R134). -/
def stepSeed (seed : U64) (s : Nat) : U64 := seed + BitVec.ofNat 64 s * 0x9E3779B97F4A7C15#64

end Sys2Proof.Machine
end

