-- ==== Sys2Proof/Machine/Num.lean ====
section
/-! DEFINITION. Number formats, exact values, rounding and conversions (R113 to R133, R538). -/

namespace Sys2Proof.Machine

def Val.zero : Val := .fin false 0 0

def Val.isNan : Val → Bool | .nan _ => true | _ => false
def Val.isInf : Val → Bool | .inf _ => true | _ => false
def Val.isZero : Val → Bool | .fin _ 0 _ => true | _ => false
def Val.finite : Val → Bool | .fin _ _ _ => true | _ => false
def Val.sigFlag : Val → U16 | .nan true => fIV | _ => 0

/-- A floating-point layout (R115). `nan`: 0 none, 1 IEEE-like, 2 E4M3's single pattern. -/
structure FloatFmt where
  exp : Nat
  frac : Nat
  bias : Nat
  inf : Bool
  nan : Nat
deriving DecidableEq, Repr

def fp32 : FloatFmt := { exp := 8, frac := 23, bias := 127, inf := true, nan := 1 }
def bf16 : FloatFmt := { exp := 8, frac := 7, bias := 127, inf := true, nan := 1 }
def fp16 : FloatFmt := { exp := 5, frac := 10, bias := 15, inf := true, nan := 1 }
def e4m3 : FloatFmt := { exp := 4, frac := 3, bias := 7, inf := false, nan := 2 }
def e5m2 : FloatFmt := { exp := 5, frac := 2, bias := 15, inf := true, nan := 1 }
def e2m3 : FloatFmt := { exp := 2, frac := 3, bias := 1, inf := false, nan := 0 }
def e3m2 : FloatFmt := { exp := 3, frac := 2, bias := 3, inf := false, nan := 0 }
def e2m1 : FloatFmt := { exp := 2, frac := 1, bias := 1, inf := false, nan := 0 }
def ps48 : FloatFmt := { exp := 10, frac := 37, bias := 511, inf := true, nan := 1 }

/-- The smallest normal exponent. -/
def FloatFmt.emin (f : FloatFmt) : Int := 1 - (f.bias : Int)

/-- Largest finite value: significand and exponent of its last bit. -/
def FloatFmt.maxSig (f : FloatFmt) : Nat := if f.nan = 2 then 2 ^ (f.frac + 1) - 2 else 2 ^ (f.frac + 1) - 1
def FloatFmt.maxExp (f : FloatFmt) : Int := (if f.inf then (2 ^ f.exp : Int) - 2 else (2 ^ f.exp : Int) - 1) - f.bias - f.frac

/-- The value of an encoding (R116). -/
def FloatFmt.decode (f : FloatFmt) (w : Nat) : Val :=
  let neg := w / 2 ^ (f.exp + f.frac) % 2 == 1
  let e := w / 2 ^ f.frac % 2 ^ f.exp
  let m := w % 2 ^ f.frac
  if e = 2 ^ f.exp - 1 ∧ f.inf then (if m = 0 then .inf neg else .nan (m < 2 ^ (f.frac - 1)))
  else if e = 2 ^ f.exp - 1 ∧ f.nan = 2 ∧ m = 2 ^ f.frac - 1 then .nan false
  else if e = 0 then .fin neg m (f.emin - f.frac)
  else .fin neg (m + 2 ^ f.frac) ((e : Int) - f.bias - f.frac)

/-- The sign bit in place. -/
def FloatFmt.sign (f : FloatFmt) (neg : Bool) : Nat := if neg then 2 ^ (f.exp + f.frac) else 0

/-- The canonical quiet NaN (R117). -/
def FloatFmt.qnan (f : FloatFmt) : Nat :=
  if f.nan = 2 then 2 ^ (f.exp + f.frac) - 1 else (2 ^ f.exp - 1) * 2 ^ f.frac + 2 ^ (f.frac - 1)

def FloatFmt.infinity (f : FloatFmt) (neg : Bool) : Nat := f.sign neg + (2 ^ f.exp - 1) * 2 ^ f.frac

/-- The largest finite magnitude as an encoding. -/
def FloatFmt.largest (f : FloatFmt) (neg : Bool) : Nat :=
  f.sign neg + (if f.inf then (2 ^ f.exp - 1) * 2 ^ f.frac - 1 else if f.nan = 2 then 2 ^ (f.exp + f.frac) - 2 else 2 ^ (f.exp + f.frac) - 1)

/-- The three rounding modes; SR carries its r (R130). -/
inductive RMode where
  | rne | rz | sr (r : Nat)
deriving DecidableEq, Repr

/-- m × 2^e as a rounded multiple of 2^q, and whether it is inexact (R130). -/
def quantize (mode : RMode) (m : Nat) (e q : Int) : Nat × Bool :=
  if q ≤ e then (m * 2 ^ (e - q).toNat, false)
  else
    let d := (q - e).toNat
    let hi := m / 2 ^ d
    let lo := m % 2 ^ d
    let n := match mode with
      | .rz => hi
      | .rne => if 2 ^ d < 2 * lo ∨ (2 * lo = 2 ^ d ∧ hi % 2 = 1) then hi + 1 else hi
      | .sr r => (m * 65536 / 2 ^ d + r) / 65536
    (n, lo != 0)

/-- floor(log2 (m × 2^e)) of a nonzero value. -/
def expOf (m : Nat) (e : Int) : Int := (Nat.log2 m : Int) + e

/-- Exponent of the last bit a format gives a value (R130). -/
def FloatFmt.ulp (f : FloatFmt) (m : Nat) (e : Int) : Int := max (expOf m e) f.emin - f.frac

/-- Is n × 2^q above the largest finite value? -/
def FloatFmt.exceeds (f : FloatFmt) (n : Nat) (q : Int) : Bool :=
  let k := min q f.maxExp
  decide (f.maxSig * 2 ^ (f.maxExp - k).toNat < n * 2 ^ (q - k).toNat)

/-- The encoding of n × 2^q, which the format represents. -/
def FloatFmt.encode (f : FloatFmt) (neg : Bool) (n : Nat) (q : Int) : Nat :=
  if n < 2 ^ f.frac then f.sign neg + n
  else if n = 2 ^ (f.frac + 1) then f.sign neg + (q + 1 + f.frac + f.bias).toNat * 2 ^ f.frac
  else f.sign neg + (q + f.frac + f.bias).toNat * 2 ^ f.frac + (n - 2 ^ f.frac)

/-- Round a finite value into a format (R130 to R132): encoding and flags. -/
def FloatFmt.round (f : FloatFmt) (mode : RMode) (sat neg : Bool) (m : Nat) (e : Int) : Nat × U16 :=
  if m = 0 then (f.sign neg, 0)
  else
    let q := f.ulp m e
    let r := quantize mode m e q
    if f.exceeds r.1 q then
      if f.inf && !sat then ((match mode with | .rz => f.largest neg | _ => f.infinity neg), fOF ||| fNX)
      else (f.largest neg, fOF ||| fNX ||| fSAT)
    else
      (f.encode neg r.1 q, if r.2 then (if expOf m e < f.emin then fUF ||| fNX else fNX) else 0)

/-- Convert a value to a floating-point format (R117, R131, R132). -/
def FloatFmt.convert (f : FloatFmt) (mode : RMode) (sat : Bool) : Val → Nat × U16
  | .nan sig => if f.nan = 0 then (0, fIV) else (f.qnan, if sig then fIV else 0)
  | .inf neg =>
    if f.inf then (f.infinity neg, 0)
    else if f.nan = 2 then (f.qnan, fIV)
    else (f.largest neg, fIV ||| fSAT ||| fNX)
  | .fin neg m e => f.round mode sat neg m e

/-- A value as an integer rounded and clamped to [lo, hi], with flags (R133). -/
def toInt (mode : RMode) (lo hi : Int) : Val → Int × U16
  | .nan _ => (0, fIV)
  | .inf neg => (if neg then lo else hi, fIV ||| fSAT ||| fNX)
  | .fin neg m e =>
    let r := quantize mode m e 0
    let v : Int := if neg then -(r.1 : Int) else r.1
    if v < lo then (lo, fIV ||| fSAT ||| fNX)
    else if hi < v then (hi, fIV ||| fSAT ||| fNX)
    else (v, if r.2 then fNX else 0)

/-- An integer as a value. -/
def ofInt (v : Int) : Val := .fin (v < 0) v.natAbs 0

/-! ### Exact arithmetic on values (R116, R137, R538) -/

/-- The signed integer of a finite value at exponent e0 at or below its own. -/
def scaled (neg : Bool) (m : Nat) (e e0 : Int) : Int :=
  let v : Int := Int.ofNat (m * 2 ^ (e - e0).toNat)
  if neg then -v else v

/-- An integer × 2^e as a value; a zero takes the sign given. -/
def ofScaled (v : Int) (e : Int) (zneg : Bool) : Val := if v = 0 then .fin zneg 0 0 else .fin (v < 0) v.natAbs e

def Val.negate : Val → Val
  | .nan s => .nan s
  | .inf n => .inf (!n)
  | .fin n m e => .fin (!n) m e

def Val.absolute : Val → Val
  | .nan s => .nan s
  | .inf _ => .inf false
  | .fin _ m e => .fin false m e

/-- a + b exactly. -/
def Val.add (a b : Val) : Val × U16 :=
  match a, b with
  | .nan s, y => (.nan false, (if s then fIV else 0) ||| y.sigFlag)
  | _, .nan s => (.nan false, if s then fIV else 0)
  | .inf n, .inf k => if n = k then (.inf n, 0) else (.nan false, fIV)
  | .inf n, _ => (.inf n, 0)
  | _, .inf n => (.inf n, 0)
  | .fin n m e, .fin k p g => let e0 := min e g; (ofScaled (scaled n m e e0 + scaled k p g e0) e0 (m == 0 && p == 0 && n && k), 0)

def Val.sub (a b : Val) : Val × U16 := a.add b.negate

/-- a × b exactly. -/
def Val.mul (a b : Val) : Val × U16 :=
  match a, b with
  | .nan s, y => (.nan false, (if s then fIV else 0) ||| y.sigFlag)
  | _, .nan s => (.nan false, if s then fIV else 0)
  | .inf n, .inf k => (.inf (n != k), 0)
  | .inf n, .fin k m _ => if m = 0 then (.nan false, fIV) else (.inf (n != k), 0)
  | .fin k m _, .inf n => if m = 0 then (.nan false, fIV) else (.inf (n != k), 0)
  | .fin n m e, .fin k p g => (.fin (n != k) (m * p) (e + g), 0)

/-- a × b + c exactly. -/
def Val.fma (a b c : Val) : Val × U16 :=
  let p := a.mul b
  let r := p.1.add c
  (r.1, p.2 ||| r.2)

/-- a / b, correct to any format of at most 40 significant bits: the last bit of the quotient is sticky. -/
def Val.div (a b : Val) : Val × U16 :=
  match a, b with
  | .nan s, y => (.nan false, (if s then fIV else 0) ||| y.sigFlag)
  | _, .nan s => (.nan false, if s then fIV else 0)
  | .inf _, .inf _ => (.nan false, fIV)
  | .inf n, .fin k _ _ => (.inf (n != k), 0)
  | .fin n _ _, .inf k => (.fin (n != k) 0 0, 0)
  | .fin n m e, .fin k p g =>
    if p = 0 then (if m = 0 then (.nan false, fIV) else (.inf (n != k), fDZ))
    else if m = 0 then (.fin (n != k) 0 0, 0)
    else
      let d := 80 + Nat.log2 p
      let q := m * 2 ^ d / p
      let s := if m * 2 ^ d % p = 0 then 0 else 1
      (.fin (n != k) (2 * q + s) (e - g - d - 1), 0)

/-- Integer square root, bit by bit from bit k - 1. -/
def isqrt (n : Nat) : Nat → Nat → Nat
  | 0, r => r
  | k + 1, r => if (r + 2 ^ k) * (r + 2 ^ k) ≤ n then isqrt n k (r + 2 ^ k) else isqrt n k r

/-- sqrt a, likewise with a sticky last bit. -/
def Val.sqrt (a : Val) : Val × U16 :=
  match a with
  | .nan s => (.nan false, if s then fIV else 0)
  | .inf n => if n then (.nan false, fIV) else (.inf false, 0)
  | .fin n m e =>
    if m = 0 then (.fin n 0 0, 0)
    else if n then (.nan false, fIV)
    else
      let d : Nat := 100 + (if (e % 2 : Int) = 0 then 0 else 1)
      let x := m * 2 ^ d
      let r := isqrt x (Nat.log2 x / 2 + 1) 0
      (.fin false (2 * r + if r * r = x then 0 else 1) ((e - d) / 2 - 1), 0)

/-- Compare two values that are not NaN: a < b as reals, −0 equal to +0. -/
def Val.lt (a b : Val) : Bool :=
  match a, b with
  | .nan _, _ => false
  | _, .nan _ => false
  | .inf n, .inf k => n && !k
  | .inf n, _ => n
  | _, .inf k => !k
  | .fin n m e, .fin k p g => let e0 := min e g; decide (scaled n m e e0 < scaled k p g e0)

/-- The order of R226 and R241: as reals, but −0 below +0. -/
def Val.below (a b : Val) : Bool :=
  a.lt b || (match a, b with | .fin n 0 _, .fin k 0 _ => n && !k | _, _ => false)

/-! ### Formats of tensors (R113) -/

/-- How the elements of a format are read. -/
inductive Fmt where
  | float (f : FloatFmt)
  | int (w : Nat) (sgn : Bool)
  | mx (f : FloatFmt)
  | mxint
  | la576
deriving DecidableEq, Repr

/-- A format code, or none where it is reserved or wire only (R114). -/
def fmtOf (code : Nat) : Option Fmt :=
  match code with
  | 0x01 => some (.float fp32) | 0x02 => some (.float bf16) | 0x03 => some (.float fp16)
  | 0x10 => some (.float e4m3) | 0x11 => some (.float e5m2) | 0x12 => some (.float e2m3) | 0x13 => some (.float e3m2)
  | 0x14 => some (.float e2m1)
  | 0x18 => some (.mx e4m3) | 0x19 => some (.mx e5m2) | 0x1A => some (.mx e2m3) | 0x1B => some (.mx e3m2) | 0x1C => some (.mx e2m1)
  | 0x1D => some .mxint
  | 0x20 => some (.int 8 true) | 0x21 => some (.int 8 false) | 0x22 => some (.int 16 true) | 0x23 => some (.int 32 true)
  | 0x30 => some (.float ps48) | 0x31 => some .la576
  | _ => none

def FloatFmt.width (f : FloatFmt) : Nat := 1 + f.exp + f.frac

/-- Element width in bits (R148). -/
def Fmt.width : Fmt → Nat
  | .float f => f.width
  | .int w _ => w
  | .mx f => f.width
  | .mxint => 8
  | .la576 => 576

def Fmt.isMx : Fmt → Bool | .mx _ => true | .mxint => true | _ => false
def Fmt.isInt : Fmt → Bool | .int _ _ => true | _ => false

/-- Element granule in bytes (R146). -/
def Fmt.granule : Fmt → Nat
  | .float f => if f.width = 6 then 3 else (f.width + 7) / 8
  | .int w _ => w / 8
  | .mx f => if f.width = 6 then 3 else 1
  | .mxint => 1
  | .la576 => 72

/-- Scale a finite value by 2^k. -/
def Val.scale (v : Val) (k : Int) : Val := match v with | .fin n m e => .fin n m (e + k) | x => x

/-- The value of an element; an MX element with its scale byte (R120, R121). LA576 images are read in Wide.lean. -/
def Fmt.value (f : Fmt) (w scale : Nat) : Val :=
  match f with
  | .float g => g.decode w
  | .int n s => ofInt (if s then signed n w else (w : Int))
  | .mx g => if scale = 255 then .nan false else (g.decode w).scale ((scale : Int) - 127)
  | .mxint => if scale = 255 then .nan false else (ofInt (signed 8 w)).scale ((scale : Int) - 127 - 6)
  | .la576 => .nan false

/-- Range of an integer format. -/
def intLo (w : Nat) (s : Bool) : Int := if s then -(2 ^ (w - 1) : Int) else 0
def intHi (w : Nat) (s : Bool) : Int := if s then (2 ^ (w - 1) : Int) - 1 else (2 ^ w : Int) - 1

/-- Convert one value to a non-MX format (R131 to R133). -/
def Fmt.convert (f : Fmt) (mode : RMode) (sat : Bool) (v : Val) : Nat × U16 :=
  match f with
  | .float g => g.convert mode sat v
  | .int w s => let r := toInt mode (intLo w s) (intHi w s) v; (unsigned w r.1, r.2)
  | _ => (0, 0)

/-! ### MX blocks (R122) -/

/-- emax of an MX element format. -/
def Fmt.mxEmax : Fmt → Int
  | .mx g => if g = e4m3 then 8 else if g = e5m2 then 15 else if g = e2m3 then 2 else if g = e3m2 then 4 else 2
  | _ => 0

/-- The largest exponent among nonzero finite values. -/
def maxExpOf : List Val → Option Int
  | [] => none
  | .fin _ m e :: t => if m = 0 then maxExpOf t else match maxExpOf t with | none => some (expOf m e) | some k => some (max (expOf m e) k)
  | _ :: t => maxExpOf t

/-- Clamp flags of R122 step 4: inside the encoding NX alone; with the scale clamped, OF, NX and SAT. -/
def mxClampFlags (clamped : Bool) : U16 := if clamped then fOF ||| fNX ||| fSAT else fNX

/-- One element of a block, its value already divided by the scale. -/
def Fmt.mxElem (f : Fmt) (mode : RMode) (clamped : Bool) (v : Val) : Nat × U16 :=
  match f, v with
  | .mx g, .fin neg m e =>
    if m = 0 then (g.sign neg, 0)
    else
      let q := g.ulp m e
      let r := quantize mode m e q
      if g.exceeds r.1 q then (g.largest neg, mxClampFlags clamped)
      else (g.encode neg r.1 q, if r.2 then (if expOf m e < g.emin then fUF ||| fNX else fNX) else 0)
  | .mxint, .fin neg m e =>
    let r := quantize mode m (e + 6) 0
    if 127 < r.1 then (unsigned 8 (if neg then -127 else 127), mxClampFlags clamped)
    else (unsigned 8 (if neg then -(r.1 : Int) else r.1), if r.2 then fNX else 0)
  | _, _ => (0, 0)

/-- Encode a block: its scale byte, its elements, its flags, IV for a signalling NaN among them (R117). `modes` gives each element's
rounding. -/
def Fmt.mxBlock (f : Fmt) (vs : List Val) (modes : List RMode) : Nat × List Nat × U16 :=
  if vs.any fun v => !v.finite then
    (255, vs.map fun _ => 0, flagIf (vs.any Val.isInf) fIV ||| vs.foldl (fun f v => f ||| v.sigFlag) 0)
  else match maxExpOf vs with
    | none => (127, vs.map (fun v => match f, v with | .mx g, .fin true _ _ => g.sign true | _, _ => 0), 0)
    | some k =>
      let e0 := k - f.mxEmax
      let e := max (-127) (min 127 e0)
      let clamped := decide (127 < e0)
      let rs := (vs.zip modes).map fun p => f.mxElem p.2 clamped (p.1.scale (-e))
      ((e + 127).toNat, rs.map (·.1), rs.foldl (fun a r => a ||| r.2) 0)

end Sys2Proof.Machine
end

