-- ==== Sys2Proof/Machine/Wide.lean ====
section
/-! DEFINITION. LA576 accumulators and PS48 partial sums (R123 to R128), and the wider exact sums of R240 and R301. -/

namespace Sys2Proof.Machine

/-- Range of the 571-bit integer of an image (R123). -/
def laMax : Int := 2 ^ 570 - 1
def laMin : Int := -(2 ^ 570)

/-- Add a multiple of 2^-266; beyond the range OVF saturates and later finite products are ignored (R126). -/
def LAcc.addInt (a : LAcc) (v : Int) : LAcc :=
  if a.ovf then a
  else
    let s := a.i + v
    if laMax < s then { a with i := laMax, ovf := true }
    else if s < laMin then { a with i := laMin, ovf := true }
    else { a with i := s }

/-- ± m × 2^e as a multiple of 2^-266, bits below discarded toward zero, and whether any was nonzero (R125, R128). -/
def laInt (neg : Bool) (m : Nat) (e : Int) : Int × Bool :=
  let r := quantize .rz m e (-266)
  (if neg then -(r.1 : Int) else r.1, r.2)

/-- Add a product to an accumulator with its flags (R124 to R126). -/
def LAcc.addProduct (a : LAcc) (x y : Val) : LAcc × U16 :=
  match x, y with
  | .nan s, v => ({ a with nan := true }, (if s then fIV else 0) ||| v.sigFlag)
  | _, .nan s => ({ a with nan := true }, if s then fIV else 0)
  | _, _ => match (x.mul y).1 with
    | .nan _ => ({ a with nan := true }, fIV)
    | .inf n => (if n then { a with ninf := true } else { a with pinf := true }, 0)
    | .fin n m e => let v := laInt n m e; (a.addInt v.1, if v.2 then fUF ||| fNX else 0)

/-- The exact value of an accumulator, its state bits first (R127). NAN beside PINF and NINF: the rule sets IV in its second case, and
the model takes NAN as the first, without IV (DESIGN CHOICE, log entry 62). -/
def LAcc.value (a : LAcc) : Val × U16 :=
  if a.nan then (.nan false, 0)
  else if a.pinf && a.ninf then (.nan false, fIV)
  else if a.pinf then (.inf false, 0)
  else if a.ninf then (.inf true, 0)
  else if a.ovf then (.inf (a.i < 0), fOF)
  else (ofScaled a.i (-266) false, 0)

/-- Decant's conversion of an accumulator scaled by 2^-k (R127, R199). -/
def LAcc.convert (a : LAcc) (f : Fmt) (mode : RMode) (sat : Bool) (k : Int) : Nat × U16 :=
  let v := a.value
  let r := f.convert mode sat (v.1.scale (-k))
  (r.1, v.2 ||| r.2)

/-- PS48 written back with SR (R128). -/
def LAcc.toPs48 (a : LAcc) (r : Nat) : Nat × U16 := a.convert (.float ps48) (.sr r) false 0

/-- A partial read back from PS48: from magnitude 2^304 on it sets OVF with I at the extreme of its sign (R128). -/
def LAcc.ofPs48 (w : Nat) : LAcc × U16 :=
  match ps48.decode w with
  | .nan s => ({ LAcc.zero with nan := true }, if s then fIV else 0)
  | .inf n => (if n then { LAcc.zero with ninf := true } else { LAcc.zero with pinf := true }, 0)
  | .fin n m e =>
    let v := laInt n m e
    (if 2 ^ 570 ≤ v.1.natAbs then { LAcc.zero with i := if n then laMin else laMax, ovf := true } else { LAcc.zero with i := v.1 },
      if v.2 then fUF ||| fNX else 0)

/-- An LA576 image as a number, and back (R123). -/
def LAcc.image (a : LAcc) : Nat :=
  unsigned 571 a.i + (if a.nan then 2 ^ 571 else 0) + (if a.pinf then 2 ^ 572 else 0) + (if a.ninf then 2 ^ 573 else 0) + if a.ovf then 2 ^ 574 else 0

def LAcc.ofImage (w : Nat) : LAcc :=
  { i := signed 571 w, nan := w / 2 ^ 571 % 2 == 1, pinf := w / 2 ^ 572 % 2 == 1, ninf := w / 2 ^ 573 % 2 == 1, ovf := w / 2 ^ 574 % 2 == 1 }

/-- The value of any element of a tensor: an LA576 element is its image's value. -/
def Fmt.read (f : Fmt) (w scale : Nat) : Val :=
  match f with
  | .la576 => (LAcc.ofImage w).value.1
  | _ => f.value w scale

/-- Convert an accumulator to any format; LA576 keeps the image (R127). -/
def Fmt.ofAcc (f : Fmt) (mode : RMode) (sat : Bool) (a : LAcc) (k : Int) : Nat × U16 :=
  match f with
  | .la576 => (a.image, 0)
  | _ => a.convert f mode sat k

/-! ### Exact sums of values that are not NaN or infinite, in units of 2^-298 -/

def Exact.empty : Exact := { i := 0, nan := false, pinf := false, ninf := false, allNegZero := true, count := 0 }

/-- Add one value. -/
def Exact.add (a : Exact) (v : Val) : Exact :=
  let b := { a with count := a.count + 1 }
  match v with
  | .nan _ => { b with nan := true, allNegZero := false }
  | .inf n => if n then { b with ninf := true, allNegZero := false } else { b with pinf := true, allNegZero := false }
  | .fin n m e => { b with i := a.i + scaled n m e (-298), allNegZero := a.allNegZero && n && m == 0 }

/-- The sum as a value, IV wherever infinities of both signs were taken, a NaN beside them or not (R241). A zero sum is −0 only when every
term is −0. -/
def Exact.value (a : Exact) : Val × U16 :=
  if a.nan then (.nan false, flagIf (a.pinf && a.ninf) fIV)
  else if a.pinf && a.ninf then (.nan false, fIV)
  else if a.pinf then (.inf false, 0)
  else if a.ninf then (.inf true, 0)
  else (ofScaled a.i (-298) (a.allNegZero && decide (0 < a.count)), 0)

end Sys2Proof.Machine
end

