-- ==== Sys2Proof/Machine/Operands.lean ====
section
/-! DEFINITION. Tensor descriptors: element addresses, edges, the allocation limit, scales, sparsity maps, references, tile
coordinates, bank modes, masked stores (R145 to R163, R207, R212, R245 to R254, R539, R542). -/

namespace Sys2Proof.Machine

/-! ### Fields of a descriptor (R145) -/

def tdRmode (t : TD) : Nat := bits t 11 2
def tdSat (t : TD) : Bool := bit t 13
def tdDiag (t : TD) : Bool := bit t 14
def tdKind (t : TD) : Nat := bits t 16 8
def tdTensor (t : TD) : U32 := BitVec.ofNat 32 (bits t 32 32)
def tdBase (t : TD) : Nat := bits t 64 57
def tdLimit (t : TD) : Nat := bits t 128 48
def tdOrigin (t : TD) : Nat := bits t 192 48
def tdStride (t : TD) (d : Nat) : Int := signed 32 (bits t (448 + 32 * d) 32)
def tdEdgeLo (t : TD) (d : Nat) : Nat := bits t (640 + 4 * d) 2
def tdEdgeHi (t : TD) (d : Nat) : Nat := bits t (642 + 4 * d) 2
def tdHaloLo (t : TD) (d : Nat) : Nat := bits t (672 + 8 * d) 8
def tdHaloHi (t : TD) (d : Nat) : Nat := bits t (720 + 8 * d) 8
def tdScale (t : TD) : Nat := bits t 768 57
def tdSparse (t : TD) : Nat := bits t 832 57
def tdPiece (t : TD) : Nat := bits t 896 16
def tdRank (t : TD) : Nat := bits t 8 3

/-- Rounding of conversions into a tensor; SR takes the given random value. -/
def tdMode (t : TD) (r : Nat) : RMode := if tdRmode t = 1 then .rz else if tdRmode t = 2 then .sr r else .rne

/-- The extent of dimension d in force for a command, and at its MAXB (R152, R246). -/
def extOf (b : Binary) (c : Cmd) (u : UnitSt) (td d : Nat) : Nat × Nat :=
  match b.tds[td]? with
  | none => (1, 1)
  | some t =>
    let w := tdExtentWord t d
    if !bit w 31 then (bits w 0 31, bits w 0 31)
    else
      let m := ((c.tdMaxb.find? fun e => e.1 == 8 * td + d).map fun e => e.2.toNat).getD 0x7FFFFFFF
      (((assoc u.ext (8 * td + d)).map (·.toNat)).getD m, m)

/-- A tensor as one access sees it: its descriptor with the extents in force, where its allocation lies, whether addresses are
device-physical (a reference), where its scales lie, the effective block map, and the die it must lie on. -/
structure View where
  td : TD
  fmt : Fmt
  ext : List Nat
  lay : List Nat
  base : Nat
  limit : Nat
  org : Nat
  dev : Bool
  scale : Nat
  blk : Nat
  map : Option (List Byte)
  must : Option Nat
  first : List Int := []
deriving DecidableEq, Repr

/-- A descriptor a layer's entry names as banked: weight, master, moments, column statistics (R290, R295). -/
def bankedTd (b : Binary) (td : Nat) : Bool :=
  match b.update with
  | none => false
  | some u => u.layers.any fun e => [32, 48, 64, 80, 96].any fun o => bits e o 16 == td

/-- What a bank adds to a banked tensor's base (R295). -/
def bankShift (b : Binary) (bankB : Bool) (td : Nat) : Nat :=
  match b.update with
  | some u => if bankB && bankedTd b td then bits u.header 64 48 else 0
  | none => 0

/-- The view of entry `td` of a binary's table under a command. -/
def viewOf (b : Binary) (c : Cmd) (u : UnitSt) (td : Nat) : Option View :=
  match b.tds[td]? with
  | none => none
  | some t => (fmtOf (bits t 0 8)).map fun f =>
    let base := tdBase t + bankShift b u.bankB td
    { td := t, fmt := f, ext := (List.range 6).map fun d => (extOf b c u td d).1, lay := (List.range 6).map fun d => (extOf b c u td d).2,
      base := base, limit := tdLimit t, org := base + tdOrigin t, dev := false, scale := tdScale t, blk := 0,
      map := assoc u.effMap td, must := none }

/-- The die that holds the first byte of the declared scratchpad range a descriptor lies in (R542). -/
def scratchDieOf (b : Binary) (t : TD) : Option Nat :=
  (b.report.scratch.find? fun r => decide (r.dva ≤ tdBase t) && decide (tdBase t + tdLimit t ≤ r.dva + r.len)).map fun r => r.die.val

/-- A view that must lie in the scratchpad. -/
def View.inScratchpad (v : View) (b : Binary) : View := { v with must := some ((scratchDieOf b v.td).getD 0) }

/-- The view of a tile named by a reference (R50, R207, R539), which holds the element at index `at_` in its first place. -/
def View.byRef (v : View) (t : Token) (at_ : List Int) : View :=
  { v with base := scratchAddr t.die t.off, org := scratchAddr t.die t.off, limit := t.len, dev := true, scale := t.scalePtr, blk := t.blkPos
           first := at_ }

def View.extent (v : View) (d : Nat) : Nat := v.ext.getD d 1
def View.width (v : View) : Nat := v.fmt.width

/-! ### Edges (R153 to R155) -/

/-- What an index becomes in one dimension: itself, a clamped or halo index, or none for +0. -/
def View.side (v : View) (d : Nat) (i : Int) : Option Int :=
  let e : Int := v.extent d
  let mode := if i < 0 then tdEdgeLo v.td d else tdEdgeHi v.td d
  if 0 ≤ i ∧ i < e then some i
  else if mode = 1 then (if e = 0 then none else some (if i < 0 then 0 else e - 1))
  else if mode = 2 then
    (if (i < 0 ∧ -(tdHaloLo v.td d : Int) ≤ i) ∨ (0 ≤ i ∧ i < e + tdHaloHi v.td d) then some i else none)
  else none

/-- Every dimension in turn; any +0 makes the read +0. -/
def View.sides (v : View) : Nat → List Int → Option (List Int)
  | _, [] => some []
  | d, i :: t => (v.side d i).bind fun k => (View.sides v (d + 1) t).map fun ks => k :: ks

/-- Inside the extent in every dimension (R159). -/
def View.inside (v : View) (idx : List Int) : Bool := idx.zipIdx.all fun p => decide (0 ≤ p.1) && decide (p.1 < v.extent p.2)

/-! ### Addresses (R148, R156) -/

/-- Bit address of a stored index. -/
def View.bitAddr (v : View) (idx : List Int) : Int :=
  8 * (v.org : Int) + (v.width : Int) * idx.zipIdx.foldl (fun a p => a + (p.1 - v.first.getD p.2 0) * tdStride v.td p.2) 0

/-- The last in-allocation element's bit address, if the allocation holds one. -/
def View.lastAddr (v : View) : Option Nat :=
  let w : Int := v.width
  let n := (8 * ((v.base + v.limit : Nat) : Int) - 8 * (v.org : Int) - w) / w
  let a := 8 * (v.org : Int) + w * n
  if 8 * (v.base : Int) ≤ a ∧ a + w ≤ 8 * ((v.base + v.limit : Nat) : Int) then some a.toNat else none

/-- The address an access uses and whether it was clamped. -/
def View.clamp (v : View) (a : Int) : Option Nat × Bool :=
  if 0 ≤ a ∧ (v.base : Int) ≤ a / 8 ∧ (a + v.width - 1) / 8 < ((v.base + v.limit : Nat) : Int) then (some a.toNat, false)
  else (v.lastAddr, true)

/-- DIAGONAL: the bank field of a scratchpad offset is replaced (R161). -/
def diagAddr (a : Nat) : Nat :=
  let off := a - scratchBase
  let bank := (off / 64 + off / 65536) % 64
  scratchBase + (off / 4096 * 4096 + bank * 64 + off % 64)

/-- The place of a byte of a tensor as its translation gives it, before the bank mode (R542). -/
def State.plainLoc (s : State) (w : Who) (v : View) (a : Nat) (write : Bool) : Acc Loc :=
  (if v.dev then .ok (.phys a) else s.locate w a write).bind fun l =>
    match l with
    | .host p k => if v.must.isSome then .bad 0x0D (b2n write) a 0 else .ok (.host p k)
    | .phys p =>
      if (match v.must with | some d => !(inScratch p && scratchDie p == d) | none => false) then .bad 0x0D (b2n write) a p else .ok (.phys p)

/-- The bank mode of a descriptor on a place (R161). -/
def View.bank (v : View) : Loc → Loc
  | .host p k => .host p k
  | .phys p => .phys (if tdDiag v.td && inScratch p then diagAddr p else p)

/-- The place of a byte of a tensor. -/
def State.viewLoc (s : State) (w : Who) (v : View) (a : Nat) (write : Bool) : Acc Loc := (s.plainLoc w v a write).map v.bank

/-- Consecutive bytes of a tensor's allocation. -/
def State.viewBytes (s : State) (w : Who) (v : View) (a n : Nat) : Acc (List Byte) :=
  accAll (fun i => (s.viewLoc w v (a + i) false).bind (s.loadAt w (a + i))) (List.range n)

/-- The bits of the element at a bit address. -/
def State.rawAt (s : State) (w : Who) (v : View) (a : Nat) : Acc Nat :=
  (s.viewBytes w v (a / 8) ((a + v.width - 1) / 8 - a / 8 + 1)).map fun b => ofBytes b / 2 ^ (a % 8) % 2 ^ v.width

/-! ### Scales (R150, R539) -/

/-- Address of the scale of the element at a bit address, and whether it was clamped. -/
def View.scaleAddr (v : View) (a : Nat) : Nat × Bool :=
  let o : Int := if v.dev then (v.blk : Int) + ((a : Int) - 8 * v.org) / v.width else ((a : Int) - 8 * v.base) / v.width
  let n := if v.dev then ceilDiv (v.blk + 8 * v.limit / v.width) 32 else ceilDiv (8 * v.limit) (32 * v.width)
  if 0 ≤ o ∧ (o / 32).toNat < n then (v.scale + (o / 32).toNat, false) else (v.scale + (n - 1), true)

/-! ### Sparsity metadata (R245 to R254) -/

def kindBlock (k : Nat) : Bool := decide (8 ≤ k) && decide (k ≤ 11)

/-- M, slots, kept slots and entry bits of an N:M kind. -/
def kindNm (k : Nat) : Option (Nat × Nat × Nat × Nat) :=
  match k % 8 with
  | 1 => if k < 12 then some (4, 2, 2, 4) else none
  | 2 => if k < 12 then some (4, 2, 1, 4) else none
  | 3 => if k < 12 then some (8, 4, 2, 16) else none
  | _ => none

/-- Linear position over dimensions 1 to 5 and blocks of dimension 0 (R212). -/
def View.groupPos (v : View) (idx : List Int) : Nat :=
  let i (d : Nat) : Nat := (idx.getD d 0).toNat
  let e (d : Nat) : Nat := v.lay.getD d 1
  i 0 / 32 + ceilDiv (e 0) 32 * (i 1 + e 1 * (i 2 + e 2 * (i 3 + e 3 * (i 4 + e 4 * i 5))))

/-- Bit number of a block in the block map (R253). -/
def View.blockPos (v : View) (idx : List Int) : Nat :=
  let i (d : Nat) : Nat := (idx.getD d 0).toNat
  let e (d : Nat) : Nat := v.lay.getD d 1
  i 0 / 32 + ceilDiv (e 0) 32 * (i 1 / 32 + ceilDiv (e 1) 32 * (i 2 + e 2 * (i 3 + e 3 * (i 4 + e 4 * i 5))))

/-- Bytes of the block map. -/
def View.mapLen (v : View) : Nat :=
  let e (d : Nat) : Nat := v.lay.getD d 1
  ceilDiv (ceilDiv (e 0) 32 * ceilDiv (e 1) 32 * e 2 * e 3 * e 4 * e 5) 8

/-- One bit of a map in memory. -/
def State.mapBit (s : State) (w : Who) (ptr pos : Nat) : Acc Bool := (s.loadByte w (ptr + pos / 8)).map fun b => bit b (pos % 8)

/-- Whether the block of an index inside the extent is present: the effective map, else the map in memory. -/
def State.present (s : State) (w : Who) (v : View) (idx : List Int) : Acc Bool :=
  if !kindBlock (tdKind v.td) then .ok true
  else match v.map with
    | some m => .ok (bit (m.getD (v.blockPos idx / 8) 0) (v.blockPos idx % 8))
    | none => s.mapBit w (tdSparse v.td) (v.blockPos idx)

/-- Start of the N:M index array (R246). -/
def View.nmStart (v : View) : Nat := tdSparse v.td + if kindBlock (tdKind v.td) then 64 * ceilDiv v.mapLen 64 else 0

/-- Positions the slots of an entry name, or none for an invalid group (R248, R249). -/
def nmSlots (m slots e : Nat) : Option (List Nat) :=
  let ps := (List.range slots).map fun j => if m = 4 then e / 4 ^ j % 4 else e / 8 ^ j % 8
  if ps.eraseDups.length < slots || (m == 8 && e / 4096 != 0) then none else some ps

/-- Group and position in it of an index along dimension 0; a halo index below 0 lies in a group below 0. -/
def nmPlace (m : Nat) (idx : List Int) : Int × Nat := (idx.getD 0 0 / (m : Int), (idx.getD 0 0 % (m : Int)).toNat)

/-- The slots of the group of an index, and whether the entry's address was clamped. -/
def State.nmGroup (s : State) (w : Who) (v : View) (m slots ebits : Nat) (idx : List Int) : Acc (Option (List Nat) × Bool) :=
  let o := (v.bitAddr (setAt idx 0 ((nmPlace m idx).1 * slots)) - 8 * v.base) / v.width
  let n := ceilDiv (8 * v.limit / v.width) slots
  let k := if 0 ≤ o ∧ (o / slots).toNat < n then (o / slots).toNat else n - 1
  let a := v.nmStart + k * ebits / 8
  (s.load w a ((ebits + 7) / 8)).map fun b =>
    (nmSlots m slots (ofBytes b / 2 ^ (k * ebits % 8) % 2 ^ ebits), !decide (0 ≤ o ∧ (o / slots).toNat < n))

/-! ### Reads -/

/-- What a read delivers: bits, scale byte, whether it is a supplied +0, clamped accesses, flags. -/
structure Rd where
  raw : Nat
  scale : Nat
  pad : Bool
  ooa : Nat
  flags : U16
deriving DecidableEq, Repr

def Rd.zero : Rd := { raw := 0, scale := 127, pad := true, ooa := 0, flags := 0 }

/-- Value of what was read. -/
def View.value (v : View) (r : Rd) : Val := if r.pad then Val.zero else v.fmt.read r.raw r.scale

/-- The element at a bit address, and its scale. -/
def State.readAddr (s : State) (w : Who) (v : View) (addr : Int) : Acc Rd :=
  let p := v.clamp addr
  match p.1 with
  | none => .ok { Rd.zero with ooa := 1, flags := fOOA }
  | some a => (s.rawAt w v a).bind fun r =>
    if v.fmt.isMx then
      let k := v.scaleAddr a
      (s.loadByte w k.1).map fun b =>
        let n := b2n p.2 + b2n k.2
        { raw := r, scale := b.toNat, pad := false, ooa := n, flags := flagIf (n != 0) fOOA }
    else .ok { raw := r, scale := 127, pad := false, ooa := b2n p.2, flags := flagIf p.2 fOOA }

/-- The element at a stored index. -/
def State.readStored (s : State) (w : Who) (v : View) (idx : List Int) : Acc Rd := s.readAddr w v (v.bitAddr idx)

/-- The element at a logical index inside the allocation rules: N:M tensors name it by the kept slot (R247, R249). -/
def State.readLogical (s : State) (w : Who) (v : View) (idx : List Int) : Acc Rd :=
  match kindNm (tdKind v.td) with
  | none => s.readStored w v idx
  | some (m, slots, kept, ebits) => (s.nmGroup w v m slots ebits idx).bind fun g =>
    let p := nmPlace m idx
    let miss : Rd := { Rd.zero with ooa := b2n g.2, flags := flagIf g.2 fOOA }
    match g.1 with
    | none => .ok { miss with flags := miss.flags ||| fIV }
    | some ps =>
      match (List.range kept).find? fun j => ps.getD j m == p.2 with
      | none => .ok miss
      | some j => (s.readStored w v (setAt idx 0 (p.1 * slots + j))).map fun r =>
        { r with ooa := r.ooa + miss.ooa, flags := r.flags ||| miss.flags }

/-- A read at any index (R153 to R156, R253). -/
def State.readElem (s : State) (w : Who) (v : View) (idx : List Int) : Acc Rd :=
  match v.sides 0 idx with
  | none => .ok Rd.zero
  | some k =>
    if v.inside k then (s.present w v k).bind fun p => if p then s.readLogical w v k else .ok Rd.zero
    else s.readLogical w v k

/-! ### Masked stores -/

/-- Bytes with masks: (address, mask, value). -/
abbrev MStores := List (Nat × Byte × Byte)

/-- `w` bits at a bit address as masked bytes. -/
def bitStores (a w v : Nat) : MStores :=
  let n := (a + w - 1) / 8 - a / 8 + 1
  let m := (2 ^ w - 1) * 2 ^ (a % 8)
  let x := v % 2 ^ w * 2 ^ (a % 8)
  (List.range n).map fun i => (a / 8 + i, BitVec.ofNat 8 (m / 256 ^ i % 256), BitVec.ofNat 8 (x / 256 ^ i % 256))

/-- Put masked bytes at their places, in order (R160). -/
def State.mergeLoc (s : State) : List (Loc × Byte × Byte) → State
  | [] => s
  | (.phys a, m, b) :: t => State.mergeLoc (s.putByte a ((s.byteAt a &&& ~~~m) ||| (b &&& m))) t
  | (.host p a, m, b) :: t => State.mergeLoc (s.hostWrite p a [(Config.hostByte s.fresh s.gt 1024 (hostKey p a) &&& ~~~m) ||| (b &&& m)]) t

/-- Store located masked bytes: none is written if one meets poison in a burst not written whole (R375, R376). -/
def State.storePlaced (s : State) (w : Who) (l : List (Nat × Loc × Byte × Byte)) : Acc State :=
  let places : List (Loc × Byte × Byte) := l.map fun e => e.2
  let whole : List (Loc × Byte) := (places.filter fun e => e.2.1 == 255).map fun e => (e.1, e.2.2)
  let hot (p : Loc) : Bool := match p with | .phys a => inGddr a && s.poisoned (burstOf a) | .host _ _ => false
  let covered (p : Loc) : Bool := match p with | .phys a => coversBurst whole (burstOf a) | .host _ _ => true
  match l.find? fun e => hot e.2.1 && !covered e.2.1 with
  | some (d, .phys a, _) => .bad 0xC 1 d a
  | some (d, .host _ a, _) => .bad 0xC 1 d a
  | none =>
    let bursts : List Nat := (places.filterMap fun e => match e.1 with | .phys a => if hot e.1 then some (burstOf a) else none | .host _ _ => none).eraseDups
    .ok ((((s.mergeLoc places).unpoison bursts).dropAhead whole).carryStores w (places.map (·.1)))

/-- Masked bytes at DVAs. -/
def State.storeMasked (s : State) (w : Who) (l : MStores) : Acc State :=
  (accAll (fun e : Nat × Byte × Byte => (s.locate w e.1 true).map fun p => (e.1, p, e.2)) l).bind (s.storePlaced w)

/-- Masked bytes of a tensor's own allocation. -/
def State.storeView (s : State) (w : Who) (v : View) (l : MStores) : Acc State :=
  (accAll (fun e : Nat × Byte × Byte => (s.viewLoc w v e.1 true).map fun p => (e.1, p, e.2)) l).bind (s.storePlaced w)

/-- The bytes of an element stored at a stored index: nothing where the allocation holds no element; and the clamp count. -/
def View.elemStores (v : View) (idx : List Int) (raw : Nat) : MStores × Option Nat × Nat :=
  let p := v.clamp (v.bitAddr idx)
  match p.1 with
  | none => ([], none, 1)
  | some a => (bitStores a v.width raw, some a, b2n p.2)

/-- Where an element of an N:M tensor is stored (R247, R251): its kept slot, an explicit-zero slot, or nowhere. -/
inductive NmSlot where
  | kept (idx : List Int)
  | zero (idx : List Int)
  | pruned
deriving DecidableEq, Repr

/-- The slot of an index inside the extent, IV for an invalid group, the clamps of the entry's read. -/
def State.nmSlot (s : State) (w : Who) (v : View) (idx : List Int) : Acc (NmSlot × U16 × Nat) :=
  match kindNm (tdKind v.td) with
  | none => .ok (.kept idx, 0, 0)
  | some (m, slots, kept, ebits) => (s.nmGroup w v m slots ebits idx).map fun g =>
    let p := nmPlace m idx
    match g.1 with
    | none => (.pruned, fIV ||| flagIf g.2 fOOA, b2n g.2)
    | some ps => match (List.range slots).find? fun j => ps.getD j m == p.2 with
      | none => (.pruned, flagIf g.2 fOOA, b2n g.2)
      | some j => (if j < kept then .kept (setAt idx 0 (p.1 * slots + j)) else .zero (setAt idx 0 (p.1 * slots + j)), flagIf g.2 fOOA, b2n g.2)

/-- The stores of an element at a logical index (R159, R247): none outside the extent or at a pruned position, +0 into an explicit-zero
slot. With its clamped accesses and flags. -/
def State.placeElem (s : State) (w : Who) (v : View) (idx : List Int) (raw : Nat) : Acc (MStores × Nat × U16) :=
  if !v.inside idx then .ok ([], 0, 0)
  else (s.nmSlot w v idx).map fun p =>
    let put (d : List Int) (r : Nat) : MStores × Nat × U16 :=
      let e := v.elemStores d r
      (e.1, e.2.2 + p.2.2, p.2.1 ||| flagIf (e.2.2 != 0) fOOA)
    match p.1 with
    | .pruned => ([], p.2.2, p.2.1)
    | .zero d => put d 0
    | .kept d => put d raw

/-! ### The order of stores in a tile (R160) -/

/-- An index comes before another in tile order: the highest dimension that differs decides. -/
def tileBefore : List Int → List Int → Bool
  | a :: s, b :: t => tileBefore s t || (s == t && decide (a < b))
  | _, _ => false

/-- Stores of an element without the bits that a later element of its tile has stored already. -/
def Wrote.trim (w : Wrote) (idx : List Int) (l : MStores) : MStores :=
  l.map fun e => (e.1, e.2.1 &&& ~~~(w.foldl (fun m k => if k.1 == e.1 && tileBefore idx k.2.2 then m ||| k.2.1 else m) 0), e.2.2)

/-- Stores of elements in the order they come, so that of two that meet the later one in tile order stands. -/
def Wrote.order (w : Wrote) : List (List Int × MStores) → Wrote × MStores
  | [] => (w, [])
  | e :: t =>
    let r := Wrote.order (w ++ e.2.map fun b => (b.1, b.2.1, e.1)) t
    (r.1, w.trim e.1 e.2 ++ r.2)

/-! ### Tiles (R151) -/

/-- The origin of a tile: each axis adds its counter times its step. -/
def originOf (u : UnitSt) (l : List Axis) : List Int :=
  (List.range 6).map fun d => ((l.filter fun a => a.dim.val == d).foldl (fun n a => n + (u.fired.getD a.level.val 0).toNat * a.step) 0 : Nat)

/-- Index of a tile in the grid, dimension 0 fastest. -/
def tileIndex (ext size : List Nat) (org : List Int) : Nat :=
  (List.range 6).foldr (fun d acc => (org.getD d 0).toNat / max 1 (size.getD d 1) + ceilDiv (ext.getD d 1) (max 1 (size.getD d 1)) * acc) 0

/-- TILE of a tile over a view. -/
def View.tile (v : View) (size : List Nat) (org : List Int) : Nat := tdPiece v.td * 2 ^ 32 + tileIndex v.ext size org % 2 ^ 32

/-! ### Units that read tensors -/

/-- Step number and seed of a job (R134). The seed is bytes 24 to 31 of the descriptor (R415). -/
def Job.seed (j : Job) : U64 := stepSeed (BitVec.ofNat 64 (bits j.desc 192 64)) j.s

/-- Units whose counter 4 is OOA_COUNT (R236, R244, R436). -/
def ooaUnit (x : Nat) : Bool := [4, 5, 6, 7, 8, 9, 12, 13, 14].contains (x % 16)

/-- Clamped accesses set OOA and count in OOA_COUNT, where the unit has that counter (R156). -/
def State.countOoa (s : State) (x n : Nat) : State :=
  if n = 0 then s
  else s.updUnit x fun u => (if ooaUnit x then u.count 4 n else u).orFlags fOOA

/-- Flags of a unit's lanes in the tile in progress. -/
def State.orLanes (s : State) (x : Nat) (fs : List U16) : State := s.updUnit x fun u => u.orLanes fs

/-- Flags of an operation that has one lane. -/
def State.orUnitFlags (s : State) (x : Nat) (f : U16) : State := s.orLanes x [f]

/-- The token of an iteration on a port, if it is a reference. -/
def UnitSt.refTok (u : UnitSt) (port : Nat) : Option Token := (assoc u.inTok port).bind fun t => if t.isRef then some t else none

/-- The TAG of an iteration: that of its joined input tokens (R52). -/
def UnitSt.tag (u : UnitSt) : BitVec 12 := match u.inTok with | (_, t) :: _ => t.tag | [] => 0

/-- The first element's byte and the lowest and the past-highest byte of elements stored at a list of indices; elements outside the extent
are not stored. `at_` is where the tile begins. -/
def View.span (v : View) (at_ : List Int) (idxs : List (List Int)) : Nat × Nat × Nat :=
  let as : List Nat := idxs.filterMap fun idx => if v.inside idx then (v.clamp (v.bitAddr idx)).1 else none
  match as with
  | [] => (((v.clamp (v.bitAddr at_)).1.getD 0) / 8, 0, 0)
  | a :: t => (a / 8, t.foldl (fun m b => min m (b / 8)) (a / 8), t.foldl (fun m b => max m ((b + v.width - 1) / 8 + 1)) ((a + v.width - 1) / 8 + 1))

/-- A row mask that masks no row: what a reference carries whose producer has none (DESIGN CHOICE, log entry 64). -/
def allRows : Nat := 2 ^ 64 - 1

/-- The reference to a tile whose first byte is `first` (R50): the offset before the bank mode, which the consumer's own descriptor applies,
and for an MX format the scale and the position in its block of the first element whose lowest bit lies in that byte (R539). -/
def State.refTo (s : State) (w : Who) (v : View) (first len tile mask : Nat) : Acc (BitVec 448) :=
  (s.plainLoc w v first true).bind fun l =>
    match l with
    | .host _ a => .bad 0x0D 1 first a
    | .phys a =>
      if !inScratch a then .bad 0x0D 1 first a
      else
        let n := ceilDiv (8 * (first - v.base)) v.width
        .ok (refPayload (scratchDie a) ((a - scratchBase) % 0x8000000) len tile mask
          (if v.fmt.isMx then (v.scaleAddr (8 * v.base + v.width * n)).1 else 0) (if v.fmt.isMx then n % 32 else 0))

/-- Bytes of a region as they stand in memory, in tile order. -/
def State.regionBytes (s : State) (w : Who) (v : View) (idxs : List (List Int)) : List Byte :=
  (idxs.filter v.inside).flatMap fun i => match (s.nmSlot w v i).bind fun p => match p.1 with
        | .kept d => s.readStored w v d
        | .zero d => s.readStored w v d
        | .pruned => .bad 0 0 0 0 with
    | .ok r => bytesOf (ceilDiv v.width 8) r.raw
    | _ => []

end Sys2Proof.Machine
end

