-- ==== Sys2Proof/Machine/Decant.lean ====
section
/-! DEFINITION. Decant and the finished-tile queue (R127, R136, R190, R199, R204 to R219, R251, R256, R292). -/

namespace Sys2Proof.Machine

/-! ### The bodies (R200, R205, R222) -/

def fuseTd (d : BitVec 256) : Nat := bits d 0 16
def fuseOp (d : BitVec 256) : Nat := bits d 16 2
def fuseSrc (d : BitVec 256) : Bool := bit d 18
def fusePort (d : BitVec 256) : Nat := bits d 19 3
def rowDim (d : BitVec 256) : Nat := bits d 24 3
def colDim (d : BitVec 256) : Nat := bits d 27 3
def colSplit (d : BitVec 256) : Nat := bits d 32 3
def colHiDim (d : BitVec 256) : Nat := bits d 35 3
def colMaskEn (d : BitVec 256) : Bool := bit d 40
def zgEn (d : BitVec 256) : Bool := bit d 41
def ftqEn (d : BitVec 256) : Bool := bit d 42
def outPortEn (d : BitVec 256) : Bool := bit d 43
def outPort (d : BitVec 256) : Nat := bits d 44 3
def zgBase (d : BitVec 256) : Nat := bits d 64 57

/-- Add to one component of an index. -/
def addAt (l : List Int) (d : Nat) (k : Nat) : List Int := modAt l d fun i => i + k

/-- OUT_TD index of tile row r, column c of a tile of `cols` columns (R209). -/
def place (d : BitVec 256) (cols : Nat) (o : List Int) (r c : Nat) : List Int :=
  if colSplit d = 0 then addAt (addAt o (colDim d) c) (rowDim d) r
  else
    let n := 2 ^ colSplit d
    let i := addAt (addAt o (colDim d) (c % n)) (colHiDim d) (c / n)
    addAt i (rowDim d) (if colHiDim d = rowDim d then r * ceilDiv cols n else r)

/-- The tile's size along each dimension under R209: the largest index of any of its columns, and one. -/
def placeSize (d : BitVec 256) (cols rows : Nat) : List Nat :=
  let top (c : Nat) : List Int := place d cols (List.replicate 6 0) (rows - 1) c
  (List.range 6).map fun i => ((List.range cols).foldl (fun m c => max m ((top c).getD i 0)) 0).toNat + 1

/-- The tile's rows and columns come in tile order (R160): no later row or column lies before an earlier one. -/
def placeInOrder (d : BitVec 256) : Bool :=
  if colSplit d = 0 then decide (colDim d < rowDim d) else decide (colDim d < colHiDim d) && decide (colHiDim d ≤ rowDim d)

/-- What Decant of a unit works on for the tile of the current iteration. -/
structure DecCtx where
  out : Option View
  dec : BitVec 256
  cols : Nat
  rows : Nat
  org : List Int
  srPass : Nat
  tile : Nat
  seed : U64
  gs : Int
  layer : Option Nat
  elen : Nat
deriving DecidableEq, Repr

/-- log2 GS_l of a layer: c_l less c of its UP layer (R291). -/
def Job.gradShift (j : Job) (l : Nat) : Int :=
  let c (k : Nat) : Int := ((j.layers[k]?).map (·.c)).getD 0
  match j.bin.update with
  | none => 0
  | some u =>
    let up := bits (u.layers.getD l 0) 16 13
    c l - if up = 0x1FFF then 0 else c up

/-- R542 for the destination: column strips, an unusual stride, an output reference or the FTQ put it in the scratchpad. -/
def outView (j : Job) (c : Cmd) (u : UnitSt) (d : BitVec 256) (td : Nat) : Option View :=
  (viewOf j.bin c u td).map fun v =>
    if colDim d ≠ 0 ∨ tdStride v.td 0 ≠ 1 ∨ outPortEn d ∨ ftqEn d then v.inScratchpad j.bin else v

/-- The Decant context of a unit's iteration. -/
def decCtx (j : Job) (c : Cmd) (u : UnitSt) : Option DecCtx :=
  let mk (d : BitVec 256) (td cols rows sr : Nat) (axes : List Axis) (gs : Int) (layer : Option Nat) : DecCtx :=
    let v := outView j c u d td
    let o := originOf u axes
    { out := v, dec := d, cols := cols, rows := rows, org := o, srPass := sr,
      tile := (v.map fun v => v.tile (placeSize d cols rows) o).getD 0, seed := j.seed, gs := gs, layer := layer, elen := cols * rows }
  match c.body with
  | .mxe b d m =>
    let en := bit b 71
    some (mk d (bits b 32 16) (bits b 112 7 + 1) (bits b 96 13 + 1) (bits b 160 20) m.outOrg
      (if en then j.gradShift (bits b 144 12) else 0) (if en then some (bits b 144 12) else none))
  | .vxe b d v => some (mk d (bits b 128 16) (bits b 192 8 + 1) (bits b 176 6 + 1) (bits b 200 20) v.outOrg 0 none)
  | _ => none

/-! ### One element (R204 steps 1 to 4) -/

/-- What is offered for an element: an accumulator, or a lane read as FP32 or INT32. -/
inductive Offered where
  | acc (a : LAcc)
  | lane (w : Nat)
deriving DecidableEq, Repr

/-- The exact value of step 1. -/
def Offered.value (f : Fmt) (gs : Int) : Offered → Val × U16
  | .acc a => (a.value.1.scale gs, a.value.2)
  | .lane w => if f.isInt then (ofInt (signed 32 w), 0) else (fp32.decode w, (fp32.decode w).sigFlag)

/-- A value into LA576: the multiple of 2^-266 below it in magnitude. -/
def LAcc.ofVal (v : Val) : LAcc × U16 :=
  match v with
  | .nan _ => ({ LAcc.zero with nan := true }, 0)
  | .inf n => (if n then { LAcc.zero with ninf := true } else { LAcc.zero with pinf := true }, 0)
  | .fin n m e => let i := laInt n m e; (LAcc.zero.addInt i.1, if i.2 then fUF ||| fNX else 0)

/-- Convert any value to any format that is not MX. -/
def Fmt.ofVal (f : Fmt) (mode : RMode) (sat : Bool) (v : Val) : Nat × U16 :=
  match f with
  | .la576 => let a := LAcc.ofVal v; (a.1.image, a.2)
  | _ => f.convert mode sat v

/-- Step 2: one conversion. An unscaled accumulator into LA576 keeps its image (R127). -/
def Offered.convert (f : Fmt) (gs : Int) (mode : RMode) (sat : Bool) (o : Offered) : Nat × U16 :=
  match o, f with
  | .acc a, .la576 => if gs = 0 then (a.image, 0) else Fmt.ofVal .la576 mode sat (o.value f gs).1
  | _, _ => let v := o.value f gs; let r := f.ofVal mode sat v.1; (r.1, v.2 ||| r.2)

/-- What became of one element: its stored index and bits, or the value its MX block waits for. -/
structure ElemOut where
  idx : List Int
  raw : Option Nat
  mx : Option (Val × Nat)
  enabled : Bool
  zero : Bool
  flags : U16
  flushed : Bool
deriving DecidableEq, Repr

/-- The fused operand of a position of the tile, masked ones too (R158, R206, R207). -/
def State.fuseRead (s : State) (w : Who) (fv : Option View) (idx : List Int) : Acc (Val × Rd) :=
  match fv with
  | none => .ok (Val.zero, Rd.zero)
  | some v => (s.readElem w v idx).map fun r => (v.value r, r)

/-- ADD or MUL of the converted value and the operand. -/
def fuseVal (op : Nat) (a b : Val) : Val × U16 := if op = 1 then a.add b else a.mul b

/-- A value that is rounded to a zero although it is none (R319). -/
def lostToZero (v : Val) (zero : Bool) : Bool := !v.isZero && v.finite && zero

/-- Steps 1 to 3 for an element that is not padding, with its fused operand. -/
def decElem (k : DecCtx) (v : View) (b : Val × Rd) (idx : List Int) (r c : Nat) (o : Offered) : ElemOut :=
  let rnd := srRandom { seed := k.seed, stream := (tdTensor v.td).toNat, tile := k.tile, site := 0, pass := k.srPass, lane := c, index := r }
  let op := fuseOp k.dec
  let x := o.value v.fmt k.gs
  let base : ElemOut := { idx := idx, raw := none, mx := none, enabled := true, zero := false, flags := 0, flushed := false }
  if v.fmt.isMx then
    if op = 0 then { base with mx := some (x.1, rnd), flags := x.2 }
    else
      let y := fuseVal op x.1 b.1
      { base with mx := some (y.1, rnd), flags := x.2 ||| y.2 ||| b.2.flags }
  else
    let mode2 := if op ≠ 0 && tdRmode v.td == 2 then .rne else tdMode v.td rnd
    let a := o.convert v.fmt k.gs mode2 (tdSat v.td)
    if op = 0 then
      let z := (v.fmt.read a.1 127).isZero
      { base with raw := some a.1, zero := z, flags := a.2, flushed := lostToZero x.1 z }
    else
      let y := fuseVal op (v.fmt.read a.1 127) b.1
      let q := v.fmt.ofVal (tdMode v.td rnd) (tdSat v.td) y.1
      let z := (v.fmt.read q.1 127).isZero
      { base with raw := some q.1, zero := z, flags := a.2 ||| y.2 ||| q.2 ||| b.2.flags, flushed := lostToZero y.1 z }

/-! ### One row -/

/-- What a column of a row gives: its element, the group of the zero-group map it lies in, clamped accesses. -/
structure ColOut where
  elem : Option ElemOut
  group : Option Nat
  ooa : Nat
deriving DecidableEq, Repr

/-- One column of a row: its fused operand is read whatever becomes of it (R158); padding gives nothing but marks its group as incomplete
(R211, R212); a pruned position has no storage (R251), an absent block stores +0 (R256). -/
def State.decCol (s : State) (w : Who) (k : DecCtx) (v : View) (fv : Option View) (valid enabled : Bool) (o : Offered) (r c : Nat) : Acc ColOut :=
  let idx := place k.dec k.cols k.org r c
  (s.fuseRead w fv idx).bind fun b =>
    if !v.inside idx then .ok { elem := none, group := none, ooa := b.2.ooa }
    else if !valid then .ok { elem := none, group := some (v.groupPos idx), ooa := b.2.ooa }
    else (s.nmSlot w v idx).bind fun p =>
      let out (e : ElemOut) : ColOut := { elem := some { e with enabled := enabled && e.enabled, flags := e.flags ||| p.2.1 }, group := some (v.groupPos idx), ooa := b.2.ooa + p.2.2 }
      let fixed (d : List Int) (raw : Option Nat) (mx : Option (Val × Nat)) (on zero : Bool) : ElemOut :=
        { idx := d, raw := raw, mx := mx, enabled := on, zero := zero, flags := 0, flushed := false }
      match p.1 with
      | .pruned => .ok (out (fixed idx none none false false))
      | .zero d => .ok (out (fixed d (some 0) none true true))
      | .kept d => (if v.map.isSome then s.present w v idx else .ok true).map fun there =>
        if there then out { decElem k v b idx r c o with idx := d }
        else out (fixed d (if v.fmt.isMx then none else some 0) (if v.fmt.isMx then some (Val.zero, 0) else none) true true)

/-- A row: which columns are valid and enabled is the unit's. -/
def State.decRowOut (s : State) (w : Who) (k : DecCtx) (v : View) (fv : Option View) (r : Nat) (cells : List (Bool × Bool × Offered)) : Acc (List ColOut) :=
  accAll (fun p : (Bool × Bool × Offered) × Nat => s.decCol w k v fv p.1.1 p.1.2.1 p.1.2.2 r p.2) cells.zipIdx

/-- Group counts of the tile: at an element visited the group exists; a written one counts (R212). -/
def bumpGroup (gs : List (Nat × Bool × Nat)) (pos : Nat) (wrote zero : Bool) : List (Nat × Bool × Nat) :=
  match assoc gs pos with
  | none => gs ++ [(pos, (!wrote || zero), b2n wrote)]
  | some (z, n) => assocSet gs pos (z && (!wrote || zero), n + b2n wrote)

/-- The number in the ring of the FTQ of a tile's element, if its tile goes there (R218). -/
def ringNo (k : DecCtx) (buf : Option Nat) (r c : Nat) : Option Nat := buf.map fun b => b * k.elen + r * k.cols + c

/-- The bit address of element n of a ring, and whether it was clamped. -/
def View.ringAddr (v : View) (n : Nat) : Option Nat × Bool := v.clamp (8 * (v.org : Int) + v.width * (n : Int))

/-- Stores of an element at its index, or at its place in the ring. -/
def View.putAt (v : View) (idx : List Int) (ring : Option Nat) (raw : Nat) : MStores × Option Nat × Nat :=
  match ring with
  | none => v.elemStores idx raw
  | some n => match v.ringAddr n with
    | (none, _) => ([], none, 1)
    | (some a, cl) => (bitStores a v.width raw, some a, b2n cl)

/-- Bytes of element stores in order, with their addresses and clamp count. -/
def elemBytes (v : View) (k : DecCtx) (buf : Option Nat) (e : ElemOut) (r c : Nat) : MStores × Option Nat × Nat :=
  match e.raw with
  | none => ([], none, 0)
  | some raw => if e.enabled then v.putAt e.idx (ringNo k buf r c) raw else ([], none, 0)

/-- The FTQ tile buffer in use (R218). -/
def State.ftqBuf (s : State) (x : Nat) (k : DecCtx) : Option Nat :=
  if ftqEn k.dec then some ((s.queue (ftqKey (x / 16) (x % 16))).tail % (s.unit x).ftqDepth) else none

/-- Bytes of the element at a bit address. -/
def spanOf (v : View) (a : Nat) : Nat × Nat := (a / 8, (a + v.width - 1) / 8 + 1)

/-- Widen the tile's stored byte range. -/
def DecSt.cover (d : DecSt) (v : View) (a : Option Nat) : DecSt :=
  match a with
  | none => d
  | some a =>
    let p := spanOf v a
    match d.lo with
    | none => { d with lo := some p.1, hi := p.2, firstDva := p.1 }
    | some l => { d with lo := some (min l p.1), hi := max d.hi p.2 }

/-- The effect of a row's elements on Decant's own state. -/
def DecSt.takeElems (d : DecSt) (v : View) (k : DecCtx) (buf : Option Nat) (r : Nat) : List (ColOut × Nat) → DecSt
  | [] => d
  | (o, c) :: t =>
    let d1 := match o.group, o.elem with
      | some p, some e => { d with groups := bumpGroup d.groups p (e.enabled && e.raw.isSome) e.zero }
      | some p, none => { d with groups := bumpGroup d.groups p false false }
      | none, _ => d
    let d2 := match o.elem with
      | some e => match e.mx with
        | some m => { d1 with mx := d1.mx ++ [{ idx := e.idx, val := m.1, rnd := m.2, on := e.enabled, ring := ringNo k buf r c }] }
        | none => d1.cover v (elemBytes v k buf e r c).2.1
      | none => d1
    DecSt.takeElems d2 v k buf r t

/-! ### MX blocks of a tile (R122, R150) -/

/-- The block of an index: its position in blocks along dimension 0 and its other indices. -/
def mxKey (idx : List Int) : List Int := setAt idx 0 (idx.getD 0 0 / 32)

/-- Put an index among others in tile order. -/
def tileInsert (a : List Int) : List (List Int) → List (List Int)
  | [] => [a]
  | b :: t => if tileBefore a b then a :: b :: t else b :: tileInsert a t

/-- Blocks waiting, in tile order (R160). -/
def mxBlocks (l : List MxWait) : List (List MxWait) :=
  let keys : List (List Int) := ((l.map fun e => mxKey e.idx).eraseDups).foldl (fun ks k => tileInsert k ks) []
  keys.map fun k => l.filter fun e => mxKey e.idx == k

/-- One block encoded: its bytes, its scale's byte, element addresses, which elements are zero, flags, clamps, elements flushed. -/
structure MxOut where
  bytes : MStores
  scale : List (Nat × Byte × Byte)
  addrs : List Nat
  marks : List (Nat × Bool)
  flags : U16
  ooa : Nat
  flushed : Nat
deriving DecidableEq, Repr

def mxEncode (v : View) (es : List MxWait) : MxOut :=
  let r := v.fmt.mxBlock (es.map fun e => e.val) (es.map fun e => tdMode v.td e.rnd)
  let all : List (MxWait × Nat) := es.zip r.2.1
  let ws : List (MxWait × Nat) := all.filter fun p => p.1.on
  let st := ws.map fun p => v.putAt p.1.idx p.1.ring p.2
  let first := (st.findSome? fun x => x.2.1)
  let sc := first.map v.scaleAddr
  let zero (n : Nat) : Bool := (v.fmt.read n r.1).isZero
  { bytes := st.flatMap (·.1)
    scale := match sc with | some p => [(p.1, 255, BitVec.ofNat 8 r.1)] | none => []
    addrs := st.filterMap (·.2.1)
    marks := ws.map fun p => (v.groupPos p.1.idx, zero p.2)
    flags := r.2.2
    ooa := (st.map (·.2.2)).foldl (· + ·) 0 + (match sc with | some p => b2n p.2 | none => 0)
    flushed := (all.filter fun p => lostToZero p.1.val (zero p.2)).length }

/-- Store the waiting MX blocks. -/
def State.storeMx (s : State) (x : Nat) (w : Who) (v : View) : Acc State :=
  let d := s.decAt x
  let os := (mxBlocks d.mx).map (mxEncode v)
  (s.storeView w v (os.flatMap (·.bytes))).bind fun s1 => (s1.storeMasked w (os.flatMap (·.scale))).map fun s2 =>
    let d1 := (os.flatMap (·.addrs)).foldl (fun d a => d.cover v (some a)) d
    let gs := (os.flatMap (·.marks)).foldl (fun g m => bumpGroup g m.1 true m.2) d1.groups
    let bs := (os.flatMap (·.bytes)).map fun b => b.2.2
    let f := os.foldl (fun f o => f ||| o.flags) 0
    ((s2.setDec x { d1 with mx := [], groups := gs, bytes := d1.bytes ++ bs, flushed := d1.flushed + (os.map (·.flushed)).foldl (· + ·) 0 }).orUnitFlags x f).countOoa x
      ((os.map (·.ooa)).foldl (· + ·) 0)

/-- An MX tile's blocks are whole at the end of each row when its columns run along dimension 0. -/
def mxByRow (k : DecCtx) : Bool := colDim k.dec == 0

/-! ### DECANT_ROW -/

/-- The accumulators of a finished row, which wait in their slot (R176). -/
def MxeTile.finished (t : MxeTile) (r : Nat) : Option (List LAcc) :=
  if t.last && decide (t.passes ≤ t.pass + 1) then (t.file.find? fun q => q.group == r / 128).bind fun q => q.rows[r % 128]? else none

/-- The row Decant takes next: one offered, or the next finished one of the tile. -/
def State.nextRow (s : State) (x : Nat) : Option DecRow :=
  let d := s.decAt x
  match d.rows with
  | r :: _ => some r
  | [] => if d.live then none else (s.tile x).bind fun t => (t.finished d.stored).map fun a => { row := d.stored, lanes := [], accs := a, mask := 0, tag := t.tag }

/-- Cells of a row: valid, enabled, offered. A matrix engine's validity follows the extents of its operands (R158). -/
def rowCells (j : Job) (c : Cmd) (u : UnitSt) (k : DecCtx) (r : DecRow) : List (Bool × Bool × Offered) :=
  match c.body with
  | .mxe b _ m =>
    let aTd := if bits b 0 16 = 0xFFFF then m.aRef else bits b 0 16
    let rowIn := decide ((originOf u m.aOrg).getD m.aM.val 0 + r.row < (extOf j.bin c u aTd m.aM.val).1)
    let n0 := (originOf u m.bOrg).getD m.bN.val 0
    r.accs.zipIdx.map fun p =>
      (rowIn && decide (n0 + p.2 < (extOf j.bin c u (bits b 16 16) m.bN.val).1), !colMaskEn k.dec || bit k.dec (128 + p.2), .acc p.1)
  | _ => (r.lanes.take k.cols).zipIdx.map fun p => (p.1.valid, bit r.mask p.2, .lane p.1.bits.toNat)

/-- The fused operand's token: the iteration's on FUSE_PORT, or popped at the tile's first row (R207). -/
inductive FuseTok where
  | none
  | got (t : Token)
  | block (b : Block)
  | popped (k : Nat) (t : Token)
deriving DecidableEq, Repr

def State.fuseToken (s : State) (x : Nat) (k : DecCtx) : FuseTok :=
  if fuseOp k.dec = 0 || !fuseSrc k.dec then .none
  else match (s.decAt x).fuse with
    | some t => .got t
    | none => match assoc (s.unit x).inTok (fusePort k.dec) with
      | some t => .got t
      | none => match s.inQueue x (fusePort k.dec) with
        | none => .block (.wait (.token 0))
        | some q => match (s.queue q).toks.head? with
          | none => .block (.wait (.token (queueId q)))
          | some t =>
            if t.epoch ≠ (s.unit x).epoch.toNat then .block (.stale q)
            else if t.kind = 3 then .block .underrun
            else if t.kind ≠ 0 then .block .notData
            else .popped q t

/-- The slot of a finished row moves on; with the last row of its group it is free (R175). -/
def MxeTile.rowOut (t : MxeTile) (rows r : Nat) : MxeTile :=
  { t with file := (t.file.map fun q => if q.group == r / 128 then { q with out := r % 128 + 1 } else q).filter fun q =>
      !(q.group == r / 128 && (r % 128 == 127 || rows ≤ r + 1)) }

/-- Remove the row taken; the last row of a finished tile releases its directory entry (R195). -/
def State.rowTaken (s : State) (x : Nat) (k : DecCtx) : State :=
  let d := s.decAt x
  let d1 := { d with rows := d.rows.tail, stored := d.stored + 1, ready := if d.live then d.rows.tail.isEmpty else decide (k.rows ≤ d.stored + 1) }
  let s1 := s.setDec x d1
  if !d.rows.isEmpty then s1
  else match s.tile x with
    | none => s1
    | some t => if d1.ready then (s1.setTile x none).setDir t.home ((s1.dir t.home).filter fun e => e.holder != x) else s1.setTile x (some (t.rowOut k.rows d.stored))

/-- Store a row through OUT_TD. -/
def State.storeRow (s : State) (x : Nat) (j : Job) (c : Cmd) (k : DecCtx) (v : View) (fv : Option View) (r : DecRow) : State :=
  let w := whoOf x j
  let buf := s.ftqBuf x k
  s.on w (s.decRowOut w k v fv r.row (rowCells j c (s.unit x) k r)) fun es =>
    let bs : List (List Int × (MStores × Option Nat × Nat)) := es.zipIdx.filterMap fun p => p.1.elem.map fun e => (e.idx, elemBytes v k buf e r.row p.2)
    let l : List (List Int × MStores) := bs.map fun b => (b.1, b.2.1)
    let sts : Wrote × MStores := if placeInOrder k.dec then ([], l.flatMap (·.2)) else (s.decAt x).wrote.order l
    let flags := es.map fun e => match e.elem with | some e => e.flags | none => 0
    let ooa := (es.map (·.ooa)).foldl (· + ·) 0 + (bs.map (·.2.2.2)).foldl (· + ·) 0
    let flushed := (es.filter fun e => match e.elem with | some e => e.flushed | none => false).length
    let stored := (s.storeView w v sts.2).bind fun s1 =>
      let d := (s1.decAt x).takeElems v k buf r.row es.zipIdx
      let s2 := s1.setDec x { d with bytes := d.bytes ++ sts.2.map fun b => b.2.2, tag := r.tag, wrote := sts.1, flushed := d.flushed + flushed }
      if mxByRow k then s2.storeMx x w v else .ok s2
    s.on w stored fun s3 => ((s3.orLanes x flags).countOoa x ooa).rowTaken x k

/-- Ports a completed tile pushes on. -/
def donePorts (k : DecCtx) : List Nat := (if outPortEn k.dec then [outPort k.dec] else []) ++ (if ftqEn k.dec then [8] else [])

/-- The tile takes its credits with its first row. -/
def State.payTile (s : State) (x : Nat) (k : DecCtx) : State :=
  if (s.decAt x).paid || (donePorts k).isEmpty then s
  else
    let s1 := (donePorts k).foldl (fun s p => s.spend x p) s
    let s2 := s1.setDec x { s1.decAt x with paid := true }
    if (s2.unit x).wait.code == 5 then s2.setRun x else s2

/-- Without a credit Decant holds the tile's rows (R215). The engine goes on until its file is full or all rows have entered; then it
records WAIT_CREDIT (R188); a vector engine does so at its next PUSH, or with its last row offered. -/
def State.holdTile (s : State) (x : Nat) (k : DecCtx) (wt : WaitSt) : State :=
  match s.tile x with
  | some t => if 8 ≤ t.file.length || t.passes ≤ t.pass || (s.decAt x).live then s.setWait x wt else s
  | none => if k.rows ≤ (s.vxAt x).base then s.setWait x wt else s

/-- The TAG a fused operand's token must carry: the tile's, whatever asked for a live Decant (R190, R207). -/
def State.tileTag (s : State) (x : Nat) (r : DecRow) : BitVec 12 := match s.tile x with | some t => t.tag | none => r.tag

/-- Take the next row (R204, R207, R215). -/
def State.decantRow (s : State) (x : Nat) (j : Job) (c : Cmd) : State :=
  match decCtx j c (s.unit x), s.nextRow x with
  | some k, some r =>
    if (s.decAt x).ready then s
    else match (if (s.decAt x).paid then none else s.noCredit x (donePorts k)) with
    | some wt => s.holdTile x k wt
    | none =>
      let s := s.payTile x k
      match k.out with
      | none => (s.setDec x { s.decAt x with tag := r.tag }).rowTaken x k
      | some v =>
        let fv := viewOf j.bin c (s.unit x) (fuseTd k.dec)
        match s.fuseToken x k with
        | .block (.wait w) => s.setWait x w
        | .block (.stale q) => s.discardHead x q
        | .block .underrun => s.jobFault j.jid 0x10 3 x false 0 0
        | .block .notData => s
        | .none => s.storeRow x j c k v (if fuseOp k.dec = 0 then none else fv) r
        | .got t =>
          if t.tag ≠ s.tileTag x r then s.jobFault j.jid 0x12 3 x false 0 0
          else (s.setDec x { s.decAt x with fuse := some t }).storeRow x j c k v (fv.map fun f => f.byRef t []) r
        | .popped q t =>
          if t.tag ≠ s.tileTag x r then (s.popQueue q).jobFault j.jid 0x12 3 x false 0 0
          else ((s.popQueue q).setDec x { s.decAt x with fuse := some t }).storeRow x j c k v (fv.map fun f => f.byRef t []) r
  | _, _ => s

/-- DECANT_ROW (R204 to R211). -/
def execDecantRow (x : UnitId) (s : State) : Host.Outcome State Fault Refusal :=
  s.ran fun s => s.unitWorks x.addr fun j c => s.decantRow x.addr j c

/-! ### TILE_COMPLETE -/

/-- The zero-group map's bits of a tile: a group is zero if every element inside the extent was written as ±0 (R212). -/
def zgBits (v : View) (gs : List (Nat × Bool × Nat)) : List (Nat × Bool) :=
  gs.map fun g =>
    let lo := g.1 % ceilDiv (v.lay.getD 0 1) 32 * 32
    (g.1, g.2.1 && decide (min 32 (v.extent 0 - lo) ≤ g.2.2))

def zgStores (base : Nat) (l : List (Nat × Bool)) : MStores :=
  l.map fun b => (base + b.1 / 8, BitVec.ofNat 8 (2 ^ (b.1 % 8)), if b.2 then BitVec.ofNat 8 (2 ^ (b.1 % 8)) else 0)

/-- The reference to a stored tile: OFFSET and DIE of its first stored element, LENGTH, TILE, scales (R213, R539). -/
def State.tileRef (s : State) (w : Who) (k : DecCtx) (d : DecSt) : Acc (BitVec 448) :=
  match k.out with
  | none => .ok (refPayload (bits (Config.freeWord s.fresh) 27 5) (bits (Config.freeWord s.fresh) 0 27) 0 k.tile allRows 0 0)
  | some v =>
    let a0 := v.bitAddr k.org
    let first := if d.lo.isSome then d.firstDva else (((v.clamp a0).1).getD a0.toNat) / 8
    s.refTo w v first (match d.lo with | some l => d.hi - l | none => 0) k.tile allRows

/-- Output ports of the level of the streamed input, for a DRAIN (R51). -/
def drainPorts (c : Cmd) : List Nat :=
  match streamPort c with
  | none => []
  | some b => (c.outs.filter fun o => o.level == b.level).map (·.port.val)

/-- What VXEn must know of an FTQ entry beside its reference travels in the side data R50 leaves to the consumer: the format, the number of
elements, and how far OFFSET, that of the first stored element, lies behind element 0 of the buffer. -/
def ftqSide (k : DecCtx) (buf : Option Nat) (d : DecSt) (p : BitVec 448) : BitVec 448 :=
  match k.out, buf with
  | some v, some b =>
    let at_ := ((v.ringAddr (b * k.elen)).1.getD 0) / 8
    let lead := match d.lo with | some _ => d.firstDva - at_ | none => 0
    p ||| pack 448 [(272, 8, bits v.td 0 8), (288, 32, k.elen), (320, 32, lead)]
  | _, _ => p

/-! ### Live Decants (R190, R191) -/

/-- Partials of a row as PSUM_TD holds them, with flags and clamps (R128, R178, R179). -/
def State.partialRow (s : State) (w : Who) (psum : View) (exact : Bool) (cols r : Nat) : Acc (List (LAcc × U16 × Nat)) :=
  accAll (fun (c : Nat) => (s.readElem w psum [(c : Int), (r : Int), 0, 0, 0, 0]).map fun e =>
    if exact then (LAcc.ofImage (if e.pad then 0 else e.raw), e.flags, e.ooa)
    else let q := LAcc.ofPs48 (if e.pad then 0 else e.raw); (q.1, q.2 ||| e.flags, e.ooa)) (List.range cols)

/-- The live accumulators of row r: those in the file; a row written back stands in PSUM_TD, one that has not entered in its tile's first
pass is zero (log entry 66). -/
def State.liveRow (s : State) (w : Who) (psum : Option View) (b : BitVec 256) (t : MxeTile) (k : DecCtx) (r : Nat) : Acc (List LAcc) :=
  let held : Option (List LAcc) := (t.file.find? fun q => q.group == r / 128 && decide (q.out ≤ r % 128)).bind fun q => q.rows[r % 128]?
  let first := t.pass == 0 && !(bit b 67 && bits b 76 4 != 0)
  match held, psum with
  | some a, _ => .ok a
  | none, some v => if first && decide (t.row ≤ r) then .ok (List.replicate k.cols LAcc.zero) else (s.partialRow w v (bit b 64) k.cols r).map fun l => l.map (·.1)
  | none, none => .ok (List.replicate k.cols LAcc.zero)

/-- Rows of a tile whose passes are not all complete. -/
def MxeTile.liveRows (t : MxeTile) (rows : Nat) : List Nat :=
  if t.passes ≤ t.pass then [] else (List.range rows).filter fun r => !(t.last && decide (t.passes ≤ t.pass + 1) && decide (r < t.row))

/-- Offer the live accumulators to Decant; each keeps its value (R190). -/
def State.liveDecant (s : State) (x : Nat) (tag : BitVec 12) : State :=
  s.withUnitJob x fun j =>
    match s.tile x, (s.unit x).cmd? with
    | some t, some c =>
      (match c.body, decCtx j c (s.unit x) with
        | .mxe b _ _, some k =>
          let w := whoOf x j
          let psum := viewOf j.bin c (s.unit x) (bits b 48 16)
          s.on w (accAll (fun r => (s.liveRow w psum b t k r).map fun a => { row := r, lanes := [], accs := a, mask := 0, tag := tag : DecRow }) (t.liveRows k.rows)) fun rows =>
            if rows.isEmpty then s
            else (s.setDec x { s.decAt x with rows := rows, live := true }).updUnit x fun u => u.count 7 1
        | _, _ => s)
    | _, _ => s

/-- Decant takes nothing of the tile at present. -/
def DecSt.idle (d : DecSt) : Bool := d.rows.isEmpty && !d.ready && !d.live && d.stored == 0

/-- A live Decant bound to a mark (R191); one that meets another under way follows it. -/
def State.askDecant (s : State) (x : Nat) (tag : BitVec 12) : State :=
  match s.tile x with
  | none => s
  | some _ => if (s.decAt x).idle then s.liveDecant x tag else s.setDec x { s.decAt x with asked := (s.decAt x).asked ++ [tag] }

/-- A live Decant is over: the fused operand's token stays with the tile (R207), the next live Decant asked for begins. -/
def State.freeDecant (s : State) (x : Nat) (d : DecSt) : State :=
  match d.asked with
  | [] => s.setDec x { DecSt.reset with fuse := d.fuse }
  | t :: ts => (s.setDec x { DecSt.reset with fuse := d.fuse, asked := ts }).liveDecant x t

/-! ### A complete tile -/

/-- Push a token on ports whose credits are spent. -/
def State.pushPaid (s : State) (x : Nat) (tag : BitVec 12) (pay : BitVec 448) (ports : List Nat) : State :=
  ports.foldl (fun s p => s.pushToken x p tag 0 true 16 pay) s

/-- Hand a complete tile on: map bits, the reference or the FTQ entry, a waiting DRAIN, elements flushed. -/
def State.completeTile (s : State) (x : Nat) (j : Job) (c : Cmd) (k : DecCtx) : State :=
  let w := whoOf x j
  let dps := if (s.decAt x).drain.isSome then drainPorts c else []
  match s.noCredit x dps with
  | some wt => s.setWait x wt
  | none =>
    s.on w (match k.out with | some v => s.storeMx x w v | none => .ok s) fun s1 =>
      let d := s1.decAt x
      let zs := match k.out with | some v => if zgEn k.dec then zgBits v d.groups else [] | none => []
      s1.on w (s1.storeMasked w (zgStores (zgBase k.dec) zs)) fun s2 =>
        s2.on w (if (donePorts k).isEmpty then .ok 0 else s2.tileRef w k d) fun p =>
          let s3 := s2.pushPaid x d.tag (if ftqEn k.dec then ftqSide k (s2.ftqBuf x k) d p else p) (donePorts k)
          let s4 := match d.drain with
            | some t => s3.pushAll x t.tag 2 t.isRef (bits t.hdr 33 6) t.pay dps
            | none => s3
          let zeros := (zs.filter fun z => z.2).length
          let s5 := if 4 ≤ x % 16 then s4.updUnit x fun u => u.count 3 zeros else s4
          let s6 := match k.out with
            | some v => s5.recordTile j.jid x c.tag (tdTensor v.td) k.tile d.bytes
            | none => s5
          let s7 := match k.layer with
            | some l => s6.updJob j.jid fun j => { j with layers := modAt j.layers l fun y => { y with flushed := y.flushed + d.flushed } }
            | none => s6
          if d.live then (s7.tickFresh 1).freeDecant x d else ((s7.tickFresh 1).setDec x .reset).workDone x

/-- TILE_COMPLETE (R212, R213, R218). -/
def execTileComplete (x : UnitId) (s : State) : Host.Outcome State Fault Refusal :=
  s.ran fun s => s.unitWorks x.addr fun j c =>
    match decCtx j c (s.unit x.addr) with
    | none => s
    | some k => if (s.decAt x.addr).ready then s.completeTile x.addr j c k else s

end Sys2Proof.Machine
end

