-- ==== Sys2Proof/Machine/Elem.lean ====
section
/-! DEFINITION. The elementary functions of the vector engine (R143, R227): for each finite operand an enclosure of the exact result, and from
it the FP32 numbers within R143's bound of it. Sums are in units of 2^-320, each term rounded down, and every enclosure allows for what that
loses. -/

namespace Sys2Proof.Machine

/-- FP32 constants. -/
def pInf : Nat := 0x7F800000
def nInf : Nat := 0xFF800000
def fOne : Nat := 0x3F800000
def fMinusOne : Nat := 0xBF800000
def fNegZero : Nat := 0x80000000
def fNan : Nat := 0x7FC00000

/-- One in units of 2^-320. -/
def unit320 : Nat := 2 ^ 320

/-- A result that lies between lo × 2^e and hi × 2^e. -/
structure Encl where
  lo : Nat
  hi : Nat
  e : Int
deriving DecidableEq, Repr

def Encl.exact (m : Nat) (e : Int) : Encl := { lo := m, hi := m, e := e }

/-! ### Series -/

/-- The first n terms of e^t: term k is t^k / k!. -/
def expSum (t : Nat) : Nat → Nat → Nat → Nat
  | 0, _, _ => 0
  | n + 1, k, term => term + expSum t n (k + 1) (term * t / (unit320 * (k + 1)))

/-- e^u for u from t to t + 2^12 units, t below 32. -/
def expEncl (t : Nat) : Nat × Nat := let v := expSum t 264 0 unit320; (v, v + 2 ^ 62)

/-- ln 2 as the sum of 1 / (k 2^k). -/
def ln2Lo : Nat := ((List.range 330).map fun k => unit320 / ((k + 1) * 2 ^ (k + 1))).foldl (· + ·) 0
def ln2Hi : Nat := ln2Lo + 332

/-- The first n terms of atanh z: z^(2k+1) / (2k+1). -/
def atanhSum (z2 : Nat) : Nat → Nat → Nat → Nat
  | 0, _, _ => 0
  | n + 1, k, p => p / (2 * k + 1) + atanhSum z2 n (k + 1) (p * z2 / unit320)

/-- log2 (m × 2^(-b)) for m from 2^b to 2^(b+1), as 2 atanh ((y − 1) / (y + 1)) / ln 2. -/
def log2Encl (m b : Nat) : Nat × Nat :=
  let z := (m - 2 ^ b) * unit320 / (m + 2 ^ b)
  let a := 2 * atanhSum (z * z / unit320) 110 0 z
  (a * unit320 / ln2Hi, (a + 2048) * unit320 / ln2Lo + 1)

/-- atan (1 / d), n terms. -/
def atanInv (d : Nat) (n : Nat) : Int :=
  ((List.range n).map fun k => if k % 2 = 0 then ((unit320 / ((2 * k + 1) * d ^ (2 * k + 1)) : Nat) : Int) else -((unit320 / ((2 * k + 1) * d ^ (2 * k + 1)) : Nat) : Int)).foldl
    (· + ·) 0

/-- π / 2 = 8 atan (1/5) − 2 atan (1/239), within 1,024 units. -/
def halfPi : Int := 8 * atanInv 5 75 - 2 * atanInv 239 25

/-- n terms of an alternating series: each is the one before times −r² / (k (k + 1)). -/
def altSum (r2 : Int) : Nat → Nat → Int → Int
  | 0, _, _ => 0
  | n + 1, k, t => t + altSum r2 n (k + 2) (-(t * r2 / unit320 / (k * (k + 1))))

def sinSum (r : Int) : Int := altSum (r * r / unit320) 45 2 r
def cosSum (r : Int) : Int := altSum (r * r / unit320) 45 1 unit320

/-! ### Enclosures of the exact results -/

/-- 2^x: the whole part of x is the exponent; far below the least FP32 number the result is only known to be near 0. -/
def exp2Encl (neg : Bool) (m : Nat) (e : Int) : Encl :=
  let a := m * 2 ^ (e + 320).toNat
  let x : Int := if neg then -(a : Int) else a
  let n := x / unit320
  if n < -200 then { lo := 0, hi := 1, e := -199 }
  else
    let v := expEncl ((x - n * unit320).toNat * ln2Lo / unit320)
    { lo := v.1, hi := v.2, e := n - 320 }

/-- log2 x in magnitude. -/
def log2Mag (m : Nat) (e : Int) : Encl :=
  let b := Nat.log2 m
  let k := expOf m e
  let l := log2Encl m b
  let lo : Int := k * unit320 + l.1
  let hi : Int := k * unit320 + l.2
  if k < 0 then { lo := (-hi).toNat, hi := (-lo).toNat, e := -320 } else { lo := lo.toNat, hi := hi.toNat, e := -320 }

/-- tanh |x| = (e^(2|x|) − 1) / (e^(2|x|) + 1); from 16 on it lies within 2^-45 of 1. -/
def tanhEncl (m : Nat) (e : Int) : Encl :=
  if 4 ≤ expOf m e then { lo := 2 ^ 45 - 1, hi := 2 ^ 45, e := -45 }
  else
    let v := expEncl (2 * m * 2 ^ (e + 320).toNat)
    { lo := (v.1 - unit320) * unit320 / (v.1 + unit320), hi := (v.2 - unit320) * unit320 / (v.2 + unit320) + 1, e := -320 }

/-- sin |x| or cos |x|, |x| below 2^20, as a sign and a magnitude. -/
def sinEncl (cos : Bool) (m : Nat) (e : Int) : Bool × Encl :=
  let a : Int := ((m * 2 ^ (e + 320).toNat : Nat) : Int)
  let q := a / halfPi
  let r := a - q * halfPi
  let d : Int := 2 ^ 40
  let j := (q + (if cos then 1 else 0)) % 4
  let v : Int := if j % 2 = 0 then sinSum r else cosSum r
  let neg := decide (2 ≤ j)
  let n := if v < 0 then !neg else neg
  (n, { lo := ((v.natAbs : Int) - d).toNat, hi := v.natAbs + d.toNat, e := -320 })

/-! ### The FP32 numbers within a bound -/

/-- The FP32 encoding of m × 2^e towards zero, infinity past the largest; 2^n, where FP32 holds it; an integer as a magnitude. -/
def rzOf (m : Nat) (e : Int) : Nat := (fp32.round .rz false false m e).1

/-- The least FP32 number not below m × 2^e. -/
def upOf (m : Nat) (e : Int) : Nat := let z := fp32.round .rz false false m e; if z.2 &&& fNX != 0 then z.1 + 1 else z.1

/-- The least and the greatest FP32 magnitude that lie within n units of the last place of some point of an enclosure (R143). -/
def Encl.within (b : Encl) (n : Nat) : Nat × Nat :=
  let q := if b.hi = 0 then -149 else fp32.ulp b.hi b.e
  let k := min b.e q
  let s := 2 ^ (b.e - k).toNat
  let u := n * 2 ^ (q - k).toNat
  (upOf (b.lo * s - u) k, rzOf (b.hi * s + u) k)

/-- What a function of a finite operand that is not zero may give: the sign, where the manual fixes it, the exact result where FP32 holds it,
the least and the greatest magnitude. -/
structure ElemRange where
  neg : Option Bool
  exact : Option Nat
  lo : Nat
  hi : Nat
deriving DecidableEq, Repr

/-- The range of a result with exact value m × 2^e, or in an enclosure. -/
def ElemRange.at_ (neg : Bool) (m : Nat) (e : Int) (n : Nat) : ElemRange :=
  let w := (Encl.exact m e).within n
  { neg := some neg, exact := if (fp32.round .rz false false m e).2 &&& fNX == 0 then some (rzOf m e) else none, lo := w.1, hi := w.2 }

def ElemRange.in_ (neg : Bool) (b : Encl) (n : Nat) : ElemRange :=
  let w := b.within n
  { neg := some neg, exact := none, lo := w.1, hi := w.2 }

/-- R143's range of a function (code: 0 EXP2, 1 LOG2, 2 RCP, 3 RSQRT, 4 TANH, 5 SIN, 6 COS) of ±m × 2^e: RCP and RSQRT within 1 unit, the
others within 2, SIN and COS from 2^20 on in [−1, 1]. -/
def elemRange (code : Nat) (neg : Bool) (m : Nat) (e : Int) : ElemRange :=
  let x := expOf m e
  let pow := 2 ^ Nat.log2 m == m
  match code with
  | 0 =>
    let f := m * 2 ^ e.toNat / 2 ^ (-e).toNat
    if decide (x < 8) && f * 2 ^ (-e).toNat == m * 2 ^ e.toNat then .at_ false 1 (if neg then -f else f) 2 else .in_ false (exp2Encl neg m e) 2
  | 1 => if pow then .at_ (decide (x < 0)) x.natAbs 0 2 else .in_ (decide (x < 0)) (log2Mag m e) 2
  | 2 => if pow then .at_ neg 1 (-x) 1 else .in_ neg { lo := 2 ^ 300 / m, hi := 2 ^ 300 / m + 1, e := -e - 300 } 1
  | 3 =>
    let k := e / 2
    let n := if e % 2 = 0 then m else 2 * m
    if 2 ^ Nat.log2 n == n && Nat.log2 n % 2 == 0 then .at_ false 1 (-(x / 2)) 1
    else let r := isqrt (2 ^ 600 / n) 301 0; .in_ false { lo := r, hi := r + 1, e := -k - 300 } 1
  | 4 => .in_ neg (tanhEncl m e) 2
  | _ =>
    if 20 ≤ x then { neg := none, exact := none, lo := 0, hi := fOne }
    else let r := sinEncl (code == 6) m e; .in_ (if code = 6 then r.1 else r.1 != neg) r.2 2

/-- A function of a finite operand that is not zero: Config.elemValue where the manual leaves it free within the range; NX unless the result
is exact, with UF a tiny one (R137, R227). -/
def elemFin (code a : Nat) (neg : Bool) (m : Nat) (e : Int) : Nat × U16 :=
  let r := elemRange code neg m e
  let v := (Config.elemValue code (BitVec.ofNat 32 a)).toNat
  let g := v % 2 ^ 31
  let mag := if g < r.lo then r.lo else if r.hi < g then r.hi else g
  let s : Bool := match r.neg with
    | some n => n
    | none => v / 2 ^ 31 % 2 == 1
  let x := expOf m e
  let pow := 2 ^ Nat.log2 m == m
  let tiny := match code with
    | 0 => neg && (decide (7 ≤ x) || decide (126 * 2 ^ (-e).toNat < m * 2 ^ e.toNat))
    | 2 => decide (126 < x) || (x == 126 && !pow)
    | 3 => false
    | 1 => false
    | 6 => false
    | _ => decide (x < -126) || (x == -126 && pow)
  (fp32.sign s + mag, if tiny && (code == 0 || r.exact != some mag) then fUF ||| fNX else if r.exact = some mag then 0 else fNX)

/-- An elementary function: special values as the table gives them, +inf past the largest finite value. -/
def elemFn (code : Nat) (a : Nat) : Nat × U16 :=
  match fp32.decode a with
  | .nan sig => (fNan, if sig then fIV else 0)
  | .inf neg =>
    match code, neg with
    | 0, true => (0, 0) | 0, false => (pInf, 0)
    | 1, true => (fNan, fIV) | 1, false => (pInf, 0)
    | 2, true => (fNegZero, 0) | 2, false => (0, 0)
    | 3, true => (fNan, fIV) | 3, false => (0, 0)
    | 4, true => (fMinusOne, 0) | 4, false => (fOne, 0)
    | _, _ => (fNan, fIV)
  | .fin neg m e =>
    if m = 0 then
      match code with
      | 0 => (fOne, 0)
      | 1 => (nInf, fDZ)
      | 2 => (if neg then nInf else pInf, fDZ)
      | 3 => (if neg then nInf else pInf, fDZ)
      | 4 => (a, 0)
      | 5 => (a, 0)
      | _ => (fOne, 0)
    else if neg && (code == 1 || code == 3) then (fNan, fIV)
    else if code = 0 && !neg && decide (7 ≤ expOf m e) then (pInf, fOF ||| fNX)
    else if code = 2 && (decide (expOf m e < -128) || (expOf m e == -128 && 2 ^ Nat.log2 m == m)) then
      (if neg then nInf else pInf, fOF ||| fNX)
    else elemFin code a neg m e

end Sys2Proof.Machine
end

