-- ==== Sys2Proof/Machine/Vector.lean ====
section
/-! DEFINITION. The vector engine: registers, recipes, every instruction (R219 to R236). -/

namespace Sys2Proof.Machine

/-! ### Issue (R224, R233) -/

/-- An instruction word: opcode, dst, srcA, srcB, mod. -/
def vxWord (op : Nat) (w : VOps) : U32 := pack 32 [(24, 8, op), (18, 6, w.dst.toNat), (12, 6, w.a.toNat), (6, 6, w.b.toNat), (0, 6, w.m.toNat)]

/-- What an instruction works on. -/
structure VCtx where
  x : Nat
  j : Job
  c : Cmd
  body : BitVec 512
  bind : VxeBind
  vx : VxSt
deriving DecidableEq, Repr

def VCtx.rows (k : VCtx) : Nat := bits k.body 176 6 + 1
def VCtx.group (k : VCtx) : Nat := bits k.body 184 3 + 1
def VCtx.lanes (k : VCtx) : Nat := bits k.body 192 8 + 1
def VCtx.len (k : VCtx) : Nat := bits k.body 160 11
def VCtx.start (k : VCtx) : Nat := bits k.body 144 10
def VCtx.rowMask (k : VCtx) : Bool := bit k.body 188
/-- Arithmetic rounding (VRMODE). -/
def VCtx.mode (k : VCtx) : RMode := if bit k.body 187 then .rz else .rne

/-- An instruction issued, or held by a fault or a missing credit. -/
inductive Issue where
  | done (s : State)
  | held (s : State)
deriving DecidableEq, Repr

/-- The FTQ entry is released once the last tile that reads it is done (R218). -/
def State.dropFtq (s : State) (k : VCtx) : State :=
  match k.c.ins.find? fun b => b.port == 8 with
  | none => s
  | some b => s.updUnit k.x fun u => if innerLast k.c { u with ctr := u.fired } b.level then { u with inTok := u.inTok.filter fun e => e.1 != 8 } else u

/-- After an instruction: the next of the recipe, the next row group, or the end of the tile (R233). One that waited for a credit runs. -/
def State.vxNext (s : State) (k : VCtx) : State :=
  let s0 := if (s.unit k.x).wait.code == 5 then s.setRun k.x else s
  let s1 := s0.updUnit k.x fun u => u.count 0 1
  let v := s1.vxAt k.x
  if v.pos + 1 < k.len then s1.setVx k.x { v with pos := v.pos + 1 }
  else
    let s2 := (s1.setVx k.x { v with base := v.base + k.group, pos := 0, srCount := 0 }).updUnit k.x fun u => u.count 1 k.group
    if v.base + k.group < k.rows then s2 else s2.dropFtq k

/-- Issue an instruction: it must be the recipe's next one of a tile in progress. -/
def State.vxIssue (s : State) (v : VxId) (op : Nat) (w : VOps) (f : VCtx → Issue) : State :=
  s.unitWorks v.addr fun j c =>
    match c.body with
    | .vxe body _ bind =>
      let k : VCtx := { x := v.addr, j := j, c := c, body := body, bind := bind, vx := s.vxAt v.addr }
      if (s.unit v.addr).prog = 0 || k.rows ≤ k.vx.base || k.len ≤ k.vx.pos then s
      else if (s.recipe v.addr)[k.start + k.vx.pos]? ≠ some (vxWord op w) then s
      else match f k with
        | .held t => t
        | .done t => t.vxNext k
    | _ => s

/-! ### Registers (R220, R221) -/

/-- Lane numbers 0 to 255. -/
def laneNos : List Nat := List.range 256

/-- A register as an instruction reads it: V54 holds the tile row, V55 the lane number; V54 to V63 are always VALID. -/
def State.vget (s : State) (k : VCtx) (r : BitVec 6) : VReg :=
  if r = 54 then laneNos.map fun _ => { bits := BitVec.ofNat 32 k.vx.base, valid := true }
  else if r = 55 then laneNos.map fun l => { bits := BitVec.ofNat 32 l, valid := true }
  else if 56 ≤ r.toNat then (s.vreg k.x r.toNat).map fun l => { l with valid := true }
  else s.vreg k.x r.toNat

/-- Write a result; V54 and V55 are read-only. Each lane keeps its flags (R137). -/
def State.vput (s : State) (k : VCtx) (r : BitVec 6) (v : VReg × List U16) : State :=
  (if r = 54 ∨ r = 55 then s else s.setVreg k.x r.toNat v.1).orLanes k.x v.2

def State.mask (s : State) (k : VCtx) (m : Nat) : BitVec 256 := s.vmaskAt (8 * k.x + m % 8)

/-- The flags of the lanes; padding sets none (R139). -/
def laneFlags (rs : List ((Nat × U16) × Bool)) : List U16 := rs.map fun r => if r.2 then r.1.2 else 0

def laneReg (rs : List ((Nat × U16) × Bool)) : VReg := rs.map fun r => { bits := BitVec.ofNat 32 r.1.1, valid := r.2 }

/-- Apply a function of one, two or three lanes; each result lane is VALID if all its sources are. -/
def lanes1 (f : Nat → Nat × U16) (a : VReg) : VReg × List U16 :=
  let rs := a.map fun p => (f p.bits.toNat, p.valid)
  (laneReg rs, laneFlags rs)

def lanes2 (f : Nat → Nat → Nat × U16) (a b : VReg) : VReg × List U16 :=
  let rs := (a.zip b).map fun p => (f p.1.bits.toNat p.2.bits.toNat, p.1.valid && p.2.valid)
  (laneReg rs, laneFlags rs)

def lanes3 (f : Nat → Nat → Nat → Nat × U16) (a b c : VReg) : VReg × List U16 :=
  let rs := (a.zip (b.zip c)).map fun p => (f p.1.bits.toNat p.2.1.bits.toNat p.2.2.bits.toNat, p.1.valid && p.2.1.valid && p.2.2.valid)
  (laneReg rs, laneFlags rs)

/-! ### Arithmetic (R226) -/

/-- ABS, then NEG, on the sign bit at place `sb`. -/
def signMod (sb : Nat) (neg abs : Bool) (w : Nat) : Nat :=
  let a := if abs && w / 2 ^ sb % 2 == 1 then w - 2 ^ sb else w
  if neg then (if a / 2 ^ sb % 2 = 1 then a - 2 ^ sb else a + 2 ^ sb) else a

/-- A two-operand operation of a format on bits, rounded once. -/
def fpOp (f : FloatFmt) (mode : RMode) (g : Val → Val → Val × U16) (a b : Nat) : Nat × U16 :=
  let r := g (f.decode a) (f.decode b)
  let c := f.convert mode false r.1
  (c.1, r.2 ||| c.2)

def fpFma (f : FloatFmt) (mode : RMode) (a b c : Nat) : Nat × U16 :=
  let r := (f.decode a).fma (f.decode b) (f.decode c)
  let z := f.convert mode false r.1
  (z.1, r.2 ||| z.2)

/-- The larger or smaller operand; a NaN gives the canonical NaN. -/
def fpPick (f : FloatFmt) (larger : Bool) (a b : Nat) : Nat × U16 :=
  let x := f.decode a
  let y := f.decode b
  if x.isNan || y.isNan then (f.qnan, x.sigFlag ||| y.sigFlag)
  else if larger then (if x.below y then (b, 0) else (a, 0))
  else (if y.below x then (b, 0) else (a, 0))

/-- Both halves of packed lanes. -/
def packed2 (g : Nat → Nat → Nat × U16) (a b : Nat) : Nat × U16 :=
  let lo := g (a % 65536) (b % 65536)
  let hi := g (a / 65536) (b / 65536)
  (lo.1 + 65536 * hi.1, lo.2 ||| hi.2)

def packed3 (g : Nat → Nat → Nat → Nat × U16) (a b c : Nat) : Nat × U16 :=
  let lo := g (a % 65536) (b % 65536) (c % 65536)
  let hi := g (a / 65536) (b / 65536) (c / 65536)
  (lo.1 + 65536 * hi.1, lo.2 ||| hi.2)

/-- The sign modifiers of both operands in every value of the lane. -/
def withMods (sb : Nat) (m : BitVec 6) (g : Nat → Nat → Nat × U16) (a b : Nat) : Nat × U16 :=
  g (signMod sb (bit m 0) (bit m 1) a) (signMod sb (bit m 2) (bit m 3) b)

/-- A two-source instruction with modifiers, on FP32 lanes or on pairs of BF16. -/
def State.vx2 (s : State) (v : VxId) (op : Nat) (w : VOps) (g : FloatFmt → RMode → Nat → Nat → Nat × U16) : State :=
  s.vxIssue v op w fun k =>
    let f (a b : Nat) : Nat × U16 := if op < 128 then withMods 31 w.m (g fp32 k.mode) a b else packed2 (withMods 15 w.m (g bf16 k.mode)) a b
    .done (s.vput k w.dst (lanes2 f (s.vget k w.a) (s.vget k w.b)))

def execFadd (v : VxId) (w : VOps) (s : State) : Host.Outcome State Fault Refusal := s.ran fun s => s.vx2 v 0x01 w fun f m => fpOp f m Val.add
def execFsub (v : VxId) (w : VOps) (s : State) : Host.Outcome State Fault Refusal := s.ran fun s => s.vx2 v 0x02 w fun f m => fpOp f m Val.sub
def execFmul (v : VxId) (w : VOps) (s : State) : Host.Outcome State Fault Refusal := s.ran fun s => s.vx2 v 0x03 w fun f m => fpOp f m Val.mul
def execFmax (v : VxId) (w : VOps) (s : State) : Host.Outcome State Fault Refusal := s.ran fun s => s.vx2 v 0x05 w fun f _ => fpPick f true
def execFmin (v : VxId) (w : VOps) (s : State) : Host.Outcome State Fault Refusal := s.ran fun s => s.vx2 v 0x06 w fun f _ => fpPick f false
def execFaddPk (v : VxId) (w : VOps) (s : State) : Host.Outcome State Fault Refusal := s.ran fun s => s.vx2 v 0x81 w fun f m => fpOp f m Val.add
def execFsubPk (v : VxId) (w : VOps) (s : State) : Host.Outcome State Fault Refusal := s.ran fun s => s.vx2 v 0x82 w fun f m => fpOp f m Val.sub
def execFmulPk (v : VxId) (w : VOps) (s : State) : Host.Outcome State Fault Refusal := s.ran fun s => s.vx2 v 0x83 w fun f m => fpOp f m Val.mul
def execFmaxPk (v : VxId) (w : VOps) (s : State) : Host.Outcome State Fault Refusal := s.ran fun s => s.vx2 v 0x85 w fun f _ => fpPick f true
def execFminPk (v : VxId) (w : VOps) (s : State) : Host.Outcome State Fault Refusal := s.ran fun s => s.vx2 v 0x86 w fun f _ => fpPick f false

/-- FMA: the third source is the register mod names. -/
def execFma (v : VxId) (w : VOps) (s : State) : Host.Outcome State Fault Refusal :=
  s.ran fun s => s.vxIssue v 0x04 w fun k =>
    .done (s.vput k w.dst (lanes3 (fpFma fp32 k.mode) (s.vget k w.a) (s.vget k w.b) (s.vget k w.m)))

def execFmaPk (v : VxId) (w : VOps) (s : State) : Host.Outcome State Fault Refusal :=
  s.ran fun s => s.vxIssue v 0x84 w fun k =>
    .done (s.vput k w.dst (lanes3 (packed3 (fpFma bf16 k.mode)) (s.vget k w.a) (s.vget k w.b) (s.vget k w.m)))

/-! ### Elementary functions (R227) -/

def State.vxElem (s : State) (v : VxId) (op code : Nat) (w : VOps) : State :=
  s.vxIssue v op w fun k =>
    .done (s.vput k w.dst (lanes1 (fun a => elemFn code (signMod 31 (bit w.m 0) (bit w.m 1) a)) (s.vget k w.a)))

def execExp2 (v : VxId) (w : VOps) (s : State) : Host.Outcome State Fault Refusal := s.ran fun s => s.vxElem v 0x10 0 w
def execLog2 (v : VxId) (w : VOps) (s : State) : Host.Outcome State Fault Refusal := s.ran fun s => s.vxElem v 0x11 1 w
def execRcp (v : VxId) (w : VOps) (s : State) : Host.Outcome State Fault Refusal := s.ran fun s => s.vxElem v 0x12 2 w
def execRsqrt (v : VxId) (w : VOps) (s : State) : Host.Outcome State Fault Refusal := s.ran fun s => s.vxElem v 0x13 3 w
def execTanh (v : VxId) (w : VOps) (s : State) : Host.Outcome State Fault Refusal := s.ran fun s => s.vxElem v 0x14 4 w
def execSin (v : VxId) (w : VOps) (s : State) : Host.Outcome State Fault Refusal := s.ran fun s => s.vxElem v 0x15 5 w
def execCos (v : VxId) (w : VOps) (s : State) : Host.Outcome State Fault Refusal := s.ran fun s => s.vxElem v 0x16 6 w

/-! ### Compare and select (R228) -/

/-- A condition on an order: less, equal, unordered. -/
def condOf (c : Nat) (lt eq un : Bool) : Bool :=
  match c with
  | 0 => eq
  | 1 => !eq
  | 2 => lt
  | 3 => lt || eq
  | 4 => !un && !lt && !eq
  | 5 => !un && !lt
  | 6 => un
  | _ => !un

/-- A comparison of two lanes of a type: FP32, INT32 or UINT32. -/
def cmpLane (ty c a b : Nat) : Bool × U16 :=
  if ty = 0 then
    let x := fp32.decode a
    let y := fp32.decode b
    let un := x.isNan || y.isNan
    (condOf c (x.lt y) (!un && !x.lt y && !y.lt x) un, x.sigFlag ||| y.sigFlag)
  else if ty = 1 then (condOf c (decide (signed 32 a < signed 32 b)) (a == b) false, 0)
  else (condOf c (decide (a < b)) (a == b) false, 0)

/-- CMP: the mask bit of a lane is 0 where either operand is padding. -/
def execCmp (v : VxId) (w : VOps) (s : State) : Host.Outcome State Fault Refusal :=
  s.ran fun s => s.vxIssue v 0x20 w fun k =>
    if bits w.m 3 2 = 3 then .held s
    else
      let rs := ((s.vget k w.a).zip (s.vget k w.b)).map fun p =>
        let r := cmpLane (bits w.m 3 2) (bits w.m 0 3) p.1.bits.toNat p.2.bits.toNat
        let ok := p.1.valid && p.2.valid
        ((b2n (ok && r.1), r.2), ok)
      let bitsOf := rs.zipIdx.foldl (fun n r => n + r.1.1.1 * 2 ^ r.2) 0
      .done ((s.setVmask (8 * k.x + bits w.dst 0 3) (BitVec.ofNat 256 bitsOf)).orLanes k.x (laneFlags rs))

/-- SEL: bits and VALID tag of the selected source. -/
def execSel (v : VxId) (w : VOps) (s : State) : Host.Outcome State Fault Refusal :=
  s.ran fun s => s.vxIssue v 0x21 w fun k =>
    let m := s.mask k (bits w.m 0 3)
    .done (s.vput k w.dst (((s.vget k w.a).zip (s.vget k w.b)).zipIdx.map (fun p => if bit m p.2 then p.1.1 else p.1.2), []))

/-! ### CVT (R229, R230) -/

/-- A rounded value as FP32, which represents it exactly. -/
def asFp32 (v : Val) : Nat := (fp32.convert .rne false v).1

/-- The value of a conversion target for one lane. -/
def cvtLane (target : Nat) (mode : RMode) (sat : Bool) (a : Nat) : Nat × U16 :=
  let x := fp32.decode a
  let via (f : FloatFmt) : Nat × U16 := let r := f.convert mode sat x; (asFp32 (f.decode r.1), r.2)
  let toI (n : Nat) (sg : Bool) : Nat × U16 := let r := toInt mode (intLo n sg) (intHi n sg) x; (unsigned 32 r.1, r.2)
  match target with
  | 0x0 => via bf16 | 0x1 => via fp16 | 0x2 => via e4m3 | 0x3 => via e5m2 | 0x4 => via e2m3 | 0x5 => via e3m2 | 0x6 => via e2m1
  | 0x7 => toI 32 true | 0x8 => toI 16 true | 0x9 => toI 8 true | 0xA => toI 8 false
  | 0xB => fp32.convert mode sat (ofInt (signed 32 a))
  | 0xC => fp32.convert mode sat (ofInt a)
  | 0xE => fp32.convert .rne false (bf16.decode (a % 65536))
  | 0xF => fp32.convert .rne false (bf16.decode (a / 65536))
  | _ => (a, 0)

/-- PACK_BF16. -/
def packBf16 (mode : RMode) (a b : Nat) : Nat × U16 :=
  let lo := bf16.convert mode false (fp32.decode a)
  let hi := bf16.convert mode false (fp32.decode b)
  (lo.1 + 65536 * hi.1, lo.2 ||| hi.2)

/-- Rounding of a lane: SR takes its value by position (R230). -/
def State.cvtMode (s : State) (k : VCtx) (rm kth lane : Nat) : RMode :=
  match decCtx k.j k.c (s.unit k.x) with
  | none => .rne
  | some d =>
    if rm = 1 then .rz
    else if rm = 2 then .sr (srRandom {
      seed := d.seed, stream := (d.out.map fun v => (tdTensor v.td).toNat).getD 0, tile := d.tile, site := 0,
      pass := (d.srPass + kth) % 2 ^ 20, lane := lane, index := k.vx.base })
    else .rne

/-- CVT. -/
def execCvt (v : VxId) (w : VOps) (s : State) : Host.Outcome State Fault Refusal :=
  s.ran fun s => s.vxIssue v 0x28 w fun k =>
    let rm := bits w.m 0 2
    let target := bits w.m 2 4
    if rm = 3 then .held s
    else
      let s1 := if rm = 2 then s.setVx k.x { k.vx with srCount := k.vx.srCount + 1 } else s
      let kth := k.vx.srCount + 1
      let rs := ((s.vget k w.a).zip (s.vget k w.b)).zipIdx.map fun p =>
        let mode := s.cvtMode k rm kth p.2
        if target = 0xD then (packBf16 mode p.1.1.bits.toNat p.1.2.bits.toNat, p.1.1.valid && p.1.2.valid)
        else (cvtLane target mode (bit w.b 0) p.1.1.bits.toNat, p.1.1.valid)
      .done (s1.vput k w.dst (laneReg rs, laneFlags rs))

/-! ### Bits (R231) -/

def State.vxBits (s : State) (v : VxId) (op : Nat) (w : VOps) (f : U32 → U32 → U32) : State :=
  s.vxIssue v op w fun k =>
    .done (s.vput k w.dst (lanes2 (fun a b => ((f (BitVec.ofNat 32 a) (BitVec.ofNat 32 b)).toNat, 0)) (s.vget k w.a) (s.vget k w.b)))

def execAnd (v : VxId) (w : VOps) (s : State) : Host.Outcome State Fault Refusal := s.ran fun s => s.vxBits v 0x30 w fun a b => a &&& b
def execOr (v : VxId) (w : VOps) (s : State) : Host.Outcome State Fault Refusal := s.ran fun s => s.vxBits v 0x31 w fun a b => a ||| b
def execXor (v : VxId) (w : VOps) (s : State) : Host.Outcome State Fault Refusal := s.ran fun s => s.vxBits v 0x32 w fun a b => a ^^^ b

/-- Shifts: the count is immediate or the low five bits of Vb's lane. -/
def State.vxShift (s : State) (v : VxId) (op : Nat) (w : VOps) (f : U32 → Nat → U32) : State :=
  s.vxIssue v op w fun k =>
    let g (a n : Nat) : Nat × U16 := ((f (BitVec.ofNat 32 a) (n % 32)).toNat, 0)
    .done (s.vput k w.dst (if bit w.m 5 then lanes1 (fun a => g a (bits w.m 0 5)) (s.vget k w.a) else lanes2 g (s.vget k w.a) (s.vget k w.b)))

def execShl (v : VxId) (w : VOps) (s : State) : Host.Outcome State Fault Refusal := s.ran fun s => s.vxShift v 0x33 w fun a n => a <<< n
def execShr (v : VxId) (w : VOps) (s : State) : Host.Outcome State Fault Refusal := s.ran fun s => s.vxShift v 0x34 w fun a n => a >>> n

/-! ### POP and PUSH (R219, R221, R223, R231) -/

/-- An element widened exactly to FP32 or INT32; an MX value beyond FP32 becomes infinite, with the flags of R131. -/
def widen (f : Fmt) (r : Rd) : Nat × U16 :=
  if r.pad then (0, r.flags)
  else match f with
    | .float g => if g = fp32 then (r.raw, r.flags) else let z := fp32.convert .rne false (g.decode r.raw); (z.1, z.2 ||| r.flags)
    | .int n sg => (unsigned 32 (if sg then signed n r.raw else (r.raw : Int)), r.flags)
    | g =>
      let v := g.value r.raw r.scale
      let z := fp32.convert .rne false v
      (z.1, z.2 ||| r.flags)

/-- The lane of a value read in a position inside the tile and a row the mask admits; else padding. -/
def popLane (f : Fmt) (ok : Bool) (r : Rd) : (Nat × U16) × Bool := (widen f r, ok)

/-- A lane outside the tile holds a value the manual does not give. -/
def State.deadLane (s : State) (l : Nat) : (Nat × U16) × Bool := ((bits (Config.freeWord (s.fresh + l)) 0 32, 0), false)

/-- A row of a tile of input port n. -/
def State.popPort (s : State) (k : VCtx) (n row : Nat) : Acc (List ((Nat × U16) × Bool) × Nat) :=
  let u := s.unit k.x
  match viewOf k.j.bin k.c u (bits k.body (16 * n) 16) with
  | none => .ok (laneNos.map s.deadLane, 0)
  | some v0 =>
    let tok := u.refTok n
    let org := originOf u (k.bind.inOrg.getD n [])
    let v := match tok with | some t => v0.byRef t org | none => v0
    let taken := match tok with | some t => !k.rowMask || t.rowMask / 2 ^ row % 2 == 1 | none => true
    let at_ (l : Nat) : List Int := addAt (addAt org k.bind.rowDim.val row) k.bind.laneDim.val l
    (accAll (fun l => if l < k.lanes then
        (s.readElem (whoOf k.x k.j) v (at_ l)).map fun r => (popLane v.fmt (v.inside (at_ l) && taken) r, r.ooa)
      else .ok (s.deadLane l, 0)) laneNos).map fun ls => (ls.map (·.1), (ls.map (·.2)).foldl (· + ·) 0)

/-- Tiles of an entry taken before this one: the counters inside the FTQ port's level, in loop order. -/
def innerIndex (u : UnitSt) (lv : Nat) : Nat :=
  (List.range 6).foldl (fun n l => if lv < l then n * max 1 (u.bnd.getD l 1).toNat + (u.fired.getD l 0).toNat else n) 0

/-- The buffer of an FTQ entry as VXEn reads it: element 0 lies as far before OFFSET as the entry's side data say, and the scale of the
first stored element is at SCALE_PTR (R219, R539). -/
def ftqView (t : Token) (f : Fmt) : View :=
  let lead := bits t.pay 320 32
  let d := 8 * lead / f.width
  let n := ceilDiv (d - t.blkPos) 32
  let a := scratchAddr t.die t.off - lead
  { td := 0, fmt := f, ext := [], lay := [], base := a, limit := ceilDiv (bits t.pay 288 32 * f.width) 8, org := a, dev := true,
    scale := t.scalePtr - n, blk := t.blkPos + 32 * n - d, map := none, must := none }

/-- A row of the FTQ entry held (R219); a row that the row mask does not admit is padding (R221, R222). -/
def State.popFtq (s : State) (k : VCtx) (row : Nat) : Acc (List ((Nat × U16) × Bool) × Nat) :=
  let u := s.unit k.x
  match assoc u.inTok 8 with
  | none => .ok (laneNos.map s.deadLane, 0)
  | some t =>
    match fmtOf (bits t.pay 272 8) with
    | none => .ok (laneNos.map s.deadLane, 0)
    | some f =>
      let v := ftqView t f
      let lv := ((k.c.ins.find? fun b => b.port == 8).map (·.level)).getD 0
      let e0 := (innerIndex u lv * k.rows + row) * 256
      let taken := !k.rowMask || t.rowMask / 2 ^ row % 2 == 1
      (accAll (fun l => if e0 + l < bits t.pay 288 32 then
          (s.readAddr (whoOf k.x k.j) v (8 * (v.org : Int) + v.width * ((e0 + l : Nat) : Int))).map fun r => (popLane f taken r, r.ooa)
        else .ok (s.deadLane l, 0)) laneNos).map fun ls => (ls.map (·.1), (ls.map (·.2)).foldl (· + ·) 0)

/-- POPs of the FTQ that are left in the recipe of this execution after position `pos`, and whether a later row group reads the entry too. -/
def State.ftqReadsLeft (s : State) (k : VCtx) : Bool :=
  let rest := ((s.recipe k.x).drop (k.start + k.vx.pos + 1)).take (k.len - (k.vx.pos + 1))
  let all := ((s.recipe k.x).drop k.start).take k.len
  let pops (l : List U32) : Bool := l.any fun i => bits i 24 8 == 0x38 && bits i 12 4 == 8
  pops rest || (decide (k.vx.base + k.group < k.rows) && pops all)

/-- The credit of an FTQ entry goes back when the last POP that reads it issues (R218): in the last tile over which the port stays bound. -/
def State.freeFtq (s : State) (k : VCtx) : State :=
  match k.c.ins.find? fun b => b.port == 8 with
  | none => s
  | some b =>
    let u := s.unit k.x
    if innerLast k.c { u with ctr := u.fired } b.level && !s.ftqReadsLeft k then s.setVx k.x { s.vxAt k.x with freed := true } else s

/-- POP. -/
def execPop (v : VxId) (w : VOps) (s : State) : Host.Outcome State Fault Refusal :=
  s.ran fun s => s.vxIssue v 0x38 w fun k =>
    let row := k.vx.base + bits w.m 0 3
    let src := bits w.a 0 4
    match (if src = 8 then s.popFtq k row else s.popPort k src row) with
    | .ok r =>
      let s1 := (((s.vput k w.dst (laneReg r.1, laneFlags r.1)).countOoa k.x r.2).tickFresh 256).accessed (k.x / 16)
      .done (if src = 8 then s1.freeFtq k else s1)
    | a => .held (s.on (whoOf k.x k.j) a fun _ => s)

/-- The credit Decant waits for while it holds rows of the tile, without which it takes no further one (R215). -/
def State.decantFull (s : State) (k : VCtx) : Option WaitSt :=
  match decCtx k.j k.c (s.unit k.x) with
  | some d => if (s.decAt k.x).paid || (s.decAt k.x).rows.isEmpty then none else s.noCredit k.x (donePorts d)
  | none => none

/-- PUSH: a row to Decant under a write mask, or one inline token to a port. -/
def execPush (v : VxId) (w : VOps) (s : State) : Host.Outcome State Fault Refusal :=
  s.ran fun s => s.vxIssue v 0x39 w fun k =>
    let r := s.vget k w.a
    if bit w.dst 3 then
      match s.noCredit k.x [bits w.dst 0 3] with
      | some wt => .held (s.setWait k.x wt)
      | none => .done ((s.spend k.x (bits w.dst 0 3)).pushToken k.x (bits w.dst 0 3) 0 0 false 56
          (pack 448 ((List.range 14).map fun i => (32 * i, 32, ((r.getD i { bits := 0, valid := true }).bits).toNat))))
    else match s.decantFull k with
    | some wt => .held (s.setWait k.x wt)
    | none =>
      let row : DecRow := { row := k.vx.base + bits w.m 3 3, lanes := r, accs := [], mask := s.mask k (bits w.m 0 3), tag := (s.unit k.x).tag }
      let d := s.decAt k.x
      .done (s.setDec k.x { d with rows := d.rows ++ [row] })

/-! ### Reductions shared with the reduction engine (R237, R240, R241) -/

/-- Is `a` ranked before `b` for MAX (or MIN): the larger value, then the lower index. -/
def ranks (larger : Bool) (a b : Val × Nat) : Bool :=
  if a.1.isNan || b.1.isNan then (if a.1.isNan && b.1.isNan then decide (a.2 < b.2) else a.1.isNan)
  else if larger then b.1.below a.1 || (!a.1.below b.1 && decide (a.2 < b.2))
  else a.1.below b.1 || (!b.1.below a.1 && decide (a.2 < b.2))

/-- The element that wins; NaNs rank first, in ascending index. -/
def best (larger : Bool) : List (Val × Nat) → Option (Val × Nat)
  | [] => none
  | e :: t => match best larger t with
    | none => some e
    | some f => some (if ranks larger e f then e else f)

/-- IV where a signalling NaN was met. -/
def sigAny (l : List Val) : U16 := flagIf (l.any fun v => v.sigFlag != 0) fIV

/-- An exact sum, its zero negative only if every element taken was −0 (R240). -/
def sumVal (l : List Val) (square : Bool) : Val × U16 :=
  let e := l.foldl (fun e v => e.add (if square then (v.mul v).1 else v)) Exact.empty
  let neg := !l.isEmpty && l.all fun v => match v with | .fin true 0 _ => true | _ => false
  ({ e with allNegZero := neg } : Exact).value

/-- One segment of LRED: the lanes taken with their indices. The result lane and its flags. -/
def lredSeg (op : Nat) (l : List (Val × Nat)) : Nat × U16 :=
  let sig := sigAny (l.map (·.1))
  let pick (larger : Bool) : Nat × Nat × U16 :=
    match best larger l with
    | none => (if larger then nInf else pInf, 0xFFFFFFFF, fEMPTY)
    | some e => (asFp32 e.1, e.2, 0)
  match op with
  | 0 => let v := sumVal (l.map (·.1)) false; let z := fp32.convert .rne false v.1; (z.1, z.2 ||| v.2 ||| sig)
  | 5 => let v := sumVal (l.map (·.1)) true; let z := fp32.convert .rne false v.1; (z.1, z.2 ||| v.2 ||| sig)
  | 1 => let p := pick true; (p.1, p.2.2 ||| sig)
  | 2 => let p := pick false; (p.1, p.2.2 ||| sig)
  | 3 => let p := pick true; (p.2.1, p.2.2 ||| sig)
  | _ => let p := pick false; (p.2.1, p.2.2 ||| sig)

/-- All segments of a register. -/
def lredAll (op seg : Nat) (m : BitVec 256) (r : VReg) : List ((Nat × U16) × Bool) :=
  let n := 2 ^ (3 + seg)
  (List.range (256 / n)).flatMap fun i =>
    let ls : List (Lane × Nat) := ((r.drop (i * n)).take n).zipIdx
    let valid := ls.any fun p => p.1.valid
    let took : List (Val × Nat) := (ls.filter fun p => p.1.valid && bit m (i * n + p.2)).map fun p => (fp32.decode p.1.bits.toNat, p.2)
    let z := lredSeg op took
    ls.map fun _ => (z, valid)

/-- LRED (R232). -/
def execLred (v : VxId) (w : VOps) (s : State) : Host.Outcome State Fault Refusal :=
  s.ran fun s => s.vxIssue v 0x3C w fun k =>
    let op := bits w.m 0 3
    let seg := bits w.m 3 3
    if 6 ≤ op ∨ 6 ≤ seg then .held s
    else
      let rs := lredAll op seg (s.mask k (bits w.b 0 3)) (s.vget k w.a)
      .done (s.vput k w.dst (laneReg rs, laneFlags rs))

end Sys2Proof.Machine
end

