-- ==== Sys2Proof/Machine/Reduce.lean ====
section
/-! DEFINITION. The reduction engine (R237 to R244). -/

namespace Sys2Proof.Machine

def rxeIn (b : BitVec 128) : Nat := bits b 0 16
def rxeOut (b : BitVec 128) : Nat := bits b 16 16
def rxeIdx (b : BitVec 128) : Nat := bits b 32 16
def rxeOp (b : BitVec 128) : Nat := bits b 48 4
def rxeIgnore (b : BitVec 128) : Bool := bit b 52
def rxeRowMask (b : BitVec 128) : Bool := bit b 53
def rxeSrcPort (b : BitVec 128) : Bool := bit b 54
def rxeRed (b : BitVec 128) (d : Nat) : Bool := bit b (56 + d)
def rxeK (b : BitVec 128) : Nat := if rxeOp b = 8 then bits b 64 4 + 1 else 1

/-- All index tuples of a box, dimension 0 fastest. -/
def boxIdx : List Int → List Nat → List (List Int)
  | o :: os, n :: ns => (boxIdx os ns).flatMap fun t => (List.range n).map fun (i : Nat) => (o + (i : Int)) :: t
  | _, _ => [[]]

/-- Tuple number n of a box of extents, dimension 0 fastest. -/
def linIdx : List Nat → Nat → List Int
  | [], _ => []
  | e :: t, n => ((n % max 1 e : Nat) : Int) :: linIdx t (n / max 1 e)

/-- Linear position of an index over the reduced dimensions (R239). -/
def redPos (b : BitVec 128) (ext : List Nat) (idx : List Int) : Nat :=
  (List.range 6).foldr (fun d acc => if rxeRed b d then (idx.getD d 0).toNat + ext.getD d 1 * acc else acc) 0

/-- The index of the result an element belongs to. -/
def redKey (b : BitVec 128) (idx : List Int) : List Int := idx.zipIdx.map fun p => if rxeRed b p.2 then 0 else p.1

/-- Positions of one result. -/
def redTotal (b : BitVec 128) (ext : List Nat) : Nat := (List.range 6).foldl (fun n d => if rxeRed b d then n * ext.getD d 1 else n) 1

/-- An open result with nothing taken. -/
def RxeAcc.empty (key : List Int) : RxeAcc := { key := key, ex := Exact.empty, sq := Exact.empty, seen := 0, flags := 0, nans := false, top := [] }

/-- Put a value among the best k. -/
def insertTop (larger : Bool) (k : Nat) (e : Val × Nat) : List (Val × Nat) → List (Val × Nat)
  | [] => if k = 0 then [] else [e]
  | f :: t => match k with
    | 0 => []
    | n + 1 => if ranks larger e f then e :: (f :: t).take n else f :: insertTop larger n e t

/-- MIN and ARGMIN look for the smallest. -/
def rxeLarger (b : BitVec 128) : Bool := !(rxeOp b == 5 || rxeOp b == 7)

/-- Take one element, or only see its position. -/
def RxeAcc.take (a : RxeAcc) (b : BitVec 128) (pos : Nat) (v : Option Val) : RxeAcc :=
  match v with
  | none => { a with seen := a.seen + 1 }
  | some v =>
    let f := a.flags ||| v.sigFlag
    if v.isNan && rxeIgnore b then { a with seen := a.seen + 1, flags := f, nans := true }
    else
      { a with
        seen := a.seen + 1, flags := f, ex := a.ex.add v, sq := a.sq.add (v.mul v).1,
        top := insertTop (rxeLarger b) (rxeK b) (v, pos) a.top }

/-- Change the accumulator of a key. -/
def accPut (l : List RxeAcc) (key : List Int) (f : RxeAcc → RxeAcc) : List RxeAcc :=
  if l.any fun a => a.key == key then l.map fun a => if a.key == key then f a else a else l ++ [f (RxeAcc.empty key)]

/-- A result: FP32 values by rank with their indices, flags. Over NaNs alone, which IGNORE leaves out, every operation sets EMPTY; over no
element at all SUM, SUMSQ and NORM2 set none (R241). -/
def RxeAcc.result (a : RxeAcc) (b : BitVec 128) (mode : RMode) : List (Nat × Nat) × U16 :=
  let empty := a.ex.count == 0
  let fin (v : Val × U16) : List (Nat × Nat) × U16 :=
    let z := fp32.convert mode false v.1
    ([(z.1, 0xFFFFFFFF)], z.2 ||| v.2 ||| a.flags ||| flagIf (empty && a.nans) fEMPTY)
  let sq : Val × U16 := ({ a.sq with allNegZero := a.ex.allNegZero } : Exact).value
  match rxeOp b with
  | 0 => fin a.ex.value
  | 1 => fin sq
  | 2 => let r := sq.1.sqrt; fin (r.1, sq.2 ||| r.2)
  | 3 =>
    if empty then ([(fNan, 0xFFFFFFFF)], a.flags ||| fEMPTY)
    else let s := a.ex.value; let r := s.1.div (ofInt a.ex.count); fin (r.1, s.2 ||| r.2)
  | _ =>
    ((List.range (rxeK b)).map fun i => match a.top[i]? with
      | some e => (asFp32 e.1, e.2)
      | none => (if rxeLarger b then nInf else pInf, 0xFFFFFFFF), a.flags ||| flagIf empty fEMPTY)

/-- The lowest reduced dimension, which holds TOPK's ranks (R238). -/
def rankDim (b : BitVec 128) : Nat := ((List.range 6).find? fun d => rxeRed b d).getD 0

/-- The stores of a result into one tensor, with clamped accesses and flags. -/
def State.resultStores (s : State) (w : Who) (v : View) (b : BitVec 128) (key : List Int) (ws : List Nat) : Acc (MStores × Nat × U16) :=
  (accAll (fun (p : Nat × Nat) => s.placeElem w v (setAt key (rankDim b) (if rxeOp b = 8 then (p.2 : Int) else key.getD (rankDim b) 0)) p.1) ws.zipIdx).map
    fun (l : List (MStores × Nat × U16)) => (l.flatMap (·.1), (l.map (·.2.1)).foldl (· + ·) 0, l.foldl (fun f e => f ||| e.2.2) 0)

/-- The stores of all results into an optional tensor. -/
def State.allStores (s : State) (w : Who) (v : Option View) (b : BitVec 128) (rs : List (List Int × List Nat)) : Acc (List (MStores × Nat × U16)) :=
  match v with
  | some v => accAll (fun (r : List Int × List Nat) => s.resultStores w v b r.1 r.2) rs
  | none => .ok []

/-- Write a list of results. -/
def State.writeResults (s : State) (x : Nat) (j : Job) (c : Cmd) (b : BitVec 128) (rs : List RxeAcc) : Acc State :=
  let w := whoOf x j
  let u := s.unit x
  let out := viewOf j.bin c u (rxeOut b)
  let idx := if 4 ≤ rxeOp b then viewOf j.bin c u (rxeIdx b) else none
  let mode := match out with | some v => tdMode v.td 0 | none => .rne
  let res : List (List Int × (List (Nat × Nat) × U16)) := rs.map fun a => (a.key, a.result b mode)
  (s.allStores w out b (res.map fun r => (r.1, r.2.1.map (·.1)))).bind fun vs =>
    (s.allStores w idx b (res.map fun r => (r.1, r.2.1.map (·.2)))).bind fun is =>
      let a1 : Acc State := match out with | some v => s.storeView w v (vs.flatMap (·.1)) | none => Acc.ok s
      a1.bind fun s1 =>
        let a2 : Acc State := match idx with | some v => s1.storeView w v (is.flatMap (·.1)) | none => Acc.ok s1
        a2.map fun (s2 : State) =>
          let flags : U16 := res.foldl (fun f r => f ||| r.2.2) ((vs ++ is).foldl (fun f e => f ||| e.2.2) 0)
          let empties := (res.filter fun r => r.2.2 &&& fEMPTY != 0).length
          let put (v : View) (s : State) (r : (List Int × (List (Nat × Nat) × U16)) × (MStores × Nat × U16)) : State :=
            s.recordTile j.jid x c.tag (tdTensor v.td) (v.tile (List.replicate 6 1) r.1.1) (r.2.1.map fun (e : Nat × Byte × Byte) => e.2.2)
          let s3 : State := match out with
            | some v => (res.zip vs).foldl (put v) s2
            | none => s2
          ((s3.updUnit x fun u => (u.count 1 res.length).count 2 empties).orUnitFlags x flags).countOoa x (((vs ++ is).map (·.2.1)).foldl (· + ·) 0)

/-- Results due: those seen whole, and at the last iteration every other one; a claim writes what it opened. -/
def dueResults (b : BitVec 128) (v : View) (u : UnitSt) (old new : List RxeAcc) : List RxeAcc :=
  let total := redTotal b v.ext
  let whole := new.filter fun a => decide (total ≤ a.seen) && !(old.any fun o => o.key == a.key && decide (total ≤ o.seen))
  if u.sigOwed then new.filter fun a => !(old.any fun o => o.key == a.key && decide (total ≤ o.seen))
  else if u.done then
    let keys := boxIdx (List.replicate 6 0) ((List.range 6).map fun d => if rxeRed b d then 1 else v.extent d)
    keys.filterMap fun k => match new.find? fun a => a.key == k with
      | none => some (RxeAcc.empty k)
      | some a => if old.any fun o => o.key == k && decide (total ≤ o.seen) then none else some a
  else whole

/-- A position of the tile's footprint: read whatever becomes of it (R158), and whether it is taken. -/
structure RxePos where
  idx : List Int
  rd : Rd
  take : Bool
deriving DecidableEq, Repr

/-- The row mask admits a position: its rows run along dimension 1 of the input, counted from the tile's first (DESIGN CHOICE, log entry 69:
R238 and R239 name no dimension). -/
def rxeAdmits (b : BitVec 128) (tok : Option Token) (org idx : List Int) : Bool :=
  match tok with
  | some t => !rxeRowMask b || t.rowMask / 2 ^ ((idx.getD 1 0) - (org.getD 1 0)).toNat % 2 == 1
  | none => true

/-- The footprint of an iteration's tile, read. -/
def State.rxeRead (s : State) (w : Who) (v : View) (admits : List Int → Bool) (box : List (List Int)) : Acc (List RxePos) :=
  accAll (fun idx => (s.readElem w v idx).map fun r => { idx := idx, rd := r, take := v.inside idx && admits idx }) box

/-- One iteration: the tile's elements are taken in, and due results written (R239, R243). A reference is read as R207 gives. -/
def State.rxeStep (s : State) (x : Nat) (j : Job) (c : Cmd) (b : BitVec 128) (bind : RxeBind) : State :=
  let u := s.unit x
  match viewOf j.bin c u (rxeIn b) with
  | none => s
  | some v0 =>
    let tok := if rxeSrcPort b then u.refTok 0 else none
    let v := match tok with | some t => v0.byRef t [] | none => v0
    let org := originOf u bind.org
    let w := whoOf x j
    s.on w (s.rxeRead w v (rxeAdmits b tok org) (boxIdx org ((List.range 6).map fun d => bind.size.getD d 1))) fun es =>
      let ins := es.filter fun e => v.inside e.idx
      let old := s.rxeAt (x / 16)
      let new := ins.foldl (fun l e => accPut l (redKey b e.idx) fun a => a.take b (redPos b v0.ext e.idx) (if e.take then some (v.value e.rd) else none)) old
      let took : List Val := (ins.filter (·.take)).map fun e => v.value e.rd
      let nans := (took.filter Val.isNan).length
      let masked : List Int := ((ins.filter fun e => !e.take).map fun e => e.idx.getD 1 0).eraseDups
      s.on w (s.writeResults x j c b (dueResults b v0 u old new)) fun s1 =>
        let kept := if u.done || u.sigOwed then [] else new
        let n := took.length - if rxeIgnore b then nans else 0
        let f := ins.foldl (fun f e => if e.take then f ||| e.rd.flags else f) 0
        ((((s1.setRxe (x / 16) kept).updUnit x fun u => ((u.count 0 n).count 3 nans).count 7 masked.length).orUnitFlags x f).countOoa x
          ((es.map (·.rd.ooa)).foldl (· + ·) 0)).workDone x

/-- A reduction runs on the RXE of a die when the unit's iteration has fired and its command names the operation. -/
def State.rxeRun (s : State) (die : Fin 24) (op : Nat) : State :=
  let x := die.val * 16 + 8
  s.unitWorks x fun j c =>
    match c.body with
    | .rxe b bind => if rxeOp b = op && (s.unit x).prog != 0 then s.rxeStep x j c b bind else s
    | _ => s

def execRxeSum (die : Fin 24) (s : State) : Host.Outcome State Fault Refusal := s.ran fun s => s.rxeRun die 0
def execRxeSumsq (die : Fin 24) (s : State) : Host.Outcome State Fault Refusal := s.ran fun s => s.rxeRun die 1
def execRxeNorm2 (die : Fin 24) (s : State) : Host.Outcome State Fault Refusal := s.ran fun s => s.rxeRun die 2
def execRxeMean (die : Fin 24) (s : State) : Host.Outcome State Fault Refusal := s.ran fun s => s.rxeRun die 3
def execRxeMax (die : Fin 24) (s : State) : Host.Outcome State Fault Refusal := s.ran fun s => s.rxeRun die 4
def execRxeMin (die : Fin 24) (s : State) : Host.Outcome State Fault Refusal := s.ran fun s => s.rxeRun die 5
def execRxeArgmax (die : Fin 24) (s : State) : Host.Outcome State Fault Refusal := s.ran fun s => s.rxeRun die 6
def execRxeArgmin (die : Fin 24) (s : State) : Host.Outcome State Fault Refusal := s.ran fun s => s.rxeRun die 7
def execRxeTopk (die : Fin 24) (s : State) : Host.Outcome State Fault Refusal := s.ran fun s => s.rxeRun die 8

end Sys2Proof.Machine
end

