-- ==== Sys2Proof/Machine/Gather.lean ====
section
/-! DEFINITION. The GSE: gather, scatter-add and the token router (R245 to R249, R267 to R278). -/

namespace Sys2Proof.Machine

def gseOp (b : BitVec 256) : Nat := bits b 0 2
def gseInit (b : BitVec 256) : Bool := bit b 2
def gseDrop (b : BitVec 256) : Bool := bit b 3
def gseZg (b : BitVec 256) : Bool := bit b 4
def gseOutEn (b : BitVec 256) : Bool := bit b 5
def gseDim (b : BitVec 256) : Nat := bits b 8 3
def gseOutPort (b : BitVec 256) : Nat := bits b 11 3
def gseTd (b : BitVec 256) (i : Nat) : Nat := bits b (16 + 16 * i) 16
def gseExperts (b : BitVec 256) : Nat := bits b 128 8 + 1
def gseK (b : BitVec 256) : Nat := bits b 136 3 + 1
def gseCap (b : BitVec 256) : Nat := bits b 160 16
def gseRows (b : BitVec 256) : Nat := bits b 176 6 + 1

/-- COUNT in force. -/
def gseCount (c : Cmd) (u : UnitSt) : Nat :=
  let w := countWord c
  if !bit w 31 then bits w 0 31
  else (((assoc u.ext countKey).map (·.toNat)).getD (((c.tdMaxb.find? fun e => e.1 == countKey).map fun e => e.2.toNat).getD 0))

/-- What a GSE command works on. -/
structure GCtx where
  x : Nat
  j : Job
  c : Cmd
  b : BitVec 256
  w : Who
  u : UnitSt
  count : Nat
deriving DecidableEq, Repr

/-- View of the command's TD slot: 0 SRC, 1 DST, 2 IDX, 3 PTR, 4 LOGIT, 5 LOAD, 6 MASK. -/
def GCtx.view (k : GCtx) (i : Nat) : Option View := viewOf k.j.bin k.c k.u (gseTd k.b i)

/-- Element n of a list tensor, dimension 0 fastest. -/
def State.listElem (s : State) (k : GCtx) (v : View) (n : Nat) : Acc Rd := s.readElem k.w v (linIdx v.ext n)

/-- Stores of entries (n, raw) of a list tensor, with clamped accesses and flags (R156, R159). -/
def State.listStores (s : State) (k : GCtx) (v : View) (l : List (Nat × Nat)) : Acc (MStores × Nat × U16) :=
  (accAll (fun (e : Nat × Nat) => s.placeElem k.w v (linIdx v.ext e.1) e.2) l).map fun (r : List (MStores × Nat × U16)) =>
    (r.flatMap (·.1), (r.map (·.2.1)).foldl (· + ·) 0, r.foldl (fun f e => f ||| e.2.2) 0)

/-- What an index entry says (R268). -/
inductive Entry where
  | row (i : Nat)
  | none (iv : Bool)
  | dropped
  | bypassed
deriving DecidableEq, Repr

def entryOf (w : Nat) : Entry :=
  if w < 0xFFFFFFF0 then .row w
  else if w < 0xFFFFFFFD then .none true
  else if w = 0xFFFFFFFD then .dropped
  else if w = 0xFFFFFFFE then .bypassed
  else .none false

/-- Index tuples of one row along a dimension. -/
def rowBox (v : View) (dim row : Nat) : List (List Int) :=
  boxIdx (setAt (List.replicate 6 0) dim (row : Int)) ((List.range 6).map fun d => if d = dim then 1 else v.extent d)

/-- Indices of rows [lo, hi) of a destination. -/
def rowsBox (v : View) (dim lo hi : Nat) : List (List Int) := (List.range (hi - lo)).flatMap fun i => rowBox v dim (lo + i)

/-- The row mask of the 64 rows from `lo` on, of MASK_TD, and the clamped accesses of its reads; without MASK_TD no row is masked (R269, R275). -/
def State.gseMask (s : State) (k : GCtx) (lo : Nat) : Acc (Nat × Nat) :=
  match (if gseOp k.b = 0 then k.view 6 else none) with
  | some m => (accAll (fun i => s.listElem k m (8 * (lo / 64) + i)) (List.range 8)).map fun (bs : List Rd) =>
      (bs.zipIdx.foldl (fun n r => n + r.1.raw % 256 * 2 ^ (8 * r.2)) 0, (bs.map (·.ooa)).foldl (· + ·) 0)
  | none => Acc.ok (allRows, 0)

/-- The reference of a destination tile, with MASK_TD's row mask (R269). -/
def State.gseRef (s : State) (k : GCtx) (v : View) (lo hi : Nat) : Acc (BitVec 448 × Nat) :=
  let p := v.span (setAt (List.replicate 6 0) (gseDim k.b) (lo : Int)) (rowsBox v (gseDim k.b) lo hi)
  let size := (List.range 6).map fun d => if d = gseDim k.b then gseRows k.b else v.extent d
  (s.gseMask k lo).bind fun m =>
    (s.refTo k.w v p.1 (p.2.2 - p.2.1) (v.tile size (setAt (List.replicate 6 0) (gseDim k.b) (lo : Int))) m.1).map fun r => (r, m.2)

/-- The zero-group bits of rows [lo, hi) read back from the destination (R212, R269). -/
def State.gseZeros (s : State) (k : GCtx) (v : View) (lo hi : Nat) : Acc (List (Nat × Bool)) :=
  let idxs : List (List Int) := ((List.range (hi - lo)).flatMap fun i => rowBox v (gseDim k.b) (lo + i)).filter v.inside
  (accAll (fun idx => (s.readElem k.w v idx).map fun r => (v.groupPos idx, (v.value r).isZero)) idxs).map fun es =>
    let gs := es.foldl (fun g e => bumpGroup g e.1 true e.2) []
    zgBits v gs

/-- The destination, which lies in the scratchpad where a reference names it (R542). -/
def GCtx.dst (k : GCtx) : Option View := (k.view 1).map fun v => if gseOutEn k.b then v.inScratchpad k.j.bin else v

/-- Push the reference of the destination tile of rows [lo, hi), whose credit was found (R269). -/
def State.gsePush (s : State) (k : GCtx) (v : View) (lo hi : Nat) : Acc State :=
  (s.gseRef k v lo hi).map fun p => ((s.countOoa k.x p.2).spend k.x (gseOutPort k.b)).pushToken k.x (gseOutPort k.b) k.u.tag 0 true 16 p.1

/-- The end of a destination tile of rows [lo, hi): its lanes' flags (R139), its record, the map bits, the reference. -/
def State.gseTile (s : State) (k : GCtx) (v : View) (lo hi : Nat) : Acc State :=
  let d := k.x / 16
  let size := (List.range 6).map fun d => if d = gseDim k.b then gseRows k.b else v.extent d
  let tile := v.tile size (setAt (List.replicate 6 0) (gseDim k.b) (lo : Int))
  let s0 := (s.recordTile k.j.jid k.x k.c.tag (tdTensor v.td) tile (s.regionBytes k.w v (rowsBox v (gseDim k.b) lo hi))).updUnit k.x UnitSt.endTile
  (if gseOp k.b = 0 && gseZg k.b then (s0.gseZeros k v lo hi).bind fun z => s0.storeMasked k.w (zgStores (tdSparse v.td) z) else .ok s0).bind fun s1 =>
    (if gseOutEn k.b then s1.gsePush k v lo hi else .ok s1).map fun s2 => s2.setGse d { s2.gseAt d with wrote := [], unsent := false }

/-- What a step of a GSE operation gives: the state after it, flags by lane, clamped accesses, what it adds to the counters. -/
structure GOut where
  s : State
  lanes : List U16
  ooa : Nat
  cnt : List (Nat × Nat)
deriving DecidableEq, Repr

/-- Count what a step gave (R278). -/
def State.gseCommit (k : GCtx) (o : GOut) : State :=
  ((o.s.updUnit k.x fun u => o.cnt.foldl (fun u c => u.count c.1 c.2) u).orLanes k.x o.lanes).countOoa k.x o.ooa

/-- A row is done: the position moves on, and its tile is to be ended. -/
def GseSt.rowDone (g : GseSt) : GseSt := { g with row := g.row + 1, acc := none, unsent := true }

/-- Stores of a row's elements at (index, bits) in tile order (R160), with flags by lane and clamped accesses. Rows come in ascending order;
where the destination has a dimension above GDIM, a later row may hold elements that lie before those of an earlier one. -/
def State.gseStore (s : State) (k : GCtx) (v : View) (es : List (List Int × Nat)) : Acc (State × List U16 × Nat) :=
  let d := k.x / 16
  (accAll (fun (e : List Int × Nat) => s.placeElem k.w v e.1 e.2) es).bind fun (ps : List (MStores × Nat × U16)) =>
    let l : List (List Int × MStores) := (es.zip ps).map fun e => (e.1.1, e.2.1)
    let inOrder := (List.range 6).all fun i => decide (i ≤ gseDim k.b) || decide (v.extent i ≤ 1)
    let o : Wrote × MStores := if inOrder then ([], l.flatMap (·.2)) else (s.gseAt d).wrote.order l
    (s.storeView k.w v o.2).map fun s1 =>
      (s1.setGse d { s1.gseAt d with wrote := o.1 }, ps.map (·.2.2), (ps.map (·.2.1)).foldl (· + ·) 0)

/-- All rows are done. -/
def State.gseDone (s : State) (k : GCtx) : State := (s.setGse (k.x / 16) .reset).workDone k.x

/-- Between rows: the end of a tile when its last row is done, once its reference has a credit; the end of the iteration. The second part
says whether rows remain that can begin. -/
def State.gseBetween (s : State) (k : GCtx) (v : View) (total : Nat) : State × Bool :=
  let g := s.gseAt (k.x / 16)
  let last := decide (total ≤ g.row)
  if g.unsent && (decide (g.row % gseRows k.b = 0) || last) then
    match (if gseOutEn k.b then s.noCredit k.x [gseOutPort k.b] else none) with
    | some w => (s.setWait k.x w, false)
    | none => match s.gseTile k v ((g.row - 1) / gseRows k.b * gseRows k.b) g.row with
      | .ok s1 =>
        let s2 := if (s1.unit k.x).wait.code == 5 then s1.setRun k.x else s1
        if last then (s2.gseDone k, false) else (s2, true)
      | e => (s.on k.w e fun s => s, false)
  else if last then (s.gseDone k, false) else (s, true)

/-- Up to n steps from the saved position; a step that faults has not been taken (R277). -/
def State.gseSteps (s : State) (k : GCtx) (v : View) (total : Nat) (f : State → Nat → Acc GOut) : Nat → State
  | 0 => (s.gseBetween k v total).1
  | n + 1 =>
    let b := s.gseBetween k v total
    if b.2 then b.1.on k.w (f b.1 (b.1.gseAt (k.x / 16)).row) fun o => State.gseSteps (State.gseCommit k o) k v total f n else b.1

/-! ### GATHER (R269) -/

/-- One row gathered. -/
def State.gatherRow (s : State) (k : GCtx) (src dst idx : View) (j : Nat) : Acc GOut :=
  let d := k.x / 16
  (s.listElem k idx j).bind fun e =>
    let ent := entryOf e.raw
    let bad := match ent with | .row i => decide (src.extent (gseDim k.b) ≤ i) | _ => false
    let from_ : Option Nat := match ent with | .row i => if bad then none else some i | _ => none
    let iv := bad || (match ent with | .none true => true | _ => false)
    (accAll (fun t => match from_ with
      | none => .ok ((t, Rd.zero) : List Int × Rd)
      | some i => (s.readElem k.w src (setAt t (gseDim k.b) (i : Int))).map fun r => (t, r)) (rowBox dst (gseDim k.b) j)).bind fun (rs : List (List Int × Rd)) =>
      (s.gseStore k dst (rs.map fun r => (r.1, if r.2.pad then 0 else r.2.raw))).map fun z =>
        { s := z.1.setGse d (z.1.gseAt d).rowDone,
          lanes := orList [flagIf iv fIV ||| e.flags] (orList (rs.map fun r => if dst.inside r.1 then r.2.flags else 0) z.2.1),
          ooa := e.ooa + (rs.map fun r => r.2.ooa).foldl (· + ·) 0 + z.2.2, cnt := [(4, 1), (5, b2n bad)] }

/-- A GSE command of an operation on a die. -/
def State.gseRun (s : State) (die : Fin 24) (op : Nat) (f : GCtx → State) : State :=
  let x := die.val * 16 + 10
  s.unitWorks x fun j c =>
    match c.body with
    | .gse b =>
      let u := s.unit x
      if gseOp b = op && u.prog != 0 then f { x := x, j := j, c := c, b := b, w := whoOf x j, u := u, count := gseCount c u } else s
    | _ => s

/-- GATHER: up to `rows` rows (log entry 74). -/
def execGather (die : Fin 24) (s : State) (rows : Nat := 1) : Host.Outcome State Fault Refusal :=
  s.ran fun s => s.gseRun die 0 fun k =>
    match k.view 0, k.dst, k.view 2 with
    | some src, some dst, some idx => s.gseSteps k dst k.count (fun s j => s.gatherRow k src dst idx j) rows
    | _, _, _ => s

/-! ### SCATTER_ADD (R270) -/

/-- Node count, and whether the two extents differ (R270). -/
def GCtx.nodes (k : GCtx) (dst ptr : View) : Nat × Bool :=
  let a := ptr.extent 0 - 1
  let b := dst.extent (gseDim k.b)
  (min a b, a != b)

/-- A destination begins: its messages, and what its accumulator holds before them. BAD_INDEX looks at the two pointers the destination
uses, and counts it once (DESIGN CHOICE, log entry 75: R270 does not say for which destinations a pointer outside [0, E] counts). -/
def State.scatterBegin (s : State) (k : GCtx) (dst ptr : View) (i : Nat) : Acc GOut :=
  let d := k.x / 16
  (s.listElem k ptr i).bind fun a => (s.listElem k ptr (i + 1)).bind fun b =>
    let r0 := signed 32 a.raw
    let r1 := signed 32 b.raw
    let e : Int := k.count
    let lo := max 0 (min r0 e)
    let hi := max lo (min r1 e)
    let out (r : Int) : Bool := decide (r < 0) || decide (e < r)
    let bad := decide (r1 < r0) || out r0 || out r1
    let f0 := flagIf bad fIV ||| a.flags ||| b.flags
    if lo = hi ∧ gseInit k.b then
      .ok { s := s.setGse d (s.gseAt d).rowDone, lanes := [f0], ooa := a.ooa + b.ooa, cnt := [(5, b2n bad)] }
    else
      (accAll (fun t => (if gseInit k.b then s.readElem k.w dst t else .ok Rd.zero).map fun r => (widen dst.fmt r, r.ooa)) (rowBox dst (gseDim k.b) i)).map
        fun (ds : List ((Nat × U16) × Nat)) =>
          { s := s.setGse d { s.gseAt d with edge := lo.toNat, last := hi.toNat, acc := some (ds.map (·.1.1)) },
            lanes := orList [f0] (ds.map (·.1.2)), ooa := a.ooa + b.ooa + (ds.map (·.2)).foldl (· + ·) 0, cnt := [(5, b2n bad)] }

/-- One message row added, each lane rounded to FP32. -/
def State.scatterAddRow (s : State) (k : GCtx) (src dst : View) (i : Nat) (acc : List Nat) : Acc GOut :=
  let d := k.x / 16
  let g := s.gseAt d
  (accAll (fun t => s.readElem k.w src (setAt t (gseDim k.b) (g.edge : Int))) (rowBox dst (gseDim k.b) i)).map fun (ms : List Rd) =>
    let zs : List (Nat × U16) := (acc.zip ms).map fun e => let w := widen src.fmt e.2; let z := fpOp fp32 .rne Val.add e.1 w.1; (z.1, z.2 ||| w.2)
    { s := s.setGse d { g with edge := g.edge + 1, acc := some (zs.map (·.1)) }, lanes := zs.map (·.2), ooa := (ms.map (·.ooa)).foldl (· + ·) 0, cnt := [(4, 1)] }

/-- The destination row is converted and stored. -/
def State.scatterStore (s : State) (k : GCtx) (dst : View) (i : Nat) (acc : List Nat) : Acc GOut :=
  let d := k.x / 16
  let os : List (Nat × U16) := acc.map fun a => dst.fmt.ofVal (tdMode dst.td 0) (tdSat dst.td) (fp32.decode a)
  (s.gseStore k dst (((rowBox dst (gseDim k.b) i).zip os).map fun e => (e.1, e.2.1))).map fun z =>
    { s := z.1.setGse d (z.1.gseAt d).rowDone, lanes := orList (os.map (·.2)) z.2.1, ooa := z.2.2, cnt := [] }

/-- One step: a destination begins, a message row is added, or the destination is stored. -/
def State.scatterStep (s : State) (k : GCtx) (src dst ptr : View) (i : Nat) : Acc GOut :=
  let g := s.gseAt (k.x / 16)
  match g.acc with
  | none => s.scatterBegin k dst ptr i
  | some acc => if g.edge < g.last then s.scatterAddRow k src dst i acc else s.scatterStore k dst i acc

/-- SCATTER_ADD: up to `steps` steps (log entry 74). -/
def execScatterAdd (die : Fin 24) (s : State) (steps : Nat := 1) : Host.Outcome State Fault Refusal :=
  s.ran fun s => s.gseRun die 1 fun k =>
    match k.view 0, k.dst, k.view 3 with
    | some src, some dst, some ptr =>
      let n := k.nodes dst ptr
      let s1 := if n.2 then s.orUnitFlags k.x fBC else s
      s1.gseSteps k dst n.1 (fun s i => s.scatterStep k src dst ptr i) steps
    | _, _, _ => s

/-! ### ROUTE (R272 to R275) -/

/-- The k largest logits of a token in descending rank, NaN never chosen. -/
def choices (ls : List Nat) (k : Nat) : List (Val × Nat) :=
  (ls.zipIdx.filter fun p => !(fp32.decode p.1).isNan).foldl (fun t p => insertTop true k (fp32.decode p.1, p.2) t) []

/-- What the router gives a token: TOK2SLOT entries, logits, slots filled, the new fills and demands, drops and bypasses. -/
structure Routed where
  tok : List Nat
  logit : List Nat
  slots : List Nat
  g : GseSt
  drops : Nat
  byps : Nat
deriving DecidableEq, Repr

/-- Assign one choice. -/
def Routed.place (r : Routed) (cap : Nat) (full : List Nat) (c : Option Nat) : Routed :=
  match c with
  | none => { r with tok := r.tok ++ [0xFFFFFFFF] }
  | some e =>
    if full.contains e then { r with tok := r.tok ++ [0xFFFFFFFE], byps := r.byps + 1, g := { r.g with ovfBypass := r.g.ovfBypass + 1 } }
    else
      let n := r.g.fill.getD e 0
      { r with tok := r.tok ++ [e * cap + n], slots := r.slots ++ [e * cap + n], g := { r.g with fill := modAt r.g.fill e (· + 1) } }

/-- R273 for one token that the row mask admits. -/
def routeToken (g : GseSt) (k cap : Nat) (drop : Bool) (ls : List Nat) : Routed × Bool :=
  let ch := choices ls k
  let cs : List (Option Nat) := (List.range k).map fun i => (ch[i]?).map (·.2)
  let lg := (List.range k).map fun i => match ch[i]? with | some e => ls.getD e.2 nInf | none => nInf
  let dem := cs.foldl (fun d c => match c with | some e => modAt d e (· + 1) | none => d) g.demand
  let full : List Nat := (cs.filterMap id).filter fun e => g.fill.getD e 0 == cap
  let g1 := { g with demand := dem }
  let r0 : Routed := { tok := [], logit := lg, slots := [], g := g1, drops := 0, byps := 0 }
  if drop && !full.isEmpty then
    ({ r0 with tok := List.replicate k 0xFFFFFFFD, drops := 1, g := { g1 with ovfDrop := g1.ovfDrop + 1, mask := g1.mask ++ [false] } }, ch.length < k)
  else
    let r := cs.foldl (fun r c => r.place cap full c) r0
    ({ r with g := { r.g with mask := r.g.mask ++ [true] } }, ch.length < k)

/-- Row mask of a token: bit of the reference its tile came by. -/
def GCtx.admits (k : GCtx) (tok : Option Token) (row : Nat) : Bool := match tok with | some t => t.rowMask / 2 ^ (row % gseRows k.b) % 2 == 1 | none => true

/-- Store entries of an optional list tensor. -/
def State.putList (s : State) (k : GCtx) (v : Option View) (l : List (Nat × Nat)) : Acc (State × Nat × U16) :=
  match v with
  | none => .ok (s, 0, 0)
  | some v => (s.listStores k v l).bind fun m => (s.storeView k.w v m.1).map fun s1 => (s1, m.2)

/-- One token routed and its entries written. -/
def State.routeRow (s : State) (k : GCtx) (src : View) (tok : Option Token) (t : Nat) : Acc GOut :=
  let g := s.gseAt (k.x / 16)
  (accAll (fun (e : Nat) => s.readElem k.w src (setAt (setAt (List.replicate 6 0) (gseDim k.b) (t : Int)) 0 (e : Int))) (List.range (gseExperts k.b))).bind
    fun (rs : List Rd) =>
    let ws : List (Nat × U16) := rs.map fun r => widen src.fmt r
    let inMask := k.admits tok t
    let masked : Routed × Bool :=
      ({ tok := List.replicate (gseK k.b) 0xFFFFFFFF, logit := List.replicate (gseK k.b) nInf, slots := [], g := { g with mask := g.mask ++ [false] }, drops := 0, byps := 0 }, false)
    let r := if inMask then routeToken g (gseK k.b) (gseCap k.b) (gseDrop k.b) (ws.map (·.1)) else masked
    (s.putList k (k.view 2) (r.1.tok.zipIdx.map fun p => (t * gseK k.b + p.2, p.1))).bind fun a =>
      (a.1.putList k k.dst (r.1.slots.map fun q => (q, t))).bind fun b =>
        (b.1.putList k (k.view 4) (r.1.logit.zipIdx.map fun p => (t * gseK k.b + p.2, p.1))).map fun c =>
          { s := c.1.setGse (k.x / 16) { r.1.g with row := t + 1 },
            lanes := orList [flagIf r.2 fIV ||| a.2.2 ||| b.2.2 ||| c.2.2] (if inMask then ws.map (·.2) else []),
            ooa := (rs.map (·.ooa)).foldl (· + ·) 0 + a.2.1 + b.2.1 + c.2.1,
            cnt := [(0, b2n inMask), (1, r.1.slots.length), (2, r.1.byps), (3, r.1.drops)] }

/-- After the last token: unfilled slots, LOAD_TD and MASK_TD (R274). The position moves past the tokens. -/
def State.routeEnd (s : State) (k : GCtx) : Acc GOut :=
  let g := s.gseAt (k.x / 16)
  let ne := gseExperts k.b
  let cap := gseCap k.b
  let free : List Nat := (List.range ne).flatMap fun e => (List.range (cap - g.fill.getD e 0)).map fun i => e * cap + g.fill.getD e 0 + i
  let load : List Nat := (List.range ne).flatMap fun e => [g.demand.getD e 0, g.fill.getD e 0]
  let bytes := (List.range (8 * ceilDiv g.mask.length 64)).map fun i =>
    (List.range 8).foldl (fun n b => n + b2n (g.mask.getD (8 * i + b) false) * 2 ^ b) 0
  (s.putList k k.dst (free.map fun q => (q, 0xFFFFFFFF))).bind fun a =>
    (a.1.putList k (k.view 5) (load.zipIdx.map fun p => (p.2, p.1))).bind fun b => (b.1.putList k (k.view 6) (bytes.zipIdx.map fun p => (p.2, p.1))).map fun c =>
      let s1 := match k.dst with
        | some v => c.1.recordTile k.j.jid k.x k.c.tag (tdTensor v.td) (tdPiece v.td * 2 ^ 32)
            (c.1.regionBytes k.w v (boxIdx (List.replicate 6 0) ((List.range 6).map fun d => v.extent d)))
        | none => c.1
      { s := s1.setGse (k.x / 16) { g with row := k.count + 1 }, lanes := [a.2.2 ||| b.2.2 ||| c.2.2], ooa := a.2.1 + b.2.1 + c.2.1, cnt := [] }

/-- The references of SLOT2TOK's tiles, whose entries are final after the last token: n of them are still owed (R267). -/
def State.routePush (s : State) (k : GCtx) (v : View) : Nat → State
  | 0 => s.workDone k.x
  | n + 1 =>
    let g := s.gseAt (k.x / 16)
    match s.noCredit k.x [gseOutPort k.b] with
    | some w => s.setWait k.x w
    | none =>
      let lo := (g.row - k.count - 1) * gseRows k.b
      s.on k.w (s.gsePush k v lo (min (lo + gseRows k.b) (v.extent (gseDim k.b)))) fun s1 =>
        let s2 := if (s1.unit k.x).wait.code == 5 then s1.setRun k.x else s1
        State.routePush (s2.setGse (k.x / 16) { g with row := g.row + 1 }) k v n

/-- All tokens of the command are routed and its last tables written: the references, then the end. Where the command goes on firing after
its last token nothing is left to do. -/
def State.routeClose (s : State) (k : GCtx) : State :=
  match (if gseOutEn k.b then k.dst else none) with
  | some v => s.routePush k v (ceilDiv (v.extent (gseDim k.b)) (gseRows k.b) + k.count + 1 - (s.gseAt (k.x / 16)).row)
  | none => s.workDone k.x

/-- Tokens from the saved position to `stop`, up to n of them. -/
def State.routeFrom (s : State) (k : GCtx) (src : View) (tok : Option Token) (stop : Nat) : Nat → State
  | 0 =>
    let t := (s.gseAt (k.x / 16)).row
    if k.count < t then s.routeClose k
    else if t = k.count then s.on k.w (s.routeEnd k) fun o => (State.gseCommit k o).routeClose k
    else if stop ≤ t then s.workDone k.x
    else s
  | n + 1 =>
    let t := (s.gseAt (k.x / 16)).row
    if k.count ≤ t || stop ≤ t then State.routeFrom s k src tok stop n
    else s.on k.w (s.routeRow k src tok t) fun o => State.routeFrom (State.gseCommit k o) k src tok stop n

/-- Where the tokens of this iteration end: with all of them, or with the tile its reference names. -/
def GCtx.routeStop (k : GCtx) (tok : Option Token) (row : Nat) : Nat :=
  if tok.isSome then min k.count ((row / gseRows k.b + 1) * gseRows k.b) else k.count

/-- ROUTE: up to `tokens` tokens (log entry 74); the fills last for the command. -/
def execRoute (die : Fin 24) (s : State) (tokens : Nat := 1) : Host.Outcome State Fault Refusal :=
  s.ran fun s => s.gseRun die 2 fun k =>
    match k.view 0 with
    | none => s
    | some v0 =>
      let d := k.x / 16
      let g := s.gseAt d
      let s1 := if g.fill.isEmpty then s.setGse d { g with fill := List.replicate (gseExperts k.b) 0, demand := List.replicate (gseExperts k.b) 0 } else s
      let tok : Option Token := (k.u.inTok.find? fun e => e.2.isRef).map (·.2)
      s1.routeFrom k (match tok with | some t => v0.byRef t (setAt (List.replicate 6 0) (gseDim k.b) ((g.row / gseRows k.b * gseRows k.b : Nat) : Int)) | none => v0) tok (k.routeStop tok g.row) tokens

end Sys2Proof.Machine
end

