-- ==== Sys2Proof/Machine/Move.lean ====
section
/-! DEFINITION. The movers: DMA engines and the layout mover (R164, R287, R396, R436). The elements of a region move in tile
order; `prog` of a mover is 1 + the elements moved, so that a faulting or stopped transfer goes on where it stopped (R77). -/

namespace Sys2Proof.Machine

/-- Elements of a region paired with those of another, both in tile order (dimension 0 fastest). -/
def regionPairs (a b : Region) : List (List Int × List Int) := (boxIdx a.org a.ext).zip (boxIdx b.org b.ext)

/-- Whole bytes of the first n elements of a width. -/
def moved (w n : Nat) : Nat := n * w / 8

/-- What a mover makes of an element: the bits to store, flags, whether a conversion took SR. -/
structure Conv where
  raw : Nat
  flags : U16
  sr : Bool
deriving DecidableEq, Repr

/-- The bits move as they stand. Between formats of different widths the manual states no result: a free value. -/
def rawConv (s : State) (sv dv : View) (i : Nat) (r : Rd) : Conv :=
  { raw := if r.pad then 0 else if sv.width = dv.width then r.raw else bits (Config.freeWord (s.fresh + i)) 0 dv.width, flags := 0, sr := false }

/-- What moving one element gives: the state after it, its flags, clamped accesses, whether its conversion took SR. -/
structure MoveOut where
  s : State
  flags : U16
  ooa : Nat
  sr : Bool
deriving DecidableEq, Repr

/-- One element: read through the source, converted, stored where the destination's extent holds it (R158, R159). DMX and HXU move the
element bits of an MX tensor and leave the destination's scale bytes as they are (DESIGN CHOICE, log entry 68: the manual does not say
whether the scales of a region move with it). -/
def State.moveElem (s : State) (w : Who) (sv dv : View) (conv : Rd → Conv) (p : List Int × List Int) : Acc MoveOut :=
  (s.readElem w sv p.1).bind fun r =>
    let c := conv r
    if dv.inside p.2 then
      (s.placeElem w dv p.2 c.raw).bind fun e => (s.storeView w dv e.1).map fun s1 =>
        { s := s1.tickFresh 1, flags := r.flags ||| c.flags ||| e.2.2, ooa := r.ooa + e.2.1, sr := c.sr }
    else .ok { s := s, flags := 0, ooa := r.ooa, sr := false }

/-- Elements one after another, up to one that faults; true when all are moved. `n` counts those moved before, a tile row has `cols`. -/
def State.moveFrom (s : State) (x : Nat) (w : Who) (sv dv : View) (conv : Nat → Rd → Conv) (srCnt cols : Nat) : Nat → List (List Int × List Int) → State × Bool
  | _, [] => (s, true)
  | n, p :: t =>
    match s.moveElem w sv dv (conv n) p with
    | .ok r =>
      let s1 := (((r.s.updUnit x fun u => { (if r.sr then u.count srCnt 1 else u) with prog := n + 2 }).orLanes x (atLane (n % max 1 cols % 256) r.flags)).countOoa x
        r.ooa).accessed w.die
      State.moveFrom s1 x w sv dv conv srCnt cols (n + 1) t
    | .bad c k d p => (s.streamFault w c k d p (moved sv.width n), false)
    | .wait d => (s.setWait x (.fault d), false)

/-- A reference to a region of a tensor (R50): the tile that the region is. -/
def State.regionRef (s : State) (w : Who) (v : View) (r : Region) : Acc (BitVec 448) :=
  let p := v.span r.org (boxIdx r.org r.ext)
  s.refTo w v p.1 (p.2.2 - p.2.1) (v.tile r.ext r.org) allRows

/-- Push the owed tokens of a mover: where a port's binding asks for it, the reference to the source's or the destination's region. -/
def State.pushMoved (s : State) (x : Nat) (c : Cmd) (refs : Bool → BitVec 448) : List Nat → State
  | [] => s.updUnit x fun u => { u with owed := [] }
  | p :: t =>
    match ((c.outs.find? fun o => o.port.val == p).bind fun o => o.ref) with
    | some b => State.pushMoved ((s.pushToken x p (freshTag s) 0 true 16 (refs b)).tickFresh 1) x c refs t
    | none => State.pushMoved (s.pushOwed x [p]) x c refs t

/-- A mover's region is done: `finish` counts it, the tokens it owes go out, references among them (log entry 72), and the work is complete. -/
def State.moverDone (s : State) (x : Nat) (w : Who) (c : Cmd) (sv : View) (sr : Region) (dst : Option (View × Region)) (finish : State → State) : State :=
  let asked (b : Bool) : Bool := c.outs.any fun o => (s.unit x).owed.contains o.port.val && o.ref == some b
  let src : Acc (BitVec 448) := if asked false then s.regionRef w sv sr else .ok 0
  let dest : Acc (BitVec 448) := match dst with | some d => if asked true then s.regionRef w d.1 d.2 else .ok 0 | none => .ok 0
  s.on w (src.bind fun a => dest.map fun b => (a, b)) fun r =>
    let s1 := finish s
    (s1.pushMoved x c (fun b => if b then r.2 else r.1) (s1.unit x).owed).workDone x

/-- Elements moved when `words` more 64-byte words of the region are complete: a word's last element may end in the next (R77). -/
def wordsMoved (w total n words : Nat) : Nat := min total (ceilDiv (512 * (n * w / 512 + words)) w)

/-- The String Dump holds DMX1 of every compute die from its boundary to the restart (R456, R467). -/
def State.dumpHolds (s : State) : Bool := s.obs.dumps.any fun d => d.taken

/-- DMA_TRANSFER (R396): the engine moves up to `words` 64-byte words of its command's region (log entry 74). DMX1 stands still while the
String Dump holds it (R467), and at L1 the transfers of lent jobs pause (R474). -/
def execDmaTransfer (die : Fin 24) (e : Fin 2) (s : State) (words : Nat := 1) : Host.Outcome State Fault Refusal :=
  let x := die.val * 16 + 12 + e.val
  s.ran fun s => s.unitWorks x fun j c =>
    match c.body with
    | .dmx src dst sr dr =>
      let u := s.unit x
      if u.prog = 0 || (e == 1 && s.dumpHolds) || (decide (1 ≤ s.pwr.eff) && !j.guaranteed) then s
      else match viewOf j.bin c u src, viewOf j.bin c u dst with
        | some sv, some dv =>
          let n := u.prog - 1
          let ps := regionPairs sr dr
          let stop := wordsMoved sv.width ps.length n words
          let r := s.moveFrom x (whoOf x j) sv dv (fun i q => rawConv s sv dv (i - n) q) 2 1 n ((ps.take stop).drop n)
          let done := (r.1.unit x).prog - 1
          let s0 := if n < done then r.1.updJob j.jid fun j => { j with progress := true } else r.1
          let s1 := s0.updUnit x fun v => if v.job.isSome then v.count 0 (moved sv.width done - moved sv.width n) else v
          if r.2 && decide (ps.length ≤ stop) then s1.moverDone x (whoOf x j) c sv sr (some (dv, dr)) fun s => s.updUnit x fun v => v.count 1 1 else s1
        | _, _ => s
    | _ => s

/-! ### LMV -/

/-- The layout mover's conversion of an element: a copy between equal formats, else a conversion under the destination's mode,
with the SR inputs of R136 site 0x0. -/
def lmvConv (j : Job) (pass : Nat) (sv dv : View) (tile cols n : Nat) (r : Rd) : Conv :=
  if sv.fmt = dv.fmt then { raw := if r.pad then 0 else r.raw, flags := 0, sr := false }
  else
    let sr := tdRmode dv.td == 2
    let i : SrIn := { seed := j.seed, stream := (tdTensor dv.td).toNat, tile := tile, site := 0, pass := pass, lane := n % max 1 cols % 256, index := n / max 1 cols % 65536 }
    let o := dv.fmt.ofVal (tdMode dv.td (srRandom i)) (tdSat dv.td) (sv.value r)
    { raw := o.1, flags := o.2 ||| (sv.value r).sigFlag, sr := sr }

/-- Values of a region for the block encoder of an MX destination: those inside its extent (R150, R159). -/
def State.lmvMx (s : State) (x : Nat) (w : Who) (j : Job) (pass : Nat) (sv dv : View) (tile cols : Nat) (ps : List (List Int × List Int)) : Acc State :=
  (accAll (fun p : (List Int × List Int) × Nat => (s.readElem w sv p.1.1).map fun r =>
    let n := p.2
    let i : SrIn := { seed := j.seed, stream := (tdTensor dv.td).toNat, tile := tile, site := 0, pass := pass, lane := n % max 1 cols % 256, index := n / max 1 cols % 65536 }
    let e : MxWait := { idx := p.1.2, val := sv.value r, rnd := srRandom i, on := true, ring := none }
    ((if dv.inside p.1.2 then some e else none), atLane (n % max 1 cols % 256) r.flags, r.ooa)) ps.zipIdx).bind fun (es : List (Option MxWait × List U16 × Nat)) =>
      let ins : List (MxWait × List U16) := es.filterMap fun e => e.1.map fun m => (m, e.2.1)
      ((s.setDec x { s.decAt x with mx := ins.map (·.1) }).storeMx x w dv).map fun s1 =>
        ((s1.countOoa x ((es.map (·.2.2)).foldl (· + ·) 0)).orLanes x (ins.foldl (fun f e => orList f e.2) [])).updUnit x fun u =>
          if tdRmode dv.td = 2 then u.count 2 ins.length else u

/-- A tile of the layout mover is stored: counted, recorded, handed on. -/
def State.lmvDone (s : State) (x : Nat) (j : Job) (c : Cmd) (sv dv : View) (sr dr : Region) : State :=
  let idxs := boxIdx dr.org dr.ext
  s.moverDone x (whoOf x j) c sv sr (some (dv, dr)) fun s =>
    ((s.updUnit x fun u => (u.count 0 (ceilDiv (idxs.length * dv.width) 512)).count 1 1).recordTile j.jid x c.tag (tdTensor dv.td) (dv.tile dr.ext dr.org)
      (s.regionBytes (whoOf x j) dv idxs)).setDec x .reset

/-- LMV_COPY (R130, R136): one tile from one tensor to another. -/
def execLmvCopy (die : Fin 24) (s : State) : Host.Outcome State Fault Refusal :=
  let x := die.val * 16 + 9
  s.ran fun s => s.unitWorks x fun j c =>
    match c.body with
    | .lmv src dst sr dr pass =>
      let u := s.unit x
      if u.prog = 0 then s
      else match viewOf j.bin c u src, viewOf j.bin c u dst with
        | some sv, some dv =>
          let w := whoOf x j
          let ps := regionPairs sr dr
          let tile := dv.tile dr.ext dr.org
          let cols := dr.ext.getD 0 1
          if dv.fmt.isMx then
            if u.prog ≤ ps.length then s.on w (s.lmvMx x w j pass.toNat sv dv tile cols ps) fun s1 => (s1.updUnit x fun u => { u with prog := ps.length + 1 }).lmvDone x j c sv dv sr dr
            else s.lmvDone x j c sv dv sr dr
          else
            let n := u.prog - 1
            let r := s.moveFrom x w sv dv (fun i q => lmvConv j pass.toNat sv dv tile cols i q) 2 cols n (ps.drop n)
            if r.2 then r.1.lmvDone x j c sv dv sr dr else r.1
        | _, _ => s
    | _ => s

end Sys2Proof.Machine
end

