-- ==== Sys2Proof/Machine/Chain.lean ====
section
/-! DEFINITION. Pending marks, periods, and the Marionette chain: stop, save, restore (R75 to R80, R96, R281, R401, R430 to R435). -/

namespace Sys2Proof.Machine

/-! ### Marks and periods -/

/-- Periods a training job may run: STEPS + REPEAT_BUDGET (R283). -/
def Job.periods (j : Job) : Nat :=
  match j.bin.update with
  | none => j.bin.report.steps
  | some u => j.bin.report.steps + bits u.header 256 32

/-- GT of a mark in a period (R281). -/
def periodGt (j : Job) (m : MarkDecl) (p : Nat) : Nat := (j.base + p * j.bin.report.stepBeats) * 2250 + m.offset

/-- Units of a die whose command streams a mark gates (R540), as a mask by unit number. -/
def gatedMask (b : Binary) (m : MarkDecl) (d : Nat) : U16 :=
  (b.units ++ b.reconfs.flatMap (·.units)).foldl (fun w p =>
    if p.x.die.val == d && p.cmds.any (fun c => c.gates.any fun g => g.mark == m.id) then w ||| BitVec.ofNat 16 (2 ^ p.x.u.val) else w) 0

/-- A die has something to do at a mark beside releasing units: a reconfiguration, an object to rearm, a live Decant (R70, R191, R266). -/
def dieActs (b : Binary) (m : MarkDecl) (d : Nat) : Bool :=
  b.reconfs.any (fun r => r.mark == m.id && (r.units.any (fun u => u.x.die.val == d) || r.queues.any fun q => q.die.val == d)) ||
    b.syncs.any (fun o => o.rearm == some m.id && syncHome o.sid == d) ||
      (b.units ++ b.reconfs.flatMap (·.units)).any fun p => p.x.die.val == d && p.cmds.any fun c => match c.body with
        | .mxe _ _ k => k.liveMarks.contains m.id
        | _ => false

/-- The compute dies whose DCUs hold a mark, with the units it gates there (R97). -/
def markDies (b : Binary) (m : MarkDecl) : List (Nat × U16) :=
  (List.range 24).filterMap fun d => let w := gatedMask b m d; if w != 0 || dieActs b m d then some (d, w) else none

/-- The DCUs hold the step marks of a period (R97). -/
def State.addMarks (s : State) (j : Job) (p : Nat) : State :=
  if j.periods ≤ p then s
  else
    let ms := (j.bin.marks.filter fun m => m.step).map fun m => { gt := periodGt j m p, jid := j.jid, decl := m, period := p, dies := markDies j.bin m : MarkSt }
    { s with marks := s.marks ++ ms }

/-- The marks that do not recur. -/
def State.addFixedMarks (s : State) (j : Job) : State :=
  let ms := (j.bin.marks.filter fun m => !m.step).map fun m => { gt := j.base * 2250 + m.offset, jid := j.jid, decl := m, period := 0, dies := markDies j.bin m : MarkSt }
  { s with marks := s.marks ++ ms }

/-- The first mark of a role in a binary. -/
def Job.markOf (j : Job) (r : MarkRole) : Option MarkDecl := j.bin.marks.find? fun m => m.role == r

/-- GT of the STEP_END of a period. -/
def Job.stepEndGt (j : Job) (p : Nat) : Nat :=
  match j.markOf .stepEnd with
  | some m => periodGt j m p
  | none => (j.base + (p + 1) * j.bin.report.stepBeats) * 2250

/-- A job stopped toward its peers: not running, or resumed but before the STEP_END of the period before its rejoin (R366, R435). -/
def State.stoppedToPeers (s : State) (j : Job) : Bool :=
  j.phase != .running || (j.rejoin != 0 && decide (s.gt < j.stepEndGt (j.rejoin - 1)))

/-! ### The program of a unit -/

/-- A unit takes its commands and start values (R38, R220, R532) and stands in RUN, or in IDLE without commands (R47). Job-scoped registers
are cleared (R440); so are CFG_EPOCH and LAST_MARK, of which R440 says nothing (DESIGN CHOICE, log entry 4). -/
def State.loadUnit (s : State) (jid : U64) (p : UnitProg) (fresh : Bool) (period : Nat) : State :=
  let x := p.x.addr
  let u := s.unit x
  let u1 := { u.idle with job := some jid, period := period, cmds := p.cmds, bound := p.bound, bindPtr := p.bindPtr, ocredit := u.ocredit }
  let u2 := if fresh then { u1 with flags := 0, boundClamps := 0, markLate := 0, drainLate := 0, discards := 0, epoch := 0, lastMark := 0 } else u1
  let s1 := ((((s.setUnit x u2).setWatch x none).setVx x .reset).setDec x .reset).setRun x
  if 4 ≤ x % 16 ∧ x % 16 < 8 then s1.setRecipe x p.recipe else s1

def State.loadUnits (s : State) (jid : U64) (fresh : Bool) (period : Nat) : List UnitProg → State
  | [] => s
  | p :: t => State.loadUnits (s.loadUnit jid p fresh period) jid fresh period t

/-- The queues of an epoch take their QCFG words, empty; FTQ credits are set by the tile ring's depth at first use. -/
def State.loadQueues (s : State) : List QDecl → State
  | [] => s
  | q :: t => State.loadQueues ((s.setQueue (queueKey q.die.val q.qid.val) .reset).configure (queueKey q.die.val q.qid.val) q.qcfg) t

/-! ### The stop (R77 steps 1 to 5) -/

/-- Units of a list enter STOPPED; the wait state each was in stays with it (R76). -/
def State.stopUnits (s : State) : List Nat → State
  | [] => s
  | x :: t => State.stopUnits ((s.updUnit x fun u => { u with before := if u.stopped then u.before else u.wait, stopped := true }).setWait x .stopped) t

/-- Tokens on the channels of a set of queues land. -/
def State.landTokens (s : State) (keys : List Nat) : State :=
  let land (s : State) (f : Flying) : State :=
    let q := s.queue f.q
    s.setQueue f.q { q with toks := q.toks ++ [f.tok], tail := (q.tail + 1) % q.depth }
  let fs := s.chans.flatMap fun c => c.2.filter fun f => keys.contains f.q
  let s1 := fs.foldl land s
  let cs : Tab (List Flying) := s1.chans.map fun c => (c.1, c.2.filter fun f => !keys.contains f.q)
  { s1 with chans := cs.filter fun c => !c.2.isEmpty }

/-- `n` credits of queue k land. -/
def State.landCredits (s : State) (k : Nat) : Nat → State
  | 0 => s
  | n + 1 => State.landCredits (s.landCredit k) k n

/-- All that is in flight for a list of queues lands (R77 step 5). -/
def State.landAll (s : State) (keys : List Nat) : State :=
  keys.foldl (fun s k => s.landCredits k (s.queue k).credBack) (s.landTokens keys)

/-- Steps 1 to 5 for a job. Between the request and the stop its units have gone on with the iteration in flight (`State.unitWorks`); what
of it is left, rows of a tile or words of a transfer, is saved as it stands. The matrix engines' trees are empty: rows enter
whole. -/
def State.stopJob (s : State) (j : Job) : State :=
  let xs := s.unitsOf j.jid
  (s.stopUnits xs).landAll (binQueues j.bin ++ ftqKeys xs)

/-- PREEMPT_STOP (R77, R80, R401): the job's units stop, in-flight tokens land, contribution buffers are discarded, open
faults are closed and saved as faulting accesses. -/
def execPreemptStop (jid : U64) (s : State) : Host.Outcome State Fault Refusal :=
  s.ran fun s => s.withJob jid fun j =>
    if j.phase != .stopping then s
    else
      let s1 := s.stopJob j
      let x1 := { j.x with opnds := [] }
      let why := if j.cause = 0 then j else j.reason j.cause
      s1.updJob jid fun _ => { why with phase := .saving, x := x1 }

/-! ### The save (R77 steps 6 and 7, R78) -/

/-- The entries of a table whose numbers satisfy a test, each as it stands. -/
def pick {α : Type} (t : Tab α) (p : Nat → Bool) : Tab α := t.filter fun e => p e.1

/-- Scratchpad bytes of a job's ranges. -/
def inScratchRanges (b : Binary) (a : Nat) : Bool :=
  b.report.scratch.any fun r => decide (scratchAddr r.die.val r.off ≤ a) && decide (a < scratchAddr r.die.val r.off + r.len)

/-- Dies that hold a segment of a job's save image. -/
def saveDies (s : State) (j : Job) : List Nat :=
  let us : List Nat := (s.unitsOf j.jid).map (· / 16)
  let rs : List Nat := j.bin.report.scratch.map fun r => r.die.val
  let ys : List Nat := j.bin.syncs.map fun d => syncHome d.sid
  (us ++ rs ++ ys).eraseDups

/-- What the chain saves of a job (R76). -/
def State.image (s : State) (j : Job) (digest : BitVec 512) : SaveImg :=
  let xs := s.unitsOf j.jid
  let qs := binQueues j.bin ++ ftqKeys xs
  let mine (x : Nat) : Bool := xs.contains x
  { jid := j.jid
    ctx := j.ctx
    dva := j.saveDva
    pa := (s.peek? j.ctx.val j.saveDva).getD 0
    digest := digest
    units := xs.map fun x => (x, s.unit x)
    queues := qs.map fun k => (k, s.queue k)
    syncs := j.bin.syncs.map fun d => (d.sid.toNat, s.sync d.sid.toNat)
    watches := xs.filterMap fun x => (s.watch x).map fun w => (x, w)
    scratch := s.mem.filter fun c => inScratchRanges j.bin c.1
    mxe := xs.map fun x => (x, s.tile x)
    dir := s.accDir.filterMap fun d => if d.2.any fun e => mine e.holder then some (d.1, d.2.filter fun e => mine e.holder) else none
    dec := xs.map fun x => (x, s.decAt x)
    vregs := pick s.vregs fun k => mine (k / 64)
    vmask := pick s.vmask fun k => mine (k / 8)
    vx := xs.map fun x => (x, s.vxAt x)
    recipe := xs.map fun x => (x, s.recipe x)
    gse := (xs.filter fun x => x % 16 == 10).map fun x => (x / 16, s.gseAt (x / 16))
    rxe := (xs.filter fun x => x % 16 == 8).map fun x => (x / 16, s.rxeAt (x / 16))
    marks := s.marks.filter fun m => m.jid == j.jid
    recfgs := s.recfgs.filter fun m => m.jid == j.jid
    faults := (s.faults.filter fun f => f.jid == j.jid).flatMap fun f => (f.stream :: f.joined).map fun k => (k, f.dva, f.write)
    saveGt := s.gt }

/-- The save-area header (R78). FORMAT's value is not stated. -/
def saveHeader (j : Job) (fmt dieMask : Nat) (gt : Nat) (digest : BitVec 512) : BitVec 1024 :=
  pack 1024 [(0, 32, 0xC7A30001), (32, 32, fmt), (64, 64, j.jid.toNat), (128, 8, j.ctx.val), (160, 32, dieMask),
    (192, 64, j.bin.report.saveBytes), (256, 64, (gtWord gt).toNat), (512, 512, digest.toNat)]

/-- Bytes of an area as the context's translation leads to them. -/
def State.areaBytes (s : State) (ctx dva n : Nat) : List Byte :=
  (List.range n).map fun i => match s.peek? ctx (dva + i) with | some a => s.byteAt a | none => 0

/-- SHA-512 of bytes 128 to LENGTH - 1 of a job's save area (R78). -/
def State.areaDigest (s : State) (j : Job) : BitVec 512 :=
  Config.sha512 (s.areaBytes j.ctx.val (j.saveDva + 128) (j.bin.report.saveBytes - 128))

/-- A resume token (R432). -/
def resumeToken (ctx dva : Nat) (digest : BitVec 512) : U64 :=
  pack 64 [(0, 41, dva / 65536), (41, 5, ctx), (48, 16, bits digest 0 16)]

/-- Take the job's state off the module: a job that completes PREEMPTED disarms its sync objects as any that completes (R63), a parked one
keeps them. Its link-die state stays with the live job; reconfigurations pending at a mark are in the image, those whose stale
tokens are saved with their queues too. -/
def State.unload (s : State) (j : Job) : State :=
  let xs := s.unitsOf j.jid
  let s0 := (s.clearUnits xs).clearQueues (binQueues j.bin ++ ftqKeys xs)
  let s1 := if j.cause = 0 then s0 else s0.disarm j.bin.syncs
  { s1 with
    marks := s1.marks.filter fun m => m.jid != j.jid
    recfgs := s1.recfgs.filter fun m => m.jid != j.jid
    faults := s1.faults.filter fun f => f.jid != j.jid }

/-- Every sync reply of a job's units has arrived, those to bound reads among them (R77 step 3). -/
def State.repliesIn (s : State) (j : Job) : Bool :=
  (s.unitsOf j.jid).all fun x =>
    let u := s.unit x
    u.replies.isEmpty && !u.claim.inFlight && !(u.reads.any fun r => bits r.word 29 2 == 1)

/-- FLAGS of units a job leaves stay in its completion record. -/
def State.keepFlags (s : State) (j : Job) : Job := { j with flags := s.jobFlags j }

/-- Do something to a range of a context's pages, byte for byte at the places its locked translation leads to: `n` pages of 64 KiB from
`dva`, up to `hi`. -/
def State.overDva (f : State → Nat → Nat → State) (s : State) (ctx dva hi : Nat) : Nat → State
  | 0 => s
  | n + 1 =>
    let stop := min hi (dva / 65536 * 65536 + 65536)
    let s1 := match s.peek? ctx dva with | some a => f s a (a + (stop - dva)) | none => s
    if stop < hi then State.overDva f s1 ctx stop hi n else s1

/-- The range takes bytes the manual does not lay out. -/
def State.veilDva (s : State) (ctx dva hi n : Nat) : State := s.overDva State.veil ctx dva hi n

/-- CHAIN_SAVE (R77, R78, R432): the image, whose bytes the manual does not lay out, the header over them with their digest, and PREEMPTED
with its token; a parked job is saved without a record (R421). -/
def execChainSave (jid : U64) (s : State) : Host.Outcome State Fault Refusal :=
  s.ran fun s => s.withJob jid fun j =>
    if j.phase != .saving || !s.repliesIn j then s
    else
      let top := j.saveDva + max j.bin.report.saveBytes 128
      let s0 := s.veilDva j.ctx.val (j.saveDva + 128) top (j.bin.report.saveBytes / 65536 + 2)
      let dig := s0.areaDigest j
      let img := s.image j dig
      let mask := (saveDies s j).foldl (fun m d => m ||| 2 ^ d) 0
      let hdr := saveHeader j (Config.freeWord s0.fresh).toNat mask s.gt dig
      let j1 := { s.keepFlags j with phase := if j.cause = 0 then .parked else .preempted, saveAt := s.time.beat + 1 }
      let s1 := ((s0.storeQuiet j.ctx.val j.saveDva (bytesOf 128 hdr.toNat)).tickFresh 1).record jid 0x0B [(gtWord s.gt).toNat] []
      let s2 := (s1.unload j).updJob jid fun _ => j1
      let s3 : State := { s2 with saves := (s2.saves.filter fun v => v.jid != jid) ++ [img] }
      if j.cause = 0 then s3
      else s3.postCpl j.ctx.val { step := false, disp := 5, reason := 0, isExact := false, widened := j.widened, flags := s3.jobFlags j1,
                                  late := 0, jid := jid, detail := resumeToken j.ctx.val j.saveDva dig }

/-! ### The restore (R79, R434, R435) -/

/-- Put back a list of entries. -/
def State.putEach {α : Type} (f : State → Nat → α → State) (s : State) : List (Nat × α) → State
  | [] => s
  | e :: t => State.putEach f (f s e.1 e.2) t

/-- Write back scratchpad bytes: ranges of the job hold exactly what was saved. -/
def State.putScratch (s : State) (b : Binary) (cells : List Host.Cell) : State :=
  let kept := s.mem.filter fun c => !inScratchRanges b c.1
  s.setMem (cells.foldl (fun m c => writeByte m c.1 c.2) kept)

/-- Everything of an image but its marks; units are still stopped. -/
def State.putImage (s : State) (j : Job) (v : SaveImg) : State :=
  let s1 := (s.putScratch j.bin v.scratch).putEach (f := State.setUnit) v.units
  let s2 := (s1.putEach (f := State.setQueue) v.queues).putEach (f := State.setSync) v.syncs
  let s3 := (s2.putEach (f := fun s x w => s.setWatch x (some w)) v.watches).putEach (f := State.setTile) v.mxe
  let s4 := (s3.putEach (f := fun s d es => s.setDir d (s.dir d ++ es)) v.dir).putEach (f := State.setDec) v.dec
  let s5 := (s4.putEach (f := fun s k r => s.setVreg (k / 64) (k % 64) r) v.vregs).putEach (f := State.setVmask) v.vmask
  let s6 := (s5.putEach (f := State.setVx) v.vx).putEach (f := State.setRecipe) v.recipe
  (s6.putEach (f := State.setGse) v.gse).putEach (f := State.setRxe) v.rxe

/-- Units start again from where they stopped, in the wait state a stop found them in (R76, R79). -/
def State.runUnits (s : State) : List Nat → State
  | [] => s
  | x :: t =>
    let u := s.unit x
    State.runUnits ((s.updUnit x fun u => { u with stopped := false, before := .idle }).setWait x u.before) t

/-- Saved faulting accesses are issued again; one that faults posts a new record (R79, R401). -/
def State.reissue (s : State) (jid : U64) : List (Nat × Nat × Bool) → State
  | [] => s
  | (x, dva, wr) :: t =>
    match s.job? jid with
    | none => s
    | some j =>
      let w : Who := if x < 512 then whoOf x j else { whoOf (x - 512) j with isDie := true, lockedOnly := true }
      match s.locate w dva wr with
      | .bad c k d p => State.reissue (s.streamFault w c k d p 0) jid t
      | .wait d => State.reissue (if x < 512 then s.setWait x (.fault d) else s) jid t
      | .ok _ => State.reissue (if x < 512 then s.setRun x else s) jid t

/-- A step record (R284, R424). -/
def State.stepRecord (s : State) (j : Job) (disp reason : Nat) (p : Nat) : State :=
  s.postCpl j.ctx.val {
    step := true, disp := disp, reason := reason, isExact := false, widened := j.widened, flags := s.jobFlags j, late := 0, jid := j.jid,
    detail := pack 64 [(0, 32, j.s), (32, 32, p)] }

/-- STEP_REPEATED for each period from `p` on, `n` of them (R435). -/
def State.repeatRecords (s : State) (j : Job) (reason p : Nat) : Nat → State
  | 0 => s
  | n + 1 => State.repeatRecords (s.stepRecord j 7 reason p) j reason (p + 1) n

/-- A bucket at the start of a period: what was delivered and decided is of the period (R351, R353). -/
def BucketSt.newPeriod (b : BucketSt) : BucketSt := { b with parts := [], late := false, decided := false, added := false, fold := 0 }

/-- The exchange state of a new period: delivered buckets, operands and Cork values are those of the period (R351, R359). -/
def ExchSt.newPeriod (x : ExchSt) (p : Nat) : ExchSt :=
  { x with
    per := p, buckets := x.buckets.map BucketSt.newPeriod, norm := .fresh, opnds := [], planPos := List.replicate 12 0, cork := none,
    corkPhase := 0, corkPos := none, corkNeg := none, corkBad := false, result := none, skip := false, gathered := false, own := none, normLate := false }

/-- Per-period state of a training job's layers. The system maximum of the last COMMIT or SKIP stays (R342). -/
def LayerSt.newPeriod (l : LayerSt) : LayerSt :=
  { l with emax := none, gzero := 0, lost := 0, flushed := 0, nfZeroed := 0, quiet := false, ng := 0, nw := 0, nd := 0, done := false }

/-- The job's state at the start of period p. -/
def Job.newPeriod (j : Job) (p : Nat) : Job :=
  { j with period := p, outcome := .none, lrs := [], p2 := none, pass1 := false, norms := false, updated := false, faulted := false, layers := j.layers.map LayerSt.newPeriod, x := j.x.newPeriod p }

/-- The period a stop interrupted, ended by its Cork: its step counts (R282), and a SKIP has its record (R284). -/
def State.endInterrupted (s : State) (j : Job) : State × Job :=
  let went := j.outcome == .commit || j.outcome == .skip
  (if j.outcome == .skip then s.stepRecord j 8 0 j.period else s, if went then { j with s := j.s + 1, commits := j.commits + 1 } else j)

/-- A job with cross-module marks rejoins at period π′ with the step program started afresh (R435). Its scratchpad is as saved (R80), the
marks that do not recur are pending again, the link dies go on by themselves until they reach π′ (R366). -/
def State.rejoinAt (s : State) (j : Job) (v : SaveImg) : State :=
  let from_ := if j.outcome == .commit || j.outcome == .skip then j.period + 1 else j.period
  let e := (s.putScratch j.bin v.scratch).endInterrupted j
  let s1 := (e.1.loadUnits j.jid false j.rejoin j.bin.units).loadQueues j.bin.queues
  let s2 := s1.putEach (f := fun s x u => s.updUnit x fun n => { n with
                                                                 flags := u.flags, boundClamps := u.boundClamps, markLate := u.markLate,
                                                                 drainLate := u.drainLate, discards := u.discards, epoch := u.epoch + 1 }) v.units
  let s3 := (s2.putEach (f := State.setSync) v.syncs).repeatRecords e.2 j.cause from_ (j.rejoin - from_)
  let j1 := { e.2.newPeriod j.rejoin with phase := .running, x := j.x }
  let s4 := s3.updJob j.jid fun _ => j1
  let s4 : State := { s4 with marks := s4.marks ++ v.marks.filter fun m => !m.decl.step }
  ((s4.addMarks j1 j.rejoin).addMarks j1 (j.rejoin + 1)).record j.jid 0x0B [j.rejoin] []

/-- A job without them continues where it stopped; its pending marks move by Δ beats (R434). -/
def State.continueAt (s : State) (j : Job) (v : SaveImg) : State :=
  let s1 := s.putImage j v
  let ms := v.marks.map fun m => { m with gt := m.gt + j.rejoin * 2250 }
  let s2 : State := { s1 with marks := s1.marks ++ ms, recfgs := s1.recfgs ++ v.recfgs }
  let s3 := s2.updJob j.jid fun j => { j with phase := .running, rejoin := 0 }
  (s3.runUnits (v.units.map (·.1))).reissue j.jid v.faults

/-- A byte of the save area lies in a poisoned burst. -/
def State.areaPoisoned (s : State) (ctx dva n : Nat) : Bool :=
  (List.range n).any fun i => match s.peek? ctx (dva + i) with | some a => s.poisoned (burstOf a) | none => false

/-- The save area still holds the image: SHA-512 of its bytes from 128 on is the DIGEST in its header, the image's, and no burst of it is
poisoned (R79, R376). -/
def State.saveIntact (s : State) (j : Job) (v : SaveImg) : Bool :=
  decide (s.areaDigest j = v.digest) && decide (ofBytes (s.areaBytes j.ctx.val (j.saveDva + 64) 64) = v.digest.toNat) &&
    !s.areaPoisoned j.ctx.val j.saveDva j.bin.report.saveBytes

/-- RESUME_RESTORE (R79, R433): a failed check ends the job ABORTED_FAULT with BAD_SAVE. A job preempted before its base is
admitted again. -/
def execResumeRestore (jid : U64) (s : State) : Host.Outcome State Fault Refusal :=
  s.ran fun s => s.withJob jid fun j =>
    if j.phase != .resuming then s
    else match s.saves.find? fun v => v.jid == jid with
      | none => s.jobFault jid 0x18 3 30 true 0 0
      | some v =>
        let s1 : State := { s with saves := s.saves.filter fun v => v.jid != jid }
        if !s.saveIntact j v then s1.jobFault jid 0x18 3 30 true 0 0
        else if v.units.isEmpty then s1.updJob jid fun j => { j with phase := .admitted, rejoin := if j.cross then j.rejoin else 0 }
        else if j.cross then s1.rejoinAt j v
        else s1.continueAt j v

end Sys2Proof.Machine
end

