-- ==== Sys2Proof/Machine/Crc.lean ====
section
/-! DEFINITION. The two cyclic redundancy checks of the links (R84, R329). -/

namespace Sys2Proof.Machine

/-- Bits 0 to n - 1 of a number, bit 0 first. -/
def bitsUp : Nat → Nat → List Bool
  | 0, _ => []
  | n + 1, v => (v % 2 == 1) :: bitsUp n (v / 2)

/-- One bit into the CRC-16 register, polynomial 0x1021, most significant bit out. -/
def crc16Step (r : U16) (b : Bool) : U16 :=
  if r.getLsbD 15 != b then (r <<< 1) ^^^ 0x1021#16 else r <<< 1

def crc16 (r : U16) : List Bool → U16
  | [] => r
  | b :: t => crc16 (crc16Step r b) t

/-- The CRC of a timing word: initial value 0xFFFF, over bits [111:0] from bit 0 upward (R84). -/
def timingCrc (w : BitVec 128) : U16 := crc16 0xFFFF#16 (bitsUp 112 w.toNat)

/-- One bit into the CRC-32C register, which shifts toward bit 0 because bytes travel least significant bit first (R330);
0x82F63B78 is 0x1EDC6F41 read the other way. -/
def crc32Step (r : U32) (b : Bool) : U32 :=
  if r.getLsbD 0 != b then (r >>> 1) ^^^ 0x82F63B78#32 else r >>> 1

def crc32 (r : U32) : List Bool → U32
  | [] => r
  | b :: t => crc32 (crc32Step r b) t

/-- CRC-32C of a bit string: initial value and final XOR all ones (R329). -/
def crc32c (l : List Bool) : U32 := crc32 0xFFFFFFFF#32 l ^^^ 0xFFFFFFFF#32

/-- The CRC of a flit: over header bits [95:0], then body bytes 16 to 255 (R329). -/
def flitCrc (f : BitVec 2048) : U32 := crc32c (bitsUp 96 f.toNat ++ bitsUp 1920 (f.toNat / 2 ^ 128))

end Sys2Proof.Machine
end

