-- ==== Sys2Proof/Machine/Time.lean ====
section
/-! DEFINITION. Global time: roles, time states, the sources, steps of GT (R81 to R95). -/

namespace Sys2Proof.Machine

/-- Role codes (R95). -/
def TimeSt.isLocal (t : TimeSt) : Bool := t.role == 0
def TimeSt.isRoot (t : TimeSt) : Bool := t.role == 1
def TimeSt.isFollower (t : TimeSt) : Bool := t.role == 2

/-- The beat limit of HOLDOVER: values above 1,024 act as 1,024 (R95). -/
def TimeSt.holdLimit (t : TimeSt) : Nat := min t.holdBeats.toNat 1024

/-- The beat count becomes a value, the phase kept. -/
def TimeSt.setBeat (t : TimeSt) (b : Nat) : TimeSt := { t with beat := b % 2 ^ 48 }

/-- The state after a change of role (R90): `up` says that the upstream port is trained. A BEAT_SET written under ROLE LOCAL that still
waits for the guard is dropped with that role, and one pending as ROOT stays pending under FOLLOWER with a trained upstream port, where no
edge applies it; both are the model's choices (DESIGN CHOICE, log entry 21). One pending at entry to LOCAL is discarded (R82). -/
def TimeSt.changeRole (t : TimeSt) (up : Bool) : TimeSt :=
  let u := { t with silent := 0, held := 0, seen := false, agree := 0, lockDelta := none, hops := 0 }
  if t.isRoot then { u with st := .acquiring, acqAt := some (t.beat * 2250), localSet := none }
  else if t.isFollower then
    { u with
      st := if up then .acquiring else .free, acqAt := some (t.beat * 2250), localSet := none, rootId := 0, lastRoot := none
      beatSet := if up then t.beatSet else none }
  else { u with st := .free, beatSet := none, acqAt := none, rootId := 0, lastRoot := none }

/-- A written TIME_CTRL takes effect at a boundary (R90, R95). A write that keeps ROLE changes no state. -/
def TimeSt.applyCtrl (t : TimeSt) (trained : Nat → Bool) : TimeSt :=
  match t.ctrlNext with
  | none => t
  | some v =>
    let u := { t with role := BitVec.ofNat 2 (bits v 0 2), upstream := BitVec.ofNat 3 (bits v 2 3), downMask := BitVec.ofNat 6 (bits v 5 6), ctrlNext := none }
    if u.role == t.role then u else u.changeRole (trained u.upstream.toNat)

/-- A step of GT pending at a boundary is made when the guard no longer holds (R90): a BEAT_SET under LOCAL, or the
follower's step on entry to LOCKED. -/
def TimeSt.stepAtBoundary (t : TimeSt) (guard : Bool) : TimeSt :=
  match t.localSet, t.lockDelta with
  | some v, _ => if guard then t else { t.setBeat v with localSet := none }
  | none, some d =>
    if guard then t else { t.setBeat ((t.beat : Int) + d).toNat with lockDelta := none, st := .locked, silent := 0, seen := true }
  | none, none => t

/-- The beats a source was silent, and the beats in HOLDOVER (R91, R92). -/
def TimeSt.countSilence (t : TimeSt) : TimeSt :=
  match t.st with
  | .locked => { t with silent := if t.seen then 0 else t.silent + 1, seen := false }
  | .holdover => { t with held := t.held + 1, seen := false }
  | _ => { t with seen := false }

/-- The time block's part of a beat boundary: the next beat begins at phase 0000. -/
def State.timeBoundary (s : State) : State :=
  let t := s.time.setBeat (s.time.beat + 1)
  let t1 := ({ t with phase := 0 } : TimeSt).countSilence.applyCtrl fun p => (s.port p).st == 2
  s.setTime (t1.stepAtBoundary s.stepGuard)

/-- The timing logic launches a word on each port of DOWN_MASK in LOCKED or HOLDOVER; it leaves in the next slot (R83). -/
def State.launchWords (s : State) : State :=
  if s.time.st = .locked ∨ s.time.st = .holdover then
    [0, 1, 2, 3, 4, 5].foldl (fun s p => if s.time.downMask.getLsbD p then s.updPort p fun q => { q with twDue := q.st == 2 } else s) s
  else s

/-- Count a rejected timing word or an ignored edge (R85, R506). -/
def TimeSt.badWord (t : TimeSt) : TimeSt := { t with badWords := min (t.badWords + 1) 0xFFFF }

/-! ### The beat root (R82, R90, R91) -/

/-- A pending BEAT_SET is applied at an edge, unless the guard holds (R82, R90). -/
def TimeSt.applySet (t : TimeSt) (guard : Bool) : TimeSt :=
  match t.beatSet with
  | none => t
  | some v => if guard then t else { t.setBeat v with phase := 0, beatSet := none }

/-- What an accepted edge does to the time state. The edge reaches the pin in cycle `now`. The return from HOLDOVER makes no step: a
pending BEAT_SET waits for the next edge in LOCKED (R91). -/
def TimeSt.edge (t : TimeSt) (guard : Bool) (now : Nat) : TimeSt :=
  match t.st with
  | .free => { t with st := .acquiring, acqAt := some now }
  | .acquiring =>
    if t.acqAt == some now || t.beatSet.isNone || guard then t
    else { t.applySet guard with st := .locked, silent := 0, seen := true }
  | .locked => { t.applySet guard with silent := 0, seen := true }
  | .holdover => if t.held < t.holdLimit then { t with st := .locked, silent := 0, held := 0, seen := true } else t

/-- A step of GT awaits the guard of R90: what STEP_PENDING shows (R82, R90, R95). -/
def State.stepPending (s : State) : Bool :=
  let t := s.time
  s.stepGuard && (t.localSet.isSome || t.lockDelta.isSome ||
    (t.isRoot && t.beatSet.isSome && (t.st == .locked || t.st == .acquiring)))

/-! ### The follower (R84, R85, R90, R91) -/

/-- R85's checks of a word. Where no word has been accepted since the role was set there is none to compare with, and any ROOT_ID passes
(DEDUCED: the module could not leave LOCAL otherwise, log entry 21). -/
def TimeSt.accepts (t : TimeSt) (w : BitVec 128) : Bool :=
  timingCrc w == BitVec.ofNat 16 (bits w 112 16) && bits w 90 22 == 0 && decide (bits w 68 6 ≤ 47) &&
    (t.st == .acquiring || t.lastRoot.isNone || t.lastRoot == some (BitVec.ofNat 15 (bits w 74 15)))

/-- The sender's beat boundary in ps × 9 on this module's clock (a cycle is 4,000, a sixteenth 250): arrival, less the
one-way delay, less PHASE + FRAC / 16 cycles. -/
def senderBoundary (now arr16 delayPs : Nat) (w : BitVec 128) : Int :=
  (now : Int) * 4000 + arr16 * 250 - delayPs * 9 - (bits w 48 12 * 16 + bits w 60 8) * 250

/-- Its nearest own boundary, in beats. -/
def nearestBeat (t : Int) : Int := (2 * t + 9000000) / 18000000

/-- It agrees with the module's own boundary to within 1 cycle (R90). -/
def agrees (t : Int) : Bool := (t - nearestBeat t * 9000000).natAbs ≤ 4000

/-- What an accepted word does. -/
def TimeSt.word (t : TimeSt) (now arr16 delayPs : Nat) (w : BitVec 128) : TimeSt :=
  let b := senderBoundary now arr16 delayPs w
  let u := { t with hops := BitVec.ofNat 6 (bits w 68 6 + 1), rootId := BitVec.ofNat 15 (bits w 74 15), lastRoot := some (BitVec.ofNat 15 (bits w 74 15)), seen := true }
  match t.st with
  | .free => { u with st := .acquiring, acqAt := some now, agree := 0 }
  | .acquiring =>
    let n := if agrees b then t.agree + 1 else 0
    { u with agree := n, lockDelta := if 16 ≤ n then some ((bits w 0 48 : Int) - nearestBeat b) else none }
  | .locked => { u with silent := 0 }
  | .holdover => if t.held < t.holdLimit then { u with st := .locked, silent := 0, held := 0 } else u

/-- BEAT_LOST with the new state (R91, R92, R426). -/
def State.beatLost (s : State) : State :=
  s.moduleEvent 0x0E [(16, 1, s.time.st.code), (18, 2, s.time.lossCount)] Job.cross

/-- Ask for the preemption of a job for a reason (3 PREEMPT, 5 SHED); a job being parked is not saved again but completes
PREEMPTED (R430). Shedding takes an admitted job before its base too. -/
def State.askPreempt (s : State) (jid : U64) (cause : Nat) : State :=
  s.updJob jid fun j =>
    match j.phase with
    | .running => { j with phase := .stopping, cause := cause }
    | .dumping => { j with phase := .stopping, cause := cause }
    | .resuming => { j with phase := .stopping, cause := cause }
    | .stopping => if j.cause = 0 then { j with cause := cause } else j
    | .saving => if j.cause = 0 then { j with cause := cause } else j
    | .admitted => if cause = 5 then { j with phase := .stopping, cause := cause } else j
    | _ => j

def State.askPreemptAll (s : State) (cause : Nat) : List U64 → State
  | [] => s
  | k :: t => State.askPreemptAll (s.askPreempt k cause) cause t

/-! ### The commands -/

/-- A write of BEAT_SET (R95). -/
def State.writeBeatSet (s : State) (v : U64) : State :=
  let b := bits v 0 48
  if s.time.isRoot then s.setTime { s.time with beatSet := some b }
  else if s.time.isLocal then
    if s.stepGuard then s.setTime { s.time with localSet := some b } else s.setTime (s.time.setBeat b)
  else s

/-- BEAT_SET_WRITE (R82, R95). -/
def execBeatSetWrite (f : Func) (v : U64) (s : State) : Host.Outcome State Fault Refusal :=
  s.byBarOf f 28 fun s => s.privileged f fun s => s.writeBeatSet v

/-- TIME_CTRL as it reads: the last value written, whether or not the boundary that takes it has come (R8, R95). -/
def TimeSt.ctrlWord (t : TimeSt) : U64 :=
  match t.ctrlNext with
  | some v => v
  | none => pack 64 [(0, 2, t.role.toNat), (2, 3, t.upstream.toNat), (5, 6, t.downMask.toNat)]

/-- A written TIME_CTRL with its reserved values replaced by the values they leave (R10, R90). -/
def TimeSt.cleanCtrl (t : TimeSt) (v : U64) : U64 :=
  let old := t.ctrlWord
  pack 64 [(0, 2, if bits v 0 2 = 3 then bits old 0 2 else bits v 0 2), (2, 3, if 6 ≤ bits v 2 3 then bits old 2 3 else bits v 2 3), (5, 6, bits v 5 6)]

/-- A write of TIME_CTRL: held for the next boundary; ignored while a cross-module job is admitted. -/
def State.writeTimeCtrl (s : State) (v : U64) : State :=
  if s.crossAdmitted then s else s.setTime { s.time with ctrlNext := some (s.time.cleanCtrl v) }

/-- TIME_CTRL_WRITE (R95). -/
def execTimeCtrlWrite (f : Func) (v : U64) (s : State) : Host.Outcome State Fault Refusal :=
  s.byBarOf f 28 fun s => s.privileged f fun s => s.writeTimeCtrl v

/-- TIMING_WORD_RECEIVE (R85, R331): a word on the upstream port of a follower. -/
def execTimingWordReceive (p : Fin 6) (w : BitVec 128) (whole : Bool) (arr16 : Nat) (s : State) : Host.Outcome State Fault Refusal :=
  s.ran fun s =>
    if !s.time.isFollower || s.time.upstream.toNat != p.val || (s.port p.val).st != 2 then s
    else if !whole || !s.time.accepts w then s.setTime s.time.badWord
    else s.setTime (s.time.word s.gt arr16 (s.port p.val).delay w)

/-- DELAY_ECHO_RECEIVE (R86): half the round trip, in force from the next beat boundary. -/
def execDelayEchoReceive (p : Fin 6) (roundTripPs : Nat) (s : State) : Host.Outcome State Fault Refusal :=
  s.ran fun s => s.updPort p.val fun q => if q.echo then { q with echo := false, delayNext := some (roundTripPs / 2 % 2 ^ 32) } else q

/-- The eight 16-bit pieces of a control message, piece 0 first (R331). -/
def pieces (kind : BitVec 2) (w : BitVec 128) : List (BitVec 2 × U16) :=
  (List.range 8).map fun i => (kind, BitVec.ofNat 16 (bits w (16 * i) 16))

/-- A delay echo's 128 bits, which the manual does not lay out: a free value. -/
def echoWord (n : Nat) : BitVec 128 := (Config.freeWord n).setWidth 128 ||| ((Config.freeWord (n + 1)).setWidth 128 <<< 64)

/-- DELAY_REMEASURE (R86): at every 1,024th beat each UP port sends an echo. -/
def execDelayRemeasure (s : State) : Host.Outcome State Fault Refusal :=
  s.ran fun s =>
    if s.time.beat % 1024 = 0 ∧ s.time.phase = 0 then
      ([0, 1, 2, 3, 4, 5].foldl (fun (s : State) p => if (s.port p).st == 2 then
        s.updPort p fun q => { q with echo := true, ctrlTx := q.ctrlTx ++ pieces 1 (echoWord s.fresh) } else s) s).tickFresh 2
    else s

/-- HOLDOVER_ENTRY (R91). -/
def execHoldoverEntry (s : State) : Host.Outcome State Fault Refusal :=
  s.ran fun s =>
    if s.time.st = .locked ∧ 4 ≤ s.time.silent then
      (s.setTime { s.time with st := .holdover, held := 0, silent := 0, lossCount := min (s.time.lossCount + 1) 0xFFFF }).beatLost
    else s

/-- HOLDOVER_EXPIRY (R92). A timing word that the boundary launched and no slot has taken yet stays unsent: the module is in LOCAL (R83). -/
def execHoldoverExpiry (s : State) : Host.Outcome State Fault Refusal :=
  s.ran fun s =>
    if s.time.st = .holdover ∧ s.time.holdLimit ≤ s.time.held then
      let t := { s.time with st := .free, beatSet := none, lockDelta := none, agree := 0, acqAt := none, hops := 0, rootId := 0 }
      let s1 := ([0, 1, 2, 3, 4, 5].foldl (fun (s : State) p => s.updPort p fun q => { q with twDue := false }) (s.setTime t)).beatLost
      s1.askPreemptAll 3 ((s1.jobs.filter fun j => j.live && j.cross).map (·.jid))
    else s

end Sys2Proof.Machine
end

