-- ==== Sys2Proof/Machine/Nelil.lean ====
section
/-! DEFINITION. The Nelil ports: flits, credits, replay, packets, link failures (R327 to R339, R364, R365, R368, R535). -/

namespace Sys2Proof.Machine

/-! ### Packets (R335) -/

def Packet.kind (p : Packet) : Nat := bits p.hdr 0 4
def Packet.fmt (p : Packet) : Nat := bits p.hdr 4 4
def Packet.dim (p : Packet) : Nat := bits p.hdr 8 2
def Packet.dir (p : Packet) : Nat := bits p.hdr 10 1
def Packet.left (p : Packet) : Nat := bits p.hdr 11 5
def Packet.src (p : Packet) : Nat := bits p.hdr 16 15
def Packet.tag (p : Packet) : Nat := bits p.hdr 32 32
def Packet.period (p : Packet) : Nat := bits p.hdr 64 32
def Packet.bucket (p : Packet) : Nat := bits p.hdr 96 12
def Packet.nblk (p : Packet) : Nat := bits p.hdr 112 6
def Packet.hops (p : Packet) : Nat := bits p.hdr 120 5
def Packet.first (p : Packet) : Nat := bits p.hdr 128 24
def Packet.nf (p : Packet) : Bool := bit p.hdr 152
def Packet.sat (p : Packet) : Bool := bit p.hdr 153
def Packet.count (p : Packet) : Nat := bits p.hdr 160 24
def Packet.nfMin (p : Packet) : Nat := bits p.hdr 192 16

/-- Virtual channel of a packet kind (R329, R365). -/
def vcOf (kind : Nat) : Nat := if kind = 3 then 1 else if kind = 4 ∨ kind = 5 then 2 else 0

/-- The step at a module a packet reaches (R336): one hop more done, one less left. Bytes 14 and 15 of a CORK packet are COVER (R358),
so it carries no HOPS_DONE. -/
def Packet.arrive (p : Packet) : Packet :=
  let h := putField p.hdr 11 5 (p.left - 1)
  { p with hdr := if p.kind = 4 then h else putField h 120 5 (p.hops + 1) }

/-- The port of a dimension and direction, and the port opposite an arrival port (R336). -/
def portOf (dim dir : Nat) : Nat := 2 * dim + dir
def opposite (p : Nat) : Nat := if p % 2 = 0 then p + 1 else p - 1

/-- Bytes of a number's low end as one flit body. -/
def bodyOf (l : List Byte) : BitVec 1920 := BitVec.ofNat 1920 (ofBytes (l.take 240))

/-- Cut data into BODY flits of 240 bytes, the last padded with zeros. -/
def bodies (vc : BitVec 2) (pk : W256) : Nat → List Byte → List FlitBody
  | 0, _ => []
  | n + 1, l => { ftype := 2, vc := vc, last := n == 0, body := bodyOf (l.take 240), pk := pk } :: bodies vc pk n (l.drop 240)

/-- The flits of a packet (R335, R343, R344). -/
def Packet.flits (p : Packet) : List FlitBody :=
  let vc : BitVec 2 := BitVec.ofNat 2 (vcOf p.kind)
  let n := ceilDiv p.data.length 240
  { ftype := 1, vc := vc, last := n == 0, body := bodyOf (bytesOf 32 p.hdr.toNat ++ p.scales.take 64), pk := p.hdr } :: bodies vc p.hdr n p.data

/-- The packet a run of flits carries. -/
def packetOf (stamp : Nat) : List FlitBody → Option Packet
  | [] => none
  | h :: t =>
    if h.ftype != 1 then none
    else some {
      hdr := BitVec.ofNat 256 (bits h.body 0 256), scales := bytesOf 64 (bits h.body 256 512),
      data := t.flatMap fun f => bytesOf 240 f.body.toNat, stamp := stamp }

/-- Receive buffer entries of a packet. -/
def Packet.entries (p : Packet) : Nat := 1 + p.data.length / 240

/-- This module's ID (R535). -/
def State.moduleId (s : State) : Nat := bits s.torus 0 15

/-- The job the ports serve (R326). -/
def State.crossJob (s : State) : Option Job := s.jobs.find? fun j => j.live && j.cross && j.phase != .waiting

/-- Ring sizes of a binary's torus. -/
def torusSize (t : Torus) (d : Nat) : Nat := if d = 0 then t.x else if d = 1 then t.y else t.z

/-- A cross-module job's traffic uses the ports of every ring of more than one module (R324). -/
def Job.usesPort (p : Nat) (j : Job) : Bool := j.cross && decide (1 < torusSize j.bin.report.torus (p / 2))

/-! ### Sending -/

/-- Put a packet's flits in line on an UP port. -/
def State.enqueue (s : State) (p : Nat) (pk : Packet) : State :=
  s.updPort p fun q => { q with tx := modAt q.tx (vcOf pk.kind) fun l => l ++ pk.flits }

/-- The LINK_DOWN packet for an undeliverable one that has travelled some hops (R365). -/
def State.downPacket (s : State) (p hops : Nat) (h : W256) : Packet :=
  let dir := 1 - bits h 10 1
  { hdr := pack 256 [(0, 4, 5), (8, 2, bits h 8 2), (10, 1, dir), (11, 5, hops), (16, 15, s.moduleId), (32, 32, bits h 32 32),
      (64, 32, bits h 64 32), (96, 16, s.moduleId), (112, 8, p)], scales := [], data := [], stamp := s.gt }

/-- The admitted job with a packet's tag. -/
def State.taggedJob (s : State) (tag : Nat) : Option Job :=
  match s.crossJob with
  | some j => if bits j.jid 0 32 = tag then some j else none
  | none => none

/-- Hops of the Cork packets of a ring of n (R359). -/
def corkHops (n dir : Nat) : Nat := if dir = 0 then n / 2 else (n - 1) / 2

/-- Hops a packet has travelled: HOPS_DONE, or for a CORK packet of the admitted job its planned hops less those left. -/
def State.hopsDone (s : State) (h : W256) : Nat :=
  if bits h 0 4 = 4 then
    match s.taggedJob (bits h 32 32) with
    | some j => corkHops (torusSize j.bin.report.torus (bits h 8 2)) (bits h 10 1) - bits h 11 5
    | none => 0
  else bits h 120 5

/-- Note that a job's traffic met a broken link (R316, R365). -/
def State.noteDown (s : State) (jid : U64) : State := s.updJob jid fun j => { j with x := { j.x with linkDown := true } }

/-- Return LINK_DOWN to the source of a packet that cannot leave on port p; a LINK_DOWN that cannot travel is dropped. -/
def State.returnDown (s : State) (p : Nat) (h : W256) : State :=
  if bits h 0 4 = 5 then s
  else if s.hopsDone h = 0 then (match s.taggedJob (bits h 32 32) with | some j => s.noteDown j.jid | none => s)
  else
    let d := s.downPacket p (s.hopsDone h) h
    if (s.port (portOf d.dim d.dir)).st == 2 then s.enqueue (portOf d.dim d.dir) d else s

/-- Send a packet on a port, or return LINK_DOWN. -/
def State.sendPacket (s : State) (p : Nat) (pk : Packet) : State :=
  if (s.port p).st == 2 then s.enqueue p pk else s.returnDown p pk.hdr

/-- A packet of a job as its link die's trace shows it (R445): bucket, blocks and FLAGS are an exchange packet's (R335). The manual does not
say which events it records: a packet that is originated, goes on, or is delivered (DESIGN CHOICE, log entry 80). -/
def State.tracePacket (s : State) (jid : U64) (p : Nat) (k : Packet) : State :=
  let ex := k.kind == 1 || k.kind == 2
  s.traceEv (28 + p % 2) 0x08 5 jid ((28 + p % 2) * 16) 0
    ([(16, 1, k.kind), (17, 1, p)] ++ if ex then [(18, 2, k.bucket), (20, 3, k.first), (24, 3, k.count), (27, 1, bits k.hdr 152 8)] else [])

/-- A packet goes on from the port it arrived at to the opposite one, over the link bridge, which counts its flits (R22, R441). -/
def State.forward (s : State) (p : Nat) (pk : Packet) : State :=
  let s1 := (s.cntAdd (0x11000 + p % 2 * 0x20) pk.flits.length).sendPacket (opposite p) pk
  match s1.taggedJob pk.tag with | some j => s1.tracePacket j.jid (opposite p) pk | none => s1

/-- A job that replays a FULL recording without its peers: REPLAY set, no cross-module marks (R415, R464). -/
def Job.standalone (j : Job) : Bool := bit j.desc 6 && !j.cross

/-- The standalone replay that runs. -/
def State.standaloneJob (s : State) : Option Job := s.jobs.find? fun j => j.phase == .running && j.standalone

/-- Originate a packet: the Recorder writes OUTBOUND (R459); a standalone replay sends none (R464). -/
def State.originate (s : State) (jid : U64) (p : Nat) (pk : Packet) : State :=
  (if s.jobs.any (fun j => j.jid == jid && j.live && j.standalone) then s else (s.sendPacket p pk).tracePacket jid p pk).record jid 0x09 [bits pk.hdr 0 64, bits pk.hdr 64 64, bits pk.hdr 128 64, bits pk.hdr 192 64, digest8 (pk.scales ++ pk.data)] []

/-- The timing word a port launches (R83, R84): the sub-cycle position is the slot's own. -/
def State.timingWord (s : State) : BitVec 128 :=
  let t := s.time
  let w : BitVec 128 := pack 128 [(0, 48, t.beat), (48, 12, t.phase), (60, 4, bits (Config.freeWord s.fresh) 0 4), (68, 6, t.hops.toNat),
    (74, 15, if t.isFollower then t.rootId.toNat else s.moduleId), (89, 1, b2n (t.st == .holdover))]
  putField w 112 16 (timingCrc w).toNat

/-- What a port's slot carries: a replayed flit first, then CORK, HALO, EXCHANGE with a credit and room in the replay buffer (R333,
R334). -/
def NlPort.choose (q : NlPort) : Option (Nat × FlitBody × NlPort) :=
  match q.resend with
  | (n, f) :: t => some (n, f, { q with resend := t })
  | [] =>
    if 1024 ≤ q.replay.length then none
    else ([2, 1, 0].find? fun v => !(q.tx.getD v []).isEmpty && q.cred.getD v 0 != 0).bind fun v =>
      match q.tx.getD v [] with
      | f :: t => some (q.txSeq, f, { q with
          tx := setAt q.tx v t, cred := modAt q.cred v (· - 1), txSeq := (q.txSeq + 1) % 4096, replay := q.replay ++ [(q.txSeq, f)] })
      | [] => none

/-- The header and body of a flit (R329). -/
def flitWord (q : NlPort) (c : Option (Nat × FlitBody)) : BitVec 2048 :=
  let content := match c with
    | some (n, f) => [(0, 2, f.ftype.toNat), (2, 2, f.vc.toNat), (4, 1, b2n f.last), (8, 12, n), (128, 1920, f.body.toNat)]
    | none => []
  let ctrl := match q.ctrlTx with
    | (k, v) :: _ => [(40, 16, v.toNat), (56, 3, (8 - q.ctrlTx.length % 8) % 8), (59, 1, 1), (60, 2, k.toNat)]
    | [] => []
  let w : BitVec 2048 := pack 2048 (content ++ ctrl ++ [(20, 12, (q.rxNext + 4095) % 4096), (32, 1, b2n (q.ack && !q.nak)), (33, 1, b2n q.nak),
    (34, 2, min 3 (q.freed.getD 0 0)), (36, 2, min 3 (q.freed.getD 1 0)), (38, 2, min 3 (q.freed.getD 2 0))])
  putField w 96 32 (flitCrc w).toNat

/-- FLIT_SLOT (R328, R331, R333): the port sends one flit; answers and freed entries of the slot go with it. -/
def execFlitSlot (p : Fin 6) (s : State) : Host.Outcome State Fault Refusal :=
  s.ran fun s =>
    let q0 := s.port p.val
    if q0.st != 2 then s
    else
      let q1 := if q0.twDue then
        { q0 with twDue := false, ctrlTx := pieces 0 s.timingWord ++ q0.ctrlTx.drop (q0.ctrlTx.length % 8) } else q0
      let c := q1.choose
      let q2 := match c with | some r => r.2.2 | none => q1
      let w := flitWord q2 (c.map fun r => (r.1, r.2.1))
      let q3 := { q2 with
                  ctrlTx := q2.ctrlTx.tail, ack := false, nak := false, freed := q2.freed.map (· - 3), silentSlots := q2.silentSlots + 1, lastTx := w }
      let s1 := (s.setPort p.val q3).tickFresh 1
      let s2 := if c.isSome then s1.cntAdd (cntNelil p.val 0) 1 else s1
      if q2.nak then s2.cntAdd (cntNelil p.val 3) 1 else s2

/-! ### Failures (R364, R365) -/

/-- A port that is gone: a partial packet and what waited to leave are lost (R338, R365); packets that have arrived whole, one the adder
holds among them, the set-up and what the registers show stay. -/
def NlPort.down (q : NlPort) (cause : Nat) : NlPort :=
  { NlPort.reset with
    en := q.en, cable := q.cable, cause := BitVec.ofNat 3 cause, polarity := q.polarity, delay := q.delay, delayNext := q.delayNext, lastTx := q.lastTx,
    pkts := q.pkts, held := q.held, since := q.since, st := if q.en && q.cable then 1 else 0 }

/-- Headers of the packets with flits unacknowledged or unsent on a port. -/
def NlPort.lost (q : NlPort) : List W256 := ((q.replay.map fun e => e.2.pk) ++ (q.tx.flatMap fun l => l.map (·.pk))).eraseDups

/-- A port goes DOWN for a cause (R426): the event, LINK_DOWN for what it held, its own job's traffic broken. A port that stays
enabled with its cable trains again. -/
def State.portDown (s : State) (p cause : Nat) : State :=
  let q := s.port p
  if q.st == 0 then s
  else
    let s1 := ((s.setPort p (q.down cause)).cntAdd (cntNelil p 5) 1).linkDownEvent 0 p cause (Job.usesPort p)
    let s2 := q.lost.foldl (fun s h => s.returnDown p h) s1
    match s2.crossJob with
    | some j => if j.usesPort p then s2.noteDown j.jid else s2
    | none => s2

/-- LANE_LOCK_LOSS (R364). -/
def execLaneLockLoss (p : Fin 6) (s : State) : Host.Outcome State Fault Refusal := s.ran fun s => s.portDown p.val 0

/-- NO_HEADER_TIMEOUT (R364): 64 slots without a header of valid CRC. -/
def execNoHeaderTimeout (p : Fin 6) (s : State) : Host.Outcome State Fault Refusal :=
  s.ran fun s => if (s.port p.val).st == 2 && decide (64 ≤ (s.port p.val).silentSlots) then s.portDown p.val 2 else s

/-- PORT_TRAINED (R86, R327, R503): all lanes locked, the delay measured, credits fresh; entries of packets that arrived before return no
credit. -/
def execPortTrained (p : Fin 6) (roundTripPs : Nat) (polarity : Byte) (s : State) : Host.Outcome State Fault Refusal :=
  s.ran fun s =>
    let q := s.port p.val
    if q.st != 1 then s
    else
      s.setPort p.val { NlPort.reset with
                        en := q.en, cable := q.cable, cause := q.cause, polarity := polarity, delay := roundTripPs / 2 % 2 ^ 32, lastTx := q.lastTx,
                        pkts := q.pkts, held := q.held, since := s.gt, st := 2 }

/-- NL_CTRL.EN set: training starts when the cable is there (R535). -/
def State.nlEnable (s : State) (p : Nat) : State := s.updPort p fun q => { q with en := true, st := if q.st == 0 && q.cable then 1 else q.st }

/-- NL_CTRL.EN cleared: DOWN with cause DISABLED at once (R537). -/
def State.nlDisable (s : State) (p : Nat) : State := (s.updPort p fun q => { q with en := false }).portDown p 3

/-- NL_CTRL.RETRAIN: only a port with EN = 1 (R537). Of the causes of R426 a software restart is DISABLED. -/
def State.nlRetrain (s : State) (p : Nat) : State := if (s.port p).en then s.portDown p 3 else s

/-- The link die of a port (R519). -/
def linkDie (p : Nat) : Nat := 28 + p % 2

/-- NL_ENABLE (R535). -/
def execNlEnable (f : Func) (p : Fin 6) (s : State) : Host.Outcome State Fault Refusal :=
  s.byBarOf f (linkDie p.val) fun s => s.privileged f fun s => s.nlEnable p.val

/-- NL_DISABLE (R537). -/
def execNlDisable (f : Func) (p : Fin 6) (s : State) : Host.Outcome State Fault Refusal :=
  s.byBarOf f (linkDie p.val) fun s => s.privileged f fun s => s.nlDisable p.val

/-- RETRAIN (R535, R537). -/
def execRetrain (f : Func) (p : Fin 6) (s : State) : Host.Outcome State Fault Refusal :=
  s.byBarOf f (linkDie p.val) fun s => s.privileged f fun s => s.nlRetrain p.val

/-- CBL_PRES (R502, R537): the cable comes or goes; a port that loses it loses its lanes. -/
def execCblPres (p : Fin 6) (low : Bool) (s : State) : Host.Outcome State Fault Refusal :=
  s.ran fun s =>
    if low then s.updPort p.val fun q => { q with cable := true, st := if q.st == 0 && q.en then 1 else q.st }
    else (s.updPort p.val fun q => { q with cable := false }).portDown p.val 0

/-- NL_TORUS with VALID (R536). -/
def torusValid (v : U64) : Bool :=
  [0, 1, 2].all fun d =>
    let o := bits v (40 - 5 * d) 5
    let n := bits v (15 + 5 * d) 5 + 1
    let c := bits v (10 - 5 * d) 5
    decide (o + n ≤ 32) && decide (o ≤ c) && decide (c < o + n)

def torusWord (v : U64) : U64 := putField (v &&& 0x1FFFFFFFFFFF#64) 45 1 (b2n (torusValid v))

/-- A write of NL_TORUS: ignored while a cross-module job is live (R536). -/
def State.writeTorus (s : State) (v : U64) : State := if s.jobs.any fun j => j.live && j.cross then s else { s with torus := torusWord v }

/-- NL_TORUS_WRITE (R535, R536): one register, through any block. -/
def execNlTorusWrite (f : Func) (p : Fin 6) (v : U64) (s : State) : Host.Outcome State Fault Refusal :=
  s.byBarOf f (linkDie p.val) fun s => s.privileged f fun s => s.writeTorus v

/-! ### Receiving (R332 to R334) -/

/-- Sequence number a is at or before b, modulo 4,096. -/
def seqLe (a b : Nat) : Bool := decide ((b + 4096 - a) % 4096 < 2048)

/-- One control piece: pieces of a message come in consecutive slots (R331). Where a message breaks off, or begins at its second piece,
it is lost. -/
def ctrlPiece (l : List (BitVec 2 × U16)) (w : BitVec 2048) : List (BitVec 2 × U16) × Bool :=
  let k : BitVec 2 := BitVec.ofNat 2 (bits w 60 2)
  let e : BitVec 2 × U16 := (k, BitVec.ofNat 16 (bits w 40 16))
  if !bit w 59 then ([], !l.isEmpty)
  else if bits w 56 3 = l.length ∧ l.all (fun x => x.1 == k) then (l ++ [e], false)
  else if bits w 56 3 = 0 then ([e], !l.isEmpty)
  else ([], !l.isEmpty || bits w 56 3 == 1)

/-- A control message that is lost counts as a rejected word (R85, R331). -/
def State.lostPieces (s : State) (lost : Bool) : State := if lost then s.setTime s.time.badWord else s

/-- A whole echo of the partner is sent back; the port's own, while it waits for one, is DELAY_ECHO_RECEIVE's. -/
def NlPort.ctrl (q : NlPort) (w : BitVec 2048) : NlPort :=
  let l := (ctrlPiece q.ctrlRx w).1
  if l.length < 8 then { q with ctrlRx := l }
  else if l.all (fun e => e.1 == 1) && !q.echo then { q with ctrlRx := [], ctrlTx := q.ctrlTx ++ l }
  else { q with ctrlRx := [] }

/-- Acknowledgements, NAKs and credits of a valid header. -/
def NlPort.answers (q : NlPort) (w : BitVec 2048) : NlPort :=
  let ack := bits w 20 12
  let q1 := { q with cred := [q.cred.getD 0 0 + bits w 34 2, q.cred.getD 1 0 + bits w 36 2, q.cred.getD 2 0 + bits w 38 2], silentSlots := 0 }
  let q2 := if bit w 32 || bit w 33 then
    { q1 with replay := q1.replay.filter fun e => !seqLe e.1 ack, resend := q1.resend.filter fun e => !seqLe e.1 ack } else q1
  if bit w 33 then
    let from_ := (ack + 1) % 4096
    { q2 with nakIn := true, nakFrom := from_, nakRun := if q2.nakSeq = from_ ∧ q2.nakRun ≠ 0 then q2.nakRun + 1 else 1, nakSeq := from_ }
  else if bit w 32 ∧ seqLe q2.nakSeq ack then { q2 with nakRun := 0 } else q2

/-- Take a HEAD or BODY flit in order: a whole packet is stamped with the cycle of its last byte (R338); one of a kind the manual
reserves is dropped. -/
def NlPort.accept (q : NlPort) (f : FlitBody) (now : Nat) : NlPort :=
  let v := f.vc.toNat
  let q1 := { q with rxNext := (q.rxNext + 1) % 4096, rxGap := false, ack := true }
  let run : List FlitBody := (if f.ftype == 1 then [] else q.part.getD v []) ++ [f]
  if !f.last then { q1 with part := setAt q1.part v run }
  else
    let q2 := { q1 with part := setAt q1.part v [] }
    match packetOf now run with
    | some k => if 1 ≤ k.kind ∧ k.kind ≤ 5 then { q2 with pkts := q2.pkts ++ [k] } else { q2 with freed := modAt q2.freed v (· + run.length) }
    | none => { q2 with freed := modAt q2.freed v (· + run.length) }

/-- FLIT_RECEIVE (R329, R332, R334). -/
def execFlitReceive (p : Fin 6) (flit : BitVec 2048) (s : State) : Host.Outcome State Fault Refusal :=
  s.ran fun s =>
    let q := s.port p.val
    if q.st != 2 then s
    else if flitCrc flit != BitVec.ofNat 32 (bits flit 96 32) then
      ((s.setPort p.val { q with nak := true, rxGap := true, ctrlRx := [] }).cntAdd (cntNelil p.val 2) 1).lostPieces (!q.ctrlRx.isEmpty)
    else
      let q1 := (q.answers flit).ctrl flit
      let ty := bits flit 0 2
      let s1 :=
        if ty = 0 then s.setPort p.val { q1 with ack := true }
        else if ty = 3 ∨ bits flit 2 2 = 3 then s.setPort p.val { q1 with ack := true }
        else
          let seq := bits flit 8 12
          let f : FlitBody := { ftype := BitVec.ofNat 2 ty, vc := BitVec.ofNat 2 (bits flit 2 2), last := bit flit 4, body := BitVec.ofNat 1920 (bits flit 128 1920), pk := 0 }
          let q2 :=
            if seq = q1.rxNext then q1.accept f s.gt
            else if seqLe seq q1.rxNext then { q1 with ack := true }
            else if q1.rxGap then q1 else { q1 with nak := true, rxGap := true }
          (s.setPort p.val q2).cntAdd (cntNelil p.val 1) 1
      let s2 := s1.lostPieces (ctrlPiece q.ctrlRx flit).2
      if 8 ≤ q1.nakRun then s2.portDown p.val 1 else s2

/-- NAK_REPLAY (R334): the replay buffer is sent again from ACK + 1. -/
def execNakReplay (p : Fin 6) (s : State) : Host.Outcome State Fault Refusal :=
  s.ran fun s =>
    let q := s.port p.val
    if q.st != 2 || !q.nakIn then s
    else (s.setPort p.val { q with nakIn := false, resend := q.replay.filter fun e => seqLe q.nakFrom e.1 }).cntAdd (cntNelil p.val 4) 1

end Sys2Proof.Machine
end

