-- ==== Sys2Proof/Machine/Bucket.lean ====
section
/-! DEFINITION. The tables of a training binary, layers, the gradient space, buckets and their scales (R289 to R299, R307, R323,
R324, R340 to R345, R351, R357, R362). -/

namespace Sys2Proof.Machine

/-! ### Update header, layers, groups (R289, R290, R299) -/

def updLayers (h : BitVec 512) : Nat := bits h 0 13
def updPolicy (h : BitVec 512) : Nat := bits h 24 2
def updQuietLimit (h : BitVec 512) : Nat := bits h 32 16
def updQuietFrac (h : BitVec 512) : Nat := bits h 48 16
def updLabel (h : BitVec 512) (bankB : Bool) : Nat := if bankB then bits h 192 57 else bits h 128 57

def layGroup (e : BitVec 256) : Nat := bits e 0 8
def layGfmt (e : BitVec 256) : Nat := bits e 8 8
def layUp (e : BitVec 256) : Nat := bits e 16 13
def layW (e : BitVec 256) : Nat := bits e 32 16
def layMaster (e : BitVec 256) : Nat := bits e 48 16
def layM (e : BitVec 256) : Nat := bits e 64 16
def layV (e : BitVec 256) : Nat := bits e 80 16
def layC (e : BitVec 256) : Nat := bits e 96 16
def layRg (e : BitVec 256) : Nat := bits e 112 16
def layCarry0 (e : BitVec 256) : Int := signed 16 (bits e 128 16)

def grpRule (g : BitVec 512) : Nat := bits g 0 2
def grpCompact (g : BitVec 512) : Bool := bit g 2
def grpM1 (g : BitVec 512) : Bool := bit g 3
def grpLr (g : BitVec 512) : Nat := bits g 32 32
def grpLrPtr (g : BitVec 512) : Nat := bits g 64 57
def grpWd (g : BitVec 512) : Nat := bits g 128 32
def grpBeta1 (g : BitVec 512) : Nat := bits g 160 32
def grpBeta2 (g : BitVec 512) : Nat := bits g 192 32
def grpEps (g : BitVec 512) : Nat := bits g 224 32
def grpClip (g : BitVec 512) : Nat := bits g 256 32
def grpTrustMax (g : BitVec 512) : Nat := bits g 288 32

/-- emax_f of a layer's gradient format (R293). -/
def gradEmax (e : BitVec 256) : Int := if layGfmt e = 0x11 then 15 else 127

/-- The layer table of a binary. -/
def Job.layerTab (j : Job) : List (BitVec 256) := match j.bin.update with | some u => u.layers | none => []
def Job.header (j : Job) : BitVec 512 := match j.bin.update with | some u => u.header | none => 0
def Job.group (j : Job) (e : BitVec 256) : BitVec 512 := match j.bin.update with | some u => u.groups.getD (layGroup e) 0 | none => 0

/-! ### Layer tensors -/

/-- A command with nothing bound: no command binds an extent of a tensor that only the exchange and halo tables name (log entry 77). -/
def bareCmd : Cmd :=
  { tag := 0, bounds := [], maxb := [], ins := [], outs := [], markFwd := 0, gates := [], waits := [], claim := 0, bank := .none, tdMaxb := [],
    envelope := [], writes := [], stage := 0, namesSet := false, body := .upe }

/-- A tensor of the tables in a bank. -/
def bankView (b : Binary) (bankB : Bool) (td : Nat) : Option View :=
  if td = 0xFFFF then none else viewOf b bareCmd { UnitSt.reset with bankB := bankB } td

/-- Extents in stored elements (R247). -/
def View.storedExt (v : View) : List Nat :=
  match kindNm (tdKind v.td) with
  | some (m, slots, _, _) => setAt v.ext 0 (v.extent 0 / m * slots)
  | none => v.ext

/-- Stored elements of a tensor, rows of it, stored elements of a row. -/
def View.storedCount (v : View) : Nat := v.storedExt.foldl (· * ·) 1
def View.rowCount (v : View) : Nat := v.ext.tail.foldl (· * ·) 1
def View.rowLen (v : View) : Nat := v.storedExt.getD 0 1

/-- Stored element n of a tensor. -/
def State.nthElem (s : State) (w : Who) (v : View) (n : Nat) : Acc Rd := s.readStored w v (linIdx v.storedExt n)
def View.nthStores (v : View) (n raw : Nat) : MStores := (v.elemStores (linIdx v.storedExt n) raw).1
def View.nthClamps (v : View) (n : Nat) : Nat := (v.elemStores (linIdx v.storedExt n) 0).2.2

/-- Stored elements of layer l, which its blocks hold (R340). -/
def Job.layerStored (j : Job) (l : Nat) : Nat :=
  match j.layerTab[l]? with
  | some e => (match bankView j.bin false (layW e) with | some v => v.storedCount | none => 0)
  | none => 0

/-- The layer of a block of the gradient space, and the block's number in it. -/
def Job.layerOf (j : Job) (blk : Nat) : Nat × Nat :=
  match j.bin.exch with
  | none => (0, blk)
  | some x =>
    let l := (x.layerBlock.filter fun b => decide (b ≤ blk)).length - 1
    (l, blk - x.layerBlock.getD l 0)

/-! ### Rings (R323, R324) -/

/-- A coordinate of a module ID. -/
def coordOf (mid d : Nat) : Nat := mid / 2 ^ (10 - 5 * d) % 32

/-- Ring position of this module along a dimension. -/
def State.ringPos (s : State) (j : Job) (d : Nat) : Nat := coordOf s.moduleId d - coordOf j.bin.report.torus.origin.toNat d

/-- Dimensions of more than one module, in order. -/
def Job.dims (j : Job) : List Nat := [0, 1, 2].filter fun d => decide (1 < torusSize j.bin.report.torus d)

/-- Modules of the system. -/
def Job.modules (j : Job) : Nat := max 1 (j.bin.report.torus.x * j.bin.report.torus.y * j.bin.report.torus.z)

/-- Data-parallel rank of this module (R136). -/
def State.rank (s : State) (j : Job) : Nat := ((j.bin.report.torus.ranks.find? fun r => r.1.toNat == s.moduleId).map (·.2)).getD 0

/-! ### Buckets (R341) -/

/-- A bucket as the exchange sees it: ID, headroom, blocks, tensors. The norm vector is bucket 4,095 (R362). -/
structure BSpec where
  id : Nat
  mode : Nat
  grow : Nat
  first : Nat
  num : Nat
  src : Nat
  stage : Nat
  carryTd : Nat
  norm : Bool
deriving DecidableEq, Repr

def bucketSpec (b : BitVec 256) : BSpec :=
  { id := bits b 0 12, mode := bits b 16 2, grow := bits b 18 4, first := bits b 32 30, num := bits b 64 19, src := bits b 96 16,
    stage := bits b 112 16, carryTd := bits b 128 16, norm := false }

/-- STRAGGLER_POLICY: 0 REPEAT, 1 CARRY, 2 DROP. -/
def Job.policy (j : Job) : Nat := match j.bin.exch with | some x => bits x.header 16 2 | none => 0

/-- The bucket of an ID. -/
def Job.spec? (j : Job) (id : Nat) : Option BSpec :=
  match j.bin.exch with
  | none => none
  | some x =>
    if id = 4095 then
      some { id := 4095, mode := 1, grow := 0, first := 0, num := ceilDiv (120 * j.layerTab.length) 256, src := 0xFFFF, stage := bits x.header 48 16,
             carryTd := 0xFFFF, norm := true }
    else (x.buckets[id]?).map bucketSpec

/-- The state of a bucket. -/
def Job.bucket (j : Job) (id : Nat) : BucketSt := if id = 4095 then j.x.norm else j.x.buckets.getD id .fresh

def Job.setBucket (j : Job) (id : Nat) (f : BucketSt → BucketSt) : Job :=
  if id = 4095 then { j with x := { j.x with norm := f j.x.norm } } else { j with x := { j.x with buckets := modAt j.x.buckets id f } }

/-- A bucket runs in GXI: MODE GXI, or AUTO once it switched (R352). -/
def Job.isGxi (j : Job) (b : BSpec) : Bool := b.mode == 1 || (b.mode == 2 && (j.bucket b.id).gxi)

/-- Some blocks of a bucket are covered by parts that satisfy a test. -/
def covered (ps : List Part) (first n : Nat) : Bool :=
  (List.range n).all fun i => ps.any fun p => decide (p.first ≤ first + i) && decide (first + i < p.first + p.n)

/-- Parts that overlap a range. -/
def overlapping (ps : List Part) (first n : Nat) : List Part := ps.filter fun p => decide (p.first < first + n) && decide (first < p.first + p.n)

/-- The header that a range of parts carries together (R351). -/
structure Hdr where
  count : Nat
  nf : Bool
  sat : Bool
  nfMin : Nat
deriving DecidableEq, Repr

def headerOf (ps : List Part) : Hdr :=
  { count := match ps with | p :: _ => p.count | [] => 0, nf := ps.any (·.nf), sat := ps.any (·.sat), nfMin := ps.foldl (fun m p => min m p.nfMin) 0xFFFF }

/-- Parts of the final phase: the all-gather over the first dimension (R345, R357). -/
def Job.finalParts (j : Job) (id : Nat) : List Part :=
  match j.dims with
  | d :: _ => (j.bucket id).parts.filter fun p => p.spread && p.dim == d
  | [] => []

/-- Every packet of the final phase has arrived. -/
def Job.delivered (j : Job) (b : BSpec) : Bool := decide (b.num ≤ ((j.finalParts b.id).map (·.n)).foldl (· + ·) 0)

/-- The bucket header (R351), where any packet was delivered. -/
def Job.bucketHeader (j : Job) (id : Nat) : Option Hdr := match j.finalParts id with | [] => none | ps => some (headerOf ps)

/-- IDs of the gradient buckets. -/
def Job.bucketIds (j : Job) : List Nat := match j.bin.exch with | some x => List.range x.buckets.length | none => []

/-- Every bucket and the norm vector are delivered (R357). A job without a ring has nothing to deliver. -/
def Job.allDelivered (j : Job) : Bool :=
  j.dims.isEmpty || ((j.bucketIds ++ [4095]).all fun i => match j.spec? i with | some b => j.delivered b | none => true)

/-! ### Scales (R342) -/

def clampInt (lo hi v : Int) : Int := max lo (min hi v)

/-- k of a layer's blocks in a bucket. -/
def Job.scaleK (j : Job) (b : BSpec) (l : Nat) : Int :=
  if b.norm then 0
  else
    let e := j.layerTab.getD l 0
    let st := j.layers[l]?
    let exp : Int := match st with
      | some s => (match s.sysEmax with | some m => m + s.c - s.cPrev | none => gradEmax e - 2)
      | none => gradEmax e - 2
    if j.isGxi b then clampInt (-96) 96 (exp + 1 - 16) else clampInt (-96) 96 (exp + 1 + b.grow - 8)

/-- Contributors n_b of the bucket that holds stored element n of layer l (R294). A bucket that was not delivered has no header: a
free value. A job without an exchange has its own contribution alone. -/
def Job.contributors (j : Job) (fresh l n : Nat) : Nat :=
  match j.bin.exch with
  | none => 1
  | some x =>
    if j.dims.isEmpty then 1
    else
      let blk := x.layerBlock.getD l 0 + n / 256
      match (x.buckets.map bucketSpec).find? fun b => decide (b.first ≤ blk) && decide (blk < b.first + b.num) with
      | none => (Config.freeWord fresh).toNat
      | some b => match j.bucketHeader b.id with
        | some h => h.count
        | none => (Config.freeWord fresh).toNat

end Sys2Proof.Machine
end

