-- ==== Sys2Proof/Machine/Train.lean ====
section
/-! DEFINITION. The two update passes, the norm vector, bank labels, queries (R294 to R312, R319, R321). -/

namespace Sys2Proof.Machine

/-! ### FP32 arithmetic with flags (R301) -/

abbrev FW := Nat × U16

def fw (n : Nat) : FW := (n, 0)
def fAdd (a b : FW) : FW := let r := fpOp fp32 .rne Val.add a.1 b.1; (r.1, a.2 ||| b.2 ||| r.2)
def fSub (a b : FW) : FW := let r := fpOp fp32 .rne Val.sub a.1 b.1; (r.1, a.2 ||| b.2 ||| r.2)
def fMul (a b : FW) : FW := let r := fpOp fp32 .rne Val.mul a.1 b.1; (r.1, a.2 ||| b.2 ||| r.2)
def fDiv (a b : FW) : FW := let r := fpOp fp32 .rne Val.div a.1 b.1; (r.1, a.2 ||| b.2 ||| r.2)
def fFma (a b c : FW) : FW := let r := fpFma fp32 .rne a.1 b.1 c.1; (r.1, a.2 ||| b.2 ||| c.2 ||| r.2)
def fNeg (a : FW) : FW := (if a.1 < 2 ^ 31 then a.1 + 2 ^ 31 else a.1 - 2 ^ 31, a.2)

/-- A value rounded to FP32. -/
def fOf (v : Val × U16) : FW := let r := fp32.convert .rne false v.1; (r.1, v.2 ||| r.2)

def fSqrt (a : FW) : FW := let r := fOf (fp32.decode a.1).sqrt; (r.1, a.2 ||| r.2)

/-- An FP32 value divided by a count. -/
def fDivNat (a : FW) (n : Nat) : FW := let r := fOf ((fp32.decode a.1).div (ofInt n)); (r.1, a.2 ||| r.2)

def fIsZero (a : Nat) : Bool := (fp32.decode a).isZero

/-- pow(b, t) by binary exponentiation from the least significant bit of t; `n` bounds the bits. -/
def fPow : Nat → FW → FW → Nat → FW
  | 0, _, acc, _ => acc
  | n + 1, b, acc, t =>
    if t = 0 then acc
    else
      let acc1 := if t % 2 = 1 then fMul acc b else acc
      if t / 2 = 0 then acc1 else fPow n (fMul b b) acc1 (t / 2)

/-! ### Bank labels (R297) -/

/-- A label's 64 bytes. -/
def labelBytes (gstep : Nat) (st : Nat) (jid : U64) (commitGt : Nat) (sstep : Nat) : List Byte :=
  bytesOf 64 (pack 512 [(0, 64, gstep), (64, 2, st), (128, 64, jid.toNat), (192, 64, commitGt), (256, 64, sstep)] : BitVec 512).toNat

def State.storeLabel (s : State) (w : Who) (j : Job) (bankB : Bool) (b : List Byte) : Acc State := s.store w (updLabel j.header bankB) b

/-! ### What one layer's update needs -/

structure Lay where
  l : Nat
  ent : BitVec 256
  grp : BitVec 512
  w : View
  rg : View
  master : Option View
  m : Option View
  v : Option View
  c : Option View
  c_ : Int
  t : Nat
  zeroNf : Bool
  tr : Nat
  clip : Nat
  lr : Nat
deriving DecidableEq, Repr

/-- A tensor of the layer table in a bank as an update engine sees it: an extent is the one bound for the command it runs (R152). -/
def State.upeView (s : State) (x : Nat) (b : Binary) (bankB : Bool) (td : Nat) : Option View :=
  if td = 0xFFFF then none else viewOf b ((s.unit x).cmd?.getD bareCmd) { s.unit x with bankB := bankB } td

/-- The layer's tensors in a bank, and its constants, as update engine x has them. -/
def State.layOf (s : State) (x : Nat) (j : Job) (bankB : Bool) (l : Nat) : Option Lay :=
  match j.layerTab[l]?, j.layers[l]? with
  | some e, some st =>
    let g := j.group e
    match s.upeView x j.bin bankB (layW e), s.upeView x j.bin false (layRg e) with
    | some w, some rg => some {
        l := l, ent := e, grp := g, w := w, rg := rg, master := if grpCompact g then none else s.upeView x j.bin bankB (layMaster e),
        m := s.upeView x j.bin bankB (layM e), v := s.upeView x j.bin bankB (layV e), c := s.upeView x j.bin bankB (layC e), c_ := st.c,
        t := j.gstep.toNat + 1, zeroNf := updPolicy j.header == 1, tr := st.tr.toNat, clip := (j.clips.getD (layGroup e) 0x3F800000).toNat,
        lr := (((assoc j.lrs x).getD []).getD (layGroup e) 0).toNat }
    | _, _ => none
  | _, _ => none

def Lay.factored (k : Lay) : Bool := decide (2 ≤ grpRule k.grp)

/-- Kept slots of a row as (stored column, logical column): every column of a dense layer (R252, R307). -/
def State.rowSlots (s : State) (w : Who) (v : View) (row : Nat) : Acc (List (Nat × Nat)) :=
  match kindNm (tdKind v.td) with
  | none => .ok ((List.range (v.extent 0)).map fun c => (c, c))
  | some (m, slots, kept, ebits) =>
    let at_ (g : Nat) : List Int := ((g * m : Nat) : Int) :: linIdx v.ext.tail row
    (accAll (fun g => (s.nmGroup w v m slots ebits (at_ g)).map fun r => match r.1 with
      | some ps => (List.range kept).map fun i => (g * slots + i, g * m + ps.getD i 0)
      | none => []) (List.range (v.extent 0 / m))).map fun gs => gs.flatten

/-- FP32 image of stored element n of a tensor that may be absent, with the flags of its access and of its widening. -/
def State.fpElem (s : State) (w : Who) (v : Option View) (n : Nat) : Acc FW :=
  match v with
  | some v => (s.nthElem w v n).map (widen v.fmt)
  | none => .ok (fw 0)

/-- The weight as the update takes it (R296, R306). -/
def State.weight (s : State) (w : Who) (k : Lay) (n : Nat) : Acc FW :=
  match k.master with
  | some v => s.fpElem w (some v) n
  | none => s.fpElem w (some k.w) n

/-- f_b (R294). -/
def factorOf (c : Int) (n : Nat) : FW := fOf ((Val.fin false 1 (-c)).div (ofInt n))

/-- The reduced gradient as FP32, +0 where ZERO_NF takes it so, and whether it did. -/
def takeGrad (k : Lay) (rg : FW) : FW × Bool :=
  if k.zeroNf && !(fp32.decode rg.1).finite then ((0, rg.2), true) else (rg, false)

/-- g of R302. -/
def gradOf (k : Lay) (rg : FW) (nb : Nat) : FW := fMul rg (factorOf k.c_ nb)

/-- vh of R304. -/
def vhOf (rbar rr cc : FW) : FW := if fIsZero rbar.1 then (0, rbar.2) else fDiv (fMul rr cc) rbar

/-! ### PASS1_NORM (R308) -/

/-- The integer image of an exact sum; one with a NaN or an infinity has none, and the limbs are free. -/
def sumImage (fresh : Nat) (e : Exact) : Nat := if e.nan || e.pinf || e.ninf then (Config.freeWord fresh).toNat else e.i.toNat

/-- The exact sums over one element. -/
structure Norms where
  g : Exact
  w : Exact
  d : Exact
deriving DecidableEq, Repr

def Norms.empty : Norms := { g := .empty, w := .empty, d := .empty }

def Exact.addSquare (e : Exact) (v : Nat) : Exact := e.add ((fp32.decode v).mul (fp32.decode v)).1

/-- One kept element of the slice. -/
def State.normElem (s : State) (w : Who) (j : Job) (k : Lay) (row col : Nat) (n : Nat) (a : Norms) : Acc (Norms × U16) :=
  (s.fpElem w (some k.rg) n).bind fun rg0 => (s.weight w k n).bind fun wt =>
    let g := gradOf k (takeGrad k rg0).1 (j.contributors s.fresh k.l n)
    if grpRule k.grp != 3 then .ok ({ a with g := a.g.addSquare g.1 }, g.2)
    else
      (s.fpElem w k.v row).bind fun rr => (s.fpElem w k.c col).bind fun cc => (s.fpElem w k.v k.w.rowCount).map fun rbar =>
        let d : FW := if k.t = 1 then fw 0 else fDiv g (fAdd (fSqrt (vhOf rbar rr cc)) (fw (grpEps k.grp)))
        ({ g := a.g.addSquare g.1, w := a.w.addSquare wt.1, d := a.d.addSquare d.1 }, d.2 ||| g.2 ||| wt.2 ||| rr.2 ||| cc.2 ||| rbar.2)

/-- All kept elements of a layer in stored order: (row, logical column, stored number). -/
def State.keptElems (s : State) (w : Who) (k : Lay) : Acc (List (Nat × Nat × Nat)) :=
  (accAll (fun r => (s.rowSlots w k.w r).map fun cs => cs.map fun c => (r, c.2, r * k.w.rowLen + c.1)) (List.range k.w.rowCount)).map fun l => l.flatten

/-- Fold over elements with accesses. -/
def normFold (f : Nat × Nat × Nat → Norms → Acc (Norms × U16)) : List (Nat × Nat × Nat) → Norms → U16 → Acc (Norms × U16)
  | [], a, fl => .ok (a, fl)
  | e :: t, a, fl => (f e a).bind fun r => normFold f t r.1 (fl ||| r.2)

/-- Sums of this module's slice of a layer. -/
def State.layerNorms (s : State) (w : Who) (j : Job) (l : Nat) : Acc (LayerSt × U16) :=
  match s.layOf w.unit j j.active l, j.layers[l]? with
  | some k, some st =>
    (s.keptElems w k).bind fun es =>
      let n := j.modules
      let r := s.rank j
      let slice := (es.take ((r + 1) * es.length / n)).drop (r * es.length / n)
      (normFold (fun e a => s.normElem w j k e.1 e.2.1 e.2.2 a) slice .empty 0).map fun a =>
        ({ st with ng := sumImage s.fresh a.1.g, nw := sumImage (s.fresh + 1) a.1.w, nd := sumImage (s.fresh + 2) a.1.d }, a.2)
  | _, some st => .ok (st, 0)
  | _, none => .ok ({ c := 0, cPrev := 0, emax := none, sysEmax := none, gzero := 0, lost := 0, flushed := 0, nfZeroed := 0, quiet := false, quietRun := 0,
                      ng := 0, nw := 0, nd := 0, tr := 0, done := true }, 0)

/-- A mark of a role of the current period has taken effect. -/
def State.passed (s : State) (j : Job) (r : MarkRole) : Bool := !(s.marks.any fun m => m.jid == j.jid && m.decl.role == r && m.period == j.period)

/-- UPE units of a job. -/
def State.upes (s : State) (jid : U64) : List Nat := (s.unitsOf jid).filter fun x => x % 16 == 11

/-- A job whose update passes may run: its UPEs answer and the period calls for them (R318). -/
def State.mayUpdate (s : State) (j : Job) : Bool :=
  j.phase == .running && j.bin.update.isSome && j.outcome == .none && !j.x.skip && !(s.upes j.jid).isEmpty &&
    (s.upes j.jid).all fun x => s.dieAnswers (x / 16) && !(s.unit x).stopped

/-- The update engine that takes the sums of the norm vector: the job's first (log entry 34). -/
def State.normUpe (s : State) (jid : U64) : Nat := (s.upes jid).getD 0 0

/-- PASS1_NORM (R308, R309): from REDUCED, over the active bank. -/
def execPass1Norm (jid : U64) (s : State) : Host.Outcome State Fault Refusal :=
  s.ran fun s => s.withJob jid fun j =>
    if !s.mayUpdate j || s.stalled (s.normUpe jid) || j.pass1 || !s.passed j .reduced then s
    else
      let x := s.normUpe jid
      s.on (whoOf x j) (accAll (fun l => s.layerNorms (whoOf x j) j l) (List.range j.layerTab.length)) fun ls =>
        let s1 := (s.updJob jid fun j => { j with layers := ls.map (·.1), pass1 := true, progress := true }).tickFresh 3
        s1.updUnit x fun u => u.orFlags (ls.foldl (fun f l => f ||| l.2) 0)

/-! ### NORM_DERIVE (R309, R310) -/

/-- A total from 40 summed limbs. -/
def limbSum (l : List Int) : Int := l.foldr (fun x acc => x + 65536 * acc) 0

/-- Totals of a layer: NG, NW, ND as integer images. With no other module they are the module's own sums. -/
def State.totals (s : State) (w : Who) (j : Job) (l : Nat) : Acc (Int × Int × Int) :=
  match j.bin.exch, j.dims with
  | some x, _ :: _ =>
    match bankView j.bin false (bits x.header 32 16) with
    | some v =>
      let q (i : Nat) : Acc Int := (accAll (fun k => (s.nthElem w v (120 * l + 40 * i + k)).map fun r => signed 32 r.raw) (List.range 40)).map limbSum
      (q 0).bind fun a => (q 1).bind fun b => (q 2).map fun c => (a, b, c)
    | none => .ok (0, 0, 0)
  | _, _ => match j.layers[l]? with
    | some st => .ok ((st.ng : Int), (st.nw : Int), (st.nd : Int))
    | none => .ok (0, 0, 0)

/-- The value of an exact total. -/
def totalVal (i : Int) : Val := ofScaled i (-298) false

/-- clip_p (R310): a comparison with a NaN does not hold. -/
def clipOf (clip : Nat) (g : Nat) : FW :=
  let c := fp32.decode clip
  let n := fp32.decode g
  if c.isZero || (!c.isNan && !n.isNan && !(c.below n)) then fw 0x3F800000 else fDiv (fw clip) (fw g)

/-- tr_l (R310). -/
def trustOf (t : Nat) (nw nd clip : FW) (tmax : Nat) : FW :=
  if t = 1 ∨ fIsZero nw.1 ∨ fIsZero nd.1 then (0x3F800000, nw.2 ||| nd.2)
  else
    let r := fDiv (fSqrt nw) (fMul clip (fSqrt nd))
    if !fIsZero tmax && (fp32.decode tmax).below (fp32.decode r.1) then (tmax, r.2) else r

/-- NORM_DERIVE (R310): once the norm vector is delivered. -/
def execNormDerive (jid : U64) (s : State) : Host.Outcome State Fault Refusal :=
  s.ran fun s => s.withJob jid fun j =>
    let ready := j.dims.isEmpty || j.bin.exch.isNone || (match j.spec? 4095 with | some b => j.delivered b | none => true)
    if !s.mayUpdate j || s.stalled (s.normUpe jid) || !j.pass1 || j.norms || !ready then s
    else
      let x := s.normUpe jid
      s.on (whoOf x j) (accAll (fun l => s.totals (whoOf x j) j l) (List.range j.layerTab.length)) fun ts =>
        let gtot : Int := ts.foldl (fun n t => n + t.1) 0
        let g := fOf (totalVal gtot).sqrt
        let gs : List (BitVec 512) := match j.bin.update with | some u => u.groups | none => []
        let clips := gs.map fun p => clipOf (grpClip p) g.1
        let trs : List FW := (j.layerTab.zip ts).map fun p =>
          let gr := j.group p.1
          trustOf (j.gstep.toNat + 1) (fOf (totalVal p.2.2.1, 0)) (fOf (totalVal p.2.2.2, 0)) (clips.getD (layGroup p.1) (fw 0x3F800000)) (grpTrustMax gr)
        let ngs : List FW := ts.map fun t => fOf (totalVal t.1, 0)
        let fl := (ngs ++ clips ++ trs).foldl (fun f c => f ||| c.2) g.2
        (s.updJob jid fun j => { j with
          gnorm := BitVec.ofNat 32 g.1, clips := clips.map fun c => BitVec.ofNat 32 c.1, norms := true, progress := true,
          layers := (j.layers.zip trs).map fun p => { p.1 with tr := BitVec.ofNat 32 p.2.1 } }).updUnit x fun u => u.orFlags fl

/-! ### PASS2_UPDATE (R302 to R307, R311) -/

/-- Constants of a layer's group and step. -/
structure UpK where
  ob1 : FW
  ob2 : FW
  bc1 : FW
  bc2 : FW
deriving DecidableEq, Repr

def upK (k : Lay) : UpK :=
  let one := fw 0x3F800000
  let b1 := fw (grpBeta1 k.grp)
  let b2 := fw (grpBeta2 k.grp)
  { ob1 := fSub one b1, ob2 := fSub one b2, bc1 := fSub one (fPow 64 b1 one k.t), bc2 := fSub one (fPow 64 b2 one k.t) }

/-- What an element's update gives. -/
structure UpOut where
  w : FW
  m : FW
  v : FW
  delta : FW
  gc : FW
deriving DecidableEq, Repr

/-- The rules of R302 to R305 on one element: weight, moments, statistics, gradient g. -/
def updElem (k : Lay) (u : UpK) (g w m v rr cc rbar : FW) : UpOut :=
  let b1 := fw (grpBeta1 k.grp)
  let b2 := fw (grpBeta2 k.grp)
  let wd := fw (grpWd k.grp)
  let lr := fw k.lr
  let eps := fw (grpEps k.grp)
  let gc := fMul g (fw k.clip)
  let fin (dw m v : FW) : UpOut := { w := fFma (fNeg lr) dw w, m := m, v := v, delta := fMul lr dw, gc := gc }
  match grpRule k.grp with
  | 0 =>
    let m1 := fFma b1 m gc
    fin (fFma wd w m1) m1 (fw 0)
  | 1 =>
    let m1 := fFma b1 m (fMul u.ob1 gc)
    let v1 := fFma b2 v (fMul u.ob2 (fMul gc gc))
    let q := fDiv (fDiv m1 u.bc1) (fAdd (fSqrt (fDiv v1 u.bc2)) eps)
    fin (fFma wd w q) m1 v1
  | r =>
    let d : FW := if k.t = 1 then fw 0 else fDiv gc (fAdd (fSqrt (vhOf rbar rr cc)) eps)
    let m1 : FW := if grpM1 k.grp then fFma b1 m (fMul u.ob1 d) else fw 0
    let q := if grpM1 k.grp then m1 else d
    fin (fFma wd w (if r = 3 then fMul (fw k.tr) q else q)) m1 (fw 0)

/-- LOST (R306): delta is not 0 and below half an ulp of w in the master format. -/
def isLost (k : Lay) (w delta : Nat) : Bool :=
  let f := if k.master.isSome then fp32 else bf16
  match fp32.decode delta, fp32.decode w with
  | .fin _ 0 _, _ => false
  | d@(.fin _ _ _), .fin _ m e =>
    let u := if m = 0 then f.emin - f.frac else f.ulp m e
    (d.absolute).lt (.fin false 1 (u - 1))
  | _, _ => false

/-- The working copy's bits, saturated where its tensor asks for it (R145): RNE from the master, SR at site 0x2 in COMPACT mode, over tiles of the vector engine's limits. -/
def workBits (j : Job) (k o : Lay) (row col : Nat) (w : Nat) : Nat × U16 :=
  let i : SrIn := {
    seed := j.seed, stream := (tdTensor k.w.td).toNat,
    tile := o.w.tile [256, 64] [(col : Int), (row : Int)], site := 2, pass := 0, lane := col % 256, index := row % 64 }
  o.w.fmt.ofVal (if grpCompact k.grp then .sr (srRandom i) else .rne) (tdSat o.w.td) (fp32.decode w)

/-- What an element's update gives: the state with its results written, the square's operand for the statistics, the working copy's
bytes, what it counts and its flags. -/
structure ElemUp where
  s : State
  gc : Nat
  bytes : List Byte
  gz : Bool
  lost : Bool
  nf : Bool
  flags : U16
deriving DecidableEq, Repr

/-- An element of a tensor that may be absent, written; OOA where its address is clamped (R156). -/
def State.putNth (s : State) (w : Who) (v : Option View) (n raw : Nat) : Acc (State × U16) :=
  match v with
  | some v => (s.storeView w v (v.nthStores n raw)).map fun t => (t, flagIf (v.nthClamps n != 0) fOOA)
  | none => .ok (s, 0)

/-- One kept element of pass 2, at a stored and a logical column of its row: `o` holds the views of the inactive bank. -/
def State.elemUpdate (s : State) (wh : Who) (j : Job) (k o : Lay) (row : Nat) (c : Nat × Nat) : Acc ElemUp :=
  let n := row * k.w.rowLen + c.1
  let stat (v : Option View) (i : Nat) : Acc FW := if k.factored then s.fpElem wh v i else .ok (fw 0)
  (s.fpElem wh (some k.rg) n).bind fun rg0 => (s.weight wh k n).bind fun w => (s.fpElem wh k.m n).bind fun m =>
    (if k.factored then Acc.ok (fw 0) else s.fpElem wh k.v n).bind fun v => (stat k.v row).bind fun rr => (stat k.c c.2).bind fun cc =>
      (stat k.v k.w.rowCount).bind fun rbar =>
        let u := upK k
        let z := takeGrad k rg0
        let r := updElem k u (gradOf k z.1 (j.contributors s.fresh k.l n)) w m v rr cc rbar
        let wb := workBits j k o row c.2 r.w.1
        (s.putNth wh (some o.w) n wb.1).bind fun a => (a.1.putNth wh o.master n r.w.1).bind fun b => (b.1.putNth wh o.m n r.m.1).bind fun d =>
          (d.1.putNth wh (if k.factored then none else o.v) n r.v.1).map fun e =>
            { s := e.1, gc := r.gc.1, bytes := bytesOf 2 wb.1, gz := fIsZero rg0.1, lost := isLost k w.1 r.delta.1, nf := z.2,
              flags := rg0.2 ||| w.2 ||| m.2 ||| v.2 ||| rr.2 ||| cc.2 ||| rbar.2 ||| u.ob1.2 ||| u.ob2.2 ||| r.gc.2 ||| r.w.2 ||| r.m.2 ||| r.v.2 |||
                r.delta.2 ||| wb.2 ||| a.2 ||| b.2 ||| d.2 ||| e.2 }

/-- A store through a view that may be absent. -/
def State.storeOpt (s : State) (w : Who) (v : Option View) (l : MStores) : Acc State :=
  match v with | some v => s.storeView w v l | none => .ok s

/-- The update engine that a row of a layer is assigned to; one the binary assigns to none of the job's is the first one's (log entry 34). -/
def Job.rowOwner (j : Job) (xs : List Nat) (l row : Nat) : Nat :=
  let rs : List RowShare := match j.bin.update with | some u => u.assign | none => []
  ((rs.find? fun r => r.layer == l && decide (r.first ≤ row) && decide (row < r.first + r.rows) && xs.contains r.upe.addr).map fun r =>
    r.upe.addr).getD (xs.getD 0 0)

/-- The next row of an update engine, from its place on. -/
def Job.nextRow (j : Job) (xs : List Nat) (l rows : Nat) (q : UpePos) : Option Nat :=
  (List.range rows).find? fun r => decide (q.row ≤ r) && j.rowOwner xs l r == q.upe

/-- Pass 2 at the start of a layer. -/
def P2.start (xs : List Nat) (rows cols : Nat) : P2 :=
  { pos := xs.map fun x => { upe := x, row := 0, slot := 0, bytes := [], sum := .empty, kept := 0 }, rows := List.replicate rows (.empty, 0),
    cols := List.replicate cols (.empty, 0), gzero := 0, lost := 0, nf := 0, kept := 0 }

def P2.setPos (p : P2) (q : UpePos) : P2 := { p with pos := p.pos.map fun r => if r.upe == q.upe then q else r }

/-- An updated element enters the sums and the counts. -/
def P2.take (p : P2) (q : UpePos) (col : Nat) (e : ElemUp) : P2 :=
  { p.setPos { q with slot := q.slot + 1, bytes := q.bytes ++ e.bytes, sum := q.sum.addSquare e.gc, kept := q.kept + 1 } with
    cols := modAt p.cols col fun a => (a.1.addSquare e.gc, a.2 + 1)
    gzero := p.gzero + b2n (e.gz && !e.nf), lost := p.lost + b2n e.lost, nf := p.nf + b2n e.nf, kept := p.kept + 1 }

/-- What an element counts in its engine (R306, R307); its flags stand in its lane, one of 16. -/
def State.countElem (s : State) (x lane : Nat) (e : ElemUp) : State :=
  (s.updUnit x fun v => (((v.count 0 1).count 2 (b2n (e.gz && !e.nf))).count 3 (b2n e.lost)).count 4 (b2n e.nf)).orLanes x (atLane (lane % 16) e.flags)

/-- A row is whole: its sum is kept, the tile counts and is recorded (R460), and its lanes' flags reach FLAGS (R139). -/
def State.rowDone (s : State) (j : Job) (k : Lay) (p : P2) (q : UpePos) (row : Nat) : State × P2 :=
  ((s.updUnit q.upe fun v => (v.count 1 1).endTile).recordTile j.jid q.upe (s.unit q.upe).liveTag (tdTensor k.w.td) row q.bytes,
    { p.setPos { q with row := row + 1, slot := 0, bytes := [], sum := .empty, kept := 0 } with rows := modAt p.rows row fun _ => (q.sum, q.kept) })

/-- One kept element of an engine's next row, and the row's end after its last one; none where the engine has no row left. -/
def State.upeStep (s : State) (x : Nat) (j : Job) (p : P2) (l : Nat) : Option (Acc (State × P2)) :=
  match s.layOf x j j.active l, s.layOf x j (!j.active) l, p.pos.find? fun q => q.upe == x with
  | some k, some o, some q =>
    let wh := whoOf x j
    (j.nextRow (s.upes j.jid) l k.w.rowCount q).map fun row =>
      (s.rowSlots wh k.w row).bind fun cs =>
        let moved : Acc (State × P2) := match cs[q.slot]? with
          | none => .ok (s, p)
          | some c => (s.elemUpdate wh j k o row c).map fun e => (e.s.countElem x q.slot e, p.take q c.2 e)
        moved.map fun r =>
          let q1 := (r.2.pos.find? fun (a : UpePos) => a.upe == x).getD q
          if q1.slot < cs.length then r else r.1.rowDone j k r.2 q1 row
  | _, _, _ => none

/-- An update engine goes on with a layer, at most `n` elements; a fault stops it at its element, the others go on (R312). -/
def State.upeRun (jid : U64) (l x : Nat) : Nat → State → State
  | 0, s => s
  | n + 1, s =>
    match s.job? jid with
    | none => s
    | some j =>
      if !s.mayUpdate j || s.stalled x || (assoc j.lrs x).isNone then s
      else
        match j.p2.bind fun p => s.upeStep x j p l with
        | none => s
        | some (.ok r) => State.upeRun jid l x n ((r.1.updJob jid fun j => { j with p2 := some r.2, progress := true }).accessed (whoOf x j).die)
        | some (.bad c a d q) => s.streamFault (whoOf x j) c a d q 0
        | some (.wait d) => s.setWait x (.fault d)

/-- The statistics after a FACTORED layer's last element (R304). -/
def State.writeStats (s : State) (w : Who) (k o : Lay) (u : UpK) (p : P2) : Acc (State × U16) :=
  if !k.factored then .ok (s, 0)
  else
    let b2 := fw (grpBeta2 k.grp)
    let next (old : FW) (a : Exact × Nat) : FW := if a.2 = 0 then old else fFma b2 old (fMul u.ob2 (fDivNat (fOf a.1.value) a.2))
    (accAll (fun i => s.fpElem w k.v i) (List.range k.w.rowCount)).bind fun rr => (accAll (fun i => s.fpElem w k.c i) (List.range p.cols.length)).bind fun cc =>
      (s.fpElem w k.v k.w.rowCount).bind fun rbar =>
        let rs : List FW := (rr.zip p.rows).map fun e => next e.1 e.2
        let cs : List FW := (cc.zip p.cols).map fun e => next e.1 e.2
        let used := (p.rows.filter fun a => a.2 != 0).length
        let tot : Exact := ((rs.zip p.rows).filter fun e => e.2.2 != 0).foldl (fun a e => a.add (fp32.decode e.1.1)) .empty
        let rb : FW := if used = 0 then rbar else fDivNat (fOf tot.value) used
        let put (v : Option View) (l : List FW) : MStores := match v with
          | some v => l.zipIdx.flatMap fun e => v.nthStores e.2 e.1.1
          | none => []
        let clamps (v : Option View) (n : Nat) : U16 := match v with
          | some v => flagIf ((List.range n).any fun i => v.nthClamps i != 0) fOOA
          | none => 0
        (s.storeOpt w o.v (put o.v (rs ++ [rb]))).bind fun s1 => (s1.storeOpt w o.c (put o.c cs)).map fun s2 =>
          (s2, (rs ++ cs ++ [rb]).foldl (fun f e => f ||| e.2) (clamps o.v (rs.length + 1) ||| clamps o.c cs.length))

/-- Learning rates of the groups, as an update engine reads them at the start of pass 2 where LR_PTR is given (R300). -/
def State.readLrs (s : State) (x : Nat) (j : Job) : Acc (List U32) :=
  let gs : List (BitVec 512) := match j.bin.update with | some u => u.groups | none => []
  accAll (fun g => if grpLrPtr g = 0 then .ok (BitVec.ofNat 32 (grpLr g))
    else (s.load (whoOf x j) (grpLrPtr g + 4 * (j.gstep.toNat % 2 ^ 24)) 4).map fun b => BitVec.ofNat 32 (ofBytes b)) gs

/-- A replay takes the rates its recording holds (R464). -/
def State.replayLrs (s : State) (x : Nat) (j : Job) (ls : List U32) : List U32 :=
  let gs : List (BitVec 512) := match j.bin.update with | some u => u.groups | none => []
  (gs.zip ls).map fun e => if grpLrPtr e.1 = 0 then e.2
    else match s.replayed j.jid 4 [x, (s.unit x).liveTag.toNat, grpLrPtr e.1 + 4 * (j.gstep.toNat % 2 ^ 24)] with
      | some r => BitVec.ofNat 32 (r.words.getD 3 e.2.toNat)
      | none => e.2

/-- Record the learning rates read (R300, R459). -/
def State.recordLrs (s : State) (x : Nat) (j : Job) (ls : List U32) : State :=
  let gs : List (BitVec 512) := match j.bin.update with | some u => u.groups | none => []
  (gs.zip ls).foldl (fun s e => if grpLrPtr e.1 = 0 then s
    else s.record j.jid 0x04 [x, (s.unit x).liveTag.toNat, grpLrPtr e.1 + 4 * (j.gstep.toNat % 2 ^ 24), e.2.toNat] []) s

/-- A layer is quiet (R319). -/
def quietLayer (h : BitVec 512) (p : P2) : Bool := p.gzero == p.kept || decide (updQuietFrac h * p.kept < p.lost * 65536)

/-- A finished layer; the last one sets the label WRITTEN. -/
def State.layerDone (s : State) (x : Nat) (jid : U64) (l : Nat) (p : P2) (fl : U16) : State :=
  let s1 := (s.updJob jid fun j => { j with
    progress := true,
    layers := modAt j.layers l fun y => { y with done := true, gzero := p.gzero, lost := p.lost, nfZeroed := p.nf, quiet := quietLayer j.header p },
    p2 := none }).updUnit x fun u => u.orFlags fl
  s1.withJob jid fun j =>
    if !(j.layers.all (·.done)) then s1
    else s1.on (whoOf x j) (s1.storeLabel (whoOf x j) j (!j.active) (labelBytes (j.gstep.toNat + 1) 2 jid 0 0)) fun s2 =>
      s2.updJob jid fun j => { j with updated := true }

/-- An update engine starts pass 2: it reads its learning rates; the first to start sets the inactive bank's label to WRITING (R297, R300). -/
def State.startUpe (s : State) (jid : U64) (x : Nat) : State :=
  s.withJob jid fun j =>
    if (assoc j.lrs x).isSome || s.stalled x then s
    else
      s.on (whoOf x j) ((s.readLrs x j).bind fun ls =>
          (if j.lrs.isEmpty then s.storeLabel (whoOf x j) j (!j.active) (labelBytes (j.gstep.toNat + 1) 1 jid 0 0) else .ok s).map fun s1 => (s1, ls)) fun r =>
        let ls := r.1.replayLrs x j r.2
        (r.1.recordLrs x j ls).updJob jid fun j => { j with lrs := j.lrs ++ [(x, ls)], progress := true }

/-- Open the sums of a layer, once. -/
def State.openLayer (s : State) (jid : U64) (l : Nat) : State :=
  s.withJob jid fun j =>
    let x := s.normUpe jid
    if j.p2.isSome then s
    else
      let k := s.layOf x j j.active l
      s.updJob jid fun j => { j with p2 := some (P2.start (s.upes jid) ((k.map fun k => k.w.rowCount).getD 0) ((k.map fun k => k.w.extent 0).getD 0)) }

/-- Once no engine has a row of the layer left and every one has started: the statistics, and the layer is done. -/
def State.closeLayer (s : State) (jid : U64) (l : Nat) : State :=
  s.withJob jid fun j =>
    let x := s.normUpe jid
    match j.p2 with
    | none => s
    | some p =>
      if !s.mayUpdate j || s.stalled x || !((s.upes jid).all fun y => (assoc j.lrs y).isSome && (s.upeStep y j p l).isNone) then s
      else match s.layOf x j j.active l, s.layOf x j (!j.active) l with
        | some k, some o => s.on (whoOf x j) (s.writeStats (whoOf x j) k o (upK k) p) fun e => e.1.layerDone x jid l p e.2
        | _, _ => s.layerDone x jid l p 0

/-- PASS2_UPDATE (R300, R311, R312): the next layer in table order. Every update engine that has not started does, then each goes on over
its own rows by at most `elems` elements (log entry 74), and the layer ends when all of them are at its end. -/
def execPass2Update (jid : U64) (layer : Nat) (s : State) (elems : Nat := 1) : Host.Outcome State Fault Refusal :=
  s.ran fun s => s.withJob jid fun j =>
    let next := (j.layers.findIdx? fun y => !y.done).getD j.layers.length
    if !s.mayUpdate j || !j.norms || j.updated || !s.passed j .normed || layer != next || decide (j.layers.length ≤ layer) then s
    else
      let xs := s.upes jid
      let s1 := xs.foldl (fun s x => s.startUpe jid x) s
      (xs.foldl (fun s x => s.upeRun jid layer x elems) (s1.openLayer jid layer)).closeLayer jid layer

/-! ### Queries (R321) -/

/-- QUERY_COMMAND (R321): the query served next. Its units' commands on bank QUERY read the bank active at its stamp. -/
def execQueryCommand (jid : U64) (query : Nat) (s : State) : Host.Outcome State Fault Refusal :=
  s.ran fun s => s.withJob jid fun j =>
    if j.phase != .running then s
    else
      let qs := j.ingest.filter fun i => i.query
      match qs[query]? with
      | none => s
      | some q =>
        let s1 := s.updJob jid fun j => { j with ingest := q :: j.ingest.erase q, progress := true }
        (s.unitsOf jid).foldl (fun s x => match (s.unit x).cmd? with
          | some c => if c.bank = .query then s.updUnit x fun u => { u with bankB := q.bank } else s
          | none => s) s1

end Sys2Proof.Machine
end

