-- ==== Sys2Proof/Machine/Exchange.lean ====
section
/-! DEFINITION. The gradient exchange, halo packets, the Cork exchange and late contributions (R129, R136, R164, R336 to R366). -/

namespace Sys2Proof.Machine

/-! ### Wire elements (R129) -/

/-- One wire element: its bits, non-finite, the flags of what formed it and the clamped accesses. -/
structure WireOut where
  raw : Nat
  nf : Bool
  flags : U16
  ooa : Nat
deriving DecidableEq, Repr

def WireOut.sat (e : WireOut) : Bool := e.flags &&& fSAT != 0

/-- A wire element that no arithmetic formed. -/
def wireBits (raw : Nat) : WireOut := { raw := raw, nf := false, flags := 0, ooa := 0 }

def gx8Encode (r : Nat) (k : Int) (v : Val) : WireOut :=
  if v.finite then
    let z := e4m3.convert (.sr r) true (v.scale (-k))
    { raw := z.1, nf := false, flags := z.2, ooa := 0 }
  else { wireBits 0x7F with nf := true }

def gxiEncode (r : Nat) (k : Int) (v : Val) : WireOut :=
  if v.finite then
    let z := toInt (.sr r) (-65535) 65535 (v.scale (-k))
    { raw := unsigned 32 z.1, nf := false, flags := z.2, ooa := 0 }
  else { wireBits 0 with nf := true }

/-- The in-link adders on one element. A link die has no FLAGS register: of their flags SAT alone is reported, in the header (R349). -/
def gx8Add (r : Nat) (a b : Nat) : WireOut :=
  let x := e4m3.decode a
  let y := e4m3.decode b
  if x.isNan || y.isNan then wireBits 0x7F
  else let z := e4m3.convert (.sr r) true (x.add y).1; { raw := z.1, nf := false, flags := z.2, ooa := 0 }

def gxiAdd (a b : Nat) : WireOut := wireBits ((a + b) % 2 ^ 32)

/-- The value of a wire element at a scale. -/
def wireVal (gxi : Bool) (k : Int) (raw : Nat) : Val :=
  if gxi then (ofInt (signed 32 raw)).scale k
  else match e4m3.decode raw with | .nan _ => .nan false | v => v.scale k

/-- SR inputs of the exchange's sites (R136): the tile is the rank and the block's index in the bucket. -/
def exchSr (seed : U64) (bucket rank blk site lane e : Nat) : Nat :=
  srRandom { seed := seed, stream := bucket, tile := rank * 2 ^ 32 + blk, site := site, pass := 0, lane := lane, index := e }

/-! ### Local operands (R348, R353, R355) -/

/-- The DMA engine that acts for a job. -/
def State.dmxOf (s : State) (jid : U64) : Nat := ((s.unitsOf jid).find? fun x => x % 16 == 12 || x % 16 == 13).getD 12

/-- One element of the module's own contribution. -/
def State.ownElem (s : State) (w : Who) (j : Job) (b : BSpec) (blk e : Nat) : Acc WireOut :=
  let gxi := j.isGxi b
  let seed := j.seed
  let rank := s.rank j
  if b.norm then
    let n := blk * 256 + e
    let raw := match j.layers[n / 120]? with
      | some l => (if n % 120 < 40 then l.ng else if n % 120 < 80 then l.nw else l.nd) / 2 ^ (16 * (n % 40)) % 65536
      | none => 0
    .ok (wireBits raw)
  else
    let lb := j.layerOf (b.first + blk)
    if j.layerStored lb.1 ≤ lb.2 * 256 + e then .ok (wireBits 0)
    else match bankView j.bin false b.src with
      | none => .ok (wireBits 0)
      | some v => (s.nthElem w v (blk * 256 + e)).bind fun r =>
        let k := j.scaleK b lb.1
        let enc (x : Val) : WireOut := if gxi then gxiEncode (exchSr seed b.id rank blk 5 0 e) k x else gx8Encode (exchSr seed b.id rank blk 3 0 e) k x
        let own : WireOut := let o := enc (v.value r); { o with flags := o.flags ||| r.flags, ooa := r.ooa }
        let st := j.bucket b.id
        if st.fold = 0 then .ok own
        else match bankView j.bin false b.carryTd with
          | none => .ok own
          | some cv => (s.nthElem w cv (blk * 256 + e)).map fun c =>
            let now := match j.layers[lb.1]? with | some l => l.c | none => 0
            let sum := fAdd (widen v.fmt r) (fOf ((cv.value c).scale (now - st.carryC.getD lb.1 now), c.flags))
            let o := enc (fp32.decode sum.1)
            { o with flags := o.flags ||| sum.2, ooa := r.ooa + c.ooa }

/-- One element of a staged sum. -/
def State.stagedElem (s : State) (w : Who) (j : Job) (b : BSpec) (blk e : Nat) : Acc WireOut :=
  match bankView j.bin false b.stage with
  | none => .ok (wireBits 0)
  | some v => (s.nthElem w v (blk * 256 + e)).map fun r =>
    if j.isGxi b then { wireBits (r.raw % 2 ^ 32) with flags := r.flags, ooa := r.ooa }
    else
      let k := if b.norm then 0 else j.scaleK b (j.layerOf (b.first + blk)).1
      let o := gx8Encode (exchSr j.seed b.id (s.rank j) blk 3 0 e) k (bf16.decode (r.raw % 65536))
      { o with nf := false, flags := o.flags ||| r.flags, ooa := r.ooa }

/-- Blocks from an element function. -/
def blocksOf (f : Nat → Nat → Acc WireOut) (first n : Nat) : Acc (List (List WireOut)) :=
  accAll (fun i => accAll (fun e => f (first + i) e) (List.range 256)) (List.range n)

def zeroBlocks (n : Nat) : List (List U32) := List.replicate n (List.replicate 256 0)

def rawBlocks (l : List (List WireOut)) : List (List U32) := l.map fun b => b.map fun e => BitVec.ofNat 32 e.raw

/-- The flags of blocks and their clamped accesses reach the DMA engine that formed them (R137, R139, R156). -/
def State.dmxFlags (s : State) (jid : U64) (f : U16) (ooa : Nat) : State :=
  let x := s.dmxOf jid
  if (s.unit x).job == some jid then (s.updUnit x fun u => u.orFlags f).countOoa x ooa else s

def blockFlags (l : List (List WireOut)) : U16 := l.foldl (fun f b => b.foldl (fun f e => f ||| e.flags) f) 0
def blockOoa (l : List (List WireOut)) : Nat := (l.map fun b => (b.map (·.ooa)).foldl (· + ·) 0).foldl (· + ·) 0

/-- A local operand with the flags and the clamped accesses of forming it. -/
structure Formed where
  op : Operand
  flags : U16
  ooa : Nat
deriving DecidableEq, Repr

/-- An operand of blocks. -/
def formed (o : Operand) (l : List (List WireOut)) : Formed := { op := { o with blocks := rawBlocks l }, flags := blockFlags l, ooa := blockOoa l }

/-- Blocks of a bucket held after the phases before dimension `dim`'s reduce-scatter. -/
def Job.reduced (j : Job) (id dim : Nat) : List Part := (j.bucket id).parts.filter fun p => !p.spread && p.dim == dim

/-- The phase before a dimension's reduce-scatter. -/
def prevDim (ds : List Nat) (d : Nat) : Option Nat := (ds.filter fun x => decide (x < d)).getLast?

/-- The local operand of blocks of a bucket in a phase, or none while it is not ready. -/
def State.operand (s : State) (j : Job) (p : Nat) (b : BSpec) (dim first n : Nat) : Option (Acc Formed) :=
  let base : Operand := { port := p, bucket := b.id, dim := dim, first := first, blocks := zeroBlocks n, count := 0, nf := false, sat := false, nfMin := 0xFFFF }
  let w := whoOf (s.dmxOf j.jid) j
  let st := j.bucket b.id
  let zero : Formed := { op := base, flags := 0, ooa := 0 }
  if s.stoppedToPeers j then some (.ok zero)
  else match prevDim j.dims dim with
    | none =>
      if b.norm then
        if j.pass1 then some ((blocksOf (s.ownElem w j b) first n).map fun l => formed { base with count := 1 } l) else none
      else if !st.decided then none
      else if st.late then some (.ok zero)
      else some ((blocksOf (s.ownElem w j b) first n).map fun l =>
        let nf := l.any fun q => q.any (·.nf)
        formed { base with count := 1 + st.fold, nf := nf, sat := l.any fun q => q.any (·.sat), nfMin := if nf then s.moduleId else 0xFFFF } l)
    | some d =>
      let ps := j.reduced b.id d
      if covered ps first n then
        let h := headerOf (overlapping ps first n)
        some ((blocksOf (s.stagedElem w j b) first n).map fun l => formed { base with count := h.count, nf := h.nf, sat := h.sat, nfMin := h.nfMin } l)
      else none

/-! ### Packets of the exchange -/

/-- Element bytes of blocks (R343). -/
def wireBytes (gxi : Bool) (l : List (List U32)) : List Byte := l.flatMap fun b => b.flatMap fun e => bytesOf (if gxi then 4 else 1) e.toNat

/-- The blocks of a packet. -/
def Packet.blocks (p : Packet) : List (List Nat) :=
  let sz := if p.fmt = 1 then 4 else 1
  (List.range p.nblk).map fun i => (List.range 256).map fun e => ofBytes ((p.data.drop (sz * (256 * i + e))).take sz)

/-- Scale of block i of a packet (R344). -/
def Packet.scaleAt (p : Packet) (i : Nat) : Int := signed 8 ((p.scales.getD i 0).toNat)

/-- An exchange packet of an operand (R335, R346, R349). -/
def State.exchPacket (s : State) (j : Job) (b : BSpec) (kind dir hops : Nat) (o : Operand) : Packet :=
  let gxi := j.isGxi b
  let n := o.blocks.length
  { hdr := pack 256 [(0, 4, kind), (4, 4, b2n gxi), (8, 2, o.dim), (10, 1, dir), (11, 5, hops), (16, 15, s.moduleId), (32, 32, j.jid.toNat), (64, 32, j.x.per),
      (96, 12, b.id), (112, 6, n), (128, 24, o.first), (152, 1, b2n o.nf), (153, 1, b2n o.sat), (160, 24, o.count), (192, 16, o.nfMin)],
    scales := (List.range 64).map fun i =>
      if i < n then BitVec.ofNat 8 (unsigned 8 (if b.norm then 0 else j.scaleK b (j.layerOf (b.first + o.first + i)).1)) else 0,
    data := wireBytes gxi o.blocks, stamp := s.gt }

/-- The adder (R349): elements, COUNT, NF, NF_MIN_ID, SAT. -/
def State.combine (s : State) (j : Job) (p : Packet) (o : Operand) : Packet :=
  let gxi := p.fmt == 1
  let rank := s.rank j
  let sums : List (List WireOut) := (p.blocks.zip o.blocks).zipIdx.map fun bo => (bo.1.1.zip bo.1.2).zipIdx.map fun e =>
    if gxi then gxiAdd e.1.1 e.1.2.toNat else gx8Add (exchSr j.seed p.bucket rank (p.first + bo.2) 4 p.dim e.2) e.1.1 e.1.2.toNat
  let h1 := putField (putField p.hdr 160 24 (p.count + o.count)) 152 1 (b2n (p.nf || o.nf))
  let h2 := putField (putField h1 192 16 (min p.nfMin o.nfMin)) 153 1 (b2n (p.sat || o.sat || sums.any fun b => b.any (·.sat)))
  { p with hdr := h2, data := wireBytes gxi (rawBlocks sums) }

/-! ### Delivery (R347, R350, R402) -/

/-- A link die's accesses of a job: locked entries only. Port p lies on link die p mod 2 (R29). -/
def linkWho (j : Job) (p : Nat) : Who := { unit := 28 + p % 2, isDie := true, ctx := j.ctx.val, jid := j.jid, lockedOnly := true }

/-- A delivery write that faults is discarded and ends the job (R402); one whose merge meets poison ends it as R376 gives. -/
def State.delivered (s : State) (j : Job) (p : Nat) (a : Acc State) (f : State → State) : State :=
  match a with
  | .ok s1 => f s1
  | .bad c _ d a =>
    let s1 := s.cntAdd (cntNelil p 6) 1
    if c = 0xC then s1.poisonFault j.jid 1 (28 + p % 2) true d a 0
    else if c = 0xFE then s1.unavailable j.jid
    else s1.jobFault j.jid 0x0B 1 (28 + p % 2) true d 0
  | .wait d => (s.cntAdd (cntNelil p 6) 1).jobFault j.jid 0x0B 1 (28 + p % 2) true d 0

/-- Stores of delivered blocks into STAGE_TD: BF16 values of GX8 elements, INT32 sums of GXI. -/
def stageStores (j : Job) (b : BSpec) (v : View) (gxi : Bool) (first : Nat) (blocks : List (List Nat)) (k : Nat → Int) : MStores :=
  blocks.zipIdx.flatMap fun bl => bl.1.zipIdx.flatMap fun e =>
    let raw := if gxi then e.1 else (bf16.convert .rne false (wireVal false (k bl.2) e.1)).1
    if (j.layerOf (b.first + first + bl.2)).1 < j.layerTab.length ∨ b.norm then v.nthStores ((first + bl.2) * 256 + e.2) raw else []

/-- Stores of delivered blocks into the layers' RG_TDs, or NORM_TD, each through its view. -/
def finalStores (j : Job) (b : BSpec) (gxi : Bool) (first : Nat) (blocks : List (List Nat)) (k : Nat → Int) : List (View × MStores) :=
  blocks.zipIdx.filterMap fun bl =>
    let blk := first + bl.2
    if b.norm then
      (match j.bin.exch with
        | some x => (bankView j.bin false (bits x.header 32 16)).map fun v =>
          (v, bl.1.zipIdx.flatMap fun e => if blk * 256 + e.2 < 120 * j.layerTab.length then v.nthStores (blk * 256 + e.2) e.1 else [])
        | none => none)
    else
      let lb := j.layerOf (b.first + blk)
      match j.layerTab[lb.1]? with
      | none => none
      | some ent => (bankView j.bin false (layRg ent)).map fun v =>
        (v, bl.1.zipIdx.flatMap fun e =>
          let n := lb.2 * 256 + e.2
          if n < j.layerStored lb.1 then v.nthStores n (v.fmt.ofVal .rne false (wireVal gxi (k bl.2) e.1)).1 else [])

/-- Store a list of tensors' bytes one after another. -/
def State.storeParts (s : State) (w : Who) : List (View × MStores) → Acc State
  | [] => .ok s
  | e :: t => (s.storeView w e.1 e.2).bind fun s1 => State.storeParts s1 w t

/-- Blocks that arrive too late to count: stamped at or after the mark that is their deadline, REDUCED, or NORMED for the norm vector
(R103, R357). -/
def Job.pastDeadline (j : Job) (b : BSpec) (stamp : Nat) : Bool :=
  match j.markOf (if b.norm then .normed else .reduced) with
  | some m => decide (periodGt j m j.x.per ≤ stamp)
  | none => false

/-- Deliver blocks to this module: the bytes, then the part with its header. One that comes after its deadline or the Cork release, or
twice, is not used (R357). -/
def State.deliverBlocks (s : State) (j : Job) (p : Nat) (b : BSpec) (dim : Nat) (spread : Bool) (pk : Packet) : State :=
  let part : Part := { dim := dim, spread := spread, first := pk.first, n := pk.nblk, count := pk.count, nf := pk.nf, sat := pk.sat, nfMin := pk.nfMin }
  let have_ := (j.bucket b.id).parts.any fun q => q.dim == dim && q.spread == spread && q.first == pk.first
  if j.x.cork.isSome || j.x.result.isSome || have_ || j.pastDeadline b pk.stamp then s
  else
    let w := linkWho j p
    let gxi := pk.fmt == 1
    let final_ := spread && j.dims.head? == some dim
    let a : Acc State :=
      if final_ then s.storeParts w (finalStores j b gxi pk.first pk.blocks pk.scaleAt)
      else match bankView j.bin false b.stage with
        | some v => s.storeView w v (stageStores j b v gxi pk.first pk.blocks pk.scaleAt)
        | none => .ok s
    s.delivered j p a fun s1 =>
      let s2 := (s1.updJob j.jid fun j => { j.setBucket b.id fun q => { q with parts := q.parts ++ [part] } with progress := true }).tracePacket j.jid p pk
      s2.record j.jid 0x05 [bits pk.hdr 0 64, bits pk.hdr 64 64, bits pk.hdr 128 64, bits pk.hdr 192 64, pk.stamp, digestOf (pk.scales ++ pk.data)] (pk.scales ++ pk.data)

/-! ### Arrived packets -/

/-- The first packet waiting at a port on a virtual channel. -/
def NlPort.headPkt (q : NlPort) (vc : Nat) : Option Packet := q.pkts.find? fun k => vcOf k.kind == vc

/-- Take a packet from a port's buffer: its entries are free, for the link that brought it. -/
def State.takePkt (s : State) (p : Nat) (k : Packet) : State :=
  s.updPort p fun q => { q with pkts := q.pkts.erase k, freed := if q.since ≤ k.stamp then modAt q.freed (vcOf k.kind) (· + k.entries) else q.freed }

/-- The packet held at an adder leaves it: its entries are free. -/
def State.freeHeld (s : State) (p : Nat) (k : Packet) : State :=
  s.updPort p fun q => { q with held := none, freed := if q.since ≤ k.stamp then modAt q.freed 0 (· + k.entries) else q.freed }

/-- The job and period a packet belongs to on this module (R337). -/
def State.packetJob (s : State) (k : Packet) : Option Job := (s.taggedJob k.tag).bind fun j => if k.period = j.x.per % 2 ^ 32 then some j else none

/-- A packet that names no admitted job or another period: forwarded unchanged, or discarded and counted (R337). `k` has arrived. -/
def State.stalePacket (s : State) (p : Nat) (k : Packet) : State :=
  if 0 < k.left then s.forward p k else s.cntAdd (cntNelil p 6) 1

/-! ### The plan and the ranges of the phases (R339, R345 to R347, R352) -/

/-- Shard i of a range in a ring of n. -/
def shard (r : Nat × Nat) (n i : Nat) : Nat × Nat := (r.1 + i * (r.2 - r.1) / n, r.1 + (i + 1) * (r.2 - r.1) / n)

/-- The module's range of a bucket before the phase of a dimension: its own shard of every dimension before. -/
def State.rangeBefore (s : State) (j : Job) (num dim : Nat) : Nat × Nat :=
  (j.dims.filter fun d => decide (d < dim)).foldl (fun r d => shard r (torusSize j.bin.report.torus d) (s.ringPos j d)) (0, num)

/-- Half a shard: its blocks, its home and its direction. -/
structure Half where
  lo : Nat
  hi : Nat
  home : Nat
  dir : Nat
deriving DecidableEq, Repr

/-- The half that holds a block in the phase of a dimension. -/
def State.halfAt (s : State) (j : Job) (num dim first : Nat) : Option Half :=
  let r := s.rangeBefore j num dim
  let n := torusSize j.bin.report.torus dim
  (List.range n).findSome? fun i =>
    let q := shard r n i
    let mid := q.1 + ceilDiv (q.2 - q.1) 2
    if q.1 ≤ first ∧ first < mid then some { lo := q.1, hi := mid, home := i, dir := 0 }
    else if mid ≤ first ∧ first < q.2 then some { lo := mid, hi := q.2, home := i, dir := 1 }
    else none

/-- Blocks of a full packet (R343). -/
def packetCap (gxi : Bool) : Nat := if gxi then 15 else 60

/-- The half a planned packet belongs to, where it is a packet of R345 to R347: its first block begins one, its direction is its half's, and
the module originates the REDUCE packets for the neighbour and the SPREAD packets of its own shard. -/
def State.planHalf (s : State) (j : Job) (q : PlanPkt) : Option Half :=
  (j.spec? q.bucket.toNat).bind fun b =>
    let n := torusSize j.bin.report.torus q.dim.toNat
    let pos := s.ringPos j q.dim.toNat
    (s.halfAt j b.num q.dim.toNat q.first).filter fun h =>
      h.dir == b2n q.dir && (q.first - h.lo) % packetCap (j.isGxi b) == 0 &&
        (!q.own || (if q.kind = 1 then (h.home + (if h.dir = 0 then 1 else n - 1)) % n == pos else h.home == pos))

/-- An entry of the plan that names no packet of this period: of an AUTO bucket that runs in GX8, planned at its GXI length (R352), or of
none that R345 to R347 give (log entry 79). The port goes on to the next. -/
def State.passesOver (s : State) (j : Job) (q : PlanPkt) : Bool := q.kind != 4 && (s.planHalf j q).isNone

/-- What a port's plan still lists on EXCHANGE (0) or CORK (1), with its place. -/
def Job.planLeft (j : Job) (p ch : Nat) : List (PlanPkt × Nat) :=
  match j.bin.exch with
  | none => []
  | some x => ((x.plan.filter fun q => q.port.val == p && decide (q.kind = 4) == (ch == 1)).zipIdx).drop (j.x.planPos.getD (2 * p + ch) 0)

/-- The packet next in order on a port. -/
def State.nextPlan (s : State) (j : Job) (p ch : Nat) : Option (PlanPkt × Nat) := (j.planLeft p ch).find? fun e => !s.passesOver j e.1

/-- The plan of a port goes on after the entry at a place. -/
def State.stepPlan (s : State) (jid : U64) (p ch at_ : Nat) : State :=
  s.updJob jid fun j => { j with x := { j.x with planPos := setAt j.x.planPos (2 * p + ch) (at_ + 1) } }

/-- A planned entry names a packet that passes through. -/
def planNames (q : PlanPkt) (k : Packet) : Bool :=
  !q.own && q.kind.toNat == k.kind && q.dim.toNat == k.dim && b2n q.dir == k.dir && q.left.toNat == k.left &&
    (k.kind == 4 || (q.bucket.toNat == k.bucket && q.first == k.first))

/-- The place of a passing packet in its port's plan, and whether it is next. A packet the plan does not list has none. -/
def State.turnOf (s : State) (p : Nat) (k : Packet) : Option (Job × Nat × Bool) :=
  (s.packetJob k).bind fun j =>
    let ch := vcOf k.kind / 2
    ((j.planLeft p ch).find? fun e => planNames e.1 k).map fun e => (j, e.2, (s.nextPlan j p ch).any fun n => n.2 == e.2)

/-- A packet that arrived at port p waits for its turn on the port opposite (R339). -/
def State.waitsTurn (s : State) (p : Nat) (k : Packet) : Bool :=
  decide (0 < k.left) && match s.turnOf (opposite p) k with | some (_, _, next) => !next | none => false

/-- A packet of the job goes on, and the plan with it. -/
def State.passOn (s : State) (p : Nat) (k : Packet) : State :=
  (match s.turnOf (opposite p) k with | some (j, i, _) => s.stepPlan j.jid (opposite p) (vcOf k.kind / 2) i | none => s).forward p k

/-- A delivery to a stopped job is discarded (R366). -/
def State.stoppedDelivery (s : State) (p : Nat) : State := s.cntAdd (cntNelil p 7) 1

/-- A REDUCE packet with its operand goes on or is delivered (R336, R349). -/
def State.reduceWith (s : State) (p : Nat) (j : Job) (b : BSpec) (k : Packet) (o : Operand) : State :=
  let k1 := s.combine j k o
  if 0 < k1.left then s.passOn p k1
  else if s.stoppedToPeers j then s.stoppedDelivery p
  else s.deliverBlocks j p b k1.dim false k1

/-- The operand in the contribution buffer for a packet. -/
def Job.bufferOf (j : Job) (p : Nat) (k : Packet) : Option Operand :=
  j.x.opnds.find? fun o => o.port == p && o.bucket == k.bucket && o.dim == k.dim && o.first == k.first && o.blocks.length == k.nblk

def State.dropOperand (s : State) (jid : U64) (o : Operand) : State := s.updJob jid fun j => { j with x := { j.x with opnds := j.x.opnds.erase o } }

/-- A packet held at the adder of port p. -/
def State.heldAt (s : State) (p : Nat) : Option Packet := (s.port p).held

/-- REDUCE (R336, R349): the head of the EXCHANGE buffer, if it is a REDUCE packet and no packet is held before it. -/
def execReduce (p : Fin 6) (s : State) : Host.Outcome State Fault Refusal :=
  s.ran fun s =>
    match (s.port p.val).headPkt 0, s.heldAt p.val with
    | some k0, none =>
      if k0.kind != 1 then s
      else
        let k := k0.arrive
        match s.packetJob k with
        | none => (s.takePkt p.val k0).stalePacket p.val k
        | some j => match j.spec? k.bucket with
          | none => (s.takePkt p.val k0).stalePacket p.val k
          | some b => match j.bufferOf p.val k with
            | some o => if s.waitsTurn p.val k then s else ((s.takePkt p.val k0).dropOperand j.jid o).reduceWith p.val j b k o
            | none => s.updPort p.val fun q => { q with pkts := q.pkts.erase k0, held := some k }
    | _, _ => s

/-- Bytes of the operands in a port's contribution buffer. -/
def bufferBytes (j : Job) (p : Nat) : Nat :=
  ((j.x.opnds.filter fun o => o.port == p).map fun o => o.blocks.length * (match j.spec? o.bucket with | some b => if j.isGxi b then 1024 else 256 | none => 0)).foldl (· + ·) 0

/-- ADDER_OPERAND_READY (R348): the DMX engines place the operand of the packet held at the port, which then proceeds, or of the REDUCE
packet that waits there, ahead of the adder. -/
def execAdderOperandReady (p : Fin 6) (s : State) : Host.Outcome State Fault Refusal :=
  s.ran fun s =>
    match s.heldAt p.val with
    | some k => match s.packetJob k with
      | none => (s.freeHeld p.val k).stalePacket p.val k
      | some j => match j.spec? k.bucket with
        | none => (s.freeHeld p.val k).stalePacket p.val k
        | some b => match s.operand j p.val b k.dim k.first k.nblk with
          | none => s
          | some a =>
            if s.waitsTurn p.val k then s
            else s.on (whoOf (s.dmxOf j.jid) j) a fun o => ((s.freeHeld p.val k).dmxFlags j.jid o.flags o.ooa).reduceWith p.val j b k o.op
    | none => match (s.port p.val).headPkt 0 with
      | none => s
      | some k => match s.packetJob k with
        | none => s
        | some j => match j.spec? k.bucket with
          | none => s
          | some b =>
            if k.kind != 1 || (j.bufferOf p.val k).isSome || decide (2 ^ 20 < bufferBytes j p.val + k.nblk * (if j.isGxi b then 1024 else 256)) then s
            else match s.operand j p.val b k.dim k.first k.nblk with
              | none => s
              | some a => s.on (whoOf (s.dmxOf j.jid) j) a fun o =>
                  (s.updJob j.jid fun j => { j with x := { j.x with opnds := j.x.opnds ++ [o.op] } }).dmxFlags j.jid o.flags o.ooa

/-- SPREAD (R336, R347): forwarded unchanged, a copy delivered. -/
def execSpread (p : Fin 6) (s : State) : Host.Outcome State Fault Refusal :=
  s.ran fun s =>
    match (s.port p.val).headPkt 0, s.heldAt p.val with
    | some k0, none =>
      if k0.kind != 2 then s
      else
        let k := k0.arrive
        let s1 := s.takePkt p.val k0
        match s.packetJob k with
        | none => s1.stalePacket p.val k
        | some j => match j.spec? k.bucket with
          | none => s1.stalePacket p.val k
          | some b =>
            let s2 := if 0 < k.left then s1.passOn p.val k else s1
            if s.waitsTurn p.val k then s
            else if s.stoppedToPeers j then s2.stoppedDelivery p.val else s2.deliverBlocks j p.val b k.dim true k
    | _, _ => s

/-! ### The Cork exchange (R313, R358 to R361) -/

/-- No unit of the job is in WAIT_FAULT or STOPPED (R313). -/
def State.unitsFit (s : State) (j : Job) : Bool := (s.unitsOf j.jid).all fun x => (s.unit x).wait.code != 6 && (s.unit x).wait.code != 8

/-- No decision at REDUCED calls for a REPEAT: contributor counts under STRAGGLER_POLICY (R354). -/
def Job.countsFit (j : Job) : Bool :=
  j.dims.isEmpty || j.bucketIds.all fun i => match j.bucketHeader i with
    | some h => h.count != 0 && (j.policy != 0 || decide (j.modules ≤ h.count))
    | none => false

/-- The update-complete bit (R313, R318, R356). -/
def State.updateBit (s : State) (j : Job) : Bool :=
  j.updated && !j.x.skip && j.countsFit && !j.x.normLate && !(j.policy == 0 && j.emptySlots.contains j.period) && s.unitsFit j && !j.faulted

/-- The module's own Cork value. -/
def State.corkOwn (s : State) (j : Job) : CorkVal :=
  if s.stoppedToPeers j then { cover := 1, update := false, delivered := false, nf := false, emax := j.layerTab.map fun _ => none }
  else
    { cover := 1, update := s.updateBit j, delivered := j.allDelivered,
      nf := j.bucketIds.any fun i => match j.bucketHeader i with | some h => h.nf | none => false, emax := j.layers.map (·.emax) }

/-- EMAX as 16 bits: NONE is 0x8000. -/
def emaxBits (e : Option Int) : Nat := match e with | some v => unsigned 16 v | none => 0x8000
def emaxOf (n : Nat) : Option Int := if n % 65536 = 0x8000 then none else some (signed 16 n)

def maxEmax (a b : Option Int) : Option Int := match a, b with | none, y => y | x, none => x | some x, some y => some (max x y)

/-- Combine two Cork values (R359). -/
def CorkVal.join (a b : CorkVal) : CorkVal :=
  { cover := a.cover + b.cover, update := a.update && b.update, delivered := a.delivered && b.delivered, nf := a.nf || b.nf,
    emax := (a.emax.zip b.emax).map fun e => maxEmax e.1 e.2 }

/-- The Cork value a packet carries. -/
def corkOfPacket (k : Packet) : CorkVal :=
  { cover := bits k.hdr 112 16, update := bit k.hdr 128, delivered := bit k.hdr 129, nf := bit k.hdr 130,
    emax := (List.range (bits k.hdr 96 13)).map fun l => emaxOf (ofBytes ((k.data.drop (2 * l)).take 2)) }

/-- A Cork value put into a packet's header and body. -/
def corkInto (k : Packet) (c : CorkVal) : Packet :=
  let h := putField (putField (putField k.hdr 96 13 c.emax.length) 112 16 c.cover) 128 3 (b2n c.update + 2 * b2n c.delivered + 4 * b2n c.nf)
  { k with hdr := h, data := c.emax.flatMap fun e => bytesOf 2 (emaxBits e) }

/-- A CORK packet of this module. -/
def State.corkPacket (s : State) (j : Job) (c : CorkVal) (dim dir hops : Nat) : Packet :=
  corkInto { hdr := pack 256 [(0, 4, 4), (8, 2, dim), (10, 1, dir), (11, 5, hops), (16, 15, s.moduleId), (32, 32, j.jid.toNat), (64, 32, j.x.per)], scales := [], data := [], stamp := s.gt } c

/-- The release forms the module's Cork operand once (R358). -/
def State.releaseCork (s : State) (jid : U64) : State :=
  s.withJob jid fun j =>
    if j.x.cork.isSome then s
    else
      let own := s.corkOwn j
      s.updJob jid fun j => { j with x := { j.x with cork := some own, own := some own, corkPhase := 0, result := if j.dims.isEmpty then some own else j.x.result } }

/-- A CORK packet delivered to its side. -/
def State.deliverCork (s : State) (j : Job) (k : Packet) : State :=
  let s1 := (s.tracePacket j.jid (opposite (portOf k.dim k.dir)) k).record j.jid 0x05 [bits k.hdr 0 64, bits k.hdr 64 64, bits k.hdr 128 64, bits k.hdr 192 64, k.stamp, digestOf k.data] k.data
  let side := if k.dir = 0 then j.x.corkPos else j.x.corkNeg
  (s1.updJob j.jid fun j => { j with progress := true }).updJob j.jid fun j =>
    if side.isSome then { j with x := { j.x with corkBad := true } }
    else if k.dir = 0 then { j with x := { j.x with corkPos := some (corkOfPacket k) } }
    else { j with x := { j.x with corkNeg := some (corkOfPacket k) } }

/-- CORK_PACKET (R336, R359): combined and forwarded, or delivered to its side. A packet of a phase this module has not begun waits. -/
def execCorkPacket (p : Fin 6) (s : State) : Host.Outcome State Fault Refusal :=
  s.ran fun s =>
    match (s.port p.val).headPkt 2 with
    | none => s
    | some k0 =>
      if k0.kind != 4 then s
      else
        let k := k0.arrive
        let s1 := s.takePkt p.val k0
        match s.packetJob k with
        | none => s1.stalePacket p.val k
        | some j => match j.x.cork with
          | none => s
          | some c =>
            let ph := (j.dims.findIdx? fun d => d == k.dim).getD 3
            if j.x.corkPhase < ph ∧ ph < 3 then s
            else if ph ≠ j.x.corkPhase then s1.updJob j.jid fun j => { j with x := { j.x with corkBad := true } }
            else if s.waitsTurn p.val k then s
            else if 0 < k.left then s1.passOn p.val (corkInto k ((corkOfPacket k).join c))
            else s1.deliverCork j k

/-- Originate the Cork packets of a phase. -/
def State.corkPhase (s : State) (j : Job) (c : CorkVal) (dim : Nat) : State :=
  let n := torusSize j.bin.report.torus dim
  [0, 1].foldl (fun s dir => if corkHops n dir = 0 then s else s.originate j.jid (portOf dim dir) (s.corkPacket j c dim dir (corkHops n dir))) s

/-- CORK_PHASE_START (R359, R361): the phase result; a wrong COVER leaves none. -/
def execCorkPhaseStart (jid : U64) (s : State) : Host.Outcome State Fault Refusal :=
  s.ran fun s => s.withJob jid fun j =>
    match j.x.cork, j.dims[j.x.corkPhase]? with
    | some c, some d =>
      let n := torusSize j.bin.report.torus d
      let neg := corkHops n 1 != 0
      if j.x.corkBad || j.x.result.isSome || j.x.corkPos.isNone || (neg && j.x.corkNeg.isNone) then s
      else
        let r1 := match j.x.corkPos with | some q => c.join q | none => c
        let r := match j.x.corkNeg with | some q => r1.join q | none => r1
        let want := ((j.dims.take (j.x.corkPhase + 1)).map fun d => torusSize j.bin.report.torus d).foldl (· * ·) 1
        if r.cover ≠ want then s.updJob jid fun j => { j with x := { j.x with corkBad := true } }
        else match j.dims[j.x.corkPhase + 1]? with
          | none => s.updJob jid fun j => { j with x := { j.x with result := some r } }
          | some d2 =>
            (s.updJob jid fun j => { j with x := { j.x with cork := some r, corkPhase := j.x.corkPhase + 1, corkPos := none, corkNeg := none } }).corkPhase j r d2
    | _, _ => s

/-! ### PACKET_ORIGINATE (R339, R345 to R347, R358) -/

/-- GT of its slot. -/
def Job.planSlot (j : Job) (q : PlanPkt) : Nat := (j.base + j.x.per * j.bin.report.stepBeats) * 2250 + q.slot

/-- Its slot has come (R104, R339). -/
def State.planDue (s : State) (j : Job) (q : PlanPkt) : Bool := decide (j.planSlot q ≤ s.gt)

/-- A planned packet that leaves after its slot ends the exact match (R109). -/
def State.leaves (s : State) (j : Job) (q : PlanPkt) : State := if j.planSlot q < s.gt then s.updJob j.jid fun j => { j with isExact := false } else s

/-- The blocks a SPREAD packet carries: the shard reduced last, and what came in all-gather phases before. -/
def Job.gathered (j : Job) (id : Nat) : List Part :=
  (j.bucket id).parts.filter fun q => q.spread || (!q.spread && j.dims.getLast? == some q.dim)

/-- A planned EXCHANGE packet of the module's own, at a place of the plan; none while what it carries is not ready. -/
def State.originateExchange (s : State) (j : Job) (p : Nat) (q : PlanPkt) (at_ : Nat) : State :=
  match j.spec? q.bucket.toNat, s.planHalf j q with
  | some b, some h =>
    let w := whoOf (s.dmxOf j.jid) j
    let n := min (packetCap (j.isGxi b)) (h.hi - q.first)
    let hops := torusSize j.bin.report.torus q.dim.toNat - 1
    let out (f : U16) (ooa : Nat) : State := ((s.leaves j q).dmxFlags j.jid f ooa).stepPlan j.jid p 0 at_
    if q.kind = 1 then
      match s.operand j p b q.dim.toNat q.first n with
      | none => s
      | some a => s.on w a fun o => (out o.flags o.ooa).originate j.jid p (s.exchPacket j b 1 h.dir hops o.op)
    else
      let ps := j.gathered b.id
      if s.stoppedToPeers j || !covered ps q.first n then s
      else
        let hd := headerOf (overlapping ps q.first n)
        s.on w (blocksOf (s.stagedElem w j b) q.first n) fun l =>
          let o : Operand := { port := p, bucket := b.id, dim := q.dim.toNat, first := q.first, blocks := rawBlocks l, count := hd.count, nf := hd.nf,
                               sat := hd.sat, nfMin := hd.nfMin }
          let pk := s.exchPacket j b 2 h.dir hops o
          let s1 := (out (blockFlags l) (blockOoa l)).originate j.jid p pk
          if j.dims.head? == some q.dim.toNat then s1.withJob j.jid fun j1 => s1.deliverBlocks j1 p b q.dim.toNat true pk else s1
  | _, _ => s

/-- PACKET_ORIGINATE: CORK first, as the slots' priority has it; then EXCHANGE. While the packet next in order passes through, the port
waits for it (R339). Later Cork phases start at CORK_PHASE_START. -/
def execPacketOriginate (p : Fin 6) (s : State) : Host.Outcome State Fault Refusal :=
  s.ran fun s =>
    match s.crossJob.orElse fun _ => s.standaloneJob with
    | none => s
    | some j =>
      let due (ch : Nat) : Option (PlanPkt × Nat) := (s.nextPlan j p.val ch).filter fun e => e.1.own && s.planDue j e.1
      match due 1 with
      | some (q, i) =>
        let s1 := (s.stepPlan j.jid p.val 1 i).releaseCork j.jid
        let n := torusSize j.bin.report.torus q.dim.toNat
        if j.dims.head? != some q.dim.toNat || corkHops n (b2n q.dir) == 0 then s1
        else s1.withJob j.jid fun j1 => match j1.x.cork with
          | some c => (s1.leaves j1 q).originate j.jid p.val (s1.corkPacket j1 c q.dim.toNat (b2n q.dir) (corkHops n (b2n q.dir)))
          | none => s1
      | none => match due 0 with
        | some (q, i) => s.originateExchange j p.val q i
        | none => s

/-! ### Late contributions (R353, R355) -/

/-- A command still to end that writes a descriptor. -/
def State.unfinished (s : State) (jid : U64) (td : Nat) : Bool :=
  (s.unitsOf jid).any fun x => let u := s.unit x; ((u.cmds.drop u.idx).zipIdx).any fun c => c.1.writes.contains td && !(c.2 == 0 && u.endSent)

/-- A reconfiguration of this period that has not switched yet brings such a command. -/
def State.toCome (s : State) (j : Job) (td : Nat) : Bool :=
  j.bin.reconfs.any fun r => (s.recfgs.any (fun q => q.jid == j.jid && q.rc.mark == r.mark && !q.switched) ||
      s.marks.any fun m => m.jid == j.jid && m.period == j.period && m.decl.id == r.mark) &&
    r.units.any fun u => u.cmds.any fun c => c.writes.contains td

/-- A bucket's SRC_TD is complete. -/
def State.srcComplete (s : State) (j : Job) (b : BSpec) : Bool := !(s.unfinished j.jid b.src) && !(s.toCome j b.src)

/-- The decision at a bucket's CONTRIB mark (R353 to R355). -/
def State.contribDecision (s : State) (jid : U64) (id : Nat) : State :=
  s.withJob jid fun j => match j.spec? id with
    | none => s
    | some b =>
      let found := s.stoppedToPeers j || !s.srcComplete j b
      let late := match s.replayed jid 6 [id] with | some e => e.words.getD 1 0 == 1 | none => found
      let st := j.bucket id
      let lost := st.owes && j.policy == 1
      let s1 := s.updJob jid fun j =>
        { (j.setBucket id fun q => { q with decided := true, late := late, owes := late, added := false, fold := if late then 0 else q.carry }) with
          lateContrib := j.lateContrib + b2n late, carryLost := j.carryLost + b2n lost }
      s1.record jid 0x06 [id, b2n late] []

/-- One element of a carry: its number, the sum, the clamped accesses of reading and of storing it. The first contribution is added to +0. -/
def State.carrySum (s : State) (w : Who) (sv cv : View) (fresh : Bool) (n : Nat) : Acc (Nat × FW × Nat) :=
  (s.nthElem w sv n).bind fun r => (if fresh then Acc.ok Rd.zero else s.nthElem w cv n).map fun c =>
    (n, fAdd (widen cv.fmt c) (widen sv.fmt r), r.ooa + c.ooa + cv.nthClamps n)

/-- CARRY_ADD (R355): SRC_TD is added into CARRY_TD, the first contribution onto +0. -/
def execCarryAdd (jid : U64) (bucket : Nat) (s : State) : Host.Outcome State Fault Refusal :=
  s.ran fun s => s.withJob jid fun j =>
    match j.spec? bucket with
    | none => s
    | some b =>
      let st := j.bucket bucket
      if j.phase != .running || b.norm || j.policy != 1 || !st.owes || !s.srcComplete j b then s
      else match bankView j.bin false b.src, bankView j.bin false b.carryTd with
        | some sv, some cv =>
          let w := whoOf (s.dmxOf jid) j
          s.on w (accAll (s.carrySum w sv cv (st.carry == 0)) (List.range (b.num * 256))) fun es =>
            s.on w (s.storeView w cv (es.flatMap fun e => cv.nthStores e.1 e.2.1.1)) fun s1 =>
              (s1.dmxFlags jid (es.foldl (fun f e => f ||| e.2.1.2) 0) ((es.map fun e => e.2.2).foldl (· + ·) 0)).updJob jid fun j =>
                { (j.setBucket bucket fun q => { q with owes := false, added := true, carry := q.carry + 1, carryC := j.layers.map (·.c) }) with progress := true }
        | _, _ => s

/-! ### Halo packets (R164, R363) -/

/-- A link die, or another unit of the module, SIGNALs a sync object for a job. -/
def State.moduleSignal (s : State) (j : Job) (die : Nat) (sid : U16) : State :=
  let o := s.sync sid.toNat
  if !s.dieAnswers (syncHome sid) then s.unavailable j.jid
  else if !o.armed then s.jobFault j.jid 0x14 3 die true 0 0
  else s.putValue sid (o.fetchAdd 1).1

/-- Bytes of a halo region as masked stores: those inside the allocation as they are; an element that reaches outside it lands on the last
element inside (R156). -/
def View.haloStores (v : View) (a : Nat) (l : List Byte) : MStores :=
  let skip := ((8 * ((v.org : Int) - a)) % (v.width : Int)).toNat
  let out : MStores := (List.range ((8 * l.length - skip) / max 1 v.width)).flatMap fun i =>
    let o := skip + v.width * i
    match v.clamp ((8 * a + o : Nat) : Int) with
    | (some q, true) => bitStores q v.width (ofBytes l / 2 ^ o)
    | _ => []
  (l.zipIdx.filterMap fun e => if v.base ≤ a + e.2 ∧ a + e.2 < v.base + v.limit then some (a + e.2, (0xFF : Byte), e.1) else none) ++ out

/-- A HALO packet delivered into its handle's region, with a SIGNAL on FINAL; a bad handle or range is discarded. -/
def State.deliverHalo (s : State) (j : Job) (p : Nat) (k : Packet) : State :=
  let off := bits k.hdr 128 32
  let len := bits k.hdr 160 16
  let bad : State := s.jobFault j.jid 0x15 3 (28 + p % 2) true 0 0
  match j.bin.exch.bind fun x => x.halo.find? fun h => h.handle.toNat == bits k.hdr 96 16 with
  | none => bad
  | some h =>
    if h.len < off + len then bad
    else match bankView j.bin false h.td with
      | none => bad
      | some v =>
        s.delivered j p (s.storeView (linkWho j p) v (v.haloStores (v.base + h.off + off) (k.data.take len))) fun s2 =>
          let s3 := ((s2.updJob j.jid fun j => { j with progress := true }).tracePacket j.jid p k).record j.jid 0x05
            [bits k.hdr 0 64, bits k.hdr 64 64, bits k.hdr 128 64, bits k.hdr 192 64, k.stamp, digestOf k.data] k.data
          if bit k.hdr 176 then s3.moduleSignal j (28 + p % 2) h.sid else s3

/-- HALO (R336, R363). -/
def execHalo (p : Fin 6) (s : State) : Host.Outcome State Fault Refusal :=
  s.ran fun s =>
    match (s.port p.val).headPkt 1 with
    | none => s
    | some k0 =>
      let k := k0.arrive
      let s1 := s.takePkt p.val k0
      match s.packetJob k with
      | none => s1.stalePacket p.val k
      | some j =>
        if 0 < k.left then s1.forward p.val k
        else if s.stoppedToPeers j then s1.stoppedDelivery p.val
        else s1.deliverHalo j p.val k

/-- LINK_DOWN (R365): forwarded toward its source, which notes that its packet was not delivered. -/
def execLinkDown (p : Fin 6) (s : State) : Host.Outcome State Fault Refusal :=
  s.ran fun s =>
    match (s.port p.val).headPkt 2 with
    | none => s
    | some k0 =>
      if k0.kind != 5 then s
      else
        let k := k0.arrive
        let s1 := s.takePkt p.val k0
        match s.packetJob k with
        | none => s1.stalePacket p.val k
        | some j => if 0 < k.left then s1.forward p.val k else s1.noteDown j.jid

/-- Bits of elements packed from bit 0 upward, as bytes. -/
def packElems (w : Nat) (l : List Nat) : List Byte := bytesOf (ceilDiv (w * l.length) 8) (l.foldr (fun e acc => e + 2 ^ w * acc) 0)

/-- HALO packets of a run of bytes. -/
def State.haloPackets (s : State) (j : Job) (port : Nat) (handle : U16) (hops : BitVec 5) (off : Nat) : Nat → List Byte → State
  | 0, _ => s
  | n + 1, b =>
    let c := b.take 15360
    let pk : Packet := {
      hdr := pack 256 [(0, 4, 3), (8, 2, port / 2), (10, 1, port % 2), (11, 5, hops.toNat), (16, 15, s.moduleId), (32, 32, j.jid.toNat), (64, 32, j.x.per),
        (96, 16, handle.toNat), (128, 32, off), (160, 16, c.length), (176, 1, b2n (n == 0))], scales := [], data := c, stamp := s.gt }
    State.haloPackets (s.originate j.jid port pk) j port handle hops (off + 15360) n (b.drop 15360)

/-- HXU_COMMAND (R164): the region goes to a tensor of this module, with a SIGNAL after its last byte, or to a peer as HALO packets. -/
def execHxuCommand (die : Fin 24) (s : State) : Host.Outcome State Fault Refusal :=
  let x := die.val * 16 + 14
  s.ran fun s => s.unitWorks x fun j c =>
    match c.body with
    | .hxu src reg dest =>
      let u := s.unit x
      if u.prog = 0 then s
      else match viewOf j.bin c u src with
        | none => s
        | some sv =>
          match dest with
          | .onModule td dr sid =>
            (match viewOf j.bin c u td with
              | none => s
              | some dv =>
                let n := u.prog - 1
                let r := s.moveFrom x (whoOf x j) sv dv (fun i q => rawConv s sv dv (i - n) q) 2 1 n ((regionPairs reg dr).drop n)
                let done := (r.1.unit x).prog - 1
                let s1 := r.1.updUnit x fun v => if v.job.isSome then v.count 0 (moved sv.width done - moved sv.width n) else v
                if r.2 then s1.moverDone x (whoOf x j) c sv reg (some (dv, dr)) fun s => (s.updUnit x fun v => (v.count 1 1).count 2 1).doSignal x sid 1 else s1)
          | .peer port handle off hops =>
            let w := whoOf x j
            s.on w (accAll (fun i => s.readElem w sv i) (boxIdx reg.org reg.ext)) fun es =>
              let bytes := packElems sv.width (es.map fun e => if e.pad then 0 else e.raw)
              let n := ceilDiv bytes.length 15360
              let ooa := (es.map (·.ooa)).foldl (· + ·) 0
              let s1 := (s.updUnit x fun v => (v.count 0 bytes.length).count 1 n).countOoa x ooa
              (s1.haloPackets j port.val handle hops off.toNat n bytes).workDone x
    | _ => s

end Sys2Proof.Machine
end

