-- ==== Sys2Proof/Machine/Marks.lean ====
section
/-! DEFINITION. Marks taking effect, reconfigurations, ingest windows, the Cork decision, the end of a period and of a job
(R70 to R74, R97 to R101, R191, R266, R281 to R285, R293, R313 to R320, R352 to R356, R360, R423 to R425). -/

namespace Sys2Proof.Machine

/-! ### Order of marks -/

/-- Marks of one cycle take effect together (R98); their effects are worked out in this order, contributions first, the Cork
before the step's end, a closing window before an opening one. -/
def roleRank : MarkRole → Nat
  | .contrib _ => 0
  | .gather => 1
  | .reduced => 2
  | .normed => 3
  | .corkRelease => 4
  | .cork => 5
  | .stepEnd => 6
  | .ingestClose => 7
  | .ingestOpen => 8
  | .fwdStart => 9
  | .release _ => 10
  | .endMark => 11
  | .other => 12

def markBefore (a b : MarkSt) : Bool := decide (a.gt < b.gt) || (a.gt == b.gt && decide (roleRank a.decl.role ≤ roleRank b.decl.role))

def insertMark (m : MarkSt) : List MarkSt → List MarkSt
  | [] => [m]
  | k :: t => if markBefore k m then k :: insertMark m t else m :: k :: t

def sortMarks (l : List MarkSt) : List MarkSt := l.foldl (fun a m => insertMark m a) []

/-! ### Reconfigurations (R70 to R74) -/

/-- Tokens of a queue on the channels. -/
def State.inFlight (s : State) (k : Nat) : Nat := ((s.chans.flatMap fun c => c.2).filter fun f => f.q == k).length

/-- Every affected queue is empty, and no token or credit of it travels (R71). -/
def State.drained (s : State) (r : Reconf) : Bool :=
  (rcKeys r).all fun k => (s.queue k).toks.isEmpty && (s.queue k).credBack == 0 && s.inFlight k == 0

/-- An affected queue takes its new QCFG word, empty. Credits of discarded tokens travel back to their producer; the producer holds
the depth less what travels and what it has taken for tokens it still owes (R58, R72, R73). -/
def State.switchQueue (s : State) (q : QDecl) : State :=
  let k := queueKey q.die.val q.qid.val
  let o := s.queue k
  let back := o.credBack + o.toks.length
  let n : QueueSt := { o with cfg := q.qcfg &&& qcfgMask, toks := [], head := 0, tail := 0, credBack := back }
  let s1 := s.setQueue k n
  if n.en then
    s1.updUnit n.producer fun u =>
      { u with ocredit := setAt u.ocredit n.prodPort (BitVec.ofNat 13 (n.depth - back - s.inFlight k - (u.owed.filter fun p => p == n.prodPort).length)) }
  else s1

/-- An affected unit takes its new commands and the next epoch (R73). -/
def State.switchUnit (s : State) (jid : U64) (period late : Nat) (mark : BitVec 12) (flushed : Nat) (p : UnitProg) : State :=
  let x := p.x.addr
  let s1 := s.loadUnit jid p (decide ((s.unit x).job ≠ some jid)) period
  let s2 := s1.updUnit x fun u => { u with epoch := u.epoch + 1, drainLate := satAdd u.drainLate late }
  s2.traceEv (x / 16) 0x07 4 jid x 0 [(16, 2, mark.toNat), (18, 1, (s2.unit x).epoch.toNat), (20, 4, flushed)]

/-- The switch of a reconfiguration: queues, units, the DCUs' counts; a late one is a schedule error (R71, R112). -/
def State.switch (s : State) (r : RecfgSt) : State :=
  let late := s.gt - r.passed
  let held := ((rcKeys r.rc).map fun k => (s.queue k).toks.length).foldl (· + ·) 0
  let s1 := r.rc.units.foldl (fun s p => s.switchUnit r.jid r.period late r.rc.mark held p) s
  let s2 := r.rc.queues.foldl (fun s q => s.switchQueue q) s1
  let s3 := ((rcUnits r.rc).map fun x => x / 16).eraseDups.foldl (fun (s : State) d => s.updUnit (d * 16 + 15) fun u => u.count 2 1) s2
  let s4 : State := { s3 with recfgs := s3.recfgs.map fun q => if q.jid == r.jid && q.rc.mark == r.rc.mark && q.period == r.period then { q with switched := true } else q }
  (if late = 0 then s4 else s4.updJob r.jid Job.scheduleError).closeReconfs

/-- The reconfigurations a mark starts: a FLUSH switches in the mark's cycle, a DRAIN once its queues are empty. -/
def State.startReconfs (s : State) (j : Job) (m : MarkSt) : State :=
  (j.bin.reconfs.filter fun r => r.mark == m.decl.id).foldl (fun s rc =>
    let r : RecfgSt := { jid := j.jid, rc := rc, period := m.period, passed := s.gt, switched := false, units := [], tokens := 0 }
    let s1 : State := { s with recfgs := s.recfgs ++ [r] }
    if rc.flush || s1.drained rc then s1.switch r else s1) s

/-- RECONFIG_DRAIN (R71): every DRAIN reconfiguration whose mark has passed and whose queues are empty switches. -/
def execReconfigDrain (s : State) : Host.Outcome State Fault Refusal :=
  s.ran fun s =>
    s.recfgs.foldl (fun s r =>
      match s.job? r.jid with
      | some j => if !r.switched && (j.phase == .running || j.phase == .dumping) && s.drained r.rc then s.switch r else s
      | none => s) s

/-! ### Ingest windows (R100, R101, R285, R321, R356) -/

/-- Where a stamp falls (R101): inside window p, late for window p, the last one closed by then, or before the first opens. -/
inductive Stamped where
  | inside (p : Nat)
  | late (p : Nat)
  | before
deriving DecidableEq, Repr

/-- The window of a stamp, [open, close) of some period: the stamp alone decides (R101, R102). -/
def Job.stamped (j : Job) (t : Nat) : Stamped :=
  match j.markOf .ingestOpen, j.markOf .ingestClose with
  | some o, some c =>
    let first := markGt j o 0
    let len := if o.step then j.bin.report.stepBeats * 2250 else 0
    if t < first then .before
    else
      let p := if len = 0 then 0 else min ((t - first) / len) (j.periods - 1)
      if t < markGt j c p then .inside p else .late p
  | _, _ => .before

/-- A sample or query carries its stamp and lies at its place; the job keeps its window and, for a query, the bank active
now. Late samples are kept under CARRY only. -/
def State.ingestItem (s : State) (j : Job) (port stamp : Nat) (query : Bool) (dva : Nat) (data : List Byte) : State :=
  let s1 := s.storeQuiet j.ctx.val dva data
  let w := j.stamped stamp
  let p := match w with | .inside p => p | .late p => p | .before => 0
  let slot := (j.ingest.filter fun i => i.query == query && !i.late && (query || i.window == p)).length
  let s2 := s1.record j.jid 0x03 [port, slot, b2n query, data.length, (gtWord stamp).toNat, digestOf data, dva] data
  let item : Ingest := { stamp := stamp, query := query, dva := dva, data := data, window := p, late := false, bank := j.active }
  s2.updJob j.jid fun j =>
    if query then { j with ingest := j.ingest ++ [item] }
    else match w with
      | .inside _ => { j with ingest := j.ingest ++ [item] }
      | .before => j
      | .late _ =>
        if j.policy = 1 then { j with ingest := j.ingest ++ [{ item with late := true }], lateSamples := j.lateSamples + 1 }
        else { j with lateSamples := j.lateSamples + 1, droppedSamples := j.droppedSamples + 1 }

/-- INGEST_ARRIVAL (R100, R321, R356): the last byte reached the pin in this cycle. -/
def execIngestArrival (jid : U64) (port : Fin 2) (query : Bool) (dva : BitVec 57) (data : List Byte) (s : State) : Host.Outcome State Fault Refusal :=
  s.ran fun s => s.withJob jid fun j =>
    if (s.hpAt port.val).link != 2 then s
    else (s.cntAdd (cntHost port.val 0) data.length).ingestItem j port.val s.gt query dva.toNat data

/-- INGEST_OPEN. -/
def Job.openWindow (j : Job) (p : Nat) : Job := { j with windowOpen := true, window := p }

/-- INGEST_CLOSE: late samples of earlier windows fill the slots left empty, in order of stamp; the others are dropped (R356). One that
missed this very window stays for the next. -/
def Job.closeWindow (j : Job) (p : Nat) : Job :=
  let here := (j.ingest.filter fun i => !i.query && !i.late && i.window == p).length
  let late := j.ingest.filter fun i => !i.query && i.late && decide (i.window < p)
  let free := j.bin.report.samples - here
  let taken := late.take free
  { j with
    windowOpen := false
    ingest := (j.ingest.filter fun i => i.query || !i.late || decide (p ≤ i.window)) ++ taken.map fun i => { i with late := false, window := p }
    carriedSamples := j.carriedSamples + taken.length
    droppedSamples := j.droppedSamples + (late.length - taken.length)
    emptySlots := if here + taken.length < j.bin.report.samples then j.emptySlots ++ [p] else j.emptySlots }

/-- A window closed with its row masks; a replay takes whether a slot is empty from its recording (R464). -/
def State.closeWindow (s : State) (j : Job) (p : Nat) : State :=
  let k0 := j.closeWindow p
  let k := match s.replayed j.jid 6 [65536 + p] with
    | some e => { k0 with emptySlots := if e.words.getD 1 0 = 1 then (if k0.emptySlots.contains p then k0.emptySlots else k0.emptySlots ++ [p]) else k0.emptySlots.filter (· != p) }
    | none => k0
  let here := k.ingest.filter fun i => !i.query && i.window == p
  (s.updJob j.jid fun _ => k).record j.jid 0x06 [65536 + p, b2n (k.emptySlots.contains p), here.length] []

/-! ### REDUCED (R318) -/

/-- Delivered buckets whose header carries NF. -/
def Job.flagged (j : Job) : List Nat :=
  j.bucketIds.filter fun i => match j.spec? i with
    | some b => j.delivered b && (match j.bucketHeader i with | some h => h.nf | none => false)
    | none => false

def State.nfDecision (s : State) (j : Job) : State :=
  match j.flagged with
  | [] => s
  | b :: t =>
    let least := (b :: t).foldl (fun m i => match j.bucketHeader i with | some h => min m h.nfMin | none => m) 0xFFFF
    let s1 := s.event j.ctx.val 0x02 j.jid [(16, 4, j.s), (20, 2, least), (22, 2, b), (24, 4, j.period)]
    if updPolicy j.header = 0 then s1.updJob j.jid fun j => { j with x := { j.x with skip := true } }
    else if updPolicy j.header = 2 then s1.jobFault j.jid 0x16 3 30 true 0 0
    else s1

/-! ### CORK (R293, R313 to R320, R352, R355, R360) -/

/-- The period's outcome from the result held at CORK (R360). `own` is the module's own value at its release. -/
def Job.outcomeOf (j : Job) (r own : CorkVal) : PeriodOutcome :=
  if !r.delivered then .repeat_ (if own.delivered then 4 else 1)
  else if r.nf && updPolicy j.header == 0 then .skip
  else if r.update then .commit
  else .repeat_ (if own.update || !j.countsFit || (j.policy == 0 && j.emptySlots.contains j.period) then 4 else 1)

/-- R293 for one layer. -/
def LayerSt.rescale (l : LayerSt) (gmax : Int) (e : Option Int) : LayerSt :=
  { l with
    cPrev := l.c
    sysEmax := e
    c := match e with | some m => clampInt (-64) 64 (l.c + (gmax - 2 - m)) | none => l.c }

def Job.rescale (j : Job) (r : CorkVal) : Job :=
  { j with layers := j.layers.zipIdx.map fun l => l.1.rescale (gradEmax (j.layerTab.getD l.2 0)) (r.emax.getD l.2 none) }

/-- R320 for one layer. -/
def LayerSt.countQuiet (l : LayerSt) : LayerSt := { l with quietRun := if l.quiet then min (l.quietRun + 1) 65535 else 0 }

/-- LAYER_QUIET for each layer whose run reached a multiple of the limit in this cycle. -/
def State.quietEvents (s : State) (j : Job) : State :=
  let lim := updQuietLimit j.header
  j.layers.zipIdx.foldl (fun s l =>
    if l.1.quiet && lim != 0 && l.1.quietRun % lim == 0 && l.1.quietRun != 0 then
      s.event j.ctx.val 0x01 j.jid [(16, 2, l.2), (18, 2, l.1.quietRun), (20, 4, l.1.gzero), (24, 4, l.1.lost), (28, 4, l.1.flushed)]
    else s) s

/-- Buckets whose header has SAT: an event each, and an AUTO bucket runs in GXI from the next period (R352). -/
def State.saturated (s : State) (j : Job) : State :=
  j.bucketIds.foldl (fun s i =>
    match j.spec? i, j.bucketHeader i with
    | some b, some h =>
      if h.sat && b.mode != 1 then
        let s1 := s.event j.ctx.val 0x03 j.jid [(16, 2, i), (18, 1, b2n (b.mode == 2 && !j.isGxi b)), (20, 4, j.period)]
        if b.mode = 2 then s1.updJob j.jid fun j => j.setBucket i fun q => { q with gxi := true } else s1
      else s
    | _, _ => s) s

/-- What becomes of carried contributions (R355). -/
def BucketSt.settle (b : BucketSt) (went : Bool) : BucketSt :=
  if went then (if b.fold = 0 then b else { b with carry := 0 })
  else if b.added then { b with carry := 0 } else b

def Job.settle (j : Job) (went : Bool) : Job := { j with x := { j.x with buckets := j.x.buckets.map fun b => b.settle went } }

/-- Bytes a label's field writes: SSTEP and JOB_ID of the active bank's label. -/
def State.stampLabel (s : State) (j : Job) : State :=
  let a := updLabel j.header j.active
  (s.storeQuiet j.ctx.val (a + 16) (bytesOf 8 j.jid.toNat)).storeQuiet j.ctx.val (a + 32) (bytesOf 8 (j.s + 1))

/-- The CORK cycle with a result (R314, R315, R293, R320, R352). -/
def State.corkOutcome (s : State) (j : Job) (r own : CorkVal) (gt : Nat) : State :=
  let s0 := if r.delivered then s.saturated j else s
  match j.outcomeOf r own with
  | .commit =>
    let new := !j.active
    let s1 := s0.storeQuiet j.ctx.val (updLabel j.header new) (labelBytes (j.gstep.toNat + 1) 3 j.jid (gtWord gt).toNat (j.s + 1))
    let s2 := s1.updJob j.jid fun j =>
      { ((j.rescale r).settle true) with active := new, gstep := j.gstep + 1, outcome := .commit, layers := ((j.rescale r).layers.map LayerSt.countQuiet) }
    s2.withJob j.jid fun j1 => s2.quietEvents j1
  | .skip => (s0.stampLabel j).updJob j.jid fun j => { ((j.rescale r).settle true) with outcome := .skip }
  | .repeat_ k => s0.updJob j.jid fun j => { ((j.settle false).reason k) with outcome := .repeat_ k }
  | .none => s0

/-- The result a module holds at CORK: of a job without cross-module marks, its own bit (R317); of a replay, the recorded one (R464). -/
def State.heldResult (s : State) (j : Job) : Option CorkVal :=
  match s.replayed j.jid 7 [] with
  | some e => some { cover := e.words.getD 0 0, update := e.words.getD 1 0 == 1, delivered := e.words.getD 2 0 == 1, nf := e.words.getD 3 0 == 1,
                     emax := (e.words.drop 5).map emaxOf }
  | none =>
    if !j.cross then some (j.x.cork.getD (s.corkOwn j))
    else if j.x.linkDown || j.x.corkBad then none
    else j.x.result

def outcomeCode : PeriodOutcome → Nat
  | .none => 0 | .commit => 1 | .skip => 2 | .repeat_ _ => 3

/-- CORK (R316, R360). -/
def State.cork (s : State) (j : Job) (gt : Nat) : State :=
  if j.bin.update.isNone then s
  else match s.heldResult j with
    | none => s.abortJob j.jid 0xA
    | some r =>
      let own := j.x.own.getD (s.corkOwn j)
      let o := j.outcomeOf r own
      let s1 := s.record j.jid 0x07 ([r.cover, b2n r.update, b2n r.delivered, b2n r.nf, outcomeCode o] ++ r.emax.map emaxBits) []
      s1.corkOutcome j r own gt

/-! ### Replays compared (R465, R466) -/

/-- Entries of a kind in a step. -/
def RecSt.inStep (r : RecSt) (kind k : Nat) : List RecEntry := r.entries.filter fun e => e.kind == kind && e.s == k

/-- The first place where two lists of entries differ in a word: (kind, unit, tensor, tile, expected, got). -/
def firstDiff (word : Nat) : List RecEntry → List RecEntry → Option (RecEntry × RecEntry)
  | e :: t, g :: u => if e.words.getD word 0 = g.words.getD word 0 then firstDiff word t u else some (e, g)
  | _, _ => none

/-- The divergence of one unit's tiles. -/
def unitDiff (want got : List RecEntry) (u : Nat) : Option (Nat × Nat × List Nat) :=
  let a := want.filter fun e => e.words.getD 0 0 == u
  let b := got.filter fun e => e.words.getD 0 0 == u
  match firstDiff 4 a b with
  | some (e, g) => some (2, u, [e.words.getD 2 0, e.words.getD 3 0, e.words.getD 4 0, g.words.getD 4 0])
  | none => if a.length = b.length then none else some (5, u, [0, 0, 0, 0])

/-- The first divergence of a step: inputs that differ or are missing, tiles by unit, outbound packets. -/
def stepDiff (q r : RecSt) (k : Nat) : Option (Nat × Nat × List Nat) :=
  let inputs : Option (Nat × Nat × List Nat) := [(3, 5), (5, 5), (2, 2)].findSome? fun c =>
    match firstDiff c.2 (q.inStep c.1 k) (r.inStep c.1 k) with
    | some (e, g) => some (if c.1 = 2 then 1 else 4, 0, [0, 0, e.words.getD c.2 0, g.words.getD c.2 0])
    | none => if (r.inStep c.1 k).length < (q.inStep c.1 k).length then some (if c.1 = 2 then 1 else 4, 0, [0, 0, 0, 0]) else none
  inputs.orElse fun _ => ((List.range 512).findSome? fun u => unitDiff (q.inStep 8 k) (r.inStep 8 k) u).orElse fun _ =>
    match firstDiff 4 (q.inStep 9 k) (r.inStep 9 k) with
    | some (e, g) => some (3, 0, [0, 0, e.words.getD 4 0, g.words.getD 4 0])
    | none => none

/-- The replay report after a step. -/
def RecSt.compared (r q : RecSt) (k period : Nat) : RecSt :=
  match stepDiff q r k with
  | none => r
  | some d =>
    if r.status != 0 then { r with diverged := r.diverged + 1 }
    else { r with status := if d.1 = 4 ∨ d.1 = 1 then 3 else 2, kind := d.1, divUnit := d.2.1, firstS := k, pi := period, diverged := 1, div := d.2.2 }

/-- The recording a replay runs from. -/
def State.recordingOf (s : State) (r : RecSt) : Option RecSt := s.obs.recs.find? fun q => q.replayOf.isNone && some q.jid == r.replayOf && q.ctx == r.ctx

/-- Compare the step a replaying job has ended with its recording. -/
def State.compareStep (s : State) (j : Job) : State :=
  s.setObs { s.obs with
    recs := s.obs.recs.map fun r =>
    if r.jid == j.jid && r.replayOf.isSome && r.state == 0 then (match s.recordingOf r with | some q => r.compared q j.s j.period | none => r) else r }

/-! ### The end of a job (R104, R109, R112, R283, R423 to R425) -/

/-- The promised end of a GUARANTEED job, the DEADLINE of another; none where it asked for none. In cycles. -/
def Job.limit (j : Job) : Option Nat :=
  if j.guaranteed then some (j.endBeat * 2250)
  else if bits j.desc 432 48 = 0 then none else some (bits j.desc 432 48 * 2250)

/-- The first reason that contributed (R425). -/
def Job.firstReason (j : Job) : Option Nat := [1, 5, 3, 4, 2].find? fun k => bit j.reasons k

/-- A job completes: on time, or late with its reason. -/
def State.completeJob (s : State) (jid : U64) : State :=
  s.withJob jid fun j =>
    let late := match j.limit with | some l => ceilDiv (s.gt - l) 2250 | none => 0
    if late = 0 && !bit j.reasons 0 then s.finish j 0 0 0
    else match j.firstReason with
      | some k => s.finish j 1 k late
      | none => if j.guaranteed then s.finish j 1 1 late else s.finish j 9 0 late

/-- Every command of the job's units has ended and nothing brings more. -/
def State.unitsDone (s : State) (j : Job) : Bool :=
  (s.unitsOf j.jid).all (fun x => decide ((s.unit x).cmds.length ≤ (s.unit x).idx)) && !(s.recfgs.any fun r => r.jid == j.jid && !r.switched) &&
    !(s.marks.any fun m => m.jid == j.jid && j.bin.reconfs.any fun r => r.mark == m.decl.id)

/-- The planned end mark is still to come. -/
def State.endPending (s : State) (jid : U64) : Bool := s.marks.any fun m => m.jid == jid && m.decl.role == .endMark

/-- JOB_END (R423): the work is done and the planned end mark has passed. A training job ends at a STEP_END. -/
def execJobEnd (jid : U64) (s : State) : Host.Outcome State Fault Refusal :=
  s.ran fun s => s.withJob jid fun j =>
    if j.phase != .running || j.bin.update.isSome || !s.unitsDone j || s.endPending jid then s else (s.compareStep j).completeJob jid

/-! ### STEP_END (R283 to R285) -/

/-- STEP_DIGEST: tile digests since the last STEP entry by unit address, then production order (R460). -/
def RecSt.stepDigest (r : RecSt) : Nat :=
  let tiles := (r.entries.reverse.takeWhile fun e => e.kind != 0x0A).reverse.filter fun e => e.kind == 0x08
  digestOf ((List.range 512).flatMap fun u => (tiles.filter fun e => e.words.getD 0 0 == u).flatMap fun e => bytesOf 8 (e.words.getD 4 0))

def State.recordStep (s : State) (j : Job) : State :=
  match s.obs.recs.find? fun r => r.jid == j.jid && r.state == 0 with
  | some r => (s.record j.jid 0x0A [j.period, outcomeCode j.outcome, r.stepDigest] []).compareStep j
  | none => s

/-- The next period begins: its state, the marks of the one after it, samples of the last one gone. -/
def State.nextPeriod (s : State) (j : Job) : State :=
  let j1 := { j.newPeriod (j.period + 1) with ingest := j.ingest.filter fun i => i.query || i.late || decide (j.period < i.window) }
  (s.updJob j.jid fun _ => j1).addMarks j1 (j.period + 2)

def State.stepEnd (s : State) (j : Job) : State :=
  let s1 := s.recordStep j
  if j.bin.update.isNone then s1.nextPeriod { j with s := j.s + 1 }
  else
    let went := j.outcome == .commit || j.outcome == .skip
    let s2 := match j.outcome with
      | .skip => s1.stepRecord j 8 0 j.period
      | .repeat_ k => s1.stepRecord j 7 k j.period
      | _ => s1
    let j1 := if went then { j with s := j.s + 1, commits := j.commits + 1 } else j
    if went && decide (j.bin.report.steps ≤ j1.commits) then (s2.updJob j.jid fun _ => j1).completeJob j.jid
    else if j.periods ≤ j.period + 1 then s2.finish j1 7 0 0
    else s2.nextPeriod j1

/-! ### MARK_TAKE_EFFECT (R97, R98) -/

/-- REARM (R266): declared objects of the mark take their initial values. -/
def State.rearm (s : State) (j : Job) (m : MarkSt) : State :=
  (j.bin.syncs.filter fun d => d.rearm == some m.decl.id).foldl (fun s d => if s.dieAnswers (syncHome d.sid) then s.putValue d.sid d.value else s) s

/-- Live Decants bound to the mark (R191). -/
def State.liveMarks (s : State) (j : Job) (m : MarkSt) : State :=
  (s.unitsOf j.jid).foldl (fun s x => match (s.unit x).cmd? with
    | some c => (match c.body with
      | .mxe _ _ b => if b.liveMarks.contains m.decl.id then s.askDecant x m.decl.id else s
      | _ => s)
    | none => s) s

/-- The unit stands at the point this mark gates (R540). -/
def State.standsAt (s : State) (x : Nat) (m : MarkSt) : Bool :=
  let u := s.unit x
  match u.cmd? with
  | some c => u.started && !u.done && u.reads.isEmpty && u.prog == 0 && u.wait.code == 2 && !(s.recfgs.any fun r => !r.switched && (rcUnits r.rc).contains x) &&
      c.gates.any fun g => g.mark == m.decl.id && innerZero c u g.level && !u.gated.contains g.mark
  | none => false

/-- Units that wait for the mark have reached it in time (R97, R99); the DCUs that hold the mark count it. -/
def State.reachMark (s : State) (j : Job) (m : MarkSt) : State :=
  let s1 := (s.unitsOf j.jid).foldl (fun (s : State) x => if s.standsAt x m then
      (s.updUnit x fun u => { u with gated := u.gated ++ [m.decl.id], passed := u.passed ++ [m.decl.id] }).traceEv (x / 16) 0x04 2 j.jid x
        (s.unit x).liveTag [(16, 2, m.decl.id.toNat), (20, 4, 0)] else s) s
  ((m.dies.map (·.1)).foldl (fun (s : State) d => s.updUnit (d * 16 + 15) fun u => u.count 0 1) s1).jobTrigger j.jid 2 (some m.decl.id.toNat)

/-- What a mark stands for. -/
def State.roleEffect (s : State) (j : Job) (m : MarkSt) : State :=
  match m.decl.role with
  | .contrib b => s.contribDecision j.jid b
  | .gather => s.updJob j.jid fun j => { j with x := { j.x with gathered := true } }
  | .reduced => s.nfDecision j
  | .normed => if j.bin.exch.isSome && !j.dims.isEmpty && !(match j.spec? 4095 with | some b => j.delivered b | none => true) then
      s.updJob j.jid fun j => { j with x := { j.x with normLate := true } } else s
  | .corkRelease => s.releaseCork j.jid
  | .cork => s.cork j m.gt
  | .stepEnd => s.stepEnd j
  | .ingestClose => s.closeWindow j m.period
  | .ingestOpen => s.updJob j.jid fun j => j.openWindow m.period
  | .fwdStart => s
  | .release _ => s.updJob j.jid fun j => { j with ingest := match j.ingest.find? fun i => i.query with | some q => j.ingest.erase q | none => j.ingest }
  | .endMark => if s.unitsDone j then s else s.updJob j.jid fun j => { j with isExact := false }
  | .other => s

/-- One mark takes effect. -/
def State.takeMark (s : State) (m : MarkSt) : State :=
  if !s.marks.contains m then s
  else match s.job? m.jid with
    | none => s
    | some j =>
      let s0 := ((({ s with marks := s.marks.erase m } : State).rearm j m).reachMark j m).updJob m.jid fun j => { j with progress := true }
      let s1 := (s0.liveMarks j m).startReconfs j m
      s1.withJob m.jid fun j1 => s1.roleEffect j1 m

/-- Marks whose GT has come, of jobs that run or have not stopped yet. Those of a stopped job stay pending (R77). -/
def State.dueMarks (s : State) : List MarkSt :=
  sortMarks (s.marks.filter fun m => decide (m.gt ≤ s.gt) && match s.job? m.jid with | some j => j.phase == .running || j.phase == .stopping || j.phase == .dumping | none => false)

/-- MARK_TAKE_EFFECT. -/
def execMarkTakeEffect (s : State) : Host.Outcome State Fault Refusal :=
  s.ran fun s => s.dueMarks.foldl (fun s m => s.takeMark m) s

end Sys2Proof.Machine
end

