-- ==== Sys2Proof/Machine/Matrix.lean ====
section
/-! DEFINITION. The matrix engine: accumulator directory, passes, partial sums, drains (R165 to R203, R250 to R260). -/

namespace Sys2Proof.Machine

/-! ### The command (R200) -/

def psumExact (b : BitVec 256) : Bool := bit b 64
def bTransposed (b : BitVec 256) : Bool := bit b 66
def aTransposed (b : BitVec 256) : Bool := bit b 65
def accShared (b : BitVec 256) : Bool := bit b 67
def bSparse (b : BitVec 256) : Bool := bit b 68
def blockSkip (b : BitVec 256) : Bool := bit b 69
def zgSkip (b : BitVec 256) : Bool := bit b 70
def shareCount (b : BitVec 256) : Nat := bits b 72 4 + 1
def shareRank (b : BitVec 256) : Nat := bits b 76 4
def mxeOp (b : BitVec 256) : Nat := bits b 80 16
def bCast (b : BitVec 256) : Nat := bits b 128 8

/-- The last operation of its accumulator tile sends it to Decant (R197). -/
def lastRank (b : BitVec 256) : Bool := !accShared b || shareRank b + 1 == shareCount b

/-- Element width of an operand's format for the pass width (R168); MX scales do not count. -/
def opWidth (f : Fmt) : Nat := f.width

/-- What a stationary block is made of (R165, R171, R172). -/
structure BlockCtx where
  b : BitVec 256
  m : MxeBind
  w : View
  cast : Option FloatFmt
  nm : Option (Nat × Nat × Nat × Nat)
  keff : Nat
  k : Nat
  cols : Nat
deriving DecidableEq, Repr

/-- What a tile's passes work on. -/
structure MxeCtx where
  b : BitVec 256
  m : MxeBind
  a : View
  blk : BlockCtx
  psum : Option View
  dec : DecCtx
deriving DecidableEq, Repr

/-- B_CAST's format (R171). -/
def castFmt (code : Nat) : Option FloatFmt := if code = 0x10 then some e4m3 else if code = 0x11 then some e5m2 else none

/-- K_pass of a pass width (R143). -/
def kPass (w : Nat) : Nat := if 16 ≤ w then 128 else if w = 8 then 256 else 512

/-- The streamed operand's entry of the TD table: A_TD, or the one rows of references are read through. -/
def streamedTd (b : BitVec 256) (m : MxeBind) : Nat := if bits b 0 16 = 0xFFFF then m.aRef else bits b 0 16

/-- The streamed operand: A_TD, or rows of the reference on the streamed input port (R200). -/
def streamedView (j : Job) (c : Cmd) (u : UnitSt) (b : BitVec 256) (m : MxeBind) : Option View :=
  if bits b 0 16 = 0xFFFF then
    (streamPort c).bind fun p => (u.refTok p.port.val).bind fun t => (viewOf j.bin c u m.aRef).map fun v => v.byRef t (originOf u m.aOrg)
  else (viewOf j.bin c u (bits b 0 16)).map fun v => if aTransposed b then v.inScratchpad j.bin else v

def blockCtx (j : Job) (c : Cmd) (u : UnitSt) : Option BlockCtx :=
  match c.body with
  | .mxe b _ m =>
    match j.bin.tds[streamedTd b m]?.bind (fun t => fmtOf (bits t 0 8)), viewOf j.bin c u (bits b 16 16) with
    | some fa, some w0 =>
      let w := if bTransposed b then w0.inScratchpad j.bin else w0
      let cast := castFmt (bCast b)
      let bw := match cast with | some f => f.width | none => opWidth w.fmt
      let nm := if bSparse b then kindNm (tdKind w.td) else none
      some { b := b, m := m, w := w, cast := cast, nm := nm, keff := kPass (max (opWidth fa) bw) * (if nm.isSome && !bTransposed b then 2 else 1),
             k := w.extent m.bK.val, cols := bits b 112 7 + 1 }
    | _, _ => none
  | _ => none

def mxeCtx (j : Job) (c : Cmd) (u : UnitSt) : Option MxeCtx :=
  match c.body, decCtx j c u, blockCtx j c u with
  | .mxe b _ m, some d, some q => (streamedView j c u b m).map fun a => { b := b, m := m, a := a, blk := q, psum := viewOf j.bin c u (bits b 48 16), dec := d }
  | _, _, _ => none

/-- P of R177. -/
def BlockCtx.passes (k : BlockCtx) : Nat := max 1 (ceilDiv k.k k.keff)

/-! ### The accumulator directory (R194 to R197) -/

/-- The die whose directory holds a tile's entry: that of the partial-sum buffer, or the engine's own if P = 1. -/
def State.dirHome (s : State) (x : Nat) (j : Job) (k : MxeCtx) : Nat :=
  match k.psum with
  | some v =>
    if k.blk.passes = 1 && !accShared k.b then x / 16
    else match s.peek? j.ctx.val v.base with
      | some a => if inScratch a then scratchDie a else x / 16
      | none => x / 16
  | none => x / 16

/-- What asking for a tile's entry gives: the entries with the operation as holder and the number of its first pass, or a wait: the
operation named, FULL, NO_HOLDER, the group's next rank, and whether it is a conflict. -/
inductive DirAns where
  | grant (es : List AccEntry) (pass0 : Nat)
  | wait (op : Nat) (full noHolder : Bool) (rank : Nat) (conflict : Bool)
deriving DecidableEq, Repr

/-- R196 and R197: two operations are of one group if both declare ACC_SHARED and name the same PSUM_TD for the tile. -/
def dirAsk (es : List AccEntry) (tensor : U32) (coord x : Nat) (b : BitVec 256) : DirAns :=
  let mine : AccEntry :=
    { tensor := tensor, coord := coord, opId := BitVec.ofNat 16 (mxeOp b), holder := x, shared := accShared b, psum := bits b 48 16,
      next := shareRank b + 1, passNo := 0, held := true }
  match es.find? fun e => e.tensor == tensor && e.coord == coord with
  | none =>
    if accShared b && shareRank b != 0 then .wait 0xFFFF false true 0 false
    else if 64 ≤ es.length then .wait 0xFFFF true false 0 true
    else .grant (es ++ [mine]) 0
  | some e =>
    if e.shared && accShared b && e.psum == bits b 48 16 then
      if !e.held && e.next == shareRank b then .grant (es.map fun f => if f == e then { mine with passNo := e.passNo } else f) e.passNo
      else if e.held then .wait e.opId.toNat false false e.next false
      else .wait 0xFFFF false true e.next false
    else .wait e.opId.toNat false false 0 true

/-- The tile of the iteration fired: nothing of it has entered. -/
def newTile (k : MxeCtx) (u : UnitSt) (home pass0 : Nat) : MxeTile :=
  { coord := k.dec.tile, pass := 0, passes := k.blk.passes, row := 0, file := [], emax := none, tag := u.tag, home := home, pass0 := pass0,
    last := lastRank k.b }

/-- Tensor ID of the output, whose tiles the directory names. A command without an OUT_TD has none: its tile is tile 0 of tensor 0
(DESIGN CHOICE, log entry 65). -/
def MxeCtx.tensor (k : MxeCtx) : U32 := match k.dec.out with | some v => tdTensor v.td | none => 0

/-- Take the accumulator tile of the iteration fired, or wait on WAIT_ACC; a conflict counts once for each wait (R195 to R197). -/
def State.mxeTake (s : State) (x : Nat) (j : Job) (k : MxeCtx) : State :=
  let u := s.unit x
  let e := s.engAt x
  if u.prog = 0 || (s.tile x).isSome || !(s.decAt x).idle then s
  else
    let home := s.dirHome x j k
    match dirAsk (s.dir home) k.tensor k.dec.tile x k.b with
    | .grant es p0 => (((s.setDir home es).setEng x { e with clash := false }).setTile x (some (newTile k u home p0))).setRun x
    | .wait op full nh rank conflict =>
      let s1 := if conflict && !e.clash then (s.updUnit x fun u => u.count 4 1).updJob j.jid Job.scheduleError else s
      (s1.setEng x { e with clash := conflict }).setWait x (.acc op full nh rank)

/-- ACC_TAKE (R196, R197). -/
def execAccTake (die : Fin 24) (m : Fin 4) (s : State) : Host.Outcome State Fault Refusal :=
  s.ran fun s => s.unitWorks (mxeAddr die m) fun j c =>
    match mxeCtx j c (s.unit (mxeAddr die m)) with
    | some k => s.mxeTake (mxeAddr die m) j k
    | none => s

/-! ### The stationary block and the weight latch (R165, R166, R171, R172, R187, R250, R255) -/

/-- The K positions a pass covers; those at K or beyond it are masked (R177). -/
def BlockCtx.ks (k : BlockCtx) (p : Nat) : List Nat := (List.range k.keff).map fun i => p * k.keff + i

/-- Index of a stationary element. -/
def BlockCtx.idx (k : BlockCtx) (u : UnitSt) (kk c : Nat) : List Int :=
  let o := originOf u k.m.bOrg
  setAt (setAt o k.m.bN.val (o.getD k.m.bN.val 0 + c)) k.m.bK.val kk

def BlockCtx.colIn (k : BlockCtx) (u : UnitSt) (c : Nat) : Bool := decide ((originOf u k.m.bOrg).getD k.m.bN.val 0 + c < k.w.extent k.m.bN.val)

/-- Whether the N:M slots of a stationary operand name a position, and IV for an invalid group (R172, R249). -/
def State.nmNamed (s : State) (w : Who) (k : BlockCtx) (idx : List Int) : Acc (Bool × U16) :=
  match k.nm with
  | none => .ok (true, 0)
  | some (m, slots, _, eb) => (s.nmGroup w k.w m slots eb idx).map fun g =>
    match g.1 with
    | some ps => (ps.contains (nmPlace m idx).2, 0)
    | none => (false, fIV)

/-- What a position of the block gives: a cell, the number of its absent block, flags, clamped accesses. -/
structure CellOut where
  cell : Option BCell
  absent : Option Nat
  flags : U16
  ooa : Nat
deriving DecidableEq, Repr

/-- A masked position is read and computed on (R158); it is one of the stored slots of its group if the operand is sparse (R172). -/
def State.maskedCell (s : State) (w : Who) (k : BlockCtx) (idx : List Int) (kk : Nat) : Acc CellOut :=
  (s.readElem w k.w idx).map fun r =>
    let slot := match k.nm with | some (m, slots, _, _) => bTransposed k.b || decide (kk % m < slots) | none => true
    { cell := if slot then some { k := kk, v := Val.zero } else none, absent := none, flags := 0, ooa := r.ooa }

/-- One unmasked position of a column: what the effective map and the N:M slots leave of it, read and cast. -/
def State.bCell (s : State) (w : Who) (k : BlockCtx) (idx : List Int) (kk : Nat) : Acc CellOut :=
  (if blockSkip k.b && kindBlock (tdKind k.w.td) then s.present w k.w idx else .ok true).bind fun there =>
    if !there then .ok { cell := none, absent := some (k.w.blockPos idx), flags := 0, ooa := 0 }
    else (s.nmNamed w k idx).bind fun f =>
      if !f.1 then .ok { cell := none, absent := none, flags := f.2, ooa := 0 }
      else (s.readElem w k.w idx).map fun r =>
        let v := k.w.value r
        match k.cast with
        | none => { cell := some { k := kk, v := v }, absent := none, flags := f.2 ||| r.flags, ooa := r.ooa }
        | some q => let z := q.convert .rne true v; { cell := some { k := kk, v := q.decode z.1 }, absent := none, flags := f.2 ||| r.flags ||| z.2, ooa := r.ooa }

/-- One column of the stationary block of a pass. -/
def State.bCol (s : State) (w : Who) (k : BlockCtx) (u : UnitSt) (p c : Nat) : Acc BCol :=
  let live := k.colIn u c
  (accAll (fun kk => if live && decide (kk < k.k) then s.bCell w k (k.idx u kk c) kk else s.maskedCell w k (k.idx u kk c) kk) (k.ks p)).map fun l =>
    { cells := l.filterMap (·.cell), live := live, absent := l.filterMap (·.absent),
      present := live && ((k.ks p).zip l).any fun e => decide (e.1 < k.k) && e.2.absent.isNone,
      flags := l.foldl (fun f e => f ||| e.flags) 0, ooa := (l.map (·.ooa)).foldl (· + ·) 0 }

/-- The stationary block of pass p of the tile at the unit's loop counters. -/
def State.loadBlock (s : State) (w : Who) (k : BlockCtx) (u : UnitSt) (tag : U32) (p : Nat) : Acc WBlock :=
  (accAll (s.bCol w k u p) (List.range k.cols)).map fun cs => { tag := tag, tile := u.fired, pass := p, cols := cs }

/-- A pass whose stationary block has every logical block absent is empty (R255): nothing is loaded. -/
def WBlock.empty (q : WBlock) (k : BlockCtx) : Bool := blockSkip k.b && kindBlock (tdKind k.w.td) && !(q.cols.any (·.present))

def WBlock.is (q : WBlock) (tag : U32) (tile : List U32) (p : Nat) : Bool := q.tag == tag && q.tile == tile && q.pass == p

/-- A pass begins with its block: absent blocks count, the load's flags and clamps are the pass's (R202, R203, R255). -/
def State.beginPass (s : State) (x : Nat) (k : BlockCtx) (q : WBlock) (long : U16) : State :=
  let absent : List Nat := (q.cols.flatMap (·.absent)).eraseDups
  let s1 := (s.updUnit x fun u => u.count 2 absent.length).orUnitFlags x long
  if q.empty k then s1 else (s1.orLanes x (q.cols.map (·.flags))).countOoa x ((q.cols.map (·.ooa)).foldl (· + ·) 0)

/-- The block of a tile's pass stands in the buffer the array computes against: it is there, the engine switches buffers, or loads it now
(R166, R187). -/
def State.latchFor (s : State) (x : Nat) (w : Who) (c : Cmd) (k : BlockCtx) (t : MxeTile) (long : U16) (f : State → WBlock → State) : State :=
  let e := s.engAt x
  let u := s.unit x
  let is (q : WBlock) : Bool := q.is c.tag u.fired t.pass
  match e.cur.filter is, e.other.filter is with
  | some q, _ => f s q
  | none, some q => f ((s.setEng x { e with cur := some q, other := none }).beginPass x k q long) q
  | none, none => s.on w (s.loadBlock w k u c.tag t.pass) fun q => f ((s.setEng x { e with cur := some q, other := none }).beginPass x k q long) q

/-- The unit's next command in binary order: of its configuration, or the first that the next reconfiguration to switch it brings. -/
def State.nextCmd (s : State) (x : Nat) (jid : U64) (u : UnitSt) : Option Cmd :=
  match u.cmds[u.idx + 1]? with
  | some c => some c
  | none => (s.recfgs.find? fun r => r.jid == jid && !r.switched && (rcUnits r.rc).contains x).bind fun r =>
      (r.rc.units.find? fun p => p.x.addr == x).bind fun p => p.cmds.head?

/-- The state in which a command's first block is read before its start (R187): no loop counter has moved, its maps are those it would read. -/
def State.preloadUnit (s : State) (w : Who) (j : Job) (c : Cmd) (u : UnitSt) : UnitSt :=
  { u with
    fired := List.replicate 6 0, ext := [], bankB := bankOf j c
    effMap := match s.effMaps w j.bin c c.envelope with | .ok m => m.1 | _ => [] }

/-- The block that loads into the other buffer while a pass computes: of the next pass, of the next tile, or of a command that sets PRELOAD
(R166, R187). -/
def State.nextBlock (s : State) (x : Nat) (w : Who) (j : Job) (c : Cmd) (k : BlockCtx) (t : MxeTile) : Option WBlock :=
  let u := s.unit x
  let got (a : Acc WBlock) : Option WBlock := match a with | .ok q => some q | _ => none
  if t.pass + 1 < t.passes then got (s.loadBlock w k u c.tag (t.pass + 1))
  else if !u.done then (if c.claimEn then none else got (s.loadBlock w k { u with fired := u.ctr } c.tag 0))
  else (s.nextCmd x j.jid u).bind fun n =>
    match n.body with
    | .mxe b _ _ =>
      if !bit b 136 then none
      else let u1 := s.preloadUnit w j n u; (blockCtx j n u1).bind fun q => got (s.loadBlock w q u1 n.tag 0)
    | _ => none

/-- Load it; what a fault leaves is discarded, and the block loads when its pass begins (R187; log entry 67). -/
def State.loadOther (s : State) (x : Nat) (w : Who) (j : Job) (c : Cmd) (k : BlockCtx) (t : MxeTile) : State :=
  s.setEng x { s.engAt x with other := s.nextBlock x w j c k t }

/-! ### A row (R177 to R182, R193, R255 to R260) -/

/-- Index of a streamed element. -/
def MxeCtx.aIdx (k : MxeCtx) (u : UnitSt) (r kk : Nat) : List Int :=
  let o := originOf u k.m.aOrg
  setAt (setAt o k.m.aM.val (o.getD k.m.aM.val 0 + r)) k.m.aK.val kk

def MxeCtx.rowIn (k : MxeCtx) (u : UnitSt) (r : Nat) : Bool :=
  decide ((originOf u k.m.aOrg).getD k.m.aM.val 0 + r < k.a.extent k.m.aM.val)
def MxeCtx.colIn (k : MxeCtx) (u : UnitSt) (c : Nat) : Bool := k.blk.colIn u c

/-- Which of an unmasked row's K positions lie in groups marked zero (R257). -/
def State.zeroKs (s : State) (w : Who) (k : MxeCtx) (u : UnitSt) (ks : List Nat) (r : Nat) : Acc (List Nat) :=
  if !zgSkip k.b || !k.rowIn u r then .ok []
  else (accAll (fun kk => (s.mapBit w (tdSparse k.a.td) (k.a.groupPos (k.aIdx u r kk))).map fun z => (kk, z)) ks).map fun l =>
    (l.filter fun e => e.2).map (·.1)

/-- The block of an index is one of the map's, whether or not the index lies in the extent (R253, R258). -/
def View.blockIn (v : View) (idx : List Int) : Bool :=
  idx.zipIdx.all fun p =>
    let e := v.lay.getD p.2 1
    decide (0 ≤ p.1) && decide (p.1.toNat < if p.2 < 2 then 32 * ceilDiv e 32 else e)

/-- What the output leaves of a cell: whether its block is one of the map and absent, whether it is a pruned position (R251, R256). -/
structure CellOmit where
  mapped : Bool
  gone : Bool
  pruned : Bool
deriving DecidableEq, Repr

def State.omitted (s : State) (w : Who) (k : MxeCtx) (r c : Nat) : Acc CellOmit :=
  match k.dec.out with
  | none => .ok { mapped := false, gone := false, pruned := false }
  | some v =>
    let idx := place k.dec.dec k.dec.cols k.dec.org r c
    let mapped := blockSkip k.b && kindBlock (tdKind v.td) && v.blockIn idx
    (if mapped then s.present w v idx else .ok true).bind fun there =>
      (if v.inside idx then (s.nmSlot w v idx).map fun n => (match n.1 with | .kept _ => false | _ => true) else .ok false).map fun pr =>
        { mapped := mapped, gone := !there, pruned := pr }

/-- Products of a streamed row and a column added to an accumulator: positions in zero groups form none. -/
def addRow (a : LAcc) (row : List (Nat × Val)) : List BCell → LAcc × U16
  | [] => (a, 0)
  | b :: t =>
    match assoc row b.k with
    | none => addRow a row t
    | some v =>
      let p := a.addProduct v b.v
      let r := addRow p.1 row t
      (r.1, p.2 ||| r.2)

/-- What a row of a pass yields: its accumulators, flags by column, clamped accesses, products, whether it was skipped. -/
structure RowOut where
  accs : List LAcc
  flags : List U16
  ooa : Nat
  macs : Nat
  skipped : Bool
deriving DecidableEq, Repr

/-- A row of accumulators as the pass starts it: zero, or the partials of PSUM_TD (R178, R197). -/
def State.startRow (s : State) (w : Who) (k : MxeCtx) (u : UnitSt) (fresh : Bool) (r : Nat) : Acc (List (LAcc × U16 × Nat)) :=
  match (if fresh then none else k.psum) with
  | none => .ok (List.replicate k.dec.cols (LAcc.zero, 0, 0))
  | some v => (s.partialRow w v (psumExact k.b) k.dec.cols r).map fun l => l.zipIdx.map fun p =>
      if k.rowIn u r && k.colIn u p.2 then p.1 else (LAcc.zero, 0, p.1.2.2)

/-- The reasons of R258 to skip a row that count in ROWS_SKIPPED: all its groups in the pass are zero, or every output block over its
columns is absent. -/
def rowSkipped (k : MxeCtx) (inK zs : List Nat) (om : List CellOmit) : Bool :=
  (zgSkip k.b && !inK.isEmpty && zs.length == inK.length) || (om.any (·.mapped) && om.all fun o => !o.mapped || o.gone)

/-- One row of a pass against the block in the latch. Every position of the row outside zero groups is read, masked ones too; masked rows
and columns compute and leave nothing (R158). -/
def State.passRow (s : State) (w : Who) (k : MxeCtx) (u : UnitSt) (q : WBlock) (fresh : Bool) (r : Nat) : Acc RowOut :=
  let ks := k.blk.ks q.pass
  let inK := ks.filter fun kk => decide (kk < k.blk.k)
  let rv := k.rowIn u r
  (s.startRow w k u fresh r).bind fun st =>
    (accAll (s.omitted w k r) (List.range k.dec.cols)).bind fun om =>
      (s.zeroKs w k u inK r).bind fun zs =>
        let why := rowSkipped k inK zs om
        let ooa0 := (st.map fun e => e.2.2).foldl (· + ·) 0
        if why || q.empty k.blk then .ok { accs := st.map (·.1), flags := st.map fun e => e.2.1, ooa := ooa0, macs := 0, skipped := why }
        else
          (accAll (fun kk => (s.readElem w k.a (k.aIdx u r kk)).map fun e => (kk, e)) (ks.filter fun kk => !zs.contains kk)).map fun es =>
            let row : List (Nat × Val) := if rv then (es.filter fun e => decide (e.1 < k.blk.k)).map fun e => (e.1, k.a.value e.2) else []
            let fA : U16 := if rv then es.foldl (fun f e => if e.1 < k.blk.k then f ||| e.2.flags else f) 0 else 0
            let res : List ((LAcc × U16) × Nat) := (st.zip (q.cols.zip om)).map fun p =>
              if p.2.2.gone || p.2.2.pruned then ((p.1.1, p.1.2.1), 0)
              else
                let z := if p.2.1.live then addRow p.1.1 row p.2.1.cells else (p.1.1, (0 : U16))
                ((z.1, z.2 ||| p.1.2.1 ||| fA), (p.2.1.cells.filter fun b => !zs.contains b.k).length)
            { accs := res.map fun e => e.1.1, flags := res.map fun e => e.1.2, ooa := ooa0 + (es.map fun e => e.2.ooa).foldl (· + ·) 0,
              macs := (res.map (·.2)).foldl (· + ·) 0, skipped := false }

/-- One accumulator written back: its bits and flags (R128, R179, R180). -/
def writeBack (k : MxeCtx) (t : MxeTile) (r c : Nat) (a : LAcc) : Nat × U16 :=
  if psumExact k.b then (a.image, 0)
  else a.toPs48 (srRandom { seed := k.dec.seed, stream := k.tensor.toNat, tile := t.coord, site := 1, pass := (t.pass0 + t.pass) % 2 ^ 20, lane := c, index := r })

/-- What the write-back of one position stores, with flags and clamped accesses. -/
structure BackOut where
  flags : U16
  stores : MStores
  ooa : Nat
deriving DecidableEq, Repr

/-- The write-back of one unmasked position of a row (R128, R178). -/
def MxeCtx.backAt (k : MxeCtx) (t : MxeTile) (r c : Nat) (a : LAcc) : BackOut :=
  let z := writeBack k t r c a
  let idx : List Int := [(c : Int), (r : Int), 0, 0, 0, 0]
  match k.psum with
  | some v => if v.inside idx then let e := v.elemStores idx z.1; { flags := z.2, stores := e.1, ooa := e.2.2 } else { flags := z.2, stores := [], ooa := 0 }
  | none => { flags := z.2, stores := [], ooa := 0 }

/-- The write-back of the unmasked positions of a row. -/
def State.writeBackRow (s : State) (w : Who) (k : MxeCtx) (u : UnitSt) (t : MxeTile) (r : Nat) (accs : List LAcc) : Acc (State × List U16 × Nat) :=
  let out : List BackOut := accs.zipIdx.map fun q =>
    if k.rowIn u r && k.colIn u q.2 then k.backAt t r q.2 q.1 else { flags := 0, stores := [], ooa := 0 }
  let stored := match k.psum with | some v => s.storeView w v (out.flatMap fun (b : BackOut) => b.stores) | none => Acc.ok s
  stored.map fun s1 =>
    (s1, out.map fun (b : BackOut) => b.flags, (out.map fun (b : BackOut) => b.ooa).foldl (· + ·) 0)

/-- floor(log2 |x|) of the largest finite nonzero scaled accumulator of a row at an unmasked position (R292). -/
def rowEmax (k : MxeCtx) (u : UnitSt) (r : Nat) (accs : List LAcc) : Option Int :=
  if k.rowIn u r then maxExpOf ((accs.zipIdx.filter fun q => k.colIn u q.2).map fun q => (q.1.value.1).scale k.dec.gs) else none

/-- The largest of two exponents, none where no value occurred. -/
def maxOpt : Option Int → Option Int → Option Int
  | none, b => b
  | a, none => a
  | some a, some b => some (max a b)

/-- Report a tile's largest exponent (R199, R292); EMAX is the maximum at GATHER. -/
def State.reportEmax (s : State) (j : Job) (k : MxeCtx) (e : Option Int) : State :=
  match k.dec.layer with
  | none => s
  | some l => s.updJob j.jid fun j => if j.x.gathered then j else { j with layers := modAt j.layers l fun y => { y with emax := maxOpt y.emax e } }

/-! ### The accumulator file (R175, R176, R188) -/

/-- The pass sends its accumulators to Decant; every other one writes them back (R178, R197). -/
def MxeTile.finishing (t : MxeTile) : Bool := t.last && decide (t.passes ≤ t.pass + 1)

/-- Put a row's accumulators into the slot of its group; the first row of a group takes slot `no`. -/
def MxeTile.enter (t : MxeTile) (no : Nat) (accs : List LAcc) (e : Option Int) : MxeTile :=
  let g := t.row / 128
  let file := if t.row % 128 = 0 then t.file ++ [{ no := no, group := g, rows := [accs], out := 0 }]
    else t.file.map fun q => if q.group == g then { q with rows := q.rows ++ [accs] } else q
  { t with row := t.row + 1, file := file, emax := maxOpt t.emax e }

/-- The row whose write-back is due: its number and accumulators. -/
def MxeTile.due (t : MxeTile) : Option (Nat × List LAcc) :=
  if t.finishing then none else (t.file.find? fun q => decide (q.out < q.rows.length)).bind fun q => (q.rows[q.out]?).map fun a => (128 * q.group + q.out, a)

/-- After the last row of a pass: the next pass, or the accumulators are finished, or a member of a group below the last has written its
final ones and hands the tile on (R197). -/
def State.passEnd (s : State) (x : Nat) (j : Job) (k : MxeCtx) : State :=
  match s.tile x with
  | none => s
  | some t =>
    if t.row < k.dec.rows || t.due.isSome || t.passes ≤ t.pass then s
    else
      let s1 := s.updUnit x fun u => u.count 3 1
      if t.pass + 1 < t.passes then s1.setTile x (some { t with pass := t.pass + 1, row := 0 })
      else if t.last then (s1.setTile x (some { t with pass := t.pass + 1 })).reportEmax j k t.emax
      else
        let es := (s1.dir t.home).map fun e => if e.holder == x then { e with held := false, passNo := t.pass0 + t.passes } else e
        ((s1.setTile x none).setDir t.home es).workDone x

/-- The write-back of a row; a fault stalls it before the slot moves on (R193). -/
def State.mxeFlush (s : State) (x : Nat) (j : Job) (k : MxeCtx) : State :=
  match s.tile x with
  | none => s
  | some t =>
    match t.due with
    | none => s
    | some (r, accs) =>
      s.on (whoOf x j) (s.writeBackRow (whoOf x j) k (s.unit x) t r accs) fun z =>
        (((z.1.orLanes x z.2.1).countOoa x z.2.2).setTile x (some (t.rowOut k.dec.rows r))).passEnd x j k

/-- Counters of a row (R202). -/
def UnitSt.countRow (u : UnitSt) (o : RowOut) : UnitSt := (u.count 0 o.macs).count 1 (b2n o.skipped)

/-- No slot is free for the next group: the engine records the credit Decant waits on, if that is what it waits for (R188). -/
def State.fileFull (s : State) (x : Nat) (k : DecCtx) : State :=
  match (if (s.decAt x).paid then none else s.noCredit x (donePorts k)) with
  | some wt => s.setWait x wt
  | none => s

/-- The next row of the tile enters (R183, R193). -/
def State.mxeEnter (s : State) (x : Nat) (j : Job) (c : Cmd) (k : MxeCtx) : State :=
  match s.tile x with
  | none => s
  | some t =>
    if t.passes ≤ t.pass || t.due.isSome || (s.decAt x).live then s
    else if t.row % 128 == 0 && decide (8 ≤ t.file.length) then s.fileFull x k.dec
    else
      let w := whoOf x j
      let fresh := t.pass == 0 && !(accShared k.b && shareRank k.b != 0)
      let long := flagIf (!psumExact k.b && decide (2 ^ 20 ≤ t.pass0 + t.pass)) fLONGK
      s.latchFor x w c k.blk t long fun s q =>
        let u := s.unit x
        s.on w (s.passRow w k u q fresh t.row) fun o =>
          let e := s.engAt x
          let s1 := ((s.updUnit x fun u => u.countRow o).orLanes x o.flags).countOoa x o.ooa
          let s2 := s1.setTile x (some (t.enter e.turn o.accs (if t.finishing then rowEmax k u t.row o.accs else none)))
          let s3 := if t.row % 128 = 0 then s2.setEng x { e with turn := (e.turn + 1) % 8 } else s2
          let s4 := if t.row = 0 then s3.loadOther x w j c k.blk t else s3
          let s5 := if (s4.unit x).wait.code == 5 then s4.setRun x else s4
          s5.passEnd x j k

/-- One row: what is due to be written back, then the next row and its write-back. -/
def State.mxeRow (s : State) (x : Nat) (j : Job) (c : Cmd) (k : MxeCtx) : State := ((s.mxeFlush x j k).mxeEnter x j c k).mxeFlush x j k

/-- Up to n further rows. -/
def State.mxeRows (s : State) (x : Nat) (j : Job) (c : Cmd) (k : MxeCtx) : Nat → State
  | 0 => s
  | n + 1 => State.mxeRows (s.mxeRow x j c k) x j c k n

/-- MXE_COMMAND (R165 to R188): the iteration's tile is taken, then rows enter, one by one; a row whose access faults has not entered. -/
def execMxeCommand (die : Fin 24) (m : Fin 4) (rows : Nat) (s : State) : Host.Outcome State Fault Refusal :=
  s.ran fun s =>
    let x := mxeAddr die m
    s.unitWorks x fun j c =>
      match mxeCtx j c (s.unit x) with
      | some k => (s.mxeTake x j k).mxeRows x j c k rows
      | none => s

/-! ### Drains (R189 to R192) -/

/-- Take the rows Decant holds or a finished tile offers, and complete the tile, as far as credits and tokens allow. -/
def State.decantAll (s : State) (x : Nat) (j : Job) (c : Cmd) : Nat → State
  | 0 => s
  | n + 1 => State.decantAll (s.decantRow x j c) x j c n

def State.decantTile (s : State) (x : Nat) (j : Job) (c : Cmd) (k : DecCtx) : State :=
  let s1 := s.decantAll x j c k.rows
  if (s1.decAt x).ready then s1.completeTile x j c k else s1

/-- A DRAIN token on the streamed input, behind the rows that have entered (R189): finished accumulators go to Decant first; live ones are
decanted and keep their values; then DRAIN goes out. A DRAIN that comes once Decant has begun the finished tile waits for its end. -/
def State.mxeDrain (s : State) (x : Nat) (j : Job) (c : Cmd) (k : DecCtx) (q : Nat) (t : Token) : State :=
  let s0 := s.decantTile x j c k
  if !(s0.decAt x).idle || ((s0.tile x).map fun t => decide (t.passes ≤ t.pass)).getD ((s0.unit x).prog != 0) then s0
  else match s0.noCredit x (drainPorts c) with
    | some w => s0.setWait x w
    | none =>
      match s0.tile x with
      | some _ =>
        let s1 := s0.liveDecant x t.tag
        if (s1.decAt x).live then ((s1.popQueue q).setDec x { s1.decAt x with drain := some t }).decantTile x j c k else s1
      | none => (s0.popQueue q).pushAll x t.tag 2 t.isRef (bits t.hdr 33 6) t.pay (drainPorts c)

/-- MXE_DRAIN (R189, R190). A clock-gated engine pops nothing (R48). -/
def execMxeDrain (die : Fin 24) (m : Fin 4) (s : State) : Host.Outcome State Fault Refusal :=
  s.ran fun s =>
    let x := mxeAddr die m
    s.unitWorks x fun j c =>
      if s.clockGated x j c then s
      else match streamPort c, decCtx j c (s.unit x) with
      | some b, some k =>
        match s.headTok x b.port.val with
        | none => s
        | some (q, t) =>
          if t.epoch ≠ (s.unit x).epoch.toNat then s.discardHead x q
          else if t.kind = 2 then s.mxeDrain x j c k q t
          else s
      | _, _ => s

end Sys2Proof.Machine
end

