-- ==== Sys2Proof/Machine/Load.lean ====
section
/-! DEFINITION. The checks of a binary at load, each a condition the module accepts, and the fault cause of the first one broken
(R16, R56, R64, R147, R168 to R201, R205 to R223, R234, R238, R243, R245, R247, R254, R257, R264, R267, R287, R290, R295, R341,
R362, R429, R542). -/

namespace Sys2Proof

open Machine

/-- Fields of a word that must be zero, by lowest bit and length (R10). -/
def zeros {n : Nat} (w : BitVec n) (l : List (Nat × Nat)) : Bool := l.all fun e => bits w e.1 e.2 == 0

/-- No TD. -/
def noTd : Nat := 0xFFFF

/-- A bound word is well formed (R43). -/
def boundOk (w : U32) : Bool :=
  !bit w 31 || (bits w 16 13 == 0 && bits w 29 2 != 3 && (bits w 29 2 == 1 || bits w 4 12 == 0))

/-! ### What a binary holds -/

/-- Every unit's commands, in every configuration, with the unit's address. -/
def Binary.progs (b : Binary) : List UnitProg := b.units ++ b.reconfs.flatMap (·.units)

def Binary.allCmds (b : Binary) : List (Nat × Cmd) := b.progs.flatMap fun p => p.cmds.map fun c => (p.x.addr, c)

/-- Destinations of stores a command's body names. -/
def Cmd.dests (c : Cmd) : List Nat :=
  (match c.body with
    | .mxe b _ _ => [bits b 32 16, bits b 48 16]
    | .vxe b _ _ => [bits b 128 16]
    | .rxe b _ => [rxeOut b, rxeIdx b]
    | .gse b => if gseOp b = 2 then [gseTd b 1, gseTd b 2, gseTd b 4, gseTd b 5, gseTd b 6] else [gseTd b 1]
    | .lmv _ d _ _ _ => [d]
    | .dmx _ d _ _ => [d]
    | .hxu _ _ (.onModule d _ _) => [d]
    | .hxu _ _ (.peer _ _ _ _) => []
    | .upe => []) ++ c.writes

/-- Destinations of stores the tables name: banked tensors, reduced gradients, staging, carry and norm buffers, halo handles. -/
def Binary.tableDests (b : Binary) : List Nat :=
  (match b.update with | some u => u.layers.flatMap fun e => [layW e, layMaster e, layM e, layV e, layC e, layRg e] | none => []) ++
    (match b.exch with
      | some x => [bits x.header 32 16, bits x.header 48 16] ++ x.buckets.flatMap (fun k => [bits k 112 16, bits k 128 16]) ++ x.halo.map (·.td)
      | none => [])

def Binary.dests (b : Binary) : List Nat := ((b.allCmds.flatMap fun c => c.2.dests) ++ b.tableDests).eraseDups

/-! ### Tensor descriptors (R147, R245, R247) -/

def tdKinds : List Nat := [0, 1, 2, 3, 8, 9, 0xA, 0xB, 0x10]

/-- Reserved fields of a TD, and its bound words. -/
def tdPlain (t : TD) : Bool :=
  zeros t [(15, 1), (24, 8), (121, 7), (176, 16), (240, 16), (664, 8), (825, 7), (889, 7), (912, 112)] &&
    (List.range 6).all fun d => boundOk (tdExtentWord t d)

/-- Dimensions beyond RANK, edge modes and halo widths. -/
def tdDimOk (t : TD) (d : Nat) : Bool :=
  let side (m w : Nat) : Bool := m != 3 && (if m = 2 then w != 0 else w == 0)
  side (tdEdgeLo t d) (tdHaloLo t d) && side (tdEdgeHi t d) (tdHaloHi t d) &&
    (decide (d < tdRank t) || (tdExtentWord t d == 1 && tdStride t d == 0 && tdEdgeLo t d == 0 && tdEdgeHi t d == 0))

/-- Strides, origin and scales a format asks for. -/
def tdFmtOk (t : TD) (f : Fmt) : Bool :=
  let others (m : Int) : Bool := [1, 2, 3, 4, 5].all fun d => tdStride t d % m == 0
  let narrow := if f.width = 6 then tdStride t 0 == 1 && others 4 else if f.width = 4 then tdStride t 0 == 1 && others 2 else true
  narrow && (if f.isMx then tdStride t 0 == 1 && others 32 && tdOrigin t * 8 % (32 * f.width) == 0 && tdScale t != 0 else tdScale t == 0)

/-- Sparsity (R245, R247). `maxb` are the declared maxima of EXTENT0 in the commands. -/
def tdSparseOk (t : TD) (f : Fmt) (maxb : List Nat) : Bool :=
  tdKinds.contains (tdKind t) && (tdKind t != 0 || tdSparse t == 0) && (!kindBlock (tdKind t) || decide (2 ≤ tdRank t)) &&
    match kindNm (tdKind t) with
    | none => true
    | some (m, _) => !f.isMx && tdStride t 0 == 1 &&
        (if bit (tdExtentWord t 0) 31 then maxb.all fun e => e % m == 0 else bits (tdExtentWord t 0) 0 31 % m == 0)

/-- One TD of the table. -/
def tdOk (t : TD) (stored : Bool) (maxb : List Nat) : Bool :=
  match fmtOf (bits t 0 8) with
  | none => false
  | some f =>
    decide (1 ≤ tdRank t) && decide (tdRank t ≤ 6) && tdRmode t != 3 && tdPlain t && (List.range 6).all (tdDimOk t) &&
      tdBase t % 64 == 0 && tdOrigin t % f.granule == 0 && tdLimit t % f.granule == 0 && decide (tdOrigin t < tdLimit t) &&
      tdFmtOk t f && tdSparseOk t f maxb && (!stored || (List.range (tdRank t)).all fun d => tdStride t d != 0)

def Binary.tdsOk (b : Binary) : Bool :=
  b.tds.zipIdx.all fun e => tdOk e.1 (b.dests.contains e.2)
    ((b.allCmds.flatMap fun c => c.2.tdMaxb).filterMap fun m => if m.1 = 8 * e.2 then some m.2.toNat else none)

/-! ### Queues (R16, R53, R56) -/

/-- Two compute dies share an edge (R13, R14). -/
def adjacent (a b : Nat) : Bool :=
  (a / 6 == b / 6 && (a % 6 == b % 6 + 1 || b % 6 == a % 6 + 1)) || (a % 6 == b % 6 && (a / 6 == b / 6 + 1 || b / 6 == a / 6 + 1))

def QDecl.st (q : QDecl) : QueueSt := { QueueSt.reset with cfg := q.qcfg }

/-- One queue's ring and ends. -/
def queueOk (q : QDecl) : Bool :=
  zeros q.qcfg [(15, 1), (48, 16)] && decide ((QDecl.st q).base + (QDecl.st q).depth ≤ 32768) && decide (bits q.qcfg 28 5 < 24) &&
    (bits q.qcfg 28 5 == q.die.val || adjacent (bits q.qcfg 28 5) q.die.val)

/-- Two queues that both enabled neither share a slot nor a port. -/
def queuesApart (p q : QDecl) : Bool :=
  let a := QDecl.st p
  let b := QDecl.st q
  !(a.en && b.en) ||
    (!(p.die == q.die && decide (a.base < b.base + b.depth) && decide (b.base < a.base + a.depth)) &&
      !(a.producer == b.producer && a.prodPort == b.prodPort) && !(p.die == q.die && a.consU == b.consU && a.consPort == b.consPort))

def pairsOk : List QDecl → Bool
  | [] => true
  | q :: t => t.all (queuesApart q) && pairsOk t

/-- The queues in force after a reconfiguration. -/
def applyQueues (cur : List QDecl) (r : Reconf) : List QDecl :=
  (cur.filter fun q => !(r.queues.any fun n => n.die == q.die && n.qid == q.qid)) ++ r.queues

/-- Every configuration in turn: those of one cycle switch together. -/
def epochs (cur : List QDecl) : List (List Reconf) → List (List QDecl)
  | [] => [cur]
  | rs :: t => cur :: epochs (rs.foldl applyQueues cur) t

/-- Offsets from the base, in cycles, of a reconfiguration's mark in the first `n` periods (R96). -/
def Binary.switchAt (b : Binary) (n : Nat) (r : Reconf) : List Nat :=
  match b.marks.find? fun m => m.id == r.mark with
  | none => []
  | some m => if m.step then (List.range n).map fun p => m.offset + p * b.report.stepBeats * 2250 else [m.offset]

/-- Numbers in rising order, once each. -/
def risingOnce (l : List Nat) : List Nat :=
  let put (a : List Nat) (k : Nat) : List Nat := (a.takeWhile fun e => decide (e < k)) ++ k :: (a.dropWhile fun e => decide (e < k))
  l.eraseDups.foldl put []

/-- Periods after which no new configuration arises: those up to the last mark that does not recur, and two more. -/
def Binary.distinctPeriods (b : Binary) : Nat :=
  let last := (b.marks.filter fun m => !m.step).foldl (fun k m => max k m.offset) 0
  min (max b.report.steps 1) (last / max 1 (b.report.stepBeats * 2250) + 3)

/-- The switches of a job in the order of their marks. -/
def Binary.switches (b : Binary) : List (List Reconf) :=
  let n := b.distinctPeriods
  (risingOnce (b.reconfs.flatMap (b.switchAt n))).map fun t => b.reconfs.filter fun r => (b.switchAt n r).contains t

def Binary.queuesOk (b : Binary) : Bool :=
  (b.queues ++ b.reconfs.flatMap (·.queues)).all queueOk && (epochs b.queues b.switches).all pairsOk

/-! ### Commands -/

def Binary.td? (b : Binary) (i : Nat) : Option TD := b.tds[i]?
def Binary.fmt? (b : Binary) (i : Nat) : Option Fmt := (b.tds[i]?).bind fun t => fmtOf (bits t 0 8)

/-- An index names an entry of the table, or none where none is allowed. -/
def Binary.tdRef (b : Binary) (i : Nat) (orNone : Bool) : Bool := decide (i < b.tds.length) || (orNone && i == noTd)

/-- The extent of a dimension at its MAXB. -/
def Binary.maxExt (b : Binary) (c : Cmd) (td d : Nat) : Nat := (extOf b c .reset td d).2

/-- A TD's allocation lies inside one declared scratchpad range of a bank mode, on a die if one is named (R542). -/
def Binary.inRange (b : Binary) (td : Nat) (diag : Option Bool) (die : Option Nat) : Bool :=
  match b.tds[td]? with
  | none => false
  | some t => b.report.scratch.any fun r =>
      decide (r.dva ≤ tdBase t) && decide (tdBase t + tdLimit t ≤ r.dva + r.len) &&
        (match diag with | some m => r.diagonal == m && tdDiag t == m | none => true) && (match die with | some d => r.die.val == d | none => true)

/-- The allocation of a TD meets a Cellar range (R287). -/
def Binary.inCellar (b : Binary) (td : Nat) : Bool :=
  match b.tds[td]? with
  | none => false
  | some t => b.report.scratch.any fun r => r.cellar && decide (r.dva < tdBase t + tdLimit t) && decide (tdBase t < r.dva + r.len)

/-- The claim word, bound words, unused SET, banks of a command (R64, R262, R264, R295). -/
def Binary.cmdPlain (b : Binary) (c : Cmd) : Bool :=
  (c.bounds.all boundOk) && zeros c.claim [(4, 4), (24, 8)] && !c.namesSet && decide (c.claimLevel < 6 ∨ !c.claimEn) &&
    (!c.claimEn || (c.claimSize != 0 && c.outs.all fun p => decide (p.level < c.claimLevel))) &&
    (c.bank == .inactive || !(c.dests.any (bankedTd b)))

/-- Span of a tile along dimension 0 (R212). -/
def zgSpan (d : BitVec 256) (cols rows : Nat) : Nat :=
  if colSplit d = 0 then (if colDim d = 0 then cols else if rowDim d = 0 then rows else 1)
  else if colDim d = 0 then 2 ^ colSplit d
  else if colHiDim d = 0 then (if rowDim d = 0 then rows * ceilDiv cols (2 ^ colSplit d) else ceilDiv cols (2 ^ colSplit d))
  else if rowDim d = 0 then rows else 1

/-- The most iterations a level can have: its bound at its MAXB. CLAIM_LEVEL's are the object's claims, which no command bounds. -/
def Cmd.maxCount (c : Cmd) (l : Nat) : Option Nat :=
  if c.claimEn && l == c.claimLevel then none
  else let w := c.bounds.getD l 1; some (if bit w 31 then (c.maxb.getD l 0).toNat else bits w 0 31)

/-- Tile origins along dimension 0 are multiples of 32 (R210, R212): every step of the nest along it is whose counter can leave 0. -/
def orgAligned (c : Cmd) (l : List Axis) : Bool :=
  l.all fun a => a.dim != 0 || a.step % 32 == 0 || (match c.maxCount a.level.val with | some n => decide (n ≤ 1) | none => false)

/-- FUSE_TD and OUT_TD are disjoint or the same (R208). -/
def fuseOk (f o : TD) : Bool :=
  decide (tdBase f + tdLimit f ≤ tdBase o) || decide (tdBase o + tdLimit o ≤ tdBase f) ||
    (tdBase f == tdBase o && tdOrigin f == tdOrigin o && bits f 0 8 == bits o 0 8 && (List.range 6).all fun d => tdStride f d == tdStride o d)

/-- A Decant body (R205, R208, R210, R212, R213). OUT_TD none is taken also where Decant pushes to the FTQ or a queue, as R200 and R222 say
of it; R213 and R218, which take the tile from OUT_TD, then have no tile to name (DESIGN CHOICE, log entry 65). -/
def Binary.decantOk (b : Binary) (c : Cmd) (d : BitVec 256) (out cols rows : Nat) (org : List Axis) (vxe : Bool) : Bool :=
  zeros d [(22, 2), (30, 2), (38, 2), (47, 1), (51, 13), (121, 7)] && fuseOp d != 3 && ((fuseTd d == noTd) == (fuseOp d == 0)) &&
    b.tdRef (fuseTd d) true && (!vxe || (!colMaskEn d && !ftqEn d && bits d 128 128 == 0)) &&
    (match b.tds[out]? with
      | none => !zgEn d
      | some t =>
        let mx := match fmtOf (bits t 0 8) with | some f => f.isMx | none => false
        decide (2 ≤ tdRank t) && decide (rowDim d < tdRank t) && decide (colDim d < tdRank t) && decide (colHiDim d < tdRank t) &&
          colDim d != rowDim d && (colSplit d == 0 || colHiDim d != colDim d) &&
          ((colDim d == 0 && tdStride t 0 == 1) || b.inRange out (some true) none) &&
          (!outPortEn d || b.inRange out none none) &&
          (!(mx || zgEn d) || (zgSpan d cols rows % 32 == 0 && orgAligned c org)) &&
          (match b.tds[fuseTd d]? with | some f => fuseOk f t | none => true))

/-- Formats of a matrix operand (R168). -/
def plainFloat (f : Fmt) : Bool := match f with | .float g => decide (g.width ≤ 16) | _ => false
def int8 (f : Fmt) : Bool := match f with | .int 8 _ => true | _ => false

def pairOk (a w : Fmt) : Bool := (plainFloat a && plainFloat w) || (int8 a && int8 w) || (a.isMx && w.isMx)

/-- Whether a TD has an extent bound at issue. -/
def Binary.boundTd (b : Binary) (td : Nat) : Bool :=
  match b.tds[td]? with | some t => (List.range 6).any fun d => bit (tdExtentWord t d) 31 | none => false

/-- A POP accepts the format (R223). -/
def popOk (f : Fmt) : Bool := !(f == .la576 || f == .float ps48)

/-- An MXE command (R170, R171, R178, R179, R198, R201, R218, R254, R257). -/
def Binary.mxeOk (b : Binary) (x : Nat) (c : Cmd) (m d : BitVec 256) (bind : MxeBind) : Bool :=
  let aTd := if bits m 0 16 = noTd then bind.aRef else bits m 0 16
  let wTd := bits m 16 16
  let out := bits m 32 16
  let ps := bits m 48 16
  let cols := bits m 112 7 + 1
  let rows := bits m 96 13 + 1
  zeros m [(109, 3), (119, 1), (123, 5), (137, 7), (156, 4), (180, 4), (184, 72)] && decide (x % 16 < 4) &&
    b.tdRef out true && b.decantOk c d out cols rows bind.outOrg false &&
    match b.tds[wTd]?, b.fmt? aTd, b.fmt? wTd with
    | some w, some fa, some fw =>
      let cast := bCast m
      let bw := match castFmt cast with | some f => f.width | none => fw.width
      let nm := bSparse m && (kindNm (tdKind w)).isSome
      let keff := kPass (max fa.width bw) * (if nm && !bTransposed m then 2 else 1)
      let p := max 1 (ceilDiv (b.maxExt c wTd bind.bK.val) keff)
      pairOk fa fw && !(fa.isMx && (aTransposed m || bind.aK != 0)) && !(fw.isMx && (bTransposed m || bind.bK != 0)) &&
        (cast == 0 || ((castFmt cast).isSome && plainFloat fw)) &&
        (if ps = noTd then p == 1 && !accShared m
         else match b.tds[ps]? with
          | none => false
          | some t => decide (2 ≤ tdRank t) && !bit (tdExtentWord t 0) 31 && !bit (tdExtentWord t 1) 31 &&
              decide (cols ≤ bits (tdExtentWord t 0) 0 31) && decide (rows ≤ bits (tdExtentWord t 1) 0 31) &&
              bits t 0 8 == (if psumExact m then 0x31 else 0x30)) &&
        (!aTransposed m || b.inRange aTd (some true) none) && (!bTransposed m || b.inRange wTd (some true) none) &&
        (!bSparse m || nm) && (!accShared m || (decide (2 ≤ shareCount m) && decide (shareRank m < shareCount m))) &&
        (!zgSkip m || (match b.tds[bits m 0 16]? with | some t => tdKind t == 0x10 | none => false)) &&
        (!blockSkip m || [aTd, wTd, out, fuseTd d].all fun i =>
          match b.tds[i]? with | some t => !kindBlock (tdKind t) || c.envelope.any (fun e => e.1 == i) | none => true) &&
        (!ftqEn d || (!zgEn d && !outPortEn d && rowDim d == 1 && colDim d == 0 && colSplit d == 0 &&
          (out == noTd || (b.inRange out (some false) (some (x / 16)) && (match b.fmt? out with | some f => popOk f | none => false))))) &&
        !(bit m 136 && b.boundTd wTd)
    | _, _, _ => false

/-- One instruction of a recipe (R224, R225, R234). `r` is a row group's size, `port` says which inputs have a TD. -/
def vinsOk (w : U32) (r : Nat) (port : Nat → Bool) : Bool :=
  let op := bits w 24 8
  let dst := bits w 18 6
  let b := bits w 6 6
  let md := bits w 0 6
  let reg := dst != 54 && dst != 55
  if [1, 2, 3, 5, 6, 0x81, 0x82, 0x83, 0x85, 0x86].contains op then reg && md / 16 == 0
  else if op = 4 ∨ op = 0x84 then reg
  else if 0x10 ≤ op ∧ op ≤ 0x16 then reg && b == 0 && md / 4 == 0
  else if op = 0x20 then dst / 8 == 0 && md / 32 == 0
  else if op = 0x21 then reg && md / 8 == 0
  else if op = 0x28 then reg && md % 4 != 3 && (md / 4 == 13 || b / 2 == 0)
  else if 0x30 ≤ op ∧ op ≤ 0x32 then reg && md == 0
  else if op = 0x33 ∨ op = 0x34 then reg && (md / 32 == 0 || b == 0)
  else if op = 0x38 then
    let src := bits w 12 6
    reg && decide (src ≤ 8) && b == 0 && decide (md < 8) && decide (md < r) && (src == 8 || port src)
  else if op = 0x39 then decide (dst < 16) && b == 0 && decide (md / 8 < r)
  else if op = 0x3C then reg && b / 8 == 0
  else false

/-- Row offsets of the PUSHes to Decant, in order. -/
def pushes (l : List U32) : List Nat := (l.filter fun w => bits w 24 8 == 0x39 && !bit w 21).map fun w => bits w 3 3

/-- SR conversions of a recipe (R230). -/
def srCvts (l : List U32) : Nat := (l.filter fun w => bits w 24 8 == 0x28 && bits w 0 2 == 2).length

/-- A VXE command and the recipe it runs (R222, R223, R230, R234). -/
def Binary.vxeOk (b : Binary) (x : Nat) (c : Cmd) (recipe : List U32) (m : BitVec 512) (d : BitVec 256) (bind : VxeBind) : Bool :=
  let start := bits m 144 10
  let len := bits m 160 11
  let g := bits m 184 3 + 1
  let rows := bits m 176 6 + 1
  let l := (recipe.drop start).take len
  let port (i : Nat) : Bool := match b.fmt? (bits m (16 * i) 16) with | some f => popOk f | none => false
  zeros m [(154, 6), (171, 5), (182, 2), (189, 3), (220, 36)] && decide (4 ≤ x % 16) && decide (x % 16 < 8) &&
    (List.range 8).all (fun i => b.tdRef (bits m (16 * i) 16) true) && b.tdRef (bits m 128 16) true &&
    decide (1 ≤ len) && decide (len ≤ 1024) && decide (start + len ≤ 1024) && decide (start + len ≤ recipe.length) && rows % g == 0 &&
    l.all (fun w => vinsOk w g port) && pushes l == List.range g && decide (srCvts l ≤ 255) &&
    b.decantOk c d (bits m 128 16) (bits m 192 8 + 1) rows bind.outOrg true

/-- Results an RXE command holds open at once: the keys of one box, and every key a level steps inside a level that steps a
reduced dimension (R243). -/
def openResults (b : BitVec 128) (c : Cmd) (bind : RxeBind) : Nat :=
  let count (l : Nat) : Nat := (c.maxCount l).getD 1
  (List.range 6).foldl (fun n d =>
    if rxeRed b d then n
    else n * bind.org.foldl (fun (k : Nat) a =>
      if a.dim.val == d && bind.org.any (fun r => rxeRed b r.dim.val && decide (r.level.val < a.level.val)) then k * max 1 (count a.level.val) else k)
      (bind.size.getD d 1)) 1

/-- An input format of the reduction engine (R238). -/
def rxeFmt (f : Fmt) : Bool :=
  match f with | .float g => decide (g.width ≤ 32) | .int w _ => decide (w ≤ 16) | _ => false

/-- An RXE command (R238, R243). -/
def Binary.rxeOk (b : Binary) (x : Nat) (c : Cmd) (m : BitVec 128) (bind : RxeBind) : Bool :=
  let op := rxeOp m
  let ext (td : Nat) : Bool := match b.tds[td]? with
    | none => true
    | some t => (List.range 6).all fun d => !rxeRed m d || bits (tdExtentWord t d) 0 32 == (if op = 8 ∧ d = rankDim m then rxeK m else 1)
  zeros m [(55, 1), (62, 2), (68, 60)] && x % 16 == 8 && decide (op ≤ 8) &&
    (match b.fmt? (rxeIn m) with | some f => rxeFmt f | none => false) &&
    (match b.tds[rxeOut m]? with | some t => bits t 0 8 == 1 && tdRmode t != 2 | none => rxeOut m == noTd && (op == 6 || op == 7)) &&
    (match b.tds[rxeIdx m]? with | some t => bits t 0 8 == 0x23 | none => rxeIdx m == noTd && decide (op < 6)) &&
    ext (rxeOut m) && ext (rxeIdx m) && decide (openResults m c bind ≤ 256 / rxeK m)

/-- A GSE command (R267, R542). -/
def Binary.gseOk (b : Binary) (x : Nat) (c : Cmd) (m : BitVec 256) : Bool :=
  let op := gseOp m
  let is (i code : Nat) : Bool := match b.tds[gseTd m i]? with | some t => bits t 0 8 == code | none => false
  let none_ (i : Nat) : Bool := gseTd m i == noTd
  let wide (i : Nat) : Bool := match b.tds[gseTd m i]? with
    | some t => decide ((List.range 6).foldl (fun n d => if d = gseDim m ∨ tdRank t ≤ d then n else n * b.maxExt c (gseTd m i) d) 1 ≤ 256)
    | none => false
  let kind (i : Nat) (p : Fmt → Bool) : Bool := match b.fmt? (gseTd m i) with | some f => p f | none => false
  zeros m [(6, 2), (14, 2), (139, 5), (144, 16), (182, 2), (184, 8), (224, 32)] && x % 16 == 10 && boundOk (countWord c) &&
    (List.range 7).all (fun i => b.tdRef (gseTd m i) true) &&
    (if op = 0 then wide 0 && wide 1 && is 2 0x23 && kind 0 (fun f => !f.isMx) && b.fmt? (gseTd m 0) == b.fmt? (gseTd m 1) && (none_ 6 || is 6 0x21)
     else if op = 1 then
      wide 0 && wide 1 && is 3 0x23 && [0, 1].all (fun i => kind i fun f => !(f.isMx || f.isInt) && popOk f) &&
        (match b.tds[gseTd m 1]? with | some t => tdRmode t != 2 | none => false)
     else if op = 2 then
      wide 0 && is 1 0x23 && is 2 0x23 && is 4 1 && is 5 0x23 && is 6 0x21 && gseCap m != 0
     else false) &&
    (!gseOutEn m || b.inRange (gseTd m 1) none none)

/-- A command of a unit with its unit's recipe. -/
def Binary.bodyOk (b : Binary) (x : Nat) (recipe : List U32) (c : Cmd) : Bool :=
  match c.body with
  | .mxe m d bind => b.mxeOk x c m d bind
  | .vxe m d bind => b.vxeOk x c recipe m d bind
  | .rxe m bind => b.rxeOk x c m bind
  | .gse m => b.gseOk x c m
  | .lmv s d _ _ _ => b.tdRef s false && b.tdRef d false && x % 16 == 9
  | .dmx s d _ _ => b.tdRef s false && b.tdRef d false && !b.inCellar s && (x % 16 == 12 || x % 16 == 13)
  | .hxu s _ dest => b.tdRef s false && !b.inCellar s && x % 16 == 14 && (match dest with | .onModule d _ _ => b.tdRef d false | .peer _ _ _ _ => true)
  | .upe => x % 16 == 11

/-- OP_ID, sharing fields and tensors of the shared operations of one configuration: (TENSOR_ID, PSUM_TD, count, rank, OP_ID, mode). -/
def shareKeys (b : Binary) (ps : List UnitProg) : List (Nat × Nat × Nat × Nat × Nat × Bool) :=
  (ps.flatMap (·.cmds)).filterMap fun c => match c.body with
    | .mxe m _ _ => if accShared m then
        some ((match b.tds[bits m 32 16]? with | some t => (tdTensor t).toNat | none => 0), bits m 48 16, shareCount m, shareRank m, mxeOp m, psumExact m) else none
    | _ => none

/-- Groups hold SHARE_COUNT members with ranks 0 upward in ascending OP_ID, and one mode (R197). -/
def groupsOk (l : List (Nat × Nat × Nat × Nat × Nat × Bool)) : Bool :=
  l.all fun e =>
    let g := l.filter fun k => k.1 == e.1 && k.2.1 == e.2.1
    g.length == e.2.2.1 && g.all (fun k => k.2.2.1 == e.2.2.1 && k.2.2.2.2.2 == e.2.2.2.2.2) &&
      (g.map fun k => k.2.2.2.1).eraseDups.length == g.length &&
      g.all fun a => g.all fun c => decide (a.2.2.2.1 < c.2.2.2.1) == decide (a.2.2.2.2.1 < c.2.2.2.2.1)

/-- The recipe a unit's commands run: its own, or the one it was loaded with before. -/
def Binary.recipeOf (b : Binary) (p : UnitProg) : List U32 :=
  if p.recipe.isEmpty then ((b.progs.find? fun q => q.x == p.x && !q.recipe.isEmpty).map (·.recipe)).getD [] else p.recipe

/-- The first command of an engine, in binary order, has PRELOAD 0 (R187). -/
def Binary.preloadOk (b : Binary) : Bool :=
  b.progs.all fun p => match ((b.progs.filter fun q => q.x == p.x).flatMap (·.cmds)).head? with
    | some c => (match c.body with | .mxe m _ _ => !bit m 136 | _ => true)
    | none => true

def nodup {α : Type} [DecidableEq α] (l : List α) : Bool := l.eraseDups.length == l.length

def Binary.opIds (b : Binary) : List Nat := b.allCmds.filterMap fun c => match c.2.body with | .mxe m _ _ => some (mxeOp m) | _ => none

def Binary.cmdsOk (b : Binary) : Bool :=
  nodup (b.allCmds.map fun c => c.2.tag) && nodup b.opIds && b.preloadOk &&
    b.allCmds.all (fun c => b.cmdPlain c.2) && b.progs.all (fun p => decide (p.recipe.length ≤ 1024) && p.cmds.all fun c => b.bodyOk p.x.addr (b.recipeOf p) c) &&
    groupsOk (shareKeys b b.units) && b.reconfs.all fun r => groupsOk (shareKeys b r.units)

/-! ### The layer table and the bucket table (R289, R290, R299, R341, R362) -/

/-- One layer against its group's rule. -/
def Binary.layerOk (b : Binary) (u : UpdateSec) (e : BitVec 256) : Bool :=
  let f (i code : Nat) : Bool := match b.tds[i]? with | some t => bits t 0 8 == code | none => false
  let present (i : Nat) (want : Bool) : Bool := if want then f i 1 else i == noTd
  match u.groups[layGroup e]? with
  | none => false
  | some g =>
    let rule := grpRule g
    zeros e [(29, 3), (144, 112)] && (layGfmt e == 0x11 || layGfmt e == 2) && (layUp e == 0x1FFF || decide (layUp e < u.layers.length)) &&
      f (layW e) 2 && present (layMaster e) (!grpCompact g) && present (layM e) (grpM1 g) && present (layV e) (rule != 0) &&
      present (layC e) (decide (2 ≤ rule)) && (f (layRg e) 1 || f (layRg e) 2) && decide (-64 ≤ layCarry0 e) && decide (layCarry0 e ≤ 64)

def groupOk (g : BitVec 512) : Bool :=
  zeros g [(4, 28), (121, 7), (320, 192)] && (decide (2 ≤ grpRule g) || grpM1 g)

def Binary.updateOk (b : Binary) : Bool :=
  match b.update with
  | none => true
  | some u =>
    zeros u.header [(13, 3), (26, 6), (112, 16), (185, 7), (249, 7), (288, 224)] && updPolicy u.header != 3 &&
      updLayers u.header == u.layers.length && decide (1 ≤ u.layers.length) && decide (u.layers.length ≤ 4096) &&
      bits u.header 16 8 + 1 == u.groups.length && updQuietLimit u.header != 0 &&
      u.groups.all groupOk && u.layers.all (b.layerOk u)

/-- Blocks of the gradient space. -/
def Binary.blocks (b : Binary) : Nat :=
  match b.update with
  | none => 0
  | some u => (u.layers.map fun e => match bankView b false (layW e) with | some v => ceilDiv v.storedCount 256 | none => 0).foldl (· + ·) 0

/-- GFMT of the layer that holds a block. -/
def Binary.gfmts (b : Binary) (first n : Nat) : List Nat :=
  match b.update, b.exch with
  | some u, some x => u.layers.zipIdx.filterMap fun e =>
      let lo := x.layerBlock.getD e.2 0
      let hi := x.layerBlock.getD (e.2 + 1) b.blocks
      if lo < first + n ∧ first < hi then some (layGfmt e.1) else none
  | _, _ => []

/-- One bucket entry; `id` is its place, `at_` the block it must begin with. What leaves by a Nelil port, its
source, staging and carry, lies in no Cellar range (R287). -/
def Binary.bucketOk (b : Binary) (carry : Bool) (k : BitVec 256) (id at_ : Nat) : Bool :=
  let n := bits k 64 19
  zeros k [(12, 4), (22, 10), (62, 2), (83, 13), (156, 100)] && bits k 0 12 == id && id != 4095 && bits k 16 2 != 3 && bits k 32 30 == at_ &&
    decide (256 ≤ n) && decide (n ≤ 262144) && b.tdRef (bits k 112 16) false && [96, 112, 128].all (fun o => !b.inCellar (bits k o 16)) &&
    (if carry then (match b.tds[bits k 128 16]? with | some t => bits t 0 8 == 1 | none => false) else bits k 128 16 == noTd) &&
    (match b.tds[bits k 96 16]? with
      | some t => tdRank t == 1 && bits (tdExtentWord t 0) 0 32 == n * 256 && (b.gfmts at_ n).all fun g => g == bits t 0 8
      | none => false)

def Binary.bucketsOk (b : Binary) (carry : Bool) : List (BitVec 256) → Nat → Nat → Bool
  | [], _, at_ => at_ == b.blocks
  | k :: t, id, at_ => b.bucketOk carry k id at_ && Binary.bucketsOk b carry t (id + 1) (at_ + bits k 64 19)

def Binary.exchOk (b : Binary) : Bool :=
  match b.exch with
  | none => !b.report.crossModule || b.update.isNone
  | some x =>
    let i32 (i : Nat) : Bool := match b.tds[i]? with | some t => bits t 0 8 == 0x23 | none => false
    (x.buckets.isEmpty && b.update.isNone) ||
    (zeros x.header [(13, 3), (18, 14), (64, 192)] && bits x.header 16 2 != 3 && bits x.header 0 13 == x.buckets.length &&
      decide (1 ≤ x.buckets.length) && decide (x.buckets.length ≤ 4095) && i32 (bits x.header 32 16) && i32 (bits x.header 48 16) && !b.inCellar (bits x.header 48 16) &&
      b.bucketsOk (bits x.header 16 2 == 1) x.buckets 0 0)

/-! ### The cause of a rejection (R429) -/

def Binary.loadCheck (b : Binary) : Option Nat :=
  if !b.tdsOk then some 0x21
  else if !b.queuesOk then some 0x23
  else if !(b.cmdsOk && b.updateOk && b.exchOk) then some 0x22
  else none

end Sys2Proof
end

