-- ==== Sys2Proof/Machine/Admission.lean ====
section
/-! DEFINITION. Admission and the calendar: the checks of R417, the base, shares, lendable time, resource claims (R63, R93, R111,
R326, R381, R392, R415 to R421, R429, R433 to R435, R458, R462 to R464, R467, R468). -/

namespace Sys2Proof.Machine

/-! ### The descriptor (R415, R416) -/

def dKind (d : BitVec 512) : Nat := bits d 0 2
def dClass (d : BitVec 512) : Nat := bits d 2 2
def dTrace (d : BitVec 512) : Bool := bit d 4
def dRecord (d : BitVec 512) : Bool := bit d 5
def dReplay (d : BitVec 512) : Bool := bit d 6
def dJob (d : BitVec 512) : U64 := BitVec.ofNat 64 (bits d 64 64)
def dStart (d : BitVec 512) : U64 := BitVec.ofNat 64 (bits d 256 64)
def dSave (d : BitVec 512) : Nat := bits d 320 57
def dNotBefore (d : BitVec 512) : Nat := bits d 384 48
def dDeadline (d : BitVec 512) : Nat := bits d 432 48

/-- Reserved fields zero, CLASS valid; what the kind leaves unused is zero. -/
def descOk (d : BitVec 512) : Bool :=
  zeros d [(7, 57), (185, 7), (377, 7), (480, 32)] && dClass d != 3 &&
    (if dKind d = 0 then bits d 320 16 == 0
     else if dKind d = 1 then zeros d [(128, 64), (192, 64), (384, 96)] && bits d 320 16 == 0
     else zeros d [(2, 62), (128, 384)])

/-! ### Candidates (R413, R417) -/

/-- Contexts in the order of a boundary: port A's first in even beats. -/
def boundaryOrder (beat : Nat) : List Nat :=
  if beat % 2 = 0 then List.range 32 else (List.range 16).map (· + 16) ++ List.range 16

/-- The candidate admission considers next: at a boundary, the first in order that was ready in time. -/
def State.nextCand (s : State) : Option (Nat × Fetched) :=
  if s.time.phase ≠ 0 then none
  else (boundaryOrder s.time.beat).findSome? fun n => match (s.ctxAt n).cands with
    | (f, b) :: _ => if b ≤ s.time.beat then some (n, f) else none
    | [] => none

def State.dropCand (s : State) (ctx : Nat) : State := s.updCtx ctx fun c => { c with cands := c.cands.tail }

/-- Do something with the next candidate if it is of a kind; it is a candidate no longer. -/
def State.takeKind (s : State) (kind : Nat) (f : State → Nat → Fetched → State) : State :=
  match s.nextCand with
  | some (n, c) => if dKind c.desc = kind then f (s.dropCand n) n c else s
  | none => s

/-- A descriptor ends ABORTED_FAULT at admission with a cause. -/
def State.reject (s : State) (ctx : Nat) (jid : U64) (cause : Nat) : State :=
  (s.postFault ctx { cause := cause, access := 3, pri := false, unitIsDie := true, unit := 30 + ctx / 16, fid := 0, jid := jid, dva := 0, bytes := 0 }).refuse
    ctx jid 6

/-! ### The calendar (R418, R419) -/

/-- A GUARANTEED job holds its reservation from acceptance to its end (R431). -/
def State.reservations (s : State) (but : U64) : List Job := s.jobs.filter fun j => j.live && j.guaranteed && j.jid != but

/-- Spans a new reservation may not overlap: other reservations, running BEST_EFFORT jobs. -/
def State.spans (s : State) (but : U64) : List (Nat × Nat) :=
  ((s.reservations but) ++ s.jobs.filter fun j => j.live && j.cls == 1 && j.phase != .waiting && j.phase != .preempted && j.phase != .parked && j.jid != but).map
    fun j => (j.base, j.endBeat)

def apart (sp : List (Nat × Nat)) (b n : Nat) : Bool := sp.all fun e => decide (b + n ≤ e.1) || decide (e.2 ≤ b) || decide (e.2 ≤ e.1)

/-- Beats of [t, t + h) that a port's reservations cover. -/
def State.portBeats (s : State) (port t h : Nat) (but : U64) : Nat :=
  (((s.reservations but).filter fun j => j.ctx.val / 16 == port).map fun j => min j.endBeat (t + h) - max j.base t).foldl (· + ·) 0

/-- Room the share rule leaves a port, in beats of its horizon; none if its reservations exceed the share already. -/
def State.shareRoom (s : State) (port t : Nat) (but : U64) : Option Nat :=
  let h := max 1 (s.hpAt port).horizon.toNat
  let cap := min 256 (s.hpAt port).share.toNat * h / 256
  if s.portBeats port t h but ≤ cap then some (cap - s.portBeats port t h but) else none

def State.shareOk (s : State) (port t b n : Nat) (but : U64) : Bool :=
  match s.shareRoom port t but with
  | some r => decide (min (b + n) (t + max 1 (s.hpAt port).horizon.toNat) - max b t ≤ r)
  | none => false

/-- The share the binary needs of its host port is one the port has (R108; DEDUCED, log entry 76: R419 compares beats only). -/
def State.portShareOk (s : State) (port share : Nat) : Bool := decide (share ≤ min 256 (s.hpAt port).share.toNat)

/-- The earliest base of a reservation of n beats: the first instant the rules allow and the ends of other spans are the only places
where it can begin. -/
def State.findBase (s : State) (port n notBefore deadline : Nat) : Option Nat :=
  let t := s.time.beat
  let h := max 1 (s.hpAt port).horizon.toNat
  let room := (s.shareRoom port t 0).getD 0
  let lo := max notBefore (t + 2)
  let sp := s.spans 0
  let cands := (lo :: (t + h - room) :: sp.map (·.2)).filter fun b => decide (lo ≤ b) && apart sp b n && s.shareOk port t b n 0
  match cands with
  | [] => none
  | c :: cs =>
    let b := cs.foldl min c
    if deadline = 0 ∨ b + n ≤ deadline then some b else none

/-- A wanted base passes the same rules. -/
def State.baseOk (s : State) (port b n notBefore deadline : Nat) (but : U64) : Bool :=
  decide (notBefore ≤ b) && decide (s.time.beat + 2 ≤ b) && apart (s.spans but) b n && (deadline == 0 || decide (b + n ≤ deadline)) &&
    s.shareOk port s.time.beat b n but

/-! ### Residency (R381, R392, R417) -/

/-- How far PINNED entries reach from an address, W set if asked. -/
def pinnedTo (ps : List PinEnt) (w : Bool) : Nat → Nat → Nat
  | 0, a => a
  | n + 1, a => match ps.find? fun p => p.en && p.st == 2 && decide (p.base ≤ a) && decide (a < p.limit) && (p.w || !w) with
    | some p => pinnedTo ps w n p.limit
    | none => a

def State.isPinned (s : State) (ctx lo len : Nat) (w : Bool) : Bool :=
  let ps := (s.ctxAt ctx).pins.map (·.2)
  decide (lo + len ≤ pinnedTo ps w (ps.length + 1) lo)

/-- How far a context's locked entries lead to GDDR7 from an address. -/
def gddrTo (es : List TlbEntry) : Nat → Nat → Nat
  | 0, a => a
  | n + 1, a => match es.find? fun e => e.tgt == 0 && decide (e.lo ≤ a) && decide (a < e.lo + e.size) && decide (e.out + e.size ≤ gddrTop) with
    | some e => gddrTo es n (e.lo + e.size)
    | none => a

def State.saveAreaOk (s : State) (ctx dva len : Nat) : Bool :=
  let es := s.locked.filter fun e => e.ctx == ctx
  s.isPinned ctx dva (max len 128) true && decide (dva + max len 128 ≤ gddrTo es (es.length + 1) dva)

/-- CXL ports a pinned range routes to. -/
def State.cxlPorts (s : State) (ctx : Nat) (r : PinRange) : List Nat :=
  let es := s.locked.filter fun e => e.ctx == ctx && e.tgt == 0 && decide (e.lo < r.dva + r.len) && decide (r.dva < e.lo + e.size) && inCxl e.out
  [0, 1, 2, 3].filter fun c => es.any fun e => (s.cxlAt c).hdm.any fun h =>
    h.committed && decide (cxlBase + h.base < e.out + e.size) && decide (e.out < cxlBase + h.base + h.size)

/-- R381 for the ranges of a GUARANTEED job. -/
def State.cxlReady (s : State) (ctx : Nat) (b : Binary) : Bool :=
  b.report.pins.all fun r => (s.cxlPorts ctx r).all fun c =>
    let p := s.cxlAt c
    p.link == 2 && p.full && p.latMax != 0 && decide (p.latMax.toNat ≤ b.report.cxlLat)

def tdPinned (s : State) (ctx : Nat) (b : Binary) (w : Bool) (td : Nat) : Bool :=
  match b.tds[td]? with | some t => s.isPinned ctx (tdBase t) (tdLimit t) w | none => true

/-- R392 for the link dies' tensors of a cross-module job. -/
def State.linkPinned (s : State) (ctx : Nat) (b : Binary) : Bool :=
  let read := match b.exch with | some x => x.buckets.map fun k => bits k 96 16 | none => []
  let written := match b.exch with
    | some x => [bits x.header 32 16, bits x.header 48 16] ++ x.buckets.flatMap (fun k => [bits k 112 16, bits k 128 16]) ++ x.halo.map (·.td)
    | none => []
  let rg := match b.update with | some u => u.layers.map layRg | none => []
  read.all (tdPinned s ctx b false) && (written ++ rg).all (tdPinned s ctx b true)

def State.resident (s : State) (ctx : Nat) (d : BitVec 512) (b : Binary) (guaranteed cross : Bool) : Bool :=
  (!guaranteed || (s.cxlReady ctx b && b.report.pins.all fun r => s.isPinned ctx r.dva r.len r.write)) &&
    (!cross || s.linkPinned ctx b) && s.saveAreaOk ctx (dSave d) b.report.saveBytes

/-! ### Capacity (R326, R403, R417) -/

/-- TORUS of a binary against NL_TORUS (R323). -/
def State.torusFits (s : State) (t : Torus) : Bool :=
  bit s.torus 45 && bits s.torus 15 5 + 1 == t.x && bits s.torus 20 5 + 1 == t.y && bits s.torus 25 5 + 1 == t.z &&
    bits s.torus 30 15 == t.origin.toNat && t.ranks.any fun r => r.1.toNat == s.moduleId

/-- Admission takes nothing at all: compute dies run different firmware (R484), test scan is unlocked (R492), or an image or a device
failed at boot (R486). -/
def State.closed (s : State) : Bool :=
  (List.range 24).any (fun d => (s.dieAt d).fwVer != (s.dieAt 0).fwVer) || bit s.sec.scope 1 || 2 ≤ s.sec.err.toNat

/-- Step 3, with the job itself (a RESUME's) left out of every count. -/
def State.capacity (s : State) (ctx : Nat) (cls : Nat) (cross : Bool) (t : Torus) (but : U64) : Bool :=
  let js := s.jobs.filter fun j => j.live && j.jid != but
  !s.closed && decide ((js.filter fun j => j.ctx.val == ctx).length < 16) && decide ((js.filter (·.guaranteed)).length < 64) &&
    decide ((js.filter fun j => !j.guaranteed && j.phase == .waiting && j.ctx.val / 16 == ctx / 16).length < 32) &&
    (cls != 0 || (s.hpAt (ctx / 16)).full) && (!cross || (s.torusFits t && !(js.any Job.cross)))

/-! ### Shared resources (R467, R468) -/

/-- RESOURCE_DENIED to the loser's context: resource, requesting context, winner's code. -/
def State.resourceDenied (s : State) (loser res ctx winner : Nat) : State := s.event loser 0x0C 0 [(16, 1, res), (17, 1, ctx), (18, 1, winner)]

/-- A job's Recorder claims the trace SRAMs: it yields to an earlier Recorder, and without SPLIT it takes them from a trace. -/
def State.claimRecorder (s : State) (ctx : Nat) : State × Bool :=
  let o := s.obs
  if o.sramOwner = 3 ∨ o.sramOwner = 7 then (s.resourceDenied ctx 1 ctx 3, false)
  else if o.sramOwner = 4 then
    if o.split then (s.setObs { o with sramOwner := 7, recCtx := BitVec.ofNat 5 ctx }, true)
    else
      let s1 := s.setObs { o with
        sramOwner := 3, recCtx := BitVec.ofNat 5 ctx, trace := o.trace.map fun e => (e.1, { e.2 with jid := none }) }
      let s2 : State := { s1 with jobs := s1.jobs.map fun j => { j with traced := false } }
      (s2.resourceDenied o.sramCtx.toNat 1 ctx 3, true)
  else (s.setObs { o with sramOwner := 3, recCtx := BitVec.ofNat 5 ctx }, true)

/-- A traced job claims the trace SRAMs. -/
def State.claimTrace (s : State) (ctx : Nat) : State × Bool :=
  let o := s.obs
  if o.sramOwner = 4 ∨ o.sramOwner = 7 then (s.resourceDenied ctx 1 ctx 4, false)
  else if o.sramOwner = 3 then
    if o.split then (s.setObs { o with sramOwner := 7, sramCtx := BitVec.ofNat 5 ctx }, true) else (s.resourceDenied ctx 1 ctx 3, false)
  else (s.setObs { o with sramOwner := 4, sramCtx := BitVec.ofNat 5 ctx }, true)

/-- A job that declares SAMPLE_STROBE claims the TRIG pin; a debug trigger loses it. -/
def State.claimStrobe (s : State) (ctx : Nat) : State × Bool :=
  let o := s.obs
  if o.trigOwner = 1 then (s.resourceDenied ctx 0 ctx 1, false)
  else
    let s1 := s.setObs { o with trigOwner := 1, trigCtx := BitVec.ofNat 5 ctx, resReq := if o.trigOwner = 2 then tabSet false o.resReq o.trigCtx.toNat false else o.resReq }
    (if o.trigOwner = 2 then s1.resourceDenied o.trigCtx.toNat 0 ctx 1 else s1, true)

/-- Trace of a job begins on the dies its context selects (R443); what the last one left undrained or unsaid stays. -/
def State.startTrace (s : State) (ctx : Nat) (jid : U64) : State :=
  let dies := (List.range 32).filter fun d => bit (s.ctxAt ctx).traceDies d
  let s1 := dies.foldl (fun s d =>
    let t := s.traceAt d
    s.setTrace d { TraceSt.reset with recs := t.recs, gap := t.gap, missed := t.missed, sinceEvent := t.sinceEvent, ctx := BitVec.ofNat 5 ctx, jid := some jid, lastEvent := t.lastEvent }) s
  s1.updCtx ctx fun c => { c with trigAt := none, trigDone := false }

/-! ### The Recorder (R458, R461 to R464) -/

/-- DVA of a context's recording area, and whether it asks for FULL. -/
def CtxSt.recBase (c : CtxSt) : Nat := bits c.recArea 16 41 * 65536
def CtxSt.recFull (c : CtxSt) : Bool := bit c.recArea 0

def descWords (d : BitVec 512) : List Nat := (List.range 8).map fun i => bits d (64 * i) 64

def newRec (s : State) (ctx : Nat) (jid : U64) (b : Binary) (replayOf : Option U64) : RecSt :=
  let c := s.ctxAt ctx
  let shed := decide (1 ≤ s.pwr.eff)
  { jid := jid, ctx := ctx, area := c.recBase, cap := bits c.recSize 0 32 * 65536, fullCap := bits c.recSize 32 32 * 65536, full := c.recFull,
    state := 0, entries := [], bytes := 0, fullBytes := 0, truncS := 0xFFFFFFFF, fullEndS := if shed then 0 else 0xFFFFFFFF,
    binDigest := b.digest, replayOf := replayOf, status := 0, kind := 0, divUnit := 0, firstS := 0, pi := 0, diverged := 0, div := [], shown := (0, 0), closed := false }

/-- The recording a replay descriptor names: complete or truncated, in the context's area. -/
def State.recordingAt (s : State) (ctx : Nat) : Option RecSt :=
  s.obs.recs.find? fun r => r.replayOf.isNone && r.ctx == ctx && r.area == (s.ctxAt ctx).recBase && r.state != 0

/-- The descriptor a replay runs: the seed and START_STEP are the recorded ones. -/
def replayDesc (d : BitVec 512) (r : RecSt) : BitVec 512 :=
  match r.entries.find? fun e => e.kind == 1 with
  | some e => putField (putField d 192 64 (e.words.getD 3 0)) 256 64 (e.words.getD 4 0)
  | none => d

/-- Keep one recording per area; a new one takes the place of the old. -/
def State.addRec (s : State) (r : RecSt) : State :=
  s.setObs { s.obs with recs := (s.obs.recs.filter fun q => !(q.ctx == r.ctx && q.area == r.area && q.replayOf.isNone == r.replayOf.isNone)) ++ [r] }

/-! ### A new job -/

def newLayer (e : BitVec 256) : LayerSt :=
  { c := layCarry0 e, cPrev := layCarry0 e, emax := none, sysEmax := none, gzero := 0, lost := 0, flushed := 0, nfZeroed := 0, quiet := false,
    quietRun := 0, ng := 0, nw := 0, nd := 0, tr := 0, done := false }

def newJob (ctx : Nat) (d : BitVec 512) (b : Binary) (base endBeat : Nat) (phase : JobPhase) : Job :=
  { jid := dJob d, ctx := BitVec.toFin (BitVec.ofNat 5 ctx), cls := BitVec.ofNat 2 (dClass d), desc := d, bin := b, phase := phase, base := base,
    endBeat := endBeat, lent := false, widened := false, isExact := true, reasons := 0, flags := 0, period := 0, s := 0, commits := 0,
    gstep := dStart d, active := false, outcome := .none,
    layers := (match b.update with | some u => u.layers.map newLayer | none => []), gnorm := 0, clips := [], lrs := [], p2 := none, pass1 := false,
    norms := false, updated := false,
    x := { ExchSt.empty with buckets := match b.exch with | some x => x.buckets.map fun _ => BucketSt.fresh | none => [] },
    ingest := [], windowOpen := false, window := 0, lateContrib := 0, carryLost := 0, lateSamples := 0, carriedSamples := 0, droppedSamples := 0,
    emptySlots := [], adderHold := List.replicate 6 0, silentBeats := 0, progress := false, hung := false, saveDva := dSave d, saveAt := 0, rejoin := 0, cause := 0,
    pendAbort := none, faulted := false, traced := false, recorded := false, strobed := false }

/-- ceil of a reservation widened under R111. -/
def State.widen (s : State) (n : Nat) : Nat := ceilDiv (n * (256 + s.time.margin.toNat)) 256

/-- A standalone replay needs no peers (R464). -/
def standalone (b : Binary) : Binary := { b with report := { b.report with crossModule := false } }

/-! ### RUN (R417) -/

/-- What step 1 finds wrong: MALFORMED_DESC, DUP_JOB, or a load check's cause. -/
def State.runCause (s : State) (ctx : Nat) (f : Fetched) : Option Nat :=
  let d := f.desc
  let bad (b : Binary) : Bool := dReplay d && (dRecord d || (match s.recordingAt ctx with | some r => r.binDigest != b.digest | none => true))
  match f.bin with
  | none => some 0x20
  | some b =>
    if !descOk d || bad b then some 0x20
    else if s.jobs.any fun j => j.live && bits j.jid 0 32 == bits (dJob d) 0 32 then some 0x24
    else b.loadCheck

/-- Claims of a job at admission: (state, traced, recorded, strobed). -/
def State.claimAll (s : State) (ctx : Nat) (d : BitVec 512) (b : Binary) : State × Bool × Bool × Bool :=
  let r := if dRecord d then s.claimRecorder ctx else (s, false)
  let t := if dTrace d then r.1.claimTrace ctx else (r.1, false)
  let p := if b.report.sampleStrobe then t.1.claimStrobe ctx else (t.1, false)
  (p.1, t.2, r.2, p.2)

/-- What a job carries away from its claims: trace and unplanned recording void the exact match and widen a GUARANTEED job. -/
def Job.claimed (j : Job) (traced recorded strobed widened : Bool) : Job :=
  let j1 := { j with traced := traced, recorded := recorded, strobed := strobed, widened := widened }
  let j2 := if traced || (recorded && !j.bin.report.recordBw) then j1.reason 2 else j1
  if dReplay j.desc then { j2 with isExact := false } else j2

/-- The job is accepted: Recorder, trace, ADMIT record on HD0. -/
def State.accept (s : State) (ctx : Nat) (j : Job) (replay : Option RecSt) : State :=
  let s1 : State := { s with jobs := s.jobs ++ [j] }
  let s2 := match replay with
    | some r => s1.addRec (newRec s1 ctx j.jid j.bin (some r.jid))
    | none => if j.recorded then s1.addRec (newRec s1 ctx j.jid j.bin none) else s1
  let s3 := s2.record j.jid 0x01 (descWords j.desc) []
  let s4 := if j.traced then s3.startTrace ctx j.jid else s3
  (s4.traceEv 30 0x09 6 j.jid 480 0 [(16, 1, 0xF), (20, 6, j.base)]).updCtx ctx fun c => { c with statusDirty := true }

/-- Steps 2 to 5 for a RUN whose step 1 passed. -/
def State.admitRun (s : State) (ctx : Nat) (d : BitVec 512) (b : Binary) (replay : Option RecSt) : State :=
  let g := dClass d == 0
  let cross := b.report.crossModule
  let port := ctx / 16
  if 2 ≤ s.pwr.eff then s.refuse ctx (dJob d) 0xB
  else if !s.capacity ctx (dClass d) cross b.report.torus 0 then s.refuse ctx (dJob d) 2
  else if !s.resident ctx d b g cross then s.refuse ctx (dJob d) 4
  else if cross && !(g && s.time.st == .locked) then s.refuse ctx (dJob d) 3
  else
    let cl := s.claimAll ctx d b
    let widened := g && (cl.2.1 || (cl.2.2.1 && !b.report.recordBw))
    let n := if widened then s.widen b.report.reserveBeats else b.report.reserveBeats
    let base := if !s.portShareOk port b.report.portShare then none
      else if cross then (if s.baseOk port (dNotBefore d) n (dNotBefore d) (dDeadline d) 0 then some (dNotBefore d) else none)
      else s.findBase port n (dNotBefore d) (dDeadline d)
    if g then match base with
      | none => s.refuse ctx (dJob d) 3
      | some bb => cl.1.accept ctx ((newJob ctx d b bb (bb + n) .admitted).claimed cl.2.1 cl.2.2.1 cl.2.2.2 widened) replay
    else cl.1.accept ctx ((newJob ctx d b 0 0 .waiting).claimed cl.2.1 cl.2.2.1 cl.2.2.2 false) replay

/-- RUN (R417 to R420, R463). -/
def execRun (s : State) : Host.Outcome State Fault Refusal :=
  s.ran fun s => s.takeKind 0 fun s ctx f =>
    match s.runCause ctx f, f.bin with
    | some c, _ => s.reject ctx (dJob f.desc) c
    | none, none => s.reject ctx (dJob f.desc) 0x20
    | none, some b =>
      if dReplay f.desc then match s.recordingAt ctx with
        | some r => s.admitRun ctx (replayDesc f.desc r) (if r.full then standalone b else b) (some r)
        | none => s.reject ctx (dJob f.desc) 0x20
      else s.admitRun ctx f.desc b none

/-! ### RESUME (R433 to R435) -/

/-- SAVE_BEATS (R421). -/
def saveBeats (b : Binary) : Nat := ceilDiv b.report.saveBytes 6000000 + 4

/-- The preempted job a token names, if R433 holds. -/
def State.resumable (s : State) (ctx : Nat) (d : BitVec 512) : Option Job :=
  let tok := dStart d
  match s.saves.find? fun v => v.ctx.val == ctx && v.dva / 65536 == bits tok 0 41 with
  | none => none
  | some v => s.jobs.find? fun j => j.jid == v.jid && j.phase == .preempted && bits tok 41 5 == ctx && bits tok 46 2 == 0 &&
      bits tok 48 16 == ofBytes (s.bytesAt (v.pa + 64) 2) && dJob d == j.jid && dClass d == j.cls.toNat && dSave d == j.saveDva

/-- The lowest period whose earliest mark lies at or after a beat (R435). -/
def Job.rejoinPeriod (j : Job) (at_ : Nat) : Nat :=
  let offs := (j.bin.marks.filter (·.step)).map (·.offset)
  let first := match offs with | [] => 0 | o :: t => t.foldl min o
  let step := j.bin.report.stepBeats * 2250
  if step = 0 then 0 else ceilDiv (at_ * 2250 - (j.base * 2250 + first)) step

/-- Step 5 of a RESUME and its effect: where the job goes on. -/
def State.admitResume (s : State) (j : Job) : State :=
  let br := s.time.beat + saveBeats j.bin
  let delta := br - j.saveAt
  let no := s.refuse j.ctx.val j.jid 3
  if j.cross then
    let p := j.rejoinPeriod br
    if s.time.st != .locked || decide (j.periods ≤ p) then no
    else s.updJob j.jid fun j => { j with phase := .resuming, rejoin := p }
  else if j.guaranteed then
    if s.baseOk (j.ctx.val / 16) br (j.endBeat - j.saveAt) 0 (dDeadline j.desc) j.jid then
      s.updJob j.jid fun j => { j with phase := .resuming, rejoin := delta, base := j.base + delta, endBeat := j.endBeat + delta }
    else no
  else s.updJob j.jid fun j => { j with phase := .parked, cause := 0 }

/-- RESUME. -/
def execResume (s : State) : Host.Outcome State Fault Refusal :=
  s.ran fun s => s.takeKind 1 fun s ctx f =>
    let d := f.desc
    if !descOk d then s.reject ctx (dJob d) 0x20
    else match s.resumable ctx d with
      | none => s.reject ctx (dJob d) 0x18
      | some j =>
        if 2 ≤ s.pwr.eff then s.refuse ctx j.jid 0xB
        else if !s.capacity ctx j.cls.toNat j.cross j.bin.report.torus j.jid then s.refuse ctx j.jid 2
        else if !s.resident ctx j.desc j.bin j.guaranteed j.cross then s.refuse ctx j.jid 4
        else
          let s1 := s.admitResume j
          match s1.job? j.jid with
          | some k => if k.phase == .preempted then s1 else s1.traceEv 30 0x09 6 j.jid 480 0 [(16, 1, 0xF), (20, 6, k.base)]
          | none => s1

/-! ### PREEMPT and ABORT (R416) -/

/-- BAD_TARGET of a descriptor: a fault record alone. -/
def State.badTarget (s : State) (ctx : Nat) (jid : U64) (cause : Nat) : State :=
  s.postFault ctx { cause := cause, access := 3, pri := false, unitIsDie := true, unit := 30 + ctx / 16, fid := 0, jid := jid, dva := 0, bytes := 0 }

/-- The live job of a context that a descriptor names. -/
def State.target (s : State) (ctx : Nat) (jid : U64) : Option Job := s.jobs.find? fun j => j.live && j.jid == jid && j.ctx.val == ctx

def execPreempt (s : State) : Host.Outcome State Fault Refusal :=
  s.ran fun s => s.takeKind 2 fun s ctx f =>
    let d := f.desc
    if !descOk d then s.badTarget ctx (dJob d) 0x20
    else match s.target ctx (dJob d) with
      | some j => if j.preemptible then s.askPreempt j.jid 3 else s.badTarget ctx (dJob d) 0x25
      | none => s.badTarget ctx (dJob d) 0x25

def execAbort (s : State) : Host.Outcome State Fault Refusal :=
  s.ran fun s => s.takeKind 3 fun s ctx f =>
    let d := f.desc
    if !descOk d then s.badTarget ctx (dJob d) 0x20
    else match s.target ctx (dJob d) with
      | some j => s.abortJob j.jid 0xC
      | none => s.badTarget ctx (dJob d) 0x25

/-! ### The start of a job (R63, R298, R418) -/

/-- The module SETs and arms the objects a job declares (R63). -/
def State.armSyncs (s : State) (ctx : Nat) : List SyncDecl → State
  | [] => s
  | d :: t =>
    State.armSyncs (s.setSync d.sid.toNat {
      value := d.value, ty := if d.work then 1 else 0, armed := true, ctx := BitVec.ofNat 5 ctx, signed := d.signed, bound := d.bound,
      rearm := d.rearm, initial := d.value }) ctx t

/-- GSTEP and STATE of a bank's label. -/
def State.labelOf (s : State) (w : Who) (j : Job) (bank : Bool) : Acc (Nat × Nat) :=
  (s.load w (updLabel j.header bank) 9).map fun b => (ofBytes (b.take 8), (b.getD 8 0).toNat % 4)

/-- The bank R298 activates: bank, and whether it is the initial weights. -/
def pickBank (start : Nat) (a b : Nat × Nat) : Option (Bool × Bool) :=
  let ok (l : Nat × Nat) : Bool := l.1 == start && decide (2 ≤ l.2)
  if ok a && (!ok b || a.2 == 3 || b.2 != 3) then some (false, false)
  else if ok b then some (true, false)
  else if start = 0 then some (false, true)
  else none

/-- Bytes of each INITIAL range, as the Recorder and a replay see them (R459, R464). -/
def State.recordInitial (s : State) (j : Job) : List (Nat × Nat) → State
  | [] => s
  | (dva, len) :: t =>
    let s0 := match s.replayed j.jid 2 [dva, len] with
      | some e => if e.data.isEmpty then s else s.storeQuiet j.ctx.val dva e.data
      | none => s
    let w : Who := { unit := 30, isDie := true, ctx := j.ctx.val, jid := j.jid, lockedOnly := false }
    let b := match s0.load w dva len with | .ok b => b | _ => []
    State.recordInitial (s0.record j.jid 0x02 [dva, len, digestOf b] b) j t

/-- A job starts: bank, objects, units, queues, marks. -/
def State.startJob (s : State) (j0 : Job) (base endBeat : Nat) (lent : Bool) : State :=
  let w : Who := { unit := 30, isDie := true, ctx := j0.ctx.val, jid := j0.jid, lockedOnly := j0.guaranteed }
  let go (s : State) (bank : Bool) : State :=
    let j := { j0 with base := base, endBeat := endBeat, lent := lent, phase := .running, active := bank }
    let s1 := (((s.updJob j.jid fun _ => j).armSyncs j.ctx.val j.bin.syncs).loadUnits j.jid true 0 j.bin.units).loadQueues j.bin.queues
    (((s1.addMarks j 0).addMarks j 1).addFixedMarks j).recordInitial j j.bin.report.initial
  if j0.bin.update.isNone then go s false
  else s.on w ((s.labelOf w j0 false).bind fun a => (s.labelOf w j0 true).map fun b => (a, b)) fun l =>
    match pickBank (dStart j0.desc).toNat l.1 l.2 with
    | none => s.jobFault j0.jid 0x17 3 30 true 0 0
    | some (bank, fresh) =>
      go (if fresh then s.storeQuiet j0.ctx.val (updLabel j0.header false) (labelBytes 0 3 j0.jid (gtWord s.gt).toNat 0) else s) bank

/-- A job preempted before it started, resumed at period π′ (R435): earlier periods are repeated without it. -/
def State.startLate (s : State) (j : Job) : State :=
  let s1 : State := { s with marks := s.marks.filter fun m => !(m.jid == j.jid && m.decl.step) }
  let s2 := s1.repeatRecords j j.cause 0 j.rejoin
  let j1 := { (j.newPeriod j.rejoin) with cause := 0, x := j.x }
  let s3 := s2.updJob j.jid fun _ => j1
  (s3.addMarks j1 j.rejoin).addMarks j1 (j.rejoin + 1)

/-- JOB_START: an admitted job whose base has come. -/
def execJobStart (jid : U64) (s : State) : Host.Outcome State Fault Refusal :=
  s.ran fun s => s.withJob jid fun j =>
    if j.phase = .admitted ∧ s.time.phase = 0 ∧ j.base ≤ s.time.beat ∧ s.pwr.eff < 3 then
      let s1 := s.startJob j j.base j.endBeat false
      if j.cross && j.rejoin != 0 then s1.withJob jid fun k => if k.phase == .running then s1.startLate k else s1 else s1
    else s

/-! ### Lendable time (R420, R421) -/

/-- Cycles in which a job is not idle by its schedule report (R420), each run in every period or once, counted from the base: its unit
commands (UNIT_PLAN), its marks and gated actions (MARKS, RELEASES), its ingest windows, its planned packets. A plan does not say when
packets are delivered: they may be from the first slot of a period to its last mark (log entry 45). -/
def Job.busyRuns (j : Job) : List (Bool × Nat × Nat) :=
  let r := j.bin.report
  let ms := j.bin.marks
  let opens := ms.filter fun m => m.role == .ingestOpen
  let closes := ms.filter fun m => m.role == .ingestClose
  let pkts := match j.bin.exch with | some x => x.plan | none => []
  let last := (ms.filter (·.step)).foldl (fun n m => max n m.offset) (r.stepBeats * 2250)
  (r.unitPlan.map fun p => (false, p.start, p.end_)) ++ (r.releases.map fun p => (false, p.at_, p.at_ + 1)) ++
  (ms.map fun m => (m.step, m.offset, m.offset + 1)) ++
  (opens.flatMap fun o => (closes.filter fun c => c.step == o.step).map fun c => (o.step, o.offset, c.offset + 1)) ++
  (pkts.map fun p => (true, p.slot, last + 1))

/-- The first beat at or after x, in beats from the base, that a run of cycles touches; L: cycles of a period. -/
def nextBusy (L x : Nat) (e : Bool × Nat × Nat) : Option Nat :=
  let n := if e.1 && decide (0 < L) && decide (e.2.2 ≤ x * 2250) then (x * 2250 - e.2.2) / L + 1 else 0
  if e.2.1 < e.2.2 && decide (x * 2250 < n * L + e.2.2) then some (max x ((n * L + e.2.1) / 2250)) else none

/-- The first beat at or after t that a reservation keeps from being lent: all of it, but for the idle intervals of a running job. -/
def Job.nextHeld (j : Job) (t : Nat) : Option Nat :=
  let x := max t j.base - j.base
  let b := if j.phase = .running then (j.busyRuns.filterMap (nextBusy (j.bin.report.stepBeats * 2250) x)).min? else some x
  match b with
  | some y => if j.base + y < j.endBeat then some (j.base + y) else none
  | none => none

/-- The end of the stretch of lendable time from t on; none: it has no end yet. -/
def State.lendEnd (s : State) (t : Nat) : Option Nat :=
  match (s.reservations 0).filterMap fun j => j.nextHeld t with
  | [] => none
  | e :: l => some (l.foldl min e)

/-- Beats of lendable time left, at least n. -/
def State.lendsFor (s : State) (n : Nat) : Bool :=
  match s.lendEnd s.time.beat with | none => true | some e => decide (s.time.beat + n ≤ e)

/-- A job on the module in lendable time. -/
def State.lentNow (s : State) : Option Job := s.jobs.find? fun j => j.live && j.lent && j.phase != .parked && j.phase != .preempted && j.phase != .waiting

/-- Scratchpad ranges, sync IDs and units of a job that another on the module holds. -/
def disjoint (a b : Job) : Bool :=
  (a.bin.report.scratch.all fun r => b.bin.report.scratch.all fun q =>
    r.die != q.die || decide (r.off + r.len ≤ q.off) || decide (q.off + q.len ≤ r.off)) &&
  (a.bin.syncs.all fun x => b.bin.syncs.all fun y => x.sid != y.sid) &&
  (a.bin.progs.all fun x => b.bin.progs.all fun y => x.x != y.x)

/-- Whether a lent job may start, not before its NOT_BEFORE (R415), or be restored at this boundary. -/
def State.mayLend (s : State) (j : Job) : Bool :=
  let n := if j.preemptible then 2 * saveBeats j.bin + 1
    else if j.phase = .parked then saveBeats j.bin + (j.endBeat - j.saveAt) else j.bin.report.reserveBeats
  s.lendsFor n && (j.phase != .waiting || decide (dNotBefore j.desc ≤ s.time.beat)) && (s.jobs.all fun k => k.jid == j.jid || !k.guaranteed || k.phase == .admitted || k.phase == .preempted || disjoint j k)

/-- The waiting and parked jobs in order of acceptance. -/
def State.lentQueue (s : State) : List Job := s.jobs.filter fun j => j.live && !j.guaranteed && (j.phase == .waiting || j.phase == .parked)

/-- LENT_JOB_START: one lent job at a time, in order of acceptance: the first one's turn comes before any other's. -/
def execLentJobStart (jid : U64) (s : State) : Host.Outcome State Fault Refusal :=
  s.ran fun s =>
    if s.time.phase ≠ 0 || s.lentNow.isSome || decide (3 ≤ s.pwr.eff) then s
    else match s.lentQueue.head? with
      | none => s
      | some j =>
        if j.jid != jid || !s.mayLend j then s
        else if j.phase = .waiting then s.startJob j s.time.beat (s.time.beat + j.bin.report.reserveBeats) true
        else
          let delta := s.time.beat + saveBeats j.bin - j.saveAt
          s.updJob jid fun j => { j with phase := .resuming, rejoin := delta, base := j.base + delta, endBeat := j.endBeat + delta, lent := true }

/-- PARK: SAVE_BEATS before the stretch ends. -/
def execPark (jid : U64) (s : State) : Host.Outcome State Fault Refusal :=
  s.ran fun s => s.withJob jid fun j =>
    if j.lent && j.preemptible && j.phase == .running && s.time.phase == 0 && !s.lendsFor (saveBeats j.bin + 1) then
      s.updJob jid fun j => { j with phase := .stopping, cause := 0 }
    else s

/-- RESERVATION_END (R431): a preempted job whose reservation has ended. -/
def execReservationEnd (jid : U64) (s : State) : Host.Outcome State Fault Refusal :=
  s.ran fun s => s.withJob jid fun j =>
    if j.phase == .preempted && j.guaranteed && decide (j.endBeat ≤ s.time.beat) then
      s.finish j 1 (j.firstReason.getD 3) (s.time.beat - j.endBeat)
    else s

end Sys2Proof.Machine
end

