-- ==== Sys2Proof/Machine/Gddr.lean ====
section
/-! DEFINITION. GDDR7 reads, writes and scrubs, inline ECC, poison (R370 to R377). -/

namespace Sys2Proof.Machine

/-- Symbols in error, and the first of them (R372). -/
def errSymbols (e : EccErr) : List Nat := (List.range 32).filter fun i => bits e.pattern (16 * i) 16 != 0
def firstSymbol (e : EccErr) : Nat := (errSymbols e).headD 0

/-- A device that serves requests: not in self-refresh. -/
def State.devServes (s : State) (d : Nat) : Bool := !(s.devAt d).selfRefresh

/-- What an error pattern comes to (R372): nothing, a correction, a miscorrection, an uncorrectable error. -/
inductive EccOut where
  | clean | corrected | miscorrected | uncorrectable
deriving DecidableEq, Repr

/-- Three or more symbols are detected or miscorrected: which is a function of the pattern in the burst as stored, not stated. -/
def eccOut (stored : BitVec 512) (e : EccErr) : EccOut :=
  match (errSymbols e).length with
  | 0 => .clean
  | 1 => .corrected
  | 2 => .uncorrectable
  | _ => if Config.eccDetects stored e.pattern then .uncorrectable else .miscorrected

/-- A burst as stored. -/
def State.burst (s : State) (k : Nat) : BitVec 512 := BitVec.ofNat 512 (ofBytes (s.bytesAt (k * 64) 64))

/-- ECC_CORRECTED may be posted for a device: none in the last 1,024 beats (R374). -/
def DevSt.mayPost (d : DevSt) (beat : Nat) : Bool :=
  match d.lastEvent with
  | none => true
  | some b => decide (b + 1024 ≤ beat)

/-- Post the corrections since the last event of a device. -/
def State.postCorrected (s : State) (dev : Nat) : State :=
  let d := s.devAt dev
  if d.since = 0 || !d.mayPost s.time.beat then s
  else
    (s.event s.controlCtx 0x09 0 [(16, 1, dev), (17, 1, d.lastSym), (18, 1, b2n d.hard), (20, 4, d.since), (24, 8, d.lastAddr.toNat)]).setDev dev
      { d with since := 0, hard := false, lastEvent := some s.time.beat }

/-- Passes in a row in which the scrubber has corrected a symbol of a burst, with this one (R377). -/
def DevSt.runOf (d : DevSt) (burst sym pass : Nat) : Nat :=
  match d.hist.find? fun h => h.1 == burst && h.2.1 == sym && h.2.2.1 + 1 == pass with
  | some h => h.2.2.2 + 1
  | none => 1

/-- Remember a scrub's correction; what lies two passes back is forgotten. -/
def DevSt.noteScrub (d : DevSt) (burst sym pass : Nat) : DevSt :=
  let run := d.runOf burst sym pass
  let kept := d.hist.filter fun h => decide (pass ≤ h.2.2.1 + 1) && !(h.1 == burst && h.2.1 == sym)
  { d with hist := kept ++ [(burst, sym, pass, run)], hard := d.hard || decide (3 ≤ run), devFault := d.devFault || decide (3 ≤ run) }

/-- A correction: counted, noted, reported as the limit allows. -/
def State.correct (s : State) (a : Nat) (e : EccErr) (scrub : Bool) : State :=
  let l := gddrMap a
  let s1 := (s.cntAdd (cntDev l.dev 2) 1).updDev l.dev fun d =>
    let d1 := { d with since := d.since + 1, lastAddr := BitVec.ofNat 45 (burstOf a * 64), lastSym := firstSymbol e }
    if scrub then d1.noteScrub (burstOf a) (firstSymbol e) d.passes.toNat else d1
  s1.postCorrected l.dev

/-- A miscorrection delivers and writes back other data (R372): free bytes. -/
def State.miscorrect (s : State) (burst : Nat) (e : EccErr) : State :=
  s.putBytes (burst * 64) ((List.range 64).map fun i => Config.eccByte (s.burst burst) e.pattern i)

/-- An uncorrectable error poisons the burst (R375); in a burst rewritten since it was poisoned, it is hard (R377). -/
def State.uncorrectable (s : State) (a : Nat) : State :=
  let l := gddrMap a
  let k := burstOf a
  let again := (s.devAt l.dev).rewritten.contains k
  let s1 := ((s.setPoison k true).cntAdd (cntDev l.dev 3) 1).updDev l.dev fun d =>
    { d with poisonAddr := BitVec.ofNat 45 (k * 64), poisonValid := true, devFault := d.devFault || again }
  s1.event s1.controlCtx 0x0A 0 [(16, 1, l.dev), (18, 1, b2n again), (24, 8, k * 64)]

/-- A read of a burst that is not poisoned meets an error pattern. -/
def State.meet (s : State) (a : Nat) (e : EccErr) (scrub : Bool) : State :=
  if s.poisoned (burstOf a) then s
  else match eccOut (s.burst (burstOf a)) e with
    | .clean => s
    | .corrected => s.correct a e scrub
    | .miscorrected => (s.miscorrect (burstOf a) e).correct a e scrub
    | .uncorrectable => s.uncorrectable a

/-- Phases 0000 to 0089 are the refresh and scrub window, in which a device serves no other request (R373). -/
def State.scrubTime (s : State) : Bool := decide (s.time.phase ≤ 89)

/-- SCRUB_WINDOW (R373): in the window each controller checks its next ECC block, one in every beat. -/
def execScrubWindow (errs : List ScrubErr) (s : State) : Host.Outcome State Fault Refusal :=
  s.ran fun s =>
    if !s.scrubTime then s
    else
      (List.range 48).foldl (fun s dev =>
        if !s.devServes dev || (s.devAt dev).lastScrub == some s.time.beat then s
        else
          let blk := (s.devAt dev).nextBlock.toNat
          let s1 := (errs.filter fun e => e.dev.val == dev).foldl (fun s e => s.meet (gddrUnmap dev blk e.slot.val) e.err true) s
          (s1.cntAdd (cntDev dev 4) 1).updDev dev fun d =>
            { d with lastScrub := some s.time.beat, nextBlock := d.nextBlock + 1, passes := if blk + 1 = 2 ^ 21 then satAdd d.passes 1 else d.passes }) s

/-- The accessor behind a stream, if it works for a job. -/
def State.streamWho (s : State) (b : Stream) : Option Who :=
  match b with
  | .unit x => ((s.unit x.addr).job.bind fun k => s.job? k).map fun j => whoOf x.addr j
  | .link l => s.crossJob.map fun j => linkWho j l.val

/-- Poison reaches the stream (R376). -/
def State.poisonTo (s : State) (b : Stream) (access a : Nat) : State :=
  match s.streamWho b with
  | some w => s.poisonFault w.jid access w.unit w.isDie a a 0
  | none => s

/-- GDDR7_READ (R374 to R376): of the burst at a device-physical address. In the scrub window the request waits. -/
def execGddr7Read (by_ : Stream) (a : BitVec 45) (err : EccErr) (s : State) : Host.Outcome State Fault Refusal :=
  s.ran fun s =>
    let n := a.toNat
    if !inGddr n || !s.devServes (gddrMap n).dev || s.scrubTime then s
    else
      let s1 := (s.cntAdd (cntDev (gddrMap n).dev 0) 1).meet n err false
      if s1.poisoned (burstOf n) then s1.poisonTo by_ 0 n else s1

/-- GDDR7_WRITE (R372, R375): the bytes that lie in the burst of the address. A whole burst is written without a read; fewer bytes
are merged, and a poisoned burst takes none of them. -/
def execGddr7Write (by_ : Stream) (a : BitVec 45) (data : List Byte) (err : EccErr) (s : State) : Host.Outcome State Fault Refusal :=
  s.ran fun s =>
    let n := a.toNat
    let d := (gddrMap n).dev
    if !inGddr n || !s.devServes d || s.scrubTime then s
    else
      let b := data.take (64 - n % 64)
      let s0 := s.cntAdd (cntDev d 1) 1
      if b.length = 64 then (s0.cleanBurst (burstOf n)).putBytes n b
      else
        let s1 := (s0.cntAdd (cntDev d 5) 1).meet n err false
        if s1.poisoned (burstOf n) then s1.poisonTo by_ 1 n else s1.putBytes n b

/-- ECC_CORRECTED (R374): corrections held back are posted at a beat boundary once the limit allows it. -/
def execEccCorrected (dev : Fin 48) (s : State) : Host.Outcome State Fault Refusal :=
  s.ran fun s => if s.time.phase = 0 then s.postCorrected dev.val else s

end Sys2Proof.Machine
end

