-- ==== Sys2Proof/Machine/Xlate.lean ====
section
/-! DEFINITION. Walks, invalidation, ATS and PRI, pins, resolutions of faults (R381, R382, R386 to R402). -/

namespace Sys2Proof.Machine

/-! ### Streams that wait (R396, R399) -/

/-- A unit that waited on a fault goes on. -/
def State.resumeUnit (s : State) (x : Nat) : State := if (s.unit x).wait.code = 6 then s.setRun x else s

/-- Translate the access of a stream again: it goes on, faults again, or waits for the host (R399). Its wait was a sign of life in this
beat (R453). -/
def State.retryStream (s : State) (jid : U64) (write : Bool) (dva0 : Nat) (k : Nat) : State :=
  match s.job? jid with
  | none => s
  | some j =>
    let w : Who := if k < 512 then whoOf k j else linkWho j (k - 512 - 28)
    let dva := if k < 512 && (s.unit k).wait.code == 6 then (s.unit k).wait.word.toNat else dva0
    match s.locate w dva write with
    | .ok _ => if k < 512 then (s.updJob jid fun j => { j with progress := true }).resumeUnit k else s
    | .bad c x d p => s.streamFault w c x d p 0
    | .wait _ => s

def State.closeFault (s : State) (f : FaultSt) : State := { s with faults := s.faults.filter fun g => g != f }

/-- A resolution: the streams translate again. -/
def State.retryFault (s : State) (f : FaultSt) : State := f.streams.foldl (fun s k => s.retryStream f.jid f.write f.dva k) (s.closeFault f)

/-- The outstanding fault of a number. -/
def State.faultOf (s : State) (ctx : Nat) (fid : U32) : Option FaultSt := s.faults.find? fun f => f.ctx.val == ctx && f.fid == fid

/-- A resolution that names no outstanding fault is counted (R399). -/
def State.staleResolution (s : State) (ctx : Nat) : State := s.updCtx ctx fun c => { c with stale := min (c.stale + 1) 0xFFFF }

/-- A resolution of a fault of a context. A HOST_PAGE fault resolves itself. -/
def State.resolve (s : State) (ctx : Nat) (fid : U32) (g : State → FaultSt → State) : State :=
  match s.faultOf ctx fid with
  | none => s.staleResolution ctx
  | some e => if e.pri then s else g s e

/-- FAULT_RESOLVE: ACTION 1 translates the streams again, 2 aborts the job (R387, R399). -/
def State.retryOf (s : State) (ctx : Nat) (fid : U32) : State := s.resolve ctx fid State.retryFault
def State.abortOf (s : State) (ctx : Nat) (fid : U32) : State := s.resolve ctx fid fun s e => (s.closeFault e).abortJob e.jid 6

/-- RETRY (R399). -/
def execRetry (f : Func) (fid : U32) (s : State) : Host.Outcome State Fault Refusal := s.byBar (30 + f.port.val) fun s => s.retryOf f.ctx fid

/-- ABORT of a fault (R399). -/
def execAbortFault (f : Func) (fid : U32) (s : State) : Host.Outcome State Fault Refusal := s.byBar (30 + f.port.val) fun s => s.abortOf f.ctx fid

/-- A fault answered with anything but Success becomes a new record with cause PRI_FAILED. -/
def State.priFailed (s : State) (g : FaultSt) : State :=
  match s.job? g.jid with
  | none => s.closeFault g
  | some j => g.streams.foldl (fun s k =>
      let w : Who := if k < 512 then whoOf k j else linkWho j (k - 512 - 28)
      s.streamFault w 9 (b2n g.write) (if k < 512 && (s.unit k).wait.code == 6 then (s.unit k).wait.word.toNat else g.dva) 0 0) (s.closeFault g)

/-- Host pages known absent are asked for again after a page response. -/
def State.askAgain (s : State) (ctx : Nat) : State := { s with ats := s.ats.filter fun e => !(e.ctx == ctx && e.known && !e.present) }

/-- PAGE_RESPONSE (R399, R401). A response that names no outstanding fault only updates the host die's cache. -/
def execPageResponse (ctx : Fin 32) (fid : U32) (success : Bool) (s : State) : Host.Outcome State Fault Refusal :=
  s.ran fun s =>
    let s1 := if success then s.askAgain ctx.val else s
    match (s1.faultOf ctx.val fid).filter fun g => g.pri with
    | none => s1
    | some g => if success then s1.retryFault g else s1.priFailed g

/-! ### Host translations (R390) -/

/-- Ask the host for a page, for a pin or for an access. -/
def State.askHost (s : State) (port ctx page : Nat) (forPin : Bool) : State :=
  if s.ats.any fun e => e.covers port ctx page then s
  else { s with ats := s.ats ++ [{ port := port, ctx := ctx, page := page, order := 0, known := false, present := false, w := false, forPin := forPin }] }

/-- The host page a DVA of a context leads to. -/
def State.hostPage? (s : State) (ctx dva : Nat) : Option (Nat × Nat) :=
  match s.walk ctx dva with
  | .ok l => if l.tgt = 0 then none else some (l.tgt - 1, (l.out + (dva - l.lo)) / 4096)
  | .bad _ => none

/-- Units that wait for the host's answer and no fault record: their access is translated again. -/
def State.retryWaiting (s : State) : State :=
  let xs : List Nat := (s.units.filter fun e => e.2.wait.code == 6 && !(s.faults.any fun f => f.streams.contains e.1)).map (·.1)
  xs.foldl (fun s x => match (s.unit x).job with
    | some k => s.retryStream k false (s.unit x).wait.word.toNat x
    | none => s) s

/-- The cached translations of a host die, of more than 4,096 the oldest dropped; what a pin still needs and what is not answered yet stay
(R388, R389). -/
def trimAts (port : Nat) (l : List AtsEntry) : List AtsEntry :=
  let old (e : AtsEntry) : Bool := e.port == port && e.known && !e.forPin
  (l.filter fun e => !old e) ++ (l.filter old).drop ((l.filter old).length - 4096)

/-- ATS_TRANSLATION_COMPLETION (R390): the host grants a context a translation of 2^order pages, or none. -/
def execAtsTranslationCompletion (port : Fin 2) (page : Nat) (present write : Bool) (s : State) (ctx : Fin 32 := 0) (order : Fin 41 := 0) :
    Host.Outcome State Fault Refusal :=
  s.ran fun s =>
    let inside (k : AtsEntry) : Bool := k.port == port.val && k.ctx == ctx.val && decide (page ≤ k.page) && decide (k.page < page + 2 ^ order.val)
    let e : AtsEntry := { port := port.val, ctx := ctx.val, page := page, order := order.val, known := true, present := present, w := write,
                          forPin := s.ats.any fun k => inside k && k.forPin }
    let s1 : State := { s with ats := trimAts port.val ((s.ats.filter fun k => !inside k) ++ [e]) }
    s1.retryWaiting

/-! ### Walks (R386 to R389) -/

/-- A die with a translation unit (R388). -/
def hasXlateUnit (die : Nat) : Bool := decide (die < 24) || die == 28 || die == 29

/-- The translation unit of a die takes an entry; of more than 1,024 it drops its oldest (R388). -/
def State.cache (s : State) (die asid : Nat) (l : Leaf) : State :=
  if !hasXlateUnit die then s
  else
    let e : TlbEntry := { die := die, asid := asid, lo := l.lo, size := l.size, tgt := l.tgt, out := l.out, w := l.w, ctx := 0, pin := 0, grants := 0 }
    let own := (s.tlb.filter fun k => k.die == die && !k.covers asid l.lo) ++ [e]
    { s with tlb := (s.tlb.filter fun k => k.die != die) ++ own.drop (own.length - 1024) }

/-- A translation unit loses its cached entries with its die's CORE domain (R37, R484). -/
def State.dropXlateUnit (s : State) (die : Nat) : State := { s with tlb := s.tlb.filter fun k => k.die != die }

/-- A read of a granule: two in a row on one port fetch the next two (R382). -/
def State.readAhead (s : State) (j : Job) (stream c g : Nat) : State :=
  let p := s.cxlAt c
  if p.ra.contains g then s.cntAdd (cntCxl c 2) 1
  else
    let consecutive := decide (0 < g) && tabGet 0 p.lastGran stream == g
    let fetched := [g + 1, g + 2].filter fun k => s.cxlRoute (k * 4096) == some c && !p.ra.contains k
    let ok := consecutive && !j.guaranteed && p.prefetch && s.pwr.eff == 0
    s.setCxl c { p with
      lastGran := tabSet 0 p.lastGran stream (g + 1)
      ra := if ok then (p.ra ++ fetched).drop ((p.ra ++ fetched).length - 64) else p.ra }

/-- An access goes out to a CXL port and stays outstanding. -/
def State.issueCxl (s : State) (w : Who) (j : Job) (c a : Nat) (write : Bool) : State :=
  let p := s.cxlAt c
  let hit := !write && p.ra.contains (a / 4096)
  let s1 := if write then s.dropAhead [(.phys a, 0)] else s.readAhead j w.stream c (a / 4096)
  if hit then s1
  else s1.updCxl c fun p => { p with reqs := p.reqs ++ [{ id := p.nextId, stream := w.stream, addr := a / 64 * 64, write := write, bytes := [], done := none }], nextId := p.nextId + 1 }

/-- A translated access: cached, sent to CXL, or a host page asked for. -/
def State.translated (s : State) (w : Who) (j : Job) (dva : Nat) (write : Bool) : State :=
  let asid := (s.ctxAt w.ctx).asid
  let s1 := if w.lockedOnly then s else match s.walk w.ctx dva with | .ok l => s.cache w.die asid l | .bad _ => s
  match s.locate w dva write with
  | .bad c x d p => s1.streamFault w c x d p 0
  | .wait d =>
    let s2 := match s1.hostPage? w.ctx dva with | some p => s1.askHost p.1 w.ctx p.2 false | none => s1
    if w.isDie then s2 else s2.setWait w.unit (.fault d)
  | .ok (.phys a) => (match (if inCxl a then s.cxlRoute a else none) with | some c => s1.issueCxl w j c a write | none => s1)
  | .ok (.host _ _) => s1

/-- TRANSLATION_WALK (R386, R389, R393): a stream's access in its job's context. -/
def execTranslationWalk (by_ : Stream) (ctx : Fin 32) (dva : BitVec 57) (write : Bool) (s : State) : Host.Outcome State Fault Refusal :=
  s.ran fun s =>
    match s.streamWho by_ with
    | none => s
    | some w => if w.ctx ≠ ctx.val then s else s.withJob w.jid fun j => s.translated w j dva.toNat write

/-! ### Pins (R391 to R394) -/

def CtxSt.pinAt (c : CtxSt) (i : Nat) : PinEnt := tabGet .reset c.pins i
def CtxSt.setPin (c : CtxSt) (i : Nat) (p : PinEnt) : CtxSt := { c with pins := tabSet .reset c.pins i p }

/-- Drop the locked entries of a pin. -/
def State.dropLocked (s : State) (ctx i : Nat) : State := { s with locked := s.locked.filter fun e => !(e.ctx == ctx && e.pin == i) }

/-- Revoke a pin whose EN is set. -/
def State.revoke (s : State) (ctx i : Nat) : State := (s.dropLocked ctx i).updCtx ctx fun c => c.setPin i { c.pinAt i with st := 4 }

/-- Revoke the pins that hold entries of a kind. -/
def State.revokeBy (s : State) (hit : TlbEntry → Bool) : State :=
  let ps := ((s.locked.filter hit).map fun e => (e.ctx, e.pin)).eraseDups
  ps.foldl (fun s p => s.revoke p.1 p.2) s

/-- Fields of PIN_LO and PIN_HI. -/
def pinBase (v : U64) : Nat := bits v 16 41 * 65536

/-- A write of PIN_LO: base and W only while EN is 0 (R391). -/
def State.writePinLo (s : State) (ctx i : Nat) (v : U64) : State :=
  let p := (s.ctxAt ctx).pinAt i
  if p.en then s
  else s.updCtx ctx fun c => c.setPin i { p with en := bit v 0, w := bit v 1, base := pinBase v, st := if bit v 0 then 1 else p.st, cause := if bit v 0 then 0 else p.cause, gone := false }

/-- PIN_ENABLE (R391). -/
def execPinEnable (f : Func) (i : Fin 64) (v : U64) (s : State) : Host.Outcome State Fault Refusal :=
  s.byBar (30 + f.port.val) fun s => if bit v 0 then s.writePinLo f.ctx i.val v else s

/-- Clearing EN releases the entries and returns STATE to IDLE; a pinned range is revoked so (R394). -/
def State.clearPin (s : State) (ctx i : Nat) : State :=
  let p := (s.ctxAt ctx).pinAt i
  if !p.en then s
  else (s.dropLocked ctx i).updCtx ctx fun c => c.setPin i { p with en := false, st := 0, cause := 0, gone := p.st == 2 || p.st == 4 }

/-- PIN_DISABLE (R394). -/
def execPinDisable (f : Func) (i : Fin 64) (s : State) : Host.Outcome State Fault Refusal :=
  s.byBar (30 + f.port.val) fun s => s.clearPin f.ctx i.val

/-- What walking a pinned range gives: its leaves, each with the host translations it takes, a FAILED cause, or a host page to ask for. -/
inductive PinWalk where
  | leaves (l : List (Leaf × Nat))
  | failed (cause : Nat)
  | ask (port page : Nat)
deriving DecidableEq, Repr

/-- FAILED causes of walk causes (R391). -/
def pinCause (c : Nat) : Nat := if c = 1 then 1 else if c = 2 then 2 else if c = 3 then 5 else if c = 0xC then 7 else if c = 4 ∨ c = 5 then 6 else 3

/-- A device-physical leaf lies in no hole and in no uncovered part of the CXL tier. -/
def State.leafCovered (s : State) (l : Leaf) (lo hi : Nat) : Option Nat :=
  let a := l.out + (max lo l.lo - l.lo)
  let b := l.out + (min hi (l.lo + l.size) - l.lo)
  let probes : List Nat := (List.range (ceilDiv (b - a) 268435456)).flatMap fun k => (List.range 4).filterMap fun g =>
    if a + k * 268435456 + g * 4096 < b then some (a + k * 268435456 + g * 4096) else none
  (probes ++ [b - 1]).findSome? fun p => match s.physCheck p with
    | .bad 4 => some 4
    | .bad 5 => some 5
    | _ => none

/-- Host pages of a leaf in a range: the first and how many. -/
def leafPages (l : Leaf) (lo hi : Nat) : Nat × Nat :=
  let a := l.out + (max lo l.lo - l.lo)
  let b := l.out + (min hi (l.lo + l.size) - l.lo)
  (a / 4096, ceilDiv (b - a) 4096)

/-- The translations of host pages from `g` up to `hi`, one after another as the host grants them, `k` of them counted; a cache locks at most
16,384. -/
def State.pinGrants (s : State) (l : Leaf) (ctx : Nat) (w : Bool) (hi : Nat) : Nat → Nat → Nat → PinWalk
  | 0, k, g => if hi ≤ g then .leaves [(l, k)] else .failed 4
  | n + 1, k, g =>
    if hi ≤ g then .leaves [(l, k)]
    else match s.ats.find? fun e => e.covers (l.tgt - 1) ctx g with
      | none => .ask (l.tgt - 1) g
      | some e =>
        if !e.known then .ask (l.tgt - 1) g
        else if !e.present then .failed 3
        else if w && !e.w then .failed 2
        else State.pinGrants s l ctx w hi n (k + 1) (e.page + 2 ^ e.order)

/-- A host leaf of a pin: every page translated by the host, without PRI. -/
def State.pinHost (s : State) (l : Leaf) (ctx lo hi : Nat) (w : Bool) : PinWalk :=
  let p := leafPages l lo hi
  s.pinGrants l ctx w (p.1 + p.2) 16384 0 p.1

/-- Walk a range leaf by leaf; more leaves than a translation unit locks is FULL. -/
def State.pinWalk (s : State) (ctx : Nat) (w : Bool) (lo hi : Nat) : Nat → Nat → PinWalk
  | 0, dva => if hi ≤ dva then .leaves [] else .failed 4
  | n + 1, dva =>
    if hi ≤ dva then .leaves []
    else match s.walk ctx dva with
      | .bad c => .failed (pinCause c)
      | .ok l =>
        let here : PinWalk :=
          if !l.r || (w && !l.w) then .failed 2
          else if l.tgt = 0 then (match s.leafCovered l lo hi with | some c => .failed (pinCause c) | none => .leaves [(l, 0)])
          else s.pinHost l ctx lo hi w
        match here with
        | .leaves a => (match State.pinWalk s ctx w lo hi n (l.lo + l.size) with
          | .leaves b => .leaves (a ++ b)
          | r => r)
        | r => r

/-- Translations locked in a host die's cache. -/
def grantsOf (port : Nat) (l : List TlbEntry) : Nat := ((l.filter fun e => e.tgt == port + 1).map (·.grants)).foldl (· + ·) 0

/-- Pinning ends; once no pin goes on, no cached translation is kept for one. -/
def State.endPin (s : State) (ctx i st cause : Nat) (l : List TlbEntry) : State :=
  let s1 := ({ s with locked := s.locked ++ l } : State).updCtx ctx fun c => c.setPin i { c.pinAt i with st := st, cause := cause }
  if s1.ctxs.any fun c => c.2.pins.any fun p => p.2.st == 1 then s1 else { s1 with ats := s1.ats.map fun e => { e with forPin := false } }

/-- PIN_COMPLETE (R391): the range is walked; PINNED, FAILED, or still waiting for the host. -/
def execPinComplete (ctx : Fin 32) (i : Fin 64) (s : State) : Host.Outcome State Fault Refusal :=
  s.ran fun s =>
    let p := (s.ctxAt ctx.val).pinAt i.val
    if p.st ≠ 1 ∨ !p.en then s
    else match s.pinWalk ctx.val p.w p.base p.limit 513 p.base with
      | .failed c => s.endPin ctx.val i.val 3 c []
      | .ask port page => s.askHost port ctx.val page true
      | .leaves ls =>
        let asid := (s.ctxAt ctx.val).asid
        let es := ls.map fun l => { die := 0, asid := asid, lo := l.1.lo, size := l.1.size, tgt := l.1.tgt, out := l.1.out, w := l.1.w, ctx := ctx.val,
                                    pin := i.val, grants := l.2 : TlbEntry }
        let all := s.locked ++ es
        if 512 < all.length || decide (16384 < grantsOf 0 all) || decide (16384 < grantsOf 1 all) then s.endPin ctx.val i.val 3 4 []
        else s.endPin ctx.val i.val 2 0 es

/-! ### Invalidation (R388, R390, R394) -/

/-- The range an INVAL_CTRL value names. -/
def CtxSt.invalHits (c : CtxSt) (lo size : Nat) : Bool :=
  let a := bits c.invalBase 16 41 * 65536
  let n := bits c.invalCtrl 16 32 * 65536
  bit c.invalCtrl 1 || (decide (lo < a + n) && decide (a < lo + size))

/-- Cached entries the pending invalidation of a context covers are dropped, and it is complete. -/
def State.finishInval (s : State) (ctx : Nat) : State :=
  let c := s.ctxAt ctx
  if !c.invalBusy then s
  else ({ s with tlb := s.tlb.filter fun e => !(e.asid == c.asid && c.invalHits e.lo e.size) } : State).setCtx ctx
    { c with invalBusy := false, invalCtrl := putField c.invalCtrl 2 1 1 }

/-- A write of INVAL_CTRL: an invalidation under way completes with the range it has; ALL and PAGES; GO starts an invalidation and revokes the pins it covers. -/
def State.writeInval (s : State) (ctx : Nat) (v : U64) : State :=
  let s0 := s.finishInval ctx
  let c := s0.ctxAt ctx
  let w := pack 64 [(1, 1, bits v 1 1), (2, 1, if bit v 0 then 0 else bits c.invalCtrl 2 1), (16, 32, bits v 16 32)]
  let c1 := { c with invalCtrl := w, invalBusy := c.invalBusy || bit v 0 }
  let s1 := s0.setCtx ctx c1
  if bit v 0 then s1.revokeBy fun e => e.asid == c1.asid && c1.invalHits e.lo e.size else s1

/-- INVALIDATE (R388). -/
def execInvalidate (f : Func) (v : U64) (s : State) : Host.Outcome State Fault Refusal :=
  s.byBar (30 + f.port.val) fun s => if bit v 0 then s.writeInval f.ctx v else s

/-- INVALIDATE_DONE (R388). -/
def execInvalidateDone (ctx : Fin 32) (s : State) : Host.Outcome State Fault Refusal := s.ran fun s => s.finishInval ctx.val

/-- ATS_INVALIDATION (R390, R394): host pages from `lo` up to `hi`, as bytes. -/
def execAtsInvalidation (port : Fin 2) (lo hi : Nat) (s : State) : Host.Outcome State Fault Refusal :=
  s.ran fun s =>
    let s1 : State := { s with ats := s.ats.filter fun e => !(e.port == port.val && decide (e.page * 4096 < hi) && decide (lo < (e.page + 2 ^ e.order) * 4096)) }
    s1.revokeBy fun e =>
      let p := (s.ctxAt e.ctx).pinAt e.pin
      let g := leafPages { lo := e.lo, size := e.size, tgt := e.tgt, out := e.out, r := true, w := e.w } p.base p.limit
      e.tgt == port.val + 1 && decide (g.1 * 4096 < hi) && decide (lo < (g.1 + g.2) * 4096)

end Sys2Proof.Machine
end

