-- ==== Sys2Proof/Machine/Cxl.lean ====
section
/-! DEFINITION. The CXL ports: completions, decoders, link state (R378 to R383). -/

namespace Sys2Proof.Machine

/-! ### Completions (R376, R381) -/

/-- A completion ends one request: a read delivers or poisons, a write is counted. -/
def State.deliverCxl (s : State) (c : Nat) (r : CxlReq) (poison : Bool) : State :=
  let s1 := if r.write then s.cntAdd (cntCxl c 1) 64 else s.cntAdd (cntCxl c 0) 64
  if r.write || !poison then s1
  else
    let s2 := s1.cntAdd (cntCxl c 3) 1
    let jid := if r.stream < 512 then (s2.unit r.stream).job else s2.crossJob.map (·.jid)
    match jid with
    | none => s2
    | some k => s2.withJob k fun j =>
      (s2.event j.ctx.val 0x0A k [(24, 8, r.addr)]).jobFault k 0x0C 0 (r.stream % 512) (decide (512 ≤ r.stream)) r.addr 0

/-- Requests of one stream at the front that are complete, up to the first that is not. -/
def doneFront (stream : Nat) : List CxlReq → List CxlReq
  | [] => []
  | r :: t => if r.stream ≠ stream then doneFront stream t else if r.done.isSome then r :: doneFront stream t else []

/-- Return to a stream what has completed, in the order it issued (R381). -/
def State.returnCxl (s : State) (c stream : Nat) : State :=
  let rs := doneFront stream (s.cxlAt c).reqs
  let s1 := s.updCxl c fun p => { p with reqs := p.reqs.filter fun r => !rs.contains r }
  rs.foldl (fun s r => s.deliverCxl c r (r.done == some true)) s1

/-- A GUARANTEED job met a late completion: FAULT is its reason if it is late. -/
def State.lateCxl (s : State) (c : Nat) (r : CxlReq) (ns : Nat) : State :=
  let p := s.cxlAt c
  if p.latMax = 0 ∨ ns ≤ p.latMax.toNat then s
  else
    let s1 := s.setCxl c { p with lateCpl := satAdd p.lateCpl 1 }
    match (if r.stream < 512 then (s1.unit r.stream).job else s1.crossJob.map (·.jid)) with
    | some k => s1.updJob k fun j => if j.guaranteed then { j with reasons := j.reasons ||| 2 } else j
    | none => s1

/-- CXL_COMPLETION (R381). -/
def execCxlCompletion (c : Fin 4) (id : Nat) (poison : Bool) (ns : Nat) (s : State) : Host.Outcome State Fault Refusal :=
  s.ran fun s =>
    match (s.cxlAt c.val).reqs.find? fun r => r.id == id && r.done.isNone with
    | none => s
    | some r =>
      let s1 := s.updCxl c.val fun p => { p with reqs := p.reqs.map fun q => if q.id == id then { q with done := some poison } else q }
      (s1.lateCxl c.val r ns).returnCxl c.val r.stream

/-! ### Decoders (R379, R380) -/

/-- Decoders as (port, number, decoder). -/
def State.hdms (s : State) : List (Nat × Nat × Hdm) :=
  [0, 1, 2, 3].flatMap fun c => (s.cxlAt c).hdm.zipIdx.map fun h => (c, h.2, h.1)

def Hdm.sameSet (a b : Hdm) : Bool := a.base == b.base && a.size == b.size && a.ways == b.ways

def Hdm.overlaps (a b : Hdm) : Bool := decide (a.base < b.base + b.size) && decide (b.base < a.base + a.size)

/-- A range of a context's addresses leads somewhere into a device-physical range, leaf by leaf, at most `n` of them. -/
def State.leadsInto (s : State) (ctx a b hi : Nat) : Nat → Nat → Bool
  | 0, _ => false
  | n + 1, lo =>
    if hi ≤ lo then false
    else match s.walk ctx lo with
      | .bad _ => State.leadsInto s ctx a b hi n (lo / 65536 * 65536 + 65536)
      | .ok l =>
        (l.tgt == 0 && decide (l.out + (lo - l.lo) < b) && decide (a < l.out + (min hi (l.lo + l.size) - l.lo))) ||
          State.leadsInto s ctx a b hi n (l.lo + l.size)

/-- An enabled PIN entry or an admitted job touches a decoder's range: a locked entry leads there, or a tensor of the job does. -/
def State.rangeBusy (s : State) (h : Hdm) : Bool :=
  let lo := cxlBase + h.base
  let hi := lo + h.size
  (s.locked.any fun e => e.tgt == 0 && decide (e.out < hi) && decide (lo < e.out + e.size)) ||
    s.jobs.any fun j => j.live && j.phase != .waiting && j.bin.tds.any fun t =>
      s.leadsInto j.ctx.val lo hi (bits t 64 57 + tdLimit t) (tdLimit t / 65536 + 2) (bits t 64 57)

/-- ERR of a commit (R380), 0 for none. -/
def State.hdmErr (s : State) (c k : Nat) (h : Hdm) (devOk : Bool) : Nat :=
  let others := s.hdms.filter fun e => !(e.1 == c && e.2.1 == k) && (e.2.2.committed || e.2.2.commit)
  let mates := others.filter fun e => e.2.2.sameSet h
  if h.ways = 3 ∨ h.size = 0 ∨ h.base % (268435456 * h.nways) ≠ 0 ∨ h.size % (268435456 * h.nways) ≠ 0 then 1
  else if h.nways ≤ h.pos.toNat || mates.any (fun e => e.1 == c || e.2.2.pos == h.pos) || others.any (fun e => !e.2.2.committed && e.2.2.base == h.base && !e.2.2.sameSet h) then 2
  else if others.any fun e => !e.2.2.sameSet h && e.2.2.overlaps h then 3
  else if s.rangeBusy h then 4
  else if !devOk then 5
  else 0

def State.setHdm (s : State) (c k : Nat) (h : Hdm) : State := s.updCxl c fun p => { p with hdm := setAt p.hdm k h }

/-- Every member of a set is in force once all WAYS of them are committed. -/
def State.joinSet (s : State) (h : Hdm) : State :=
  let n := (s.hdms.filter fun e => e.2.2.commit && e.2.2.sameSet h).length
  if n < h.nways then s
  else [0, 1, 2, 3].foldl (fun s c => s.updCxl c fun p => { p with hdm := p.hdm.map fun q => if q.commit && q.sameSet h then { q with committed := true } else q }) s

/-- A write of HDMk_CTRL. -/
def State.writeHdm (s : State) (c k : Nat) (v : U64) (devOk : Bool) : State :=
  let h0 := (s.cxlAt c).hdm.getD k .reset
  let h := if h0.committed then h0 else { h0 with ways := if bits v 0 2 = 3 then h0.ways else BitVec.ofNat 2 (bits v 0 2), pos := BitVec.ofNat 2 (bits v 2 2) }
  if bit v 4 then
    if h0.committed then s
    else match s.hdmErr c k h devOk with
      | 0 => (s.setHdm c k { h with commit := true, err := 0 }).joinSet h
      | e => s.setHdm c k { h with commit := false, err := BitVec.ofNat 3 e }
  else if h.committed && s.rangeBusy h then s.setHdm c k { h with err := 4 }
  else if h.committed then
    [0, 1, 2, 3].foldl (fun s d => s.updCxl d fun p => { p with hdm := p.hdm.map fun q => if q.sameSet h then { q with committed := false } else q }) (s.setHdm c k { h with commit := false, err := 0 })
      |>.setHdm c k { h with commit := false, committed := false, err := 0 }
  else s.setHdm c k { h with commit := false, err := 0 }

/-- HDM_COMMIT (R380): by the control function. -/
def execHdmCommit (f : Func) (c : Fin 4) (k : Fin 4) (v : U64) (devOk : Bool) (s : State) : Host.Outcome State Fault Refusal :=
  s.byBarOf f (30 + c.val / 2) fun s => s.privileged f fun s => s.writeHdm c.val k.val v devOk

/-! ### Link state (R383) -/

/-- A job the port's loss affects: a request of it is outstanding there, or a locked entry of its context leads there. -/
def State.usesCxl (s : State) (c : Nat) (j : Job) : Bool :=
  ((s.cxlAt c).reqs.any fun r => if r.stream < 512 then (s.unit r.stream).job == some j.jid else j.cross) ||
    s.locked.any fun e => e.ctx == j.ctx.val && e.tgt == 0 && (s.cxlAt c).hdm.any fun h => h.committed && decide (e.out < cxlBase + h.base + h.size) && decide (cxlBase + h.base < e.out + e.size)

/-- A write lost with the link leaves free bytes on the device. -/
def State.loseWrite (s : State) (r : CxlReq) : State :=
  (s.putBytes r.addr ((List.range 64).map fun i => Config.cxlLostByte s.fresh (r.addr + i))).tickFresh 1

/-- A port goes down: outstanding reads are poison, writes undefined on the device, the decoders stay. -/
def State.cxlDown (s : State) (c cause : Nat) : State :=
  let p := s.cxlAt c
  if p.link = 0 then s
  else
    let hit := s.usesCxl c
    let s1 := s.setCxl c { p with link := 0, perst := true, prsnt := p.prsnt && cause != 4, full := false, devices := if cause = 4 then 0 else p.devices, reqs := [], ra := [], lastGran := [] }
    let s2 := s1.linkDownEvent 1 c cause hit
    p.reqs.foldl (fun s r => if r.write then s.loseWrite r else s.deliverCxl c r true) s2

/-- CXL_PORT_DOWN (R383). -/
def execCxlPortDown (c : Fin 4) (cause : Fin 7) (s : State) : Host.Outcome State Fault Refusal :=
  s.ran fun s => (if cause = 3 then s.updCxl c.val fun p => { p with en := false } else s).cxlDown c.val cause.val

/-- CXL_PORT_UP (R378, R383, R501): an enabled port trained, its decoders verified again, PERST# released. Without PRSNT# low the port stays
DOWN. While a decoder is committed no device is added. -/
def execCxlPortUp (c : Fin 4) (full : Bool) (devices : BitVec 4) (s : State) (prsnt : Bool := true) : Host.Outcome State Fault Refusal :=
  s.ran fun s =>
    let p := s.cxlAt c.val
    if !p.en || decide (4 ≤ s.pwr.eff) || (p.link == 2 && p.hdm.any (·.committed)) then s
    else if !prsnt then s.setCxl c.val { p with prsnt := false }
    else s.setCxl c.val { p with
                          link := 2, prsnt := true, perst := false, full := full,
                          devices := if p.hdm.any (·.committed) && decide (p.devices.toNat < devices.toNat) then p.devices else devices }

end Sys2Proof.Machine
end

