-- ==== Sys2Proof/Machine/HostPort.lean ====
section
/-! DEFINITION. Host ports and contexts: doorbells, descriptor fetch, enables, link changes, the control function
(R403 to R413). -/

namespace Sys2Proof.Machine

/-! ### Doorbells (R412, R413) -/

/-- A context whose rings the engine serves: enabled, its port UP. -/
def State.served (s : State) (ctx : Nat) : Bool := (s.ctxAt ctx).en && (s.hpAt (ctx / 16)).link == 2

/-- The ring engine asks for a doorbell line. -/
def State.readDoorbell (s : State) (ctx : Nat) : State :=
  (s.updCtx ctx fun c => { c with dbWatch := true }).cntAdd (cntHost (ctx / 16) 2) 1

/-- DOORBELL_POLL: at phase 0000, every enabled context of a port trained as PCIe. -/
def execDoorbellPoll (s : State) : Host.Outcome State Fault Refusal :=
  s.ran fun s =>
    if s.time.phase ≠ 0 then s
    else (List.range 32).foldl (fun s n => if s.served n && !(s.hpAt (n / 16)).cxl then s.readDoorbell n else s) s

/-- DOORBELL_INVALIDATE: a host write to a line that a CXL port holds. -/
def execDoorbellInvalidate (ctx : Fin 32) (s : State) : Host.Outcome State Fault Refusal :=
  s.ran fun s => if s.served ctx.val && (s.hpAt (ctx.val / 16)).cxl then s.readDoorbell ctx.val else s

/-- A head software names lies between the last one seen and the module's tail. -/
def Ring.headOk (r : Ring) (h : Nat) : Bool := decide ((h + 2 ^ 32 - r.head) % 2 ^ 32 ≤ (r.tail + 2 ^ 32 - r.head) % 2 ^ 32)

/-- Every condition of R412 but the torn line. -/
def CtxSt.lineOk (c : CtxSt) (l : BitVec 512) : Bool :=
  c.lastSeq != some (bits l 0 32) && decide ((bits l 32 32 + 2 ^ 32 - c.sub.tail) % 2 ^ 32 ≤ c.sub.size) && c.cpl.headOk (bits l 64 32) &&
    c.evt.headOk (bits l 96 32) && c.flt.headOk (bits l 128 32)

/-- An accepted line. SUB_HEAD of a context is `sub.tail`, SUB_TAIL is `sub.head`. -/
def CtxSt.takeLine (c : CtxSt) (l : BitVec 512) : CtxSt :=
  let sub1 := { c.sub with head := bits l 32 32 }
  let cpl1 := { c.cpl with head := bits l 64 32 }
  let evt1 := { c.evt with head := bits l 96 32 }
  let flt1 := { c.flt with head := bits l 128 32 }
  { c with lastSeq := some (bits l 0 32), sub := sub1, cpl := cpl1, evt := evt1, flt := flt1, dbErr := false, dbWatch := false, statusDirty := true }

/-- DOORBELL_LINE: the line a read brought. A torn one is read again. -/
def execDoorbellLine (ctx : Fin 32) (line : BitVec 512) (s : State) : Host.Outcome State Fault Refusal :=
  s.ran fun s =>
    let c := s.ctxAt ctx.val
    if !s.served ctx.val || !c.dbWatch then s
    else
      let s1 := s.cntAdd (cntHost (ctx.val / 16) 0) 64
      if bits line 480 32 ≠ bits line 0 32 then s1
      else if c.lineOk line then (s1.setCtx ctx.val (c.takeLine line)).flushCtx ctx.val
      else s1.setCtx ctx.val { c with dbErr := true, dbWatch := false, statusDirty := true }

/-- DESCRIPTOR_FETCH (R413): up to 16 descriptors of a context and 64 of a port in a beat; ready by phase 1800, they are
candidates at the next boundary, else at the one after. -/
def execDescriptorFetch (ctx : Fin 32) (ds : List Fetched) (s : State) : Host.Outcome State Fault Refusal :=
  s.ran fun s =>
    if !s.served ctx.val then s
    else
      let c := s.ctxAt ctx.val
      let h := s.hpAt (ctx.val / 16)
      let n := min (min ds.length ((c.sub.head + 2 ^ 32 - c.sub.tail) % 2 ^ 32)) (min (16 - c.fetchedBeat) (64 - h.fetched))
      let at_ := s.time.beat + if s.time.phase ≤ 1800 then 1 else 2
      let sub1 := { c.sub with tail := (c.sub.tail + n) % 2 ^ 32 }
      let c1 := { c with sub := sub1, cands := c.cands ++ (ds.take n).map fun f => (f, at_), fetchedBeat := c.fetchedBeat + n, statusDirty := c.statusDirty || n != 0 }
      ((s.setCtx ctx.val c1).updHp (ctx.val / 16) fun h => { h with fetched := h.fetched + n }).cntAdd (cntHost (ctx.val / 16) 0) (64 * n)

/-! ### Enabling a context (R410) -/

def Ring.sizeOk (r : Ring) : Bool := decide (6 ≤ bits r.reg 0 5) && decide (bits r.reg 0 5 ≤ 16)

/-- Rings begin anew: software zeroed them, and the first pass carries phase 1 (R411). -/
def Ring.restart (r : Ring) : Ring := { r with tail := 0, head := 0 }

/-- CONTEXT_ENABLE: EN = 1 is refused while a ring's size is not valid. -/
def State.enableCtx (s : State) (n : Nat) : State :=
  let c := s.ctxAt n
  if c.en || !(c.sub.sizeOk && c.cpl.sizeOk && c.evt.sizeOk && c.flt.sizeOk) then s
  else s.setCtx n { c with
    en := true, sub := c.sub.restart, cpl := c.cpl.restart, evt := c.evt.restart, flt := c.flt.restart, lastSeq := none, dbErr := false, dbWatch := (s.hpAt (n / 16)).cxl,
    cands := [], statusDirty := true }

def execContextEnable (f : Func) (s : State) : Host.Outcome State Fault Refusal := s.byBar (30 + f.port.val) fun s => s.enableCtx f.ctx

/-- CONTEXT_DISABLE: every live job ends ABORTED_HOST, its record before EN reads 0. -/
def State.disableCtx (s : State) (n : Nat) : State :=
  if !(s.ctxAt n).en then s
  else (s.abortAll 0xC (s.ctxJobs n)).updCtx n fun c => { c with en := false, cands := [], dbWatch := false }

def execContextDisable (f : Func) (s : State) : Host.Outcome State Fault Refusal := s.byBar (30 + f.port.val) fun s => s.disableCtx f.ctx

/-! ### Control and links (R406, R407, R410) -/

/-- Control moves to a port: CONTROL_HANDOVER to contexts 0 and 16. Causes: 0 explicit, 1 link down. -/
def State.moveControl (s : State) (to_ cause : Nat) : State :=
  let s1 := (s.updHp to_ fun h => { h with control := true, handover := false }).updHp (1 - to_) fun h => { h with control := false, handover := false }
  (s1.event 0 0x0F 0 [(16, 1, to_), (17, 1, cause)]).event 16 0x0F 0 [(16, 1, to_), (17, 1, cause)]

/-- HANDOVER: the control function's write to HP_CTRL of its own port; control moves at the next boundary. -/
def State.askHandover (s : State) (f : Func) (port : Nat) : State :=
  if f.port.val == port && (s.hpAt (1 - port)).link == 2 then s.updHp port fun h => { h with handover := true } else s

def execHandover (f : Func) (port : Fin 2) (s : State) : Host.Outcome State Fault Refusal :=
  s.byBarOf f (30 + port.val) fun s => s.privileged f fun s => s.askHandover f port.val

/-- The handover asked for, at a boundary; it falls away if the other port is not UP. -/
def State.boundaryHandover (s : State) (port : Nat) : State :=
  if !(s.hpAt port).handover then s
  else if (s.hpAt port).control && (s.hpAt (1 - port)).link == 2 then s.moveControl (1 - port) 0
  else s.updHp port fun h => { h with handover := false }

/-- PORT_LINK_TIMEOUT: at a beat boundary, a port not UP for 1,000 consecutive beats (R406, R410). -/
def execPortLinkTimeout (port : Fin 2) (s : State) : Host.Outcome State Fault Refusal :=
  s.ran fun s =>
    let p := port.val
    if s.time.phase ≠ 0 || (s.hpAt p).link == 2 || decide ((s.hpAt p).downBeats < 1000) then s
    else
      let s1 := (List.range 16).foldl (fun s f => s.abortAll 0xC (s.ctxJobs (16 * p + f))) s
      if (s1.hpAt p).control && (s1.hpAt (1 - p)).link == 2 then s1.moveControl (1 - p) 1 else s1

/-- HOST_LINK_DOWN: the cause code of a host link's loss is not stated. -/
def execHostLinkDown (port : Fin 2) (s : State) : Host.Outcome State Fault Refusal :=
  s.ran fun s =>
    if (s.hpAt port.val).link ≠ 2 then s
    else
      let s1 := s.updHp port.val fun h => { h with link := 0, full := false, downBeats := 0 }
      let s2 := (List.range 16).foldl (fun s f => s.updCtx (16 * port.val + f) fun c => { c with dbWatch := false }) s1
      (s2.linkDownEvent 2 port.val (bits (Config.freeWord s.fresh) 0 8) fun j => j.ctx.val / 16 == port.val).tickFresh 1

/-- HOST_LINK_UP: the port is trained as PCIe or CXL, at full width and rate or not. -/
def execHostLinkUp (port : Fin 2) (cxl full : Bool) (s : State) : Host.Outcome State Fault Refusal :=
  s.ran fun s =>
    if (s.hpAt port.val).link == 2 then s
    else
      let s1 := s.updHp port.val fun h => { h with link := 2, cxl := cxl, full := full, downBeats := 0 }
      (List.range 16).foldl (fun s f => (s.flushCtx (16 * port.val + f)).updCtx (16 * port.val + f) fun c => { c with dbWatch := cxl && c.en }) s1

end Sys2Proof.Machine
end

