-- ==== Sys2Proof/Machine/Power.lean ====
section
/-! DEFINITION. The 72 V input, the shed ladder, the reset of a die, module and function resets (R368, R427, R450, R461,
R470 to R485, R499, R510, R514). -/

namespace Sys2Proof.Machine

/-! ### Off and on -/

/-- The block at power-on or off: registers and memories on the package lose their contents; fuses, flash, the FRU EEPROM, cables,
the memory behind the CXL ports and the host's stay. What GDDR7
then holds is not stated. -/
def State.cold (s : State) (on : Bool) : State :=
  let r := State.reset
  { r with
    pending := s.pending
    host := s.host
    mem := s.mem.filter fun c => inCxl c.1
    veiled := (0, gddrTop, s.fresh) :: s.veiled.filter fun v => inCxl v.1
    ports := s.ports.filterMap fun e => if e.2.cable then some (e.1, { NlPort.reset with cable := true }) else none
    sec := { r.sec with svn := s.sec.svn, revoked := s.sec.revoked, flash := s.sec.flash, preferred := s.sec.preferred }
    pins := { r.pins with modRst := s.pins.modRst, fru := s.pins.fru, fruWp := s.pins.fruWp, pres := s.pins.pres }
    pwr := { r.pwr with on := on }
    fresh := s.fresh + 1 }

/-- Entry to L5: every domain is off, open actions and GDDR7 contents are lost, no job is live (R368, R476). -/
def State.powerOff (s : State) : State := let t := s.cold false; t.setPwr { t.pwr with supply := 5, level := 5, eff := 5 }

/-- A die that the ladder holds off (R474, R478). -/
def DieSt.held (d : DieSt) : DieSt := { d with st := 4, ladder := true, cmds := [], posted := false }

/-- Compute dies are off, held by the ladder; their translation units hold nothing (R37). -/
def State.holdDies (s : State) : State := (List.range 24).foldl (fun s d => (s.updDie d DieSt.held).dropXlateUnit d) s

/-- Something for each memory die's devices. -/
def State.eachDev (s : State) (f : DevSt → DevSt) : State := (List.range 48).foldl (fun s d => s.updDev d f) s

/-- POWER_ON (R471, R472, R499): 52 V for 10 ms from off, at a seated connector; after an overvoltage only below 80 V. The
supply level begins at L4. VIN is in 10 mV. -/
def execPowerOn (vin ms : Nat) (s : State) : Host.Outcome State Fault Refusal :=
  .next (if s.pwr.on || decide (vin < 5200) || decide (8400 < vin) || decide (ms < 10) || (s.pwr.tripped && decide (8000 ≤ vin)) then s
    else
      let t := s.cold true
      ((t.setPwr { t.pwr with vin := vin, supply := 4, level := 4, eff := 4 }).setPins { t.pins with pres := true }).holdDies)

/-- OVERVOLTAGE_TRIP (R470): above 84 V the input switch opens; above 100 V damage is possible and nothing more is said. -/
def execOvervoltageTrip (vin : Nat) (s : State) : Host.Outcome State Fault Refusal :=
  if 10000 < vin then .fault .absoluteMaximum
  else if vin ≤ 8400 then .next s
  else let t := s.powerOff; .next (t.setPwr { t.pwr with tripped := true })

/-- PRES_BREAK (R499): the connector is being removed. -/
def execPresBreak (s : State) : Host.Outcome State Fault Refusal := let t := s.powerOff; .next (t.setPins { t.pins with pres := false })

/-- VIN_REMOVED (R514): an entry to L5. -/
def execVinRemoved (s : State) : Host.Outcome State Fault Refusal := .next s.powerOff

/-! ### Levels (R474, R475) -/

/-- Entry and exit thresholds of L1 to L5: VIN in 10 mV, junctions in 1/16 °C. -/
def vinIn (k : Nat) : Nat := [6400, 6000, 5700, 5400, 5000].getD (k - 1) 0
def vinOut (k : Nat) : Nat := [6600, 6200, 5900, 5600, 5200].getD (k - 1) 0
def tempIn (k : Nat) : Nat := [1520, 1600, 1680, 1760, 1840].getD (k - 1) 0
def tempOut (k : Nat) : Nat := [1440, 1520, 1600, 1680, 1760].getD (k - 1) 0

/-- FORCE_LEVEL's floor: 5 to 7 act as 4 (R480). -/
def PowerSt.floor (p : PowerSt) : Nat := min p.force 4

/-- The highest of the three. -/
def PowerSt.target (p : PowerSt) : Nat := max p.supply (max p.thermal p.floor)

/-- The hottest junction of the last beat and the lowest die that shows it (R480). -/
def PowerSt.hottest (p : PowerSt) : Nat × Nat :=
  p.temps.zipIdx.foldl (fun (r : Nat × Nat) e => if r.1 < e.1 then (e.1, e.2) else r) (p.temps.headD 0, 0)

/-- Consecutive beats beyond the entry thresholds (R475). -/
def countIn (cnt : List Nat) (beyond : Nat → Bool) : List Nat := (List.range 5).map fun i => if beyond (i + 1) then cnt.getD i 0 + 1 else 0

/-- One beat's values (R473). The exit counts rest while actions are open, and for a supply level of L4 until boot step 4 (R472, R477). -/
def PowerSt.measure (p : PowerSt) (e : BeatEnv) (stage : Nat) : PowerSt :=
  let t := e.temps.foldl max 0
  let rest := p.acting
  { p with
    vin := e.vin, iin := e.iin, temps := (List.range 32).map fun i => e.temps.getD i 0, coolIn := e.coolIn, coolOut := e.coolOut, stepped := false
    supIn := countIn p.supIn fun k => decide (e.vin < vinIn k)
    thIn := countIn p.thIn fun k => decide (tempIn k ≤ t)
    supOut := if rest || p.supply == 0 || (p.supply == 4 && decide (stage < 4)) || decide (e.vin < vinOut p.supply) then 0 else p.supOut + 1
    thOut := if rest || p.thermal == 0 || decide (tempOut p.thermal ≤ t) then 0 else p.thOut + 1 }

/-- The level a count of beats gives: the highest one above the present whose 101st beat has passed; a thermal L5 at once. -/
def risen (cur : Nat) (cnt : List Nat) (thermal : Bool) : Nat :=
  (List.range 5).foldl (fun l i => if l < i + 1 && decide ((if thermal && i == 4 then 1 else 101) ≤ cnt.getD i 0) then i + 1 else l) cur

/-- SHED_LEVEL and THERMAL_LEVEL (R426, R479). Every live job is taken to be affected. -/
def State.supplyEvent (s : State) (new old : Nat) : State :=
  s.moduleEvent 0x05 [(16, 1, new), (17, 1, old), (18, 2, s.pwr.vin)] fun _ => true
def State.thermalEvent (s : State) (new old : Nat) : State :=
  s.moduleEvent 0x06 [(16, 1, new), (17, 1, old), (18, 1, s.pwr.hottest.2), (20, 2, s.pwr.hottest.1)] fun _ => true

/-- SHED_ENTRIES and THERMAL_ENTRIES follow the six energy counters (R441). -/
def State.countEntries (s : State) (first old new : Nat) : State :=
  (List.range 5).foldl (fun s i => if old < i + 1 && decide (i + 1 ≤ new) then s.cntAdd (cntModule (first + i)) 1 else s) s

/-! ### Entry actions (R474, R475) -/

/-- L1: every traced die writes its SHED record and stops (R450); full capture ends with this step (R461); read-ahead is dropped. -/
def State.enterL1 (s : State) : State :=
  let s1 := (List.range 32).foldl (fun (s : State) d =>
    if (s.traceAt d).jid.isNone then s
    else
      let t := s.tracePut d (traceRecord 0x0C (dieUnit d) 0 s.gt [(16, 1, s.pwr.level)])
      t.setTrace d { t.traceAt d with shed := true }) s
  let end_ (r : RecSt) : Nat := match s1.job? r.jid with | some j => j.s + 1 | none => 0
  let s2 := s1.setObs { s1.obs with
    recs := s1.obs.recs.map fun r => if r.state == 0 && r.full then { r with fullEndS := min r.fullEndS (end_ r) } else r }
  [0, 1, 2, 3].foldl (fun s c => s.updCxl c fun p => { p with ra := [], lastGran := [] }) s2

/-- A dump that L3 meets while it is being taken stops, its result NOT_TAKEN (R478); its jobs are preempted with the others. -/
def State.dropDumps (s : State) : State :=
  let held := (s.obs.dumps.filter fun d => d.taken).map fun d => d.ctx.val
  let s1 := s.setObs { s.obs with dumps := s.obs.dumps.filter fun d => !d.taken }
  held.foldl (fun s n => s.updCtx n fun c => { c with dumpCtrl := putField (putField c.dumpCtrl 2 2 0) 4 3 3 }) s1

/-- L3 begins: every job is preempted (R430). -/
def State.enterL3 (s : State) : State :=
  let s1 := s.dropDumps
  (s1.askPreemptAll 5 ((s1.jobs.filter fun j => j.live).map (·.jid))).setPwr { s1.pwr with eff := 3, acting := true }

/-- A job whose save is open. -/
def Job.beingSaved (j : Job) : Bool := j.phase == .stopping || j.phase == .saving

/-- DIE_FENCED (R426): 0 fenced with the epoch its ABORTED answers carry, 1 rejoined with its new one. -/
def State.fencedEvent (s : State) (die state : Nat) (hit : Job → Bool) : State :=
  s.moduleEvent 0x08 [(16, 1, die), (17, 1, state), (18, 2, ((s.dieAt die).epoch + (if state = 0 then 1 else 0)).toNat)] hit

/-- L3 is complete: the compute dies are fenced and their CORE domains off. -/
def State.finishL3 (s : State) : State :=
  let s1 := (List.range 24).foldl (fun s d => s.fencedEvent d 0 fun _ => true) s.holdDies
  s1.setPwr { s1.pwr with acting := false, supOut := 0, thOut := 0 }

/-- L4: GDDR7 in self-refresh, CXL ports down; host ports and memory dies follow `eff`. -/
def State.enterL4 (s : State) : State :=
  let s1 := s.eachDev fun d => { d with selfRefresh := true }
  let s2 := [24, 25, 26, 27].foldl (fun s d => s.updDie d fun q => { q with ladder := true, cmds := [] }) s1
  [0, 1, 2, 3].foldl (fun s c => s.cxlDown c 6) s2

/-- Enter levels in ascending order as far as their actions allow (R475). -/
def State.descend (s : State) : Nat → State
  | 0 => s
  | n + 1 =>
    let p := s.pwr
    if p.acting then
      if s.jobs.any Job.beingSaved then s else State.descend s.finishL3 n
    else if p.level ≤ p.eff then s
    else if p.eff = 0 then let t := s.enterL1; State.descend (t.setPwr { t.pwr with eff := 1, supOut := 0, thOut := 0 }) n
    else if p.eff = 1 then State.descend (s.setPwr { p with eff := 2, supOut := 0, thOut := 0 }) n
    else if p.eff = 2 then State.descend s.enterL3 n
    else let t := s.enterL4; State.descend (t.setPwr { t.pwr with eff := 4, supOut := 0, thOut := 0 }) n

/-- Go on with what the effective level asks for; L5 turns the module off whatever is open (R476). -/
def State.shed (s : State) : State := if 5 ≤ s.pwr.level then s.powerOff else s.descend 8

/-- SHED_ENTRY (R475, R478, R479): at a boundary the levels rise by their counts, and the floor may have risen. -/
def execShedEntry (s : State) : Host.Outcome State Fault Refusal :=
  s.ran fun s =>
    if s.time.phase ≠ 0 then s
    else
      let p := s.pwr
      let u := risen p.supply p.supIn false
      let t := risen p.thermal p.thIn true
      let s1 := s.setPwr { p with supply := u, thermal := t }
      let s2 := if u = p.supply then s1 else (s1.supplyEvent u p.supply).countEntries 6 p.supply u
      let s3 := if t = p.thermal then s2 else (s2.thermalEvent t p.thermal).countEntries 11 p.thermal t
      let lv := max p.level s3.pwr.target
      let s4 := s3.setPwr { s3.pwr with level := lv, supOut := if u = p.supply && t = p.thermal then p.supOut else 0, thOut := if u = p.supply && t = p.thermal then p.thOut else 0 }
      s4.shed

/-! ### The reset of a die (R482 to R484) -/

/-- A table without the entries of some numbers. -/
def without {α : Type} (t : Tab α) (p : Nat → Bool) : Tab α := t.filter fun e => !p e.1

/-- A compute die's CORE domain at reset: units, scratchpad, queues, sync objects, trace SRAM. -/
def State.clearCompute (s : State) (d : Nat) : State :=
  let mine (x : Nat) : Bool := x / 16 == d
  let lo := scratchAddr d 0
  let cs : Tab (List Flying) := s.chans.map fun c => (c.1, c.2.filter fun f => queueDie f.q != d)
  { s with
    mem := s.mem.filter fun c => !(decide (lo ≤ c.1) && decide (c.1 < lo + 0x8000000))
    veiled := s.veiled.filter fun v => !(decide (lo ≤ v.1) && decide (v.1 < lo + 0x8000000))
    units := without s.units mine
    queues := without s.queues fun k => queueDie k == d
    chans := cs.filter fun c => !c.2.isEmpty
    watches := s.watches.filter fun w => !(mine w.1 || (match w.2 with | some v => syncHome v.sid == d | none => false))
    mxe := without s.mxe mine
    eng := without s.eng mine
    accDir := without s.accDir fun k => k == d
    vregs := without s.vregs fun k => mine (k / 64)
    vmask := without s.vmask fun k => mine (k / 8)
    vx := without s.vx mine
    recipes := without s.recipes mine
    dec := without s.dec mine
    gse := without s.gse fun k => k == d
    rxe := without s.rxe fun k => k == d }

/-- The CD number of a sync object's home, or 24 to 27. -/
def homeOf (k : Nat) : Nat := syncHome (BitVec.ofNat 16 k)

/-- RESET of a die: what its domains hold is cleared, its firmware loaded, its epoch raised. A link die's ports and a host die's
ports return to their reset values. -/
def State.resetDie (s : State) (d : Nat) (staged : Bool) : State :=
  let s0 := s.dropXlateUnit d
  let s1 := if d < 24 then s0.clearCompute d else s0
  let s2 : State := { s1 with syncs := without s1.syncs fun k => d < 28 && homeOf k == d }
  let s3 := s2.setTrace d .reset
  let s4 := if d = 28 ∨ d = 29 then
      [0, 2, 4].foldl (fun s p => s.updPort (p + (d - 28)) fun q => { NlPort.reset with cable := q.cable }) s3
    else if d = 31 then
      let t := [2, 3].foldl (fun (s : State) c => s.setCxl c .reset) s3
      (List.range 16).foldl (fun s f => s.setCtx (16 + f) (.resetAt (16 + f))) (t.setHp 1 (.resetAt 1))
    else if 24 ≤ d && d < 28 then
      (List.range 12).foldl (fun s c => s.updDev (12 * (d - 24) + c) fun v => { DevSt.reset with trained := v.trained, devFault := v.devFault, selfRefresh := v.selfRefresh }) s3
    else s3
  s4.updDie d fun q => { q with
    epoch := q.epoch + 1, posted := false, staged := false, fwOk := d < 24
    fwVer := if d < 24 then (match staged, s.sec.stagedDie with | true, some i => BitVec.ofNat 32 (bits i.hdr 64 32) | _, _ => s.sec.microVersion) else q.fwVer
    fwDigest := if d < 24 then (match staged, s.sec.stagedDie with | true, some i => BitVec.ofNat 512 (bits i.hdr 192 512) | _, _ => s.sec.microDigest) else q.fwDigest }

/-- REJOIN: the fabric interface opens again. -/
def State.rejoinDie (s : State) (d : Nat) : State :=
  (s.updDie d fun q => { q with st := 0, ladder := false, posted := false }).fencedEvent d 1 fun _ => false

/-! ### Recovery (R477, R478) -/

/-- Undo what the highest level shed. -/
def State.ascend (s : State) : State :=
  match s.pwr.eff with
  | 4 =>
    let t := (s.eachDev fun d => { d with selfRefresh := false })
    [24, 25, 26, 27].foldl (fun s d => s.updDie d fun q => { q with ladder := false }) t
  | 3 => (List.range 24).foldl (fun s d => (s.resetDie d false).rejoinDie d) s
  | _ => s

/-- One level down. -/
def State.recover (s : State) : State :=
  let t := s.ascend
  t.setPwr { t.pwr with eff := t.pwr.eff - 1, level := t.pwr.eff - 1, supOut := 0, thOut := 0, stepped := true }

/-- SHED_RECOVERY (R477): at a boundary at which no level rises, one level is left. A level of one kind left under a higher one of
the other sheds nothing less. -/
def execShedRecovery (s : State) : Host.Outcome State Fault Refusal :=
  s.ran fun s =>
    let p := s.pwr
    if s.time.phase ≠ 0 || p.acting || p.stepped || p.supply != risen p.supply p.supIn false || p.thermal != risen p.thermal p.thIn true || decide (p.eff < p.target) then s
    else
      let s1 :=
        if p.supply != 0 && decide (10000 ≤ p.supOut) then (s.setPwr { p with supply := p.supply - 1, supOut := 0, stepped := true }).supplyEvent (p.supply - 1) p.supply
        else if p.thermal != 0 && decide (10000 ≤ p.thOut) then (s.setPwr { p with thermal := p.thermal - 1, thOut := 0, stepped := true }).thermalEvent (p.thermal - 1) p.thermal
        else s
      if s1.pwr.target < s1.pwr.eff then s1.recover else s1

/-- FORCE_LEVEL (R474, R479, R480): the floor, in force from the next boundary. -/
def State.writeForce (s : State) (v : U64) : State :=
  let old := s.pwr.floor
  let t := s.setPwr { s.pwr with force := bits v 0 3 }
  if t.pwr.floor = old then t else t.supplyEvent t.pwr.floor old

def execForceLevel (f : Func) (v : U64) (s : State) : Host.Outcome State Fault Refusal := s.byPwr fun s => (s.exchange (30 + f.port.val) 30).privileged f fun s => s.writeForce v

/-! ### DIE_CTRL (R480 to R484) -/

/-- A command is held for the next boundary; other values than 1 to 4 are ignored. -/
def State.dieCommand (s : State) (die cmd : Nat) : State :=
  if 1 ≤ cmd ∧ cmd ≤ 4 then s.updDie die fun d => { d with cmds := d.cmds ++ [BitVec.ofNat 3 cmd] } else s

def execQuiesce (f : Func) (die : Fin 32) (s : State) : Host.Outcome State Fault Refusal := s.byPwr fun s => (s.exchange (30 + f.port.val) 30).privileged f fun s => s.dieCommand die.val 1
def execFence (f : Func) (die : Fin 32) (s : State) : Host.Outcome State Fault Refusal := s.byPwr fun s => (s.exchange (30 + f.port.val) 30).privileged f fun s => s.dieCommand die.val 2
def execReset (f : Func) (die : Fin 32) (s : State) : Host.Outcome State Fault Refusal := s.byPwr fun s => (s.exchange (30 + f.port.val) 30).privileged f fun s => s.dieCommand die.val 3
def execRejoin (f : Func) (die : Fin 32) (s : State) : Host.Outcome State Fault Refusal := s.byPwr fun s => (s.exchange (30 + f.port.val) 30).privileged f fun s => s.dieCommand die.val 4

/-- A job that occupies the module's units now. -/
def Job.onModule (j : Job) : Bool :=
  j.phase == .running || j.phase == .stopping || j.phase == .saving || j.phase == .resuming || j.phase == .dumping

/-- ERR of a command that may not be: NOT_ALLOWED, SHED, LIVE (R481); 0 if it may. -/
def State.dieErr (s : State) (d : Nat) : Nat :=
  if d = 30 then 3
  else if (s.dieAt d).ladder then 4
  else if 24 ≤ d ∧ d < 28 ∧ s.jobs.any Job.onModule then 2
  else if (d = 28 ∨ d = 29) ∧ (s.jobs.any (fun j => j.live && j.cross) ∨ s.time.isRoot ∨ s.time.downMask ≠ 0) then 2
  else if d = 31 ∧ (s.jobs.any (fun j => j.live && decide (16 ≤ j.ctx.val)) ∨ (s.hpAt 1).control) then 2
  else 0

/-- A job spans a die by its resources (R482); a preempted one spans none. -/
def Job.spans (j : Job) (d : Nat) : Bool :=
  j.live && j.phase != .preempted && j.phase != .parked &&
    (j.bin.progs.any (fun p => p.x.die.val == d) || (binQueues j.bin).any (fun k => queueDie k == d) ||
      j.bin.report.scratch.any (fun r => r.die.val == d) || j.bin.syncs.any fun x => syncHome x.sid == d)

/-- Jobs stop as R77 gives and complete ABORTED_PEER. -/
def State.endPeers (s : State) (l : List Job) : State := s.abortAll 0xA (l.map (·.jid))

/-- One command at its boundary: in order, or ERR. FENCE counts from here; RESET waits for the fence to be complete. -/
def State.takeDieCmd (s : State) (d : Nat) (cmd : Nat) : State :=
  let q := s.dieAt d
  let err (e : Nat) : State := s.setDie d { q with err := BitVec.ofNat 3 e }
  match s.dieErr d with
  | 0 =>
    if cmd = 1 ∧ q.st = 0 then (s.setDie d { q with st := 1, err := 0 }).endPeers (s.jobs.filter fun j => j.spans d)
    else if cmd = 2 ∧ q.st = 1 then s.setDie d { q with st := 2, err := 0, since := s.time.beat, posted := false }
    else if cmd = 3 ∧ q.st = 2 ∧ q.posted then (s.setDie d { q with st := 3, err := 0 }).resetDie d q.staged
    else if cmd = 4 ∧ q.st = 3 then (s.setDie d { q with err := 0 }).rejoinDie d
    else err 1
  | e => err e

/-- Every command written since the last boundary. -/
def State.dieCommands (s : State) : State :=
  (List.range 32).foldl (fun (s : State) d =>
    let cs := (s.dieAt d).cmds
    cs.foldl (fun s c => s.takeDieCmd d c.toNat) (s.updDie d fun q => { q with cmds := [] })) s

/-- DIE_FENCED (R483): ten beats after the fence, what is open ends ABORTED and the event is posted. -/
def execDieFenced (die : Fin 32) (s : State) : Host.Outcome State Fault Refusal :=
  s.ran fun s =>
    let q := s.dieAt die.val
    if q.st != 2 || q.posted || decide (s.time.beat < q.since + 10) then s
    else (s.setDie die.val { q with posted := true }).fencedEvent die.val 0 fun j => j.spans die.val

/-! ### Resets (R485, R510) -/

/-- A warm module reset: every job ends without a record, registers take their reset values, GDDR7 keeps its contents in
self-refresh, the ladder keeps its level (log entry 54) while its measured values read 0 until the next boundary, and the boot goes on after the reading of the fuses. -/
def State.warm (s : State) (wdog : Bool) : State :=
  let t := s.cold true
  let held := decide (3 ≤ s.pwr.eff)
  let u : State := { t with
    mem := s.mem
    veiled := s.veiled
    poison := s.poison
    sec := { t.sec with stage := 1, wdog := wdog }
    pwr := { t.pwr with supply := s.pwr.supply, thermal := s.pwr.thermal, level := max s.pwr.supply s.pwr.thermal, eff := s.pwr.eff, tripped := s.pwr.tripped } }
  let v := u.eachDev fun d => { d with selfRefresh := true }
  if held then v.holdDies else v

/-- WARM_RESET (R485). -/
def execWarmReset (s : State) : Host.Outcome State Fault Refusal := s.ran fun s => s.warm false

/-- WATCHDOG_EXPIRY (R485): a warm reset that SEC_BOOT.WDOG shows. -/
def execWatchdogExpiry (s : State) : Host.Outcome State Fault Refusal := s.ran fun s => s.warm true

/-- MOD_RST (R510): the pin as a boundary samples it; low after high begins a warm reset. A module that is off only sees the level. -/
def execModRst (low : Bool) (s : State) : Host.Outcome State Fault Refusal :=
  let set (s : State) : State := s.setPins { s.pins with modRst := low }
  .next (if !s.pwr.on then set s
    else if s.time.phase ≠ 0 then s
    else if low && !s.pins.modRst then set (s.warm false) else set s)

/-- A function-level reset of a context: its jobs end without a record or an event, its registers take their reset values (R485, R527). -/
def State.flr (s : State) (n : Nat) : State :=
  let mine := s.jobs.filter fun j => j.live && j.ctx.val == n
  let s0 : State := { s with recfgs := s.recfgs.filter fun r => !mine.any fun j => j.jid == r.jid }
  let s1 := mine.foldl (fun s j => s.release j) s0
  let s2 : State := { s1 with locked := s1.locked.filter fun e => e.ctx != n, faults := s1.faults.filter fun f => f.ctx.val != n }
  (s2.setObs { s2.obs with
    dumps := s2.obs.dumps.filter fun d => d.ctx.val != n, claims := s2.obs.claims.filter fun c => c.ctx != n,
    resReq := tabSet false s2.obs.resReq n false }).setCtx n (.resetAt n)

/-- FUNCTION_LEVEL_RESET (R485). -/
def execFunctionLevelReset (f : Func) (s : State) : Host.Outcome State Fault Refusal := s.ran fun s => s.flr f.ctx

/-- PERST (R485): the sixteen functions of a port. -/
def execPerst (port : Fin 2) (s : State) : Host.Outcome State Fault Refusal :=
  s.ran fun s => (List.range 16).foldl (fun s f => s.flr (16 * port.val + f)) s

end Sys2Proof.Machine
end

