-- ==== Sys2Proof/Machine/Observe.lean ====
section
/-! DEFINITION. Observation: global counters, trace drain and triggers, the hang detector, the String Dump, the Recorder's areas, shared
resources, the TRIG pin (R441, R442, R446 to R461, R466 to R469, R508, R509). -/

namespace Sys2Proof.Machine

/-! ### Global counters (R442) -/

/-- SNAP: a snapshot at the next phase 0000. -/
def State.askSnap (s : State) : State := s.setObs { s.obs with snapReq := true }
def execSnap (f : Func) (s : State) : Host.Outcome State Fault Refusal := s.byBarOf f 30 fun s => s.privileged f State.askSnap

/-- CLEAR: every live value is cleared in that cycle, after the snapshot. -/
def State.askClear (s : State) : State := s.setObs { s.obs with clearReq := true }
def execClear (f : Func) (s : State) : Host.Outcome State Fault Refusal := s.byBarOf f 30 fun s => s.privileged f State.askClear

/-- The snapshot and the clear asked for, at phase 0000. -/
def State.countBoundary (s : State) : State :=
  let o := s.obs
  let o1 := if o.snapReq then { o with snap := o.cnt, status := s.gtNow } else o
  let o2 := if o.clearReq then { o1 with cnt := [] } else o1
  let s1 := if o.snapReq then s.snapFabric else s
  let s2 := if o.clearReq then s1.clearFabric else s1
  s2.setObs { o2 with snapReq := false, clearReq := false }

/-! ### Trace drain (R446 to R448) -/

def CtxSt.drainEn (c : CtxSt) : Bool := bit c.traceCfg 2
def CtxSt.ringLog (c : CtxSt) : Nat := bits c.traceRing 0 5
def CtxSt.ringBase (c : CtxSt) : Nat := bits c.traceRing 12 45 * 4096
def CtxSt.ringHead (c : CtxSt) : Nat := bits c.traceHead 0 32
def CtxSt.ringTail (c : CtxSt) : Nat := bits c.traceHead 32 32

/-- The ring takes another record. -/
def CtxSt.ringRoom (c : CtxSt) : Bool :=
  decide (10 ≤ c.ringLog) && decide (c.ringLog ≤ 24) && decide ((c.ringTail + 2 ^ 32 - c.ringHead) % 2 ^ 32 < 2 ^ c.ringLog)

/-- What a die's drain writes next: a DROP where overwritten records leave a gap, else the oldest record; once trace has stopped, a DROP of
the records STOP did not write since the last one (R448, R450). -/
def TraceSt.nextOut (t : TraceSt) (die gt : Nat) : Option (W256 × TraceSt) :=
  if t.gap ≠ 0 then some (traceRecord 0x0B (dieUnit die) 0 gt [(16, 4, t.gap)], { t with gap := 0 })
  else match t.recs with
    | [] =>
      if t.missed ≠ 0 && t.jid.isNone then some (traceRecord 0x0B (dieUnit die) 0 gt [(16, 4, t.missed)], { t with missed := 0 }) else none
    | r :: l => some (r, { t with recs := l })

/-- One record enters the ring, if there is room and the write does not fault. -/
def State.drainOne (s : State) (d : Nat) : State :=
  let t := s.traceAt d
  let n := t.ctx.toNat
  let c := s.ctxAt n
  if !c.drainEn || !c.ringRoom then s
  else match t.nextOut d s.gt with
    | none => s
    | some (r, t1) =>
      let w : Who := { unit := d, isDie := true, ctx := n, jid := t.jid.getD 0, lockedOnly := false }
      match s.store w (c.ringBase + 32 * (c.ringTail % 2 ^ c.ringLog)) (bytesOf 32 r.toNat) with
      | .ok s1 => (s1.setTrace d t1).updCtx n fun c => { c with traceHead := putField c.traceHead 32 32 (c.ringTail + 1) }
      | _ => s

/-- TRACE_DRAIN (R447): one 64-byte word, so two records; it waits while a dump is being taken (R456). -/
def execTraceDrain (die : Fin 32) (s : State) : Host.Outcome State Fault Refusal :=
  s.ran fun s => if s.dumpHolds then s else (s.drainOne die.val).drainOne die.val

/-- TRACE_DROP (R448): at most once per 1,024 beats, with the records dropped since the last. -/
def execTraceDrop (die : Fin 32) (s : State) : Host.Outcome State Fault Refusal :=
  s.ran fun s =>
    let t := s.traceAt die.val
    let may := match t.lastEvent with | none => true | some b => decide (b + 1024 ≤ s.time.beat)
    if t.sinceEvent = 0 || !may then s
    else
      (s.event t.ctx.toNat 0x0B (t.jid.getD 0) [(16, 1, die.val), (20, 4, t.sinceEvent)]).setTrace die.val { t with sinceEvent := 0, lastEvent := some s.time.beat }

/-! ### Triggers (R449, R508, R509) -/

/-- A context traces a job. -/
def State.ctxTraces (s : State) (ctx : Nat) : Bool := s.obs.trace.any fun e => e.2.jid.isSome && e.2.ctx.toNat == ctx

/-- A triggering event that belongs to a context and no job. -/
def State.ctxTrigger (s : State) (ctx src : Nat) : State := if s.ctxTraces ctx then s.noteTrigger ctx src else s

/-- SOFT_TRIG. -/
def execSoftTrig (f : Func) (s : State) : Host.Outcome State Fault Refusal := s.byBar (30 + f.port.val) fun s => s.ctxTrigger f.ctx 0

/-- A die takes the trigger: its TRIGGER record, then under CENTRED the records still to come. -/
def State.triggerDie (s : State) (ctx src at_ d : Nat) : State :=
  let t := s.traceAt d
  if t.jid.isNone || t.ctx.toNat != ctx then s
  else
    let s1 := s.tracePut d (traceRecord 0x0A (dieUnit d) 0 s.gt [(16, 1, src), (24, 8, (gtWord at_).toNat)])
    let t1 := s1.traceAt d
    let cfg := (s.ctxAt ctx).traceCfg
    let n := bits cfg 32 13
    s1.setTrace d (if bits cfg 0 2 = 2 then { t1 with triggered := true, postLeft := some n, frozen := t1.frozen || n == 0 } else { t1 with triggered := true })

/-- TRIGGER: 256 cycles after the triggering event. -/
def execTrigger (ctx : Fin 32) (s : State) : Host.Outcome State Fault Refusal :=
  s.ran fun s =>
    let c := s.ctxAt ctx.val
    match c.trigAt with
    | none => s
    | some g =>
      if s.gt < g + 256 then s
      else ((List.range 32).foldl (fun s d => s.triggerDie ctx.val c.trigSrc g d) s).updCtx ctx.val fun c => { c with trigAt := none, trigDone := true }

/-- TRIG_EDGE: an edge after 10 ns low, more than 20 ns after the last, is stamped and goes to the pin's owner. -/
def execTrigEdge (lowNs sinceNs : Nat) (s : State) : Host.Outcome State Fault Refusal :=
  s.ran fun s =>
    if lowNs < 10 || decide (sinceNs ≤ 20) then s
    else
      let o := s.obs
      if o.trigOwner = 1 then s.setPins { s.pins with trigLast := some s.gt, strobes := s.pins.strobes + 1 }
      else
        let s1 := s.setPins { s.pins with trigLast := some s.gt }
        if o.trigOwner = 2 then s1.ctxTrigger o.trigCtx.toNat 1 else s1

/-! ### The String Dump (R453 to R457) -/

/-- DUMP_CTRL fields. -/
def CtxSt.dumpState (c : CtxSt) : Nat := bits c.dumpCtrl 2 2
def CtxSt.setDump (c : CtxSt) (state result : Nat) : CtxSt := { c with dumpCtrl := putField (putField c.dumpCtrl 2 2 state) 4 3 result }
def CtxSt.dumpBase (c : CtxSt) : Nat := bits c.dumpDva 16 41 * 65536

/-- A request: one that finds a dump pending or under way is ignored, RESULT BUSY. It is taken at a boundary. -/
def State.askDump (s : State) (ctx : Nat) (scope hang : Bool) (at_ : Nat) : State :=
  if s.obs.dumps.isEmpty then
    let d : DumpSt := { ctx := BitVec.toFin (BitVec.ofNat 5 ctx), scope := scope, hang := hang, at_ := at_, jobs := [], taken := false, units := [] }
    (s.updCtx ctx fun c => c.setDump 1 (bits c.dumpCtrl 4 3)).setObs { s.obs with dumps := [d] }
  else s.updCtx ctx fun c => c.setDump c.dumpState 2

/-- A live job of a context is traced or recorded: most of its trace registers are closed (R443). -/
def State.traceBusy (s : State) (ctx : Nat) : Bool := s.jobs.any fun j => j.live && j.ctx.val == ctx && (dTrace j.desc || dRecord j.desc)

/-- A write of DUMP_CTRL: SCOPE under R443's rule, the whole module for the control function alone; GO asks for a dump at the next
boundary. -/
def State.writeDumpCtrl (s : State) (f : Func) (go scope : Bool) : State :=
  let old := bit (s.ctxAt f.ctx).dumpCtrl 1
  let sc := if s.traceBusy f.ctx then old else scope && s.isControl f
  let s1 := s.updCtx f.ctx fun c => { c with dumpCtrl := putField c.dumpCtrl 1 1 (b2n sc) }
  if go then s1.askDump f.ctx (sc && s.isControl f) false (s.time.beat + 1) else s1

/-- DUMP_REQUEST. -/
def execDumpRequest (f : Func) (scope : Bool) (s : State) : Host.Outcome State Fault Refusal :=
  s.byBar (30 + f.port.val) fun s => s.writeDumpCtrl f true scope

/-- HANG_CYCLES in beats. -/
def CtxSt.hangBeats (c : CtxSt) : Nat := ceilDiv (2 ^ max 16 (bits c.hang 0 5)) 2250

/-- The unit a HANG event names: the lowest in WAIT_TOKEN, WAIT_CREDIT, WAIT_SYNC or WAIT_ACC. -/
def State.hungUnit (s : State) (j : Job) : Option Nat :=
  (s.unitsOf j.jid).find? fun x => [3, 4, 5, 7].contains (s.unit x).wait.code.toNat

/-- HANG (R454): posted once, with a dump of the context's scope at this boundary. A job none of whose units waits so names unit 0. -/
def execHang (jid : U64) (s : State) : Host.Outcome State Fault Refusal :=
  s.ran fun s => s.withJob jid fun j =>
    if s.time.phase ≠ 0 || j.hung || j.phase != .running || decide (j.silentBeats < (s.ctxAt j.ctx.val).hangBeats) then s
    else
      let x := (s.hungUnit j).getD 0
      let w : WaitSt := match s.hungUnit j with | some x => (s.unit x).wait | none => .idle
      let s1 := s.event j.ctx.val 0x04 jid [(16, 2, x), (18, 1, w.code.toNat), (20, 4, w.operand)]
      (s1.updJob jid fun j => { j with hung := true }).askDump j.ctx.val false true s.time.beat

/-- One beat of the hang detector for a job (R453). Only a job on the module hangs. -/
def State.hangBeat (s : State) (j : Job) : State :=
  let alive := j.phase != .running || j.progress || (s.unitsOf j.jid).any fun x => [2, 6, 8].contains (s.unit x).wait.code.toNat
  s.updJob j.jid fun j => { j with progress := false, silentBeats := if alive then 0 else j.silentBeats + 1, hung := j.hung && !alive }

def State.hangBeats (s : State) : State := (s.jobs.filter Job.live).foldl State.hangBeat s

/-- Jobs a dump would hold, and whether a preemption is under way among them. -/
def State.dumpJobs (s : State) (d : DumpSt) : List Job := s.jobs.filter fun j => j.live && (d.scope || j.ctx == d.ctx)

/-- Lent work that moves on some DMX1 loses it to the dump (R467). -/
def State.pauseLent (s : State) (d : DumpSt) : State :=
  let moves (j : Job) : Bool := j.phase == .running && !j.guaranteed && (s.unitsOf j.jid).any fun x => x % 16 == 13 && (s.unit x).prog != 0
  (s.jobs.filter moves).foldl (fun s j => s.resourceDenied j.ctx.val 2 d.ctx.val 5) s

/-- One entry of a section: its bytes are internal. -/
def State.dumpEntry (s : State) (ctx at_ len : Nat) : State := s.veilDva ctx at_ (at_ + len) 2

/-- A unit's entry, with its FLAGS as R138 lays them out at the place the internal layout gives them. -/
def State.dumpUnit (s : State) (ctx base x : Nat) : State :=
  let a := base + x / 16 * 0x100000 + 0x1000 + 512 * (x % 16)
  (s.dumpEntry ctx a 512).storeQuiet ctx (a + Config.dumpFlagsAt % 511) (bytesOf 2 (s.unit x).flags.toNat)

/-- A queue's entry: queues 0 to 511 of a die, then its FTQs. -/
def State.dumpQueue (s : State) (ctx base q : Nat) : State :=
  let p : Nat × Nat := if q < 12288 then (q / 512, q % 512) else ((q - 12288) / 4, 512 + (q - 12288) % 4)
  s.dumpEntry ctx (base + p.1 * 0x100000 + 0x3000 + 64 * p.2) 64

/-- A sync object's entry, by its place on its home die. -/
def State.dumpSync (s : State) (ctx base i : Nat) : State :=
  let slot := if i < 49152 then i % 2048 else (i - 49152) % 4096
  s.dumpEntry ctx (base + syncHome (BitVec.ofNat 16 i) * 0x100000 + 0xC000 + 32 * slot) 32

/-- A die's trace SRAM is zero in its segment unless its owner is a dumped job. -/
def State.dumpTraces (s : State) (ctx base : Nat) (js : List Job) : State :=
  (List.range 32).foldl (fun s n =>
    if js.any fun j => (s.traceAt n).jid == some j.jid then s
    else s.overDva State.blank ctx (base + n * 0x100000 + 0x30000) (base + n * 0x100000 + 0x70000) 5) s

/-- What SCOPE 0 leaves out of a segment beyond units, queues and sync objects: marks where the dumped jobs have none, the directory,
reconfigurations and the die class. -/
def State.dumpOthers (s : State) (ctx base : Nat) (js : List Job) : State :=
  (List.range 32).foldl (fun s n =>
    let a := base + n * 0x100000
    let held := s.marks.any fun m => (js.any fun j => j.jid == m.jid) && m.dies.any fun e => e.1 == n
    (s.overDva State.blank ctx (a + if held then 0x2D000 else 0x2C000) (a + 0x30000) 2).overDva State.blank ctx (a + 0x70000) (a + 0x100000) 10) s

/-- The 32 segments (R456, R457). With SCOPE 0 they hold units, queues, sync objects and marks of the dumped jobs, and every other entry is
zero. The layout of an entry is internal. -/
def State.writeSegments (s : State) (d : DumpSt) (js : List Job) (base : Nat) : State :=
  let ctx := d.ctx.val
  let s0 := (s.veilDva ctx base (base + 0x2000000) 512).dumpTraces ctx base js
  if d.scope then (List.range 384).foldl (fun s x => s.dumpUnit ctx base x) s0
  else
    let s1 := (List.range 32).foldl (fun s n => s.overDva State.blank ctx (base + n * 0x100000 + 0x1000) (base + n * 0x100000 + 0x2C000) 4)
      (s0.dumpOthers ctx base js)
    let xs := js.flatMap fun j => s.unitsOf j.jid
    let s2 := xs.foldl (fun s x => s.dumpUnit ctx base x) s1
    let s3 := ((js.flatMap fun j => binQueues j.bin) ++ ftqKeys xs).foldl (fun s q => s.dumpQueue ctx base q) s2
    (s.syncs.filter fun e => e.2.ctx.toNat == ctx).foldl (fun s e => s.dumpSync ctx base e.1) s3

/-- A dump is taken: its jobs stop, the segments are written. -/
def State.takeDump (s : State) (d : DumpSt) : State :=
  let js := (s.dumpJobs d).filter fun j => j.phase == .running
  let ws : List (Nat × WaitSt) := (js.flatMap fun j => s.unitsOf j.jid).map fun x => (x, (s.unit x).wait)
  let s1 := js.foldl (fun s j => (s.stopJob j).updJob j.jid fun j => { j.reason 2 with phase := .dumping }) (s.pauseLent d)
  let s2 := s1.setObs { s1.obs with dumps := [{ d with taken := true, jobs := js.map (·.jid), units := ws }] }
  (s2.updCtx d.ctx.val fun c => { c with dumpCtrl := putField c.dumpCtrl 2 2 2 }).writeSegments d js (s.ctxAt d.ctx.val).dumpBase

/-- A dump that is not taken, with its RESULT. -/
def State.refuseDump (s : State) (d : DumpSt) (result : Nat) : State :=
  (s.setObs { s.obs with dumps := [] }).updCtx d.ctx.val fun c => c.setDump 0 result

/-- STRING_DUMP: the pending dump at its boundary. -/
def execStringDump (s : State) : Host.Outcome State Fault Refusal :=
  s.ran fun s =>
    match s.obs.dumps.find? fun d => !d.taken && decide (d.at_ ≤ s.time.beat) with
    | none => s
    | some d =>
      let base := (s.ctxAt d.ctx.val).dumpBase
      if s.time.phase ≠ 0 then s
      else if base = 0 || !s.isPinned d.ctx.val base 0x2000000 true then s.refuseDump d 1
      else if (s.dumpJobs d).any Job.beingSaved then s.refuseDump d 3
      else s.takeDump { d with at_ := s.time.beat }

/-- DUMP_RESTART: ten beats on, the units start again. -/
def execDumpRestart (s : State) : Host.Outcome State Fault Refusal :=
  s.ran fun s =>
    match s.obs.dumps.find? fun d => d.taken && decide (d.at_ + 10 ≤ s.time.beat) with
    | none => s
    | some d =>
      let s1 := d.jobs.foldl (fun (s : State) k => s.withJob k fun j =>
        if j.phase == .dumping then (s.updJob k fun j => { j with phase := .running }).runUnits (s.unitsOf k) else s) s
      let s2 := (List.range 24).foldl (fun s c => s.updUnit (c * 16 + 15) fun u => u.count 7 1) s1
      (s2.setObs { s2.obs with dumps := [] }).updCtx d.ctx.val fun c =>
        let r := c.setDump 0 0
        { r with dumpCtrl := putField r.dumpCtrl 16 16 (min (bits r.dumpCtrl 16 16 + 1) 0xFFFF) }

/-! ### The Recorder's areas (R458, R461, R466) -/

/-- The replay report (R466). -/
def RecSt.report (r : RecSt) : BitVec 512 :=
  pack 512 [(0, 8, r.status), (8, 8, r.kind), (16, 16, r.divUnit), (32, 32, r.firstS), (64, 32, r.pi), (96, 32, r.div.getD 0 0),
    (128, 48, r.div.getD 1 0), (192, 64, r.div.getD 2 0), (256, 64, r.div.getD 3 0), (320, 32, r.diverged)]

/-- The header (R458). FORMAT's value is not stated. -/
def RecSt.header (r : RecSt) : BitVec 2048 :=
  pack 2048 [(0, 32, 0xC7A30002), (32, 32, Config.recordFormat.toNat), (64, 64, r.jid.toNat), (128, 8, b2n r.full), (136, 8, r.state),
    (192, 64, r.bytes), (256, 64, r.fullBytes), (320, 32, r.truncS), (352, 32, r.fullEndS), (512, 512, r.binDigest.toNat)]

/-- What a recording or replay shows in memory: its header or report; entries between the named fields are packed as the
manual does not say. An area that faults truncates a recording. -/
def State.showRec (s : State) (r : RecSt) : State × RecSt :=
  if r.closed then (s, r)
  else
    let w : Who := { unit := 30, isDie := true, ctx := r.ctx, jid := r.jid, lockedOnly := false }
    let done := r.state != 0
    if r.replayOf.isSome then
      let s1 := s.storeQuiet r.ctx (r.area + 128) (bytesOf 64 r.report.toNat)
      (s1.updCtx r.ctx fun c => { c with replay := pack 64 [(0, 3, r.status), (4, 3, r.kind), (16, 32, r.firstS), (48, 16, min r.diverged 0xFFFF)] }, { r with closed := done })
    else match s.locate w r.area true with
      | .ok _ =>
        let s1 := s.veilDva r.ctx (r.area + 256 + r.shown.1) (r.area + 256 + r.bytes) ((r.bytes - r.shown.1) / 65536 + 2)
        let fa := bits (s.ctxAt r.ctx).fullArea 16 41 * 65536
        let s2 := if r.full && decide (r.shown.2 < r.fullBytes) then s1.veilDva r.ctx (fa + r.shown.2) (fa + r.fullBytes) ((r.fullBytes - r.shown.2) / 65536 + 2) else s1
        (s2.storeQuiet r.ctx r.area (bytesOf 256 r.header.toNat), { r with shown := (r.bytes, r.fullBytes), closed := done })
      | _ => if done then (s, { r with closed := true }) else
        (s, { r with state := 2, truncS := match s.job? r.jid with | some j => j.s | none => 0, closed := true })

/-- Every recording in turn. -/
def State.showRecs (s : State) : State :=
  let step_ (a : State × List RecSt) (r : RecSt) : State × List RecSt := let q := a.1.showRec r; (q.1, a.2 ++ [q.2])
  let r := s.obs.recs.foldl step_ (s, [])
  r.1.setObs { r.1.obs with recs := r.2 }

/-! ### Shared resources (R467 to R469) -/

/-- A claim enters the queue of the boundary: writes of one register in one cycle count with port A's before port B's (R33). -/
def insertClaim (c : ClaimReq) : List ClaimReq → List ClaimReq
  | [] => [c]
  | e :: t => if e.ctx = c.ctx ∧ e.what = c.what ∧ e.gt = c.gt ∧ c.port < e.port then c :: e :: t else e :: insertClaim c t

/-- RESOURCE_CLAIM: held for the next boundary. -/
def State.askClaim (s : State) (port ctx : Nat) (r : Claimed) (want : Bool) : State :=
  s.setObs { s.obs with claims := insertClaim { ctx := ctx, what := r, want := want, gt := s.gt, port := port } s.obs.claims }

def execResourceClaim (f : Func) (r : Claimed) (want : Bool) (s : State) : Host.Outcome State Fault Refusal :=
  s.byBarOf f 30 fun s => s.askClaim f.port.val f.ctx r want

/-- One claim decided. The debug trigger loses to a strobe and to an earlier debug trigger; lent DMA loses DMX1 to a dump. -/
def State.decideClaim (s : State) (c : ClaimReq) : State :=
  let o := s.obs
  match c.what with
  | .trig =>
    if c.want then
      if o.trigOwner = 0 then s.setObs { o with trigOwner := 2, trigCtx := BitVec.ofNat 5 c.ctx, resReq := tabSet false o.resReq c.ctx true }
      else if o.trigOwner = 2 ∧ o.trigCtx.toNat = c.ctx then s
      else (s.setObs { o with resReq := tabSet false o.resReq c.ctx false }).resourceDenied c.ctx 0 c.ctx o.trigOwner.toNat
    else if o.trigOwner = 2 ∧ o.trigCtx.toNat = c.ctx then s.setObs { o with trigOwner := 0, trigCtx := 0, resReq := tabSet false o.resReq c.ctx false }
    else s
  | .dmx1 _ => if c.want && s.dumpHolds then s.resourceDenied c.ctx 2 c.ctx 5 else s

/-- Every claim since the last boundary, in the order of R417. -/
def State.decideClaims (s : State) : State :=
  let cs := (boundaryOrder s.time.beat).flatMap fun n => s.obs.claims.filter fun c => c.ctx == n
  cs.foldl State.decideClaim (s.setObs { s.obs with claims := [] })

end Sys2Proof.Machine
end

