-- ==== Sys2Proof/Machine/Security.lean ====
section
/-! DEFINITION. Boot, images, the security mailbox, attestation (R472, R486 to R494). -/

namespace Sys2Proof.Machine

/-! ### Images (R487) -/

def imgType (i : Image) : Nat := bits i.hdr 32 8
def imgKey (i : Image) : Nat := bits i.hdr 40 8
def imgVersion (i : Image) : U32 := BitVec.ofNat 32 (bits i.hdr 64 32)
def imgSvn (i : Image) : Nat := bits i.hdr 96 8
def imgDigest (i : Image) : BitVec 512 := BitVec.ofNat 512 (bits i.hdr 192 512)

/-- The signature over bytes 0 to 511 under a boot-ROM key. -/
def sigOk (w : BitVec 8192) (key : Nat) : Bool :=
  Config.rsaVerify key (BitVec.ofNat 4096 (bits w 0 4096)) (BitVec.ofNat 4096 (bits w 4096 4096))

/-- Fuse counter of an image type, and the SVN of the image of that type that runs. -/
def SecSt.svnOf (c : SecSt) (ty : Nat) : Nat := c.svn.getD (ty - 1) 0
def SecSt.runOf (c : SecSt) (ty : Nat) : Nat := c.runSvn.getD (ty - 1) 0

/-- What is wrong with an image as one of a type: CODE as SEC_RESULT has it (R493), 0 for nothing. A wrong DIGEST counts with the
signature that covers it. -/
def SecSt.imageErr (c : SecSt) (i : Image) (ty : Nat) : Nat :=
  if imgType i ≠ ty then 4
  else if 4 ≤ imgKey i then 1
  else if bit c.revoked (imgKey i) then 2
  else if !sigOk i.hdr (imgKey i) || Config.sha512 i.payload != imgDigest i then 1
  else if imgSvn i < c.svnOf ty then 3
  else 0

/-- An image accepted. -/
def SecSt.good (c : SecSt) (ty : Nat) (i : Option Image) : Option Image := i.filter fun i => c.imageErr i ty == 0

/-- A measurement extended: the hash of the old value and what is measured. -/
def extendM (m d : BitVec 512) : BitVec 512 := Config.sha512 (bytesOf 64 m.toNat ++ bytesOf 64 d.toNat)

/-! ### Boot (R472, R486) -/

def State.sec! (s : State) (f : SecSt → SecSt) : State := s.setSec (f s.sec)

/-- Step 1: the fuses are read; measurements 1, 5 and 6 are of the ROM, the fuses and the debug state. -/
def State.bootFuses (s : State) : State :=
  s.sec! fun c => { c with
    stage := 1
    meas := [Config.sha512 (bytesOf 4 Config.romVersion.toNat), 0, 0, 0, Config.sha512 (c.svn.map (BitVec.ofNat 8) ++ [c.revoked.setWidth 8]), Config.sha512 [c.scope.setWidth 8]] }

/-- Steps 2 and 3: the management image of the preferred slot, or of the other; without one, recovery. -/
def State.bootMgmt (s : State) : State :=
  let c := s.sec
  let slots := if c.preferred then [true, false] else [false, true]
  match slots.findSome? fun b => (c.good 1 ((c.flash.getD (b2n b) none))).map fun i => (b, i) with
  | none => s.setSec { c with recovery := true, err := 1 }
  | some (b, i) => s.setSec { c with
      stage := 3, slot := b, mgmtVersion := imgVersion i, mgmtSvn := BitVec.ofNat 8 (imgSvn i), runSvn := setAt c.runSvn 0 (imgSvn i),
      meas := modAt c.meas 1 fun m => extendM m (imgDigest i) }

/-- Step 4: microcode and training code. -/
def State.bootDies (s : State) (micro train : Option Image) : State :=
  let c := s.sec
  match c.good 2 micro, c.good 3 train with
  | some m, some t => s.setSec { c with
      stage := 4, microVersion := imgVersion m, microDigest := imgDigest m, runSvn := setAt (setAt c.runSvn 1 (imgSvn m)) 2 (imgSvn t),
      meas := modAt (modAt c.meas 2 fun x => extendM x (imgDigest m)) 3 fun x => extendM x (imgDigest t) }
  | _, _ => s.setSec { c with err := 2 }

/-- Step 5: the devices are trained below L4, the microcode is loaded below L3. -/
def State.bootTrain (s : State) (failed : Option (Fin 48)) : State :=
  if 4 ≤ s.pwr.eff then s
  else
    let s1 := (List.range 48).foldl (fun s i => s.updDev i fun d => { d with trained := failed.map (·.val) != some i, selfRefresh := false }) s
    match failed with
    | some d => s1.sec! fun c => { c with err := 3, dev := BitVec.ofNat 6 d.val }
    | none =>
      if 3 ≤ s.pwr.eff then s1
      else
        let s2 := (List.range 24).foldl (fun s d => s.updDie d fun q => { q with fwVer := s.sec.microVersion, fwDigest := s.sec.microDigest, fwOk := true }) s1
        s2.sec! fun c => { c with stage := 5 }

/-- BOOT: every step the ladder and MOD_RST# let run, from where the boot stands. The operands are what flash holds. -/
def execBoot (slotA slotB micro train : Option Image) (failedDev : Option (Fin 48)) (s : State) : Host.Outcome State Fault Refusal :=
  s.ran fun s =>
    let stop (s : State) : Bool := s.sec.recovery || s.sec.err != 0
    let s1 := s.sec! fun c => { c with flash := [slotA.orElse fun _ => c.flash.getD 0 none, slotB.orElse fun _ => c.flash.getD 1 none] }
    let s2 := if stop s1 || decide (1 < s1.sec.stage.toNat) then s1 else s1.bootFuses
    let s3 := if stop s2 || s2.pins.modRst || s2.sec.stage != 1 then s2 else s2.bootMgmt
    let s4 := if stop s3 || s3.sec.stage != 3 then s3 else s3.bootDies micro train
    let s5 := if stop s4 || s4.sec.stage != 4 then s4 else s4.bootTrain failedDev
    if stop s5 || s5.sec.stage != 5 then s5 else s5.sec! fun c => { c with stage := 6, ready := true }

/-! ### The mailbox (R488, R491 to R494) -/

/-- A mailbox command: while BUSY it is ignored (R493). -/
def State.secCmd (s : State) (g : State → State) : State := if s.sec.status = 1 then s else g s

/-- A command by the control function, served at every level the module runs at. -/
def State.mailbox (s : State) (f : Func) (g : State → State) : Host.Outcome State Fault Refusal :=
  s.ran fun s => (s.exchange (30 + f.port.val) 30).privileged f fun s => s.secCmd g

def State.secDone (s : State) : State := s.sec! fun c => { c with status := 2, code := 0 }
def State.secFail (s : State) (code : Nat) : State := s.sec! fun c => { c with status := 3, code := BitVec.ofNat 8 code }

/-- FW_STAGE: a management image goes to the slot that is not running, a die image to staging. -/
def State.fwStage (s : State) (img : Image) : State :=
  let c := s.sec
  if imgType img = 0 ∨ 3 < imgType img then s.secFail 4
  else match c.imageErr img (imgType img) with
    | 0 =>
      if imgType img = 1 then (s.setSec { c with flash := setAt c.flash (1 - b2n c.slot) (some img) }).secDone
      else (s.setSec { c with stagedDie := some img }).secDone
    | e => s.secFail e

def execFwStage (f : Func) (img : Image) (s : State) : Host.Outcome State Fault Refusal := s.mailbox f fun s => s.fwStage img

/-- FW_SELECT: the other slot is preferred from the next warm reset. -/
def State.fwSelect (s : State) : State :=
  let c := s.sec
  if (c.flash.getD (1 - b2n c.slot) none).isSome then (s.setSec { c with preferred := !c.slot }).secDone else s.secFail 5

def execFwSelect (f : Func) (s : State) : Host.Outcome State Fault Refusal := s.mailbox f State.fwSelect

/-- FW_ACTIVATE_DIE: a fenced die's next RESET loads the staged image. -/
def State.fwActivate (s : State) (die : Nat) : State :=
  if (s.dieAt die).st != 2 then s.secFail 6
  else match s.sec.stagedDie with
    | none => s.secFail 5
    | some i => if imgType i ≠ 2 then s.secFail 4 else (s.updDie die fun d => { d with staged := true }).secDone

def execFwActivateDie (f : Func) (die : Fin 32) (s : State) : Host.Outcome State Fault Refusal := s.mailbox f fun s => s.fwActivate die.val

/-- ADVANCE_SVN: a fuse counter, of 64 fuses, rises to the running image's SVN. -/
def State.advanceSvn (s : State) (t : Nat) : State :=
  let c := s.sec
  if t = 0 ∨ 3 < t then s.secFail 4
  else (s.setSec { c with svn := setAt c.svn (t - 1) (max (c.svnOf t) (min (c.runOf t) 64)) }).secDone

def execAdvanceSvn (f : Func) (ty : Byte) (s : State) : Host.Outcome State Fault Refusal := s.mailbox f fun s => s.advanceSvn ty.toNat

/-- DEBUG_CHALLENGE: a fresh nonce. -/
def State.debugChallenge (s : State) : State :=
  ((s.sec! fun c => { c with nonce := Config.nonce s.fresh, nonceLive := true }).tickFresh 1).secDone

def execDebugChallenge (f : Func) (s : State) : Host.Outcome State Fault Refusal := s.mailbox f State.debugChallenge

/-- What is wrong with a debug token. -/
def SecSt.tokenErr (c : SecSt) (t : BitVec 8192) : Nat :=
  let k := bits t 40 8
  if 4 ≤ k then 1
  else if bit c.revoked k then 2
  else if !sigOk t k then 1
  else if bits t 64 64 ≠ Config.serial.toNat then 8
  else if !c.nonceLive || bits t 128 256 != c.nonce.toNat then 7
  else 0

/-- DEBUG_UNLOCK: the nonce serves once; an accepted token sets SCOPE and extends measurement 6. -/
def State.debugUnlock (s : State) (token : BitVec 8192) : State :=
  let c := s.sec
  let s1 := s.setSec { c with nonceLive := false }
  match c.tokenErr token with
  | 0 => (s1.sec! fun c => { c with
      scope := BitVec.ofNat 2 (bits token 32 2), meas := modAt c.meas 5 fun m => extendM m (Config.sha512 (bytesOf 1024 token.toNat)) }).secDone
  | e => s1.secFail e

def execDebugUnlock (f : Func) (token : BitVec 8192) (s : State) : Host.Outcome State Fault Refusal := s.mailbox f fun s => s.debugUnlock token

/-- MODULE_RESET: a warm reset one beat after DONE. -/
def State.moduleReset (s : State) : State := (s.sec! fun c => { c with resetAt := some (s.gt + 2250) }).secDone

def execModuleReset (f : Func) (s : State) : Host.Outcome State Fault Refusal := s.mailbox f State.moduleReset

/-- The bytes SEC_ADDR and SEC_LEN name: host memory on the control port, which the host may have changed (R493). -/
def State.secBytes (s : State) (n : Nat) : List Byte :=
  (List.range n).map fun i => Config.hostByte s.fresh s.gt 1025 (hostKey (s.controlCtx / 16) (s.sec.addr.toNat + i))

/-- SEC_CMD written: the operation of OP with ARG, its image or token read from the host (R493, R494). -/
def State.writeSecCmd (s : State) (v : U64) : State :=
  s.secCmd fun s =>
    let n := s.sec.len.toNat
    let hdr : BitVec 8192 := BitVec.ofNat 8192 (ofBytes (s.secBytes 1024))
    match bits v 0 8 with
    | 1 => (s.fwStage { hdr := hdr, payload := (s.secBytes n).drop 1024 }).tickFresh 1
    | 2 => s.fwSelect
    | 3 => s.fwActivate (bits v 8 8)
    | 4 => s.advanceSvn (bits v 8 8)
    | 5 => s.debugChallenge
    | 6 => (s.debugUnlock hdr).tickFresh 1
    | 7 => s.moduleReset
    | _ => s

/-! ### Attestation (R489, R490) -/

/-- Response codes of SPDM, which the manual takes from DMTF. -/
inductive Spdm where
  | digests | certificate | challengeAuth | version | measurements | capabilities | algorithms | error
deriving DecidableEq, Repr

def Spdm.code : Spdm → Nat
  | .digests => 0x01 | .certificate => 0x02 | .challengeAuth => 0x03 | .version => 0x04
  | .measurements => 0x60 | .capabilities => 0x61 | .algorithms => 0x63 | .error => 0x7F

/-- Measurements as reported: the third is the microcode of the lowest die; every die whose version differs adds its own. -/
def State.measured (s : State) : List (BitVec 512) :=
  let m := s.sec.meas
  let d0 := s.dieAt 0
  let third := if d0.fwDigest = 0 ∨ d0.fwDigest = s.sec.microDigest then m.getD 2 0 else extendM 0 d0.fwDigest
  let others := (List.range 24).filter fun d => (s.dieAt d).fwVer != d0.fwVer
  setAt m 2 third ++ others.map fun d => extendM 0 (s.dieAt d).fwDigest

/-- What a signature covers: a digest of the nonce and what the response carries. -/
def signOver (nonce : BitVec 256) (ds : List (BitVec 512)) : BitVec 4096 :=
  Config.rsaSign (Config.sha512 (bytesOf 32 nonce.toNat ++ ds.flatMap fun d => bytesOf 64 d.toNat))

def State.spdm (s : State) (c : Spdm) (ds : List (BitVec 512)) (sig : Option (BitVec 4096)) : State := s.reply (.spdm c.code 0 ds sig)

def execGetVersion (_port : Fin 2) (s : State) : Host.Outcome State Fault Refusal := s.ran fun s => s.spdm .version [] none
def execGetCapabilities (_port : Fin 2) (s : State) : Host.Outcome State Fault Refusal := s.ran fun s => s.spdm .capabilities [] none
def execNegotiateAlgorithms (_port : Fin 2) (s : State) : Host.Outcome State Fault Refusal := s.ran fun s => s.spdm .algorithms [] none

/-- GET_DIGESTS: of the one chain, in slot 0. -/
def execGetDigests (_port : Fin 2) (s : State) : Host.Outcome State Fault Refusal := s.ran fun s => s.spdm .digests [Config.certDigest] none

/-- GET_CERTIFICATE: slot 0 only. The chain itself stands for its digest. -/
def execGetCertificate (_port : Fin 2) (slot : Byte) (s : State) : Host.Outcome State Fault Refusal :=
  s.ran fun s => if slot = 0 then s.spdm .certificate [Config.certDigest] none else s.spdm .error [] none

/-- CHALLENGE: signed by the identity key. -/
def execChallenge (_port : Fin 2) (slot : Byte) (nonce : BitVec 256) (s : State) : Host.Outcome State Fault Refusal :=
  s.ran fun s => if slot = 0 then s.spdm .challengeAuth [Config.certDigest] (some (signOver nonce [Config.certDigest])) else s.spdm .error [] none

/-- GET_MEASUREMENTS, with signature. -/
def execGetMeasurements (_port : Fin 2) (nonce : BitVec 256) (s : State) : Host.Outcome State Fault Refusal :=
  s.ran fun s => s.spdm .measurements s.measured (some (signOver nonce s.measured))

end Sys2Proof.Machine
end

