-- ==== Sys2Proof/Machine/Sideband.lean ====
section
/-! DEFINITION. The management bus, ALERT#, BEAT_MON, the FRU EEPROM, and the registers they copy (R408, R480, R493, R505, R507,
R511 to R515, R518, R526). -/

namespace Sys2Proof.Machine

/-! ### Registers copied by the bus -/

/-- PWR_STATUS (R480). OVER follows the minimum VIN, which is what a beat records. -/
def State.pwrStatus (s : State) : U64 :=
  let p := s.pwr
  pack 64 [(0, 3, max p.level p.eff), (3, 3, p.supply), (6, 3, p.thermal), (9, 1, b2n (p.acting || p.level != p.eff)), (10, 1, b2n (decide (8000 < p.vin))),
    (16, 16, min p.vin 0xFFFF), (32, 16, min p.iin 0xFFFF)]

/-- PWR_THERM (R480). -/
def State.pwrTherm (s : State) : U64 := pack 64 [(0, 12, min s.pwr.hottest.1 0xFFF), (12, 5, s.pwr.hottest.2)]

/-- SEC_BOOT (R493). -/
def State.secBoot (s : State) : U64 :=
  let c := s.sec
  pack 64 [(0, 4, c.stage.toNat), (4, 1, b2n c.ready), (5, 1, b2n c.slot), (6, 1, b2n c.recovery), (7, 1, b2n c.wdog), (8, 8, c.err.toNat), (16, 6, c.dev.toNat)]

/-- HP_STATUS of a port (R408). -/
def HostPort.statusWord (h : HostPort) : U64 :=
  pack 64 [(0, 2, h.link.toNat), (2, 1, b2n h.cxl), (3, 1, b2n h.control), (4, 1, b2n h.full), (32, 16, h.denied)]

/-- What the bus answers until the next boundary: the registers of commands 0x01 to 0x06 in order (R513). -/
def State.busCopy (s : State) : List Byte :=
  bytesOf 8 s.pwrStatus.toNat ++ bytesOf 8 s.pwrTherm.toNat ++ bytesOf 8 s.secBoot.toNat ++ bytesOf 8 s.gtNow.toNat ++
    bytesOf 2 s.pwr.coolIn ++ bytesOf 2 s.pwr.coolOut ++ bytesOf 8 (s.hpAt 0).statusWord.toNat ++ bytesOf 8 (s.hpAt 1).statusWord.toNat

/-! ### At a boundary (R507, R511) -/

/-- ALERT# is driven low. -/
def State.alerts (s : State) : Bool :=
  decide (1 ≤ max s.pwr.level s.pwr.eff) || s.sec.recovery || s.sec.err != 0 || decide (960 < s.pwr.coolOut)

/-- ALERT#, the edge on BEAT_MON outside ACQUIRING and reset, and the copies of the bus. -/
def State.pinBoundary (s : State) : State :=
  let p := s.pins
  s.setPins { p with
    alert := s.alerts, smb := s.busCopy
    beatMon := if s.time.st = .acquiring ∨ p.modRst then p.beatMon else p.beatMon + 1 }

/-! ### The management endpoint (R512, R513) -/

/-- The endpoint is reachable from boot step 3, outside reset. -/
def State.busOpen (s : State) : Bool := s.pwr.on && decide (3 ≤ s.sec.stage.toNat) && !s.pins.modRst

/-- A block read of a part of the copy. -/
def State.smbRead (s : State) (lo n : Nat) : State :=
  if s.busOpen then s.reply (.bytes (((if s.pins.smb.isEmpty then s.busCopy else s.pins.smb).drop lo).take n)) else s.reply .nack

def execSmbPwrStatus (s : State) : Host.Outcome State Fault Refusal := .next (s.smbRead 0 8)
def execSmbPwrTherm (s : State) : Host.Outcome State Fault Refusal := .next (s.smbRead 8 8)
def execSmbSecBoot (s : State) : Host.Outcome State Fault Refusal := .next (s.smbRead 16 8)
def execSmbGtNow (s : State) : Host.Outcome State Fault Refusal := .next (s.smbRead 24 8)
def execSmbCoolant (s : State) : Host.Outcome State Fault Refusal := .next (s.smbRead 32 4)
def execSmbHpStatus (s : State) : Host.Outcome State Fault Refusal := .next (s.smbRead 36 16)
def execSmbSerial (s : State) : Host.Outcome State Fault Refusal :=
  .next (if s.busOpen then s.reply (.bytes (bytesOf 8 Config.serial.toNat)) else s.reply .nack)

/-- SMB_NACK: a wrong PEC, an unknown command, a write. A command the endpoint knows is none of these. -/
def execSmbNack (why : NackCause) (s : State) : Host.Outcome State Fault Refusal :=
  .next (match why with
    | .unknownCommand c => if s.busOpen && decide (1 ≤ c.toNat) && decide (c.toNat ≤ 7) then s else s.reply .nack
    | _ => s.reply .nack)

/-! ### The FRU EEPROM (R515) -/

/-- Bytes 0 to 251 of the identity block. -/
def fruIdentity : List Byte :=
  bytesOf 4 0xC7A30005 ++ bytesOf 2 1 ++ bytesOf 2 256 ++ [0x43, 0x54, 0x2D, 0x33, 0x32, 0x37, 0x32] ++ List.replicate 9 0 ++
    bytesOf 2 Config.stepping.toNat ++ bytesOf 2 0 ++ bytesOf 8 Config.serial.toNat ++ bytesOf 4 Config.mfgDate.toNat ++
    [6000, 8000, 7000, 3600, 400, 240, 640, 35, 500].flatMap (bytesOf 2) ++ List.replicate 6 0 ++ bytesOf 64 Config.certDigest.toNat ++ List.replicate 124 0

/-- A byte of the EEPROM. What the integrator area holds before it is written is 0. -/
def State.fruByte (s : State) (a : Nat) : Byte :=
  if a < 252 then fruIdentity.getD a 0
  else if a < 256 then (bytesOf 4 (crc32c (bitsUp 2016 (ofBytes fruIdentity))).toNat).getD (a - 252) 0
  else tabGet 0 s.pins.fru a

def fruStore (t : Tab Byte) (a : Nat) : List Byte → Tab Byte
  | [] => t
  | b :: l => fruStore (tabSet 0 t a b) (a + 1) l

/-- FRU_EEPROM_WRITE: of the integrator area while FRU_WP is low. The EEPROM runs from AUX_3V3, whatever the module does (R505). -/
def execFruEepromWrite (addr : Nat) (data : List Byte) (s : State) : Host.Outcome State Fault Refusal :=
  .next (if addr < 256 || decide (8192 < addr + data.length) || s.pins.fruWp then s.reply .nack
    else s.setPins { s.pins with fru := fruStore s.pins.fru addr data })

end Sys2Proof.Machine
end

