-- ==== Sys2Proof/Machine/Regs.lean ====
section
/-! DEFINITION. BAR0: the map, who reaches what, reads, and writes to registers without a row of their own (R33, R404, R405, R439,
R440, R483, R519 to R537 and the field maps they name). -/

namespace Sys2Proof.Machine

/-! ### The map (R519) -/

inductive RegBlock where
  | ident | time | power | res | ctx (n : Nat) | cd (d : Nat) | md (m : Nat) | nl (p : Nat) | cxl (c : Nat) | hp (h : Nat) | cnt | sec | gap
deriving DecidableEq, Repr

/-- A run of equal blocks: index and offset of an address, if it lies there. -/
def inBlocks (base stride n a : Nat) : Option (Nat × Nat) :=
  if base ≤ a ∧ a < base + n * stride then some ((a - base) / stride, (a - base) % stride) else none

/-- The block of an address and the offset in it. -/
def blockOf (a : Nat) : RegBlock × Nat :=
  if a < 0x1000 then (.ident, a)
  else if a < 0x2000 then (.time, a - 0x1000)
  else if a < 0x3000 then (.power, a - 0x2000)
  else if a < 0x4000 then (.gap, a)
  else if a < 0x5000 then (.res, a - 0x4000)
  else if 0x06000000 ≤ a ∧ a < 0x06080000 then (.cnt, a - 0x06000000)
  else if 0x07F00000 ≤ a ∧ a < 0x07F01000 then (.sec, a - 0x07F00000)
  else match inBlocks 0x01000000 0x10000 32 a, inBlocks 0x02000000 0x100000 24 a, inBlocks 0x04000000 0x100000 4 a with
    | some e, _, _ => (.ctx e.1, e.2)
    | _, some e, _ => (.cd e.1, e.2)
    | _, _, some e => (.md e.1, e.2)
    | none, none, none => match inBlocks 0x04800000 0x4000 6 a, inBlocks 0x04900000 0x4000 4 a, inBlocks 0x04A00000 0x4000 2 a with
      | some e, _, _ => (.nl e.1, e.2)
      | _, some e, _ => (.cxl e.1, e.2)
      | _, _, some e => (.hp e.1, e.2)
      | none, none, none => (.gap, a)

/-- The owning die. -/
def RegBlock.die : RegBlock → Nat
  | .time => 28
  | .ctx n => 30 + n / 16
  | .cd d => d
  | .md m => 24 + m
  | .nl p => linkDie p
  | .cxl c => 30 + c / 2
  | .hp h => 30 + h
  | _ => 30

/-! ### What registers read as. `none`: unassigned (R520). WO bits read 0; a W1S bit reads 1 from its setting until the module has done
what it asks for (R8): RETRAIN, SOFT_TRIG and the security mailbox's are done at once. -/

/-- R526. -/
def State.readIdent (s : State) (o : Nat) : Option U64 :=
  let c := s.sec
  match o with
  | 0x000 => some (pack 64 [(0, 16, 0x3272), (16, 8, Config.stepping.toNat), (24, 8, 1), (32, 32, Config.romVersion.toNat)])
  | 0x008 => some Config.serial
  | 0x010 => some (pack 64 [(0, 32, c.mgmtVersion.toNat), (32, 8, c.mgmtSvn.toNat)])
  | 0x018 => some (pack 64 [(0, 7, c.svnOf 1), (8, 7, c.svnOf 2), (16, 7, c.svnOf 3), (24, 4, c.revoked.toNat)])
  | _ => none

/-- TIME_STATUS (R95). -/
def State.timeStatus (s : State) : U64 :=
  let t := s.time
  let on := t.st != .free
  let root := if t.isRoot && on then s.moduleId else if t.isFollower && on then t.rootId.toNat else 0
  let hops := if t.isFollower && on then t.hops.toNat else 0
  pack 64 [(0, 2, t.st.code), (2, 6, hops), (8, 15, root), (23, 1, b2n s.stepPending), (24, 16, t.lossCount), (40, 16, t.badWords)]

/-- R95. -/
def State.readTime (s : State) (o : Nat) : Option U64 :=
  match o with
  | 0x00 => some s.time.ctrlWord
  | 0x08 => some s.timeStatus
  | 0x10 => some s.gtNow
  | 0x18 => some 0
  | 0x20 => some (s.time.margin.setWidth 64)
  | 0x28 => some (s.time.holdBeats.setWidth 64)
  | _ => none

/-- DIE_CTRLd (R480). -/
def DieSt.word (d : DieSt) : U64 := pack 64 [(4, 3, d.st.toNat), (7, 3, d.err.toNat), (16, 16, d.epoch.toNat), (32, 32, d.fwVer.toNat)]

/-- R480. -/
def State.readPower (s : State) (o : Nat) : Option U64 :=
  if o = 0x000 then some s.pwrStatus
  else if o = 0x008 then some s.pwrTherm
  else if o = 0x010 then some (BitVec.ofNat 64 s.pwr.force)
  else if 0x100 ≤ o ∧ o < 0x200 ∧ o % 8 = 0 then some (s.dieAt ((o - 0x100) / 8)).word
  else none

/-- The context that owns a die's trace SRAM (R467): the trace holder's, else the Recorder's; of a free SRAM the last trace's. -/
def State.sramCtxOf (s : State) (d : Nat) : BitVec 5 :=
  if s.obs.sramOwner = 3 then s.obs.recCtx else if s.obs.sramOwner = 0 then (s.traceAt d).ctx else s.obs.sramCtx

/-- TRACE_STATUS (R452); the trace SRAMs are one resource with one owner code (R467). A trace in STOP is frozen while its SRAM is full. -/
def State.traceStatus (s : State) (d : Nat) : U64 :=
  let t := s.traceAt d
  let full := t.jid.isSome && bits (s.ctxAt t.ctx.toNat).traceCfg 0 2 == 0 && decide (s.traceCap d ≤ t.recs.length)
  pack 64 [(0, 14, t.recs.length), (16, 1, b2n (t.frozen || full)), (17, 1, b2n t.triggered), (18, 1, b2n t.shed), (20, 3, s.obs.sramOwner.toNat),
    (23, 5, (s.sramCtxOf d).toNat), (32, 32, t.drops.toNat)]

/-- TRIG_DEBUG as last written (R8), or as the module left it when it decided the claim (R468). -/
def ObsSt.resReqShown (r : ObsSt) (n : Nat) : Bool :=
  match (r.claims.filter fun c => c.ctx == n && c.what == .trig).getLast? with
  | some c => c.want
  | none => tabGet false r.resReq n

/-- R469, R452. -/
def State.readRes (s : State) (o : Nat) : Option U64 :=
  let r := s.obs
  if o = 0x000 then
    some (pack 64 [(0, 3, r.trigOwner.toNat), (3, 5, r.trigCtx.toNat), (8, 3, r.sramOwner.toNat), (11, 5, r.sramCtx.toNat), (16, 5, r.recCtx.toNat)])
  else if o = 0x008 then some (BitVec.ofNat 64 (b2n r.split))
  else if 0x100 ≤ o ∧ o < 0x200 ∧ o % 8 = 0 then some (BitVec.ofNat 64 (b2n (r.resReqShown ((o - 0x100) / 8))))
  else if 0x800 ≤ o ∧ o < 0x820 ∧ o % 8 = 0 then some (s.traceStatus (28 + (o - 0x800) / 8))
  else none

/-- PIN_LO and PIN_HI (R391). -/
def PinEnt.loWord (p : PinEnt) : U64 := pack 64 [(0, 1, b2n p.en), (1, 1, b2n p.w), (16, 41, p.base / 65536)]
def PinEnt.hiWord (p : PinEnt) : U64 := pack 64 [(0, 3, p.st), (3, 3, p.cause), (16, 41, p.limit / 65536)]

/-- The job counters a context shows (R528): those of the job it admitted last, or the final values of one that is gone. -/
def State.jobCounter (s : State) (n i : Nat) : U64 :=
  match (s.jobs.filter fun j => j.live && j.ctx.val == n && j.phase != .waiting && j.phase != .admitted).getLast? with
  | some j => BitVec.ofNat 64 (min (j.counters.getD i 0) (2 ^ 48 - 1))
  | none => ((s.ctxAt n).counters.getD i 0).setWidth 64

/-- R387, R391, R409, R443, R527, R528. -/
def State.readCtx (s : State) (n o : Nat) : Option U64 :=
  let c := s.ctxAt n
  if 0x1000 ≤ o ∧ o < 0x1400 ∧ o % 8 = 0 then
    let p := c.pinAt ((o - 0x1000) / 16)
    some (if o % 16 = 0 then p.loWord else p.hiWord)
  else if 0xB00 ≤ o ∧ o < 0xB58 ∧ o % 8 = 0 then some (s.jobCounter n ((o - 0xB00) / 8))
  else match o with
    | 0x000 => some (BitVec.ofNat 64 (b2n c.en))
    | 0x008 => some (pack 64 [(0, 5, s.jobsOf n), (5, 1, b2n c.dbErr), (16, 16, min c.evtDrops 0xFFFF), (32, 16, min c.stepDrops 0xFFFF)])
    | 0x010 => some c.sub.reg
    | 0x018 => some c.cpl.reg
    | 0x020 => some c.evt.reg
    | 0x028 => some c.flt.reg
    | 0x030 => some c.dbAddr
    | 0x038 => some c.statusAddr
    | 0x040 => some c.msix
    | 0x800 => some c.ttRoot
    | 0x808 => some c.ttCtrl
    | 0x810 => some c.invalBase
    | 0x818 => some (c.invalCtrl ||| BitVec.ofNat 64 (b2n c.invalBusy))
    | 0x820 => some 0
    | 0x828 => some (pack 64 [(0, 9, min c.flt.wait.length 256), (16, 16, c.stale)])
    | 0xA00 => some c.traceCfg
    | 0xA08 => some c.traceDies
    | 0xA10 => some c.traceRing
    | 0xA18 => some c.traceHead
    | 0xA20 => some c.hang
    | 0xA28 => some c.dumpDva
    | 0xA30 => some (c.dumpCtrl ||| BitVec.ofNat 64 (b2n (c.dumpState == 1)))
    | 0xA38 => some c.recArea
    | 0xA40 => some c.recSize
    | 0xA48 => some c.fullArea
    | 0xA50 => some c.replay
    | _ => none

/-- Unit registers (R531). OCREDIT8 shows the FTQ credits of a matrix engine with a command. -/
def State.readUnit (s : State) (x o : Nat) : Option U64 :=
  let u := s.unit x
  if 0x100 ≤ o ∧ o < 0x180 ∧ o % 8 = 0 then some ((u.bound.getD ((o - 0x100) / 8) 0).setWidth 64)
  else if 0x180 ≤ o ∧ o < 0x200 ∧ o % 8 = 0 then some ((u.bindPtr.getD ((o - 0x180) / 8) 0).setWidth 64)
  else if 0x40 ≤ o ∧ o < 0x80 ∧ o % 8 = 0 then some ((u.ocredit.getD ((o - 0x40) / 8) 0).setWidth 64)
  else match o with
    | 0x00 => some (pack 64 [(0, 4, u.wait.code.toNat), (4, 4, u.epoch.toNat), (8, 12, u.lastMark.toNat), (20, 16, u.wait.opnd.toNat)])
    | 0x08 => some u.wait.word
    | 0x10 => some (u.flags.setWidth 64)
    | 0x18 => some (u.boundClamps.setWidth 64)
    | 0x20 => some (u.markLate.setWidth 64)
    | 0x28 => some (u.drainLate.setWidth 64)
    | 0x30 => some (u.discards.setWidth 64)
    | 0x80 => some (if x % 16 < 4 && u.cmd?.isSome then BitVec.ofNat 64 (s.credits x 8) else 0)
    | _ => none

/-- Unit counters (R437). -/
def UnitSt.readCounters (u : UnitSt) (o : Nat) : Option U64 :=
  let val (v : BitVec 48) (tag : U32) : U64 := pack 64 [(0, 48, v.toNat), (48, 16, tag.toNat)]
  let tag (t : U32) (c : BitVec 5) : U64 := pack 64 [(0, 32, t.toNat), (32, 5, c.toNat)]
  if o < 0x40 ∧ o % 8 = 0 then some (val (u.cnt.getD (o / 8) 0) u.liveTag)
  else if o < 0x80 ∧ o % 8 = 0 then some (val (u.snap.getD ((o - 0x40) / 8) 0) u.snapTag)
  else if o = 0x80 then some (tag u.liveTag u.liveCtx)
  else if o = 0x88 then some (tag u.snapTag u.snapCtx)
  else none

/-- QSTAT (R55). -/
def QueueSt.statWord (q : QueueSt) : U64 := pack 64 [(0, 13, q.toks.length), (16, 12, q.head), (32, 12, q.tail)]

/-- CD_STATUS (R530), with the marks its DCU holds (R97). -/
def State.cdStatus (s : State) (d : Nat) : U64 :=
  let temp := min (s.pwr.temps.getD d 0) 0xFFF
  let held := s.marks.filter fun m => m.dies.any fun e => e.1 == d
  if (s.dieAt d).st == 4 then pack 64 [(16, 12, temp)]
  else pack 64 [(0, 7, (s.dir d).length), (7, 9, min held.length 256), (16, 12, temp), (32, 1, b2n (s.dieAt d).fwOk)]

/-- The words of a sync window (R62). -/
def SyncObj.windowWord (o : SyncObj) (ctl : Bool) : U64 := if ctl then o.controlWord else o.value

/-- The sync ID at an offset of a window: home die's first ID and count (R34). -/
def windowSid (first n o : Nat) : Option Nat := if 0x20000 ≤ o ∧ o < 0x20000 + 16 * n then some (first + (o - 0x20000) / 16) else none

/-- The sync object an offset of a block shows. -/
def RegBlock.sid : RegBlock → Nat → Option Nat
  | .cd d, o => windowSid (2048 * d) 2048 o
  | .md m, o => windowSid (49152 + 4096 * m) 4096 o
  | _, _ => none

/-- R529 to R531, R437, R452. -/
def State.readCd (s : State) (d o : Nat) : Option U64 :=
  if o < 0x10000 then s.readUnit (16 * d + o / 0x1000) (o % 0x1000)
  else if o = 0x10000 then some (s.cdStatus d)
  else if 0x18000 ≤ o ∧ o < 0x19000 ∧ o % 8 = 0 then some (s.queue (queueKey d ((o - 0x18000) / 8))).cfg
  else if 0x19000 ≤ o ∧ o < 0x1A000 ∧ o % 8 = 0 then some (s.queue (queueKey d ((o - 0x19000) / 8))).statWord
  else if 0x30000 ≤ o ∧ o < 0x31000 then (s.unit (16 * d + (o - 0x30000) / 0x100)).readCounters (o % 0x100)
  else if o = 0x40000 then some (s.traceStatus d)
  else match windowSid (2048 * d) 2048 o with
    | some k => if o % 8 = 0 then some ((s.sync k).windowWord (o % 16 == 8)) else none
    | none => none

/-- Channel blocks (R534); at L4 they read 0. -/
def State.readChannel (s : State) (i o : Nat) : Option U64 :=
  let v := s.devAt i
  let on (w : U64) : U64 := if 4 ≤ s.pwr.eff then 0 else w
  match o with
  | 0x00 => some (on (pack 64 [(0, 1, b2n v.trained), (1, 1, b2n v.devFault), (2, 1, b2n v.selfRefresh), (32, 32, v.passes.toNat)]))
  | 0x08 => some (on (v.nextBlock.setWidth 64))
  | 0x10 => some (on (pack 64 [(0, 45, v.poisonAddr.toNat), (63, 1, b2n v.poisonValid)]))
  | _ => none

/-- MD_STATUS (R534). -/
def State.mdStatus (s : State) (m : Nat) : U64 :=
  let all := (List.range 12).map fun c => s.devAt (12 * m + c)
  pack 64 ((all.zipIdx.flatMap fun e => [(e.2, 1, b2n e.1.trained), (12 + e.2, 1, b2n e.1.devFault)]) ++ [(24, 1, b2n (all.all (·.selfRefresh)))])

/-- R533, R534. -/
def State.readMd (s : State) (m o : Nat) : Option U64 :=
  if o < 0xC000 then s.readChannel (12 * m + o / 0x1000) (o % 0x1000)
  else if o = 0x10000 then some (s.mdStatus m)
  else if o = 0x40000 then some (s.traceStatus (24 + m))
  else match windowSid (49152 + 4096 * m) 4096 o with
    | some k => if o % 8 = 0 then some ((s.sync k).windowWord (o % 16 == 8)) else none
    | none => none

/-- R535. -/
def State.readNl (s : State) (p o : Nat) : Option U64 :=
  let q := s.port p
  match o with
  | 0x00 => some (BitVec.ofNat 64 (b2n q.en))
  | 0x08 => some (pack 64 [(0, 2, q.st.toNat), (2, 3, q.cause.toNat), (5, 1, b2n q.cable), (8, 8, q.polarity.toNat), (32, 32, q.delay)])
  | 0x10 => some s.torus
  | _ => none

/-- R383. -/
def State.readCxl (s : State) (c o : Nat) : Option U64 :=
  let p := s.cxlAt c
  match o with
  | 0x00 => some (pack 64 [(0, 2, p.link.toNat), (2, 1, b2n p.full), (3, 4, p.devices.toNat)])
  | 0x08 => some (pack 64 [(0, 1, b2n p.en), (1, 1, b2n p.prefetch)])
  | 0x10 => some (p.latMax.setWidth 64)
  | 0x18 => some (p.lateCpl.setWidth 64)
  | _ =>
    if 0x100 ≤ o ∧ o < 0x180 then
      let h := p.hdm.getD ((o - 0x100) / 0x20) .reset
      match (o - 0x100) % 0x20 with
      | 0x00 => some (BitVec.ofNat 64 h.base)
      | 0x08 => some (BitVec.ofNat 64 h.size)
      | 0x10 => some (pack 64 [(0, 2, h.ways.toNat), (2, 2, h.pos.toNat), (4, 1, b2n h.commit), (5, 1, b2n h.committed), (6, 3, h.err.toNat)])
      | _ => none
    else none

/-- R408. -/
def State.readHp (s : State) (h o : Nat) : Option U64 :=
  let p := s.hpAt h
  match o with
  | 0x00 => some p.statusWord
  | 0x08 => some (BitVec.ofNat 64 (b2n p.handover))
  | 0x10 => some (pack 64 [(0, 9, p.share.toNat), (16, 32, p.horizon.toNat)])
  | _ => none

/-- How a counter of the CNT_ region is kept: counted event by event, words of the fabric, energy. -/
inductive CounterKind where
  | events | words | energy
deriving DecidableEq, Repr

/-- Whether a counter stands at an offset of the CNT_ region (R441), and how it is kept. -/
def counterAt (o : Nat) : Option CounterKind :=
  let k := o / 16 * 16
  if 0x10000 ≤ k ∧ k < 0x10C00 then some (if k % 32 = 0 then .events else .words)
  else if 0x11000 ≤ k ∧ k < 0x11040 then some (if k % 32 = 0 then .events else .words)
  else if 0x20000 ≤ k ∧ k < 0x20600 ∧ k % 0x100 < 0x80 then some .events
  else if 0x30000 ≤ k ∧ k < 0x31800 ∧ k % 0x80 < 0x60 then some .events
  else if 0x40000 ≤ k ∧ k < 0x40100 then some .events
  else if 0x50000 ≤ k ∧ k < 0x50080 then some .events
  else if 0x60000 ≤ k ∧ k < 0x60100 then some (if 0x60060 ≤ k then .events else .energy)
  else none

/-- R441, R442: live value at +0, snapshot at +8. -/
def State.readCnt (s : State) (o : Nat) : Option U64 :=
  let key := o / 16 * 16
  let t := if o % 16 = 0 then s.traffic else s.fabric.snap
  if o = 0 then some (pack 64 [(0, 1, b2n s.obs.snapReq), (1, 1, b2n s.obs.clearReq)])
  else if o = 8 then some s.obs.status
  else if o % 8 ≠ 0 then none
  else (counterAt o).map fun k => match k with
    | .events => (tabGet 0 (if o % 16 = 0 then s.obs.cnt else s.obs.snap) key).setWidth 64
    | .words => BitVec.ofNat 64 (t.count key)
    | .energy => BitVec.ofNat 64 (t.energy key)

/-- R493. -/
def State.readSec (s : State) (o : Nat) : Option U64 :=
  let c := s.sec
  match o with
  | 0x00 => some s.secBoot
  | 0x08 => some 0
  | 0x10 => some c.addr
  | 0x18 => some (c.len.setWidth 64)
  | 0x20 => some (pack 64 [(0, 2, c.status.toNat), (8, 8, c.code.toNat)])
  | 0x40 => some (BitVec.ofNat 64 (bits c.nonce 0 64))
  | 0x48 => some (BitVec.ofNat 64 (bits c.nonce 64 64))
  | 0x50 => some (BitVec.ofNat 64 (bits c.nonce 128 64))
  | 0x58 => some (BitVec.ofNat 64 (bits c.nonce 192 64))
  | 0x60 => some (c.scope.setWidth 64)
  | _ => none

/-- The register of a block at an offset. -/
def State.readBlock (s : State) (b : RegBlock) (o : Nat) : Option U64 :=
  match b with
  | .ident => s.readIdent o
  | .time => s.readTime o
  | .power => s.readPower o
  | .res => s.readRes o
  | .ctx n => s.readCtx n o
  | .cd d => s.readCd d o
  | .md m => s.readMd m o
  | .nl p => s.readNl p o
  | .cxl c => s.readCxl c o
  | .hp h => s.readHp h o
  | .cnt => s.readCnt o
  | .sec => s.readSec o
  | .gap => none

/-- The register at an address of BAR0. -/
def State.regAt (s : State) (a : Nat) : Option U64 := s.readBlock (blockOf (a / 8 * 8)).1 (blockOf (a / 8 * 8)).2

/-- What a register reads as: an unassigned offset as 0 (R520). -/
def State.regRead (s : State) (a : Nat) : U64 := (s.regAt a).getD 0

/-! ### Who reaches what (R404, R439, R440, R525) -/

/-- What a function that does not hold control may read of a compute die. -/
def State.cdReadable (s : State) (c d o : Nat) : Bool :=
  if o < 0x10000 then decide (0x10 ≤ o % 0x1000) && decide (o % 0x1000 < 0x38) && (s.unit (16 * d + o / 0x1000)).liveCtx.toNat == c
  else if 0x30000 ≤ o ∧ o < 0x31000 then
    let u := s.unit (16 * d + (o - 0x30000) / 0x100)
    let k := o % 0x100
    decide ((o - 0x30000) / 0x100 < 15) && (if k < 0x40 ∨ k = 0x80 then u.liveCtx else u.snapCtx).toNat == c
  else o == 0x40000 && (s.sramCtxOf d).toNat == c

/-- A function may read a register. -/
def State.canRead (s : State) (f : Func) (b : RegBlock) (o : Nat) : Bool :=
  s.isControl f ||
    match b, b.sid o with
    | _, some k => s.mayRead f (BitVec.ofNat 16 k)
    | .ident, _ => true
    | .time, _ => true
    | .power, _ => true
    | .res, _ => decide (o < 0x800) || (s.sramCtxOf (28 + (o - 0x800) / 8)).toNat == f.ctx
    | .ctx n, _ => n == f.ctx
    | .cd d, _ => s.cdReadable f.ctx d o
    | .md m, _ => o == 0x40000 && (s.sramCtxOf (24 + m)).toNat == f.ctx
    | .hp _, _ => o == 0
    | .gap, _ => true
    | _, _ => false

/-- A function may write a register. -/
def State.canWrite (s : State) (f : Func) (b : RegBlock) (o : Nat) : Bool :=
  match b with
  | .ctx n => n == f.ctx
  | .res => s.isControl f || o == 0x100 + 8 * f.ctx
  | .gap => true
  | _ => s.isControl f

/-- BAR0 serves a block as the module stands (R474, R486): SEC_ always, the power block outside recovery, the rest below L4. -/
def State.blockOpen (s : State) (b : RegBlock) : Bool :=
  match b with
  | .sec => true
  | .power => !s.sec.recovery
  | _ => s.barOpen

/-- What a read of 8 bytes returns to a function: 0 where the owning die does not answer (R483), but for the temperature its router
reports (R530), and 0 where it is denied (R405). -/
def State.hostRead (s : State) (f : Func) (a : Nat) : U64 :=
  let b := blockOf (a / 8 * 8)
  let off := match b.1 with | .cd d => b.2 == 0x10000 && (s.dieAt d).st == 4 | _ => false
  if s.canRead f b.1 b.2 && (s.dieAnswers b.1.die || off) then s.regRead a else 0

/-! ### Writes -/

/-- Bits of a word, the others 0. -/
def keep (v : U64) (l : List (Nat × Nat)) : U64 := pack 64 (l.map fun f => (f.1, f.2, bits v f.1 f.2))

/-- R95. -/
def State.writeTime (s : State) (o : Nat) (v : U64) : State :=
  match o with
  | 0x00 => s.writeTimeCtrl v
  | 0x18 => s.writeBeatSet v
  | 0x20 => s.setTime { s.time with margin := BitVec.ofNat 8 (bits v 0 8) }
  | 0x28 => s.setTime { s.time with holdBeats := BitVec.ofNat 11 (bits v 0 11) }
  | _ => s

/-- R480. -/
def State.writePower (s : State) (o : Nat) (v : U64) : State :=
  if o = 0x010 then s.writeForce v
  else if 0x100 ≤ o ∧ o < 0x200 ∧ o % 8 = 0 then s.dieCommand ((o - 0x100) / 8) (bits v 0 3)
  else s

/-- R469: RES_CTRL only while no trace and no recording is active. -/
def State.writeRes (s : State) (f : Func) (o : Nat) (v : U64) : State :=
  if o = 0x008 then (if s.obs.sramOwner = 0 then s.setObs { s.obs with split := bit v 0 } else s)
  else if 0x100 ≤ o ∧ o < 0x200 ∧ o % 8 = 0 then s.askClaim f.port.val ((o - 0x100) / 8) .trig (bit v 0)
  else s

/-- Registers of the rings, doorbell, status line and vectors: only while EN is 0 (R409). -/
def CtxSt.writeRings (c : CtxSt) (o : Nat) (v : U64) : CtxSt :=
  let ring (r : Ring) : Ring := { r with reg := keep v [(0, 5), (12, 52)] }
  if c.en then c
  else match o with
    | 0x010 => { c with sub := ring c.sub }
    | 0x018 => { c with cpl := ring c.cpl }
    | 0x020 => { c with evt := ring c.evt }
    | 0x028 => { c with flt := ring c.flt }
    | 0x030 => { c with dbAddr := keep v [(6, 58)] }
    | 0x038 => { c with statusAddr := keep v [(6, 58)] }
    | 0x040 => { c with msix := keep v [(0, 9)] }
    | _ => c

/-- A context with an admitted job. -/
def State.ctxAdmitted (s : State) (n : Nat) : Bool :=
  s.jobs.any fun j => j.live && j.ctx.val == n && j.phase != .waiting && j.phase != .preempted && j.phase != .parked

/-- Two enabled contexts with one ASID and different roots (R387). -/
def State.asidClash (s : State) (n : Nat) (c : CtxSt) : Bool :=
  bit c.ttCtrl 0 && (List.range 32).any fun m =>
    let e := s.ctxAt m
    m != n && bit e.ttCtrl 0 && bits e.ttCtrl 4 5 == bits c.ttCtrl 4 5 && e.ttRoot != c.ttRoot

/-- A write of TT_ROOT or TT_CTRL. -/
def State.writeTt (s : State) (n : Nat) (c : CtxSt) : State := if s.ctxAdmitted n || s.asidClash n c then s else s.setCtx n c

/-- A field whose table reserves some values keeps its own on those (R10). -/
def keepIf (old v : U64) (lo len : Nat) (bad : Nat → Bool) : Nat × Nat × Nat := (lo, len, if bad (bits v lo len) then bits old lo len else bits v lo len)

/-- TRACE_CFG, with SOFT_TRIG (R443). -/
def State.writeTraceCfg (s : State) (n : Nat) (v : U64) : State :=
  let c := s.ctxAt n
  let w := pack 64 [keepIf c.traceCfg v 0 2 (· == 3), (2, 1, bits v 2 1), keepIf c.traceCfg v 3 3 (fun k => decide (5 ≤ k)), (8, 7, bits v 8 7),
    (16, 16, bits v 16 16), (32, 13, bits v 32 13)]
  let s1 := if s.traceBusy n then s else s.setCtx n { c with traceCfg := w }
  if bit v 45 then s1.ctxTrigger n 0 else s1

/-- The other registers of R443 that a live traced or recorded job closes. -/
def State.writeTraceReg (s : State) (n o : Nat) (v : U64) : State :=
  let c := s.ctxAt n
  if s.traceBusy n then s
  else match o with
    | 0xA08 => s.setCtx n { c with traceDies := keep v [(0, 32)] }
    | 0xA10 => s.setCtx n { c with traceRing := keep v [(0, 5), (12, 45)] }
    | 0xA20 => s.setCtx n { c with hang := keep v [(0, 5)] }
    | 0xA28 => s.setCtx n { c with dumpDva := keep v [(16, 41)] }
    | 0xA38 => s.setCtx n { c with recArea := keep v [(0, 1), (16, 41)] }
    | 0xA40 => s.setCtx n { c with recSize := v }
    | 0xA48 => s.setCtx n { c with fullArea := keep v [(16, 41)] }
    | _ => s

/-- PIN_LO and PIN_HI (R391): while EN is 0, or to clear EN. -/
def State.writePin (s : State) (n o : Nat) (v : U64) : State :=
  let i := (o - 0x1000) / 16
  let p := (s.ctxAt n).pinAt i
  if o % 16 = 0 then (if p.en && !bit v 0 then s.clearPin n i else s.writePinLo n i v)
  else if p.en then s
  else s.updCtx n fun c => c.setPin i { p with limit := pinBase v }

/-- A context's own block. -/
def State.writeCtx (s : State) (f : Func) (o : Nat) (v : U64) : State :=
  let n := f.ctx
  let c := s.ctxAt n
  if 0x1000 ≤ o ∧ o < 0x1400 ∧ o % 8 = 0 then s.writePin n o v
  else match o with
    | 0x000 => if bit v 0 then s.enableCtx n else s.disableCtx n
    | 0x800 => s.writeTt n { c with ttRoot := keep v [(21, 24)] }
    | 0x808 => s.writeTt n { c with ttCtrl := keep v [(0, 3), (4, 5), (32, 20)] }
    | 0x810 => (s.finishInval n).updCtx n fun c => { c with invalBase := keep v [(16, 41)] }
    | 0x818 => s.writeInval n v
    | 0x820 => if bits v 32 2 = 1 then s.retryOf n (BitVec.ofNat 32 (bits v 0 32)) else if bits v 32 2 = 2 then s.abortOf n (BitVec.ofNat 32 (bits v 0 32)) else s
    | 0xA00 => s.writeTraceCfg n v
    | 0xA18 => s.setCtx n { c with traceHead := putField c.traceHead 0 32 (bits v 0 32) }
    | 0xA30 => s.writeDumpCtrl f (bit v 0) (bit v 1)
    | _ => if o < 0x48 then s.setCtx n (c.writeRings o v) else s.writeTraceReg n o v

/-- BOUNDi and BIND_PTRi (R532). -/
def State.writeUnit (s : State) (x o : Nat) (v : U64) : State :=
  if 0x100 ≤ o ∧ o < 0x180 ∧ o % 8 = 0 then s.updUnit x fun u => { u with bound := setAt u.bound ((o - 0x100) / 8) (BitVec.ofNat 32 (bits v 0 32)) }
  else if 0x180 ≤ o ∧ o < 0x200 ∧ o % 8 = 0 then s.updUnit x fun u => { u with bindPtr := setAt u.bindPtr ((o - 0x180) / 8) (BitVec.ofNat 57 (bits v 0 57)) }
  else s

/-- A sync window: VALUE or CONTROL of an object that is not armed (R62, R63, R68). -/
def State.writeWindow (s : State) (f : Func) (k : Nat) (ctl : Bool) (v : U64) : State :=
  let o := s.sync k
  if o.armed then s.armedWrite f
  else (s.setSync k (if ctl then o.control v else { o with value := v })).wake (BitVec.ofNat 16 k)

/-- NL_CTRL: EN, then RETRAIN of a port that was and stays enabled (R535, R537). -/
def State.writeNl (s : State) (p o : Nat) (v : U64) : State :=
  let was := (s.port p).en
  match o with
  | 0x00 =>
    let s1 := if bit v 0 == was then s else if bit v 0 then s.nlEnable p else s.nlDisable p
    if bit v 1 && was then s1.nlRetrain p else s1
  | 0x10 => s.writeTorus v
  | _ => s

/-- R383. Whether the device lets a decoder be committed is the device's. -/
def State.writeCxl (s : State) (c o : Nat) (v : U64) : State :=
  let p := s.cxlAt c
  match o with
  | 0x08 =>
    let s1 := s.setCxl c { p with en := bit v 0, prefetch := bit v 1 }
    if bit v 0 then s1 else s1.cxlDown c 3
  | 0x10 => s.setCxl c { p with latMax := BitVec.ofNat 16 (bits v 0 16) }
  | _ =>
    if 0x100 ≤ o ∧ o < 0x180 then
      let k := (o - 0x100) / 0x20
      let h := p.hdm.getD k .reset
      match (o - 0x100) % 0x20 with
      | 0x00 => if h.committed then s else s.setHdm c k { h with base := bits v 28 16 * 2 ^ 28 }
      | 0x08 => if h.committed then s else s.setHdm c k { h with size := bits v 28 16 * 2 ^ 28 }
      | 0x10 => (s.writeHdm c k v (bit (Config.freeWord s.fresh) 0)).tickFresh 1
      | _ => s
    else s

/-- R408. -/
def State.writeHp (s : State) (f : Func) (h o : Nat) (v : U64) : State :=
  match o with
  | 0x08 => if bit v 0 then s.askHandover f h else s
  | 0x10 => s.updHp h fun p => { p with share := BitVec.ofNat 9 (bits v 0 9), horizon := BitVec.ofNat 32 (bits v 16 32) }
  | _ => s

/-- R493. -/
def State.writeSec (s : State) (o : Nat) (v : U64) : State :=
  match o with
  | 0x08 => s.writeSecCmd v
  | 0x10 => s.sec! fun c => { c with addr := v }
  | 0x18 => s.sec! fun c => { c with len := BitVec.ofNat 32 (bits v 0 32) }
  | _ => s

/-- A write of a whole register that its function may write: RO registers and unassigned offsets ignore it (R8, R520). -/
def State.regWrite (s : State) (f : Func) (b : RegBlock) (o : Nat) (v : U64) : State :=
  match b, b.sid o with
  | _, some k => if o % 8 = 0 then s.writeWindow f k (o % 16 == 8) v else s
  | .time, _ => s.writeTime o v
  | .power, _ => s.writePower o v
  | .res, _ => s.writeRes f o v
  | .ctx _, _ => s.writeCtx f o v
  | .cd d, _ =>
    if o < 0x10000 then s.writeUnit (16 * d + o / 0x1000) (o % 0x1000) v
    else if 0x18000 ≤ o ∧ o < 0x19000 ∧ o % 8 = 0 then s.writeQcfg (queueKey d ((o - 0x18000) / 8)) v
    else s
  | .nl p, _ => s.writeNl p o v
  | .cxl c, _ => s.writeCxl c o v
  | .hp h, _ => s.writeHp f h o v
  | .cnt, _ => if o = 0 then (let s1 := if bit v 0 then s.askSnap else s; if bit v 1 then s1.askClear else s1) else s
  | .sec, _ => s.writeSec o v
  | _, _ => s

/-- The W1S bits of a register that read 1 while what they ask for is pending. -/
def w1sBits (b : RegBlock) (o : Nat) : U64 :=
  match b with
  | .cnt => if o = 0 then 3 else 0
  | .hp _ => if o = 8 then 1 else 0
  | .ctx _ => if o = 0x818 ∨ o = 0xA30 then 1 else 0
  | _ => 0

/-- A 4-byte write fills the other half from what the register reads as: its RW fields keep their values, WO and W1S bits are 0 (R522). -/
def State.merged (s : State) (a : Nat) (half : Bool) (v : U64) : U64 :=
  let b := blockOf (a / 8 * 8)
  let old := s.regRead a &&& ~~~ w1sBits b.1 b.2
  if !half then v
  else if a % 8 = 4 then putField old 32 32 (bits v 0 32)
  else putField old 0 32 (bits v 0 32)

/-- A register access is aligned to its size (R521). -/
def aligned (a size : Nat) : Bool := (size == 4 || size == 8) && a % size == 0

/-! ### The commands -/

/-- UNSUPPORTED_REQUEST (R521). An aligned access of 4 or 8 bytes is none. -/
def execUnsupportedRequest (_f : Func) (addr size : Nat) (s : State) : Host.Outcome State Fault Refusal :=
  s.ran fun s => if aligned addr size then s else s.reply .unsupported

/-- DENIED_ACCESS (R405): the read returns 0, the write is ignored, the port counts it. A fenced die's answer is not counted (R483);
an access that R404 does not deny is none. -/
def execDeniedAccess (f : Func) (addr : Nat) (write : Bool) (s : State) : Host.Outcome State Fault Refusal :=
  s.ran fun s =>
    let b := blockOf (addr / 8 * 8)
    let ok := if write then s.canWrite f b.1 b.2 else s.canRead f b.1 b.2
    if ok || !s.blockOpen b.1 || !s.dieAnswers b.1.die || (s.regAt addr).isNone then s
    else
      let r := (s.exchange (30 + f.port.val) b.1.die).deny f
      if write then r else r.reply (.value 0)

/-- REGISTER_WRITE (R521 to R525, R33): of any register; one with a row of its own has that row's effect. Writes of one cycle from
both ports to one register: only RES_REQn has a writer on either port (its context's function, and the control function on the other
port), and `State.askClaim` puts port A's write before port B's. -/
def execRegisterWrite (f : Func) (addr : Nat) (half : Bool) (v : U64) (s : State) : Host.Outcome State Fault Refusal :=
  s.ran fun s =>
    let b := blockOf (addr / 8 * 8)
    if !aligned addr (if half then 4 else 8) then s.reply .unsupported
    else if !s.blockOpen b.1 || !s.dieAnswers b.1.die || (s.regAt addr).isNone then s
    else
      let r := s.exchange (30 + f.port.val) b.1.die
      if s.canWrite f b.1 b.2 then r.regWrite f b.1 b.2 (s.merged addr half v) else r.deny f

end Sys2Proof.Machine
end

