-- ==== Sys2Proof/Machine/Beat.lean ====
section
/-! DEFINITION. The passing of cycles, the beat boundary and the BEAT edge; what a standalone replay supplies by itself (R74, R82, R83,
R86, R87, R90, R366, R406, R413, R414, R436, R464, R482, R506). -/

namespace Sys2Proof.Machine

/-! ### Cycles that pass -/

/-- The counter of a unit that counts the cycles of a wait state (R202, R236, R244, R278, R436). Unit numbers are those of R24. -/
def waitCounter (u : Nat) (code : Nat) : Option Nat :=
  match code with
  | 2 => if u = 15 then none else if u = 10 then some 7 else some 6
  | 5 => if u = 9 ∨ u = 12 ∨ u = 13 ∨ u = 14 then some 7 else none
  | 6 => if u = 9 ∨ u = 14 then some 3 else if u = 11 then some 7 else if u = 12 ∨ u = 13 then some 2 else none
  | _ => none

/-- A DMX1 that a String Dump holds back from a lent job's movement (R436, R467). -/
def State.dumpPaused (s : State) (x : Nat) (u : UnitSt) : Bool :=
  x % 16 == 13 && s.dumpHolds && (match u.job with
    | some k => (match s.job? k with | some j => j.phase == .running && !j.guaranteed && u.prog != 0 | none => false)
    | none => false)

/-- The counters of a unit that count stalls inside its work: cycles in which it waited for a bank (R27), and a vector engine's for a
source register (R236). -/
def stallCounters (u : Nat) : List Nat :=
  if u = 10 then [6] else if u = 15 then [] else if 4 ≤ u ∧ u < 8 then [5, 2] else [5]

/-- Of `n` cycles of work, a number the manual does not tie to the commands counts as stalled. -/
def State.stallCycles (s : State) (n x : Nat) : List Nat → State
  | [] => s
  | c :: t =>
    State.stallCycles ((s.updUnit x fun u => u.count c ((Config.freeWord s.fresh).toNat % (n + 1))).tickFresh 1) n x t

/-- A vector engine whose next instruction is a PUSH that waits for Decant (R215, R236). -/
def State.pushWaits (s : State) (x : Nat) (u : UnitSt) : Bool :=
  match u.cmd? with
  | some c => (match c.body with
    | .vxe body _ _ =>
      (match (s.recipe x)[bits body 144 10 + (s.vxAt x).pos]? with
        | some i => u.wait.code == 5 && bits i 24 8 == 0x39 && !bit i 21
        | none => false)
    | _ => false)
  | none => false

/-- What `n` cycles of waiting or of work add to a unit. -/
def State.waitCycles (s : State) (n x : Nat) : State :=
  let u := s.unit x
  if u.job.isNone then s
  else
    let u1 := match waitCounter (x % 16) u.wait.code.toNat with | some c => u.count c n | none => u
    let s1 := s.setUnit x (if s.dumpPaused x u then u1.count 3 n else if s.pushWaits x u then u1.count 7 n else u1)
    if u.wait.code == 1 && u.prog != 0 then s1.stallCycles n x (stallCounters (x % 16)) else s1

/-- ADDER_HOLD of the ports at which a job's packets are held (R348). -/
def State.holdCycles (s : State) (n : Nat) (j : Job) : Job :=
  { j with adderHold := j.adderHold.zipIdx.map fun e => if (s.port e.2).held.any fun k => (s.packetJob k).any fun i => i.jid == j.jid then e.1 + n else e.1 }

/-- `n` cycles pass within the beat. -/
def State.cycles (s : State) (n : Nat) : State :=
  let s1 := (s.units.map (·.1)).foldl (fun s x => s.waitCycles n x) s
  { s1 with jobs := s1.jobs.map (s1.holdCycles n), time := { s1.time with phase := s1.time.phase + n } }

/-! ### A standalone replay (R464) -/

/-- GT of the recorded job's base: that of its first INITIAL entry, written at its start. -/
def RecSt.baseGt (q : RecSt) : Nat :=
  match q.entries.find? fun e => e.kind == 2 with
  | some e => e.gt
  | none => match q.entries.find? fun e => e.kind == 1 with | some e => e.gt | none => 0

/-- An entry's offset from the base has come. -/
def RecSt.due (q : RecSt) (j : Job) (now : Nat) (e : RecEntry) : Bool := decide (e.gt - q.baseGt ≤ now - j.base * 2250)

/-- The packet of a DELIVERY entry. -/
def deliveredPacket (e : RecEntry) (stamp : Nat) : Packet :=
  let w (i : Nat) : Nat := e.words.getD i 0
  let h : W256 := pack 256 [(0, 64, w 0), (64, 64, w 1), (128, 64, w 2), (192, 64, w 3)]
  let exch := bits h 0 4 == 1 || bits h 0 4 == 2
  { hdr := h, scales := if exch then e.data.take 64 else [], data := if exch then e.data.drop 64 else e.data, stamp := stamp }

/-- A recorded delivery made again. -/
def State.deliverAgain (s : State) (j : Job) (e : RecEntry) : State :=
  let k := deliveredPacket e s.gt
  let p := opposite (portOf k.dim k.dir)
  let s1 := if k.kind = 3 then s.deliverHalo j p k else if k.kind = 4 then s.deliverCork j k
    else match j.spec? k.bucket with | some b => s.deliverBlocks j p b k.dim (k.kind == 2) k | none => s
  let had (s : State) : Bool := s.obs.recs.any fun r => r.jid == j.jid && r.replayOf.isSome && r.entries.any fun g => g.kind == 5 && g.words.take 4 == e.words.take 4
  if had s1 then s1 else s1.record j.jid 0x05 e.words e.data

/-- The next input of a replay that is due and not supplied yet: INGEST entries in order, DELIVERY entries by their headers. -/
def RecSt.nextInput (q r : RecSt) (j : Job) (now : Nat) : Option RecEntry :=
  let mine (k : Nat) : List RecEntry := r.entries.filter fun e => e.kind == k
  let ing := ((q.entries.filter fun e => e.kind == 3)[(mine 3).length]?).filter fun e => q.due j now e
  ing.orElse fun _ => q.entries.find? fun e => e.kind == 5 && q.due j now e && !((mine 5).any fun g => g.words.take 4 == e.words.take 4)

/-- The replay of a job and the recording it runs from. -/
def State.replayPair (s : State) (jid : U64) : Option (RecSt × RecSt) :=
  (s.obs.recs.find? fun r => r.jid == jid && r.replayOf.isSome).bind fun r => (s.recordingOf r).map fun q => (r, q)

/-- Supply one input, with its stamp as it lies from the base (R102). -/
def State.supply (s : State) (j : Job) (q : RecSt) (e : RecEntry) : State :=
  let stamp := j.base * 2250 + (e.gt - q.baseGt)
  if e.kind = 3 then s.ingestItem j (e.words.getD 0 0) stamp (e.words.getD 2 0 == 1) (e.words.getD 6 0) e.data else s.deliverAgain j e

/-- Supply everything that is due, at most `n` items. -/
def State.supplyAll (s : State) (jid : U64) : Nat → State
  | 0 => s
  | n + 1 =>
    match s.job? jid, s.replayPair jid with
    | some j, some (r, q) => (match q.nextInput r j s.gt with | some e => State.supplyAll (s.supply j q e) jid n | none => s)
    | _, _ => s

/-- What a standalone replay takes from its recording by this cycle. -/
def State.feed (s : State) : State :=
  match s.standaloneJob with
  | none => s
  | some j => match s.replayPair j.jid with
    | none => s
    | some (_, q) => s.supplyAll j.jid q.entries.length

/-! ### What the boundary does -/

/-- The new delay of a port comes into force (R86). -/
def State.delayBoundary (s : State) (p : Nat) : State :=
  match (s.port p).delayNext with
  | some d => s.updPort p fun q => { q with delay := d, delayNext := none }
  | none => s

/-- A host port counts the beats it is not UP and may fetch again (R406, R413). -/
def State.hostBoundary (s : State) (p : Nat) : State :=
  s.updHp p fun h => { h with fetched := 0, downBeats := if h.link == 2 then 0 else min 1000 (h.downBeats + 1) }

def State.fetchBoundary (s : State) : State := (s.ctxs.map (·.1)).foldl (fun s n => s.updCtx n fun c => { c with fetchedBeat := 0 }) s

/-- Jobs whose unit met a fenced die complete ABORTED_PEER here (R482). -/
def State.endFenced (s : State) : State :=
  (s.jobs.filter Job.live).foldl (fun (s : State) j => match j.pendAbort with | some c => s.abortJob j.jid c | none => s) s

/-- The link dies of a stopped cross-module job go on to the next period at its STEP_END, until a rejoining job's period is theirs (R366,
R435). -/
def State.stoppedPeriod (s : State) (j : Job) : State :=
  let behind := j.phase != .running || (j.rejoin != 0 && decide (j.x.per < j.rejoin))
  if j.cross && behind && decide (j.stepEndGt j.x.per ≤ s.gt) then s.updJob j.jid fun k => { k with x := k.x.newPeriod (k.x.per + 1) } else s

def State.stoppedPeriods (s : State) : State := (s.jobs.filter Job.live).foldl State.stoppedPeriod s

/-- The warm reset that MODULE_RESET asked for is due (R494). -/
def State.resetDue (s : State) : Bool := match s.sec.resetAt with | some g => decide (g ≤ s.gt) | none => false

/-- Phase 0000 of the next beat with everything the manual places there; the status lines of the beat that ends are written first. A warm
reset that fell due in the beat is taken here (log entry 3). -/
def State.boundary (s : State) (e : BeatEnv) : State :=
  let s0 := ((s.cycles (2250 - s.time.phase)).writeStatusFrom 32).timeBoundary.countBoundary.accessed 28
  let sm := s0.setPwr (s0.pwr.measure e s0.sec.stage.toNat)
  let s1 := if sm.resetDue then sm.warm false else sm.shed
  if sm.resetDue || !s1.pwr.on then s1
  else
    let s2 := s1.dieCommands.endFenced.decideClaims
    let s3 := ([0, 1].foldl State.hostBoundary ([0, 1].foldl State.boundaryHandover s2)).fetchBoundary
    let s4 := ([0, 1, 2, 3, 4, 5].foldl State.delayBoundary s3).launchWords
    let s5 := s4.closeReconfs.stoppedPeriods
    s5.hangBeats.feed.showRecs.pinBoundary

/-- BEAT_BOUNDARY (R87). -/
def execBeatBoundary (env : BeatEnv) (s : State) : Host.Outcome State Fault Refusal := s.ran fun s => s.boundary env

/-- The values of the last beat. -/
def PowerSt.env (p : PowerSt) : BeatEnv := { vin := p.vin, iin := p.iin, temps := p.temps, coolIn := p.coolIn, coolOut := p.coolOut }

/-- An edge makes a step of GT, and with it a boundary: a BEAT_SET applied in LOCKED, or entering it (R82, R90). Any other edge in LOCKED or
HOLDOVER leaves GT, and the synthesiser slews out the offset (R87, R91). -/
def State.edgeTaken (s : State) : Bool :=
  s.time.beatSet.isSome && !s.stepGuard && (s.time.st == .locked || (s.time.st == .acquiring && s.time.acqAt != some s.gt))

/-- BEAT_EDGE (R82, R83, R90, R91, R506): an edge sooner than 900 ns after the last is ignored and counted. One that steps GT at a phase
above 0000 makes the boundary first. A root that enters LOCKED launches its timing words in this beat. -/
def execBeatEdge (sinceNs : Nat) (s : State) : Host.Outcome State Fault Refusal :=
  s.ran fun s =>
    if !s.time.isRoot then s
    else if sinceNs < 900 then s.setTime s.time.badWord
    else
      let s1 := if s.edgeTaken && s.time.phase != 0 then s.boundary s.pwr.env else s
      if !s1.pwr.on then s1
      else
        let s2 := s1.setTime (s1.time.edge s1.stepGuard s1.gt)
        if s1.time.st = .acquiring ∧ s2.time.st = .locked then s2.launchWords else s2

end Sys2Proof.Machine
end

