-- ==== Sys2Proof/Machine/Dispatch.lean ====
section
/-! DEFINITION. One arm for each command: a direct call of its meaning. -/

namespace Sys2Proof.Machine

def exec (i : Instr) (s : State) : Host.Outcome State Fault Refusal :=
  match i with
  | .beatBoundary env => Sys2Proof.Machine.execBeatBoundary env s
  | .beatEdge sinceNs => Sys2Proof.Machine.execBeatEdge sinceNs s
  | .beatSetWrite f v => Sys2Proof.Machine.execBeatSetWrite f v s
  | .timeCtrlWrite f v => Sys2Proof.Machine.execTimeCtrlWrite f v s
  | .timingWordReceive p w whole arr16 => Sys2Proof.Machine.execTimingWordReceive p w whole arr16 s
  | .delayEchoReceive p roundTripPs => Sys2Proof.Machine.execDelayEchoReceive p roundTripPs s
  | .delayRemeasure => Sys2Proof.Machine.execDelayRemeasure s
  | .holdoverEntry => Sys2Proof.Machine.execHoldoverEntry s
  | .holdoverExpiry => Sys2Proof.Machine.execHoldoverExpiry s
  | .markTakeEffect => Sys2Proof.Machine.execMarkTakeEffect s
  | .reconfigDrain => Sys2Proof.Machine.execReconfigDrain s
  | .commandStart x => Sys2Proof.Machine.execCommandStart x s
  | .boundReadReply x slot => Sys2Proof.Machine.execBoundReadReply x slot s
  | .iterationFire x => Sys2Proof.Machine.execIterationFire x s
  | .markTokenPop x port => Sys2Proof.Machine.execMarkTokenPop x port s
  | .drainTokenPop x port => Sys2Proof.Machine.execDrainTokenPop x port s
  | .commandEnd x => Sys2Proof.Machine.execCommandEnd x s
  | .endTokenPop x => Sys2Proof.Machine.execEndTokenPop x s
  | .tokenCrossing src dst => Sys2Proof.Machine.execTokenCrossing src dst s
  | .creditReturn die q => Sys2Proof.Machine.execCreditReturn die q s
  | .qcfgWrite f die q v => Sys2Proof.Machine.execQcfgWrite f die q v s
  | .fetchAdd x sid a => Sys2Proof.Machine.execFetchAdd x sid a s
  | .fetchMin x sid a => Sys2Proof.Machine.execFetchMin x sid a s
  | .fetchMax x sid a => Sys2Proof.Machine.execFetchMax x sid a s
  | .signal x sid a => Sys2Proof.Machine.execSignal x sid a s
  | .waitGe x sid v => Sys2Proof.Machine.execWaitGe x sid v s
  | .read by_ sid => Sys2Proof.Machine.execRead by_ sid s
  | .set by_ sid v ctl => Sys2Proof.Machine.execSet by_ sid v ctl s
  | .syncReply x => Sys2Proof.Machine.execSyncReply x s
  | .watchNotify x => Sys2Proof.Machine.execWatchNotify x s
  | .preemptStop jid => Sys2Proof.Machine.execPreemptStop jid s
  | .chainSave jid => Sys2Proof.Machine.execChainSave jid s
  | .resumeRestore jid => Sys2Proof.Machine.execResumeRestore jid s
  | .mxeCommand die m rows => Sys2Proof.Machine.execMxeCommand die m rows s
  | .accTake die m => Sys2Proof.Machine.execAccTake die m s
  | .mxeDrain die m => Sys2Proof.Machine.execMxeDrain die m s
  | .decantRow x => Sys2Proof.Machine.execDecantRow x s
  | .tileComplete x => Sys2Proof.Machine.execTileComplete x s
  | .fadd v w => Sys2Proof.Machine.execFadd v w s
  | .fsub v w => Sys2Proof.Machine.execFsub v w s
  | .fmul v w => Sys2Proof.Machine.execFmul v w s
  | .fma v w => Sys2Proof.Machine.execFma v w s
  | .fmax v w => Sys2Proof.Machine.execFmax v w s
  | .fmin v w => Sys2Proof.Machine.execFmin v w s
  | .faddPk v w => Sys2Proof.Machine.execFaddPk v w s
  | .fsubPk v w => Sys2Proof.Machine.execFsubPk v w s
  | .fmulPk v w => Sys2Proof.Machine.execFmulPk v w s
  | .fmaPk v w => Sys2Proof.Machine.execFmaPk v w s
  | .fmaxPk v w => Sys2Proof.Machine.execFmaxPk v w s
  | .fminPk v w => Sys2Proof.Machine.execFminPk v w s
  | .exp2 v w => Sys2Proof.Machine.execExp2 v w s
  | .log2 v w => Sys2Proof.Machine.execLog2 v w s
  | .rcp v w => Sys2Proof.Machine.execRcp v w s
  | .rsqrt v w => Sys2Proof.Machine.execRsqrt v w s
  | .tanh v w => Sys2Proof.Machine.execTanh v w s
  | .sin v w => Sys2Proof.Machine.execSin v w s
  | .cos v w => Sys2Proof.Machine.execCos v w s
  | .cmp v w => Sys2Proof.Machine.execCmp v w s
  | .sel v w => Sys2Proof.Machine.execSel v w s
  | .cvt v w => Sys2Proof.Machine.execCvt v w s
  | .and v w => Sys2Proof.Machine.execAnd v w s
  | .or v w => Sys2Proof.Machine.execOr v w s
  | .xor v w => Sys2Proof.Machine.execXor v w s
  | .shl v w => Sys2Proof.Machine.execShl v w s
  | .shr v w => Sys2Proof.Machine.execShr v w s
  | .pop v w => Sys2Proof.Machine.execPop v w s
  | .push v w => Sys2Proof.Machine.execPush v w s
  | .lred v w => Sys2Proof.Machine.execLred v w s
  | .rxeSum die => Sys2Proof.Machine.execRxeSum die s
  | .rxeSumsq die => Sys2Proof.Machine.execRxeSumsq die s
  | .rxeNorm2 die => Sys2Proof.Machine.execRxeNorm2 die s
  | .rxeMean die => Sys2Proof.Machine.execRxeMean die s
  | .rxeMax die => Sys2Proof.Machine.execRxeMax die s
  | .rxeMin die => Sys2Proof.Machine.execRxeMin die s
  | .rxeArgmax die => Sys2Proof.Machine.execRxeArgmax die s
  | .rxeArgmin die => Sys2Proof.Machine.execRxeArgmin die s
  | .rxeTopk die => Sys2Proof.Machine.execRxeTopk die s
  | .gather die rows => Sys2Proof.Machine.execGather die s rows
  | .scatterAdd die steps => Sys2Proof.Machine.execScatterAdd die s steps
  | .route die tokens => Sys2Proof.Machine.execRoute die s tokens
  | .claim x => Sys2Proof.Machine.execClaim x s
  | .dmaTransfer die e words => Sys2Proof.Machine.execDmaTransfer die e s words
  | .carryAdd jid bucket => Sys2Proof.Machine.execCarryAdd jid bucket s
  | .hxuCommand die => Sys2Proof.Machine.execHxuCommand die s
  | .lmvCopy die => Sys2Proof.Machine.execLmvCopy die s
  | .pass1Norm jid => Sys2Proof.Machine.execPass1Norm jid s
  | .normDerive jid => Sys2Proof.Machine.execNormDerive jid s
  | .pass2Update jid layer elems => Sys2Proof.Machine.execPass2Update jid layer s elems
  | .queryCommand jid query => Sys2Proof.Machine.execQueryCommand jid query s
  | .ingestArrival jid port query dva data => Sys2Proof.Machine.execIngestArrival jid port query dva data s
  | .flitSlot p => Sys2Proof.Machine.execFlitSlot p s
  | .flitReceive p flit => Sys2Proof.Machine.execFlitReceive p flit s
  | .nakReplay p => Sys2Proof.Machine.execNakReplay p s
  | .packetOriginate p => Sys2Proof.Machine.execPacketOriginate p s
  | .reduce p => Sys2Proof.Machine.execReduce p s
  | .adderOperandReady p => Sys2Proof.Machine.execAdderOperandReady p s
  | .spread p => Sys2Proof.Machine.execSpread p s
  | .halo p => Sys2Proof.Machine.execHalo p s
  | .corkPacket p => Sys2Proof.Machine.execCorkPacket p s
  | .corkPhaseStart jid => Sys2Proof.Machine.execCorkPhaseStart jid s
  | .linkDown p => Sys2Proof.Machine.execLinkDown p s
  | .portTrained p roundTripPs polarity => Sys2Proof.Machine.execPortTrained p roundTripPs polarity s
  | .laneLockLoss p => Sys2Proof.Machine.execLaneLockLoss p s
  | .noHeaderTimeout p => Sys2Proof.Machine.execNoHeaderTimeout p s
  | .scrubWindow errs => Sys2Proof.Machine.execScrubWindow errs s
  | .gddr7Read by_ a err => Sys2Proof.Machine.execGddr7Read by_ a err s
  | .gddr7Write by_ a data err => Sys2Proof.Machine.execGddr7Write by_ a data err s
  | .eccCorrected dev => Sys2Proof.Machine.execEccCorrected dev s
  | .cxlCompletion c id poison ns => Sys2Proof.Machine.execCxlCompletion c id poison ns s
  | .hdmCommit f c k v devOk => Sys2Proof.Machine.execHdmCommit f c k v devOk s
  | .cxlPortDown c cause => Sys2Proof.Machine.execCxlPortDown c cause s
  | .cxlPortUp c full devices prsnt => Sys2Proof.Machine.execCxlPortUp c full devices s prsnt
  | .translationWalk by_ ctx dva write => Sys2Proof.Machine.execTranslationWalk by_ ctx dva write s
  | .invalidate f v => Sys2Proof.Machine.execInvalidate f v s
  | .invalidateDone ctx => Sys2Proof.Machine.execInvalidateDone ctx s
  | .atsInvalidation port lo hi => Sys2Proof.Machine.execAtsInvalidation port lo hi s
  | .pageResponse ctx fid success => Sys2Proof.Machine.execPageResponse ctx fid success s
  | .retry f fid => Sys2Proof.Machine.execRetry f fid s
  | .abortFault f fid => Sys2Proof.Machine.execAbortFault f fid s
  | .pinEnable f pin v => Sys2Proof.Machine.execPinEnable f pin v s
  | .pinComplete ctx pin => Sys2Proof.Machine.execPinComplete ctx pin s
  | .pinDisable f pin => Sys2Proof.Machine.execPinDisable f pin s
  | .doorbellPoll => Sys2Proof.Machine.execDoorbellPoll s
  | .doorbellInvalidate ctx => Sys2Proof.Machine.execDoorbellInvalidate ctx s
  | .doorbellLine ctx line => Sys2Proof.Machine.execDoorbellLine ctx line s
  | .descriptorFetch ctx ds => Sys2Proof.Machine.execDescriptorFetch ctx ds s
  | .run => Sys2Proof.Machine.execRun s
  | .resume => Sys2Proof.Machine.execResume s
  | .preempt => Sys2Proof.Machine.execPreempt s
  | .abort => Sys2Proof.Machine.execAbort s
  | .jobStart jid => Sys2Proof.Machine.execJobStart jid s
  | .lentJobStart jid => Sys2Proof.Machine.execLentJobStart jid s
  | .park jid => Sys2Proof.Machine.execPark jid s
  | .reservationEnd jid => Sys2Proof.Machine.execReservationEnd jid s
  | .jobEnd jid => Sys2Proof.Machine.execJobEnd jid s
  | .contextEnable f => Sys2Proof.Machine.execContextEnable f s
  | .contextDisable f => Sys2Proof.Machine.execContextDisable f s
  | .portLinkTimeout port => Sys2Proof.Machine.execPortLinkTimeout port s
  | .handover f port => Sys2Proof.Machine.execHandover f port s
  | .snap f => Sys2Proof.Machine.execSnap f s
  | .clear f => Sys2Proof.Machine.execClear f s
  | .traceDrain die => Sys2Proof.Machine.execTraceDrain die s
  | .traceDrop die => Sys2Proof.Machine.execTraceDrop die s
  | .softTrig f => Sys2Proof.Machine.execSoftTrig f s
  | .trigger ctx => Sys2Proof.Machine.execTrigger ctx s
  | .hang jid => Sys2Proof.Machine.execHang jid s
  | .dumpRequest f scope => Sys2Proof.Machine.execDumpRequest f scope s
  | .stringDump => Sys2Proof.Machine.execStringDump s
  | .dumpRestart => Sys2Proof.Machine.execDumpRestart s
  | .resourceClaim f r want => Sys2Proof.Machine.execResourceClaim f r want s
  | .trigEdge lowNs sinceNs => Sys2Proof.Machine.execTrigEdge lowNs sinceNs s
  | .powerOn vin ms => Sys2Proof.Machine.execPowerOn vin ms s
  | .boot slotA slotB micro train failedDev => Sys2Proof.Machine.execBoot slotA slotB micro train failedDev s
  | .overvoltageTrip vin => Sys2Proof.Machine.execOvervoltageTrip vin s
  | .presBreak => Sys2Proof.Machine.execPresBreak s
  | .shedEntry => Sys2Proof.Machine.execShedEntry s
  | .shedRecovery => Sys2Proof.Machine.execShedRecovery s
  | .forceLevel f v => Sys2Proof.Machine.execForceLevel f v s
  | .quiesce f die => Sys2Proof.Machine.execQuiesce f die s
  | .fence f die => Sys2Proof.Machine.execFence f die s
  | .dieFenced die => Sys2Proof.Machine.execDieFenced die s
  | .reset f die => Sys2Proof.Machine.execReset f die s
  | .rejoin f die => Sys2Proof.Machine.execRejoin f die s
  | .modRst low => Sys2Proof.Machine.execModRst low s
  | .warmReset => Sys2Proof.Machine.execWarmReset s
  | .watchdogExpiry => Sys2Proof.Machine.execWatchdogExpiry s
  | .perst port => Sys2Proof.Machine.execPerst port s
  | .functionLevelReset f => Sys2Proof.Machine.execFunctionLevelReset f s
  | .fwStage f img => Sys2Proof.Machine.execFwStage f img s
  | .fwSelect f => Sys2Proof.Machine.execFwSelect f s
  | .fwActivateDie f die => Sys2Proof.Machine.execFwActivateDie f die s
  | .advanceSvn f ty => Sys2Proof.Machine.execAdvanceSvn f ty s
  | .debugChallenge f => Sys2Proof.Machine.execDebugChallenge f s
  | .debugUnlock f token => Sys2Proof.Machine.execDebugUnlock f token s
  | .moduleReset f => Sys2Proof.Machine.execModuleReset f s
  | .getVersion port => Sys2Proof.Machine.execGetVersion port s
  | .getCapabilities port => Sys2Proof.Machine.execGetCapabilities port s
  | .negotiateAlgorithms port => Sys2Proof.Machine.execNegotiateAlgorithms port s
  | .getDigests port => Sys2Proof.Machine.execGetDigests port s
  | .getCertificate port slot => Sys2Proof.Machine.execGetCertificate port slot s
  | .challenge port slot nonce => Sys2Proof.Machine.execChallenge port slot nonce s
  | .getMeasurements port nonce => Sys2Proof.Machine.execGetMeasurements port nonce s
  | .smbPwrStatus => Sys2Proof.Machine.execSmbPwrStatus s
  | .smbPwrTherm => Sys2Proof.Machine.execSmbPwrTherm s
  | .smbSecBoot => Sys2Proof.Machine.execSmbSecBoot s
  | .smbGtNow => Sys2Proof.Machine.execSmbGtNow s
  | .smbCoolant => Sys2Proof.Machine.execSmbCoolant s
  | .smbHpStatus => Sys2Proof.Machine.execSmbHpStatus s
  | .smbSerial => Sys2Proof.Machine.execSmbSerial s
  | .smbNack why => Sys2Proof.Machine.execSmbNack why s
  | .nlEnable f p => Sys2Proof.Machine.execNlEnable f p s
  | .nlDisable f p => Sys2Proof.Machine.execNlDisable f p s
  | .retrain f p => Sys2Proof.Machine.execRetrain f p s
  | .nlTorusWrite f p v => Sys2Proof.Machine.execNlTorusWrite f p v s
  | .unsupportedRequest f addr size => Sys2Proof.Machine.execUnsupportedRequest f addr size s
  | .deniedAccess f addr write => Sys2Proof.Machine.execDeniedAccess f addr write s
  | .registerWrite f addr half v => Sys2Proof.Machine.execRegisterWrite f addr half v s
  | .hostLinkDown port => Sys2Proof.Machine.execHostLinkDown port s
  | .hostLinkUp port cxl full => Sys2Proof.Machine.execHostLinkUp port cxl full s
  | .vinRemoved => Sys2Proof.Machine.execVinRemoved s
  | .cblPres p low => Sys2Proof.Machine.execCblPres p low s
  | .atsTranslationCompletion port page present write ctx order => Sys2Proof.Machine.execAtsTranslationCompletion port page present write s ctx order
  | .fruEepromWrite addr data => Sys2Proof.Machine.execFruEepromWrite addr data s

end Sys2Proof.Machine
end

