-- ==== Sys2Proof/Machine/Tick.lean ====
section
/-! DEFINITION. One cycle of the module clock, when no command waits. -/

namespace Sys2Proof.Machine

/-- A cycle passes: the wait counters run, the phase advances, a warm reset asked for by MODULE_RESET is taken when it is due; the last
phase of a beat ends with BEAT_BOUNDARY (log entry 1). -/
def tick (s : State) : State :=
  if !s.pwr.on || decide (2249 ≤ s.time.phase) then s
  else let t := (s.cycles 1).feed.stoppedPeriods; if t.resetDue then t.warm false else t

end Sys2Proof.Machine
end

