-- ==== Sys2Proof/Safety.lean ====
section
/-! DEFINITION. What counts as a safe state and a safe run: canonical memories, and steps that neither fault nor refuse;
and the words the statements share: what a command may write, when a unit works at its command. -/

namespace Sys2Proof

open Machine

/-- Device memory and the written part of host memory are in the one canonical form. -/
def Safe (s : State) : Prop := Memory.wf s.mem = true ∧ Memory.wf s.host = true

/-- A step goes on. -/
def Steps (s t : State) : Prop := Machine.step s = .next t

/-- What a run of `n` steps leads to, if none of them stops. -/
def runFor : Nat → State → Option State
  | 0, s => some s
  | n + 1, s =>
    match Machine.step s with
    | .next t => runFor n t
    | _ => none

/-! ### Words for the statements -/

/-- A unit works: the module is on, the unit belongs to a running job and is not stopped, no fault of it is outstanding, and its die answers
(R47, R397, R430, R483). -/
def Working (s : State) (x : Nat) (j : Job) : Prop :=
  s.pwr.on = true ∧ (s.unit x).job = some j.jid ∧ s.job? j.jid = some j ∧ j.phase = .running ∧ (s.unit x).stopped = false ∧
    s.stalled x = false ∧ s.dieAnswers (x / 16) = true

/-- A unit works at a command. -/
def Commanded (s : State) (x : Nat) (j : Job) (c : Cmd) : Prop := Working s x j ∧ (s.unit x).cmd? = some c

/-- A unit's operation on a sync object is taken at the home bank: the unit works, the home die answers, the object is armed (R66, R68). -/
def SyncReady (s : State) (x : Nat) (sid : U16) : Prop :=
  (∃ j, Working s x j) ∧ s.dieAnswers (syncHome sid) = true ∧ (s.sync sid.toNat).armed = true

/-- A register access to a die is served, and comes from the control function (R404, R405, R474, R483). -/
def Served (s : State) (die : Nat) (f : Func) : Prop :=
  s.pwr.on = true ∧ s.barOpen = true ∧ s.dieAnswers die = true ∧ s.isControl f = true

/-- The areas of the state, one per field but the queue. -/
inductive Area where
  | time | mem | host | veiled | units | queues | chans | syncs | watches | marks | recfgs | mxe | eng | accDir | vregs | vmask | vx
  | recipes | dec | gse | rxe | jobs | saves | ports | torus | devs | poison | cxl | tlb | locked | ats | faults | ctxs | hp | obs
  | fabric | pwr | dies | sec | pins | answer | fresh
deriving DecidableEq, Repr

/-- An area is the same in two states. -/
def Area.same (s t : State) : Area → Prop
  | .time => t.time = s.time
  | .mem => t.mem = s.mem
  | .host => t.host = s.host
  | .veiled => t.veiled = s.veiled
  | .units => t.units = s.units
  | .queues => t.queues = s.queues
  | .chans => t.chans = s.chans
  | .syncs => t.syncs = s.syncs
  | .watches => t.watches = s.watches
  | .marks => t.marks = s.marks
  | .recfgs => t.recfgs = s.recfgs
  | .mxe => t.mxe = s.mxe
  | .eng => t.eng = s.eng
  | .accDir => t.accDir = s.accDir
  | .vregs => t.vregs = s.vregs
  | .vmask => t.vmask = s.vmask
  | .vx => t.vx = s.vx
  | .recipes => t.recipes = s.recipes
  | .dec => t.dec = s.dec
  | .gse => t.gse = s.gse
  | .rxe => t.rxe = s.rxe
  | .jobs => t.jobs = s.jobs
  | .saves => t.saves = s.saves
  | .ports => t.ports = s.ports
  | .torus => t.torus = s.torus
  | .devs => t.devs = s.devs
  | .poison => t.poison = s.poison
  | .cxl => t.cxl = s.cxl
  | .tlb => t.tlb = s.tlb
  | .locked => t.locked = s.locked
  | .ats => t.ats = s.ats
  | .faults => t.faults = s.faults
  | .ctxs => t.ctxs = s.ctxs
  | .hp => t.hp = s.hp
  | .obs => t.obs = s.obs
  | .fabric => t.fabric = s.fabric
  | .pwr => t.pwr = s.pwr
  | .dies => t.dies = s.dies
  | .sec => t.sec = s.sec
  | .pins => t.pins = s.pins
  | .answer => t.answer = s.answer
  | .fresh => t.fresh = s.fresh

/-- Every area: a power cycle, a reset or a beat boundary may write them all. -/
def Area.every : List Area := [.time, .mem, .host, .veiled, .units, .queues, .chans, .syncs, .watches, .marks, .recfgs, .mxe, .eng, .accDir, .vregs, .vmask, .vx,
    .recipes, .dec, .gse, .rxe, .jobs, .saves, .ports, .torus, .devs, .poison, .cxl, .tlb, .locked, .ats, .faults, .ctxs, .hp, .obs,
    .fabric, .pwr, .dies, .sec, .pins, .answer, .fresh]

/-- What a fault or the end of a job may write: the units' and the job's own state, its queues, its records and what observes them. -/
def Area.released : List Area := [.host, .units, .queues, .chans, .syncs, .watches, .marks, .recfgs, .mxe, .eng, .accDir, .vregs, .vmask, .vx,
    .dec, .gse, .rxe, .jobs, .saves, .faults, .ctxs, .obs]

/-- What a store to memory may write: the bytes, their ECC state, the ports it goes out by, the register that counts transfers on the way. -/
def Area.stored : List Area := [.mem, .veiled, .devs, .poison, .cxl, .fabric]

/-- The areas a command may write at all, whatever its operands and the state. What no arm names, no command of it changes: only what the
manual gives a command, and what follows from it at once (a fault's records, an aborted job's release, a late mark's trace). -/
def Instr.mayWrite : Instr → List Area
  | .beatBoundary .. | .beatEdge .. | .powerOn .. | .overvoltageTrip .. | .presBreak | .shedEntry | .modRst .. | .warmReset
    | .watchdogExpiry | .vinRemoved => Area.every
  | .beatSetWrite .. | .timeCtrlWrite .. => [.time, .hp, .obs, .fabric]
  | .timingWordReceive .. => [.time]
  | .delayEchoReceive .. | .portTrained .. => [.ports]
  | .delayRemeasure => [.ports, .fresh]
  | .holdoverEntry => [.time, .host, .ctxs, .obs]
  | .holdoverExpiry | .flitReceive .. => [.time, .host, .jobs, .ports, .ctxs, .obs]
  | .markTakeEffect | .jobStart .. | .lentJobStart .. => Area.released ++ Area.stored ++ [.recipes]
  | .reconfigDrain => [.host, .units, .queues, .watches, .recfgs, .vx, .recipes, .dec, .jobs, .ctxs, .obs]
  | .commandStart .. | .boundReadReply .. | .fetchAdd .. | .fetchMin .. | .fetchMax .. | .signal .. | .waitGe .. | .normDerive .. =>
    Area.released ++ [.fabric]
  | .iterationFire .. | .pop .. | .claim .. | .pass1Norm .. => Area.released ++ [.fabric, .fresh]
  | .markTokenPop .. | .drainTokenPop .. => [.host, .units, .queues, .chans, .recfgs, .ctxs, .obs]
  | .commandEnd .. => [.units, .queues, .chans, .ctxs, .obs, .fresh]
  | .endTokenPop .. | .retry .. | .abortFault .. | .abort | .reservationEnd .. | .jobEnd .. | .contextDisable .. => Area.released
  | .tokenCrossing .. => [.queues, .chans, .obs]
  | .creditReturn .. => [.units, .queues]
  | .qcfgWrite .. => [.units, .queues, .hp, .obs, .fabric]
  | .read .. => Area.released ++ [.hp, .fabric, .answer]
  | .set .. => [.host, .units, .syncs, .watches, .ctxs, .hp, .obs, .fabric]
  | .syncReply .. => [.units]
  | .watchNotify .. => [.units, .watches, .ctxs, .obs, .fabric]
  | .preemptStop .. => [.units, .queues, .chans, .jobs, .ctxs, .obs]
  | .chainSave .. | .mxeCommand .. | .mxeDrain .. | .tileComplete .. | .rxeSum .. | .rxeSumsq .. | .rxeNorm2 .. | .rxeMean .. | .rxeMax ..
    | .rxeMin .. | .rxeArgmax .. | .rxeArgmin .. | .rxeTopk .. | .gather .. | .scatterAdd .. | .route .. | .dmaTransfer .. | .lmvCopy .. =>
    Area.released ++ Area.stored ++ [.fresh]
  | .resumeRestore .. => Area.released ++ [.mem, .recipes]
  | .accTake .. => [.units, .mxe, .eng, .accDir, .jobs, .ctxs, .obs]
  | .decantRow .. | .carryAdd .. | .pass2Update .. => Area.released ++ Area.stored
  | .fadd .. | .fsub .. | .fmul .. | .fma .. | .fmax .. | .fmin .. | .faddPk .. | .fsubPk .. | .fmulPk .. | .fmaPk .. | .fmaxPk ..
    | .fminPk .. | .exp2 .. | .log2 .. | .rcp .. | .rsqrt .. | .tanh .. | .sin .. | .cos .. | .sel .. | .cvt .. | .and .. | .or .. | .xor ..
    | .shl .. | .shr .. | .lred .. => [.units, .vregs, .vx, .ctxs, .obs]
  | .cmp .. => [.units, .vmask, .vx, .ctxs, .obs]
  | .push .. => [.units, .queues, .chans, .vx, .dec, .ctxs, .obs]
  | .hxuCommand .. => Area.released ++ Area.stored ++ [.ports, .fresh]
  | .queryCommand .. => [.units, .jobs]
  | .ingestArrival .. => Area.stored ++ [.host, .jobs, .obs]
  | .flitSlot .. => [.ports, .obs, .fresh]
  | .nakReplay .. => [.ports, .obs]
  | .packetOriginate .. | .reduce .. | .adderOperandReady .. | .spread .. | .halo .. => Area.released ++ Area.stored ++ [.ports]
  | .corkPacket .. | .corkPhaseStart .. | .linkDown .. => [.units, .jobs, .ports, .obs]
  | .laneLockLoss .. | .noHeaderTimeout .. | .cblPres .. => [.host, .jobs, .ports, .ctxs, .obs]
  | .scrubWindow .. => [.mem, .host, .veiled, .devs, .poison, .ctxs, .obs]
  | .gddr7Read .. | .gddr7Write .. => Area.released ++ [.mem, .veiled, .devs, .poison]
  | .eccCorrected .. => [.host, .devs, .ctxs, .obs]
  | .cxlCompletion .. => Area.released ++ [.cxl]
  | .hdmCommit .. => [.cxl, .hp, .obs, .fabric]
  | .cxlPortDown .. => Area.released ++ [.mem, .veiled, .cxl, .fresh]
  | .cxlPortUp .. => [.cxl]
  | .translationWalk .. => Area.released ++ [.cxl, .tlb, .ats]
  | .invalidate .. => [.tlb, .locked, .ctxs]
  | .invalidateDone .. => [.tlb, .ctxs]
  | .atsInvalidation .. | .pinComplete .. => [.locked, .ats, .ctxs]
  | .pageResponse .. | .atsTranslationCompletion .. => Area.released ++ [.ats]
  | .pinEnable .. | .contextEnable .. | .softTrig .. => [.ctxs]
  | .pinDisable .. => [.locked, .ctxs]
  | .doorbellPoll | .doorbellInvalidate .. | .dumpRequest .. => [.ctxs, .obs]
  | .doorbellLine .. | .traceDrop .. => [.host, .ctxs, .obs]
  | .descriptorFetch .. => [.ctxs, .hp, .obs]
  | .run | .resume | .preempt => [.host, .units, .jobs, .ctxs, .obs]
  | .park .. => [.jobs]
  | .portLinkTimeout .. => Area.released ++ [.hp]
  | .handover .. | .snap .. | .clear .. => [.hp, .obs, .fabric]
  | .traceDrain .. => Area.stored ++ [.host, .ctxs, .obs]
  | .trigger .. => [.units, .ctxs, .obs]
  | .hang .. => [.host, .jobs, .ctxs, .obs]
  | .stringDump => Area.stored ++ [.host, .units, .queues, .chans, .jobs, .ctxs, .obs, .fresh]
  | .dumpRestart => [.units, .jobs, .ctxs, .obs]
  | .resourceClaim .. => [.obs, .fabric]
  | .trigEdge .. => [.ctxs, .pins]
  | .boot .. => [.devs, .dies, .sec]
  | .shedRecovery =>
    [.mem, .host, .veiled, .units, .queues, .chans, .syncs, .watches, .mxe, .eng, .accDir, .vregs, .vmask, .vx, .recipes, .dec, .gse, .rxe,
      .ports, .devs, .cxl, .tlb, .ctxs, .hp, .obs, .pwr, .dies]
  | .forceLevel .. => [.host, .ctxs, .hp, .obs, .fabric, .pwr]
  | .quiesce .. | .fence .. | .reset .. | .rejoin .. => [.hp, .obs, .fabric, .dies]
  | .dieFenced .. => [.host, .ctxs, .obs, .dies]
  | .perst .. | .functionLevelReset .. => Area.released ++ [.locked]
  | .fwStage .. | .fwSelect .. | .advanceSvn .. | .debugUnlock .. | .moduleReset .. => [.hp, .obs, .fabric, .sec]
  | .fwActivateDie .. => [.hp, .obs, .fabric, .dies, .sec]
  | .debugChallenge .. => [.hp, .obs, .fabric, .sec, .fresh]
  | .getVersion .. | .getCapabilities .. | .negotiateAlgorithms .. | .getDigests .. | .getCertificate .. | .challenge ..
    | .getMeasurements .. | .smbPwrStatus | .smbPwrTherm | .smbSecBoot | .smbGtNow | .smbCoolant | .smbHpStatus | .smbSerial | .smbNack ..
    | .unsupportedRequest .. => [.answer]
  | .nlEnable .. => [.ports, .hp, .obs, .fabric]
  | .nlDisable .. | .retrain .. => [.host, .jobs, .ports, .ctxs, .hp, .obs, .fabric]
  | .nlTorusWrite .. => [.torus, .hp, .obs, .fabric]
  | .deniedAccess .. => [.hp, .obs, .fabric, .answer]
  | .registerWrite .. =>
    Area.released ++ [.time, .mem, .veiled, .ports, .torus, .cxl, .tlb, .locked, .hp, .fabric, .pwr, .dies, .sec, .answer, .fresh]
  | .hostLinkDown .. => [.host, .ctxs, .hp, .obs, .fresh]
  | .hostLinkUp .. => [.host, .ctxs, .hp, .obs]
  | .fruEepromWrite .. => [.pins, .answer]

/-- The next instruction of a vector engine's recipe is this one: the engine works at a VXE command with a tile in progress (R224, R233). -/
def VxReady (s : State) (v : VxId) (op : Nat) (w : VOps) (k : VCtx) : Prop :=
  Commanded s v.addr k.j k.c ∧ k.x = v.addr ∧ k.vx = s.vxAt v.addr ∧ (∃ dec, k.c.body = .vxe k.body dec k.bind) ∧ (s.unit v.addr).prog ≠ 0 ∧
    k.vx.base < k.rows ∧ k.vx.pos < k.len ∧ (s.recipe v.addr)[k.start + k.vx.pos]? = some (vxWord op w)

/-- An instruction was issued: the recipe's position steps, at its end to the next row group (R233); `sr` SR conversions were met; an engine
that waited for a credit runs (R47), which the DCU may trace. Nothing but the engine's own registers, masks, rows for Decant and tokens may
have changed else. -/
def VxStepped (s t : State) (k : VCtx) (sr : Nat) : Prop :=
  t.vxAt k.x = (if k.vx.pos + 1 < k.len then { k.vx with pos := k.vx.pos + 1, srCount := k.vx.srCount + sr }
    else { k.vx with base := k.vx.base + k.group, pos := 0, srCount := 0 }) ∧
  (∀ y, y ≠ k.x → t.vxAt y = s.vxAt y ∧ (y % 16 ≠ 15 → t.unit y = s.unit y)) ∧ (t.unit k.x).job = (s.unit k.x).job ∧
  (t.unit k.x).prog = (s.unit k.x).prog ∧ ((s.unit k.x).wait.code ≠ 5 → (t.unit k.x).wait = (s.unit k.x).wait) ∧
  t.mem = s.mem ∧ t.syncs = s.syncs ∧ t.jobs = s.jobs ∧ t.mxe = s.mxe ∧ t.time = s.time

/-- The flags an instruction left: each lane keeps its own until the end of the tile (R137, R139), those of an access or a bound are the unit's
at once. -/
def LanesFlagged (s t : State) (x : Nat) (fs : List U16) : Prop :=
  (t.unit x).lanes = orList (s.unit x).lanes (fs.map fun f => f &&& 0x3F) ∧
  (t.unit x).flags = (s.unit x).flags ||| (fs.foldl (fun f k => f ||| k) 0 &&& 0xFFC0)

/-- The instruction wrote one vector register, unless it is read-only, and ORed its lanes' flags; no other register and no mask changed
(R220, R137). -/
def VxPut (s t : State) (k : VCtx) (dst : BitVec 6) (sr : Nat) (r : VReg × List U16) : Prop :=
  t.vreg k.x dst.toNat = (if dst = 54 ∨ dst = 55 then s.vreg k.x dst.toNat else r.1) ∧ LanesFlagged s t k.x r.2 ∧
  (∀ y q, q < 64 → (y ≠ k.x ∨ q ≠ dst.toNat) → t.vreg y q = s.vreg y q) ∧ t.vmask = s.vmask ∧ t.dec = s.dec ∧ t.queues = s.queues ∧ VxStepped s t k sr


/-- A GSE works at a command of its own with an iteration fired. -/
def GseReady (s : State) (die : Fin 24) (op : Nat) (k : GCtx) : Prop :=
  Commanded s (die.val * 16 + 10) k.j k.c ∧ k.c.body = .gse k.b ∧ gseOp k.b = op ∧ (s.unit (die.val * 16 + 10)).prog ≠ 0 ∧
  k.x = die.val * 16 + 10 ∧ k.w = whoOf k.x k.j ∧ k.u = s.unit k.x ∧ k.count = gseCount k.c k.u

/-- The claims that a row of FETCH_ADDs takes from a WORK object, first and end of each (R65). -/
def claimsOf (o : SyncObj) : List U64 → List (Nat × Nat)
  | [] => []
  | a :: l =>
    let r := o.fetchAdd a
    (r.2.toNat, min (r.2.toNat + a.toNat) o.bound.toNat) :: claimsOf { o with value := r.1 } l

/-- The formats of R115 that hold a sign, an exponent and a fraction. -/
def floatFormats : List FloatFmt := [fp32, bf16, fp16, e4m3, e5m2, e2m3, e3m2, e2m1, ps48]

end Sys2Proof
end

