-- ==== Sys2Proof/Certificates/Slice0/Obligations.lean ====
section
/-! DEFINITION. What the provers are asked for. -/

open Sys2Proof Sys2Proof.Machine

/-- A step runs the command at the front of the queue, on the state with the queue's rest; on an empty queue one cycle of the module clock
passes, up to the last of a beat (log entry 1), and a module that is off rests. No command touches the queue: a step that goes on leaves its
tail, and no command sends another (log entry 1). -/
def Obligations.step_takes_the_front : Prop :=
  (
    (∀ (c : Instr) (s : State), step { s with pending := c :: s.pending } = exec c s) ∧
    (∀ s : State, s.pending = [] → s.pwr.on = true → s.time.phase < 2249 → s.standaloneJob = none → s.sec.resetAt = none →
      ∃ t, step s = .next t ∧ t.time = { s.time with phase := s.time.phase + 1 } ∧ t.mem = s.mem ∧ t.syncs = s.syncs ∧ t.pending = []) ∧
    (∀ s : State, s.pending = [] → (s.pwr.on = false ∨ 2249 ≤ s.time.phase) → step s = .next s) ∧
    (∀ s : State, s.pending = [] → s.pwr.on = true → s.time.phase < 2249 → ∀ g, s.sec.resetAt = some g → g ≤ s.gt + 1 → s.standaloneJob = none →
      ∃ t, step s = .next t ∧ t.sec.stage = 1 ∧ t.jobs = [] ∧ t.units = [] ∧ t.pending = [])) ∧
  (
    (∀ (c : Instr) (s t : State), exec c s = .next t → t.pending = s.pending) ∧
    ∀ s t : State, step s = .next t → t.pending = s.pending.tail)

/-- Every command of the table goes on from every state, but for an input voltage above 100 V, for which R470 gives no effect. -/
def Obligations.every_command_goes_on : Prop :=
  ∀ (c : Instr) (s : State), (∀ v, c = .overvoltageTrip v → v ≤ 10000) → ∃ t, exec c s = .next t

/-- Each command leaves all the areas alone that `Instr.mayWrite` does not name for it. -/
def Obligations.command_frame : Prop :=
  ∀ (c : Instr) (s t : State), exec c s = .next t → ∀ p : Area, p ∉ c.mayWrite → p.same s t

/-- Canonical memories stay canonical at every step, from every state (log entry 2). -/
def Obligations.memory_stays_canonical : Prop := ∀ s t : State, Safe s → step s = .next t → Safe t

/-- Reset as the field maps give it (R9, R90, R95, R106, R383, R387, R406, R408, R409, R443, R454): what the registers read whose reset value is
not 0, and the time block in LOCAL and FREE at GT 0:0000. The state after reset has canonical memories with nothing listed. -/
def Obligations.reset_values : Prop :=
  (
    let r := State.reset
    r.time.isLocal = true ∧ r.time.st = .free ∧ r.gt = 0 ∧ r.gtNow = 0 ∧ r.regRead 0x1000 = 0 ∧ r.regRead 0x1008 = 0 ∧ r.regRead 0x1020 = 32 ∧ r.regRead 0x1028 = 256 ∧
    (∀ c : Fin 4, r.regRead (0x04900008 + 0x4000 * c.val) = 2) ∧
    (∀ n : Fin 32, r.regRead (0x01000808 + 0x10000 * n.val) = BitVec.ofNat 64 (16 * n.val) ∧ r.regRead (0x01000818 + 0x10000 * n.val) = 4 ∧
      r.regRead (0x01000A20 + 0x10000 * n.val) = 20 ∧ bits (r.regRead (0x01000A00 + 0x10000 * n.val)) 32 13 = 4096 ∧
      r.regRead (0x01000000 + 0x10000 * n.val) = 0) ∧
    bits (r.regRead 0x04A00000) 3 1 = 1 ∧ bits (r.regRead 0x04A04000) 3 1 = 0 ∧
    (∀ h : Fin 2, r.regRead (0x04A00010 + 0x4000 * h.val) = BitVec.ofNat 64 (16777216 * 65536 + 256)) ∧
    (∀ p : Fin 6, r.regRead (0x04800000 + 0x4000 * p.val) = 0) ∧ r.jobs = [] ∧ r.marks = [] ∧ r.tlb = []) ∧
  (
    Safe State.reset ∧ State.reset.mem = [] ∧ State.reset.host = [] ∧ State.reset.pending = [])

/-- With the input switch open nothing but the supply, the connector's pins and the sideband does anything (R470, R476, R511): every other
command leaves the state. -/
def Obligations.module_off_does_nothing : Prop :=
  ∀ (c : Instr) (s : State), s.pwr.on = false →
    (match c with
      | .powerOn .. | .modRst .. | .overvoltageTrip .. | .presBreak | .vinRemoved | .fruEepromWrite .. | .smbPwrStatus | .smbPwrTherm
      | .smbHpStatus | .smbSecBoot | .smbSerial | .smbGtNow | .smbCoolant | .smbNack .. => True
      | c => exec c s = .next s)

/-- BEAT_BOUNDARY on a module that is on and stays on (R87, R86, R90, R95, R473): phase 0000 of the next beat; a written TIME_CTRL is in force;
with nothing pending only the beat count moves; a pending step of a LOCAL module is made unless jobs with marks hold it; the beat's measurements
are taken; a new link delay is in force where no die is being reset. At the boundary at which a warm reset falls due (R494) it is taken. -/
def Obligations.beat_boundary : Prop :=
  ∀ (e : BeatEnv) (s : State), s.pwr.on = true → s.pwr.level < 5 →
    (s.sec.resetAt = none → ∃ t, exec (.beatBoundary e) s = .next t ∧
      t.time.phase = 0 ∧ t.pwr.on = true ∧ t.pwr.vin = e.vin ∧ t.pwr.iin = e.iin ∧ t.time.ctrlNext = none ∧
      (s.time.ctrlNext = none → t.time.role = s.time.role ∧ t.time.downMask = s.time.downMask) ∧
      (∀ v : U64, s.time.ctrlNext = some v → t.time.role.toNat = bits v 0 2 ∧ t.time.upstream.toNat = bits v 2 3 ∧ t.time.downMask.toNat = bits v 5 6) ∧
      (s.time.localSet = none → s.time.lockDelta = none → t.time.beat = (s.time.beat + 1) % 2 ^ 48) ∧
      (∀ b, s.time.localSet = some b → s.time.ctrlNext = none → s.stepGuard = false → t.time.beat = b % 2 ^ 48 ∧ t.time.localSet = none) ∧
      (∀ b, s.time.localSet = some b → s.time.ctrlNext = none → s.stepGuard = true →
        t.time.beat = (s.time.beat + 1) % 2 ^ 48 ∧ t.time.localSet = some b) ∧
      (∀ d, s.time.localSet = none → s.time.lockDelta = some d → s.time.ctrlNext = none → s.stepGuard = false →
        t.time.st = .locked ∧ t.time.beat = (((s.time.beat + 1) % 2 ^ 48 : Nat) + d).toNat % 2 ^ 48) ∧
      ((∀ d, (s.dieAt d).cmds = []) → ∀ p d, p < 6 → (s.port p).delayNext = some d → (t.port p).delay = d ∧ (t.port p).delayNext = none)) ∧
    (∀ g, s.sec.resetAt = some g → g ≤ (s.time.beat + 1) % 2 ^ 48 * 2250 → s.time.ctrlNext = none → s.time.localSet = none → s.time.lockDelta = none →
      ∃ t, exec (.beatBoundary e) s = .next t ∧ t.sec.stage = 1 ∧ t.jobs = [] ∧ t.units = [] ∧ t.time = State.reset.time ∧ t.pwr.on = true)

/-- BEAT_EDGE at the beat root (R82, R90, R91, R506): elsewhere it does nothing; one sooner than 900 ns is ignored and counted; it moves FREE to
ACQUIRING, at phase 0000 locks an acquiring module that holds a BEAT_SET from an edge later than the one it began at, keeps a locked one alive,
and ends HOLDOVER before its limit without a step. A BEAT_SET in LOCKED is the step, at whatever phase, unless jobs with marks hold it. A source
silent for 4 beats puts a locked module into HOLDOVER and counts a loss (R91); in HOLDOVER its beat limit ends in FREE (R92), where no timing
word leaves (R83) and the cross-module jobs are preempted. Beat and phase run on. Before the time neither does anything. -/
def Obligations.beat_edge_and_holdover : Prop :=
  (
    ∀ (ns : Nat) (s : State), s.pwr.on = true →
      (s.time.role ≠ 1 → exec (.beatEdge ns) s = .next s) ∧
      (s.time.role = 1 → ns < 900 →
        exec (.beatEdge ns) s = .next { s with time := { s.time with badWords := min (s.time.badWords + 1) 65535 } }) ∧
      (s.time.role = 1 → 900 ≤ ns → s.time.st = .free →
        exec (.beatEdge ns) s = .next { s with time := { s.time with st := .acquiring, acqAt := some s.gt } }) ∧
      (s.time.role = 1 → 900 ≤ ns → s.time.st = .acquiring → (s.time.beatSet = none ∨ s.stepGuard = true ∨ s.time.acqAt = some s.gt) →
        exec (.beatEdge ns) s = .next s) ∧
      (s.time.role = 1 → 900 ≤ ns → s.time.phase = 0 → s.time.st = .acquiring → s.stepGuard = false → s.time.acqAt ≠ some s.gt → ∀ b,
        s.time.beatSet = some b → exec (.beatEdge ns) s = .next (State.launchWords { s with time :=
          { s.time with st := .locked, beat := b % 2 ^ 48, beatSet := none, silent := 0, seen := true } })) ∧
      (s.time.role = 1 → 900 ≤ ns → s.time.st = .locked → (s.time.beatSet = none ∨ s.stepGuard = true) →
        exec (.beatEdge ns) s = .next { s with time := { s.time with silent := 0, seen := true } }) ∧
      (s.time.role = 1 → 900 ≤ ns → s.time.st = .locked → s.stepGuard = false → s.time.ctrlNext = none → s.sec.resetAt = none → s.pwr.level < 5 →
        ∀ b, s.time.beatSet = some b → ∃ t, exec (.beatEdge ns) s = .next t ∧
          t.time.st = .locked ∧ t.time.beat = b % 2 ^ 48 ∧ t.time.phase = 0 ∧ t.time.beatSet = none) ∧
      (s.time.role = 1 → 900 ≤ ns → s.time.st = .holdover → exec (.beatEdge ns) s = .next { s with time :=
        if s.time.held < s.time.holdLimit then { s.time with st := .locked, silent := 0, held := 0, seen := true } else s.time })) ∧
  (
    ∀ s : State, s.pwr.on = true →
      ((s.time.st ≠ .locked ∨ s.time.silent < 4) → exec .holdoverEntry s = .next s) ∧
      (s.time.st = .locked → 4 ≤ s.time.silent → ∃ t, exec .holdoverEntry s = .next t ∧
        t.time = { s.time with st := .holdover, held := 0, silent := 0, lossCount := min (s.time.lossCount + 1) 65535 }) ∧
      ((s.time.st ≠ .holdover ∨ s.time.held < min s.time.holdBeats.toNat 1024) → exec .holdoverExpiry s = .next s) ∧
      (s.time.st = .holdover → min s.time.holdBeats.toNat 1024 ≤ s.time.held → ∃ t, exec .holdoverExpiry s = .next t ∧
        t.time.st = .free ∧ t.time.beat = s.time.beat ∧ t.time.phase = s.time.phase ∧ t.time.lossCount = s.time.lossCount ∧ t.time.beatSet = none ∧
        t.time.rootId = 0 ∧ t.time.hops = 0 ∧ (∀ p, p < 6 → (t.port p).twDue = false) ∧
        (∀ k j, s.job? k = some j → j.cross = true → j.phase = .running →
          ∃ i, t.job? k = some i ∧ i.phase = .stopping ∧ i.cause = 3)))

/-- A write of BEAT_SET by the control function (R82, R90, R95): it waits for the next edge at the beat root, becomes the beat at once in LOCAL
unless jobs with marks hold the step, and has no effect on a follower; another function's is denied (R405). The access crosses the fabric to die
28 and back (R33); the frame is all the rest of the state. A write of TIME_CTRL by the control function waits for the next beat boundary, with
ROLE, UPSTREAM and DOWN_MASK as written where they are no reserved values; it has no effect while a job with cross-module marks is admitted
(R95); another function's is denied (R405). -/
def Obligations.time_registers : Prop :=
  (
    ∀ (f : Func) (v : U64) (s : State), s.pwr.on = true → s.barOpen = true → s.dieAnswers 28 = true →
      let r := s.exchange (30 + f.port.val) 28
      (s.isControl f = true → s.time.role = 1 →
        exec (.beatSetWrite f v) s = .next { r with time := { s.time with beatSet := some (v.toNat % 2 ^ 48) } }) ∧
      (s.isControl f = true → s.time.role = 0 → s.stepGuard = false →
        exec (.beatSetWrite f v) s = .next { r with time := { s.time with beat := v.toNat % 2 ^ 48 } }) ∧
      (s.isControl f = true → s.time.role = 0 → s.stepGuard = true →
        exec (.beatSetWrite f v) s = .next { r with time := { s.time with localSet := some (v.toNat % 2 ^ 48) } }) ∧
      (s.isControl f = true → s.time.role = 2 → exec (.beatSetWrite f v) s = .next r) ∧
      (s.isControl f = false → exec (.beatSetWrite f v) s = .next (r.deny f)) ∧
      r.time = s.time ∧ r.units = s.units ∧ r.jobs = s.jobs ∧ r.mem = s.mem) ∧
  (
    ∀ (f : Func) (v : U64) (s : State), s.pwr.on = true → s.barOpen = true → s.dieAnswers 28 = true →
      let r := s.exchange (30 + f.port.val) 28
      (s.isControl f = false → exec (.timeCtrlWrite f v) s = .next (r.deny f)) ∧
      (s.isControl f = true → s.crossAdmitted = true → exec (.timeCtrlWrite f v) s = .next r) ∧
      (s.isControl f = true → s.crossAdmitted = false → ∃ w : U64,
        exec (.timeCtrlWrite f v) s = .next { r with time := { s.time with ctrlNext := some w } } ∧
        (bits v 0 2 ≠ 3 → bits w 0 2 = bits v 0 2) ∧ (bits v 2 3 < 6 → bits w 2 3 = bits v 2 3) ∧ bits w 5 6 = bits v 5 6))

/-- A timing word on the trained upstream port of a follower (R85, R90, R91): one cut short or failing a check is discarded and counted; an
accepted one gives HOPS and ROOT_ID, moves FREE to ACQUIRING, keeps LOCKED alive, and leaves HOLDOVER before its limit; the sixteenth that agrees
in ACQUIRING gives the step that locks. On any other port, or in another role, a word changes nothing. The delay measurement (R86): at every
1,024th beat each UP port sends an echo, whose bits the manual does not give (log entry 14); the echo's return puts half the round trip in force
from the next boundary, and a return nobody asked for changes nothing. -/
def Obligations.timing_distribution : Prop :=
  (
    ∀ (p : Fin 6) (w : BitVec 128) (whole : Bool) (arr : Nat) (s : State), s.pwr.on = true →
      ((s.time.role ≠ 2 ∨ s.time.upstream.toNat ≠ p.val ∨ (s.port p.val).st ≠ 2) → exec (.timingWordReceive p w whole arr) s = .next s) ∧
      (s.time.role = 2 → s.time.upstream.toNat = p.val → (s.port p.val).st = 2 →
        ((whole = false ∨ s.time.accepts w = false) →
          exec (.timingWordReceive p w whole arr) s =
            .next { s with time := { s.time with badWords := min (s.time.badWords + 1) 65535 } }) ∧
        (whole = true → s.time.accepts w = true →
          let now := senderBoundary s.gt arr (s.port p.val).delay w
          ∃ u : TimeSt, exec (.timingWordReceive p w whole arr) s = .next { s with time := u } ∧
          u.hops.toNat = (bits w 68 6 + 1) % 64 ∧ u.rootId.toNat = bits w 74 15 ∧ u.beat = s.time.beat ∧ u.phase = s.time.phase ∧
          u.badWords = s.time.badWords ∧ u.role = s.time.role ∧ u.beatSet = s.time.beatSet ∧
          (s.time.st = .free → u.st = .acquiring ∧ u.agree = 0) ∧
          (s.time.st = .acquiring → u.st = .acquiring ∧ u.agree = (if agrees now then s.time.agree + 1 else 0) ∧
            u.lockDelta = (if 16 ≤ u.agree then some ((bits w 0 48 : Int) - nearestBeat now) else none)) ∧
          (s.time.st = .locked → u.st = .locked ∧ u.silent = 0) ∧
          (s.time.st = .holdover → s.time.held < s.time.holdLimit → u.st = .locked ∧ u.held = 0)))) ∧
  (
    ∀ (p : Fin 6) (r : Nat) (s : State), s.pwr.on = true →
      ((s.port p.val).echo = true → exec (.delayEchoReceive p r) s =
        .next (s.setPort p.val { s.port p.val with echo := false, delayNext := some (r / 2 % 2 ^ 32) })) ∧
      ((s.port p.val).echo = false → exec (.delayEchoReceive p r) s = .next (s.setPort p.val (s.port p.val))) ∧
      ((s.time.beat % 1024 ≠ 0 ∨ s.time.phase ≠ 0) → exec .delayRemeasure s = .next s) ∧
      (s.time.beat % 1024 = 0 → s.time.phase = 0 → ∃ t, exec .delayRemeasure s = .next { s with ports := t, fresh := s.fresh + 2 } ∧
        ∀ q : Fin 6, tabGet NlPort.reset t q.val = if (s.port q.val).st = 2
          then { s.port q.val with echo := true, ctrlTx := (s.port q.val).ctrlTx ++ pieces 1 (echoWord s.fresh) } else s.port q.val))

/-- FETCH_ADD, FETCH_MIN and FETCH_MAX at an armed object (R62, R64): the new value, the old value sent back to the unit, no other object
changed. A WORK object's sum stops at BOUND. SIGNAL adds without a reply (R64); READ replies with the value, for the bound word whose read is
outstanding if there is one (R44), and changes no object; WAIT_GE leaves a watch with the unit in WAIT_SYNC, satisfied at once when the value is
reached (R64, R67). -/
def Obligations.sync_operations : Prop :=
  (
    ∀ (x : UnitId) (sid : U16) (a : U64) (s : State), SyncReady s x.addr sid →
      let o := s.sync sid.toNat
      let replied (t : State) (v : U64) : Prop :=
        (t.unit x.addr).replies = (s.unit x.addr).replies ++ [{ sid := sid, value := v, kind := 0, slot := 0 }] ∧
        (∀ i, i ≠ sid.toNat → t.sync i = s.sync i) ∧ t.mem = s.mem ∧ t.queues = s.queues ∧ t.jobs = s.jobs ∧ t.ports = s.ports
      (o.ty ≠ 1 → ∃ t, exec (.fetchAdd x sid a) s = .next t ∧ t.sync sid.toNat = { o with value := o.value + a } ∧ replied t o.value) ∧
      (o.ty = 1 → ∃ t, exec (.fetchAdd x sid a) s = .next t ∧
        t.sync sid.toNat = { o with value := BitVec.ofNat 64 (min (o.value.toNat + a.toNat) o.bound.toNat) } ∧
        replied t (BitVec.ofNat 64 (min o.value.toNat o.bound.toNat))) ∧
      (∃ t, exec (.fetchMin x sid a) s = .next t ∧ t.sync sid.toNat = { o with value := if o.asInt a < o.asInt o.value then a else o.value } ∧
        replied t o.value) ∧
      (∃ t, exec (.fetchMax x sid a) s = .next t ∧ t.sync sid.toNat = { o with value := if o.asInt o.value < o.asInt a then a else o.value } ∧
        replied t o.value)) ∧
  (
    ∀ (x : UnitId) (sid : U16) (a : U64) (s : State), SyncReady s x.addr sid →
      let o := s.sync sid.toNat
      (∃ t, exec (.signal x sid a) s = .next t ∧ t.sync sid.toNat = { o with value := (o.fetchAdd a).1 } ∧
        (t.unit x.addr).replies = (s.unit x.addr).replies ∧ (∀ i, i ≠ sid.toNat → t.sync i = s.sync i) ∧ t.mem = s.mem) ∧
      (∃ t, exec (.read (.unit x) sid) s = .next t ∧ t.syncs = s.syncs ∧ t.watches = s.watches ∧ t.mem = s.mem ∧
        (t.unit x.addr).replies = (s.unit x.addr).replies ++ [match (s.unit x.addr).boundRead? sid with
          | some r => { sid := sid, value := o.value, kind := 1, slot := r.slot }
          | none => { sid := sid, value := o.value, kind := 0, slot := 0 }]) ∧
      exec (.read .module sid) s = .next s ∧
      (∃ t, exec (.waitGe x sid a) s = .next t ∧ t.syncs = s.syncs ∧ t.mem = s.mem ∧
        t.watch x.addr = some { sid := sid, value := a, hit := o.reached a } ∧ (t.unit x.addr).wait = .sync sid a ∧
        ∀ y, y ≠ x.addr → t.watch y = s.watch y))

/-- SET and READ through the sync window (R63, R64, R68, R405): the control function sets a disarmed object, an armed one is refused with
ARMED_WRITE in the writer's context, another function's write is denied; a reader that controls the module or owns the object gets its value,
another gets zero and is counted. No unit issues SET. What travels back to a unit (R66, R67, R263): its oldest reply to an operation or a claim
is taken, a claim's kept for its claims; a satisfied watch is taken and lets the unit fire. -/
def Obligations.sync_window_and_replies : Prop :=
  (
    ∀ (f : Func) (sid : U16) (v ctl : U64) (s : State), s.pwr.on = true → s.barOpen = true → s.dieAnswers (syncHome sid) = true →
      let o := s.sync sid.toNat
      let r := s.exchange (30 + f.port.val) (syncHome sid)
      (s.isControl f = true → o.armed = false → ∃ t, exec (.set (.soft f) sid v ctl) s = .next t ∧
        t.sync sid.toNat = { o.control ctl with value := v } ∧ (∀ i, i ≠ sid.toNat → t.sync i = s.sync i) ∧ t.units = s.units ∧ t.mem = s.mem) ∧
      (o.armed = false → ∃ t, exec (.set .module sid v ctl) s = .next t ∧ t.sync sid.toNat = { o.control ctl with value := v } ∧
        (∀ i, i ≠ sid.toNat → t.sync i = s.sync i) ∧ t.units = s.units ∧ t.mem = s.mem) ∧
      (o.armed = true → exec (.set .module sid v ctl) s = .next s) ∧ (∀ x, exec (.set (.unit x) sid v ctl) s = .next s) ∧
      (s.isControl f = true → o.armed = true → ∃ t, exec (.set (.soft f) sid v ctl) s = .next t ∧ t.syncs = s.syncs ∧ t.watches = s.watches ∧
        t.mem = s.mem ∧ t.jobs = s.jobs) ∧
      (s.isControl f = false → exec (.set (.soft f) sid v ctl) s = .next (r.deny f)) ∧
      ((s.isControl f = true ∨ o.ctx.toNat = f.ctx) → exec (.read (.soft f) sid) s = .next { r with answer := .value o.value }) ∧
      (s.isControl f = false → o.ctx.toNat ≠ f.ctx → exec (.read (.soft f) sid) s = .next { r.deny f with answer := .value 0 })) ∧
  (
    ∀ (x : UnitId) (s : State), s.pwr.on = true →
      ((s.unit x.addr).replies.find? (fun r => r.kind != 1) = none → exec (.syncReply x) s = .next s) ∧
      (∀ r, (s.unit x.addr).replies.find? (fun r => r.kind != 1) = some r → ∃ t, exec (.syncReply x) s = .next t ∧
        (t.unit x.addr).replies = (s.unit x.addr).replies.erase r ∧
        (r.kind = 2 → (t.unit x.addr).claim.next = some r.value.toNat ∧ (t.unit x.addr).claim.inFlight = false) ∧
        (r.kind ≠ 2 → (t.unit x.addr).claim = (s.unit x.addr).claim) ∧ (∀ y, y ≠ x.addr → t.unit y = s.unit y) ∧ t.syncs = s.syncs) ∧
      ((s.watch x.addr = none ∨ ∃ w, s.watch x.addr = some w ∧ w.hit = false) → exec (.watchNotify x) s = .next s) ∧
      (∀ w, s.watch x.addr = some w → w.hit = true → ∃ t, exec (.watchNotify x) s = .next t ∧ t.watch x.addr = none ∧
        (t.unit x.addr).satisfied = (s.unit x.addr).satisfied ++ [(w.sid, w.value)] ∧ t.syncs = s.syncs ∧ t.mem = s.mem ∧
        ((s.unit x.addr).wait.code = 3 → (s.unit x.addr).stopped = false → (s.unit x.addr).cmd? ≠ none → (t.unit x.addr).wait.code = 1)))

/-- Claims (R65): however many FETCH_ADDs a WORK object takes, in whatever sizes, each claim from its value up to what was asked for, short of
BOUND, is owned exactly once, and no other; a claimant that receives BOUND owns nothing and its command's claims end. -/
def Obligations.claims_partition_the_work : Prop :=
  (∀ (o : SyncObj) (l : List U64) (n : Nat), o.ty = 1 → o.value.toNat ≤ o.bound.toNat →
    ((claimsOf o l).filter fun c => decide (c.1 ≤ n) && decide (n < c.2)).length =
      if o.value.toNat ≤ n ∧ n < min (o.value.toNat + (l.map BitVec.toNat).sum) o.bound.toNat then 1 else 0) ∧
  (∀ (o : SyncObj) (a : U64), o.ty = 1 → (o.fetchAdd a).2.toNat = o.bound.toNat → ∀ c ∈ claimsOf o [a], ¬ c.1 < c.2) ∧
  (∀ (x : UnitId) (j : Job) (c : Cmd) (n : Nat) (s : State), Commanded s x.addr j c → SyncReady s x.addr c.claimSync →
    let u := s.unit x.addr
    c.claimEn = true → u.started = true → u.claim.ended = false → u.reads = [] → u.claim.hi ≤ u.claim.cur → u.prog = 0 →
    u.empty c = false → s.clockGated x.addr j c = false → s.portsBlock x.addr (claimEndIns c u) = none →
    u.claim.next = some n → (s.sync c.claimSync.toNat).bound.toNat ≤ n → s.replayed j.jid 4 [x.addr, c.tag.toNat, c.claimSync.toNat] = none →
    s.noCredit x.addr (((sortPorts c.outs).filter fun b => b.inline && decide (b.level < c.claimLevel)).map (·.port.val)) = none →
    ∃ t, exec (.claim x) s = .next t ∧ (t.unit x.addr).claim.ended = true ∧ (t.unit x.addr).done = true ∧ t.syncs = s.syncs)

/-- A unit starts its command (R43, R44, R438): the counters of the command before become the snapshot and start at zero, the tag is the
command's, every loop counter is zero, and each loop bound given as a literal is in force. The reply of a bound read (R43 to R45): the bound is
the value read, clamped to MAXB; a clamp sets flag 8 and is counted; the read is no longer outstanding. Of memory the value is the word the
pointer register names, of a sync object the reply its home bank sent. -/
def Obligations.command_start_and_bounds : Prop :=
  (
    ∀ (x : UnitId) (j : Job) (c : Cmd) (m : List (Nat × List Byte) × Nat) (s : State), Commanded s x.addr j c →
      (s.unit x.addr).started = false → s.effMaps (whoOf x.addr j) j.bin c c.envelope = .ok m →
      ∃ t, exec (.commandStart x) s = .next t ∧
        (t.unit x.addr).started = true ∧ (t.unit x.addr).done = false ∧ (t.unit x.addr).liveTag = c.tag ∧
        (t.unit x.addr).snap = (s.unit x.addr).cnt ∧ (t.unit x.addr).snapTag = (s.unit x.addr).liveTag ∧
        (t.unit x.addr).ctr = List.replicate 6 0 ∧ (t.unit x.addr).startGt = s.gt ∧ t.queues = s.queues ∧ t.syncs = s.syncs ∧ t.mem = s.mem ∧
        (c.tdMaxb = [] → (∀ l < 6, bit (c.bounds.getD l 1) 31 = false) → (s.unit x.addr).bnd.length = 6 →
          (t.unit x.addr).reads = [] ∧ ∀ l < 6, ((t.unit x.addr).bnd.getD l 0).toNat = (c.bounds.getD l 1).toNat)) ∧
  (
    ∀ (x : UnitId) (slot v : Nat) (j : Job) (c : Cmd) (r : BoundRead) (s : State), Commanded s x.addr j c →
      (s.unit x.addr).reads.find? (fun r => r.slot == slot) = some r → slot < 6 →
      (bits r.word 29 2 ≠ 1 → s.boundWord x.addr j c r = .ok v) →
      (bits r.word 29 2 = 1 → ∃ q, (s.unit x.addr).replies.find? (fun q => q.kind == 1 && q.slot == slot) = some q ∧ q.value.toNat % 2 ^ 32 = v) →
      s.replayed j.jid 4 [x.addr, c.tag.toNat, r.word.toNat] = none →
      ∃ t, exec (.boundReadReply x slot) s = .next t ∧
        (t.unit x.addr).reads = (s.unit x.addr).reads.filter (fun q => q.slot != slot) ∧
        (t.unit x.addr).bnd = setAt (s.unit x.addr).bnd slot (BitVec.ofNat 32 (min v r.maxb.toNat)) ∧
        (r.maxb.toNat < v → bit (t.unit x.addr).flags 8 = true ∧ (t.unit x.addr).boundClamps = satAdd (s.unit x.addr).boundClamps 1) ∧
        (v ≤ r.maxb.toNat → (t.unit x.addr).flags = (s.unit x.addr).flags ∧ (t.unit x.addr).boundClamps = (s.unit x.addr).boundClamps) ∧
        t.syncs = s.syncs ∧ t.queues = s.queues ∧ t.mem = s.mem)

/-- An iteration fires when its marks have passed, its sync waits are satisfied, its input tokens are there and its output ports have credits
(R46), its tokens carrying one tag (R52): the counters step as R39 orders them, the iteration's work is begun. When something is missing, the
unit is in the wait state that names it (R47) and nothing else of it changes; a stale head is discarded (R73), an END in place of DATA is
STREAM_UNDERRUN (R42). A command with a bound of 0 has no iterations (R45); a claim with one is finished at once (R263); before the first
iteration the envelope's maps are read (R254). -/
def Obligations.iteration_fires : Prop :=
  ∀ (x : UnitId) (j : Job) (c : Cmd) (g : BitVec 12) (s : State), Commanded s x.addr j c →
    let u := s.unit x.addr
    u.started = true → u.done = false → u.reads = [] → u.prog = 0 →
    (c.envelope ≠ [] → u.effMap = [] → exec (.iterationFire x) s = .next (s.readMaps x.addr j c)) ∧
    ((c.envelope = [] ∨ u.effMap ≠ []) → u.empty c = true →
      exec (.iterationFire x) s = .next (s.setUnit x.addr { u with done := true })) ∧
    ((c.envelope = [] ∨ u.effMap ≠ []) → u.empty c = false → c.claimEn = true → u.claim.hi ≤ u.claim.cur → exec (.iterationFire x) s = .next s) ∧
    ((c.envelope = [] ∨ u.effMap ≠ []) → u.empty c = false → (c.claimEn = true → u.claim.cur < u.claim.hi) → u.emptyClaim c = true →
      exec (.iterationFire x) s = .next ((s.setUnit x.addr (u.nextClaim c)).doSignal x.addr c.doneSync 1)) ∧
    ((c.envelope = [] ∨ u.effMap ≠ []) → u.empty c = false → (c.claimEn = true → u.claim.cur < u.claim.hi) → u.emptyClaim c = false →
    (s.fireBlock x.addr j c = none → (c.claimEn = true → c.worked = true) →
      (∀ k ∈ (s.popPorts x.addr ((sortPorts c.ins).filter fun b => innerZero c u b.level)).2, k.tag = g) →
      ∃ t, exec (.iterationFire x) s = .next t ∧ (t.unit x.addr).fired = u.ctr ∧ (t.unit x.addr).prog = b2n c.worked ∧
        t.syncs = s.syncs ∧ t.mem = s.mem ∧ t.ports = s.ports ∧
        (c.claimEn = false → (t.unit x.addr).ctr = (stepCtr u.bnd 6 u.ctr).1 ∧ (t.unit x.addr).done = (stepCtr u.bnd 6 u.ctr).2) ∧
        (c.claimEn = true → (t.unit x.addr).done = false ∧ (t.unit x.addr).sigOwed = (stepInner u.bnd c.claimLevel 6 u.ctr).2 ∧
          (t.unit x.addr).claim.cur = u.claim.cur + b2n (stepInner u.bnd c.claimLevel 6 u.ctr).2)) ∧
    (∀ w, s.fireBlock x.addr j c = some (.wait w) →
      ∃ t, exec (.iterationFire x) s = .next t ∧ (t.unit x.addr).wait = w ∧ (t.unit x.addr).ctr = u.ctr ∧ (t.unit x.addr).ocredit = u.ocredit ∧
        t.queues = s.queues ∧ t.syncs = s.syncs ∧ t.mem = s.mem) ∧
    (∀ k, s.fireBlock x.addr j c = some (.stale k) → exec (.iterationFire x) s = .next (s.discardHead x.addr k)) ∧
    (s.fireBlock x.addr j c = some .underrun → exec (.iterationFire x) s = .next (s.jobFault j.jid 16 3 x.addr false 0 0)) ∧
    (s.fireBlock x.addr j c = some .notData → exec (.iterationFire x) s = .next s))

/-- A MARK token is popped into LAST_MARK with a copy on each mark-forward port; a DRAIN token is popped once no work is in flight (R51), but on
a matrix engine's streamed input, where MXE_DRAIN takes it. A token of another epoch is discarded and counted (R73). A unit that is clock-gated
until a mark pops nothing (R48); one without a credit waits (R47). A command ends with one END on each output port (R41), and an END taken from
each input port lets the unit go to its next command: RUN, or IDLE after the last (R41, R47). -/
def Obligations.control_tokens_and_command_end : Prop :=
  (
    ∀ (x : UnitId) (p : Fin 9) (j : Job) (c : Cmd) (k : Nat) (tok : Token) (s : State), Commanded s x.addr j c →
      s.headTok x.addr p.val = some (k, tok) →
      (s.clockGated x.addr j c = true → exec (.markTokenPop x p) s = .next s ∧ exec (.drainTokenPop x p) s = .next s) ∧
      (s.clockGated x.addr j c = false →
      (tok.epoch = (s.unit x.addr).epoch.toNat → tok.kind = 1 → ∀ w,
        s.noCredit x.addr ((List.range 8).filter fun q => bit c.markFwd q) = some w → exec (.markTokenPop x p) s = .next (s.setWait x.addr w)) ∧
      (tok.epoch = (s.unit x.addr).epoch.toNat → tok.kind = 1 → s.noCredit x.addr ((List.range 8).filter fun q => bit c.markFwd q) = none →
        ∃ t, exec (.markTokenPop x p) s = .next t ∧ (t.unit x.addr).lastMark = tok.tag ∧
          (t.queue k).head = ((s.queue k).head + 1) % (s.queue k).depth ∧ t.syncs = s.syncs ∧ t.mem = s.mem ∧ t.jobs = s.jobs) ∧
      (tok.epoch = (s.unit x.addr).epoch.toNat → tok.kind = 2 → (∀ b, streamPort c = some b → b.port ≠ p) → (s.unit x.addr).prog = 0 →
        s.noCredit x.addr ((c.outs.filter fun b => ((c.ins.filter fun b => b.port == p).map (·.level)).contains b.level).map (·.port.val)) = none →
        ∃ t, exec (.drainTokenPop x p) s = .next t ∧ (t.queue k).head = ((s.queue k).head + 1) % (s.queue k).depth ∧
          (t.unit x.addr).lastMark = (s.unit x.addr).lastMark ∧ t.syncs = s.syncs ∧ t.mem = s.mem ∧ t.jobs = s.jobs) ∧
      (tok.epoch ≠ (s.unit x.addr).epoch.toNat →
        ∃ t, exec (.markTokenPop x p) s = .next t ∧ exec (.drainTokenPop x p) s = .next t ∧ (t.queue k).toks = (s.queue k).toks.tail ∧
          (t.unit x.addr).discards = satAdd (s.unit x.addr).discards 1 ∧ (t.unit x.addr).lastMark = (s.unit x.addr).lastMark))) ∧
  (
    ∀ (x : UnitId) (j : Job) (c : Cmd) (s : State), Commanded s x.addr j c →
      let u := s.unit x.addr
      (u.started = true → u.endSent = false → u.reads = [] → u.prog = 0 → (u.empty c = true ∨ u.done = true ∧ (c.claimEn = true → u.claim.ended = true)) →
        (∀ w, s.noCredit x.addr ((sortPorts c.outs).map (·.port.val)) = some w → exec (.commandEnd x) s = .next (s.setWait x.addr w)) ∧
        (s.noCredit x.addr ((sortPorts c.outs).map (·.port.val)) = none →
        ∃ t, exec (.commandEnd x) s = .next t ∧ (t.unit x.addr).endSent = true ∧ (t.unit x.addr).done = true ∧ (t.unit x.addr).idx = u.idx ∧ t.syncs = s.syncs ∧ t.mem = s.mem)) ∧
      (u.endSent = true → ∀ w, s.endBlock x.addr ((sortPorts c.ins).map (·.port.val)) = some (.wait w) →
        exec (.endTokenPop x) s = .next (s.setWait x.addr w)) ∧
      (u.endSent = true → s.endBlock x.addr ((sortPorts c.ins).map (·.port.val)) = none →
        ∃ t, exec (.endTokenPop x) s = .next t ∧ (t.unit x.addr).idx = u.idx + 1 ∧ (t.unit x.addr).started = false ∧
          (t.unit x.addr).endSent = false ∧ t.syncs = s.syncs ∧ t.mem = s.mem ∧
          (u.cmds[u.idx + 1]? = none → (t.unit x.addr).wait.code = 0) ∧ (u.cmds[u.idx + 1]?.isSome → (t.unit x.addr).wait.code = 1)) ∧
      (u.endSent = true → s.endBlock x.addr ((sortPorts c.ins).map (·.port.val)) = some .underrun →
        exec (.endTokenPop x) s = .next (s.jobFault j.jid 17 3 x.addr false 0 0)))

/-- Dynamic claims (R263): the first claim is requested with FETCH_ADD of the claim size; a reply below BOUND gives the iterations of the claim,
and the next request goes at once. A token crosses to its queue, the oldest first, and the edge counts it (R57, R441); a credit returns to the
queue's producer (R58). QCFG is written by the control function while EN is 0 (R54): the fields are taken, and an enabled queue's producer holds
DEPTH credits (R58). While EN is 1 a write changes nothing; another function's is denied. -/
def Obligations.claims_and_queues : Prop :=
  (
    ∀ (x : UnitId) (j : Job) (c : Cmd) (s : State), Commanded s x.addr j c → SyncReady s x.addr c.claimSync →
      let u := s.unit x.addr
      let o := s.sync c.claimSync.toNat
      c.claimEn = true → u.started = true → u.claim.ended = false → u.reads = [] → u.empty c = false → s.clockGated x.addr j c = false →
      (u.claim.cur < u.claim.hi → exec (.claim x) s = .next s) ∧
      (u.claim.hi ≤ u.claim.cur →
      (u.claim.next = none → u.claim.inFlight = true → exec (.claim x) s = .next (s.setWait x.addr (.sync c.claimSync 0))) ∧
      (u.claim.next = none → u.claim.inFlight = false → ∃ t, exec (.claim x) s = .next t ∧ (t.unit x.addr).claim.inFlight = true ∧
        t.sync c.claimSync.toNat = { o with value := (o.fetchAdd (BitVec.ofNat 64 c.claimSize)).1 } ∧ (t.unit x.addr).wait = .sync c.claimSync 0) ∧
      (∀ n, u.claim.next = some n → s.replayed j.jid 4 [x.addr, c.tag.toNat, c.claimSync.toNat] = none → n < o.bound.toNat →
        ∃ t, exec (.claim x) s = .next t ∧ (t.unit x.addr).claim.cur = n ∧
          (t.unit x.addr).claim.hi = min (n + c.claimSize) o.bound.toNat ∧ (t.unit x.addr).claim.inFlight = true ∧
          t.sync c.claimSync.toNat = { o with value := (o.fetchAdd (BitVec.ofNat 64 c.claimSize)).1 }))) ∧
  (
    ∀ (src dst die : Fin 24) (q : Fin 512) (s : State), s.pwr.on = true →
      (s.chan (src.val * 32 + dst.val) = [] → exec (.tokenCrossing src dst) s = .next s) ∧
      (∀ f, nextFlying (s.chan (src.val * 32 + dst.val)) = some f → ∃ t, exec (.tokenCrossing src dst) s = .next t ∧
        t.chan (src.val * 32 + dst.val) = (s.chan (src.val * 32 + dst.val)).erase f ∧ (t.queue f.q).toks = (s.queue f.q).toks ++ [f.tok] ∧
        (∀ k, k ≠ f.q → t.queue k = s.queue k) ∧ 
        (∀ e, edgeOf src.val dst.val = some e → t.cntAt (cntEdge src.val e) = satAdd (s.cntAt (cntEdge src.val e)) 1) ∧
        t.units = s.units ∧ t.syncs = s.syncs ∧ t.mem = s.mem) ∧
      ((s.queue (512 * die.val + q.val)).credBack = 0 → exec (.creditReturn die q) s = .next s) ∧
      (0 < (s.queue (512 * die.val + q.val)).credBack → ∃ t, exec (.creditReturn die q) s = .next t ∧
        (t.queue (512 * die.val + q.val)).credBack = (s.queue (512 * die.val + q.val)).credBack - 1 ∧
        (t.queue (512 * die.val + q.val)).toks = (s.queue (512 * die.val + q.val)).toks ∧
        (t.unit (s.queue (512 * die.val + q.val)).producer).ocredit =
          modAt (s.unit (s.queue (512 * die.val + q.val)).producer).ocredit (s.queue (512 * die.val + q.val)).prodPort (fun n => n + 1) ∧
        t.syncs = s.syncs ∧ t.mem = s.mem ∧ t.chans = s.chans)) ∧
  (
    ∀ (f : Func) (die : Fin 24) (q : Fin 512) (v : U64) (s : State), s.pwr.on = true → s.barOpen = true → s.dieAnswers die.val = true →
      let k := 512 * die.val + q.val
      let r := s.exchange (30 + f.port.val) die.val
      (s.isControl f = true → (s.queue k).en = false → ∃ t, exec (.qcfgWrite f die q v) s = .next t ∧
        (t.queue k).cfg = v &&& 0xFFFFFFFF7FFF#64 ∧ (t.queue k).toks = (s.queue k).toks ∧ (∀ i, i ≠ k → t.queue i = s.queue i) ∧ t.syncs = s.syncs ∧
        t.mem = s.mem ∧ (bit v 47 = false → t.units = s.units) ∧
        (bit v 47 = true → (t.unit (bits v 28 5 * 16 + bits v 33 4)).ocredit =
          setAt (s.unit (bits v 28 5 * 16 + bits v 33 4)).ocredit (bits v 37 3) (BitVec.ofNat 13 (bits v 16 12 + 1)))) ∧
      (s.isControl f = true → (s.queue k).en = true → exec (.qcfgWrite f die q v) s = .next r) ∧
      (s.isControl f = false → exec (.qcfgWrite f die q v) s = .next (r.deny f)))

/-- One mark takes effect (R97, R98, R266, R285): it is no longer pending, the objects declared REARM at it and homed on dies that answer take
their initial values, and an INGEST_OPEN opens the window of its period. With no mark due nothing happens. A DRAIN reconfiguration whose mark has
passed switches once its queues are empty and nothing of them travels (R71, R73): each of its units takes its new commands and the next epoch,
and it is over when no stale token is left (R74). Before that nothing of it switches. -/
def Obligations.marks_and_reconfiguration : Prop :=
  (
    (∀ s : State, s.pwr.on = true → s.dueMarks = [] → exec .markTakeEffect s = .next s) ∧
    ∀ (m : MarkSt) (j : Job) (s : State), s.pwr.on = true → s.dueMarks = [m] → m ∈ s.marks → s.job? m.jid = some j →
      (∀ r ∈ j.bin.reconfs, r.mark ≠ m.decl.id) → (m.decl.role = .other ∨ m.decl.role = .fwdStart ∨ m.decl.role = .ingestOpen) →
      ∃ t k, exec .markTakeEffect s = .next t ∧ t.marks = s.marks.erase m ∧ t.job? m.jid = some k ∧ k.progress = true ∧
        (m.decl.role = .ingestOpen → k.windowOpen = true ∧ k.window = m.period) ∧
        (m.decl.role ≠ .ingestOpen → k.windowOpen = j.windowOpen ∧ k.window = j.window) ∧
        (∀ d ∈ j.bin.syncs, d.rearm = some m.decl.id → s.dieAnswers (syncHome d.sid) = true → (∀ e ∈ j.bin.syncs, e.sid = d.sid → e = d) →
          (t.sync d.sid.toNat).value = d.value) ∧
        (∀ i, (∀ d ∈ j.bin.syncs, d.sid.toNat ≠ i) → t.sync i = s.sync i) ∧ t.mem = s.mem ∧ t.queues = s.queues) ∧
  (
    ∀ (r : RecfgSt) (j : Job) (s : State), s.pwr.on = true → s.recfgs = [r] → r.switched = false → s.job? r.jid = some j →
      j.phase = .running → (r.rc.units.map fun p => p.x.addr).Nodup →
      (s.drained r.rc = false → exec .reconfigDrain s = .next s) ∧
      (s.drained r.rc = true → ∃ t, exec .reconfigDrain s = .next t ∧ (t.recfgs = [] ∨ t.recfgs = [{ r with switched := true }]) ∧ t.mem = s.mem ∧ t.syncs = s.syncs ∧
        ∀ p ∈ r.rc.units, (t.unit p.x.addr).cmds = p.cmds ∧ (t.unit p.x.addr).job = some r.jid ∧ (t.unit p.x.addr).idx = 0 ∧
          (t.unit p.x.addr).epoch = (if (s.unit p.x.addr).job = some r.jid then (s.unit p.x.addr).epoch else 0) + 1))

/-- A sample or query whose last byte arrives on an UP port is stamped with this cycle (R100), and the stamp alone decides (R101, R102): a query,
or a sample inside a window, enters the job; a sample after its window is late and kept only under CARRY (R356); one before the first window
enters none. The port counts the bytes. On a port that is not UP nothing arrives. Stop, save and restore of a job (R76 to R79, R434, R435): the
stop leaves every unit of the job STOPPED, its wait state kept, and the job to be saved; the save keeps an image with each unit's state and the
digest of the area, and frees the units; the restore gives a job without cross-module marks its units as they were saved, each in the wait state
its stop found; one with them starts its step program afresh at its rejoin period; a missing or damaged image ends the job with BAD_SAVE. -/
def Obligations.ingest_and_preemption : Prop :=
  (
    ∀ (jid : U64) (p : Fin 2) (query : Bool) (dva : BitVec 57) (data : List Byte) (j : Job) (s : State), s.pwr.on = true →
      s.job? jid = some j →
      ((s.hpAt p.val).link ≠ 2 → exec (.ingestArrival jid p query dva data) s = .next s) ∧
      ((s.hpAt p.val).link = 2 → ∃ t k, exec (.ingestArrival jid p query dva data) s = .next t ∧ t.job? jid = some k ∧
        t.cntAt (cntHost p.val 0) = satAdd (s.cntAt (cntHost p.val 0)) data.length ∧ t.units = s.units ∧ t.queues = s.queues ∧
        (query = true → k.lateSamples = j.lateSamples ∧ ∃ i, k.ingest = j.ingest ++ [i] ∧ i.stamp = s.gt ∧ i.query = true ∧
          i.dva = dva.toNat ∧ i.data = data ∧ i.late = false ∧ i.bank = j.active) ∧
        (query = false → ∀ w, j.stamped s.gt = .inside w → k.lateSamples = j.lateSamples ∧ ∃ i, k.ingest = j.ingest ++ [i] ∧ i.stamp = s.gt ∧
          i.query = false ∧ i.dva = dva.toNat ∧ i.data = data ∧ i.late = false ∧ i.window = w) ∧
        (query = false → j.stamped s.gt = .before → k.ingest = j.ingest ∧ k.lateSamples = j.lateSamples ∧ k.droppedSamples = j.droppedSamples) ∧
        (query = false → ∀ w, j.stamped s.gt = .late w → j.policy = 1 → k.lateSamples = j.lateSamples + 1 ∧
          ∃ i, k.ingest = j.ingest ++ [i] ∧ i.late = true ∧ i.data = data ∧ i.window = w) ∧
        (query = false → ∀ w, j.stamped s.gt = .late w → j.policy ≠ 1 → k.ingest = j.ingest ∧
          k.lateSamples = j.lateSamples + 1 ∧ k.droppedSamples = j.droppedSamples + 1))) ∧
  (
    ∀ (jid : U64) (j : Job) (s : State), s.pwr.on = true → s.job? jid = some j →
      (j.phase ≠ .stopping → exec (.preemptStop jid) s = .next s) ∧ (j.phase ≠ .saving → exec (.chainSave jid) s = .next s) ∧
      (j.phase ≠ .resuming → exec (.resumeRestore jid) s = .next s) ∧
      (j.phase = .stopping → ∃ t k, exec (.preemptStop jid) s = .next t ∧ t.job? jid = some k ∧ k.phase = .saving ∧ k.x.opnds = [] ∧
        ∀ x ∈ s.unitsOf jid, (t.unit x).stopped = true ∧ (t.unit x).wait.code = 8 ∧ (t.unit x).ctr = (s.unit x).ctr ∧
          (t.unit x).before = if (s.unit x).stopped then (s.unit x).before else (s.unit x).wait) ∧
      (j.phase = .saving → s.repliesIn j = false → exec (.chainSave jid) s = .next s) ∧
      (j.phase = .saving → s.repliesIn j = true → ∃ t k v, exec (.chainSave jid) s = .next t ∧ t.job? jid = some k ∧
        k.phase = (if j.cause = 0 then .parked else .preempted) ∧ v ∈ t.saves ∧ v.jid = jid ∧ v.units = (s.unitsOf jid).map (fun x => (x, s.unit x)) ∧
        v.saveGt = s.gt ∧ (∀ x ∈ s.unitsOf jid, (t.unit x).job = none) ∧
        v.digest = (s.veilDva j.ctx.val (j.saveDva + 128) (j.saveDva + max j.bin.report.saveBytes 128) (j.bin.report.saveBytes / 65536 + 2)).areaDigest j ∧
        (j.cause ≠ 0 → ∀ d ∈ j.bin.syncs, (t.sync d.sid.toNat).armed = false)) ∧
      (j.phase = .resuming → s.saves.find? (fun v => v.jid == jid) = none → exec (.resumeRestore jid) s = .next (s.jobFault jid 24 3 30 true 0 0)) ∧
      (j.phase = .resuming → ∀ v, s.saves.find? (fun v => v.jid == jid) = some v →
        (s.saveIntact j v = true → v.units = [] → ∃ t k, exec (.resumeRestore jid) s = .next t ∧ t.job? jid = some k ∧ k.phase = .admitted ∧
          t.units = s.units ∧ t.mem = s.mem) ∧
        (s.saveIntact j v = true → v.units ≠ [] → j.cross = true → ∃ t k, exec (.resumeRestore jid) s = .next t ∧ t.job? jid = some k ∧
          k.phase = .running ∧ k.period = j.rejoin ∧ k.x = j.x) ∧
        (s.saveIntact j v = true → j.cross = false → v.faults = [] → v.units ≠ [] → (v.units.map (·.1)).Nodup →
          ∃ t k, exec (.resumeRestore jid) s = .next t ∧ t.job? jid = some k ∧ k.phase = .running ∧
            ∀ e ∈ v.units, (t.unit e.1).ctr = e.2.ctr ∧ (t.unit e.1).idx = e.2.idx ∧ (t.unit e.1).cmds = e.2.cmds ∧ (t.unit e.1).stopped = false ∧
              (t.unit e.1).wait = e.2.before) ∧
        (s.saveIntact j v = false → exec (.resumeRestore jid) s =
          .next (({ s with saves := s.saves.filter fun v => v.jid != jid } : State).jobFault jid 24 3 30 true 0 0))))

/-- The accumulator directory grants a tile, of which nothing has entered, or leaves the engine in WAIT_ACC with what it waits for; a conflict is
counted once for each wait (R194 to R197). An engine that has its tile, or an iteration not yet fired, takes none. A row of a pass enters against
the block in the weight latch, which is there already, is switched to, or is loaded now (R165, R166): its accumulators go into the slot of its
group of 128 rows (R175), its products and a skip are counted (R202). The last row of the last pass leaves the accumulators finished and counts
the pass; of another pass each row is written back and frees its place (R178, R188), after which the next pass begins, or a group's next member
may take the tile (R197). A row whose access faults has not entered (R193). With no slot free, or a live Decant at work, no row enters. A DRAIN
at the streamed input of an engine with no tile in hand is popped and passed on (R51, R189); with a tile whose passes are not complete the rows'
live accumulators are offered to Decant, which keeps their values, and the DRAIN follows them out (R190). Without a credit the engine waits;
while clock-gated it pops nothing (R48); a head of another kind stays, one of another epoch is discarded (R73). -/
def Obligations.matrix_engine : Prop :=
  (
    ∀ (die : Fin 24) (m : Fin 4) (j : Job) (c : Cmd) (k : MxeCtx) (s : State),
      let x := mxeAddr die m
      let home := s.dirHome x j k
      Commanded s x j c → mxeCtx j c (s.unit x) = some k →
      ((s.unit x).prog = 0 ∨ (s.tile x).isSome ∨ (s.decAt x).idle = false → exec (.accTake die m) s = .next s) ∧
      ((s.unit x).prog ≠ 0 → s.tile x = none → (s.decAt x).idle = true →
      (∀ es n, dirAsk (s.dir home) k.tensor k.dec.tile x k.b = .grant es n → ∃ t g, exec (.accTake die m) s = .next t ∧
        t.tile x = some g ∧ g.coord = k.dec.tile ∧ g.pass = 0 ∧ g.passes = max 1 (ceilDiv k.blk.k k.blk.keff) ∧ g.row = 0 ∧ g.file = [] ∧
        g.pass0 = n ∧ t.dir home = es ∧ (t.unit x).wait.code = 1 ∧ (t.engAt x).cur = (s.engAt x).cur ∧ t.mem = s.mem ∧ t.syncs = s.syncs) ∧
      (∀ op full nh rank cf, dirAsk (s.dir home) k.tensor k.dec.tile x k.b = .wait op full nh rank cf → ∃ t, exec (.accTake die m) s = .next t ∧
        t.tile x = none ∧ t.accDir = s.accDir ∧ (t.unit x).wait = .acc op full nh rank ∧ (t.engAt x).clash = cf ∧ t.mem = s.mem ∧ t.syncs = s.syncs ∧
        ((s.unit x).cnt.length = 8 → (t.unit x).cnt.getD 4 0 = satAdd ((s.unit x).cnt.getD 4 0) (b2n (cf && !(s.engAt x).clash)))))) ∧
  (
    ∀ (die : Fin 24) (m : Fin 4) (j : Job) (c : Cmd) (k : MxeCtx) (g : MxeTile) (s : State),
      let x := mxeAddr die m
      let w := whoOf x j
      let e := s.engAt x
      let is (q : WBlock) : Bool := q.tag == c.tag && q.tile == (s.unit x).fired && q.pass == g.pass
      let long := flagIf (!psumExact k.b && decide (2 ^ 20 ≤ g.pass0 + g.pass)) fLONGK
      let fresh := g.pass == 0 && !(accShared k.b && shareRank k.b != 0)
      Commanded s x j c → mxeCtx j c (s.unit x) = some k → s.tile x = some g → g.pass < g.passes → g.due = none → g.row < k.dec.rows →
      ((s.decAt x).live = true → exec (.mxeCommand die m 1) s = .next s) ∧
      ((s.decAt x).live = false → g.row % 128 = 0 → 8 ≤ g.file.length → exec (.mxeCommand die m 1) s = .next (s.fileFull x k.dec)) ∧
      ((s.decAt x).live = false → (g.row % 128 ≠ 0 ∨ g.file.length < 8) → ∀ q s1,
      (e.cur.filter is = some q ∧ s1 = s ∨
        e.cur.filter is = none ∧ e.other.filter is = some q ∧ s1 = (s.setEng x { e with cur := some q, other := none }).beginPass x k.blk q long ∨
        e.cur.filter is = none ∧ e.other.filter is = none ∧ s.loadBlock w k.blk (s.unit x) c.tag g.pass = .ok q ∧
          s1 = (s.setEng x { e with cur := some q, other := none }).beginPass x k.blk q long) →
      (∀ cz a d p, e.cur.filter is = some q → s.passRow w k (s.unit x) q fresh g.row = .bad cz a d p →
        exec (.mxeCommand die m 1) s = .next (s.streamFault w cz a d p 0)) ∧
      (∀ o, s1.passRow w k (s1.unit x) q fresh g.row = .ok o →
        let h := g.enter e.turn o.accs (if g.finishing then rowEmax k (s1.unit x) g.row o.accs else none)
        (g.finishing = true → g.row + 1 < k.dec.rows → ∃ t, exec (.mxeCommand die m 1) s = .next t ∧ t.tile x = some h ∧ (t.engAt x).cur = some q ∧
          ((s1.unit x).cnt.length = 8 → (t.unit x).cnt.getD 0 0 = satAdd ((s1.unit x).cnt.getD 0 0) o.macs ∧
            (t.unit x).cnt.getD 1 0 = satAdd ((s1.unit x).cnt.getD 1 0) (b2n o.skipped)) ∧
          t.mem = s.mem ∧ t.syncs = s.syncs ∧ t.queues = s.queues ∧ t.jobs = s.jobs ∧ t.dec = s.dec) ∧
        (g.finishing = true → g.row + 1 = k.dec.rows → ∃ t, exec (.mxeCommand die m 1) s = .next t ∧ t.tile x = some { h with pass := g.pass + 1 } ∧
          ((s1.unit x).cnt.length = 8 → (t.unit x).cnt.getD 3 0 = satAdd ((s1.unit x).cnt.getD 3 0) 1) ∧
          t.mem = s.mem ∧ t.syncs = s.syncs ∧ t.queues = s.queues ∧ t.dec = s.dec) ∧
        (g.finishing = false → h.due = some (g.row, o.accs) → (h.rowOut k.dec.rows g.row).due = none →
          let s2 := s.mxeEnter x j c k
          ∀ z, s2.writeBackRow w k (s2.unit x) h g.row o.accs = .ok z → ∃ t, exec (.mxeCommand die m 1) s = .next t ∧ t.mem = z.1.mem ∧
            (g.row + 1 < k.dec.rows → t.tile x = some (h.rowOut k.dec.rows g.row) ∧ t.syncs = s.syncs ∧ t.queues = s.queues) ∧
            (g.row + 1 = k.dec.rows → g.pass + 1 < g.passes → t.tile x = some { h.rowOut k.dec.rows g.row with pass := g.pass + 1, row := 0 }) ∧
            (g.row + 1 = k.dec.rows → g.pass + 1 = g.passes → t.tile x = none ∧ (t.unit x).prog = 0))))) ∧
  (
    ∀ (die : Fin 24) (m : Fin 4) (j : Job) (c : Cmd) (k : DecCtx) (b : PortBind) (q : Nat) (tok : Token) (s : State),
      let x := mxeAddr die m
      Commanded s x j c → decCtx j c (s.unit x) = some k → streamPort c = some b → s.headTok x b.port.val = some (q, tok) →
      (s.clockGated x j c = true → exec (.mxeDrain die m) s = .next s) ∧
      (s.clockGated x j c = false →
      (tok.epoch ≠ (s.unit x).epoch.toNat → exec (.mxeDrain die m) s = .next (s.discardHead x q)) ∧
      (tok.epoch = (s.unit x).epoch.toNat → tok.kind ≠ 2 → exec (.mxeDrain die m) s = .next s) ∧
      (tok.epoch = (s.unit x).epoch.toNat → tok.kind = 2 → (s.decAt x).idle = true → s.nextRow x = none →
        (s.tile x = none → (s.unit x).prog ≠ 0 → exec (.mxeDrain die m) s = .next s) ∧
        ((s.tile x = none ∧ (s.unit x).prog = 0 ∨ ∃ g, s.tile x = some g ∧ g.pass < g.passes) →
          ∀ w, s.noCredit x (drainPorts c) = some w → exec (.mxeDrain die m) s = .next (s.setWait x w)) ∧
        (s.tile x = none → (s.unit x).prog = 0 → s.noCredit x (drainPorts c) = none →
          ∃ t, exec (.mxeDrain die m) s = .next t ∧ (t.queue q).head = ((s.queue q).head + 1) % (s.queue q).depth ∧ t.mem = s.mem ∧
            t.syncs = s.syncs ∧ t.jobs = s.jobs ∧ t.mxe = s.mxe) ∧
        (∀ g, s.tile x = some g → g.pass < g.passes → s.noCredit x (drainPorts c) = none → ((s.liveDecant x tok.tag).decAt x).live = true →
          let s1 := s.liveDecant x tok.tag
          s1.tile x = some g ∧ s1.mem = s.mem ∧ s1.queues = s.queues ∧
            exec (.mxeDrain die m) s = .next (((s1.popQueue q).setDec x { s1.decAt x with drain := some tok }).decantTile x j c k)))))

/-- Decant takes the next row of a tile (R204, R209) once the tile has its credits (R215): memory becomes what storing the row's element bytes at
the descriptor's addresses in the tile's order makes it. Without a valid OUT_TD the row is taken and nothing stored. Without a credit the row is
held. A fused operand's token of another tag ends the job with TAG_MISMATCH (R207). A complete tile is handed on (R212, R213, R218): its MX
blocks and its bits of the zero-group map are stored, Decant is free and the iteration's work is done. A DRAIN behind it that has no credit waits
for one. A live Decant leaves the tile to the engine, which goes on (R190). -/
def Obligations.decant_rows_and_tiles : Prop :=
  (
    ∀ (x : UnitId) (j : Job) (c : Cmd) (k : DecCtx) (r : DecRow) (s : State), Commanded s x.addr j c →
      decCtx j c (s.unit x.addr) = some k → s.nextRow x.addr = some r →
      ((s.decAt x.addr).ready = true → exec (.decantRow x) s = .next s) ∧
      ((s.decAt x.addr).ready = false →
      (∀ wt, (s.decAt x.addr).paid = false → s.noCredit x.addr (donePorts k) = some wt →
        ∃ t, exec (.decantRow x) s = .next t ∧ t.dec = s.dec ∧ t.mxe = s.mxe ∧ t.mem = s.mem ∧ t.queues = s.queues ∧ t.syncs = s.syncs) ∧
      ((s.decAt x.addr).paid = true ∨ s.noCredit x.addr (donePorts k) = none →
      let s0 := s.payTile x.addr k
      (k.out = none → ∃ t, exec (.decantRow x) s = .next t ∧ (t.decAt x.addr).stored = (s.decAt x.addr).stored + 1 ∧ t.mem = s.mem ∧
        t.syncs = s.syncs ∧ t.queues = s.queues) ∧
      (∀ v tok, k.out = some v → s0.fuseToken x.addr k = .got tok → tok.tag ≠ s0.tileTag x.addr r →
        exec (.decantRow x) s = .next (s0.jobFault j.jid 0x12 3 x.addr false 0 0)) ∧
      (∀ v es s1, k.out = some v → s0.fuseToken x.addr k = .none → (s.decAt x.addr).mx = [] → v.fmt.isMx = false →
        s0.decRowOut (whoOf x.addr j) k v (if fuseOp k.dec = 0 then none else viewOf j.bin c (s0.unit x.addr) (fuseTd k.dec)) r.row
          (rowCells j c (s0.unit x.addr) k r) = .ok es →
        (let l : List (List Int × MStores) := es.zipIdx.filterMap fun p => p.1.elem.map fun e =>
          (e.idx, (elemBytes v k (s0.ftqBuf x.addr k) e r.row p.2).1)
        s0.storeView (whoOf x.addr j) v (if placeInOrder k.dec then l.flatMap (·.2) else ((s0.decAt x.addr).wrote.order l).2)) = .ok s1 →
        ∃ t, exec (.decantRow x) s = .next t ∧ t.mem = s1.mem ∧ (t.decAt x.addr).stored = (s.decAt x.addr).stored + 1 ∧
          ((s.decAt x.addr).live = false → (t.decAt x.addr).ready = decide (k.rows ≤ (s.decAt x.addr).stored + 1)) ∧
          t.syncs = s.syncs ∧ t.queues = s.queues ∧ t.jobs = s.jobs)))) ∧
  (
    ∀ (x : UnitId) (j : Job) (c : Cmd) (k : DecCtx) (s : State), Commanded s x.addr j c → decCtx j c (s.unit x.addr) = some k →
      ((s.decAt x.addr).ready = false → exec (.tileComplete x) s = .next s) ∧
      ((s.decAt x.addr).ready = true →
      let ports := if (s.decAt x.addr).drain.isSome then drainPorts c else []
      (∀ w, s.noCredit x.addr ports = some w → ∃ t, exec (.tileComplete x) s = .next t ∧ (t.unit x.addr).wait = w ∧ t.dec = s.dec ∧
        t.mxe = s.mxe ∧ t.mem = s.mem) ∧
      (s.noCredit x.addr ports = none → (s.decAt x.addr).live = false → k.out = none → donePorts k = [] →
        ∃ t, exec (.tileComplete x) s = .next t ∧ t.decAt x.addr = .reset ∧ (t.unit x.addr).prog = 0 ∧ t.mem = s.mem ∧
          ((s.unit x.addr).sigOwed = false → t.mxe = s.mxe)) ∧
      (∀ v s1 s2 p, s.noCredit x.addr ports = none → k.out = some v → s.storeMx x.addr (whoOf x.addr j) v = .ok s1 →
        s1.storeMasked (whoOf x.addr j) (zgStores (zgBase k.dec) (if zgEn k.dec then zgBits v (s1.decAt x.addr).groups else [])) = .ok s2 →
        (if (donePorts k).isEmpty then .ok 0 else s2.tileRef (whoOf x.addr j) k (s1.decAt x.addr)) = .ok p →
        ((s.decAt x.addr).live = false →
          ∃ t, exec (.tileComplete x) s = .next t ∧ t.decAt x.addr = .reset ∧ (t.unit x.addr).prog = 0 ∧ t.mem = s2.mem ∧
            ((s.unit x.addr).sigOwed = false → t.mxe = s.mxe)) ∧
        ((s.decAt x.addr).live = true → (s1.decAt x.addr).live = true → (s1.decAt x.addr).asked = [] →
          ∃ t, exec (.tileComplete x) s = .next t ∧ t.decAt x.addr = { DecSt.reset with fuse := (s1.decAt x.addr).fuse } ∧ t.mem = s2.mem ∧
            t.mxe = s.mxe ∧ (t.unit x.addr).prog = (s.unit x.addr).prog))))

/-- FADD, FSUB, FMUL, FMAX and FMIN, on FP32 lanes or on pairs of BF16 (R226): every lane of the destination is the operation of the two source
lanes after their sign modifiers, rounded once; a lane is VALID when both sources are (R221) and keeps its own flags (R137). FMA and its packed
form (R226): a × b + c of every lane with one rounding, c in the register the last field names. -/
def Obligations.vector_arithmetic : Prop :=
  (
    ∀ (v : VxId) (w : VOps) (k : VCtx) (s : State),
      (∀ e ∈ ([(Instr.fadd, 1, fun m => fpOp fp32 m Val.add), (Instr.fsub, 2, fun m => fpOp fp32 m Val.sub), (Instr.fmul, 3, fun m => fpOp fp32 m Val.mul),
          (Instr.fmax, 5, fun _ => fpPick fp32 true), (Instr.fmin, 6, fun _ => fpPick fp32 false)] :
          List ((VxId → VOps → Instr) × Nat × (RMode → Nat → Nat → Nat × U16))),
        VxReady s v e.2.1 w k → ∃ t, exec (e.1 v w) s = .next t ∧
          VxPut s t k w.dst 0 (lanes2 (withMods 31 w.m (e.2.2 k.mode)) (s.vget k w.a) (s.vget k w.b))) ∧
      (∀ e ∈ ([(Instr.faddPk, 129, fun m => fpOp bf16 m Val.add), (Instr.fsubPk, 130, fun m => fpOp bf16 m Val.sub), (Instr.fmulPk, 131, fun m => fpOp bf16 m Val.mul),
          (Instr.fmaxPk, 133, fun _ => fpPick bf16 true), (Instr.fminPk, 134, fun _ => fpPick bf16 false)] :
          List ((VxId → VOps → Instr) × Nat × (RMode → Nat → Nat → Nat × U16))),
        VxReady s v e.2.1 w k → ∃ t, exec (e.1 v w) s = .next t ∧
          VxPut s t k w.dst 0 (lanes2 (packed2 (withMods 15 w.m (e.2.2 k.mode))) (s.vget k w.a) (s.vget k w.b)))) ∧
  (
    ∀ (v : VxId) (w : VOps) (k : VCtx) (s : State),
      (VxReady s v 4 w k → ∃ t, exec (.fma v w) s = .next t ∧
        VxPut s t k w.dst 0 (lanes3 (fpFma fp32 k.mode) (s.vget k w.a) (s.vget k w.b) (s.vget k w.m))) ∧
      (VxReady s v 132 w k → ∃ t, exec (.fmaPk v w) s = .next t ∧
        VxPut s t k w.dst 0 (lanes3 (packed3 (fpFma bf16 k.mode)) (s.vget k w.a) (s.vget k w.b) (s.vget k w.m))))

/-- The elementary functions (R227): every lane of the destination is the function's value; the special values are those of the table, other
values are free within their bounds (R143). CVT (R229, R230): every lane of the destination is the conversion of the source lane under the
instruction's rounding; a conversion under SR is counted for the next ones of the row group. -/
def Obligations.vector_conversion_and_functions : Prop :=
  (
    ∀ (v : VxId) (w : VOps) (k : VCtx) (s : State),
      ∀ e ∈ ([(Instr.exp2, 16, 0), (Instr.log2, 17, 1), (Instr.rcp, 18, 2), (Instr.rsqrt, 19, 3), (Instr.tanh, 20, 4), (Instr.sin, 21, 5),
          (Instr.cos, 22, 6)] : List ((VxId → VOps → Instr) × Nat × Nat)),
        VxReady s v e.2.1 w k → ∃ t, exec (e.1 v w) s = .next t ∧
          VxPut s t k w.dst 0 (lanes1 (fun a => elemFn e.2.2 (signMod 31 (bit w.m 0) (bit w.m 1) a)) (s.vget k w.a))) ∧
  (
    ∀ (v : VxId) (w : VOps) (k : VCtx) (s : State), VxReady s v 40 w k → bits w.m 0 2 ≠ 3 →
      ∃ t r, exec (.cvt v w) s = .next t ∧ VxPut s t k w.dst (if bits w.m 0 2 = 2 then 1 else 0) r ∧
        ∀ (l : Nat) (a b : Lane), (s.vget k w.a)[l]? = some a → (s.vget k w.b)[l]? = some b →
          let mode := s.cvtMode k (bits w.m 0 2) (k.vx.srCount + 1) l
          (bits w.m 2 4 ≠ 13 → r.1[l]? = some { bits := BitVec.ofNat 32 (cvtLane (bits w.m 2 4) mode (bit w.b 0) a.bits.toNat).1, valid := a.valid } ∧
            r.2[l]? = some (if a.valid then (cvtLane (bits w.m 2 4) mode (bit w.b 0) a.bits.toNat).2 else 0)) ∧
          (bits w.m 2 4 = 13 → r.1[l]? = some { bits := BitVec.ofNat 32 (packBf16 mode a.bits.toNat b.bits.toNat).1, valid := a.valid && b.valid } ∧
            r.2[l]? = some (if a.valid && b.valid then (packBf16 mode a.bits.toNat b.bits.toNat).2 else 0)))

/-- CMP writes one mask register, a bit for each lane: the comparison, 0 where an operand is padding (R228). SEL takes each lane whole from the
source its mask bit selects (R228). AND, OR, XOR, SHL and SHR (R231): the bits of every lane; a shift takes its count from the last field or from
the low five bits of the second source's lane. No flag is raised. -/
def Obligations.vector_logic : Prop :=
  (
    ∀ (v : VxId) (w : VOps) (k : VCtx) (s : State),
      (VxReady s v 32 w k → bits w.m 3 2 ≠ 3 → (s.vget k w.a).length = 256 → (s.vget k w.b).length = 256 → ∃ t fs, exec (.cmp v w) s = .next t ∧
        (∀ l < 256, ∀ a b, (s.vget k w.a)[l]? = some a → (s.vget k w.b)[l]? = some b →
          (t.vmaskAt (8 * k.x + bits w.dst 0 3)).getLsbD l =
            (a.valid && b.valid && (cmpLane (bits w.m 3 2) (bits w.m 0 3) a.bits.toNat b.bits.toNat).1) ∧
          fs[l]? = some (if a.valid && b.valid then (cmpLane (bits w.m 3 2) (bits w.m 0 3) a.bits.toNat b.bits.toNat).2 else 0)) ∧
        fs.length = 256 ∧ LanesFlagged s t k.x fs ∧
        (∀ i, i ≠ 8 * k.x + bits w.dst 0 3 → t.vmaskAt i = s.vmaskAt i) ∧ t.vregs = s.vregs ∧ t.dec = s.dec ∧ VxStepped s t k 0) ∧
      (VxReady s v 33 w k → ∃ t r, exec (.sel v w) s = .next t ∧ VxPut s t k w.dst 0 (r, []) ∧
        ∀ (l : Nat) (a b : Lane), (s.vget k w.a)[l]? = some a → (s.vget k w.b)[l]? = some b →
          r[l]? = some (if (s.vmaskAt (8 * k.x + bits w.m 0 3)).getLsbD l then a else b))) ∧
  (
    ∀ (v : VxId) (w : VOps) (k : VCtx) (s : State),
      (∀ e ∈ ([(Instr.and, 48, fun a b => a &&& b), (Instr.or, 49, fun a b => a ||| b), (Instr.xor, 50, fun a b => a ^^^ b)] :
          List ((VxId → VOps → Instr) × Nat × (U32 → U32 → U32))),
        VxReady s v e.2.1 w k → ∃ t r fs, exec (e.1 v w) s = .next t ∧ VxPut s t k w.dst 0 (r, fs) ∧ (∀ f ∈ fs, f = 0) ∧
          ∀ (l : Nat) (a b : Lane), (s.vget k w.a)[l]? = some a → (s.vget k w.b)[l]? = some b →
            r[l]? = some { bits := e.2.2 a.bits b.bits, valid := a.valid && b.valid }) ∧
      (∀ e ∈ ([(Instr.shl, 51, fun a n => a <<< n), (Instr.shr, 52, fun a n => a >>> n)] : List ((VxId → VOps → Instr) × Nat × (U32 → Nat → U32))),
        VxReady s v e.2.1 w k → ∃ t r fs, exec (e.1 v w) s = .next t ∧ VxPut s t k w.dst 0 (r, fs) ∧ (∀ f ∈ fs, f = 0) ∧
          ∀ (l : Nat) (a b : Lane), (s.vget k w.a)[l]? = some a → (s.vget k w.b)[l]? = some b →
            r[l]? = some (if w.m.getLsbD 5 then { bits := e.2.2 a.bits (w.m.toNat % 32), valid := a.valid }
              else { bits := e.2.2 a.bits (b.bits.toNat % 32), valid := a.valid && b.valid })))

/-- POP loads a row of the tile into a register, of the FTQ or of a port (R219, R223), clamped accesses of the row being flagged (R156); an
access that faults leaves the instruction to be issued again (R235). PUSH gives a row with its write mask to Decant, or an inline token to a port
(R219, R223); without the credit it needs the engine waits (R215, R47). LRED reduces the lanes of each segment (R232). An instruction that is not
the recipe's next one, or comes with no tile in progress, is not issued and changes nothing (R224, R233). -/
def Obligations.vector_pop_push_reduce : Prop :=
  (
    ∀ (v : VxId) (w : VOps) (k : VCtx) (s : State), VxReady s v 56 w k →
      let row := k.vx.base + bits w.m 0 3
      let got := if bits w.a 0 4 = 8 then s.popFtq k row else s.popPort k (bits w.a 0 4) row
      (∀ r, got = .ok r → ∃ t, exec (.pop v w) s = .next t ∧
        t.vreg k.x w.dst.toNat = (if w.dst = 54 ∨ w.dst = 55 then s.vreg k.x w.dst.toNat else laneReg r.1) ∧
        (∀ y q, q < 64 → (y ≠ k.x ∨ q ≠ w.dst.toNat) → t.vreg y q = s.vreg y q) ∧
        (t.unit k.x).lanes = orList (s.unit k.x).lanes ((laneFlags r.1).map fun f => f &&& 0x3F) ∧
        (t.unit k.x).flags = (s.unit k.x).flags ||| ((laneFlags r.1).foldl (fun f k => f ||| k) 0 &&& 0xFFC0) ||| flagIf (r.2 != 0) fOOA ∧
        t.vmask = s.vmask ∧ t.dec = s.dec ∧ t.queues = s.queues ∧ t.mem = s.mem ∧ t.syncs = s.syncs ∧ t.jobs = s.jobs ∧
        (t.vxAt k.x).pos = (if k.vx.pos + 1 < k.len then k.vx.pos + 1 else 0) ∧
        (t.vxAt k.x).base = (if k.vx.pos + 1 < k.len then k.vx.base else k.vx.base + k.group) ∧
        (bits w.a 0 4 ≠ 8 → VxStepped s t k 0)) ∧
      (∀ cz a d p, got = .bad cz a d p → exec (.pop v w) s = .next (s.streamFault (whoOf k.x k.j) cz a d p 0))) ∧
  (
    ∀ (v : VxId) (w : VOps) (k : VCtx) (s : State),
      (VxReady s v 57 w k → w.dst.getLsbD 3 = false → s.decantFull k = none → ∃ t, exec (.push v w) s = .next t ∧ VxStepped s t k 0 ∧
        t.vregs = s.vregs ∧ t.vmask = s.vmask ∧ t.queues = s.queues ∧
        (t.decAt k.x).rows = (s.decAt k.x).rows ++ [{
          row := k.vx.base + bits w.m 3 3, lanes := s.vget k w.a, accs := [],
          mask := s.vmaskAt (8 * k.x + bits w.m 0 3), tag := (s.unit k.x).tag }]) ∧
      (∀ wt, VxReady s v 57 w k → w.dst.getLsbD 3 = false → s.decantFull k = some wt → exec (.push v w) s = .next (s.setWait k.x wt)) ∧
      (VxReady s v 57 w k → w.dst.getLsbD 3 = true → s.noCredit k.x [bits w.dst 0 3] = none → ∃ t, exec (.push v w) s = .next t ∧
        VxStepped s t k 0 ∧ t.vregs = s.vregs ∧ t.vmask = s.vmask ∧ t.dec = s.dec ∧
        (t.unit k.x).ocredit = modAt (s.unit k.x).ocredit (bits w.dst 0 3) (fun c => c - 1)) ∧
      (∀ wt, VxReady s v 57 w k → w.dst.getLsbD 3 = true → s.noCredit k.x [bits w.dst 0 3] = some wt → exec (.push v w) s = .next (s.setWait k.x wt)) ∧
      (VxReady s v 60 w k → bits w.m 0 3 < 6 → bits w.m 3 3 < 6 → ∃ t, exec (.lred v w) s = .next t ∧
        VxPut s t k w.dst 0 (laneReg (lredAll (bits w.m 0 3) (bits w.m 3 3) (s.vmaskAt (8 * k.x + bits w.b 0 3)) (s.vget k w.a)),
          laneFlags (lredAll (bits w.m 0 3) (bits w.m 3 3) (s.vmaskAt (8 * k.x + bits w.b 0 3)) (s.vget k w.a))))) ∧
  (
    ∀ (v : VxId) (w : VOps) (j : Job) (c : Cmd) (body : BitVec 512) (dec : BitVec 256) (bind : VxeBind) (s : State),
      Commanded s v.addr j c → c.body = .vxe body dec bind →
      ∀ e ∈ ([(Instr.fadd, 1), (Instr.fsub, 2), (Instr.fmul, 3), (Instr.fma, 4), (Instr.fmax, 5), (Instr.fmin, 6), (Instr.faddPk, 129),
          (Instr.fsubPk, 130), (Instr.fmulPk, 131), (Instr.fmaPk, 132), (Instr.fmaxPk, 133), (Instr.fminPk, 134), (Instr.exp2, 16), (Instr.log2, 17),
          (Instr.rcp, 18), (Instr.rsqrt, 19), (Instr.tanh, 20), (Instr.sin, 21), (Instr.cos, 22), (Instr.cmp, 32), (Instr.sel, 33), (Instr.cvt, 40),
          (Instr.and, 48), (Instr.or, 49), (Instr.xor, 50), (Instr.shl, 51), (Instr.shr, 52), (Instr.pop, 56), (Instr.push, 57), (Instr.lred, 60)] :
          List ((VxId → VOps → Instr) × Nat)),
        ((s.unit v.addr).prog = 0 ∨ bits body 176 6 + 1 ≤ (s.vxAt v.addr).base ∨ bits body 160 11 ≤ (s.vxAt v.addr).pos ∨
          (s.recipe v.addr)[bits body 144 10 + (s.vxAt v.addr).pos]? ≠ some (vxWord e.2 w)) →
        exec (e.1 v w) s = .next s)

/-- The nine reductions (R238 to R243): every position of the iteration's box is read (R158), those inside the extent are taken into the open
results, those complete are written through the descriptors, and the iteration's work is done. A read that faults leaves the results as they
were. Before an iteration has fired, or under a command of another operation, nothing happens. -/
def Obligations.reductions : Prop :=
  ∀ (die : Fin 24) (j : Job) (c : Cmd) (b : BitVec 128) (bind : RxeBind) (v0 : View) (s : State),
    let x := die.val * 16 + 8
    let u := s.unit x
    let w := whoOf x j
    let tok := if rxeSrcPort b then u.refTok 0 else none
    let v := match tok with | some t => v0.byRef t [] | none => v0
    let org := originOf u bind.org
    let box := boxIdx org ((List.range 6).map fun d => bind.size.getD d 1)
    ∀ e ∈ ([(Instr.rxeSum, 0), (Instr.rxeSumsq, 1), (Instr.rxeNorm2, 2), (Instr.rxeMean, 3), (Instr.rxeMax, 4), (Instr.rxeMin, 5),
        (Instr.rxeArgmax, 6), (Instr.rxeArgmin, 7), (Instr.rxeTopk, 8)] : List ((Fin 24 → Instr) × Nat)),
      Commanded s x j c → c.body = .rxe b bind →
      (rxeOp b ≠ e.2 ∨ u.prog = 0 → exec (e.1 die) s = .next s) ∧
      (rxeOp b = e.2 → u.prog ≠ 0 → viewOf j.bin c u (rxeIn b) = some v0 →
      (∀ cz a d p, s.rxeRead w v (rxeAdmits b tok org) box = .bad cz a d p → exec (e.1 die) s = .next (s.streamFault w cz a d p 0)) ∧
      (∀ es, s.rxeRead w v (rxeAdmits b tok org) box = .ok es →
        let ins := es.filter fun e => v.inside e.idx
        let new := ins.foldl (fun l e => accPut l (redKey b e.idx) fun a => a.take b (redPos b v0.ext e.idx) (if e.take then some (v.value e.rd) else none))
          (s.rxeAt die.val)
        ∀ s1, s.writeResults x j c b (dueResults b v0 u (s.rxeAt die.val) new) = .ok s1 →
          ∃ t, exec (e.1 die) s = .next t ∧ t.mem = s1.mem ∧ t.rxeAt die.val = (if u.done || u.sigOwed then [] else new) ∧ (t.unit x).prog = 0))

/-- GATHER and SCATTER_ADD between their steps (R212, R269, R277): a destination tile whose rows are done is ended, once its reference has a
credit; without one the engine waits; after the last row the engine's position starts again and the iteration's work is done. GATHER gathers the
next row (R269) and SCATTER_ADD takes its next step: begins a destination, adds a message row or stores the destination (R270). Memory is what
the row's stores leave, the counters step (R278); an access that faults leaves the step untaken (R277). After the step comes what stands between
rows. ROUTE takes the tokens in ascending order (R273): one more token is routed and its entries written; after the last token of all the
unfilled slots, the loads and the masks are written (R274); a reference's tile routed whole completes its iteration, the fills lasting for the
command (R275); the references of the slots' tiles go out with their credits (R267). An access that faults leaves the token unrouted (R277). -/
def Obligations.gather_scatter_route : Prop :=
  (
    ∀ (die : Fin 24) (k : GCtx) (n total : Nat) (dst : View) (i : Instr) (s : State),
      ((∃ src idx, GseReady s die 0 k ∧ k.view 0 = some src ∧ k.view 2 = some idx ∧ total = k.count ∧ i = .gather die n) ∨
        (∃ src ptr, GseReady s die 1 k ∧ k.view 0 = some src ∧ k.view 3 = some ptr ∧ k.nodes dst ptr = (total, false) ∧ i = .scatterAdd die n)) →
      k.dst = some dst →
      let g := s.gseAt die.val
      (g.unsent = false → total ≤ g.row →
        ∃ t, exec i s = .next t ∧ t.gseAt die.val = .reset ∧ (t.unit k.x).prog = 0 ∧ t.mem = s.mem) ∧
      (g.unsent = true → (g.row % gseRows k.b = 0 ∨ total ≤ g.row) →
        (∀ w, gseOutEn k.b = true → s.noCredit k.x [gseOutPort k.b] = some w → exec i s = .next (s.setWait k.x w)) ∧
        (∀ s1, (gseOutEn k.b = true → s.noCredit k.x [gseOutPort k.b] = none) →
          s.gseTile k dst ((g.row - 1) / gseRows k.b * gseRows k.b) g.row = .ok s1 → total ≤ g.row →
          ∃ t, exec i s = .next t ∧ t.gseAt die.val = .reset ∧ (t.unit k.x).prog = 0 ∧ t.mem = s1.mem))) ∧
  (
    ∀ (die : Fin 24) (k : GCtx) (s : State),
      let g := s.gseAt die.val
      (∀ src dst idx, GseReady s die 0 k → k.view 0 = some src → k.dst = some dst → k.view 2 = some idx → g.row < k.count →
        (g.unsent = false ∨ g.row % gseRows k.b ≠ 0) →
        (∀ cz a d p, s.gatherRow k src dst idx g.row = .bad cz a d p → exec (.gather die 1) s = .next (s.streamFault k.w cz a d p 0)) ∧
        (∀ o, s.gatherRow k src dst idx g.row = .ok o →
          (exec (.gather die 1) s = .next (((State.gseCommit k o).gseBetween k dst k.count).1.accessed k.w.die)) ∧
          (g.row + 1 < k.count → (g.row + 1) % gseRows k.b ≠ 0 → ∃ t, exec (.gather die 1) s = .next t ∧ t.mem = o.s.mem ∧
            (t.gseAt die.val).row = g.row + 1 ∧ (t.unit k.x).prog = (s.unit k.x).prog ∧ t.queues = s.queues ∧ t.syncs = s.syncs ∧
            ((s.unit k.x).cnt.length = 8 → (t.unit k.x).cnt.getD 4 0 = satAdd ((s.unit k.x).cnt.getD 4 0) 1)))) ∧
      (∀ src dst ptr, GseReady s die 1 k → k.view 0 = some src → k.dst = some dst → k.view 3 = some ptr →
        let total := (k.nodes dst ptr).1
        let s0 := if (k.nodes dst ptr).2 then s.orUnitFlags k.x fBC else s
        g.row < total → (g.unsent = false ∨ g.row % gseRows k.b ≠ 0) →
        (∀ cz a d p, s0.scatterStep k src dst ptr g.row = .bad cz a d p → exec (.scatterAdd die 1) s = .next (s0.streamFault k.w cz a d p 0)) ∧
        (∀ o, s0.scatterStep k src dst ptr g.row = .ok o →
          (exec (.scatterAdd die 1) s = .next (((State.gseCommit k o).gseBetween k dst total).1.accessed k.w.die)) ∧
          (∀ acc, g.acc = some acc → g.edge < g.last → g.unsent = false → ∃ t, exec (.scatterAdd die 1) s = .next t ∧ t.mem = s.mem ∧
            (t.gseAt die.val).edge = g.edge + 1 ∧ (t.gseAt die.val).row = g.row ∧ t.queues = s.queues ∧ t.syncs = s.syncs)))) ∧
  (
    ∀ (die : Fin 24) (k : GCtx) (v0 : View) (s : State), GseReady s die 2 k → k.view 0 = some v0 →
      let g := s.gseAt die.val
      let s0 := if g.fill.isEmpty then
        s.setGse die.val { g with fill := List.replicate (gseExperts k.b) 0, demand := List.replicate (gseExperts k.b) 0 } else s
      let tok := (k.u.inTok.find? fun e => e.2.isRef).map (·.2)
      let src := match tok with
        | some t => v0.byRef t (setAt (List.replicate 6 0) (gseDim k.b) ((g.row / gseRows k.b * gseRows k.b : Nat) : Int)) | none => v0
      let stop := k.routeStop tok g.row
      (g.row < k.count → g.row < stop →
        (∀ cz a d p, s0.routeRow k src tok g.row = .bad cz a d p → exec (.route die 1) s = .next (s0.streamFault k.w cz a d p 0)) ∧
        (∀ o, s0.routeRow k src tok g.row = .ok o → g.row + 1 < stop → ∃ t, exec (.route die 1) s = .next t ∧ t.mem = o.s.mem ∧
          (t.gseAt die.val).row = g.row + 1 ∧ (t.gseAt die.val).fill = (o.s.gseAt die.val).fill ∧ (t.unit k.x).prog = (s.unit k.x).prog ∧
          t.queues = s.queues ∧ t.syncs = s.syncs) ∧
        (∀ o, s0.routeRow k src tok g.row = .ok o → g.row + 1 = stop → stop < k.count → (s.unit k.x).sigOwed = false →
          ∃ t, exec (.route die 1) s = .next t ∧ t.mem = o.s.mem ∧ (t.gseAt die.val).row = g.row + 1 ∧
            (t.gseAt die.val).fill = (o.s.gseAt die.val).fill ∧ (t.unit k.x).prog = 0)) ∧
      (∀ o n, g.row = k.count → s0.routeEnd k = .ok o → gseOutEn k.b = false → (s.unit k.x).sigOwed = false →
        ∃ t, exec (.route die n) s = .next t ∧ t.mem = o.s.mem ∧ (t.unit k.x).prog = 0 ∧ (t.gseAt die.val).row = k.count + 1) ∧
      (∀ n, k.count < g.row → gseOutEn k.b = false → (s.unit k.x).sigOwed = false →
        ∃ t, exec (.route die n) s = .next t ∧ t.mem = s.mem ∧ (t.unit k.x).prog = 0) ∧
      (∀ n v w, k.count < g.row → gseOutEn k.b = true → k.dst = some v → g.row - k.count - 1 < ceilDiv (v.extent (gseDim k.b)) (gseRows k.b) →
        s0.noCredit k.x [gseOutPort k.b] = some w → exec (.route die n) s = .next (s0.setWait k.x w)))

/-- The movers (R164, R396, R436): a DMA engine moves the 64-byte words asked for of what is left of its region, the layout mover its tile,
element by element; memory is what the moves left, and with all of them moved the work is done. While lent jobs' transfers pause (R474), or a
String Dump holds DMX1 (R467), nothing moves. -/
def Obligations.movers : Prop :=
  ∀ (die : Fin 24) (e : Fin 2) (words : Nat) (j : Job) (c : Cmd) (src dst : Nat) (sr dr : Region) (pass : BitVec 20) (sv dv : View) (s : State),
    (∀ o ∈ c.outs, o.ref = none) →
    (let x := die.val * 16 + 12 + e.val
     let n := (s.unit x).prog - 1
     let ps := regionPairs sr dr
     let stop := wordsMoved sv.width ps.length n words
     let r := s.moveFrom x (whoOf x j) sv dv (fun i q => rawConv s sv dv (i - n) q) 2 1 n ((ps.take stop).drop n)
     Commanded s x j c → c.body = .dmx src dst sr dr →
     ((s.unit x).prog = 0 ∨ (e = 1 ∧ s.dumpHolds = true) ∨ (1 ≤ s.pwr.eff ∧ j.guaranteed = false) →
       exec (.dmaTransfer die e words) s = .next s) ∧
     ((s.unit x).prog ≠ 0 → (e = 0 ∨ s.dumpHolds = false) → (s.pwr.eff = 0 ∨ j.guaranteed = true) → viewOf j.bin c (s.unit x) src = some sv →
       viewOf j.bin c (s.unit x) dst = some dv →
       (r.2 = true → ps.length ≤ stop → ∃ t, exec (.dmaTransfer die e words) s = .next t ∧ t.mem = r.1.mem ∧ (t.unit x).prog = 0) ∧
       (r.2 = true → stop < ps.length → ∃ t, exec (.dmaTransfer die e words) s = .next t ∧ t.mem = r.1.mem ∧ (t.unit x).prog = max n stop + 1 ∧
         t.queues = s.queues ∧ t.syncs = s.syncs) ∧
       (r.2 = false → ∃ t, exec (.dmaTransfer die e words) s = .next t ∧ t.mem = r.1.mem))) ∧
    (let x := die.val * 16 + 9
     let n := (s.unit x).prog - 1
     let cols := dr.ext.getD 0 1
     let tile := dv.tile dr.ext dr.org
     let ps := regionPairs sr dr
     let r := s.moveFrom x (whoOf x j) sv dv (fun i q => lmvConv j pass.toNat sv dv tile cols i q) 2 cols n (ps.drop n)
     Commanded s x j c → c.body = .lmv src dst sr dr pass →
     ((s.unit x).prog = 0 → exec (.lmvCopy die) s = .next s) ∧
     ((s.unit x).prog ≠ 0 → viewOf j.bin c (s.unit x) src = some sv → viewOf j.bin c (s.unit x) dst = some dv →
       (dv.fmt.isMx = false → r.2 = true → ∃ t, exec (.lmvCopy die) s = .next t ∧ t.mem = r.1.mem ∧ (t.unit x).prog = 0) ∧
       (dv.fmt.isMx = false → r.2 = false → exec (.lmvCopy die) s = .next r.1) ∧
       (∀ s1, dv.fmt.isMx = true → (s.unit x).prog ≤ ps.length → s.lmvMx x (whoOf x j) j pass.toNat sv dv tile cols ps = .ok s1 →
         ∃ t, exec (.lmvCopy die) s = .next t ∧ t.mem = s1.mem ∧ (t.unit x).prog = 0)))

/-- Norms (R308 to R310). PASS1_NORM, once the period may update and its REDUCED mark has passed, takes this module's sums of every layer.
NORM_DERIVE, once the totals can be read, sets the global norm from the exact square root of their sum; both happen once a period. An access that
faults leaves the pass to be taken again (R312). -/
def Obligations.norm_passes : Prop :=
  ∀ (jid : U64) (s : State) (j : Job), s.pwr.on = true → s.job? jid = some j →
    let x := s.normUpe jid
    let w := whoOf x j
    let n := List.range j.layerTab.length
    (s.mayUpdate j = false ∨ s.stalled x = true → exec (.pass1Norm jid) s = .next s ∧ exec (.normDerive jid) s = .next s) ∧
    (s.mayUpdate j = true → s.stalled x = false →
    (j.pass1 = true ∨ s.passed j .reduced = false → exec (.pass1Norm jid) s = .next s) ∧
    (∀ ls, j.pass1 = false → s.passed j .reduced = true → accAll (fun l => s.layerNorms w j l) n = .ok ls →
      ∃ t i, exec (.pass1Norm jid) s = .next t ∧ t.job? jid = some i ∧ i.pass1 = true ∧ i.layers = ls.map (·.1) ∧ i.norms = j.norms ∧
        (t.unit x).flags = (s.unit x).flags ||| ls.foldl (fun f l => f ||| l.2) 0 ∧ t.mem = s.mem ∧ t.syncs = s.syncs) ∧
    (∀ cz a d p, j.pass1 = false → s.passed j .reduced = true → accAll (fun l => s.layerNorms w j l) n = .bad cz a d p →
      exec (.pass1Norm jid) s = .next (s.streamFault w cz a d p 0)) ∧
    (j.pass1 = false ∨ j.norms = true → exec (.normDerive jid) s = .next s) ∧
    (∀ ts, j.pass1 = true → j.norms = false → (j.dims = [] ∨ j.bin.exch = none) → accAll (fun l => s.totals w j l) n = .ok ts →
      ∃ t i, exec (.normDerive jid) s = .next t ∧ t.job? jid = some i ∧ i.norms = true ∧
        i.gnorm = BitVec.ofNat 32 (fOf (totalVal (ts.foldl (fun (m : Int) e => m + e.1) 0)).sqrt).1 ∧
        i.clips.length = (match j.bin.update with | some u => u.groups.length | none => 0) ∧ i.pass1 = true ∧ t.mem = s.mem ∧ t.syncs = s.syncs))

/-- PASS2_UPDATE of the next layer (R300, R302 to R307, R311, R312). Each update engine begins by reading its rates, the first setting the
inactive bank's label to WRITING; then it goes on over its rows element by element, so many as asked for. When none has a row left, the
statistics are written and the layer is done with its counts, no other layer's state changing. Any other layer waits. -/
def Obligations.pass2_update : Prop :=
  ∀ (jid : U64) (l : Nat) (s : State) (j : Job), s.pwr.on = true → s.job? jid = some j →
    let xs := s.upes jid
    let x0 := s.normUpe jid
    (s.mayUpdate j = false ∨ j.norms = false ∨ j.updated = true ∨ s.passed j .normed = false ∨ (j.layers.findIdx? fun z => !z.done) ≠ some l →
      ∀ n, exec (.pass2Update jid l n) s = .next s) ∧
    (s.mayUpdate j = true → j.norms = true → j.updated = false → s.passed j .normed = true → (j.layers.findIdx? fun z => !z.done) = some l →
    (∀ x k o ls s1, xs = [x] → j.lrs = [] → j.p2 = none → s.stalled x = false → s.layOf x j j.active l = some k → s.layOf x j (!j.active) l = some o →
      0 < k.w.rowCount → s.readLrs x j = .ok ls → s.storeLabel (whoOf x j) j (!j.active) (labelBytes (j.gstep.toNat + 1) 1 jid 0 0) = .ok s1 →
      ∃ t i, exec (.pass2Update jid l 0) s = .next t ∧ t.mem = s1.mem ∧ t.job? jid = some i ∧ i.lrs = [(x, s1.replayLrs x j ls)] ∧ i.p2.isSome ∧
        i.layers = j.layers) ∧
    ((∀ y ∈ xs, (assoc j.lrs y).isSome) → ∀ p, j.p2 = some p →
      (∀ n, exec (.pass2Update jid l n) s = .next ((xs.foldl (fun s x => s.upeRun jid l x n) s).closeLayer jid l)) ∧
      (∀ x r j2, xs = [x] → s.stalled x = false → s.upeStep x j p l = some (.ok r) →
        let s2 := (r.1.updJob jid fun j => { j with p2 := some r.2, progress := true }).accessed (x / 16)
        s2.job? jid = some j2 → (s2.upeStep x j2 r.2 l).isSome → exec (.pass2Update jid l 1) s = .next s2) ∧
      (∀ k o t1 fl y, (∀ y ∈ xs, s.stalled y = false ∧ s.upeStep y j p l = none) → s.layOf x0 j j.active l = some k →
        s.layOf x0 j (!j.active) l = some o → s.writeStats (whoOf x0 j) k o (upK k) p = .ok (t1, fl) → j.layers[l]? = some y →
        (∃ m z, m ≠ l ∧ j.layers[m]? = some z ∧ z.done = false) →
        ∀ n, ∃ t i, exec (.pass2Update jid l n) s = .next t ∧ t.job? jid = some i ∧ t.mem = t1.mem ∧ i.p2 = none ∧
          i.layers[l]? = some { y with done := true, gzero := p.gzero, lost := p.lost, nfZeroed := p.nf, quiet := quietLayer j.header p } ∧
          (∀ m, m ≠ l → i.layers[m]? = j.layers[m]?) ∧ i.updated = false)))

/-- A query is served next (R321): it moves to the front of the job's ingest, and the units at a command on bank QUERY read the bank that was
active at its stamp. A carried contribution is added once (R354, R355): the bucket owes no more, and only the tensor's bytes change. -/
def Obligations.query_and_carry : Prop :=
  ∀ (jid : U64) (n : Nat) (s : State) (j : Job), s.pwr.on = true → s.job? jid = some j → j.phase = .running →
    (∀ q, (j.ingest.filter fun i => i.query)[n]? = some q → ∃ t i, exec (.queryCommand jid n) s = .next t ∧ t.job? jid = some i ∧
      i.ingest = q :: j.ingest.erase q ∧ t.mem = s.mem ∧ t.queues = s.queues ∧
      ∀ x, (s.unit x).job = some jid → (∃ c, (s.unit x).cmd? = some c ∧ c.bank = .query) → (t.unit x).bankB = q.bank) ∧
    ((j.ingest.filter fun i => i.query)[n]? = none → exec (.queryCommand jid n) s = .next s) ∧
    (∀ b (bucket : Nat), j.spec? bucket = some b →
      (b.norm = true ∨ j.policy ≠ 1 ∨ (j.bucket bucket).owes = false ∨ s.srcComplete j b = false → exec (.carryAdd jid bucket) s = .next s) ∧
      (∀ sv cv es s1, b.norm = false → j.policy = 1 → (j.bucket bucket).owes = true → s.srcComplete j b = true →
        bankView j.bin false b.src = some sv → bankView j.bin false b.carryTd = some cv →
        let w := whoOf (s.dmxOf jid) j
        accAll (s.carrySum w sv cv ((j.bucket bucket).carry == 0)) (List.range (b.num * 256)) = .ok es →
        s.storeView w cv (es.flatMap fun e => cv.nthStores e.1 e.2.1.1) = .ok s1 →
        ∃ t i, exec (.carryAdd jid bucket) s = .next t ∧ t.mem = s1.mem ∧ t.job? jid = some i ∧ t.syncs = s.syncs ∧ t.queues = s.queues ∧
          (bucket < j.x.buckets.length → (i.bucket bucket).owes = false ∧ (i.bucket bucket).added = true ∧
            (i.bucket bucket).carry = (j.bucket bucket).carry + 1)))

/-- A packet with hops left goes on from the port it arrived at to the opposite one, one hop done more, one left less (R336), and its buffer
entries are free: HALO, LINK_DOWN and SPREAD packets unchanged below their header, a SPREAD or REDUCE of no job here or of another period too
(R337), a CORK packet combined with the module's value (R359), a REDUCE packet with its operand added (R349). One whose turn in its port's plan
has not come waits where it is (R339). -/
def Obligations.packets_go_on : Prop :=
  ∀ (p : Fin 6) (k0 : Packet) (s : State), s.pwr.on = true → (s.port (opposite p.val)).st = 2 →
    let k := k0.arrive
    let sent (t : State) (pk : Packet) : Prop :=
      (t.port p.val).pkts = (s.port p.val).pkts.erase k0 ∧
      (t.port p.val).freed = (if (s.port p.val).since ≤ k0.stamp then modAt (s.port p.val).freed (vcOf k0.kind) (· + k0.entries) else (s.port p.val).freed) ∧
      (t.port (opposite p.val)).tx = modAt (s.port (opposite p.val)).tx (vcOf pk.kind) (· ++ pk.flits) ∧ t.mem = s.mem ∧ t.units = s.units ∧ t.syncs = s.syncs
    k.left = k0.left - 1 ∧ (k0.kind ≠ 4 → k.hops = (k0.hops + 1) % 32) ∧ k.data = k0.data ∧ k.kind = k0.kind ∧
    (0 < k.left →
      ((s.port p.val).headPkt 1 = some k0 → ∃ t, exec (.halo p) s = .next t ∧ sent t k ∧ t.jobs = s.jobs) ∧
      ((s.port p.val).headPkt 2 = some k0 → k0.kind = 5 → ∃ t, exec (.linkDown p) s = .next t ∧ sent t k ∧ t.jobs = s.jobs) ∧
      ((s.port p.val).headPkt 0 = some k0 → s.heldAt p.val = none → s.packetJob k = none →
        (k0.kind = 2 → ∃ t, exec (.spread p) s = .next t ∧ sent t k ∧ t.jobs = s.jobs) ∧
        (k0.kind = 1 → ∃ t, exec (.reduce p) s = .next t ∧ sent t k ∧ t.jobs = s.jobs)) ∧
      (∀ j, s.packetJob k = some j →
        (∀ b, (s.port p.val).headPkt 0 = some k0 → s.heldAt p.val = none → k0.kind = 2 → j.spec? k.bucket = some b →
          (s.waitsTurn p.val k = true → exec (.spread p) s = .next s) ∧
          (s.waitsTurn p.val k = false → s.stoppedToPeers j = true → ∃ t, exec (.spread p) s = .next t ∧ sent t k)) ∧
        (∀ c, (s.port p.val).headPkt 2 = some k0 → k0.kind = 4 → j.x.cork = some c → j.dims.findIdx? (fun d => d == k.dim) = some j.x.corkPhase →
          (s.waitsTurn p.val k = true → exec (.corkPacket p) s = .next s) ∧
          (s.waitsTurn p.val k = false → ∃ t, exec (.corkPacket p) s = .next t ∧ sent t (corkInto k ((corkOfPacket k).join c)))) ∧
        (∀ b o, (s.port p.val).headPkt 0 = some k0 → s.heldAt p.val = none → k0.kind = 1 → j.spec? k.bucket = some b → j.bufferOf p.val k = some o →
          (s.waitsTurn p.val k = true → exec (.reduce p) s = .next s) ∧
          (s.waitsTurn p.val k = false → ∃ t, exec (.reduce p) s = .next t ∧ sent t (s.combine j k o)))))

/-- A REDUCE packet whose operand is not there is held at the adder, out of its buffer (R348). ADDER_OPERAND_READY places an operand ahead of a
packet that waits, and lets the held one go on with its operand once it can be formed; a packet of a past period goes on without one. -/
def Obligations.adder_holds_and_goes_on : Prop :=
  ∀ (p : Fin 6) (k : Packet) (s : State), s.pwr.on = true →
    (s.heldAt p.val = some k → s.packetJob k = none → 0 < k.left → (s.port (opposite p.val)).st = 2 →
      ∃ t, exec (.adderOperandReady p) s = .next t ∧ (t.port p.val).held = none ∧ t.mem = s.mem ∧ t.jobs = s.jobs ∧
        (t.port (opposite p.val)).tx = modAt (s.port (opposite p.val)).tx (vcOf k.kind) (· ++ k.flits)) ∧
    (s.heldAt p.val = none → (s.port p.val).headPkt 0 = none → exec (.adderOperandReady p) s = .next s) ∧
    (∀ j b, s.packetJob k = some j → s.job? j.jid = some j → j.spec? k.bucket = some b →
    let operand := s.operand j p.val b k.dim k.first k.nblk
    let full := 2 ^ 20 < bufferBytes j p.val + k.nblk * (if j.isGxi b then 1024 else 256)
    (∀ k0, (s.port p.val).headPkt 0 = some k0 → k0.kind = 1 → k = k0.arrive → s.heldAt p.val = none → j.bufferOf p.val k = none →
      ∃ t, exec (.reduce p) s = .next t ∧ (t.port p.val).pkts = (s.port p.val).pkts.erase k0 ∧ (t.port p.val).held = some k ∧ t.jobs = s.jobs ∧
        t.mem = s.mem) ∧
    (s.heldAt p.val = none → (s.port p.val).headPkt 0 = some k →
      (k.kind ≠ 1 ∨ (j.bufferOf p.val k).isSome ∨ full ∨ operand = none → exec (.adderOperandReady p) s = .next s) ∧
      (∀ o, k.kind = 1 → j.bufferOf p.val k = none → ¬full → operand = some (.ok o) →
        ∃ t i, exec (.adderOperandReady p) s = .next t ∧ t.job? j.jid = some i ∧ i.x.opnds = j.x.opnds ++ [o.op] ∧ t.ports = s.ports ∧
          t.mem = s.mem)) ∧
    (s.heldAt p.val = some k →
      (operand = none ∨ s.waitsTurn p.val k = true → exec (.adderOperandReady p) s = .next s) ∧
      (∀ o, 0 < k.left → (s.port (opposite p.val)).st = 2 → s.waitsTurn p.val k = false → operand = some (.ok o) →
        ∃ t, exec (.adderOperandReady p) s = .next t ∧ t.mem = s.mem ∧ (t.port p.val).held = none ∧
          (t.port (opposite p.val)).tx = modAt (s.port (opposite p.val)).tx (vcOf (s.combine j k o.op).kind) (· ++ (s.combine j k o.op).flits))))

/-- A packet is delivered: SPREAD blocks into the stage tensor with their part, those of the first phase into the layers' tensors (R347), HALO
bytes into their handle's region (R363), a CORK value to its side, a second one of a side spoiling the phase (R359), LINK_DOWN to the job whose
packet it was (R365). A block after its deadline is not used (R357); a delivery to a job stopped towards its peers is discarded (R366). -/
def Obligations.packets_are_delivered : Prop :=
  ∀ (p : Fin 6) (k0 : Packet) (s : State) (j : Job), s.pwr.on = true →
    let k := k0.arrive
    let s0 := s.takePkt p.val k0
    let w := linkWho j p.val
    s.packetJob k = some j → s.job? j.jid = some j → k.left = 0 →
    (∀ b, (s.port p.val).headPkt 0 = some k0 → s.heldAt p.val = none → k0.kind = 2 → j.spec? k.bucket = some b →
      (s.stoppedToPeers j = true ∨ j.pastDeadline b k.stamp = true ∨ j.x.cork.isSome ∨ j.x.result.isSome →
        ∃ t, exec (.spread p) s = .next t ∧ t.mem = s.mem ∧ t.jobs = s.jobs ∧ (t.port p.val).pkts = (s.port p.val).pkts.erase k0) ∧
      (∀ s1, s.stoppedToPeers j = false → j.pastDeadline b k.stamp = false → j.x.cork = none → j.x.result = none →
        ((j.bucket b.id).parts.any fun q => q.dim == k.dim && q.spread == true && q.first == k.first) = false →
        (j.dims.head? ≠ some k.dim ∧ (∃ v, bankView j.bin false b.stage = some v ∧
            s0.storeView w v (stageStores j b v (k.fmt == 1) k.first k.blocks k.scaleAt) = .ok s1) ∨
          j.dims.head? = some k.dim ∧ s0.storeParts w (finalStores j b (k.fmt == 1) k.first k.blocks k.scaleAt) = .ok s1) →
        ∃ t i, exec (.spread p) s = .next t ∧ t.mem = s1.mem ∧ t.job? j.jid = some i ∧ (t.port p.val).pkts = (s.port p.val).pkts.erase k0 ∧
          (b.id = 4095 ∨ b.id < j.x.buckets.length → ∃ part, (i.bucket b.id).parts = (j.bucket b.id).parts ++ [part] ∧ part.first = k.first ∧ part.n = k.nblk ∧
            part.dim = k.dim ∧ part.spread = true ∧ part.count = k.count))) ∧
    (∀ x h v s1, (s.port p.val).headPkt 1 = some k0 → s.stoppedToPeers j = false → j.bin.exch = some x →
      x.halo.find? (fun h => h.handle.toNat == bits k.hdr 96 16) = some h → bits k.hdr 128 32 + bits k.hdr 160 16 ≤ h.len →
      bankView j.bin false h.td = some v →
      s0.storeView w v (v.haloStores (v.base + h.off + bits k.hdr 128 32) (k.data.take (bits k.hdr 160 16))) = .ok s1 →
      ∃ t, exec (.halo p) s = .next t ∧ t.mem = s1.mem ∧ (t.port p.val).pkts = (s.port p.val).pkts.erase k0 ∧
        (bit k.hdr 176 = false → t.syncs = s.syncs)) ∧
    (∀ c, (s.port p.val).headPkt 2 = some k0 → k0.kind = 4 → j.x.cork = some c → j.dims.findIdx? (fun d => d == k.dim) = some j.x.corkPhase →
      k.dir = 0 →
      (j.x.corkPos = none →
        ∃ t i, exec (.corkPacket p) s = .next t ∧ t.job? j.jid = some i ∧ i.x.corkPos = some (corkOfPacket k) ∧ i.x.corkNeg = j.x.corkNeg ∧
          t.mem = s.mem) ∧
      (j.x.corkPos.isSome → ∃ t i, exec (.corkPacket p) s = .next t ∧ t.job? j.jid = some i ∧ i.x.corkBad = true ∧ t.mem = s.mem)) ∧
    ((s.port p.val).headPkt 2 = some k0 → k0.kind = 5 →
      ∃ t i, exec (.linkDown p) s = .next t ∧ t.job? j.jid = some i ∧ i.x.linkDown = true ∧ t.mem = s.mem)

/-- CORK_PHASE_START (R359, R361) on a ring of two, whose one side is the positive: with that side's value there, the value of a phase is their
combination; one whose COVER is not the modules covered so far leaves none; the last phase's is the result. PACKET_ORIGINATE (R339, R346, R358):
a planned REDUCE packet whose slot has come leaves with its operand, or waits for it, and the plan goes on; a planned CORK packet of the first
phase leaves with the module's value. HXU_COMMAND (R164): to a tensor of this module, every element of the region moved, memory is what the moves
left and the work is done; to a peer, the region's bytes leave as HALO packets and no byte of memory changes. -/
def Obligations.cork_origination_and_hxu : Prop :=
  (
    ∀ s : State, s.pwr.on = true →
      (∀ (jid : U64) (j : Job) (c : CorkVal) (d : Nat), s.job? jid = some j → j.x.cork = some c → j.dims[j.x.corkPhase]? = some d →
        j.x.corkPos = none → exec (.corkPhaseStart jid) s = .next s) ∧
      (∀ (jid : U64) (j : Job) (c q : CorkVal) (d : Nat), s.job? jid = some j → j.x.cork = some c → j.dims[j.x.corkPhase]? = some d →
        j.x.corkBad = false → j.x.result = none → j.x.corkPos = some q → j.x.corkNeg = none → torusSize j.bin.report.torus d = 2 →
        let want := ((j.dims.take (j.x.corkPhase + 1)).map fun d => torusSize j.bin.report.torus d).foldl (· * ·) 1
        (c.cover + q.cover ≠ want → ∃ t i, exec (.corkPhaseStart jid) s = .next t ∧ t.job? jid = some i ∧ i.x.corkBad = true ∧ i.x.result = none ∧
          t.ports = s.ports) ∧
        (c.cover + q.cover = want → j.dims[j.x.corkPhase + 1]? = none →
          ∃ t i, exec (.corkPhaseStart jid) s = .next t ∧ t.job? jid = some i ∧ i.x.result = some (c.join q) ∧ t.ports = s.ports) ∧
        (∀ d2, c.cover + q.cover = want → j.dims[j.x.corkPhase + 1]? = some d2 → ∃ t i, exec (.corkPhaseStart jid) s = .next t ∧
          t.job? jid = some i ∧ i.x.cork = some (c.join q) ∧ i.x.corkPhase = j.x.corkPhase + 1 ∧ i.x.corkPos = none ∧ i.x.corkNeg = none ∧ t.mem = s.mem)) ∧
      (∀ (p : Fin 6) (j : Job), s.crossJob = some j → s.job? j.jid = some j → (s.port p.val).st = 2 →
        (s.jobs.any fun i => i.jid == j.jid && i.live && i.standalone) = false →
        let due (ch : Nat) := (s.nextPlan j p.val ch).filter fun e => e.1.own && s.planDue j e.1
        (due 1 = none → due 0 = none → exec (.packetOriginate p) s = .next s) ∧
        (∀ q i b h, due 1 = none → due 0 = some (q, i) → q.kind = 1 → j.spec? q.bucket.toNat = some b → s.planHalf j q = some h →
          let n := min (packetCap (j.isGxi b)) (h.hi - q.first)
          (s.operand j p.val b q.dim.toNat q.first n = none → exec (.packetOriginate p) s = .next s) ∧
          (∀ o, s.operand j p.val b q.dim.toNat q.first n = some (.ok o) →
            let pk := s.exchPacket j b 1 h.dir (torusSize j.bin.report.torus q.dim.toNat - 1) o.op
            ∃ t j1, exec (.packetOriginate p) s = .next t ∧ (t.port p.val).tx = modAt (s.port p.val).tx 0 (· ++ pk.flits) ∧ t.mem = s.mem ∧
              t.job? j.jid = some j1 ∧ j1.x.planPos = setAt j.x.planPos (2 * p.val) (i + 1) ∧
              j1.isExact = (j.isExact && !decide (j.planSlot q < s.gt)))) ∧
        (∀ q i c, due 1 = some (q, i) → j.x.cork = some c → j.dims.head? = some q.dim.toNat →
          let hops := corkHops (torusSize j.bin.report.torus q.dim.toNat) (b2n q.dir)
          hops ≠ 0 → ∃ t j1, exec (.packetOriginate p) s = .next t ∧ t.mem = s.mem ∧ t.job? j.jid = some j1 ∧
            j1.x.planPos = setAt j.x.planPos (2 * p.val + 1) (i + 1) ∧
            (t.port p.val).tx = modAt (s.port p.val).tx 2 (· ++ (s.corkPacket j c q.dim.toNat (b2n q.dir) hops).flits)))) ∧
  (
    ∀ (die : Fin 24) (j : Job) (c : Cmd) (src : Nat) (reg : Region) (dest : HxuDest) (sv : View) (s : State),
      let x := die.val * 16 + 14
      Commanded s x j c → c.body = .hxu src reg dest →
      ((s.unit x).prog = 0 → exec (.hxuCommand die) s = .next s) ∧
      ((s.unit x).prog ≠ 0 → viewOf j.bin c (s.unit x) src = some sv → (∀ o ∈ c.outs, o.ref = none) →
      (∀ td dr sid dv, dest = .onModule td dr sid → viewOf j.bin c (s.unit x) td = some dv →
        let n := (s.unit x).prog - 1
        let r := s.moveFrom x (whoOf x j) sv dv (fun i q => rawConv s sv dv (i - n) q) 2 1 n ((regionPairs reg dr).drop n)
        (r.2 = true → ∃ t, exec (.hxuCommand die) s = .next t ∧ t.mem = r.1.mem ∧ (t.unit x).prog = 0) ∧
        (r.2 = false → ∃ t, exec (.hxuCommand die) s = .next t ∧ t.mem = r.1.mem)) ∧
      (∀ port handle off hops, dest = .peer port handle off hops →
        (∀ cz a d p, accAll (fun i => s.readElem (whoOf x j) sv i) (boxIdx reg.org reg.ext) = .bad cz a d p →
          exec (.hxuCommand die) s = .next (s.streamFault (whoOf x j) cz a d p 0)) ∧
        (∀ es, accAll (fun i => s.readElem (whoOf x j) sv i) (boxIdx reg.org reg.ext) = .ok es →
          ∃ t, exec (.hxuCommand die) s = .next t ∧ t.mem = s.mem ∧ (t.unit x).prog = 0))))

/-- FLIT_SLOT of an UP port (R328, R333, R334): a flit of the replay goes first, with its number; else the head of the line of the highest
virtual channel that has a credit and room, under the next number, kept for replay, a credit spent; with none of these the flit is idle. An
acknowledgement owed goes with it. FLIT_RECEIVE and NAK_REPLAY of an UP port (R329, R332 to R334): a flit failing its CRC is not taken and asks
for a replay; one in order is taken and acknowledged; one already taken is only acknowledged; one after a gap asks for a replay once; credits
come with every valid header. A NAK asks for a replay from its number on, which puts what the replay buffer holds of it in line; the eighth in a
row from one number takes the port DOWN (R364). A port that is not UP takes nothing. -/
def Obligations.flits : Prop :=
  (
    ∀ (p : Fin 6) (s : State), s.pwr.on = true →
      let q := s.port p.val
      (q.st ≠ 2 → exec (.flitSlot p) s = .next s) ∧
      (q.st = 2 → ∃ t, exec (.flitSlot p) s = .next t ∧ (t.port p.val).ack = false ∧ (t.port p.val).nak = false ∧
        (t.port p.val).rxNext = q.rxNext ∧ (t.port p.val).pkts = q.pkts ∧ t.mem = s.mem ∧ t.jobs = s.jobs ∧
        (∀ r, r ≠ p.val → t.port r = s.port r) ∧
        (∀ e l, q.resend = e :: l → (t.port p.val).resend = l ∧ (t.port p.val).tx = q.tx ∧ (t.port p.val).txSeq = q.txSeq ∧
          (t.port p.val).replay = q.replay ∧ (t.port p.val).cred = q.cred) ∧
        (∀ v f l, q.resend = [] → q.replay.length < 1024 →
          ([2, 1, 0].find? fun v => !(q.tx.getD v []).isEmpty && q.cred.getD v 0 != 0) = some v → q.tx.getD v [] = f :: l →
          (t.port p.val).tx = setAt q.tx v l ∧ (t.port p.val).cred = modAt q.cred v (· - 1) ∧ (t.port p.val).txSeq = (q.txSeq + 1) % 4096 ∧
          (t.port p.val).replay = q.replay ++ [(q.txSeq, f)] ∧ (t.port p.val).resend = []) ∧
        (q.resend = [] → (1024 ≤ q.replay.length ∨ ([2, 1, 0].all fun v => (q.tx.getD v []).isEmpty || q.cred.getD v 0 == 0) = true) →
          (t.port p.val).tx = q.tx ∧ (t.port p.val).txSeq = q.txSeq ∧ (t.port p.val).replay = q.replay ∧ (t.port p.val).cred = q.cred))) ∧
  (
    ∀ (p : Fin 6) (w : BitVec 2048) (s : State), s.pwr.on = true →
      let q := s.port p.val
      (q.st ≠ 2 → exec (.flitReceive p w) s = .next s ∧ exec (.nakReplay p) s = .next s) ∧
      (q.st = 2 →
      (flitCrc w ≠ BitVec.ofNat 32 (bits w 96 32) → ∃ t, exec (.flitReceive p w) s = .next t ∧
        t.port p.val = { q with nak := true, rxGap := true, ctrlRx := [] } ∧ t.mem = s.mem ∧ t.jobs = s.jobs) ∧
      (flitCrc w = BitVec.ofNat 32 (bits w 96 32) → q.nakRun < 8 → bit w 33 = false → ∃ t, exec (.flitReceive p w) s = .next t ∧
        t.mem = s.mem ∧ t.jobs = s.jobs ∧ (t.port p.val).st = 2 ∧ (t.port p.val).silentSlots = 0 ∧
        (t.port p.val).cred = [q.cred.getD 0 0 + bits w 34 2, q.cred.getD 1 0 + bits w 36 2, q.cred.getD 2 0 + bits w 38 2] ∧
        (bits w 0 2 = 0 → (t.port p.val).ack = true ∧ (t.port p.val).rxNext = q.rxNext ∧ (t.port p.val).pkts = q.pkts) ∧
        (bits w 0 2 = 1 ∨ bits w 0 2 = 2 → bits w 2 2 < 3 →
          (bits w 8 12 = q.rxNext → (t.port p.val).rxNext = (q.rxNext + 1) % 4096 ∧ (t.port p.val).ack = true ∧ (t.port p.val).rxGap = false ∧
            (bit w 4 = false → (t.port p.val).pkts = q.pkts)) ∧
          (bits w 8 12 ≠ q.rxNext → (t.port p.val).rxNext = q.rxNext ∧ (t.port p.val).pkts = q.pkts ∧ (t.port p.val).part = q.part) ∧
          (bits w 8 12 ≠ q.rxNext → seqLe (bits w 8 12) q.rxNext = true → (t.port p.val).ack = true ∧ (t.port p.val).nak = q.nak) ∧
          (bits w 8 12 ≠ q.rxNext → seqLe (bits w 8 12) q.rxNext = false → q.rxGap = false →
            (t.port p.val).nak = true ∧ (t.port p.val).rxGap = true ∧ (t.port p.val).ack = q.ack)) ∧
        (bit w 32 = true → (t.port p.val).replay = q.replay.filter fun e => !seqLe e.1 (bits w 20 12))) ∧
      (flitCrc w = BitVec.ofNat 32 (bits w 96 32) → bit w 33 = true →
        (q.nakRun < 7 → ∃ t, exec (.flitReceive p w) s = .next t ∧ (t.port p.val).nakIn = true ∧ (t.port p.val).nakFrom = (bits w 20 12 + 1) % 4096 ∧
          (t.port p.val).st = 2 ∧ t.mem = s.mem ∧ t.jobs = s.jobs) ∧
        (q.nakRun = 7 → q.nakSeq = (bits w 20 12 + 1) % 4096 → ∃ t, exec (.flitReceive p w) s = .next t ∧ (t.port p.val).st ≠ 2 ∧
          (t.port p.val).cause = 1 ∧ t.mem = s.mem)) ∧
      (q.nakIn = true → ∃ t, exec (.nakReplay p) s = .next t ∧
        t.port p.val = { q with nakIn := false, resend := q.replay.filter fun e => seqLe q.nakFrom e.1 } ∧ t.mem = s.mem) ∧
      (q.nakIn = false → exec (.nakReplay p) s = .next s)))

/-- The states of a port (R327, R364, R535, R537): enabled with its cable it trains; trained it is UP with fresh buffers and credits and the
measured delay; loss of lane lock, 64 slots without a header, the cable's removal, RETRAIN or clearing EN take it DOWN with their cause and what
waited to leave is lost, while packets that have arrived whole stay; another function's writes are denied. NL_TORUS (R536): VALID is 1 exactly if
the module's coordinate lies in its torus in every dimension and the torus fits in 32; bits 45 and up of the write count for nothing; a write
while a cross-module job lives is ignored. -/
def Obligations.link_states : Prop :=
  (
    ∀ (p : Fin 6) (s : State) (f : Func), s.pwr.on = true →
      let q := s.port p.val
      let r := s.exchange (30 + f.port.val) (linkDie p.val)
      let others (t : State) : Prop := t.mem = s.mem ∧ t.units = s.units ∧ t.time = s.time
      (Served s (linkDie p.val) f →
        (q.st = 0 → ∃ t, exec (.nlEnable f p) s = .next t ∧ t.port p.val = { q with en := true, st := if q.cable then 1 else 0 } ∧ others t) ∧
        (q.st ≠ 0 → ∃ t, exec (.nlEnable f p) s = .next t ∧ t.port p.val = { q with en := true } ∧ others t) ∧
        (q.st ≠ 0 → ∃ t, exec (.nlDisable f p) s = .next t ∧ t.port p.val = { (q.down 3) with en := false, st := 0 } ∧ others t) ∧
        (q.st = 0 → ∃ t, exec (.nlDisable f p) s = .next t ∧ t.port p.val = { q with en := false } ∧ others t) ∧
        (q.en = true → q.st ≠ 0 → ∃ t, exec (.retrain f p) s = .next t ∧ t.port p.val = q.down 3 ∧ others t) ∧
        (q.en = true → q.st = 0 → exec (.retrain f p) s = .next r) ∧
        (q.en = false → exec (.retrain f p) s = .next r)) ∧
      (s.barOpen = true → s.dieAnswers (linkDie p.val) = true → s.isControl f = false →
        exec (.nlEnable f p) s = .next (r.deny f) ∧ exec (.nlDisable f p) s = .next (r.deny f) ∧ exec (.retrain f p) s = .next (r.deny f)) ∧
      (∀ d pol, q.st ≠ 1 → exec (.portTrained p d pol) s = .next s) ∧
      (∀ d pol, q.st = 1 → ∃ t, exec (.portTrained p d pol) s = .next t ∧ (t.port p.val).st = 2 ∧ (t.port p.val).cred = [1024, 384, 64] ∧
        (t.port p.val).tx = [[], [], []] ∧ (t.port p.val).txSeq = 0 ∧ (t.port p.val).rxNext = 0 ∧ (t.port p.val).polarity = pol ∧
        (t.port p.val).delay = d / 2 % 2 ^ 32 ∧ (t.port p.val).pkts = q.pkts ∧ (t.port p.val).held = q.held ∧ others t) ∧
      (q.st = 0 → exec (.laneLockLoss p) s = .next s) ∧
      (q.st ≠ 0 → ∃ t, exec (.laneLockLoss p) s = .next t ∧ t.port p.val = q.down 0 ∧ others t) ∧
      (q.st = 2 → 64 ≤ q.silentSlots → ∃ t, exec (.noHeaderTimeout p) s = .next t ∧ t.port p.val = q.down 2 ∧ others t) ∧
      (q.st ≠ 2 ∨ q.silentSlots < 64 → exec (.noHeaderTimeout p) s = .next s) ∧
      (∃ t, exec (.cblPres p true) s = .next t ∧ t.port p.val = { q with cable := true, st := if q.st == 0 && q.en then 1 else q.st } ∧ others t) ∧
      (q.st ≠ 0 → ∃ t, exec (.cblPres p false) s = .next t ∧ (t.port p.val).st = 0 ∧ (t.port p.val).cable = false ∧ (t.port p.val).cause = 0 ∧
        (t.port p.val).en = q.en ∧ others t) ∧
      (q.st = 0 → ∃ t, exec (.cblPres p false) s = .next t ∧ t.port p.val = { q with cable := false } ∧ others t) ∧
      (q.down 0).pkts = q.pkts ∧ (q.down 0).held = q.held ∧ (q.down 0).replay = [] ∧ (q.down 0).tx = [[], [], []]) ∧
  (
    ∀ (f : Func) (p : Fin 6) (v : U64) (s : State), Served s (linkDie p.val) f →
      ((s.jobs.any fun j => j.live && j.cross) = true → exec (.nlTorusWrite f p v) s = .next (s.exchange (30 + f.port.val) (linkDie p.val))) ∧
      ((s.jobs.any fun j => j.live && j.cross) = false → ∃ t, exec (.nlTorusWrite f p v) s = .next t ∧
        (∀ i, i < 45 → t.torus.getLsbD i = v.getLsbD i) ∧ (∀ i, 45 < i → t.torus.getLsbD i = false) ∧
        (t.torus.getLsbD 45 = true ↔ ∀ d : Fin 3, bits v (40 - 5 * d.val) 5 + (bits v (15 + 5 * d.val) 5 + 1) ≤ 32 ∧
          bits v (40 - 5 * d.val) 5 ≤ bits v (10 - 5 * d.val) 5 ∧
          bits v (10 - 5 * d.val) 5 < bits v (40 - 5 * d.val) 5 + (bits v (15 + 5 * d.val) 5 + 1)) ∧
        t.ports = s.ports ∧ t.mem = s.mem))

/-- GDDR7_READ and GDDR7_WRITE at a device that serves, outside the scrub window (R372, R373, R375, R376): one wrong symbol of a burst is
corrected and noted, two poison it, three or more are detected or miscorrected. A write of a whole burst puts its 64 bytes there and clears its
poison; one of fewer bytes puts those bytes, and a poisoned burst takes none. In the window, and in self-refresh, requests wait. -/
def Obligations.gddr7_access : Prop :=
  ∀ (b : Stream) (a : BitVec 45) (data : List Byte) (e : EccErr) (s : State), s.pwr.on = true →
    let n := a.toNat
    let d := (gddrMap n).dev
    let wrong := (errSymbols e).length
    let put (t : State) (l : List Byte) : Prop := ∀ x, t.byteAt x = if n ≤ x ∧ x < n + l.length then l.getD (x - n) 0 else s.byteAt x
    (inGddr n = false ∨ s.devServes d = false ∨ s.scrubTime = true → exec (.gddr7Read b a e) s = .next s ∧ exec (.gddr7Write b a data e) s = .next s) ∧
    (inGddr n = true → s.devServes d = true → s.scrubTime = false →
    (s.poisoned (burstOf n) = false → wrong = 0 → exec (.gddr7Read b a e) s = .next (s.cntAdd (cntDev d 0) 1)) ∧
    (s.poisoned (burstOf n) = false → wrong = 1 → ∃ t, exec (.gddr7Read b a e) s = .next t ∧ t.mem = s.mem ∧ t.poison = s.poison ∧
      (t.devAt d).lastAddr = BitVec.ofNat 45 (burstOf n * 64) ∧ (t.devAt d).lastSym = firstSymbol e ∧ (t.devAt d).poisonAddr = (s.devAt d).poisonAddr) ∧
    (s.poisoned (burstOf n) = false → (wrong = 2 ∨ 3 ≤ wrong ∧ Config.eccDetects (s.burst (burstOf n)) e.pattern = true) →
      ∃ t, exec (.gddr7Read b a e) s = .next t ∧ t.mem = s.mem ∧
      t.poisoned (burstOf n) = true ∧ (∀ k, k ≠ burstOf n → t.poisoned k = s.poisoned k) ∧
      (t.devAt d).poisonValid = true ∧ (t.devAt d).poisonAddr = BitVec.ofNat 45 (burstOf n * 64)) ∧
    (s.poisoned (burstOf n) = false → 3 ≤ wrong → Config.eccDetects (s.burst (burstOf n)) e.pattern = false →
      ∃ t, exec (.gddr7Read b a e) s = .next t ∧ t.poison = s.poison ∧ ∀ x, t.byteAt x =
        if burstOf n * 64 ≤ x ∧ x < burstOf n * 64 + 64 then Config.eccByte (s.burst (burstOf n)) e.pattern (x - burstOf n * 64) else s.byteAt x) ∧
    (s.poisoned (burstOf n) = true → ∃ t, exec (.gddr7Read b a e) s = .next t ∧ t.mem = s.mem ∧ t.veiled = s.veiled ∧ t.poison = s.poison) ∧
    (n % 64 = 0 → data.length = 64 → ∃ t, exec (.gddr7Write b a data e) s = .next t ∧ put t data ∧ t.poisoned (burstOf n) = false ∧
      (∀ k, k ≠ burstOf n → t.poisoned k = s.poisoned k) ∧ t.units = s.units ∧ t.jobs = s.jobs) ∧
    (n % 64 + data.length < 64 → s.poisoned (burstOf n) = false → wrong = 0 → ∃ t, exec (.gddr7Write b a data e) s = .next t ∧
      put t data ∧ t.poison = s.poison ∧ t.units = s.units ∧ t.jobs = s.jobs) ∧
    (n % 64 + data.length < 64 → s.poisoned (burstOf n) = true → ∃ t, exec (.gddr7Write b a data e) s = .next t ∧ t.mem = s.mem ∧
      t.veiled = s.veiled ∧ t.poison = s.poison))

/-- SCRUB_WINDOW and ECC_CORRECTED (R373, R374): in the window each serving controller checks its next block, one in a beat, and counts its
passes; with nothing found no byte and no poison changes; outside it nothing happens. A device's corrections are posted once 1,024 beats after
the last event, and held back before. The CXL ports (R378, R380, R381, R383, R501): a stream's completions are returned in the order of its
requests; an enabled port that trains with PRSNT# low comes UP with PERST# released, one without stays DOWN; one that goes down loses its
requests and keeps its decoders. A commit that fails a check shows its error and is not in force; one without others in its set is in force at
once; one in use cannot be taken back. -/
def Obligations.scrub_and_cxl : Prop :=
  (
    ∀ s : State, s.pwr.on = true →
      (∀ errs, 89 < s.time.phase → exec (.scrubWindow errs) s = .next s) ∧
      (∀ errs, s.time.phase ≤ 89 → ∃ t, exec (.scrubWindow errs) s = .next t ∧ t.time = s.time ∧ t.ports = s.ports ∧
        (∀ d, d < 48 → s.devServes d = true → (s.devAt d).lastScrub ≠ some s.time.beat → (t.devAt d).nextBlock = (s.devAt d).nextBlock + 1 ∧
          (t.devAt d).lastScrub = some s.time.beat ∧
          (t.devAt d).passes = if (s.devAt d).nextBlock.toNat + 1 = 2 ^ 21 then satAdd (s.devAt d).passes 1 else (s.devAt d).passes) ∧
        (∀ d, d < 48 → (s.devServes d = false ∨ (s.devAt d).lastScrub = some s.time.beat) → errs = [] → t.devAt d = s.devAt d) ∧
        (errs = [] → t.mem = s.mem ∧ t.poison = s.poison)) ∧
      (∀ d : Fin 48, s.time.phase ≠ 0 → exec (.eccCorrected d) s = .next s) ∧
      (∀ d : Fin 48, s.time.phase = 0 → (s.devAt d.val).since ≠ 0 → (s.devAt d.val).mayPost s.time.beat = true →
        ∃ t, exec (.eccCorrected d) s = .next t ∧
          t.devAt d.val = { s.devAt d.val with since := 0, hard := false, lastEvent := some s.time.beat } ∧ t.mem = s.mem ∧ t.jobs = s.jobs) ∧
      (∀ (d : Fin 48) b, (s.devAt d.val).lastEvent = some b → s.time.beat < b + 1024 → exec (.eccCorrected d) s = .next s)) ∧
  (
    ∀ (c : Fin 4) (s : State), s.pwr.on = true →
      let p := s.cxlAt c.val
      (∀ id poison ns, (∀ q ∈ p.reqs, q.id ≠ id ∨ q.done.isSome) → exec (.cxlCompletion c id poison ns) s = .next s) ∧
      (∀ id poison ns r l, p.reqs = r :: l → r.id = id → r.done = none → (∀ q ∈ l, q.id ≠ id) → (∀ q ∈ l, q.stream = r.stream → q.done = none) →
        ∃ t, exec (.cxlCompletion c id poison ns) s = .next t ∧ (t.cxlAt c.val).reqs = l ∧ (t.cxlAt c.val).hdm = p.hdm ∧ t.mem = s.mem) ∧
      (∀ id poison ns q r l, p.reqs = q :: r :: l → q.id ≠ id → q.done = none → q.stream = r.stream → r.id = id → r.done = none →
        (∀ x ∈ l, x.id ≠ id) → ∃ t, exec (.cxlCompletion c id poison ns) s = .next t ∧
          (t.cxlAt c.val).reqs = q :: { r with done := some poison } :: l ∧ t.mem = s.mem ∧ t.units = s.units) ∧
      (∀ prsnt full dv, (p.en = false ∨ 4 ≤ s.pwr.eff ∨ p.link = 2 ∧ p.hdm.any (·.committed) = true) → exec (.cxlPortUp c full dv prsnt) s = .next s) ∧
      (∀ full dv, p.en = true → s.pwr.eff < 4 → (p.link ≠ 2 ∨ p.hdm.any (·.committed) = false) →
        exec (.cxlPortUp c full dv false) s = .next (s.setCxl c.val { p with prsnt := false }) ∧
        ∃ t, exec (.cxlPortUp c full dv true) s = .next t ∧ (t.cxlAt c.val).link = 2 ∧ (t.cxlAt c.val).prsnt = true ∧ (t.cxlAt c.val).perst = false ∧
          (t.cxlAt c.val).full = full ∧ (t.cxlAt c.val).hdm = p.hdm ∧ (p.hdm.any (·.committed) = false → (t.cxlAt c.val).devices = dv) ∧
          t.mem = s.mem ∧ t.jobs = s.jobs) ∧
      (∀ cause : Fin 7, p.link = 0 → cause ≠ 3 → exec (.cxlPortDown c cause) s = .next s) ∧
      (∀ cause : Fin 7, p.link ≠ 0 → (∀ r ∈ p.reqs, r.write = false) → ∃ t, exec (.cxlPortDown c cause) s = .next t ∧
        (t.cxlAt c.val).link = 0 ∧ (t.cxlAt c.val).reqs = [] ∧ (t.cxlAt c.val).hdm = p.hdm ∧ (t.cxlAt c.val).perst = true ∧
        (t.cxlAt c.val).en = (if cause = 3 then false else p.en) ∧ t.mem = s.mem ∧ t.ports = s.ports) ∧
      (∀ (f : Func) (k : Fin 4) (v : U64) (ok : Bool), Served s (30 + c.val / 2) f → p.hdm.length = 4 →
        let r := s.exchange (30 + f.port.val) (30 + c.val / 2)
        let h0 := p.hdm.getD k.val .reset
        let h := { h0 with ways := if bits v 0 2 = 3 then h0.ways else BitVec.ofNat 2 (bits v 0 2), pos := BitVec.ofNat 2 (bits v 2 2) }
        let e := s.hdmErr c.val k.val h ok
        let got (t : State) : Hdm := (t.cxlAt c.val).hdm.getD k.val .reset
        (h0.committed = false → bit v 4 = true → e ≠ 0 → ∃ t, exec (.hdmCommit f c k v ok) s = .next t ∧
          got t = { h with commit := false, err := BitVec.ofNat 3 e } ∧ t.mem = s.mem) ∧
        (h0.committed = false → bit v 4 = true → e = 0 → ∃ t, exec (.hdmCommit f c k v ok) s = .next t ∧ (got t).commit = true ∧ (got t).err = 0 ∧
          (h.ways = 0 → (got t).committed = true) ∧ (got t).base = h0.base ∧ (got t).size = h0.size ∧ t.mem = s.mem) ∧
        (h0.committed = false → bit v 4 = false → ∃ t, exec (.hdmCommit f c k v ok) s = .next t ∧ got t = { h with commit := false, err := 0 }) ∧
        (h0.committed = true → bit v 4 = true → exec (.hdmCommit f c k v ok) s = .next r) ∧
        (h0.committed = true → bit v 4 = false → s.rangeBusy h0 = true → ∃ t, exec (.hdmCommit f c k v ok) s = .next t ∧
          got t = { h0 with err := 4 }) ∧
        (h0.committed = true → bit v 4 = false → s.rangeBusy h0 = false → ∃ t, exec (.hdmCommit f c k v ok) s = .next t ∧
          got t = { h0 with commit := false, committed := false, err := 0 })))

/-- Walks (R384, R386, R387): a leaf covers the address, its page is of one of the three sizes and aligned on both sides; with translation off no
address is present. TRANSLATION_WALK (R388, R393, R396, R400): an access of a job that is not GUARANTEED is cached on its die, or stalls its unit
on a fault of its own with a record; a GUARANTEED job that meets an unlocked page ends; an access in another context does nothing. -/
def Obligations.walks_and_their_faults : Prop :=
  ∀ (ctx : Fin 32) (dva : BitVec 57) (wr : Bool) (s : State),
    (∀ l, s.walk ctx.val dva.toNat = .ok l → l.lo ≤ dva.toNat ∧ dva.toNat < l.lo + l.size ∧ l.lo % l.size = 0 ∧ l.out % l.size = 0 ∧
      (l.size = 2 ^ 16 ∨ l.size = 2 ^ 21 ∨ l.size = 2 ^ 30)) ∧
    (bit (s.ctxAt ctx.val).ttCtrl 0 = false → s.walk ctx.val dva.toNat = .bad 1) ∧
    (∀ (x : UnitId) (j : Job), s.pwr.on = true → (s.unit x.addr).job = some j.jid → s.job? j.jid = some j →
      let asid := (s.ctxAt ctx.val).asid
      (j.ctx ≠ ctx → exec (.translationWalk (.unit x) ctx dva wr) s = .next s) ∧
      (∀ l, j.ctx = ctx → j.guaranteed = false → s.walk ctx.val dva.toNat = .ok l → s.tlb.any (fun e => e.die == x.addr / 16 && e.covers asid dva.toNat) = false →
        l.tgt = 0 →
        (if wr then l.w else l.r) = true → inCxl (l.out + (dva.toNat - l.lo)) = false → s.physCheck (l.out + (dva.toNat - l.lo)) = .ok (.phys (l.out + (dva.toNat - l.lo))) →
        exec (.translationWalk (.unit x) ctx dva wr) s = .next (s.cache (x.addr / 16) asid l)) ∧
      (∀ k, j.ctx = ctx → j.guaranteed = false → s.walk ctx.val dva.toNat = .bad k → k ≤ 11 → s.tlb.any (fun e => e.die == x.addr / 16 && e.covers asid dva.toNat) = false →
        s.faults.any (fun f => f.ctx.val == ctx.val && page64 f.dva == page64 dva.toNat && f.write == wr) = false →
        ∃ t i f, exec (.translationWalk (.unit x) ctx dva wr) s = .next t ∧ t.faults = s.faults ++ [f] ∧ f.cause = k ∧ f.dva = dva.toNat ∧
          f.jid = j.jid ∧ f.write = wr ∧ f.stream = x.addr ∧ (t.unit x.addr).wait = .fault dva.toNat ∧ t.job? j.jid = some i ∧ i.faulted = true ∧
          i.isExact = false ∧ t.mem = s.mem ∧ t.tlb = s.tlb) ∧
      (j.ctx = ctx → j.guaranteed = true → s.locked.any (fun e => e.covers asid dva.toNat) = false →
        ∃ t, exec (.translationWalk (.unit x) ctx dva wr) s = .next t ∧ t.job? j.jid = none ∧ t.mem = s.mem ∧ t.tlb = s.tlb))

/-- What resolves a fault (R390, R394, R399, R401): RETRY translates again and the unit goes on, ABORT ends the job, a resolution of no
outstanding fault is counted, one of a HOST_PAGE fault changes nothing. A page response translates again or leaves a new fault; a host
translation that arrives is cached; host pages invalidated are gone, with the locked entries over them. -/
def Obligations.fault_resolution : Prop :=
  ∀ s : State, s.pwr.on = true →
    (∀ (f : Func) (fid : U32), s.barOpen = true → s.dieAnswers (30 + f.port.val) = true →
      (s.faultOf f.ctx fid = none →
        exec (.retry f fid) s = .next (s.setCtx f.ctx { s.ctxAt f.ctx with stale := min ((s.ctxAt f.ctx).stale + 1) 65535 }) ∧
        exec (.abortFault f fid) s = .next (s.setCtx f.ctx { s.ctxAt f.ctx with stale := min ((s.ctxAt f.ctx).stale + 1) 65535 })) ∧
      (∀ g, s.faultOf f.ctx fid = some g → g.pri = true → exec (.retry f fid) s = .next s ∧ exec (.abortFault f fid) s = .next s) ∧
      (∀ g j x l, s.faultOf f.ctx fid = some g → g.pri = false → g.joined = [] → g.stream = x → x < 512 → s.job? g.jid = some j →
        (s.unit x).cmd?.isSome → (s.unit x).wait = .fault g.dva → g.dva < 2 ^ 57 → s.locate (whoOf x j) g.dva g.write = .ok l →
        ∃ t, exec (.retry f fid) s = .next t ∧ t.faults = s.faults.filter (fun h => h != g) ∧ (t.unit x).wait.code = 1 ∧
          (∀ y, y / 16 ≠ x / 16 → t.unit y = s.unit y) ∧
          t.jobs = (s.jobs.map fun k => if k.jid == g.jid && k.phase != .ended then { k with progress := true } else k) ∧ t.mem = s.mem) ∧
      (∀ g j, s.faultOf f.ctx fid = some g → g.pri = false → s.job? g.jid = some j →
        ∃ t, exec (.abortFault f fid) s = .next t ∧ t.job? g.jid = none ∧ (∀ h ∈ t.faults, h ≠ g ∧ h.jid ≠ g.jid) ∧ t.mem = s.mem)) ∧
    (∀ (ctx : Fin 32) fid, (∀ b, s.faultOf ctx.val fid = some b → b.pri = false) →
      exec (.pageResponse ctx fid false) s = .next s ∧
      exec (.pageResponse ctx fid true) s =
        .next { s with ats := s.ats.filter fun e => !(e.ctx == ctx.val && e.known && !e.present) }) ∧
    (∀ (ctx : Fin 32) fid g j l, s.faultOf ctx.val fid = some g → g.pri = true → g.joined = [] → g.stream < 512 → s.job? g.jid = some j →
      (s.unit g.stream).cmd?.isSome → (s.unit g.stream).wait = .fault g.dva → g.dva < 2 ^ 57 → (s.askAgain ctx.val).locate (whoOf g.stream j) g.dva g.write = .ok l →
      ∃ t, exec (.pageResponse ctx fid true) s = .next t ∧ t.faults = s.faults.filter (fun h => h != g) ∧ (t.unit g.stream).wait.code = 1 ∧
        t.mem = s.mem) ∧
    (∀ (port : Fin 2) (ctx : Fin 32) page (order : Fin 41) pr w, (∀ e ∈ s.units, e.2.wait.code ≠ 6) →
      ∃ t e, exec (.atsTranslationCompletion port page pr w ctx order) s = .next t ∧
      e ∈ t.ats ∧ e.port = port.val ∧ e.ctx = ctx.val ∧ e.page = page ∧ e.order = order.val ∧ e.known = true ∧ e.present = pr ∧ e.w = w ∧
      (∀ k ∈ t.ats, k.port = port.val → k.ctx = ctx.val → page ≤ k.page → k.page < page + 2 ^ order.val → k = e) ∧
      t.mem = s.mem ∧ t.jobs = s.jobs ∧ t.units = s.units) ∧
    (∀ (port : Fin 2) lo hi, ∃ t, exec (.atsInvalidation port lo hi) s = .next t ∧
      (∀ e, e ∈ t.ats ↔ e ∈ s.ats ∧ ¬(e.port = port.val ∧ e.page * 4096 < hi ∧ lo < (e.page + 2 ^ e.order) * 4096)) ∧
      (∀ e ∈ t.locked, e ∈ s.locked) ∧ (∀ e ∈ s.locked, e.tgt ≠ port.val + 1 → (∀ k ∈ s.locked, k.ctx = e.ctx → k.pin = e.pin → k.tgt = e.tgt) → e ∈ t.locked) ∧
      t.mem = s.mem ∧ t.jobs = s.jobs ∧ t.tlb = s.tlb)

/-- INVALIDATE and INVALIDATE_DONE (R388, R394), PIN_ENABLE, PIN_COMPLETE, PIN_DISABLE (R391, R394): GO clears DONE and revokes the pins it
covers; at DONE no covered translation of the address space is cached. A pin is set only while EN is 0, walks its range, and ends PINNED with its
leaves locked, or FAILED, or asks the host for a page and goes on; clearing EN releases them. A second GO completes the first with its own range. -/
def Obligations.invalidation_and_pins : Prop :=
  ∀ (f : Func) (i : Fin 64) (v : U64) (s : State), s.pwr.on = true → s.barOpen = true → s.dieAnswers (30 + f.port.val) = true →
    let c := s.ctxAt f.ctx
    let p := c.pinAt i.val
    (bit v 0 = true → c.invalBusy = false → ∃ t, exec (.invalidate f v) s = .next t ∧ (t.ctxAt f.ctx).invalBusy = true ∧
      bit (t.ctxAt f.ctx).invalCtrl 2 = false ∧ bits (t.ctxAt f.ctx).invalCtrl 16 32 = bits v 16 32 ∧ t.tlb = s.tlb ∧ t.mem = s.mem ∧
      (∀ e ∈ t.locked, e ∈ s.locked ∧ ¬(e.asid = c.asid ∧ (t.ctxAt f.ctx).invalHits e.lo e.size = true))) ∧
    (bit v 0 = true → c.invalBusy = true → ∃ t, exec (.invalidate f v) s = .next t ∧ (t.ctxAt f.ctx).invalBusy = true ∧
      t.tlb = s.tlb.filter (fun e => !(e.asid == c.asid && c.invalHits e.lo e.size)) ∧ bits (t.ctxAt f.ctx).invalCtrl 16 32 = bits v 16 32 ∧ t.mem = s.mem) ∧
    (bit v 0 = false → exec (.invalidate f v) s = .next s ∧ exec (.pinEnable f i v) s = .next s) ∧
    (∀ ctx : Fin 32, let d := s.ctxAt ctx.val
      (d.invalBusy = false → exec (.invalidateDone ctx) s = .next s) ∧
      (d.invalBusy = true → exec (.invalidateDone ctx) s = .next
        (({ s with tlb := s.tlb.filter fun e => !(e.asid == d.asid && d.invalHits e.lo e.size) } : State).setCtx ctx.val
          { d with invalBusy := false, invalCtrl := putField d.invalCtrl 2 1 1 }))) ∧
    (p.en = true → exec (.pinEnable f i v) s = .next s) ∧
    (p.en = false → bit v 0 = true → ∃ t, exec (.pinEnable f i v) s = .next t ∧
      (t.ctxAt f.ctx).pinAt i.val = { p with en := true, w := bit v 1, base := bits v 16 41 * 65536, st := 1, cause := 0, gone := false } ∧
      (∀ k, k ≠ i.val → (t.ctxAt f.ctx).pinAt k = c.pinAt k) ∧ t.locked = s.locked ∧ t.mem = s.mem) ∧
    (p.en = false → exec (.pinDisable f i) s = .next s) ∧
    (p.en = true → ∃ t, exec (.pinDisable f i) s = .next t ∧
      (t.ctxAt f.ctx).pinAt i.val = { p with en := false, st := 0, cause := 0, gone := p.st == 2 || p.st == 4 } ∧
      t.locked = s.locked.filter (fun e => !(e.ctx == f.ctx && e.pin == i.val)) ∧ t.mem = s.mem) ∧
    (∀ ctx : Fin 32, let q := (s.ctxAt ctx.val).pinAt i.val
      (q.st ≠ 1 → exec (.pinComplete ctx i) s = .next s) ∧
      (∀ k, q.st = 1 → q.en = true → s.pinWalk ctx.val q.w q.base q.limit 513 q.base = .failed k → ∃ t, exec (.pinComplete ctx i) s = .next t ∧
        (t.ctxAt ctx.val).pinAt i.val = { q with st := 3, cause := k } ∧ t.locked = s.locked) ∧
      (∀ port page, q.st = 1 → q.en = true → s.pinWalk ctx.val q.w q.base q.limit 513 q.base = .ask port page →
        exec (.pinComplete ctx i) s = .next (s.askHost port ctx.val page true)) ∧
      (∀ ls, q.st = 1 → q.en = true → s.pinWalk ctx.val q.w q.base q.limit 513 q.base = .leaves ls → (∀ l ∈ ls, l.1.tgt = 0) →
        grantsOf 0 s.locked ≤ 16384 → grantsOf 1 s.locked ≤ 16384 →
        (512 < s.locked.length + ls.length → ∃ t, exec (.pinComplete ctx i) s = .next t ∧
          (t.ctxAt ctx.val).pinAt i.val = { q with st := 3, cause := 4 } ∧ t.locked = s.locked) ∧
        (s.locked.length + ls.length ≤ 512 → ∃ t, exec (.pinComplete ctx i) s = .next t ∧
          (t.ctxAt ctx.val).pinAt i.val = { q with st := 2, cause := 0 } ∧ t.mem = s.mem ∧
          t.locked = s.locked ++ ls.map fun l =>
            { die := 0, asid := (s.ctxAt ctx.val).asid, lo := l.1.lo, size := l.1.size, tgt := 0, out := l.1.out, w := l.1.w, ctx := ctx.val, pin := i.val,
              grants := l.2 })))

/-- Doorbells (R412): a poll at phase 0000 asks for the line of every enabled context on an UP port trained as PCIe, an invalidation for that of
a context on a CXL port. A torn line changes nothing but the byte count; one that meets the conditions gives the indices; any other sets DB_ERR
and moves no index. DESCRIPTOR_FETCH (R413): no more descriptors than the ring holds, than 16 of a context and 64 of a port in a beat; they are
candidates from the next boundary if fetched by phase 1800, else from the one after. -/
def Obligations.doorbells_and_fetch : Prop :=
  (
    ∀ s : State, s.pwr.on = true →
      (s.time.phase ≠ 0 → exec .doorbellPoll s = .next s) ∧
      (s.time.phase = 0 → ∃ t, exec .doorbellPoll s = .next t ∧ t.mem = s.mem ∧ t.host = s.host ∧ ∀ n, n < 32 →
        t.ctxAt n = { s.ctxAt n with dbWatch := (s.ctxAt n).dbWatch || (s.served n && !(s.hpAt (n / 16)).cxl) }) ∧
      (∀ n : Fin 32,
        (s.served n.val = true → (s.hpAt (n.val / 16)).cxl = true →
          ∃ t, exec (.doorbellInvalidate n) s = .next t ∧ t.ctxAt n.val = { s.ctxAt n.val with dbWatch := true } ∧ t.jobs = s.jobs) ∧
        ((s.served n.val = false ∨ (s.hpAt (n.val / 16)).cxl = false) → exec (.doorbellInvalidate n) s = .next s)) ∧
      (∀ (n : Fin 32) (l : BitVec 512), let c := s.ctxAt n.val
        ((s.served n.val = false ∨ c.dbWatch = false) → exec (.doorbellLine n l) s = .next s) ∧
        (s.served n.val = true → c.dbWatch = true → bits l 480 32 ≠ bits l 0 32 →
          exec (.doorbellLine n l) s = .next (s.cntAdd (cntHost (n.val / 16) 0) 64)) ∧
        (s.served n.val = true → c.dbWatch = true → bits l 480 32 = bits l 0 32 → c.lineOk l = true → ∃ t, exec (.doorbellLine n l) s = .next t ∧
          (t.ctxAt n.val).sub = { c.sub with head := bits l 32 32 } ∧ (t.ctxAt n.val).cpl.head = bits l 64 32 ∧
          (t.ctxAt n.val).evt.head = bits l 96 32 ∧ (t.ctxAt n.val).flt.head = bits l 128 32 ∧ (t.ctxAt n.val).dbErr = false ∧
          (t.ctxAt n.val).lastSeq = some (bits l 0 32) ∧ t.jobs = s.jobs ∧ t.mem = s.mem) ∧
        (s.served n.val = true → c.dbWatch = true → bits l 480 32 = bits l 0 32 → c.lineOk l = false → ∃ t, exec (.doorbellLine n l) s = .next t ∧
          t.ctxAt n.val = { c with dbErr := true, dbWatch := false, statusDirty := true } ∧ t.host = s.host))) ∧
  (
    ∀ (n : Fin 32) (ds : List Fetched) (s : State), s.pwr.on = true →
      let c := s.ctxAt n.val
      (s.served n.val = false → exec (.descriptorFetch n ds) s = .next s) ∧
      (s.served n.val = true → ∃ t k, exec (.descriptorFetch n ds) s = .next t ∧
        k = min (min ds.length ((c.sub.head + 2 ^ 32 - c.sub.tail) % 2 ^ 32)) (min (16 - c.fetchedBeat) (64 - (s.hpAt (n.val / 16)).fetched)) ∧
        (t.ctxAt n.val).sub = { c.sub with tail := (c.sub.tail + k) % 2 ^ 32 } ∧ (t.ctxAt n.val).fetchedBeat = c.fetchedBeat + k ∧
        (t.hpAt (n.val / 16)).fetched = (s.hpAt (n.val / 16)).fetched + k ∧
        (s.time.phase ≤ 1800 → (t.ctxAt n.val).cands = c.cands ++ (ds.take k).map fun f => (f, s.time.beat + 1)) ∧
        (1800 < s.time.phase → (t.ctxAt n.val).cands = c.cands ++ (ds.take k).map fun f => (f, s.time.beat + 2)) ∧ t.jobs = s.jobs ∧ t.mem = s.mem))

/-- Contexts and host ports (R406, R407, R410): EN = 1 takes effect while the four sizes are valid; EN = 0 ends every live job of the context. A
port down for 1,000 beats ends the jobs of its sixteen contexts, and control moves to an UP port; the control function may hand it over from its
own port. -/
def Obligations.contexts_and_links : Prop :=
  ∀ s : State, s.pwr.on = true →
    (∀ f : Func, s.barOpen = true → s.dieAnswers (30 + f.port.val) = true → let c := s.ctxAt f.ctx
      ((c.en = true ∨ (c.sub.sizeOk && c.cpl.sizeOk && c.evt.sizeOk && c.flt.sizeOk) = false) → exec (.contextEnable f) s = .next s) ∧
      (c.en = false → (c.sub.sizeOk && c.cpl.sizeOk && c.evt.sizeOk && c.flt.sizeOk) = true → ∃ t, exec (.contextEnable f) s = .next t ∧
        (t.ctxAt f.ctx).en = true ∧ (t.ctxAt f.ctx).sub.tail = 0 ∧ (t.ctxAt f.ctx).sub.head = 0 ∧ (t.ctxAt f.ctx).cpl.tail = 0 ∧
        (t.ctxAt f.ctx).evt.tail = 0 ∧ (t.ctxAt f.ctx).flt.tail = 0 ∧ (∀ n, n ≠ f.ctx → t.ctxAt n = s.ctxAt n) ∧ t.jobs = s.jobs) ∧
      (c.en = true → ∃ t, exec (.contextDisable f) s = .next t ∧ (t.ctxAt f.ctx).en = false ∧
        (∀ j ∈ t.jobs, j.live = true → j.ctx.val ≠ f.ctx) ∧
        (∀ j ∈ s.jobs, (∀ k ∈ s.jobs, k.jid = j.jid → k.ctx.val ≠ f.ctx) → j ∈ t.jobs) ∧ t.mem = s.mem) ∧
      (c.en = false → exec (.contextDisable f) s = .next s)) ∧
    (∀ (f : Func) (p : Fin 2), s.barOpen = true → s.dieAnswers (30 + p.val) = true → let r := s.exchange (30 + f.port.val) (30 + p.val)
      (s.isControl f = false → exec (.handover f p) s = .next (r.deny f)) ∧
      (s.isControl f = true → f.port = p → (s.hpAt (1 - p.val)).link = 2 →
        exec (.handover f p) s = .next (r.setHp p.val { s.hpAt p.val with handover := true })) ∧
      (s.isControl f = true → (f.port ≠ p ∨ (s.hpAt (1 - p.val)).link ≠ 2) → exec (.handover f p) s = .next r)) ∧
    (∀ p : Fin 2,
      (((s.hpAt p.val).link = 2 ∨ (s.hpAt p.val).downBeats < 1000 ∨ s.time.phase ≠ 0) → exec (.portLinkTimeout p) s = .next s) ∧
      ((s.hpAt p.val).link ≠ 2 → 1000 ≤ (s.hpAt p.val).downBeats → s.time.phase = 0 → ∃ t, exec (.portLinkTimeout p) s = .next t ∧
        (∀ j ∈ t.jobs, j.live = true → j.ctx.val / 16 ≠ p.val) ∧ t.mem = s.mem ∧
        ((s.hpAt p.val).control = true → (s.hpAt (1 - p.val)).link = 2 → (t.hpAt p.val).control = false ∧ (t.hpAt (1 - p.val)).control = true) ∧
        ((s.hpAt p.val).control = false → t.hp = s.hp)) ∧
      ((s.hpAt p.val).link ≠ 2 → exec (.hostLinkDown p) s = .next s) ∧
      (∀ cxl full, (s.hpAt p.val).link = 2 → exec (.hostLinkUp p cxl full) s = .next s) ∧
      ((s.hpAt p.val).link = 2 → ∃ t, exec (.hostLinkDown p) s = .next t ∧ (t.hpAt p.val).link = 0 ∧ (t.hpAt p.val).downBeats = 0 ∧
        (t.hpAt p.val).control = (s.hpAt p.val).control ∧ t.jobs = s.jobs ∧ t.mem = s.mem) ∧
      (∀ cxl full, (s.hpAt p.val).link ≠ 2 → ∃ t, exec (.hostLinkUp p cxl full) s = .next t ∧ (t.hpAt p.val).link = 2 ∧
        (t.hpAt p.val).cxl = cxl ∧ (t.hpAt p.val).full = full ∧ (t.hpAt p.val).downBeats = 0 ∧
        (t.hpAt p.val).control = (s.hpAt p.val).control ∧ t.jobs = s.jobs ∧ t.mem = s.mem))

/-- RUN (R415, R417 to R420): of the next candidate, a malformed one leaves no job; at L2 or higher it is refused; a GUARANTEED one of this
module gets a base the calendar allows, later than the next boundary, clear of every other reservation, within its deadline; any other waits for
lendable time. A share of its host port that the port does not have is no base (log entry 76). What is refused leaves the jobs as they were. -/
def Obligations.run_admission : Prop :=
  ∀ (n : Nat) (f : Fetched) (s : State), s.pwr.on = true → s.nextCand = some (n, f) → dKind f.desc = 0 → n < 32 →
    let s0 := s.dropCand n
    let d := f.desc
    (∀ c, s0.runCause n f = some c → ∃ t, exec .run s = .next t ∧ t.jobs = s.jobs ∧ (t.ctxAt n).cands = (s.ctxAt n).cands.tail ∧ t.mem = s.mem) ∧
    (∀ b, f.bin = some b → s0.runCause n f = none → dReplay d = false →
      (2 ≤ s.pwr.eff → ∃ t, exec .run s = .next t ∧ t.jobs = s.jobs ∧ (t.ctxAt n).cands = (s.ctxAt n).cands.tail) ∧
      (dRecord d = false → dTrace d = false → b.report.sampleStrobe = false → b.report.crossModule = false → s.pwr.eff < 2 →
        s0.capacity n (dClass d) false b.report.torus 0 = true → s0.resident n d b (dClass d == 0) false = true →
        (dClass d = 0 → (s0.portShareOk (n / 16) b.report.portShare = false ∨ s0.findBase (n / 16) b.report.reserveBeats (dNotBefore d) (dDeadline d) = none) → ∃ t, exec .run s = .next t ∧ t.jobs = s.jobs) ∧
        (∀ bb, dClass d = 0 → s0.portShareOk (n / 16) b.report.portShare = true → s0.findBase (n / 16) b.report.reserveBeats (dNotBefore d) (dDeadline d) = some bb →
          dNotBefore d ≤ bb ∧ s.time.beat + 2 ≤ bb ∧ apart (s.spans 0) bb b.report.reserveBeats = true ∧
            (dDeadline d = 0 ∨ bb + b.report.reserveBeats ≤ dDeadline d) ∧
            ∃ t j, exec .run s = .next t ∧ t.jobs = s.jobs ++ [j] ∧ j.jid = dJob d ∧ j.ctx.val = n ∧ j.phase = .admitted ∧ j.base = bb ∧
              j.endBeat = bb + b.report.reserveBeats ∧ j.bin = b ∧ j.cls = 0 ∧ j.isExact = true) ∧
        (dClass d ≠ 0 → ∃ t j, exec .run s = .next t ∧ t.jobs = s.jobs ++ [j] ∧ j.jid = dJob d ∧ j.ctx.val = n ∧
          j.phase = .waiting ∧ j.bin = b ∧ j.cls.toNat = dClass d)))

/-- RESUME, PREEMPT and ABORT of the next candidate (R416, R430, R433 to R435): a preempted GUARANTEED job's reservation moves by what it missed,
a job with cross-module marks rejoins at a period to come; a PREEMPTIBLE job named by PREEMPT stops, any other target is a fault record only;
ABORT ends the job named. -/
def Obligations.resume_preempt_abort : Prop :=
  ∀ (n : Nat) (f : Fetched) (s : State), s.pwr.on = true → s.nextCand = some (n, f) → descOk f.desc = true → n < 32 →
    let s0 := s.dropCand n
    let d := f.desc
    (dKind d = 1 → s0.resumable n d = none → ∃ t, exec .resume s = .next t ∧ t.jobs = s.jobs ∧ t.saves = s.saves) ∧
    (∀ j, dKind d = 1 → s0.resumable n d = some j → j.ctx.val = n → s0.job? j.jid = some j → s.pwr.eff < 2 →
      s0.capacity n j.cls.toNat j.cross j.bin.report.torus j.jid = true → s0.resident n j.desc j.bin j.guaranteed j.cross = true →
      let br := s.time.beat + saveBeats j.bin
      (j.cross = true → s.time.st = .locked → j.rejoinPeriod br < j.periods → ∃ t i, exec .resume s = .next t ∧ t.job? j.jid = some i ∧
        i.phase = .resuming ∧ i.rejoin = j.rejoinPeriod br ∧ i.base = j.base) ∧
      (j.cross = true → (s.time.st ≠ .locked ∨ j.periods ≤ j.rejoinPeriod br) → ∃ t, exec .resume s = .next t ∧ t.jobs = s.jobs) ∧
      (j.cross = false →
      (j.guaranteed = true → s0.baseOk (n / 16) br (j.endBeat - j.saveAt) 0 (dDeadline j.desc) j.jid = true → ∃ t i, exec .resume s = .next t ∧
        t.job? j.jid = some i ∧ i.phase = .resuming ∧ i.base = j.base + (br - j.saveAt) ∧ i.endBeat = j.endBeat + (br - j.saveAt)) ∧
      (j.guaranteed = true → s0.baseOk (n / 16) br (j.endBeat - j.saveAt) 0 (dDeadline j.desc) j.jid = false → ∃ t, exec .resume s = .next t ∧
        t.jobs = s.jobs) ∧
      (j.guaranteed = false → ∃ t i, exec .resume s = .next t ∧ t.job? j.jid = some i ∧ i.phase = .parked))) ∧
    (∀ j, dKind d = 1 → s0.resumable n d = some j → 2 ≤ s.pwr.eff → ∃ t, exec .resume s = .next t ∧ t.jobs = s.jobs) ∧
    (∀ j, dKind d = 2 → s0.target n (dJob d) = some j → s0.job? j.jid = some j →
      (j.preemptible = true → j.phase = .running → ∃ t i, exec .preempt s = .next t ∧ t.job? j.jid = some i ∧ i.phase = .stopping ∧ i.cause = 3 ∧
        t.units = s.units ∧ t.mem = s.mem) ∧
      (j.preemptible = false → ∃ t, exec .preempt s = .next t ∧ t.jobs = s.jobs ∧ t.mem = s.mem)) ∧
    (dKind d = 2 → s0.target n (dJob d) = none → ∃ t, exec .preempt s = .next t ∧ t.jobs = s.jobs) ∧
    (∀ j, dKind d = 3 → s0.target n (dJob d) = some j → ∃ t, exec .abort s = .next t ∧ t.job? j.jid = none ∧ t.mem = s.mem ∧
      (∀ k ∈ s.jobs, k.jid ≠ j.jid → k ∈ t.jobs)) ∧
    (dKind d = 3 → s0.target n (dJob d) = none → ∃ t, exec .abort s = .next t ∧ t.jobs = s.jobs)

/-- JOB_START and LENT_JOB_START (R63, R418, R420, R421): at a boundary from its base on, below L3, an admitted job runs: its units hold their
commands' job, its sync objects are armed; before its base nothing happens. A waiting job that fits in lendable time runs from this beat; a
parked one is restored, its times moved. A training job runs from the bank whose label is that of its START_STEP (R298). -/
def Obligations.job_start : Prop :=
  ∀ (jid : U64) (s : State) (j : Job), s.pwr.on = true → s.job? jid = some j →
    let runs (t : State) : Prop := (∀ p ∈ j.bin.units, (t.unit p.x.addr).job = some jid) ∧ (∀ d ∈ j.bin.syncs, (t.sync d.sid.toNat).armed = true ∧
      (t.sync d.sid.toNat).ctx.toNat = j.ctx.val)
    (j.phase = .admitted → s.time.phase = 0 → j.base ≤ s.time.beat → s.pwr.eff < 3 → j.bin.update = none → (j.cross = false ∨ j.rejoin = 0) →
      ∃ t i, exec (.jobStart jid) s = .next t ∧ t.job? jid = some i ∧ i.phase = .running ∧ i.base = j.base ∧ i.endBeat = j.endBeat ∧ runs t) ∧
    (j.phase = .admitted → s.time.phase = 0 → j.base ≤ s.time.beat → s.pwr.eff < 3 → j.bin.update = none → j.cross = true → j.rejoin ≠ 0 →
      ∃ t i, exec (.jobStart jid) s = .next t ∧ t.job? jid = some i ∧ i.phase = .running ∧ i.period = j.rejoin ∧ runs t) ∧
    (∀ a b bank fresh, j.phase = .admitted → s.time.phase = 0 → j.base ≤ s.time.beat → s.pwr.eff < 3 → j.bin.update ≠ none → (j.cross = false ∨ j.rejoin = 0) →
      let w : Who := { unit := 30, isDie := true, ctx := j.ctx.val, jid := jid, lockedOnly := j.guaranteed }
      s.labelOf w j false = .ok a → s.labelOf w j true = .ok b → pickBank (dStart j.desc).toNat a b = some (bank, fresh) →
      ∃ t i, exec (.jobStart jid) s = .next t ∧ t.job? jid = some i ∧ i.phase = .running ∧ i.active = bank ∧ i.base = j.base ∧ runs t) ∧
    ((j.phase ≠ .admitted ∨ s.time.phase ≠ 0 ∨ s.time.beat < j.base ∨ 3 ≤ s.pwr.eff) → exec (.jobStart jid) s = .next s) ∧
    (j.phase = .waiting → s.time.phase = 0 → s.lentNow = none → s.pwr.eff < 3 → s.lentQueue.head? = some j → s.mayLend j = true → j.bin.update = none →
      ∃ t i, exec (.lentJobStart jid) s = .next t ∧ t.job? jid = some i ∧ i.phase = .running ∧ i.lent = true ∧ i.base = s.time.beat ∧
        i.endBeat = s.time.beat + j.bin.report.reserveBeats ∧ runs t) ∧
    (j.phase = .parked → s.time.phase = 0 → s.lentNow = none → s.pwr.eff < 3 → s.lentQueue.head? = some j → s.mayLend j = true →
      ∃ t i, exec (.lentJobStart jid) s = .next t ∧ t.job? jid = some i ∧ i.phase = .resuming ∧ i.lent = true ∧
        i.base = j.base + (s.time.beat + saveBeats j.bin - j.saveAt) ∧ t.units = s.units ∧ t.mem = s.mem) ∧
    ((s.lentNow.isSome = true ∨ ∃ k, s.lentQueue.head? = some k ∧ (k.jid ≠ jid ∨ s.mayLend k = false)) → exec (.lentJobStart jid) s = .next s)

/-- PARK, RESERVATION_END and JOB_END (R421, R423, R431): a lent job stops before its stretch of lendable time ends; a preempted job whose
reservation has passed ends late; a job whose units are done and whose end mark has passed ends on time, and nothing of it stays on the module. -/
def Obligations.job_end : Prop :=
  ∀ (jid : U64) (s : State) (j : Job), s.pwr.on = true → s.job? jid = some j →
    let gone (t : State) : Prop := t.job? jid = none ∧ (∀ x, (t.unit x).job ≠ some jid) ∧ (∀ m ∈ t.marks, m.jid ≠ jid) ∧
      (∀ m ∈ t.recfgs, m.jid ≠ jid) ∧ (∀ m ∈ t.faults, m.jid ≠ jid) ∧ (∀ m ∈ t.saves, m.jid ≠ jid) ∧
      (∀ q ∈ binQueues j.bin, t.queue q = .reset) ∧ (∀ d ∈ j.bin.syncs, (t.sync d.sid.toNat).armed = false) ∧ t.mem = s.mem ∧
      (∀ k ∈ s.jobs, k.jid ≠ jid → k ∈ t.jobs)
    (j.lent = true → j.preemptible = true → j.phase = .running → s.time.phase = 0 → s.lendsFor (saveBeats j.bin + 1) = false →
      ∃ t i, exec (.park jid) s = .next t ∧ t.job? jid = some i ∧ i.phase = .stopping ∧ i.cause = 0 ∧ t.units = s.units) ∧
    (s.lendsFor (saveBeats j.bin + 1) = true → exec (.park jid) s = .next s) ∧
    (j.phase = .preempted → j.guaranteed = true → j.endBeat ≤ s.time.beat →
      exec (.reservationEnd jid) s = .next (s.finish j 1 (j.firstReason.getD 3) (s.time.beat - j.endBeat)) ∧
      ∃ t, exec (.reservationEnd jid) s = .next t ∧ gone t) ∧
    (s.time.beat < j.endBeat → exec (.reservationEnd jid) s = .next s) ∧
    (j.phase = .running → j.bin.update = none → s.unitsDone j = true → s.endPending jid = false →
      (∃ t, exec (.jobEnd jid) s = .next t ∧ gone t) ∧
      (s.obs.recs = [] → (∀ l, j.limit = some l → s.gt ≤ l) → bit j.reasons 0 = false → exec (.jobEnd jid) s = .next (s.finish j 0 0 0))) ∧
    ((s.unitsDone j = false ∨ j.phase ≠ .running ∨ j.bin.update ≠ none ∨ s.endPending jid = true) → exec (.jobEnd jid) s = .next s)

/-- Global counters, traces and shared resources (R442, R447 to R449, R467 to R469, R508, R509): SNAP and CLEAR are held for the next phase 0000;
a drain with room writes two records of a die into its ring and drops them from the SRAM; DROP and TRIGGER records and events come at their
limits; a claim is held for the next boundary, port A's of one cycle before port B's (R33); an edge on TRIG that counts goes to the pin's owner. -/
def Obligations.counters_traces_resources : Prop :=
  ∀ s : State, s.pwr.on = true →
    (∀ f : Func, s.barOpen = true → s.dieAnswers 30 = true → let e := s.exchange (30 + f.port.val) 30
      (s.isControl f = true → exec (.snap f) s = .next { e with obs := { s.obs with snapReq := true } } ∧
        exec (.clear f) s = .next { e with obs := { s.obs with clearReq := true } }) ∧
      (s.isControl f = false → exec (.snap f) s = .next (e.deny f) ∧ exec (.clear f) s = .next (e.deny f)) ∧
      (∀ r w, let c : ClaimReq := { ctx := f.ctx, what := r, want := w, gt := s.gt, port := f.port.val }
        exec (.resourceClaim f r w) s = .next { e with obs := { s.obs with claims := insertClaim c s.obs.claims } } ∧
        ((∀ q ∈ s.obs.claims, ¬(q.ctx = f.ctx ∧ q.what = r ∧ q.gt = s.gt ∧ f.port.val < q.port)) →
          insertClaim c s.obs.claims = s.obs.claims ++ [c]))) ∧
    (let t := s.countBoundary;
      (s.obs.snapReq = true → t.obs.snap = s.obs.cnt ∧ t.obs.status = s.gtNow) ∧ (s.obs.snapReq = false → t.obs.snap = s.obs.snap) ∧
      (s.obs.snapReq = true → t.fabric.snap = s.traffic) ∧ (s.obs.clearReq = true → t.obs.cnt = [] ∧ t.fabric.live.words = [] ∧ t.fabric.live.loads = []) ∧ (s.obs.clearReq = false → t.obs.cnt = s.obs.cnt)) ∧
    (∀ (d : Fin 32) r1 r2 l s1 s2,
      let c := s.ctxAt (s.traceAt d.val).ctx.toNat
      let w : Who := { unit := d.val, isDie := true, ctx := (s.traceAt d.val).ctx.toNat, jid := (s.traceAt d.val).jid.getD 0, lockedOnly := false }
      s.dumpHolds = false → c.drainEn = true → c.ringRoom = true → (s.traceAt d.val).gap = 0 → (s.traceAt d.val).recs = r1 :: r2 :: l →
      (c.ringTail + 2 ^ 32 + 1 - c.ringHead) % 2 ^ 32 < 2 ^ c.ringLog → c.ringTail + 1 < 2 ^ 32 →
      s.store w (c.ringBase + 32 * (c.ringTail % 2 ^ c.ringLog)) (bytesOf 32 r1.toNat) = .ok s1 →
      (s.drainOne d.val).store w (c.ringBase + 32 * ((c.ringTail + 1) % 2 ^ c.ringLog)) (bytesOf 32 r2.toNat) = .ok s2 →
      ∃ t, exec (.traceDrain d) s = .next t ∧ t.mem = s2.mem ∧ (t.traceAt d.val).recs = l ∧
        (t.ctxAt (s.traceAt d.val).ctx.toNat).ringTail = (c.ringTail + 2) % 2 ^ 32) ∧
    (∀ d : Fin 32, let t0 := s.traceAt d.val
      (s.dumpHolds = true → exec (.traceDrain d) s = .next s) ∧
      ((s.ctxAt t0.ctx.toNat).drainEn = false → exec (.traceDrain d) s = .next s) ∧
      (t0.sinceEvent ≠ 0 → (∀ b, t0.lastEvent = some b → b + 1024 ≤ s.time.beat) → ∃ t, exec (.traceDrop d) s = .next t ∧
        t.traceAt d.val = { t0 with sinceEvent := 0, lastEvent := some s.time.beat } ∧ t.mem = s.mem) ∧
      (t0.sinceEvent = 0 → exec (.traceDrop d) s = .next s)) ∧
    (∀ f : Func, s.barOpen = true → s.dieAnswers (30 + f.port.val) = true → s.ctxTraces f.ctx = false → exec (.softTrig f) s = .next s) ∧
    (∀ f : Func, s.barOpen = true → s.dieAnswers (30 + f.port.val) = true → s.ctxTraces f.ctx = true →
      (s.ctxAt f.ctx).trigAt = none → (s.ctxAt f.ctx).trigDone = false → bits (s.ctxAt f.ctx).traceCfg 3 3 = 0 →
      exec (.softTrig f) s = .next (s.setCtx f.ctx { s.ctxAt f.ctx with trigAt := some s.gt, trigSrc := 0 })) ∧
    (∀ n : Fin 32, ((s.ctxAt n.val).trigAt = none → exec (.trigger n) s = .next s) ∧
      (∀ g, (s.ctxAt n.val).trigAt = some g → s.gt < g + 256 → exec (.trigger n) s = .next s) ∧
      (∀ g, (s.ctxAt n.val).trigAt = some g → g + 256 ≤ s.gt → ∃ t, exec (.trigger n) s = .next t ∧ (t.ctxAt n.val).trigAt = none ∧
        (t.ctxAt n.val).trigDone = true ∧ (∀ d, d < 32 → (s.traceAt d).jid.isSome = true → (s.traceAt d).ctx.toNat = n.val →
          (t.traceAt d).triggered = true) ∧ t.mem = s.mem)) ∧
    (∀ lo si, ((lo < 10 ∨ si ≤ 20) → exec (.trigEdge lo si) s = .next s) ∧
      (10 ≤ lo → 20 < si → s.obs.trigOwner = 1 → exec (.trigEdge lo si) s =
        .next { s with pins := { s.pins with trigLast := some s.gt, strobes := s.pins.strobes + 1 } }) ∧
      (10 ≤ lo → 20 < si → s.obs.trigOwner = 0 → exec (.trigEdge lo si) s = .next { s with pins := { s.pins with trigLast := some s.gt } }))

/-- The hang detector and the String Dump (R453 to R457): a silent job is reported once and asks for a dump; one dump at a time is asked for,
another is BUSY; at its boundary it is NO_AREA without a pinned area, NOT_TAKEN over a job being saved, else every running job in its scope
stops; ten beats on they run again and the dump is counted. -/
def Obligations.hang_and_dump : Prop :=
  ∀ s : State, s.pwr.on = true →
    (∀ jid j, s.job? jid = some j → s.time.phase = 0 → j.hung = false → j.phase = .running → (s.ctxAt j.ctx.val).hangBeats ≤ j.silentBeats →
      ∃ t i, exec (.hang jid) s = .next t ∧ t.job? jid = some i ∧ i.hung = true ∧ t.units = s.units ∧ t.mem = s.mem ∧
        (s.obs.dumps = [] → ∃ d, t.obs.dumps = [d] ∧ d.ctx = j.ctx ∧ d.at_ = s.time.beat ∧ d.taken = false)) ∧
    (∀ jid j, s.job? jid = some j → s.time.phase ≠ 0 ∨ j.hung = true ∨ j.phase ≠ .running ∨ j.silentBeats < (s.ctxAt j.ctx.val).hangBeats → exec (.hang jid) s = .next s) ∧
    (∀ (f : Func) (sc : Bool), s.barOpen = true → s.dieAnswers (30 + f.port.val) = true →
      let scope := if s.traceBusy f.ctx then bit (s.ctxAt f.ctx).dumpCtrl 1 else sc && s.isControl f
      (s.obs.dumps = [] → ∃ t d, exec (.dumpRequest f sc) s = .next t ∧ t.obs.dumps = [d] ∧ d.ctx.val = f.ctx ∧
        d.scope = (scope && s.isControl f) ∧ d.at_ = s.time.beat + 1 ∧ d.taken = false ∧ (t.ctxAt f.ctx).dumpState = 1 ∧ t.jobs = s.jobs ∧ t.mem = s.mem) ∧
      (s.obs.dumps ≠ [] → ∃ t, exec (.dumpRequest f sc) s = .next t ∧ t.obs = s.obs ∧ bits (t.ctxAt f.ctx).dumpCtrl 4 3 = 2 ∧ t.jobs = s.jobs)) ∧
    ((∀ d ∈ s.obs.dumps, d.taken = true ∨ s.time.beat < d.at_) ∨ s.time.phase ≠ 0 → exec .stringDump s = .next s) ∧
    (∀ d l, s.obs.dumps = d :: l → d.taken = false → d.at_ ≤ s.time.beat → s.time.phase = 0 →
      let base := (s.ctxAt d.ctx.val).dumpBase
      ((base = 0 ∨ s.isPinned d.ctx.val base 0x2000000 true = false) → ∃ t, exec .stringDump s = .next t ∧ t.obs.dumps = [] ∧
        (t.ctxAt d.ctx.val).dumpState = 0 ∧ bits (t.ctxAt d.ctx.val).dumpCtrl 4 3 = 1 ∧ t.jobs = s.jobs ∧ t.mem = s.mem) ∧
      (base ≠ 0 → s.isPinned d.ctx.val base 0x2000000 true = true → (s.dumpJobs d).any Job.beingSaved = true → ∃ t, exec .stringDump s = .next t ∧
        t.obs.dumps = [] ∧ (t.ctxAt d.ctx.val).dumpState = 0 ∧ bits (t.ctxAt d.ctx.val).dumpCtrl 4 3 = 3 ∧ t.jobs = s.jobs) ∧
      (base ≠ 0 → s.isPinned d.ctx.val base 0x2000000 true = true → (s.dumpJobs d).any Job.beingSaved = false → ∃ t, exec .stringDump s = .next t ∧
        t.dumpHolds = true ∧ (t.ctxAt d.ctx.val).dumpState = 2 ∧ ∀ k j, s.job? k = some j → j ∈ s.dumpJobs d → j.phase = .running →
          ∃ i, t.job? k = some i ∧ i.phase = .dumping ∧ i.isExact = false)) ∧
    (∀ d l, s.obs.dumps = d :: l → d.taken = true → d.at_ + 10 ≤ s.time.beat → ∃ t, exec .dumpRestart s = .next t ∧ t.obs.dumps = [] ∧
      (t.ctxAt d.ctx.val).dumpState = 0 ∧ bits (t.ctxAt d.ctx.val).dumpCtrl 16 16 = min (bits (s.ctxAt d.ctx.val).dumpCtrl 16 16 + 1) 65535 ∧
      (∀ k ∈ d.jobs, ∀ j, s.job? k = some j → j.phase = .dumping → ∃ i, t.job? k = some i ∧ i.phase = .running) ∧ t.mem = s.mem) ∧
    (s.dumpHolds = false → exec .dumpRestart s = .next s)

/-- The 72 V input (R470 to R472, R476, R499, R514): power comes on from 52 V held for 10 ms, after an overvoltage only below 80 V, at L4 with no
job and nothing of memory but what lies behind the CXL ports; above 84 V, on a broken PRES# or without VIN everything is off and no job is live,
but fuses, flash and the FRU EEPROM stay. Above 100 V nothing is said (R470). BOOT (R472, R486): a boot that is done, failed or in recovery goes
no further; with good images and below L3 the module is READY with the microcode on every compute die; while MOD_RST# is low it stops after the
fuses; without a good management image it is in recovery; a bad die image or a failed device stops it with its error. -/
def Obligations.supply_and_boot : Prop :=
  (
    ∀ s : State,
      let off (t : State) : Prop := t.pwr.on = false ∧ t.pwr.level = 5 ∧ t.jobs = [] ∧ t.units = [] ∧ t.queues = [] ∧ t.syncs = [] ∧ t.ctxs = [] ∧
        (∀ c ∈ t.mem, c ∈ s.mem ∧ inCxl c.1 = true) ∧ (∀ a, inGddr a = true → t.byteAt a = Config.veiledByte s.fresh a) ∧
        t.sec.svn = s.sec.svn ∧ t.sec.revoked = s.sec.revoked ∧ t.sec.flash = s.sec.flash ∧ t.pins.fru = s.pins.fru ∧ t.host = s.host
      (∀ vin ms, s.pwr.on = false → 5200 ≤ vin → vin ≤ 8400 → 10 ≤ ms → (s.pwr.tripped = true → vin < 8000) →
        ∃ t, exec (.powerOn vin ms) s = .next t ∧ t.pwr.on = true ∧ t.pwr.supply = 4 ∧ t.pwr.eff = 4 ∧ t.pwr.level = 4 ∧ t.pwr.vin = vin ∧
          t.pwr.tripped = false ∧ t.jobs = [] ∧ t.time = TimeSt.reset ∧ t.sec.stage = 0 ∧ t.sec.svn = s.sec.svn ∧ t.sec.flash = s.sec.flash ∧
          (∀ d, d < 24 → (t.dieAt d).st = 4) ∧ t.host = s.host) ∧
      (∀ vin ms, (s.pwr.on = true ∨ vin < 5200 ∨ 8400 < vin ∨ ms < 10 ∨ (s.pwr.tripped = true ∧ 8000 ≤ vin)) → exec (.powerOn vin ms) s = .next s) ∧
      (∀ v, v ≤ 8400 → exec (.overvoltageTrip v) s = .next s) ∧
      (∀ v, 8400 < v → v ≤ 10000 → ∃ t, exec (.overvoltageTrip v) s = .next t ∧ off t ∧ t.pwr.tripped = true) ∧
      (∀ v, 10000 < v → exec (.overvoltageTrip v) s = .fault .absoluteMaximum) ∧
      (∃ t, exec .presBreak s = .next t ∧ off t ∧ t.pins.pres = false) ∧ (∃ t, exec .vinRemoved s = .next t ∧ off t)) ∧
  (
    ∀ (a b micro train : Option Image) (s : State), s.pwr.on = true →
      let f := [a.orElse fun _ => s.sec.flash.getD 0 none, b.orElse fun _ => s.sec.flash.getD 1 none]
      let first := if s.sec.preferred then 1 else 0
      let good (i : Nat) : Bool := (s.sec.good 1 (f.getD i none)).isSome
      (∀ x, (s.sec.recovery = true ∨ s.sec.err ≠ 0 ∨ s.sec.stage = 6) → exec (.boot a b micro train x) s = .next (s.setSec { s.sec with flash := f })) ∧
      (s.sec.stage = 0 → s.sec.ready = false → s.sec.recovery = false → s.sec.err = 0 →
      (∀ x, s.pins.modRst = true → ∃ t, exec (.boot a b micro train x) s = .next t ∧ t.sec.stage = 1 ∧ t.sec.ready = false ∧ t.sec.recovery = false ∧
        t.dies = s.dies ∧ t.devs = s.devs) ∧
      (∀ x, s.pins.modRst = false → good 0 = false → good 1 = false → ∃ t, exec (.boot a b micro train x) s = .next t ∧ t.sec.recovery = true ∧
        t.sec.err = 1 ∧ t.sec.ready = false ∧ t.dies = s.dies ∧ t.devs = s.devs) ∧
      (∀ x, s.pins.modRst = false → (good 0 = true ∨ good 1 = true) → (s.sec.good 2 micro = none ∨ s.sec.good 3 train = none) →
        ∃ t, exec (.boot a b micro train x) s = .next t ∧ t.sec.err = 2 ∧ t.sec.stage = 3 ∧ t.sec.ready = false ∧ t.dies = s.dies) ∧
      (∀ x, s.pins.modRst = false → (good 0 = true ∨ good 1 = true) → s.sec.good 2 micro ≠ none → s.sec.good 3 train ≠ none → 4 ≤ s.pwr.eff →
        ∃ t, exec (.boot a b micro train x) s = .next t ∧ t.sec.stage = 4 ∧ t.sec.err = 0 ∧ t.sec.ready = false ∧ t.dies = s.dies ∧ t.devs = s.devs) ∧
      (s.pins.modRst = false → (good 0 = true ∨ good 1 = true) → s.sec.good 2 micro ≠ none → s.sec.good 3 train ≠ none → s.pwr.eff = 3 →
        ∃ t, exec (.boot a b micro train none) s = .next t ∧ t.sec.stage = 4 ∧ t.sec.err = 0 ∧ t.sec.ready = false ∧ t.dies = s.dies ∧
          ∀ i, i < 48 → (t.devAt i).trained = true) ∧
      (∀ m k, s.pins.modRst = false → good first = true → s.sec.good 2 micro = some m → s.sec.good 3 train = some k → s.pwr.eff < 3 →
        (∃ t, exec (.boot a b micro train none) s = .next t ∧ t.sec.stage = 6 ∧ t.sec.ready = true ∧ t.sec.err = 0 ∧ t.sec.slot = s.sec.preferred ∧
          t.sec.microVersion = imgVersion m ∧ (∀ d, d < 24 → (t.dieAt d).fwVer = imgVersion m ∧ (t.dieAt d).fwOk = true) ∧
          (∀ i, i < 48 → (t.devAt i).trained = true ∧ (t.devAt i).selfRefresh = false) ∧ t.mem = s.mem) ∧
        (∀ x : Fin 48, ∃ t, exec (.boot a b micro train (some x)) s = .next t ∧ t.sec.err = 3 ∧ t.sec.dev.toNat = x.val ∧ t.sec.ready = false ∧
          (t.devAt x.val).trained = false ∧ t.dies = s.dies))))

/-- The shed ladder (R474, R475, R477 to R480): at a boundary the levels rise by their counts of beats and the module follows to the highest of
supply, thermal and floor; L5 is off. One level is left after 10,000 beats beyond its exit threshold. FORCE_LEVEL sets the floor. -/
def Obligations.shed_ladder : Prop :=
  ∀ s : State, s.pwr.on = true →
    let p := s.pwr
    let u := risen p.supply p.supIn false
    let h := risen p.thermal p.thIn true
    let lv := max p.level (max u (max h p.floor))
    (s.time.phase ≠ 0 → exec .shedEntry s = .next s ∧ exec .shedRecovery s = .next s) ∧
    (s.time.phase = 0 → lv < 5 → ∃ t, exec .shedEntry s = .next t ∧ t.pwr.on = true ∧ t.pwr.supply = u ∧ t.pwr.thermal = h ∧ t.pwr.level = lv ∧
      p.eff ≤ t.pwr.eff ∧ t.time = s.time ∧ (p.acting = false → p.eff ≤ 2 → lv ≤ 2 → t.pwr.eff = max p.eff lv ∧ t.jobs = s.jobs ∧ t.mem = s.mem)) ∧
    (s.time.phase = 0 → 5 ≤ lv → ∃ t, exec .shedEntry s = .next t ∧ t.pwr.on = false ∧ t.jobs = []) ∧
    (s.time.phase = 0 → p.acting = false → p.stepped = false → u = p.supply → h = p.thermal → p.thermal < p.supply → p.floor < p.supply →
      p.eff = p.supply →
      (10000 ≤ p.supOut → ∃ t, exec .shedRecovery s = .next t ∧ t.pwr.supply = p.supply - 1 ∧ t.pwr.eff = p.supply - 1 ∧ t.pwr.level = p.supply - 1 ∧
        t.pwr.supOut = 0 ∧ t.pwr.thOut = 0 ∧ t.pwr.stepped = true ∧ t.jobs = s.jobs ∧ (p.supply ≤ 2 → t.mem = s.mem ∧ t.units = s.units) ∧
        (p.supply = 3 → ∀ d, d < 24 → (t.dieAt d).st = 0 ∧ (t.dieAt d).epoch = (s.dieAt d).epoch + 1 ∧ ∀ x, x / 16 = d → t.unit x = .reset) ∧
        (p.supply = 4 → ∀ i, i < 48 → (t.devAt i).selfRefresh = false)) ∧
      (p.supOut < 10000 → p.thOut < 10000 → exec .shedRecovery s = .next s)) ∧
    (s.time.phase = 0 → p.acting = false → p.stepped = false → u = p.supply → h = p.thermal → p.target ≤ p.eff → p.supOut < 10000 → p.thermal ≠ 0 →
      10000 ≤ p.thOut → ∃ t, exec .shedRecovery s = .next t ∧ t.pwr.thermal = p.thermal - 1 ∧ t.pwr.supply = p.supply ∧ t.pwr.thOut = 0 ∧
        t.pwr.stepped = true ∧ t.jobs = s.jobs) ∧
    ((p.acting = true ∨ p.stepped = true ∨ p.supply < u ∨ p.thermal < h ∨ p.eff < p.target) → exec .shedRecovery s = .next s) ∧
    (∀ (f : Func) (v : U64), s.sec.recovery = true → exec (.forceLevel f v) s = .next s) ∧
    (∀ (f : Func) (v : U64), s.sec.recovery = false →
      (s.isControl f = false → exec (.forceLevel f v) s = .next ((s.exchange (30 + f.port.val) 30).deny f)) ∧
      (s.isControl f = true → ∃ t, exec (.forceLevel f v) s = .next t ∧ t.pwr = { p with force := bits v 0 3 } ∧ t.jobs = s.jobs ∧ t.units = s.units ∧
        t.mem = s.mem) ∧
      ({ p with force := bits v 0 3 } : PowerSt).floor = min (bits v 0 3) 4)

/-- DIE_CTRL (R480 to R484): a command of the control function is held for the next boundary. There a die goes QUIESCED, FENCED, RESETTING and
back to RUN in this order alone, anything else being ORDER; HD0 may not be commanded, a memory die not under a job, a die of the shed ladder not
at all. Ten beats after the fence DIE_FENCED is posted once. RESET loads firmware and raises the epoch; a die that does not run answers no
register access. Resets (R485, R510): a warm reset ends every job without a record, returns GT to 0:0000 and keeps device memory, the supply
levels and the fuses; MOD_RST# begins one when it is low after high at a boundary, the watchdog another that SEC_BOOT shows, MODULE_RESET one
that is due a beat later. A function-level reset ends its context's jobs and returns its registers; PERST# does so for the sixteen of its port. -/
def Obligations.die_control_and_resets : Prop :=
  (
    ∀ (d : Fin 32) (s : State), s.pwr.on = true →
      let q := s.dieAt d.val
      (∀ f : Func,
        let r := s.exchange (30 + f.port.val) 30
        let cmds := [Instr.quiesce f d, .fence f d, .reset f d, .rejoin f d]
        (s.sec.recovery = true → ∀ i ∈ cmds, exec i s = .next s) ∧
        (s.sec.recovery = false → s.isControl f = false → ∀ i ∈ cmds, exec i s = .next (r.deny f)) ∧
        (s.sec.recovery = false → s.isControl f = true →
          exec (.quiesce f d) s = .next (r.setDie d.val { q with cmds := q.cmds ++ [1] }) ∧
          exec (.fence f d) s = .next (r.setDie d.val { q with cmds := q.cmds ++ [2] }) ∧
          exec (.reset f d) s = .next (r.setDie d.val { q with cmds := q.cmds ++ [3] }) ∧
          exec (.rejoin f d) s = .next (r.setDie d.val { q with cmds := q.cmds ++ [4] }))) ∧
      (s.dieErr d.val = 0 →
        (q.st = 0 → ((s.takeDieCmd d.val 1).dieAt d.val).st = 1 ∧ ∀ j ∈ (s.takeDieCmd d.val 1).jobs, j ∈ s.jobs ∧ j.spans d.val = false) ∧
        (q.st = 1 → s.takeDieCmd d.val 2 = s.setDie d.val { q with st := 2, err := 0, since := s.time.beat, posted := false }) ∧
        (q.st = 2 → q.posted = true → ((s.takeDieCmd d.val 3).dieAt d.val).st = 3 ∧ ((s.takeDieCmd d.val 3).dieAt d.val).epoch = q.epoch + 1 ∧
          (d.val < 24 → q.staged = false → ((s.takeDieCmd d.val 3).dieAt d.val).fwVer = s.sec.microVersion ∧
            ∀ x, x / 16 = d.val → (s.takeDieCmd d.val 3).unit x = .reset)) ∧
        (q.st = 3 → ((s.takeDieCmd d.val 4).dieAt d.val).st = 0) ∧
        (q.st ≠ 0 → s.takeDieCmd d.val 1 = s.setDie d.val { q with err := 1 }) ∧
        (q.st ≠ 1 → s.takeDieCmd d.val 2 = s.setDie d.val { q with err := 1 }) ∧
        ((q.st ≠ 2 ∨ q.posted = false) → s.takeDieCmd d.val 3 = s.setDie d.val { q with err := 1 }) ∧
        (q.st ≠ 3 → s.takeDieCmd d.val 4 = s.setDie d.val { q with err := 1 })) ∧
      (∀ c, s.dieErr d.val ≠ 0 → s.takeDieCmd d.val c = s.setDie d.val { q with err := BitVec.ofNat 3 (s.dieErr d.val) }) ∧
      s.dieErr 30 = 3 ∧ (d.val ≠ 30 → q.ladder = true → s.dieErr d.val = 4) ∧
      (24 ≤ d.val → d.val < 28 → q.ladder = false → s.jobs.any Job.onModule = true → s.dieErr d.val = 2) ∧
      (q.st = 2 → q.posted = false → q.since + 10 ≤ s.time.beat → ∃ t, exec (.dieFenced d) s = .next t ∧
        t.dieAt d.val = { q with posted := true } ∧ t.jobs = s.jobs ∧ t.units = s.units ∧ t.mem = s.mem) ∧
      ((q.st ≠ 2 ∨ q.posted = true ∨ s.time.beat < q.since + 10) → exec (.dieFenced d) s = .next s)) ∧
  (
    ∀ s : State, s.pwr.on = true →
      let warm (t : State) : Prop := t.pwr.on = true ∧ t.jobs = [] ∧ t.gt = 0 ∧ t.time = TimeSt.reset ∧ t.mem = s.mem ∧ t.veiled = s.veiled ∧
        t.poison = s.poison ∧ t.units = [] ∧ t.syncs = [] ∧ t.ctxs = [] ∧ t.sec.stage = 1 ∧ t.sec.scope = 0 ∧ t.sec.svn = s.sec.svn ∧
        t.sec.flash = s.sec.flash ∧ t.pwr.supply = s.pwr.supply ∧ t.pwr.thermal = s.pwr.thermal ∧ t.pwr.force = 0 ∧ (∀ i, i < 48 → (t.devAt i).selfRefresh = true)
      (∃ t, exec .warmReset s = .next t ∧ warm t ∧ t.sec.wdog = false) ∧
      (∃ t, exec .watchdogExpiry s = .next t ∧ warm t ∧ t.sec.wdog = true) ∧
      (s.time.phase = 0 → s.pins.modRst = false → ∃ t, exec (.modRst true) s = .next t ∧ warm t ∧ t.pins.modRst = true) ∧
      (∀ low, s.time.phase = 0 → (low = false ∨ s.pins.modRst = true) →
        exec (.modRst low) s = .next { s with pins := { s.pins with modRst := low } }) ∧
      (∀ low, s.time.phase ≠ 0 → exec (.modRst low) s = .next s) ∧
      (∀ g, s.sec.resetAt = some g → g ≤ s.gt + 1 → s.time.phase < 2249 → s.standaloneJob = none → warm (tick s)) ∧
      (∀ f : Func, ∃ t, exec (.functionLevelReset f) s = .next t ∧ t.ctxAt f.ctx = .resetAt f.ctx ∧ (∀ n, n ≠ f.ctx → n < 32 → (t.ctxAt n).en = (s.ctxAt n).en) ∧
        (∀ j ∈ t.jobs, j.live = true → j.ctx.val ≠ f.ctx) ∧ (∀ e ∈ t.locked, e.ctx ≠ f.ctx) ∧ (∀ e ∈ t.faults, e.ctx.val ≠ f.ctx) ∧ t.mem = s.mem ∧ t.host = s.host) ∧
      (∀ p : Fin 2, ∃ t, exec (.perst p) s = .next t ∧ (∀ n, n / 16 = p.val → t.ctxAt n = .resetAt n) ∧
        (∀ j ∈ t.jobs, j.live = true → j.ctx.val / 16 ≠ p.val) ∧ t.mem = s.mem ∧ t.host = s.host))

/-- The security mailbox (R404, R487, R488, R491 to R494): only the control function's commands run, none while BUSY. An image or a token that
fails a check ends FAILED with its CODE, and only the result changes (a token's try also spends the nonce); accepted, a management image goes to
the slot not running, a die image to staging, a preferred slot, a fuse counter, a nonce or SCOPE is set, a warm reset is due one beat later. -/
def Obligations.security_mailbox : Prop :=
  ∀ (f : Func) (img : Image) (die : Fin 32) (ty : Byte) (token : BitVec 8192) (s : State), s.pwr.on = true →
    let c := s.sec
    let r := s.exchange (30 + f.port.val) 30
    let fail (code : Nat) : Host.Outcome State Fault Refusal := .next (r.setSec { c with status := 3, code := BitVec.ofNat 8 code })
    let commands := [Instr.fwStage f img, .fwSelect f, .fwActivateDie f die, .advanceSvn f ty, .debugChallenge f, .debugUnlock f token, .moduleReset f]
    (s.isControl f = false → ∀ i ∈ commands, exec i s = .next (r.deny f)) ∧
    (s.isControl f = true → c.status = 1 → ∀ i ∈ commands, exec i s = .next r) ∧
    (s.isControl f = true → c.status ≠ 1 →
      (imgType img = 0 ∨ 3 < imgType img → exec (.fwStage f img) s = fail 4) ∧
      (1 ≤ imgType img → imgType img ≤ 3 →
        (c.imageErr img (imgType img) ≠ 0 → exec (.fwStage f img) s = fail (c.imageErr img (imgType img))) ∧
        (c.imageErr img (imgType img) = 0 → exec (.fwStage f img) s = .next (r.setSec (if imgType img = 1
          then { c with flash := setAt c.flash (if c.slot then 0 else 1) (some img), status := 2, code := 0 }
          else { c with stagedDie := some img, status := 2, code := 0 })))) ∧
      (c.imageErr img (imgType img) = 0 ↔ imgKey img < 4 ∧ bit c.revoked (imgKey img) = false ∧ sigOk img.hdr (imgKey img) = true ∧
        Config.sha512 img.payload = imgDigest img ∧ c.svnOf (imgType img) ≤ imgSvn img) ∧
      exec (.fwSelect f) s = (if c.flash.getD (if c.slot then 0 else 1) none = none then fail 5
        else .next (r.setSec { c with preferred := !c.slot, status := 2, code := 0 })) ∧
      ((s.dieAt die.val).st ≠ 2 → exec (.fwActivateDie f die) s = fail 6) ∧
      ((s.dieAt die.val).st = 2 → c.stagedDie = none → exec (.fwActivateDie f die) s = fail 5) ∧
      (∀ i, (s.dieAt die.val).st = 2 → c.stagedDie = some i → imgType i ≠ 2 → exec (.fwActivateDie f die) s = fail 4) ∧
      (ty.toNat = 0 ∨ 3 < ty.toNat → exec (.advanceSvn f ty) s = fail 4) ∧
      (∀ i, (s.dieAt die.val).st = 2 → c.stagedDie = some i → imgType i = 2 → ∃ t, exec (.fwActivateDie f die) s = .next t ∧
        t.dieAt die.val = { s.dieAt die.val with staged := true } ∧ t.sec = { c with status := 2, code := 0 }) ∧
      (1 ≤ ty.toNat → ty.toNat ≤ 3 → ty.toNat ≤ c.svn.length → ∃ t, exec (.advanceSvn f ty) s = .next t ∧ t.sec.status = 2 ∧ t.sec.code = 0 ∧
        t.sec.svnOf ty.toNat = max (c.svnOf ty.toNat) (min (c.runOf ty.toNat) 64) ∧ (∀ k, 1 ≤ k → k ≠ ty.toNat → t.sec.svnOf k = c.svnOf k)) ∧
      (∃ t, exec (.debugChallenge f) s = .next t ∧ t.sec = { c with nonce := Config.nonce s.fresh, nonceLive := true, status := 2, code := 0 }) ∧
      (c.tokenErr token ≠ 0 → exec (.debugUnlock f token) s = .next (r.setSec { c with
        nonceLive := false, status := 3, code := BitVec.ofNat 8 (c.tokenErr token) })) ∧
      (c.tokenErr token = 0 → ∃ t, exec (.debugUnlock f token) s = .next t ∧ t.sec.status = 2 ∧ t.sec.nonceLive = false ∧
        t.sec.scope = BitVec.ofNat 2 (bits token 32 2)) ∧
      (c.tokenErr token = 0 ↔ bits token 40 8 < 4 ∧ bit c.revoked (bits token 40 8) = false ∧ sigOk token (bits token 40 8) = true ∧
        bits token 64 64 = Config.serial.toNat ∧ c.nonceLive = true ∧ bits token 128 256 = c.nonce.toNat) ∧
      exec (.moduleReset f) s = .next (r.setSec { c with resetAt := some (s.gt + 2250), status := 2, code := 0 }))

/-- Attestation (R489, R490): each message is answered, slot 0 alone holds a chain, a CHALLENGE and the measurements are signed over the
requester's nonce by the device identity key; nothing but the answer changes. The response codes are the model's reading of DMTF's. The
management bus and the FRU EEPROM (R512, R513, R515): from boot step 3 each block read answers the bytes of its register as the last boundary
left them; otherwise, and to a wrong PEC, an unknown command or a write, a NACK. The integrator area takes writes while FRU_WP is low, whatever
the module does, and reads back what was written; the identity block does not change. -/
def Obligations.attestation_and_sideband : Prop :=
  (
    ∀ (p : Fin 2) (slot : Byte) (nonce : BitVec 256) (s : State), s.pwr.on = true →
      exec (.getVersion p) s = .next (s.reply (.spdm 0x04 0 [] none)) ∧
      exec (.getCapabilities p) s = .next (s.reply (.spdm 0x61 0 [] none)) ∧
      exec (.negotiateAlgorithms p) s = .next (s.reply (.spdm 0x63 0 [] none)) ∧
      exec (.getDigests p) s = .next (s.reply (.spdm 0x01 0 [Config.certDigest] none)) ∧
      (slot = 0 → exec (.getCertificate p slot) s = .next (s.reply (.spdm 0x02 0 [Config.certDigest] none)) ∧
        exec (.challenge p slot nonce) s = .next (s.reply (.spdm 0x03 0 [Config.certDigest] (some (signOver nonce [Config.certDigest]))))) ∧
      (slot ≠ 0 → exec (.getCertificate p slot) s = .next (s.reply (.spdm 0x7F 0 [] none)) ∧
        exec (.challenge p slot nonce) s = .next (s.reply (.spdm 0x7F 0 [] none))) ∧
      (∃ m, exec (.getMeasurements p nonce) s = .next (s.reply (.spdm 0x60 0 m (some (signOver nonce m)))) ∧ s.sec.meas.length ≤ m.length ∧
        (∀ i, i < s.sec.meas.length → i ≠ 2 → m[i]? = s.sec.meas[i]?) ∧
        m.length = s.sec.meas.length + ((List.range 24).filter fun d => (s.dieAt d).fwVer != (s.dieAt 0).fwVer).length)) ∧
  (
    ∀ s : State,
      (s.busOpen = true ↔ s.pwr.on = true ∧ 3 ≤ s.sec.stage.toNat ∧ s.pins.modRst = false) ∧
      (s.busOpen = false → ∀ i ∈ [Instr.smbPwrStatus, .smbPwrTherm, .smbSecBoot, .smbGtNow, .smbCoolant, .smbHpStatus, .smbSerial],
        exec i s = .next (s.reply .nack)) ∧
      (∀ w, exec (.smbNack .badPec) s = .next (s.reply .nack) ∧ exec (.smbNack .write) s = .next (s.reply .nack) ∧
        ((w = 0 ∨ 7 < w.toNat ∨ s.busOpen = false) → exec (.smbNack (.unknownCommand w)) s = .next (s.reply .nack))) ∧
      (∀ (pst pth boot gt hp0 hp1 : U64) (ci co : Nat), s.busOpen = true →
        s.pins.smb = bytesOf 8 pst.toNat ++ bytesOf 8 pth.toNat ++ bytesOf 8 boot.toNat ++ bytesOf 8 gt.toNat ++ bytesOf 2 ci ++ bytesOf 2 co ++
          bytesOf 8 hp0.toNat ++ bytesOf 8 hp1.toNat →
        exec .smbPwrStatus s = .next (s.reply (.bytes (bytesOf 8 pst.toNat))) ∧
        exec .smbPwrTherm s = .next (s.reply (.bytes (bytesOf 8 pth.toNat))) ∧
        exec .smbSecBoot s = .next (s.reply (.bytes (bytesOf 8 boot.toNat))) ∧
        exec .smbGtNow s = .next (s.reply (.bytes (bytesOf 8 gt.toNat))) ∧
        exec .smbCoolant s = .next (s.reply (.bytes (bytesOf 2 ci ++ bytesOf 2 co))) ∧
        exec .smbHpStatus s = .next (s.reply (.bytes (bytesOf 8 hp0.toNat ++ bytesOf 8 hp1.toNat))) ∧
        exec .smbSerial s = .next (s.reply (.bytes (bytesOf 8 Config.serial.toNat)))) ∧
      (∀ (a : Nat) (l : List Byte), 256 ≤ a → a + l.length ≤ 8192 → s.pins.fruWp = false →
        ∃ t, exec (.fruEepromWrite a l) s = .next t ∧ (∀ k, k < l.length → t.fruByte (a + k) = l.getD k 0) ∧
          (∀ b, (b < a ∨ a + l.length ≤ b) → t.fruByte b = s.fruByte b) ∧ t.sec = s.sec ∧ t.pwr = s.pwr ∧ t.jobs = s.jobs ∧ t.mem = s.mem) ∧
      (∀ (a : Nat) (l : List Byte), (a < 256 ∨ 8192 < a + l.length ∨ s.pins.fruWp = true) → exec (.fruEepromWrite a l) s = .next (s.reply .nack)))

/-- Register accesses (R404, R405, R483, R521 to R525): a misaligned one is an Unsupported Request that changes nothing; a write not permitted is
denied; a write to a closed block, a die that does not answer or a hole is ignored; a 4-byte write leaves the other half of what it joins. -/
def Obligations.register_accesses : Prop :=
  ∀ (f : Func) (a : Nat) (s : State), s.pwr.on = true →
    let b := blockOf (a / 8 * 8)
    let r := s.exchange (30 + f.port.val) b.1.die
    (∀ n, (n ≠ 4 ∧ n ≠ 8 ∨ a % n ≠ 0) → exec (.unsupportedRequest f a n) s = .next (s.reply .unsupported)) ∧
    (∀ v, a % 8 ≠ 0 → exec (.registerWrite f a false v) s = .next (s.reply .unsupported)) ∧
    (∀ v, a % 4 ≠ 0 → exec (.registerWrite f a true v) s = .next (s.reply .unsupported)) ∧
    (∀ h v, a % (if h then 4 else 8) = 0 →
      (s.blockOpen b.1 = false ∨ s.dieAnswers b.1.die = false ∨ s.regAt a = none → exec (.registerWrite f a h v) s = .next s) ∧
      (s.blockOpen b.1 = true → s.dieAnswers b.1.die = true → s.regAt a ≠ none →
        (s.canWrite f b.1 b.2 = false → exec (.registerWrite f a h v) s = .next (r.deny f)) ∧
        (s.canWrite f b.1 b.2 = true → ∃ w, exec (.registerWrite f a h v) s = .next (r.regWrite f b.1 b.2 w) ∧
          (h = false → w = v) ∧
          (h = true → a % 8 = 0 → bits w 0 32 = bits v 0 32 ∧ bits w 32 32 = bits (s.regRead a) 32 32) ∧
          (h = true → a % 8 = 4 → bits w 32 32 = bits v 0 32 ∧ bits w 0 32 = bits (s.regRead a) 0 32))))

/-- A denied access (R405): a read returns zero, a write is ignored, HP_STATUS.DENIED of the port that carried it counts one, saturating (R408),
and no record and no event is posted: nothing else changes but the port's global counter of denied accesses and the word counts of the edges on
its way. -/
def Obligations.denied_accesses_are_counted : Prop :=
  ∀ (f : Func) (a : Nat) (s : State), s.pwr.on = true →
    let b := blockOf (a / 8 * 8)
    let counted (t : State) : Prop := (t.hpAt f.port.val).denied = min ((s.hpAt f.port.val).denied + 1) 0xFFFF ∧
      (∀ q, q ≠ f.port.val → t.hpAt q = s.hpAt q) ∧ t.ctxs = s.ctxs ∧ t.host = s.host ∧ t.faults = s.faults ∧ t.jobs = s.jobs ∧ t.units = s.units ∧
      t.syncs = s.syncs ∧ t.queues = s.queues ∧ t.mem = s.mem ∧ t.time = s.time ∧ t.ports = s.ports ∧ t.cxl = s.cxl ∧ t.sec = s.sec ∧ t.pwr = s.pwr ∧
      t.dies = s.dies
    s.blockOpen b.1 = true → s.dieAnswers b.1.die = true → s.regAt a ≠ none →
    (s.canRead f b.1 b.2 = false → ∃ t, exec (.deniedAccess f a false) s = .next t ∧ t.answer = .value 0 ∧ counted t) ∧
    (s.canWrite f b.1 b.2 = false → (∃ t, exec (.deniedAccess f a true) s = .next t ∧ counted t) ∧
      ∀ h v, a % (if h then 4 else 8) = 0 → ∃ t, exec (.registerWrite f a h v) s = .next t ∧ counted t)

/-- Fuses (R488): no step lowers a counter of an image type, and none has more than 64 fuses; only ADVANCE_SVN, given by its command or by a
write of SEC_CMD, changes one: it raises that of its type to the SVN of the image that runs. From then on an image of a lower SVN passes no
check. -/
def Obligations.fuse_counters_only_rise : Prop :=
  (∀ s t : State, step s = .next t → ∀ k, s.sec.svnOf k ≤ t.sec.svnOf k ∧ (s.sec.svnOf k ≤ 64 → t.sec.svnOf k ≤ 64)) ∧
  (∀ (c : Instr) (s t : State), exec c s = .next t → t.sec.svn = s.sec.svn ∨ (∃ f ty, c = .advanceSvn f ty) ∨
    ∃ f a h v, c = .registerWrite f a h v ∧ (blockOf (a / 8 * 8)).1 = .sec ∧ (blockOf (a / 8 * 8)).2 = 8) ∧
  (∀ (f : Func) (ty : Byte) (s : State), s.pwr.on = true → s.isControl f = true → s.sec.status ≠ 1 → 1 ≤ ty.toNat → ty.toNat ≤ 3 →
    s.sec.svn.length = 3 → s.sec.runOf ty.toNat ≤ 64 → ∃ t, exec (.advanceSvn f ty) s = .next t ∧
      t.sec.svnOf ty.toNat = max (s.sec.svnOf ty.toNat) (s.sec.runOf ty.toNat)) ∧
  (∀ (c : SecSt) (i : Image) (ty : Nat), imgSvn i < c.svnOf ty → c.good ty (some i) = none)

/-- Numbers (R115, R116, R123, R130, R240): RNE gives the nearest multiple, ties to even, RZ the one below in magnitude, SR the next one exactly
where its sixteen bits reach the discarded fraction; an encoding converted to its own format comes back without a flag; an accumulator's image
gives the accumulator back; an exact sum does not depend on the order of its terms. -/
def Obligations.numbers_are_exact : Prop :=
  (∀ (m d r : Nat), 1 ≤ d → r < 65536 →
    let rne := (quantize .rne m 0 d).1
    let rz := (quantize .rz m 0 d).1
    (2 * (rne * 2 ^ d) ≤ 2 * m + 2 ^ d ∧ 2 * m ≤ 2 * (rne * 2 ^ d) + 2 ^ d) ∧
    ((2 * (rne * 2 ^ d) = 2 * m + 2 ^ d ∨ 2 * m = 2 * (rne * 2 ^ d) + 2 ^ d) → rne % 2 = 0) ∧
    (rz * 2 ^ d ≤ m ∧ m < (rz + 1) * 2 ^ d) ∧
    (quantize (.sr r) m 0 d).1 = (if 65536 ≤ m % 2 ^ d * 65536 / 2 ^ d + r then rz + 1 else rz) ∧
    (∀ mode, (quantize mode m 0 d).2 = decide (m % 2 ^ d ≠ 0))) ∧
  (∀ f ∈ floatFormats, ∀ (mode : RMode) (sat : Bool) (w : Nat), w < 2 ^ (1 + f.exp + f.frac) →
    (f.decode w).isNan = false → f.convert mode sat (f.decode w) = (w, 0)) ∧
  (∀ a : LAcc, -(2 ^ 570) ≤ a.i → a.i < 2 ^ 570 → LAcc.ofImage a.image = a) ∧
  (∀ (a : Exact) (l k : List Val), l.Perm k → l.foldl Exact.add a = k.foldl Exact.add a)

/-- Tiny results (R132): a nonzero value below the smallest normal of its format sets UF and NX exactly if it is inexact there, no flag if it is
exact, and keeps its sign, also when it rounds to zero. -/
def Obligations.tiny_results : Prop :=
  ∀ f ∈ floatFormats, ∀ (mode : RMode) (sat neg : Bool) (m : Nat) (e : Int), m ≠ 0 → expOf m e < f.emin → (∀ r, mode = .sr r → r < 65536) →
    let q := f.emin - f.frac
    let exact := q ≤ e ∨ m % 2 ^ (q - e).toNat = 0
    (exact → (f.round mode sat neg m e).2 = 0) ∧ (¬exact → (f.round mode sat neg m e).2 = fUF ||| fNX) ∧
    (f.round mode sat neg m e).1 / 2 ^ (f.exp + f.frac) = (if neg then 1 else 0) ∧ (f.round mode sat neg m e).1 % 2 ^ (f.exp + f.frac) ≤ 2 ^ f.frac
end

