-- ==== Sys2Proof/Laws/Tables.lean ====
section
/-! SUPPORT. Tables and memories: read after write, writes elsewhere, the canonical form. -/

namespace Sys2Proof.Machine

variable {α : Type}

/-- Reading the number just written gives what was written. -/
@[simp] theorem tabGet_tabSet_self [DecidableEq α] (d : α) (t : Tab α) (a : Nat) (v : α) : tabGet d (tabSet d t a v) a = v := by
  induction t with
  | nil => simp only [tabSet]; split <;> simp_all [tabGet]
  | cons e t ih =>
    obtain ⟨k, w⟩ := e
    simp only [tabSet]
    split
    · exact ih
    · split <;> simp_all [tabGet]

/-- A write leaves every other number as it was. -/
theorem tabGet_tabSet_other [DecidableEq α] (d : α) (t : Tab α) (a b : Nat) (v : α) (h : b ≠ a) : tabGet d (tabSet d t a v) b = tabGet d t b := by
  induction t with
  | nil => simp only [tabSet]; split <;> simp [tabGet, h]
  | cons e t ih =>
    obtain ⟨k, w⟩ := e
    simp only [tabSet]
    split
    · subst_vars; rw [ih, tabGet, if_neg h]
    · split
      · simp [tabGet, h]
      · simp only [tabGet]; split <;> simp_all

/-- Read after write. -/
theorem tabGet_tabSet [DecidableEq α] (d : α) (t : Tab α) (a b : Nat) (v : α) :
    tabGet d (tabSet d t a v) b = if b = a then v else tabGet d t b := by
  split
  · subst_vars; simp
  · exact tabGet_tabSet_other d t a b v ‹_›

/-- A lower bound may be lowered. -/
theorem tabWfFrom_mono [DecidableEq α] (d : α) (t : Tab α) (k l : Nat) (h : k ≤ l) (hw : tabWfFrom d (some l) t = true) : tabWfFrom d (some k) t = true := by
  cases t with
  | nil => rfl
  | cons e t =>
    obtain ⟨n, w⟩ := e
    simp only [tabWfFrom, Bool.and_eq_true, decide_eq_true_eq] at hw ⊢
    exact ⟨⟨by omega, hw.1.2⟩, hw.2⟩

theorem tabWfFrom_none [DecidableEq α] (d : α) (t : Tab α) (l : Option Nat) (hw : tabWfFrom d l t = true) : tabWfFrom d none t = true := by
  cases t with
  | nil => rfl
  | cons e t =>
    obtain ⟨n, w⟩ := e
    simp only [tabWfFrom, Bool.and_eq_true] at hw ⊢
    exact ⟨⟨trivial, hw.1.2⟩, hw.2⟩

/-- Writing the default below a table's first number changes nothing. -/
theorem tabSet_default_from [DecidableEq α] (d : α) (t : Tab α) (k a : Nat) (h : a ≤ k) (hw : tabWfFrom d (some k) t = true) :
    tabWfFrom d (some k) (tabSet d t a d) = true := by
  induction t generalizing k with
  | nil => simp [tabSet, tabWfFrom]
  | cons e t ih =>
    obtain ⟨n, w⟩ := e
    simp only [tabWfFrom, Bool.and_eq_true, decide_eq_true_eq] at hw
    simp only [tabSet]
    rw [if_neg (by omega), if_neg (by simp)]
    simp only [tabWfFrom, Bool.and_eq_true, decide_eq_true_eq]
    exact ⟨hw.1, ih n (by omega) hw.2⟩

/-- A write keeps the canonical form above a bound below the number. -/
theorem tabWfFrom_tabSet [DecidableEq α] (d : α) (t : Tab α) (lo : Option Nat) (a : Nat) (v : α) (hlo : ∀ l, lo = some l → l < a)
    (hw : tabWfFrom d lo t = true) : tabWfFrom d lo (tabSet d t a v) = true := by
  induction t generalizing lo with
  | nil =>
    simp only [tabSet]
    split
    · rfl
    · rename_i hv
      cases lo <;> simp [tabWfFrom, hv]
      exact hlo _ rfl
  | cons e t ih =>
    obtain ⟨k, w⟩ := e
    have hw0 := hw
    simp only [tabWfFrom, Bool.and_eq_true, decide_eq_true_eq] at hw
    simp only [tabSet]
    split
    · refine ih lo hlo ?_
      cases lo with
      | none => exact tabWfFrom_none d t _ hw.2
      | some l => exact tabWfFrom_mono d t l _ (by have := hw.1.1; simp at this; omega) hw.2
    · split
      · rename_i h1 h2
        simp only [tabWfFrom, Bool.and_eq_true, decide_eq_true_eq]
        refine ⟨⟨?_, h2.2⟩, ⟨h2.1, hw.1.2⟩, hw.2⟩
        cases lo with
        | none => rfl
        | some l => simpa using hlo l rfl
      · rename_i h1 h2
        simp only [tabWfFrom, Bool.and_eq_true, decide_eq_true_eq]
        by_cases hk : k < a
        · exact ⟨hw.1, ih (some k) (by intro l hl; cases hl; omega) hw.2⟩
        · have hv : v = d := by by_contra hv; exact h2 ⟨by omega, hv⟩
          subst hv
          exact ⟨hw.1, tabSet_default_from v t k a (by omega) hw.2⟩

/-- A write keeps the canonical form. -/
theorem tabWf_tabSet [DecidableEq α] (d : α) (t : Tab α) (a : Nat) (v : α) (hw : tabWf d t = true) : tabWf d (tabSet d t a v) = true :=
  tabWfFrom_tabSet d t none a v (by intro l hl; cases hl) hw

/-- Taking entries away keeps the canonical form. -/
theorem tabWfFrom_filter [DecidableEq α] (d : α) (p : Nat × α → Bool) (t : Tab α) (lo : Option Nat) (hw : tabWfFrom d lo t = true) :
    tabWfFrom d lo (t.filter p) = true := by
  induction t generalizing lo with
  | nil => rfl
  | cons e t ih =>
    obtain ⟨k, w⟩ := e
    simp only [tabWfFrom, Bool.and_eq_true, decide_eq_true_eq] at hw
    simp only [List.filter_cons]
    split
    · simp only [tabWfFrom, Bool.and_eq_true, decide_eq_true_eq]
      exact ⟨hw.1, ih _ hw.2⟩
    · cases lo with
      | none => exact tabWfFrom_none d _ _ (ih _ hw.2)
      | some l => exact tabWfFrom_mono d _ l k (by have := hw.1.1; simp at this; omega) (ih _ hw.2)

theorem tabWf_filter [DecidableEq α] (d : α) (p : Nat × α → Bool) (t : Tab α) (hw : tabWf d t = true) : tabWf d (t.filter p) = true :=
  tabWfFrom_filter d p t none hw

/-! ### Memory -/

theorem Memory.wf_nil : Memory.wf [] = true := rfl

@[simp] theorem readByte_writeByte_self (m : List Host.Cell) (a : Nat) (v : Byte) : readByte (writeByte m a v) a = v := by
  simp [readByte, writeByte]

theorem readByte_writeByte_other (m : List Host.Cell) (a b : Nat) (v : Byte) (h : b ≠ a) : readByte (writeByte m a v) b = readByte m b :=
  tabGet_tabSet_other memDefault m a b v h

theorem Memory.wf_writeByte (m : List Host.Cell) (a : Nat) (v : Byte) (h : Memory.wf m = true) : Memory.wf (writeByte m a v) = true :=
  tabWf_tabSet memDefault m a v h

theorem Memory.wf_writeBytes (m : List Host.Cell) (a : Nat) (l : List Byte) (h : Memory.wf m = true) : Memory.wf (writeBytes m a l) = true := by
  induction l generalizing m a with
  | nil => exact h
  | cons b l ih => exact ih _ _ (Memory.wf_writeByte m a b h)

theorem Memory.wf_filter (m : List Host.Cell) (p : Host.Cell → Bool) (h : Memory.wf m = true) : Memory.wf (m.filter p) = true :=
  tabWf_filter memDefault p m h

/-- Bytes outside the range written are left alone. -/
theorem readByte_writeBytes_outside (m : List Host.Cell) (a b : Nat) (l : List Byte) (h : b < a ∨ a + l.length ≤ b) :
    readByte (writeBytes m a l) b = readByte m b := by
  induction l generalizing m a with
  | nil => rfl
  | cons c l ih =>
    simp only [List.length_cons] at h
    rw [writeBytes, ih _ _ (by omega), readByte_writeByte_other _ _ _ _ (by omega)]

/-- A byte of what was written. -/
theorem readByte_writeBytes_inside (m : List Host.Cell) (a i : Nat) (l : List Byte) (h : i < l.length) :
    readByte (writeBytes m a l) (a + i) = l.getD i 0 := by
  induction l generalizing m a i with
  | nil => simp at h
  | cons b t ih =>
    cases i with
    | zero =>
      rw [writeBytes, readByte_writeBytes_outside _ _ _ _ (by omega)]
      simp
    | succ i =>
      have e : a + (i + 1) = a + 1 + i := by omega
      rw [writeBytes, e, ih _ _ _ (by simpa using h)]
      simp

theorem bytesOf_length (n v : Nat) : (bytesOf n v).length = n := by
  induction n generalizing v with
  | zero => rfl
  | succ n ih => simp [bytesOf, ih]

/-- The number of a number's own bytes. -/
theorem ofBytes_bytesOf (n v : Nat) : ofBytes (bytesOf n v) = v % 256 ^ n := by
  induction n generalizing v with
  | zero => simp [bytesOf, ofBytes, Nat.mod_one]
  | succ n ih => simp [bytesOf, ofBytes, ih, Nat.pow_succ', Nat.mod_mul]

theorem State.reset_mem_wf : Memory.wf State.reset.mem = true := rfl
theorem State.reset_host_wf : Memory.wf State.reset.host = true := rfl

end Sys2Proof.Machine
end

