-- ==== Sys2Proof/Laws/Keeps.lean ====
section
/-! SUPPORT. What operations keep: any property `P` of the state that updates of the parts an operation may write cannot break. Parts are
numbered in State's order after the queue (0 is `time`, 41 is `fresh`); 42 is a power cycle or reset, which writes all but the queue. The
lemma `f_keeps` of an operation names its parts by the bits of a number. The queue is no part: no operation writes it. -/

namespace Sys2Proof.Machine

/-- `P` outlives every update of part `k`; of a memory, by cells in canonical form. -/
def Free (P : State → Prop) : Nat → Prop
  | 0 => ∀ s v, P s → P { s with time := v }
  | 1 => ∀ s v, (Memory.wf s.mem = true → Memory.wf v = true) → P s → P { s with mem := v }
  | 2 => ∀ s v, (Memory.wf s.host = true → Memory.wf v = true) → P s → P { s with host := v }
  | 3 => ∀ s v, P s → P { s with veiled := v }
  | 4 => ∀ s v, P s → P { s with units := v }
  | 5 => ∀ s v, P s → P { s with queues := v }
  | 6 => ∀ s v, P s → P { s with chans := v }
  | 7 => ∀ s v, P s → P { s with syncs := v }
  | 8 => ∀ s v, P s → P { s with watches := v }
  | 9 => ∀ s v, P s → P { s with marks := v }
  | 10 => ∀ s v, P s → P { s with recfgs := v }
  | 11 => ∀ s v, P s → P { s with mxe := v }
  | 12 => ∀ s v, P s → P { s with eng := v }
  | 13 => ∀ s v, P s → P { s with accDir := v }
  | 14 => ∀ s v, P s → P { s with vregs := v }
  | 15 => ∀ s v, P s → P { s with vmask := v }
  | 16 => ∀ s v, P s → P { s with vx := v }
  | 17 => ∀ s v, P s → P { s with recipes := v }
  | 18 => ∀ s v, P s → P { s with dec := v }
  | 19 => ∀ s v, P s → P { s with gse := v }
  | 20 => ∀ s v, P s → P { s with rxe := v }
  | 21 => ∀ s v, P s → P { s with jobs := v }
  | 22 => ∀ s v, P s → P { s with saves := v }
  | 23 => ∀ s v, P s → P { s with ports := v }
  | 24 => ∀ s v, P s → P { s with torus := v }
  | 25 => ∀ s v, P s → P { s with devs := v }
  | 26 => ∀ s v, P s → P { s with poison := v }
  | 27 => ∀ s v, P s → P { s with cxl := v }
  | 28 => ∀ s v, P s → P { s with tlb := v }
  | 29 => ∀ s v, P s → P { s with locked := v }
  | 30 => ∀ s v, P s → P { s with ats := v }
  | 31 => ∀ s v, P s → P { s with faults := v }
  | 32 => ∀ s v, P s → P { s with ctxs := v }
  | 33 => ∀ s v, P s → P { s with hp := v }
  | 34 => ∀ s v, P s → P { s with obs := v }
  | 35 => ∀ s v, P s → P { s with fabric := v }
  | 36 => ∀ s v, P s → P { s with pwr := v }
  | 37 => ∀ s v, P s → P { s with dies := v }
  | 38 => ∀ s v, P s → P { s with sec := v }
  | 39 => ∀ s v, P s → P { s with pins := v }
  | 40 => ∀ s v, P s → P { s with answer := v }
  | 41 => ∀ s v, P s → P { s with fresh := v }
  | 42 => ∀ s, P s → (∀ b, P (s.cold b)) ∧ ∀ b, P (s.warm b)
  | _ => True

def Frees (P : State → Prop) (m : Nat) : Prop := ∀ k, m.testBit k = true → Free P k

theorem Frees.sub {P : State → Prop} {m n : Nat} (hw : Frees P m) (h : Nat.land n m = n) : Frees P n := by
  intro k hk
  refine hw k ?_
  have e : (n &&& m).testBit k = n.testBit k := congrArg (fun x => Nat.testBit x k) h
  rw [Nat.testBit_and, hk] at e
  simpa using e

theorem Frees.free {P : State → Prop} {m : Nat} (k : Nat) (hw : Frees P m) (h : Nat.land (2 ^ k) m = 2 ^ k) : Free P k :=
  (hw.sub h) k (by simp)

theorem Frees.time {P m x0 x2 x3 x4 x5 x6 x7 x8 x9 x10 x11 x12 x13 x14 x15 x16 x17 x18 x19 x20 x21 x22 x23 x24 x25 x26 x27 x28 x29 x30 x31 x32 x33 x34 x35 x36 x37 x38 x39 x40 x41 x42 v w} (hw : Frees P m) (h : Nat.land 1 m = 1) (hs : P (State.mk x0 w x2 x3 x4 x5 x6 x7 x8 x9 x10 x11 x12 x13 x14 x15 x16 x17 x18 x19 x20 x21 x22 x23 x24 x25 x26 x27 x28 x29 x30 x31 x32 x33 x34 x35 x36 x37 x38 x39 x40 x41 x42)) :
    P (State.mk x0 v x2 x3 x4 x5 x6 x7 x8 x9 x10 x11 x12 x13 x14 x15 x16 x17 x18 x19 x20 x21 x22 x23 x24 x25 x26 x27 x28 x29 x30 x31 x32 x33 x34 x35 x36 x37 x38 x39 x40 x41 x42) := hw.free 0 h _ v hs

theorem Frees.veiled {P m x0 x1 x2 x3 x5 x6 x7 x8 x9 x10 x11 x12 x13 x14 x15 x16 x17 x18 x19 x20 x21 x22 x23 x24 x25 x26 x27 x28 x29 x30 x31 x32 x33 x34 x35 x36 x37 x38 x39 x40 x41 x42 v w} (hw : Frees P m) (h : Nat.land 8 m = 8) (hs : P (State.mk x0 x1 x2 x3 w x5 x6 x7 x8 x9 x10 x11 x12 x13 x14 x15 x16 x17 x18 x19 x20 x21 x22 x23 x24 x25 x26 x27 x28 x29 x30 x31 x32 x33 x34 x35 x36 x37 x38 x39 x40 x41 x42)) :
    P (State.mk x0 x1 x2 x3 v x5 x6 x7 x8 x9 x10 x11 x12 x13 x14 x15 x16 x17 x18 x19 x20 x21 x22 x23 x24 x25 x26 x27 x28 x29 x30 x31 x32 x33 x34 x35 x36 x37 x38 x39 x40 x41 x42) := hw.free 3 h _ v hs

theorem Frees.units {P m x0 x1 x2 x3 x4 x6 x7 x8 x9 x10 x11 x12 x13 x14 x15 x16 x17 x18 x19 x20 x21 x22 x23 x24 x25 x26 x27 x28 x29 x30 x31 x32 x33 x34 x35 x36 x37 x38 x39 x40 x41 x42 v w} (hw : Frees P m) (h : Nat.land 16 m = 16) (hs : P (State.mk x0 x1 x2 x3 x4 w x6 x7 x8 x9 x10 x11 x12 x13 x14 x15 x16 x17 x18 x19 x20 x21 x22 x23 x24 x25 x26 x27 x28 x29 x30 x31 x32 x33 x34 x35 x36 x37 x38 x39 x40 x41 x42)) :
    P (State.mk x0 x1 x2 x3 x4 v x6 x7 x8 x9 x10 x11 x12 x13 x14 x15 x16 x17 x18 x19 x20 x21 x22 x23 x24 x25 x26 x27 x28 x29 x30 x31 x32 x33 x34 x35 x36 x37 x38 x39 x40 x41 x42) := hw.free 4 h _ v hs

theorem Frees.queues {P m x0 x1 x2 x3 x4 x5 x7 x8 x9 x10 x11 x12 x13 x14 x15 x16 x17 x18 x19 x20 x21 x22 x23 x24 x25 x26 x27 x28 x29 x30 x31 x32 x33 x34 x35 x36 x37 x38 x39 x40 x41 x42 v w} (hw : Frees P m) (h : Nat.land 32 m = 32) (hs : P (State.mk x0 x1 x2 x3 x4 x5 w x7 x8 x9 x10 x11 x12 x13 x14 x15 x16 x17 x18 x19 x20 x21 x22 x23 x24 x25 x26 x27 x28 x29 x30 x31 x32 x33 x34 x35 x36 x37 x38 x39 x40 x41 x42)) :
    P (State.mk x0 x1 x2 x3 x4 x5 v x7 x8 x9 x10 x11 x12 x13 x14 x15 x16 x17 x18 x19 x20 x21 x22 x23 x24 x25 x26 x27 x28 x29 x30 x31 x32 x33 x34 x35 x36 x37 x38 x39 x40 x41 x42) := hw.free 5 h _ v hs

theorem Frees.chans {P m x0 x1 x2 x3 x4 x5 x6 x8 x9 x10 x11 x12 x13 x14 x15 x16 x17 x18 x19 x20 x21 x22 x23 x24 x25 x26 x27 x28 x29 x30 x31 x32 x33 x34 x35 x36 x37 x38 x39 x40 x41 x42 v w} (hw : Frees P m) (h : Nat.land 64 m = 64) (hs : P (State.mk x0 x1 x2 x3 x4 x5 x6 w x8 x9 x10 x11 x12 x13 x14 x15 x16 x17 x18 x19 x20 x21 x22 x23 x24 x25 x26 x27 x28 x29 x30 x31 x32 x33 x34 x35 x36 x37 x38 x39 x40 x41 x42)) :
    P (State.mk x0 x1 x2 x3 x4 x5 x6 v x8 x9 x10 x11 x12 x13 x14 x15 x16 x17 x18 x19 x20 x21 x22 x23 x24 x25 x26 x27 x28 x29 x30 x31 x32 x33 x34 x35 x36 x37 x38 x39 x40 x41 x42) := hw.free 6 h _ v hs

theorem Frees.syncs {P m x0 x1 x2 x3 x4 x5 x6 x7 x9 x10 x11 x12 x13 x14 x15 x16 x17 x18 x19 x20 x21 x22 x23 x24 x25 x26 x27 x28 x29 x30 x31 x32 x33 x34 x35 x36 x37 x38 x39 x40 x41 x42 v w} (hw : Frees P m) (h : Nat.land 128 m = 128) (hs : P (State.mk x0 x1 x2 x3 x4 x5 x6 x7 w x9 x10 x11 x12 x13 x14 x15 x16 x17 x18 x19 x20 x21 x22 x23 x24 x25 x26 x27 x28 x29 x30 x31 x32 x33 x34 x35 x36 x37 x38 x39 x40 x41 x42)) :
    P (State.mk x0 x1 x2 x3 x4 x5 x6 x7 v x9 x10 x11 x12 x13 x14 x15 x16 x17 x18 x19 x20 x21 x22 x23 x24 x25 x26 x27 x28 x29 x30 x31 x32 x33 x34 x35 x36 x37 x38 x39 x40 x41 x42) := hw.free 7 h _ v hs

theorem Frees.watches {P m x0 x1 x2 x3 x4 x5 x6 x7 x8 x10 x11 x12 x13 x14 x15 x16 x17 x18 x19 x20 x21 x22 x23 x24 x25 x26 x27 x28 x29 x30 x31 x32 x33 x34 x35 x36 x37 x38 x39 x40 x41 x42 v w} (hw : Frees P m) (h : Nat.land 256 m = 256) (hs : P (State.mk x0 x1 x2 x3 x4 x5 x6 x7 x8 w x10 x11 x12 x13 x14 x15 x16 x17 x18 x19 x20 x21 x22 x23 x24 x25 x26 x27 x28 x29 x30 x31 x32 x33 x34 x35 x36 x37 x38 x39 x40 x41 x42)) :
    P (State.mk x0 x1 x2 x3 x4 x5 x6 x7 x8 v x10 x11 x12 x13 x14 x15 x16 x17 x18 x19 x20 x21 x22 x23 x24 x25 x26 x27 x28 x29 x30 x31 x32 x33 x34 x35 x36 x37 x38 x39 x40 x41 x42) := hw.free 8 h _ v hs

theorem Frees.marks {P m x0 x1 x2 x3 x4 x5 x6 x7 x8 x9 x11 x12 x13 x14 x15 x16 x17 x18 x19 x20 x21 x22 x23 x24 x25 x26 x27 x28 x29 x30 x31 x32 x33 x34 x35 x36 x37 x38 x39 x40 x41 x42 v w} (hw : Frees P m) (h : Nat.land 512 m = 512) (hs : P (State.mk x0 x1 x2 x3 x4 x5 x6 x7 x8 x9 w x11 x12 x13 x14 x15 x16 x17 x18 x19 x20 x21 x22 x23 x24 x25 x26 x27 x28 x29 x30 x31 x32 x33 x34 x35 x36 x37 x38 x39 x40 x41 x42)) :
    P (State.mk x0 x1 x2 x3 x4 x5 x6 x7 x8 x9 v x11 x12 x13 x14 x15 x16 x17 x18 x19 x20 x21 x22 x23 x24 x25 x26 x27 x28 x29 x30 x31 x32 x33 x34 x35 x36 x37 x38 x39 x40 x41 x42) := hw.free 9 h _ v hs

theorem Frees.recfgs {P m x0 x1 x2 x3 x4 x5 x6 x7 x8 x9 x10 x12 x13 x14 x15 x16 x17 x18 x19 x20 x21 x22 x23 x24 x25 x26 x27 x28 x29 x30 x31 x32 x33 x34 x35 x36 x37 x38 x39 x40 x41 x42 v w} (hw : Frees P m) (h : Nat.land 1024 m = 1024) (hs : P (State.mk x0 x1 x2 x3 x4 x5 x6 x7 x8 x9 x10 w x12 x13 x14 x15 x16 x17 x18 x19 x20 x21 x22 x23 x24 x25 x26 x27 x28 x29 x30 x31 x32 x33 x34 x35 x36 x37 x38 x39 x40 x41 x42)) :
    P (State.mk x0 x1 x2 x3 x4 x5 x6 x7 x8 x9 x10 v x12 x13 x14 x15 x16 x17 x18 x19 x20 x21 x22 x23 x24 x25 x26 x27 x28 x29 x30 x31 x32 x33 x34 x35 x36 x37 x38 x39 x40 x41 x42) := hw.free 10 h _ v hs

theorem Frees.mxe {P m x0 x1 x2 x3 x4 x5 x6 x7 x8 x9 x10 x11 x13 x14 x15 x16 x17 x18 x19 x20 x21 x22 x23 x24 x25 x26 x27 x28 x29 x30 x31 x32 x33 x34 x35 x36 x37 x38 x39 x40 x41 x42 v w} (hw : Frees P m) (h : Nat.land 2048 m = 2048) (hs : P (State.mk x0 x1 x2 x3 x4 x5 x6 x7 x8 x9 x10 x11 w x13 x14 x15 x16 x17 x18 x19 x20 x21 x22 x23 x24 x25 x26 x27 x28 x29 x30 x31 x32 x33 x34 x35 x36 x37 x38 x39 x40 x41 x42)) :
    P (State.mk x0 x1 x2 x3 x4 x5 x6 x7 x8 x9 x10 x11 v x13 x14 x15 x16 x17 x18 x19 x20 x21 x22 x23 x24 x25 x26 x27 x28 x29 x30 x31 x32 x33 x34 x35 x36 x37 x38 x39 x40 x41 x42) := hw.free 11 h _ v hs

theorem Frees.eng {P m x0 x1 x2 x3 x4 x5 x6 x7 x8 x9 x10 x11 x12 x14 x15 x16 x17 x18 x19 x20 x21 x22 x23 x24 x25 x26 x27 x28 x29 x30 x31 x32 x33 x34 x35 x36 x37 x38 x39 x40 x41 x42 v w} (hw : Frees P m) (h : Nat.land 4096 m = 4096) (hs : P (State.mk x0 x1 x2 x3 x4 x5 x6 x7 x8 x9 x10 x11 x12 w x14 x15 x16 x17 x18 x19 x20 x21 x22 x23 x24 x25 x26 x27 x28 x29 x30 x31 x32 x33 x34 x35 x36 x37 x38 x39 x40 x41 x42)) :
    P (State.mk x0 x1 x2 x3 x4 x5 x6 x7 x8 x9 x10 x11 x12 v x14 x15 x16 x17 x18 x19 x20 x21 x22 x23 x24 x25 x26 x27 x28 x29 x30 x31 x32 x33 x34 x35 x36 x37 x38 x39 x40 x41 x42) := hw.free 12 h _ v hs

theorem Frees.accDir {P m x0 x1 x2 x3 x4 x5 x6 x7 x8 x9 x10 x11 x12 x13 x15 x16 x17 x18 x19 x20 x21 x22 x23 x24 x25 x26 x27 x28 x29 x30 x31 x32 x33 x34 x35 x36 x37 x38 x39 x40 x41 x42 v w} (hw : Frees P m) (h : Nat.land 8192 m = 8192) (hs : P (State.mk x0 x1 x2 x3 x4 x5 x6 x7 x8 x9 x10 x11 x12 x13 w x15 x16 x17 x18 x19 x20 x21 x22 x23 x24 x25 x26 x27 x28 x29 x30 x31 x32 x33 x34 x35 x36 x37 x38 x39 x40 x41 x42)) :
    P (State.mk x0 x1 x2 x3 x4 x5 x6 x7 x8 x9 x10 x11 x12 x13 v x15 x16 x17 x18 x19 x20 x21 x22 x23 x24 x25 x26 x27 x28 x29 x30 x31 x32 x33 x34 x35 x36 x37 x38 x39 x40 x41 x42) := hw.free 13 h _ v hs

theorem Frees.vregs {P m x0 x1 x2 x3 x4 x5 x6 x7 x8 x9 x10 x11 x12 x13 x14 x16 x17 x18 x19 x20 x21 x22 x23 x24 x25 x26 x27 x28 x29 x30 x31 x32 x33 x34 x35 x36 x37 x38 x39 x40 x41 x42 v w} (hw : Frees P m) (h : Nat.land 16384 m = 16384) (hs : P (State.mk x0 x1 x2 x3 x4 x5 x6 x7 x8 x9 x10 x11 x12 x13 x14 w x16 x17 x18 x19 x20 x21 x22 x23 x24 x25 x26 x27 x28 x29 x30 x31 x32 x33 x34 x35 x36 x37 x38 x39 x40 x41 x42)) :
    P (State.mk x0 x1 x2 x3 x4 x5 x6 x7 x8 x9 x10 x11 x12 x13 x14 v x16 x17 x18 x19 x20 x21 x22 x23 x24 x25 x26 x27 x28 x29 x30 x31 x32 x33 x34 x35 x36 x37 x38 x39 x40 x41 x42) := hw.free 14 h _ v hs

theorem Frees.vmask {P m x0 x1 x2 x3 x4 x5 x6 x7 x8 x9 x10 x11 x12 x13 x14 x15 x17 x18 x19 x20 x21 x22 x23 x24 x25 x26 x27 x28 x29 x30 x31 x32 x33 x34 x35 x36 x37 x38 x39 x40 x41 x42 v w} (hw : Frees P m) (h : Nat.land 32768 m = 32768) (hs : P (State.mk x0 x1 x2 x3 x4 x5 x6 x7 x8 x9 x10 x11 x12 x13 x14 x15 w x17 x18 x19 x20 x21 x22 x23 x24 x25 x26 x27 x28 x29 x30 x31 x32 x33 x34 x35 x36 x37 x38 x39 x40 x41 x42)) :
    P (State.mk x0 x1 x2 x3 x4 x5 x6 x7 x8 x9 x10 x11 x12 x13 x14 x15 v x17 x18 x19 x20 x21 x22 x23 x24 x25 x26 x27 x28 x29 x30 x31 x32 x33 x34 x35 x36 x37 x38 x39 x40 x41 x42) := hw.free 15 h _ v hs

theorem Frees.vx {P m x0 x1 x2 x3 x4 x5 x6 x7 x8 x9 x10 x11 x12 x13 x14 x15 x16 x18 x19 x20 x21 x22 x23 x24 x25 x26 x27 x28 x29 x30 x31 x32 x33 x34 x35 x36 x37 x38 x39 x40 x41 x42 v w} (hw : Frees P m) (h : Nat.land 65536 m = 65536) (hs : P (State.mk x0 x1 x2 x3 x4 x5 x6 x7 x8 x9 x10 x11 x12 x13 x14 x15 x16 w x18 x19 x20 x21 x22 x23 x24 x25 x26 x27 x28 x29 x30 x31 x32 x33 x34 x35 x36 x37 x38 x39 x40 x41 x42)) :
    P (State.mk x0 x1 x2 x3 x4 x5 x6 x7 x8 x9 x10 x11 x12 x13 x14 x15 x16 v x18 x19 x20 x21 x22 x23 x24 x25 x26 x27 x28 x29 x30 x31 x32 x33 x34 x35 x36 x37 x38 x39 x40 x41 x42) := hw.free 16 h _ v hs

theorem Frees.recipes {P m x0 x1 x2 x3 x4 x5 x6 x7 x8 x9 x10 x11 x12 x13 x14 x15 x16 x17 x19 x20 x21 x22 x23 x24 x25 x26 x27 x28 x29 x30 x31 x32 x33 x34 x35 x36 x37 x38 x39 x40 x41 x42 v w} (hw : Frees P m) (h : Nat.land 131072 m = 131072) (hs : P (State.mk x0 x1 x2 x3 x4 x5 x6 x7 x8 x9 x10 x11 x12 x13 x14 x15 x16 x17 w x19 x20 x21 x22 x23 x24 x25 x26 x27 x28 x29 x30 x31 x32 x33 x34 x35 x36 x37 x38 x39 x40 x41 x42)) :
    P (State.mk x0 x1 x2 x3 x4 x5 x6 x7 x8 x9 x10 x11 x12 x13 x14 x15 x16 x17 v x19 x20 x21 x22 x23 x24 x25 x26 x27 x28 x29 x30 x31 x32 x33 x34 x35 x36 x37 x38 x39 x40 x41 x42) := hw.free 17 h _ v hs

theorem Frees.dec {P m x0 x1 x2 x3 x4 x5 x6 x7 x8 x9 x10 x11 x12 x13 x14 x15 x16 x17 x18 x20 x21 x22 x23 x24 x25 x26 x27 x28 x29 x30 x31 x32 x33 x34 x35 x36 x37 x38 x39 x40 x41 x42 v w} (hw : Frees P m) (h : Nat.land 262144 m = 262144) (hs : P (State.mk x0 x1 x2 x3 x4 x5 x6 x7 x8 x9 x10 x11 x12 x13 x14 x15 x16 x17 x18 w x20 x21 x22 x23 x24 x25 x26 x27 x28 x29 x30 x31 x32 x33 x34 x35 x36 x37 x38 x39 x40 x41 x42)) :
    P (State.mk x0 x1 x2 x3 x4 x5 x6 x7 x8 x9 x10 x11 x12 x13 x14 x15 x16 x17 x18 v x20 x21 x22 x23 x24 x25 x26 x27 x28 x29 x30 x31 x32 x33 x34 x35 x36 x37 x38 x39 x40 x41 x42) := hw.free 18 h _ v hs

theorem Frees.gse {P m x0 x1 x2 x3 x4 x5 x6 x7 x8 x9 x10 x11 x12 x13 x14 x15 x16 x17 x18 x19 x21 x22 x23 x24 x25 x26 x27 x28 x29 x30 x31 x32 x33 x34 x35 x36 x37 x38 x39 x40 x41 x42 v w} (hw : Frees P m) (h : Nat.land 524288 m = 524288) (hs : P (State.mk x0 x1 x2 x3 x4 x5 x6 x7 x8 x9 x10 x11 x12 x13 x14 x15 x16 x17 x18 x19 w x21 x22 x23 x24 x25 x26 x27 x28 x29 x30 x31 x32 x33 x34 x35 x36 x37 x38 x39 x40 x41 x42)) :
    P (State.mk x0 x1 x2 x3 x4 x5 x6 x7 x8 x9 x10 x11 x12 x13 x14 x15 x16 x17 x18 x19 v x21 x22 x23 x24 x25 x26 x27 x28 x29 x30 x31 x32 x33 x34 x35 x36 x37 x38 x39 x40 x41 x42) := hw.free 19 h _ v hs

theorem Frees.rxe {P m x0 x1 x2 x3 x4 x5 x6 x7 x8 x9 x10 x11 x12 x13 x14 x15 x16 x17 x18 x19 x20 x22 x23 x24 x25 x26 x27 x28 x29 x30 x31 x32 x33 x34 x35 x36 x37 x38 x39 x40 x41 x42 v w} (hw : Frees P m) (h : Nat.land 1048576 m = 1048576) (hs : P (State.mk x0 x1 x2 x3 x4 x5 x6 x7 x8 x9 x10 x11 x12 x13 x14 x15 x16 x17 x18 x19 x20 w x22 x23 x24 x25 x26 x27 x28 x29 x30 x31 x32 x33 x34 x35 x36 x37 x38 x39 x40 x41 x42)) :
    P (State.mk x0 x1 x2 x3 x4 x5 x6 x7 x8 x9 x10 x11 x12 x13 x14 x15 x16 x17 x18 x19 x20 v x22 x23 x24 x25 x26 x27 x28 x29 x30 x31 x32 x33 x34 x35 x36 x37 x38 x39 x40 x41 x42) := hw.free 20 h _ v hs

theorem Frees.jobs {P m x0 x1 x2 x3 x4 x5 x6 x7 x8 x9 x10 x11 x12 x13 x14 x15 x16 x17 x18 x19 x20 x21 x23 x24 x25 x26 x27 x28 x29 x30 x31 x32 x33 x34 x35 x36 x37 x38 x39 x40 x41 x42 v w} (hw : Frees P m) (h : Nat.land 2097152 m = 2097152) (hs : P (State.mk x0 x1 x2 x3 x4 x5 x6 x7 x8 x9 x10 x11 x12 x13 x14 x15 x16 x17 x18 x19 x20 x21 w x23 x24 x25 x26 x27 x28 x29 x30 x31 x32 x33 x34 x35 x36 x37 x38 x39 x40 x41 x42)) :
    P (State.mk x0 x1 x2 x3 x4 x5 x6 x7 x8 x9 x10 x11 x12 x13 x14 x15 x16 x17 x18 x19 x20 x21 v x23 x24 x25 x26 x27 x28 x29 x30 x31 x32 x33 x34 x35 x36 x37 x38 x39 x40 x41 x42) := hw.free 21 h _ v hs

theorem Frees.saves {P m x0 x1 x2 x3 x4 x5 x6 x7 x8 x9 x10 x11 x12 x13 x14 x15 x16 x17 x18 x19 x20 x21 x22 x24 x25 x26 x27 x28 x29 x30 x31 x32 x33 x34 x35 x36 x37 x38 x39 x40 x41 x42 v w} (hw : Frees P m) (h : Nat.land 4194304 m = 4194304) (hs : P (State.mk x0 x1 x2 x3 x4 x5 x6 x7 x8 x9 x10 x11 x12 x13 x14 x15 x16 x17 x18 x19 x20 x21 x22 w x24 x25 x26 x27 x28 x29 x30 x31 x32 x33 x34 x35 x36 x37 x38 x39 x40 x41 x42)) :
    P (State.mk x0 x1 x2 x3 x4 x5 x6 x7 x8 x9 x10 x11 x12 x13 x14 x15 x16 x17 x18 x19 x20 x21 x22 v x24 x25 x26 x27 x28 x29 x30 x31 x32 x33 x34 x35 x36 x37 x38 x39 x40 x41 x42) := hw.free 22 h _ v hs

theorem Frees.ports {P m x0 x1 x2 x3 x4 x5 x6 x7 x8 x9 x10 x11 x12 x13 x14 x15 x16 x17 x18 x19 x20 x21 x22 x23 x25 x26 x27 x28 x29 x30 x31 x32 x33 x34 x35 x36 x37 x38 x39 x40 x41 x42 v w} (hw : Frees P m) (h : Nat.land 8388608 m = 8388608) (hs : P (State.mk x0 x1 x2 x3 x4 x5 x6 x7 x8 x9 x10 x11 x12 x13 x14 x15 x16 x17 x18 x19 x20 x21 x22 x23 w x25 x26 x27 x28 x29 x30 x31 x32 x33 x34 x35 x36 x37 x38 x39 x40 x41 x42)) :
    P (State.mk x0 x1 x2 x3 x4 x5 x6 x7 x8 x9 x10 x11 x12 x13 x14 x15 x16 x17 x18 x19 x20 x21 x22 x23 v x25 x26 x27 x28 x29 x30 x31 x32 x33 x34 x35 x36 x37 x38 x39 x40 x41 x42) := hw.free 23 h _ v hs

theorem Frees.torus {P m x0 x1 x2 x3 x4 x5 x6 x7 x8 x9 x10 x11 x12 x13 x14 x15 x16 x17 x18 x19 x20 x21 x22 x23 x24 x26 x27 x28 x29 x30 x31 x32 x33 x34 x35 x36 x37 x38 x39 x40 x41 x42 v w} (hw : Frees P m) (h : Nat.land 16777216 m = 16777216) (hs : P (State.mk x0 x1 x2 x3 x4 x5 x6 x7 x8 x9 x10 x11 x12 x13 x14 x15 x16 x17 x18 x19 x20 x21 x22 x23 x24 w x26 x27 x28 x29 x30 x31 x32 x33 x34 x35 x36 x37 x38 x39 x40 x41 x42)) :
    P (State.mk x0 x1 x2 x3 x4 x5 x6 x7 x8 x9 x10 x11 x12 x13 x14 x15 x16 x17 x18 x19 x20 x21 x22 x23 x24 v x26 x27 x28 x29 x30 x31 x32 x33 x34 x35 x36 x37 x38 x39 x40 x41 x42) := hw.free 24 h _ v hs

theorem Frees.devs {P m x0 x1 x2 x3 x4 x5 x6 x7 x8 x9 x10 x11 x12 x13 x14 x15 x16 x17 x18 x19 x20 x21 x22 x23 x24 x25 x27 x28 x29 x30 x31 x32 x33 x34 x35 x36 x37 x38 x39 x40 x41 x42 v w} (hw : Frees P m) (h : Nat.land 33554432 m = 33554432) (hs : P (State.mk x0 x1 x2 x3 x4 x5 x6 x7 x8 x9 x10 x11 x12 x13 x14 x15 x16 x17 x18 x19 x20 x21 x22 x23 x24 x25 w x27 x28 x29 x30 x31 x32 x33 x34 x35 x36 x37 x38 x39 x40 x41 x42)) :
    P (State.mk x0 x1 x2 x3 x4 x5 x6 x7 x8 x9 x10 x11 x12 x13 x14 x15 x16 x17 x18 x19 x20 x21 x22 x23 x24 x25 v x27 x28 x29 x30 x31 x32 x33 x34 x35 x36 x37 x38 x39 x40 x41 x42) := hw.free 25 h _ v hs

theorem Frees.poison {P m x0 x1 x2 x3 x4 x5 x6 x7 x8 x9 x10 x11 x12 x13 x14 x15 x16 x17 x18 x19 x20 x21 x22 x23 x24 x25 x26 x28 x29 x30 x31 x32 x33 x34 x35 x36 x37 x38 x39 x40 x41 x42 v w} (hw : Frees P m) (h : Nat.land 67108864 m = 67108864) (hs : P (State.mk x0 x1 x2 x3 x4 x5 x6 x7 x8 x9 x10 x11 x12 x13 x14 x15 x16 x17 x18 x19 x20 x21 x22 x23 x24 x25 x26 w x28 x29 x30 x31 x32 x33 x34 x35 x36 x37 x38 x39 x40 x41 x42)) :
    P (State.mk x0 x1 x2 x3 x4 x5 x6 x7 x8 x9 x10 x11 x12 x13 x14 x15 x16 x17 x18 x19 x20 x21 x22 x23 x24 x25 x26 v x28 x29 x30 x31 x32 x33 x34 x35 x36 x37 x38 x39 x40 x41 x42) := hw.free 26 h _ v hs

theorem Frees.cxl {P m x0 x1 x2 x3 x4 x5 x6 x7 x8 x9 x10 x11 x12 x13 x14 x15 x16 x17 x18 x19 x20 x21 x22 x23 x24 x25 x26 x27 x29 x30 x31 x32 x33 x34 x35 x36 x37 x38 x39 x40 x41 x42 v w} (hw : Frees P m) (h : Nat.land 134217728 m = 134217728) (hs : P (State.mk x0 x1 x2 x3 x4 x5 x6 x7 x8 x9 x10 x11 x12 x13 x14 x15 x16 x17 x18 x19 x20 x21 x22 x23 x24 x25 x26 x27 w x29 x30 x31 x32 x33 x34 x35 x36 x37 x38 x39 x40 x41 x42)) :
    P (State.mk x0 x1 x2 x3 x4 x5 x6 x7 x8 x9 x10 x11 x12 x13 x14 x15 x16 x17 x18 x19 x20 x21 x22 x23 x24 x25 x26 x27 v x29 x30 x31 x32 x33 x34 x35 x36 x37 x38 x39 x40 x41 x42) := hw.free 27 h _ v hs

theorem Frees.tlb {P m x0 x1 x2 x3 x4 x5 x6 x7 x8 x9 x10 x11 x12 x13 x14 x15 x16 x17 x18 x19 x20 x21 x22 x23 x24 x25 x26 x27 x28 x30 x31 x32 x33 x34 x35 x36 x37 x38 x39 x40 x41 x42 v w} (hw : Frees P m) (h : Nat.land 268435456 m = 268435456) (hs : P (State.mk x0 x1 x2 x3 x4 x5 x6 x7 x8 x9 x10 x11 x12 x13 x14 x15 x16 x17 x18 x19 x20 x21 x22 x23 x24 x25 x26 x27 x28 w x30 x31 x32 x33 x34 x35 x36 x37 x38 x39 x40 x41 x42)) :
    P (State.mk x0 x1 x2 x3 x4 x5 x6 x7 x8 x9 x10 x11 x12 x13 x14 x15 x16 x17 x18 x19 x20 x21 x22 x23 x24 x25 x26 x27 x28 v x30 x31 x32 x33 x34 x35 x36 x37 x38 x39 x40 x41 x42) := hw.free 28 h _ v hs

theorem Frees.locked {P m x0 x1 x2 x3 x4 x5 x6 x7 x8 x9 x10 x11 x12 x13 x14 x15 x16 x17 x18 x19 x20 x21 x22 x23 x24 x25 x26 x27 x28 x29 x31 x32 x33 x34 x35 x36 x37 x38 x39 x40 x41 x42 v w} (hw : Frees P m) (h : Nat.land 536870912 m = 536870912) (hs : P (State.mk x0 x1 x2 x3 x4 x5 x6 x7 x8 x9 x10 x11 x12 x13 x14 x15 x16 x17 x18 x19 x20 x21 x22 x23 x24 x25 x26 x27 x28 x29 w x31 x32 x33 x34 x35 x36 x37 x38 x39 x40 x41 x42)) :
    P (State.mk x0 x1 x2 x3 x4 x5 x6 x7 x8 x9 x10 x11 x12 x13 x14 x15 x16 x17 x18 x19 x20 x21 x22 x23 x24 x25 x26 x27 x28 x29 v x31 x32 x33 x34 x35 x36 x37 x38 x39 x40 x41 x42) := hw.free 29 h _ v hs

theorem Frees.ats {P m x0 x1 x2 x3 x4 x5 x6 x7 x8 x9 x10 x11 x12 x13 x14 x15 x16 x17 x18 x19 x20 x21 x22 x23 x24 x25 x26 x27 x28 x29 x30 x32 x33 x34 x35 x36 x37 x38 x39 x40 x41 x42 v w} (hw : Frees P m) (h : Nat.land 1073741824 m = 1073741824) (hs : P (State.mk x0 x1 x2 x3 x4 x5 x6 x7 x8 x9 x10 x11 x12 x13 x14 x15 x16 x17 x18 x19 x20 x21 x22 x23 x24 x25 x26 x27 x28 x29 x30 w x32 x33 x34 x35 x36 x37 x38 x39 x40 x41 x42)) :
    P (State.mk x0 x1 x2 x3 x4 x5 x6 x7 x8 x9 x10 x11 x12 x13 x14 x15 x16 x17 x18 x19 x20 x21 x22 x23 x24 x25 x26 x27 x28 x29 x30 v x32 x33 x34 x35 x36 x37 x38 x39 x40 x41 x42) := hw.free 30 h _ v hs

theorem Frees.faults {P m x0 x1 x2 x3 x4 x5 x6 x7 x8 x9 x10 x11 x12 x13 x14 x15 x16 x17 x18 x19 x20 x21 x22 x23 x24 x25 x26 x27 x28 x29 x30 x31 x33 x34 x35 x36 x37 x38 x39 x40 x41 x42 v w} (hw : Frees P m) (h : Nat.land 2147483648 m = 2147483648) (hs : P (State.mk x0 x1 x2 x3 x4 x5 x6 x7 x8 x9 x10 x11 x12 x13 x14 x15 x16 x17 x18 x19 x20 x21 x22 x23 x24 x25 x26 x27 x28 x29 x30 x31 w x33 x34 x35 x36 x37 x38 x39 x40 x41 x42)) :
    P (State.mk x0 x1 x2 x3 x4 x5 x6 x7 x8 x9 x10 x11 x12 x13 x14 x15 x16 x17 x18 x19 x20 x21 x22 x23 x24 x25 x26 x27 x28 x29 x30 x31 v x33 x34 x35 x36 x37 x38 x39 x40 x41 x42) := hw.free 31 h _ v hs

theorem Frees.ctxs {P m x0 x1 x2 x3 x4 x5 x6 x7 x8 x9 x10 x11 x12 x13 x14 x15 x16 x17 x18 x19 x20 x21 x22 x23 x24 x25 x26 x27 x28 x29 x30 x31 x32 x34 x35 x36 x37 x38 x39 x40 x41 x42 v w} (hw : Frees P m) (h : Nat.land 4294967296 m = 4294967296) (hs : P (State.mk x0 x1 x2 x3 x4 x5 x6 x7 x8 x9 x10 x11 x12 x13 x14 x15 x16 x17 x18 x19 x20 x21 x22 x23 x24 x25 x26 x27 x28 x29 x30 x31 x32 w x34 x35 x36 x37 x38 x39 x40 x41 x42)) :
    P (State.mk x0 x1 x2 x3 x4 x5 x6 x7 x8 x9 x10 x11 x12 x13 x14 x15 x16 x17 x18 x19 x20 x21 x22 x23 x24 x25 x26 x27 x28 x29 x30 x31 x32 v x34 x35 x36 x37 x38 x39 x40 x41 x42) := hw.free 32 h _ v hs

theorem Frees.hp {P m x0 x1 x2 x3 x4 x5 x6 x7 x8 x9 x10 x11 x12 x13 x14 x15 x16 x17 x18 x19 x20 x21 x22 x23 x24 x25 x26 x27 x28 x29 x30 x31 x32 x33 x35 x36 x37 x38 x39 x40 x41 x42 v w} (hw : Frees P m) (h : Nat.land 8589934592 m = 8589934592) (hs : P (State.mk x0 x1 x2 x3 x4 x5 x6 x7 x8 x9 x10 x11 x12 x13 x14 x15 x16 x17 x18 x19 x20 x21 x22 x23 x24 x25 x26 x27 x28 x29 x30 x31 x32 x33 w x35 x36 x37 x38 x39 x40 x41 x42)) :
    P (State.mk x0 x1 x2 x3 x4 x5 x6 x7 x8 x9 x10 x11 x12 x13 x14 x15 x16 x17 x18 x19 x20 x21 x22 x23 x24 x25 x26 x27 x28 x29 x30 x31 x32 x33 v x35 x36 x37 x38 x39 x40 x41 x42) := hw.free 33 h _ v hs

theorem Frees.obs {P m x0 x1 x2 x3 x4 x5 x6 x7 x8 x9 x10 x11 x12 x13 x14 x15 x16 x17 x18 x19 x20 x21 x22 x23 x24 x25 x26 x27 x28 x29 x30 x31 x32 x33 x34 x36 x37 x38 x39 x40 x41 x42 v w} (hw : Frees P m) (h : Nat.land 17179869184 m = 17179869184) (hs : P (State.mk x0 x1 x2 x3 x4 x5 x6 x7 x8 x9 x10 x11 x12 x13 x14 x15 x16 x17 x18 x19 x20 x21 x22 x23 x24 x25 x26 x27 x28 x29 x30 x31 x32 x33 x34 w x36 x37 x38 x39 x40 x41 x42)) :
    P (State.mk x0 x1 x2 x3 x4 x5 x6 x7 x8 x9 x10 x11 x12 x13 x14 x15 x16 x17 x18 x19 x20 x21 x22 x23 x24 x25 x26 x27 x28 x29 x30 x31 x32 x33 x34 v x36 x37 x38 x39 x40 x41 x42) := hw.free 34 h _ v hs

theorem Frees.fabric {P m x0 x1 x2 x3 x4 x5 x6 x7 x8 x9 x10 x11 x12 x13 x14 x15 x16 x17 x18 x19 x20 x21 x22 x23 x24 x25 x26 x27 x28 x29 x30 x31 x32 x33 x34 x35 x37 x38 x39 x40 x41 x42 v w} (hw : Frees P m) (h : Nat.land 34359738368 m = 34359738368) (hs : P (State.mk x0 x1 x2 x3 x4 x5 x6 x7 x8 x9 x10 x11 x12 x13 x14 x15 x16 x17 x18 x19 x20 x21 x22 x23 x24 x25 x26 x27 x28 x29 x30 x31 x32 x33 x34 x35 w x37 x38 x39 x40 x41 x42)) :
    P (State.mk x0 x1 x2 x3 x4 x5 x6 x7 x8 x9 x10 x11 x12 x13 x14 x15 x16 x17 x18 x19 x20 x21 x22 x23 x24 x25 x26 x27 x28 x29 x30 x31 x32 x33 x34 x35 v x37 x38 x39 x40 x41 x42) := hw.free 35 h _ v hs

theorem Frees.pwr {P m x0 x1 x2 x3 x4 x5 x6 x7 x8 x9 x10 x11 x12 x13 x14 x15 x16 x17 x18 x19 x20 x21 x22 x23 x24 x25 x26 x27 x28 x29 x30 x31 x32 x33 x34 x35 x36 x38 x39 x40 x41 x42 v w} (hw : Frees P m) (h : Nat.land 68719476736 m = 68719476736) (hs : P (State.mk x0 x1 x2 x3 x4 x5 x6 x7 x8 x9 x10 x11 x12 x13 x14 x15 x16 x17 x18 x19 x20 x21 x22 x23 x24 x25 x26 x27 x28 x29 x30 x31 x32 x33 x34 x35 x36 w x38 x39 x40 x41 x42)) :
    P (State.mk x0 x1 x2 x3 x4 x5 x6 x7 x8 x9 x10 x11 x12 x13 x14 x15 x16 x17 x18 x19 x20 x21 x22 x23 x24 x25 x26 x27 x28 x29 x30 x31 x32 x33 x34 x35 x36 v x38 x39 x40 x41 x42) := hw.free 36 h _ v hs

theorem Frees.dies {P m x0 x1 x2 x3 x4 x5 x6 x7 x8 x9 x10 x11 x12 x13 x14 x15 x16 x17 x18 x19 x20 x21 x22 x23 x24 x25 x26 x27 x28 x29 x30 x31 x32 x33 x34 x35 x36 x37 x39 x40 x41 x42 v w} (hw : Frees P m) (h : Nat.land 137438953472 m = 137438953472) (hs : P (State.mk x0 x1 x2 x3 x4 x5 x6 x7 x8 x9 x10 x11 x12 x13 x14 x15 x16 x17 x18 x19 x20 x21 x22 x23 x24 x25 x26 x27 x28 x29 x30 x31 x32 x33 x34 x35 x36 x37 w x39 x40 x41 x42)) :
    P (State.mk x0 x1 x2 x3 x4 x5 x6 x7 x8 x9 x10 x11 x12 x13 x14 x15 x16 x17 x18 x19 x20 x21 x22 x23 x24 x25 x26 x27 x28 x29 x30 x31 x32 x33 x34 x35 x36 x37 v x39 x40 x41 x42) := hw.free 37 h _ v hs

theorem Frees.sec {P m x0 x1 x2 x3 x4 x5 x6 x7 x8 x9 x10 x11 x12 x13 x14 x15 x16 x17 x18 x19 x20 x21 x22 x23 x24 x25 x26 x27 x28 x29 x30 x31 x32 x33 x34 x35 x36 x37 x38 x40 x41 x42 v w} (hw : Frees P m) (h : Nat.land 274877906944 m = 274877906944) (hs : P (State.mk x0 x1 x2 x3 x4 x5 x6 x7 x8 x9 x10 x11 x12 x13 x14 x15 x16 x17 x18 x19 x20 x21 x22 x23 x24 x25 x26 x27 x28 x29 x30 x31 x32 x33 x34 x35 x36 x37 x38 w x40 x41 x42)) :
    P (State.mk x0 x1 x2 x3 x4 x5 x6 x7 x8 x9 x10 x11 x12 x13 x14 x15 x16 x17 x18 x19 x20 x21 x22 x23 x24 x25 x26 x27 x28 x29 x30 x31 x32 x33 x34 x35 x36 x37 x38 v x40 x41 x42) := hw.free 38 h _ v hs

theorem Frees.pins {P m x0 x1 x2 x3 x4 x5 x6 x7 x8 x9 x10 x11 x12 x13 x14 x15 x16 x17 x18 x19 x20 x21 x22 x23 x24 x25 x26 x27 x28 x29 x30 x31 x32 x33 x34 x35 x36 x37 x38 x39 x41 x42 v w} (hw : Frees P m) (h : Nat.land 549755813888 m = 549755813888) (hs : P (State.mk x0 x1 x2 x3 x4 x5 x6 x7 x8 x9 x10 x11 x12 x13 x14 x15 x16 x17 x18 x19 x20 x21 x22 x23 x24 x25 x26 x27 x28 x29 x30 x31 x32 x33 x34 x35 x36 x37 x38 x39 w x41 x42)) :
    P (State.mk x0 x1 x2 x3 x4 x5 x6 x7 x8 x9 x10 x11 x12 x13 x14 x15 x16 x17 x18 x19 x20 x21 x22 x23 x24 x25 x26 x27 x28 x29 x30 x31 x32 x33 x34 x35 x36 x37 x38 x39 v x41 x42) := hw.free 39 h _ v hs

theorem Frees.answer {P m x0 x1 x2 x3 x4 x5 x6 x7 x8 x9 x10 x11 x12 x13 x14 x15 x16 x17 x18 x19 x20 x21 x22 x23 x24 x25 x26 x27 x28 x29 x30 x31 x32 x33 x34 x35 x36 x37 x38 x39 x40 x42 v w} (hw : Frees P m) (h : Nat.land 1099511627776 m = 1099511627776) (hs : P (State.mk x0 x1 x2 x3 x4 x5 x6 x7 x8 x9 x10 x11 x12 x13 x14 x15 x16 x17 x18 x19 x20 x21 x22 x23 x24 x25 x26 x27 x28 x29 x30 x31 x32 x33 x34 x35 x36 x37 x38 x39 x40 w x42)) :
    P (State.mk x0 x1 x2 x3 x4 x5 x6 x7 x8 x9 x10 x11 x12 x13 x14 x15 x16 x17 x18 x19 x20 x21 x22 x23 x24 x25 x26 x27 x28 x29 x30 x31 x32 x33 x34 x35 x36 x37 x38 x39 x40 v x42) := hw.free 40 h _ v hs

theorem Frees.fresh {P m x0 x1 x2 x3 x4 x5 x6 x7 x8 x9 x10 x11 x12 x13 x14 x15 x16 x17 x18 x19 x20 x21 x22 x23 x24 x25 x26 x27 x28 x29 x30 x31 x32 x33 x34 x35 x36 x37 x38 x39 x40 x41 v w} (hw : Frees P m) (h : Nat.land 2199023255552 m = 2199023255552) (hs : P (State.mk x0 x1 x2 x3 x4 x5 x6 x7 x8 x9 x10 x11 x12 x13 x14 x15 x16 x17 x18 x19 x20 x21 x22 x23 x24 x25 x26 x27 x28 x29 x30 x31 x32 x33 x34 x35 x36 x37 x38 x39 x40 x41 w)) :
    P (State.mk x0 x1 x2 x3 x4 x5 x6 x7 x8 x9 x10 x11 x12 x13 x14 x15 x16 x17 x18 x19 x20 x21 x22 x23 x24 x25 x26 x27 x28 x29 x30 x31 x32 x33 x34 x35 x36 x37 x38 x39 x40 x41 v) := hw.free 41 h _ v hs

theorem Frees.cold {P m} (hw : Frees P m) (h : Nat.land 4398046511104 m = 4398046511104) (s : State) (b : Bool) (hs : P s) : P (s.cold b) := (hw.free 42 h s hs).1 b
theorem Frees.warm {P m} (hw : Frees P m) (h : Nat.land 4398046511104 m = 4398046511104) (s : State) (b : Bool) (hs : P s) : P (s.warm b) := (hw.free 42 h s hs).2 b

/-! ### How a property passes through the shapes that meanings are built from -/

/-- `P` of the state an access gives, read off by `g`. -/
def AccAll {α : Type} (P : State → Prop) (g : α → State) (a : Acc α) : Prop := ∀ x, a = .ok x → P (g x)

/-- `P` of the next state a command gives. -/
def OutAll (P : State → Prop) (o : Host.Outcome State Fault Refusal) : Prop := ∀ t, o = .next t → P t

/-- `P` of the state an issued or held vector instruction gives. -/
def IssueAll (P : State → Prop) (i : Issue) : Prop := ∀ t, (i = .done t ∨ i = .held t) → P t

theorem Keep.foldl {α : Type} {P : State → Prop} {s : State} {f : State → α → State} {l : List α} (hf : ∀ s a, P s → P (f s a)) (h : P s) :
    P (l.foldl f s) := by
  induction l generalizing s with
  | nil => exact h
  | cons a l ih => exact ih (hf s a h)

theorem Keep.elim {α : Type} {P : State → Prop} {s : State} {f : α → State} {o : Option α} (h : P s) (hf : ∀ a, P (f a)) : P (o.elim s f) := by
  cases o with
  | none => exact h
  | some a => exact hf a

theorem AccAll.ok {α : Type} {P : State → Prop} {g : α → State} {x : α} (h : P (g x)) : AccAll P g (.ok x) := by intro y e; cases e; exact h

theorem AccAll.bad {α : Type} {P : State → Prop} {g : α → State} {a b c d : Nat} : AccAll P g (.bad a b c d) := by intro y e; cases e

theorem AccAll.wait {α : Type} {P : State → Prop} {g : α → State} {d : Nat} : AccAll P g (.wait d) := by intro y e; cases e

theorem AccAll.bind {α β : Type} {P : State → Prop} {g : β → State} {a : Acc α} {f : α → Acc β} (h : ∀ x, a = .ok x → AccAll P g (f x)) :
    AccAll P g (a.bind f) := by
  intro y e
  cases a with
  | ok x => exact h x rfl y e
  | bad _ _ _ _ => cases e
  | wait _ => cases e

theorem AccAll.map {α β : Type} {P : State → Prop} {g : β → State} {f : α → β} {a : Acc α} (h : ∀ x, a = .ok x → P (g (f x))) : AccAll P g (a.map f) := by
  intro y e
  cases a with
  | ok x => cases e; exact h x rfl
  | bad _ _ _ _ => cases e
  | wait _ => cases e

theorem AccAll.getGOut {P : State → Prop} {a : Acc GOut} {x : GOut} (h : AccAll P GOut.s a) (e : a = .ok x) : P x.s := h x e

theorem AccAll.getMove {P : State → Prop} {a : Acc MoveOut} {x : MoveOut} (h : AccAll P MoveOut.s a) (e : a = .ok x) : P x.s := h x e

theorem AccAll.getId {P : State → Prop} {a : Acc State} {x : State} (h : AccAll P id a) (e : a = .ok x) : P x := h x e

theorem AccAll.getFst {α : Type} {P : State → Prop} {a : Acc (State × α)} {x : State × α} (h : AccAll P Prod.fst a) (e : a = .ok x) : P x.1 := h x e

theorem AccAll.getPair {α : Type} {P : State → Prop} {a : Acc (State × α)} {x : State} {y : α} (h : AccAll P Prod.fst a) (e : a = .ok (x, y)) : P x := h _ e

theorem OutAll.next {P : State → Prop} {t : State} (h : P t) : OutAll P (.next t) := by intro u e; cases e; exact h

theorem OutAll.fault {P : State → Prop} {f : Fault} : OutAll P (.fault f) := by intro u e; cases e

theorem IssueAll.done {P : State → Prop} {s : State} (h : P s) : IssueAll P (.done s) := by rintro t (e | e) <;> cases e; exact h

theorem IssueAll.held {P : State → Prop} {s : State} (h : P s) : IssueAll P (.held s) := by rintro t (e | e) <;> cases e; exact h

/-! ### Cuts: what holds of an intermediate value, before the value is forgotten -/

theorem Keep.cut {P : State → Prop} {v : State} {q : Prop} (hv : P v) (h : P v → q) : q := h hv

theorem Keep.cutFst {α : Type} {P : State → Prop} {v : State × α} {q : Prop} (hv : P v.1) (h : P v.1 → q) : q := h hv

theorem Keep.cutFun {α : Type} {P : State → Prop} {v : α → State} {q : Prop} (hv : ∀ y, P (v y)) (h : (∀ y, P (v y)) → q) : q := h hv

theorem Keep.cutFun2 {α β : Type} {P : State → Prop} {v : α → β → State} {q : Prop} (hv : ∀ y z, P (v y z)) (h : (∀ y z, P (v y z)) → q) : q := h hv

theorem Keep.cutFunS {P : State → Prop} {v : State → State} {q : Prop} (hv : ∀ y, P y → P (v y)) (h : (∀ y, P y → P (v y)) → q) : q := h hv

theorem Keep.cutFunSB {α : Type} {P : State → Prop} {v : State → α → State} {q : Prop} (hv : ∀ y z, P y → P (v y z)) (h : (∀ y z, P y → P (v y z)) → q) : q := h hv

theorem Keep.cutFunXS {α β : Type} {P : State → Prop} {v : α → State → β → State} {q : Prop} (hv : ∀ z y w, P y → P (v z y w)) (h : (∀ z y w, P y → P (v z y w)) → q) : q := h hv

theorem AccAll.cut {P : State → Prop} {v : Acc State} {q : Prop} (hv : AccAll P id v) (h : AccAll P id v → q) : q := h hv

theorem AccAll.cutFst {α : Type} {P : State → Prop} {v : Acc (State × α)} {q : Prop} (hv : AccAll P Prod.fst v) (h : AccAll P Prod.fst v → q) : q := h hv

theorem AccAll.cutFunS {α : Type} {P : State → Prop} {v : State → α → Acc State} {q : Prop} (hv : ∀ y z, P y → AccAll P id (v y z)) (h : (∀ y z, P y → AccAll P id (v y z)) → q) : q := h hv

theorem AccAll.cutFunS3 {α β : Type} {P : State → Prop} {v : State → α → β → Acc State} {q : Prop} (hv : ∀ y z w, P y → AccAll P id (v y z w)) (h : (∀ y z w, P y → AccAll P id (v y z w)) → q) : q := h hv

theorem IssueAll.cut {P : State → Prop} {v : Issue} {q : Prop} (hv : IssueAll P v) (h : IssueAll P v → q) : q := h hv

end Sys2Proof.Machine
end

