-- ==== Sys2Proof/Laws/KeepsOps.lean ====
section
/-! SUPPORT. What shared operations keep, first part: the lemma `f_keeps` of each, in the order they call each other. -/

set_option linter.unusedTactic false
set_option linter.unusedVariables false

namespace Sys2Proof.Machine

theorem State.setCtx_keeps {P : State → Prop} (hw : Frees P 0x100000000) (s : State) (n : Nat) (v : CtxSt) (hs : P s) : P (State.setCtx s n v) := by
  unfold State.setCtx
  repeat' first
    | (with_reducible apply hw.ctxs rfl; with_reducible assumption)

theorem State.updCtx_keeps {P : State → Prop} (hw : Frees P 0x100000000) (s : State) (n : Nat) (f : CtxSt → CtxSt) (hs : P s) : P (State.updCtx s n f) := by
  unfold State.updCtx
  repeat' first
    | with_reducible assumption | with_reducible apply State.setCtx_keeps (hw.sub rfl)

theorem State.setObs_keeps {P : State → Prop} (hw : Frees P 0x400000000) (s : State) (o : ObsSt) (hs : P s) : P (State.setObs s o) := by
  unfold State.setObs
  repeat' first
    | (with_reducible apply hw.obs rfl; with_reducible assumption)

theorem State.cntAdd_keeps {P : State → Prop} (hw : Frees P 0x400000000) (s : State) (off : Nat) (k : Nat) (hs : P s) : P (State.cntAdd s off k) := by
  unfold State.cntAdd
  have x := ()
  repeat' first
    | (extract_lets +onlyGivenNames x; (fail_if_success clear x); clear_value x) | with_reducible assumption
    | with_reducible apply State.setObs_keeps (hw.sub rfl)

theorem State.hostWrite_keeps {P : State → Prop} (hw : Frees P 0x400000004) (s : State) (port addr : Nat) (b : List Byte) (hs : P s) : P (State.hostWrite s port addr b) :=
  State.cntAdd_keeps (hw.sub rfl) _ _ _ (hw.free 2 rfl s (writeBytes s.host (hostKey port addr) b) (Memory.wf_writeBytes _ _ _) hs)

theorem State.emit_keeps {P : State → Prop} (hw : Frees P 0x500000004) (s : State) (ctx : Nat) (k : RingKind) (r : W256) (hs : P s) : P (State.emit s ctx k r) := by
  unfold State.emit
  have x := ()
  repeat' first
    | (extract_lets +onlyGivenNames x; (fail_if_success clear x); first | (refine Keep.cut (P := P) (v := x) ?_ ?_; unfold x; clear x; rotate_left; intro hx; clear_value x) | clear_value x)
    | with_reducible assumption | with_reducible apply State.hostWrite_keeps (hw.sub rfl) | with_reducible apply State.setCtx_keeps (hw.sub rfl)

theorem State.post_keeps {P : State → Prop} (hw : Frees P 0x500000004) (s : State) (ctx : Nat) (k : RingKind) (r : W256) (hs : P s) : P (State.post s ctx k r) := by
  unfold State.post
  have x := ()
  repeat' first
    | (extract_lets +onlyGivenNames x; (fail_if_success clear x); clear_value x) | with_reducible assumption
    | with_reducible apply State.emit_keeps (hw.sub rfl) | with_reducible apply State.updCtx_keeps (hw.sub rfl)
    | with_reducible apply State.setCtx_keeps (hw.sub rfl) | split

theorem State.postCpl_keeps {P : State → Prop} (hw : Frees P 0x500000004) (s : State) (ctx : Nat) (r : CplRec) (hs : P s) : P (State.postCpl s ctx r) := by
  unfold State.postCpl
  repeat' first
    | with_reducible assumption | with_reducible apply State.post_keeps (hw.sub rfl)

theorem State.setTile_keeps {P : State → Prop} (hw : Frees P 0x800) (s : State) (x : Nat) (v : Option MxeTile) (hs : P s) : P (State.setTile s x v) := by
  unfold State.setTile
  repeat' first
    | (with_reducible apply hw.mxe rfl; with_reducible assumption)

theorem State.setWatch_keeps {P : State → Prop} (hw : Frees P 0x100) (s : State) (x : Nat) (v : Option Watch) (hs : P s) : P (State.setWatch s x v) := by
  unfold State.setWatch
  repeat' first
    | (with_reducible apply hw.watches rfl; with_reducible assumption)

theorem State.setRxe_keeps {P : State → Prop} (hw : Frees P 0x100000) (s : State) (d : Nat) (v : List RxeAcc) (hs : P s) : P (State.setRxe s d v) := by
  unfold State.setRxe
  repeat' first
    | (with_reducible apply hw.rxe rfl; with_reducible assumption)

theorem State.setUnit_keeps {P : State → Prop} (hw : Frees P 0x10) (s : State) (x : Nat) (v : UnitSt) (hs : P s) : P (State.setUnit s x v) := by
  unfold State.setUnit
  repeat' first
    | (with_reducible apply hw.units rfl; with_reducible assumption)

theorem State.updUnit_keeps {P : State → Prop} (hw : Frees P 0x10) (s : State) (x : Nat) (f : UnitSt → UnitSt) (hs : P s) : P (State.updUnit s x f) := by
  unfold State.updUnit
  repeat' first
    | with_reducible assumption | with_reducible apply State.setUnit_keeps (hw.sub rfl)

theorem State.setDec_keeps {P : State → Prop} (hw : Frees P 0x40000) (s : State) (x : Nat) (v : DecSt) (hs : P s) : P (State.setDec s x v) := by
  unfold State.setDec
  repeat' first
    | (with_reducible apply hw.dec rfl; with_reducible assumption)

theorem State.setEng_keeps {P : State → Prop} (hw : Frees P 0x1000) (s : State) (x : Nat) (v : EngSt) (hs : P s) : P (State.setEng s x v) := by
  unfold State.setEng
  repeat' first
    | (with_reducible apply hw.eng rfl; with_reducible assumption)

theorem State.freeDirs_keeps {P : State → Prop} (hw : Frees P 0x2000) (s : State) (x : Nat) (hs : P s) : P (State.freeDirs s x) := by
  unfold State.freeDirs
  have x := ()
  repeat' first
    | (extract_lets +onlyGivenNames x; (fail_if_success clear x); clear_value x) | (with_reducible apply hw.accDir rfl; with_reducible assumption)

theorem State.setVx_keeps {P : State → Prop} (hw : Frees P 0x10000) (s : State) (x : Nat) (v : VxSt) (hs : P s) : P (State.setVx s x v) := by
  unfold State.setVx
  repeat' first
    | (with_reducible apply hw.vx rfl; with_reducible assumption)

theorem State.setGse_keeps {P : State → Prop} (hw : Frees P 0x80000) (s : State) (d : Nat) (v : GseSt) (hs : P s) : P (State.setGse s d v) := by
  unfold State.setGse
  repeat' first
    | (with_reducible apply hw.gse rfl; with_reducible assumption)

theorem State.clearUnits_keeps {P : State → Prop} (hw : Frees P 0x1df910) (s : State) (x1 : List Nat) (hs : P s) : P (State.clearUnits s x1) := by
  induction x1 generalizing s with
  | nil =>
    unfold State.clearUnits
    have x := ()
    repeat' first
      | with_reducible assumption
  | cons e t ih =>
    unfold State.clearUnits
    have x := ()
    repeat' first
      | (extract_lets +onlyGivenNames x; (fail_if_success clear x); refine Keep.cut (P := P) (v := x) ?_ ?_; unfold x; clear x; rotate_left; intro hx; clear_value x)
      | with_reducible assumption | with_reducible apply ih | with_reducible apply State.setGse_keeps (hw.sub rfl)
      | with_reducible apply State.setVx_keeps (hw.sub rfl) | with_reducible apply State.freeDirs_keeps (hw.sub rfl)
      | with_reducible apply State.setEng_keeps (hw.sub rfl) | with_reducible apply State.setDec_keeps (hw.sub rfl)
      | with_reducible apply State.updUnit_keeps (hw.sub rfl) | with_reducible apply State.setRxe_keeps (hw.sub rfl)
      | with_reducible apply State.setWatch_keeps (hw.sub rfl) | with_reducible apply State.setTile_keeps (hw.sub rfl)
      | (with_reducible apply hw.vregs rfl; with_reducible apply hw.vmask rfl; with_reducible assumption) | split

theorem State.freeOwners_keeps {P : State → Prop} (hw : Frees P 0x400000000) (s : State) (j : Job) (hs : P s) : P (State.freeOwners s j) := by
  unfold State.freeOwners
  have x := ()
  repeat' first
    | (extract_lets +onlyGivenNames x; (fail_if_success clear x); clear_value x) | with_reducible assumption
    | with_reducible apply State.setObs_keeps (hw.sub rfl)

theorem State.stopTrace_keeps {P : State → Prop} (hw : Frees P 0x400000000) (s : State) (jid : U64) (hs : P s) : P (State.stopTrace s jid) := by
  unfold State.stopTrace
  have x := ()
  repeat' first
    | (extract_lets +onlyGivenNames x; (fail_if_success clear x); clear_value x) | with_reducible assumption
    | with_reducible apply State.setObs_keeps (hw.sub rfl)

theorem State.setSync_keeps {P : State → Prop} (hw : Frees P 0x80) (s : State) (i : Nat) (v : SyncObj) (hs : P s) : P (State.setSync s i v) := by
  unfold State.setSync
  repeat' first
    | (with_reducible apply hw.syncs rfl; with_reducible assumption)

theorem State.disarm_keeps {P : State → Prop} (hw : Frees P 0x80) (s : State) (x1 : List SyncDecl) (hs : P s) : P (State.disarm s x1) := by
  induction x1 generalizing s with
  | nil =>
    unfold State.disarm
    have x := ()
    repeat' first
      | with_reducible assumption
  | cons e t ih =>
    unfold State.disarm
    have x := ()
    repeat' first
      | (extract_lets +onlyGivenNames x; (fail_if_success clear x); clear_value x) | with_reducible assumption | with_reducible apply ih
      | with_reducible apply State.setSync_keeps (hw.sub rfl)

theorem State.setQueue_keeps {P : State → Prop} (hw : Frees P 0x20) (s : State) (q : Nat) (v : QueueSt) (hs : P s) : P (State.setQueue s q v) := by
  unfold State.setQueue
  repeat' first
    | (with_reducible apply hw.queues rfl; with_reducible assumption)

theorem State.clearQueues_keeps {P : State → Prop} (hw : Frees P 0x60) (s : State) (x1 : List Nat) (hs : P s) : P (State.clearQueues s x1) := by
  induction x1 generalizing s with
  | nil =>
    unfold State.clearQueues
    have x := ()
    repeat' first
      | with_reducible assumption
  | cons e t ih =>
    unfold State.clearQueues
    have x := ()
    repeat' first
      | (extract_lets +onlyGivenNames x; (fail_if_success clear x); first | (refine Keep.cut (P := P) (v := x) ?_ ?_; unfold x; clear x; rotate_left; intro hx; clear_value x) | clear_value x)
      | with_reducible assumption | with_reducible apply ih | with_reducible apply State.setQueue_keeps (hw.sub rfl)
      | (with_reducible apply hw.chans rfl; with_reducible assumption)

theorem State.event_keeps {P : State → Prop} (hw : Frees P 0x500000004) (s : State) (ctx : Nat) (code : Nat) (jid : U64) (payload : List (Nat × Nat × Nat)) (hs : P s) : P (State.event s ctx code jid payload) := by
  unfold State.event
  repeat' first
    | with_reducible assumption | with_reducible apply State.post_keeps (hw.sub rfl)

theorem State.postDiscard_keeps {P : State → Prop} (hw : Frees P 0x500000004) (s : State) (r : RecfgSt) (hs : P s) : P (State.postDiscard s r) := by
  unfold State.postDiscard
  repeat' first
    | with_reducible assumption | with_reducible apply State.event_keeps (hw.sub rfl) | split

theorem State.dropRecfgs_keeps {P : State → Prop} (hw : Frees P 0x500000404) (s : State) (jid : U64) (hs : P s) : P (State.dropRecfgs s jid) := by
  unfold State.dropRecfgs
  have x := ()
  repeat' first
    | with_reducible intro _
    | (extract_lets +onlyGivenNames x; (fail_if_success clear x); refine Keep.cut (P := P) (v := x) ?_ ?_; unfold x; clear x; rotate_left; intro hx; clear_value x)
    | with_reducible assumption | with_reducible apply State.postDiscard_keeps (hw.sub rfl)
    | (with_reducible apply hw.recfgs rfl; with_reducible assumption) | with_reducible apply Keep.foldl

theorem State.release_keeps {P : State → Prop} (hw : Frees P 0x5807dfff4) (s : State) (j : Job) (hs : P s) : P (State.release s j) := by
  unfold State.release
  have x := ()
  repeat' first
    | (extract_lets +onlyGivenNames x; (fail_if_success clear x); first | (refine Keep.cut (P := P) (v := x) ?_ ?_; unfold x; clear x; rotate_left; intro hx; clear_value x) | clear_value x)
    | with_reducible assumption | with_reducible apply State.dropRecfgs_keeps (hw.sub rfl) | with_reducible apply State.clearQueues_keeps (hw.sub rfl)
    | with_reducible apply State.disarm_keeps (hw.sub rfl) | with_reducible apply State.stopTrace_keeps (hw.sub rfl)
    | with_reducible apply State.freeOwners_keeps (hw.sub rfl) | with_reducible apply State.clearUnits_keeps (hw.sub rfl)
    | with_reducible apply State.updCtx_keeps (hw.sub rfl)
    | (with_reducible apply hw.marks rfl; with_reducible apply hw.jobs rfl; with_reducible apply hw.saves rfl; with_reducible apply hw.faults rfl; with_reducible assumption)

theorem State.finish_keeps {P : State → Prop} (hw : Frees P 0x5807dfff4) (s : State) (j : Job) (disp : Nat) (reason : Nat) (late : Nat) (hs : P s) : P (State.finish s j disp reason late) := by
  unfold State.finish
  repeat' first
    | with_reducible assumption | with_reducible apply State.release_keeps (hw.sub rfl) | with_reducible apply State.postCpl_keeps (hw.sub rfl)

theorem State.withJob_keeps {P : State → Prop} (hw : Frees P 0x0) (s : State) (jid : U64) (f : Job → State) (hs : P s) (hf : ∀ (y0 : Job), P (f y0)) : P (State.withJob s jid f) := by
  unfold State.withJob
  repeat' first
    | with_reducible assumption | with_reducible apply hf | split

theorem State.abortJob_keeps {P : State → Prop} (hw : Frees P 0x5807dfff4) (s : State) (jid : U64) (disp : Nat) (hs : P s) : P (State.abortJob s jid disp) := by
  unfold State.abortJob
  repeat' first
    | with_reducible intro _ | with_reducible assumption | with_reducible apply State.withJob_keeps (hw.sub rfl)
    | with_reducible apply State.finish_keeps (hw.sub rfl)

theorem State.abortAll_keeps {P : State → Prop} (hw : Frees P 0x5807dfff4) (s : State) (disp : Nat) (x2 : List U64) (hs : P s) : P (State.abortAll s disp x2) := by
  induction x2 generalizing s disp with
  | nil =>
    unfold State.abortAll
    repeat' first
      | with_reducible assumption
  | cons e t ih =>
    unfold State.abortAll
    repeat' first
      | with_reducible assumption | with_reducible apply ih | with_reducible apply State.abortJob_keeps (hw.sub rfl)

theorem State.staleResolution_keeps {P : State → Prop} (hw : Frees P 0x100000000) (s : State) (ctx : Nat) (hs : P s) : P (State.staleResolution s ctx) := by
  unfold State.staleResolution
  repeat' first
    | with_reducible assumption | with_reducible apply State.updCtx_keeps (hw.sub rfl)

theorem State.resolve_keeps {P : State → Prop} (hw : Frees P 0x100000000) (s : State) (ctx : Nat) (fid : U32) (g : State → FaultSt → State) (hs : P s) (hg : ∀ (y0 : State) (y1 : FaultSt), P y0 → P (g y0 y1)) : P (State.resolve s ctx fid g) := by
  unfold State.resolve
  repeat' first
    | with_reducible assumption | with_reducible apply State.staleResolution_keeps (hw.sub rfl) | with_reducible apply hg | split

theorem State.closeFault_keeps {P : State → Prop} (hw : Frees P 0x80000000) (s : State) (f : FaultSt) (hs : P s) : P (State.closeFault s f) := by
  unfold State.closeFault
  repeat' first
    | (with_reducible apply hw.faults rfl; with_reducible assumption)

theorem State.abortOf_keeps {P : State → Prop} (hw : Frees P 0x5807dfff4) (s : State) (ctx : Nat) (fid : U32) (hs : P s) : P (State.abortOf s ctx fid) := by
  unfold State.abortOf
  repeat' first
    | with_reducible intro _ | with_reducible assumption | with_reducible apply State.closeFault_keeps (hw.sub rfl)
    | with_reducible apply State.resolve_keeps (hw.sub rfl) | with_reducible apply State.abortJob_keeps (hw.sub rfl)

theorem State.setTrace_keeps {P : State → Prop} (hw : Frees P 0x400000000) (s : State) (d : Nat) (v : TraceSt) (hs : P s) : P (State.setTrace s d v) := by
  unfold State.setTrace
  have x := ()
  repeat' first
    | (extract_lets +onlyGivenNames x; (fail_if_success clear x); clear_value x) | (with_reducible apply hw.obs rfl; with_reducible assumption)

theorem State.tracePut_keeps {P : State → Prop} (hw : Frees P 0x400000010) (s : State) (d : Nat) (r : W256) (hs : P s) : P (State.tracePut s d r) := by
  unfold State.tracePut
  have x := ()
  repeat' first
    | (extract_lets +onlyGivenNames x; (fail_if_success clear x); first | (refine Keep.cut (P := P) (v := x) ?_ ?_; unfold x; clear x; rotate_left; intro hx; clear_value x) | clear_value x)
    | with_reducible assumption | with_reducible apply State.setTrace_keeps (hw.sub rfl) | with_reducible apply State.updUnit_keeps (hw.sub rfl)
    | split

theorem State.traceEv_keeps {P : State → Prop} (hw : Frees P 0x400000010) (s : State) (d : Nat) (kind : Nat) (cls : Nat) (jid : U64) (unit : Nat) (tag : U32) (payload : List (Nat × Nat × Nat)) (hs : P s) : P (State.traceEv s d kind cls jid unit tag payload) := by
  unfold State.traceEv
  have x := ()
  repeat' first
    | (extract_lets +onlyGivenNames x; (fail_if_success clear x); clear_value x) | with_reducible assumption
    | with_reducible apply State.tracePut_keeps (hw.sub rfl) | split

theorem State.record_keeps {P : State → Prop} (hw : Frees P 0x400000000) (s : State) (jid : U64) (kind : Nat) (words : List Nat) (data : List Byte) (hs : P s) : P (State.record s jid kind words data) := by
  unfold State.record
  have x := ()
  repeat' first
    | (extract_lets +onlyGivenNames x; (fail_if_success clear x); clear_value x) | with_reducible assumption
    | with_reducible apply State.setObs_keeps (hw.sub rfl) | split

theorem State.addRec_keeps {P : State → Prop} (hw : Frees P 0x400000000) (s : State) (r : RecSt) (hs : P s) : P (State.addRec s r) := by
  unfold State.addRec
  have x := ()
  repeat' first
    | (extract_lets +onlyGivenNames x; (fail_if_success clear x); clear_value x) | with_reducible assumption
    | with_reducible apply State.setObs_keeps (hw.sub rfl)

theorem State.startTrace_keeps {P : State → Prop} (hw : Frees P 0x500000000) (s : State) (ctx : Nat) (jid : U64) (hs : P s) : P (State.startTrace s ctx jid) := by
  unfold State.startTrace
  have x := ()
  repeat' first
    | with_reducible intro _
    | (extract_lets +onlyGivenNames x; (fail_if_success clear x); first | (refine Keep.cut (P := P) (v := x) ?_ ?_; unfold x; clear x; rotate_left; intro hx; clear_value x) | clear_value x)
    | with_reducible assumption | with_reducible apply State.setTrace_keeps (hw.sub rfl) | with_reducible apply State.updCtx_keeps (hw.sub rfl)
    | with_reducible apply Keep.foldl

theorem State.accept_keeps {P : State → Prop} (hw : Frees P 0x500200010) (s : State) (ctx : Nat) (j : Job) (replay : Option RecSt) (hs : P s) : P (State.accept s ctx j replay) := by
  unfold State.accept
  have x := ()
  repeat' first
    | (extract_lets +onlyGivenNames x; (fail_if_success clear x); refine Keep.cut (P := P) (v := x) ?_ ?_; unfold x; clear x; rotate_left; intro hx; clear_value x)
    | with_reducible assumption | with_reducible apply State.startTrace_keeps (hw.sub rfl) | with_reducible apply State.addRec_keeps (hw.sub rfl)
    | with_reducible apply State.record_keeps (hw.sub rfl) | with_reducible apply State.traceEv_keeps (hw.sub rfl)
    | with_reducible apply State.updCtx_keeps (hw.sub rfl) | (with_reducible apply hw.jobs rfl; with_reducible assumption) | split

theorem State.accessed_keeps {P : State → Prop} (hw : Frees P 0x800000000) (s : State) (die : Nat) (hs : P s) : P (State.accessed s die) := by
  unfold State.accessed
  have x := ()
  repeat' first
    | (extract_lets +onlyGivenNames x; (fail_if_success clear x); clear_value x) | (with_reducible apply hw.fabric rfl; with_reducible assumption)

theorem State.addFixedMarks_keeps {P : State → Prop} (hw : Frees P 0x200) (s : State) (j : Job) (hs : P s) : P (State.addFixedMarks s j) := by
  unfold State.addFixedMarks
  have x := ()
  repeat' first
    | (extract_lets +onlyGivenNames x; (fail_if_success clear x); clear_value x) | (with_reducible apply hw.marks rfl; with_reducible assumption)

theorem State.addMarks_keeps {P : State → Prop} (hw : Frees P 0x200) (s : State) (j : Job) (p : Nat) (hs : P s) : P (State.addMarks s j p) := by
  unfold State.addMarks
  have x := ()
  repeat' first
    | (extract_lets +onlyGivenNames x; (fail_if_success clear x); clear_value x) | with_reducible assumption
    | (with_reducible apply hw.marks rfl; with_reducible assumption) | split

theorem State.updJob_keeps {P : State → Prop} (hw : Frees P 0x200000) (s : State) (jid : U64) (f : Job → Job) (hs : P s) : P (State.updJob s jid f) := by
  unfold State.updJob
  repeat' first
    | (with_reducible apply hw.jobs rfl; with_reducible assumption)

theorem State.refuse_keeps {P : State → Prop} (hw : Frees P 0x500000014) (s : State) (ctx : Nat) (jid : U64) (disp : Nat) (hs : P s) : P (State.refuse s ctx jid disp) := by
  unfold State.refuse
  repeat' first
    | with_reducible assumption | with_reducible apply State.traceEv_keeps (hw.sub rfl) | with_reducible apply State.postCpl_keeps (hw.sub rfl)

theorem State.admitResume_keeps {P : State → Prop} (hw : Frees P 0x500200014) (s : State) (j : Job) (hs : P s) : P (State.admitResume s j) := by
  unfold State.admitResume
  have x := ()
  repeat' first
    | (extract_lets +onlyGivenNames x; (fail_if_success clear x); first | (refine Keep.cut (P := P) (v := x) ?_ ?_; unfold x; clear x; rotate_left; intro hx; clear_value x) | clear_value x)
    | with_reducible assumption | with_reducible apply State.refuse_keeps (hw.sub rfl) | with_reducible apply State.updJob_keeps (hw.sub rfl) | split

theorem State.resourceDenied_keeps {P : State → Prop} (hw : Frees P 0x500000004) (s : State) (loser : Nat) (res : Nat) (ctx : Nat) (winner : Nat) (hs : P s) : P (State.resourceDenied s loser res ctx winner) := by
  unfold State.resourceDenied
  repeat' first
    | with_reducible assumption | with_reducible apply State.event_keeps (hw.sub rfl)

theorem State.claimTrace_keeps {P : State → Prop} (hw : Frees P 0x500000004) (s : State) (ctx : Nat) (hs : P s) : P (State.claimTrace s ctx).1 := by
  unfold State.claimTrace
  have x := ()
  repeat' first
    | (extract_lets +onlyGivenNames x; (fail_if_success clear x); clear_value x) | with_reducible assumption
    | with_reducible apply State.resourceDenied_keeps (hw.sub rfl) | with_reducible apply State.setObs_keeps (hw.sub rfl) | split

theorem State.claimRecorder_keeps {P : State → Prop} (hw : Frees P 0x500200004) (s : State) (ctx : Nat) (hs : P s) : P (State.claimRecorder s ctx).1 := by
  unfold State.claimRecorder
  have x := ()
  repeat' first
    | (extract_lets +onlyGivenNames x; (fail_if_success clear x); first | (refine Keep.cut (P := P) (v := x) ?_ ?_; unfold x; clear x; rotate_left; intro hx; clear_value x) | clear_value x)
    | with_reducible assumption | with_reducible apply State.resourceDenied_keeps (hw.sub rfl) | with_reducible apply State.setObs_keeps (hw.sub rfl)
    | (with_reducible apply hw.jobs rfl; with_reducible assumption) | split

theorem State.claimStrobe_keeps {P : State → Prop} (hw : Frees P 0x500000004) (s : State) (ctx : Nat) (hs : P s) : P (State.claimStrobe s ctx).1 := by
  unfold State.claimStrobe
  have x := ()
  repeat' first
    | (extract_lets +onlyGivenNames x; (fail_if_success clear x); first | (refine Keep.cut (P := P) (v := x) ?_ ?_; unfold x; clear x; rotate_left; intro hx; clear_value x) | clear_value x)
    | with_reducible assumption | with_reducible apply State.resourceDenied_keeps (hw.sub rfl) | with_reducible apply State.setObs_keeps (hw.sub rfl)
    | split

theorem State.claimAll_keeps {P : State → Prop} (hw : Frees P 0x500200004) (s : State) (ctx : Nat) (d : BitVec 512) (b : Binary) (hs : P s) : P (State.claimAll s ctx d b).1 := by
  unfold State.claimAll
  have x := ()
  repeat' first
    | (extract_lets +onlyGivenNames x; (fail_if_success clear x); refine Keep.cutFst (P := P) (v := x) ?_ ?_; unfold x; clear x; rotate_left; intro hx; clear_value x)
    | with_reducible assumption | with_reducible apply State.claimStrobe_keeps (hw.sub rfl)
    | with_reducible apply State.claimRecorder_keeps (hw.sub rfl) | with_reducible apply State.claimTrace_keeps (hw.sub rfl) | split

theorem State.admitRun_keeps {P : State → Prop} (hw : Frees P 0x500200014) (s : State) (ctx : Nat) (d : BitVec 512) (b : Binary) (replay : Option RecSt) (hs : P s) : P (State.admitRun s ctx d b replay) := by
  unfold State.admitRun
  have x := ()
  repeat' first
    | (extract_lets +onlyGivenNames x; (fail_if_success clear x); first | (refine Keep.cutFst (P := P) (v := x) ?_ ?_; unfold x; clear x; rotate_left; intro hx; clear_value x) | clear_value x)
    | with_reducible assumption | with_reducible apply State.claimAll_keeps (hw.sub rfl) | with_reducible apply State.refuse_keeps (hw.sub rfl)
    | with_reducible apply State.accept_keeps (hw.sub rfl) | split

theorem State.setSec_keeps {P : State → Prop} (hw : Frees P 0x4000000000) (s : State) (p : SecSt) (hs : P s) : P (State.setSec s p) := by
  unfold State.setSec
  repeat' first
    | (with_reducible apply hw.sec rfl; with_reducible assumption)

theorem State.secBang_keeps {P : State → Prop} (hw : Frees P 0x4000000000) (s : State) (f : SecSt → SecSt) (hs : P s) : P (State.sec! s f) := by
  unfold State.sec!
  repeat' first
    | with_reducible assumption | with_reducible apply State.setSec_keeps (hw.sub rfl)

theorem State.secFail_keeps {P : State → Prop} (hw : Frees P 0x4000000000) (s : State) (code : Nat) (hs : P s) : P (State.secFail s code) := by
  unfold State.secFail
  repeat' first
    | with_reducible assumption | with_reducible apply State.secBang_keeps (hw.sub rfl)

theorem State.secDone_keeps {P : State → Prop} (hw : Frees P 0x4000000000) (s : State) (hs : P s) : P (State.secDone s) := by
  unfold State.secDone
  repeat' first
    | with_reducible assumption | with_reducible apply State.secBang_keeps (hw.sub rfl)

theorem State.advanceSvn_keeps {P : State → Prop} (hw : Frees P 0x4000000000) (s : State) (t : Nat) (hs : P s) : P (State.advanceSvn s t) := by
  unfold State.advanceSvn
  have x := ()
  repeat' first
    | (extract_lets +onlyGivenNames x; (fail_if_success clear x); clear_value x) | with_reducible assumption
    | with_reducible apply State.secDone_keeps (hw.sub rfl) | with_reducible apply State.secFail_keeps (hw.sub rfl)
    | with_reducible apply State.setSec_keeps (hw.sub rfl) | split

theorem State.wake_keeps {P : State → Prop} (hw : Frees P 0x100) (s : State) (sid : U16) (hs : P s) : P (State.wake s sid) := by
  unfold State.wake
  have x := ()
  repeat' first
    | (extract_lets +onlyGivenNames x; (fail_if_success clear x); clear_value x) | (with_reducible apply hw.watches rfl; with_reducible assumption)

theorem State.putValue_keeps {P : State → Prop} (hw : Frees P 0x180) (s : State) (sid : U16) (v : U64) (hs : P s) : P (State.putValue s sid v) := by
  unfold State.putValue
  have x := ()
  repeat' first
    | (extract_lets +onlyGivenNames x; (fail_if_success clear x); clear_value x) | with_reducible assumption
    | with_reducible apply State.wake_keeps (hw.sub rfl) | with_reducible apply State.setSync_keeps (hw.sub rfl) | split

theorem State.rearm_keeps {P : State → Prop} (hw : Frees P 0x180) (s : State) (j : Job) (m : MarkSt) (hs : P s) : P (State.rearm s j m) := by
  unfold State.rearm
  repeat' first
    | with_reducible intro _ | with_reducible assumption | with_reducible apply State.putValue_keeps (hw.sub rfl) | with_reducible apply Keep.foldl
    | split

theorem State.armSyncs_keeps {P : State → Prop} (hw : Frees P 0x80) (s : State) (ctx : Nat) (x2 : List SyncDecl) (hs : P s) : P (State.armSyncs s ctx x2) := by
  induction x2 generalizing s ctx with
  | nil =>
    unfold State.armSyncs
    repeat' first
      | with_reducible assumption
  | cons e t ih =>
    unfold State.armSyncs
    repeat' first
      | with_reducible assumption | with_reducible apply ih | with_reducible apply State.setSync_keeps (hw.sub rfl)

theorem State.noteTrigger_keeps {P : State → Prop} (hw : Frees P 0x100000000) (s : State) (ctx : Nat) (src : Nat) (hs : P s) : P (State.noteTrigger s ctx src) := by
  unfold State.noteTrigger
  have x := ()
  repeat' first
    | (extract_lets +onlyGivenNames x; (fail_if_success clear x); clear_value x) | with_reducible assumption
    | with_reducible apply State.setCtx_keeps (hw.sub rfl) | split

theorem State.postFault_keeps {P : State → Prop} (hw : Frees P 0x500000014) (s : State) (ctx : Nat) (f : FaultRec) (hs : P s) : P (State.postFault s ctx f) := by
  unfold State.postFault
  have x := ()
  repeat' first
    | (extract_lets +onlyGivenNames x; (fail_if_success clear x); first | (refine Keep.cut (P := P) (v := x) ?_ ?_; unfold x; clear x; rotate_left; intro hx; clear_value x) | clear_value x)
    | with_reducible assumption | with_reducible apply State.noteTrigger_keeps (hw.sub rfl) | with_reducible apply State.traceEv_keeps (hw.sub rfl)
    | with_reducible apply State.post_keeps (hw.sub rfl) | with_reducible apply State.setCtx_keeps (hw.sub rfl) | split

theorem State.armedWrite_keeps {P : State → Prop} (hw : Frees P 0x500000014) (s : State) (f : Func) (hs : P s) : P (State.armedWrite s f) := by
  unfold State.armedWrite
  repeat' first
    | with_reducible assumption | with_reducible apply State.postFault_keeps (hw.sub rfl)

theorem State.setDie_keeps {P : State → Prop} (hw : Frees P 0x2000000000) (s : State) (d : Nat) (v : DieSt) (hs : P s) : P (State.setDie s d v) := by
  unfold State.setDie
  repeat' first
    | (with_reducible apply hw.dies rfl; with_reducible assumption)

theorem State.updDie_keeps {P : State → Prop} (hw : Frees P 0x2000000000) (s : State) (d : Nat) (f : DieSt → DieSt) (hs : P s) : P (State.updDie s d f) := by
  unfold State.updDie
  repeat' first
    | with_reducible assumption | with_reducible apply State.setDie_keeps (hw.sub rfl)

theorem State.setCxl_keeps {P : State → Prop} (hw : Frees P 0x8000000) (s : State) (c : Nat) (v : CxlPort) (hs : P s) : P (State.setCxl s c v) := by
  unfold State.setCxl
  repeat' first
    | (with_reducible apply hw.cxl rfl; with_reducible assumption)

theorem State.setDev_keeps {P : State → Prop} (hw : Frees P 0x2000000) (s : State) (i : Nat) (v : DevSt) (hs : P s) : P (State.setDev s i v) := by
  unfold State.setDev
  repeat' first
    | (with_reducible apply hw.devs rfl; with_reducible assumption)

theorem State.updDev_keeps {P : State → Prop} (hw : Frees P 0x2000000) (s : State) (i : Nat) (f : DevSt → DevSt) (hs : P s) : P (State.updDev s i f) := by
  unfold State.updDev
  repeat' first
    | with_reducible assumption | with_reducible apply State.setDev_keeps (hw.sub rfl)

theorem State.dropXlateUnit_keeps {P : State → Prop} (hw : Frees P 0x10000000) (s : State) (die : Nat) (hs : P s) : P (State.dropXlateUnit s die) := by
  unfold State.dropXlateUnit
  repeat' first
    | (with_reducible apply hw.tlb rfl; with_reducible assumption)

theorem State.setHp_keeps {P : State → Prop} (hw : Frees P 0x200000000) (s : State) (p : Nat) (v : HostPort) (hs : P s) : P (State.setHp s p v) := by
  unfold State.setHp
  repeat' first
    | (with_reducible apply hw.hp rfl; with_reducible assumption)

theorem State.setPort_keeps {P : State → Prop} (hw : Frees P 0x800000) (s : State) (p : Nat) (v : NlPort) (hs : P s) : P (State.setPort s p v) := by
  unfold State.setPort
  repeat' first
    | (with_reducible apply hw.ports rfl; with_reducible assumption)

theorem State.updPort_keeps {P : State → Prop} (hw : Frees P 0x800000) (s : State) (p : Nat) (f : NlPort → NlPort) (hs : P s) : P (State.updPort s p f) := by
  unfold State.updPort
  repeat' first
    | with_reducible assumption | with_reducible apply State.setPort_keeps (hw.sub rfl)

theorem State.clearCompute_keeps {P : State → Prop} (hw : Frees P 0x1ff97a) (s : State) (d : Nat) (hs : P s) : P (State.clearCompute s d) :=
  hw.rxe rfl (hw.gse rfl (hw.dec rfl (hw.recipes rfl (hw.vx rfl (hw.vmask rfl (hw.vregs rfl (hw.accDir rfl (hw.eng rfl (hw.mxe rfl (hw.watches rfl (hw.chans rfl (hw.queues rfl (hw.units rfl (hw.veiled rfl (hw.free 1 rfl s (s.mem.filter fun c => !(decide (scratchAddr d 0 ≤ c.1) && decide (c.1 < scratchAddr d 0 + 0x8000000))) (Memory.wf_filter _ _) hs)))))))))))))))

theorem State.resetDie_keeps {P : State → Prop} (hw : Frees P 0x271a9ff9fa) (s : State) (d : Nat) (staged : Bool) (hs : P s) : P (State.resetDie s d staged) := by
  unfold State.resetDie
  have x := ()
  repeat' first
    | with_reducible intro _
    | (extract_lets +onlyGivenNames x; (fail_if_success clear x); first | (refine Keep.cut (P := P) (v := x) ?_ ?_; unfold x; clear x; rotate_left; intro hx; clear_value x) | clear_value x)
    | with_reducible assumption | with_reducible apply State.clearCompute_keeps (hw.sub rfl) | with_reducible apply State.updPort_keeps (hw.sub rfl)
    | with_reducible apply State.setHp_keeps (hw.sub rfl) | with_reducible apply State.dropXlateUnit_keeps (hw.sub rfl)
    | with_reducible apply State.updDev_keeps (hw.sub rfl) | with_reducible apply State.setCxl_keeps (hw.sub rfl)
    | with_reducible apply State.updDie_keeps (hw.sub rfl) | with_reducible apply State.setTrace_keeps (hw.sub rfl)
    | with_reducible apply State.setCtx_keeps (hw.sub rfl) | (with_reducible apply hw.syncs rfl; with_reducible assumption)
    | with_reducible apply Keep.foldl | split

theorem State.eachDev_keeps {P : State → Prop} (hw : Frees P 0x2000000) (s : State) (f : DevSt → DevSt) (hs : P s) : P (State.eachDev s f) := by
  unfold State.eachDev
  repeat' first
    | with_reducible intro _ | with_reducible assumption | with_reducible apply State.updDev_keeps (hw.sub rfl) | with_reducible apply Keep.foldl

theorem State.eventTo_keeps {P : State → Prop} (hw : Frees P 0x500000004) (s : State) (code : Nat) (payload : List (Nat × Nat × Nat)) (x3 : List Nat) (hs : P s) : P (State.eventTo s code payload x3) := by
  induction x3 generalizing s code payload with
  | nil =>
    unfold State.eventTo
    repeat' first
      | with_reducible assumption
  | cons e t ih =>
    unfold State.eventTo
    repeat' first
      | with_reducible assumption | with_reducible apply ih | with_reducible apply State.event_keeps (hw.sub rfl)

theorem State.moduleEvent_keeps {P : State → Prop} (hw : Frees P 0x500000004) (s : State) (code : Nat) (payload : List (Nat × Nat × Nat)) (affects : Job → Bool) (hs : P s) : P (State.moduleEvent s code payload affects) := by
  unfold State.moduleEvent
  have x := ()
  repeat' first
    | (extract_lets +onlyGivenNames x; (fail_if_success clear x); clear_value x) | with_reducible assumption
    | with_reducible apply State.eventTo_keeps (hw.sub rfl)

theorem State.fencedEvent_keeps {P : State → Prop} (hw : Frees P 0x500000004) (s : State) (die : Nat) (state : Nat) (hit : Job → Bool) (hs : P s) : P (State.fencedEvent s die state hit) := by
  unfold State.fencedEvent
  repeat' first
    | with_reducible assumption | with_reducible apply State.moduleEvent_keeps (hw.sub rfl)

theorem State.rejoinDie_keeps {P : State → Prop} (hw : Frees P 0x2500000004) (s : State) (d : Nat) (hs : P s) : P (State.rejoinDie s d) := by
  unfold State.rejoinDie
  repeat' first
    | with_reducible assumption | with_reducible apply State.fencedEvent_keeps (hw.sub rfl) | with_reducible apply State.updDie_keeps (hw.sub rfl)

theorem State.ascend_keeps {P : State → Prop} (hw : Frees P 0x271a9ff9fe) (s : State) (hs : P s) : P (State.ascend s) := by
  unfold State.ascend
  have x := ()
  repeat' first
    | with_reducible intro _
    | (extract_lets +onlyGivenNames x; (fail_if_success clear x); refine Keep.cut (P := P) (v := x) ?_ ?_; unfold x; clear x; rotate_left; intro hx; clear_value x)
    | with_reducible assumption | with_reducible apply State.rejoinDie_keeps (hw.sub rfl) | with_reducible apply State.eachDev_keeps (hw.sub rfl)
    | with_reducible apply State.resetDie_keeps (hw.sub rfl) | with_reducible apply State.updDie_keeps (hw.sub rfl) | with_reducible apply Keep.foldl
    | split

theorem State.askAgain_keeps {P : State → Prop} (hw : Frees P 0x40000000) (s : State) (ctx : Nat) (hs : P s) : P (State.askAgain s ctx) := by
  unfold State.askAgain
  repeat' first
    | (with_reducible apply hw.ats rfl; with_reducible assumption)

theorem State.askClaim_keeps {P : State → Prop} (hw : Frees P 0x400000000) (s : State) (port : Nat) (ctx : Nat) (r : Claimed) (want : Bool) (hs : P s) : P (State.askClaim s port ctx r want) := by
  unfold State.askClaim
  have x := ()
  repeat' first
    | (extract_lets +onlyGivenNames x; (fail_if_success clear x); clear_value x) | with_reducible assumption
    | with_reducible apply State.setObs_keeps (hw.sub rfl)

theorem State.askClear_keeps {P : State → Prop} (hw : Frees P 0x400000000) (s : State) (hs : P s) : P (State.askClear s) := by
  unfold State.askClear
  have x := ()
  repeat' first
    | (extract_lets +onlyGivenNames x; (fail_if_success clear x); clear_value x) | with_reducible assumption
    | with_reducible apply State.setObs_keeps (hw.sub rfl)

theorem State.joinRecord_keeps {P : State → Prop} (hw : Frees P 0x100000000) (s : State) (ctx : Nat) (fid : Nat) (hs : P s) : P (State.joinRecord s ctx fid) := by
  unfold State.joinRecord
  repeat' first
    | with_reducible assumption | with_reducible apply State.updCtx_keeps (hw.sub rfl)

theorem State.jobTrigger_keeps {P : State → Prop} (hw : Frees P 0x100000000) (s : State) (jid : U64) (src : Nat) (arg : Option Nat) (hs : P s) : P (State.jobTrigger s jid src arg) := by
  unfold State.jobTrigger
  repeat' first
    | with_reducible assumption | with_reducible apply State.noteTrigger_keeps (hw.sub rfl) | split

theorem State.setWait_keeps {P : State → Prop} (hw : Frees P 0x500000010) (s : State) (x : Nat) (w : WaitSt) (hs : P s) : P (State.setWait s x w) := by
  unfold State.setWait
  have x := ()
  repeat' first
    | (extract_lets +onlyGivenNames x; (fail_if_success clear x); first | (refine Keep.cut (P := P) (v := x) ?_ ?_; unfold x; clear x; rotate_left; intro hx; clear_value x) | clear_value x)
    | with_reducible assumption | with_reducible apply State.jobTrigger_keeps (hw.sub rfl) | with_reducible apply State.traceEv_keeps (hw.sub rfl)
    | with_reducible apply State.setUnit_keeps (hw.sub rfl) | split

theorem State.stall_keeps {P : State → Prop} (hw : Frees P 0x580200014) (s : State) (w : Who) (cause : Nat) (access : Nat) (dva : Nat) (bytes : Nat) (hs : P s) : P (State.stall s w cause access dva bytes) := by
  unfold State.stall
  have x := ()
  repeat' first
    | with_reducible intro _
    | (extract_lets +onlyGivenNames x; (fail_if_success clear x); first | (refine Keep.cut (P := P) (v := x) ?_ ?_; unfold x; clear x; rotate_left; intro hx; clear_value x) | (refine Keep.cutFunS (P := P) (v := x) ?_ ?_; unfold x; clear x; rotate_left; intro hx; clear_value x) | clear_value x)
    | with_reducible assumption | with_reducible apply State.joinRecord_keeps (hw.sub rfl) | with_reducible apply State.postFault_keeps (hw.sub rfl)
    | with_reducible apply State.updJob_keeps (hw.sub rfl) | with_reducible apply State.setWait_keeps (hw.sub rfl)
    | (with_reducible apply hw.faults rfl; with_reducible assumption) | with_reducible apply ‹∀ _ _, P _› | split

theorem State.unavailable_keeps {P : State → Prop} (hw : Frees P 0x200000) (s : State) (jid : U64) (hs : P s) : P (State.unavailable s jid) := by
  unfold State.unavailable
  repeat' first
    | with_reducible assumption | with_reducible apply State.updJob_keeps (hw.sub rfl)

theorem State.jobFault_keeps {P : State → Prop} (hw : Frees P 0x5807dfff4) (s : State) (jid : U64) (cause : Nat) (access : Nat) (unit : Nat) (isDie : Bool) (dva : Nat) (bytes : Nat) (hs : P s) : P (State.jobFault s jid cause access unit isDie dva bytes) := by
  unfold State.jobFault
  repeat' first
    | with_reducible intro _ | with_reducible assumption | with_reducible apply State.postFault_keeps (hw.sub rfl)
    | with_reducible apply State.abortJob_keeps (hw.sub rfl) | with_reducible apply State.withJob_keeps (hw.sub rfl)

theorem State.poisonFault_keeps {P : State → Prop} (hw : Frees P 0x5807dfff4) (s : State) (jid : U64) (access : Nat) (unit : Nat) (isDie : Bool) (dva : Nat) (addr : Nat) (bytes : Nat) (hs : P s) : P (State.poisonFault s jid access unit isDie dva addr bytes) := by
  unfold State.poisonFault
  repeat' first
    | with_reducible intro _ | with_reducible assumption | with_reducible apply State.jobFault_keeps (hw.sub rfl)
    | with_reducible apply State.withJob_keeps (hw.sub rfl) | with_reducible apply State.event_keeps (hw.sub rfl)

theorem State.streamFault_keeps {P : State → Prop} (hw : Frees P 0x5807dfff4) (s : State) (w : Who) (cause : Nat) (access : Nat) (dva : Nat) (addr : Nat) (bytes : Nat) (hs : P s) : P (State.streamFault s w cause access dva addr bytes) := by
  unfold State.streamFault
  repeat' first
    | with_reducible assumption | with_reducible apply State.poisonFault_keeps (hw.sub rfl) | with_reducible apply State.jobFault_keeps (hw.sub rfl)
    | with_reducible apply State.unavailable_keeps (hw.sub rfl) | with_reducible apply State.stall_keeps (hw.sub rfl) | split

theorem State.on_keeps {P : State → Prop} (hw : Frees P 0xd807dfff4) {α : Type} (s : State) (w : Who) (a : Acc α) (f : α → State) (hs : P s) (hf : ∀ v, a = .ok v → P (f v)) : 
    P (State.on s w a f) := by
  unfold State.on
  split
  · exact State.accessed_keeps (hw.sub rfl) _ _ (hf _ rfl)
  · exact State.streamFault_keeps (hw.sub rfl) _ _ _ _ _ _ _ hs
  · split
    · exact hs
    · exact State.setWait_keeps (hw.sub rfl) _ _ _ hs

theorem State.withUnitJob_keeps {P : State → Prop} (hw : Frees P 0x0) (s : State) (x : Nat) (f : Job → State) (hs : P s) (hf : ∀ (y0 : Job), P (f y0)) : P (State.withUnitJob s x f) := by
  unfold State.withUnitJob
  repeat' first
    | with_reducible intro _ | with_reducible assumption | with_reducible apply State.withJob_keeps (hw.sub rfl) | with_reducible apply hf | split

theorem State.liveDecant_keeps {P : State → Prop} (hw : Frees P 0xd807dfff4) (s : State) (x : Nat) (tag : BitVec 12) (hs : P s) : P (State.liveDecant s x tag) := by
  unfold State.liveDecant
  have x := ()
  repeat' first
    | with_reducible intro _ | (extract_lets +onlyGivenNames x; (fail_if_success clear x); clear_value x) | with_reducible assumption
    | with_reducible apply State.withUnitJob_keeps (hw.sub rfl) | with_reducible apply State.on_keeps (hw.sub rfl)
    | with_reducible apply State.setDec_keeps (hw.sub rfl) | with_reducible apply State.updUnit_keeps (hw.sub rfl) | split

theorem State.askDecant_keeps {P : State → Prop} (hw : Frees P 0xd807dfff4) (s : State) (x : Nat) (tag : BitVec 12) (hs : P s) : P (State.askDecant s x tag) := by
  unfold State.askDecant
  have x := ()
  repeat' first
    | (extract_lets +onlyGivenNames x; (fail_if_success clear x); clear_value x) | with_reducible assumption
    | with_reducible apply State.liveDecant_keeps (hw.sub rfl) | with_reducible apply State.setDec_keeps (hw.sub rfl) | split

theorem State.askDump_keeps {P : State → Prop} (hw : Frees P 0x500000000) (s : State) (ctx : Nat) (scope : Bool) (hang : Bool) (at_ : Nat) (hs : P s) : P (State.askDump s ctx scope hang at_) := by
  unfold State.askDump
  have x := ()
  repeat' first
    | (extract_lets +onlyGivenNames x; (fail_if_success clear x); clear_value x) | with_reducible assumption
    | with_reducible apply State.setObs_keeps (hw.sub rfl) | with_reducible apply State.updCtx_keeps (hw.sub rfl) | split

theorem State.updHp_keeps {P : State → Prop} (hw : Frees P 0x200000000) (s : State) (p : Nat) (f : HostPort → HostPort) (hs : P s) : P (State.updHp s p f) := by
  unfold State.updHp
  repeat' first
    | with_reducible assumption | with_reducible apply State.setHp_keeps (hw.sub rfl)

theorem State.askHandover_keeps {P : State → Prop} (hw : Frees P 0x200000000) (s : State) (f : Func) (port : Nat) (hs : P s) : P (State.askHandover s f port) := by
  unfold State.askHandover
  repeat' first
    | with_reducible assumption | with_reducible apply State.updHp_keeps (hw.sub rfl) | split

theorem State.askHost_keeps {P : State → Prop} (hw : Frees P 0x40000000) (s : State) (port : Nat) (ctx : Nat) (page : Nat) (forPin : Bool) (hs : P s) : P (State.askHost s port ctx page forPin) := by
  unfold State.askHost
  repeat' first
    | with_reducible assumption | (with_reducible apply hw.ats rfl; with_reducible assumption) | split

theorem State.askPreempt_keeps {P : State → Prop} (hw : Frees P 0x200000) (s : State) (jid : U64) (cause : Nat) (hs : P s) : P (State.askPreempt s jid cause) := by
  unfold State.askPreempt
  repeat' first
    | with_reducible assumption | with_reducible apply State.updJob_keeps (hw.sub rfl)

theorem State.askPreemptAll_keeps {P : State → Prop} (hw : Frees P 0x200000) (s : State) (cause : Nat) (x2 : List U64) (hs : P s) : P (State.askPreemptAll s cause x2) := by
  induction x2 generalizing s cause with
  | nil =>
    unfold State.askPreemptAll
    repeat' first
      | with_reducible assumption
  | cons e t ih =>
    unfold State.askPreemptAll
    repeat' first
      | with_reducible assumption | with_reducible apply ih | with_reducible apply State.askPreempt_keeps (hw.sub rfl)

theorem State.askSnap_keeps {P : State → Prop} (hw : Frees P 0x400000000) (s : State) (hs : P s) : P (State.askSnap s) := by
  unfold State.askSnap
  have x := ()
  repeat' first
    | (extract_lets +onlyGivenNames x; (fail_if_success clear x); clear_value x) | with_reducible assumption
    | with_reducible apply State.setObs_keeps (hw.sub rfl)

theorem State.badTarget_keeps {P : State → Prop} (hw : Frees P 0x500000014) (s : State) (ctx : Nat) (jid : U64) (cause : Nat) (hs : P s) : P (State.badTarget s ctx jid cause) := by
  unfold State.badTarget
  repeat' first
    | with_reducible assumption | with_reducible apply State.postFault_keeps (hw.sub rfl)

theorem State.beatLost_keeps {P : State → Prop} (hw : Frees P 0x500000004) (s : State) (hs : P s) : P (State.beatLost s) := by
  unfold State.beatLost
  repeat' first
    | with_reducible assumption | with_reducible apply State.moduleEvent_keeps (hw.sub rfl)

theorem State.orLanes_keeps {P : State → Prop} (hw : Frees P 0x10) (s : State) (x : Nat) (fs : List U16) (hs : P s) : P (State.orLanes s x fs) := by
  unfold State.orLanes
  repeat' first
    | with_reducible assumption | with_reducible apply State.updUnit_keeps (hw.sub rfl)

theorem State.orUnitFlags_keeps {P : State → Prop} (hw : Frees P 0x10) (s : State) (x : Nat) (f : U16) (hs : P s) : P (State.orUnitFlags s x f) := by
  unfold State.orUnitFlags
  repeat' first
    | with_reducible assumption | with_reducible apply State.orLanes_keeps (hw.sub rfl)

theorem State.countOoa_keeps {P : State → Prop} (hw : Frees P 0x10) (s : State) (x : Nat) (n : Nat) (hs : P s) : P (State.countOoa s x n) := by
  unfold State.countOoa
  repeat' first
    | with_reducible assumption | with_reducible apply State.updUnit_keeps (hw.sub rfl) | split

theorem State.beginPass_keeps {P : State → Prop} (hw : Frees P 0x10) (s : State) (x : Nat) (k : BlockCtx) (q : WBlock) (long : U16) (hs : P s) : P (State.beginPass s x k q long) := by
  unfold State.beginPass
  have x := ()
  repeat' first
    | (extract_lets +onlyGivenNames x; (fail_if_success clear x); first | (refine Keep.cut (P := P) (v := x) ?_ ?_; unfold x; clear x; rotate_left; intro hx; clear_value x) | clear_value x)
    | with_reducible assumption | with_reducible apply State.countOoa_keeps (hw.sub rfl) | with_reducible apply State.orUnitFlags_keeps (hw.sub rfl)
    | with_reducible apply State.orLanes_keeps (hw.sub rfl) | with_reducible apply State.updUnit_keeps (hw.sub rfl) | split

theorem State.blank_keeps {P : State → Prop} (hw : Frees P 0xa) (s : State) (lo hi : Nat) (hs : P s) : P (State.blank s lo hi) := by
  unfold State.blank
  split
  · exact hs
  · exact hw.veiled rfl (hw.free 1 rfl s (s.mem.filter fun c => !(decide (lo ≤ c.1) && decide (c.1 < hi))) (Memory.wf_filter _ _) hs)

theorem State.bootDies_keeps {P : State → Prop} (hw : Frees P 0x4000000000) (s : State) (micro : Option Image) (train : Option Image) (hs : P s) : P (State.bootDies s micro train) := by
  unfold State.bootDies
  have x := ()
  repeat' first
    | (extract_lets +onlyGivenNames x; (fail_if_success clear x); clear_value x) | with_reducible assumption
    | with_reducible apply State.setSec_keeps (hw.sub rfl) | split

theorem State.bootFuses_keeps {P : State → Prop} (hw : Frees P 0x4000000000) (s : State) (hs : P s) : P (State.bootFuses s) := by
  unfold State.bootFuses
  repeat' first
    | with_reducible assumption | with_reducible apply State.secBang_keeps (hw.sub rfl)

theorem State.bootMgmt_keeps {P : State → Prop} (hw : Frees P 0x4000000000) (s : State) (hs : P s) : P (State.bootMgmt s) := by
  unfold State.bootMgmt
  have x := ()
  repeat' first
    | (extract_lets +onlyGivenNames x; (fail_if_success clear x); clear_value x) | with_reducible assumption
    | with_reducible apply State.setSec_keeps (hw.sub rfl) | split

theorem State.bootTrain_keeps {P : State → Prop} (hw : Frees P 0x6002000000) (s : State) (failed : Option (Fin 48)) (hs : P s) : P (State.bootTrain s failed) := by
  unfold State.bootTrain
  have x := ()
  repeat' first
    | with_reducible intro _
    | (extract_lets +onlyGivenNames x; (fail_if_success clear x); refine Keep.cut (P := P) (v := x) ?_ ?_; unfold x; clear x; rotate_left; intro hx; clear_value x)
    | with_reducible assumption | with_reducible apply State.updDev_keeps (hw.sub rfl) | with_reducible apply State.updDie_keeps (hw.sub rfl)
    | with_reducible apply State.secBang_keeps (hw.sub rfl) | with_reducible apply Keep.foldl | split

theorem State.putByte_keeps {P : State → Prop} (hw : Frees P 0xa) (s : State) (a : Nat) (b : Byte) (hs : P s) : P (State.putByte s a b) :=
  hw.veiled rfl (hw.free 1 rfl s (writeByte s.mem a b) (Memory.wf_writeByte _ _ _) hs)

theorem State.storeLoc_keeps {P : State → Prop} (hw : Frees P 0x40000000e) (s : State) (l : List (Loc × Byte)) (hs : P s) : P (State.storeLoc s l) := by
  induction l generalizing s with
  | nil => exact hs
  | cons e t ih => match e with
    | (.phys a, b) => exact ih _ (State.putByte_keeps (hw.sub rfl) _ _ _ hs)
    | (.host p a, b) => exact ih _ (State.hostWrite_keeps (hw.sub rfl) _ _ _ _ hs)

theorem State.carry_keeps {P : State → Prop} (hw : Frees P 0x800000000) (s : State) (src : Nat) (dst : Nat) (hs : P s) : P (State.carry s src dst) := by
  unfold State.carry
  have x := ()
  repeat' first
    | (extract_lets +onlyGivenNames x; (fail_if_success clear x); clear_value x) | (with_reducible apply hw.fabric rfl; with_reducible assumption)

theorem State.carryStores_keeps {P : State → Prop} (hw : Frees P 0x800000000) (s : State) (w : Who) (l : List Loc) (hs : P s) : P (State.carryStores s w l) := by
  unfold State.carryStores
  repeat' first
    | with_reducible intro _ | with_reducible assumption | with_reducible apply State.carry_keeps (hw.sub rfl) | with_reducible apply Keep.foldl

theorem State.setPoison_keeps {P : State → Prop} (hw : Frees P 0x4000000) (s : State) (burst : Nat) (v : Bool) (hs : P s) : P (State.setPoison s burst v) := by
  unfold State.setPoison
  repeat' first
    | (with_reducible apply hw.poison rfl; with_reducible assumption)

theorem State.cleanBurst_keeps {P : State → Prop} (hw : Frees P 0x6000000) (s : State) (k : Nat) (hs : P s) : P (State.cleanBurst s k) := by
  unfold State.cleanBurst
  repeat' first
    | with_reducible assumption | with_reducible apply State.setPoison_keeps (hw.sub rfl) | with_reducible apply State.updDev_keeps (hw.sub rfl)
    | split

theorem State.unpoison_keeps {P : State → Prop} (hw : Frees P 0x6000000) (s : State) (x1 : List Nat) (hs : P s) : P (State.unpoison s x1) := by
  induction x1 generalizing s with
  | nil =>
    unfold State.unpoison
    repeat' first
      | with_reducible assumption
  | cons e t ih =>
    unfold State.unpoison
    repeat' first
      | with_reducible assumption | with_reducible apply ih | with_reducible apply State.cleanBurst_keeps (hw.sub rfl)

theorem State.updCxl_keeps {P : State → Prop} (hw : Frees P 0x8000000) (s : State) (c : Nat) (f : CxlPort → CxlPort) (hs : P s) : P (State.updCxl s c f) := by
  unfold State.updCxl
  repeat' first
    | with_reducible assumption | with_reducible apply State.setCxl_keeps (hw.sub rfl)

theorem State.dropAhead_keeps {P : State → Prop} (hw : Frees P 0x8000000) (s : State) (l : List (Loc × Byte)) (hs : P s) : P (State.dropAhead s l) := by
  unfold State.dropAhead
  have x := ()
  repeat' first
    | with_reducible intro _ | (extract_lets +onlyGivenNames x; (fail_if_success clear x); clear_value x) | with_reducible assumption
    | with_reducible apply State.updCxl_keeps (hw.sub rfl) | with_reducible apply Keep.foldl | split

theorem State.storeAll_keeps {P : State → Prop} (hw : Frees P 0xc0e00000e) (s : State) (w : Who) (l : Stores) (hs : P s) : AccAll P id (State.storeAll s w l) := by
  unfold State.storeAll
  have x := ()
  repeat' first
    | with_reducible intro _ | (extract_lets +onlyGivenNames x; (fail_if_success clear x); clear_value x) | with_reducible assumption
    | with_reducible apply State.dropAhead_keeps (hw.sub rfl) | with_reducible apply State.unpoison_keeps (hw.sub rfl)
    | with_reducible apply State.carryStores_keeps (hw.sub rfl) | with_reducible apply State.storeLoc_keeps (hw.sub rfl)
    | with_reducible apply AccAll.ok | with_reducible apply AccAll.bad | with_reducible apply AccAll.bind | split | dsimp -zeta only [id]

theorem State.storeQuiet_keeps {P : State → Prop} (hw : Frees P 0xc0e00000e) (s : State) (ctx : Nat) (dva : Nat) (b : List Byte) (hs : P s) : P (State.storeQuiet s ctx dva b) := by
  unfold State.storeQuiet
  have x := ()
  repeat' first
    | (extract_lets +onlyGivenNames x; (fail_if_success clear x); clear_value x) | with_reducible assumption
    | with_reducible apply State.storeAll_keeps (hw.sub rfl) | with_reducible refine AccAll.getId ?_ ‹_ = Acc.ok _› | split

theorem State.ingestItem_keeps {P : State → Prop} (hw : Frees P 0xc0e20000e) (s : State) (j : Job) (port : Nat) (stamp : Nat) (query : Bool) (dva : Nat) (data : List Byte) (hs : P s) : P (State.ingestItem s j port stamp query dva data) := by
  unfold State.ingestItem
  have x := ()
  repeat' first
    | (extract_lets +onlyGivenNames x; (fail_if_success clear x); first | (refine Keep.cut (P := P) (v := x) ?_ ?_; unfold x; clear x; rotate_left; intro hx; clear_value x) | clear_value x)
    | with_reducible assumption | with_reducible apply State.storeQuiet_keeps (hw.sub rfl) | with_reducible apply State.updJob_keeps (hw.sub rfl)
    | with_reducible apply State.record_keeps (hw.sub rfl)

theorem State.moduleSignal_keeps {P : State → Prop} (hw : Frees P 0x5807dfff4) (s : State) (j : Job) (die : Nat) (sid : U16) (hs : P s) : P (State.moduleSignal s j die sid) := by
  unfold State.moduleSignal
  have x := ()
  repeat' first
    | (extract_lets +onlyGivenNames x; (fail_if_success clear x); clear_value x) | with_reducible assumption
    | with_reducible apply State.jobFault_keeps (hw.sub rfl) | with_reducible apply State.unavailable_keeps (hw.sub rfl)
    | with_reducible apply State.putValue_keeps (hw.sub rfl) | split

theorem State.tracePacket_keeps {P : State → Prop} (hw : Frees P 0x400000010) (s : State) (jid : U64) (p : Nat) (k : Packet) (hs : P s) : P (State.tracePacket s jid p k) := by
  unfold State.tracePacket
  have x := ()
  repeat' first
    | (extract_lets +onlyGivenNames x; (fail_if_success clear x); clear_value x) | with_reducible assumption
    | with_reducible apply State.traceEv_keeps (hw.sub rfl)

theorem State.mergeLoc_keeps {P : State → Prop} (hw : Frees P 0x40000000e) (s : State) (l : List (Loc × Byte × Byte)) (hs : P s) : P (State.mergeLoc s l) := by
  induction l generalizing s with
  | nil => exact hs
  | cons e t ih => match e with
    | (.phys a, m, b) => exact ih _ (State.putByte_keeps (hw.sub rfl) _ _ _ hs)
    | (.host p a, m, b) => exact ih _ (State.hostWrite_keeps (hw.sub rfl) _ _ _ _ hs)

theorem State.storePlaced_keeps {P : State → Prop} (hw : Frees P 0xc0e00000e) (s : State) (w : Who) (l : List (Nat × Loc × Byte × Byte)) (hs : P s) : AccAll P id (State.storePlaced s w l) := by
  unfold State.storePlaced
  have x := ()
  repeat' first
    | (extract_lets +onlyGivenNames x; (fail_if_success clear x); clear_value x) | with_reducible assumption
    | with_reducible apply State.mergeLoc_keeps (hw.sub rfl) | with_reducible apply State.dropAhead_keeps (hw.sub rfl)
    | with_reducible apply State.unpoison_keeps (hw.sub rfl) | with_reducible apply State.carryStores_keeps (hw.sub rfl)
    | with_reducible apply AccAll.ok | with_reducible apply AccAll.bad | split | dsimp -zeta only [id]

theorem State.storeView_keeps {P : State → Prop} (hw : Frees P 0xc0e00000e) (s : State) (w : Who) (v : View) (l : MStores) (hs : P s) : AccAll P id (State.storeView s w v l) := by
  unfold State.storeView
  repeat' first
    | with_reducible intro _ | with_reducible assumption | with_reducible apply State.storePlaced_keeps (hw.sub rfl)
    | with_reducible apply AccAll.bind

theorem State.delivered_keeps {P : State → Prop} (hw : Frees P 0x5807dfff4) (s : State) (j : Job) (p : Nat) (a : Acc State) (f : State → State) (hs : P s) (ha : AccAll P id a)
    (hf : ∀ t, P t → P (f t)) : P (State.delivered s j p a f) := by
  unfold State.delivered
  split
  · exact hf _ (ha _ rfl)
  · have h := State.cntAdd_keeps (hw.sub rfl) s (cntNelil p 6) 1 hs
    simp only
    split
    · exact State.poisonFault_keeps (hw.sub rfl) _ _ _ _ _ _ _ _ h
    · split
      · exact State.unavailable_keeps (hw.sub rfl) _ _ h
      · exact State.jobFault_keeps (hw.sub rfl) _ _ _ _ _ _ _ _ h
  · exact State.jobFault_keeps (hw.sub rfl) _ _ _ _ _ _ _ _ (State.cntAdd_keeps (hw.sub rfl) _ _ _ hs)

theorem State.deliverHalo_keeps {P : State → Prop} (hw : Frees P 0xd8e7dfffe) (s : State) (j : Job) (p : Nat) (k : Packet) (hs : P s) : P (State.deliverHalo s j p k) := by
  unfold State.deliverHalo
  have x := ()
  repeat' first
    | with_reducible intro _
    | (extract_lets +onlyGivenNames x; (fail_if_success clear x); first | (refine Keep.cut (P := P) (v := x) ?_ ?_; unfold x; clear x; rotate_left; intro hx; clear_value x) | clear_value x)
    | with_reducible assumption | with_reducible apply State.delivered_keeps (hw.sub rfl) | with_reducible apply State.storeView_keeps (hw.sub rfl)
    | with_reducible apply State.tracePacket_keeps (hw.sub rfl) | with_reducible apply State.moduleSignal_keeps (hw.sub rfl)
    | with_reducible apply State.jobFault_keeps (hw.sub rfl) | with_reducible apply State.updJob_keeps (hw.sub rfl)
    | with_reducible apply State.record_keeps (hw.sub rfl) | split

theorem State.storeParts_keeps {P : State → Prop} (hw : Frees P 0xc0e00000e) (s : State) (w : Who) (x2 : List (View × MStores)) (hs : P s) : AccAll P id (State.storeParts s w x2) := by
  induction x2 generalizing s w with
  | nil =>
    unfold State.storeParts
    repeat' first
      | with_reducible assumption | with_reducible apply AccAll.ok | dsimp -zeta only [id]
  | cons e t ih =>
    unfold State.storeParts
    repeat' first
      | with_reducible intro _ | with_reducible assumption | with_reducible apply ih | with_reducible apply State.storeView_keeps (hw.sub rfl)
      | with_reducible apply AccAll.bind | with_reducible refine AccAll.getId ?_ ‹_ = Acc.ok _›

theorem State.deliverBlocks_keeps {P : State → Prop} (hw : Frees P 0xd8e7dfffe) (s : State) (j : Job) (p : Nat) (b : BSpec) (dim : Nat) (spread : Bool) (pk : Packet) (hs : P s) : P (State.deliverBlocks s j p b dim spread pk) := by
  unfold State.deliverBlocks
  have x := ()
  repeat' first
    | with_reducible intro _
    | (extract_lets +onlyGivenNames x; (fail_if_success clear x); first | (refine Keep.cut (P := P) (v := x) ?_ ?_; unfold x; clear x; rotate_left; intro hx; clear_value x) | (refine AccAll.cut (P := P) (v := x) ?_ ?_; unfold x; clear x; rotate_left; intro hx; clear_value x) | clear_value x)
    | with_reducible assumption | with_reducible apply State.storeParts_keeps (hw.sub rfl) | with_reducible apply State.delivered_keeps (hw.sub rfl)
    | with_reducible apply State.storeView_keeps (hw.sub rfl) | with_reducible apply State.tracePacket_keeps (hw.sub rfl)
    | with_reducible apply State.updJob_keeps (hw.sub rfl) | with_reducible apply State.record_keeps (hw.sub rfl) | with_reducible apply AccAll.ok
    | split | dsimp -zeta only [id]

theorem State.deliverCork_keeps {P : State → Prop} (hw : Frees P 0x400200010) (s : State) (j : Job) (k : Packet) (hs : P s) : P (State.deliverCork s j k) := by
  unfold State.deliverCork
  have x := ()
  repeat' first
    | (extract_lets +onlyGivenNames x; (fail_if_success clear x); first | (refine Keep.cut (P := P) (v := x) ?_ ?_; unfold x; clear x; rotate_left; intro hx; clear_value x) | clear_value x)
    | with_reducible assumption | with_reducible apply State.tracePacket_keeps (hw.sub rfl) | with_reducible apply State.updJob_keeps (hw.sub rfl)
    | with_reducible apply State.record_keeps (hw.sub rfl)

theorem State.deliverAgain_keeps {P : State → Prop} (hw : Frees P 0xd8e7dfffe) (s : State) (j : Job) (e : RecEntry) (hs : P s) : P (State.deliverAgain s j e) := by
  unfold State.deliverAgain
  have x := ()
  repeat' first
    | (extract_lets +onlyGivenNames x; (fail_if_success clear x); first | (refine Keep.cut (P := P) (v := x) ?_ ?_; unfold x; clear x; rotate_left; intro hx; clear_value x) | clear_value x)
    | with_reducible assumption | with_reducible apply State.deliverCork_keeps (hw.sub rfl)
    | with_reducible apply State.deliverBlocks_keeps (hw.sub rfl) | with_reducible apply State.deliverHalo_keeps (hw.sub rfl)
    | with_reducible apply State.record_keeps (hw.sub rfl) | split

theorem State.supply_keeps {P : State → Prop} (hw : Frees P 0xd8e7dfffe) (s : State) (j : Job) (q : RecSt) (e : RecEntry) (hs : P s) : P (State.supply s j q e) := by
  unfold State.supply
  have x := ()
  repeat' first
    | (extract_lets +onlyGivenNames x; (fail_if_success clear x); clear_value x) | with_reducible assumption
    | with_reducible apply State.deliverAgain_keeps (hw.sub rfl) | with_reducible apply State.ingestItem_keeps (hw.sub rfl) | split

theorem State.supplyAll_keeps {P : State → Prop} (hw : Frees P 0xd8e7dfffe) (s : State) (jid : U64) (x2 : Nat) (hs : P s) : P (State.supplyAll s jid x2) := by
  induction x2 generalizing s jid with
  | zero =>
    unfold State.supplyAll
    repeat' first
      | with_reducible assumption
  | succ n ih =>
    unfold State.supplyAll
    repeat' first
      | with_reducible assumption | with_reducible apply ih | with_reducible apply State.supply_keeps (hw.sub rfl) | split

theorem State.feed_keeps {P : State → Prop} (hw : Frees P 0xd8e7dfffe) (s : State) (hs : P s) : P (State.feed s) := by
  unfold State.feed
  repeat' first
    | with_reducible assumption | with_reducible apply State.supplyAll_keeps (hw.sub rfl) | split

theorem State.moveControl_keeps {P : State → Prop} (hw : Frees P 0x700000004) (s : State) (to_ : Nat) (cause : Nat) (hs : P s) : P (State.moveControl s to_ cause) := by
  unfold State.moveControl
  have x := ()
  repeat' first
    | (extract_lets +onlyGivenNames x; (fail_if_success clear x); refine Keep.cut (P := P) (v := x) ?_ ?_; unfold x; clear x; rotate_left; intro hx; clear_value x)
    | with_reducible assumption | with_reducible apply State.updHp_keeps (hw.sub rfl) | with_reducible apply State.event_keeps (hw.sub rfl)

theorem State.boundaryHandover_keeps {P : State → Prop} (hw : Frees P 0x700000004) (s : State) (port : Nat) (hs : P s) : P (State.boundaryHandover s port) := by
  unfold State.boundaryHandover
  repeat' first
    | with_reducible assumption | with_reducible apply State.moveControl_keeps (hw.sub rfl) | with_reducible apply State.updHp_keeps (hw.sub rfl)
    | split

theorem State.setTime_keeps {P : State → Prop} (hw : Frees P 0x1) (s : State) (t : TimeSt) (hs : P s) : P (State.setTime s t) := by
  unfold State.setTime
  repeat' first
    | (with_reducible apply hw.time rfl; with_reducible assumption)

theorem State.timeBoundary_keeps {P : State → Prop} (hw : Frees P 0x1) (s : State) (hs : P s) : P (State.timeBoundary s) := by
  unfold State.timeBoundary
  have x := ()
  repeat' first
    | (extract_lets +onlyGivenNames x; (fail_if_success clear x); clear_value x) | with_reducible assumption
    | with_reducible apply State.setTime_keeps (hw.sub rfl)

theorem State.flushRing_keeps {P : State → Prop} (hw : Frees P 0x500000004) (s : State) (ctx : Nat) (k : RingKind) (x3 : List W256) (hs : P s) : P (State.flushRing s ctx k x3) := by
  induction x3 generalizing s ctx k with
  | nil =>
    unfold State.flushRing
    repeat' first
      | with_reducible assumption | with_reducible apply State.updCtx_keeps (hw.sub rfl)
  | cons e t ih =>
    unfold State.flushRing
    repeat' first
      | with_reducible assumption | with_reducible apply ih | with_reducible apply State.emit_keeps (hw.sub rfl)
      | with_reducible apply State.updCtx_keeps (hw.sub rfl) | split

theorem State.flushCtx_keeps {P : State → Prop} (hw : Frees P 0x500000004) (s : State) (ctx : Nat) (hs : P s) : P (State.flushCtx s ctx) := by
  unfold State.flushCtx
  have x := ()
  repeat' first
    | (extract_lets +onlyGivenNames x; (fail_if_success clear x); refine Keep.cut (P := P) (v := x) ?_ ?_; unfold x; clear x; rotate_left; intro hx; clear_value x)
    | with_reducible assumption | with_reducible apply State.flushRing_keeps (hw.sub rfl)

theorem State.writeStatus_keeps {P : State → Prop} (hw : Frees P 0x500000004) (s : State) (ctx : Nat) (hs : P s) : P (State.writeStatus s ctx) := by
  unfold State.writeStatus
  have x := ()
  repeat' first
    | (extract_lets +onlyGivenNames x; (fail_if_success clear x); first | (refine Keep.cut (P := P) (v := x) ?_ ?_; unfold x; clear x; rotate_left; intro hx; clear_value x) | clear_value x)
    | with_reducible assumption | with_reducible apply State.flushCtx_keeps (hw.sub rfl) | with_reducible apply State.hostWrite_keeps (hw.sub rfl)
    | with_reducible apply State.setCtx_keeps (hw.sub rfl) | split

theorem State.writeStatusFrom_keeps {P : State → Prop} (hw : Frees P 0x500000004) (s : State) (x1 : Nat) (hs : P s) : P (State.writeStatusFrom s x1) := by
  induction x1 generalizing s with
  | zero =>
    unfold State.writeStatusFrom
    repeat' first
      | with_reducible assumption
  | succ n ih =>
    unfold State.writeStatusFrom
    repeat' first
      | with_reducible assumption | with_reducible apply ih | with_reducible apply State.writeStatus_keeps (hw.sub rfl)

theorem State.hostBoundary_keeps {P : State → Prop} (hw : Frees P 0x200000000) (s : State) (p : Nat) (hs : P s) : P (State.hostBoundary s p) := by
  unfold State.hostBoundary
  repeat' first
    | with_reducible assumption | with_reducible apply State.updHp_keeps (hw.sub rfl)

theorem State.closeReconf_keeps {P : State → Prop} (hw : Frees P 0x500000404) (s : State) (r : RecfgSt) (hs : P s) : P (State.closeReconf s r) := by
  unfold State.closeReconf
  repeat' first
    | with_reducible assumption | with_reducible apply State.postDiscard_keeps (hw.sub rfl)
    | (with_reducible apply hw.recfgs rfl; with_reducible assumption) | split

theorem State.closeReconfs_keeps {P : State → Prop} (hw : Frees P 0x500000404) (s : State) (hs : P s) : P (State.closeReconfs s) := by
  unfold State.closeReconfs
  repeat' first
    | with_reducible intro _ | with_reducible assumption | with_reducible apply State.closeReconf_keeps (hw.sub rfl) | with_reducible apply Keep.foldl

theorem State.delayBoundary_keeps {P : State → Prop} (hw : Frees P 0x800000) (s : State) (p : Nat) (hs : P s) : P (State.delayBoundary s p) := by
  unfold State.delayBoundary
  repeat' first
    | with_reducible assumption | with_reducible apply State.updPort_keeps (hw.sub rfl) | split

theorem State.veil_keeps {P : State → Prop} (hw : Frees P 0x2000000000a) (s : State) (lo : Nat) (hi : Nat) (hs : P s) : P (State.veil s lo hi) := by
  unfold State.veil
  have x := ()
  repeat' first
    | (extract_lets +onlyGivenNames x; (fail_if_success clear x); refine Keep.cut (P := P) (v := x) ?_ ?_; unfold x; clear x; rotate_left; intro hx; clear_value x)
    | with_reducible assumption | with_reducible apply State.blank_keeps (hw.sub rfl)
    | (with_reducible apply hw.veiled rfl; with_reducible apply hw.fresh rfl; with_reducible assumption) | split

theorem State.overDva_keeps {P : State → Prop} (hw : Frees P 0x0) (f : State → Nat → Nat → State) (s : State) (ctx : Nat) (dva : Nat) (hi : Nat) (x5 : Nat) (hs : P s) (hf : ∀ (y0 : State) (y1 : Nat) (y2 : Nat), P y0 → P (f y0 y1 y2)) : P (State.overDva f s ctx dva hi x5) := by
  induction x5 generalizing s ctx dva hi with
  | zero =>
    unfold State.overDva
    have x := ()
    repeat' first
      | with_reducible assumption
  | succ n ih =>
    unfold State.overDva
    have x := ()
    repeat' first
      | (extract_lets +onlyGivenNames x; (fail_if_success clear x); first | (refine Keep.cut (P := P) (v := x) ?_ ?_; unfold x; clear x; rotate_left; intro hx; clear_value x) | clear_value x)
      | with_reducible assumption | with_reducible apply ih | with_reducible apply hf | split

theorem State.veilDva_keeps {P : State → Prop} (hw : Frees P 0x2000000000a) (s : State) (ctx : Nat) (dva : Nat) (hi : Nat) (n : Nat) (hs : P s) : P (State.veilDva s ctx dva hi n) := by
  unfold State.veilDva
  repeat' first
    | with_reducible intro _ | with_reducible assumption | with_reducible apply State.overDva_keeps (hw.sub rfl)
    | with_reducible apply State.veil_keeps (hw.sub rfl)

theorem State.showRec_keeps {P : State → Prop} (hw : Frees P 0x20d0e00000e) (s : State) (r : RecSt) (hs : P s) : P (State.showRec s r).1 := by
  unfold State.showRec
  have x := ()
  repeat' first
    | (extract_lets +onlyGivenNames x; (fail_if_success clear x); first | (refine Keep.cut (P := P) (v := x) ?_ ?_; unfold x; clear x; rotate_left; intro hx; clear_value x) | clear_value x)
    | with_reducible assumption | with_reducible apply State.veilDva_keeps (hw.sub rfl) | with_reducible apply State.storeQuiet_keeps (hw.sub rfl)
    | with_reducible apply State.updCtx_keeps (hw.sub rfl) | split

theorem State.showRecs_keeps {P : State → Prop} (hw : Frees P 0x20d0e00000e) (s : State) (hs : P s) : P (State.showRecs s) := by
  unfold State.showRecs
  refine State.setObs_keeps (hw.sub rfl) _ _ ?_
  have h : ∀ (l : List RecSt) (a : State × List RecSt), P a.1 →
      P (l.foldl (fun (a : State × List RecSt) (r : RecSt) => ((a.1.showRec r).1, a.2 ++ [(a.1.showRec r).2])) a).1 := by
    intro l
    induction l with
    | nil => exact fun a h => h
    | cons r t ih => exact fun a h => ih _ (State.showRec_keeps (hw.sub rfl) _ _ h)
  exact h _ _ hs

theorem State.setPins_keeps {P : State → Prop} (hw : Frees P 0x8000000000) (s : State) (p : PinSt) (hs : P s) : P (State.setPins s p) := by
  unfold State.setPins
  repeat' first
    | (with_reducible apply hw.pins rfl; with_reducible assumption)

theorem State.pinBoundary_keeps {P : State → Prop} (hw : Frees P 0x8000000000) (s : State) (hs : P s) : P (State.pinBoundary s) := by
  unfold State.pinBoundary
  have x := ()
  repeat' first
    | (extract_lets +onlyGivenNames x; (fail_if_success clear x); clear_value x) | with_reducible assumption
    | with_reducible apply State.setPins_keeps (hw.sub rfl)

theorem State.endFenced_keeps {P : State → Prop} (hw : Frees P 0x5807dfff4) (s : State) (hs : P s) : P (State.endFenced s) := by
  unfold State.endFenced
  repeat' first
    | with_reducible intro _ | with_reducible assumption | with_reducible apply State.abortJob_keeps (hw.sub rfl) | with_reducible apply Keep.foldl
    | split

theorem State.setPwr_keeps {P : State → Prop} (hw : Frees P 0x1000000000) (s : State) (p : PowerSt) (hs : P s) : P (State.setPwr s p) := by
  unfold State.setPwr
  repeat' first
    | (with_reducible apply hw.pwr rfl; with_reducible assumption)

theorem State.powerOff_keeps {P : State → Prop} (hw : Frees P 0x41000000000) (s : State) (hs : P s) : P (State.powerOff s) := by
  unfold State.powerOff
  have x := ()
  repeat' first
    | (extract_lets +onlyGivenNames x; (fail_if_success clear x); first | (refine Keep.cut (P := P) (v := x) ?_ ?_; unfold x; clear x; rotate_left; intro hx; clear_value x) | clear_value x)
    | with_reducible assumption | with_reducible apply State.setPwr_keeps (hw.sub rfl) | with_reducible apply hw.cold rfl

theorem State.holdDies_keeps {P : State → Prop} (hw : Frees P 0x2010000000) (s : State) (hs : P s) : P (State.holdDies s) := by
  unfold State.holdDies
  repeat' first
    | with_reducible intro _ | with_reducible assumption | with_reducible apply State.dropXlateUnit_keeps (hw.sub rfl)
    | with_reducible apply State.updDie_keeps (hw.sub rfl) | with_reducible apply Keep.foldl

theorem State.finishL3_keeps {P : State → Prop} (hw : Frees P 0x3510000004) (s : State) (hs : P s) : P (State.finishL3 s) := by
  unfold State.finishL3
  have x := ()
  repeat' first
    | with_reducible intro _
    | (extract_lets +onlyGivenNames x; (fail_if_success clear x); first | (refine Keep.cut (P := P) (v := x) ?_ ?_; unfold x; clear x; rotate_left; intro hx; clear_value x) | clear_value x)
    | with_reducible assumption | with_reducible apply State.holdDies_keeps (hw.sub rfl) | with_reducible apply State.setPwr_keeps (hw.sub rfl)
    | with_reducible apply State.fencedEvent_keeps (hw.sub rfl) | with_reducible apply Keep.foldl

theorem State.enterL1_keeps {P : State → Prop} (hw : Frees P 0x408000010) (s : State) (hs : P s) : P (State.enterL1 s) := by
  unfold State.enterL1
  have x := ()
  repeat' first
    | with_reducible intro _
    | (extract_lets +onlyGivenNames x; (fail_if_success clear x); first | (refine Keep.cut (P := P) (v := x) ?_ ?_; unfold x; clear x; rotate_left; intro hx; clear_value x) | clear_value x)
    | with_reducible assumption | with_reducible apply State.updCxl_keeps (hw.sub rfl) | with_reducible apply State.tracePut_keeps (hw.sub rfl)
    | with_reducible apply State.setTrace_keeps (hw.sub rfl) | with_reducible apply State.setObs_keeps (hw.sub rfl) | with_reducible apply Keep.foldl
    | split

theorem State.dropDumps_keeps {P : State → Prop} (hw : Frees P 0x500000000) (s : State) (hs : P s) : P (State.dropDumps s) := by
  unfold State.dropDumps
  have x := ()
  repeat' first
    | with_reducible intro _
    | (extract_lets +onlyGivenNames x; (fail_if_success clear x); first | (refine Keep.cut (P := P) (v := x) ?_ ?_; unfold x; clear x; rotate_left; intro hx; clear_value x) | clear_value x)
    | with_reducible assumption | with_reducible apply State.setObs_keeps (hw.sub rfl) | with_reducible apply State.updCtx_keeps (hw.sub rfl)
    | with_reducible apply Keep.foldl

theorem State.enterL3_keeps {P : State → Prop} (hw : Frees P 0x1500200000) (s : State) (hs : P s) : P (State.enterL3 s) := by
  unfold State.enterL3
  have x := ()
  repeat' first
    | (extract_lets +onlyGivenNames x; (fail_if_success clear x); first | (refine Keep.cut (P := P) (v := x) ?_ ?_; unfold x; clear x; rotate_left; intro hx; clear_value x) | clear_value x)
    | with_reducible assumption | with_reducible apply State.dropDumps_keeps (hw.sub rfl) | with_reducible apply State.setPwr_keeps (hw.sub rfl)
    | with_reducible apply State.askPreemptAll_keeps (hw.sub rfl)

theorem State.linkDownEvent_keeps {P : State → Prop} (hw : Frees P 0x500000004) (s : State) (kind : Nat) (port : Nat) (cause : Nat) (affects : Job → Bool) (hs : P s) : P (State.linkDownEvent s kind port cause affects) := by
  unfold State.linkDownEvent
  repeat' first
    | with_reducible assumption | with_reducible apply State.moduleEvent_keeps (hw.sub rfl)

theorem State.deliverCxl_keeps {P : State → Prop} (hw : Frees P 0x5807dfff4) (s : State) (c : Nat) (r : CxlReq) (poison : Bool) (hs : P s) : P (State.deliverCxl s c r poison) := by
  unfold State.deliverCxl
  have x := ()
  repeat' first
    | with_reducible intro _
    | (extract_lets +onlyGivenNames x; (fail_if_success clear x); first | (refine Keep.cut (P := P) (v := x) ?_ ?_; unfold x; clear x; rotate_left; intro hx; clear_value x) | clear_value x)
    | with_reducible assumption | with_reducible apply State.jobFault_keeps (hw.sub rfl) | with_reducible apply State.withJob_keeps (hw.sub rfl)
    | with_reducible apply State.event_keeps (hw.sub rfl) | with_reducible apply State.cntAdd_keeps (hw.sub rfl) | split

theorem State.tickFresh_keeps {P : State → Prop} (hw : Frees P 0x20000000000) (s : State) (n : Nat) (hs : P s) : P (State.tickFresh s n) := by
  unfold State.tickFresh
  repeat' first
    | (with_reducible apply hw.fresh rfl; with_reducible assumption)

theorem State.putBytes_keeps {P : State → Prop} (hw : Frees P 0xa) (s : State) (a : Nat) (x2 : List Byte) (hs : P s) : P (State.putBytes s a x2) := by
  induction x2 generalizing s a with
  | nil =>
    unfold State.putBytes
    repeat' first
      | with_reducible assumption
  | cons e t ih =>
    unfold State.putBytes
    repeat' first
      | with_reducible assumption | with_reducible apply ih | with_reducible apply State.putByte_keeps (hw.sub rfl)

theorem State.loseWrite_keeps {P : State → Prop} (hw : Frees P 0x2000000000a) (s : State) (r : CxlReq) (hs : P s) : P (State.loseWrite s r) := by
  unfold State.loseWrite
  repeat' first
    | with_reducible assumption | with_reducible apply State.putBytes_keeps (hw.sub rfl) | with_reducible apply State.tickFresh_keeps (hw.sub rfl)

theorem State.cxlDown_keeps {P : State → Prop} (hw : Frees P 0x205887dfffe) (s : State) (c : Nat) (cause : Nat) (hs : P s) : P (State.cxlDown s c cause) := by
  unfold State.cxlDown
  have x := ()
  repeat' first
    | with_reducible intro _
    | (extract_lets +onlyGivenNames x; (fail_if_success clear x); first | (refine Keep.cut (P := P) (v := x) ?_ ?_; unfold x; clear x; rotate_left; intro hx; clear_value x) | clear_value x)
    | with_reducible assumption | with_reducible apply State.loseWrite_keeps (hw.sub rfl) | with_reducible apply State.deliverCxl_keeps (hw.sub rfl)
    | with_reducible apply State.linkDownEvent_keeps (hw.sub rfl) | with_reducible apply State.setCxl_keeps (hw.sub rfl)
    | with_reducible apply Keep.foldl | split

theorem State.enterL4_keeps {P : State → Prop} (hw : Frees P 0x2258a7dfffe) (s : State) (hs : P s) : P (State.enterL4 s) := by
  unfold State.enterL4
  have x := ()
  repeat' first
    | with_reducible intro _
    | (extract_lets +onlyGivenNames x; (fail_if_success clear x); refine Keep.cut (P := P) (v := x) ?_ ?_; unfold x; clear x; rotate_left; intro hx; clear_value x)
    | with_reducible assumption | with_reducible apply State.cxlDown_keeps (hw.sub rfl) | with_reducible apply State.eachDev_keeps (hw.sub rfl)
    | with_reducible apply State.updDie_keeps (hw.sub rfl) | with_reducible apply Keep.foldl

theorem State.descend_keeps {P : State → Prop} (hw : Frees P 0x2359a7dfffe) (s : State) (x1 : Nat) (hs : P s) : P (State.descend s x1) := by
  induction x1 generalizing s with
  | zero =>
    unfold State.descend
    have x := ()
    repeat' first
      | with_reducible assumption
  | succ n ih =>
    unfold State.descend
    have x := ()
    repeat' first
      | (extract_lets +onlyGivenNames x; (fail_if_success clear x); first | (refine Keep.cut (P := P) (v := x) ?_ ?_; unfold x; clear x; rotate_left; intro hx; clear_value x) | clear_value x)
      | with_reducible assumption | with_reducible apply ih | with_reducible apply State.enterL4_keeps (hw.sub rfl)
      | with_reducible apply State.enterL3_keeps (hw.sub rfl) | with_reducible apply State.enterL1_keeps (hw.sub rfl)
      | with_reducible apply State.finishL3_keeps (hw.sub rfl) | with_reducible apply State.setPwr_keeps (hw.sub rfl) | split

theorem State.shed_keeps {P : State → Prop} (hw : Frees P 0x6359a7dfffe) (s : State) (hs : P s) : P (State.shed s) := by
  unfold State.shed
  repeat' first
    | with_reducible assumption | with_reducible apply State.descend_keeps (hw.sub rfl) | with_reducible apply State.powerOff_keeps (hw.sub rfl)
    | split

theorem State.stallCycles_keeps {P : State → Prop} (hw : Frees P 0x20000000010) (s : State) (n : Nat) (x : Nat) (x3 : List Nat) (hs : P s) : P (State.stallCycles s n x x3) := by
  induction x3 generalizing s n x with
  | nil =>
    unfold State.stallCycles
    repeat' first
      | with_reducible assumption
  | cons e t ih =>
    unfold State.stallCycles
    repeat' first
      | with_reducible assumption | with_reducible apply ih | with_reducible apply State.tickFresh_keeps (hw.sub rfl)
      | with_reducible apply State.updUnit_keeps (hw.sub rfl)

theorem State.waitCycles_keeps {P : State → Prop} (hw : Frees P 0x20000000010) (s : State) (n : Nat) (x : Nat) (hs : P s) : P (State.waitCycles s n x) := by
  unfold State.waitCycles
  have x := ()
  repeat' first
    | (extract_lets +onlyGivenNames x; (fail_if_success clear x); first | (refine Keep.cut (P := P) (v := x) ?_ ?_; unfold x; clear x; rotate_left; intro hx; clear_value x) | clear_value x)
    | with_reducible assumption | with_reducible apply State.stallCycles_keeps (hw.sub rfl) | with_reducible apply State.setUnit_keeps (hw.sub rfl)
    | split

theorem State.cycles_keeps {P : State → Prop} (hw : Frees P 0x20000200011) (s : State) (n : Nat) (hs : P s) : P (State.cycles s n) := by
  unfold State.cycles
  have x := ()
  repeat' first
    | with_reducible intro _
    | (extract_lets +onlyGivenNames x; (fail_if_success clear x); first | (refine Keep.cut (P := P) (v := x) ?_ ?_; unfold x; clear x; rotate_left; intro hx; clear_value x) | clear_value x)
    | with_reducible assumption | with_reducible apply State.waitCycles_keeps (hw.sub rfl)
    | (with_reducible apply hw.time rfl; with_reducible apply hw.jobs rfl; with_reducible assumption) | with_reducible apply Keep.foldl

theorem State.stoppedPeriod_keeps {P : State → Prop} (hw : Frees P 0x200000) (s : State) (j : Job) (hs : P s) : P (State.stoppedPeriod s j) := by
  unfold State.stoppedPeriod
  have x := ()
  repeat' first
    | (extract_lets +onlyGivenNames x; (fail_if_success clear x); clear_value x) | with_reducible assumption
    | with_reducible apply State.updJob_keeps (hw.sub rfl) | split

theorem State.stoppedPeriods_keeps {P : State → Prop} (hw : Frees P 0x200000) (s : State) (hs : P s) : P (State.stoppedPeriods s) := by
  unfold State.stoppedPeriods
  repeat' first
    | with_reducible intro _ | with_reducible assumption | with_reducible apply State.stoppedPeriod_keeps (hw.sub rfl)
    | with_reducible apply Keep.foldl

theorem State.decideClaim_keeps {P : State → Prop} (hw : Frees P 0x500000004) (s : State) (c : ClaimReq) (hs : P s) : P (State.decideClaim s c) := by
  unfold State.decideClaim
  have x := ()
  repeat' first
    | (extract_lets +onlyGivenNames x; (fail_if_success clear x); clear_value x) | with_reducible assumption
    | with_reducible apply State.resourceDenied_keeps (hw.sub rfl) | with_reducible apply State.setObs_keeps (hw.sub rfl) | split

theorem State.decideClaims_keeps {P : State → Prop} (hw : Frees P 0x500000004) (s : State) (hs : P s) : P (State.decideClaims s) := by
  unfold State.decideClaims
  have x := ()
  repeat' first
    | with_reducible intro _ | (extract_lets +onlyGivenNames x; (fail_if_success clear x); clear_value x) | with_reducible assumption
    | with_reducible apply State.decideClaim_keeps (hw.sub rfl) | with_reducible apply State.setObs_keeps (hw.sub rfl)
    | with_reducible apply Keep.foldl

theorem State.hangBeat_keeps {P : State → Prop} (hw : Frees P 0x200000) (s : State) (j : Job) (hs : P s) : P (State.hangBeat s j) := by
  unfold State.hangBeat
  have x := ()
  repeat' first
    | (extract_lets +onlyGivenNames x; (fail_if_success clear x); clear_value x) | with_reducible assumption
    | with_reducible apply State.updJob_keeps (hw.sub rfl)

theorem State.hangBeats_keeps {P : State → Prop} (hw : Frees P 0x200000) (s : State) (hs : P s) : P (State.hangBeats s) := by
  unfold State.hangBeats
  repeat' first
    | with_reducible intro _ | with_reducible assumption | with_reducible apply State.hangBeat_keeps (hw.sub rfl) | with_reducible apply Keep.foldl

theorem State.fetchBoundary_keeps {P : State → Prop} (hw : Frees P 0x100000000) (s : State) (hs : P s) : P (State.fetchBoundary s) := by
  unfold State.fetchBoundary
  repeat' first
    | with_reducible intro _ | with_reducible assumption | with_reducible apply State.updCtx_keeps (hw.sub rfl) | with_reducible apply Keep.foldl

theorem State.snapFabric_keeps {P : State → Prop} (hw : Frees P 0x800000000) (s : State) (hs : P s) : P (State.snapFabric s) := by
  unfold State.snapFabric
  have x := ()
  repeat' first
    | (extract_lets +onlyGivenNames x; (fail_if_success clear x); clear_value x) | (with_reducible apply hw.fabric rfl; with_reducible assumption)

theorem State.clearFabric_keeps {P : State → Prop} (hw : Frees P 0x20800000000) (s : State) (hs : P s) : P (State.clearFabric s) := by
  unfold State.clearFabric
  have x := ()
  repeat' first
    | (extract_lets +onlyGivenNames x; (fail_if_success clear x); clear_value x)
    | (with_reducible apply hw.fabric rfl; with_reducible apply hw.fresh rfl; with_reducible assumption)

theorem State.countBoundary_keeps {P : State → Prop} (hw : Frees P 0x20c00000000) (s : State) (hs : P s) : P (State.countBoundary s) := by
  unfold State.countBoundary
  have x := ()
  repeat' first
    | (extract_lets +onlyGivenNames x; (fail_if_success clear x); first | (refine Keep.cut (P := P) (v := x) ?_ ?_; unfold x; clear x; rotate_left; intro hx; clear_value x) | clear_value x)
    | with_reducible assumption | with_reducible apply State.clearFabric_keeps (hw.sub rfl) | with_reducible apply State.snapFabric_keeps (hw.sub rfl)
    | with_reducible apply State.setObs_keeps (hw.sub rfl) | split

theorem State.endPeers_keeps {P : State → Prop} (hw : Frees P 0x5807dfff4) (s : State) (l : List Job) (hs : P s) : P (State.endPeers s l) := by
  unfold State.endPeers
  repeat' first
    | with_reducible assumption | with_reducible apply State.abortAll_keeps (hw.sub rfl)

theorem State.takeDieCmd_keeps {P : State → Prop} (hw : Frees P 0x279afffffe) (s : State) (d : Nat) (cmd : Nat) (hs : P s) : P (State.takeDieCmd s d cmd) := by
  unfold State.takeDieCmd
  have x := ()
  repeat' first
    | with_reducible intro _
    | (extract_lets +onlyGivenNames x; (fail_if_success clear x); first | (refine Keep.cutFun (P := P) (v := x) ?_ ?_; unfold x; clear x; rotate_left; intro hx; clear_value x) | clear_value x)
    | with_reducible assumption | with_reducible apply State.endPeers_keeps (hw.sub rfl) | with_reducible apply State.rejoinDie_keeps (hw.sub rfl)
    | with_reducible apply State.resetDie_keeps (hw.sub rfl) | with_reducible apply State.setDie_keeps (hw.sub rfl) | with_reducible apply ‹∀ _, P _›
    | split

theorem State.dieCommands_keeps {P : State → Prop} (hw : Frees P 0x279afffffe) (s : State) (hs : P s) : P (State.dieCommands s) := by
  unfold State.dieCommands
  have x := ()
  repeat' first
    | with_reducible intro _ | (extract_lets +onlyGivenNames x; (fail_if_success clear x); clear_value x) | with_reducible assumption
    | with_reducible apply State.takeDieCmd_keeps (hw.sub rfl) | with_reducible apply State.updDie_keeps (hw.sub rfl)
    | with_reducible apply Keep.foldl

theorem State.launchWords_keeps {P : State → Prop} (hw : Frees P 0x800000) (s : State) (hs : P s) : P (State.launchWords s) := by
  unfold State.launchWords
  repeat' first
    | with_reducible intro _ | with_reducible assumption | with_reducible apply State.updPort_keeps (hw.sub rfl) | with_reducible apply Keep.foldl
    | split

theorem State.boundary_keeps {P : State → Prop} (hw : Frees P 0x6bf9effffff) (s : State) (e : BeatEnv) (hs : P s) : P (State.boundary s e) := by
  unfold State.boundary
  have x := ()
  repeat' first
    | with_reducible intro _
    | (extract_lets +onlyGivenNames x; (fail_if_success clear x); refine Keep.cut (P := P) (v := x) ?_ ?_; unfold x; clear x; rotate_left; intro hx; clear_value x)
    | with_reducible assumption | with_reducible apply State.launchWords_keeps (hw.sub rfl)
    | with_reducible apply State.dieCommands_keeps (hw.sub rfl) | with_reducible apply State.countBoundary_keeps (hw.sub rfl)
    | with_reducible apply State.fetchBoundary_keeps (hw.sub rfl) | with_reducible apply State.hangBeats_keeps (hw.sub rfl)
    | with_reducible apply State.decideClaims_keeps (hw.sub rfl) | with_reducible apply hw.warm rfl
    | with_reducible apply State.stoppedPeriods_keeps (hw.sub rfl) | with_reducible apply State.cycles_keeps (hw.sub rfl)
    | with_reducible apply State.shed_keeps (hw.sub rfl) | with_reducible apply State.setPwr_keeps (hw.sub rfl)
    | with_reducible apply State.endFenced_keeps (hw.sub rfl) | with_reducible apply State.pinBoundary_keeps (hw.sub rfl)
    | with_reducible apply State.showRecs_keeps (hw.sub rfl) | with_reducible apply State.delayBoundary_keeps (hw.sub rfl)
    | with_reducible apply State.closeReconfs_keeps (hw.sub rfl) | with_reducible apply State.hostBoundary_keeps (hw.sub rfl)
    | with_reducible apply State.writeStatusFrom_keeps (hw.sub rfl) | with_reducible apply State.timeBoundary_keeps (hw.sub rfl)
    | with_reducible apply State.boundaryHandover_keeps (hw.sub rfl) | with_reducible apply State.feed_keeps (hw.sub rfl)
    | with_reducible apply State.accessed_keeps (hw.sub rfl) | with_reducible apply Keep.foldl | split

theorem State.ran_keeps {P : State → Prop} (hw : Frees P 0x0) (s : State) (g : State → State) (hs : P s) (hg : ∀ (y0 : State), P y0 → P (g y0)) : OutAll P (State.ran s g) := by
  unfold State.ran
  repeat' first
    | with_reducible assumption | with_reducible apply hg | with_reducible apply OutAll.next | split

theorem State.byBar_keeps {P : State → Prop} (hw : Frees P 0x0) (s : State) (die : Nat) (g : State → State) (hs : P s) (hg : ∀ (y0 : State), P y0 → P (g y0)) : OutAll P (State.byBar s die g) := by
  unfold State.byBar
  repeat' first
    | with_reducible intro _ | with_reducible assumption | with_reducible apply State.ran_keeps (hw.sub rfl) | with_reducible apply hg | split

theorem State.exchange_keeps {P : State → Prop} (hw : Frees P 0x800000000) (s : State) (src : Nat) (dst : Nat) (hs : P s) : P (State.exchange s src dst) := by
  unfold State.exchange
  repeat' first
    | with_reducible assumption | with_reducible apply State.carry_keeps (hw.sub rfl)

theorem State.byBarOf_keeps {P : State → Prop} (hw : Frees P 0x800000000) (s : State) (f : Func) (die : Nat) (g : State → State) (hs : P s) (hg : ∀ (y0 : State), P y0 → P (g y0)) : OutAll P (State.byBarOf s f die g) := by
  unfold State.byBarOf
  repeat' first
    | with_reducible intro _ | with_reducible assumption | with_reducible apply State.exchange_keeps (hw.sub rfl)
    | with_reducible apply State.byBar_keeps (hw.sub rfl) | with_reducible apply hg

theorem State.byPwr_keeps {P : State → Prop} (hw : Frees P 0x0) (s : State) (g : State → State) (hs : P s) (hg : ∀ (y0 : State), P y0 → P (g y0)) : OutAll P (State.byPwr s g) := by
  unfold State.byPwr
  repeat' first
    | with_reducible intro _ | with_reducible assumption | with_reducible apply State.ran_keeps (hw.sub rfl) | with_reducible apply hg | split

theorem State.cache_keeps {P : State → Prop} (hw : Frees P 0x10000000) (s : State) (die : Nat) (asid : Nat) (l : Leaf) (hs : P s) : P (State.cache s die asid l) := by
  unfold State.cache
  have x := ()
  repeat' first
    | (extract_lets +onlyGivenNames x; (fail_if_success clear x); clear_value x) | with_reducible assumption
    | (with_reducible apply hw.tlb rfl; with_reducible assumption) | split

theorem State.spend_keeps {P : State → Prop} (hw : Frees P 0x10) (s : State) (x : Nat) (port : Nat) (hs : P s) : P (State.spend s x port) := by
  unfold State.spend
  repeat' first
    | with_reducible assumption | with_reducible apply State.updUnit_keeps (hw.sub rfl)

theorem State.setChan_keeps {P : State → Prop} (hw : Frees P 0x40) (s : State) (c : Nat) (v : List Flying) (hs : P s) : P (State.setChan s c v) := by
  unfold State.setChan
  repeat' first
    | (with_reducible apply hw.chans rfl; with_reducible assumption)

theorem State.pushToken_keeps {P : State → Prop} (hw : Frees P 0x60) (s : State) (x : Nat) (port : Nat) (tag : BitVec 12) (kind : Nat) (ref : Bool) (len : Nat) (pay : BitVec 448) (hs : P s) : P (State.pushToken s x port tag kind ref len pay) := by
  unfold State.pushToken
  have x := ()
  repeat' first
    | (extract_lets +onlyGivenNames x; (fail_if_success clear x); first | (refine Keep.cut (P := P) (v := x) ?_ ?_; unfold x; clear x; rotate_left; intro hx; clear_value x) | clear_value x)
    | with_reducible assumption | with_reducible apply State.setChan_keeps (hw.sub rfl) | with_reducible apply State.setQueue_keeps (hw.sub rfl)
    | split

theorem State.pushPorts_keeps {P : State → Prop} (hw : Frees P 0x20000000070) (s : State) (x : Nat) (x2 : List PortBind) (hs : P s) : P (State.pushPorts s x x2) := by
  induction x2 generalizing s x with
  | nil =>
    unfold State.pushPorts
    repeat' first
      | with_reducible assumption
  | cons e t ih =>
    unfold State.pushPorts
    repeat' first
      | with_reducible assumption | with_reducible apply ih | with_reducible apply State.pushToken_keeps (hw.sub rfl)
      | with_reducible apply State.spend_keeps (hw.sub rfl) | with_reducible apply State.tickFresh_keeps (hw.sub rfl)

theorem State.popQueue_keeps {P : State → Prop} (hw : Frees P 0x20) (s : State) (k : Nat) (hs : P s) : P (State.popQueue s k) := by
  unfold State.popQueue
  have x := ()
  repeat' first
    | (extract_lets +onlyGivenNames x; (fail_if_success clear x); clear_value x) | with_reducible assumption
    | with_reducible apply State.setQueue_keeps (hw.sub rfl)

theorem State.popPorts_keeps {P : State → Prop} (hw : Frees P 0x30) (s : State) (x : Nat) (x2 : List PortBind) (hs : P s) : P (State.popPorts s x x2).1 := by
  induction x2 generalizing s x with
  | nil =>
    unfold State.popPorts
    have x := ()
    repeat' first
      | with_reducible assumption
  | cons e t ih =>
    unfold State.popPorts
    have x := ()
    repeat' first
      | (extract_lets +onlyGivenNames x; (fail_if_success clear x); first | (refine Keep.cut (P := P) (v := x) ?_ ?_; unfold x; clear x; rotate_left; intro hx; clear_value x) | (refine Keep.cutFst (P := P) (v := x) ?_ ?_; unfold x; clear x; rotate_left; intro hx; clear_value x))
      | with_reducible assumption | with_reducible apply ih | with_reducible apply State.popQueue_keeps (hw.sub rfl)
      | with_reducible apply State.updUnit_keeps (hw.sub rfl) | split

theorem State.claimEnd_keeps {P : State → Prop} (hw : Frees P 0x20000000070) (s : State) (x : Nat) (c : Cmd) (hs : P s) : P (State.claimEnd s x c) := by
  unfold State.claimEnd
  have x := ()
  repeat' first
    | (extract_lets +onlyGivenNames x; (fail_if_success clear x); clear_value x) | with_reducible assumption
    | with_reducible apply State.popPorts_keeps (hw.sub rfl) | with_reducible apply State.pushPorts_keeps (hw.sub rfl)
    | with_reducible apply State.updUnit_keeps (hw.sub rfl)

theorem State.dropLocked_keeps {P : State → Prop} (hw : Frees P 0x20000000) (s : State) (ctx : Nat) (i : Nat) (hs : P s) : P (State.dropLocked s ctx i) := by
  unfold State.dropLocked
  repeat' first
    | (with_reducible apply hw.locked rfl; with_reducible assumption)

theorem State.clearPin_keeps {P : State → Prop} (hw : Frees P 0x120000000) (s : State) (ctx : Nat) (i : Nat) (hs : P s) : P (State.clearPin s ctx i) := by
  unfold State.clearPin
  have x := ()
  repeat' first
    | (extract_lets +onlyGivenNames x; (fail_if_success clear x); clear_value x) | with_reducible assumption
    | with_reducible apply State.dropLocked_keeps (hw.sub rfl) | with_reducible apply State.updCtx_keeps (hw.sub rfl) | split

theorem State.storeOpt_keeps {P : State → Prop} (hw : Frees P 0xc0e00000e) (s : State) (w : Who) (v : Option View) (l : MStores) (hs : P s) : AccAll P id (State.storeOpt s w v l) := by
  unfold State.storeOpt
  repeat' first
    | with_reducible assumption | with_reducible apply State.storeView_keeps (hw.sub rfl) | with_reducible apply AccAll.ok | split
    | dsimp -zeta only [id]

theorem State.writeStats_keeps {P : State → Prop} (hw : Frees P 0xc0e00000e) (s : State) (w : Who) (k : Lay) (o : Lay) (u : UpK) (p : P2) (hs : P s) : AccAll P Prod.fst (State.writeStats s w k o u p) := by
  unfold State.writeStats
  have x := ()
  repeat' first
    | with_reducible intro _ | (extract_lets +onlyGivenNames x; (fail_if_success clear x); clear_value x) | with_reducible assumption
    | with_reducible apply State.storeOpt_keeps (hw.sub rfl) | with_reducible apply AccAll.map | with_reducible apply AccAll.ok
    | with_reducible apply AccAll.bind | with_reducible refine AccAll.getId ?_ ‹_ = Acc.ok _› | split

theorem State.putNth_keeps {P : State → Prop} (hw : Frees P 0xc0e00000e) (s : State) (w : Who) (v : Option View) (n : Nat) (raw : Nat) (hs : P s) : AccAll P Prod.fst (State.putNth s w v n raw) := by
  unfold State.putNth
  repeat' first
    | with_reducible intro _ | with_reducible assumption | with_reducible apply State.storeView_keeps (hw.sub rfl) | with_reducible apply AccAll.map
    | with_reducible apply AccAll.ok | with_reducible refine AccAll.getId ?_ ‹_ = Acc.ok _› | split

theorem State.elemUpdate_keeps {P : State → Prop} (hw : Frees P 0xc0e00000e) (s : State) (wh : Who) (j : Job) (k : Lay) (o : Lay) (row : Nat) (c : Nat × Nat) (hs : P s) : AccAll P ElemUp.s (State.elemUpdate s wh j k o row c) := by
  unfold State.elemUpdate
  have x := ()
  repeat' first
    | with_reducible intro _ | (extract_lets +onlyGivenNames x; (fail_if_success clear x); clear_value x) | with_reducible assumption
    | with_reducible apply State.putNth_keeps (hw.sub rfl) | with_reducible apply AccAll.map | with_reducible apply AccAll.bind
    | with_reducible refine AccAll.getFst ?_ ‹_ = Acc.ok _›

theorem State.countElem_keeps {P : State → Prop} (hw : Frees P 0x10) (s : State) (x : Nat) (lane : Nat) (e : ElemUp) (hs : P s) : P (State.countElem s x lane e) := by
  unfold State.countElem
  repeat' first
    | with_reducible assumption | with_reducible apply State.orLanes_keeps (hw.sub rfl) | with_reducible apply State.updUnit_keeps (hw.sub rfl)

theorem State.recordTile_keeps {P : State → Prop} (hw : Frees P 0x400000000) (s : State) (jid : U64) (unit : Nat) (tag : U32) (tensor : U32) (tile : Nat) (b : List Byte) (hs : P s) : P (State.recordTile s jid unit tag tensor tile b) := by
  unfold State.recordTile
  repeat' first
    | with_reducible assumption | with_reducible apply State.record_keeps (hw.sub rfl)

theorem State.rowDone_keeps {P : State → Prop} (hw : Frees P 0x400000010) (s : State) (j : Job) (k : Lay) (p : P2) (q : UpePos) (row : Nat) (hs : P s) : P (State.rowDone s j k p q row).1 := by
  unfold State.rowDone
  have x := ()
  repeat' first
    | (extract_lets +onlyGivenNames x; (fail_if_success clear x); clear_value x) | with_reducible assumption
    | with_reducible apply State.recordTile_keeps (hw.sub rfl) | with_reducible apply State.updUnit_keeps (hw.sub rfl)

theorem State.upeStep_keeps {P : State → Prop} (hw : Frees P 0xc0e00001e) (s : State) (x : Nat) (j : Job) (p : P2) (l : Nat) (hs : P s) : 
    ∀ a, State.upeStep s x j p l = some a → AccAll P Prod.fst a := by
  intro a h
  unfold State.upeStep at h
  split at h
  · obtain ⟨row, -, rfl⟩ := Option.map_eq_some_iff.mp h
    refine AccAll.bind fun cs _ => ?_
    extract_lets moved
    refine AccAll.map fun r hr => ?_
    have hp : P r.1 := by
      simp only [moved] at hr
      split at hr
      · cases hr; exact hs
      · exact (AccAll.map (g := Prod.fst) fun e' he => State.countElem_keeps (hw.sub rfl) _ _ _ _ (State.elemUpdate_keeps (hw.sub rfl) s _ _ _ _ _ _ hs e' he)) r hr
    extract_lets q1
    split
    · exact hp
    · exact State.rowDone_keeps (hw.sub rfl) _ _ _ _ _ _ hp
  · cases h

theorem State.store_keeps {P : State → Prop} (hw : Frees P 0xc0e00000e) (s : State) (w : Who) (dva : Nat) (b : List Byte) (hs : P s) : AccAll P id (State.store s w dva b) := by
  unfold State.store
  repeat' first
    | with_reducible assumption | with_reducible apply State.storeAll_keeps (hw.sub rfl)

theorem State.storeLabel_keeps {P : State → Prop} (hw : Frees P 0xc0e00000e) (s : State) (w : Who) (j : Job) (bankB : Bool) (b : List Byte) (hs : P s) : AccAll P id (State.storeLabel s w j bankB b) := by
  unfold State.storeLabel
  repeat' first
    | with_reducible assumption | with_reducible apply State.store_keeps (hw.sub rfl)

theorem State.layerDone_keeps {P : State → Prop} (hw : Frees P 0xd8e7dfffe) (s : State) (x : Nat) (jid : U64) (l : Nat) (p : P2) (fl : U16) (hs : P s) : P (State.layerDone s x jid l p fl) := by
  unfold State.layerDone
  have x := ()
  repeat' first
    | with_reducible intro _
    | (extract_lets +onlyGivenNames x; (fail_if_success clear x); refine Keep.cut (P := P) (v := x) ?_ ?_; unfold x; clear x; rotate_left; intro hx; clear_value x)
    | with_reducible assumption | with_reducible apply State.storeLabel_keeps (hw.sub rfl) | with_reducible apply State.on_keeps (hw.sub rfl)
    | with_reducible apply State.updJob_keeps (hw.sub rfl) | with_reducible apply State.withJob_keeps (hw.sub rfl)
    | with_reducible apply State.updUnit_keeps (hw.sub rfl) | with_reducible refine AccAll.getId ?_ ‹_ = Acc.ok _› | split

theorem State.closeLayer_keeps {P : State → Prop} (hw : Frees P 0xd8e7dfffe) (s : State) (jid : U64) (l : Nat) (hs : P s) : P (State.closeLayer s jid l) := by
  unfold State.closeLayer
  have x := ()
  repeat' first
    | with_reducible intro _ | (extract_lets +onlyGivenNames x; (fail_if_success clear x); clear_value x) | with_reducible assumption
    | with_reducible apply State.layerDone_keeps (hw.sub rfl) | with_reducible apply State.writeStats_keeps (hw.sub rfl)
    | with_reducible apply State.on_keeps (hw.sub rfl) | with_reducible apply State.withJob_keeps (hw.sub rfl)
    | with_reducible refine AccAll.getFst ?_ ‹_ = Acc.ok _› | split

theorem State.closeWindow_keeps {P : State → Prop} (hw : Frees P 0x400200000) (s : State) (j : Job) (p : Nat) (hs : P s) : P (State.closeWindow s j p) := by
  unfold State.closeWindow
  have x := ()
  repeat' first
    | (extract_lets +onlyGivenNames x; (fail_if_success clear x); clear_value x) | with_reducible assumption
    | with_reducible apply State.updJob_keeps (hw.sub rfl) | with_reducible apply State.record_keeps (hw.sub rfl)

theorem State.compareStep_keeps {P : State → Prop} (hw : Frees P 0x400000000) (s : State) (j : Job) (hs : P s) : P (State.compareStep s j) := by
  unfold State.compareStep
  have x := ()
  repeat' first
    | (extract_lets +onlyGivenNames x; (fail_if_success clear x); clear_value x) | with_reducible assumption
    | with_reducible apply State.setObs_keeps (hw.sub rfl)

theorem State.completeJob_keeps {P : State → Prop} (hw : Frees P 0x5807dfff4) (s : State) (jid : U64) (hs : P s) : P (State.completeJob s jid) := by
  unfold State.completeJob
  have x := ()
  repeat' first
    | with_reducible intro _ | (extract_lets +onlyGivenNames x; (fail_if_success clear x); clear_value x) | with_reducible assumption
    | with_reducible apply State.withJob_keeps (hw.sub rfl) | with_reducible apply State.finish_keeps (hw.sub rfl) | split

theorem State.storeMasked_keeps {P : State → Prop} (hw : Frees P 0xc0e00000e) (s : State) (w : Who) (l : MStores) (hs : P s) : AccAll P id (State.storeMasked s w l) := by
  unfold State.storeMasked
  repeat' first
    | with_reducible intro _ | with_reducible assumption | with_reducible apply State.storePlaced_keeps (hw.sub rfl)
    | with_reducible apply AccAll.bind

theorem State.syncDone_keeps {P : State → Prop} (hw : Frees P 0x400000010) (s : State) (x : Nat) (sid : U16) (op : Nat) (ret : U64) (hs : P s) : P (State.syncDone s x sid op ret) := by
  unfold State.syncDone
  have x := ()
  repeat' first
    | (extract_lets +onlyGivenNames x; (fail_if_success clear x); first | (refine Keep.cut (P := P) (v := x) ?_ ?_; unfold x; clear x; rotate_left; intro hx; clear_value x) | clear_value x)
    | with_reducible assumption | with_reducible apply State.traceEv_keeps (hw.sub rfl) | with_reducible apply State.updUnit_keeps (hw.sub rfl)
    | split

theorem State.syncOp_keeps {P : State → Prop} (hw : Frees P 0xd807dfff4) (s : State) (x : Nat) (sid : U16) (f : SyncObj → State) (hs : P s) (hf : ∀ (y0 : SyncObj), P (f y0)) : P (State.syncOp s x sid f) := by
  unfold State.syncOp
  have x := ()
  repeat' first
    | with_reducible intro _ | (extract_lets +onlyGivenNames x; (fail_if_success clear x); clear_value x) | with_reducible assumption
    | with_reducible apply State.exchange_keeps (hw.sub rfl) | with_reducible apply State.withUnitJob_keeps (hw.sub rfl)
    | with_reducible apply State.jobFault_keeps (hw.sub rfl) | with_reducible apply State.unavailable_keeps (hw.sub rfl) | with_reducible apply hf
    | split

theorem State.doSignal_keeps {P : State → Prop} (hw : Frees P 0xd807dfff4) (s : State) (x : Nat) (sid : U16) (a : U64) (hs : P s) : P (State.doSignal s x sid a) := by
  unfold State.doSignal
  repeat' first
    | with_reducible intro _ | with_reducible assumption | with_reducible apply State.syncOp_keeps (hw.sub rfl)
    | with_reducible apply State.syncDone_keeps (hw.sub rfl) | with_reducible apply State.putValue_keeps (hw.sub rfl)

theorem State.pushOwed_keeps {P : State → Prop} (hw : Frees P 0x20000000070) (s : State) (x : Nat) (x2 : List Nat) (hs : P s) : P (State.pushOwed s x x2) := by
  induction x2 generalizing s x with
  | nil =>
    unfold State.pushOwed
    repeat' first
      | with_reducible assumption | with_reducible apply State.updUnit_keeps (hw.sub rfl)
  | cons e t ih =>
    unfold State.pushOwed
    repeat' first
      | with_reducible assumption | with_reducible apply ih | with_reducible apply State.pushToken_keeps (hw.sub rfl)
      | with_reducible apply State.tickFresh_keeps (hw.sub rfl)

theorem State.workDone_keeps {P : State → Prop} (hw : Frees P 0x20d807dfff4) (s : State) (x : Nat) (hs : P s) : P (State.workDone s x) := by
  unfold State.workDone
  have x := ()
  repeat' first
    | (extract_lets +onlyGivenNames x; (fail_if_success clear x); first | (refine Keep.cut (P := P) (v := x) ?_ ?_; unfold x; clear x; rotate_left; intro hx; clear_value x) | clear_value x)
    | with_reducible assumption | with_reducible apply State.pushOwed_keeps (hw.sub rfl) | with_reducible apply State.doSignal_keeps (hw.sub rfl)
    | with_reducible apply State.setVx_keeps (hw.sub rfl) | with_reducible apply State.updUnit_keeps (hw.sub rfl) | split

theorem State.pushPaid_keeps {P : State → Prop} (hw : Frees P 0x60) (s : State) (x : Nat) (tag : BitVec 12) (pay : BitVec 448) (ports : List Nat) (hs : P s) : P (State.pushPaid s x tag pay ports) := by
  unfold State.pushPaid
  repeat' first
    | with_reducible intro _ | with_reducible assumption | with_reducible apply State.pushToken_keeps (hw.sub rfl) | with_reducible apply Keep.foldl

theorem State.freeDecant_keeps {P : State → Prop} (hw : Frees P 0xd807dfff4) (s : State) (x : Nat) (d : DecSt) (hs : P s) : P (State.freeDecant s x d) := by
  unfold State.freeDecant
  have x := ()
  repeat' first
    | (extract_lets +onlyGivenNames x; (fail_if_success clear x); clear_value x) | with_reducible assumption
    | with_reducible apply State.liveDecant_keeps (hw.sub rfl) | with_reducible apply State.setDec_keeps (hw.sub rfl) | split

theorem State.storeMx_keeps {P : State → Prop} (hw : Frees P 0xc0e04001e) (s : State) (x : Nat) (w : Who) (v : View) (hs : P s) : AccAll P id (State.storeMx s x w v) := by
  unfold State.storeMx
  have x := ()
  repeat' first
    | with_reducible intro _ | (extract_lets +onlyGivenNames x; (fail_if_success clear x); clear_value x) | with_reducible assumption
    | with_reducible apply State.storeMasked_keeps (hw.sub rfl) | with_reducible apply State.storeView_keeps (hw.sub rfl)
    | with_reducible apply State.countOoa_keeps (hw.sub rfl) | with_reducible apply State.orUnitFlags_keeps (hw.sub rfl)
    | with_reducible apply State.setDec_keeps (hw.sub rfl) | with_reducible apply AccAll.map | with_reducible apply AccAll.bind
    | with_reducible refine AccAll.getId ?_ ‹_ = Acc.ok _› | dsimp -zeta only [id]

theorem State.pushAll_keeps {P : State → Prop} (hw : Frees P 0x70) (s : State) (x : Nat) (tag : BitVec 12) (kind : Nat) (ref : Bool) (len : Nat) (pay : BitVec 448) (x7 : List Nat) (hs : P s) : P (State.pushAll s x tag kind ref len pay x7) := by
  induction x7 generalizing s x tag kind ref len pay with
  | nil =>
    unfold State.pushAll
    repeat' first
      | with_reducible assumption
  | cons e t ih =>
    unfold State.pushAll
    repeat' first
      | with_reducible assumption | with_reducible apply ih | with_reducible apply State.pushToken_keeps (hw.sub rfl)
      | with_reducible apply State.spend_keeps (hw.sub rfl)

theorem State.completeTile_keeps {P : State → Prop} (hw : Frees P 0x20d8e7dfffe) (s : State) (x : Nat) (j : Job) (c : Cmd) (k : DecCtx) (hs : P s) : P (State.completeTile s x j c k) := by
  unfold State.completeTile
  have x := ()
  repeat' first
    | with_reducible intro _
    | (extract_lets +onlyGivenNames x; (fail_if_success clear x); first | (refine Keep.cut (P := P) (v := x) ?_ ?_; unfold x; clear x; rotate_left; intro hx; clear_value x) | clear_value x)
    | with_reducible assumption | with_reducible apply State.pushAll_keeps (hw.sub rfl) | with_reducible apply State.setWait_keeps (hw.sub rfl)
    | with_reducible apply State.storeMx_keeps (hw.sub rfl) | with_reducible apply State.freeDecant_keeps (hw.sub rfl)
    | with_reducible apply State.pushPaid_keeps (hw.sub rfl) | with_reducible apply State.workDone_keeps (hw.sub rfl)
    | with_reducible apply State.storeMasked_keeps (hw.sub rfl) | with_reducible apply State.recordTile_keeps (hw.sub rfl)
    | with_reducible apply State.tickFresh_keeps (hw.sub rfl) | with_reducible apply State.on_keeps (hw.sub rfl)
    | with_reducible apply State.updJob_keeps (hw.sub rfl) | with_reducible apply State.setDec_keeps (hw.sub rfl)
    | with_reducible apply State.updUnit_keeps (hw.sub rfl) | with_reducible apply AccAll.ok | with_reducible refine AccAll.getId ?_ ‹_ = Acc.ok _›
    | split | dsimp -zeta only [id]

theorem State.configure_keeps {P : State → Prop} (hw : Frees P 0x30) (s : State) (k : Nat) (v : U64) (hs : P s) : P (State.configure s k v) := by
  unfold State.configure
  have x := ()
  repeat' first
    | (extract_lets +onlyGivenNames x; (fail_if_success clear x); first | (refine Keep.cut (P := P) (v := x) ?_ ?_; unfold x; clear x; rotate_left; intro hx; clear_value x) | clear_value x)
    | with_reducible assumption | with_reducible apply State.setQueue_keeps (hw.sub rfl) | with_reducible apply State.updUnit_keeps (hw.sub rfl)
    | split

theorem State.runUnits_keeps {P : State → Prop} (hw : Frees P 0x500000010) (s : State) (x1 : List Nat) (hs : P s) : P (State.runUnits s x1) := by
  induction x1 generalizing s with
  | nil =>
    unfold State.runUnits
    have x := ()
    repeat' first
      | with_reducible assumption
  | cons e t ih =>
    unfold State.runUnits
    have x := ()
    repeat' first
      | (extract_lets +onlyGivenNames x; (fail_if_success clear x); clear_value x) | with_reducible assumption | with_reducible apply ih
      | with_reducible apply State.setWait_keeps (hw.sub rfl) | with_reducible apply State.updUnit_keeps (hw.sub rfl)

theorem State.setRun_keeps {P : State → Prop} (hw : Frees P 0x500000010) (s : State) (x : Nat) (hs : P s) : P (State.setRun s x) := by
  unfold State.setRun
  repeat' first
    | with_reducible assumption | with_reducible apply State.setWait_keeps (hw.sub rfl)

theorem State.reissue_keeps {P : State → Prop} (hw : Frees P 0x5807dfff4) (s : State) (jid : U64) (x2 : List (Nat × Nat × Bool)) (hs : P s) : P (State.reissue s jid x2) := by
  induction x2 generalizing s jid with
  | nil =>
    unfold State.reissue
    have x := ()
    repeat' first
      | with_reducible assumption
  | cons e t ih =>
    unfold State.reissue
    have x := ()
    repeat' first
      | (extract_lets +onlyGivenNames x; (fail_if_success clear x); clear_value x) | with_reducible assumption | with_reducible apply ih
      | with_reducible apply State.setRun_keeps (hw.sub rfl) | with_reducible apply State.setWait_keeps (hw.sub rfl)
      | with_reducible apply State.streamFault_keeps (hw.sub rfl) | split

theorem State.setVmask_keeps {P : State → Prop} (hw : Frees P 0x8000) (s : State) (k : Nat) (v : BitVec 256) (hs : P s) : P (State.setVmask s k v) := by
  unfold State.setVmask
  repeat' first
    | (with_reducible apply hw.vmask rfl; with_reducible assumption)

theorem State.setRecipe_keeps {P : State → Prop} (hw : Frees P 0x20000) (s : State) (x : Nat) (v : List U32) (hs : P s) : P (State.setRecipe s x v) := by
  unfold State.setRecipe
  repeat' first
    | (with_reducible apply hw.recipes rfl; with_reducible assumption)

theorem State.setVreg_keeps {P : State → Prop} (hw : Frees P 0x4000) (s : State) (x : Nat) (r : Nat) (v : VReg) (hs : P s) : P (State.setVreg s x r v) := by
  unfold State.setVreg
  repeat' first
    | (with_reducible apply hw.vregs rfl; with_reducible assumption)

theorem State.putEach_keeps {P : State → Prop} (hw : Frees P 0x0) {α : Type} (f : State → Nat → α → State) (s : State) (x3 : List (Nat × α)) (hs : P s) (hf : ∀ (y0 : State) (y1 : Nat) (y2 : α), P y0 → P (f y0 y1 y2)) : P (State.putEach f s x3) := by
  induction x3 generalizing s with
  | nil =>
    unfold State.putEach
    repeat' first
      | with_reducible assumption
  | cons e t ih =>
    unfold State.putEach
    repeat' first
      | with_reducible assumption | with_reducible apply ih | with_reducible apply hf

theorem State.setDir_keeps {P : State → Prop} (hw : Frees P 0x2000) (s : State) (d : Nat) (v : List AccEntry) (hs : P s) : P (State.setDir s d v) := by
  unfold State.setDir
  repeat' first
    | (with_reducible apply hw.accDir rfl; with_reducible assumption)

theorem State.setMem_keeps {P : State → Prop} (hw : Frees P 0x2) (s : State) (m : List Host.Cell) (hs : P s) (hm : Memory.wf s.mem = true → Memory.wf m = true) : P (State.setMem s m) :=
  hw.free 1 rfl s m hm hs

theorem State.putScratch_keeps {P : State → Prop} (hw : Frees P 0x2) (s : State) (b : Binary) (cells : List Host.Cell) (hs : P s) : P (State.putScratch s b cells) := by
  refine State.setMem_keeps (hw.sub rfl) s _ hs fun h => ?_
  have hk : Memory.wf (s.mem.filter fun c => !inScratchRanges b c.1) = true := Memory.wf_filter _ _ h
  revert hk
  generalize s.mem.filter (fun c => !inScratchRanges b c.1) = m
  induction cells generalizing m with
  | nil => exact id
  | cons c t ih => exact fun hk => ih _ (Memory.wf_writeByte _ _ _ hk)

theorem State.putImage_keeps {P : State → Prop} (hw : Frees P 0x1fe9b2) (s : State) (j : Job) (v : SaveImg) (hs : P s) : P (State.putImage s j v) := by
  unfold State.putImage
  have x := ()
  repeat' first
    | with_reducible intro _
    | (extract_lets +onlyGivenNames x; (fail_if_success clear x); refine Keep.cut (P := P) (v := x) ?_ ?_; unfold x; clear x; rotate_left; intro hx; clear_value x)
    | with_reducible assumption | with_reducible apply State.putScratch_keeps (hw.sub rfl) | with_reducible apply State.setDir_keeps (hw.sub rfl)
    | with_reducible apply State.putEach_keeps (hw.sub rfl) | with_reducible apply State.setVreg_keeps (hw.sub rfl)
    | with_reducible apply State.setRecipe_keeps (hw.sub rfl) | with_reducible apply State.setVmask_keeps (hw.sub rfl)
    | with_reducible apply State.setQueue_keeps (hw.sub rfl) | with_reducible apply State.setSync_keeps (hw.sub rfl)
    | with_reducible apply State.setGse_keeps (hw.sub rfl) | with_reducible apply State.setVx_keeps (hw.sub rfl)
    | with_reducible apply State.setDec_keeps (hw.sub rfl) | with_reducible apply State.setUnit_keeps (hw.sub rfl)
    | with_reducible apply State.setRxe_keeps (hw.sub rfl) | with_reducible apply State.setWatch_keeps (hw.sub rfl)
    | with_reducible apply State.setTile_keeps (hw.sub rfl)

theorem State.continueAt_keeps {P : State → Prop} (hw : Frees P 0x5807ffff6) (s : State) (j : Job) (v : SaveImg) (hs : P s) : P (State.continueAt s j v) := by
  unfold State.continueAt
  have x := ()
  repeat' first
    | (extract_lets +onlyGivenNames x; (fail_if_success clear x); first | (refine Keep.cut (P := P) (v := x) ?_ ?_; unfold x; clear x; rotate_left; intro hx; clear_value x) | clear_value x)
    | with_reducible assumption | with_reducible apply State.putImage_keeps (hw.sub rfl) | with_reducible apply State.reissue_keeps (hw.sub rfl)
    | with_reducible apply State.runUnits_keeps (hw.sub rfl) | with_reducible apply State.updJob_keeps (hw.sub rfl)
    | (with_reducible apply hw.marks rfl; with_reducible apply hw.recfgs rfl; with_reducible assumption)

theorem State.contribDecision_keeps {P : State → Prop} (hw : Frees P 0x400200000) (s : State) (jid : U64) (id : Nat) (hs : P s) : P (State.contribDecision s jid id) := by
  unfold State.contribDecision
  have x := ()
  repeat' first
    | with_reducible intro _
    | (extract_lets +onlyGivenNames x; (fail_if_success clear x); first | (refine Keep.cut (P := P) (v := x) ?_ ?_; unfold x; clear x; rotate_left; intro hx; clear_value x) | clear_value x)
    | with_reducible assumption | with_reducible apply State.updJob_keeps (hw.sub rfl) | with_reducible apply State.record_keeps (hw.sub rfl)
    | with_reducible apply State.withJob_keeps (hw.sub rfl) | split

theorem State.saturated_keeps {P : State → Prop} (hw : Frees P 0x500200004) (s : State) (j : Job) (hs : P s) : P (State.saturated s j) := by
  unfold State.saturated
  have x := ()
  repeat' first
    | with_reducible intro _
    | (extract_lets +onlyGivenNames x; (fail_if_success clear x); refine Keep.cut (P := P) (v := x) ?_ ?_; unfold x; clear x; rotate_left; intro hx; clear_value x)
    | with_reducible assumption | with_reducible apply State.updJob_keeps (hw.sub rfl) | with_reducible apply State.event_keeps (hw.sub rfl)
    | with_reducible apply Keep.foldl | split

theorem State.quietEvents_keeps {P : State → Prop} (hw : Frees P 0x500000004) (s : State) (j : Job) (hs : P s) : P (State.quietEvents s j) := by
  unfold State.quietEvents
  have x := ()
  repeat' first
    | with_reducible intro _ | (extract_lets +onlyGivenNames x; (fail_if_success clear x); clear_value x) | with_reducible assumption
    | with_reducible apply State.event_keeps (hw.sub rfl) | with_reducible apply Keep.foldl | split

theorem State.stampLabel_keeps {P : State → Prop} (hw : Frees P 0xc0e00000e) (s : State) (j : Job) (hs : P s) : P (State.stampLabel s j) := by
  unfold State.stampLabel
  have x := ()
  repeat' first
    | (extract_lets +onlyGivenNames x; (fail_if_success clear x); clear_value x) | with_reducible assumption
    | with_reducible apply State.storeQuiet_keeps (hw.sub rfl)

theorem State.corkOutcome_keeps {P : State → Prop} (hw : Frees P 0xd0e20000e) (s : State) (j : Job) (r : CorkVal) (own : CorkVal) (gt : Nat) (hs : P s) : P (State.corkOutcome s j r own gt) := by
  unfold State.corkOutcome
  have x := ()
  repeat' first
    | with_reducible intro _
    | (extract_lets +onlyGivenNames x; (fail_if_success clear x); first | (refine Keep.cut (P := P) (v := x) ?_ ?_; unfold x; clear x; rotate_left; intro hx; clear_value x) | clear_value x)
    | with_reducible assumption | with_reducible apply State.stampLabel_keeps (hw.sub rfl) | with_reducible apply State.quietEvents_keeps (hw.sub rfl)
    | with_reducible apply State.saturated_keeps (hw.sub rfl) | with_reducible apply State.storeQuiet_keeps (hw.sub rfl)
    | with_reducible apply State.updJob_keeps (hw.sub rfl) | with_reducible apply State.withJob_keeps (hw.sub rfl) | split

theorem State.cork_keeps {P : State → Prop} (hw : Frees P 0xd8e7dfffe) (s : State) (j : Job) (gt : Nat) (hs : P s) : P (State.cork s j gt) := by
  unfold State.cork
  have x := ()
  repeat' first
    | (extract_lets +onlyGivenNames x; (fail_if_success clear x); first | (refine Keep.cut (P := P) (v := x) ?_ ?_; unfold x; clear x; rotate_left; intro hx; clear_value x) | clear_value x)
    | with_reducible assumption | with_reducible apply State.corkOutcome_keeps (hw.sub rfl) | with_reducible apply State.record_keeps (hw.sub rfl)
    | with_reducible apply State.abortJob_keeps (hw.sub rfl) | split

end Sys2Proof.Machine
end

