-- ==== Sys2Proof/Laws/KeepsOps2.lean ====
section
/-! SUPPORT. What shared operations keep, second part. -/

set_option linter.unusedTactic false
set_option linter.unusedVariables false

namespace Sys2Proof.Machine

theorem State.enqueue_keeps {P : State → Prop} (hw : Frees P 0x800000) (s : State) (p : Nat) (pk : Packet) (hs : P s) : P (State.enqueue s p pk) := by
  unfold State.enqueue
  repeat' first
    | with_reducible assumption | with_reducible apply State.updPort_keeps (hw.sub rfl)

theorem State.noteDown_keeps {P : State → Prop} (hw : Frees P 0x200000) (s : State) (jid : U64) (hs : P s) : P (State.noteDown s jid) := by
  unfold State.noteDown
  repeat' first
    | with_reducible assumption | with_reducible apply State.updJob_keeps (hw.sub rfl)

theorem State.returnDown_keeps {P : State → Prop} (hw : Frees P 0xa00000) (s : State) (p : Nat) (h : W256) (hs : P s) : P (State.returnDown s p h) := by
  unfold State.returnDown
  have x := ()
  repeat' first
    | (extract_lets +onlyGivenNames x; (fail_if_success clear x); clear_value x) | with_reducible assumption
    | with_reducible apply State.noteDown_keeps (hw.sub rfl) | with_reducible apply State.enqueue_keeps (hw.sub rfl) | split

theorem State.sendPacket_keeps {P : State → Prop} (hw : Frees P 0xa00000) (s : State) (p : Nat) (pk : Packet) (hs : P s) : P (State.sendPacket s p pk) := by
  unfold State.sendPacket
  repeat' first
    | with_reducible assumption | with_reducible apply State.returnDown_keeps (hw.sub rfl) | with_reducible apply State.enqueue_keeps (hw.sub rfl)
    | split

theorem State.originate_keeps {P : State → Prop} (hw : Frees P 0x400a00010) (s : State) (jid : U64) (p : Nat) (pk : Packet) (hs : P s) : P (State.originate s jid p pk) := by
  unfold State.originate
  repeat' first
    | with_reducible assumption | with_reducible apply State.sendPacket_keeps (hw.sub rfl) | with_reducible apply State.tracePacket_keeps (hw.sub rfl)
    | with_reducible apply State.record_keeps (hw.sub rfl) | split

theorem State.corkPhase_keeps {P : State → Prop} (hw : Frees P 0x400a00010) (s : State) (j : Job) (c : CorkVal) (dim : Nat) (hs : P s) : P (State.corkPhase s j c dim) := by
  unfold State.corkPhase
  have x := ()
  repeat' first
    | with_reducible intro _ | (extract_lets +onlyGivenNames x; (fail_if_success clear x); clear_value x) | with_reducible assumption
    | with_reducible apply State.originate_keeps (hw.sub rfl) | with_reducible apply Keep.foldl | split

theorem State.postCorrected_keeps {P : State → Prop} (hw : Frees P 0x502000004) (s : State) (dev : Nat) (hs : P s) : P (State.postCorrected s dev) := by
  unfold State.postCorrected
  have x := ()
  repeat' first
    | (extract_lets +onlyGivenNames x; (fail_if_success clear x); clear_value x) | with_reducible assumption
    | with_reducible apply State.setDev_keeps (hw.sub rfl) | with_reducible apply State.event_keeps (hw.sub rfl) | split

theorem State.correct_keeps {P : State → Prop} (hw : Frees P 0x502000004) (s : State) (a : Nat) (e : EccErr) (scrub : Bool) (hs : P s) : P (State.correct s a e scrub) := by
  unfold State.correct
  have x := ()
  repeat' first
    | (extract_lets +onlyGivenNames x; (fail_if_success clear x); first | (refine Keep.cut (P := P) (v := x) ?_ ?_; unfold x; clear x; rotate_left; intro hx; clear_value x) | clear_value x)
    | with_reducible assumption | with_reducible apply State.postCorrected_keeps (hw.sub rfl) | with_reducible apply State.updDev_keeps (hw.sub rfl)
    | with_reducible apply State.cntAdd_keeps (hw.sub rfl)

theorem State.countEntries_keeps {P : State → Prop} (hw : Frees P 0x400000000) (s : State) (first : Nat) (old : Nat) (new : Nat) (hs : P s) : P (State.countEntries s first old new) := by
  unfold State.countEntries
  repeat' first
    | with_reducible intro _ | with_reducible assumption | with_reducible apply State.cntAdd_keeps (hw.sub rfl) | with_reducible apply Keep.foldl
    | split

theorem State.ctxTrigger_keeps {P : State → Prop} (hw : Frees P 0x100000000) (s : State) (ctx : Nat) (src : Nat) (hs : P s) : P (State.ctxTrigger s ctx src) := by
  unfold State.ctxTrigger
  repeat' first
    | with_reducible assumption | with_reducible apply State.noteTrigger_keeps (hw.sub rfl) | split

theorem State.debugChallenge_keeps {P : State → Prop} (hw : Frees P 0x24000000000) (s : State) (hs : P s) : P (State.debugChallenge s) := by
  unfold State.debugChallenge
  repeat' first
    | with_reducible assumption | with_reducible apply State.tickFresh_keeps (hw.sub rfl) | with_reducible apply State.secDone_keeps (hw.sub rfl)
    | with_reducible apply State.secBang_keeps (hw.sub rfl)

theorem State.debugUnlock_keeps {P : State → Prop} (hw : Frees P 0x4000000000) (s : State) (token : BitVec 8192) (hs : P s) : P (State.debugUnlock s token) := by
  unfold State.debugUnlock
  have x := ()
  repeat' first
    | (extract_lets +onlyGivenNames x; (fail_if_success clear x); first | (refine Keep.cut (P := P) (v := x) ?_ ?_; unfold x; clear x; rotate_left; intro hx; clear_value x) | clear_value x)
    | with_reducible assumption | with_reducible apply State.secDone_keeps (hw.sub rfl) | with_reducible apply State.secFail_keeps (hw.sub rfl)
    | with_reducible apply State.secBang_keeps (hw.sub rfl) | with_reducible apply State.setSec_keeps (hw.sub rfl) | split

theorem State.rowTaken_keeps {P : State → Prop} (hw : Frees P 0x42800) (s : State) (x : Nat) (k : DecCtx) (hs : P s) : P (State.rowTaken s x k) := by
  unfold State.rowTaken
  have x := ()
  repeat' first
    | (extract_lets +onlyGivenNames x; (fail_if_success clear x); first | (refine Keep.cut (P := P) (v := x) ?_ ?_; unfold x; clear x; rotate_left; intro hx; clear_value x) | clear_value x)
    | with_reducible assumption | with_reducible apply State.setDir_keeps (hw.sub rfl) | with_reducible apply State.setDec_keeps (hw.sub rfl)
    | with_reducible apply State.setTile_keeps (hw.sub rfl) | split

theorem State.storeRow_keeps {P : State → Prop} (hw : Frees P 0xd8e7dfffe) (s : State) (x : Nat) (j : Job) (c : Cmd) (k : DecCtx) (v : View) (fv : Option View) (r : DecRow) (hs : P s) : P (State.storeRow s x j c k v fv r) := by
  unfold State.storeRow
  have x := ()
  repeat' first
    | with_reducible intro _
    | (extract_lets +onlyGivenNames x; (fail_if_success clear x); first | (refine Keep.cut (P := P) (v := x) ?_ ?_; unfold x; clear x; rotate_left; intro hx; clear_value x) | (refine AccAll.cut (P := P) (v := x) ?_ ?_; unfold x; clear x; rotate_left; intro hx; clear_value x) | clear_value x)
    | with_reducible assumption | with_reducible apply State.rowTaken_keeps (hw.sub rfl) | with_reducible apply State.storeMx_keeps (hw.sub rfl)
    | with_reducible apply State.storeView_keeps (hw.sub rfl) | with_reducible apply State.countOoa_keeps (hw.sub rfl)
    | with_reducible apply State.orLanes_keeps (hw.sub rfl) | with_reducible apply State.on_keeps (hw.sub rfl)
    | with_reducible apply State.setDec_keeps (hw.sub rfl) | with_reducible apply AccAll.ok | with_reducible apply AccAll.bind
    | with_reducible refine AccAll.getId ?_ ‹_ = Acc.ok _› | split | dsimp -zeta only [id]

theorem State.holdTile_keeps {P : State → Prop} (hw : Frees P 0x500000010) (s : State) (x : Nat) (k : DecCtx) (wt : WaitSt) (hs : P s) : P (State.holdTile s x k wt) := by
  unfold State.holdTile
  repeat' first
    | with_reducible assumption | with_reducible apply State.setWait_keeps (hw.sub rfl) | split

theorem State.payTile_keeps {P : State → Prop} (hw : Frees P 0x500040010) (s : State) (x : Nat) (k : DecCtx) (hs : P s) : P (State.payTile s x k) := by
  unfold State.payTile
  have x := ()
  repeat' first
    | with_reducible intro _
    | (extract_lets +onlyGivenNames x; (fail_if_success clear x); first | (refine Keep.cut (P := P) (v := x) ?_ ?_; unfold x; clear x; rotate_left; intro hx; clear_value x) | clear_value x)
    | with_reducible assumption | with_reducible apply State.setRun_keeps (hw.sub rfl) | with_reducible apply State.spend_keeps (hw.sub rfl)
    | with_reducible apply State.setDec_keeps (hw.sub rfl) | with_reducible apply Keep.foldl | split

theorem State.discardHead_keeps {P : State → Prop} (hw : Frees P 0x500000434) (s : State) (x : Nat) (k : Nat) (hs : P s) : P (State.discardHead s x k) := by
  unfold State.discardHead
  have x := ()
  repeat' first
    | (extract_lets +onlyGivenNames x; (fail_if_success clear x); refine Keep.cut (P := P) (v := x) ?_ ?_; unfold x; clear x; rotate_left; intro hx; clear_value x)
    | with_reducible assumption | with_reducible apply State.popQueue_keeps (hw.sub rfl) | with_reducible apply State.closeReconfs_keeps (hw.sub rfl)
    | with_reducible apply State.updUnit_keeps (hw.sub rfl) | (with_reducible apply hw.recfgs rfl; with_reducible assumption) | split

theorem State.decantRow_keeps {P : State → Prop} (hw : Frees P 0xd8e7dfffe) (s : State) (x : Nat) (j : Job) (c : Cmd) (hs : P s) : P (State.decantRow s x j c) := by
  unfold State.decantRow
  have x := ()
  repeat' first
    | (extract_lets +onlyGivenNames x; (fail_if_success clear x); first | (refine Keep.cut (P := P) (v := x) ?_ ?_; unfold x; clear x; rotate_left; intro hx; clear_value x) | clear_value x)
    | with_reducible assumption | with_reducible apply State.discardHead_keeps (hw.sub rfl) | with_reducible apply State.payTile_keeps (hw.sub rfl)
    | with_reducible apply State.holdTile_keeps (hw.sub rfl) | with_reducible apply State.storeRow_keeps (hw.sub rfl)
    | with_reducible apply State.rowTaken_keeps (hw.sub rfl) | with_reducible apply State.setWait_keeps (hw.sub rfl)
    | with_reducible apply State.popQueue_keeps (hw.sub rfl) | with_reducible apply State.jobFault_keeps (hw.sub rfl)
    | with_reducible apply State.setDec_keeps (hw.sub rfl) | split

theorem State.decantAll_keeps {P : State → Prop} (hw : Frees P 0xd8e7dfffe) (s : State) (x : Nat) (j : Job) (c : Cmd) (x4 : Nat) (hs : P s) : P (State.decantAll s x j c x4) := by
  induction x4 generalizing s x j c with
  | zero =>
    unfold State.decantAll
    repeat' first
      | with_reducible assumption
  | succ n ih =>
    unfold State.decantAll
    repeat' first
      | with_reducible assumption | with_reducible apply ih | with_reducible apply State.decantRow_keeps (hw.sub rfl)

theorem State.decantTile_keeps {P : State → Prop} (hw : Frees P 0x20d8e7dfffe) (s : State) (x : Nat) (j : Job) (c : Cmd) (k : DecCtx) (hs : P s) : P (State.decantTile s x j c k) := by
  unfold State.decantTile
  have x := ()
  repeat' first
    | (extract_lets +onlyGivenNames x; (fail_if_success clear x); refine Keep.cut (P := P) (v := x) ?_ ?_; unfold x; clear x; rotate_left; intro hx; clear_value x)
    | with_reducible assumption | with_reducible apply State.decantAll_keeps (hw.sub rfl) | with_reducible apply State.completeTile_keeps (hw.sub rfl)
    | split

theorem State.deny_keeps {P : State → Prop} (hw : Frees P 0x600000000) (s : State) (f : Func) (hs : P s) : P (State.deny s f) := by
  unfold State.deny
  repeat' first
    | with_reducible assumption | with_reducible apply State.updHp_keeps (hw.sub rfl) | with_reducible apply State.cntAdd_keeps (hw.sub rfl)

theorem State.dieCommand_keeps {P : State → Prop} (hw : Frees P 0x2000000000) (s : State) (die : Nat) (cmd : Nat) (hs : P s) : P (State.dieCommand s die cmd) := by
  unfold State.dieCommand
  repeat' first
    | with_reducible assumption | with_reducible apply State.updDie_keeps (hw.sub rfl) | split

theorem State.disableCtx_keeps {P : State → Prop} (hw : Frees P 0x5807dfff4) (s : State) (n : Nat) (hs : P s) : P (State.disableCtx s n) := by
  unfold State.disableCtx
  repeat' first
    | with_reducible assumption | with_reducible apply State.abortAll_keeps (hw.sub rfl) | with_reducible apply State.updCtx_keeps (hw.sub rfl)
    | split

theorem State.dmxFlags_keeps {P : State → Prop} (hw : Frees P 0x10) (s : State) (jid : U64) (f : U16) (ooa : Nat) (hs : P s) : P (State.dmxFlags s jid f ooa) := by
  unfold State.dmxFlags
  have x := ()
  repeat' first
    | (extract_lets +onlyGivenNames x; (fail_if_success clear x); clear_value x) | with_reducible assumption
    | with_reducible apply State.countOoa_keeps (hw.sub rfl) | with_reducible apply State.updUnit_keeps (hw.sub rfl) | split

theorem State.sendReply_keeps {P : State → Prop} (hw : Frees P 0x10) (s : State) (x : Nat) (sid : U16) (v : U64) (kind : Nat) (slot : Nat) (hs : P s) : P (State.sendReply s x sid v kind slot) := by
  unfold State.sendReply
  repeat' first
    | with_reducible assumption | with_reducible apply State.updUnit_keeps (hw.sub rfl)

theorem State.doFetchAdd_keeps {P : State → Prop} (hw : Frees P 0xd807dfff4) (s : State) (x : Nat) (sid : U16) (a : U64) (kind : Nat) (slot : Nat) (hs : P s) : P (State.doFetchAdd s x sid a kind slot) := by
  unfold State.doFetchAdd
  repeat' first
    | with_reducible intro _ | with_reducible assumption | with_reducible apply State.sendReply_keeps (hw.sub rfl)
    | with_reducible apply State.syncOp_keeps (hw.sub rfl) | with_reducible apply State.syncDone_keeps (hw.sub rfl)
    | with_reducible apply State.putValue_keeps (hw.sub rfl)

theorem State.drainOne_keeps {P : State → Prop} (hw : Frees P 0xd0e00000e) (s : State) (d : Nat) (hs : P s) : P (State.drainOne s d) := by
  unfold State.drainOne
  have x := ()
  repeat' first
    | (extract_lets +onlyGivenNames x; (fail_if_success clear x); clear_value x) | with_reducible assumption
    | with_reducible apply State.store_keeps (hw.sub rfl) | with_reducible apply State.setTrace_keeps (hw.sub rfl)
    | with_reducible apply State.updCtx_keeps (hw.sub rfl) | with_reducible refine AccAll.getId ?_ ‹_ = Acc.ok _› | split

theorem State.dropCand_keeps {P : State → Prop} (hw : Frees P 0x100000000) (s : State) (ctx : Nat) (hs : P s) : P (State.dropCand s ctx) := by
  unfold State.dropCand
  repeat' first
    | with_reducible assumption | with_reducible apply State.updCtx_keeps (hw.sub rfl)

theorem State.dropFtq_keeps {P : State → Prop} (hw : Frees P 0x10) (s : State) (k : VCtx) (hs : P s) : P (State.dropFtq s k) := by
  unfold State.dropFtq
  repeat' first
    | with_reducible assumption | with_reducible apply State.updUnit_keeps (hw.sub rfl) | split

theorem State.dropOperand_keeps {P : State → Prop} (hw : Frees P 0x200000) (s : State) (jid : U64) (o : Operand) (hs : P s) : P (State.dropOperand s jid o) := by
  unfold State.dropOperand
  repeat' first
    | with_reducible assumption | with_reducible apply State.updJob_keeps (hw.sub rfl)

theorem State.dumpEntry_keeps {P : State → Prop} (hw : Frees P 0x2000000000a) (s : State) (ctx : Nat) (at_ : Nat) (len : Nat) (hs : P s) : P (State.dumpEntry s ctx at_ len) := by
  unfold State.dumpEntry
  repeat' first
    | with_reducible assumption | with_reducible apply State.veilDva_keeps (hw.sub rfl)

theorem State.dumpOthers_keeps {P : State → Prop} (hw : Frees P 0xa) (s : State) (ctx : Nat) (base : Nat) (js : List Job) (hs : P s) : P (State.dumpOthers s ctx base js) := by
  unfold State.dumpOthers
  have x := ()
  repeat' first
    | with_reducible intro _ | (extract_lets +onlyGivenNames x; (fail_if_success clear x); clear_value x) | with_reducible assumption
    | with_reducible apply State.overDva_keeps (hw.sub rfl) | with_reducible apply State.blank_keeps (hw.sub rfl) | with_reducible apply Keep.foldl

theorem State.dumpQueue_keeps {P : State → Prop} (hw : Frees P 0x2000000000a) (s : State) (ctx : Nat) (base : Nat) (q : Nat) (hs : P s) : P (State.dumpQueue s ctx base q) := by
  unfold State.dumpQueue
  have x := ()
  repeat' first
    | (extract_lets +onlyGivenNames x; (fail_if_success clear x); clear_value x) | with_reducible assumption
    | with_reducible apply State.dumpEntry_keeps (hw.sub rfl)

theorem State.dumpSync_keeps {P : State → Prop} (hw : Frees P 0x2000000000a) (s : State) (ctx : Nat) (base : Nat) (i : Nat) (hs : P s) : P (State.dumpSync s ctx base i) := by
  unfold State.dumpSync
  have x := ()
  repeat' first
    | (extract_lets +onlyGivenNames x; (fail_if_success clear x); clear_value x) | with_reducible assumption
    | with_reducible apply State.dumpEntry_keeps (hw.sub rfl)

theorem State.dumpTraces_keeps {P : State → Prop} (hw : Frees P 0xa) (s : State) (ctx : Nat) (base : Nat) (js : List Job) (hs : P s) : P (State.dumpTraces s ctx base js) := by
  unfold State.dumpTraces
  repeat' first
    | with_reducible intro _ | with_reducible assumption | with_reducible apply State.overDva_keeps (hw.sub rfl)
    | with_reducible apply State.blank_keeps (hw.sub rfl) | with_reducible apply Keep.foldl | split

theorem State.dumpUnit_keeps {P : State → Prop} (hw : Frees P 0x20c0e00000e) (s : State) (ctx : Nat) (base : Nat) (x : Nat) (hs : P s) : P (State.dumpUnit s ctx base x) := by
  unfold State.dumpUnit
  have x := ()
  repeat' first
    | (extract_lets +onlyGivenNames x; (fail_if_success clear x); clear_value x) | with_reducible assumption
    | with_reducible apply State.dumpEntry_keeps (hw.sub rfl) | with_reducible apply State.storeQuiet_keeps (hw.sub rfl)

theorem State.enableCtx_keeps {P : State → Prop} (hw : Frees P 0x100000000) (s : State) (n : Nat) (hs : P s) : P (State.enableCtx s n) := by
  unfold State.enableCtx
  have x := ()
  repeat' first
    | (extract_lets +onlyGivenNames x; (fail_if_success clear x); clear_value x) | with_reducible assumption
    | with_reducible apply State.setCtx_keeps (hw.sub rfl) | split

theorem State.stepRecord_keeps {P : State → Prop} (hw : Frees P 0x500000004) (s : State) (j : Job) (disp : Nat) (reason : Nat) (p : Nat) (hs : P s) : P (State.stepRecord s j disp reason p) := by
  unfold State.stepRecord
  repeat' first
    | with_reducible assumption | with_reducible apply State.postCpl_keeps (hw.sub rfl)

theorem State.endInterrupted_keeps {P : State → Prop} (hw : Frees P 0x500000004) (s : State) (j : Job) (hs : P s) : P (State.endInterrupted s j).1 := by
  unfold State.endInterrupted
  have x := ()
  repeat' first
    | (extract_lets +onlyGivenNames x; (fail_if_success clear x); clear_value x) | with_reducible assumption
    | with_reducible apply State.stepRecord_keeps (hw.sub rfl) | split

theorem State.endPin_keeps {P : State → Prop} (hw : Frees P 0x160000000) (s : State) (ctx : Nat) (i : Nat) (st : Nat) (cause : Nat) (l : List TlbEntry) (hs : P s) : P (State.endPin s ctx i st cause l) := by
  unfold State.endPin
  have x := ()
  repeat' first
    | (extract_lets +onlyGivenNames x; (fail_if_success clear x); refine Keep.cut (P := P) (v := x) ?_ ?_; unfold x; clear x; rotate_left; intro hx; clear_value x)
    | with_reducible assumption | with_reducible apply State.updCtx_keeps (hw.sub rfl)
    | (with_reducible apply hw.locked rfl; with_reducible apply hw.ats rfl; with_reducible assumption) | split

theorem State.fileFull_keeps {P : State → Prop} (hw : Frees P 0x500000010) (s : State) (x : Nat) (k : DecCtx) (hs : P s) : P (State.fileFull s x k) := by
  unfold State.fileFull
  repeat' first
    | with_reducible assumption | with_reducible apply State.setWait_keeps (hw.sub rfl) | split

theorem State.finishInval_keeps {P : State → Prop} (hw : Frees P 0x110000000) (s : State) (ctx : Nat) (hs : P s) : P (State.finishInval s ctx) := by
  unfold State.finishInval
  have x := ()
  repeat' first
    | (extract_lets +onlyGivenNames x; (fail_if_success clear x); clear_value x) | with_reducible assumption
    | with_reducible apply State.setCtx_keeps (hw.sub rfl) | (with_reducible apply hw.tlb rfl; with_reducible assumption) | split

theorem State.owe_keeps {P : State → Prop} (hw : Frees P 0x10) (s : State) (x : Nat) (x2 : List Nat) (hs : P s) : P (State.owe s x x2) := by
  induction x2 generalizing s x with
  | nil =>
    unfold State.owe
    repeat' first
      | with_reducible assumption
  | cons e t ih =>
    unfold State.owe
    repeat' first
      | with_reducible assumption | with_reducible apply ih | with_reducible apply State.spend_keeps (hw.sub rfl)
      | with_reducible apply State.updUnit_keeps (hw.sub rfl)

theorem State.fired_keeps {P : State → Prop} (hw : Frees P 0x20d807dfff4) (s : State) (x : Nat) (j : Job) (c : Cmd) (u : UnitSt) (hs : P s) : P (State.fired s x j c u) := by
  unfold State.fired
  have x := ()
  repeat' first
    | (extract_lets +onlyGivenNames x; (fail_if_success clear x); first | (refine Keep.cut (P := P) (v := x) ?_ ?_; unfold x; clear x; rotate_left; intro hx; clear_value x) | clear_value x)
    | with_reducible assumption | with_reducible apply State.owe_keeps (hw.sub rfl) | with_reducible apply State.setRun_keeps (hw.sub rfl)
    | with_reducible apply State.workDone_keeps (hw.sub rfl) | with_reducible apply State.updJob_keeps (hw.sub rfl)
    | with_reducible apply State.setUnit_keeps (hw.sub rfl) | split

theorem State.fire_keeps {P : State → Prop} (hw : Frees P 0x20d807dfff4) (s : State) (x : Nat) (j : Job) (c : Cmd) (hs : P s) : P (State.fire s x j c) := by
  unfold State.fire
  have x := ()
  repeat' first
    | with_reducible intro _
    | (extract_lets +onlyGivenNames x; (fail_if_success clear x); first | (refine Keep.cut (P := P) (v := x) ?_ ?_; unfold x; clear x; rotate_left; intro hx; clear_value x) | (refine Keep.cutFst (P := P) (v := x) ?_ ?_; unfold x; clear x; rotate_left; intro hx; clear_value x) | clear_value x)
    | with_reducible assumption | with_reducible apply State.fired_keeps (hw.sub rfl) | with_reducible apply State.popPorts_keeps (hw.sub rfl)
    | with_reducible apply State.jobFault_keeps (hw.sub rfl) | with_reducible apply State.updJob_keeps (hw.sub rfl)
    | with_reducible apply State.traceEv_keeps (hw.sub rfl) | with_reducible apply State.updUnit_keeps (hw.sub rfl) | with_reducible apply Keep.foldl
    | split

theorem State.flr_keeps {P : State → Prop} (hw : Frees P 0x5a07dfff4) (s : State) (n : Nat) (hs : P s) : P (State.flr s n) := by
  unfold State.flr
  have x := ()
  repeat' first
    | with_reducible intro _
    | (extract_lets +onlyGivenNames x; (fail_if_success clear x); first | (refine Keep.cut (P := P) (v := x) ?_ ?_; unfold x; clear x; rotate_left; intro hx; clear_value x) | clear_value x)
    | with_reducible assumption | with_reducible apply State.release_keeps (hw.sub rfl) | with_reducible apply State.setObs_keeps (hw.sub rfl)
    | with_reducible apply State.setCtx_keeps (hw.sub rfl)
    | (with_reducible apply hw.recfgs rfl; with_reducible apply hw.locked rfl; with_reducible apply hw.faults rfl; with_reducible assumption)
    | with_reducible apply Keep.foldl

theorem State.forward_keeps {P : State → Prop} (hw : Frees P 0x400a00010) (s : State) (p : Nat) (pk : Packet) (hs : P s) : P (State.forward s p pk) := by
  unfold State.forward
  have x := ()
  repeat' first
    | (extract_lets +onlyGivenNames x; (fail_if_success clear x); refine Keep.cut (P := P) (v := x) ?_ ?_; unfold x; clear x; rotate_left; intro hx; clear_value x)
    | with_reducible assumption | with_reducible apply State.sendPacket_keeps (hw.sub rfl) | with_reducible apply State.tracePacket_keeps (hw.sub rfl)
    | with_reducible apply State.cntAdd_keeps (hw.sub rfl) | split

theorem State.freeFtq_keeps {P : State → Prop} (hw : Frees P 0x10000) (s : State) (k : VCtx) (hs : P s) : P (State.freeFtq s k) := by
  unfold State.freeFtq
  have x := ()
  repeat' first
    | (extract_lets +onlyGivenNames x; (fail_if_success clear x); clear_value x) | with_reducible assumption
    | with_reducible apply State.setVx_keeps (hw.sub rfl) | split

theorem State.freeHeld_keeps {P : State → Prop} (hw : Frees P 0x800000) (s : State) (p : Nat) (k : Packet) (hs : P s) : P (State.freeHeld s p k) := by
  unfold State.freeHeld
  repeat' first
    | with_reducible assumption | with_reducible apply State.updPort_keeps (hw.sub rfl)

theorem State.fwActivate_keeps {P : State → Prop} (hw : Frees P 0x6000000000) (s : State) (die : Nat) (hs : P s) : P (State.fwActivate s die) := by
  unfold State.fwActivate
  repeat' first
    | with_reducible assumption | with_reducible apply State.updDie_keeps (hw.sub rfl) | with_reducible apply State.secDone_keeps (hw.sub rfl)
    | with_reducible apply State.secFail_keeps (hw.sub rfl) | split

theorem State.fwSelect_keeps {P : State → Prop} (hw : Frees P 0x4000000000) (s : State) (hs : P s) : P (State.fwSelect s) := by
  unfold State.fwSelect
  have x := ()
  repeat' first
    | (extract_lets +onlyGivenNames x; (fail_if_success clear x); clear_value x) | with_reducible assumption
    | with_reducible apply State.secDone_keeps (hw.sub rfl) | with_reducible apply State.secFail_keeps (hw.sub rfl)
    | with_reducible apply State.setSec_keeps (hw.sub rfl) | split

theorem State.fwStage_keeps {P : State → Prop} (hw : Frees P 0x4000000000) (s : State) (img : Image) (hs : P s) : P (State.fwStage s img) := by
  unfold State.fwStage
  have x := ()
  repeat' first
    | (extract_lets +onlyGivenNames x; (fail_if_success clear x); clear_value x) | with_reducible assumption
    | with_reducible apply State.secDone_keeps (hw.sub rfl) | with_reducible apply State.secFail_keeps (hw.sub rfl)
    | with_reducible apply State.setSec_keeps (hw.sub rfl) | split

theorem State.gseStore_keeps {P : State → Prop} (hw : Frees P 0xc0e08000e) (s : State) (k : GCtx) (v : View) (es : List (List Int × Nat)) (hs : P s) : AccAll P Prod.fst (State.gseStore s k v es) := by
  unfold State.gseStore
  have x := ()
  repeat' first
    | with_reducible intro _ | (extract_lets +onlyGivenNames x; (fail_if_success clear x); clear_value x) | with_reducible assumption
    | with_reducible apply State.storeView_keeps (hw.sub rfl) | with_reducible apply State.setGse_keeps (hw.sub rfl) | with_reducible apply AccAll.map
    | with_reducible apply AccAll.bind | with_reducible refine AccAll.getId ?_ ‹_ = Acc.ok _›

theorem State.gatherRow_keeps {P : State → Prop} (hw : Frees P 0xc0e08000e) (s : State) (k : GCtx) (src : View) (dst : View) (idx : View) (j : Nat) (hs : P s) : AccAll P GOut.s (State.gatherRow s k src dst idx j) := by
  unfold State.gatherRow
  have x := ()
  repeat' first
    | with_reducible intro _ | (extract_lets +onlyGivenNames x; (fail_if_success clear x); clear_value x) | with_reducible assumption
    | with_reducible apply State.gseStore_keeps (hw.sub rfl) | with_reducible apply State.setGse_keeps (hw.sub rfl) | with_reducible apply AccAll.map
    | with_reducible apply AccAll.bind | with_reducible refine AccAll.getFst ?_ ‹_ = Acc.ok _›

theorem State.gseDone_keeps {P : State → Prop} (hw : Frees P 0x20d807dfff4) (s : State) (k : GCtx) (hs : P s) : P (State.gseDone s k) := by
  unfold State.gseDone
  repeat' first
    | with_reducible assumption | with_reducible apply State.workDone_keeps (hw.sub rfl) | with_reducible apply State.setGse_keeps (hw.sub rfl)

theorem State.gsePush_keeps {P : State → Prop} (hw : Frees P 0x70) (s : State) (k : GCtx) (v : View) (lo : Nat) (hi : Nat) (hs : P s) : AccAll P id (State.gsePush s k v lo hi) := by
  unfold State.gsePush
  repeat' first
    | with_reducible intro _ | with_reducible assumption | with_reducible apply State.pushToken_keeps (hw.sub rfl)
    | with_reducible apply State.spend_keeps (hw.sub rfl) | with_reducible apply State.countOoa_keeps (hw.sub rfl) | with_reducible apply AccAll.map
    | dsimp -zeta only [id]

theorem State.gseTile_keeps {P : State → Prop} (hw : Frees P 0xc0e08007e) (s : State) (k : GCtx) (v : View) (lo : Nat) (hi : Nat) (hs : P s) : AccAll P id (State.gseTile s k v lo hi) := by
  unfold State.gseTile
  have x := ()
  repeat' first
    | with_reducible intro _
    | (extract_lets +onlyGivenNames x; (fail_if_success clear x); first | (refine Keep.cut (P := P) (v := x) ?_ ?_; unfold x; clear x; rotate_left; intro hx; clear_value x) | clear_value x)
    | with_reducible assumption | with_reducible apply State.gsePush_keeps (hw.sub rfl) | with_reducible apply State.storeMasked_keeps (hw.sub rfl)
    | with_reducible apply State.recordTile_keeps (hw.sub rfl) | with_reducible apply State.setGse_keeps (hw.sub rfl)
    | with_reducible apply State.updUnit_keeps (hw.sub rfl) | with_reducible apply AccAll.map | with_reducible apply AccAll.ok
    | with_reducible apply AccAll.bind | with_reducible refine AccAll.getId ?_ ‹_ = Acc.ok _› | split | dsimp -zeta only [id]

theorem State.gseBetween_keeps {P : State → Prop} (hw : Frees P 0x20d8e7dfffe) (s : State) (k : GCtx) (v : View) (total : Nat) (hs : P s) : P (State.gseBetween s k v total).1 := by
  unfold State.gseBetween
  have x := ()
  repeat' first
    | with_reducible intro _
    | (extract_lets +onlyGivenNames x; (fail_if_success clear x); first | (refine Keep.cut (P := P) (v := x) ?_ ?_; unfold x; clear x; rotate_left; intro hx; clear_value x) | clear_value x)
    | with_reducible assumption | with_reducible apply State.gseTile_keeps (hw.sub rfl) | with_reducible apply State.gseDone_keeps (hw.sub rfl)
    | with_reducible apply State.setRun_keeps (hw.sub rfl) | with_reducible apply State.setWait_keeps (hw.sub rfl)
    | with_reducible apply State.on_keeps (hw.sub rfl) | with_reducible refine AccAll.getId ?_ ‹_ = Acc.ok _› | split

theorem State.gseCommit_keeps {P : State → Prop} (hw : Frees P 0x10) (k : GCtx) (o : GOut) (ho : P o.s) : P (State.gseCommit k o) := by
  unfold State.gseCommit
  repeat' first
    | with_reducible assumption | with_reducible apply State.countOoa_keeps (hw.sub rfl) | with_reducible apply State.orLanes_keeps (hw.sub rfl)
    | with_reducible apply State.updUnit_keeps (hw.sub rfl)

theorem State.unitActs_keeps {P : State → Prop} (hw : Frees P 0x0) (s : State) (x : Nat) (late : Bool) (f : Job → Cmd → State) (hs : P s) (hf : ∀ (y0 : Job) (y1 : Cmd), P (f y0 y1)) : P (State.unitActs s x late f) := by
  unfold State.unitActs
  have x := ()
  repeat' first
    | with_reducible intro _ | (extract_lets +onlyGivenNames x; (fail_if_success clear x); clear_value x) | with_reducible assumption
    | with_reducible apply State.withUnitJob_keeps (hw.sub rfl) | with_reducible apply hf | split

theorem State.unitWorks_keeps {P : State → Prop} (hw : Frees P 0x0) (s : State) (x : Nat) (f : Job → Cmd → State) (hs : P s) (hf : ∀ (y0 : Job) (y1 : Cmd), P (f y0 y1)) : P (State.unitWorks s x f) := by
  unfold State.unitWorks
  repeat' first
    | with_reducible intro _ | with_reducible assumption | with_reducible apply State.unitActs_keeps (hw.sub rfl) | with_reducible apply hf

theorem State.gseRun_keeps {P : State → Prop} (hw : Frees P 0x0) (s : State) (die : Fin 24) (op : Nat) (f : GCtx → State) (hs : P s) (hf : ∀ (y0 : GCtx), P (f y0)) : P (State.gseRun s die op f) := by
  unfold State.gseRun
  have x := ()
  repeat' first
    | with_reducible intro _ | (extract_lets +onlyGivenNames x; (fail_if_success clear x); clear_value x) | with_reducible assumption
    | with_reducible apply State.unitWorks_keeps (hw.sub rfl) | with_reducible apply hf | split

theorem State.gseSteps_keeps {P : State → Prop} (hw : Frees P 0x20d8e7dfffe) (s : State) (k : GCtx) (v : View) (total : Nat) (f : State → Nat → Acc GOut) (x5 : Nat) (hs : P s) (hf : ∀ (y0 : State) (y1 : Nat), P y0 → AccAll P GOut.s (f y0 y1)) : P (State.gseSteps s k v total f x5) := by
  induction x5 generalizing s k v total with
  | zero =>
    unfold State.gseSteps
    have x := ()
    repeat' first
      | with_reducible assumption | with_reducible apply State.gseBetween_keeps (hw.sub rfl)
  | succ n ih =>
    unfold State.gseSteps
    have x := ()
    repeat' first
      | with_reducible intro _
      | (extract_lets +onlyGivenNames x; (fail_if_success clear x); refine Keep.cutFst (P := P) (v := x) ?_ ?_; unfold x; clear x; rotate_left; intro hx; clear_value x)
      | with_reducible assumption | with_reducible apply ih | with_reducible apply State.gseCommit_keeps (hw.sub rfl)
      | with_reducible apply State.gseBetween_keeps (hw.sub rfl) | with_reducible apply State.on_keeps (hw.sub rfl) | with_reducible apply hf
      | with_reducible refine AccAll.getGOut ?_ ‹_ = Acc.ok _› | split

theorem State.haloPackets_keeps {P : State → Prop} (hw : Frees P 0x400a00010) (s : State) (j : Job) (port : Nat) (handle : U16) (hops : BitVec 5) (off : Nat) (x6 : Nat) (x7 : List Byte) (hs : P s) : P (State.haloPackets s j port handle hops off x6 x7) := by
  induction x6 generalizing s j port handle hops off x7 with
  | zero =>
    unfold State.haloPackets
    have x := ()
    repeat' first
      | with_reducible assumption
  | succ n ih =>
    unfold State.haloPackets
    have x := ()
    repeat' first
      | (extract_lets +onlyGivenNames x; (fail_if_success clear x); clear_value x) | with_reducible assumption | with_reducible apply ih
      | with_reducible apply State.originate_keeps (hw.sub rfl)

theorem State.readAhead_keeps {P : State → Prop} (hw : Frees P 0x408000000) (s : State) (j : Job) (stream : Nat) (c : Nat) (g : Nat) (hs : P s) : P (State.readAhead s j stream c g) := by
  unfold State.readAhead
  have x := ()
  repeat' first
    | (extract_lets +onlyGivenNames x; (fail_if_success clear x); clear_value x) | with_reducible assumption
    | with_reducible apply State.setCxl_keeps (hw.sub rfl) | with_reducible apply State.cntAdd_keeps (hw.sub rfl) | split

theorem State.issueCxl_keeps {P : State → Prop} (hw : Frees P 0x408000000) (s : State) (w : Who) (j : Job) (c : Nat) (a : Nat) (write : Bool) (hs : P s) : P (State.issueCxl s w j c a write) := by
  unfold State.issueCxl
  have x := ()
  repeat' first
    | (extract_lets +onlyGivenNames x; (fail_if_success clear x); first | (refine Keep.cut (P := P) (v := x) ?_ ?_; unfold x; clear x; rotate_left; intro hx; clear_value x) | clear_value x)
    | with_reducible assumption | with_reducible apply State.readAhead_keeps (hw.sub rfl) | with_reducible apply State.dropAhead_keeps (hw.sub rfl)
    | with_reducible apply State.updCxl_keeps (hw.sub rfl) | split

theorem State.jobReason_keeps {P : State → Prop} (hw : Frees P 0x200000) (s : State) (jid : U64) (code : Nat) (hs : P s) : P (State.jobReason s jid code) := by
  unfold State.jobReason
  repeat' first
    | with_reducible assumption | with_reducible apply State.updJob_keeps (hw.sub rfl)

theorem State.joinSet_keeps {P : State → Prop} (hw : Frees P 0x8000000) (s : State) (h : Hdm) (hs : P s) : P (State.joinSet s h) := by
  unfold State.joinSet
  have x := ()
  repeat' first
    | with_reducible intro _ | (extract_lets +onlyGivenNames x; (fail_if_success clear x); clear_value x) | with_reducible assumption
    | with_reducible apply State.updCxl_keeps (hw.sub rfl) | with_reducible apply Keep.foldl | split

theorem State.landCredit_keeps {P : State → Prop} (hw : Frees P 0x30) (s : State) (k : Nat) (hs : P s) : P (State.landCredit s k) := by
  unfold State.landCredit
  have x := ()
  repeat' first
    | (extract_lets +onlyGivenNames x; (fail_if_success clear x); clear_value x) | with_reducible assumption
    | with_reducible apply State.setQueue_keeps (hw.sub rfl) | with_reducible apply State.updUnit_keeps (hw.sub rfl) | split

theorem State.landCredits_keeps {P : State → Prop} (hw : Frees P 0x30) (s : State) (k : Nat) (x2 : Nat) (hs : P s) : P (State.landCredits s k x2) := by
  induction x2 generalizing s k with
  | zero =>
    unfold State.landCredits
    repeat' first
      | with_reducible assumption
  | succ n ih =>
    unfold State.landCredits
    repeat' first
      | with_reducible assumption | with_reducible apply ih | with_reducible apply State.landCredit_keeps (hw.sub rfl)

theorem State.landTokens_keeps {P : State → Prop} (hw : Frees P 0x60) (s : State) (keys : List Nat) (hs : P s) : P (State.landTokens s keys) := by
  unfold State.landTokens
  have x := ()
  repeat' first
    | with_reducible intro _
    | (extract_lets +onlyGivenNames x; (fail_if_success clear x); first | (refine Keep.cut (P := P) (v := x) ?_ ?_; unfold x; clear x; rotate_left; intro hx; clear_value x) | (refine Keep.cutFunSB (P := P) (v := x) ?_ ?_; unfold x; clear x; rotate_left; intro hx; clear_value x) | clear_value x)
    | with_reducible assumption | with_reducible apply State.setQueue_keeps (hw.sub rfl)
    | (with_reducible apply hw.chans rfl; with_reducible assumption) | with_reducible apply ‹∀ _ _, P _ → P _› | with_reducible apply Keep.foldl

theorem State.landAll_keeps {P : State → Prop} (hw : Frees P 0x70) (s : State) (keys : List Nat) (hs : P s) : P (State.landAll s keys) := by
  unfold State.landAll
  repeat' first
    | with_reducible intro _ | with_reducible assumption | with_reducible apply State.landTokens_keeps (hw.sub rfl)
    | with_reducible apply State.landCredits_keeps (hw.sub rfl) | with_reducible apply Keep.foldl

theorem State.latchFor_keeps {P : State → Prop} (hw : Frees P 0xd807dfff4) (s : State) (x : Nat) (w : Who) (c : Cmd) (k : BlockCtx) (t : MxeTile) (long : U16) (f : State → WBlock → State) (hs : P s) (hf : ∀ (y0 : State) (y1 : WBlock), P y0 → P (f y0 y1)) : P (State.latchFor s x w c k t long f) := by
  unfold State.latchFor
  have x := ()
  repeat' first
    | with_reducible intro _ | (extract_lets +onlyGivenNames x; (fail_if_success clear x); clear_value x) | with_reducible assumption
    | with_reducible apply State.beginPass_keeps (hw.sub rfl) | with_reducible apply State.on_keeps (hw.sub rfl)
    | with_reducible apply State.setEng_keeps (hw.sub rfl) | with_reducible apply hf | split

theorem State.lateCxl_keeps {P : State → Prop} (hw : Frees P 0x8200000) (s : State) (c : Nat) (r : CxlReq) (ns : Nat) (hs : P s) : P (State.lateCxl s c r ns) := by
  unfold State.lateCxl
  have x := ()
  repeat' first
    | (extract_lets +onlyGivenNames x; (fail_if_success clear x); first | (refine Keep.cut (P := P) (v := x) ?_ ?_; unfold x; clear x; rotate_left; intro hx; clear_value x) | clear_value x)
    | with_reducible assumption | with_reducible apply State.setCxl_keeps (hw.sub rfl) | with_reducible apply State.updJob_keeps (hw.sub rfl) | split

theorem State.leaves_keeps {P : State → Prop} (hw : Frees P 0x200000) (s : State) (j : Job) (q : PlanPkt) (hs : P s) : P (State.leaves s j q) := by
  unfold State.leaves
  repeat' first
    | with_reducible assumption | with_reducible apply State.updJob_keeps (hw.sub rfl) | split

theorem State.liveMarks_keeps {P : State → Prop} (hw : Frees P 0xd807dfff4) (s : State) (j : Job) (m : MarkSt) (hs : P s) : P (State.liveMarks s j m) := by
  unfold State.liveMarks
  repeat' first
    | with_reducible intro _ | with_reducible assumption | with_reducible apply State.askDecant_keeps (hw.sub rfl) | with_reducible apply Keep.foldl
    | split

theorem State.pushMoved_keeps {P : State → Prop} (hw : Frees P 0x20000000070) (s : State) (x : Nat) (c : Cmd) (refs : Bool → BitVec 448) (x4 : List Nat) (hs : P s) : P (State.pushMoved s x c refs x4) := by
  induction x4 generalizing s x c with
  | nil =>
    unfold State.pushMoved
    repeat' first
      | with_reducible assumption | with_reducible apply State.updUnit_keeps (hw.sub rfl)
  | cons e t ih =>
    unfold State.pushMoved
    repeat' first
      | with_reducible assumption | with_reducible apply ih | with_reducible apply State.pushOwed_keeps (hw.sub rfl)
      | with_reducible apply State.pushToken_keeps (hw.sub rfl) | with_reducible apply State.tickFresh_keeps (hw.sub rfl) | split

theorem State.moverDone_keeps {P : State → Prop} (hw : Frees P 0x20d807dfff4) (s : State) (x : Nat) (w : Who) (c : Cmd) (sv : View) (sr : Region) (dst : Option (View × Region)) (finish : State → State) (hs : P s) (hfinish : ∀ (y0 : State), P y0 → P (finish y0)) : P (State.moverDone s x w c sv sr dst finish) := by
  unfold State.moverDone
  have x := ()
  repeat' first
    | with_reducible intro _
    | (extract_lets +onlyGivenNames x; (fail_if_success clear x); first | (refine Keep.cut (P := P) (v := x) ?_ ?_; unfold x; clear x; rotate_left; intro hx; clear_value x) | clear_value x)
    | with_reducible assumption | with_reducible apply State.pushMoved_keeps (hw.sub rfl) | with_reducible apply State.workDone_keeps (hw.sub rfl)
    | with_reducible apply State.on_keeps (hw.sub rfl) | with_reducible apply hfinish

theorem State.lmvDone_keeps {P : State → Prop} (hw : Frees P 0x20d807dfff4) (s : State) (x : Nat) (j : Job) (c : Cmd) (sv : View) (dv : View) (sr : Region) (dr : Region) (hs : P s) : P (State.lmvDone s x j c sv dv sr dr) := by
  unfold State.lmvDone
  have x := ()
  repeat' first
    | with_reducible intro _ | (extract_lets +onlyGivenNames x; (fail_if_success clear x); clear_value x) | with_reducible assumption
    | with_reducible apply State.moverDone_keeps (hw.sub rfl) | with_reducible apply State.recordTile_keeps (hw.sub rfl)
    | with_reducible apply State.setDec_keeps (hw.sub rfl) | with_reducible apply State.updUnit_keeps (hw.sub rfl)

theorem State.lmvMx_keeps {P : State → Prop} (hw : Frees P 0xc0e04001e) (s : State) (x : Nat) (w : Who) (j : Job) (pass : Nat) (sv : View) (dv : View) (tile : Nat) (cols : Nat) (ps : List (List Int × List Int)) (hs : P s) : AccAll P id (State.lmvMx s x w j pass sv dv tile cols ps) := by
  unfold State.lmvMx
  have x := ()
  repeat' first
    | with_reducible intro _ | (extract_lets +onlyGivenNames x; (fail_if_success clear x); clear_value x) | with_reducible assumption
    | with_reducible apply State.storeMx_keeps (hw.sub rfl) | with_reducible apply State.countOoa_keeps (hw.sub rfl)
    | with_reducible apply State.orLanes_keeps (hw.sub rfl) | with_reducible apply State.setDec_keeps (hw.sub rfl)
    | with_reducible apply State.updUnit_keeps (hw.sub rfl) | with_reducible apply AccAll.map | with_reducible apply AccAll.bind
    | with_reducible refine AccAll.getId ?_ ‹_ = Acc.ok _› | split | dsimp -zeta only [id]

theorem State.loadK_keeps {P : State → Prop} (hw : Frees P 0x4000) (s : State) (x : Nat) (body : BitVec 512) (hs : P s) : P (State.loadK s x body) := by
  unfold State.loadK
  repeat' first
    | with_reducible intro _ | with_reducible assumption | with_reducible apply State.setVreg_keeps (hw.sub rfl) | with_reducible apply Keep.foldl

theorem State.loadOther_keeps {P : State → Prop} (hw : Frees P 0x1000) (s : State) (x : Nat) (w : Who) (j : Job) (c : Cmd) (k : BlockCtx) (t : MxeTile) (hs : P s) : P (State.loadOther s x w j c k t) := by
  unfold State.loadOther
  have x := ()
  repeat' first
    | (extract_lets +onlyGivenNames x; (fail_if_success clear x); clear_value x) | with_reducible assumption
    | with_reducible apply State.setEng_keeps (hw.sub rfl)

theorem State.loadQueues_keeps {P : State → Prop} (hw : Frees P 0x30) (s : State) (x1 : List QDecl) (hs : P s) : P (State.loadQueues s x1) := by
  induction x1 generalizing s with
  | nil =>
    unfold State.loadQueues
    repeat' first
      | with_reducible assumption
  | cons e t ih =>
    unfold State.loadQueues
    repeat' first
      | with_reducible assumption | with_reducible apply ih | with_reducible apply State.configure_keeps (hw.sub rfl)
      | with_reducible apply State.setQueue_keeps (hw.sub rfl)

theorem State.loadUnit_keeps {P : State → Prop} (hw : Frees P 0x500070110) (s : State) (jid : U64) (p : UnitProg) (fresh : Bool) (period : Nat) (hs : P s) : P (State.loadUnit s jid p fresh period) := by
  unfold State.loadUnit
  have x := ()
  repeat' first
    | (extract_lets +onlyGivenNames x; (fail_if_success clear x); first | (refine Keep.cut (P := P) (v := x) ?_ ?_; unfold x; clear x; rotate_left; intro hx; clear_value x) | clear_value x)
    | with_reducible assumption | with_reducible apply State.setRecipe_keeps (hw.sub rfl) | with_reducible apply State.setRun_keeps (hw.sub rfl)
    | with_reducible apply State.setVx_keeps (hw.sub rfl) | with_reducible apply State.setDec_keeps (hw.sub rfl)
    | with_reducible apply State.setUnit_keeps (hw.sub rfl) | with_reducible apply State.setWatch_keeps (hw.sub rfl) | split

theorem State.loadUnits_keeps {P : State → Prop} (hw : Frees P 0x500070110) (s : State) (jid : U64) (fresh : Bool) (period : Nat) (x4 : List UnitProg) (hs : P s) : P (State.loadUnits s jid fresh period x4) := by
  induction x4 generalizing s jid fresh period with
  | nil =>
    unfold State.loadUnits
    repeat' first
      | with_reducible assumption
  | cons e t ih =>
    unfold State.loadUnits
    repeat' first
      | with_reducible assumption | with_reducible apply ih | with_reducible apply State.loadUnit_keeps (hw.sub rfl)

theorem State.lostPieces_keeps {P : State → Prop} (hw : Frees P 0x1) (s : State) (lost : Bool) (hs : P s) : P (State.lostPieces s lost) := by
  unfold State.lostPieces
  repeat' first
    | with_reducible assumption | with_reducible apply State.setTime_keeps (hw.sub rfl) | split

theorem State.secCmd_keeps {P : State → Prop} (hw : Frees P 0x0) (s : State) (g : State → State) (hs : P s) (hg : ∀ (y0 : State), P y0 → P (g y0)) : P (State.secCmd s g) := by
  unfold State.secCmd
  repeat' first
    | with_reducible assumption | with_reducible apply hg | split

theorem State.privileged_keeps {P : State → Prop} (hw : Frees P 0x600000000) (s : State) (f : Func) (g : State → State) (hs : P s) (hg : ∀ (y0 : State), P y0 → P (g y0)) : P (State.privileged s f g) := by
  unfold State.privileged
  repeat' first
    | with_reducible assumption | with_reducible apply State.deny_keeps (hw.sub rfl) | with_reducible apply hg | split

theorem State.mailbox_keeps {P : State → Prop} (hw : Frees P 0xe00000000) (s : State) (f : Func) (g : State → State) (hs : P s) (hg : ∀ (y0 : State), P y0 → P (g y0)) : OutAll P (State.mailbox s f g) := by
  unfold State.mailbox
  repeat' first
    | with_reducible intro _ | with_reducible assumption | with_reducible apply State.privileged_keeps (hw.sub rfl)
    | with_reducible apply State.secCmd_keeps (hw.sub rfl) | with_reducible apply State.exchange_keeps (hw.sub rfl)
    | with_reducible apply State.ran_keeps (hw.sub rfl) | with_reducible apply hg

theorem State.miscorrect_keeps {P : State → Prop} (hw : Frees P 0xa) (s : State) (burst : Nat) (e : EccErr) (hs : P s) : P (State.miscorrect s burst e) := by
  unfold State.miscorrect
  repeat' first
    | with_reducible assumption | with_reducible apply State.putBytes_keeps (hw.sub rfl)

theorem State.uncorrectable_keeps {P : State → Prop} (hw : Frees P 0x506000004) (s : State) (a : Nat) (hs : P s) : P (State.uncorrectable s a) := by
  unfold State.uncorrectable
  have x := ()
  repeat' first
    | (extract_lets +onlyGivenNames x; (fail_if_success clear x); first | (refine Keep.cut (P := P) (v := x) ?_ ?_; unfold x; clear x; rotate_left; intro hx; clear_value x) | clear_value x)
    | with_reducible assumption | with_reducible apply State.setPoison_keeps (hw.sub rfl) | with_reducible apply State.updDev_keeps (hw.sub rfl)
    | with_reducible apply State.event_keeps (hw.sub rfl) | with_reducible apply State.cntAdd_keeps (hw.sub rfl)

theorem State.meet_keeps {P : State → Prop} (hw : Frees P 0x50600000e) (s : State) (a : Nat) (e : EccErr) (scrub : Bool) (hs : P s) : P (State.meet s a e scrub) := by
  unfold State.meet
  repeat' first
    | with_reducible assumption | with_reducible apply State.uncorrectable_keeps (hw.sub rfl)
    | with_reducible apply State.miscorrect_keeps (hw.sub rfl) | with_reducible apply State.correct_keeps (hw.sub rfl) | split

theorem State.moduleReset_keeps {P : State → Prop} (hw : Frees P 0x4000000000) (s : State) (hs : P s) : P (State.moduleReset s) := by
  unfold State.moduleReset
  repeat' first
    | with_reducible assumption | with_reducible apply State.secDone_keeps (hw.sub rfl) | with_reducible apply State.secBang_keeps (hw.sub rfl)

theorem State.moveElem_keeps {P : State → Prop} (hw : Frees P 0x20c0e00000e) (s : State) (w : Who) (sv : View) (dv : View) (conv : Rd → Conv) (p : List Int × List Int) (hs : P s) : AccAll P MoveOut.s (State.moveElem s w sv dv conv p) := by
  unfold State.moveElem
  have x := ()
  repeat' first
    | with_reducible intro _ | (extract_lets +onlyGivenNames x; (fail_if_success clear x); clear_value x) | with_reducible assumption
    | with_reducible apply State.tickFresh_keeps (hw.sub rfl) | with_reducible apply State.storeView_keeps (hw.sub rfl)
    | with_reducible apply AccAll.map | with_reducible apply AccAll.ok | with_reducible apply AccAll.bind
    | with_reducible refine AccAll.getId ?_ ‹_ = Acc.ok _› | split

theorem State.moveFrom_keeps {P : State → Prop} (hw : Frees P 0x20d8e7dfffe) (s : State) (x : Nat) (w : Who) (sv : View) (dv : View) (conv : Nat → Rd → Conv) (srCnt : Nat) (cols : Nat) (x8 : Nat) (x9 : List (List Int × List Int)) (hs : P s) : P (State.moveFrom s x w sv dv conv srCnt cols x8 x9).1 := by
  induction x9 generalizing s x w sv dv srCnt cols x8 with
  | nil =>
    unfold State.moveFrom
    have x := ()
    repeat' first
      | with_reducible assumption
  | cons e t ih =>
    unfold State.moveFrom
    have x := ()
    repeat' first
      | (extract_lets +onlyGivenNames x; (fail_if_success clear x); refine Keep.cut (P := P) (v := x) ?_ ?_; unfold x; clear x; rotate_left; intro hx; clear_value x)
      | with_reducible assumption | with_reducible apply ih | with_reducible apply State.moveElem_keeps (hw.sub rfl)
      | with_reducible apply State.setWait_keeps (hw.sub rfl) | with_reducible apply State.countOoa_keeps (hw.sub rfl)
      | with_reducible apply State.orLanes_keeps (hw.sub rfl) | with_reducible apply State.streamFault_keeps (hw.sub rfl)
      | with_reducible apply State.accessed_keeps (hw.sub rfl) | with_reducible apply State.updUnit_keeps (hw.sub rfl)
      | with_reducible refine AccAll.getMove ?_ ‹_ = Acc.ok _› | split

theorem State.mxeDrain_keeps {P : State → Prop} (hw : Frees P 0x20d8e7dfffe) (s : State) (x : Nat) (j : Job) (c : Cmd) (k : DecCtx) (q : Nat) (t : Token) (hs : P s) : P (State.mxeDrain s x j c k q t) := by
  unfold State.mxeDrain
  have x := ()
  repeat' first
    | (extract_lets +onlyGivenNames x; (fail_if_success clear x); first | (refine Keep.cut (P := P) (v := x) ?_ ?_; unfold x; clear x; rotate_left; intro hx; clear_value x) | clear_value x)
    | with_reducible assumption | with_reducible apply State.decantTile_keeps (hw.sub rfl) | with_reducible apply State.pushAll_keeps (hw.sub rfl)
    | with_reducible apply State.setWait_keeps (hw.sub rfl) | with_reducible apply State.popQueue_keeps (hw.sub rfl)
    | with_reducible apply State.liveDecant_keeps (hw.sub rfl) | with_reducible apply State.setDec_keeps (hw.sub rfl) | split

theorem State.reportEmax_keeps {P : State → Prop} (hw : Frees P 0x200000) (s : State) (j : Job) (k : MxeCtx) (e : Option Int) (hs : P s) : P (State.reportEmax s j k e) := by
  unfold State.reportEmax
  repeat' first
    | with_reducible assumption | with_reducible apply State.updJob_keeps (hw.sub rfl) | split

theorem State.passEnd_keeps {P : State → Prop} (hw : Frees P 0x20d807dfff4) (s : State) (x : Nat) (j : Job) (k : MxeCtx) (hs : P s) : P (State.passEnd s x j k) := by
  unfold State.passEnd
  have x := ()
  repeat' first
    | (extract_lets +onlyGivenNames x; (fail_if_success clear x); first | (refine Keep.cut (P := P) (v := x) ?_ ?_; unfold x; clear x; rotate_left; intro hx; clear_value x) | clear_value x)
    | with_reducible assumption | with_reducible apply State.reportEmax_keeps (hw.sub rfl) | with_reducible apply State.setDir_keeps (hw.sub rfl)
    | with_reducible apply State.workDone_keeps (hw.sub rfl) | with_reducible apply State.updUnit_keeps (hw.sub rfl)
    | with_reducible apply State.setTile_keeps (hw.sub rfl) | split

theorem State.mxeEnter_keeps {P : State → Prop} (hw : Frees P 0x20d807dfff4) (s : State) (x : Nat) (j : Job) (c : Cmd) (k : MxeCtx) (hs : P s) : P (State.mxeEnter s x j c k) := by
  unfold State.mxeEnter
  have x := ()
  repeat' first
    | with_reducible intro _
    | (extract_lets +onlyGivenNames x; (fail_if_success clear x); first | (refine Keep.cut (P := P) (v := x) ?_ ?_; unfold x; clear x; rotate_left; intro hx; clear_value x) | clear_value x)
    | with_reducible assumption | with_reducible apply State.passEnd_keeps (hw.sub rfl) | with_reducible apply State.loadOther_keeps (hw.sub rfl)
    | with_reducible apply State.latchFor_keeps (hw.sub rfl) | with_reducible apply State.fileFull_keeps (hw.sub rfl)
    | with_reducible apply State.setRun_keeps (hw.sub rfl) | with_reducible apply State.countOoa_keeps (hw.sub rfl)
    | with_reducible apply State.orLanes_keeps (hw.sub rfl) | with_reducible apply State.on_keeps (hw.sub rfl)
    | with_reducible apply State.setEng_keeps (hw.sub rfl) | with_reducible apply State.updUnit_keeps (hw.sub rfl)
    | with_reducible apply State.setTile_keeps (hw.sub rfl) | split

theorem State.writeBackRow_keeps {P : State → Prop} (hw : Frees P 0xc0e00000e) (s : State) (w : Who) (k : MxeCtx) (u : UnitSt) (t : MxeTile) (r : Nat) (accs : List LAcc) (hs : P s) : AccAll P Prod.fst (State.writeBackRow s w k u t r accs) := by
  unfold State.writeBackRow
  have x := ()
  repeat' first
    | with_reducible intro _
    | (extract_lets +onlyGivenNames x; (fail_if_success clear x); first | (refine AccAll.cut (P := P) (v := x) ?_ ?_; unfold x; clear x; rotate_left; intro hx; clear_value x) | clear_value x)
    | with_reducible assumption | with_reducible apply State.storeView_keeps (hw.sub rfl) | with_reducible apply AccAll.map
    | with_reducible apply AccAll.ok | with_reducible refine AccAll.getId ?_ ‹_ = Acc.ok _› | split | dsimp -zeta only [id]

theorem State.mxeFlush_keeps {P : State → Prop} (hw : Frees P 0x20d8e7dfffe) (s : State) (x : Nat) (j : Job) (k : MxeCtx) (hs : P s) : P (State.mxeFlush s x j k) := by
  unfold State.mxeFlush
  repeat' first
    | with_reducible intro _ | with_reducible assumption | with_reducible apply State.writeBackRow_keeps (hw.sub rfl)
    | with_reducible apply State.passEnd_keeps (hw.sub rfl) | with_reducible apply State.countOoa_keeps (hw.sub rfl)
    | with_reducible apply State.orLanes_keeps (hw.sub rfl) | with_reducible apply State.on_keeps (hw.sub rfl)
    | with_reducible apply State.setTile_keeps (hw.sub rfl) | with_reducible refine AccAll.getFst ?_ ‹_ = Acc.ok _› | split

theorem State.mxeRow_keeps {P : State → Prop} (hw : Frees P 0x20d8e7dfffe) (s : State) (x : Nat) (j : Job) (c : Cmd) (k : MxeCtx) (hs : P s) : P (State.mxeRow s x j c k) := by
  unfold State.mxeRow
  repeat' first
    | with_reducible assumption | with_reducible apply State.mxeFlush_keeps (hw.sub rfl) | with_reducible apply State.mxeEnter_keeps (hw.sub rfl)

theorem State.mxeRows_keeps {P : State → Prop} (hw : Frees P 0x20d8e7dfffe) (s : State) (x : Nat) (j : Job) (c : Cmd) (k : MxeCtx) (x5 : Nat) (hs : P s) : P (State.mxeRows s x j c k x5) := by
  induction x5 generalizing s x j c k with
  | zero =>
    unfold State.mxeRows
    repeat' first
      | with_reducible assumption
  | succ n ih =>
    unfold State.mxeRows
    repeat' first
      | with_reducible assumption | with_reducible apply ih | with_reducible apply State.mxeRow_keeps (hw.sub rfl)

theorem State.mxeTake_keeps {P : State → Prop} (hw : Frees P 0x500203810) (s : State) (x : Nat) (j : Job) (k : MxeCtx) (hs : P s) : P (State.mxeTake s x j k) := by
  unfold State.mxeTake
  have x := ()
  repeat' first
    | (extract_lets +onlyGivenNames x; (fail_if_success clear x); first | (refine Keep.cut (P := P) (v := x) ?_ ?_; unfold x; clear x; rotate_left; intro hx; clear_value x) | clear_value x)
    | with_reducible assumption | with_reducible apply State.setDir_keeps (hw.sub rfl) | with_reducible apply State.setRun_keeps (hw.sub rfl)
    | with_reducible apply State.setWait_keeps (hw.sub rfl) | with_reducible apply State.updJob_keeps (hw.sub rfl)
    | with_reducible apply State.setEng_keeps (hw.sub rfl) | with_reducible apply State.updUnit_keeps (hw.sub rfl)
    | with_reducible apply State.setTile_keeps (hw.sub rfl) | split

theorem State.nextPeriod_keeps {P : State → Prop} (hw : Frees P 0x200200) (s : State) (j : Job) (hs : P s) : P (State.nextPeriod s j) := by
  unfold State.nextPeriod
  have x := ()
  repeat' first
    | (extract_lets +onlyGivenNames x; (fail_if_success clear x); clear_value x) | with_reducible assumption
    | with_reducible apply State.updJob_keeps (hw.sub rfl) | with_reducible apply State.addMarks_keeps (hw.sub rfl)

theorem State.nfDecision_keeps {P : State → Prop} (hw : Frees P 0x5807dfff4) (s : State) (j : Job) (hs : P s) : P (State.nfDecision s j) := by
  unfold State.nfDecision
  have x := ()
  repeat' first
    | (extract_lets +onlyGivenNames x; (fail_if_success clear x); first | (refine Keep.cut (P := P) (v := x) ?_ ?_; unfold x; clear x; rotate_left; intro hx; clear_value x) | clear_value x)
    | with_reducible assumption | with_reducible apply State.jobFault_keeps (hw.sub rfl) | with_reducible apply State.updJob_keeps (hw.sub rfl)
    | with_reducible apply State.event_keeps (hw.sub rfl) | split

theorem State.portDown_keeps {P : State → Prop} (hw : Frees P 0x500a00004) (s : State) (p : Nat) (cause : Nat) (hs : P s) : P (State.portDown s p cause) := by
  unfold State.portDown
  have x := ()
  repeat' first
    | with_reducible intro _
    | (extract_lets +onlyGivenNames x; (fail_if_success clear x); first | (refine Keep.cut (P := P) (v := x) ?_ ?_; unfold x; clear x; rotate_left; intro hx; clear_value x) | clear_value x)
    | with_reducible assumption | with_reducible apply State.returnDown_keeps (hw.sub rfl) | with_reducible apply State.noteDown_keeps (hw.sub rfl)
    | with_reducible apply State.linkDownEvent_keeps (hw.sub rfl) | with_reducible apply State.setPort_keeps (hw.sub rfl)
    | with_reducible apply State.cntAdd_keeps (hw.sub rfl) | with_reducible apply Keep.foldl | split

theorem State.nlDisable_keeps {P : State → Prop} (hw : Frees P 0x500a00004) (s : State) (p : Nat) (hs : P s) : P (State.nlDisable s p) := by
  unfold State.nlDisable
  repeat' first
    | with_reducible assumption | with_reducible apply State.portDown_keeps (hw.sub rfl) | with_reducible apply State.updPort_keeps (hw.sub rfl)

theorem State.nlEnable_keeps {P : State → Prop} (hw : Frees P 0x800000) (s : State) (p : Nat) (hs : P s) : P (State.nlEnable s p) := by
  unfold State.nlEnable
  repeat' first
    | with_reducible assumption | with_reducible apply State.updPort_keeps (hw.sub rfl)

theorem State.nlRetrain_keeps {P : State → Prop} (hw : Frees P 0x500a00004) (s : State) (p : Nat) (hs : P s) : P (State.nlRetrain s p) := by
  unfold State.nlRetrain
  repeat' first
    | with_reducible assumption | with_reducible apply State.portDown_keeps (hw.sub rfl) | split

theorem State.openLayer_keeps {P : State → Prop} (hw : Frees P 0x200000) (s : State) (jid : U64) (l : Nat) (hs : P s) : P (State.openLayer s jid l) := by
  unfold State.openLayer
  have x := ()
  repeat' first
    | with_reducible intro _ | (extract_lets +onlyGivenNames x; (fail_if_success clear x); clear_value x) | with_reducible assumption
    | with_reducible apply State.updJob_keeps (hw.sub rfl) | with_reducible apply State.withJob_keeps (hw.sub rfl) | split

theorem State.stepPlan_keeps {P : State → Prop} (hw : Frees P 0x200000) (s : State) (jid : U64) (p : Nat) (ch : Nat) (at_ : Nat) (hs : P s) : P (State.stepPlan s jid p ch at_) := by
  unfold State.stepPlan
  repeat' first
    | with_reducible assumption | with_reducible apply State.updJob_keeps (hw.sub rfl)

theorem State.originateExchange_keeps {P : State → Prop} (hw : Frees P 0xd8efdfffe) (s : State) (j : Job) (p : Nat) (q : PlanPkt) (at_ : Nat) (hs : P s) : P (State.originateExchange s j p q at_) := by
  unfold State.originateExchange
  have x := ()
  repeat' first
    | with_reducible intro _
    | (extract_lets +onlyGivenNames x; (fail_if_success clear x); first | (refine Keep.cut (P := P) (v := x) ?_ ?_; unfold x; clear x; rotate_left; intro hx; clear_value x) | (refine Keep.cutFun2 (P := P) (v := x) ?_ ?_; unfold x; clear x; rotate_left; intro hx; clear_value x) | clear_value x)
    | with_reducible assumption | with_reducible apply State.stepPlan_keeps (hw.sub rfl) | with_reducible apply State.leaves_keeps (hw.sub rfl)
    | with_reducible apply State.dmxFlags_keeps (hw.sub rfl) | with_reducible apply State.originate_keeps (hw.sub rfl)
    | with_reducible apply State.deliverBlocks_keeps (hw.sub rfl) | with_reducible apply State.on_keeps (hw.sub rfl)
    | with_reducible apply State.withJob_keeps (hw.sub rfl) | with_reducible apply ‹∀ _ _, P _› | split

theorem State.passOn_keeps {P : State → Prop} (hw : Frees P 0x400a00010) (s : State) (p : Nat) (k : Packet) (hs : P s) : P (State.passOn s p k) := by
  unfold State.passOn
  repeat' first
    | with_reducible assumption | with_reducible apply State.stepPlan_keeps (hw.sub rfl) | with_reducible apply State.forward_keeps (hw.sub rfl)
    | split

theorem State.pauseLent_keeps {P : State → Prop} (hw : Frees P 0x500000004) (s : State) (d : DumpSt) (hs : P s) : P (State.pauseLent s d) := by
  unfold State.pauseLent
  have x := ()
  repeat' first
    | with_reducible intro _ | (extract_lets +onlyGivenNames x; (fail_if_success clear x); clear_value x) | with_reducible assumption
    | with_reducible apply State.resourceDenied_keeps (hw.sub rfl) | with_reducible apply Keep.foldl

theorem State.performRead_keeps {P : State → Prop} (hw : Frees P 0xd807dfff4) (s : State) (x : Nat) (sid : U16) (slot : Nat) (hs : P s) : P (State.performRead s x sid slot) := by
  unfold State.performRead
  have x := ()
  repeat' first
    | with_reducible intro _ | (extract_lets +onlyGivenNames x; (fail_if_success clear x); clear_value x) | with_reducible assumption
    | with_reducible apply State.sendReply_keeps (hw.sub rfl) | with_reducible apply State.syncDone_keeps (hw.sub rfl)
    | with_reducible apply State.exchange_keeps (hw.sub rfl) | with_reducible apply State.withUnitJob_keeps (hw.sub rfl)
    | with_reducible apply State.jobFault_keeps (hw.sub rfl) | with_reducible apply State.unavailable_keeps (hw.sub rfl) | split

theorem State.poisonTo_keeps {P : State → Prop} (hw : Frees P 0x5807dfff4) (s : State) (b : Stream) (access : Nat) (a : Nat) (hs : P s) : P (State.poisonTo s b access a) := by
  unfold State.poisonTo
  repeat' first
    | with_reducible assumption | with_reducible apply State.poisonFault_keeps (hw.sub rfl) | split

theorem State.popHeads_keeps {P : State → Prop} (hw : Frees P 0x20) (s : State) (x : Nat) (x2 : List Nat) (hs : P s) : P (State.popHeads s x x2) := by
  induction x2 generalizing s x with
  | nil =>
    unfold State.popHeads
    repeat' first
      | with_reducible assumption
  | cons e t ih =>
    unfold State.popHeads
    repeat' first
      | with_reducible assumption | with_reducible apply ih | with_reducible apply State.popQueue_keeps (hw.sub rfl) | split

theorem State.priFailed_keeps {P : State → Prop} (hw : Frees P 0x5807dfff4) (s : State) (g : FaultSt) (hs : P s) : P (State.priFailed s g) := by
  unfold State.priFailed
  have x := ()
  repeat' first
    | with_reducible intro _ | (extract_lets +onlyGivenNames x; (fail_if_success clear x); clear_value x) | with_reducible assumption
    | with_reducible apply State.streamFault_keeps (hw.sub rfl) | with_reducible apply State.closeFault_keeps (hw.sub rfl)
    | with_reducible apply Keep.foldl | split

theorem State.putList_keeps {P : State → Prop} (hw : Frees P 0xc0e00000e) (s : State) (k : GCtx) (v : Option View) (l : List (Nat × Nat)) (hs : P s) : AccAll P Prod.fst (State.putList s k v l) := by
  unfold State.putList
  repeat' first
    | with_reducible intro _ | with_reducible assumption | with_reducible apply State.storeView_keeps (hw.sub rfl) | with_reducible apply AccAll.map
    | with_reducible apply AccAll.ok | with_reducible apply AccAll.bind | with_reducible refine AccAll.getId ?_ ‹_ = Acc.ok _› | split

theorem State.reachMark_keeps {P : State → Prop} (hw : Frees P 0x500000010) (s : State) (j : Job) (m : MarkSt) (hs : P s) : P (State.reachMark s j m) := by
  unfold State.reachMark
  have x := ()
  repeat' first
    | with_reducible intro _
    | (extract_lets +onlyGivenNames x; (fail_if_success clear x); refine Keep.cut (P := P) (v := x) ?_ ?_; unfold x; clear x; rotate_left; intro hx; clear_value x)
    | with_reducible assumption | with_reducible apply State.jobTrigger_keeps (hw.sub rfl) | with_reducible apply State.traceEv_keeps (hw.sub rfl)
    | with_reducible apply State.updUnit_keeps (hw.sub rfl) | with_reducible apply Keep.foldl | split

theorem State.readDoorbell_keeps {P : State → Prop} (hw : Frees P 0x500000000) (s : State) (ctx : Nat) (hs : P s) : P (State.readDoorbell s ctx) := by
  unfold State.readDoorbell
  repeat' first
    | with_reducible assumption | with_reducible apply State.cntAdd_keeps (hw.sub rfl) | with_reducible apply State.updCtx_keeps (hw.sub rfl)

theorem State.readMaps_keeps {P : State → Prop} (hw : Frees P 0xd807dfff4) (s : State) (x : Nat) (j : Job) (c : Cmd) (hs : P s) : P (State.readMaps s x j c) := by
  unfold State.readMaps
  repeat' first
    | with_reducible intro _ | with_reducible assumption | with_reducible apply State.on_keeps (hw.sub rfl)
    | with_reducible apply State.updUnit_keeps (hw.sub rfl)

theorem State.readWait_keeps {P : State → Prop} (hw : Frees P 0x500000010) (s : State) (x : Nat) (hs : P s) : P (State.readWait s x) := by
  unfold State.readWait
  repeat' first
    | with_reducible assumption | with_reducible apply State.setRun_keeps (hw.sub rfl) | with_reducible apply State.setWait_keeps (hw.sub rfl) | split

theorem State.recordInitial_keeps {P : State → Prop} (hw : Frees P 0xc0e00000e) (s : State) (j : Job) (x2 : List (Nat × Nat)) (hs : P s) : P (State.recordInitial s j x2) := by
  induction x2 generalizing s j with
  | nil =>
    unfold State.recordInitial
    have x := ()
    repeat' first
      | with_reducible assumption
  | cons e t ih =>
    unfold State.recordInitial
    have x := ()
    repeat' first
      | (extract_lets +onlyGivenNames x; (fail_if_success clear x); first | (refine Keep.cut (P := P) (v := x) ?_ ?_; unfold x; clear x; rotate_left; intro hx; clear_value x) | clear_value x)
      | with_reducible assumption | with_reducible apply ih | with_reducible apply State.storeQuiet_keeps (hw.sub rfl)
      | with_reducible apply State.record_keeps (hw.sub rfl) | split

theorem State.recordLrs_keeps {P : State → Prop} (hw : Frees P 0x400000000) (s : State) (x : Nat) (j : Job) (ls : List U32) (hs : P s) : P (State.recordLrs s x j ls) := by
  unfold State.recordLrs
  have x := ()
  repeat' first
    | with_reducible intro _ | (extract_lets +onlyGivenNames x; (fail_if_success clear x); clear_value x) | with_reducible assumption
    | with_reducible apply State.record_keeps (hw.sub rfl) | with_reducible apply Keep.foldl | split

theorem State.recordStep_keeps {P : State → Prop} (hw : Frees P 0x400000000) (s : State) (j : Job) (hs : P s) : P (State.recordStep s j) := by
  unfold State.recordStep
  repeat' first
    | with_reducible assumption | with_reducible apply State.compareStep_keeps (hw.sub rfl) | with_reducible apply State.record_keeps (hw.sub rfl)
    | split

theorem State.recover_keeps {P : State → Prop} (hw : Frees P 0x371a9ff9fe) (s : State) (hs : P s) : P (State.recover s) := by
  unfold State.recover
  have x := ()
  repeat' first
    | (extract_lets +onlyGivenNames x; (fail_if_success clear x); first | (refine Keep.cut (P := P) (v := x) ?_ ?_; unfold x; clear x; rotate_left; intro hx; clear_value x) | clear_value x)
    | with_reducible assumption | with_reducible apply State.setPwr_keeps (hw.sub rfl) | with_reducible apply State.ascend_keeps (hw.sub rfl)

theorem State.stoppedDelivery_keeps {P : State → Prop} (hw : Frees P 0x400000000) (s : State) (p : Nat) (hs : P s) : P (State.stoppedDelivery s p) := by
  unfold State.stoppedDelivery
  repeat' first
    | with_reducible assumption | with_reducible apply State.cntAdd_keeps (hw.sub rfl)

theorem State.reduceWith_keeps {P : State → Prop} (hw : Frees P 0xd8efdfffe) (s : State) (p : Nat) (j : Job) (b : BSpec) (k : Packet) (o : Operand) (hs : P s) : P (State.reduceWith s p j b k o) := by
  unfold State.reduceWith
  have x := ()
  repeat' first
    | (extract_lets +onlyGivenNames x; (fail_if_success clear x); clear_value x) | with_reducible assumption
    | with_reducible apply State.stoppedDelivery_keeps (hw.sub rfl) | with_reducible apply State.passOn_keeps (hw.sub rfl)
    | with_reducible apply State.deliverBlocks_keeps (hw.sub rfl) | split

theorem State.refuseDump_keeps {P : State → Prop} (hw : Frees P 0x500000000) (s : State) (d : DumpSt) (result : Nat) (hs : P s) : P (State.refuseDump s d result) := by
  unfold State.refuseDump
  have x := ()
  repeat' first
    | (extract_lets +onlyGivenNames x; (fail_if_success clear x); clear_value x) | with_reducible assumption
    | with_reducible apply State.setObs_keeps (hw.sub rfl) | with_reducible apply State.updCtx_keeps (hw.sub rfl)

theorem State.resumeUnit_keeps {P : State → Prop} (hw : Frees P 0x500000010) (s : State) (x : Nat) (hs : P s) : P (State.resumeUnit s x) := by
  unfold State.resumeUnit
  repeat' first
    | with_reducible assumption | with_reducible apply State.setRun_keeps (hw.sub rfl) | split

theorem State.retryStream_keeps {P : State → Prop} (hw : Frees P 0x5807dfff4) (s : State) (jid : U64) (write : Bool) (dva0 : Nat) (k : Nat) (hs : P s) : P (State.retryStream s jid write dva0 k) := by
  unfold State.retryStream
  have x := ()
  repeat' first
    | (extract_lets +onlyGivenNames x; (fail_if_success clear x); clear_value x) | with_reducible assumption
    | with_reducible apply State.updJob_keeps (hw.sub rfl) | with_reducible apply State.resumeUnit_keeps (hw.sub rfl) | with_reducible apply State.streamFault_keeps (hw.sub rfl) | split

theorem State.retryFault_keeps {P : State → Prop} (hw : Frees P 0x5807dfff4) (s : State) (f : FaultSt) (hs : P s) : P (State.retryFault s f) := by
  unfold State.retryFault
  repeat' first
    | with_reducible intro _ | with_reducible assumption | with_reducible apply State.retryStream_keeps (hw.sub rfl)
    | with_reducible apply State.closeFault_keeps (hw.sub rfl) | with_reducible apply Keep.foldl

theorem State.retryOf_keeps {P : State → Prop} (hw : Frees P 0x5807dfff4) (s : State) (ctx : Nat) (fid : U32) (hs : P s) : P (State.retryOf s ctx fid) := by
  unfold State.retryOf
  repeat' first
    | with_reducible intro _ | with_reducible assumption | with_reducible apply State.retryFault_keeps (hw.sub rfl)
    | with_reducible apply State.resolve_keeps (hw.sub rfl)

theorem State.writeTt_keeps {P : State → Prop} (hw : Frees P 0x100000000) (s : State) (n : Nat) (c : CtxSt) (hs : P s) : P (State.writeTt s n c) := by
  unfold State.writeTt
  repeat' first
    | with_reducible assumption | with_reducible apply State.setCtx_keeps (hw.sub rfl) | split

theorem State.writeDumpCtrl_keeps {P : State → Prop} (hw : Frees P 0x500000000) (s : State) (f : Func) (go : Bool) (scope : Bool) (hs : P s) : P (State.writeDumpCtrl s f go scope) := by
  unfold State.writeDumpCtrl
  have x := ()
  repeat' first
    | (extract_lets +onlyGivenNames x; (fail_if_success clear x); first | (refine Keep.cut (P := P) (v := x) ?_ ?_; unfold x; clear x; rotate_left; intro hx; clear_value x) | clear_value x)
    | with_reducible assumption | with_reducible apply State.askDump_keeps (hw.sub rfl) | with_reducible apply State.updCtx_keeps (hw.sub rfl) | split

theorem State.revoke_keeps {P : State → Prop} (hw : Frees P 0x120000000) (s : State) (ctx : Nat) (i : Nat) (hs : P s) : P (State.revoke s ctx i) := by
  unfold State.revoke
  repeat' first
    | with_reducible assumption | with_reducible apply State.dropLocked_keeps (hw.sub rfl) | with_reducible apply State.updCtx_keeps (hw.sub rfl)

theorem State.revokeBy_keeps {P : State → Prop} (hw : Frees P 0x120000000) (s : State) (hit : TlbEntry → Bool) (hs : P s) : P (State.revokeBy s hit) := by
  unfold State.revokeBy
  have x := ()
  repeat' first
    | with_reducible intro _ | (extract_lets +onlyGivenNames x; (fail_if_success clear x); clear_value x) | with_reducible assumption
    | with_reducible apply State.revoke_keeps (hw.sub rfl) | with_reducible apply Keep.foldl

theorem State.writeInval_keeps {P : State → Prop} (hw : Frees P 0x130000000) (s : State) (ctx : Nat) (v : U64) (hs : P s) : P (State.writeInval s ctx v) := by
  unfold State.writeInval
  have x := ()
  repeat' first
    | (extract_lets +onlyGivenNames x; (fail_if_success clear x); first | (refine Keep.cut (P := P) (v := x) ?_ ?_; unfold x; clear x; rotate_left; intro hx; clear_value x) | clear_value x)
    | with_reducible assumption | with_reducible apply State.revokeBy_keeps (hw.sub rfl) | with_reducible apply State.finishInval_keeps (hw.sub rfl)
    | with_reducible apply State.setCtx_keeps (hw.sub rfl) | split

theorem State.writeTraceReg_keeps {P : State → Prop} (hw : Frees P 0x100000000) (s : State) (n : Nat) (o : Nat) (v : U64) (hs : P s) : P (State.writeTraceReg s n o v) := by
  unfold State.writeTraceReg
  have x := ()
  repeat' first
    | (extract_lets +onlyGivenNames x; (fail_if_success clear x); clear_value x) | with_reducible assumption
    | with_reducible apply State.setCtx_keeps (hw.sub rfl) | split

theorem State.writePinLo_keeps {P : State → Prop} (hw : Frees P 0x100000000) (s : State) (ctx : Nat) (i : Nat) (v : U64) (hs : P s) : P (State.writePinLo s ctx i v) := by
  unfold State.writePinLo
  have x := ()
  repeat' first
    | (extract_lets +onlyGivenNames x; (fail_if_success clear x); clear_value x) | with_reducible assumption
    | with_reducible apply State.updCtx_keeps (hw.sub rfl) | split

theorem State.writePin_keeps {P : State → Prop} (hw : Frees P 0x120000000) (s : State) (n : Nat) (o : Nat) (v : U64) (hs : P s) : P (State.writePin s n o v) := by
  unfold State.writePin
  have x := ()
  repeat' first
    | (extract_lets +onlyGivenNames x; (fail_if_success clear x); clear_value x) | with_reducible assumption
    | with_reducible apply State.writePinLo_keeps (hw.sub rfl) | with_reducible apply State.clearPin_keeps (hw.sub rfl)
    | with_reducible apply State.updCtx_keeps (hw.sub rfl) | split

theorem State.writeTraceCfg_keeps {P : State → Prop} (hw : Frees P 0x100000000) (s : State) (n : Nat) (v : U64) (hs : P s) : P (State.writeTraceCfg s n v) := by
  unfold State.writeTraceCfg
  have x := ()
  repeat' first
    | (extract_lets +onlyGivenNames x; (fail_if_success clear x); first | (refine Keep.cut (P := P) (v := x) ?_ ?_; unfold x; clear x; rotate_left; intro hx; clear_value x) | clear_value x)
    | with_reducible assumption | with_reducible apply State.ctxTrigger_keeps (hw.sub rfl) | with_reducible apply State.setCtx_keeps (hw.sub rfl)
    | split

theorem State.writeCtx_keeps {P : State → Prop} (hw : Frees P 0x5b07dfff4) (s : State) (f : Func) (o : Nat) (v : U64) (hs : P s) : P (State.writeCtx s f o v) := by
  unfold State.writeCtx
  have x := ()
  repeat' first
    | (extract_lets +onlyGivenNames x; (fail_if_success clear x); clear_value x) | with_reducible assumption
    | with_reducible apply State.writeTraceCfg_keeps (hw.sub rfl) | with_reducible apply State.writePin_keeps (hw.sub rfl)
    | with_reducible apply State.writeTraceReg_keeps (hw.sub rfl) | with_reducible apply State.writeInval_keeps (hw.sub rfl)
    | with_reducible apply State.writeDumpCtrl_keeps (hw.sub rfl) | with_reducible apply State.writeTt_keeps (hw.sub rfl)
    | with_reducible apply State.retryOf_keeps (hw.sub rfl) | with_reducible apply State.finishInval_keeps (hw.sub rfl)
    | with_reducible apply State.enableCtx_keeps (hw.sub rfl) | with_reducible apply State.disableCtx_keeps (hw.sub rfl)
    | with_reducible apply State.abortOf_keeps (hw.sub rfl) | with_reducible apply State.updCtx_keeps (hw.sub rfl)
    | with_reducible apply State.setCtx_keeps (hw.sub rfl) | split

theorem State.writeSecCmd_keeps {P : State → Prop} (hw : Frees P 0x26000000000) (s : State) (v : U64) (hs : P s) : P (State.writeSecCmd s v) := by
  unfold State.writeSecCmd
  have x := ()
  repeat' first
    | with_reducible intro _ | (extract_lets +onlyGivenNames x; (fail_if_success clear x); clear_value x) | with_reducible assumption
    | with_reducible apply State.moduleReset_keeps (hw.sub rfl) | with_reducible apply State.secCmd_keeps (hw.sub rfl)
    | with_reducible apply State.fwStage_keeps (hw.sub rfl) | with_reducible apply State.fwSelect_keeps (hw.sub rfl)
    | with_reducible apply State.fwActivate_keeps (hw.sub rfl) | with_reducible apply State.debugUnlock_keeps (hw.sub rfl)
    | with_reducible apply State.debugChallenge_keeps (hw.sub rfl) | with_reducible apply State.tickFresh_keeps (hw.sub rfl)
    | with_reducible apply State.advanceSvn_keeps (hw.sub rfl) | split

theorem State.writeSec_keeps {P : State → Prop} (hw : Frees P 0x26000000000) (s : State) (o : Nat) (v : U64) (hs : P s) : P (State.writeSec s o v) := by
  unfold State.writeSec
  repeat' first
    | with_reducible assumption | with_reducible apply State.writeSecCmd_keeps (hw.sub rfl) | with_reducible apply State.secBang_keeps (hw.sub rfl)
    | split

theorem State.writeUnit_keeps {P : State → Prop} (hw : Frees P 0x10) (s : State) (x : Nat) (o : Nat) (v : U64) (hs : P s) : P (State.writeUnit s x o v) := by
  unfold State.writeUnit
  repeat' first
    | with_reducible assumption | with_reducible apply State.updUnit_keeps (hw.sub rfl) | split

theorem State.writeHp_keeps {P : State → Prop} (hw : Frees P 0x200000000) (s : State) (f : Func) (h : Nat) (o : Nat) (v : U64) (hs : P s) : P (State.writeHp s f h o v) := by
  unfold State.writeHp
  repeat' first
    | with_reducible assumption | with_reducible apply State.askHandover_keeps (hw.sub rfl) | with_reducible apply State.updHp_keeps (hw.sub rfl)
    | split

theorem State.writeQcfg_keeps {P : State → Prop} (hw : Frees P 0x30) (s : State) (k : Nat) (v : U64) (hs : P s) : P (State.writeQcfg s k v) := by
  unfold State.writeQcfg
  repeat' first
    | with_reducible assumption | with_reducible apply State.configure_keeps (hw.sub rfl) | split

theorem State.setHdm_keeps {P : State → Prop} (hw : Frees P 0x8000000) (s : State) (c : Nat) (k : Nat) (h : Hdm) (hs : P s) : P (State.setHdm s c k h) := by
  unfold State.setHdm
  repeat' first
    | with_reducible assumption | with_reducible apply State.updCxl_keeps (hw.sub rfl)

theorem State.writeHdm_keeps {P : State → Prop} (hw : Frees P 0x8000000) (s : State) (c : Nat) (k : Nat) (v : U64) (devOk : Bool) (hs : P s) : P (State.writeHdm s c k v devOk) := by
  unfold State.writeHdm
  have x := ()
  repeat' first
    | with_reducible intro _ | (extract_lets +onlyGivenNames x; (fail_if_success clear x); clear_value x) | with_reducible assumption
    | with_reducible apply State.setHdm_keeps (hw.sub rfl) | with_reducible apply State.joinSet_keeps (hw.sub rfl)
    | with_reducible apply State.updCxl_keeps (hw.sub rfl) | with_reducible apply Keep.foldl | split

theorem State.writeCxl_keeps {P : State → Prop} (hw : Frees P 0x205887dfffe) (s : State) (c : Nat) (o : Nat) (v : U64) (hs : P s) : P (State.writeCxl s c o v) := by
  unfold State.writeCxl
  have x := ()
  repeat' first
    | (extract_lets +onlyGivenNames x; (fail_if_success clear x); first | (refine Keep.cut (P := P) (v := x) ?_ ?_; unfold x; clear x; rotate_left; intro hx; clear_value x) | clear_value x)
    | with_reducible assumption | with_reducible apply State.writeHdm_keeps (hw.sub rfl) | with_reducible apply State.setHdm_keeps (hw.sub rfl)
    | with_reducible apply State.cxlDown_keeps (hw.sub rfl) | with_reducible apply State.tickFresh_keeps (hw.sub rfl)
    | with_reducible apply State.setCxl_keeps (hw.sub rfl) | split

theorem State.writeTorus_keeps {P : State → Prop} (hw : Frees P 0x1000000) (s : State) (v : U64) (hs : P s) : P (State.writeTorus s v) := by
  unfold State.writeTorus
  repeat' first
    | with_reducible assumption | (with_reducible apply hw.torus rfl; with_reducible assumption) | split

theorem State.writeNl_keeps {P : State → Prop} (hw : Frees P 0x501a00004) (s : State) (p : Nat) (o : Nat) (v : U64) (hs : P s) : P (State.writeNl s p o v) := by
  unfold State.writeNl
  have x := ()
  repeat' first
    | (extract_lets +onlyGivenNames x; (fail_if_success clear x); first | (refine Keep.cut (P := P) (v := x) ?_ ?_; unfold x; clear x; rotate_left; intro hx; clear_value x) | clear_value x)
    | with_reducible assumption | with_reducible apply State.writeTorus_keeps (hw.sub rfl) | with_reducible apply State.nlRetrain_keeps (hw.sub rfl)
    | with_reducible apply State.nlEnable_keeps (hw.sub rfl) | with_reducible apply State.nlDisable_keeps (hw.sub rfl) | split

theorem State.writeWindow_keeps {P : State → Prop} (hw : Frees P 0x500000194) (s : State) (f : Func) (k : Nat) (ctl : Bool) (v : U64) (hs : P s) : P (State.writeWindow s f k ctl v) := by
  unfold State.writeWindow
  have x := ()
  repeat' first
    | (extract_lets +onlyGivenNames x; (fail_if_success clear x); clear_value x) | with_reducible assumption
    | with_reducible apply State.armedWrite_keeps (hw.sub rfl) | with_reducible apply State.wake_keeps (hw.sub rfl)
    | with_reducible apply State.setSync_keeps (hw.sub rfl) | split

theorem State.writeRes_keeps {P : State → Prop} (hw : Frees P 0x400000000) (s : State) (f : Func) (o : Nat) (v : U64) (hs : P s) : P (State.writeRes s f o v) := by
  unfold State.writeRes
  have x := ()
  repeat' first
    | (extract_lets +onlyGivenNames x; (fail_if_success clear x); clear_value x) | with_reducible assumption
    | with_reducible apply State.askClaim_keeps (hw.sub rfl) | with_reducible apply State.setObs_keeps (hw.sub rfl) | split

theorem State.supplyEvent_keeps {P : State → Prop} (hw : Frees P 0x500000004) (s : State) (new : Nat) (old : Nat) (hs : P s) : P (State.supplyEvent s new old) := by
  unfold State.supplyEvent
  repeat' first
    | with_reducible assumption | with_reducible apply State.moduleEvent_keeps (hw.sub rfl)

theorem State.writeForce_keeps {P : State → Prop} (hw : Frees P 0x1500000004) (s : State) (v : U64) (hs : P s) : P (State.writeForce s v) := by
  unfold State.writeForce
  have x := ()
  repeat' first
    | (extract_lets +onlyGivenNames x; (fail_if_success clear x); first | (refine Keep.cut (P := P) (v := x) ?_ ?_; unfold x; clear x; rotate_left; intro hx; clear_value x) | clear_value x)
    | with_reducible assumption | with_reducible apply State.supplyEvent_keeps (hw.sub rfl) | with_reducible apply State.setPwr_keeps (hw.sub rfl)
    | split

theorem State.writePower_keeps {P : State → Prop} (hw : Frees P 0x3500000004) (s : State) (o : Nat) (v : U64) (hs : P s) : P (State.writePower s o v) := by
  unfold State.writePower
  repeat' first
    | with_reducible assumption | with_reducible apply State.writeForce_keeps (hw.sub rfl) | with_reducible apply State.dieCommand_keeps (hw.sub rfl)
    | split

theorem State.writeBeatSet_keeps {P : State → Prop} (hw : Frees P 0x1) (s : State) (v : U64) (hs : P s) : P (State.writeBeatSet s v) := by
  unfold State.writeBeatSet
  have x := ()
  repeat' first
    | (extract_lets +onlyGivenNames x; (fail_if_success clear x); clear_value x) | with_reducible assumption
    | with_reducible apply State.setTime_keeps (hw.sub rfl) | split

theorem State.writeTimeCtrl_keeps {P : State → Prop} (hw : Frees P 0x1) (s : State) (v : U64) (hs : P s) : P (State.writeTimeCtrl s v) := by
  unfold State.writeTimeCtrl
  have x := ()
  repeat' first
    | (extract_lets +onlyGivenNames x; (fail_if_success clear x); clear_value x) | with_reducible assumption
    | with_reducible apply State.setTime_keeps (hw.sub rfl) | split

theorem State.writeTime_keeps {P : State → Prop} (hw : Frees P 0x1) (s : State) (o : Nat) (v : U64) (hs : P s) : P (State.writeTime s o v) := by
  unfold State.writeTime
  have x := ()
  repeat' first
    | (extract_lets +onlyGivenNames x; (fail_if_success clear x); clear_value x) | with_reducible assumption
    | with_reducible apply State.writeTimeCtrl_keeps (hw.sub rfl) | with_reducible apply State.writeBeatSet_keeps (hw.sub rfl)
    | with_reducible apply State.setTime_keeps (hw.sub rfl) | split

theorem State.regWrite_keeps {P : State → Prop} (hw : Frees P 0x277b9fdffff) (s : State) (f : Func) (b : RegBlock) (o : Nat) (v : U64) (hs : P s) : P (State.regWrite s f b o v) := by
  unfold State.regWrite
  have x := ()
  repeat' first
    | (extract_lets +onlyGivenNames x; (fail_if_success clear x); refine Keep.cut (P := P) (v := x) ?_ ?_; unfold x; clear x; rotate_left; intro hx; clear_value x)
    | with_reducible assumption | with_reducible apply State.writeTime_keeps (hw.sub rfl) | with_reducible apply State.writePower_keeps (hw.sub rfl)
    | with_reducible apply State.writeRes_keeps (hw.sub rfl) | with_reducible apply State.writeWindow_keeps (hw.sub rfl)
    | with_reducible apply State.writeNl_keeps (hw.sub rfl) | with_reducible apply State.writeCxl_keeps (hw.sub rfl)
    | with_reducible apply State.writeQcfg_keeps (hw.sub rfl) | with_reducible apply State.writeHp_keeps (hw.sub rfl)
    | with_reducible apply State.writeUnit_keeps (hw.sub rfl) | with_reducible apply State.writeSec_keeps (hw.sub rfl)
    | with_reducible apply State.writeCtx_keeps (hw.sub rfl) | with_reducible apply State.askSnap_keeps (hw.sub rfl)
    | with_reducible apply State.askClear_keeps (hw.sub rfl) | split

theorem State.reject_keeps {P : State → Prop} (hw : Frees P 0x500000014) (s : State) (ctx : Nat) (jid : U64) (cause : Nat) (hs : P s) : P (State.reject s ctx jid cause) := by
  unfold State.reject
  repeat' first
    | with_reducible assumption | with_reducible apply State.postFault_keeps (hw.sub rfl) | with_reducible apply State.refuse_keeps (hw.sub rfl)

theorem State.repeatRecords_keeps {P : State → Prop} (hw : Frees P 0x500000004) (s : State) (j : Job) (reason : Nat) (p : Nat) (x4 : Nat) (hs : P s) : P (State.repeatRecords s j reason p x4) := by
  induction x4 generalizing s j reason p with
  | zero =>
    unfold State.repeatRecords
    repeat' first
      | with_reducible assumption
  | succ n ih =>
    unfold State.repeatRecords
    repeat' first
      | with_reducible assumption | with_reducible apply ih | with_reducible apply State.stepRecord_keeps (hw.sub rfl)

theorem State.rejoinAt_keeps {P : State → Prop} (hw : Frees P 0x5002703b6) (s : State) (j : Job) (v : SaveImg) (hs : P s) : P (State.rejoinAt s j v) := by
  unfold State.rejoinAt
  have x := ()
  repeat' first
    | with_reducible intro _
    | (extract_lets +onlyGivenNames x; (fail_if_success clear x); first | (refine Keep.cut (P := P) (v := x) ?_ ?_; unfold x; clear x; rotate_left; intro hx; clear_value x) | (refine Keep.cutFst (P := P) (v := x) ?_ ?_; unfold x; clear x; rotate_left; intro hx; clear_value x) | clear_value x)
    | with_reducible assumption | with_reducible apply State.repeatRecords_keeps (hw.sub rfl)
    | with_reducible apply State.loadUnits_keeps (hw.sub rfl) | with_reducible apply State.loadQueues_keeps (hw.sub rfl)
    | with_reducible apply State.endInterrupted_keeps (hw.sub rfl) | with_reducible apply State.putScratch_keeps (hw.sub rfl)
    | with_reducible apply State.putEach_keeps (hw.sub rfl) | with_reducible apply State.updJob_keeps (hw.sub rfl)
    | with_reducible apply State.addMarks_keeps (hw.sub rfl) | with_reducible apply State.record_keeps (hw.sub rfl)
    | with_reducible apply State.setSync_keeps (hw.sub rfl) | with_reducible apply State.updUnit_keeps (hw.sub rfl)
    | (with_reducible apply hw.marks rfl; with_reducible assumption)

theorem State.releaseCork_keeps {P : State → Prop} (hw : Frees P 0x200000) (s : State) (jid : U64) (hs : P s) : P (State.releaseCork s jid) := by
  unfold State.releaseCork
  have x := ()
  repeat' first
    | with_reducible intro _ | (extract_lets +onlyGivenNames x; (fail_if_success clear x); clear_value x) | with_reducible assumption
    | with_reducible apply State.updJob_keeps (hw.sub rfl) | with_reducible apply State.withJob_keeps (hw.sub rfl) | split

theorem State.reply_keeps {P : State → Prop} (hw : Frees P 0x10000000000) (s : State) (a : Answer) (hs : P s) : P (State.reply s a) := by
  unfold State.reply
  repeat' first
    | (with_reducible apply hw.answer rfl; with_reducible assumption)

theorem State.retryWaiting_keeps {P : State → Prop} (hw : Frees P 0x5807dfff4) (s : State) (hs : P s) : P (State.retryWaiting s) := by
  unfold State.retryWaiting
  have x := ()
  repeat' first
    | with_reducible intro _ | (extract_lets +onlyGivenNames x; (fail_if_success clear x); clear_value x) | with_reducible assumption
    | with_reducible apply State.retryStream_keeps (hw.sub rfl) | with_reducible apply Keep.foldl | split

theorem State.returnCxl_keeps {P : State → Prop} (hw : Frees P 0x5887dfff4) (s : State) (c : Nat) (stream : Nat) (hs : P s) : P (State.returnCxl s c stream) := by
  unfold State.returnCxl
  have x := ()
  repeat' first
    | with_reducible intro _
    | (extract_lets +onlyGivenNames x; (fail_if_success clear x); first | (refine Keep.cut (P := P) (v := x) ?_ ?_; unfold x; clear x; rotate_left; intro hx; clear_value x) | clear_value x)
    | with_reducible assumption | with_reducible apply State.deliverCxl_keeps (hw.sub rfl) | with_reducible apply State.updCxl_keeps (hw.sub rfl)
    | with_reducible apply Keep.foldl

theorem State.stepEnd_keeps {P : State → Prop} (hw : Frees P 0x5807dfff4) (s : State) (j : Job) (hs : P s) : P (State.stepEnd s j) := by
  unfold State.stepEnd
  have x := ()
  repeat' first
    | (extract_lets +onlyGivenNames x; (fail_if_success clear x); first | (refine Keep.cut (P := P) (v := x) ?_ ?_; unfold x; clear x; rotate_left; intro hx; clear_value x) | clear_value x)
    | with_reducible assumption | with_reducible apply State.recordStep_keeps (hw.sub rfl) | with_reducible apply State.nextPeriod_keeps (hw.sub rfl)
    | with_reducible apply State.stepRecord_keeps (hw.sub rfl) | with_reducible apply State.completeJob_keeps (hw.sub rfl)
    | with_reducible apply State.updJob_keeps (hw.sub rfl) | with_reducible apply State.finish_keeps (hw.sub rfl) | split

theorem State.roleEffect_keeps {P : State → Prop} (hw : Frees P 0xd8e7dfffe) (s : State) (j : Job) (m : MarkSt) (hs : P s) : P (State.roleEffect s j m) := by
  unfold State.roleEffect
  repeat' first
    | with_reducible assumption | with_reducible apply State.stepEnd_keeps (hw.sub rfl) | with_reducible apply State.releaseCork_keeps (hw.sub rfl)
    | with_reducible apply State.nfDecision_keeps (hw.sub rfl) | with_reducible apply State.cork_keeps (hw.sub rfl)
    | with_reducible apply State.contribDecision_keeps (hw.sub rfl) | with_reducible apply State.closeWindow_keeps (hw.sub rfl)
    | with_reducible apply State.updJob_keeps (hw.sub rfl) | split

theorem State.routePush_keeps {P : State → Prop} (hw : Frees P 0x20d807dfff4) (s : State) (k : GCtx) (v : View) (x3 : Nat) (hs : P s) : P (State.routePush s k v x3) := by
  induction x3 generalizing s k v with
  | zero =>
    unfold State.routePush
    have x := ()
    repeat' first
      | with_reducible assumption | with_reducible apply State.workDone_keeps (hw.sub rfl)
  | succ n ih =>
    unfold State.routePush
    have x := ()
    repeat' first
      | with_reducible intro _
      | (extract_lets +onlyGivenNames x; (fail_if_success clear x); first | (refine Keep.cut (P := P) (v := x) ?_ ?_; unfold x; clear x; rotate_left; intro hx; clear_value x) | clear_value x)
      | with_reducible assumption | with_reducible apply ih | with_reducible apply State.gsePush_keeps (hw.sub rfl)
      | with_reducible apply State.setRun_keeps (hw.sub rfl) | with_reducible apply State.setWait_keeps (hw.sub rfl)
      | with_reducible apply State.on_keeps (hw.sub rfl) | with_reducible apply State.setGse_keeps (hw.sub rfl)
      | with_reducible refine AccAll.getId ?_ ‹_ = Acc.ok _› | split

theorem State.routeClose_keeps {P : State → Prop} (hw : Frees P 0x20d807dfff4) (s : State) (k : GCtx) (hs : P s) : P (State.routeClose s k) := by
  unfold State.routeClose
  repeat' first
    | with_reducible assumption | with_reducible apply State.routePush_keeps (hw.sub rfl) | with_reducible apply State.workDone_keeps (hw.sub rfl)
    | split

theorem State.routeEnd_keeps {P : State → Prop} (hw : Frees P 0xc0e08000e) (s : State) (k : GCtx) (hs : P s) : AccAll P GOut.s (State.routeEnd s k) := by
  unfold State.routeEnd
  have x := ()
  repeat' first
    | with_reducible intro _
    | (extract_lets +onlyGivenNames x; (fail_if_success clear x); first | (refine Keep.cut (P := P) (v := x) ?_ ?_; unfold x; clear x; rotate_left; intro hx; clear_value x) | clear_value x)
    | with_reducible assumption | with_reducible apply State.putList_keeps (hw.sub rfl) | with_reducible apply State.recordTile_keeps (hw.sub rfl)
    | with_reducible apply State.setGse_keeps (hw.sub rfl) | with_reducible apply AccAll.map | with_reducible apply AccAll.bind
    | with_reducible refine AccAll.getFst ?_ ‹_ = Acc.ok _› | split

theorem State.routeRow_keeps {P : State → Prop} (hw : Frees P 0xc0e08000e) (s : State) (k : GCtx) (src : View) (tok : Option Token) (t : Nat) (hs : P s) : AccAll P GOut.s (State.routeRow s k src tok t) := by
  unfold State.routeRow
  have x := ()
  repeat' first
    | with_reducible intro _ | (extract_lets +onlyGivenNames x; (fail_if_success clear x); clear_value x) | with_reducible assumption
    | with_reducible apply State.putList_keeps (hw.sub rfl) | with_reducible apply State.setGse_keeps (hw.sub rfl) | with_reducible apply AccAll.map
    | with_reducible apply AccAll.bind | with_reducible refine AccAll.getFst ?_ ‹_ = Acc.ok _›

theorem State.routeFrom_keeps {P : State → Prop} (hw : Frees P 0x20d8e7dfffe) (s : State) (k : GCtx) (src : View) (tok : Option Token) (stop : Nat) (x5 : Nat) (hs : P s) : P (State.routeFrom s k src tok stop x5) := by
  induction x5 generalizing s k src tok stop with
  | zero =>
    unfold State.routeFrom
    have x := ()
    repeat' first
      | with_reducible intro _ | (extract_lets +onlyGivenNames x; (fail_if_success clear x); clear_value x) | with_reducible assumption
      | with_reducible apply State.routeEnd_keeps (hw.sub rfl) | with_reducible apply State.routeClose_keeps (hw.sub rfl)
      | with_reducible apply State.gseCommit_keeps (hw.sub rfl) | with_reducible apply State.workDone_keeps (hw.sub rfl)
      | with_reducible apply State.on_keeps (hw.sub rfl) | with_reducible refine AccAll.getGOut ?_ ‹_ = Acc.ok _› | split
  | succ n ih =>
    unfold State.routeFrom
    have x := ()
    repeat' first
      | with_reducible intro _ | (extract_lets +onlyGivenNames x; (fail_if_success clear x); clear_value x) | with_reducible assumption
      | with_reducible apply ih | with_reducible apply State.routeRow_keeps (hw.sub rfl) | with_reducible apply State.gseCommit_keeps (hw.sub rfl)
      | with_reducible apply State.on_keeps (hw.sub rfl) | with_reducible refine AccAll.getGOut ?_ ‹_ = Acc.ok _› | split

theorem State.writeResults_keeps {P : State → Prop} (hw : Frees P 0xc0e00001e) (s : State) (x : Nat) (j : Job) (c : Cmd) (b : BitVec 128) (rs : List RxeAcc) (hs : P s) : AccAll P id (State.writeResults s x j c b rs) := by
  unfold State.writeResults
  have x := ()
  repeat' first
    | with_reducible intro _
    | (extract_lets +onlyGivenNames x; (fail_if_success clear x); first | (refine Keep.cut (P := P) (v := x) ?_ ?_; unfold x; clear x; rotate_left; intro hx; clear_value x) | (refine AccAll.cut (P := P) (v := x) ?_ ?_; unfold x; clear x; rotate_left; intro hx; clear_value x) | (refine Keep.cutFunXS (P := P) (v := x) ?_ ?_; unfold x; clear x; rotate_left; intro hx; clear_value x) | clear_value x)
    | with_reducible assumption | with_reducible apply State.recordTile_keeps (hw.sub rfl) | with_reducible apply State.storeView_keeps (hw.sub rfl)
    | with_reducible apply State.countOoa_keeps (hw.sub rfl) | with_reducible apply State.orUnitFlags_keeps (hw.sub rfl)
    | with_reducible apply State.updUnit_keeps (hw.sub rfl) | with_reducible apply ‹∀ _ _ _, P _ → P _› | with_reducible apply Keep.foldl
    | with_reducible apply AccAll.map | with_reducible apply AccAll.ok | with_reducible apply AccAll.bind
    | with_reducible refine AccAll.getId ?_ ‹_ = Acc.ok _› | split | dsimp -zeta only [id]

theorem State.rxeStep_keeps {P : State → Prop} (hw : Frees P 0x20d8e7dfffe) (s : State) (x : Nat) (j : Job) (c : Cmd) (b : BitVec 128) (bind : RxeBind) (hs : P s) : P (State.rxeStep s x j c b bind) := by
  unfold State.rxeStep
  have x := ()
  repeat' first
    | with_reducible intro _ | (extract_lets +onlyGivenNames x; (fail_if_success clear x); clear_value x) | with_reducible assumption
    | with_reducible apply State.writeResults_keeps (hw.sub rfl) | with_reducible apply State.workDone_keeps (hw.sub rfl)
    | with_reducible apply State.countOoa_keeps (hw.sub rfl) | with_reducible apply State.orUnitFlags_keeps (hw.sub rfl)
    | with_reducible apply State.on_keeps (hw.sub rfl) | with_reducible apply State.updUnit_keeps (hw.sub rfl)
    | with_reducible apply State.setRxe_keeps (hw.sub rfl) | with_reducible refine AccAll.getId ?_ ‹_ = Acc.ok _› | split

theorem State.rxeRun_keeps {P : State → Prop} (hw : Frees P 0x20d8e7dfffe) (s : State) (die : Fin 24) (op : Nat) (hs : P s) : P (State.rxeRun s die op) := by
  unfold State.rxeRun
  have x := ()
  repeat' first
    | with_reducible intro _ | (extract_lets +onlyGivenNames x; (fail_if_success clear x); clear_value x) | with_reducible assumption
    | with_reducible apply State.rxeStep_keeps (hw.sub rfl) | with_reducible apply State.unitWorks_keeps (hw.sub rfl) | split

theorem State.scatterAddRow_keeps {P : State → Prop} (hw : Frees P 0x80000) (s : State) (k : GCtx) (src : View) (dst : View) (i : Nat) (acc : List Nat) (hs : P s) : AccAll P GOut.s (State.scatterAddRow s k src dst i acc) := by
  unfold State.scatterAddRow
  have x := ()
  repeat' first
    | with_reducible intro _ | (extract_lets +onlyGivenNames x; (fail_if_success clear x); clear_value x) | with_reducible assumption
    | with_reducible apply State.setGse_keeps (hw.sub rfl) | with_reducible apply AccAll.map

theorem State.scatterBegin_keeps {P : State → Prop} (hw : Frees P 0x80000) (s : State) (k : GCtx) (dst : View) (ptr : View) (i : Nat) (hs : P s) : AccAll P GOut.s (State.scatterBegin s k dst ptr i) := by
  unfold State.scatterBegin
  have x := ()
  repeat' first
    | with_reducible intro _ | (extract_lets +onlyGivenNames x; (fail_if_success clear x); clear_value x) | with_reducible assumption
    | with_reducible apply State.setGse_keeps (hw.sub rfl) | with_reducible apply AccAll.map | with_reducible apply AccAll.ok
    | with_reducible apply AccAll.bind | split

theorem State.scatterStore_keeps {P : State → Prop} (hw : Frees P 0xc0e08000e) (s : State) (k : GCtx) (dst : View) (i : Nat) (acc : List Nat) (hs : P s) : AccAll P GOut.s (State.scatterStore s k dst i acc) := by
  unfold State.scatterStore
  have x := ()
  repeat' first
    | with_reducible intro _ | (extract_lets +onlyGivenNames x; (fail_if_success clear x); clear_value x) | with_reducible assumption
    | with_reducible apply State.gseStore_keeps (hw.sub rfl) | with_reducible apply State.setGse_keeps (hw.sub rfl) | with_reducible apply AccAll.map
    | with_reducible refine AccAll.getFst ?_ ‹_ = Acc.ok _›

theorem State.scatterStep_keeps {P : State → Prop} (hw : Frees P 0xc0e08000e) (s : State) (k : GCtx) (src : View) (dst : View) (ptr : View) (i : Nat) (hs : P s) : AccAll P GOut.s (State.scatterStep s k src dst ptr i) := by
  unfold State.scatterStep
  have x := ()
  repeat' first
    | (extract_lets +onlyGivenNames x; (fail_if_success clear x); clear_value x) | with_reducible assumption
    | with_reducible apply State.scatterStore_keeps (hw.sub rfl) | with_reducible apply State.scatterBegin_keeps (hw.sub rfl)
    | with_reducible apply State.scatterAddRow_keeps (hw.sub rfl) | split

theorem State.skipClaim_keeps {P : State → Prop} (hw : Frees P 0xd807dfff4) (s : State) (x : Nat) (c : Cmd) (hs : P s) : P (State.skipClaim s x c) := by
  unfold State.skipClaim
  repeat' first
    | with_reducible assumption | with_reducible apply State.doSignal_keeps (hw.sub rfl) | with_reducible apply State.updUnit_keeps (hw.sub rfl)

theorem State.smbRead_keeps {P : State → Prop} (hw : Frees P 0x10000000000) (s : State) (lo : Nat) (n : Nat) (hs : P s) : P (State.smbRead s lo n) := by
  unfold State.smbRead
  repeat' first
    | with_reducible assumption | with_reducible apply State.reply_keeps (hw.sub rfl) | split

theorem State.spdm_keeps {P : State → Prop} (hw : Frees P 0x10000000000) (s : State) (c : Spdm) (ds : List (BitVec 512)) (sig : Option (BitVec 4096)) (hs : P s) : P (State.spdm s c ds sig) := by
  unfold State.spdm
  repeat' first
    | with_reducible assumption | with_reducible apply State.reply_keeps (hw.sub rfl)

theorem State.stalePacket_keeps {P : State → Prop} (hw : Frees P 0x400a00010) (s : State) (p : Nat) (k : Packet) (hs : P s) : P (State.stalePacket s p k) := by
  unfold State.stalePacket
  repeat' first
    | with_reducible assumption | with_reducible apply State.forward_keeps (hw.sub rfl) | with_reducible apply State.cntAdd_keeps (hw.sub rfl) | split

theorem State.startJob_keeps {P : State → Prop} (hw : Frees P 0xd8e7ffffe) (s : State) (j0 : Job) (base : Nat) (endBeat : Nat) (lent : Bool) (hs : P s) : P (State.startJob s j0 base endBeat lent) := by
  unfold State.startJob
  have x := ()
  repeat' first
    | with_reducible intro _
    | (extract_lets +onlyGivenNames x; (fail_if_success clear x); first | (refine Keep.cut (P := P) (v := x) ?_ ?_; unfold x; clear x; rotate_left; intro hx; clear_value x) | (refine Keep.cutFunSB (P := P) (v := x) ?_ ?_; unfold x; clear x; rotate_left; intro hx; clear_value x) | clear_value x)
    | with_reducible assumption | with_reducible apply State.recordInitial_keeps (hw.sub rfl)
    | with_reducible apply State.loadUnits_keeps (hw.sub rfl) | with_reducible apply State.loadQueues_keeps (hw.sub rfl)
    | with_reducible apply State.storeQuiet_keeps (hw.sub rfl) | with_reducible apply State.on_keeps (hw.sub rfl)
    | with_reducible apply State.jobFault_keeps (hw.sub rfl) | with_reducible apply State.armSyncs_keeps (hw.sub rfl)
    | with_reducible apply State.updJob_keeps (hw.sub rfl) | with_reducible apply State.addMarks_keeps (hw.sub rfl)
    | with_reducible apply State.addFixedMarks_keeps (hw.sub rfl) | with_reducible apply ‹∀ _ _, P _ → P _› | split

theorem State.startLate_keeps {P : State → Prop} (hw : Frees P 0x500200204) (s : State) (j : Job) (hs : P s) : P (State.startLate s j) := by
  unfold State.startLate
  have x := ()
  repeat' first
    | (extract_lets +onlyGivenNames x; (fail_if_success clear x); first | (refine Keep.cut (P := P) (v := x) ?_ ?_; unfold x; clear x; rotate_left; intro hx; clear_value x) | clear_value x)
    | with_reducible assumption | with_reducible apply State.repeatRecords_keeps (hw.sub rfl) | with_reducible apply State.updJob_keeps (hw.sub rfl)
    | with_reducible apply State.addMarks_keeps (hw.sub rfl) | (with_reducible apply hw.marks rfl; with_reducible assumption)

theorem State.switchUnit_keeps {P : State → Prop} (hw : Frees P 0x500070110) (s : State) (jid : U64) (period : Nat) (late : Nat) (mark : BitVec 12) (flushed : Nat) (p : UnitProg) (hs : P s) : P (State.switchUnit s jid period late mark flushed p) := by
  unfold State.switchUnit
  have x := ()
  repeat' first
    | (extract_lets +onlyGivenNames x; (fail_if_success clear x); first | (refine Keep.cut (P := P) (v := x) ?_ ?_; unfold x; clear x; rotate_left; intro hx; clear_value x) | clear_value x)
    | with_reducible assumption | with_reducible apply State.loadUnit_keeps (hw.sub rfl) | with_reducible apply State.traceEv_keeps (hw.sub rfl)
    | with_reducible apply State.updUnit_keeps (hw.sub rfl)

theorem State.switchQueue_keeps {P : State → Prop} (hw : Frees P 0x30) (s : State) (q : QDecl) (hs : P s) : P (State.switchQueue s q) := by
  unfold State.switchQueue
  have x := ()
  repeat' first
    | (extract_lets +onlyGivenNames x; (fail_if_success clear x); first | (refine Keep.cut (P := P) (v := x) ?_ ?_; unfold x; clear x; rotate_left; intro hx; clear_value x) | clear_value x)
    | with_reducible assumption | with_reducible apply State.setQueue_keeps (hw.sub rfl) | with_reducible apply State.updUnit_keeps (hw.sub rfl)
    | split

theorem State.switch_keeps {P : State → Prop} (hw : Frees P 0x500270534) (s : State) (r : RecfgSt) (hs : P s) : P (State.switch s r) := by
  unfold State.switch
  have x := ()
  repeat' first
    | with_reducible intro _
    | (extract_lets +onlyGivenNames x; (fail_if_success clear x); first | (refine Keep.cut (P := P) (v := x) ?_ ?_; unfold x; clear x; rotate_left; intro hx; clear_value x) | clear_value x)
    | with_reducible assumption | with_reducible apply State.switchQueue_keeps (hw.sub rfl) | with_reducible apply State.switchUnit_keeps (hw.sub rfl)
    | with_reducible apply State.closeReconfs_keeps (hw.sub rfl) | with_reducible apply State.updJob_keeps (hw.sub rfl)
    | with_reducible apply State.updUnit_keeps (hw.sub rfl) | (with_reducible apply hw.recfgs rfl; with_reducible assumption)
    | with_reducible apply Keep.foldl | split

theorem State.startReconfs_keeps {P : State → Prop} (hw : Frees P 0x500270534) (s : State) (j : Job) (m : MarkSt) (hs : P s) : P (State.startReconfs s j m) := by
  unfold State.startReconfs
  have x := ()
  repeat' first
    | with_reducible intro _
    | (extract_lets +onlyGivenNames x; (fail_if_success clear x); first | (refine Keep.cut (P := P) (v := x) ?_ ?_; unfold x; clear x; rotate_left; intro hx; clear_value x) | clear_value x)
    | with_reducible assumption | with_reducible apply State.switch_keeps (hw.sub rfl)
    | (with_reducible apply hw.recfgs rfl; with_reducible assumption) | with_reducible apply Keep.foldl | split

theorem State.startUpe_keeps {P : State → Prop} (hw : Frees P 0xd8e7dfffe) (s : State) (jid : U64) (x : Nat) (hs : P s) : P (State.startUpe s jid x) := by
  unfold State.startUpe
  have x := ()
  repeat' first
    | with_reducible intro _ | (extract_lets +onlyGivenNames x; (fail_if_success clear x); clear_value x) | with_reducible assumption
    | with_reducible apply State.recordLrs_keeps (hw.sub rfl) | with_reducible apply State.storeLabel_keeps (hw.sub rfl)
    | with_reducible apply State.on_keeps (hw.sub rfl) | with_reducible apply State.updJob_keeps (hw.sub rfl)
    | with_reducible apply State.withJob_keeps (hw.sub rfl) | with_reducible apply AccAll.map | with_reducible apply AccAll.ok
    | with_reducible apply AccAll.bind | with_reducible refine AccAll.getId ?_ ‹_ = Acc.ok _› | with_reducible refine AccAll.getFst ?_ ‹_ = Acc.ok _›
    | split | dsimp -zeta only [id]

theorem State.stopUnits_keeps {P : State → Prop} (hw : Frees P 0x500000010) (s : State) (x1 : List Nat) (hs : P s) : P (State.stopUnits s x1) := by
  induction x1 generalizing s with
  | nil =>
    unfold State.stopUnits
    repeat' first
      | with_reducible assumption
  | cons e t ih =>
    unfold State.stopUnits
    repeat' first
      | with_reducible assumption | with_reducible apply ih | with_reducible apply State.setWait_keeps (hw.sub rfl)
      | with_reducible apply State.updUnit_keeps (hw.sub rfl)

theorem State.stopJob_keeps {P : State → Prop} (hw : Frees P 0x500000070) (s : State) (j : Job) (hs : P s) : P (State.stopJob s j) := by
  unfold State.stopJob
  have x := ()
  repeat' first
    | (extract_lets +onlyGivenNames x; (fail_if_success clear x); clear_value x) | with_reducible assumption
    | with_reducible apply State.stopUnits_keeps (hw.sub rfl) | with_reducible apply State.landAll_keeps (hw.sub rfl)

theorem State.writeSegments_keeps {P : State → Prop} (hw : Frees P 0x20c0e00000e) (s : State) (d : DumpSt) (js : List Job) (base : Nat) (hs : P s) : P (State.writeSegments s d js base) := by
  unfold State.writeSegments
  have x := ()
  repeat' first
    | with_reducible intro _
    | (extract_lets +onlyGivenNames x; (fail_if_success clear x); first | (refine Keep.cut (P := P) (v := x) ?_ ?_; unfold x; clear x; rotate_left; intro hx; clear_value x) | clear_value x)
    | with_reducible assumption | with_reducible apply State.dumpUnit_keeps (hw.sub rfl) | with_reducible apply State.dumpTraces_keeps (hw.sub rfl)
    | with_reducible apply State.dumpSync_keeps (hw.sub rfl) | with_reducible apply State.dumpQueue_keeps (hw.sub rfl)
    | with_reducible apply State.dumpOthers_keeps (hw.sub rfl) | with_reducible apply State.veilDva_keeps (hw.sub rfl)
    | with_reducible apply State.overDva_keeps (hw.sub rfl) | with_reducible apply State.blank_keeps (hw.sub rfl) | with_reducible apply Keep.foldl
    | split

theorem State.takeDump_keeps {P : State → Prop} (hw : Frees P 0x20d0e20007e) (s : State) (d : DumpSt) (hs : P s) : P (State.takeDump s d) := by
  unfold State.takeDump
  have x := ()
  repeat' first
    | with_reducible intro _
    | (extract_lets +onlyGivenNames x; (fail_if_success clear x); first | (refine Keep.cut (P := P) (v := x) ?_ ?_; unfold x; clear x; rotate_left; intro hx; clear_value x) | clear_value x)
    | with_reducible assumption | with_reducible apply State.writeSegments_keeps (hw.sub rfl) | with_reducible apply State.stopJob_keeps (hw.sub rfl)
    | with_reducible apply State.pauseLent_keeps (hw.sub rfl) | with_reducible apply State.updJob_keeps (hw.sub rfl)
    | with_reducible apply State.setObs_keeps (hw.sub rfl) | with_reducible apply State.updCtx_keeps (hw.sub rfl) | with_reducible apply Keep.foldl

theorem State.takeKind_keeps {P : State → Prop} (hw : Frees P 0x100000000) (s : State) (kind : Nat) (f : State → Nat → Fetched → State) (hs : P s) (hf : ∀ (y0 : State) (y1 : Nat) (y2 : Fetched), P y0 → P (f y0 y1 y2)) : P (State.takeKind s kind f) := by
  unfold State.takeKind
  repeat' first
    | with_reducible assumption | with_reducible apply State.dropCand_keeps (hw.sub rfl) | with_reducible apply hf | split

theorem State.takeMark_keeps {P : State → Prop} (hw : Frees P 0xd8e7ffffe) (s : State) (m : MarkSt) (hs : P s) : P (State.takeMark s m) := by
  unfold State.takeMark
  have x := ()
  repeat' first
    | with_reducible intro _
    | (extract_lets +onlyGivenNames x; (fail_if_success clear x); refine Keep.cut (P := P) (v := x) ?_ ?_; unfold x; clear x; rotate_left; intro hx; clear_value x)
    | with_reducible assumption | with_reducible apply State.startReconfs_keeps (hw.sub rfl)
    | with_reducible apply State.roleEffect_keeps (hw.sub rfl) | with_reducible apply State.reachMark_keeps (hw.sub rfl)
    | with_reducible apply State.liveMarks_keeps (hw.sub rfl) | with_reducible apply State.rearm_keeps (hw.sub rfl)
    | with_reducible apply State.updJob_keeps (hw.sub rfl) | with_reducible apply State.withJob_keeps (hw.sub rfl)
    | (with_reducible apply hw.marks rfl; with_reducible assumption) | split

theorem State.takePkt_keeps {P : State → Prop} (hw : Frees P 0x800000) (s : State) (p : Nat) (k : Packet) (hs : P s) : P (State.takePkt s p k) := by
  unfold State.takePkt
  repeat' first
    | with_reducible assumption | with_reducible apply State.updPort_keeps (hw.sub rfl)

theorem State.takeReply_keeps {P : State → Prop} (hw : Frees P 0x500000010) (s : State) (x : Nat) (j : Job) (c : Cmd) (r : BoundRead) (v0 : Nat) (hs : P s) : P (State.takeReply s x j c r v0) := by
  unfold State.takeReply
  have x := ()
  repeat' first
    | (extract_lets +onlyGivenNames x; (fail_if_success clear x); first | (refine Keep.cut (P := P) (v := x) ?_ ?_; unfold x; clear x; rotate_left; intro hx; clear_value x) | clear_value x)
    | with_reducible assumption | with_reducible apply State.readWait_keeps (hw.sub rfl) | with_reducible apply State.record_keeps (hw.sub rfl)
    | with_reducible apply State.updUnit_keeps (hw.sub rfl) | split

theorem State.thermalEvent_keeps {P : State → Prop} (hw : Frees P 0x500000004) (s : State) (new : Nat) (old : Nat) (hs : P s) : P (State.thermalEvent s new old) := by
  unfold State.thermalEvent
  repeat' first
    | with_reducible assumption | with_reducible apply State.moduleEvent_keeps (hw.sub rfl)

theorem State.translated_keeps {P : State → Prop} (hw : Frees P 0x5d87dfff4) (s : State) (w : Who) (j : Job) (dva : Nat) (write : Bool) (hs : P s) : P (State.translated s w j dva write) := by
  unfold State.translated
  have x := ()
  repeat' first
    | (extract_lets +onlyGivenNames x; (fail_if_success clear x); first | (refine Keep.cut (P := P) (v := x) ?_ ?_; unfold x; clear x; rotate_left; intro hx; clear_value x) | clear_value x)
    | with_reducible assumption | with_reducible apply State.issueCxl_keeps (hw.sub rfl) | with_reducible apply State.setWait_keeps (hw.sub rfl)
    | with_reducible apply State.cache_keeps (hw.sub rfl) | with_reducible apply State.askHost_keeps (hw.sub rfl)
    | with_reducible apply State.streamFault_keeps (hw.sub rfl) | split

theorem State.triggerDie_keeps {P : State → Prop} (hw : Frees P 0x400000010) (s : State) (ctx : Nat) (src : Nat) (at_ : Nat) (d : Nat) (hs : P s) : P (State.triggerDie s ctx src at_ d) := by
  unfold State.triggerDie
  have x := ()
  repeat' first
    | (extract_lets +onlyGivenNames x; (fail_if_success clear x); first | (refine Keep.cut (P := P) (v := x) ?_ ?_; unfold x; clear x; rotate_left; intro hx; clear_value x) | clear_value x)
    | with_reducible assumption | with_reducible apply State.tracePut_keeps (hw.sub rfl) | with_reducible apply State.setTrace_keeps (hw.sub rfl)
    | split

theorem State.unitRuns_keeps {P : State → Prop} (hw : Frees P 0x0) (s : State) (x : Nat) (f : Job → Cmd → State) (hs : P s) (hf : ∀ (y0 : Job) (y1 : Cmd), P (f y0 y1)) : P (State.unitRuns s x f) := by
  unfold State.unitRuns
  repeat' first
    | with_reducible intro _ | with_reducible assumption | with_reducible apply State.unitActs_keeps (hw.sub rfl) | with_reducible apply hf

theorem State.unload_keeps {P : State → Prop} (hw : Frees P 0x801dfff0) (s : State) (j : Job) (hs : P s) : P (State.unload s j) := by
  unfold State.unload
  have x := ()
  repeat' first
    | (extract_lets +onlyGivenNames x; (fail_if_success clear x); first | (refine Keep.cut (P := P) (v := x) ?_ ?_; unfold x; clear x; rotate_left; intro hx; clear_value x) | clear_value x)
    | with_reducible assumption | with_reducible apply State.clearQueues_keeps (hw.sub rfl) | with_reducible apply State.disarm_keeps (hw.sub rfl)
    | with_reducible apply State.clearUnits_keeps (hw.sub rfl)
    | (with_reducible apply hw.marks rfl; with_reducible apply hw.recfgs rfl; with_reducible apply hw.faults rfl; with_reducible assumption) | split

theorem State.updQueue_keeps {P : State → Prop} (hw : Frees P 0x20) (s : State) (q : Nat) (f : QueueSt → QueueSt) (hs : P s) : P (State.updQueue s q f) := by
  unfold State.updQueue
  repeat' first
    | with_reducible assumption | with_reducible apply State.setQueue_keeps (hw.sub rfl)

theorem State.upeRun_keeps {P : State → Prop} (hw : Frees P 0xd8e7dfffe) (jid : U64) (l x n : Nat) (s : State) (hs : P s) : P (State.upeRun jid l x n s) := by
  induction n generalizing s with
  | zero => exact hs
  | succ n ih =>
    unfold State.upeRun
    split
    · exact hs
    · rename_i j _
      split
      · exact hs
      · cases hj : j.p2 with
        | none => exact hs
        | some p =>
          simp only [Option.bind_some]
          split
          · exact hs
          · rename_i h
            exact ih _ (State.accessed_keeps (hw.sub rfl) _ _ (State.updJob_keeps (hw.sub rfl) _ _ _ (State.upeStep_keeps (hw.sub rfl) s _ _ _ _ hs _ h _ rfl)))
          · exact State.streamFault_keeps (hw.sub rfl) _ _ _ _ _ _ _ hs
          · exact State.setWait_keeps (hw.sub rfl) _ _ _ hs

theorem State.vput_keeps {P : State → Prop} (hw : Frees P 0x4010) (s : State) (k : VCtx) (r : BitVec 6) (v : VReg × List U16) (hs : P s) : P (State.vput s k r v) := by
  unfold State.vput
  repeat' first
    | with_reducible assumption | with_reducible apply State.setVreg_keeps (hw.sub rfl) | with_reducible apply State.orLanes_keeps (hw.sub rfl)
    | split

theorem State.vxNext_keeps {P : State → Prop} (hw : Frees P 0x500010010) (s : State) (k : VCtx) (hs : P s) : P (State.vxNext s k) := by
  unfold State.vxNext
  have x := ()
  repeat' first
    | (extract_lets +onlyGivenNames x; (fail_if_success clear x); first | (refine Keep.cut (P := P) (v := x) ?_ ?_; unfold x; clear x; rotate_left; intro hx; clear_value x) | clear_value x)
    | with_reducible assumption | with_reducible apply State.dropFtq_keeps (hw.sub rfl) | with_reducible apply State.setRun_keeps (hw.sub rfl)
    | with_reducible apply State.setVx_keeps (hw.sub rfl) | with_reducible apply State.updUnit_keeps (hw.sub rfl) | split

theorem State.vxIssue_keeps {P : State → Prop} (hw : Frees P 0x500010010) (s : State) (v : VxId) (op : Nat) (w : VOps) (f : VCtx → Issue) (hs : P s) (hf : ∀ k, IssueAll P (f k)) : 
    P (State.vxIssue s v op w f) := by
  unfold State.vxIssue
  refine State.unitWorks_keeps (hw.sub rfl) _ _ _ hs fun j c => ?_
  split
  · extract_lets k
    split
    · exact hs
    · split
      · exact hs
      · split
        · exact hf k _ (.inr ‹_›)
        · exact State.vxNext_keeps (hw.sub rfl) _ _ (hf k _ (.inl ‹_›))
  · exact hs

theorem State.vx2_keeps {P : State → Prop} (hw : Frees P 0x500014010) (s : State) (v : VxId) (op : Nat) (w : VOps) (g : FloatFmt → RMode → Nat → Nat → Nat × U16) (hs : P s) : P (State.vx2 s v op w g) := by
  unfold State.vx2
  have x := ()
  repeat' first
    | with_reducible intro _ | (extract_lets +onlyGivenNames x; (fail_if_success clear x); clear_value x) | with_reducible assumption
    | with_reducible apply State.vxIssue_keeps (hw.sub rfl) | with_reducible apply State.vput_keeps (hw.sub rfl) | with_reducible apply IssueAll.done

theorem State.vxBits_keeps {P : State → Prop} (hw : Frees P 0x500014010) (s : State) (v : VxId) (op : Nat) (w : VOps) (f : U32 → U32 → U32) (hs : P s) : P (State.vxBits s v op w f) := by
  unfold State.vxBits
  repeat' first
    | with_reducible intro _ | with_reducible assumption | with_reducible apply State.vxIssue_keeps (hw.sub rfl)
    | with_reducible apply State.vput_keeps (hw.sub rfl) | with_reducible apply IssueAll.done

theorem State.vxElem_keeps {P : State → Prop} (hw : Frees P 0x500014010) (s : State) (v : VxId) (op : Nat) (code : Nat) (w : VOps) (hs : P s) : P (State.vxElem s v op code w) := by
  unfold State.vxElem
  repeat' first
    | with_reducible intro _ | with_reducible assumption | with_reducible apply State.vxIssue_keeps (hw.sub rfl)
    | with_reducible apply State.vput_keeps (hw.sub rfl) | with_reducible apply IssueAll.done

theorem State.vxShift_keeps {P : State → Prop} (hw : Frees P 0x500014010) (s : State) (v : VxId) (op : Nat) (w : VOps) (f : U32 → Nat → U32) (hs : P s) : P (State.vxShift s v op w f) := by
  unfold State.vxShift
  have x := ()
  repeat' first
    | with_reducible intro _ | (extract_lets +onlyGivenNames x; (fail_if_success clear x); clear_value x) | with_reducible assumption
    | with_reducible apply State.vxIssue_keeps (hw.sub rfl) | with_reducible apply State.vput_keeps (hw.sub rfl) | with_reducible apply IssueAll.done

end Sys2Proof.Machine
end

