-- ==== Sys2Proof/Laws/KeepsExec.lean ====
section
/-! SUPPORT. What each command keeps, by the parts it may write. -/

set_option linter.unusedTactic false
set_option linter.unusedVariables false

namespace Sys2Proof.Machine

theorem execCvt_keeps {P : State → Prop} (hw : Frees P 0x500014010) (v : VxId) (w : VOps) (s : State) (hs : P s) : OutAll P (execCvt v w s) := by
  unfold execCvt
  have x := ()
  repeat' first
    | with_reducible intro _
    | (extract_lets +onlyGivenNames x; (fail_if_success clear x); first | (refine Keep.cut (P := P) (v := x) ?_ ?_; unfold x; clear x; rotate_left; intro hx; clear_value x) | clear_value x)
    | with_reducible assumption | with_reducible apply State.vxIssue_keeps (hw.sub rfl) | with_reducible apply State.vput_keeps (hw.sub rfl)
    | with_reducible apply State.ran_keeps (hw.sub rfl) | with_reducible apply State.setVx_keeps (hw.sub rfl) | with_reducible apply IssueAll.done
    | with_reducible apply IssueAll.held | split

theorem execMarkTokenPop_keeps {P : State → Prop} (hw : Frees P 0x500000474) (x : UnitId) (port : Fin 9) (s : State) (hs : P s) : OutAll P (execMarkTokenPop x port s) := by
  unfold execMarkTokenPop
  have x := ()
  repeat' first
    | with_reducible intro _ | (extract_lets +onlyGivenNames x; (fail_if_success clear x); clear_value x) | with_reducible assumption
    | with_reducible apply State.unitRuns_keeps (hw.sub rfl) | with_reducible apply State.discardHead_keeps (hw.sub rfl)
    | with_reducible apply State.pushAll_keeps (hw.sub rfl) | with_reducible apply State.setWait_keeps (hw.sub rfl)
    | with_reducible apply State.popQueue_keeps (hw.sub rfl) | with_reducible apply State.ran_keeps (hw.sub rfl)
    | with_reducible apply State.updUnit_keeps (hw.sub rfl) | split

theorem execFmulPk_keeps {P : State → Prop} (hw : Frees P 0x500014010) (v : VxId) (w : VOps) (s : State) (hs : P s) : OutAll P (execFmulPk v w s) := by
  unfold execFmulPk
  repeat' first
    | with_reducible intro _ | with_reducible assumption | with_reducible apply State.vx2_keeps (hw.sub rfl)
    | with_reducible apply State.ran_keeps (hw.sub rfl)

theorem execAccTake_keeps {P : State → Prop} (hw : Frees P 0x500203810) (die : Fin 24) (m : Fin 4) (s : State) (hs : P s) : OutAll P (execAccTake die m s) := by
  unfold execAccTake
  repeat' first
    | with_reducible intro _ | with_reducible assumption | with_reducible apply State.mxeTake_keeps (hw.sub rfl)
    | with_reducible apply State.unitWorks_keeps (hw.sub rfl) | with_reducible apply State.ran_keeps (hw.sub rfl) | split

theorem execPowerOn_keeps {P : State → Prop} (hw : Frees P 0x4b010000000) (vin : Nat) (ms : Nat) (s : State) (hs : P s) : OutAll P (execPowerOn vin ms s) := by
  unfold execPowerOn
  have x := ()
  repeat' first
    | (extract_lets +onlyGivenNames x; (fail_if_success clear x); first | (refine Keep.cut (P := P) (v := x) ?_ ?_; unfold x; clear x; rotate_left; intro hx; clear_value x) | clear_value x)
    | with_reducible assumption | with_reducible apply State.holdDies_keeps (hw.sub rfl) | with_reducible apply State.setPwr_keeps (hw.sub rfl)
    | with_reducible apply hw.cold rfl | with_reducible apply State.setPins_keeps (hw.sub rfl) | with_reducible apply OutAll.next | split

theorem execResumeRestore_keeps {P : State → Prop} (hw : Frees P 0x5807ffff6) (jid : U64) (s : State) (hs : P s) : OutAll P (execResumeRestore jid s) := by
  unfold execResumeRestore
  have x := ()
  repeat' first
    | with_reducible intro _
    | (extract_lets +onlyGivenNames x; (fail_if_success clear x); refine Keep.cut (P := P) (v := x) ?_ ?_; unfold x; clear x; rotate_left; intro hx; clear_value x)
    | with_reducible assumption | with_reducible apply State.rejoinAt_keeps (hw.sub rfl) | with_reducible apply State.continueAt_keeps (hw.sub rfl)
    | with_reducible apply State.ran_keeps (hw.sub rfl) | with_reducible apply State.jobFault_keeps (hw.sub rfl)
    | with_reducible apply State.updJob_keeps (hw.sub rfl) | with_reducible apply State.withJob_keeps (hw.sub rfl)
    | (with_reducible apply hw.saves rfl; with_reducible assumption) | split

theorem execLinkDown_keeps {P : State → Prop} (hw : Frees P 0x400a00010) (p : Fin 6) (s : State) (hs : P s) : OutAll P (execLinkDown p s) := by
  unfold execLinkDown
  have x := ()
  repeat' first
    | with_reducible intro _
    | (extract_lets +onlyGivenNames x; (fail_if_success clear x); first | (refine Keep.cut (P := P) (v := x) ?_ ?_; unfold x; clear x; rotate_left; intro hx; clear_value x) | clear_value x)
    | with_reducible assumption | with_reducible apply State.takePkt_keeps (hw.sub rfl) | with_reducible apply State.stalePacket_keeps (hw.sub rfl)
    | with_reducible apply State.forward_keeps (hw.sub rfl) | with_reducible apply State.noteDown_keeps (hw.sub rfl)
    | with_reducible apply State.ran_keeps (hw.sub rfl) | split

theorem execNlEnable_keeps {P : State → Prop} (hw : Frees P 0xe00800000) (f : Func) (p : Fin 6) (s : State) (hs : P s) : OutAll P (execNlEnable f p s) := by
  unfold execNlEnable
  repeat' first
    | with_reducible intro _ | with_reducible assumption | with_reducible apply State.nlEnable_keeps (hw.sub rfl)
    | with_reducible apply State.privileged_keeps (hw.sub rfl) | with_reducible apply State.byBarOf_keeps (hw.sub rfl)

theorem execShr_keeps {P : State → Prop} (hw : Frees P 0x500014010) (v : VxId) (w : VOps) (s : State) (hs : P s) : OutAll P (execShr v w s) := by
  unfold execShr
  repeat' first
    | with_reducible intro _ | with_reducible assumption | with_reducible apply State.vxShift_keeps (hw.sub rfl)
    | with_reducible apply State.ran_keeps (hw.sub rfl)

theorem execClaim_keeps {P : State → Prop} (hw : Frees P 0x20d807dfff4) (x : UnitId) (s : State) (hs : P s) : OutAll P (execClaim x s) := by
  unfold execClaim
  have x := ()
  repeat' first
    | with_reducible intro _
    | (extract_lets +onlyGivenNames x; (fail_if_success clear x); first | (refine Keep.cut (P := P) (v := x) ?_ ?_; unfold x; clear x; rotate_left; intro hx; clear_value x) | (refine Keep.cutFunS (P := P) (v := x) ?_ ?_; unfold x; clear x; rotate_left; intro hx; clear_value x) | clear_value x)
    | with_reducible assumption | with_reducible apply State.unitRuns_keeps (hw.sub rfl) | with_reducible apply State.doFetchAdd_keeps (hw.sub rfl)
    | with_reducible apply State.discardHead_keeps (hw.sub rfl) | with_reducible apply State.setRun_keeps (hw.sub rfl)
    | with_reducible apply State.setWait_keeps (hw.sub rfl) | with_reducible apply State.claimEnd_keeps (hw.sub rfl)
    | with_reducible apply State.ran_keeps (hw.sub rfl) | with_reducible apply State.jobFault_keeps (hw.sub rfl)
    | with_reducible apply State.record_keeps (hw.sub rfl) | with_reducible apply State.updUnit_keeps (hw.sub rfl) | with_reducible apply ‹∀ _ _, P _›
    | split

theorem execGetDigests_keeps {P : State → Prop} (hw : Frees P 0x10000000000) (_port : Fin 2) (s : State) (hs : P s) : OutAll P (execGetDigests _port s) := by
  unfold execGetDigests
  repeat' first
    | with_reducible intro _ | with_reducible assumption | with_reducible apply State.spdm_keeps (hw.sub rfl)
    | with_reducible apply State.ran_keeps (hw.sub rfl)

theorem execFsub_keeps {P : State → Prop} (hw : Frees P 0x500014010) (v : VxId) (w : VOps) (s : State) (hs : P s) : OutAll P (execFsub v w s) := by
  unfold execFsub
  repeat' first
    | with_reducible intro _ | with_reducible assumption | with_reducible apply State.vx2_keeps (hw.sub rfl)
    | with_reducible apply State.ran_keeps (hw.sub rfl)

theorem execNegotiateAlgorithms_keeps {P : State → Prop} (hw : Frees P 0x10000000000) (_port : Fin 2) (s : State) (hs : P s) : OutAll P (execNegotiateAlgorithms _port s) := by
  unfold execNegotiateAlgorithms
  repeat' first
    | with_reducible intro _ | with_reducible assumption | with_reducible apply State.spdm_keeps (hw.sub rfl)
    | with_reducible apply State.ran_keeps (hw.sub rfl)

theorem execModuleReset_keeps {P : State → Prop} (hw : Frees P 0x4e00000000) (f : Func) (s : State) (hs : P s) : OutAll P (execModuleReset f s) := by
  unfold execModuleReset
  repeat' first
    | with_reducible intro _ | with_reducible assumption | with_reducible apply State.moduleReset_keeps (hw.sub rfl)
    | with_reducible apply State.mailbox_keeps (hw.sub rfl)

theorem execTrigger_keeps {P : State → Prop} (hw : Frees P 0x500000010) (ctx : Fin 32) (s : State) (hs : P s) : OutAll P (execTrigger ctx s) := by
  unfold execTrigger
  have x := ()
  repeat' first
    | with_reducible intro _ | (extract_lets +onlyGivenNames x; (fail_if_success clear x); clear_value x) | with_reducible assumption
    | with_reducible apply State.triggerDie_keeps (hw.sub rfl) | with_reducible apply State.ran_keeps (hw.sub rfl)
    | with_reducible apply State.updCtx_keeps (hw.sub rfl) | with_reducible apply Keep.foldl | split

theorem execHang_keeps {P : State → Prop} (hw : Frees P 0x500200004) (jid : U64) (s : State) (hs : P s) : OutAll P (execHang jid s) := by
  unfold execHang
  have x := ()
  repeat' first
    | with_reducible intro _
    | (extract_lets +onlyGivenNames x; (fail_if_success clear x); first | (refine Keep.cut (P := P) (v := x) ?_ ?_; unfold x; clear x; rotate_left; intro hx; clear_value x) | clear_value x)
    | with_reducible assumption | with_reducible apply State.ran_keeps (hw.sub rfl) | with_reducible apply State.askDump_keeps (hw.sub rfl)
    | with_reducible apply State.updJob_keeps (hw.sub rfl) | with_reducible apply State.withJob_keeps (hw.sub rfl)
    | with_reducible apply State.event_keeps (hw.sub rfl) | split

theorem execDecantRow_keeps {P : State → Prop} (hw : Frees P 0xd8e7dfffe) (x : UnitId) (s : State) (hs : P s) : OutAll P (execDecantRow x s) := by
  unfold execDecantRow
  repeat' first
    | with_reducible intro _ | with_reducible assumption | with_reducible apply State.unitWorks_keeps (hw.sub rfl)
    | with_reducible apply State.decantRow_keeps (hw.sub rfl) | with_reducible apply State.ran_keeps (hw.sub rfl)

theorem execPush_keeps {P : State → Prop} (hw : Frees P 0x500050070) (v : VxId) (w : VOps) (s : State) (hs : P s) : OutAll P (execPush v w s) := by
  unfold execPush
  have x := ()
  repeat' first
    | with_reducible intro _ | (extract_lets +onlyGivenNames x; (fail_if_success clear x); clear_value x) | with_reducible assumption
    | with_reducible apply State.vxIssue_keeps (hw.sub rfl) | with_reducible apply State.setWait_keeps (hw.sub rfl)
    | with_reducible apply State.pushToken_keeps (hw.sub rfl) | with_reducible apply State.spend_keeps (hw.sub rfl)
    | with_reducible apply State.ran_keeps (hw.sub rfl) | with_reducible apply State.setDec_keeps (hw.sub rfl) | with_reducible apply IssueAll.done
    | with_reducible apply IssueAll.held | split

theorem execRetrain_keeps {P : State → Prop} (hw : Frees P 0xf00a00004) (f : Func) (p : Fin 6) (s : State) (hs : P s) : OutAll P (execRetrain f p s) := by
  unfold execRetrain
  repeat' first
    | with_reducible intro _ | with_reducible assumption | with_reducible apply State.nlRetrain_keeps (hw.sub rfl)
    | with_reducible apply State.privileged_keeps (hw.sub rfl) | with_reducible apply State.byBarOf_keeps (hw.sub rfl)

theorem execRxeSum_keeps {P : State → Prop} (hw : Frees P 0x20d8e7dfffe) (die : Fin 24) (s : State) (hs : P s) : OutAll P (execRxeSum die s) := by
  unfold execRxeSum
  repeat' first
    | with_reducible intro _ | with_reducible assumption | with_reducible apply State.rxeRun_keeps (hw.sub rfl)
    | with_reducible apply State.ran_keeps (hw.sub rfl)

theorem execTrigEdge_keeps {P : State → Prop} (hw : Frees P 0x8100000000) (lowNs : Nat) (sinceNs : Nat) (s : State) (hs : P s) : OutAll P (execTrigEdge lowNs sinceNs s) := by
  unfold execTrigEdge
  have x := ()
  repeat' first
    | with_reducible intro _
    | (extract_lets +onlyGivenNames x; (fail_if_success clear x); first | (refine Keep.cut (P := P) (v := x) ?_ ?_; unfold x; clear x; rotate_left; intro hx; clear_value x) | clear_value x)
    | with_reducible assumption | with_reducible apply State.ctxTrigger_keeps (hw.sub rfl) | with_reducible apply State.ran_keeps (hw.sub rfl)
    | with_reducible apply State.setPins_keeps (hw.sub rfl) | split

theorem execDumpRequest_keeps {P : State → Prop} (hw : Frees P 0x500000000) (f : Func) (scope : Bool) (s : State) (hs : P s) : OutAll P (execDumpRequest f scope s) := by
  unfold execDumpRequest
  repeat' first
    | with_reducible intro _ | with_reducible assumption | with_reducible apply State.writeDumpCtrl_keeps (hw.sub rfl)
    | with_reducible apply State.byBar_keeps (hw.sub rfl)

theorem execFmaxPk_keeps {P : State → Prop} (hw : Frees P 0x500014010) (v : VxId) (w : VOps) (s : State) (hs : P s) : OutAll P (execFmaxPk v w s) := by
  unfold execFmaxPk
  repeat' first
    | with_reducible intro _ | with_reducible assumption | with_reducible apply State.vx2_keeps (hw.sub rfl)
    | with_reducible apply State.ran_keeps (hw.sub rfl)

theorem execInvalidateDone_keeps {P : State → Prop} (hw : Frees P 0x110000000) (ctx : Fin 32) (s : State) (hs : P s) : OutAll P (execInvalidateDone ctx s) := by
  unfold execInvalidateDone
  repeat' first
    | with_reducible intro _ | with_reducible assumption | with_reducible apply State.finishInval_keeps (hw.sub rfl)
    | with_reducible apply State.ran_keeps (hw.sub rfl)

theorem execSignal_keeps {P : State → Prop} (hw : Frees P 0xd807dfff4) (x : UnitId) (sid : U16) (a : U64) (s : State) (hs : P s) : OutAll P (execSignal x sid a s) := by
  unfold execSignal
  repeat' first
    | with_reducible intro _ | with_reducible assumption | with_reducible apply State.doSignal_keeps (hw.sub rfl)
    | with_reducible apply State.ran_keeps (hw.sub rfl)

theorem execRead_keeps {P : State → Prop} (hw : Frees P 0x10f807dfff4) (by_ : SyncBy) (sid : U16) (s : State) (hs : P s) : OutAll P (execRead by_ sid s) := by
  unfold execRead
  have x := ()
  repeat' first
    | with_reducible intro _
    | (extract_lets +onlyGivenNames x; (fail_if_success clear x); refine Keep.cut (P := P) (v := x) ?_ ?_; unfold x; clear x; rotate_left; intro hx; clear_value x)
    | with_reducible assumption | with_reducible apply State.reply_keeps (hw.sub rfl) | with_reducible apply State.performRead_keeps (hw.sub rfl)
    | with_reducible apply State.sendReply_keeps (hw.sub rfl) | with_reducible apply State.deny_keeps (hw.sub rfl)
    | with_reducible apply State.syncOp_keeps (hw.sub rfl) | with_reducible apply State.syncDone_keeps (hw.sub rfl)
    | with_reducible apply State.exchange_keeps (hw.sub rfl) | with_reducible apply State.ran_keeps (hw.sub rfl) | split

theorem execFmul_keeps {P : State → Prop} (hw : Frees P 0x500014010) (v : VxId) (w : VOps) (s : State) (hs : P s) : OutAll P (execFmul v w s) := by
  unfold execFmul
  repeat' first
    | with_reducible intro _ | with_reducible assumption | with_reducible apply State.vx2_keeps (hw.sub rfl)
    | with_reducible apply State.ran_keeps (hw.sub rfl)

theorem execDoorbellInvalidate_keeps {P : State → Prop} (hw : Frees P 0x500000000) (ctx : Fin 32) (s : State) (hs : P s) : OutAll P (execDoorbellInvalidate ctx s) := by
  unfold execDoorbellInvalidate
  repeat' first
    | with_reducible intro _ | with_reducible assumption | with_reducible apply State.readDoorbell_keeps (hw.sub rfl)
    | with_reducible apply State.ran_keeps (hw.sub rfl) | split

theorem execHdmCommit_keeps {P : State → Prop} (hw : Frees P 0xe08000000) (f : Func) (c : Fin 4) (k : Fin 4) (v : U64) (devOk : Bool) (s : State) (hs : P s) : OutAll P (execHdmCommit f c k v devOk s) := by
  unfold execHdmCommit
  repeat' first
    | with_reducible intro _ | with_reducible assumption | with_reducible apply State.writeHdm_keeps (hw.sub rfl)
    | with_reducible apply State.privileged_keeps (hw.sub rfl) | with_reducible apply State.byBarOf_keeps (hw.sub rfl)

theorem execCommandEnd_keeps {P : State → Prop} (hw : Frees P 0x20500000070) (x : UnitId) (s : State) (hs : P s) : OutAll P (execCommandEnd x s) := by
  unfold execCommandEnd
  have x := ()
  repeat' first
    | with_reducible intro _
    | (extract_lets +onlyGivenNames x; (fail_if_success clear x); first | (refine Keep.cut (P := P) (v := x) ?_ ?_; unfold x; clear x; rotate_left; intro hx; clear_value x) | clear_value x)
    | with_reducible assumption | with_reducible apply State.unitRuns_keeps (hw.sub rfl) | with_reducible apply State.pushAll_keeps (hw.sub rfl)
    | with_reducible apply State.setWait_keeps (hw.sub rfl) | with_reducible apply State.ran_keeps (hw.sub rfl)
    | with_reducible apply State.tickFresh_keeps (hw.sub rfl) | with_reducible apply State.traceEv_keeps (hw.sub rfl)
    | with_reducible apply State.updUnit_keeps (hw.sub rfl) | split

theorem execFmin_keeps {P : State → Prop} (hw : Frees P 0x500014010) (v : VxId) (w : VOps) (s : State) (hs : P s) : OutAll P (execFmin v w s) := by
  unfold execFmin
  repeat' first
    | with_reducible intro _ | with_reducible assumption | with_reducible apply State.vx2_keeps (hw.sub rfl)
    | with_reducible apply State.ran_keeps (hw.sub rfl)

theorem execFsubPk_keeps {P : State → Prop} (hw : Frees P 0x500014010) (v : VxId) (w : VOps) (s : State) (hs : P s) : OutAll P (execFsubPk v w s) := by
  unfold execFsubPk
  repeat' first
    | with_reducible intro _ | with_reducible assumption | with_reducible apply State.vx2_keeps (hw.sub rfl)
    | with_reducible apply State.ran_keeps (hw.sub rfl)

theorem execCorkPhaseStart_keeps {P : State → Prop} (hw : Frees P 0x400a00010) (jid : U64) (s : State) (hs : P s) : OutAll P (execCorkPhaseStart jid s) := by
  unfold execCorkPhaseStart
  have x := ()
  repeat' first
    | with_reducible intro _ | (extract_lets +onlyGivenNames x; (fail_if_success clear x); clear_value x) | with_reducible assumption
    | with_reducible apply State.corkPhase_keeps (hw.sub rfl) | with_reducible apply State.ran_keeps (hw.sub rfl)
    | with_reducible apply State.updJob_keeps (hw.sub rfl) | with_reducible apply State.withJob_keeps (hw.sub rfl) | split

theorem execShedRecovery_keeps {P : State → Prop} (hw : Frees P 0x371a9ff9fe) (s : State) (hs : P s) : OutAll P (execShedRecovery s) := by
  unfold execShedRecovery
  have x := ()
  repeat' first
    | with_reducible intro _
    | (extract_lets +onlyGivenNames x; (fail_if_success clear x); first | (refine Keep.cut (P := P) (v := x) ?_ ?_; unfold x; clear x; rotate_left; intro hx; clear_value x) | clear_value x)
    | with_reducible assumption | with_reducible apply State.thermalEvent_keeps (hw.sub rfl)
    | with_reducible apply State.supplyEvent_keeps (hw.sub rfl) | with_reducible apply State.recover_keeps (hw.sub rfl)
    | with_reducible apply State.ran_keeps (hw.sub rfl) | with_reducible apply State.setPwr_keeps (hw.sub rfl) | split

theorem execFlitSlot_keeps {P : State → Prop} (hw : Frees P 0x20400800000) (p : Fin 6) (s : State) (hs : P s) : OutAll P (execFlitSlot p s) := by
  unfold execFlitSlot
  have x := ()
  repeat' first
    | with_reducible intro _
    | (extract_lets +onlyGivenNames x; (fail_if_success clear x); first | (refine Keep.cut (P := P) (v := x) ?_ ?_; unfold x; clear x; rotate_left; intro hx; clear_value x) | clear_value x)
    | with_reducible assumption | with_reducible apply State.ran_keeps (hw.sub rfl) | with_reducible apply State.tickFresh_keeps (hw.sub rfl)
    | with_reducible apply State.setPort_keeps (hw.sub rfl) | with_reducible apply State.cntAdd_keeps (hw.sub rfl) | split

theorem execNlTorusWrite_keeps {P : State → Prop} (hw : Frees P 0xe01000000) (f : Func) (p : Fin 6) (v : U64) (s : State) (hs : P s) : OutAll P (execNlTorusWrite f p v s) := by
  unfold execNlTorusWrite
  repeat' first
    | with_reducible intro _ | with_reducible assumption | with_reducible apply State.writeTorus_keeps (hw.sub rfl)
    | with_reducible apply State.privileged_keeps (hw.sub rfl) | with_reducible apply State.byBarOf_keeps (hw.sub rfl)

theorem execFence_keeps {P : State → Prop} (hw : Frees P 0x2e00000000) (f : Func) (die : Fin 32) (s : State) (hs : P s) : OutAll P (execFence f die s) := by
  unfold execFence
  repeat' first
    | with_reducible intro _ | with_reducible assumption | with_reducible apply State.privileged_keeps (hw.sub rfl)
    | with_reducible apply State.dieCommand_keeps (hw.sub rfl) | with_reducible apply State.byPwr_keeps (hw.sub rfl)
    | with_reducible apply State.exchange_keeps (hw.sub rfl)

theorem execDumpRestart_keeps {P : State → Prop} (hw : Frees P 0x500200010) (s : State) (hs : P s) : OutAll P (execDumpRestart s) := by
  unfold execDumpRestart
  have x := ()
  repeat' first
    | with_reducible intro _
    | (extract_lets +onlyGivenNames x; (fail_if_success clear x); first | (refine Keep.cut (P := P) (v := x) ?_ ?_; unfold x; clear x; rotate_left; intro hx; clear_value x) | clear_value x)
    | with_reducible assumption | with_reducible apply State.runUnits_keeps (hw.sub rfl) | with_reducible apply State.ran_keeps (hw.sub rfl)
    | with_reducible apply State.updJob_keeps (hw.sub rfl) | with_reducible apply State.withJob_keeps (hw.sub rfl)
    | with_reducible apply State.updUnit_keeps (hw.sub rfl) | with_reducible apply State.setObs_keeps (hw.sub rfl)
    | with_reducible apply State.updCtx_keeps (hw.sub rfl) | with_reducible apply Keep.foldl | split

theorem execSmbSecBoot_keeps {P : State → Prop} (hw : Frees P 0x10000000000) (s : State) (hs : P s) : OutAll P (execSmbSecBoot s) := by
  unfold execSmbSecBoot
  repeat' first
    | with_reducible assumption | with_reducible apply State.smbRead_keeps (hw.sub rfl) | with_reducible apply OutAll.next

theorem execMarkTakeEffect_keeps {P : State → Prop} (hw : Frees P 0xd8e7ffffe) (s : State) (hs : P s) : OutAll P (execMarkTakeEffect s) := by
  unfold execMarkTakeEffect
  repeat' first
    | with_reducible intro _ | with_reducible assumption | with_reducible apply State.takeMark_keeps (hw.sub rfl)
    | with_reducible apply State.ran_keeps (hw.sub rfl) | with_reducible apply Keep.foldl

theorem execAnd_keeps {P : State → Prop} (hw : Frees P 0x500014010) (v : VxId) (w : VOps) (s : State) (hs : P s) : OutAll P (execAnd v w s) := by
  unfold execAnd
  repeat' first
    | with_reducible intro _ | with_reducible assumption | with_reducible apply State.vxBits_keeps (hw.sub rfl)
    | with_reducible apply State.ran_keeps (hw.sub rfl)

theorem execChainSave_keeps {P : State → Prop} (hw : Frees P 0x20d8e7dfffe) (jid : U64) (s : State) (hs : P s) : OutAll P (execChainSave jid s) := by
  unfold execChainSave
  have x := ()
  repeat' first
    | with_reducible intro _
    | (extract_lets +onlyGivenNames x; (fail_if_success clear x); first | (refine Keep.cut (P := P) (v := x) ?_ ?_; unfold x; clear x; rotate_left; intro hx; clear_value x) | clear_value x)
    | with_reducible assumption | with_reducible apply State.unload_keeps (hw.sub rfl) | with_reducible apply State.ran_keeps (hw.sub rfl)
    | with_reducible apply State.tickFresh_keeps (hw.sub rfl) | with_reducible apply State.veilDva_keeps (hw.sub rfl)
    | with_reducible apply State.storeQuiet_keeps (hw.sub rfl) | with_reducible apply State.updJob_keeps (hw.sub rfl)
    | with_reducible apply State.record_keeps (hw.sub rfl) | with_reducible apply State.withJob_keeps (hw.sub rfl)
    | with_reducible apply State.postCpl_keeps (hw.sub rfl) | (with_reducible apply hw.saves rfl; with_reducible assumption) | split

theorem execBeatEdge_keeps {P : State → Prop} (hw : Frees P 0x6bf9effffff) (sinceNs : Nat) (s : State) (hs : P s) : OutAll P (execBeatEdge sinceNs s) := by
  unfold execBeatEdge
  have x := ()
  repeat' first
    | with_reducible intro _
    | (extract_lets +onlyGivenNames x; (fail_if_success clear x); refine Keep.cut (P := P) (v := x) ?_ ?_; unfold x; clear x; rotate_left; intro hx; clear_value x)
    | with_reducible assumption | with_reducible apply State.ran_keeps (hw.sub rfl) | with_reducible apply State.boundary_keeps (hw.sub rfl)
    | with_reducible apply State.launchWords_keeps (hw.sub rfl) | with_reducible apply State.setTime_keeps (hw.sub rfl) | split

theorem execRxeArgmin_keeps {P : State → Prop} (hw : Frees P 0x20d8e7dfffe) (die : Fin 24) (s : State) (hs : P s) : OutAll P (execRxeArgmin die s) := by
  unfold execRxeArgmin
  repeat' first
    | with_reducible intro _ | with_reducible assumption | with_reducible apply State.rxeRun_keeps (hw.sub rfl)
    | with_reducible apply State.ran_keeps (hw.sub rfl)

theorem execRxeNorm2_keeps {P : State → Prop} (hw : Frees P 0x20d8e7dfffe) (die : Fin 24) (s : State) (hs : P s) : OutAll P (execRxeNorm2 die s) := by
  unfold execRxeNorm2
  repeat' first
    | with_reducible intro _ | with_reducible assumption | with_reducible apply State.rxeRun_keeps (hw.sub rfl)
    | with_reducible apply State.ran_keeps (hw.sub rfl)

theorem execPinDisable_keeps {P : State → Prop} (hw : Frees P 0x120000000) (f : Func) (i : Fin 64) (s : State) (hs : P s) : OutAll P (execPinDisable f i s) := by
  unfold execPinDisable
  repeat' first
    | with_reducible intro _ | with_reducible assumption | with_reducible apply State.clearPin_keeps (hw.sub rfl)
    | with_reducible apply State.byBar_keeps (hw.sub rfl)

theorem execMxeDrain_keeps {P : State → Prop} (hw : Frees P 0x20d8e7dfffe) (die : Fin 24) (m : Fin 4) (s : State) (hs : P s) : OutAll P (execMxeDrain die m s) := by
  unfold execMxeDrain
  have x := ()
  repeat' first
    | with_reducible intro _ | (extract_lets +onlyGivenNames x; (fail_if_success clear x); clear_value x) | with_reducible assumption
    | with_reducible apply State.mxeDrain_keeps (hw.sub rfl) | with_reducible apply State.unitWorks_keeps (hw.sub rfl)
    | with_reducible apply State.discardHead_keeps (hw.sub rfl) | with_reducible apply State.ran_keeps (hw.sub rfl) | split

theorem execQuiesce_keeps {P : State → Prop} (hw : Frees P 0x2e00000000) (f : Func) (die : Fin 32) (s : State) (hs : P s) : OutAll P (execQuiesce f die s) := by
  unfold execQuiesce
  repeat' first
    | with_reducible intro _ | with_reducible assumption | with_reducible apply State.privileged_keeps (hw.sub rfl)
    | with_reducible apply State.dieCommand_keeps (hw.sub rfl) | with_reducible apply State.byPwr_keeps (hw.sub rfl)
    | with_reducible apply State.exchange_keeps (hw.sub rfl)

theorem execModRst_keeps {P : State → Prop} (hw : Frees P 0x48000000000) (low : Bool) (s : State) (hs : P s) : OutAll P (execModRst low s) := by
  unfold execModRst
  have x := ()
  repeat' first
    | with_reducible intro _
    | (extract_lets +onlyGivenNames x; (fail_if_success clear x); first | (refine Keep.cutFunS (P := P) (v := x) ?_ ?_; unfold x; clear x; rotate_left; intro hx; clear_value x) | clear_value x)
    | with_reducible assumption | with_reducible apply hw.warm rfl | with_reducible apply State.setPins_keeps (hw.sub rfl)
    | with_reducible apply ‹∀ _ _, P _› | with_reducible apply OutAll.next | split

theorem execRxeTopk_keeps {P : State → Prop} (hw : Frees P 0x20d8e7dfffe) (die : Fin 24) (s : State) (hs : P s) : OutAll P (execRxeTopk die s) := by
  unfold execRxeTopk
  repeat' first
    | with_reducible intro _ | with_reducible assumption | with_reducible apply State.rxeRun_keeps (hw.sub rfl)
    | with_reducible apply State.ran_keeps (hw.sub rfl)

theorem execResourceClaim_keeps {P : State → Prop} (hw : Frees P 0xc00000000) (f : Func) (r : Claimed) (want : Bool) (s : State) (hs : P s) : OutAll P (execResourceClaim f r want s) := by
  unfold execResourceClaim
  repeat' first
    | with_reducible intro _ | with_reducible assumption | with_reducible apply State.byBarOf_keeps (hw.sub rfl)
    | with_reducible apply State.askClaim_keeps (hw.sub rfl)

theorem execTraceDrop_keeps {P : State → Prop} (hw : Frees P 0x500000004) (die : Fin 32) (s : State) (hs : P s) : OutAll P (execTraceDrop die s) := by
  unfold execTraceDrop
  have x := ()
  repeat' first
    | with_reducible intro _ | (extract_lets +onlyGivenNames x; (fail_if_success clear x); clear_value x) | with_reducible assumption
    | with_reducible apply State.ran_keeps (hw.sub rfl) | with_reducible apply State.setTrace_keeps (hw.sub rfl)
    | with_reducible apply State.event_keeps (hw.sub rfl) | split

theorem execReset_keeps {P : State → Prop} (hw : Frees P 0x2e00000000) (f : Func) (die : Fin 32) (s : State) (hs : P s) : OutAll P (execReset f die s) := by
  unfold execReset
  repeat' first
    | with_reducible intro _ | with_reducible assumption | with_reducible apply State.privileged_keeps (hw.sub rfl)
    | with_reducible apply State.dieCommand_keeps (hw.sub rfl) | with_reducible apply State.byPwr_keeps (hw.sub rfl)
    | with_reducible apply State.exchange_keeps (hw.sub rfl)

theorem execGddr7Write_keeps {P : State → Prop} (hw : Frees P 0x5867dfffe) (by_ : Stream) (a : BitVec 45) (data : List Byte) (err : EccErr) (s : State) (hs : P s) : OutAll P (execGddr7Write by_ a data err s) := by
  unfold execGddr7Write
  have x := ()
  repeat' first
    | with_reducible intro _
    | (extract_lets +onlyGivenNames x; (fail_if_success clear x); first | (refine Keep.cut (P := P) (v := x) ?_ ?_; unfold x; clear x; rotate_left; intro hx; clear_value x) | clear_value x)
    | with_reducible assumption | with_reducible apply State.poisonTo_keeps (hw.sub rfl) | with_reducible apply State.meet_keeps (hw.sub rfl)
    | with_reducible apply State.ran_keeps (hw.sub rfl) | with_reducible apply State.putBytes_keeps (hw.sub rfl)
    | with_reducible apply State.cleanBurst_keeps (hw.sub rfl) | with_reducible apply State.cntAdd_keeps (hw.sub rfl) | split

theorem execGetMeasurements_keeps {P : State → Prop} (hw : Frees P 0x10000000000) (_port : Fin 2) (nonce : BitVec 256) (s : State) (hs : P s) : OutAll P (execGetMeasurements _port nonce s) := by
  unfold execGetMeasurements
  repeat' first
    | with_reducible intro _ | with_reducible assumption | with_reducible apply State.spdm_keeps (hw.sub rfl)
    | with_reducible apply State.ran_keeps (hw.sub rfl)

theorem execRxeMean_keeps {P : State → Prop} (hw : Frees P 0x20d8e7dfffe) (die : Fin 24) (s : State) (hs : P s) : OutAll P (execRxeMean die s) := by
  unfold execRxeMean
  repeat' first
    | with_reducible intro _ | with_reducible assumption | with_reducible apply State.rxeRun_keeps (hw.sub rfl)
    | with_reducible apply State.ran_keeps (hw.sub rfl)

theorem execPinComplete_keeps {P : State → Prop} (hw : Frees P 0x160000000) (ctx : Fin 32) (i : Fin 64) (s : State) (hs : P s) : OutAll P (execPinComplete ctx i s) := by
  unfold execPinComplete
  have x := ()
  repeat' first
    | with_reducible intro _ | (extract_lets +onlyGivenNames x; (fail_if_success clear x); clear_value x) | with_reducible assumption
    | with_reducible apply State.endPin_keeps (hw.sub rfl) | with_reducible apply State.ran_keeps (hw.sub rfl)
    | with_reducible apply State.askHost_keeps (hw.sub rfl) | split

theorem execBoundReadReply_keeps {P : State → Prop} (hw : Frees P 0xd807dfff4) (x : UnitId) (slot : Nat) (s : State) (hs : P s) : OutAll P (execBoundReadReply x slot s) := by
  unfold execBoundReadReply
  have x := ()
  repeat' first
    | with_reducible intro _ | (extract_lets +onlyGivenNames x; (fail_if_success clear x); clear_value x) | with_reducible assumption
    | with_reducible apply State.takeReply_keeps (hw.sub rfl) | with_reducible apply State.ran_keeps (hw.sub rfl)
    | with_reducible apply State.withUnitJob_keeps (hw.sub rfl) | with_reducible apply State.on_keeps (hw.sub rfl)
    | with_reducible apply State.updUnit_keeps (hw.sub rfl) | split

theorem execReconfigDrain_keeps {P : State → Prop} (hw : Frees P 0x500270534) (s : State) (hs : P s) : OutAll P (execReconfigDrain s) := by
  unfold execReconfigDrain
  repeat' first
    | with_reducible intro _ | with_reducible assumption | with_reducible apply State.switch_keeps (hw.sub rfl)
    | with_reducible apply State.ran_keeps (hw.sub rfl) | with_reducible apply Keep.foldl | split

theorem execDebugUnlock_keeps {P : State → Prop} (hw : Frees P 0x4e00000000) (f : Func) (token : BitVec 8192) (s : State) (hs : P s) : OutAll P (execDebugUnlock f token s) := by
  unfold execDebugUnlock
  repeat' first
    | with_reducible intro _ | with_reducible assumption | with_reducible apply State.mailbox_keeps (hw.sub rfl)
    | with_reducible apply State.debugUnlock_keeps (hw.sub rfl)

theorem execFadd_keeps {P : State → Prop} (hw : Frees P 0x500014010) (v : VxId) (w : VOps) (s : State) (hs : P s) : OutAll P (execFadd v w s) := by
  unfold execFadd
  repeat' first
    | with_reducible intro _ | with_reducible assumption | with_reducible apply State.vx2_keeps (hw.sub rfl)
    | with_reducible apply State.ran_keeps (hw.sub rfl)

theorem execLaneLockLoss_keeps {P : State → Prop} (hw : Frees P 0x500a00004) (p : Fin 6) (s : State) (hs : P s) : OutAll P (execLaneLockLoss p s) := by
  unfold execLaneLockLoss
  repeat' first
    | with_reducible intro _ | with_reducible assumption | with_reducible apply State.portDown_keeps (hw.sub rfl)
    | with_reducible apply State.ran_keeps (hw.sub rfl)

theorem execPacketOriginate_keeps {P : State → Prop} (hw : Frees P 0xd8efdfffe) (p : Fin 6) (s : State) (hs : P s) : OutAll P (execPacketOriginate p s) := by
  unfold execPacketOriginate
  have x := ()
  repeat' first
    | with_reducible intro _
    | (extract_lets +onlyGivenNames x; (fail_if_success clear x); first | (refine Keep.cut (P := P) (v := x) ?_ ?_; unfold x; clear x; rotate_left; intro hx; clear_value x) | clear_value x)
    | with_reducible assumption | with_reducible apply State.releaseCork_keeps (hw.sub rfl)
    | with_reducible apply State.originateExchange_keeps (hw.sub rfl) | with_reducible apply State.stepPlan_keeps (hw.sub rfl)
    | with_reducible apply State.leaves_keeps (hw.sub rfl) | with_reducible apply State.originate_keeps (hw.sub rfl)
    | with_reducible apply State.ran_keeps (hw.sub rfl) | with_reducible apply State.withJob_keeps (hw.sub rfl) | split

theorem execContextDisable_keeps {P : State → Prop} (hw : Frees P 0x5807dfff4) (f : Func) (s : State) (hs : P s) : OutAll P (execContextDisable f s) := by
  unfold execContextDisable
  repeat' first
    | with_reducible intro _ | with_reducible assumption | with_reducible apply State.disableCtx_keeps (hw.sub rfl)
    | with_reducible apply State.byBar_keeps (hw.sub rfl)

theorem execSoftTrig_keeps {P : State → Prop} (hw : Frees P 0x100000000) (f : Func) (s : State) (hs : P s) : OutAll P (execSoftTrig f s) := by
  unfold execSoftTrig
  repeat' first
    | with_reducible intro _ | with_reducible assumption | with_reducible apply State.ctxTrigger_keeps (hw.sub rfl)
    | with_reducible apply State.byBar_keeps (hw.sub rfl)

theorem execAbortFault_keeps {P : State → Prop} (hw : Frees P 0x5807dfff4) (f : Func) (fid : U32) (s : State) (hs : P s) : OutAll P (execAbortFault f fid s) := by
  unfold execAbortFault
  repeat' first
    | with_reducible intro _ | with_reducible assumption | with_reducible apply State.byBar_keeps (hw.sub rfl)
    | with_reducible apply State.abortOf_keeps (hw.sub rfl)

theorem execTileComplete_keeps {P : State → Prop} (hw : Frees P 0x20d8e7dfffe) (x : UnitId) (s : State) (hs : P s) : OutAll P (execTileComplete x s) := by
  unfold execTileComplete
  repeat' first
    | with_reducible intro _ | with_reducible assumption | with_reducible apply State.unitWorks_keeps (hw.sub rfl)
    | with_reducible apply State.completeTile_keeps (hw.sub rfl) | with_reducible apply State.ran_keeps (hw.sub rfl) | split

theorem execDelayEchoReceive_keeps {P : State → Prop} (hw : Frees P 0x800000) (p : Fin 6) (roundTripPs : Nat) (s : State) (hs : P s) : OutAll P (execDelayEchoReceive p roundTripPs s) := by
  unfold execDelayEchoReceive
  repeat' first
    | with_reducible intro _ | with_reducible assumption | with_reducible apply State.ran_keeps (hw.sub rfl)
    | with_reducible apply State.updPort_keeps (hw.sub rfl)

theorem execFwActivateDie_keeps {P : State → Prop} (hw : Frees P 0x6e00000000) (f : Func) (die : Fin 32) (s : State) (hs : P s) : OutAll P (execFwActivateDie f die s) := by
  unfold execFwActivateDie
  repeat' first
    | with_reducible intro _ | with_reducible assumption | with_reducible apply State.mailbox_keeps (hw.sub rfl)
    | with_reducible apply State.fwActivate_keeps (hw.sub rfl)

theorem execFruEepromWrite_keeps {P : State → Prop} (hw : Frees P 0x18000000000) (addr : Nat) (data : List Byte) (s : State) (hs : P s) : OutAll P (execFruEepromWrite addr data s) := by
  unfold execFruEepromWrite
  have x := ()
  repeat' first
    | (extract_lets +onlyGivenNames x; (fail_if_success clear x); clear_value x) | with_reducible assumption
    | with_reducible apply State.reply_keeps (hw.sub rfl) | with_reducible apply State.setPins_keeps (hw.sub rfl) | with_reducible apply OutAll.next
    | split

theorem execCxlPortDown_keeps {P : State → Prop} (hw : Frees P 0x205887dfffe) (c : Fin 4) (cause : Fin 7) (s : State) (hs : P s) : OutAll P (execCxlPortDown c cause s) := by
  unfold execCxlPortDown
  repeat' first
    | with_reducible intro _ | with_reducible assumption | with_reducible apply State.ran_keeps (hw.sub rfl)
    | with_reducible apply State.cxlDown_keeps (hw.sub rfl) | with_reducible apply State.updCxl_keeps (hw.sub rfl) | split

theorem execBeatSetWrite_keeps {P : State → Prop} (hw : Frees P 0xe00000001) (f : Func) (v : U64) (s : State) (hs : P s) : OutAll P (execBeatSetWrite f v s) := by
  unfold execBeatSetWrite
  repeat' first
    | with_reducible intro _ | with_reducible assumption | with_reducible apply State.writeBeatSet_keeps (hw.sub rfl)
    | with_reducible apply State.privileged_keeps (hw.sub rfl) | with_reducible apply State.byBarOf_keeps (hw.sub rfl)

theorem execHandover_keeps {P : State → Prop} (hw : Frees P 0xe00000000) (f : Func) (port : Fin 2) (s : State) (hs : P s) : OutAll P (execHandover f port s) := by
  unfold execHandover
  repeat' first
    | with_reducible intro _ | with_reducible assumption | with_reducible apply State.privileged_keeps (hw.sub rfl)
    | with_reducible apply State.byBarOf_keeps (hw.sub rfl) | with_reducible apply State.askHandover_keeps (hw.sub rfl)

theorem execPass1Norm_keeps {P : State → Prop} (hw : Frees P 0x20d807dfff4) (jid : U64) (s : State) (hs : P s) : OutAll P (execPass1Norm jid s) := by
  unfold execPass1Norm
  have x := ()
  repeat' first
    | with_reducible intro _
    | (extract_lets +onlyGivenNames x; (fail_if_success clear x); first | (refine Keep.cut (P := P) (v := x) ?_ ?_; unfold x; clear x; rotate_left; intro hx; clear_value x) | clear_value x)
    | with_reducible assumption | with_reducible apply State.ran_keeps (hw.sub rfl) | with_reducible apply State.tickFresh_keeps (hw.sub rfl)
    | with_reducible apply State.on_keeps (hw.sub rfl) | with_reducible apply State.updJob_keeps (hw.sub rfl)
    | with_reducible apply State.withJob_keeps (hw.sub rfl) | with_reducible apply State.updUnit_keeps (hw.sub rfl) | split

theorem execSmbSerial_keeps {P : State → Prop} (hw : Frees P 0x10000000000) (s : State) (hs : P s) : OutAll P (execSmbSerial s) := by
  unfold execSmbSerial
  repeat' first
    | with_reducible assumption | with_reducible apply State.reply_keeps (hw.sub rfl) | with_reducible apply OutAll.next | split

theorem execFminPk_keeps {P : State → Prop} (hw : Frees P 0x500014010) (v : VxId) (w : VOps) (s : State) (hs : P s) : OutAll P (execFminPk v w s) := by
  unfold execFminPk
  repeat' first
    | with_reducible intro _ | with_reducible assumption | with_reducible apply State.vx2_keeps (hw.sub rfl)
    | with_reducible apply State.ran_keeps (hw.sub rfl)

theorem execFmaPk_keeps {P : State → Prop} (hw : Frees P 0x500014010) (v : VxId) (w : VOps) (s : State) (hs : P s) : OutAll P (execFmaPk v w s) := by
  unfold execFmaPk
  repeat' first
    | with_reducible intro _ | with_reducible assumption | with_reducible apply State.vxIssue_keeps (hw.sub rfl)
    | with_reducible apply State.vput_keeps (hw.sub rfl) | with_reducible apply State.ran_keeps (hw.sub rfl) | with_reducible apply IssueAll.done

theorem execSyncReply_keeps {P : State → Prop} (hw : Frees P 0x10) (x : UnitId) (s : State) (hs : P s) : OutAll P (execSyncReply x s) := by
  unfold execSyncReply
  have x := ()
  repeat' first
    | with_reducible intro _ | (extract_lets +onlyGivenNames x; (fail_if_success clear x); clear_value x) | with_reducible assumption
    | with_reducible apply State.ran_keeps (hw.sub rfl) | with_reducible apply State.setUnit_keeps (hw.sub rfl) | split

theorem execSmbCoolant_keeps {P : State → Prop} (hw : Frees P 0x10000000000) (s : State) (hs : P s) : OutAll P (execSmbCoolant s) := by
  unfold execSmbCoolant
  repeat' first
    | with_reducible assumption | with_reducible apply State.smbRead_keeps (hw.sub rfl) | with_reducible apply OutAll.next

theorem execDescriptorFetch_keeps {P : State → Prop} (hw : Frees P 0x700000000) (ctx : Fin 32) (ds : List Fetched) (s : State) (hs : P s) : OutAll P (execDescriptorFetch ctx ds s) := by
  unfold execDescriptorFetch
  have x := ()
  repeat' first
    | with_reducible intro _ | (extract_lets +onlyGivenNames x; (fail_if_success clear x); clear_value x) | with_reducible assumption
    | with_reducible apply State.ran_keeps (hw.sub rfl) | with_reducible apply State.updHp_keeps (hw.sub rfl)
    | with_reducible apply State.cntAdd_keeps (hw.sub rfl) | with_reducible apply State.setCtx_keeps (hw.sub rfl) | split

theorem execTraceDrain_keeps {P : State → Prop} (hw : Frees P 0xd0e00000e) (die : Fin 32) (s : State) (hs : P s) : OutAll P (execTraceDrain die s) := by
  unfold execTraceDrain
  repeat' first
    | with_reducible intro _ | with_reducible assumption | with_reducible apply State.drainOne_keeps (hw.sub rfl)
    | with_reducible apply State.ran_keeps (hw.sub rfl) | split

theorem execAdvanceSvn_keeps {P : State → Prop} (hw : Frees P 0x4e00000000) (f : Func) (ty : Byte) (s : State) (hs : P s) : OutAll P (execAdvanceSvn f ty s) := by
  unfold execAdvanceSvn
  repeat' first
    | with_reducible intro _ | with_reducible assumption | with_reducible apply State.mailbox_keeps (hw.sub rfl)
    | with_reducible apply State.advanceSvn_keeps (hw.sub rfl)

theorem execAtsInvalidation_keeps {P : State → Prop} (hw : Frees P 0x160000000) (port : Fin 2) (lo : Nat) (hi : Nat) (s : State) (hs : P s) : OutAll P (execAtsInvalidation port lo hi s) := by
  unfold execAtsInvalidation
  have x := ()
  repeat' first
    | with_reducible intro _
    | (extract_lets +onlyGivenNames x; (fail_if_success clear x); refine Keep.cut (P := P) (v := x) ?_ ?_; unfold x; clear x; rotate_left; intro hx; clear_value x)
    | with_reducible assumption | with_reducible apply State.revokeBy_keeps (hw.sub rfl) | with_reducible apply State.ran_keeps (hw.sub rfl)
    | (with_reducible apply hw.ats rfl; with_reducible assumption)

theorem execHostLinkUp_keeps {P : State → Prop} (hw : Frees P 0x700000004) (port : Fin 2) (cxl : Bool) (full : Bool) (s : State) (hs : P s) : OutAll P (execHostLinkUp port cxl full s) := by
  unfold execHostLinkUp
  have x := ()
  repeat' first
    | with_reducible intro _
    | (extract_lets +onlyGivenNames x; (fail_if_success clear x); refine Keep.cut (P := P) (v := x) ?_ ?_; unfold x; clear x; rotate_left; intro hx; clear_value x)
    | with_reducible assumption | with_reducible apply State.ran_keeps (hw.sub rfl) | with_reducible apply State.flushCtx_keeps (hw.sub rfl)
    | with_reducible apply State.updHp_keeps (hw.sub rfl) | with_reducible apply State.updCtx_keeps (hw.sub rfl) | with_reducible apply Keep.foldl
    | split

theorem execScrubWindow_keeps {P : State → Prop} (hw : Frees P 0x50600000e) (errs : List ScrubErr) (s : State) (hs : P s) : OutAll P (execScrubWindow errs s) := by
  unfold execScrubWindow
  have x := ()
  repeat' first
    | with_reducible intro _
    | (extract_lets +onlyGivenNames x; (fail_if_success clear x); first | (refine Keep.cut (P := P) (v := x) ?_ ?_; unfold x; clear x; rotate_left; intro hx; clear_value x) | clear_value x)
    | with_reducible assumption | with_reducible apply State.meet_keeps (hw.sub rfl) | with_reducible apply State.ran_keeps (hw.sub rfl)
    | with_reducible apply State.updDev_keeps (hw.sub rfl) | with_reducible apply State.cntAdd_keeps (hw.sub rfl) | with_reducible apply Keep.foldl
    | split

theorem execCxlCompletion_keeps {P : State → Prop} (hw : Frees P 0x5887dfff4) (c : Fin 4) (id : Nat) (poison : Bool) (ns : Nat) (s : State) (hs : P s) : OutAll P (execCxlCompletion c id poison ns s) := by
  unfold execCxlCompletion
  have x := ()
  repeat' first
    | with_reducible intro _
    | (extract_lets +onlyGivenNames x; (fail_if_success clear x); refine Keep.cut (P := P) (v := x) ?_ ?_; unfold x; clear x; rotate_left; intro hx; clear_value x)
    | with_reducible assumption | with_reducible apply State.returnCxl_keeps (hw.sub rfl) | with_reducible apply State.lateCxl_keeps (hw.sub rfl)
    | with_reducible apply State.ran_keeps (hw.sub rfl) | with_reducible apply State.updCxl_keeps (hw.sub rfl) | split

theorem execStringDump_keeps {P : State → Prop} (hw : Frees P 0x20d0e20007e) (s : State) (hs : P s) : OutAll P (execStringDump s) := by
  unfold execStringDump
  have x := ()
  repeat' first
    | with_reducible intro _ | (extract_lets +onlyGivenNames x; (fail_if_success clear x); clear_value x) | with_reducible assumption
    | with_reducible apply State.takeDump_keeps (hw.sub rfl) | with_reducible apply State.refuseDump_keeps (hw.sub rfl)
    | with_reducible apply State.ran_keeps (hw.sub rfl) | split

theorem execOr_keeps {P : State → Prop} (hw : Frees P 0x500014010) (v : VxId) (w : VOps) (s : State) (hs : P s) : OutAll P (execOr v w s) := by
  unfold execOr
  repeat' first
    | with_reducible intro _ | with_reducible assumption | with_reducible apply State.vxBits_keeps (hw.sub rfl)
    | with_reducible apply State.ran_keeps (hw.sub rfl)

theorem execDoorbellPoll_keeps {P : State → Prop} (hw : Frees P 0x500000000) (s : State) (hs : P s) : OutAll P (execDoorbellPoll s) := by
  unfold execDoorbellPoll
  repeat' first
    | with_reducible intro _ | with_reducible assumption | with_reducible apply State.readDoorbell_keeps (hw.sub rfl)
    | with_reducible apply State.ran_keeps (hw.sub rfl) | with_reducible apply Keep.foldl | split

theorem execSel_keeps {P : State → Prop} (hw : Frees P 0x500014010) (v : VxId) (w : VOps) (s : State) (hs : P s) : OutAll P (execSel v w s) := by
  unfold execSel
  have x := ()
  repeat' first
    | with_reducible intro _ | (extract_lets +onlyGivenNames x; (fail_if_success clear x); clear_value x) | with_reducible assumption
    | with_reducible apply State.vxIssue_keeps (hw.sub rfl) | with_reducible apply State.vput_keeps (hw.sub rfl)
    | with_reducible apply State.ran_keeps (hw.sub rfl) | with_reducible apply IssueAll.done

theorem execIterationFire_keeps {P : State → Prop} (hw : Frees P 0x20d807dfff4) (x : UnitId) (s : State) (hs : P s) : OutAll P (execIterationFire x s) := by
  unfold execIterationFire
  have x := ()
  repeat' first
    | with_reducible intro _ | (extract_lets +onlyGivenNames x; (fail_if_success clear x); clear_value x) | with_reducible assumption
    | with_reducible apply State.unitRuns_keeps (hw.sub rfl) | with_reducible apply State.skipClaim_keeps (hw.sub rfl)
    | with_reducible apply State.readMaps_keeps (hw.sub rfl) | with_reducible apply State.fire_keeps (hw.sub rfl)
    | with_reducible apply State.discardHead_keeps (hw.sub rfl) | with_reducible apply State.setWait_keeps (hw.sub rfl)
    | with_reducible apply State.ran_keeps (hw.sub rfl) | with_reducible apply State.jobFault_keeps (hw.sub rfl)
    | with_reducible apply State.updUnit_keeps (hw.sub rfl) | split

theorem execRxeMax_keeps {P : State → Prop} (hw : Frees P 0x20d8e7dfffe) (die : Fin 24) (s : State) (hs : P s) : OutAll P (execRxeMax die s) := by
  unfold execRxeMax
  repeat' first
    | with_reducible intro _ | with_reducible assumption | with_reducible apply State.rxeRun_keeps (hw.sub rfl)
    | with_reducible apply State.ran_keeps (hw.sub rfl)

theorem execDebugChallenge_keeps {P : State → Prop} (hw : Frees P 0x24e00000000) (f : Func) (s : State) (hs : P s) : OutAll P (execDebugChallenge f s) := by
  unfold execDebugChallenge
  repeat' first
    | with_reducible intro _ | with_reducible assumption | with_reducible apply State.mailbox_keeps (hw.sub rfl)
    | with_reducible apply State.debugChallenge_keeps (hw.sub rfl)

theorem execMxeCommand_keeps {P : State → Prop} (hw : Frees P 0x20d8e7dfffe) (die : Fin 24) (m : Fin 4) (rows : Nat) (s : State) (hs : P s) : OutAll P (execMxeCommand die m rows s) := by
  unfold execMxeCommand
  have x := ()
  repeat' first
    | with_reducible intro _ | (extract_lets +onlyGivenNames x; (fail_if_success clear x); clear_value x) | with_reducible assumption
    | with_reducible apply State.mxeTake_keeps (hw.sub rfl) | with_reducible apply State.mxeRows_keeps (hw.sub rfl)
    | with_reducible apply State.unitWorks_keeps (hw.sub rfl) | with_reducible apply State.ran_keeps (hw.sub rfl) | split

theorem execNakReplay_keeps {P : State → Prop} (hw : Frees P 0x400800000) (p : Fin 6) (s : State) (hs : P s) : OutAll P (execNakReplay p s) := by
  unfold execNakReplay
  have x := ()
  repeat' first
    | with_reducible intro _ | (extract_lets +onlyGivenNames x; (fail_if_success clear x); clear_value x) | with_reducible assumption
    | with_reducible apply State.ran_keeps (hw.sub rfl) | with_reducible apply State.setPort_keeps (hw.sub rfl)
    | with_reducible apply State.cntAdd_keeps (hw.sub rfl) | split

theorem execLentJobStart_keeps {P : State → Prop} (hw : Frees P 0xd8e7ffffe) (jid : U64) (s : State) (hs : P s) : OutAll P (execLentJobStart jid s) := by
  unfold execLentJobStart
  have x := ()
  repeat' first
    | with_reducible intro _ | (extract_lets +onlyGivenNames x; (fail_if_success clear x); clear_value x) | with_reducible assumption
    | with_reducible apply State.startJob_keeps (hw.sub rfl) | with_reducible apply State.ran_keeps (hw.sub rfl)
    | with_reducible apply State.updJob_keeps (hw.sub rfl) | split

theorem execInvalidate_keeps {P : State → Prop} (hw : Frees P 0x130000000) (f : Func) (v : U64) (s : State) (hs : P s) : OutAll P (execInvalidate f v s) := by
  unfold execInvalidate
  repeat' first
    | with_reducible intro _ | with_reducible assumption | with_reducible apply State.writeInval_keeps (hw.sub rfl)
    | with_reducible apply State.byBar_keeps (hw.sub rfl) | split

theorem execCblPres_keeps {P : State → Prop} (hw : Frees P 0x500a00004) (p : Fin 6) (low : Bool) (s : State) (hs : P s) : OutAll P (execCblPres p low s) := by
  unfold execCblPres
  repeat' first
    | with_reducible intro _ | with_reducible assumption | with_reducible apply State.portDown_keeps (hw.sub rfl)
    | with_reducible apply State.ran_keeps (hw.sub rfl) | with_reducible apply State.updPort_keeps (hw.sub rfl) | split

theorem execGetVersion_keeps {P : State → Prop} (hw : Frees P 0x10000000000) (_port : Fin 2) (s : State) (hs : P s) : OutAll P (execGetVersion _port s) := by
  unfold execGetVersion
  repeat' first
    | with_reducible intro _ | with_reducible assumption | with_reducible apply State.spdm_keeps (hw.sub rfl)
    | with_reducible apply State.ran_keeps (hw.sub rfl)

theorem execGetCertificate_keeps {P : State → Prop} (hw : Frees P 0x10000000000) (_port : Fin 2) (slot : Byte) (s : State) (hs : P s) : OutAll P (execGetCertificate _port slot s) := by
  unfold execGetCertificate
  repeat' first
    | with_reducible intro _ | with_reducible assumption | with_reducible apply State.spdm_keeps (hw.sub rfl)
    | with_reducible apply State.ran_keeps (hw.sub rfl) | split

theorem execWatchNotify_keeps {P : State → Prop} (hw : Frees P 0xd00000110) (x : UnitId) (s : State) (hs : P s) : OutAll P (execWatchNotify x s) := by
  unfold execWatchNotify
  have x := ()
  repeat' first
    | with_reducible intro _
    | (extract_lets +onlyGivenNames x; (fail_if_success clear x); refine Keep.cut (P := P) (v := x) ?_ ?_; unfold x; clear x; rotate_left; intro hx; clear_value x)
    | with_reducible assumption | with_reducible apply State.setRun_keeps (hw.sub rfl) | with_reducible apply State.ran_keeps (hw.sub rfl)
    | with_reducible apply State.carry_keeps (hw.sub rfl) | with_reducible apply State.updUnit_keeps (hw.sub rfl)
    | with_reducible apply State.setWatch_keeps (hw.sub rfl) | split

theorem execEndTokenPop_keeps {P : State → Prop} (hw : Frees P 0x5807dfff4) (x : UnitId) (s : State) (hs : P s) : OutAll P (execEndTokenPop x s) := by
  unfold execEndTokenPop
  have x := ()
  repeat' first
    | with_reducible intro _
    | (extract_lets +onlyGivenNames x; (fail_if_success clear x); first | (refine Keep.cut (P := P) (v := x) ?_ ?_; unfold x; clear x; rotate_left; intro hx; clear_value x) | clear_value x)
    | with_reducible assumption | with_reducible apply State.unitRuns_keeps (hw.sub rfl) | with_reducible apply State.popHeads_keeps (hw.sub rfl)
    | with_reducible apply State.discardHead_keeps (hw.sub rfl) | with_reducible apply State.setRun_keeps (hw.sub rfl)
    | with_reducible apply State.setWait_keeps (hw.sub rfl) | with_reducible apply State.ran_keeps (hw.sub rfl)
    | with_reducible apply State.jobFault_keeps (hw.sub rfl) | with_reducible apply State.updUnit_keeps (hw.sub rfl) | split

theorem execCarryAdd_keeps {P : State → Prop} (hw : Frees P 0xd8e7dfffe) (jid : U64) (bucket : Nat) (s : State) (hs : P s) : OutAll P (execCarryAdd jid bucket s) := by
  unfold execCarryAdd
  have x := ()
  repeat' first
    | with_reducible intro _ | (extract_lets +onlyGivenNames x; (fail_if_success clear x); clear_value x) | with_reducible assumption
    | with_reducible apply State.dmxFlags_keeps (hw.sub rfl) | with_reducible apply State.ran_keeps (hw.sub rfl)
    | with_reducible apply State.storeView_keeps (hw.sub rfl) | with_reducible apply State.on_keeps (hw.sub rfl)
    | with_reducible apply State.updJob_keeps (hw.sub rfl) | with_reducible apply State.withJob_keeps (hw.sub rfl)
    | with_reducible refine AccAll.getId ?_ ‹_ = Acc.ok _› | split

theorem execNoHeaderTimeout_keeps {P : State → Prop} (hw : Frees P 0x500a00004) (p : Fin 6) (s : State) (hs : P s) : OutAll P (execNoHeaderTimeout p s) := by
  unfold execNoHeaderTimeout
  repeat' first
    | with_reducible intro _ | with_reducible assumption | with_reducible apply State.portDown_keeps (hw.sub rfl)
    | with_reducible apply State.ran_keeps (hw.sub rfl) | split

theorem execFmax_keeps {P : State → Prop} (hw : Frees P 0x500014010) (v : VxId) (w : VOps) (s : State) (hs : P s) : OutAll P (execFmax v w s) := by
  unfold execFmax
  repeat' first
    | with_reducible intro _ | with_reducible assumption | with_reducible apply State.vx2_keeps (hw.sub rfl)
    | with_reducible apply State.ran_keeps (hw.sub rfl)

theorem execFetchAdd_keeps {P : State → Prop} (hw : Frees P 0xd807dfff4) (x : UnitId) (sid : U16) (a : U64) (s : State) (hs : P s) : OutAll P (execFetchAdd x sid a s) := by
  unfold execFetchAdd
  repeat' first
    | with_reducible intro _ | with_reducible assumption | with_reducible apply State.doFetchAdd_keeps (hw.sub rfl)
    | with_reducible apply State.ran_keeps (hw.sub rfl)

theorem execXor_keeps {P : State → Prop} (hw : Frees P 0x500014010) (v : VxId) (w : VOps) (s : State) (hs : P s) : OutAll P (execXor v w s) := by
  unfold execXor
  repeat' first
    | with_reducible intro _ | with_reducible assumption | with_reducible apply State.vxBits_keeps (hw.sub rfl)
    | with_reducible apply State.ran_keeps (hw.sub rfl)

theorem execCreditReturn_keeps {P : State → Prop} (hw : Frees P 0x30) (die : Fin 24) (q : Fin 512) (s : State) (hs : P s) : OutAll P (execCreditReturn die q s) := by
  unfold execCreditReturn
  repeat' first
    | with_reducible intro _ | with_reducible assumption | with_reducible apply State.landCredit_keeps (hw.sub rfl)
    | with_reducible apply State.ran_keeps (hw.sub rfl)

theorem execClear_keeps {P : State → Prop} (hw : Frees P 0xe00000000) (f : Func) (s : State) (hs : P s) : OutAll P (execClear f s) := by
  unfold execClear
  repeat' first
    | with_reducible intro _ | with_reducible assumption | with_reducible apply State.privileged_keeps (hw.sub rfl)
    | with_reducible apply State.byBarOf_keeps (hw.sub rfl) | with_reducible apply State.askClear_keeps (hw.sub rfl)

theorem execContextEnable_keeps {P : State → Prop} (hw : Frees P 0x100000000) (f : Func) (s : State) (hs : P s) : OutAll P (execContextEnable f s) := by
  unfold execContextEnable
  repeat' first
    | with_reducible intro _ | with_reducible assumption | with_reducible apply State.enableCtx_keeps (hw.sub rfl)
    | with_reducible apply State.byBar_keeps (hw.sub rfl)

theorem execLog2_keeps {P : State → Prop} (hw : Frees P 0x500014010) (v : VxId) (w : VOps) (s : State) (hs : P s) : OutAll P (execLog2 v w s) := by
  unfold execLog2
  repeat' first
    | with_reducible intro _ | with_reducible assumption | with_reducible apply State.vxElem_keeps (hw.sub rfl)
    | with_reducible apply State.ran_keeps (hw.sub rfl)

theorem execDrainTokenPop_keeps {P : State → Prop} (hw : Frees P 0x500000474) (x : UnitId) (port : Fin 9) (s : State) (hs : P s) : OutAll P (execDrainTokenPop x port s) := by
  unfold execDrainTokenPop
  have x := ()
  repeat' first
    | with_reducible intro _ | (extract_lets +onlyGivenNames x; (fail_if_success clear x); clear_value x) | with_reducible assumption
    | with_reducible apply State.unitRuns_keeps (hw.sub rfl) | with_reducible apply State.discardHead_keeps (hw.sub rfl)
    | with_reducible apply State.pushAll_keeps (hw.sub rfl) | with_reducible apply State.setWait_keeps (hw.sub rfl)
    | with_reducible apply State.popQueue_keeps (hw.sub rfl) | with_reducible apply State.ran_keeps (hw.sub rfl) | split

theorem execChallenge_keeps {P : State → Prop} (hw : Frees P 0x10000000000) (_port : Fin 2) (slot : Byte) (nonce : BitVec 256) (s : State) (hs : P s) : OutAll P (execChallenge _port slot nonce s) := by
  unfold execChallenge
  repeat' first
    | with_reducible intro _ | with_reducible assumption | with_reducible apply State.spdm_keeps (hw.sub rfl)
    | with_reducible apply State.ran_keeps (hw.sub rfl) | split

theorem execTimeCtrlWrite_keeps {P : State → Prop} (hw : Frees P 0xe00000001) (f : Func) (v : U64) (s : State) (hs : P s) : OutAll P (execTimeCtrlWrite f v s) := by
  unfold execTimeCtrlWrite
  repeat' first
    | with_reducible intro _ | with_reducible assumption | with_reducible apply State.writeTimeCtrl_keeps (hw.sub rfl)
    | with_reducible apply State.privileged_keeps (hw.sub rfl) | with_reducible apply State.byBarOf_keeps (hw.sub rfl)

theorem execRxeArgmax_keeps {P : State → Prop} (hw : Frees P 0x20d8e7dfffe) (die : Fin 24) (s : State) (hs : P s) : OutAll P (execRxeArgmax die s) := by
  unfold execRxeArgmax
  repeat' first
    | with_reducible intro _ | with_reducible assumption | with_reducible apply State.rxeRun_keeps (hw.sub rfl)
    | with_reducible apply State.ran_keeps (hw.sub rfl)

theorem execSmbGtNow_keeps {P : State → Prop} (hw : Frees P 0x10000000000) (s : State) (hs : P s) : OutAll P (execSmbGtNow s) := by
  unfold execSmbGtNow
  repeat' first
    | with_reducible assumption | with_reducible apply State.smbRead_keeps (hw.sub rfl) | with_reducible apply OutAll.next

theorem execJobEnd_keeps {P : State → Prop} (hw : Frees P 0x5807dfff4) (jid : U64) (s : State) (hs : P s) : OutAll P (execJobEnd jid s) := by
  unfold execJobEnd
  repeat' first
    | with_reducible intro _ | with_reducible assumption | with_reducible apply State.completeJob_keeps (hw.sub rfl)
    | with_reducible apply State.compareStep_keeps (hw.sub rfl) | with_reducible apply State.ran_keeps (hw.sub rfl)
    | with_reducible apply State.withJob_keeps (hw.sub rfl) | split

theorem execEccCorrected_keeps {P : State → Prop} (hw : Frees P 0x502000004) (dev : Fin 48) (s : State) (hs : P s) : OutAll P (execEccCorrected dev s) := by
  unfold execEccCorrected
  repeat' first
    | with_reducible intro _ | with_reducible assumption | with_reducible apply State.postCorrected_keeps (hw.sub rfl)
    | with_reducible apply State.ran_keeps (hw.sub rfl) | split

theorem execTranslationWalk_keeps {P : State → Prop} (hw : Frees P 0x5d87dfff4) (by_ : Stream) (ctx : Fin 32) (dva : BitVec 57) (write : Bool) (s : State) (hs : P s) : OutAll P (execTranslationWalk by_ ctx dva write s) := by
  unfold execTranslationWalk
  repeat' first
    | with_reducible intro _ | with_reducible assumption | with_reducible apply State.translated_keeps (hw.sub rfl)
    | with_reducible apply State.ran_keeps (hw.sub rfl) | with_reducible apply State.withJob_keeps (hw.sub rfl) | split

theorem execNormDerive_keeps {P : State → Prop} (hw : Frees P 0xd807dfff4) (jid : U64) (s : State) (hs : P s) : OutAll P (execNormDerive jid s) := by
  unfold execNormDerive
  have x := ()
  repeat' first
    | with_reducible intro _ | (extract_lets +onlyGivenNames x; (fail_if_success clear x); clear_value x) | with_reducible assumption
    | with_reducible apply State.ran_keeps (hw.sub rfl) | with_reducible apply State.on_keeps (hw.sub rfl)
    | with_reducible apply State.updJob_keeps (hw.sub rfl) | with_reducible apply State.withJob_keeps (hw.sub rfl)
    | with_reducible apply State.updUnit_keeps (hw.sub rfl) | split

theorem execRxeSumsq_keeps {P : State → Prop} (hw : Frees P 0x20d8e7dfffe) (die : Fin 24) (s : State) (hs : P s) : OutAll P (execRxeSumsq die s) := by
  unfold execRxeSumsq
  repeat' first
    | with_reducible intro _ | with_reducible assumption | with_reducible apply State.rxeRun_keeps (hw.sub rfl)
    | with_reducible apply State.ran_keeps (hw.sub rfl)

theorem execForceLevel_keeps {P : State → Prop} (hw : Frees P 0x1f00000004) (f : Func) (v : U64) (s : State) (hs : P s) : OutAll P (execForceLevel f v s) := by
  unfold execForceLevel
  repeat' first
    | with_reducible intro _ | with_reducible assumption | with_reducible apply State.writeForce_keeps (hw.sub rfl)
    | with_reducible apply State.privileged_keeps (hw.sub rfl) | with_reducible apply State.byPwr_keeps (hw.sub rfl)
    | with_reducible apply State.exchange_keeps (hw.sub rfl)

theorem execBeatBoundary_keeps {P : State → Prop} (hw : Frees P 0x6bf9effffff) (env : BeatEnv) (s : State) (hs : P s) : OutAll P (execBeatBoundary env s) := by
  unfold execBeatBoundary
  repeat' first
    | with_reducible intro _ | with_reducible assumption | with_reducible apply State.ran_keeps (hw.sub rfl)
    | with_reducible apply State.boundary_keeps (hw.sub rfl)

theorem execSmbNack_keeps {P : State → Prop} (hw : Frees P 0x10000000000) (why : NackCause) (s : State) (hs : P s) : OutAll P (execSmbNack why s) := by
  unfold execSmbNack
  repeat' first
    | with_reducible assumption | with_reducible apply State.reply_keeps (hw.sub rfl) | with_reducible apply OutAll.next | split

theorem execPop_keeps {P : State → Prop} (hw : Frees P 0x20d807dfff4) (v : VxId) (w : VOps) (s : State) (hs : P s) : OutAll P (execPop v w s) := by
  unfold execPop
  have x := ()
  repeat' first
    | with_reducible intro _
    | (extract_lets +onlyGivenNames x; (fail_if_success clear x); first | (refine Keep.cut (P := P) (v := x) ?_ ?_; unfold x; clear x; rotate_left; intro hx; clear_value x) | clear_value x)
    | with_reducible assumption | with_reducible apply State.vxIssue_keeps (hw.sub rfl) | with_reducible apply State.vput_keeps (hw.sub rfl)
    | with_reducible apply State.freeFtq_keeps (hw.sub rfl) | with_reducible apply State.ran_keeps (hw.sub rfl)
    | with_reducible apply State.tickFresh_keeps (hw.sub rfl) | with_reducible apply State.countOoa_keeps (hw.sub rfl)
    | with_reducible apply State.on_keeps (hw.sub rfl) | with_reducible apply State.accessed_keeps (hw.sub rfl) | with_reducible apply IssueAll.done
    | with_reducible apply IssueAll.held | split

theorem execSmbPwrTherm_keeps {P : State → Prop} (hw : Frees P 0x10000000000) (s : State) (hs : P s) : OutAll P (execSmbPwrTherm s) := by
  unfold execSmbPwrTherm
  repeat' first
    | with_reducible assumption | with_reducible apply State.smbRead_keeps (hw.sub rfl) | with_reducible apply OutAll.next

theorem execSpread_keeps {P : State → Prop} (hw : Frees P 0xd8efdfffe) (p : Fin 6) (s : State) (hs : P s) : OutAll P (execSpread p s) := by
  unfold execSpread
  have x := ()
  repeat' first
    | with_reducible intro _
    | (extract_lets +onlyGivenNames x; (fail_if_success clear x); first | (refine Keep.cut (P := P) (v := x) ?_ ?_; unfold x; clear x; rotate_left; intro hx; clear_value x) | clear_value x)
    | with_reducible assumption | with_reducible apply State.takePkt_keeps (hw.sub rfl) | with_reducible apply State.stalePacket_keeps (hw.sub rfl)
    | with_reducible apply State.stoppedDelivery_keeps (hw.sub rfl) | with_reducible apply State.passOn_keeps (hw.sub rfl)
    | with_reducible apply State.ran_keeps (hw.sub rfl) | with_reducible apply State.deliverBlocks_keeps (hw.sub rfl) | split

theorem execAtsTranslationCompletion_keeps {P : State → Prop} (hw : Frees P 0x5c07dfff4) (port : Fin 2) (ctx : Fin 32) (page : Nat) (order : Fin 41) (present : Bool) (write : Bool) (s : State) (hs : P s) : OutAll P (execAtsTranslationCompletion port page present write s ctx order) := by
  unfold execAtsTranslationCompletion
  have x := ()
  repeat' first
    | with_reducible intro _
    | (extract_lets +onlyGivenNames x; (fail_if_success clear x); first | (refine Keep.cut (P := P) (v := x) ?_ ?_; unfold x; clear x; rotate_left; intro hx; clear_value x) | clear_value x)
    | with_reducible assumption | with_reducible apply State.retryWaiting_keeps (hw.sub rfl) | with_reducible apply State.ran_keeps (hw.sub rfl)
    | (with_reducible apply hw.ats rfl; with_reducible assumption)

theorem execScatterAdd_keeps {P : State → Prop} (hw : Frees P 0x20d8e7dfffe) (die : Fin 24) (steps : Nat) (s : State) (hs : P s) : OutAll P (execScatterAdd die s steps) := by
  unfold execScatterAdd
  have x := ()
  repeat' first
    | with_reducible intro _
    | (extract_lets +onlyGivenNames x; (fail_if_success clear x); first | (refine Keep.cut (P := P) (v := x) ?_ ?_; unfold x; clear x; rotate_left; intro hx; clear_value x) | clear_value x)
    | with_reducible assumption | with_reducible apply State.scatterStep_keeps (hw.sub rfl) | with_reducible apply State.gseSteps_keeps (hw.sub rfl)
    | with_reducible apply State.gseRun_keeps (hw.sub rfl) | with_reducible apply State.ran_keeps (hw.sub rfl)
    | with_reducible apply State.orUnitFlags_keeps (hw.sub rfl) | split

theorem execRxeMin_keeps {P : State → Prop} (hw : Frees P 0x20d8e7dfffe) (die : Fin 24) (s : State) (hs : P s) : OutAll P (execRxeMin die s) := by
  unfold execRxeMin
  repeat' first
    | with_reducible intro _ | with_reducible assumption | with_reducible apply State.rxeRun_keeps (hw.sub rfl)
    | with_reducible apply State.ran_keeps (hw.sub rfl)

theorem execPerst_keeps {P : State → Prop} (hw : Frees P 0x5a07dfff4) (port : Fin 2) (s : State) (hs : P s) : OutAll P (execPerst port s) := by
  unfold execPerst
  repeat' first
    | with_reducible intro _ | with_reducible assumption | with_reducible apply State.flr_keeps (hw.sub rfl)
    | with_reducible apply State.ran_keeps (hw.sub rfl) | with_reducible apply Keep.foldl

theorem execCommandStart_keeps {P : State → Prop} (hw : Frees P 0xd807dfff4) (x : UnitId) (s : State) (hs : P s) : OutAll P (execCommandStart x s) := by
  unfold execCommandStart
  have x := ()
  repeat' first
    | with_reducible intro _
    | (extract_lets +onlyGivenNames x; (fail_if_success clear x); first | (refine Keep.cut (P := P) (v := x) ?_ ?_; unfold x; clear x; rotate_left; intro hx; clear_value x) | clear_value x)
    | with_reducible assumption | with_reducible apply State.unitRuns_keeps (hw.sub rfl) | with_reducible apply State.readWait_keeps (hw.sub rfl)
    | with_reducible apply State.readMaps_keeps (hw.sub rfl) | with_reducible apply State.loadK_keeps (hw.sub rfl)
    | with_reducible apply State.ran_keeps (hw.sub rfl) | with_reducible apply State.traceEv_keeps (hw.sub rfl)
    | with_reducible apply State.setGse_keeps (hw.sub rfl) | with_reducible apply State.setVx_keeps (hw.sub rfl)
    | with_reducible apply State.setEng_keeps (hw.sub rfl) | with_reducible apply State.setDec_keeps (hw.sub rfl)
    | with_reducible apply State.setUnit_keeps (hw.sub rfl) | split

theorem execDeniedAccess_keeps {P : State → Prop} (hw : Frees P 0x10e00000000) (f : Func) (addr : Nat) (write : Bool) (s : State) (hs : P s) : OutAll P (execDeniedAccess f addr write s) := by
  unfold execDeniedAccess
  have x := ()
  repeat' first
    | with_reducible intro _
    | (extract_lets +onlyGivenNames x; (fail_if_success clear x); first | (refine Keep.cut (P := P) (v := x) ?_ ?_; unfold x; clear x; rotate_left; intro hx; clear_value x) | clear_value x)
    | with_reducible assumption | with_reducible apply State.reply_keeps (hw.sub rfl) | with_reducible apply State.deny_keeps (hw.sub rfl)
    | with_reducible apply State.exchange_keeps (hw.sub rfl) | with_reducible apply State.ran_keeps (hw.sub rfl) | split

theorem execAbort_keeps {P : State → Prop} (hw : Frees P 0x5807dfff4) (s : State) (hs : P s) : OutAll P (execAbort s) := by
  unfold execAbort
  have x := ()
  repeat' first
    | with_reducible intro _ | (extract_lets +onlyGivenNames x; (fail_if_success clear x); clear_value x) | with_reducible assumption
    | with_reducible apply State.takeKind_keeps (hw.sub rfl) | with_reducible apply State.ran_keeps (hw.sub rfl)
    | with_reducible apply State.badTarget_keeps (hw.sub rfl) | with_reducible apply State.abortJob_keeps (hw.sub rfl) | split

theorem execRcp_keeps {P : State → Prop} (hw : Frees P 0x500014010) (v : VxId) (w : VOps) (s : State) (hs : P s) : OutAll P (execRcp v w s) := by
  unfold execRcp
  repeat' first
    | with_reducible intro _ | with_reducible assumption | with_reducible apply State.vxElem_keeps (hw.sub rfl)
    | with_reducible apply State.ran_keeps (hw.sub rfl)

theorem execReduce_keeps {P : State → Prop} (hw : Frees P 0xd8efdfffe) (p : Fin 6) (s : State) (hs : P s) : OutAll P (execReduce p s) := by
  unfold execReduce
  have x := ()
  repeat' first
    | with_reducible intro _ | (extract_lets +onlyGivenNames x; (fail_if_success clear x); clear_value x) | with_reducible assumption
    | with_reducible apply State.takePkt_keeps (hw.sub rfl) | with_reducible apply State.stalePacket_keeps (hw.sub rfl)
    | with_reducible apply State.reduceWith_keeps (hw.sub rfl) | with_reducible apply State.dropOperand_keeps (hw.sub rfl)
    | with_reducible apply State.ran_keeps (hw.sub rfl) | with_reducible apply State.updPort_keeps (hw.sub rfl) | split

theorem execLred_keeps {P : State → Prop} (hw : Frees P 0x500014010) (v : VxId) (w : VOps) (s : State) (hs : P s) : OutAll P (execLred v w s) := by
  unfold execLred
  have x := ()
  repeat' first
    | with_reducible intro _ | (extract_lets +onlyGivenNames x; (fail_if_success clear x); clear_value x) | with_reducible assumption
    | with_reducible apply State.vxIssue_keeps (hw.sub rfl) | with_reducible apply State.vput_keeps (hw.sub rfl)
    | with_reducible apply State.ran_keeps (hw.sub rfl) | with_reducible apply IssueAll.done | with_reducible apply IssueAll.held | split

theorem execPreempt_keeps {P : State → Prop} (hw : Frees P 0x500200014) (s : State) (hs : P s) : OutAll P (execPreempt s) := by
  unfold execPreempt
  have x := ()
  repeat' first
    | with_reducible intro _ | (extract_lets +onlyGivenNames x; (fail_if_success clear x); clear_value x) | with_reducible assumption
    | with_reducible apply State.takeKind_keeps (hw.sub rfl) | with_reducible apply State.ran_keeps (hw.sub rfl)
    | with_reducible apply State.badTarget_keeps (hw.sub rfl) | with_reducible apply State.askPreempt_keeps (hw.sub rfl) | split

theorem execPortLinkTimeout_keeps {P : State → Prop} (hw : Frees P 0x7807dfff4) (port : Fin 2) (s : State) (hs : P s) : OutAll P (execPortLinkTimeout port s) := by
  unfold execPortLinkTimeout
  have x := ()
  repeat' first
    | with_reducible intro _
    | (extract_lets +onlyGivenNames x; (fail_if_success clear x); first | (refine Keep.cut (P := P) (v := x) ?_ ?_; unfold x; clear x; rotate_left; intro hx; clear_value x) | clear_value x)
    | with_reducible assumption | with_reducible apply State.ran_keeps (hw.sub rfl) | with_reducible apply State.moveControl_keeps (hw.sub rfl)
    | with_reducible apply State.abortAll_keeps (hw.sub rfl) | with_reducible apply Keep.foldl | split

theorem execPreemptStop_keeps {P : State → Prop} (hw : Frees P 0x500200070) (jid : U64) (s : State) (hs : P s) : OutAll P (execPreemptStop jid s) := by
  unfold execPreemptStop
  have x := ()
  repeat' first
    | with_reducible intro _
    | (extract_lets +onlyGivenNames x; (fail_if_success clear x); first | (refine Keep.cut (P := P) (v := x) ?_ ?_; unfold x; clear x; rotate_left; intro hx; clear_value x) | clear_value x)
    | with_reducible assumption | with_reducible apply State.stopJob_keeps (hw.sub rfl) | with_reducible apply State.ran_keeps (hw.sub rfl)
    | with_reducible apply State.updJob_keeps (hw.sub rfl) | with_reducible apply State.withJob_keeps (hw.sub rfl) | split

theorem execGetCapabilities_keeps {P : State → Prop} (hw : Frees P 0x10000000000) (_port : Fin 2) (s : State) (hs : P s) : OutAll P (execGetCapabilities _port s) := by
  unfold execGetCapabilities
  repeat' first
    | with_reducible intro _ | with_reducible assumption | with_reducible apply State.spdm_keeps (hw.sub rfl)
    | with_reducible apply State.ran_keeps (hw.sub rfl)

theorem execFwSelect_keeps {P : State → Prop} (hw : Frees P 0x4e00000000) (f : Func) (s : State) (hs : P s) : OutAll P (execFwSelect f s) := by
  unfold execFwSelect
  repeat' first
    | with_reducible intro _ | with_reducible assumption | with_reducible apply State.mailbox_keeps (hw.sub rfl)
    | with_reducible apply State.fwSelect_keeps (hw.sub rfl)

theorem execPass2Update_keeps {P : State → Prop} (hw : Frees P 0xd8e7dfffe) (jid : U64) (layer : Nat) (elems : Nat) (s : State) (hs : P s) : OutAll P (execPass2Update jid layer s elems) := by
  unfold execPass2Update
  have x := ()
  repeat' first
    | with_reducible intro _
    | (extract_lets +onlyGivenNames x; (fail_if_success clear x); first | (refine Keep.cut (P := P) (v := x) ?_ ?_; unfold x; clear x; rotate_left; intro hx; clear_value x) | clear_value x)
    | with_reducible assumption | with_reducible apply State.upeRun_keeps (hw.sub rfl) | with_reducible apply State.startUpe_keeps (hw.sub rfl)
    | with_reducible apply State.openLayer_keeps (hw.sub rfl) | with_reducible apply State.closeLayer_keeps (hw.sub rfl)
    | with_reducible apply State.ran_keeps (hw.sub rfl) | with_reducible apply State.withJob_keeps (hw.sub rfl) | with_reducible apply Keep.foldl
    | split

theorem execSnap_keeps {P : State → Prop} (hw : Frees P 0xe00000000) (f : Func) (s : State) (hs : P s) : OutAll P (execSnap f s) := by
  unfold execSnap
  repeat' first
    | with_reducible intro _ | with_reducible assumption | with_reducible apply State.privileged_keeps (hw.sub rfl)
    | with_reducible apply State.byBarOf_keeps (hw.sub rfl) | with_reducible apply State.askSnap_keeps (hw.sub rfl)

theorem execDoorbellLine_keeps {P : State → Prop} (hw : Frees P 0x500000004) (ctx : Fin 32) (line : BitVec 512) (s : State) (hs : P s) : OutAll P (execDoorbellLine ctx line s) := by
  unfold execDoorbellLine
  have x := ()
  repeat' first
    | with_reducible intro _
    | (extract_lets +onlyGivenNames x; (fail_if_success clear x); first | (refine Keep.cut (P := P) (v := x) ?_ ?_; unfold x; clear x; rotate_left; intro hx; clear_value x) | clear_value x)
    | with_reducible assumption | with_reducible apply State.ran_keeps (hw.sub rfl) | with_reducible apply State.flushCtx_keeps (hw.sub rfl)
    | with_reducible apply State.cntAdd_keeps (hw.sub rfl) | with_reducible apply State.setCtx_keeps (hw.sub rfl) | split

theorem execUnsupportedRequest_keeps {P : State → Prop} (hw : Frees P 0x10000000000) (_f : Func) (addr : Nat) (size : Nat) (s : State) (hs : P s) : OutAll P (execUnsupportedRequest _f addr size s) := by
  unfold execUnsupportedRequest
  repeat' first
    | with_reducible intro _ | with_reducible assumption | with_reducible apply State.reply_keeps (hw.sub rfl)
    | with_reducible apply State.ran_keeps (hw.sub rfl) | split

theorem execReservationEnd_keeps {P : State → Prop} (hw : Frees P 0x5807dfff4) (jid : U64) (s : State) (hs : P s) : OutAll P (execReservationEnd jid s) := by
  unfold execReservationEnd
  repeat' first
    | with_reducible intro _ | with_reducible assumption | with_reducible apply State.ran_keeps (hw.sub rfl)
    | with_reducible apply State.withJob_keeps (hw.sub rfl) | with_reducible apply State.finish_keeps (hw.sub rfl) | split

theorem execBoot_keeps {P : State → Prop} (hw : Frees P 0x6002000000) (slotA : Option Image) (slotB : Option Image) (micro : Option Image) (train : Option Image) (failedDev : Option (Fin 48)) (s : State) (hs : P s) : OutAll P (execBoot slotA slotB micro train failedDev s) := by
  unfold execBoot
  have x := ()
  repeat' first
    | with_reducible intro _
    | (extract_lets +onlyGivenNames x; (fail_if_success clear x); first | (refine Keep.cut (P := P) (v := x) ?_ ?_; unfold x; clear x; rotate_left; intro hx; clear_value x) | clear_value x)
    | with_reducible assumption | with_reducible apply State.ran_keeps (hw.sub rfl) | with_reducible apply State.bootTrain_keeps (hw.sub rfl)
    | with_reducible apply State.bootMgmt_keeps (hw.sub rfl) | with_reducible apply State.bootFuses_keeps (hw.sub rfl)
    | with_reducible apply State.bootDies_keeps (hw.sub rfl) | with_reducible apply State.secBang_keeps (hw.sub rfl) | split

theorem execFma_keeps {P : State → Prop} (hw : Frees P 0x500014010) (v : VxId) (w : VOps) (s : State) (hs : P s) : OutAll P (execFma v w s) := by
  unfold execFma
  repeat' first
    | with_reducible intro _ | with_reducible assumption | with_reducible apply State.vxIssue_keeps (hw.sub rfl)
    | with_reducible apply State.vput_keeps (hw.sub rfl) | with_reducible apply State.ran_keeps (hw.sub rfl) | with_reducible apply IssueAll.done

theorem execPresBreak_keeps {P : State → Prop} (hw : Frees P 0x49000000000) (s : State) (hs : P s) : OutAll P (execPresBreak s) := by
  unfold execPresBreak
  have x := ()
  repeat' first
    | (extract_lets +onlyGivenNames x; (fail_if_success clear x); first | (refine Keep.cut (P := P) (v := x) ?_ ?_; unfold x; clear x; rotate_left; intro hx; clear_value x) | clear_value x)
    | with_reducible assumption | with_reducible apply State.powerOff_keeps (hw.sub rfl) | with_reducible apply State.setPins_keeps (hw.sub rfl)
    | with_reducible apply OutAll.next

theorem execTimingWordReceive_keeps {P : State → Prop} (hw : Frees P 0x1) (p : Fin 6) (w : BitVec 128) (whole : Bool) (arr16 : Nat) (s : State) (hs : P s) : OutAll P (execTimingWordReceive p w whole arr16 s) := by
  unfold execTimingWordReceive
  repeat' first
    | with_reducible intro _ | with_reducible assumption | with_reducible apply State.ran_keeps (hw.sub rfl)
    | with_reducible apply State.setTime_keeps (hw.sub rfl) | split

theorem execRetry_keeps {P : State → Prop} (hw : Frees P 0x5807dfff4) (f : Func) (fid : U32) (s : State) (hs : P s) : OutAll P (execRetry f fid s) := by
  unfold execRetry
  repeat' first
    | with_reducible intro _ | with_reducible assumption | with_reducible apply State.retryOf_keeps (hw.sub rfl)
    | with_reducible apply State.byBar_keeps (hw.sub rfl)

theorem execRsqrt_keeps {P : State → Prop} (hw : Frees P 0x500014010) (v : VxId) (w : VOps) (s : State) (hs : P s) : OutAll P (execRsqrt v w s) := by
  unfold execRsqrt
  repeat' first
    | with_reducible intro _ | with_reducible assumption | with_reducible apply State.vxElem_keeps (hw.sub rfl)
    | with_reducible apply State.ran_keeps (hw.sub rfl)

theorem execHostLinkDown_keeps {P : State → Prop} (hw : Frees P 0x20700000004) (port : Fin 2) (s : State) (hs : P s) : OutAll P (execHostLinkDown port s) := by
  unfold execHostLinkDown
  have x := ()
  repeat' first
    | with_reducible intro _
    | (extract_lets +onlyGivenNames x; (fail_if_success clear x); refine Keep.cut (P := P) (v := x) ?_ ?_; unfold x; clear x; rotate_left; intro hx; clear_value x)
    | with_reducible assumption | with_reducible apply State.ran_keeps (hw.sub rfl) | with_reducible apply State.tickFresh_keeps (hw.sub rfl)
    | with_reducible apply State.linkDownEvent_keeps (hw.sub rfl) | with_reducible apply State.updHp_keeps (hw.sub rfl)
    | with_reducible apply State.updCtx_keeps (hw.sub rfl) | with_reducible apply Keep.foldl | split

theorem execLmvCopy_keeps {P : State → Prop} (hw : Frees P 0x20d8e7dfffe) (die : Fin 24) (s : State) (hs : P s) : OutAll P (execLmvCopy die s) := by
  unfold execLmvCopy
  have x := ()
  repeat' first
    | with_reducible intro _
    | (extract_lets +onlyGivenNames x; (fail_if_success clear x); first | (refine Keep.cutFst (P := P) (v := x) ?_ ?_; unfold x; clear x; rotate_left; intro hx; clear_value x) | clear_value x)
    | with_reducible assumption | with_reducible apply State.moveFrom_keeps (hw.sub rfl) | with_reducible apply State.lmvMx_keeps (hw.sub rfl)
    | with_reducible apply State.lmvDone_keeps (hw.sub rfl) | with_reducible apply State.unitWorks_keeps (hw.sub rfl)
    | with_reducible apply State.ran_keeps (hw.sub rfl) | with_reducible apply State.on_keeps (hw.sub rfl)
    | with_reducible apply State.updUnit_keeps (hw.sub rfl) | with_reducible refine AccAll.getId ?_ ‹_ = Acc.ok _› | split

theorem execJobStart_keeps {P : State → Prop} (hw : Frees P 0xd8e7ffffe) (jid : U64) (s : State) (hs : P s) : OutAll P (execJobStart jid s) := by
  unfold execJobStart
  have x := ()
  repeat' first
    | with_reducible intro _
    | (extract_lets +onlyGivenNames x; (fail_if_success clear x); refine Keep.cut (P := P) (v := x) ?_ ?_; unfold x; clear x; rotate_left; intro hx; clear_value x)
    | with_reducible assumption | with_reducible apply State.startLate_keeps (hw.sub rfl) | with_reducible apply State.startJob_keeps (hw.sub rfl)
    | with_reducible apply State.ran_keeps (hw.sub rfl) | with_reducible apply State.withJob_keeps (hw.sub rfl) | split

theorem execIngestArrival_keeps {P : State → Prop} (hw : Frees P 0xc0e20000e) (jid : U64) (port : Fin 2) (query : Bool) (dva : BitVec 57) (data : List Byte) (s : State) (hs : P s) : OutAll P (execIngestArrival jid port query dva data s) := by
  unfold execIngestArrival
  repeat' first
    | with_reducible intro _ | with_reducible assumption | with_reducible apply State.ran_keeps (hw.sub rfl)
    | with_reducible apply State.ingestItem_keeps (hw.sub rfl) | with_reducible apply State.withJob_keeps (hw.sub rfl)
    | with_reducible apply State.cntAdd_keeps (hw.sub rfl) | split

theorem execFetchMax_keeps {P : State → Prop} (hw : Frees P 0xd807dfff4) (x : UnitId) (sid : U16) (a : U64) (s : State) (hs : P s) : OutAll P (execFetchMax x sid a s) := by
  unfold execFetchMax
  repeat' first
    | with_reducible intro _ | with_reducible assumption | with_reducible apply State.sendReply_keeps (hw.sub rfl)
    | with_reducible apply State.syncOp_keeps (hw.sub rfl) | with_reducible apply State.syncDone_keeps (hw.sub rfl)
    | with_reducible apply State.ran_keeps (hw.sub rfl) | with_reducible apply State.putValue_keeps (hw.sub rfl)

theorem execCmp_keeps {P : State → Prop} (hw : Frees P 0x500018010) (v : VxId) (w : VOps) (s : State) (hs : P s) : OutAll P (execCmp v w s) := by
  unfold execCmp
  have x := ()
  repeat' first
    | with_reducible intro _ | (extract_lets +onlyGivenNames x; (fail_if_success clear x); clear_value x) | with_reducible assumption
    | with_reducible apply State.vxIssue_keeps (hw.sub rfl) | with_reducible apply State.setVmask_keeps (hw.sub rfl)
    | with_reducible apply State.ran_keeps (hw.sub rfl) | with_reducible apply State.orLanes_keeps (hw.sub rfl) | with_reducible apply IssueAll.done
    | with_reducible apply IssueAll.held | split

theorem execQueryCommand_keeps {P : State → Prop} (hw : Frees P 0x200010) (jid : U64) (query : Nat) (s : State) (hs : P s) : OutAll P (execQueryCommand jid query s) := by
  unfold execQueryCommand
  have x := ()
  repeat' first
    | with_reducible intro _
    | (extract_lets +onlyGivenNames x; (fail_if_success clear x); first | (refine Keep.cut (P := P) (v := x) ?_ ?_; unfold x; clear x; rotate_left; intro hx; clear_value x) | clear_value x)
    | with_reducible assumption | with_reducible apply State.ran_keeps (hw.sub rfl) | with_reducible apply State.updJob_keeps (hw.sub rfl)
    | with_reducible apply State.withJob_keeps (hw.sub rfl) | with_reducible apply State.updUnit_keeps (hw.sub rfl) | with_reducible apply Keep.foldl
    | split

theorem execPortTrained_keeps {P : State → Prop} (hw : Frees P 0x800000) (p : Fin 6) (roundTripPs : Nat) (polarity : Byte) (s : State) (hs : P s) : OutAll P (execPortTrained p roundTripPs polarity s) := by
  unfold execPortTrained
  have x := ()
  repeat' first
    | with_reducible intro _ | (extract_lets +onlyGivenNames x; (fail_if_success clear x); clear_value x) | with_reducible assumption
    | with_reducible apply State.ran_keeps (hw.sub rfl) | with_reducible apply State.setPort_keeps (hw.sub rfl) | split

theorem execRejoin_keeps {P : State → Prop} (hw : Frees P 0x2e00000000) (f : Func) (die : Fin 32) (s : State) (hs : P s) : OutAll P (execRejoin f die s) := by
  unfold execRejoin
  repeat' first
    | with_reducible intro _ | with_reducible assumption | with_reducible apply State.privileged_keeps (hw.sub rfl)
    | with_reducible apply State.dieCommand_keeps (hw.sub rfl) | with_reducible apply State.byPwr_keeps (hw.sub rfl)
    | with_reducible apply State.exchange_keeps (hw.sub rfl)

theorem execRegisterWrite_keeps {P : State → Prop} (hw : Frees P 0x37fb9fdffff) (f : Func) (addr : Nat) (half : Bool) (v : U64) (s : State) (hs : P s) : OutAll P (execRegisterWrite f addr half v s) := by
  unfold execRegisterWrite
  have x := ()
  repeat' first
    | with_reducible intro _
    | (extract_lets +onlyGivenNames x; (fail_if_success clear x); first | (refine Keep.cut (P := P) (v := x) ?_ ?_; unfold x; clear x; rotate_left; intro hx; clear_value x) | clear_value x)
    | with_reducible assumption | with_reducible apply State.reply_keeps (hw.sub rfl) | with_reducible apply State.regWrite_keeps (hw.sub rfl)
    | with_reducible apply State.deny_keeps (hw.sub rfl) | with_reducible apply State.exchange_keeps (hw.sub rfl)
    | with_reducible apply State.ran_keeps (hw.sub rfl) | split

theorem execRoute_keeps {P : State → Prop} (hw : Frees P 0x20d8e7dfffe) (die : Fin 24) (tokens : Nat) (s : State) (hs : P s) : OutAll P (execRoute die s tokens) := by
  unfold execRoute
  have x := ()
  repeat' first
    | with_reducible intro _
    | (extract_lets +onlyGivenNames x; (fail_if_success clear x); first | (refine Keep.cut (P := P) (v := x) ?_ ?_; unfold x; clear x; rotate_left; intro hx; clear_value x) | clear_value x)
    | with_reducible assumption | with_reducible apply State.routeFrom_keeps (hw.sub rfl) | with_reducible apply State.gseRun_keeps (hw.sub rfl)
    | with_reducible apply State.ran_keeps (hw.sub rfl) | with_reducible apply State.setGse_keeps (hw.sub rfl) | split

theorem execFlitReceive_keeps {P : State → Prop} (hw : Frees P 0x500a00005) (p : Fin 6) (flit : BitVec 2048) (s : State) (hs : P s) : OutAll P (execFlitReceive p flit s) := by
  unfold execFlitReceive
  have x := ()
  repeat' first
    | with_reducible intro _
    | (extract_lets +onlyGivenNames x; (fail_if_success clear x); first | (refine Keep.cut (P := P) (v := x) ?_ ?_; unfold x; clear x; rotate_left; intro hx; clear_value x) | clear_value x)
    | with_reducible assumption | with_reducible apply State.portDown_keeps (hw.sub rfl) | with_reducible apply State.lostPieces_keeps (hw.sub rfl)
    | with_reducible apply State.ran_keeps (hw.sub rfl) | with_reducible apply State.setPort_keeps (hw.sub rfl)
    | with_reducible apply State.cntAdd_keeps (hw.sub rfl) | split

theorem execVinRemoved_keeps {P : State → Prop} (hw : Frees P 0x41000000000) (s : State) (hs : P s) : OutAll P (execVinRemoved s) := by
  unfold execVinRemoved
  repeat' first
    | with_reducible assumption | with_reducible apply State.powerOff_keeps (hw.sub rfl) | with_reducible apply OutAll.next

theorem execGddr7Read_keeps {P : State → Prop} (hw : Frees P 0x5867dfffe) (by_ : Stream) (a : BitVec 45) (err : EccErr) (s : State) (hs : P s) : OutAll P (execGddr7Read by_ a err s) := by
  unfold execGddr7Read
  have x := ()
  repeat' first
    | with_reducible intro _
    | (extract_lets +onlyGivenNames x; (fail_if_success clear x); first | (refine Keep.cut (P := P) (v := x) ?_ ?_; unfold x; clear x; rotate_left; intro hx; clear_value x) | clear_value x)
    | with_reducible assumption | with_reducible apply State.poisonTo_keeps (hw.sub rfl) | with_reducible apply State.meet_keeps (hw.sub rfl)
    | with_reducible apply State.ran_keeps (hw.sub rfl) | with_reducible apply State.cntAdd_keeps (hw.sub rfl) | split

theorem execCxlPortUp_keeps {P : State → Prop} (hw : Frees P 0x8000000) (c : Fin 4) (prsnt : Bool) (full : Bool) (devices : BitVec 4) (s : State) (hs : P s) : OutAll P (execCxlPortUp c full devices s prsnt) := by
  unfold execCxlPortUp
  have x := ()
  repeat' first
    | with_reducible intro _ | (extract_lets +onlyGivenNames x; (fail_if_success clear x); clear_value x) | with_reducible assumption
    | with_reducible apply State.ran_keeps (hw.sub rfl) | with_reducible apply State.setCxl_keeps (hw.sub rfl) | split

theorem execRun_keeps {P : State → Prop} (hw : Frees P 0x500200014) (s : State) (hs : P s) : OutAll P (execRun s) := by
  unfold execRun
  repeat' first
    | with_reducible intro _ | with_reducible assumption | with_reducible apply State.takeKind_keeps (hw.sub rfl)
    | with_reducible apply State.reject_keeps (hw.sub rfl) | with_reducible apply State.ran_keeps (hw.sub rfl)
    | with_reducible apply State.admitRun_keeps (hw.sub rfl) | split

theorem execTanh_keeps {P : State → Prop} (hw : Frees P 0x500014010) (v : VxId) (w : VOps) (s : State) (hs : P s) : OutAll P (execTanh v w s) := by
  unfold execTanh
  repeat' first
    | with_reducible intro _ | with_reducible assumption | with_reducible apply State.vxElem_keeps (hw.sub rfl)
    | with_reducible apply State.ran_keeps (hw.sub rfl)

theorem execShl_keeps {P : State → Prop} (hw : Frees P 0x500014010) (v : VxId) (w : VOps) (s : State) (hs : P s) : OutAll P (execShl v w s) := by
  unfold execShl
  repeat' first
    | with_reducible intro _ | with_reducible assumption | with_reducible apply State.vxShift_keeps (hw.sub rfl)
    | with_reducible apply State.ran_keeps (hw.sub rfl)

theorem execAdderOperandReady_keeps {P : State → Prop} (hw : Frees P 0xd8efdfffe) (p : Fin 6) (s : State) (hs : P s) : OutAll P (execAdderOperandReady p s) := by
  unfold execAdderOperandReady
  repeat' first
    | with_reducible intro _ | with_reducible assumption | with_reducible apply State.stalePacket_keeps (hw.sub rfl)
    | with_reducible apply State.reduceWith_keeps (hw.sub rfl) | with_reducible apply State.freeHeld_keeps (hw.sub rfl)
    | with_reducible apply State.dmxFlags_keeps (hw.sub rfl) | with_reducible apply State.ran_keeps (hw.sub rfl)
    | with_reducible apply State.on_keeps (hw.sub rfl) | with_reducible apply State.updJob_keeps (hw.sub rfl) | split

theorem execPinEnable_keeps {P : State → Prop} (hw : Frees P 0x100000000) (f : Func) (i : Fin 64) (v : U64) (s : State) (hs : P s) : OutAll P (execPinEnable f i v s) := by
  unfold execPinEnable
  repeat' first
    | with_reducible intro _ | with_reducible assumption | with_reducible apply State.writePinLo_keeps (hw.sub rfl)
    | with_reducible apply State.byBar_keeps (hw.sub rfl) | split

theorem execResume_keeps {P : State → Prop} (hw : Frees P 0x500200014) (s : State) (hs : P s) : OutAll P (execResume s) := by
  unfold execResume
  have x := ()
  repeat' first
    | with_reducible intro _
    | (extract_lets +onlyGivenNames x; (fail_if_success clear x); first | (refine Keep.cut (P := P) (v := x) ?_ ?_; unfold x; clear x; rotate_left; intro hx; clear_value x) | clear_value x)
    | with_reducible assumption | with_reducible apply State.takeKind_keeps (hw.sub rfl) | with_reducible apply State.reject_keeps (hw.sub rfl)
    | with_reducible apply State.ran_keeps (hw.sub rfl) | with_reducible apply State.admitResume_keeps (hw.sub rfl)
    | with_reducible apply State.refuse_keeps (hw.sub rfl) | with_reducible apply State.traceEv_keeps (hw.sub rfl) | split

theorem execWatchdogExpiry_keeps {P : State → Prop} (hw : Frees P 0x40000000000) (s : State) (hs : P s) : OutAll P (execWatchdogExpiry s) := by
  unfold execWatchdogExpiry
  repeat' first
    | with_reducible intro _ | with_reducible assumption | with_reducible apply State.ran_keeps (hw.sub rfl) | with_reducible apply hw.warm rfl

theorem execOvervoltageTrip_keeps {P : State → Prop} (hw : Frees P 0x41000000000) (vin : Nat) (s : State) (hs : P s) : OutAll P (execOvervoltageTrip vin s) := by
  unfold execOvervoltageTrip
  have x := ()
  repeat' first
    | (extract_lets +onlyGivenNames x; (fail_if_success clear x); first | (refine Keep.cut (P := P) (v := x) ?_ ?_; unfold x; clear x; rotate_left; intro hx; clear_value x) | clear_value x)
    | with_reducible assumption | with_reducible apply State.powerOff_keeps (hw.sub rfl) | with_reducible apply State.setPwr_keeps (hw.sub rfl)
    | with_reducible apply OutAll.next | with_reducible apply OutAll.fault | split

theorem execSin_keeps {P : State → Prop} (hw : Frees P 0x500014010) (v : VxId) (w : VOps) (s : State) (hs : P s) : OutAll P (execSin v w s) := by
  unfold execSin
  repeat' first
    | with_reducible intro _ | with_reducible assumption | with_reducible apply State.vxElem_keeps (hw.sub rfl)
    | with_reducible apply State.ran_keeps (hw.sub rfl)

theorem execWarmReset_keeps {P : State → Prop} (hw : Frees P 0x40000000000) (s : State) (hs : P s) : OutAll P (execWarmReset s) := by
  unfold execWarmReset
  repeat' first
    | with_reducible intro _ | with_reducible assumption | with_reducible apply State.ran_keeps (hw.sub rfl) | with_reducible apply hw.warm rfl

theorem execShedEntry_keeps {P : State → Prop} (hw : Frees P 0x6359a7dfffe) (s : State) (hs : P s) : OutAll P (execShedEntry s) := by
  unfold execShedEntry
  have x := ()
  repeat' first
    | with_reducible intro _
    | (extract_lets +onlyGivenNames x; (fail_if_success clear x); first | (refine Keep.cut (P := P) (v := x) ?_ ?_; unfold x; clear x; rotate_left; intro hx; clear_value x) | clear_value x)
    | with_reducible assumption | with_reducible apply State.thermalEvent_keeps (hw.sub rfl)
    | with_reducible apply State.supplyEvent_keeps (hw.sub rfl) | with_reducible apply State.countEntries_keeps (hw.sub rfl)
    | with_reducible apply State.ran_keeps (hw.sub rfl) | with_reducible apply State.shed_keeps (hw.sub rfl)
    | with_reducible apply State.setPwr_keeps (hw.sub rfl) | split

theorem execHxuCommand_keeps {P : State → Prop} (hw : Frees P 0x20d8efdfffe) (die : Fin 24) (s : State) (hs : P s) : OutAll P (execHxuCommand die s) := by
  unfold execHxuCommand
  have x := ()
  repeat' first
    | with_reducible intro _
    | (extract_lets +onlyGivenNames x; (fail_if_success clear x); first | (refine Keep.cut (P := P) (v := x) ?_ ?_; unfold x; clear x; rotate_left; intro hx; clear_value x) | (refine Keep.cutFst (P := P) (v := x) ?_ ?_; unfold x; clear x; rotate_left; intro hx; clear_value x) | clear_value x)
    | with_reducible assumption | with_reducible apply State.moveFrom_keeps (hw.sub rfl) | with_reducible apply State.moverDone_keeps (hw.sub rfl)
    | with_reducible apply State.haloPackets_keeps (hw.sub rfl) | with_reducible apply State.unitWorks_keeps (hw.sub rfl)
    | with_reducible apply State.workDone_keeps (hw.sub rfl) | with_reducible apply State.doSignal_keeps (hw.sub rfl)
    | with_reducible apply State.ran_keeps (hw.sub rfl) | with_reducible apply State.countOoa_keeps (hw.sub rfl)
    | with_reducible apply State.on_keeps (hw.sub rfl) | with_reducible apply State.updUnit_keeps (hw.sub rfl) | split

theorem execFetchMin_keeps {P : State → Prop} (hw : Frees P 0xd807dfff4) (x : UnitId) (sid : U16) (a : U64) (s : State) (hs : P s) : OutAll P (execFetchMin x sid a s) := by
  unfold execFetchMin
  repeat' first
    | with_reducible intro _ | with_reducible assumption | with_reducible apply State.sendReply_keeps (hw.sub rfl)
    | with_reducible apply State.syncOp_keeps (hw.sub rfl) | with_reducible apply State.syncDone_keeps (hw.sub rfl)
    | with_reducible apply State.ran_keeps (hw.sub rfl) | with_reducible apply State.putValue_keeps (hw.sub rfl)

theorem execHoldoverExpiry_keeps {P : State → Prop} (hw : Frees P 0x500a00005) (s : State) (hs : P s) : OutAll P (execHoldoverExpiry s) := by
  unfold execHoldoverExpiry
  have x := ()
  repeat' first
    | with_reducible intro _
    | (extract_lets +onlyGivenNames x; (fail_if_success clear x); first | (refine Keep.cut (P := P) (v := x) ?_ ?_; unfold x; clear x; rotate_left; intro hx; clear_value x) | clear_value x)
    | with_reducible assumption | with_reducible apply State.ran_keeps (hw.sub rfl) | with_reducible apply State.setTime_keeps (hw.sub rfl)
    | with_reducible apply State.beatLost_keeps (hw.sub rfl) | with_reducible apply State.askPreemptAll_keeps (hw.sub rfl)
    | with_reducible apply State.updPort_keeps (hw.sub rfl) | with_reducible apply Keep.foldl | split

theorem execFaddPk_keeps {P : State → Prop} (hw : Frees P 0x500014010) (v : VxId) (w : VOps) (s : State) (hs : P s) : OutAll P (execFaddPk v w s) := by
  unfold execFaddPk
  repeat' first
    | with_reducible intro _ | with_reducible assumption | with_reducible apply State.vx2_keeps (hw.sub rfl)
    | with_reducible apply State.ran_keeps (hw.sub rfl)

theorem execDelayRemeasure_keeps {P : State → Prop} (hw : Frees P 0x20000800000) (s : State) (hs : P s) : OutAll P (execDelayRemeasure s) := by
  unfold execDelayRemeasure
  repeat' first
    | with_reducible intro _ | with_reducible assumption | with_reducible apply State.ran_keeps (hw.sub rfl)
    | with_reducible apply State.tickFresh_keeps (hw.sub rfl) | with_reducible apply State.updPort_keeps (hw.sub rfl)
    | with_reducible apply Keep.foldl | split

theorem execDmaTransfer_keeps {P : State → Prop} (hw : Frees P 0x20d8e7dfffe) (die : Fin 24) (e : Fin 2) (words : Nat) (s : State) (hs : P s) : OutAll P (execDmaTransfer die e s words) := by
  unfold execDmaTransfer
  have x := ()
  repeat' first
    | with_reducible intro _
    | (extract_lets +onlyGivenNames x; (fail_if_success clear x); first | (refine Keep.cut (P := P) (v := x) ?_ ?_; unfold x; clear x; rotate_left; intro hx; clear_value x) | (refine Keep.cutFst (P := P) (v := x) ?_ ?_; unfold x; clear x; rotate_left; intro hx; clear_value x) | clear_value x)
    | with_reducible assumption | with_reducible apply State.moveFrom_keeps (hw.sub rfl) | with_reducible apply State.moverDone_keeps (hw.sub rfl)
    | with_reducible apply State.unitWorks_keeps (hw.sub rfl) | with_reducible apply State.ran_keeps (hw.sub rfl)
    | with_reducible apply State.updJob_keeps (hw.sub rfl) | with_reducible apply State.updUnit_keeps (hw.sub rfl) | split

theorem execCos_keeps {P : State → Prop} (hw : Frees P 0x500014010) (v : VxId) (w : VOps) (s : State) (hs : P s) : OutAll P (execCos v w s) := by
  unfold execCos
  repeat' first
    | with_reducible intro _ | with_reducible assumption | with_reducible apply State.vxElem_keeps (hw.sub rfl)
    | with_reducible apply State.ran_keeps (hw.sub rfl)

theorem execQcfgWrite_keeps {P : State → Prop} (hw : Frees P 0xe00000030) (f : Func) (die : Fin 24) (q : Fin 512) (v : U64) (s : State) (hs : P s) : OutAll P (execQcfgWrite f die q v s) := by
  unfold execQcfgWrite
  repeat' first
    | with_reducible intro _ | with_reducible assumption | with_reducible apply State.writeQcfg_keeps (hw.sub rfl)
    | with_reducible apply State.privileged_keeps (hw.sub rfl) | with_reducible apply State.byBarOf_keeps (hw.sub rfl)

theorem execDieFenced_keeps {P : State → Prop} (hw : Frees P 0x2500000004) (die : Fin 32) (s : State) (hs : P s) : OutAll P (execDieFenced die s) := by
  unfold execDieFenced
  have x := ()
  repeat' first
    | with_reducible intro _ | (extract_lets +onlyGivenNames x; (fail_if_success clear x); clear_value x) | with_reducible assumption
    | with_reducible apply State.ran_keeps (hw.sub rfl) | with_reducible apply State.fencedEvent_keeps (hw.sub rfl)
    | with_reducible apply State.setDie_keeps (hw.sub rfl) | split

theorem execHoldoverEntry_keeps {P : State → Prop} (hw : Frees P 0x500000005) (s : State) (hs : P s) : OutAll P (execHoldoverEntry s) := by
  unfold execHoldoverEntry
  have x := ()
  repeat' first
    | with_reducible intro _ | (extract_lets +onlyGivenNames x; (fail_if_success clear x); clear_value x) | with_reducible assumption
    | with_reducible apply State.ran_keeps (hw.sub rfl) | with_reducible apply State.setTime_keeps (hw.sub rfl)
    | with_reducible apply State.beatLost_keeps (hw.sub rfl) | split

theorem execNlDisable_keeps {P : State → Prop} (hw : Frees P 0xf00a00004) (f : Func) (p : Fin 6) (s : State) (hs : P s) : OutAll P (execNlDisable f p s) := by
  unfold execNlDisable
  repeat' first
    | with_reducible intro _ | with_reducible assumption | with_reducible apply State.nlDisable_keeps (hw.sub rfl)
    | with_reducible apply State.privileged_keeps (hw.sub rfl) | with_reducible apply State.byBarOf_keeps (hw.sub rfl)

theorem execPark_keeps {P : State → Prop} (hw : Frees P 0x200000) (jid : U64) (s : State) (hs : P s) : OutAll P (execPark jid s) := by
  unfold execPark
  repeat' first
    | with_reducible intro _ | with_reducible assumption | with_reducible apply State.ran_keeps (hw.sub rfl)
    | with_reducible apply State.updJob_keeps (hw.sub rfl) | with_reducible apply State.withJob_keeps (hw.sub rfl) | split

theorem execTokenCrossing_keeps {P : State → Prop} (hw : Frees P 0x400000060) (src : Fin 24) (dst : Fin 24) (s : State) (hs : P s) : OutAll P (execTokenCrossing src dst s) := by
  unfold execTokenCrossing
  have x := ()
  repeat' first
    | with_reducible intro _ | (extract_lets +onlyGivenNames x; (fail_if_success clear x); clear_value x) | with_reducible assumption
    | with_reducible apply State.setChan_keeps (hw.sub rfl) | with_reducible apply State.ran_keeps (hw.sub rfl)
    | with_reducible apply State.setQueue_keeps (hw.sub rfl) | with_reducible apply State.cntAdd_keeps (hw.sub rfl) | with_reducible apply Keep.elim
    | split

theorem execWaitGe_keeps {P : State → Prop} (hw : Frees P 0xd807dfff4) (x : UnitId) (sid : U16) (v : U64) (s : State) (hs : P s) : OutAll P (execWaitGe x sid v s) := by
  unfold execWaitGe
  repeat' first
    | with_reducible intro _ | with_reducible assumption | with_reducible apply State.setWait_keeps (hw.sub rfl)
    | with_reducible apply State.syncOp_keeps (hw.sub rfl) | with_reducible apply State.syncDone_keeps (hw.sub rfl)
    | with_reducible apply State.ran_keeps (hw.sub rfl) | with_reducible apply State.setWatch_keeps (hw.sub rfl)

theorem execSmbPwrStatus_keeps {P : State → Prop} (hw : Frees P 0x10000000000) (s : State) (hs : P s) : OutAll P (execSmbPwrStatus s) := by
  unfold execSmbPwrStatus
  repeat' first
    | with_reducible assumption | with_reducible apply State.smbRead_keeps (hw.sub rfl) | with_reducible apply OutAll.next

theorem execSmbHpStatus_keeps {P : State → Prop} (hw : Frees P 0x10000000000) (s : State) (hs : P s) : OutAll P (execSmbHpStatus s) := by
  unfold execSmbHpStatus
  repeat' first
    | with_reducible assumption | with_reducible apply State.smbRead_keeps (hw.sub rfl) | with_reducible apply OutAll.next

theorem execHalo_keeps {P : State → Prop} (hw : Frees P 0xd8efdfffe) (p : Fin 6) (s : State) (hs : P s) : OutAll P (execHalo p s) := by
  unfold execHalo
  have x := ()
  repeat' first
    | with_reducible intro _
    | (extract_lets +onlyGivenNames x; (fail_if_success clear x); first | (refine Keep.cut (P := P) (v := x) ?_ ?_; unfold x; clear x; rotate_left; intro hx; clear_value x) | clear_value x)
    | with_reducible assumption | with_reducible apply State.takePkt_keeps (hw.sub rfl) | with_reducible apply State.stalePacket_keeps (hw.sub rfl)
    | with_reducible apply State.stoppedDelivery_keeps (hw.sub rfl) | with_reducible apply State.forward_keeps (hw.sub rfl)
    | with_reducible apply State.ran_keeps (hw.sub rfl) | with_reducible apply State.deliverHalo_keeps (hw.sub rfl) | split

theorem execFwStage_keeps {P : State → Prop} (hw : Frees P 0x4e00000000) (f : Func) (img : Image) (s : State) (hs : P s) : OutAll P (execFwStage f img s) := by
  unfold execFwStage
  repeat' first
    | with_reducible intro _ | with_reducible assumption | with_reducible apply State.mailbox_keeps (hw.sub rfl)
    | with_reducible apply State.fwStage_keeps (hw.sub rfl)

theorem execFunctionLevelReset_keeps {P : State → Prop} (hw : Frees P 0x5a07dfff4) (f : Func) (s : State) (hs : P s) : OutAll P (execFunctionLevelReset f s) := by
  unfold execFunctionLevelReset
  repeat' first
    | with_reducible intro _ | with_reducible assumption | with_reducible apply State.flr_keeps (hw.sub rfl)
    | with_reducible apply State.ran_keeps (hw.sub rfl)

theorem execExp2_keeps {P : State → Prop} (hw : Frees P 0x500014010) (v : VxId) (w : VOps) (s : State) (hs : P s) : OutAll P (execExp2 v w s) := by
  unfold execExp2
  repeat' first
    | with_reducible intro _ | with_reducible assumption | with_reducible apply State.vxElem_keeps (hw.sub rfl)
    | with_reducible apply State.ran_keeps (hw.sub rfl)

theorem execGather_keeps {P : State → Prop} (hw : Frees P 0x20d8e7dfffe) (die : Fin 24) (rows : Nat) (s : State) (hs : P s) : OutAll P (execGather die s rows) := by
  unfold execGather
  repeat' first
    | with_reducible intro _ | with_reducible assumption | with_reducible apply State.gseSteps_keeps (hw.sub rfl)
    | with_reducible apply State.gseRun_keeps (hw.sub rfl) | with_reducible apply State.gatherRow_keeps (hw.sub rfl)
    | with_reducible apply State.ran_keeps (hw.sub rfl) | split

theorem execPageResponse_keeps {P : State → Prop} (hw : Frees P 0x5c07dfff4) (ctx : Fin 32) (fid : U32) (success : Bool) (s : State) (hs : P s) : OutAll P (execPageResponse ctx fid success s) := by
  unfold execPageResponse
  have x := ()
  repeat' first
    | with_reducible intro _
    | (extract_lets +onlyGivenNames x; (fail_if_success clear x); refine Keep.cut (P := P) (v := x) ?_ ?_; unfold x; clear x; rotate_left; intro hx; clear_value x)
    | with_reducible assumption | with_reducible apply State.retryFault_keeps (hw.sub rfl) | with_reducible apply State.priFailed_keeps (hw.sub rfl)
    | with_reducible apply State.ran_keeps (hw.sub rfl) | with_reducible apply State.askAgain_keeps (hw.sub rfl) | split

theorem execCorkPacket_keeps {P : State → Prop} (hw : Frees P 0x400a00010) (p : Fin 6) (s : State) (hs : P s) : OutAll P (execCorkPacket p s) := by
  unfold execCorkPacket
  have x := ()
  repeat' first
    | with_reducible intro _
    | (extract_lets +onlyGivenNames x; (fail_if_success clear x); first | (refine Keep.cut (P := P) (v := x) ?_ ?_; unfold x; clear x; rotate_left; intro hx; clear_value x) | clear_value x)
    | with_reducible assumption | with_reducible apply State.takePkt_keeps (hw.sub rfl) | with_reducible apply State.stalePacket_keeps (hw.sub rfl)
    | with_reducible apply State.passOn_keeps (hw.sub rfl) | with_reducible apply State.ran_keeps (hw.sub rfl)
    | with_reducible apply State.deliverCork_keeps (hw.sub rfl) | with_reducible apply State.updJob_keeps (hw.sub rfl) | split

theorem execSet_keeps {P : State → Prop} (hw : Frees P 0xf00000194) (by_ : SyncBy) (sid : U16) (v : U64) (ctl : U64) (s : State) (hs : P s) : OutAll P (execSet by_ sid v ctl s) := by
  unfold execSet
  have x := ()
  repeat' first
    | with_reducible intro _ | (extract_lets +onlyGivenNames x; (fail_if_success clear x); clear_value x) | with_reducible assumption
    | with_reducible apply State.privileged_keeps (hw.sub rfl) | with_reducible apply State.exchange_keeps (hw.sub rfl)
    | with_reducible apply State.ran_keeps (hw.sub rfl) | with_reducible apply State.armedWrite_keeps (hw.sub rfl)
    | with_reducible apply State.wake_keeps (hw.sub rfl) | with_reducible apply State.setSync_keeps (hw.sub rfl) | split

theorem tick_keeps {P : State → Prop} (hw : Frees P 0x60d8e7dffff) (s : State) (hs : P s) : P (tick s) := by
  unfold tick
  have x := ()
  repeat' first
    | (extract_lets +onlyGivenNames x; (fail_if_success clear x); refine Keep.cut (P := P) (v := x) ?_ ?_; unfold x; clear x; rotate_left; intro hx; clear_value x)
    | with_reducible assumption | with_reducible apply hw.warm rfl | with_reducible apply State.stoppedPeriods_keeps (hw.sub rfl)
    | with_reducible apply State.cycles_keeps (hw.sub rfl) | with_reducible apply State.feed_keeps (hw.sub rfl) | split

end Sys2Proof.Machine
end

