-- ==== Sys2Proof/Laws/Parts.lean ====
section
/-! SUPPORT. A property of one part of the state outlives updates of every other part: with the `f_keeps` lemmas, what an operation leaves
alone. `Frees.sub` narrows the number to an operation's own. -/

namespace Sys2Proof.Machine

theorem Frees.and {P Q : State → Prop} {m : Nat} (hp : Frees P m) (hq : Frees Q m) : Frees (fun s => P s ∧ Q s) m := by
  intro k hk
  have a := hp k hk
  have b := hq k hk
  unfold Free at a b ⊢
  split <;> first
    | exact fun s v h => ⟨a s v h.1, b s v h.2⟩
    | exact fun s v w h => ⟨a s v w h.1, b s v w h.2⟩
    | exact fun s h => ⟨fun c => ⟨(a s h.1).1 c, (b s h.2).1 c⟩, fun c => ⟨(a s h.1).2 c, (b s h.2).2 c⟩⟩
    | trivial

theorem bit_above {m k : Nat} (hm : m < 2 ^ 42) (hk : m.testBit (k + 42) = true) : False := by
  rw [Nat.testBit_lt_two_pow (lt_of_lt_of_le hm (Nat.pow_le_pow_right (by decide) (by omega)))] at hk
  exact absurd hk (by decide)

theorem frees_time (Q : _ → Prop) : Frees (fun t => Q t.time) 0x3FFFFFFFFFE := fun k hk =>
  match k with
  | 0 => absurd hk (by decide)
  | 1 => fun _ _ _ h => h
  | 2 => fun _ _ _ h => h
  | 3 => fun _ _ h => h
  | 4 => fun _ _ h => h
  | 5 => fun _ _ h => h
  | 6 => fun _ _ h => h
  | 7 => fun _ _ h => h
  | 8 => fun _ _ h => h
  | 9 => fun _ _ h => h
  | 10 => fun _ _ h => h
  | 11 => fun _ _ h => h
  | 12 => fun _ _ h => h
  | 13 => fun _ _ h => h
  | 14 => fun _ _ h => h
  | 15 => fun _ _ h => h
  | 16 => fun _ _ h => h
  | 17 => fun _ _ h => h
  | 18 => fun _ _ h => h
  | 19 => fun _ _ h => h
  | 20 => fun _ _ h => h
  | 21 => fun _ _ h => h
  | 22 => fun _ _ h => h
  | 23 => fun _ _ h => h
  | 24 => fun _ _ h => h
  | 25 => fun _ _ h => h
  | 26 => fun _ _ h => h
  | 27 => fun _ _ h => h
  | 28 => fun _ _ h => h
  | 29 => fun _ _ h => h
  | 30 => fun _ _ h => h
  | 31 => fun _ _ h => h
  | 32 => fun _ _ h => h
  | 33 => fun _ _ h => h
  | 34 => fun _ _ h => h
  | 35 => fun _ _ h => h
  | 36 => fun _ _ h => h
  | 37 => fun _ _ h => h
  | 38 => fun _ _ h => h
  | 39 => fun _ _ h => h
  | 40 => fun _ _ h => h
  | 41 => fun _ _ h => h
  | _ + 42 => (bit_above (by decide) hk).elim

theorem frees_mem (Q : _ → Prop) : Frees (fun t => Q t.mem) 0x3FFFFFFFFFD := fun k hk =>
  match k with
  | 0 => fun _ _ h => h
  | 1 => absurd hk (by decide)
  | 2 => fun _ _ _ h => h
  | 3 => fun _ _ h => h
  | 4 => fun _ _ h => h
  | 5 => fun _ _ h => h
  | 6 => fun _ _ h => h
  | 7 => fun _ _ h => h
  | 8 => fun _ _ h => h
  | 9 => fun _ _ h => h
  | 10 => fun _ _ h => h
  | 11 => fun _ _ h => h
  | 12 => fun _ _ h => h
  | 13 => fun _ _ h => h
  | 14 => fun _ _ h => h
  | 15 => fun _ _ h => h
  | 16 => fun _ _ h => h
  | 17 => fun _ _ h => h
  | 18 => fun _ _ h => h
  | 19 => fun _ _ h => h
  | 20 => fun _ _ h => h
  | 21 => fun _ _ h => h
  | 22 => fun _ _ h => h
  | 23 => fun _ _ h => h
  | 24 => fun _ _ h => h
  | 25 => fun _ _ h => h
  | 26 => fun _ _ h => h
  | 27 => fun _ _ h => h
  | 28 => fun _ _ h => h
  | 29 => fun _ _ h => h
  | 30 => fun _ _ h => h
  | 31 => fun _ _ h => h
  | 32 => fun _ _ h => h
  | 33 => fun _ _ h => h
  | 34 => fun _ _ h => h
  | 35 => fun _ _ h => h
  | 36 => fun _ _ h => h
  | 37 => fun _ _ h => h
  | 38 => fun _ _ h => h
  | 39 => fun _ _ h => h
  | 40 => fun _ _ h => h
  | 41 => fun _ _ h => h
  | _ + 42 => (bit_above (by decide) hk).elim

theorem frees_host (Q : _ → Prop) : Frees (fun t => Q t.host) 0x3FFFFFFFFFB := fun k hk =>
  match k with
  | 0 => fun _ _ h => h
  | 1 => fun _ _ _ h => h
  | 2 => absurd hk (by decide)
  | 3 => fun _ _ h => h
  | 4 => fun _ _ h => h
  | 5 => fun _ _ h => h
  | 6 => fun _ _ h => h
  | 7 => fun _ _ h => h
  | 8 => fun _ _ h => h
  | 9 => fun _ _ h => h
  | 10 => fun _ _ h => h
  | 11 => fun _ _ h => h
  | 12 => fun _ _ h => h
  | 13 => fun _ _ h => h
  | 14 => fun _ _ h => h
  | 15 => fun _ _ h => h
  | 16 => fun _ _ h => h
  | 17 => fun _ _ h => h
  | 18 => fun _ _ h => h
  | 19 => fun _ _ h => h
  | 20 => fun _ _ h => h
  | 21 => fun _ _ h => h
  | 22 => fun _ _ h => h
  | 23 => fun _ _ h => h
  | 24 => fun _ _ h => h
  | 25 => fun _ _ h => h
  | 26 => fun _ _ h => h
  | 27 => fun _ _ h => h
  | 28 => fun _ _ h => h
  | 29 => fun _ _ h => h
  | 30 => fun _ _ h => h
  | 31 => fun _ _ h => h
  | 32 => fun _ _ h => h
  | 33 => fun _ _ h => h
  | 34 => fun _ _ h => h
  | 35 => fun _ _ h => h
  | 36 => fun _ _ h => h
  | 37 => fun _ _ h => h
  | 38 => fun _ _ h => h
  | 39 => fun _ _ h => h
  | 40 => fun _ _ h => h
  | 41 => fun _ _ h => h
  | _ + 42 => (bit_above (by decide) hk).elim

theorem frees_veiled (Q : _ → Prop) : Frees (fun t => Q t.veiled) 0x3FFFFFFFFF7 := fun k hk =>
  match k with
  | 0 => fun _ _ h => h
  | 1 => fun _ _ _ h => h
  | 2 => fun _ _ _ h => h
  | 3 => absurd hk (by decide)
  | 4 => fun _ _ h => h
  | 5 => fun _ _ h => h
  | 6 => fun _ _ h => h
  | 7 => fun _ _ h => h
  | 8 => fun _ _ h => h
  | 9 => fun _ _ h => h
  | 10 => fun _ _ h => h
  | 11 => fun _ _ h => h
  | 12 => fun _ _ h => h
  | 13 => fun _ _ h => h
  | 14 => fun _ _ h => h
  | 15 => fun _ _ h => h
  | 16 => fun _ _ h => h
  | 17 => fun _ _ h => h
  | 18 => fun _ _ h => h
  | 19 => fun _ _ h => h
  | 20 => fun _ _ h => h
  | 21 => fun _ _ h => h
  | 22 => fun _ _ h => h
  | 23 => fun _ _ h => h
  | 24 => fun _ _ h => h
  | 25 => fun _ _ h => h
  | 26 => fun _ _ h => h
  | 27 => fun _ _ h => h
  | 28 => fun _ _ h => h
  | 29 => fun _ _ h => h
  | 30 => fun _ _ h => h
  | 31 => fun _ _ h => h
  | 32 => fun _ _ h => h
  | 33 => fun _ _ h => h
  | 34 => fun _ _ h => h
  | 35 => fun _ _ h => h
  | 36 => fun _ _ h => h
  | 37 => fun _ _ h => h
  | 38 => fun _ _ h => h
  | 39 => fun _ _ h => h
  | 40 => fun _ _ h => h
  | 41 => fun _ _ h => h
  | _ + 42 => (bit_above (by decide) hk).elim

theorem frees_units (Q : _ → Prop) : Frees (fun t => Q t.units) 0x3FFFFFFFFEF := fun k hk =>
  match k with
  | 0 => fun _ _ h => h
  | 1 => fun _ _ _ h => h
  | 2 => fun _ _ _ h => h
  | 3 => fun _ _ h => h
  | 4 => absurd hk (by decide)
  | 5 => fun _ _ h => h
  | 6 => fun _ _ h => h
  | 7 => fun _ _ h => h
  | 8 => fun _ _ h => h
  | 9 => fun _ _ h => h
  | 10 => fun _ _ h => h
  | 11 => fun _ _ h => h
  | 12 => fun _ _ h => h
  | 13 => fun _ _ h => h
  | 14 => fun _ _ h => h
  | 15 => fun _ _ h => h
  | 16 => fun _ _ h => h
  | 17 => fun _ _ h => h
  | 18 => fun _ _ h => h
  | 19 => fun _ _ h => h
  | 20 => fun _ _ h => h
  | 21 => fun _ _ h => h
  | 22 => fun _ _ h => h
  | 23 => fun _ _ h => h
  | 24 => fun _ _ h => h
  | 25 => fun _ _ h => h
  | 26 => fun _ _ h => h
  | 27 => fun _ _ h => h
  | 28 => fun _ _ h => h
  | 29 => fun _ _ h => h
  | 30 => fun _ _ h => h
  | 31 => fun _ _ h => h
  | 32 => fun _ _ h => h
  | 33 => fun _ _ h => h
  | 34 => fun _ _ h => h
  | 35 => fun _ _ h => h
  | 36 => fun _ _ h => h
  | 37 => fun _ _ h => h
  | 38 => fun _ _ h => h
  | 39 => fun _ _ h => h
  | 40 => fun _ _ h => h
  | 41 => fun _ _ h => h
  | _ + 42 => (bit_above (by decide) hk).elim

theorem frees_queues (Q : _ → Prop) : Frees (fun t => Q t.queues) 0x3FFFFFFFFDF := fun k hk =>
  match k with
  | 0 => fun _ _ h => h
  | 1 => fun _ _ _ h => h
  | 2 => fun _ _ _ h => h
  | 3 => fun _ _ h => h
  | 4 => fun _ _ h => h
  | 5 => absurd hk (by decide)
  | 6 => fun _ _ h => h
  | 7 => fun _ _ h => h
  | 8 => fun _ _ h => h
  | 9 => fun _ _ h => h
  | 10 => fun _ _ h => h
  | 11 => fun _ _ h => h
  | 12 => fun _ _ h => h
  | 13 => fun _ _ h => h
  | 14 => fun _ _ h => h
  | 15 => fun _ _ h => h
  | 16 => fun _ _ h => h
  | 17 => fun _ _ h => h
  | 18 => fun _ _ h => h
  | 19 => fun _ _ h => h
  | 20 => fun _ _ h => h
  | 21 => fun _ _ h => h
  | 22 => fun _ _ h => h
  | 23 => fun _ _ h => h
  | 24 => fun _ _ h => h
  | 25 => fun _ _ h => h
  | 26 => fun _ _ h => h
  | 27 => fun _ _ h => h
  | 28 => fun _ _ h => h
  | 29 => fun _ _ h => h
  | 30 => fun _ _ h => h
  | 31 => fun _ _ h => h
  | 32 => fun _ _ h => h
  | 33 => fun _ _ h => h
  | 34 => fun _ _ h => h
  | 35 => fun _ _ h => h
  | 36 => fun _ _ h => h
  | 37 => fun _ _ h => h
  | 38 => fun _ _ h => h
  | 39 => fun _ _ h => h
  | 40 => fun _ _ h => h
  | 41 => fun _ _ h => h
  | _ + 42 => (bit_above (by decide) hk).elim

theorem frees_chans (Q : _ → Prop) : Frees (fun t => Q t.chans) 0x3FFFFFFFFBF := fun k hk =>
  match k with
  | 0 => fun _ _ h => h
  | 1 => fun _ _ _ h => h
  | 2 => fun _ _ _ h => h
  | 3 => fun _ _ h => h
  | 4 => fun _ _ h => h
  | 5 => fun _ _ h => h
  | 6 => absurd hk (by decide)
  | 7 => fun _ _ h => h
  | 8 => fun _ _ h => h
  | 9 => fun _ _ h => h
  | 10 => fun _ _ h => h
  | 11 => fun _ _ h => h
  | 12 => fun _ _ h => h
  | 13 => fun _ _ h => h
  | 14 => fun _ _ h => h
  | 15 => fun _ _ h => h
  | 16 => fun _ _ h => h
  | 17 => fun _ _ h => h
  | 18 => fun _ _ h => h
  | 19 => fun _ _ h => h
  | 20 => fun _ _ h => h
  | 21 => fun _ _ h => h
  | 22 => fun _ _ h => h
  | 23 => fun _ _ h => h
  | 24 => fun _ _ h => h
  | 25 => fun _ _ h => h
  | 26 => fun _ _ h => h
  | 27 => fun _ _ h => h
  | 28 => fun _ _ h => h
  | 29 => fun _ _ h => h
  | 30 => fun _ _ h => h
  | 31 => fun _ _ h => h
  | 32 => fun _ _ h => h
  | 33 => fun _ _ h => h
  | 34 => fun _ _ h => h
  | 35 => fun _ _ h => h
  | 36 => fun _ _ h => h
  | 37 => fun _ _ h => h
  | 38 => fun _ _ h => h
  | 39 => fun _ _ h => h
  | 40 => fun _ _ h => h
  | 41 => fun _ _ h => h
  | _ + 42 => (bit_above (by decide) hk).elim

theorem frees_syncs (Q : _ → Prop) : Frees (fun t => Q t.syncs) 0x3FFFFFFFF7F := fun k hk =>
  match k with
  | 0 => fun _ _ h => h
  | 1 => fun _ _ _ h => h
  | 2 => fun _ _ _ h => h
  | 3 => fun _ _ h => h
  | 4 => fun _ _ h => h
  | 5 => fun _ _ h => h
  | 6 => fun _ _ h => h
  | 7 => absurd hk (by decide)
  | 8 => fun _ _ h => h
  | 9 => fun _ _ h => h
  | 10 => fun _ _ h => h
  | 11 => fun _ _ h => h
  | 12 => fun _ _ h => h
  | 13 => fun _ _ h => h
  | 14 => fun _ _ h => h
  | 15 => fun _ _ h => h
  | 16 => fun _ _ h => h
  | 17 => fun _ _ h => h
  | 18 => fun _ _ h => h
  | 19 => fun _ _ h => h
  | 20 => fun _ _ h => h
  | 21 => fun _ _ h => h
  | 22 => fun _ _ h => h
  | 23 => fun _ _ h => h
  | 24 => fun _ _ h => h
  | 25 => fun _ _ h => h
  | 26 => fun _ _ h => h
  | 27 => fun _ _ h => h
  | 28 => fun _ _ h => h
  | 29 => fun _ _ h => h
  | 30 => fun _ _ h => h
  | 31 => fun _ _ h => h
  | 32 => fun _ _ h => h
  | 33 => fun _ _ h => h
  | 34 => fun _ _ h => h
  | 35 => fun _ _ h => h
  | 36 => fun _ _ h => h
  | 37 => fun _ _ h => h
  | 38 => fun _ _ h => h
  | 39 => fun _ _ h => h
  | 40 => fun _ _ h => h
  | 41 => fun _ _ h => h
  | _ + 42 => (bit_above (by decide) hk).elim

theorem frees_watches (Q : _ → Prop) : Frees (fun t => Q t.watches) 0x3FFFFFFFEFF := fun k hk =>
  match k with
  | 0 => fun _ _ h => h
  | 1 => fun _ _ _ h => h
  | 2 => fun _ _ _ h => h
  | 3 => fun _ _ h => h
  | 4 => fun _ _ h => h
  | 5 => fun _ _ h => h
  | 6 => fun _ _ h => h
  | 7 => fun _ _ h => h
  | 8 => absurd hk (by decide)
  | 9 => fun _ _ h => h
  | 10 => fun _ _ h => h
  | 11 => fun _ _ h => h
  | 12 => fun _ _ h => h
  | 13 => fun _ _ h => h
  | 14 => fun _ _ h => h
  | 15 => fun _ _ h => h
  | 16 => fun _ _ h => h
  | 17 => fun _ _ h => h
  | 18 => fun _ _ h => h
  | 19 => fun _ _ h => h
  | 20 => fun _ _ h => h
  | 21 => fun _ _ h => h
  | 22 => fun _ _ h => h
  | 23 => fun _ _ h => h
  | 24 => fun _ _ h => h
  | 25 => fun _ _ h => h
  | 26 => fun _ _ h => h
  | 27 => fun _ _ h => h
  | 28 => fun _ _ h => h
  | 29 => fun _ _ h => h
  | 30 => fun _ _ h => h
  | 31 => fun _ _ h => h
  | 32 => fun _ _ h => h
  | 33 => fun _ _ h => h
  | 34 => fun _ _ h => h
  | 35 => fun _ _ h => h
  | 36 => fun _ _ h => h
  | 37 => fun _ _ h => h
  | 38 => fun _ _ h => h
  | 39 => fun _ _ h => h
  | 40 => fun _ _ h => h
  | 41 => fun _ _ h => h
  | _ + 42 => (bit_above (by decide) hk).elim

theorem frees_marks (Q : _ → Prop) : Frees (fun t => Q t.marks) 0x3FFFFFFFDFF := fun k hk =>
  match k with
  | 0 => fun _ _ h => h
  | 1 => fun _ _ _ h => h
  | 2 => fun _ _ _ h => h
  | 3 => fun _ _ h => h
  | 4 => fun _ _ h => h
  | 5 => fun _ _ h => h
  | 6 => fun _ _ h => h
  | 7 => fun _ _ h => h
  | 8 => fun _ _ h => h
  | 9 => absurd hk (by decide)
  | 10 => fun _ _ h => h
  | 11 => fun _ _ h => h
  | 12 => fun _ _ h => h
  | 13 => fun _ _ h => h
  | 14 => fun _ _ h => h
  | 15 => fun _ _ h => h
  | 16 => fun _ _ h => h
  | 17 => fun _ _ h => h
  | 18 => fun _ _ h => h
  | 19 => fun _ _ h => h
  | 20 => fun _ _ h => h
  | 21 => fun _ _ h => h
  | 22 => fun _ _ h => h
  | 23 => fun _ _ h => h
  | 24 => fun _ _ h => h
  | 25 => fun _ _ h => h
  | 26 => fun _ _ h => h
  | 27 => fun _ _ h => h
  | 28 => fun _ _ h => h
  | 29 => fun _ _ h => h
  | 30 => fun _ _ h => h
  | 31 => fun _ _ h => h
  | 32 => fun _ _ h => h
  | 33 => fun _ _ h => h
  | 34 => fun _ _ h => h
  | 35 => fun _ _ h => h
  | 36 => fun _ _ h => h
  | 37 => fun _ _ h => h
  | 38 => fun _ _ h => h
  | 39 => fun _ _ h => h
  | 40 => fun _ _ h => h
  | 41 => fun _ _ h => h
  | _ + 42 => (bit_above (by decide) hk).elim

theorem frees_recfgs (Q : _ → Prop) : Frees (fun t => Q t.recfgs) 0x3FFFFFFFBFF := fun k hk =>
  match k with
  | 0 => fun _ _ h => h
  | 1 => fun _ _ _ h => h
  | 2 => fun _ _ _ h => h
  | 3 => fun _ _ h => h
  | 4 => fun _ _ h => h
  | 5 => fun _ _ h => h
  | 6 => fun _ _ h => h
  | 7 => fun _ _ h => h
  | 8 => fun _ _ h => h
  | 9 => fun _ _ h => h
  | 10 => absurd hk (by decide)
  | 11 => fun _ _ h => h
  | 12 => fun _ _ h => h
  | 13 => fun _ _ h => h
  | 14 => fun _ _ h => h
  | 15 => fun _ _ h => h
  | 16 => fun _ _ h => h
  | 17 => fun _ _ h => h
  | 18 => fun _ _ h => h
  | 19 => fun _ _ h => h
  | 20 => fun _ _ h => h
  | 21 => fun _ _ h => h
  | 22 => fun _ _ h => h
  | 23 => fun _ _ h => h
  | 24 => fun _ _ h => h
  | 25 => fun _ _ h => h
  | 26 => fun _ _ h => h
  | 27 => fun _ _ h => h
  | 28 => fun _ _ h => h
  | 29 => fun _ _ h => h
  | 30 => fun _ _ h => h
  | 31 => fun _ _ h => h
  | 32 => fun _ _ h => h
  | 33 => fun _ _ h => h
  | 34 => fun _ _ h => h
  | 35 => fun _ _ h => h
  | 36 => fun _ _ h => h
  | 37 => fun _ _ h => h
  | 38 => fun _ _ h => h
  | 39 => fun _ _ h => h
  | 40 => fun _ _ h => h
  | 41 => fun _ _ h => h
  | _ + 42 => (bit_above (by decide) hk).elim

theorem frees_mxe (Q : _ → Prop) : Frees (fun t => Q t.mxe) 0x3FFFFFFF7FF := fun k hk =>
  match k with
  | 0 => fun _ _ h => h
  | 1 => fun _ _ _ h => h
  | 2 => fun _ _ _ h => h
  | 3 => fun _ _ h => h
  | 4 => fun _ _ h => h
  | 5 => fun _ _ h => h
  | 6 => fun _ _ h => h
  | 7 => fun _ _ h => h
  | 8 => fun _ _ h => h
  | 9 => fun _ _ h => h
  | 10 => fun _ _ h => h
  | 11 => absurd hk (by decide)
  | 12 => fun _ _ h => h
  | 13 => fun _ _ h => h
  | 14 => fun _ _ h => h
  | 15 => fun _ _ h => h
  | 16 => fun _ _ h => h
  | 17 => fun _ _ h => h
  | 18 => fun _ _ h => h
  | 19 => fun _ _ h => h
  | 20 => fun _ _ h => h
  | 21 => fun _ _ h => h
  | 22 => fun _ _ h => h
  | 23 => fun _ _ h => h
  | 24 => fun _ _ h => h
  | 25 => fun _ _ h => h
  | 26 => fun _ _ h => h
  | 27 => fun _ _ h => h
  | 28 => fun _ _ h => h
  | 29 => fun _ _ h => h
  | 30 => fun _ _ h => h
  | 31 => fun _ _ h => h
  | 32 => fun _ _ h => h
  | 33 => fun _ _ h => h
  | 34 => fun _ _ h => h
  | 35 => fun _ _ h => h
  | 36 => fun _ _ h => h
  | 37 => fun _ _ h => h
  | 38 => fun _ _ h => h
  | 39 => fun _ _ h => h
  | 40 => fun _ _ h => h
  | 41 => fun _ _ h => h
  | _ + 42 => (bit_above (by decide) hk).elim

theorem frees_eng (Q : _ → Prop) : Frees (fun t => Q t.eng) 0x3FFFFFFEFFF := fun k hk =>
  match k with
  | 0 => fun _ _ h => h
  | 1 => fun _ _ _ h => h
  | 2 => fun _ _ _ h => h
  | 3 => fun _ _ h => h
  | 4 => fun _ _ h => h
  | 5 => fun _ _ h => h
  | 6 => fun _ _ h => h
  | 7 => fun _ _ h => h
  | 8 => fun _ _ h => h
  | 9 => fun _ _ h => h
  | 10 => fun _ _ h => h
  | 11 => fun _ _ h => h
  | 12 => absurd hk (by decide)
  | 13 => fun _ _ h => h
  | 14 => fun _ _ h => h
  | 15 => fun _ _ h => h
  | 16 => fun _ _ h => h
  | 17 => fun _ _ h => h
  | 18 => fun _ _ h => h
  | 19 => fun _ _ h => h
  | 20 => fun _ _ h => h
  | 21 => fun _ _ h => h
  | 22 => fun _ _ h => h
  | 23 => fun _ _ h => h
  | 24 => fun _ _ h => h
  | 25 => fun _ _ h => h
  | 26 => fun _ _ h => h
  | 27 => fun _ _ h => h
  | 28 => fun _ _ h => h
  | 29 => fun _ _ h => h
  | 30 => fun _ _ h => h
  | 31 => fun _ _ h => h
  | 32 => fun _ _ h => h
  | 33 => fun _ _ h => h
  | 34 => fun _ _ h => h
  | 35 => fun _ _ h => h
  | 36 => fun _ _ h => h
  | 37 => fun _ _ h => h
  | 38 => fun _ _ h => h
  | 39 => fun _ _ h => h
  | 40 => fun _ _ h => h
  | 41 => fun _ _ h => h
  | _ + 42 => (bit_above (by decide) hk).elim

theorem frees_accDir (Q : _ → Prop) : Frees (fun t => Q t.accDir) 0x3FFFFFFDFFF := fun k hk =>
  match k with
  | 0 => fun _ _ h => h
  | 1 => fun _ _ _ h => h
  | 2 => fun _ _ _ h => h
  | 3 => fun _ _ h => h
  | 4 => fun _ _ h => h
  | 5 => fun _ _ h => h
  | 6 => fun _ _ h => h
  | 7 => fun _ _ h => h
  | 8 => fun _ _ h => h
  | 9 => fun _ _ h => h
  | 10 => fun _ _ h => h
  | 11 => fun _ _ h => h
  | 12 => fun _ _ h => h
  | 13 => absurd hk (by decide)
  | 14 => fun _ _ h => h
  | 15 => fun _ _ h => h
  | 16 => fun _ _ h => h
  | 17 => fun _ _ h => h
  | 18 => fun _ _ h => h
  | 19 => fun _ _ h => h
  | 20 => fun _ _ h => h
  | 21 => fun _ _ h => h
  | 22 => fun _ _ h => h
  | 23 => fun _ _ h => h
  | 24 => fun _ _ h => h
  | 25 => fun _ _ h => h
  | 26 => fun _ _ h => h
  | 27 => fun _ _ h => h
  | 28 => fun _ _ h => h
  | 29 => fun _ _ h => h
  | 30 => fun _ _ h => h
  | 31 => fun _ _ h => h
  | 32 => fun _ _ h => h
  | 33 => fun _ _ h => h
  | 34 => fun _ _ h => h
  | 35 => fun _ _ h => h
  | 36 => fun _ _ h => h
  | 37 => fun _ _ h => h
  | 38 => fun _ _ h => h
  | 39 => fun _ _ h => h
  | 40 => fun _ _ h => h
  | 41 => fun _ _ h => h
  | _ + 42 => (bit_above (by decide) hk).elim

theorem frees_vregs (Q : _ → Prop) : Frees (fun t => Q t.vregs) 0x3FFFFFFBFFF := fun k hk =>
  match k with
  | 0 => fun _ _ h => h
  | 1 => fun _ _ _ h => h
  | 2 => fun _ _ _ h => h
  | 3 => fun _ _ h => h
  | 4 => fun _ _ h => h
  | 5 => fun _ _ h => h
  | 6 => fun _ _ h => h
  | 7 => fun _ _ h => h
  | 8 => fun _ _ h => h
  | 9 => fun _ _ h => h
  | 10 => fun _ _ h => h
  | 11 => fun _ _ h => h
  | 12 => fun _ _ h => h
  | 13 => fun _ _ h => h
  | 14 => absurd hk (by decide)
  | 15 => fun _ _ h => h
  | 16 => fun _ _ h => h
  | 17 => fun _ _ h => h
  | 18 => fun _ _ h => h
  | 19 => fun _ _ h => h
  | 20 => fun _ _ h => h
  | 21 => fun _ _ h => h
  | 22 => fun _ _ h => h
  | 23 => fun _ _ h => h
  | 24 => fun _ _ h => h
  | 25 => fun _ _ h => h
  | 26 => fun _ _ h => h
  | 27 => fun _ _ h => h
  | 28 => fun _ _ h => h
  | 29 => fun _ _ h => h
  | 30 => fun _ _ h => h
  | 31 => fun _ _ h => h
  | 32 => fun _ _ h => h
  | 33 => fun _ _ h => h
  | 34 => fun _ _ h => h
  | 35 => fun _ _ h => h
  | 36 => fun _ _ h => h
  | 37 => fun _ _ h => h
  | 38 => fun _ _ h => h
  | 39 => fun _ _ h => h
  | 40 => fun _ _ h => h
  | 41 => fun _ _ h => h
  | _ + 42 => (bit_above (by decide) hk).elim

theorem frees_vmask (Q : _ → Prop) : Frees (fun t => Q t.vmask) 0x3FFFFFF7FFF := fun k hk =>
  match k with
  | 0 => fun _ _ h => h
  | 1 => fun _ _ _ h => h
  | 2 => fun _ _ _ h => h
  | 3 => fun _ _ h => h
  | 4 => fun _ _ h => h
  | 5 => fun _ _ h => h
  | 6 => fun _ _ h => h
  | 7 => fun _ _ h => h
  | 8 => fun _ _ h => h
  | 9 => fun _ _ h => h
  | 10 => fun _ _ h => h
  | 11 => fun _ _ h => h
  | 12 => fun _ _ h => h
  | 13 => fun _ _ h => h
  | 14 => fun _ _ h => h
  | 15 => absurd hk (by decide)
  | 16 => fun _ _ h => h
  | 17 => fun _ _ h => h
  | 18 => fun _ _ h => h
  | 19 => fun _ _ h => h
  | 20 => fun _ _ h => h
  | 21 => fun _ _ h => h
  | 22 => fun _ _ h => h
  | 23 => fun _ _ h => h
  | 24 => fun _ _ h => h
  | 25 => fun _ _ h => h
  | 26 => fun _ _ h => h
  | 27 => fun _ _ h => h
  | 28 => fun _ _ h => h
  | 29 => fun _ _ h => h
  | 30 => fun _ _ h => h
  | 31 => fun _ _ h => h
  | 32 => fun _ _ h => h
  | 33 => fun _ _ h => h
  | 34 => fun _ _ h => h
  | 35 => fun _ _ h => h
  | 36 => fun _ _ h => h
  | 37 => fun _ _ h => h
  | 38 => fun _ _ h => h
  | 39 => fun _ _ h => h
  | 40 => fun _ _ h => h
  | 41 => fun _ _ h => h
  | _ + 42 => (bit_above (by decide) hk).elim

theorem frees_vx (Q : _ → Prop) : Frees (fun t => Q t.vx) 0x3FFFFFEFFFF := fun k hk =>
  match k with
  | 0 => fun _ _ h => h
  | 1 => fun _ _ _ h => h
  | 2 => fun _ _ _ h => h
  | 3 => fun _ _ h => h
  | 4 => fun _ _ h => h
  | 5 => fun _ _ h => h
  | 6 => fun _ _ h => h
  | 7 => fun _ _ h => h
  | 8 => fun _ _ h => h
  | 9 => fun _ _ h => h
  | 10 => fun _ _ h => h
  | 11 => fun _ _ h => h
  | 12 => fun _ _ h => h
  | 13 => fun _ _ h => h
  | 14 => fun _ _ h => h
  | 15 => fun _ _ h => h
  | 16 => absurd hk (by decide)
  | 17 => fun _ _ h => h
  | 18 => fun _ _ h => h
  | 19 => fun _ _ h => h
  | 20 => fun _ _ h => h
  | 21 => fun _ _ h => h
  | 22 => fun _ _ h => h
  | 23 => fun _ _ h => h
  | 24 => fun _ _ h => h
  | 25 => fun _ _ h => h
  | 26 => fun _ _ h => h
  | 27 => fun _ _ h => h
  | 28 => fun _ _ h => h
  | 29 => fun _ _ h => h
  | 30 => fun _ _ h => h
  | 31 => fun _ _ h => h
  | 32 => fun _ _ h => h
  | 33 => fun _ _ h => h
  | 34 => fun _ _ h => h
  | 35 => fun _ _ h => h
  | 36 => fun _ _ h => h
  | 37 => fun _ _ h => h
  | 38 => fun _ _ h => h
  | 39 => fun _ _ h => h
  | 40 => fun _ _ h => h
  | 41 => fun _ _ h => h
  | _ + 42 => (bit_above (by decide) hk).elim

theorem frees_recipes (Q : _ → Prop) : Frees (fun t => Q t.recipes) 0x3FFFFFDFFFF := fun k hk =>
  match k with
  | 0 => fun _ _ h => h
  | 1 => fun _ _ _ h => h
  | 2 => fun _ _ _ h => h
  | 3 => fun _ _ h => h
  | 4 => fun _ _ h => h
  | 5 => fun _ _ h => h
  | 6 => fun _ _ h => h
  | 7 => fun _ _ h => h
  | 8 => fun _ _ h => h
  | 9 => fun _ _ h => h
  | 10 => fun _ _ h => h
  | 11 => fun _ _ h => h
  | 12 => fun _ _ h => h
  | 13 => fun _ _ h => h
  | 14 => fun _ _ h => h
  | 15 => fun _ _ h => h
  | 16 => fun _ _ h => h
  | 17 => absurd hk (by decide)
  | 18 => fun _ _ h => h
  | 19 => fun _ _ h => h
  | 20 => fun _ _ h => h
  | 21 => fun _ _ h => h
  | 22 => fun _ _ h => h
  | 23 => fun _ _ h => h
  | 24 => fun _ _ h => h
  | 25 => fun _ _ h => h
  | 26 => fun _ _ h => h
  | 27 => fun _ _ h => h
  | 28 => fun _ _ h => h
  | 29 => fun _ _ h => h
  | 30 => fun _ _ h => h
  | 31 => fun _ _ h => h
  | 32 => fun _ _ h => h
  | 33 => fun _ _ h => h
  | 34 => fun _ _ h => h
  | 35 => fun _ _ h => h
  | 36 => fun _ _ h => h
  | 37 => fun _ _ h => h
  | 38 => fun _ _ h => h
  | 39 => fun _ _ h => h
  | 40 => fun _ _ h => h
  | 41 => fun _ _ h => h
  | _ + 42 => (bit_above (by decide) hk).elim

theorem frees_dec (Q : _ → Prop) : Frees (fun t => Q t.dec) 0x3FFFFFBFFFF := fun k hk =>
  match k with
  | 0 => fun _ _ h => h
  | 1 => fun _ _ _ h => h
  | 2 => fun _ _ _ h => h
  | 3 => fun _ _ h => h
  | 4 => fun _ _ h => h
  | 5 => fun _ _ h => h
  | 6 => fun _ _ h => h
  | 7 => fun _ _ h => h
  | 8 => fun _ _ h => h
  | 9 => fun _ _ h => h
  | 10 => fun _ _ h => h
  | 11 => fun _ _ h => h
  | 12 => fun _ _ h => h
  | 13 => fun _ _ h => h
  | 14 => fun _ _ h => h
  | 15 => fun _ _ h => h
  | 16 => fun _ _ h => h
  | 17 => fun _ _ h => h
  | 18 => absurd hk (by decide)
  | 19 => fun _ _ h => h
  | 20 => fun _ _ h => h
  | 21 => fun _ _ h => h
  | 22 => fun _ _ h => h
  | 23 => fun _ _ h => h
  | 24 => fun _ _ h => h
  | 25 => fun _ _ h => h
  | 26 => fun _ _ h => h
  | 27 => fun _ _ h => h
  | 28 => fun _ _ h => h
  | 29 => fun _ _ h => h
  | 30 => fun _ _ h => h
  | 31 => fun _ _ h => h
  | 32 => fun _ _ h => h
  | 33 => fun _ _ h => h
  | 34 => fun _ _ h => h
  | 35 => fun _ _ h => h
  | 36 => fun _ _ h => h
  | 37 => fun _ _ h => h
  | 38 => fun _ _ h => h
  | 39 => fun _ _ h => h
  | 40 => fun _ _ h => h
  | 41 => fun _ _ h => h
  | _ + 42 => (bit_above (by decide) hk).elim

theorem frees_gse (Q : _ → Prop) : Frees (fun t => Q t.gse) 0x3FFFFF7FFFF := fun k hk =>
  match k with
  | 0 => fun _ _ h => h
  | 1 => fun _ _ _ h => h
  | 2 => fun _ _ _ h => h
  | 3 => fun _ _ h => h
  | 4 => fun _ _ h => h
  | 5 => fun _ _ h => h
  | 6 => fun _ _ h => h
  | 7 => fun _ _ h => h
  | 8 => fun _ _ h => h
  | 9 => fun _ _ h => h
  | 10 => fun _ _ h => h
  | 11 => fun _ _ h => h
  | 12 => fun _ _ h => h
  | 13 => fun _ _ h => h
  | 14 => fun _ _ h => h
  | 15 => fun _ _ h => h
  | 16 => fun _ _ h => h
  | 17 => fun _ _ h => h
  | 18 => fun _ _ h => h
  | 19 => absurd hk (by decide)
  | 20 => fun _ _ h => h
  | 21 => fun _ _ h => h
  | 22 => fun _ _ h => h
  | 23 => fun _ _ h => h
  | 24 => fun _ _ h => h
  | 25 => fun _ _ h => h
  | 26 => fun _ _ h => h
  | 27 => fun _ _ h => h
  | 28 => fun _ _ h => h
  | 29 => fun _ _ h => h
  | 30 => fun _ _ h => h
  | 31 => fun _ _ h => h
  | 32 => fun _ _ h => h
  | 33 => fun _ _ h => h
  | 34 => fun _ _ h => h
  | 35 => fun _ _ h => h
  | 36 => fun _ _ h => h
  | 37 => fun _ _ h => h
  | 38 => fun _ _ h => h
  | 39 => fun _ _ h => h
  | 40 => fun _ _ h => h
  | 41 => fun _ _ h => h
  | _ + 42 => (bit_above (by decide) hk).elim

theorem frees_rxe (Q : _ → Prop) : Frees (fun t => Q t.rxe) 0x3FFFFEFFFFF := fun k hk =>
  match k with
  | 0 => fun _ _ h => h
  | 1 => fun _ _ _ h => h
  | 2 => fun _ _ _ h => h
  | 3 => fun _ _ h => h
  | 4 => fun _ _ h => h
  | 5 => fun _ _ h => h
  | 6 => fun _ _ h => h
  | 7 => fun _ _ h => h
  | 8 => fun _ _ h => h
  | 9 => fun _ _ h => h
  | 10 => fun _ _ h => h
  | 11 => fun _ _ h => h
  | 12 => fun _ _ h => h
  | 13 => fun _ _ h => h
  | 14 => fun _ _ h => h
  | 15 => fun _ _ h => h
  | 16 => fun _ _ h => h
  | 17 => fun _ _ h => h
  | 18 => fun _ _ h => h
  | 19 => fun _ _ h => h
  | 20 => absurd hk (by decide)
  | 21 => fun _ _ h => h
  | 22 => fun _ _ h => h
  | 23 => fun _ _ h => h
  | 24 => fun _ _ h => h
  | 25 => fun _ _ h => h
  | 26 => fun _ _ h => h
  | 27 => fun _ _ h => h
  | 28 => fun _ _ h => h
  | 29 => fun _ _ h => h
  | 30 => fun _ _ h => h
  | 31 => fun _ _ h => h
  | 32 => fun _ _ h => h
  | 33 => fun _ _ h => h
  | 34 => fun _ _ h => h
  | 35 => fun _ _ h => h
  | 36 => fun _ _ h => h
  | 37 => fun _ _ h => h
  | 38 => fun _ _ h => h
  | 39 => fun _ _ h => h
  | 40 => fun _ _ h => h
  | 41 => fun _ _ h => h
  | _ + 42 => (bit_above (by decide) hk).elim

theorem frees_jobs (Q : _ → Prop) : Frees (fun t => Q t.jobs) 0x3FFFFDFFFFF := fun k hk =>
  match k with
  | 0 => fun _ _ h => h
  | 1 => fun _ _ _ h => h
  | 2 => fun _ _ _ h => h
  | 3 => fun _ _ h => h
  | 4 => fun _ _ h => h
  | 5 => fun _ _ h => h
  | 6 => fun _ _ h => h
  | 7 => fun _ _ h => h
  | 8 => fun _ _ h => h
  | 9 => fun _ _ h => h
  | 10 => fun _ _ h => h
  | 11 => fun _ _ h => h
  | 12 => fun _ _ h => h
  | 13 => fun _ _ h => h
  | 14 => fun _ _ h => h
  | 15 => fun _ _ h => h
  | 16 => fun _ _ h => h
  | 17 => fun _ _ h => h
  | 18 => fun _ _ h => h
  | 19 => fun _ _ h => h
  | 20 => fun _ _ h => h
  | 21 => absurd hk (by decide)
  | 22 => fun _ _ h => h
  | 23 => fun _ _ h => h
  | 24 => fun _ _ h => h
  | 25 => fun _ _ h => h
  | 26 => fun _ _ h => h
  | 27 => fun _ _ h => h
  | 28 => fun _ _ h => h
  | 29 => fun _ _ h => h
  | 30 => fun _ _ h => h
  | 31 => fun _ _ h => h
  | 32 => fun _ _ h => h
  | 33 => fun _ _ h => h
  | 34 => fun _ _ h => h
  | 35 => fun _ _ h => h
  | 36 => fun _ _ h => h
  | 37 => fun _ _ h => h
  | 38 => fun _ _ h => h
  | 39 => fun _ _ h => h
  | 40 => fun _ _ h => h
  | 41 => fun _ _ h => h
  | _ + 42 => (bit_above (by decide) hk).elim

theorem frees_saves (Q : _ → Prop) : Frees (fun t => Q t.saves) 0x3FFFFBFFFFF := fun k hk =>
  match k with
  | 0 => fun _ _ h => h
  | 1 => fun _ _ _ h => h
  | 2 => fun _ _ _ h => h
  | 3 => fun _ _ h => h
  | 4 => fun _ _ h => h
  | 5 => fun _ _ h => h
  | 6 => fun _ _ h => h
  | 7 => fun _ _ h => h
  | 8 => fun _ _ h => h
  | 9 => fun _ _ h => h
  | 10 => fun _ _ h => h
  | 11 => fun _ _ h => h
  | 12 => fun _ _ h => h
  | 13 => fun _ _ h => h
  | 14 => fun _ _ h => h
  | 15 => fun _ _ h => h
  | 16 => fun _ _ h => h
  | 17 => fun _ _ h => h
  | 18 => fun _ _ h => h
  | 19 => fun _ _ h => h
  | 20 => fun _ _ h => h
  | 21 => fun _ _ h => h
  | 22 => absurd hk (by decide)
  | 23 => fun _ _ h => h
  | 24 => fun _ _ h => h
  | 25 => fun _ _ h => h
  | 26 => fun _ _ h => h
  | 27 => fun _ _ h => h
  | 28 => fun _ _ h => h
  | 29 => fun _ _ h => h
  | 30 => fun _ _ h => h
  | 31 => fun _ _ h => h
  | 32 => fun _ _ h => h
  | 33 => fun _ _ h => h
  | 34 => fun _ _ h => h
  | 35 => fun _ _ h => h
  | 36 => fun _ _ h => h
  | 37 => fun _ _ h => h
  | 38 => fun _ _ h => h
  | 39 => fun _ _ h => h
  | 40 => fun _ _ h => h
  | 41 => fun _ _ h => h
  | _ + 42 => (bit_above (by decide) hk).elim

theorem frees_ports (Q : _ → Prop) : Frees (fun t => Q t.ports) 0x3FFFF7FFFFF := fun k hk =>
  match k with
  | 0 => fun _ _ h => h
  | 1 => fun _ _ _ h => h
  | 2 => fun _ _ _ h => h
  | 3 => fun _ _ h => h
  | 4 => fun _ _ h => h
  | 5 => fun _ _ h => h
  | 6 => fun _ _ h => h
  | 7 => fun _ _ h => h
  | 8 => fun _ _ h => h
  | 9 => fun _ _ h => h
  | 10 => fun _ _ h => h
  | 11 => fun _ _ h => h
  | 12 => fun _ _ h => h
  | 13 => fun _ _ h => h
  | 14 => fun _ _ h => h
  | 15 => fun _ _ h => h
  | 16 => fun _ _ h => h
  | 17 => fun _ _ h => h
  | 18 => fun _ _ h => h
  | 19 => fun _ _ h => h
  | 20 => fun _ _ h => h
  | 21 => fun _ _ h => h
  | 22 => fun _ _ h => h
  | 23 => absurd hk (by decide)
  | 24 => fun _ _ h => h
  | 25 => fun _ _ h => h
  | 26 => fun _ _ h => h
  | 27 => fun _ _ h => h
  | 28 => fun _ _ h => h
  | 29 => fun _ _ h => h
  | 30 => fun _ _ h => h
  | 31 => fun _ _ h => h
  | 32 => fun _ _ h => h
  | 33 => fun _ _ h => h
  | 34 => fun _ _ h => h
  | 35 => fun _ _ h => h
  | 36 => fun _ _ h => h
  | 37 => fun _ _ h => h
  | 38 => fun _ _ h => h
  | 39 => fun _ _ h => h
  | 40 => fun _ _ h => h
  | 41 => fun _ _ h => h
  | _ + 42 => (bit_above (by decide) hk).elim

theorem frees_torus (Q : _ → Prop) : Frees (fun t => Q t.torus) 0x3FFFEFFFFFF := fun k hk =>
  match k with
  | 0 => fun _ _ h => h
  | 1 => fun _ _ _ h => h
  | 2 => fun _ _ _ h => h
  | 3 => fun _ _ h => h
  | 4 => fun _ _ h => h
  | 5 => fun _ _ h => h
  | 6 => fun _ _ h => h
  | 7 => fun _ _ h => h
  | 8 => fun _ _ h => h
  | 9 => fun _ _ h => h
  | 10 => fun _ _ h => h
  | 11 => fun _ _ h => h
  | 12 => fun _ _ h => h
  | 13 => fun _ _ h => h
  | 14 => fun _ _ h => h
  | 15 => fun _ _ h => h
  | 16 => fun _ _ h => h
  | 17 => fun _ _ h => h
  | 18 => fun _ _ h => h
  | 19 => fun _ _ h => h
  | 20 => fun _ _ h => h
  | 21 => fun _ _ h => h
  | 22 => fun _ _ h => h
  | 23 => fun _ _ h => h
  | 24 => absurd hk (by decide)
  | 25 => fun _ _ h => h
  | 26 => fun _ _ h => h
  | 27 => fun _ _ h => h
  | 28 => fun _ _ h => h
  | 29 => fun _ _ h => h
  | 30 => fun _ _ h => h
  | 31 => fun _ _ h => h
  | 32 => fun _ _ h => h
  | 33 => fun _ _ h => h
  | 34 => fun _ _ h => h
  | 35 => fun _ _ h => h
  | 36 => fun _ _ h => h
  | 37 => fun _ _ h => h
  | 38 => fun _ _ h => h
  | 39 => fun _ _ h => h
  | 40 => fun _ _ h => h
  | 41 => fun _ _ h => h
  | _ + 42 => (bit_above (by decide) hk).elim

theorem frees_devs (Q : _ → Prop) : Frees (fun t => Q t.devs) 0x3FFFDFFFFFF := fun k hk =>
  match k with
  | 0 => fun _ _ h => h
  | 1 => fun _ _ _ h => h
  | 2 => fun _ _ _ h => h
  | 3 => fun _ _ h => h
  | 4 => fun _ _ h => h
  | 5 => fun _ _ h => h
  | 6 => fun _ _ h => h
  | 7 => fun _ _ h => h
  | 8 => fun _ _ h => h
  | 9 => fun _ _ h => h
  | 10 => fun _ _ h => h
  | 11 => fun _ _ h => h
  | 12 => fun _ _ h => h
  | 13 => fun _ _ h => h
  | 14 => fun _ _ h => h
  | 15 => fun _ _ h => h
  | 16 => fun _ _ h => h
  | 17 => fun _ _ h => h
  | 18 => fun _ _ h => h
  | 19 => fun _ _ h => h
  | 20 => fun _ _ h => h
  | 21 => fun _ _ h => h
  | 22 => fun _ _ h => h
  | 23 => fun _ _ h => h
  | 24 => fun _ _ h => h
  | 25 => absurd hk (by decide)
  | 26 => fun _ _ h => h
  | 27 => fun _ _ h => h
  | 28 => fun _ _ h => h
  | 29 => fun _ _ h => h
  | 30 => fun _ _ h => h
  | 31 => fun _ _ h => h
  | 32 => fun _ _ h => h
  | 33 => fun _ _ h => h
  | 34 => fun _ _ h => h
  | 35 => fun _ _ h => h
  | 36 => fun _ _ h => h
  | 37 => fun _ _ h => h
  | 38 => fun _ _ h => h
  | 39 => fun _ _ h => h
  | 40 => fun _ _ h => h
  | 41 => fun _ _ h => h
  | _ + 42 => (bit_above (by decide) hk).elim

theorem frees_poison (Q : _ → Prop) : Frees (fun t => Q t.poison) 0x3FFFBFFFFFF := fun k hk =>
  match k with
  | 0 => fun _ _ h => h
  | 1 => fun _ _ _ h => h
  | 2 => fun _ _ _ h => h
  | 3 => fun _ _ h => h
  | 4 => fun _ _ h => h
  | 5 => fun _ _ h => h
  | 6 => fun _ _ h => h
  | 7 => fun _ _ h => h
  | 8 => fun _ _ h => h
  | 9 => fun _ _ h => h
  | 10 => fun _ _ h => h
  | 11 => fun _ _ h => h
  | 12 => fun _ _ h => h
  | 13 => fun _ _ h => h
  | 14 => fun _ _ h => h
  | 15 => fun _ _ h => h
  | 16 => fun _ _ h => h
  | 17 => fun _ _ h => h
  | 18 => fun _ _ h => h
  | 19 => fun _ _ h => h
  | 20 => fun _ _ h => h
  | 21 => fun _ _ h => h
  | 22 => fun _ _ h => h
  | 23 => fun _ _ h => h
  | 24 => fun _ _ h => h
  | 25 => fun _ _ h => h
  | 26 => absurd hk (by decide)
  | 27 => fun _ _ h => h
  | 28 => fun _ _ h => h
  | 29 => fun _ _ h => h
  | 30 => fun _ _ h => h
  | 31 => fun _ _ h => h
  | 32 => fun _ _ h => h
  | 33 => fun _ _ h => h
  | 34 => fun _ _ h => h
  | 35 => fun _ _ h => h
  | 36 => fun _ _ h => h
  | 37 => fun _ _ h => h
  | 38 => fun _ _ h => h
  | 39 => fun _ _ h => h
  | 40 => fun _ _ h => h
  | 41 => fun _ _ h => h
  | _ + 42 => (bit_above (by decide) hk).elim

theorem frees_cxl (Q : _ → Prop) : Frees (fun t => Q t.cxl) 0x3FFF7FFFFFF := fun k hk =>
  match k with
  | 0 => fun _ _ h => h
  | 1 => fun _ _ _ h => h
  | 2 => fun _ _ _ h => h
  | 3 => fun _ _ h => h
  | 4 => fun _ _ h => h
  | 5 => fun _ _ h => h
  | 6 => fun _ _ h => h
  | 7 => fun _ _ h => h
  | 8 => fun _ _ h => h
  | 9 => fun _ _ h => h
  | 10 => fun _ _ h => h
  | 11 => fun _ _ h => h
  | 12 => fun _ _ h => h
  | 13 => fun _ _ h => h
  | 14 => fun _ _ h => h
  | 15 => fun _ _ h => h
  | 16 => fun _ _ h => h
  | 17 => fun _ _ h => h
  | 18 => fun _ _ h => h
  | 19 => fun _ _ h => h
  | 20 => fun _ _ h => h
  | 21 => fun _ _ h => h
  | 22 => fun _ _ h => h
  | 23 => fun _ _ h => h
  | 24 => fun _ _ h => h
  | 25 => fun _ _ h => h
  | 26 => fun _ _ h => h
  | 27 => absurd hk (by decide)
  | 28 => fun _ _ h => h
  | 29 => fun _ _ h => h
  | 30 => fun _ _ h => h
  | 31 => fun _ _ h => h
  | 32 => fun _ _ h => h
  | 33 => fun _ _ h => h
  | 34 => fun _ _ h => h
  | 35 => fun _ _ h => h
  | 36 => fun _ _ h => h
  | 37 => fun _ _ h => h
  | 38 => fun _ _ h => h
  | 39 => fun _ _ h => h
  | 40 => fun _ _ h => h
  | 41 => fun _ _ h => h
  | _ + 42 => (bit_above (by decide) hk).elim

theorem frees_tlb (Q : _ → Prop) : Frees (fun t => Q t.tlb) 0x3FFEFFFFFFF := fun k hk =>
  match k with
  | 0 => fun _ _ h => h
  | 1 => fun _ _ _ h => h
  | 2 => fun _ _ _ h => h
  | 3 => fun _ _ h => h
  | 4 => fun _ _ h => h
  | 5 => fun _ _ h => h
  | 6 => fun _ _ h => h
  | 7 => fun _ _ h => h
  | 8 => fun _ _ h => h
  | 9 => fun _ _ h => h
  | 10 => fun _ _ h => h
  | 11 => fun _ _ h => h
  | 12 => fun _ _ h => h
  | 13 => fun _ _ h => h
  | 14 => fun _ _ h => h
  | 15 => fun _ _ h => h
  | 16 => fun _ _ h => h
  | 17 => fun _ _ h => h
  | 18 => fun _ _ h => h
  | 19 => fun _ _ h => h
  | 20 => fun _ _ h => h
  | 21 => fun _ _ h => h
  | 22 => fun _ _ h => h
  | 23 => fun _ _ h => h
  | 24 => fun _ _ h => h
  | 25 => fun _ _ h => h
  | 26 => fun _ _ h => h
  | 27 => fun _ _ h => h
  | 28 => absurd hk (by decide)
  | 29 => fun _ _ h => h
  | 30 => fun _ _ h => h
  | 31 => fun _ _ h => h
  | 32 => fun _ _ h => h
  | 33 => fun _ _ h => h
  | 34 => fun _ _ h => h
  | 35 => fun _ _ h => h
  | 36 => fun _ _ h => h
  | 37 => fun _ _ h => h
  | 38 => fun _ _ h => h
  | 39 => fun _ _ h => h
  | 40 => fun _ _ h => h
  | 41 => fun _ _ h => h
  | _ + 42 => (bit_above (by decide) hk).elim

theorem frees_locked (Q : _ → Prop) : Frees (fun t => Q t.locked) 0x3FFDFFFFFFF := fun k hk =>
  match k with
  | 0 => fun _ _ h => h
  | 1 => fun _ _ _ h => h
  | 2 => fun _ _ _ h => h
  | 3 => fun _ _ h => h
  | 4 => fun _ _ h => h
  | 5 => fun _ _ h => h
  | 6 => fun _ _ h => h
  | 7 => fun _ _ h => h
  | 8 => fun _ _ h => h
  | 9 => fun _ _ h => h
  | 10 => fun _ _ h => h
  | 11 => fun _ _ h => h
  | 12 => fun _ _ h => h
  | 13 => fun _ _ h => h
  | 14 => fun _ _ h => h
  | 15 => fun _ _ h => h
  | 16 => fun _ _ h => h
  | 17 => fun _ _ h => h
  | 18 => fun _ _ h => h
  | 19 => fun _ _ h => h
  | 20 => fun _ _ h => h
  | 21 => fun _ _ h => h
  | 22 => fun _ _ h => h
  | 23 => fun _ _ h => h
  | 24 => fun _ _ h => h
  | 25 => fun _ _ h => h
  | 26 => fun _ _ h => h
  | 27 => fun _ _ h => h
  | 28 => fun _ _ h => h
  | 29 => absurd hk (by decide)
  | 30 => fun _ _ h => h
  | 31 => fun _ _ h => h
  | 32 => fun _ _ h => h
  | 33 => fun _ _ h => h
  | 34 => fun _ _ h => h
  | 35 => fun _ _ h => h
  | 36 => fun _ _ h => h
  | 37 => fun _ _ h => h
  | 38 => fun _ _ h => h
  | 39 => fun _ _ h => h
  | 40 => fun _ _ h => h
  | 41 => fun _ _ h => h
  | _ + 42 => (bit_above (by decide) hk).elim

theorem frees_ats (Q : _ → Prop) : Frees (fun t => Q t.ats) 0x3FFBFFFFFFF := fun k hk =>
  match k with
  | 0 => fun _ _ h => h
  | 1 => fun _ _ _ h => h
  | 2 => fun _ _ _ h => h
  | 3 => fun _ _ h => h
  | 4 => fun _ _ h => h
  | 5 => fun _ _ h => h
  | 6 => fun _ _ h => h
  | 7 => fun _ _ h => h
  | 8 => fun _ _ h => h
  | 9 => fun _ _ h => h
  | 10 => fun _ _ h => h
  | 11 => fun _ _ h => h
  | 12 => fun _ _ h => h
  | 13 => fun _ _ h => h
  | 14 => fun _ _ h => h
  | 15 => fun _ _ h => h
  | 16 => fun _ _ h => h
  | 17 => fun _ _ h => h
  | 18 => fun _ _ h => h
  | 19 => fun _ _ h => h
  | 20 => fun _ _ h => h
  | 21 => fun _ _ h => h
  | 22 => fun _ _ h => h
  | 23 => fun _ _ h => h
  | 24 => fun _ _ h => h
  | 25 => fun _ _ h => h
  | 26 => fun _ _ h => h
  | 27 => fun _ _ h => h
  | 28 => fun _ _ h => h
  | 29 => fun _ _ h => h
  | 30 => absurd hk (by decide)
  | 31 => fun _ _ h => h
  | 32 => fun _ _ h => h
  | 33 => fun _ _ h => h
  | 34 => fun _ _ h => h
  | 35 => fun _ _ h => h
  | 36 => fun _ _ h => h
  | 37 => fun _ _ h => h
  | 38 => fun _ _ h => h
  | 39 => fun _ _ h => h
  | 40 => fun _ _ h => h
  | 41 => fun _ _ h => h
  | _ + 42 => (bit_above (by decide) hk).elim

theorem frees_faults (Q : _ → Prop) : Frees (fun t => Q t.faults) 0x3FF7FFFFFFF := fun k hk =>
  match k with
  | 0 => fun _ _ h => h
  | 1 => fun _ _ _ h => h
  | 2 => fun _ _ _ h => h
  | 3 => fun _ _ h => h
  | 4 => fun _ _ h => h
  | 5 => fun _ _ h => h
  | 6 => fun _ _ h => h
  | 7 => fun _ _ h => h
  | 8 => fun _ _ h => h
  | 9 => fun _ _ h => h
  | 10 => fun _ _ h => h
  | 11 => fun _ _ h => h
  | 12 => fun _ _ h => h
  | 13 => fun _ _ h => h
  | 14 => fun _ _ h => h
  | 15 => fun _ _ h => h
  | 16 => fun _ _ h => h
  | 17 => fun _ _ h => h
  | 18 => fun _ _ h => h
  | 19 => fun _ _ h => h
  | 20 => fun _ _ h => h
  | 21 => fun _ _ h => h
  | 22 => fun _ _ h => h
  | 23 => fun _ _ h => h
  | 24 => fun _ _ h => h
  | 25 => fun _ _ h => h
  | 26 => fun _ _ h => h
  | 27 => fun _ _ h => h
  | 28 => fun _ _ h => h
  | 29 => fun _ _ h => h
  | 30 => fun _ _ h => h
  | 31 => absurd hk (by decide)
  | 32 => fun _ _ h => h
  | 33 => fun _ _ h => h
  | 34 => fun _ _ h => h
  | 35 => fun _ _ h => h
  | 36 => fun _ _ h => h
  | 37 => fun _ _ h => h
  | 38 => fun _ _ h => h
  | 39 => fun _ _ h => h
  | 40 => fun _ _ h => h
  | 41 => fun _ _ h => h
  | _ + 42 => (bit_above (by decide) hk).elim

theorem frees_ctxs (Q : _ → Prop) : Frees (fun t => Q t.ctxs) 0x3FEFFFFFFFF := fun k hk =>
  match k with
  | 0 => fun _ _ h => h
  | 1 => fun _ _ _ h => h
  | 2 => fun _ _ _ h => h
  | 3 => fun _ _ h => h
  | 4 => fun _ _ h => h
  | 5 => fun _ _ h => h
  | 6 => fun _ _ h => h
  | 7 => fun _ _ h => h
  | 8 => fun _ _ h => h
  | 9 => fun _ _ h => h
  | 10 => fun _ _ h => h
  | 11 => fun _ _ h => h
  | 12 => fun _ _ h => h
  | 13 => fun _ _ h => h
  | 14 => fun _ _ h => h
  | 15 => fun _ _ h => h
  | 16 => fun _ _ h => h
  | 17 => fun _ _ h => h
  | 18 => fun _ _ h => h
  | 19 => fun _ _ h => h
  | 20 => fun _ _ h => h
  | 21 => fun _ _ h => h
  | 22 => fun _ _ h => h
  | 23 => fun _ _ h => h
  | 24 => fun _ _ h => h
  | 25 => fun _ _ h => h
  | 26 => fun _ _ h => h
  | 27 => fun _ _ h => h
  | 28 => fun _ _ h => h
  | 29 => fun _ _ h => h
  | 30 => fun _ _ h => h
  | 31 => fun _ _ h => h
  | 32 => absurd hk (by decide)
  | 33 => fun _ _ h => h
  | 34 => fun _ _ h => h
  | 35 => fun _ _ h => h
  | 36 => fun _ _ h => h
  | 37 => fun _ _ h => h
  | 38 => fun _ _ h => h
  | 39 => fun _ _ h => h
  | 40 => fun _ _ h => h
  | 41 => fun _ _ h => h
  | _ + 42 => (bit_above (by decide) hk).elim

theorem frees_hp (Q : _ → Prop) : Frees (fun t => Q t.hp) 0x3FDFFFFFFFF := fun k hk =>
  match k with
  | 0 => fun _ _ h => h
  | 1 => fun _ _ _ h => h
  | 2 => fun _ _ _ h => h
  | 3 => fun _ _ h => h
  | 4 => fun _ _ h => h
  | 5 => fun _ _ h => h
  | 6 => fun _ _ h => h
  | 7 => fun _ _ h => h
  | 8 => fun _ _ h => h
  | 9 => fun _ _ h => h
  | 10 => fun _ _ h => h
  | 11 => fun _ _ h => h
  | 12 => fun _ _ h => h
  | 13 => fun _ _ h => h
  | 14 => fun _ _ h => h
  | 15 => fun _ _ h => h
  | 16 => fun _ _ h => h
  | 17 => fun _ _ h => h
  | 18 => fun _ _ h => h
  | 19 => fun _ _ h => h
  | 20 => fun _ _ h => h
  | 21 => fun _ _ h => h
  | 22 => fun _ _ h => h
  | 23 => fun _ _ h => h
  | 24 => fun _ _ h => h
  | 25 => fun _ _ h => h
  | 26 => fun _ _ h => h
  | 27 => fun _ _ h => h
  | 28 => fun _ _ h => h
  | 29 => fun _ _ h => h
  | 30 => fun _ _ h => h
  | 31 => fun _ _ h => h
  | 32 => fun _ _ h => h
  | 33 => absurd hk (by decide)
  | 34 => fun _ _ h => h
  | 35 => fun _ _ h => h
  | 36 => fun _ _ h => h
  | 37 => fun _ _ h => h
  | 38 => fun _ _ h => h
  | 39 => fun _ _ h => h
  | 40 => fun _ _ h => h
  | 41 => fun _ _ h => h
  | _ + 42 => (bit_above (by decide) hk).elim

theorem frees_obs (Q : _ → Prop) : Frees (fun t => Q t.obs) 0x3FBFFFFFFFF := fun k hk =>
  match k with
  | 0 => fun _ _ h => h
  | 1 => fun _ _ _ h => h
  | 2 => fun _ _ _ h => h
  | 3 => fun _ _ h => h
  | 4 => fun _ _ h => h
  | 5 => fun _ _ h => h
  | 6 => fun _ _ h => h
  | 7 => fun _ _ h => h
  | 8 => fun _ _ h => h
  | 9 => fun _ _ h => h
  | 10 => fun _ _ h => h
  | 11 => fun _ _ h => h
  | 12 => fun _ _ h => h
  | 13 => fun _ _ h => h
  | 14 => fun _ _ h => h
  | 15 => fun _ _ h => h
  | 16 => fun _ _ h => h
  | 17 => fun _ _ h => h
  | 18 => fun _ _ h => h
  | 19 => fun _ _ h => h
  | 20 => fun _ _ h => h
  | 21 => fun _ _ h => h
  | 22 => fun _ _ h => h
  | 23 => fun _ _ h => h
  | 24 => fun _ _ h => h
  | 25 => fun _ _ h => h
  | 26 => fun _ _ h => h
  | 27 => fun _ _ h => h
  | 28 => fun _ _ h => h
  | 29 => fun _ _ h => h
  | 30 => fun _ _ h => h
  | 31 => fun _ _ h => h
  | 32 => fun _ _ h => h
  | 33 => fun _ _ h => h
  | 34 => absurd hk (by decide)
  | 35 => fun _ _ h => h
  | 36 => fun _ _ h => h
  | 37 => fun _ _ h => h
  | 38 => fun _ _ h => h
  | 39 => fun _ _ h => h
  | 40 => fun _ _ h => h
  | 41 => fun _ _ h => h
  | _ + 42 => (bit_above (by decide) hk).elim

theorem frees_fabric (Q : _ → Prop) : Frees (fun t => Q t.fabric) 0x3F7FFFFFFFF := fun k hk =>
  match k with
  | 0 => fun _ _ h => h
  | 1 => fun _ _ _ h => h
  | 2 => fun _ _ _ h => h
  | 3 => fun _ _ h => h
  | 4 => fun _ _ h => h
  | 5 => fun _ _ h => h
  | 6 => fun _ _ h => h
  | 7 => fun _ _ h => h
  | 8 => fun _ _ h => h
  | 9 => fun _ _ h => h
  | 10 => fun _ _ h => h
  | 11 => fun _ _ h => h
  | 12 => fun _ _ h => h
  | 13 => fun _ _ h => h
  | 14 => fun _ _ h => h
  | 15 => fun _ _ h => h
  | 16 => fun _ _ h => h
  | 17 => fun _ _ h => h
  | 18 => fun _ _ h => h
  | 19 => fun _ _ h => h
  | 20 => fun _ _ h => h
  | 21 => fun _ _ h => h
  | 22 => fun _ _ h => h
  | 23 => fun _ _ h => h
  | 24 => fun _ _ h => h
  | 25 => fun _ _ h => h
  | 26 => fun _ _ h => h
  | 27 => fun _ _ h => h
  | 28 => fun _ _ h => h
  | 29 => fun _ _ h => h
  | 30 => fun _ _ h => h
  | 31 => fun _ _ h => h
  | 32 => fun _ _ h => h
  | 33 => fun _ _ h => h
  | 34 => fun _ _ h => h
  | 35 => absurd hk (by decide)
  | 36 => fun _ _ h => h
  | 37 => fun _ _ h => h
  | 38 => fun _ _ h => h
  | 39 => fun _ _ h => h
  | 40 => fun _ _ h => h
  | 41 => fun _ _ h => h
  | _ + 42 => (bit_above (by decide) hk).elim

theorem frees_pwr (Q : _ → Prop) : Frees (fun t => Q t.pwr) 0x3EFFFFFFFFF := fun k hk =>
  match k with
  | 0 => fun _ _ h => h
  | 1 => fun _ _ _ h => h
  | 2 => fun _ _ _ h => h
  | 3 => fun _ _ h => h
  | 4 => fun _ _ h => h
  | 5 => fun _ _ h => h
  | 6 => fun _ _ h => h
  | 7 => fun _ _ h => h
  | 8 => fun _ _ h => h
  | 9 => fun _ _ h => h
  | 10 => fun _ _ h => h
  | 11 => fun _ _ h => h
  | 12 => fun _ _ h => h
  | 13 => fun _ _ h => h
  | 14 => fun _ _ h => h
  | 15 => fun _ _ h => h
  | 16 => fun _ _ h => h
  | 17 => fun _ _ h => h
  | 18 => fun _ _ h => h
  | 19 => fun _ _ h => h
  | 20 => fun _ _ h => h
  | 21 => fun _ _ h => h
  | 22 => fun _ _ h => h
  | 23 => fun _ _ h => h
  | 24 => fun _ _ h => h
  | 25 => fun _ _ h => h
  | 26 => fun _ _ h => h
  | 27 => fun _ _ h => h
  | 28 => fun _ _ h => h
  | 29 => fun _ _ h => h
  | 30 => fun _ _ h => h
  | 31 => fun _ _ h => h
  | 32 => fun _ _ h => h
  | 33 => fun _ _ h => h
  | 34 => fun _ _ h => h
  | 35 => fun _ _ h => h
  | 36 => absurd hk (by decide)
  | 37 => fun _ _ h => h
  | 38 => fun _ _ h => h
  | 39 => fun _ _ h => h
  | 40 => fun _ _ h => h
  | 41 => fun _ _ h => h
  | _ + 42 => (bit_above (by decide) hk).elim

theorem frees_dies (Q : _ → Prop) : Frees (fun t => Q t.dies) 0x3DFFFFFFFFF := fun k hk =>
  match k with
  | 0 => fun _ _ h => h
  | 1 => fun _ _ _ h => h
  | 2 => fun _ _ _ h => h
  | 3 => fun _ _ h => h
  | 4 => fun _ _ h => h
  | 5 => fun _ _ h => h
  | 6 => fun _ _ h => h
  | 7 => fun _ _ h => h
  | 8 => fun _ _ h => h
  | 9 => fun _ _ h => h
  | 10 => fun _ _ h => h
  | 11 => fun _ _ h => h
  | 12 => fun _ _ h => h
  | 13 => fun _ _ h => h
  | 14 => fun _ _ h => h
  | 15 => fun _ _ h => h
  | 16 => fun _ _ h => h
  | 17 => fun _ _ h => h
  | 18 => fun _ _ h => h
  | 19 => fun _ _ h => h
  | 20 => fun _ _ h => h
  | 21 => fun _ _ h => h
  | 22 => fun _ _ h => h
  | 23 => fun _ _ h => h
  | 24 => fun _ _ h => h
  | 25 => fun _ _ h => h
  | 26 => fun _ _ h => h
  | 27 => fun _ _ h => h
  | 28 => fun _ _ h => h
  | 29 => fun _ _ h => h
  | 30 => fun _ _ h => h
  | 31 => fun _ _ h => h
  | 32 => fun _ _ h => h
  | 33 => fun _ _ h => h
  | 34 => fun _ _ h => h
  | 35 => fun _ _ h => h
  | 36 => fun _ _ h => h
  | 37 => absurd hk (by decide)
  | 38 => fun _ _ h => h
  | 39 => fun _ _ h => h
  | 40 => fun _ _ h => h
  | 41 => fun _ _ h => h
  | _ + 42 => (bit_above (by decide) hk).elim

theorem frees_sec (Q : _ → Prop) : Frees (fun t => Q t.sec) 0x3BFFFFFFFFF := fun k hk =>
  match k with
  | 0 => fun _ _ h => h
  | 1 => fun _ _ _ h => h
  | 2 => fun _ _ _ h => h
  | 3 => fun _ _ h => h
  | 4 => fun _ _ h => h
  | 5 => fun _ _ h => h
  | 6 => fun _ _ h => h
  | 7 => fun _ _ h => h
  | 8 => fun _ _ h => h
  | 9 => fun _ _ h => h
  | 10 => fun _ _ h => h
  | 11 => fun _ _ h => h
  | 12 => fun _ _ h => h
  | 13 => fun _ _ h => h
  | 14 => fun _ _ h => h
  | 15 => fun _ _ h => h
  | 16 => fun _ _ h => h
  | 17 => fun _ _ h => h
  | 18 => fun _ _ h => h
  | 19 => fun _ _ h => h
  | 20 => fun _ _ h => h
  | 21 => fun _ _ h => h
  | 22 => fun _ _ h => h
  | 23 => fun _ _ h => h
  | 24 => fun _ _ h => h
  | 25 => fun _ _ h => h
  | 26 => fun _ _ h => h
  | 27 => fun _ _ h => h
  | 28 => fun _ _ h => h
  | 29 => fun _ _ h => h
  | 30 => fun _ _ h => h
  | 31 => fun _ _ h => h
  | 32 => fun _ _ h => h
  | 33 => fun _ _ h => h
  | 34 => fun _ _ h => h
  | 35 => fun _ _ h => h
  | 36 => fun _ _ h => h
  | 37 => fun _ _ h => h
  | 38 => absurd hk (by decide)
  | 39 => fun _ _ h => h
  | 40 => fun _ _ h => h
  | 41 => fun _ _ h => h
  | _ + 42 => (bit_above (by decide) hk).elim

theorem frees_pins (Q : _ → Prop) : Frees (fun t => Q t.pins) 0x37FFFFFFFFF := fun k hk =>
  match k with
  | 0 => fun _ _ h => h
  | 1 => fun _ _ _ h => h
  | 2 => fun _ _ _ h => h
  | 3 => fun _ _ h => h
  | 4 => fun _ _ h => h
  | 5 => fun _ _ h => h
  | 6 => fun _ _ h => h
  | 7 => fun _ _ h => h
  | 8 => fun _ _ h => h
  | 9 => fun _ _ h => h
  | 10 => fun _ _ h => h
  | 11 => fun _ _ h => h
  | 12 => fun _ _ h => h
  | 13 => fun _ _ h => h
  | 14 => fun _ _ h => h
  | 15 => fun _ _ h => h
  | 16 => fun _ _ h => h
  | 17 => fun _ _ h => h
  | 18 => fun _ _ h => h
  | 19 => fun _ _ h => h
  | 20 => fun _ _ h => h
  | 21 => fun _ _ h => h
  | 22 => fun _ _ h => h
  | 23 => fun _ _ h => h
  | 24 => fun _ _ h => h
  | 25 => fun _ _ h => h
  | 26 => fun _ _ h => h
  | 27 => fun _ _ h => h
  | 28 => fun _ _ h => h
  | 29 => fun _ _ h => h
  | 30 => fun _ _ h => h
  | 31 => fun _ _ h => h
  | 32 => fun _ _ h => h
  | 33 => fun _ _ h => h
  | 34 => fun _ _ h => h
  | 35 => fun _ _ h => h
  | 36 => fun _ _ h => h
  | 37 => fun _ _ h => h
  | 38 => fun _ _ h => h
  | 39 => absurd hk (by decide)
  | 40 => fun _ _ h => h
  | 41 => fun _ _ h => h
  | _ + 42 => (bit_above (by decide) hk).elim

theorem frees_answer (Q : _ → Prop) : Frees (fun t => Q t.answer) 0x2FFFFFFFFFF := fun k hk =>
  match k with
  | 0 => fun _ _ h => h
  | 1 => fun _ _ _ h => h
  | 2 => fun _ _ _ h => h
  | 3 => fun _ _ h => h
  | 4 => fun _ _ h => h
  | 5 => fun _ _ h => h
  | 6 => fun _ _ h => h
  | 7 => fun _ _ h => h
  | 8 => fun _ _ h => h
  | 9 => fun _ _ h => h
  | 10 => fun _ _ h => h
  | 11 => fun _ _ h => h
  | 12 => fun _ _ h => h
  | 13 => fun _ _ h => h
  | 14 => fun _ _ h => h
  | 15 => fun _ _ h => h
  | 16 => fun _ _ h => h
  | 17 => fun _ _ h => h
  | 18 => fun _ _ h => h
  | 19 => fun _ _ h => h
  | 20 => fun _ _ h => h
  | 21 => fun _ _ h => h
  | 22 => fun _ _ h => h
  | 23 => fun _ _ h => h
  | 24 => fun _ _ h => h
  | 25 => fun _ _ h => h
  | 26 => fun _ _ h => h
  | 27 => fun _ _ h => h
  | 28 => fun _ _ h => h
  | 29 => fun _ _ h => h
  | 30 => fun _ _ h => h
  | 31 => fun _ _ h => h
  | 32 => fun _ _ h => h
  | 33 => fun _ _ h => h
  | 34 => fun _ _ h => h
  | 35 => fun _ _ h => h
  | 36 => fun _ _ h => h
  | 37 => fun _ _ h => h
  | 38 => fun _ _ h => h
  | 39 => fun _ _ h => h
  | 40 => absurd hk (by decide)
  | 41 => fun _ _ h => h
  | _ + 42 => (bit_above (by decide) hk).elim

theorem frees_fresh (Q : _ → Prop) : Frees (fun t => Q t.fresh) 0x1FFFFFFFFFF := fun k hk =>
  match k with
  | 0 => fun _ _ h => h
  | 1 => fun _ _ _ h => h
  | 2 => fun _ _ _ h => h
  | 3 => fun _ _ h => h
  | 4 => fun _ _ h => h
  | 5 => fun _ _ h => h
  | 6 => fun _ _ h => h
  | 7 => fun _ _ h => h
  | 8 => fun _ _ h => h
  | 9 => fun _ _ h => h
  | 10 => fun _ _ h => h
  | 11 => fun _ _ h => h
  | 12 => fun _ _ h => h
  | 13 => fun _ _ h => h
  | 14 => fun _ _ h => h
  | 15 => fun _ _ h => h
  | 16 => fun _ _ h => h
  | 17 => fun _ _ h => h
  | 18 => fun _ _ h => h
  | 19 => fun _ _ h => h
  | 20 => fun _ _ h => h
  | 21 => fun _ _ h => h
  | 22 => fun _ _ h => h
  | 23 => fun _ _ h => h
  | 24 => fun _ _ h => h
  | 25 => fun _ _ h => h
  | 26 => fun _ _ h => h
  | 27 => fun _ _ h => h
  | 28 => fun _ _ h => h
  | 29 => fun _ _ h => h
  | 30 => fun _ _ h => h
  | 31 => fun _ _ h => h
  | 32 => fun _ _ h => h
  | 33 => fun _ _ h => h
  | 34 => fun _ _ h => h
  | 35 => fun _ _ h => h
  | 36 => fun _ _ h => h
  | 37 => fun _ _ h => h
  | 38 => fun _ _ h => h
  | 39 => fun _ _ h => h
  | 40 => fun _ _ h => h
  | 41 => absurd hk (by decide)
  | _ + 42 => (bit_above (by decide) hk).elim

end Sys2Proof.Machine
end

