-- ==== Sys2Proof/Laws/State.lean ====
section
/-! SUPPORT. State's updates, field by field: what each writer of Machine/Ops.lean and Fabric.lean leaves in every part, and what its reader then reads. -/

namespace Sys2Proof.Machine

variable (s : State) (a b : Nat)

/-- A table whose default depends on the number: a write leaves every other number as it was. -/
theorem tabGet_tabSet_mixed {α : Type} [DecidableEq α] (d e : α) (t : Tab α) (a b : Nat) (v : α) (h : b ≠ a) :
    tabGet e (tabSet d t a v) b = tabGet e t b := by
  induction t with
  | nil => simp only [tabSet]; split <;> simp [tabGet, h]
  | cons x t ih =>
    obtain ⟨k, w⟩ := x
    simp only [tabSet]
    split
    · subst_vars; rw [ih, tabGet, if_neg h]
    · split
      · simp [tabGet, h]
      · simp only [tabGet]; split <;> simp_all

@[simp] theorem State.setUnit_pending (v : UnitSt) : (s.setUnit a v).pending = s.pending := rfl
@[simp] theorem State.setUnit_time (v : UnitSt) : (s.setUnit a v).time = s.time := rfl
@[simp] theorem State.setUnit_mem (v : UnitSt) : (s.setUnit a v).mem = s.mem := rfl
@[simp] theorem State.setUnit_host (v : UnitSt) : (s.setUnit a v).host = s.host := rfl
@[simp] theorem State.setUnit_veiled (v : UnitSt) : (s.setUnit a v).veiled = s.veiled := rfl
@[simp] theorem State.setUnit_units (v : UnitSt) : (s.setUnit a v).units = tabSet .reset s.units a v := rfl
@[simp] theorem State.setUnit_queues (v : UnitSt) : (s.setUnit a v).queues = s.queues := rfl
@[simp] theorem State.setUnit_chans (v : UnitSt) : (s.setUnit a v).chans = s.chans := rfl
@[simp] theorem State.setUnit_syncs (v : UnitSt) : (s.setUnit a v).syncs = s.syncs := rfl
@[simp] theorem State.setUnit_watches (v : UnitSt) : (s.setUnit a v).watches = s.watches := rfl
@[simp] theorem State.setUnit_marks (v : UnitSt) : (s.setUnit a v).marks = s.marks := rfl
@[simp] theorem State.setUnit_recfgs (v : UnitSt) : (s.setUnit a v).recfgs = s.recfgs := rfl
@[simp] theorem State.setUnit_mxe (v : UnitSt) : (s.setUnit a v).mxe = s.mxe := rfl
@[simp] theorem State.setUnit_eng (v : UnitSt) : (s.setUnit a v).eng = s.eng := rfl
@[simp] theorem State.setUnit_accDir (v : UnitSt) : (s.setUnit a v).accDir = s.accDir := rfl
@[simp] theorem State.setUnit_vregs (v : UnitSt) : (s.setUnit a v).vregs = s.vregs := rfl
@[simp] theorem State.setUnit_vmask (v : UnitSt) : (s.setUnit a v).vmask = s.vmask := rfl
@[simp] theorem State.setUnit_vx (v : UnitSt) : (s.setUnit a v).vx = s.vx := rfl
@[simp] theorem State.setUnit_recipes (v : UnitSt) : (s.setUnit a v).recipes = s.recipes := rfl
@[simp] theorem State.setUnit_dec (v : UnitSt) : (s.setUnit a v).dec = s.dec := rfl
@[simp] theorem State.setUnit_gse (v : UnitSt) : (s.setUnit a v).gse = s.gse := rfl
@[simp] theorem State.setUnit_rxe (v : UnitSt) : (s.setUnit a v).rxe = s.rxe := rfl
@[simp] theorem State.setUnit_jobs (v : UnitSt) : (s.setUnit a v).jobs = s.jobs := rfl
@[simp] theorem State.setUnit_saves (v : UnitSt) : (s.setUnit a v).saves = s.saves := rfl
@[simp] theorem State.setUnit_ports (v : UnitSt) : (s.setUnit a v).ports = s.ports := rfl
@[simp] theorem State.setUnit_torus (v : UnitSt) : (s.setUnit a v).torus = s.torus := rfl
@[simp] theorem State.setUnit_devs (v : UnitSt) : (s.setUnit a v).devs = s.devs := rfl
@[simp] theorem State.setUnit_poison (v : UnitSt) : (s.setUnit a v).poison = s.poison := rfl
@[simp] theorem State.setUnit_cxl (v : UnitSt) : (s.setUnit a v).cxl = s.cxl := rfl
@[simp] theorem State.setUnit_tlb (v : UnitSt) : (s.setUnit a v).tlb = s.tlb := rfl
@[simp] theorem State.setUnit_locked (v : UnitSt) : (s.setUnit a v).locked = s.locked := rfl
@[simp] theorem State.setUnit_ats (v : UnitSt) : (s.setUnit a v).ats = s.ats := rfl
@[simp] theorem State.setUnit_faults (v : UnitSt) : (s.setUnit a v).faults = s.faults := rfl
@[simp] theorem State.setUnit_ctxs (v : UnitSt) : (s.setUnit a v).ctxs = s.ctxs := rfl
@[simp] theorem State.setUnit_hp (v : UnitSt) : (s.setUnit a v).hp = s.hp := rfl
@[simp] theorem State.setUnit_obs (v : UnitSt) : (s.setUnit a v).obs = s.obs := rfl
@[simp] theorem State.setUnit_fabric (v : UnitSt) : (s.setUnit a v).fabric = s.fabric := rfl
@[simp] theorem State.setUnit_pwr (v : UnitSt) : (s.setUnit a v).pwr = s.pwr := rfl
@[simp] theorem State.setUnit_dies (v : UnitSt) : (s.setUnit a v).dies = s.dies := rfl
@[simp] theorem State.setUnit_sec (v : UnitSt) : (s.setUnit a v).sec = s.sec := rfl
@[simp] theorem State.setUnit_pins (v : UnitSt) : (s.setUnit a v).pins = s.pins := rfl
@[simp] theorem State.setUnit_answer (v : UnitSt) : (s.setUnit a v).answer = s.answer := rfl
@[simp] theorem State.setUnit_fresh (v : UnitSt) : (s.setUnit a v).fresh = s.fresh := rfl

theorem State.unit_setUnit (v : UnitSt) : (s.setUnit a v).unit b = if b = a then v else s.unit b := by simp [State.unit, tabGet_tabSet]
@[simp] theorem State.unit_setUnit_self (v : UnitSt) : (s.setUnit a v).unit a = v := by simp [State.unit]

@[simp] theorem State.setQueue_pending (v : QueueSt) : (s.setQueue a v).pending = s.pending := rfl
@[simp] theorem State.setQueue_time (v : QueueSt) : (s.setQueue a v).time = s.time := rfl
@[simp] theorem State.setQueue_mem (v : QueueSt) : (s.setQueue a v).mem = s.mem := rfl
@[simp] theorem State.setQueue_host (v : QueueSt) : (s.setQueue a v).host = s.host := rfl
@[simp] theorem State.setQueue_veiled (v : QueueSt) : (s.setQueue a v).veiled = s.veiled := rfl
@[simp] theorem State.setQueue_units (v : QueueSt) : (s.setQueue a v).units = s.units := rfl
@[simp] theorem State.setQueue_queues (v : QueueSt) : (s.setQueue a v).queues = tabSet .reset s.queues a v := rfl
@[simp] theorem State.setQueue_chans (v : QueueSt) : (s.setQueue a v).chans = s.chans := rfl
@[simp] theorem State.setQueue_syncs (v : QueueSt) : (s.setQueue a v).syncs = s.syncs := rfl
@[simp] theorem State.setQueue_watches (v : QueueSt) : (s.setQueue a v).watches = s.watches := rfl
@[simp] theorem State.setQueue_marks (v : QueueSt) : (s.setQueue a v).marks = s.marks := rfl
@[simp] theorem State.setQueue_recfgs (v : QueueSt) : (s.setQueue a v).recfgs = s.recfgs := rfl
@[simp] theorem State.setQueue_mxe (v : QueueSt) : (s.setQueue a v).mxe = s.mxe := rfl
@[simp] theorem State.setQueue_eng (v : QueueSt) : (s.setQueue a v).eng = s.eng := rfl
@[simp] theorem State.setQueue_accDir (v : QueueSt) : (s.setQueue a v).accDir = s.accDir := rfl
@[simp] theorem State.setQueue_vregs (v : QueueSt) : (s.setQueue a v).vregs = s.vregs := rfl
@[simp] theorem State.setQueue_vmask (v : QueueSt) : (s.setQueue a v).vmask = s.vmask := rfl
@[simp] theorem State.setQueue_vx (v : QueueSt) : (s.setQueue a v).vx = s.vx := rfl
@[simp] theorem State.setQueue_recipes (v : QueueSt) : (s.setQueue a v).recipes = s.recipes := rfl
@[simp] theorem State.setQueue_dec (v : QueueSt) : (s.setQueue a v).dec = s.dec := rfl
@[simp] theorem State.setQueue_gse (v : QueueSt) : (s.setQueue a v).gse = s.gse := rfl
@[simp] theorem State.setQueue_rxe (v : QueueSt) : (s.setQueue a v).rxe = s.rxe := rfl
@[simp] theorem State.setQueue_jobs (v : QueueSt) : (s.setQueue a v).jobs = s.jobs := rfl
@[simp] theorem State.setQueue_saves (v : QueueSt) : (s.setQueue a v).saves = s.saves := rfl
@[simp] theorem State.setQueue_ports (v : QueueSt) : (s.setQueue a v).ports = s.ports := rfl
@[simp] theorem State.setQueue_torus (v : QueueSt) : (s.setQueue a v).torus = s.torus := rfl
@[simp] theorem State.setQueue_devs (v : QueueSt) : (s.setQueue a v).devs = s.devs := rfl
@[simp] theorem State.setQueue_poison (v : QueueSt) : (s.setQueue a v).poison = s.poison := rfl
@[simp] theorem State.setQueue_cxl (v : QueueSt) : (s.setQueue a v).cxl = s.cxl := rfl
@[simp] theorem State.setQueue_tlb (v : QueueSt) : (s.setQueue a v).tlb = s.tlb := rfl
@[simp] theorem State.setQueue_locked (v : QueueSt) : (s.setQueue a v).locked = s.locked := rfl
@[simp] theorem State.setQueue_ats (v : QueueSt) : (s.setQueue a v).ats = s.ats := rfl
@[simp] theorem State.setQueue_faults (v : QueueSt) : (s.setQueue a v).faults = s.faults := rfl
@[simp] theorem State.setQueue_ctxs (v : QueueSt) : (s.setQueue a v).ctxs = s.ctxs := rfl
@[simp] theorem State.setQueue_hp (v : QueueSt) : (s.setQueue a v).hp = s.hp := rfl
@[simp] theorem State.setQueue_obs (v : QueueSt) : (s.setQueue a v).obs = s.obs := rfl
@[simp] theorem State.setQueue_fabric (v : QueueSt) : (s.setQueue a v).fabric = s.fabric := rfl
@[simp] theorem State.setQueue_pwr (v : QueueSt) : (s.setQueue a v).pwr = s.pwr := rfl
@[simp] theorem State.setQueue_dies (v : QueueSt) : (s.setQueue a v).dies = s.dies := rfl
@[simp] theorem State.setQueue_sec (v : QueueSt) : (s.setQueue a v).sec = s.sec := rfl
@[simp] theorem State.setQueue_pins (v : QueueSt) : (s.setQueue a v).pins = s.pins := rfl
@[simp] theorem State.setQueue_answer (v : QueueSt) : (s.setQueue a v).answer = s.answer := rfl
@[simp] theorem State.setQueue_fresh (v : QueueSt) : (s.setQueue a v).fresh = s.fresh := rfl

theorem State.queue_setQueue (v : QueueSt) : (s.setQueue a v).queue b = if b = a then v else s.queue b := by simp [State.queue, tabGet_tabSet]
@[simp] theorem State.queue_setQueue_self (v : QueueSt) : (s.setQueue a v).queue a = v := by simp [State.queue]

@[simp] theorem State.setChan_pending (v : List Flying) : (s.setChan a v).pending = s.pending := rfl
@[simp] theorem State.setChan_time (v : List Flying) : (s.setChan a v).time = s.time := rfl
@[simp] theorem State.setChan_mem (v : List Flying) : (s.setChan a v).mem = s.mem := rfl
@[simp] theorem State.setChan_host (v : List Flying) : (s.setChan a v).host = s.host := rfl
@[simp] theorem State.setChan_veiled (v : List Flying) : (s.setChan a v).veiled = s.veiled := rfl
@[simp] theorem State.setChan_units (v : List Flying) : (s.setChan a v).units = s.units := rfl
@[simp] theorem State.setChan_queues (v : List Flying) : (s.setChan a v).queues = s.queues := rfl
@[simp] theorem State.setChan_chans (v : List Flying) : (s.setChan a v).chans = tabSet [] s.chans a v := rfl
@[simp] theorem State.setChan_syncs (v : List Flying) : (s.setChan a v).syncs = s.syncs := rfl
@[simp] theorem State.setChan_watches (v : List Flying) : (s.setChan a v).watches = s.watches := rfl
@[simp] theorem State.setChan_marks (v : List Flying) : (s.setChan a v).marks = s.marks := rfl
@[simp] theorem State.setChan_recfgs (v : List Flying) : (s.setChan a v).recfgs = s.recfgs := rfl
@[simp] theorem State.setChan_mxe (v : List Flying) : (s.setChan a v).mxe = s.mxe := rfl
@[simp] theorem State.setChan_eng (v : List Flying) : (s.setChan a v).eng = s.eng := rfl
@[simp] theorem State.setChan_accDir (v : List Flying) : (s.setChan a v).accDir = s.accDir := rfl
@[simp] theorem State.setChan_vregs (v : List Flying) : (s.setChan a v).vregs = s.vregs := rfl
@[simp] theorem State.setChan_vmask (v : List Flying) : (s.setChan a v).vmask = s.vmask := rfl
@[simp] theorem State.setChan_vx (v : List Flying) : (s.setChan a v).vx = s.vx := rfl
@[simp] theorem State.setChan_recipes (v : List Flying) : (s.setChan a v).recipes = s.recipes := rfl
@[simp] theorem State.setChan_dec (v : List Flying) : (s.setChan a v).dec = s.dec := rfl
@[simp] theorem State.setChan_gse (v : List Flying) : (s.setChan a v).gse = s.gse := rfl
@[simp] theorem State.setChan_rxe (v : List Flying) : (s.setChan a v).rxe = s.rxe := rfl
@[simp] theorem State.setChan_jobs (v : List Flying) : (s.setChan a v).jobs = s.jobs := rfl
@[simp] theorem State.setChan_saves (v : List Flying) : (s.setChan a v).saves = s.saves := rfl
@[simp] theorem State.setChan_ports (v : List Flying) : (s.setChan a v).ports = s.ports := rfl
@[simp] theorem State.setChan_torus (v : List Flying) : (s.setChan a v).torus = s.torus := rfl
@[simp] theorem State.setChan_devs (v : List Flying) : (s.setChan a v).devs = s.devs := rfl
@[simp] theorem State.setChan_poison (v : List Flying) : (s.setChan a v).poison = s.poison := rfl
@[simp] theorem State.setChan_cxl (v : List Flying) : (s.setChan a v).cxl = s.cxl := rfl
@[simp] theorem State.setChan_tlb (v : List Flying) : (s.setChan a v).tlb = s.tlb := rfl
@[simp] theorem State.setChan_locked (v : List Flying) : (s.setChan a v).locked = s.locked := rfl
@[simp] theorem State.setChan_ats (v : List Flying) : (s.setChan a v).ats = s.ats := rfl
@[simp] theorem State.setChan_faults (v : List Flying) : (s.setChan a v).faults = s.faults := rfl
@[simp] theorem State.setChan_ctxs (v : List Flying) : (s.setChan a v).ctxs = s.ctxs := rfl
@[simp] theorem State.setChan_hp (v : List Flying) : (s.setChan a v).hp = s.hp := rfl
@[simp] theorem State.setChan_obs (v : List Flying) : (s.setChan a v).obs = s.obs := rfl
@[simp] theorem State.setChan_fabric (v : List Flying) : (s.setChan a v).fabric = s.fabric := rfl
@[simp] theorem State.setChan_pwr (v : List Flying) : (s.setChan a v).pwr = s.pwr := rfl
@[simp] theorem State.setChan_dies (v : List Flying) : (s.setChan a v).dies = s.dies := rfl
@[simp] theorem State.setChan_sec (v : List Flying) : (s.setChan a v).sec = s.sec := rfl
@[simp] theorem State.setChan_pins (v : List Flying) : (s.setChan a v).pins = s.pins := rfl
@[simp] theorem State.setChan_answer (v : List Flying) : (s.setChan a v).answer = s.answer := rfl
@[simp] theorem State.setChan_fresh (v : List Flying) : (s.setChan a v).fresh = s.fresh := rfl

theorem State.chan_setChan (v : List Flying) : (s.setChan a v).chan b = if b = a then v else s.chan b := by simp [State.chan, tabGet_tabSet]
@[simp] theorem State.chan_setChan_self (v : List Flying) : (s.setChan a v).chan a = v := by simp [State.chan]

@[simp] theorem State.setSync_pending (v : SyncObj) : (s.setSync a v).pending = s.pending := rfl
@[simp] theorem State.setSync_time (v : SyncObj) : (s.setSync a v).time = s.time := rfl
@[simp] theorem State.setSync_mem (v : SyncObj) : (s.setSync a v).mem = s.mem := rfl
@[simp] theorem State.setSync_host (v : SyncObj) : (s.setSync a v).host = s.host := rfl
@[simp] theorem State.setSync_veiled (v : SyncObj) : (s.setSync a v).veiled = s.veiled := rfl
@[simp] theorem State.setSync_units (v : SyncObj) : (s.setSync a v).units = s.units := rfl
@[simp] theorem State.setSync_queues (v : SyncObj) : (s.setSync a v).queues = s.queues := rfl
@[simp] theorem State.setSync_chans (v : SyncObj) : (s.setSync a v).chans = s.chans := rfl
@[simp] theorem State.setSync_syncs (v : SyncObj) : (s.setSync a v).syncs = tabSet .reset s.syncs a v := rfl
@[simp] theorem State.setSync_watches (v : SyncObj) : (s.setSync a v).watches = s.watches := rfl
@[simp] theorem State.setSync_marks (v : SyncObj) : (s.setSync a v).marks = s.marks := rfl
@[simp] theorem State.setSync_recfgs (v : SyncObj) : (s.setSync a v).recfgs = s.recfgs := rfl
@[simp] theorem State.setSync_mxe (v : SyncObj) : (s.setSync a v).mxe = s.mxe := rfl
@[simp] theorem State.setSync_eng (v : SyncObj) : (s.setSync a v).eng = s.eng := rfl
@[simp] theorem State.setSync_accDir (v : SyncObj) : (s.setSync a v).accDir = s.accDir := rfl
@[simp] theorem State.setSync_vregs (v : SyncObj) : (s.setSync a v).vregs = s.vregs := rfl
@[simp] theorem State.setSync_vmask (v : SyncObj) : (s.setSync a v).vmask = s.vmask := rfl
@[simp] theorem State.setSync_vx (v : SyncObj) : (s.setSync a v).vx = s.vx := rfl
@[simp] theorem State.setSync_recipes (v : SyncObj) : (s.setSync a v).recipes = s.recipes := rfl
@[simp] theorem State.setSync_dec (v : SyncObj) : (s.setSync a v).dec = s.dec := rfl
@[simp] theorem State.setSync_gse (v : SyncObj) : (s.setSync a v).gse = s.gse := rfl
@[simp] theorem State.setSync_rxe (v : SyncObj) : (s.setSync a v).rxe = s.rxe := rfl
@[simp] theorem State.setSync_jobs (v : SyncObj) : (s.setSync a v).jobs = s.jobs := rfl
@[simp] theorem State.setSync_saves (v : SyncObj) : (s.setSync a v).saves = s.saves := rfl
@[simp] theorem State.setSync_ports (v : SyncObj) : (s.setSync a v).ports = s.ports := rfl
@[simp] theorem State.setSync_torus (v : SyncObj) : (s.setSync a v).torus = s.torus := rfl
@[simp] theorem State.setSync_devs (v : SyncObj) : (s.setSync a v).devs = s.devs := rfl
@[simp] theorem State.setSync_poison (v : SyncObj) : (s.setSync a v).poison = s.poison := rfl
@[simp] theorem State.setSync_cxl (v : SyncObj) : (s.setSync a v).cxl = s.cxl := rfl
@[simp] theorem State.setSync_tlb (v : SyncObj) : (s.setSync a v).tlb = s.tlb := rfl
@[simp] theorem State.setSync_locked (v : SyncObj) : (s.setSync a v).locked = s.locked := rfl
@[simp] theorem State.setSync_ats (v : SyncObj) : (s.setSync a v).ats = s.ats := rfl
@[simp] theorem State.setSync_faults (v : SyncObj) : (s.setSync a v).faults = s.faults := rfl
@[simp] theorem State.setSync_ctxs (v : SyncObj) : (s.setSync a v).ctxs = s.ctxs := rfl
@[simp] theorem State.setSync_hp (v : SyncObj) : (s.setSync a v).hp = s.hp := rfl
@[simp] theorem State.setSync_obs (v : SyncObj) : (s.setSync a v).obs = s.obs := rfl
@[simp] theorem State.setSync_fabric (v : SyncObj) : (s.setSync a v).fabric = s.fabric := rfl
@[simp] theorem State.setSync_pwr (v : SyncObj) : (s.setSync a v).pwr = s.pwr := rfl
@[simp] theorem State.setSync_dies (v : SyncObj) : (s.setSync a v).dies = s.dies := rfl
@[simp] theorem State.setSync_sec (v : SyncObj) : (s.setSync a v).sec = s.sec := rfl
@[simp] theorem State.setSync_pins (v : SyncObj) : (s.setSync a v).pins = s.pins := rfl
@[simp] theorem State.setSync_answer (v : SyncObj) : (s.setSync a v).answer = s.answer := rfl
@[simp] theorem State.setSync_fresh (v : SyncObj) : (s.setSync a v).fresh = s.fresh := rfl

theorem State.sync_setSync (v : SyncObj) : (s.setSync a v).sync b = if b = a then v else s.sync b := by simp [State.sync, tabGet_tabSet]
@[simp] theorem State.sync_setSync_self (v : SyncObj) : (s.setSync a v).sync a = v := by simp [State.sync]

@[simp] theorem State.setWatch_pending (v : Option Watch) : (s.setWatch a v).pending = s.pending := rfl
@[simp] theorem State.setWatch_time (v : Option Watch) : (s.setWatch a v).time = s.time := rfl
@[simp] theorem State.setWatch_mem (v : Option Watch) : (s.setWatch a v).mem = s.mem := rfl
@[simp] theorem State.setWatch_host (v : Option Watch) : (s.setWatch a v).host = s.host := rfl
@[simp] theorem State.setWatch_veiled (v : Option Watch) : (s.setWatch a v).veiled = s.veiled := rfl
@[simp] theorem State.setWatch_units (v : Option Watch) : (s.setWatch a v).units = s.units := rfl
@[simp] theorem State.setWatch_queues (v : Option Watch) : (s.setWatch a v).queues = s.queues := rfl
@[simp] theorem State.setWatch_chans (v : Option Watch) : (s.setWatch a v).chans = s.chans := rfl
@[simp] theorem State.setWatch_syncs (v : Option Watch) : (s.setWatch a v).syncs = s.syncs := rfl
@[simp] theorem State.setWatch_watches (v : Option Watch) : (s.setWatch a v).watches = tabSet none s.watches a v := rfl
@[simp] theorem State.setWatch_marks (v : Option Watch) : (s.setWatch a v).marks = s.marks := rfl
@[simp] theorem State.setWatch_recfgs (v : Option Watch) : (s.setWatch a v).recfgs = s.recfgs := rfl
@[simp] theorem State.setWatch_mxe (v : Option Watch) : (s.setWatch a v).mxe = s.mxe := rfl
@[simp] theorem State.setWatch_eng (v : Option Watch) : (s.setWatch a v).eng = s.eng := rfl
@[simp] theorem State.setWatch_accDir (v : Option Watch) : (s.setWatch a v).accDir = s.accDir := rfl
@[simp] theorem State.setWatch_vregs (v : Option Watch) : (s.setWatch a v).vregs = s.vregs := rfl
@[simp] theorem State.setWatch_vmask (v : Option Watch) : (s.setWatch a v).vmask = s.vmask := rfl
@[simp] theorem State.setWatch_vx (v : Option Watch) : (s.setWatch a v).vx = s.vx := rfl
@[simp] theorem State.setWatch_recipes (v : Option Watch) : (s.setWatch a v).recipes = s.recipes := rfl
@[simp] theorem State.setWatch_dec (v : Option Watch) : (s.setWatch a v).dec = s.dec := rfl
@[simp] theorem State.setWatch_gse (v : Option Watch) : (s.setWatch a v).gse = s.gse := rfl
@[simp] theorem State.setWatch_rxe (v : Option Watch) : (s.setWatch a v).rxe = s.rxe := rfl
@[simp] theorem State.setWatch_jobs (v : Option Watch) : (s.setWatch a v).jobs = s.jobs := rfl
@[simp] theorem State.setWatch_saves (v : Option Watch) : (s.setWatch a v).saves = s.saves := rfl
@[simp] theorem State.setWatch_ports (v : Option Watch) : (s.setWatch a v).ports = s.ports := rfl
@[simp] theorem State.setWatch_torus (v : Option Watch) : (s.setWatch a v).torus = s.torus := rfl
@[simp] theorem State.setWatch_devs (v : Option Watch) : (s.setWatch a v).devs = s.devs := rfl
@[simp] theorem State.setWatch_poison (v : Option Watch) : (s.setWatch a v).poison = s.poison := rfl
@[simp] theorem State.setWatch_cxl (v : Option Watch) : (s.setWatch a v).cxl = s.cxl := rfl
@[simp] theorem State.setWatch_tlb (v : Option Watch) : (s.setWatch a v).tlb = s.tlb := rfl
@[simp] theorem State.setWatch_locked (v : Option Watch) : (s.setWatch a v).locked = s.locked := rfl
@[simp] theorem State.setWatch_ats (v : Option Watch) : (s.setWatch a v).ats = s.ats := rfl
@[simp] theorem State.setWatch_faults (v : Option Watch) : (s.setWatch a v).faults = s.faults := rfl
@[simp] theorem State.setWatch_ctxs (v : Option Watch) : (s.setWatch a v).ctxs = s.ctxs := rfl
@[simp] theorem State.setWatch_hp (v : Option Watch) : (s.setWatch a v).hp = s.hp := rfl
@[simp] theorem State.setWatch_obs (v : Option Watch) : (s.setWatch a v).obs = s.obs := rfl
@[simp] theorem State.setWatch_fabric (v : Option Watch) : (s.setWatch a v).fabric = s.fabric := rfl
@[simp] theorem State.setWatch_pwr (v : Option Watch) : (s.setWatch a v).pwr = s.pwr := rfl
@[simp] theorem State.setWatch_dies (v : Option Watch) : (s.setWatch a v).dies = s.dies := rfl
@[simp] theorem State.setWatch_sec (v : Option Watch) : (s.setWatch a v).sec = s.sec := rfl
@[simp] theorem State.setWatch_pins (v : Option Watch) : (s.setWatch a v).pins = s.pins := rfl
@[simp] theorem State.setWatch_answer (v : Option Watch) : (s.setWatch a v).answer = s.answer := rfl
@[simp] theorem State.setWatch_fresh (v : Option Watch) : (s.setWatch a v).fresh = s.fresh := rfl

theorem State.watch_setWatch (v : Option Watch) : (s.setWatch a v).watch b = if b = a then v else s.watch b := by simp [State.watch, tabGet_tabSet]
@[simp] theorem State.watch_setWatch_self (v : Option Watch) : (s.setWatch a v).watch a = v := by simp [State.watch]

@[simp] theorem State.setTile_pending (v : Option MxeTile) : (s.setTile a v).pending = s.pending := rfl
@[simp] theorem State.setTile_time (v : Option MxeTile) : (s.setTile a v).time = s.time := rfl
@[simp] theorem State.setTile_mem (v : Option MxeTile) : (s.setTile a v).mem = s.mem := rfl
@[simp] theorem State.setTile_host (v : Option MxeTile) : (s.setTile a v).host = s.host := rfl
@[simp] theorem State.setTile_veiled (v : Option MxeTile) : (s.setTile a v).veiled = s.veiled := rfl
@[simp] theorem State.setTile_units (v : Option MxeTile) : (s.setTile a v).units = s.units := rfl
@[simp] theorem State.setTile_queues (v : Option MxeTile) : (s.setTile a v).queues = s.queues := rfl
@[simp] theorem State.setTile_chans (v : Option MxeTile) : (s.setTile a v).chans = s.chans := rfl
@[simp] theorem State.setTile_syncs (v : Option MxeTile) : (s.setTile a v).syncs = s.syncs := rfl
@[simp] theorem State.setTile_watches (v : Option MxeTile) : (s.setTile a v).watches = s.watches := rfl
@[simp] theorem State.setTile_marks (v : Option MxeTile) : (s.setTile a v).marks = s.marks := rfl
@[simp] theorem State.setTile_recfgs (v : Option MxeTile) : (s.setTile a v).recfgs = s.recfgs := rfl
@[simp] theorem State.setTile_mxe (v : Option MxeTile) : (s.setTile a v).mxe = tabSet none s.mxe a v := rfl
@[simp] theorem State.setTile_eng (v : Option MxeTile) : (s.setTile a v).eng = s.eng := rfl
@[simp] theorem State.setTile_accDir (v : Option MxeTile) : (s.setTile a v).accDir = s.accDir := rfl
@[simp] theorem State.setTile_vregs (v : Option MxeTile) : (s.setTile a v).vregs = s.vregs := rfl
@[simp] theorem State.setTile_vmask (v : Option MxeTile) : (s.setTile a v).vmask = s.vmask := rfl
@[simp] theorem State.setTile_vx (v : Option MxeTile) : (s.setTile a v).vx = s.vx := rfl
@[simp] theorem State.setTile_recipes (v : Option MxeTile) : (s.setTile a v).recipes = s.recipes := rfl
@[simp] theorem State.setTile_dec (v : Option MxeTile) : (s.setTile a v).dec = s.dec := rfl
@[simp] theorem State.setTile_gse (v : Option MxeTile) : (s.setTile a v).gse = s.gse := rfl
@[simp] theorem State.setTile_rxe (v : Option MxeTile) : (s.setTile a v).rxe = s.rxe := rfl
@[simp] theorem State.setTile_jobs (v : Option MxeTile) : (s.setTile a v).jobs = s.jobs := rfl
@[simp] theorem State.setTile_saves (v : Option MxeTile) : (s.setTile a v).saves = s.saves := rfl
@[simp] theorem State.setTile_ports (v : Option MxeTile) : (s.setTile a v).ports = s.ports := rfl
@[simp] theorem State.setTile_torus (v : Option MxeTile) : (s.setTile a v).torus = s.torus := rfl
@[simp] theorem State.setTile_devs (v : Option MxeTile) : (s.setTile a v).devs = s.devs := rfl
@[simp] theorem State.setTile_poison (v : Option MxeTile) : (s.setTile a v).poison = s.poison := rfl
@[simp] theorem State.setTile_cxl (v : Option MxeTile) : (s.setTile a v).cxl = s.cxl := rfl
@[simp] theorem State.setTile_tlb (v : Option MxeTile) : (s.setTile a v).tlb = s.tlb := rfl
@[simp] theorem State.setTile_locked (v : Option MxeTile) : (s.setTile a v).locked = s.locked := rfl
@[simp] theorem State.setTile_ats (v : Option MxeTile) : (s.setTile a v).ats = s.ats := rfl
@[simp] theorem State.setTile_faults (v : Option MxeTile) : (s.setTile a v).faults = s.faults := rfl
@[simp] theorem State.setTile_ctxs (v : Option MxeTile) : (s.setTile a v).ctxs = s.ctxs := rfl
@[simp] theorem State.setTile_hp (v : Option MxeTile) : (s.setTile a v).hp = s.hp := rfl
@[simp] theorem State.setTile_obs (v : Option MxeTile) : (s.setTile a v).obs = s.obs := rfl
@[simp] theorem State.setTile_fabric (v : Option MxeTile) : (s.setTile a v).fabric = s.fabric := rfl
@[simp] theorem State.setTile_pwr (v : Option MxeTile) : (s.setTile a v).pwr = s.pwr := rfl
@[simp] theorem State.setTile_dies (v : Option MxeTile) : (s.setTile a v).dies = s.dies := rfl
@[simp] theorem State.setTile_sec (v : Option MxeTile) : (s.setTile a v).sec = s.sec := rfl
@[simp] theorem State.setTile_pins (v : Option MxeTile) : (s.setTile a v).pins = s.pins := rfl
@[simp] theorem State.setTile_answer (v : Option MxeTile) : (s.setTile a v).answer = s.answer := rfl
@[simp] theorem State.setTile_fresh (v : Option MxeTile) : (s.setTile a v).fresh = s.fresh := rfl

theorem State.tile_setTile (v : Option MxeTile) : (s.setTile a v).tile b = if b = a then v else s.tile b := by simp [State.tile, tabGet_tabSet]
@[simp] theorem State.tile_setTile_self (v : Option MxeTile) : (s.setTile a v).tile a = v := by simp [State.tile]

@[simp] theorem State.setEng_pending (v : EngSt) : (s.setEng a v).pending = s.pending := rfl
@[simp] theorem State.setEng_time (v : EngSt) : (s.setEng a v).time = s.time := rfl
@[simp] theorem State.setEng_mem (v : EngSt) : (s.setEng a v).mem = s.mem := rfl
@[simp] theorem State.setEng_host (v : EngSt) : (s.setEng a v).host = s.host := rfl
@[simp] theorem State.setEng_veiled (v : EngSt) : (s.setEng a v).veiled = s.veiled := rfl
@[simp] theorem State.setEng_units (v : EngSt) : (s.setEng a v).units = s.units := rfl
@[simp] theorem State.setEng_queues (v : EngSt) : (s.setEng a v).queues = s.queues := rfl
@[simp] theorem State.setEng_chans (v : EngSt) : (s.setEng a v).chans = s.chans := rfl
@[simp] theorem State.setEng_syncs (v : EngSt) : (s.setEng a v).syncs = s.syncs := rfl
@[simp] theorem State.setEng_watches (v : EngSt) : (s.setEng a v).watches = s.watches := rfl
@[simp] theorem State.setEng_marks (v : EngSt) : (s.setEng a v).marks = s.marks := rfl
@[simp] theorem State.setEng_recfgs (v : EngSt) : (s.setEng a v).recfgs = s.recfgs := rfl
@[simp] theorem State.setEng_mxe (v : EngSt) : (s.setEng a v).mxe = s.mxe := rfl
@[simp] theorem State.setEng_eng (v : EngSt) : (s.setEng a v).eng = tabSet .reset s.eng a v := rfl
@[simp] theorem State.setEng_accDir (v : EngSt) : (s.setEng a v).accDir = s.accDir := rfl
@[simp] theorem State.setEng_vregs (v : EngSt) : (s.setEng a v).vregs = s.vregs := rfl
@[simp] theorem State.setEng_vmask (v : EngSt) : (s.setEng a v).vmask = s.vmask := rfl
@[simp] theorem State.setEng_vx (v : EngSt) : (s.setEng a v).vx = s.vx := rfl
@[simp] theorem State.setEng_recipes (v : EngSt) : (s.setEng a v).recipes = s.recipes := rfl
@[simp] theorem State.setEng_dec (v : EngSt) : (s.setEng a v).dec = s.dec := rfl
@[simp] theorem State.setEng_gse (v : EngSt) : (s.setEng a v).gse = s.gse := rfl
@[simp] theorem State.setEng_rxe (v : EngSt) : (s.setEng a v).rxe = s.rxe := rfl
@[simp] theorem State.setEng_jobs (v : EngSt) : (s.setEng a v).jobs = s.jobs := rfl
@[simp] theorem State.setEng_saves (v : EngSt) : (s.setEng a v).saves = s.saves := rfl
@[simp] theorem State.setEng_ports (v : EngSt) : (s.setEng a v).ports = s.ports := rfl
@[simp] theorem State.setEng_torus (v : EngSt) : (s.setEng a v).torus = s.torus := rfl
@[simp] theorem State.setEng_devs (v : EngSt) : (s.setEng a v).devs = s.devs := rfl
@[simp] theorem State.setEng_poison (v : EngSt) : (s.setEng a v).poison = s.poison := rfl
@[simp] theorem State.setEng_cxl (v : EngSt) : (s.setEng a v).cxl = s.cxl := rfl
@[simp] theorem State.setEng_tlb (v : EngSt) : (s.setEng a v).tlb = s.tlb := rfl
@[simp] theorem State.setEng_locked (v : EngSt) : (s.setEng a v).locked = s.locked := rfl
@[simp] theorem State.setEng_ats (v : EngSt) : (s.setEng a v).ats = s.ats := rfl
@[simp] theorem State.setEng_faults (v : EngSt) : (s.setEng a v).faults = s.faults := rfl
@[simp] theorem State.setEng_ctxs (v : EngSt) : (s.setEng a v).ctxs = s.ctxs := rfl
@[simp] theorem State.setEng_hp (v : EngSt) : (s.setEng a v).hp = s.hp := rfl
@[simp] theorem State.setEng_obs (v : EngSt) : (s.setEng a v).obs = s.obs := rfl
@[simp] theorem State.setEng_fabric (v : EngSt) : (s.setEng a v).fabric = s.fabric := rfl
@[simp] theorem State.setEng_pwr (v : EngSt) : (s.setEng a v).pwr = s.pwr := rfl
@[simp] theorem State.setEng_dies (v : EngSt) : (s.setEng a v).dies = s.dies := rfl
@[simp] theorem State.setEng_sec (v : EngSt) : (s.setEng a v).sec = s.sec := rfl
@[simp] theorem State.setEng_pins (v : EngSt) : (s.setEng a v).pins = s.pins := rfl
@[simp] theorem State.setEng_answer (v : EngSt) : (s.setEng a v).answer = s.answer := rfl
@[simp] theorem State.setEng_fresh (v : EngSt) : (s.setEng a v).fresh = s.fresh := rfl

theorem State.engAt_setEng (v : EngSt) : (s.setEng a v).engAt b = if b = a then v else s.engAt b := by simp [State.engAt, tabGet_tabSet]
@[simp] theorem State.engAt_setEng_self (v : EngSt) : (s.setEng a v).engAt a = v := by simp [State.engAt]

@[simp] theorem State.setDir_pending (v : List AccEntry) : (s.setDir a v).pending = s.pending := rfl
@[simp] theorem State.setDir_time (v : List AccEntry) : (s.setDir a v).time = s.time := rfl
@[simp] theorem State.setDir_mem (v : List AccEntry) : (s.setDir a v).mem = s.mem := rfl
@[simp] theorem State.setDir_host (v : List AccEntry) : (s.setDir a v).host = s.host := rfl
@[simp] theorem State.setDir_veiled (v : List AccEntry) : (s.setDir a v).veiled = s.veiled := rfl
@[simp] theorem State.setDir_units (v : List AccEntry) : (s.setDir a v).units = s.units := rfl
@[simp] theorem State.setDir_queues (v : List AccEntry) : (s.setDir a v).queues = s.queues := rfl
@[simp] theorem State.setDir_chans (v : List AccEntry) : (s.setDir a v).chans = s.chans := rfl
@[simp] theorem State.setDir_syncs (v : List AccEntry) : (s.setDir a v).syncs = s.syncs := rfl
@[simp] theorem State.setDir_watches (v : List AccEntry) : (s.setDir a v).watches = s.watches := rfl
@[simp] theorem State.setDir_marks (v : List AccEntry) : (s.setDir a v).marks = s.marks := rfl
@[simp] theorem State.setDir_recfgs (v : List AccEntry) : (s.setDir a v).recfgs = s.recfgs := rfl
@[simp] theorem State.setDir_mxe (v : List AccEntry) : (s.setDir a v).mxe = s.mxe := rfl
@[simp] theorem State.setDir_eng (v : List AccEntry) : (s.setDir a v).eng = s.eng := rfl
@[simp] theorem State.setDir_accDir (v : List AccEntry) : (s.setDir a v).accDir = tabSet [] s.accDir a v := rfl
@[simp] theorem State.setDir_vregs (v : List AccEntry) : (s.setDir a v).vregs = s.vregs := rfl
@[simp] theorem State.setDir_vmask (v : List AccEntry) : (s.setDir a v).vmask = s.vmask := rfl
@[simp] theorem State.setDir_vx (v : List AccEntry) : (s.setDir a v).vx = s.vx := rfl
@[simp] theorem State.setDir_recipes (v : List AccEntry) : (s.setDir a v).recipes = s.recipes := rfl
@[simp] theorem State.setDir_dec (v : List AccEntry) : (s.setDir a v).dec = s.dec := rfl
@[simp] theorem State.setDir_gse (v : List AccEntry) : (s.setDir a v).gse = s.gse := rfl
@[simp] theorem State.setDir_rxe (v : List AccEntry) : (s.setDir a v).rxe = s.rxe := rfl
@[simp] theorem State.setDir_jobs (v : List AccEntry) : (s.setDir a v).jobs = s.jobs := rfl
@[simp] theorem State.setDir_saves (v : List AccEntry) : (s.setDir a v).saves = s.saves := rfl
@[simp] theorem State.setDir_ports (v : List AccEntry) : (s.setDir a v).ports = s.ports := rfl
@[simp] theorem State.setDir_torus (v : List AccEntry) : (s.setDir a v).torus = s.torus := rfl
@[simp] theorem State.setDir_devs (v : List AccEntry) : (s.setDir a v).devs = s.devs := rfl
@[simp] theorem State.setDir_poison (v : List AccEntry) : (s.setDir a v).poison = s.poison := rfl
@[simp] theorem State.setDir_cxl (v : List AccEntry) : (s.setDir a v).cxl = s.cxl := rfl
@[simp] theorem State.setDir_tlb (v : List AccEntry) : (s.setDir a v).tlb = s.tlb := rfl
@[simp] theorem State.setDir_locked (v : List AccEntry) : (s.setDir a v).locked = s.locked := rfl
@[simp] theorem State.setDir_ats (v : List AccEntry) : (s.setDir a v).ats = s.ats := rfl
@[simp] theorem State.setDir_faults (v : List AccEntry) : (s.setDir a v).faults = s.faults := rfl
@[simp] theorem State.setDir_ctxs (v : List AccEntry) : (s.setDir a v).ctxs = s.ctxs := rfl
@[simp] theorem State.setDir_hp (v : List AccEntry) : (s.setDir a v).hp = s.hp := rfl
@[simp] theorem State.setDir_obs (v : List AccEntry) : (s.setDir a v).obs = s.obs := rfl
@[simp] theorem State.setDir_fabric (v : List AccEntry) : (s.setDir a v).fabric = s.fabric := rfl
@[simp] theorem State.setDir_pwr (v : List AccEntry) : (s.setDir a v).pwr = s.pwr := rfl
@[simp] theorem State.setDir_dies (v : List AccEntry) : (s.setDir a v).dies = s.dies := rfl
@[simp] theorem State.setDir_sec (v : List AccEntry) : (s.setDir a v).sec = s.sec := rfl
@[simp] theorem State.setDir_pins (v : List AccEntry) : (s.setDir a v).pins = s.pins := rfl
@[simp] theorem State.setDir_answer (v : List AccEntry) : (s.setDir a v).answer = s.answer := rfl
@[simp] theorem State.setDir_fresh (v : List AccEntry) : (s.setDir a v).fresh = s.fresh := rfl

theorem State.dir_setDir (v : List AccEntry) : (s.setDir a v).dir b = if b = a then v else s.dir b := by simp [State.dir, tabGet_tabSet]
@[simp] theorem State.dir_setDir_self (v : List AccEntry) : (s.setDir a v).dir a = v := by simp [State.dir]

@[simp] theorem State.setVmask_pending (v : BitVec 256) : (s.setVmask a v).pending = s.pending := rfl
@[simp] theorem State.setVmask_time (v : BitVec 256) : (s.setVmask a v).time = s.time := rfl
@[simp] theorem State.setVmask_mem (v : BitVec 256) : (s.setVmask a v).mem = s.mem := rfl
@[simp] theorem State.setVmask_host (v : BitVec 256) : (s.setVmask a v).host = s.host := rfl
@[simp] theorem State.setVmask_veiled (v : BitVec 256) : (s.setVmask a v).veiled = s.veiled := rfl
@[simp] theorem State.setVmask_units (v : BitVec 256) : (s.setVmask a v).units = s.units := rfl
@[simp] theorem State.setVmask_queues (v : BitVec 256) : (s.setVmask a v).queues = s.queues := rfl
@[simp] theorem State.setVmask_chans (v : BitVec 256) : (s.setVmask a v).chans = s.chans := rfl
@[simp] theorem State.setVmask_syncs (v : BitVec 256) : (s.setVmask a v).syncs = s.syncs := rfl
@[simp] theorem State.setVmask_watches (v : BitVec 256) : (s.setVmask a v).watches = s.watches := rfl
@[simp] theorem State.setVmask_marks (v : BitVec 256) : (s.setVmask a v).marks = s.marks := rfl
@[simp] theorem State.setVmask_recfgs (v : BitVec 256) : (s.setVmask a v).recfgs = s.recfgs := rfl
@[simp] theorem State.setVmask_mxe (v : BitVec 256) : (s.setVmask a v).mxe = s.mxe := rfl
@[simp] theorem State.setVmask_eng (v : BitVec 256) : (s.setVmask a v).eng = s.eng := rfl
@[simp] theorem State.setVmask_accDir (v : BitVec 256) : (s.setVmask a v).accDir = s.accDir := rfl
@[simp] theorem State.setVmask_vregs (v : BitVec 256) : (s.setVmask a v).vregs = s.vregs := rfl
@[simp] theorem State.setVmask_vmask (v : BitVec 256) : (s.setVmask a v).vmask = tabSet vmaskReset s.vmask a v := rfl
@[simp] theorem State.setVmask_vx (v : BitVec 256) : (s.setVmask a v).vx = s.vx := rfl
@[simp] theorem State.setVmask_recipes (v : BitVec 256) : (s.setVmask a v).recipes = s.recipes := rfl
@[simp] theorem State.setVmask_dec (v : BitVec 256) : (s.setVmask a v).dec = s.dec := rfl
@[simp] theorem State.setVmask_gse (v : BitVec 256) : (s.setVmask a v).gse = s.gse := rfl
@[simp] theorem State.setVmask_rxe (v : BitVec 256) : (s.setVmask a v).rxe = s.rxe := rfl
@[simp] theorem State.setVmask_jobs (v : BitVec 256) : (s.setVmask a v).jobs = s.jobs := rfl
@[simp] theorem State.setVmask_saves (v : BitVec 256) : (s.setVmask a v).saves = s.saves := rfl
@[simp] theorem State.setVmask_ports (v : BitVec 256) : (s.setVmask a v).ports = s.ports := rfl
@[simp] theorem State.setVmask_torus (v : BitVec 256) : (s.setVmask a v).torus = s.torus := rfl
@[simp] theorem State.setVmask_devs (v : BitVec 256) : (s.setVmask a v).devs = s.devs := rfl
@[simp] theorem State.setVmask_poison (v : BitVec 256) : (s.setVmask a v).poison = s.poison := rfl
@[simp] theorem State.setVmask_cxl (v : BitVec 256) : (s.setVmask a v).cxl = s.cxl := rfl
@[simp] theorem State.setVmask_tlb (v : BitVec 256) : (s.setVmask a v).tlb = s.tlb := rfl
@[simp] theorem State.setVmask_locked (v : BitVec 256) : (s.setVmask a v).locked = s.locked := rfl
@[simp] theorem State.setVmask_ats (v : BitVec 256) : (s.setVmask a v).ats = s.ats := rfl
@[simp] theorem State.setVmask_faults (v : BitVec 256) : (s.setVmask a v).faults = s.faults := rfl
@[simp] theorem State.setVmask_ctxs (v : BitVec 256) : (s.setVmask a v).ctxs = s.ctxs := rfl
@[simp] theorem State.setVmask_hp (v : BitVec 256) : (s.setVmask a v).hp = s.hp := rfl
@[simp] theorem State.setVmask_obs (v : BitVec 256) : (s.setVmask a v).obs = s.obs := rfl
@[simp] theorem State.setVmask_fabric (v : BitVec 256) : (s.setVmask a v).fabric = s.fabric := rfl
@[simp] theorem State.setVmask_pwr (v : BitVec 256) : (s.setVmask a v).pwr = s.pwr := rfl
@[simp] theorem State.setVmask_dies (v : BitVec 256) : (s.setVmask a v).dies = s.dies := rfl
@[simp] theorem State.setVmask_sec (v : BitVec 256) : (s.setVmask a v).sec = s.sec := rfl
@[simp] theorem State.setVmask_pins (v : BitVec 256) : (s.setVmask a v).pins = s.pins := rfl
@[simp] theorem State.setVmask_answer (v : BitVec 256) : (s.setVmask a v).answer = s.answer := rfl
@[simp] theorem State.setVmask_fresh (v : BitVec 256) : (s.setVmask a v).fresh = s.fresh := rfl

theorem State.vmaskAt_setVmask (v : BitVec 256) : (s.setVmask a v).vmaskAt b = if b = a then v else s.vmaskAt b := by simp [State.vmaskAt, tabGet_tabSet]
@[simp] theorem State.vmaskAt_setVmask_self (v : BitVec 256) : (s.setVmask a v).vmaskAt a = v := by simp [State.vmaskAt]

@[simp] theorem State.setVx_pending (v : VxSt) : (s.setVx a v).pending = s.pending := rfl
@[simp] theorem State.setVx_time (v : VxSt) : (s.setVx a v).time = s.time := rfl
@[simp] theorem State.setVx_mem (v : VxSt) : (s.setVx a v).mem = s.mem := rfl
@[simp] theorem State.setVx_host (v : VxSt) : (s.setVx a v).host = s.host := rfl
@[simp] theorem State.setVx_veiled (v : VxSt) : (s.setVx a v).veiled = s.veiled := rfl
@[simp] theorem State.setVx_units (v : VxSt) : (s.setVx a v).units = s.units := rfl
@[simp] theorem State.setVx_queues (v : VxSt) : (s.setVx a v).queues = s.queues := rfl
@[simp] theorem State.setVx_chans (v : VxSt) : (s.setVx a v).chans = s.chans := rfl
@[simp] theorem State.setVx_syncs (v : VxSt) : (s.setVx a v).syncs = s.syncs := rfl
@[simp] theorem State.setVx_watches (v : VxSt) : (s.setVx a v).watches = s.watches := rfl
@[simp] theorem State.setVx_marks (v : VxSt) : (s.setVx a v).marks = s.marks := rfl
@[simp] theorem State.setVx_recfgs (v : VxSt) : (s.setVx a v).recfgs = s.recfgs := rfl
@[simp] theorem State.setVx_mxe (v : VxSt) : (s.setVx a v).mxe = s.mxe := rfl
@[simp] theorem State.setVx_eng (v : VxSt) : (s.setVx a v).eng = s.eng := rfl
@[simp] theorem State.setVx_accDir (v : VxSt) : (s.setVx a v).accDir = s.accDir := rfl
@[simp] theorem State.setVx_vregs (v : VxSt) : (s.setVx a v).vregs = s.vregs := rfl
@[simp] theorem State.setVx_vmask (v : VxSt) : (s.setVx a v).vmask = s.vmask := rfl
@[simp] theorem State.setVx_vx (v : VxSt) : (s.setVx a v).vx = tabSet .reset s.vx a v := rfl
@[simp] theorem State.setVx_recipes (v : VxSt) : (s.setVx a v).recipes = s.recipes := rfl
@[simp] theorem State.setVx_dec (v : VxSt) : (s.setVx a v).dec = s.dec := rfl
@[simp] theorem State.setVx_gse (v : VxSt) : (s.setVx a v).gse = s.gse := rfl
@[simp] theorem State.setVx_rxe (v : VxSt) : (s.setVx a v).rxe = s.rxe := rfl
@[simp] theorem State.setVx_jobs (v : VxSt) : (s.setVx a v).jobs = s.jobs := rfl
@[simp] theorem State.setVx_saves (v : VxSt) : (s.setVx a v).saves = s.saves := rfl
@[simp] theorem State.setVx_ports (v : VxSt) : (s.setVx a v).ports = s.ports := rfl
@[simp] theorem State.setVx_torus (v : VxSt) : (s.setVx a v).torus = s.torus := rfl
@[simp] theorem State.setVx_devs (v : VxSt) : (s.setVx a v).devs = s.devs := rfl
@[simp] theorem State.setVx_poison (v : VxSt) : (s.setVx a v).poison = s.poison := rfl
@[simp] theorem State.setVx_cxl (v : VxSt) : (s.setVx a v).cxl = s.cxl := rfl
@[simp] theorem State.setVx_tlb (v : VxSt) : (s.setVx a v).tlb = s.tlb := rfl
@[simp] theorem State.setVx_locked (v : VxSt) : (s.setVx a v).locked = s.locked := rfl
@[simp] theorem State.setVx_ats (v : VxSt) : (s.setVx a v).ats = s.ats := rfl
@[simp] theorem State.setVx_faults (v : VxSt) : (s.setVx a v).faults = s.faults := rfl
@[simp] theorem State.setVx_ctxs (v : VxSt) : (s.setVx a v).ctxs = s.ctxs := rfl
@[simp] theorem State.setVx_hp (v : VxSt) : (s.setVx a v).hp = s.hp := rfl
@[simp] theorem State.setVx_obs (v : VxSt) : (s.setVx a v).obs = s.obs := rfl
@[simp] theorem State.setVx_fabric (v : VxSt) : (s.setVx a v).fabric = s.fabric := rfl
@[simp] theorem State.setVx_pwr (v : VxSt) : (s.setVx a v).pwr = s.pwr := rfl
@[simp] theorem State.setVx_dies (v : VxSt) : (s.setVx a v).dies = s.dies := rfl
@[simp] theorem State.setVx_sec (v : VxSt) : (s.setVx a v).sec = s.sec := rfl
@[simp] theorem State.setVx_pins (v : VxSt) : (s.setVx a v).pins = s.pins := rfl
@[simp] theorem State.setVx_answer (v : VxSt) : (s.setVx a v).answer = s.answer := rfl
@[simp] theorem State.setVx_fresh (v : VxSt) : (s.setVx a v).fresh = s.fresh := rfl

theorem State.vxAt_setVx (v : VxSt) : (s.setVx a v).vxAt b = if b = a then v else s.vxAt b := by simp [State.vxAt, tabGet_tabSet]
@[simp] theorem State.vxAt_setVx_self (v : VxSt) : (s.setVx a v).vxAt a = v := by simp [State.vxAt]

@[simp] theorem State.setRecipe_pending (v : List U32) : (s.setRecipe a v).pending = s.pending := rfl
@[simp] theorem State.setRecipe_time (v : List U32) : (s.setRecipe a v).time = s.time := rfl
@[simp] theorem State.setRecipe_mem (v : List U32) : (s.setRecipe a v).mem = s.mem := rfl
@[simp] theorem State.setRecipe_host (v : List U32) : (s.setRecipe a v).host = s.host := rfl
@[simp] theorem State.setRecipe_veiled (v : List U32) : (s.setRecipe a v).veiled = s.veiled := rfl
@[simp] theorem State.setRecipe_units (v : List U32) : (s.setRecipe a v).units = s.units := rfl
@[simp] theorem State.setRecipe_queues (v : List U32) : (s.setRecipe a v).queues = s.queues := rfl
@[simp] theorem State.setRecipe_chans (v : List U32) : (s.setRecipe a v).chans = s.chans := rfl
@[simp] theorem State.setRecipe_syncs (v : List U32) : (s.setRecipe a v).syncs = s.syncs := rfl
@[simp] theorem State.setRecipe_watches (v : List U32) : (s.setRecipe a v).watches = s.watches := rfl
@[simp] theorem State.setRecipe_marks (v : List U32) : (s.setRecipe a v).marks = s.marks := rfl
@[simp] theorem State.setRecipe_recfgs (v : List U32) : (s.setRecipe a v).recfgs = s.recfgs := rfl
@[simp] theorem State.setRecipe_mxe (v : List U32) : (s.setRecipe a v).mxe = s.mxe := rfl
@[simp] theorem State.setRecipe_eng (v : List U32) : (s.setRecipe a v).eng = s.eng := rfl
@[simp] theorem State.setRecipe_accDir (v : List U32) : (s.setRecipe a v).accDir = s.accDir := rfl
@[simp] theorem State.setRecipe_vregs (v : List U32) : (s.setRecipe a v).vregs = s.vregs := rfl
@[simp] theorem State.setRecipe_vmask (v : List U32) : (s.setRecipe a v).vmask = s.vmask := rfl
@[simp] theorem State.setRecipe_vx (v : List U32) : (s.setRecipe a v).vx = s.vx := rfl
@[simp] theorem State.setRecipe_recipes (v : List U32) : (s.setRecipe a v).recipes = tabSet [] s.recipes a v := rfl
@[simp] theorem State.setRecipe_dec (v : List U32) : (s.setRecipe a v).dec = s.dec := rfl
@[simp] theorem State.setRecipe_gse (v : List U32) : (s.setRecipe a v).gse = s.gse := rfl
@[simp] theorem State.setRecipe_rxe (v : List U32) : (s.setRecipe a v).rxe = s.rxe := rfl
@[simp] theorem State.setRecipe_jobs (v : List U32) : (s.setRecipe a v).jobs = s.jobs := rfl
@[simp] theorem State.setRecipe_saves (v : List U32) : (s.setRecipe a v).saves = s.saves := rfl
@[simp] theorem State.setRecipe_ports (v : List U32) : (s.setRecipe a v).ports = s.ports := rfl
@[simp] theorem State.setRecipe_torus (v : List U32) : (s.setRecipe a v).torus = s.torus := rfl
@[simp] theorem State.setRecipe_devs (v : List U32) : (s.setRecipe a v).devs = s.devs := rfl
@[simp] theorem State.setRecipe_poison (v : List U32) : (s.setRecipe a v).poison = s.poison := rfl
@[simp] theorem State.setRecipe_cxl (v : List U32) : (s.setRecipe a v).cxl = s.cxl := rfl
@[simp] theorem State.setRecipe_tlb (v : List U32) : (s.setRecipe a v).tlb = s.tlb := rfl
@[simp] theorem State.setRecipe_locked (v : List U32) : (s.setRecipe a v).locked = s.locked := rfl
@[simp] theorem State.setRecipe_ats (v : List U32) : (s.setRecipe a v).ats = s.ats := rfl
@[simp] theorem State.setRecipe_faults (v : List U32) : (s.setRecipe a v).faults = s.faults := rfl
@[simp] theorem State.setRecipe_ctxs (v : List U32) : (s.setRecipe a v).ctxs = s.ctxs := rfl
@[simp] theorem State.setRecipe_hp (v : List U32) : (s.setRecipe a v).hp = s.hp := rfl
@[simp] theorem State.setRecipe_obs (v : List U32) : (s.setRecipe a v).obs = s.obs := rfl
@[simp] theorem State.setRecipe_fabric (v : List U32) : (s.setRecipe a v).fabric = s.fabric := rfl
@[simp] theorem State.setRecipe_pwr (v : List U32) : (s.setRecipe a v).pwr = s.pwr := rfl
@[simp] theorem State.setRecipe_dies (v : List U32) : (s.setRecipe a v).dies = s.dies := rfl
@[simp] theorem State.setRecipe_sec (v : List U32) : (s.setRecipe a v).sec = s.sec := rfl
@[simp] theorem State.setRecipe_pins (v : List U32) : (s.setRecipe a v).pins = s.pins := rfl
@[simp] theorem State.setRecipe_answer (v : List U32) : (s.setRecipe a v).answer = s.answer := rfl
@[simp] theorem State.setRecipe_fresh (v : List U32) : (s.setRecipe a v).fresh = s.fresh := rfl

theorem State.recipe_setRecipe (v : List U32) : (s.setRecipe a v).recipe b = if b = a then v else s.recipe b := by simp [State.recipe, tabGet_tabSet]
@[simp] theorem State.recipe_setRecipe_self (v : List U32) : (s.setRecipe a v).recipe a = v := by simp [State.recipe]

@[simp] theorem State.setDec_pending (v : DecSt) : (s.setDec a v).pending = s.pending := rfl
@[simp] theorem State.setDec_time (v : DecSt) : (s.setDec a v).time = s.time := rfl
@[simp] theorem State.setDec_mem (v : DecSt) : (s.setDec a v).mem = s.mem := rfl
@[simp] theorem State.setDec_host (v : DecSt) : (s.setDec a v).host = s.host := rfl
@[simp] theorem State.setDec_veiled (v : DecSt) : (s.setDec a v).veiled = s.veiled := rfl
@[simp] theorem State.setDec_units (v : DecSt) : (s.setDec a v).units = s.units := rfl
@[simp] theorem State.setDec_queues (v : DecSt) : (s.setDec a v).queues = s.queues := rfl
@[simp] theorem State.setDec_chans (v : DecSt) : (s.setDec a v).chans = s.chans := rfl
@[simp] theorem State.setDec_syncs (v : DecSt) : (s.setDec a v).syncs = s.syncs := rfl
@[simp] theorem State.setDec_watches (v : DecSt) : (s.setDec a v).watches = s.watches := rfl
@[simp] theorem State.setDec_marks (v : DecSt) : (s.setDec a v).marks = s.marks := rfl
@[simp] theorem State.setDec_recfgs (v : DecSt) : (s.setDec a v).recfgs = s.recfgs := rfl
@[simp] theorem State.setDec_mxe (v : DecSt) : (s.setDec a v).mxe = s.mxe := rfl
@[simp] theorem State.setDec_eng (v : DecSt) : (s.setDec a v).eng = s.eng := rfl
@[simp] theorem State.setDec_accDir (v : DecSt) : (s.setDec a v).accDir = s.accDir := rfl
@[simp] theorem State.setDec_vregs (v : DecSt) : (s.setDec a v).vregs = s.vregs := rfl
@[simp] theorem State.setDec_vmask (v : DecSt) : (s.setDec a v).vmask = s.vmask := rfl
@[simp] theorem State.setDec_vx (v : DecSt) : (s.setDec a v).vx = s.vx := rfl
@[simp] theorem State.setDec_recipes (v : DecSt) : (s.setDec a v).recipes = s.recipes := rfl
@[simp] theorem State.setDec_dec (v : DecSt) : (s.setDec a v).dec = tabSet .reset s.dec a v := rfl
@[simp] theorem State.setDec_gse (v : DecSt) : (s.setDec a v).gse = s.gse := rfl
@[simp] theorem State.setDec_rxe (v : DecSt) : (s.setDec a v).rxe = s.rxe := rfl
@[simp] theorem State.setDec_jobs (v : DecSt) : (s.setDec a v).jobs = s.jobs := rfl
@[simp] theorem State.setDec_saves (v : DecSt) : (s.setDec a v).saves = s.saves := rfl
@[simp] theorem State.setDec_ports (v : DecSt) : (s.setDec a v).ports = s.ports := rfl
@[simp] theorem State.setDec_torus (v : DecSt) : (s.setDec a v).torus = s.torus := rfl
@[simp] theorem State.setDec_devs (v : DecSt) : (s.setDec a v).devs = s.devs := rfl
@[simp] theorem State.setDec_poison (v : DecSt) : (s.setDec a v).poison = s.poison := rfl
@[simp] theorem State.setDec_cxl (v : DecSt) : (s.setDec a v).cxl = s.cxl := rfl
@[simp] theorem State.setDec_tlb (v : DecSt) : (s.setDec a v).tlb = s.tlb := rfl
@[simp] theorem State.setDec_locked (v : DecSt) : (s.setDec a v).locked = s.locked := rfl
@[simp] theorem State.setDec_ats (v : DecSt) : (s.setDec a v).ats = s.ats := rfl
@[simp] theorem State.setDec_faults (v : DecSt) : (s.setDec a v).faults = s.faults := rfl
@[simp] theorem State.setDec_ctxs (v : DecSt) : (s.setDec a v).ctxs = s.ctxs := rfl
@[simp] theorem State.setDec_hp (v : DecSt) : (s.setDec a v).hp = s.hp := rfl
@[simp] theorem State.setDec_obs (v : DecSt) : (s.setDec a v).obs = s.obs := rfl
@[simp] theorem State.setDec_fabric (v : DecSt) : (s.setDec a v).fabric = s.fabric := rfl
@[simp] theorem State.setDec_pwr (v : DecSt) : (s.setDec a v).pwr = s.pwr := rfl
@[simp] theorem State.setDec_dies (v : DecSt) : (s.setDec a v).dies = s.dies := rfl
@[simp] theorem State.setDec_sec (v : DecSt) : (s.setDec a v).sec = s.sec := rfl
@[simp] theorem State.setDec_pins (v : DecSt) : (s.setDec a v).pins = s.pins := rfl
@[simp] theorem State.setDec_answer (v : DecSt) : (s.setDec a v).answer = s.answer := rfl
@[simp] theorem State.setDec_fresh (v : DecSt) : (s.setDec a v).fresh = s.fresh := rfl

theorem State.decAt_setDec (v : DecSt) : (s.setDec a v).decAt b = if b = a then v else s.decAt b := by simp [State.decAt, tabGet_tabSet]
@[simp] theorem State.decAt_setDec_self (v : DecSt) : (s.setDec a v).decAt a = v := by simp [State.decAt]

@[simp] theorem State.setGse_pending (v : GseSt) : (s.setGse a v).pending = s.pending := rfl
@[simp] theorem State.setGse_time (v : GseSt) : (s.setGse a v).time = s.time := rfl
@[simp] theorem State.setGse_mem (v : GseSt) : (s.setGse a v).mem = s.mem := rfl
@[simp] theorem State.setGse_host (v : GseSt) : (s.setGse a v).host = s.host := rfl
@[simp] theorem State.setGse_veiled (v : GseSt) : (s.setGse a v).veiled = s.veiled := rfl
@[simp] theorem State.setGse_units (v : GseSt) : (s.setGse a v).units = s.units := rfl
@[simp] theorem State.setGse_queues (v : GseSt) : (s.setGse a v).queues = s.queues := rfl
@[simp] theorem State.setGse_chans (v : GseSt) : (s.setGse a v).chans = s.chans := rfl
@[simp] theorem State.setGse_syncs (v : GseSt) : (s.setGse a v).syncs = s.syncs := rfl
@[simp] theorem State.setGse_watches (v : GseSt) : (s.setGse a v).watches = s.watches := rfl
@[simp] theorem State.setGse_marks (v : GseSt) : (s.setGse a v).marks = s.marks := rfl
@[simp] theorem State.setGse_recfgs (v : GseSt) : (s.setGse a v).recfgs = s.recfgs := rfl
@[simp] theorem State.setGse_mxe (v : GseSt) : (s.setGse a v).mxe = s.mxe := rfl
@[simp] theorem State.setGse_eng (v : GseSt) : (s.setGse a v).eng = s.eng := rfl
@[simp] theorem State.setGse_accDir (v : GseSt) : (s.setGse a v).accDir = s.accDir := rfl
@[simp] theorem State.setGse_vregs (v : GseSt) : (s.setGse a v).vregs = s.vregs := rfl
@[simp] theorem State.setGse_vmask (v : GseSt) : (s.setGse a v).vmask = s.vmask := rfl
@[simp] theorem State.setGse_vx (v : GseSt) : (s.setGse a v).vx = s.vx := rfl
@[simp] theorem State.setGse_recipes (v : GseSt) : (s.setGse a v).recipes = s.recipes := rfl
@[simp] theorem State.setGse_dec (v : GseSt) : (s.setGse a v).dec = s.dec := rfl
@[simp] theorem State.setGse_gse (v : GseSt) : (s.setGse a v).gse = tabSet .reset s.gse a v := rfl
@[simp] theorem State.setGse_rxe (v : GseSt) : (s.setGse a v).rxe = s.rxe := rfl
@[simp] theorem State.setGse_jobs (v : GseSt) : (s.setGse a v).jobs = s.jobs := rfl
@[simp] theorem State.setGse_saves (v : GseSt) : (s.setGse a v).saves = s.saves := rfl
@[simp] theorem State.setGse_ports (v : GseSt) : (s.setGse a v).ports = s.ports := rfl
@[simp] theorem State.setGse_torus (v : GseSt) : (s.setGse a v).torus = s.torus := rfl
@[simp] theorem State.setGse_devs (v : GseSt) : (s.setGse a v).devs = s.devs := rfl
@[simp] theorem State.setGse_poison (v : GseSt) : (s.setGse a v).poison = s.poison := rfl
@[simp] theorem State.setGse_cxl (v : GseSt) : (s.setGse a v).cxl = s.cxl := rfl
@[simp] theorem State.setGse_tlb (v : GseSt) : (s.setGse a v).tlb = s.tlb := rfl
@[simp] theorem State.setGse_locked (v : GseSt) : (s.setGse a v).locked = s.locked := rfl
@[simp] theorem State.setGse_ats (v : GseSt) : (s.setGse a v).ats = s.ats := rfl
@[simp] theorem State.setGse_faults (v : GseSt) : (s.setGse a v).faults = s.faults := rfl
@[simp] theorem State.setGse_ctxs (v : GseSt) : (s.setGse a v).ctxs = s.ctxs := rfl
@[simp] theorem State.setGse_hp (v : GseSt) : (s.setGse a v).hp = s.hp := rfl
@[simp] theorem State.setGse_obs (v : GseSt) : (s.setGse a v).obs = s.obs := rfl
@[simp] theorem State.setGse_fabric (v : GseSt) : (s.setGse a v).fabric = s.fabric := rfl
@[simp] theorem State.setGse_pwr (v : GseSt) : (s.setGse a v).pwr = s.pwr := rfl
@[simp] theorem State.setGse_dies (v : GseSt) : (s.setGse a v).dies = s.dies := rfl
@[simp] theorem State.setGse_sec (v : GseSt) : (s.setGse a v).sec = s.sec := rfl
@[simp] theorem State.setGse_pins (v : GseSt) : (s.setGse a v).pins = s.pins := rfl
@[simp] theorem State.setGse_answer (v : GseSt) : (s.setGse a v).answer = s.answer := rfl
@[simp] theorem State.setGse_fresh (v : GseSt) : (s.setGse a v).fresh = s.fresh := rfl

theorem State.gseAt_setGse (v : GseSt) : (s.setGse a v).gseAt b = if b = a then v else s.gseAt b := by simp [State.gseAt, tabGet_tabSet]
@[simp] theorem State.gseAt_setGse_self (v : GseSt) : (s.setGse a v).gseAt a = v := by simp [State.gseAt]

@[simp] theorem State.setRxe_pending (v : List RxeAcc) : (s.setRxe a v).pending = s.pending := rfl
@[simp] theorem State.setRxe_time (v : List RxeAcc) : (s.setRxe a v).time = s.time := rfl
@[simp] theorem State.setRxe_mem (v : List RxeAcc) : (s.setRxe a v).mem = s.mem := rfl
@[simp] theorem State.setRxe_host (v : List RxeAcc) : (s.setRxe a v).host = s.host := rfl
@[simp] theorem State.setRxe_veiled (v : List RxeAcc) : (s.setRxe a v).veiled = s.veiled := rfl
@[simp] theorem State.setRxe_units (v : List RxeAcc) : (s.setRxe a v).units = s.units := rfl
@[simp] theorem State.setRxe_queues (v : List RxeAcc) : (s.setRxe a v).queues = s.queues := rfl
@[simp] theorem State.setRxe_chans (v : List RxeAcc) : (s.setRxe a v).chans = s.chans := rfl
@[simp] theorem State.setRxe_syncs (v : List RxeAcc) : (s.setRxe a v).syncs = s.syncs := rfl
@[simp] theorem State.setRxe_watches (v : List RxeAcc) : (s.setRxe a v).watches = s.watches := rfl
@[simp] theorem State.setRxe_marks (v : List RxeAcc) : (s.setRxe a v).marks = s.marks := rfl
@[simp] theorem State.setRxe_recfgs (v : List RxeAcc) : (s.setRxe a v).recfgs = s.recfgs := rfl
@[simp] theorem State.setRxe_mxe (v : List RxeAcc) : (s.setRxe a v).mxe = s.mxe := rfl
@[simp] theorem State.setRxe_eng (v : List RxeAcc) : (s.setRxe a v).eng = s.eng := rfl
@[simp] theorem State.setRxe_accDir (v : List RxeAcc) : (s.setRxe a v).accDir = s.accDir := rfl
@[simp] theorem State.setRxe_vregs (v : List RxeAcc) : (s.setRxe a v).vregs = s.vregs := rfl
@[simp] theorem State.setRxe_vmask (v : List RxeAcc) : (s.setRxe a v).vmask = s.vmask := rfl
@[simp] theorem State.setRxe_vx (v : List RxeAcc) : (s.setRxe a v).vx = s.vx := rfl
@[simp] theorem State.setRxe_recipes (v : List RxeAcc) : (s.setRxe a v).recipes = s.recipes := rfl
@[simp] theorem State.setRxe_dec (v : List RxeAcc) : (s.setRxe a v).dec = s.dec := rfl
@[simp] theorem State.setRxe_gse (v : List RxeAcc) : (s.setRxe a v).gse = s.gse := rfl
@[simp] theorem State.setRxe_rxe (v : List RxeAcc) : (s.setRxe a v).rxe = tabSet [] s.rxe a v := rfl
@[simp] theorem State.setRxe_jobs (v : List RxeAcc) : (s.setRxe a v).jobs = s.jobs := rfl
@[simp] theorem State.setRxe_saves (v : List RxeAcc) : (s.setRxe a v).saves = s.saves := rfl
@[simp] theorem State.setRxe_ports (v : List RxeAcc) : (s.setRxe a v).ports = s.ports := rfl
@[simp] theorem State.setRxe_torus (v : List RxeAcc) : (s.setRxe a v).torus = s.torus := rfl
@[simp] theorem State.setRxe_devs (v : List RxeAcc) : (s.setRxe a v).devs = s.devs := rfl
@[simp] theorem State.setRxe_poison (v : List RxeAcc) : (s.setRxe a v).poison = s.poison := rfl
@[simp] theorem State.setRxe_cxl (v : List RxeAcc) : (s.setRxe a v).cxl = s.cxl := rfl
@[simp] theorem State.setRxe_tlb (v : List RxeAcc) : (s.setRxe a v).tlb = s.tlb := rfl
@[simp] theorem State.setRxe_locked (v : List RxeAcc) : (s.setRxe a v).locked = s.locked := rfl
@[simp] theorem State.setRxe_ats (v : List RxeAcc) : (s.setRxe a v).ats = s.ats := rfl
@[simp] theorem State.setRxe_faults (v : List RxeAcc) : (s.setRxe a v).faults = s.faults := rfl
@[simp] theorem State.setRxe_ctxs (v : List RxeAcc) : (s.setRxe a v).ctxs = s.ctxs := rfl
@[simp] theorem State.setRxe_hp (v : List RxeAcc) : (s.setRxe a v).hp = s.hp := rfl
@[simp] theorem State.setRxe_obs (v : List RxeAcc) : (s.setRxe a v).obs = s.obs := rfl
@[simp] theorem State.setRxe_fabric (v : List RxeAcc) : (s.setRxe a v).fabric = s.fabric := rfl
@[simp] theorem State.setRxe_pwr (v : List RxeAcc) : (s.setRxe a v).pwr = s.pwr := rfl
@[simp] theorem State.setRxe_dies (v : List RxeAcc) : (s.setRxe a v).dies = s.dies := rfl
@[simp] theorem State.setRxe_sec (v : List RxeAcc) : (s.setRxe a v).sec = s.sec := rfl
@[simp] theorem State.setRxe_pins (v : List RxeAcc) : (s.setRxe a v).pins = s.pins := rfl
@[simp] theorem State.setRxe_answer (v : List RxeAcc) : (s.setRxe a v).answer = s.answer := rfl
@[simp] theorem State.setRxe_fresh (v : List RxeAcc) : (s.setRxe a v).fresh = s.fresh := rfl

theorem State.rxeAt_setRxe (v : List RxeAcc) : (s.setRxe a v).rxeAt b = if b = a then v else s.rxeAt b := by simp [State.rxeAt, tabGet_tabSet]
@[simp] theorem State.rxeAt_setRxe_self (v : List RxeAcc) : (s.setRxe a v).rxeAt a = v := by simp [State.rxeAt]

@[simp] theorem State.setPort_pending (v : NlPort) : (s.setPort a v).pending = s.pending := rfl
@[simp] theorem State.setPort_time (v : NlPort) : (s.setPort a v).time = s.time := rfl
@[simp] theorem State.setPort_mem (v : NlPort) : (s.setPort a v).mem = s.mem := rfl
@[simp] theorem State.setPort_host (v : NlPort) : (s.setPort a v).host = s.host := rfl
@[simp] theorem State.setPort_veiled (v : NlPort) : (s.setPort a v).veiled = s.veiled := rfl
@[simp] theorem State.setPort_units (v : NlPort) : (s.setPort a v).units = s.units := rfl
@[simp] theorem State.setPort_queues (v : NlPort) : (s.setPort a v).queues = s.queues := rfl
@[simp] theorem State.setPort_chans (v : NlPort) : (s.setPort a v).chans = s.chans := rfl
@[simp] theorem State.setPort_syncs (v : NlPort) : (s.setPort a v).syncs = s.syncs := rfl
@[simp] theorem State.setPort_watches (v : NlPort) : (s.setPort a v).watches = s.watches := rfl
@[simp] theorem State.setPort_marks (v : NlPort) : (s.setPort a v).marks = s.marks := rfl
@[simp] theorem State.setPort_recfgs (v : NlPort) : (s.setPort a v).recfgs = s.recfgs := rfl
@[simp] theorem State.setPort_mxe (v : NlPort) : (s.setPort a v).mxe = s.mxe := rfl
@[simp] theorem State.setPort_eng (v : NlPort) : (s.setPort a v).eng = s.eng := rfl
@[simp] theorem State.setPort_accDir (v : NlPort) : (s.setPort a v).accDir = s.accDir := rfl
@[simp] theorem State.setPort_vregs (v : NlPort) : (s.setPort a v).vregs = s.vregs := rfl
@[simp] theorem State.setPort_vmask (v : NlPort) : (s.setPort a v).vmask = s.vmask := rfl
@[simp] theorem State.setPort_vx (v : NlPort) : (s.setPort a v).vx = s.vx := rfl
@[simp] theorem State.setPort_recipes (v : NlPort) : (s.setPort a v).recipes = s.recipes := rfl
@[simp] theorem State.setPort_dec (v : NlPort) : (s.setPort a v).dec = s.dec := rfl
@[simp] theorem State.setPort_gse (v : NlPort) : (s.setPort a v).gse = s.gse := rfl
@[simp] theorem State.setPort_rxe (v : NlPort) : (s.setPort a v).rxe = s.rxe := rfl
@[simp] theorem State.setPort_jobs (v : NlPort) : (s.setPort a v).jobs = s.jobs := rfl
@[simp] theorem State.setPort_saves (v : NlPort) : (s.setPort a v).saves = s.saves := rfl
@[simp] theorem State.setPort_ports (v : NlPort) : (s.setPort a v).ports = tabSet .reset s.ports a v := rfl
@[simp] theorem State.setPort_torus (v : NlPort) : (s.setPort a v).torus = s.torus := rfl
@[simp] theorem State.setPort_devs (v : NlPort) : (s.setPort a v).devs = s.devs := rfl
@[simp] theorem State.setPort_poison (v : NlPort) : (s.setPort a v).poison = s.poison := rfl
@[simp] theorem State.setPort_cxl (v : NlPort) : (s.setPort a v).cxl = s.cxl := rfl
@[simp] theorem State.setPort_tlb (v : NlPort) : (s.setPort a v).tlb = s.tlb := rfl
@[simp] theorem State.setPort_locked (v : NlPort) : (s.setPort a v).locked = s.locked := rfl
@[simp] theorem State.setPort_ats (v : NlPort) : (s.setPort a v).ats = s.ats := rfl
@[simp] theorem State.setPort_faults (v : NlPort) : (s.setPort a v).faults = s.faults := rfl
@[simp] theorem State.setPort_ctxs (v : NlPort) : (s.setPort a v).ctxs = s.ctxs := rfl
@[simp] theorem State.setPort_hp (v : NlPort) : (s.setPort a v).hp = s.hp := rfl
@[simp] theorem State.setPort_obs (v : NlPort) : (s.setPort a v).obs = s.obs := rfl
@[simp] theorem State.setPort_fabric (v : NlPort) : (s.setPort a v).fabric = s.fabric := rfl
@[simp] theorem State.setPort_pwr (v : NlPort) : (s.setPort a v).pwr = s.pwr := rfl
@[simp] theorem State.setPort_dies (v : NlPort) : (s.setPort a v).dies = s.dies := rfl
@[simp] theorem State.setPort_sec (v : NlPort) : (s.setPort a v).sec = s.sec := rfl
@[simp] theorem State.setPort_pins (v : NlPort) : (s.setPort a v).pins = s.pins := rfl
@[simp] theorem State.setPort_answer (v : NlPort) : (s.setPort a v).answer = s.answer := rfl
@[simp] theorem State.setPort_fresh (v : NlPort) : (s.setPort a v).fresh = s.fresh := rfl

theorem State.port_setPort (v : NlPort) : (s.setPort a v).port b = if b = a then v else s.port b := by simp [State.port, tabGet_tabSet]
@[simp] theorem State.port_setPort_self (v : NlPort) : (s.setPort a v).port a = v := by simp [State.port]

@[simp] theorem State.setDev_pending (v : DevSt) : (s.setDev a v).pending = s.pending := rfl
@[simp] theorem State.setDev_time (v : DevSt) : (s.setDev a v).time = s.time := rfl
@[simp] theorem State.setDev_mem (v : DevSt) : (s.setDev a v).mem = s.mem := rfl
@[simp] theorem State.setDev_host (v : DevSt) : (s.setDev a v).host = s.host := rfl
@[simp] theorem State.setDev_veiled (v : DevSt) : (s.setDev a v).veiled = s.veiled := rfl
@[simp] theorem State.setDev_units (v : DevSt) : (s.setDev a v).units = s.units := rfl
@[simp] theorem State.setDev_queues (v : DevSt) : (s.setDev a v).queues = s.queues := rfl
@[simp] theorem State.setDev_chans (v : DevSt) : (s.setDev a v).chans = s.chans := rfl
@[simp] theorem State.setDev_syncs (v : DevSt) : (s.setDev a v).syncs = s.syncs := rfl
@[simp] theorem State.setDev_watches (v : DevSt) : (s.setDev a v).watches = s.watches := rfl
@[simp] theorem State.setDev_marks (v : DevSt) : (s.setDev a v).marks = s.marks := rfl
@[simp] theorem State.setDev_recfgs (v : DevSt) : (s.setDev a v).recfgs = s.recfgs := rfl
@[simp] theorem State.setDev_mxe (v : DevSt) : (s.setDev a v).mxe = s.mxe := rfl
@[simp] theorem State.setDev_eng (v : DevSt) : (s.setDev a v).eng = s.eng := rfl
@[simp] theorem State.setDev_accDir (v : DevSt) : (s.setDev a v).accDir = s.accDir := rfl
@[simp] theorem State.setDev_vregs (v : DevSt) : (s.setDev a v).vregs = s.vregs := rfl
@[simp] theorem State.setDev_vmask (v : DevSt) : (s.setDev a v).vmask = s.vmask := rfl
@[simp] theorem State.setDev_vx (v : DevSt) : (s.setDev a v).vx = s.vx := rfl
@[simp] theorem State.setDev_recipes (v : DevSt) : (s.setDev a v).recipes = s.recipes := rfl
@[simp] theorem State.setDev_dec (v : DevSt) : (s.setDev a v).dec = s.dec := rfl
@[simp] theorem State.setDev_gse (v : DevSt) : (s.setDev a v).gse = s.gse := rfl
@[simp] theorem State.setDev_rxe (v : DevSt) : (s.setDev a v).rxe = s.rxe := rfl
@[simp] theorem State.setDev_jobs (v : DevSt) : (s.setDev a v).jobs = s.jobs := rfl
@[simp] theorem State.setDev_saves (v : DevSt) : (s.setDev a v).saves = s.saves := rfl
@[simp] theorem State.setDev_ports (v : DevSt) : (s.setDev a v).ports = s.ports := rfl
@[simp] theorem State.setDev_torus (v : DevSt) : (s.setDev a v).torus = s.torus := rfl
@[simp] theorem State.setDev_devs (v : DevSt) : (s.setDev a v).devs = tabSet .reset s.devs a v := rfl
@[simp] theorem State.setDev_poison (v : DevSt) : (s.setDev a v).poison = s.poison := rfl
@[simp] theorem State.setDev_cxl (v : DevSt) : (s.setDev a v).cxl = s.cxl := rfl
@[simp] theorem State.setDev_tlb (v : DevSt) : (s.setDev a v).tlb = s.tlb := rfl
@[simp] theorem State.setDev_locked (v : DevSt) : (s.setDev a v).locked = s.locked := rfl
@[simp] theorem State.setDev_ats (v : DevSt) : (s.setDev a v).ats = s.ats := rfl
@[simp] theorem State.setDev_faults (v : DevSt) : (s.setDev a v).faults = s.faults := rfl
@[simp] theorem State.setDev_ctxs (v : DevSt) : (s.setDev a v).ctxs = s.ctxs := rfl
@[simp] theorem State.setDev_hp (v : DevSt) : (s.setDev a v).hp = s.hp := rfl
@[simp] theorem State.setDev_obs (v : DevSt) : (s.setDev a v).obs = s.obs := rfl
@[simp] theorem State.setDev_fabric (v : DevSt) : (s.setDev a v).fabric = s.fabric := rfl
@[simp] theorem State.setDev_pwr (v : DevSt) : (s.setDev a v).pwr = s.pwr := rfl
@[simp] theorem State.setDev_dies (v : DevSt) : (s.setDev a v).dies = s.dies := rfl
@[simp] theorem State.setDev_sec (v : DevSt) : (s.setDev a v).sec = s.sec := rfl
@[simp] theorem State.setDev_pins (v : DevSt) : (s.setDev a v).pins = s.pins := rfl
@[simp] theorem State.setDev_answer (v : DevSt) : (s.setDev a v).answer = s.answer := rfl
@[simp] theorem State.setDev_fresh (v : DevSt) : (s.setDev a v).fresh = s.fresh := rfl

theorem State.devAt_setDev (v : DevSt) : (s.setDev a v).devAt b = if b = a then v else s.devAt b := by simp [State.devAt, tabGet_tabSet]
@[simp] theorem State.devAt_setDev_self (v : DevSt) : (s.setDev a v).devAt a = v := by simp [State.devAt]

@[simp] theorem State.setPoison_pending (v : Bool) : (s.setPoison a v).pending = s.pending := rfl
@[simp] theorem State.setPoison_time (v : Bool) : (s.setPoison a v).time = s.time := rfl
@[simp] theorem State.setPoison_mem (v : Bool) : (s.setPoison a v).mem = s.mem := rfl
@[simp] theorem State.setPoison_host (v : Bool) : (s.setPoison a v).host = s.host := rfl
@[simp] theorem State.setPoison_veiled (v : Bool) : (s.setPoison a v).veiled = s.veiled := rfl
@[simp] theorem State.setPoison_units (v : Bool) : (s.setPoison a v).units = s.units := rfl
@[simp] theorem State.setPoison_queues (v : Bool) : (s.setPoison a v).queues = s.queues := rfl
@[simp] theorem State.setPoison_chans (v : Bool) : (s.setPoison a v).chans = s.chans := rfl
@[simp] theorem State.setPoison_syncs (v : Bool) : (s.setPoison a v).syncs = s.syncs := rfl
@[simp] theorem State.setPoison_watches (v : Bool) : (s.setPoison a v).watches = s.watches := rfl
@[simp] theorem State.setPoison_marks (v : Bool) : (s.setPoison a v).marks = s.marks := rfl
@[simp] theorem State.setPoison_recfgs (v : Bool) : (s.setPoison a v).recfgs = s.recfgs := rfl
@[simp] theorem State.setPoison_mxe (v : Bool) : (s.setPoison a v).mxe = s.mxe := rfl
@[simp] theorem State.setPoison_eng (v : Bool) : (s.setPoison a v).eng = s.eng := rfl
@[simp] theorem State.setPoison_accDir (v : Bool) : (s.setPoison a v).accDir = s.accDir := rfl
@[simp] theorem State.setPoison_vregs (v : Bool) : (s.setPoison a v).vregs = s.vregs := rfl
@[simp] theorem State.setPoison_vmask (v : Bool) : (s.setPoison a v).vmask = s.vmask := rfl
@[simp] theorem State.setPoison_vx (v : Bool) : (s.setPoison a v).vx = s.vx := rfl
@[simp] theorem State.setPoison_recipes (v : Bool) : (s.setPoison a v).recipes = s.recipes := rfl
@[simp] theorem State.setPoison_dec (v : Bool) : (s.setPoison a v).dec = s.dec := rfl
@[simp] theorem State.setPoison_gse (v : Bool) : (s.setPoison a v).gse = s.gse := rfl
@[simp] theorem State.setPoison_rxe (v : Bool) : (s.setPoison a v).rxe = s.rxe := rfl
@[simp] theorem State.setPoison_jobs (v : Bool) : (s.setPoison a v).jobs = s.jobs := rfl
@[simp] theorem State.setPoison_saves (v : Bool) : (s.setPoison a v).saves = s.saves := rfl
@[simp] theorem State.setPoison_ports (v : Bool) : (s.setPoison a v).ports = s.ports := rfl
@[simp] theorem State.setPoison_torus (v : Bool) : (s.setPoison a v).torus = s.torus := rfl
@[simp] theorem State.setPoison_devs (v : Bool) : (s.setPoison a v).devs = s.devs := rfl
@[simp] theorem State.setPoison_poison (v : Bool) : (s.setPoison a v).poison = tabSet false s.poison a v := rfl
@[simp] theorem State.setPoison_cxl (v : Bool) : (s.setPoison a v).cxl = s.cxl := rfl
@[simp] theorem State.setPoison_tlb (v : Bool) : (s.setPoison a v).tlb = s.tlb := rfl
@[simp] theorem State.setPoison_locked (v : Bool) : (s.setPoison a v).locked = s.locked := rfl
@[simp] theorem State.setPoison_ats (v : Bool) : (s.setPoison a v).ats = s.ats := rfl
@[simp] theorem State.setPoison_faults (v : Bool) : (s.setPoison a v).faults = s.faults := rfl
@[simp] theorem State.setPoison_ctxs (v : Bool) : (s.setPoison a v).ctxs = s.ctxs := rfl
@[simp] theorem State.setPoison_hp (v : Bool) : (s.setPoison a v).hp = s.hp := rfl
@[simp] theorem State.setPoison_obs (v : Bool) : (s.setPoison a v).obs = s.obs := rfl
@[simp] theorem State.setPoison_fabric (v : Bool) : (s.setPoison a v).fabric = s.fabric := rfl
@[simp] theorem State.setPoison_pwr (v : Bool) : (s.setPoison a v).pwr = s.pwr := rfl
@[simp] theorem State.setPoison_dies (v : Bool) : (s.setPoison a v).dies = s.dies := rfl
@[simp] theorem State.setPoison_sec (v : Bool) : (s.setPoison a v).sec = s.sec := rfl
@[simp] theorem State.setPoison_pins (v : Bool) : (s.setPoison a v).pins = s.pins := rfl
@[simp] theorem State.setPoison_answer (v : Bool) : (s.setPoison a v).answer = s.answer := rfl
@[simp] theorem State.setPoison_fresh (v : Bool) : (s.setPoison a v).fresh = s.fresh := rfl

theorem State.poisoned_setPoison (v : Bool) : (s.setPoison a v).poisoned b = if b = a then v else s.poisoned b := by simp [State.poisoned, tabGet_tabSet]
@[simp] theorem State.poisoned_setPoison_self (v : Bool) : (s.setPoison a v).poisoned a = v := by simp [State.poisoned]

@[simp] theorem State.setCxl_pending (v : CxlPort) : (s.setCxl a v).pending = s.pending := rfl
@[simp] theorem State.setCxl_time (v : CxlPort) : (s.setCxl a v).time = s.time := rfl
@[simp] theorem State.setCxl_mem (v : CxlPort) : (s.setCxl a v).mem = s.mem := rfl
@[simp] theorem State.setCxl_host (v : CxlPort) : (s.setCxl a v).host = s.host := rfl
@[simp] theorem State.setCxl_veiled (v : CxlPort) : (s.setCxl a v).veiled = s.veiled := rfl
@[simp] theorem State.setCxl_units (v : CxlPort) : (s.setCxl a v).units = s.units := rfl
@[simp] theorem State.setCxl_queues (v : CxlPort) : (s.setCxl a v).queues = s.queues := rfl
@[simp] theorem State.setCxl_chans (v : CxlPort) : (s.setCxl a v).chans = s.chans := rfl
@[simp] theorem State.setCxl_syncs (v : CxlPort) : (s.setCxl a v).syncs = s.syncs := rfl
@[simp] theorem State.setCxl_watches (v : CxlPort) : (s.setCxl a v).watches = s.watches := rfl
@[simp] theorem State.setCxl_marks (v : CxlPort) : (s.setCxl a v).marks = s.marks := rfl
@[simp] theorem State.setCxl_recfgs (v : CxlPort) : (s.setCxl a v).recfgs = s.recfgs := rfl
@[simp] theorem State.setCxl_mxe (v : CxlPort) : (s.setCxl a v).mxe = s.mxe := rfl
@[simp] theorem State.setCxl_eng (v : CxlPort) : (s.setCxl a v).eng = s.eng := rfl
@[simp] theorem State.setCxl_accDir (v : CxlPort) : (s.setCxl a v).accDir = s.accDir := rfl
@[simp] theorem State.setCxl_vregs (v : CxlPort) : (s.setCxl a v).vregs = s.vregs := rfl
@[simp] theorem State.setCxl_vmask (v : CxlPort) : (s.setCxl a v).vmask = s.vmask := rfl
@[simp] theorem State.setCxl_vx (v : CxlPort) : (s.setCxl a v).vx = s.vx := rfl
@[simp] theorem State.setCxl_recipes (v : CxlPort) : (s.setCxl a v).recipes = s.recipes := rfl
@[simp] theorem State.setCxl_dec (v : CxlPort) : (s.setCxl a v).dec = s.dec := rfl
@[simp] theorem State.setCxl_gse (v : CxlPort) : (s.setCxl a v).gse = s.gse := rfl
@[simp] theorem State.setCxl_rxe (v : CxlPort) : (s.setCxl a v).rxe = s.rxe := rfl
@[simp] theorem State.setCxl_jobs (v : CxlPort) : (s.setCxl a v).jobs = s.jobs := rfl
@[simp] theorem State.setCxl_saves (v : CxlPort) : (s.setCxl a v).saves = s.saves := rfl
@[simp] theorem State.setCxl_ports (v : CxlPort) : (s.setCxl a v).ports = s.ports := rfl
@[simp] theorem State.setCxl_torus (v : CxlPort) : (s.setCxl a v).torus = s.torus := rfl
@[simp] theorem State.setCxl_devs (v : CxlPort) : (s.setCxl a v).devs = s.devs := rfl
@[simp] theorem State.setCxl_poison (v : CxlPort) : (s.setCxl a v).poison = s.poison := rfl
@[simp] theorem State.setCxl_cxl (v : CxlPort) : (s.setCxl a v).cxl = tabSet .reset s.cxl a v := rfl
@[simp] theorem State.setCxl_tlb (v : CxlPort) : (s.setCxl a v).tlb = s.tlb := rfl
@[simp] theorem State.setCxl_locked (v : CxlPort) : (s.setCxl a v).locked = s.locked := rfl
@[simp] theorem State.setCxl_ats (v : CxlPort) : (s.setCxl a v).ats = s.ats := rfl
@[simp] theorem State.setCxl_faults (v : CxlPort) : (s.setCxl a v).faults = s.faults := rfl
@[simp] theorem State.setCxl_ctxs (v : CxlPort) : (s.setCxl a v).ctxs = s.ctxs := rfl
@[simp] theorem State.setCxl_hp (v : CxlPort) : (s.setCxl a v).hp = s.hp := rfl
@[simp] theorem State.setCxl_obs (v : CxlPort) : (s.setCxl a v).obs = s.obs := rfl
@[simp] theorem State.setCxl_fabric (v : CxlPort) : (s.setCxl a v).fabric = s.fabric := rfl
@[simp] theorem State.setCxl_pwr (v : CxlPort) : (s.setCxl a v).pwr = s.pwr := rfl
@[simp] theorem State.setCxl_dies (v : CxlPort) : (s.setCxl a v).dies = s.dies := rfl
@[simp] theorem State.setCxl_sec (v : CxlPort) : (s.setCxl a v).sec = s.sec := rfl
@[simp] theorem State.setCxl_pins (v : CxlPort) : (s.setCxl a v).pins = s.pins := rfl
@[simp] theorem State.setCxl_answer (v : CxlPort) : (s.setCxl a v).answer = s.answer := rfl
@[simp] theorem State.setCxl_fresh (v : CxlPort) : (s.setCxl a v).fresh = s.fresh := rfl

theorem State.cxlAt_setCxl (v : CxlPort) : (s.setCxl a v).cxlAt b = if b = a then v else s.cxlAt b := by simp [State.cxlAt, tabGet_tabSet]
@[simp] theorem State.cxlAt_setCxl_self (v : CxlPort) : (s.setCxl a v).cxlAt a = v := by simp [State.cxlAt]

@[simp] theorem State.setCtx_pending (v : CtxSt) : (s.setCtx a v).pending = s.pending := rfl
@[simp] theorem State.setCtx_time (v : CtxSt) : (s.setCtx a v).time = s.time := rfl
@[simp] theorem State.setCtx_mem (v : CtxSt) : (s.setCtx a v).mem = s.mem := rfl
@[simp] theorem State.setCtx_host (v : CtxSt) : (s.setCtx a v).host = s.host := rfl
@[simp] theorem State.setCtx_veiled (v : CtxSt) : (s.setCtx a v).veiled = s.veiled := rfl
@[simp] theorem State.setCtx_units (v : CtxSt) : (s.setCtx a v).units = s.units := rfl
@[simp] theorem State.setCtx_queues (v : CtxSt) : (s.setCtx a v).queues = s.queues := rfl
@[simp] theorem State.setCtx_chans (v : CtxSt) : (s.setCtx a v).chans = s.chans := rfl
@[simp] theorem State.setCtx_syncs (v : CtxSt) : (s.setCtx a v).syncs = s.syncs := rfl
@[simp] theorem State.setCtx_watches (v : CtxSt) : (s.setCtx a v).watches = s.watches := rfl
@[simp] theorem State.setCtx_marks (v : CtxSt) : (s.setCtx a v).marks = s.marks := rfl
@[simp] theorem State.setCtx_recfgs (v : CtxSt) : (s.setCtx a v).recfgs = s.recfgs := rfl
@[simp] theorem State.setCtx_mxe (v : CtxSt) : (s.setCtx a v).mxe = s.mxe := rfl
@[simp] theorem State.setCtx_eng (v : CtxSt) : (s.setCtx a v).eng = s.eng := rfl
@[simp] theorem State.setCtx_accDir (v : CtxSt) : (s.setCtx a v).accDir = s.accDir := rfl
@[simp] theorem State.setCtx_vregs (v : CtxSt) : (s.setCtx a v).vregs = s.vregs := rfl
@[simp] theorem State.setCtx_vmask (v : CtxSt) : (s.setCtx a v).vmask = s.vmask := rfl
@[simp] theorem State.setCtx_vx (v : CtxSt) : (s.setCtx a v).vx = s.vx := rfl
@[simp] theorem State.setCtx_recipes (v : CtxSt) : (s.setCtx a v).recipes = s.recipes := rfl
@[simp] theorem State.setCtx_dec (v : CtxSt) : (s.setCtx a v).dec = s.dec := rfl
@[simp] theorem State.setCtx_gse (v : CtxSt) : (s.setCtx a v).gse = s.gse := rfl
@[simp] theorem State.setCtx_rxe (v : CtxSt) : (s.setCtx a v).rxe = s.rxe := rfl
@[simp] theorem State.setCtx_jobs (v : CtxSt) : (s.setCtx a v).jobs = s.jobs := rfl
@[simp] theorem State.setCtx_saves (v : CtxSt) : (s.setCtx a v).saves = s.saves := rfl
@[simp] theorem State.setCtx_ports (v : CtxSt) : (s.setCtx a v).ports = s.ports := rfl
@[simp] theorem State.setCtx_torus (v : CtxSt) : (s.setCtx a v).torus = s.torus := rfl
@[simp] theorem State.setCtx_devs (v : CtxSt) : (s.setCtx a v).devs = s.devs := rfl
@[simp] theorem State.setCtx_poison (v : CtxSt) : (s.setCtx a v).poison = s.poison := rfl
@[simp] theorem State.setCtx_cxl (v : CtxSt) : (s.setCtx a v).cxl = s.cxl := rfl
@[simp] theorem State.setCtx_tlb (v : CtxSt) : (s.setCtx a v).tlb = s.tlb := rfl
@[simp] theorem State.setCtx_locked (v : CtxSt) : (s.setCtx a v).locked = s.locked := rfl
@[simp] theorem State.setCtx_ats (v : CtxSt) : (s.setCtx a v).ats = s.ats := rfl
@[simp] theorem State.setCtx_faults (v : CtxSt) : (s.setCtx a v).faults = s.faults := rfl
@[simp] theorem State.setCtx_ctxs (v : CtxSt) : (s.setCtx a v).ctxs = tabSet (.resetAt a) s.ctxs a v := rfl
@[simp] theorem State.setCtx_hp (v : CtxSt) : (s.setCtx a v).hp = s.hp := rfl
@[simp] theorem State.setCtx_obs (v : CtxSt) : (s.setCtx a v).obs = s.obs := rfl
@[simp] theorem State.setCtx_fabric (v : CtxSt) : (s.setCtx a v).fabric = s.fabric := rfl
@[simp] theorem State.setCtx_pwr (v : CtxSt) : (s.setCtx a v).pwr = s.pwr := rfl
@[simp] theorem State.setCtx_dies (v : CtxSt) : (s.setCtx a v).dies = s.dies := rfl
@[simp] theorem State.setCtx_sec (v : CtxSt) : (s.setCtx a v).sec = s.sec := rfl
@[simp] theorem State.setCtx_pins (v : CtxSt) : (s.setCtx a v).pins = s.pins := rfl
@[simp] theorem State.setCtx_answer (v : CtxSt) : (s.setCtx a v).answer = s.answer := rfl
@[simp] theorem State.setCtx_fresh (v : CtxSt) : (s.setCtx a v).fresh = s.fresh := rfl

@[simp] theorem State.ctxAt_setCtx (v : CtxSt) : (s.setCtx a v).ctxAt a = v := by simp [State.ctxAt]
@[simp] theorem State.ctxAt_setCtx_other (v : CtxSt) (h : b ≠ a) : (s.setCtx a v).ctxAt b = s.ctxAt b := by
  simp only [State.ctxAt, State.setCtx_ctxs]
  exact tabGet_tabSet_mixed _ _ _ _ _ _ h

@[simp] theorem State.setHp_pending (v : HostPort) : (s.setHp a v).pending = s.pending := rfl
@[simp] theorem State.setHp_time (v : HostPort) : (s.setHp a v).time = s.time := rfl
@[simp] theorem State.setHp_mem (v : HostPort) : (s.setHp a v).mem = s.mem := rfl
@[simp] theorem State.setHp_host (v : HostPort) : (s.setHp a v).host = s.host := rfl
@[simp] theorem State.setHp_veiled (v : HostPort) : (s.setHp a v).veiled = s.veiled := rfl
@[simp] theorem State.setHp_units (v : HostPort) : (s.setHp a v).units = s.units := rfl
@[simp] theorem State.setHp_queues (v : HostPort) : (s.setHp a v).queues = s.queues := rfl
@[simp] theorem State.setHp_chans (v : HostPort) : (s.setHp a v).chans = s.chans := rfl
@[simp] theorem State.setHp_syncs (v : HostPort) : (s.setHp a v).syncs = s.syncs := rfl
@[simp] theorem State.setHp_watches (v : HostPort) : (s.setHp a v).watches = s.watches := rfl
@[simp] theorem State.setHp_marks (v : HostPort) : (s.setHp a v).marks = s.marks := rfl
@[simp] theorem State.setHp_recfgs (v : HostPort) : (s.setHp a v).recfgs = s.recfgs := rfl
@[simp] theorem State.setHp_mxe (v : HostPort) : (s.setHp a v).mxe = s.mxe := rfl
@[simp] theorem State.setHp_eng (v : HostPort) : (s.setHp a v).eng = s.eng := rfl
@[simp] theorem State.setHp_accDir (v : HostPort) : (s.setHp a v).accDir = s.accDir := rfl
@[simp] theorem State.setHp_vregs (v : HostPort) : (s.setHp a v).vregs = s.vregs := rfl
@[simp] theorem State.setHp_vmask (v : HostPort) : (s.setHp a v).vmask = s.vmask := rfl
@[simp] theorem State.setHp_vx (v : HostPort) : (s.setHp a v).vx = s.vx := rfl
@[simp] theorem State.setHp_recipes (v : HostPort) : (s.setHp a v).recipes = s.recipes := rfl
@[simp] theorem State.setHp_dec (v : HostPort) : (s.setHp a v).dec = s.dec := rfl
@[simp] theorem State.setHp_gse (v : HostPort) : (s.setHp a v).gse = s.gse := rfl
@[simp] theorem State.setHp_rxe (v : HostPort) : (s.setHp a v).rxe = s.rxe := rfl
@[simp] theorem State.setHp_jobs (v : HostPort) : (s.setHp a v).jobs = s.jobs := rfl
@[simp] theorem State.setHp_saves (v : HostPort) : (s.setHp a v).saves = s.saves := rfl
@[simp] theorem State.setHp_ports (v : HostPort) : (s.setHp a v).ports = s.ports := rfl
@[simp] theorem State.setHp_torus (v : HostPort) : (s.setHp a v).torus = s.torus := rfl
@[simp] theorem State.setHp_devs (v : HostPort) : (s.setHp a v).devs = s.devs := rfl
@[simp] theorem State.setHp_poison (v : HostPort) : (s.setHp a v).poison = s.poison := rfl
@[simp] theorem State.setHp_cxl (v : HostPort) : (s.setHp a v).cxl = s.cxl := rfl
@[simp] theorem State.setHp_tlb (v : HostPort) : (s.setHp a v).tlb = s.tlb := rfl
@[simp] theorem State.setHp_locked (v : HostPort) : (s.setHp a v).locked = s.locked := rfl
@[simp] theorem State.setHp_ats (v : HostPort) : (s.setHp a v).ats = s.ats := rfl
@[simp] theorem State.setHp_faults (v : HostPort) : (s.setHp a v).faults = s.faults := rfl
@[simp] theorem State.setHp_ctxs (v : HostPort) : (s.setHp a v).ctxs = s.ctxs := rfl
@[simp] theorem State.setHp_hp (v : HostPort) : (s.setHp a v).hp = tabSet (.resetAt a) s.hp a v := rfl
@[simp] theorem State.setHp_obs (v : HostPort) : (s.setHp a v).obs = s.obs := rfl
@[simp] theorem State.setHp_fabric (v : HostPort) : (s.setHp a v).fabric = s.fabric := rfl
@[simp] theorem State.setHp_pwr (v : HostPort) : (s.setHp a v).pwr = s.pwr := rfl
@[simp] theorem State.setHp_dies (v : HostPort) : (s.setHp a v).dies = s.dies := rfl
@[simp] theorem State.setHp_sec (v : HostPort) : (s.setHp a v).sec = s.sec := rfl
@[simp] theorem State.setHp_pins (v : HostPort) : (s.setHp a v).pins = s.pins := rfl
@[simp] theorem State.setHp_answer (v : HostPort) : (s.setHp a v).answer = s.answer := rfl
@[simp] theorem State.setHp_fresh (v : HostPort) : (s.setHp a v).fresh = s.fresh := rfl

@[simp] theorem State.hpAt_setHp (v : HostPort) : (s.setHp a v).hpAt a = v := by simp [State.hpAt]
@[simp] theorem State.hpAt_setHp_other (v : HostPort) (h : b ≠ a) : (s.setHp a v).hpAt b = s.hpAt b := by
  simp only [State.hpAt, State.setHp_hp]
  exact tabGet_tabSet_mixed _ _ _ _ _ _ h

@[simp] theorem State.setDie_pending (v : DieSt) : (s.setDie a v).pending = s.pending := rfl
@[simp] theorem State.setDie_time (v : DieSt) : (s.setDie a v).time = s.time := rfl
@[simp] theorem State.setDie_mem (v : DieSt) : (s.setDie a v).mem = s.mem := rfl
@[simp] theorem State.setDie_host (v : DieSt) : (s.setDie a v).host = s.host := rfl
@[simp] theorem State.setDie_veiled (v : DieSt) : (s.setDie a v).veiled = s.veiled := rfl
@[simp] theorem State.setDie_units (v : DieSt) : (s.setDie a v).units = s.units := rfl
@[simp] theorem State.setDie_queues (v : DieSt) : (s.setDie a v).queues = s.queues := rfl
@[simp] theorem State.setDie_chans (v : DieSt) : (s.setDie a v).chans = s.chans := rfl
@[simp] theorem State.setDie_syncs (v : DieSt) : (s.setDie a v).syncs = s.syncs := rfl
@[simp] theorem State.setDie_watches (v : DieSt) : (s.setDie a v).watches = s.watches := rfl
@[simp] theorem State.setDie_marks (v : DieSt) : (s.setDie a v).marks = s.marks := rfl
@[simp] theorem State.setDie_recfgs (v : DieSt) : (s.setDie a v).recfgs = s.recfgs := rfl
@[simp] theorem State.setDie_mxe (v : DieSt) : (s.setDie a v).mxe = s.mxe := rfl
@[simp] theorem State.setDie_eng (v : DieSt) : (s.setDie a v).eng = s.eng := rfl
@[simp] theorem State.setDie_accDir (v : DieSt) : (s.setDie a v).accDir = s.accDir := rfl
@[simp] theorem State.setDie_vregs (v : DieSt) : (s.setDie a v).vregs = s.vregs := rfl
@[simp] theorem State.setDie_vmask (v : DieSt) : (s.setDie a v).vmask = s.vmask := rfl
@[simp] theorem State.setDie_vx (v : DieSt) : (s.setDie a v).vx = s.vx := rfl
@[simp] theorem State.setDie_recipes (v : DieSt) : (s.setDie a v).recipes = s.recipes := rfl
@[simp] theorem State.setDie_dec (v : DieSt) : (s.setDie a v).dec = s.dec := rfl
@[simp] theorem State.setDie_gse (v : DieSt) : (s.setDie a v).gse = s.gse := rfl
@[simp] theorem State.setDie_rxe (v : DieSt) : (s.setDie a v).rxe = s.rxe := rfl
@[simp] theorem State.setDie_jobs (v : DieSt) : (s.setDie a v).jobs = s.jobs := rfl
@[simp] theorem State.setDie_saves (v : DieSt) : (s.setDie a v).saves = s.saves := rfl
@[simp] theorem State.setDie_ports (v : DieSt) : (s.setDie a v).ports = s.ports := rfl
@[simp] theorem State.setDie_torus (v : DieSt) : (s.setDie a v).torus = s.torus := rfl
@[simp] theorem State.setDie_devs (v : DieSt) : (s.setDie a v).devs = s.devs := rfl
@[simp] theorem State.setDie_poison (v : DieSt) : (s.setDie a v).poison = s.poison := rfl
@[simp] theorem State.setDie_cxl (v : DieSt) : (s.setDie a v).cxl = s.cxl := rfl
@[simp] theorem State.setDie_tlb (v : DieSt) : (s.setDie a v).tlb = s.tlb := rfl
@[simp] theorem State.setDie_locked (v : DieSt) : (s.setDie a v).locked = s.locked := rfl
@[simp] theorem State.setDie_ats (v : DieSt) : (s.setDie a v).ats = s.ats := rfl
@[simp] theorem State.setDie_faults (v : DieSt) : (s.setDie a v).faults = s.faults := rfl
@[simp] theorem State.setDie_ctxs (v : DieSt) : (s.setDie a v).ctxs = s.ctxs := rfl
@[simp] theorem State.setDie_hp (v : DieSt) : (s.setDie a v).hp = s.hp := rfl
@[simp] theorem State.setDie_obs (v : DieSt) : (s.setDie a v).obs = s.obs := rfl
@[simp] theorem State.setDie_fabric (v : DieSt) : (s.setDie a v).fabric = s.fabric := rfl
@[simp] theorem State.setDie_pwr (v : DieSt) : (s.setDie a v).pwr = s.pwr := rfl
@[simp] theorem State.setDie_dies (v : DieSt) : (s.setDie a v).dies = tabSet .reset s.dies a v := rfl
@[simp] theorem State.setDie_sec (v : DieSt) : (s.setDie a v).sec = s.sec := rfl
@[simp] theorem State.setDie_pins (v : DieSt) : (s.setDie a v).pins = s.pins := rfl
@[simp] theorem State.setDie_answer (v : DieSt) : (s.setDie a v).answer = s.answer := rfl
@[simp] theorem State.setDie_fresh (v : DieSt) : (s.setDie a v).fresh = s.fresh := rfl

theorem State.dieAt_setDie (v : DieSt) : (s.setDie a v).dieAt b = if b = a then v else s.dieAt b := by simp [State.dieAt, tabGet_tabSet]
@[simp] theorem State.dieAt_setDie_self (v : DieSt) : (s.setDie a v).dieAt a = v := by simp [State.dieAt]

@[simp] theorem State.setVreg_pending (v : VReg) : (s.setVreg a b v).pending = s.pending := rfl
@[simp] theorem State.setVreg_time (v : VReg) : (s.setVreg a b v).time = s.time := rfl
@[simp] theorem State.setVreg_mem (v : VReg) : (s.setVreg a b v).mem = s.mem := rfl
@[simp] theorem State.setVreg_host (v : VReg) : (s.setVreg a b v).host = s.host := rfl
@[simp] theorem State.setVreg_veiled (v : VReg) : (s.setVreg a b v).veiled = s.veiled := rfl
@[simp] theorem State.setVreg_units (v : VReg) : (s.setVreg a b v).units = s.units := rfl
@[simp] theorem State.setVreg_queues (v : VReg) : (s.setVreg a b v).queues = s.queues := rfl
@[simp] theorem State.setVreg_chans (v : VReg) : (s.setVreg a b v).chans = s.chans := rfl
@[simp] theorem State.setVreg_syncs (v : VReg) : (s.setVreg a b v).syncs = s.syncs := rfl
@[simp] theorem State.setVreg_watches (v : VReg) : (s.setVreg a b v).watches = s.watches := rfl
@[simp] theorem State.setVreg_marks (v : VReg) : (s.setVreg a b v).marks = s.marks := rfl
@[simp] theorem State.setVreg_recfgs (v : VReg) : (s.setVreg a b v).recfgs = s.recfgs := rfl
@[simp] theorem State.setVreg_mxe (v : VReg) : (s.setVreg a b v).mxe = s.mxe := rfl
@[simp] theorem State.setVreg_eng (v : VReg) : (s.setVreg a b v).eng = s.eng := rfl
@[simp] theorem State.setVreg_accDir (v : VReg) : (s.setVreg a b v).accDir = s.accDir := rfl
@[simp] theorem State.setVreg_vregs (v : VReg) : (s.setVreg a b v).vregs = tabSet .reset s.vregs (64 * a + b) v := rfl
@[simp] theorem State.setVreg_vmask (v : VReg) : (s.setVreg a b v).vmask = s.vmask := rfl
@[simp] theorem State.setVreg_vx (v : VReg) : (s.setVreg a b v).vx = s.vx := rfl
@[simp] theorem State.setVreg_recipes (v : VReg) : (s.setVreg a b v).recipes = s.recipes := rfl
@[simp] theorem State.setVreg_dec (v : VReg) : (s.setVreg a b v).dec = s.dec := rfl
@[simp] theorem State.setVreg_gse (v : VReg) : (s.setVreg a b v).gse = s.gse := rfl
@[simp] theorem State.setVreg_rxe (v : VReg) : (s.setVreg a b v).rxe = s.rxe := rfl
@[simp] theorem State.setVreg_jobs (v : VReg) : (s.setVreg a b v).jobs = s.jobs := rfl
@[simp] theorem State.setVreg_saves (v : VReg) : (s.setVreg a b v).saves = s.saves := rfl
@[simp] theorem State.setVreg_ports (v : VReg) : (s.setVreg a b v).ports = s.ports := rfl
@[simp] theorem State.setVreg_torus (v : VReg) : (s.setVreg a b v).torus = s.torus := rfl
@[simp] theorem State.setVreg_devs (v : VReg) : (s.setVreg a b v).devs = s.devs := rfl
@[simp] theorem State.setVreg_poison (v : VReg) : (s.setVreg a b v).poison = s.poison := rfl
@[simp] theorem State.setVreg_cxl (v : VReg) : (s.setVreg a b v).cxl = s.cxl := rfl
@[simp] theorem State.setVreg_tlb (v : VReg) : (s.setVreg a b v).tlb = s.tlb := rfl
@[simp] theorem State.setVreg_locked (v : VReg) : (s.setVreg a b v).locked = s.locked := rfl
@[simp] theorem State.setVreg_ats (v : VReg) : (s.setVreg a b v).ats = s.ats := rfl
@[simp] theorem State.setVreg_faults (v : VReg) : (s.setVreg a b v).faults = s.faults := rfl
@[simp] theorem State.setVreg_ctxs (v : VReg) : (s.setVreg a b v).ctxs = s.ctxs := rfl
@[simp] theorem State.setVreg_hp (v : VReg) : (s.setVreg a b v).hp = s.hp := rfl
@[simp] theorem State.setVreg_obs (v : VReg) : (s.setVreg a b v).obs = s.obs := rfl
@[simp] theorem State.setVreg_fabric (v : VReg) : (s.setVreg a b v).fabric = s.fabric := rfl
@[simp] theorem State.setVreg_pwr (v : VReg) : (s.setVreg a b v).pwr = s.pwr := rfl
@[simp] theorem State.setVreg_dies (v : VReg) : (s.setVreg a b v).dies = s.dies := rfl
@[simp] theorem State.setVreg_sec (v : VReg) : (s.setVreg a b v).sec = s.sec := rfl
@[simp] theorem State.setVreg_pins (v : VReg) : (s.setVreg a b v).pins = s.pins := rfl
@[simp] theorem State.setVreg_answer (v : VReg) : (s.setVreg a b v).answer = s.answer := rfl
@[simp] theorem State.setVreg_fresh (v : VReg) : (s.setVreg a b v).fresh = s.fresh := rfl

@[simp] theorem State.vreg_setVreg_self (v : VReg) : (s.setVreg a b v).vreg a b = v := by simp [State.vreg]

@[simp] theorem State.setTrace_pending (v : TraceSt) : (s.setTrace a v).pending = s.pending := rfl
@[simp] theorem State.setTrace_time (v : TraceSt) : (s.setTrace a v).time = s.time := rfl
@[simp] theorem State.setTrace_mem (v : TraceSt) : (s.setTrace a v).mem = s.mem := rfl
@[simp] theorem State.setTrace_host (v : TraceSt) : (s.setTrace a v).host = s.host := rfl
@[simp] theorem State.setTrace_veiled (v : TraceSt) : (s.setTrace a v).veiled = s.veiled := rfl
@[simp] theorem State.setTrace_units (v : TraceSt) : (s.setTrace a v).units = s.units := rfl
@[simp] theorem State.setTrace_queues (v : TraceSt) : (s.setTrace a v).queues = s.queues := rfl
@[simp] theorem State.setTrace_chans (v : TraceSt) : (s.setTrace a v).chans = s.chans := rfl
@[simp] theorem State.setTrace_syncs (v : TraceSt) : (s.setTrace a v).syncs = s.syncs := rfl
@[simp] theorem State.setTrace_watches (v : TraceSt) : (s.setTrace a v).watches = s.watches := rfl
@[simp] theorem State.setTrace_marks (v : TraceSt) : (s.setTrace a v).marks = s.marks := rfl
@[simp] theorem State.setTrace_recfgs (v : TraceSt) : (s.setTrace a v).recfgs = s.recfgs := rfl
@[simp] theorem State.setTrace_mxe (v : TraceSt) : (s.setTrace a v).mxe = s.mxe := rfl
@[simp] theorem State.setTrace_eng (v : TraceSt) : (s.setTrace a v).eng = s.eng := rfl
@[simp] theorem State.setTrace_accDir (v : TraceSt) : (s.setTrace a v).accDir = s.accDir := rfl
@[simp] theorem State.setTrace_vregs (v : TraceSt) : (s.setTrace a v).vregs = s.vregs := rfl
@[simp] theorem State.setTrace_vmask (v : TraceSt) : (s.setTrace a v).vmask = s.vmask := rfl
@[simp] theorem State.setTrace_vx (v : TraceSt) : (s.setTrace a v).vx = s.vx := rfl
@[simp] theorem State.setTrace_recipes (v : TraceSt) : (s.setTrace a v).recipes = s.recipes := rfl
@[simp] theorem State.setTrace_dec (v : TraceSt) : (s.setTrace a v).dec = s.dec := rfl
@[simp] theorem State.setTrace_gse (v : TraceSt) : (s.setTrace a v).gse = s.gse := rfl
@[simp] theorem State.setTrace_rxe (v : TraceSt) : (s.setTrace a v).rxe = s.rxe := rfl
@[simp] theorem State.setTrace_jobs (v : TraceSt) : (s.setTrace a v).jobs = s.jobs := rfl
@[simp] theorem State.setTrace_saves (v : TraceSt) : (s.setTrace a v).saves = s.saves := rfl
@[simp] theorem State.setTrace_ports (v : TraceSt) : (s.setTrace a v).ports = s.ports := rfl
@[simp] theorem State.setTrace_torus (v : TraceSt) : (s.setTrace a v).torus = s.torus := rfl
@[simp] theorem State.setTrace_devs (v : TraceSt) : (s.setTrace a v).devs = s.devs := rfl
@[simp] theorem State.setTrace_poison (v : TraceSt) : (s.setTrace a v).poison = s.poison := rfl
@[simp] theorem State.setTrace_cxl (v : TraceSt) : (s.setTrace a v).cxl = s.cxl := rfl
@[simp] theorem State.setTrace_tlb (v : TraceSt) : (s.setTrace a v).tlb = s.tlb := rfl
@[simp] theorem State.setTrace_locked (v : TraceSt) : (s.setTrace a v).locked = s.locked := rfl
@[simp] theorem State.setTrace_ats (v : TraceSt) : (s.setTrace a v).ats = s.ats := rfl
@[simp] theorem State.setTrace_faults (v : TraceSt) : (s.setTrace a v).faults = s.faults := rfl
@[simp] theorem State.setTrace_ctxs (v : TraceSt) : (s.setTrace a v).ctxs = s.ctxs := rfl
@[simp] theorem State.setTrace_hp (v : TraceSt) : (s.setTrace a v).hp = s.hp := rfl
@[simp] theorem State.setTrace_obs (v : TraceSt) : (s.setTrace a v).obs = { s.obs with trace := tabSet .reset s.obs.trace a v } := rfl
@[simp] theorem State.setTrace_fabric (v : TraceSt) : (s.setTrace a v).fabric = s.fabric := rfl
@[simp] theorem State.setTrace_pwr (v : TraceSt) : (s.setTrace a v).pwr = s.pwr := rfl
@[simp] theorem State.setTrace_dies (v : TraceSt) : (s.setTrace a v).dies = s.dies := rfl
@[simp] theorem State.setTrace_sec (v : TraceSt) : (s.setTrace a v).sec = s.sec := rfl
@[simp] theorem State.setTrace_pins (v : TraceSt) : (s.setTrace a v).pins = s.pins := rfl
@[simp] theorem State.setTrace_answer (v : TraceSt) : (s.setTrace a v).answer = s.answer := rfl
@[simp] theorem State.setTrace_fresh (v : TraceSt) : (s.setTrace a v).fresh = s.fresh := rfl

@[simp] theorem State.setTime_pending (v : TimeSt) : (s.setTime v).pending = s.pending := rfl
@[simp] theorem State.setTime_time (v : TimeSt) : (s.setTime v).time = v := rfl
@[simp] theorem State.setTime_mem (v : TimeSt) : (s.setTime v).mem = s.mem := rfl
@[simp] theorem State.setTime_host (v : TimeSt) : (s.setTime v).host = s.host := rfl
@[simp] theorem State.setTime_veiled (v : TimeSt) : (s.setTime v).veiled = s.veiled := rfl
@[simp] theorem State.setTime_units (v : TimeSt) : (s.setTime v).units = s.units := rfl
@[simp] theorem State.setTime_queues (v : TimeSt) : (s.setTime v).queues = s.queues := rfl
@[simp] theorem State.setTime_chans (v : TimeSt) : (s.setTime v).chans = s.chans := rfl
@[simp] theorem State.setTime_syncs (v : TimeSt) : (s.setTime v).syncs = s.syncs := rfl
@[simp] theorem State.setTime_watches (v : TimeSt) : (s.setTime v).watches = s.watches := rfl
@[simp] theorem State.setTime_marks (v : TimeSt) : (s.setTime v).marks = s.marks := rfl
@[simp] theorem State.setTime_recfgs (v : TimeSt) : (s.setTime v).recfgs = s.recfgs := rfl
@[simp] theorem State.setTime_mxe (v : TimeSt) : (s.setTime v).mxe = s.mxe := rfl
@[simp] theorem State.setTime_eng (v : TimeSt) : (s.setTime v).eng = s.eng := rfl
@[simp] theorem State.setTime_accDir (v : TimeSt) : (s.setTime v).accDir = s.accDir := rfl
@[simp] theorem State.setTime_vregs (v : TimeSt) : (s.setTime v).vregs = s.vregs := rfl
@[simp] theorem State.setTime_vmask (v : TimeSt) : (s.setTime v).vmask = s.vmask := rfl
@[simp] theorem State.setTime_vx (v : TimeSt) : (s.setTime v).vx = s.vx := rfl
@[simp] theorem State.setTime_recipes (v : TimeSt) : (s.setTime v).recipes = s.recipes := rfl
@[simp] theorem State.setTime_dec (v : TimeSt) : (s.setTime v).dec = s.dec := rfl
@[simp] theorem State.setTime_gse (v : TimeSt) : (s.setTime v).gse = s.gse := rfl
@[simp] theorem State.setTime_rxe (v : TimeSt) : (s.setTime v).rxe = s.rxe := rfl
@[simp] theorem State.setTime_jobs (v : TimeSt) : (s.setTime v).jobs = s.jobs := rfl
@[simp] theorem State.setTime_saves (v : TimeSt) : (s.setTime v).saves = s.saves := rfl
@[simp] theorem State.setTime_ports (v : TimeSt) : (s.setTime v).ports = s.ports := rfl
@[simp] theorem State.setTime_torus (v : TimeSt) : (s.setTime v).torus = s.torus := rfl
@[simp] theorem State.setTime_devs (v : TimeSt) : (s.setTime v).devs = s.devs := rfl
@[simp] theorem State.setTime_poison (v : TimeSt) : (s.setTime v).poison = s.poison := rfl
@[simp] theorem State.setTime_cxl (v : TimeSt) : (s.setTime v).cxl = s.cxl := rfl
@[simp] theorem State.setTime_tlb (v : TimeSt) : (s.setTime v).tlb = s.tlb := rfl
@[simp] theorem State.setTime_locked (v : TimeSt) : (s.setTime v).locked = s.locked := rfl
@[simp] theorem State.setTime_ats (v : TimeSt) : (s.setTime v).ats = s.ats := rfl
@[simp] theorem State.setTime_faults (v : TimeSt) : (s.setTime v).faults = s.faults := rfl
@[simp] theorem State.setTime_ctxs (v : TimeSt) : (s.setTime v).ctxs = s.ctxs := rfl
@[simp] theorem State.setTime_hp (v : TimeSt) : (s.setTime v).hp = s.hp := rfl
@[simp] theorem State.setTime_obs (v : TimeSt) : (s.setTime v).obs = s.obs := rfl
@[simp] theorem State.setTime_fabric (v : TimeSt) : (s.setTime v).fabric = s.fabric := rfl
@[simp] theorem State.setTime_pwr (v : TimeSt) : (s.setTime v).pwr = s.pwr := rfl
@[simp] theorem State.setTime_dies (v : TimeSt) : (s.setTime v).dies = s.dies := rfl
@[simp] theorem State.setTime_sec (v : TimeSt) : (s.setTime v).sec = s.sec := rfl
@[simp] theorem State.setTime_pins (v : TimeSt) : (s.setTime v).pins = s.pins := rfl
@[simp] theorem State.setTime_answer (v : TimeSt) : (s.setTime v).answer = s.answer := rfl
@[simp] theorem State.setTime_fresh (v : TimeSt) : (s.setTime v).fresh = s.fresh := rfl

@[simp] theorem State.setMem_pending (v : List Host.Cell) : (s.setMem v).pending = s.pending := rfl
@[simp] theorem State.setMem_time (v : List Host.Cell) : (s.setMem v).time = s.time := rfl
@[simp] theorem State.setMem_mem (v : List Host.Cell) : (s.setMem v).mem = v := rfl
@[simp] theorem State.setMem_host (v : List Host.Cell) : (s.setMem v).host = s.host := rfl
@[simp] theorem State.setMem_veiled (v : List Host.Cell) : (s.setMem v).veiled = s.veiled := rfl
@[simp] theorem State.setMem_units (v : List Host.Cell) : (s.setMem v).units = s.units := rfl
@[simp] theorem State.setMem_queues (v : List Host.Cell) : (s.setMem v).queues = s.queues := rfl
@[simp] theorem State.setMem_chans (v : List Host.Cell) : (s.setMem v).chans = s.chans := rfl
@[simp] theorem State.setMem_syncs (v : List Host.Cell) : (s.setMem v).syncs = s.syncs := rfl
@[simp] theorem State.setMem_watches (v : List Host.Cell) : (s.setMem v).watches = s.watches := rfl
@[simp] theorem State.setMem_marks (v : List Host.Cell) : (s.setMem v).marks = s.marks := rfl
@[simp] theorem State.setMem_recfgs (v : List Host.Cell) : (s.setMem v).recfgs = s.recfgs := rfl
@[simp] theorem State.setMem_mxe (v : List Host.Cell) : (s.setMem v).mxe = s.mxe := rfl
@[simp] theorem State.setMem_eng (v : List Host.Cell) : (s.setMem v).eng = s.eng := rfl
@[simp] theorem State.setMem_accDir (v : List Host.Cell) : (s.setMem v).accDir = s.accDir := rfl
@[simp] theorem State.setMem_vregs (v : List Host.Cell) : (s.setMem v).vregs = s.vregs := rfl
@[simp] theorem State.setMem_vmask (v : List Host.Cell) : (s.setMem v).vmask = s.vmask := rfl
@[simp] theorem State.setMem_vx (v : List Host.Cell) : (s.setMem v).vx = s.vx := rfl
@[simp] theorem State.setMem_recipes (v : List Host.Cell) : (s.setMem v).recipes = s.recipes := rfl
@[simp] theorem State.setMem_dec (v : List Host.Cell) : (s.setMem v).dec = s.dec := rfl
@[simp] theorem State.setMem_gse (v : List Host.Cell) : (s.setMem v).gse = s.gse := rfl
@[simp] theorem State.setMem_rxe (v : List Host.Cell) : (s.setMem v).rxe = s.rxe := rfl
@[simp] theorem State.setMem_jobs (v : List Host.Cell) : (s.setMem v).jobs = s.jobs := rfl
@[simp] theorem State.setMem_saves (v : List Host.Cell) : (s.setMem v).saves = s.saves := rfl
@[simp] theorem State.setMem_ports (v : List Host.Cell) : (s.setMem v).ports = s.ports := rfl
@[simp] theorem State.setMem_torus (v : List Host.Cell) : (s.setMem v).torus = s.torus := rfl
@[simp] theorem State.setMem_devs (v : List Host.Cell) : (s.setMem v).devs = s.devs := rfl
@[simp] theorem State.setMem_poison (v : List Host.Cell) : (s.setMem v).poison = s.poison := rfl
@[simp] theorem State.setMem_cxl (v : List Host.Cell) : (s.setMem v).cxl = s.cxl := rfl
@[simp] theorem State.setMem_tlb (v : List Host.Cell) : (s.setMem v).tlb = s.tlb := rfl
@[simp] theorem State.setMem_locked (v : List Host.Cell) : (s.setMem v).locked = s.locked := rfl
@[simp] theorem State.setMem_ats (v : List Host.Cell) : (s.setMem v).ats = s.ats := rfl
@[simp] theorem State.setMem_faults (v : List Host.Cell) : (s.setMem v).faults = s.faults := rfl
@[simp] theorem State.setMem_ctxs (v : List Host.Cell) : (s.setMem v).ctxs = s.ctxs := rfl
@[simp] theorem State.setMem_hp (v : List Host.Cell) : (s.setMem v).hp = s.hp := rfl
@[simp] theorem State.setMem_obs (v : List Host.Cell) : (s.setMem v).obs = s.obs := rfl
@[simp] theorem State.setMem_fabric (v : List Host.Cell) : (s.setMem v).fabric = s.fabric := rfl
@[simp] theorem State.setMem_pwr (v : List Host.Cell) : (s.setMem v).pwr = s.pwr := rfl
@[simp] theorem State.setMem_dies (v : List Host.Cell) : (s.setMem v).dies = s.dies := rfl
@[simp] theorem State.setMem_sec (v : List Host.Cell) : (s.setMem v).sec = s.sec := rfl
@[simp] theorem State.setMem_pins (v : List Host.Cell) : (s.setMem v).pins = s.pins := rfl
@[simp] theorem State.setMem_answer (v : List Host.Cell) : (s.setMem v).answer = s.answer := rfl
@[simp] theorem State.setMem_fresh (v : List Host.Cell) : (s.setMem v).fresh = s.fresh := rfl

@[simp] theorem State.setObs_pending (v : ObsSt) : (s.setObs v).pending = s.pending := rfl
@[simp] theorem State.setObs_time (v : ObsSt) : (s.setObs v).time = s.time := rfl
@[simp] theorem State.setObs_mem (v : ObsSt) : (s.setObs v).mem = s.mem := rfl
@[simp] theorem State.setObs_host (v : ObsSt) : (s.setObs v).host = s.host := rfl
@[simp] theorem State.setObs_veiled (v : ObsSt) : (s.setObs v).veiled = s.veiled := rfl
@[simp] theorem State.setObs_units (v : ObsSt) : (s.setObs v).units = s.units := rfl
@[simp] theorem State.setObs_queues (v : ObsSt) : (s.setObs v).queues = s.queues := rfl
@[simp] theorem State.setObs_chans (v : ObsSt) : (s.setObs v).chans = s.chans := rfl
@[simp] theorem State.setObs_syncs (v : ObsSt) : (s.setObs v).syncs = s.syncs := rfl
@[simp] theorem State.setObs_watches (v : ObsSt) : (s.setObs v).watches = s.watches := rfl
@[simp] theorem State.setObs_marks (v : ObsSt) : (s.setObs v).marks = s.marks := rfl
@[simp] theorem State.setObs_recfgs (v : ObsSt) : (s.setObs v).recfgs = s.recfgs := rfl
@[simp] theorem State.setObs_mxe (v : ObsSt) : (s.setObs v).mxe = s.mxe := rfl
@[simp] theorem State.setObs_eng (v : ObsSt) : (s.setObs v).eng = s.eng := rfl
@[simp] theorem State.setObs_accDir (v : ObsSt) : (s.setObs v).accDir = s.accDir := rfl
@[simp] theorem State.setObs_vregs (v : ObsSt) : (s.setObs v).vregs = s.vregs := rfl
@[simp] theorem State.setObs_vmask (v : ObsSt) : (s.setObs v).vmask = s.vmask := rfl
@[simp] theorem State.setObs_vx (v : ObsSt) : (s.setObs v).vx = s.vx := rfl
@[simp] theorem State.setObs_recipes (v : ObsSt) : (s.setObs v).recipes = s.recipes := rfl
@[simp] theorem State.setObs_dec (v : ObsSt) : (s.setObs v).dec = s.dec := rfl
@[simp] theorem State.setObs_gse (v : ObsSt) : (s.setObs v).gse = s.gse := rfl
@[simp] theorem State.setObs_rxe (v : ObsSt) : (s.setObs v).rxe = s.rxe := rfl
@[simp] theorem State.setObs_jobs (v : ObsSt) : (s.setObs v).jobs = s.jobs := rfl
@[simp] theorem State.setObs_saves (v : ObsSt) : (s.setObs v).saves = s.saves := rfl
@[simp] theorem State.setObs_ports (v : ObsSt) : (s.setObs v).ports = s.ports := rfl
@[simp] theorem State.setObs_torus (v : ObsSt) : (s.setObs v).torus = s.torus := rfl
@[simp] theorem State.setObs_devs (v : ObsSt) : (s.setObs v).devs = s.devs := rfl
@[simp] theorem State.setObs_poison (v : ObsSt) : (s.setObs v).poison = s.poison := rfl
@[simp] theorem State.setObs_cxl (v : ObsSt) : (s.setObs v).cxl = s.cxl := rfl
@[simp] theorem State.setObs_tlb (v : ObsSt) : (s.setObs v).tlb = s.tlb := rfl
@[simp] theorem State.setObs_locked (v : ObsSt) : (s.setObs v).locked = s.locked := rfl
@[simp] theorem State.setObs_ats (v : ObsSt) : (s.setObs v).ats = s.ats := rfl
@[simp] theorem State.setObs_faults (v : ObsSt) : (s.setObs v).faults = s.faults := rfl
@[simp] theorem State.setObs_ctxs (v : ObsSt) : (s.setObs v).ctxs = s.ctxs := rfl
@[simp] theorem State.setObs_hp (v : ObsSt) : (s.setObs v).hp = s.hp := rfl
@[simp] theorem State.setObs_obs (v : ObsSt) : (s.setObs v).obs = v := rfl
@[simp] theorem State.setObs_fabric (v : ObsSt) : (s.setObs v).fabric = s.fabric := rfl
@[simp] theorem State.setObs_pwr (v : ObsSt) : (s.setObs v).pwr = s.pwr := rfl
@[simp] theorem State.setObs_dies (v : ObsSt) : (s.setObs v).dies = s.dies := rfl
@[simp] theorem State.setObs_sec (v : ObsSt) : (s.setObs v).sec = s.sec := rfl
@[simp] theorem State.setObs_pins (v : ObsSt) : (s.setObs v).pins = s.pins := rfl
@[simp] theorem State.setObs_answer (v : ObsSt) : (s.setObs v).answer = s.answer := rfl
@[simp] theorem State.setObs_fresh (v : ObsSt) : (s.setObs v).fresh = s.fresh := rfl

@[simp] theorem State.setPwr_pending (v : PowerSt) : (s.setPwr v).pending = s.pending := rfl
@[simp] theorem State.setPwr_time (v : PowerSt) : (s.setPwr v).time = s.time := rfl
@[simp] theorem State.setPwr_mem (v : PowerSt) : (s.setPwr v).mem = s.mem := rfl
@[simp] theorem State.setPwr_host (v : PowerSt) : (s.setPwr v).host = s.host := rfl
@[simp] theorem State.setPwr_veiled (v : PowerSt) : (s.setPwr v).veiled = s.veiled := rfl
@[simp] theorem State.setPwr_units (v : PowerSt) : (s.setPwr v).units = s.units := rfl
@[simp] theorem State.setPwr_queues (v : PowerSt) : (s.setPwr v).queues = s.queues := rfl
@[simp] theorem State.setPwr_chans (v : PowerSt) : (s.setPwr v).chans = s.chans := rfl
@[simp] theorem State.setPwr_syncs (v : PowerSt) : (s.setPwr v).syncs = s.syncs := rfl
@[simp] theorem State.setPwr_watches (v : PowerSt) : (s.setPwr v).watches = s.watches := rfl
@[simp] theorem State.setPwr_marks (v : PowerSt) : (s.setPwr v).marks = s.marks := rfl
@[simp] theorem State.setPwr_recfgs (v : PowerSt) : (s.setPwr v).recfgs = s.recfgs := rfl
@[simp] theorem State.setPwr_mxe (v : PowerSt) : (s.setPwr v).mxe = s.mxe := rfl
@[simp] theorem State.setPwr_eng (v : PowerSt) : (s.setPwr v).eng = s.eng := rfl
@[simp] theorem State.setPwr_accDir (v : PowerSt) : (s.setPwr v).accDir = s.accDir := rfl
@[simp] theorem State.setPwr_vregs (v : PowerSt) : (s.setPwr v).vregs = s.vregs := rfl
@[simp] theorem State.setPwr_vmask (v : PowerSt) : (s.setPwr v).vmask = s.vmask := rfl
@[simp] theorem State.setPwr_vx (v : PowerSt) : (s.setPwr v).vx = s.vx := rfl
@[simp] theorem State.setPwr_recipes (v : PowerSt) : (s.setPwr v).recipes = s.recipes := rfl
@[simp] theorem State.setPwr_dec (v : PowerSt) : (s.setPwr v).dec = s.dec := rfl
@[simp] theorem State.setPwr_gse (v : PowerSt) : (s.setPwr v).gse = s.gse := rfl
@[simp] theorem State.setPwr_rxe (v : PowerSt) : (s.setPwr v).rxe = s.rxe := rfl
@[simp] theorem State.setPwr_jobs (v : PowerSt) : (s.setPwr v).jobs = s.jobs := rfl
@[simp] theorem State.setPwr_saves (v : PowerSt) : (s.setPwr v).saves = s.saves := rfl
@[simp] theorem State.setPwr_ports (v : PowerSt) : (s.setPwr v).ports = s.ports := rfl
@[simp] theorem State.setPwr_torus (v : PowerSt) : (s.setPwr v).torus = s.torus := rfl
@[simp] theorem State.setPwr_devs (v : PowerSt) : (s.setPwr v).devs = s.devs := rfl
@[simp] theorem State.setPwr_poison (v : PowerSt) : (s.setPwr v).poison = s.poison := rfl
@[simp] theorem State.setPwr_cxl (v : PowerSt) : (s.setPwr v).cxl = s.cxl := rfl
@[simp] theorem State.setPwr_tlb (v : PowerSt) : (s.setPwr v).tlb = s.tlb := rfl
@[simp] theorem State.setPwr_locked (v : PowerSt) : (s.setPwr v).locked = s.locked := rfl
@[simp] theorem State.setPwr_ats (v : PowerSt) : (s.setPwr v).ats = s.ats := rfl
@[simp] theorem State.setPwr_faults (v : PowerSt) : (s.setPwr v).faults = s.faults := rfl
@[simp] theorem State.setPwr_ctxs (v : PowerSt) : (s.setPwr v).ctxs = s.ctxs := rfl
@[simp] theorem State.setPwr_hp (v : PowerSt) : (s.setPwr v).hp = s.hp := rfl
@[simp] theorem State.setPwr_obs (v : PowerSt) : (s.setPwr v).obs = s.obs := rfl
@[simp] theorem State.setPwr_fabric (v : PowerSt) : (s.setPwr v).fabric = s.fabric := rfl
@[simp] theorem State.setPwr_pwr (v : PowerSt) : (s.setPwr v).pwr = v := rfl
@[simp] theorem State.setPwr_dies (v : PowerSt) : (s.setPwr v).dies = s.dies := rfl
@[simp] theorem State.setPwr_sec (v : PowerSt) : (s.setPwr v).sec = s.sec := rfl
@[simp] theorem State.setPwr_pins (v : PowerSt) : (s.setPwr v).pins = s.pins := rfl
@[simp] theorem State.setPwr_answer (v : PowerSt) : (s.setPwr v).answer = s.answer := rfl
@[simp] theorem State.setPwr_fresh (v : PowerSt) : (s.setPwr v).fresh = s.fresh := rfl

@[simp] theorem State.setSec_pending (v : SecSt) : (s.setSec v).pending = s.pending := rfl
@[simp] theorem State.setSec_time (v : SecSt) : (s.setSec v).time = s.time := rfl
@[simp] theorem State.setSec_mem (v : SecSt) : (s.setSec v).mem = s.mem := rfl
@[simp] theorem State.setSec_host (v : SecSt) : (s.setSec v).host = s.host := rfl
@[simp] theorem State.setSec_veiled (v : SecSt) : (s.setSec v).veiled = s.veiled := rfl
@[simp] theorem State.setSec_units (v : SecSt) : (s.setSec v).units = s.units := rfl
@[simp] theorem State.setSec_queues (v : SecSt) : (s.setSec v).queues = s.queues := rfl
@[simp] theorem State.setSec_chans (v : SecSt) : (s.setSec v).chans = s.chans := rfl
@[simp] theorem State.setSec_syncs (v : SecSt) : (s.setSec v).syncs = s.syncs := rfl
@[simp] theorem State.setSec_watches (v : SecSt) : (s.setSec v).watches = s.watches := rfl
@[simp] theorem State.setSec_marks (v : SecSt) : (s.setSec v).marks = s.marks := rfl
@[simp] theorem State.setSec_recfgs (v : SecSt) : (s.setSec v).recfgs = s.recfgs := rfl
@[simp] theorem State.setSec_mxe (v : SecSt) : (s.setSec v).mxe = s.mxe := rfl
@[simp] theorem State.setSec_eng (v : SecSt) : (s.setSec v).eng = s.eng := rfl
@[simp] theorem State.setSec_accDir (v : SecSt) : (s.setSec v).accDir = s.accDir := rfl
@[simp] theorem State.setSec_vregs (v : SecSt) : (s.setSec v).vregs = s.vregs := rfl
@[simp] theorem State.setSec_vmask (v : SecSt) : (s.setSec v).vmask = s.vmask := rfl
@[simp] theorem State.setSec_vx (v : SecSt) : (s.setSec v).vx = s.vx := rfl
@[simp] theorem State.setSec_recipes (v : SecSt) : (s.setSec v).recipes = s.recipes := rfl
@[simp] theorem State.setSec_dec (v : SecSt) : (s.setSec v).dec = s.dec := rfl
@[simp] theorem State.setSec_gse (v : SecSt) : (s.setSec v).gse = s.gse := rfl
@[simp] theorem State.setSec_rxe (v : SecSt) : (s.setSec v).rxe = s.rxe := rfl
@[simp] theorem State.setSec_jobs (v : SecSt) : (s.setSec v).jobs = s.jobs := rfl
@[simp] theorem State.setSec_saves (v : SecSt) : (s.setSec v).saves = s.saves := rfl
@[simp] theorem State.setSec_ports (v : SecSt) : (s.setSec v).ports = s.ports := rfl
@[simp] theorem State.setSec_torus (v : SecSt) : (s.setSec v).torus = s.torus := rfl
@[simp] theorem State.setSec_devs (v : SecSt) : (s.setSec v).devs = s.devs := rfl
@[simp] theorem State.setSec_poison (v : SecSt) : (s.setSec v).poison = s.poison := rfl
@[simp] theorem State.setSec_cxl (v : SecSt) : (s.setSec v).cxl = s.cxl := rfl
@[simp] theorem State.setSec_tlb (v : SecSt) : (s.setSec v).tlb = s.tlb := rfl
@[simp] theorem State.setSec_locked (v : SecSt) : (s.setSec v).locked = s.locked := rfl
@[simp] theorem State.setSec_ats (v : SecSt) : (s.setSec v).ats = s.ats := rfl
@[simp] theorem State.setSec_faults (v : SecSt) : (s.setSec v).faults = s.faults := rfl
@[simp] theorem State.setSec_ctxs (v : SecSt) : (s.setSec v).ctxs = s.ctxs := rfl
@[simp] theorem State.setSec_hp (v : SecSt) : (s.setSec v).hp = s.hp := rfl
@[simp] theorem State.setSec_obs (v : SecSt) : (s.setSec v).obs = s.obs := rfl
@[simp] theorem State.setSec_fabric (v : SecSt) : (s.setSec v).fabric = s.fabric := rfl
@[simp] theorem State.setSec_pwr (v : SecSt) : (s.setSec v).pwr = s.pwr := rfl
@[simp] theorem State.setSec_dies (v : SecSt) : (s.setSec v).dies = s.dies := rfl
@[simp] theorem State.setSec_sec (v : SecSt) : (s.setSec v).sec = v := rfl
@[simp] theorem State.setSec_pins (v : SecSt) : (s.setSec v).pins = s.pins := rfl
@[simp] theorem State.setSec_answer (v : SecSt) : (s.setSec v).answer = s.answer := rfl
@[simp] theorem State.setSec_fresh (v : SecSt) : (s.setSec v).fresh = s.fresh := rfl

@[simp] theorem State.setPins_pending (v : PinSt) : (s.setPins v).pending = s.pending := rfl
@[simp] theorem State.setPins_time (v : PinSt) : (s.setPins v).time = s.time := rfl
@[simp] theorem State.setPins_mem (v : PinSt) : (s.setPins v).mem = s.mem := rfl
@[simp] theorem State.setPins_host (v : PinSt) : (s.setPins v).host = s.host := rfl
@[simp] theorem State.setPins_veiled (v : PinSt) : (s.setPins v).veiled = s.veiled := rfl
@[simp] theorem State.setPins_units (v : PinSt) : (s.setPins v).units = s.units := rfl
@[simp] theorem State.setPins_queues (v : PinSt) : (s.setPins v).queues = s.queues := rfl
@[simp] theorem State.setPins_chans (v : PinSt) : (s.setPins v).chans = s.chans := rfl
@[simp] theorem State.setPins_syncs (v : PinSt) : (s.setPins v).syncs = s.syncs := rfl
@[simp] theorem State.setPins_watches (v : PinSt) : (s.setPins v).watches = s.watches := rfl
@[simp] theorem State.setPins_marks (v : PinSt) : (s.setPins v).marks = s.marks := rfl
@[simp] theorem State.setPins_recfgs (v : PinSt) : (s.setPins v).recfgs = s.recfgs := rfl
@[simp] theorem State.setPins_mxe (v : PinSt) : (s.setPins v).mxe = s.mxe := rfl
@[simp] theorem State.setPins_eng (v : PinSt) : (s.setPins v).eng = s.eng := rfl
@[simp] theorem State.setPins_accDir (v : PinSt) : (s.setPins v).accDir = s.accDir := rfl
@[simp] theorem State.setPins_vregs (v : PinSt) : (s.setPins v).vregs = s.vregs := rfl
@[simp] theorem State.setPins_vmask (v : PinSt) : (s.setPins v).vmask = s.vmask := rfl
@[simp] theorem State.setPins_vx (v : PinSt) : (s.setPins v).vx = s.vx := rfl
@[simp] theorem State.setPins_recipes (v : PinSt) : (s.setPins v).recipes = s.recipes := rfl
@[simp] theorem State.setPins_dec (v : PinSt) : (s.setPins v).dec = s.dec := rfl
@[simp] theorem State.setPins_gse (v : PinSt) : (s.setPins v).gse = s.gse := rfl
@[simp] theorem State.setPins_rxe (v : PinSt) : (s.setPins v).rxe = s.rxe := rfl
@[simp] theorem State.setPins_jobs (v : PinSt) : (s.setPins v).jobs = s.jobs := rfl
@[simp] theorem State.setPins_saves (v : PinSt) : (s.setPins v).saves = s.saves := rfl
@[simp] theorem State.setPins_ports (v : PinSt) : (s.setPins v).ports = s.ports := rfl
@[simp] theorem State.setPins_torus (v : PinSt) : (s.setPins v).torus = s.torus := rfl
@[simp] theorem State.setPins_devs (v : PinSt) : (s.setPins v).devs = s.devs := rfl
@[simp] theorem State.setPins_poison (v : PinSt) : (s.setPins v).poison = s.poison := rfl
@[simp] theorem State.setPins_cxl (v : PinSt) : (s.setPins v).cxl = s.cxl := rfl
@[simp] theorem State.setPins_tlb (v : PinSt) : (s.setPins v).tlb = s.tlb := rfl
@[simp] theorem State.setPins_locked (v : PinSt) : (s.setPins v).locked = s.locked := rfl
@[simp] theorem State.setPins_ats (v : PinSt) : (s.setPins v).ats = s.ats := rfl
@[simp] theorem State.setPins_faults (v : PinSt) : (s.setPins v).faults = s.faults := rfl
@[simp] theorem State.setPins_ctxs (v : PinSt) : (s.setPins v).ctxs = s.ctxs := rfl
@[simp] theorem State.setPins_hp (v : PinSt) : (s.setPins v).hp = s.hp := rfl
@[simp] theorem State.setPins_obs (v : PinSt) : (s.setPins v).obs = s.obs := rfl
@[simp] theorem State.setPins_fabric (v : PinSt) : (s.setPins v).fabric = s.fabric := rfl
@[simp] theorem State.setPins_pwr (v : PinSt) : (s.setPins v).pwr = s.pwr := rfl
@[simp] theorem State.setPins_dies (v : PinSt) : (s.setPins v).dies = s.dies := rfl
@[simp] theorem State.setPins_sec (v : PinSt) : (s.setPins v).sec = s.sec := rfl
@[simp] theorem State.setPins_pins (v : PinSt) : (s.setPins v).pins = v := rfl
@[simp] theorem State.setPins_answer (v : PinSt) : (s.setPins v).answer = s.answer := rfl
@[simp] theorem State.setPins_fresh (v : PinSt) : (s.setPins v).fresh = s.fresh := rfl

@[simp] theorem State.reply_pending (v : Answer) : (s.reply v).pending = s.pending := rfl
@[simp] theorem State.reply_time (v : Answer) : (s.reply v).time = s.time := rfl
@[simp] theorem State.reply_mem (v : Answer) : (s.reply v).mem = s.mem := rfl
@[simp] theorem State.reply_host (v : Answer) : (s.reply v).host = s.host := rfl
@[simp] theorem State.reply_veiled (v : Answer) : (s.reply v).veiled = s.veiled := rfl
@[simp] theorem State.reply_units (v : Answer) : (s.reply v).units = s.units := rfl
@[simp] theorem State.reply_queues (v : Answer) : (s.reply v).queues = s.queues := rfl
@[simp] theorem State.reply_chans (v : Answer) : (s.reply v).chans = s.chans := rfl
@[simp] theorem State.reply_syncs (v : Answer) : (s.reply v).syncs = s.syncs := rfl
@[simp] theorem State.reply_watches (v : Answer) : (s.reply v).watches = s.watches := rfl
@[simp] theorem State.reply_marks (v : Answer) : (s.reply v).marks = s.marks := rfl
@[simp] theorem State.reply_recfgs (v : Answer) : (s.reply v).recfgs = s.recfgs := rfl
@[simp] theorem State.reply_mxe (v : Answer) : (s.reply v).mxe = s.mxe := rfl
@[simp] theorem State.reply_eng (v : Answer) : (s.reply v).eng = s.eng := rfl
@[simp] theorem State.reply_accDir (v : Answer) : (s.reply v).accDir = s.accDir := rfl
@[simp] theorem State.reply_vregs (v : Answer) : (s.reply v).vregs = s.vregs := rfl
@[simp] theorem State.reply_vmask (v : Answer) : (s.reply v).vmask = s.vmask := rfl
@[simp] theorem State.reply_vx (v : Answer) : (s.reply v).vx = s.vx := rfl
@[simp] theorem State.reply_recipes (v : Answer) : (s.reply v).recipes = s.recipes := rfl
@[simp] theorem State.reply_dec (v : Answer) : (s.reply v).dec = s.dec := rfl
@[simp] theorem State.reply_gse (v : Answer) : (s.reply v).gse = s.gse := rfl
@[simp] theorem State.reply_rxe (v : Answer) : (s.reply v).rxe = s.rxe := rfl
@[simp] theorem State.reply_jobs (v : Answer) : (s.reply v).jobs = s.jobs := rfl
@[simp] theorem State.reply_saves (v : Answer) : (s.reply v).saves = s.saves := rfl
@[simp] theorem State.reply_ports (v : Answer) : (s.reply v).ports = s.ports := rfl
@[simp] theorem State.reply_torus (v : Answer) : (s.reply v).torus = s.torus := rfl
@[simp] theorem State.reply_devs (v : Answer) : (s.reply v).devs = s.devs := rfl
@[simp] theorem State.reply_poison (v : Answer) : (s.reply v).poison = s.poison := rfl
@[simp] theorem State.reply_cxl (v : Answer) : (s.reply v).cxl = s.cxl := rfl
@[simp] theorem State.reply_tlb (v : Answer) : (s.reply v).tlb = s.tlb := rfl
@[simp] theorem State.reply_locked (v : Answer) : (s.reply v).locked = s.locked := rfl
@[simp] theorem State.reply_ats (v : Answer) : (s.reply v).ats = s.ats := rfl
@[simp] theorem State.reply_faults (v : Answer) : (s.reply v).faults = s.faults := rfl
@[simp] theorem State.reply_ctxs (v : Answer) : (s.reply v).ctxs = s.ctxs := rfl
@[simp] theorem State.reply_hp (v : Answer) : (s.reply v).hp = s.hp := rfl
@[simp] theorem State.reply_obs (v : Answer) : (s.reply v).obs = s.obs := rfl
@[simp] theorem State.reply_fabric (v : Answer) : (s.reply v).fabric = s.fabric := rfl
@[simp] theorem State.reply_pwr (v : Answer) : (s.reply v).pwr = s.pwr := rfl
@[simp] theorem State.reply_dies (v : Answer) : (s.reply v).dies = s.dies := rfl
@[simp] theorem State.reply_sec (v : Answer) : (s.reply v).sec = s.sec := rfl
@[simp] theorem State.reply_pins (v : Answer) : (s.reply v).pins = s.pins := rfl
@[simp] theorem State.reply_answer (v : Answer) : (s.reply v).answer = v := rfl
@[simp] theorem State.reply_fresh (v : Answer) : (s.reply v).fresh = s.fresh := rfl

@[simp] theorem State.tickFresh_pending : (s.tickFresh a).pending = s.pending := rfl
@[simp] theorem State.tickFresh_time : (s.tickFresh a).time = s.time := rfl
@[simp] theorem State.tickFresh_mem : (s.tickFresh a).mem = s.mem := rfl
@[simp] theorem State.tickFresh_host : (s.tickFresh a).host = s.host := rfl
@[simp] theorem State.tickFresh_veiled : (s.tickFresh a).veiled = s.veiled := rfl
@[simp] theorem State.tickFresh_units : (s.tickFresh a).units = s.units := rfl
@[simp] theorem State.tickFresh_queues : (s.tickFresh a).queues = s.queues := rfl
@[simp] theorem State.tickFresh_chans : (s.tickFresh a).chans = s.chans := rfl
@[simp] theorem State.tickFresh_syncs : (s.tickFresh a).syncs = s.syncs := rfl
@[simp] theorem State.tickFresh_watches : (s.tickFresh a).watches = s.watches := rfl
@[simp] theorem State.tickFresh_marks : (s.tickFresh a).marks = s.marks := rfl
@[simp] theorem State.tickFresh_recfgs : (s.tickFresh a).recfgs = s.recfgs := rfl
@[simp] theorem State.tickFresh_mxe : (s.tickFresh a).mxe = s.mxe := rfl
@[simp] theorem State.tickFresh_eng : (s.tickFresh a).eng = s.eng := rfl
@[simp] theorem State.tickFresh_accDir : (s.tickFresh a).accDir = s.accDir := rfl
@[simp] theorem State.tickFresh_vregs : (s.tickFresh a).vregs = s.vregs := rfl
@[simp] theorem State.tickFresh_vmask : (s.tickFresh a).vmask = s.vmask := rfl
@[simp] theorem State.tickFresh_vx : (s.tickFresh a).vx = s.vx := rfl
@[simp] theorem State.tickFresh_recipes : (s.tickFresh a).recipes = s.recipes := rfl
@[simp] theorem State.tickFresh_dec : (s.tickFresh a).dec = s.dec := rfl
@[simp] theorem State.tickFresh_gse : (s.tickFresh a).gse = s.gse := rfl
@[simp] theorem State.tickFresh_rxe : (s.tickFresh a).rxe = s.rxe := rfl
@[simp] theorem State.tickFresh_jobs : (s.tickFresh a).jobs = s.jobs := rfl
@[simp] theorem State.tickFresh_saves : (s.tickFresh a).saves = s.saves := rfl
@[simp] theorem State.tickFresh_ports : (s.tickFresh a).ports = s.ports := rfl
@[simp] theorem State.tickFresh_torus : (s.tickFresh a).torus = s.torus := rfl
@[simp] theorem State.tickFresh_devs : (s.tickFresh a).devs = s.devs := rfl
@[simp] theorem State.tickFresh_poison : (s.tickFresh a).poison = s.poison := rfl
@[simp] theorem State.tickFresh_cxl : (s.tickFresh a).cxl = s.cxl := rfl
@[simp] theorem State.tickFresh_tlb : (s.tickFresh a).tlb = s.tlb := rfl
@[simp] theorem State.tickFresh_locked : (s.tickFresh a).locked = s.locked := rfl
@[simp] theorem State.tickFresh_ats : (s.tickFresh a).ats = s.ats := rfl
@[simp] theorem State.tickFresh_faults : (s.tickFresh a).faults = s.faults := rfl
@[simp] theorem State.tickFresh_ctxs : (s.tickFresh a).ctxs = s.ctxs := rfl
@[simp] theorem State.tickFresh_hp : (s.tickFresh a).hp = s.hp := rfl
@[simp] theorem State.tickFresh_obs : (s.tickFresh a).obs = s.obs := rfl
@[simp] theorem State.tickFresh_fabric : (s.tickFresh a).fabric = s.fabric := rfl
@[simp] theorem State.tickFresh_pwr : (s.tickFresh a).pwr = s.pwr := rfl
@[simp] theorem State.tickFresh_dies : (s.tickFresh a).dies = s.dies := rfl
@[simp] theorem State.tickFresh_sec : (s.tickFresh a).sec = s.sec := rfl
@[simp] theorem State.tickFresh_pins : (s.tickFresh a).pins = s.pins := rfl
@[simp] theorem State.tickFresh_answer : (s.tickFresh a).answer = s.answer := rfl
@[simp] theorem State.tickFresh_fresh : (s.tickFresh a).fresh = s.fresh + a := rfl

@[simp] theorem State.cntAdd_pending : (s.cntAdd a b).pending = s.pending := rfl
@[simp] theorem State.cntAdd_time : (s.cntAdd a b).time = s.time := rfl
@[simp] theorem State.cntAdd_mem : (s.cntAdd a b).mem = s.mem := rfl
@[simp] theorem State.cntAdd_host : (s.cntAdd a b).host = s.host := rfl
@[simp] theorem State.cntAdd_veiled : (s.cntAdd a b).veiled = s.veiled := rfl
@[simp] theorem State.cntAdd_units : (s.cntAdd a b).units = s.units := rfl
@[simp] theorem State.cntAdd_queues : (s.cntAdd a b).queues = s.queues := rfl
@[simp] theorem State.cntAdd_chans : (s.cntAdd a b).chans = s.chans := rfl
@[simp] theorem State.cntAdd_syncs : (s.cntAdd a b).syncs = s.syncs := rfl
@[simp] theorem State.cntAdd_watches : (s.cntAdd a b).watches = s.watches := rfl
@[simp] theorem State.cntAdd_marks : (s.cntAdd a b).marks = s.marks := rfl
@[simp] theorem State.cntAdd_recfgs : (s.cntAdd a b).recfgs = s.recfgs := rfl
@[simp] theorem State.cntAdd_mxe : (s.cntAdd a b).mxe = s.mxe := rfl
@[simp] theorem State.cntAdd_eng : (s.cntAdd a b).eng = s.eng := rfl
@[simp] theorem State.cntAdd_accDir : (s.cntAdd a b).accDir = s.accDir := rfl
@[simp] theorem State.cntAdd_vregs : (s.cntAdd a b).vregs = s.vregs := rfl
@[simp] theorem State.cntAdd_vmask : (s.cntAdd a b).vmask = s.vmask := rfl
@[simp] theorem State.cntAdd_vx : (s.cntAdd a b).vx = s.vx := rfl
@[simp] theorem State.cntAdd_recipes : (s.cntAdd a b).recipes = s.recipes := rfl
@[simp] theorem State.cntAdd_dec : (s.cntAdd a b).dec = s.dec := rfl
@[simp] theorem State.cntAdd_gse : (s.cntAdd a b).gse = s.gse := rfl
@[simp] theorem State.cntAdd_rxe : (s.cntAdd a b).rxe = s.rxe := rfl
@[simp] theorem State.cntAdd_jobs : (s.cntAdd a b).jobs = s.jobs := rfl
@[simp] theorem State.cntAdd_saves : (s.cntAdd a b).saves = s.saves := rfl
@[simp] theorem State.cntAdd_ports : (s.cntAdd a b).ports = s.ports := rfl
@[simp] theorem State.cntAdd_torus : (s.cntAdd a b).torus = s.torus := rfl
@[simp] theorem State.cntAdd_devs : (s.cntAdd a b).devs = s.devs := rfl
@[simp] theorem State.cntAdd_poison : (s.cntAdd a b).poison = s.poison := rfl
@[simp] theorem State.cntAdd_cxl : (s.cntAdd a b).cxl = s.cxl := rfl
@[simp] theorem State.cntAdd_tlb : (s.cntAdd a b).tlb = s.tlb := rfl
@[simp] theorem State.cntAdd_locked : (s.cntAdd a b).locked = s.locked := rfl
@[simp] theorem State.cntAdd_ats : (s.cntAdd a b).ats = s.ats := rfl
@[simp] theorem State.cntAdd_faults : (s.cntAdd a b).faults = s.faults := rfl
@[simp] theorem State.cntAdd_ctxs : (s.cntAdd a b).ctxs = s.ctxs := rfl
@[simp] theorem State.cntAdd_hp : (s.cntAdd a b).hp = s.hp := rfl
@[simp] theorem State.cntAdd_obs : (s.cntAdd a b).obs = { s.obs with cnt := tabSet 0 s.obs.cnt a (satAdd (tabGet 0 s.obs.cnt a) b) } := rfl
@[simp] theorem State.cntAdd_fabric : (s.cntAdd a b).fabric = s.fabric := rfl
@[simp] theorem State.cntAdd_pwr : (s.cntAdd a b).pwr = s.pwr := rfl
@[simp] theorem State.cntAdd_dies : (s.cntAdd a b).dies = s.dies := rfl
@[simp] theorem State.cntAdd_sec : (s.cntAdd a b).sec = s.sec := rfl
@[simp] theorem State.cntAdd_pins : (s.cntAdd a b).pins = s.pins := rfl
@[simp] theorem State.cntAdd_answer : (s.cntAdd a b).answer = s.answer := rfl
@[simp] theorem State.cntAdd_fresh : (s.cntAdd a b).fresh = s.fresh := rfl

@[simp] theorem State.carry_pending : (s.carry a b).pending = s.pending := rfl
@[simp] theorem State.carry_time : (s.carry a b).time = s.time := rfl
@[simp] theorem State.carry_mem : (s.carry a b).mem = s.mem := rfl
@[simp] theorem State.carry_host : (s.carry a b).host = s.host := rfl
@[simp] theorem State.carry_veiled : (s.carry a b).veiled = s.veiled := rfl
@[simp] theorem State.carry_units : (s.carry a b).units = s.units := rfl
@[simp] theorem State.carry_queues : (s.carry a b).queues = s.queues := rfl
@[simp] theorem State.carry_chans : (s.carry a b).chans = s.chans := rfl
@[simp] theorem State.carry_syncs : (s.carry a b).syncs = s.syncs := rfl
@[simp] theorem State.carry_watches : (s.carry a b).watches = s.watches := rfl
@[simp] theorem State.carry_marks : (s.carry a b).marks = s.marks := rfl
@[simp] theorem State.carry_recfgs : (s.carry a b).recfgs = s.recfgs := rfl
@[simp] theorem State.carry_mxe : (s.carry a b).mxe = s.mxe := rfl
@[simp] theorem State.carry_eng : (s.carry a b).eng = s.eng := rfl
@[simp] theorem State.carry_accDir : (s.carry a b).accDir = s.accDir := rfl
@[simp] theorem State.carry_vregs : (s.carry a b).vregs = s.vregs := rfl
@[simp] theorem State.carry_vmask : (s.carry a b).vmask = s.vmask := rfl
@[simp] theorem State.carry_vx : (s.carry a b).vx = s.vx := rfl
@[simp] theorem State.carry_recipes : (s.carry a b).recipes = s.recipes := rfl
@[simp] theorem State.carry_dec : (s.carry a b).dec = s.dec := rfl
@[simp] theorem State.carry_gse : (s.carry a b).gse = s.gse := rfl
@[simp] theorem State.carry_rxe : (s.carry a b).rxe = s.rxe := rfl
@[simp] theorem State.carry_jobs : (s.carry a b).jobs = s.jobs := rfl
@[simp] theorem State.carry_saves : (s.carry a b).saves = s.saves := rfl
@[simp] theorem State.carry_ports : (s.carry a b).ports = s.ports := rfl
@[simp] theorem State.carry_torus : (s.carry a b).torus = s.torus := rfl
@[simp] theorem State.carry_devs : (s.carry a b).devs = s.devs := rfl
@[simp] theorem State.carry_poison : (s.carry a b).poison = s.poison := rfl
@[simp] theorem State.carry_cxl : (s.carry a b).cxl = s.cxl := rfl
@[simp] theorem State.carry_tlb : (s.carry a b).tlb = s.tlb := rfl
@[simp] theorem State.carry_locked : (s.carry a b).locked = s.locked := rfl
@[simp] theorem State.carry_ats : (s.carry a b).ats = s.ats := rfl
@[simp] theorem State.carry_faults : (s.carry a b).faults = s.faults := rfl
@[simp] theorem State.carry_ctxs : (s.carry a b).ctxs = s.ctxs := rfl
@[simp] theorem State.carry_hp : (s.carry a b).hp = s.hp := rfl
@[simp] theorem State.carry_obs : (s.carry a b).obs = s.obs := rfl
@[simp] theorem State.carry_fabric : (s.carry a b).fabric = { s.fabric with live := s.fabric.live.carry a b } := rfl
@[simp] theorem State.carry_pwr : (s.carry a b).pwr = s.pwr := rfl
@[simp] theorem State.carry_dies : (s.carry a b).dies = s.dies := rfl
@[simp] theorem State.carry_sec : (s.carry a b).sec = s.sec := rfl
@[simp] theorem State.carry_pins : (s.carry a b).pins = s.pins := rfl
@[simp] theorem State.carry_answer : (s.carry a b).answer = s.answer := rfl
@[simp] theorem State.carry_fresh : (s.carry a b).fresh = s.fresh := rfl

@[simp] theorem State.exchange_pending : (s.exchange a b).pending = s.pending := rfl
@[simp] theorem State.exchange_time : (s.exchange a b).time = s.time := rfl
@[simp] theorem State.exchange_mem : (s.exchange a b).mem = s.mem := rfl
@[simp] theorem State.exchange_host : (s.exchange a b).host = s.host := rfl
@[simp] theorem State.exchange_veiled : (s.exchange a b).veiled = s.veiled := rfl
@[simp] theorem State.exchange_units : (s.exchange a b).units = s.units := rfl
@[simp] theorem State.exchange_queues : (s.exchange a b).queues = s.queues := rfl
@[simp] theorem State.exchange_chans : (s.exchange a b).chans = s.chans := rfl
@[simp] theorem State.exchange_syncs : (s.exchange a b).syncs = s.syncs := rfl
@[simp] theorem State.exchange_watches : (s.exchange a b).watches = s.watches := rfl
@[simp] theorem State.exchange_marks : (s.exchange a b).marks = s.marks := rfl
@[simp] theorem State.exchange_recfgs : (s.exchange a b).recfgs = s.recfgs := rfl
@[simp] theorem State.exchange_mxe : (s.exchange a b).mxe = s.mxe := rfl
@[simp] theorem State.exchange_eng : (s.exchange a b).eng = s.eng := rfl
@[simp] theorem State.exchange_accDir : (s.exchange a b).accDir = s.accDir := rfl
@[simp] theorem State.exchange_vregs : (s.exchange a b).vregs = s.vregs := rfl
@[simp] theorem State.exchange_vmask : (s.exchange a b).vmask = s.vmask := rfl
@[simp] theorem State.exchange_vx : (s.exchange a b).vx = s.vx := rfl
@[simp] theorem State.exchange_recipes : (s.exchange a b).recipes = s.recipes := rfl
@[simp] theorem State.exchange_dec : (s.exchange a b).dec = s.dec := rfl
@[simp] theorem State.exchange_gse : (s.exchange a b).gse = s.gse := rfl
@[simp] theorem State.exchange_rxe : (s.exchange a b).rxe = s.rxe := rfl
@[simp] theorem State.exchange_jobs : (s.exchange a b).jobs = s.jobs := rfl
@[simp] theorem State.exchange_saves : (s.exchange a b).saves = s.saves := rfl
@[simp] theorem State.exchange_ports : (s.exchange a b).ports = s.ports := rfl
@[simp] theorem State.exchange_torus : (s.exchange a b).torus = s.torus := rfl
@[simp] theorem State.exchange_devs : (s.exchange a b).devs = s.devs := rfl
@[simp] theorem State.exchange_poison : (s.exchange a b).poison = s.poison := rfl
@[simp] theorem State.exchange_cxl : (s.exchange a b).cxl = s.cxl := rfl
@[simp] theorem State.exchange_tlb : (s.exchange a b).tlb = s.tlb := rfl
@[simp] theorem State.exchange_locked : (s.exchange a b).locked = s.locked := rfl
@[simp] theorem State.exchange_ats : (s.exchange a b).ats = s.ats := rfl
@[simp] theorem State.exchange_faults : (s.exchange a b).faults = s.faults := rfl
@[simp] theorem State.exchange_ctxs : (s.exchange a b).ctxs = s.ctxs := rfl
@[simp] theorem State.exchange_hp : (s.exchange a b).hp = s.hp := rfl
@[simp] theorem State.exchange_obs : (s.exchange a b).obs = s.obs := rfl
@[simp] theorem State.exchange_fabric : (s.exchange a b).fabric = { s.fabric with live := (s.fabric.live.carry a b).carry b a } := rfl
@[simp] theorem State.exchange_pwr : (s.exchange a b).pwr = s.pwr := rfl
@[simp] theorem State.exchange_dies : (s.exchange a b).dies = s.dies := rfl
@[simp] theorem State.exchange_sec : (s.exchange a b).sec = s.sec := rfl
@[simp] theorem State.exchange_pins : (s.exchange a b).pins = s.pins := rfl
@[simp] theorem State.exchange_answer : (s.exchange a b).answer = s.answer := rfl
@[simp] theorem State.exchange_fresh : (s.exchange a b).fresh = s.fresh := rfl

@[simp] theorem State.accessed_pending : (s.accessed a).pending = s.pending := rfl
@[simp] theorem State.accessed_time : (s.accessed a).time = s.time := rfl
@[simp] theorem State.accessed_mem : (s.accessed a).mem = s.mem := rfl
@[simp] theorem State.accessed_host : (s.accessed a).host = s.host := rfl
@[simp] theorem State.accessed_veiled : (s.accessed a).veiled = s.veiled := rfl
@[simp] theorem State.accessed_units : (s.accessed a).units = s.units := rfl
@[simp] theorem State.accessed_queues : (s.accessed a).queues = s.queues := rfl
@[simp] theorem State.accessed_chans : (s.accessed a).chans = s.chans := rfl
@[simp] theorem State.accessed_syncs : (s.accessed a).syncs = s.syncs := rfl
@[simp] theorem State.accessed_watches : (s.accessed a).watches = s.watches := rfl
@[simp] theorem State.accessed_marks : (s.accessed a).marks = s.marks := rfl
@[simp] theorem State.accessed_recfgs : (s.accessed a).recfgs = s.recfgs := rfl
@[simp] theorem State.accessed_mxe : (s.accessed a).mxe = s.mxe := rfl
@[simp] theorem State.accessed_eng : (s.accessed a).eng = s.eng := rfl
@[simp] theorem State.accessed_accDir : (s.accessed a).accDir = s.accDir := rfl
@[simp] theorem State.accessed_vregs : (s.accessed a).vregs = s.vregs := rfl
@[simp] theorem State.accessed_vmask : (s.accessed a).vmask = s.vmask := rfl
@[simp] theorem State.accessed_vx : (s.accessed a).vx = s.vx := rfl
@[simp] theorem State.accessed_recipes : (s.accessed a).recipes = s.recipes := rfl
@[simp] theorem State.accessed_dec : (s.accessed a).dec = s.dec := rfl
@[simp] theorem State.accessed_gse : (s.accessed a).gse = s.gse := rfl
@[simp] theorem State.accessed_rxe : (s.accessed a).rxe = s.rxe := rfl
@[simp] theorem State.accessed_jobs : (s.accessed a).jobs = s.jobs := rfl
@[simp] theorem State.accessed_saves : (s.accessed a).saves = s.saves := rfl
@[simp] theorem State.accessed_ports : (s.accessed a).ports = s.ports := rfl
@[simp] theorem State.accessed_torus : (s.accessed a).torus = s.torus := rfl
@[simp] theorem State.accessed_devs : (s.accessed a).devs = s.devs := rfl
@[simp] theorem State.accessed_poison : (s.accessed a).poison = s.poison := rfl
@[simp] theorem State.accessed_cxl : (s.accessed a).cxl = s.cxl := rfl
@[simp] theorem State.accessed_tlb : (s.accessed a).tlb = s.tlb := rfl
@[simp] theorem State.accessed_locked : (s.accessed a).locked = s.locked := rfl
@[simp] theorem State.accessed_ats : (s.accessed a).ats = s.ats := rfl
@[simp] theorem State.accessed_faults : (s.accessed a).faults = s.faults := rfl
@[simp] theorem State.accessed_ctxs : (s.accessed a).ctxs = s.ctxs := rfl
@[simp] theorem State.accessed_hp : (s.accessed a).hp = s.hp := rfl
@[simp] theorem State.accessed_obs : (s.accessed a).obs = s.obs := rfl
@[simp] theorem State.accessed_fabric : (s.accessed a).fabric = { s.fabric with live := { s.fabric.live with loads := tabSet 0 s.fabric.live.loads a (tabGet 0 s.fabric.live.loads a + 1) } } := rfl
@[simp] theorem State.accessed_pwr : (s.accessed a).pwr = s.pwr := rfl
@[simp] theorem State.accessed_dies : (s.accessed a).dies = s.dies := rfl
@[simp] theorem State.accessed_sec : (s.accessed a).sec = s.sec := rfl
@[simp] theorem State.accessed_pins : (s.accessed a).pins = s.pins := rfl
@[simp] theorem State.accessed_answer : (s.accessed a).answer = s.answer := rfl
@[simp] theorem State.accessed_fresh : (s.accessed a).fresh = s.fresh := rfl

@[simp] theorem State.putByte_pending (v : Byte) : (s.putByte a v).pending = s.pending := rfl
@[simp] theorem State.putByte_time (v : Byte) : (s.putByte a v).time = s.time := rfl
@[simp] theorem State.putByte_host (v : Byte) : (s.putByte a v).host = s.host := rfl
@[simp] theorem State.putByte_units (v : Byte) : (s.putByte a v).units = s.units := rfl
@[simp] theorem State.putByte_queues (v : Byte) : (s.putByte a v).queues = s.queues := rfl
@[simp] theorem State.putByte_chans (v : Byte) : (s.putByte a v).chans = s.chans := rfl
@[simp] theorem State.putByte_syncs (v : Byte) : (s.putByte a v).syncs = s.syncs := rfl
@[simp] theorem State.putByte_watches (v : Byte) : (s.putByte a v).watches = s.watches := rfl
@[simp] theorem State.putByte_marks (v : Byte) : (s.putByte a v).marks = s.marks := rfl
@[simp] theorem State.putByte_recfgs (v : Byte) : (s.putByte a v).recfgs = s.recfgs := rfl
@[simp] theorem State.putByte_mxe (v : Byte) : (s.putByte a v).mxe = s.mxe := rfl
@[simp] theorem State.putByte_eng (v : Byte) : (s.putByte a v).eng = s.eng := rfl
@[simp] theorem State.putByte_accDir (v : Byte) : (s.putByte a v).accDir = s.accDir := rfl
@[simp] theorem State.putByte_vregs (v : Byte) : (s.putByte a v).vregs = s.vregs := rfl
@[simp] theorem State.putByte_vmask (v : Byte) : (s.putByte a v).vmask = s.vmask := rfl
@[simp] theorem State.putByte_vx (v : Byte) : (s.putByte a v).vx = s.vx := rfl
@[simp] theorem State.putByte_recipes (v : Byte) : (s.putByte a v).recipes = s.recipes := rfl
@[simp] theorem State.putByte_dec (v : Byte) : (s.putByte a v).dec = s.dec := rfl
@[simp] theorem State.putByte_gse (v : Byte) : (s.putByte a v).gse = s.gse := rfl
@[simp] theorem State.putByte_rxe (v : Byte) : (s.putByte a v).rxe = s.rxe := rfl
@[simp] theorem State.putByte_jobs (v : Byte) : (s.putByte a v).jobs = s.jobs := rfl
@[simp] theorem State.putByte_saves (v : Byte) : (s.putByte a v).saves = s.saves := rfl
@[simp] theorem State.putByte_ports (v : Byte) : (s.putByte a v).ports = s.ports := rfl
@[simp] theorem State.putByte_torus (v : Byte) : (s.putByte a v).torus = s.torus := rfl
@[simp] theorem State.putByte_devs (v : Byte) : (s.putByte a v).devs = s.devs := rfl
@[simp] theorem State.putByte_poison (v : Byte) : (s.putByte a v).poison = s.poison := rfl
@[simp] theorem State.putByte_cxl (v : Byte) : (s.putByte a v).cxl = s.cxl := rfl
@[simp] theorem State.putByte_tlb (v : Byte) : (s.putByte a v).tlb = s.tlb := rfl
@[simp] theorem State.putByte_locked (v : Byte) : (s.putByte a v).locked = s.locked := rfl
@[simp] theorem State.putByte_ats (v : Byte) : (s.putByte a v).ats = s.ats := rfl
@[simp] theorem State.putByte_faults (v : Byte) : (s.putByte a v).faults = s.faults := rfl
@[simp] theorem State.putByte_ctxs (v : Byte) : (s.putByte a v).ctxs = s.ctxs := rfl
@[simp] theorem State.putByte_hp (v : Byte) : (s.putByte a v).hp = s.hp := rfl
@[simp] theorem State.putByte_obs (v : Byte) : (s.putByte a v).obs = s.obs := rfl
@[simp] theorem State.putByte_fabric (v : Byte) : (s.putByte a v).fabric = s.fabric := rfl
@[simp] theorem State.putByte_pwr (v : Byte) : (s.putByte a v).pwr = s.pwr := rfl
@[simp] theorem State.putByte_dies (v : Byte) : (s.putByte a v).dies = s.dies := rfl
@[simp] theorem State.putByte_sec (v : Byte) : (s.putByte a v).sec = s.sec := rfl
@[simp] theorem State.putByte_pins (v : Byte) : (s.putByte a v).pins = s.pins := rfl
@[simp] theorem State.putByte_answer (v : Byte) : (s.putByte a v).answer = s.answer := rfl
@[simp] theorem State.putByte_fresh (v : Byte) : (s.putByte a v).fresh = s.fresh := rfl

@[simp] theorem State.updJob_pending (k : U64) (f : Job → Job) : (s.updJob k f).pending = s.pending := rfl
@[simp] theorem State.updJob_time (k : U64) (f : Job → Job) : (s.updJob k f).time = s.time := rfl
@[simp] theorem State.updJob_mem (k : U64) (f : Job → Job) : (s.updJob k f).mem = s.mem := rfl
@[simp] theorem State.updJob_host (k : U64) (f : Job → Job) : (s.updJob k f).host = s.host := rfl
@[simp] theorem State.updJob_veiled (k : U64) (f : Job → Job) : (s.updJob k f).veiled = s.veiled := rfl
@[simp] theorem State.updJob_units (k : U64) (f : Job → Job) : (s.updJob k f).units = s.units := rfl
@[simp] theorem State.updJob_queues (k : U64) (f : Job → Job) : (s.updJob k f).queues = s.queues := rfl
@[simp] theorem State.updJob_chans (k : U64) (f : Job → Job) : (s.updJob k f).chans = s.chans := rfl
@[simp] theorem State.updJob_syncs (k : U64) (f : Job → Job) : (s.updJob k f).syncs = s.syncs := rfl
@[simp] theorem State.updJob_watches (k : U64) (f : Job → Job) : (s.updJob k f).watches = s.watches := rfl
@[simp] theorem State.updJob_marks (k : U64) (f : Job → Job) : (s.updJob k f).marks = s.marks := rfl
@[simp] theorem State.updJob_recfgs (k : U64) (f : Job → Job) : (s.updJob k f).recfgs = s.recfgs := rfl
@[simp] theorem State.updJob_mxe (k : U64) (f : Job → Job) : (s.updJob k f).mxe = s.mxe := rfl
@[simp] theorem State.updJob_eng (k : U64) (f : Job → Job) : (s.updJob k f).eng = s.eng := rfl
@[simp] theorem State.updJob_accDir (k : U64) (f : Job → Job) : (s.updJob k f).accDir = s.accDir := rfl
@[simp] theorem State.updJob_vregs (k : U64) (f : Job → Job) : (s.updJob k f).vregs = s.vregs := rfl
@[simp] theorem State.updJob_vmask (k : U64) (f : Job → Job) : (s.updJob k f).vmask = s.vmask := rfl
@[simp] theorem State.updJob_vx (k : U64) (f : Job → Job) : (s.updJob k f).vx = s.vx := rfl
@[simp] theorem State.updJob_recipes (k : U64) (f : Job → Job) : (s.updJob k f).recipes = s.recipes := rfl
@[simp] theorem State.updJob_dec (k : U64) (f : Job → Job) : (s.updJob k f).dec = s.dec := rfl
@[simp] theorem State.updJob_gse (k : U64) (f : Job → Job) : (s.updJob k f).gse = s.gse := rfl
@[simp] theorem State.updJob_rxe (k : U64) (f : Job → Job) : (s.updJob k f).rxe = s.rxe := rfl
@[simp] theorem State.updJob_jobs (k : U64) (f : Job → Job) : (s.updJob k f).jobs = s.jobs.map fun j => if j.jid == k && j.phase != .ended then f j else j := rfl
@[simp] theorem State.updJob_saves (k : U64) (f : Job → Job) : (s.updJob k f).saves = s.saves := rfl
@[simp] theorem State.updJob_ports (k : U64) (f : Job → Job) : (s.updJob k f).ports = s.ports := rfl
@[simp] theorem State.updJob_torus (k : U64) (f : Job → Job) : (s.updJob k f).torus = s.torus := rfl
@[simp] theorem State.updJob_devs (k : U64) (f : Job → Job) : (s.updJob k f).devs = s.devs := rfl
@[simp] theorem State.updJob_poison (k : U64) (f : Job → Job) : (s.updJob k f).poison = s.poison := rfl
@[simp] theorem State.updJob_cxl (k : U64) (f : Job → Job) : (s.updJob k f).cxl = s.cxl := rfl
@[simp] theorem State.updJob_tlb (k : U64) (f : Job → Job) : (s.updJob k f).tlb = s.tlb := rfl
@[simp] theorem State.updJob_locked (k : U64) (f : Job → Job) : (s.updJob k f).locked = s.locked := rfl
@[simp] theorem State.updJob_ats (k : U64) (f : Job → Job) : (s.updJob k f).ats = s.ats := rfl
@[simp] theorem State.updJob_faults (k : U64) (f : Job → Job) : (s.updJob k f).faults = s.faults := rfl
@[simp] theorem State.updJob_ctxs (k : U64) (f : Job → Job) : (s.updJob k f).ctxs = s.ctxs := rfl
@[simp] theorem State.updJob_hp (k : U64) (f : Job → Job) : (s.updJob k f).hp = s.hp := rfl
@[simp] theorem State.updJob_obs (k : U64) (f : Job → Job) : (s.updJob k f).obs = s.obs := rfl
@[simp] theorem State.updJob_fabric (k : U64) (f : Job → Job) : (s.updJob k f).fabric = s.fabric := rfl
@[simp] theorem State.updJob_pwr (k : U64) (f : Job → Job) : (s.updJob k f).pwr = s.pwr := rfl
@[simp] theorem State.updJob_dies (k : U64) (f : Job → Job) : (s.updJob k f).dies = s.dies := rfl
@[simp] theorem State.updJob_sec (k : U64) (f : Job → Job) : (s.updJob k f).sec = s.sec := rfl
@[simp] theorem State.updJob_pins (k : U64) (f : Job → Job) : (s.updJob k f).pins = s.pins := rfl
@[simp] theorem State.updJob_answer (k : U64) (f : Job → Job) : (s.updJob k f).answer = s.answer := rfl
@[simp] theorem State.updJob_fresh (k : U64) (f : Job → Job) : (s.updJob k f).fresh = s.fresh := rfl

end Sys2Proof.Machine
end

