-- ==== Sys2Proof/Laws/Ops.lean ====
section
/-! SUPPORT. What the shared operations do: running, rights, jobs. -/

namespace Sys2Proof.Machine

theorem State.ran_on (s : State) (g : State → State) (h : s.pwr.on = true) : s.ran g = .next (g s) := by simp [State.ran, h]

theorem State.ran_off (s : State) (g : State → State) (h : s.pwr.on = false) : s.ran g = .next s := by simp [State.ran, h]

theorem State.byBar_open (s : State) (d : Nat) (g : State → State) (h : s.pwr.on = true) (hb : s.barOpen = true) (hd : s.dieAnswers d = true) :
    s.byBar d g = .next (g s) := by simp [State.byBar, State.ran, h, hb, hd]

theorem State.byBarOf_open (s : State) (f : Func) (d : Nat) (g : State → State) (h : s.pwr.on = true) (hb : s.barOpen = true)
    (hd : s.dieAnswers d = true) : s.byBarOf f d g = .next (g (s.exchange (30 + f.port.val) d)) := by simp [State.byBarOf, State.byBar, State.ran, h, hb, hd]

theorem State.isControl_exchange (s : State) (f : Func) (a b : Nat) : (s.exchange a b).isControl f = s.isControl f := rfl

theorem State.byPwr_open (s : State) (g : State → State) (h : s.pwr.on = true) (hr : s.sec.recovery = false) : s.byPwr g = .next (g s) := by
  simp [State.byPwr, State.ran, h, hr]

theorem State.privileged_control (s : State) (f : Func) (g : State → State) (h : s.isControl f = true) : s.privileged f g = g s := by
  simp [State.privileged, h]

theorem State.privileged_denied (s : State) (f : Func) (g : State → State) (h : s.isControl f = false) : s.privileged f g = s.deny f := by
  simp [State.privileged, h]

theorem State.withJob_some (s : State) (k : U64) (f : Job → State) (j : Job) (h : s.job? k = some j) : s.withJob k f = f j := by
  simp [State.withJob, h]

/-- The live job of a JOB_ID after a change of one job that keeps JOB_ID and life. -/
theorem State.job?_updJob (s : State) (k : U64) (f : Job → Job) (hj : ∀ j, (f j).jid = j.jid) (hp : ∀ j, j.phase ≠ .ended → (f j).phase ≠ .ended)
    (i : U64) : (s.updJob k f).job? i = if i = k then (s.job? i).map f else s.job? i := by
  simp only [State.job?, State.updJob_jobs]
  induction s.jobs with
  | nil => simp
  | cons j t ih =>
    simp only [List.map_cons, List.find?_cons]
    by_cases h1 : (j.jid == k && j.phase != .ended) = true
    · have h2 : j.jid = k ∧ j.phase ≠ .ended := by simpa using h1
      have h5 : ((f j).phase != .ended) = true := by simpa using hp j h2.2
      have h6 : (j.phase != .ended) = true := by simpa using h2.2
      rw [if_pos h1]
      by_cases h3 : i = k
      · simp [h3, h2.1, hj, h5, h6]
      · have h4 : (k == i) = false := by simpa using fun e => h3 e.symm
        simp only [hj, h2.1, h4, Bool.false_and, if_neg h3] at ih ⊢
        exact ih
    · simp only [h1, Bool.false_eq_true, if_false]
      by_cases h3 : i = k
      · have h4 : (j.jid == i && j.phase != .ended) = false := by subst h3; simpa using h1
        simp only [h4, ih]
      · simp only [if_neg h3] at ih ⊢
        rw [ih]

/-- What a job found by its JOB_ID has. -/
theorem State.job?_some (s : State) (k : U64) (j : Job) (h : s.job? k = some j) : j ∈ s.jobs ∧ j.jid = k ∧ j.phase ≠ .ended := by
  have h1 := List.mem_of_find?_eq_some h
  have h2 := List.find?_some h
  simp at h2
  exact ⟨h1, h2.1, h2.2⟩

/-! ### Trace records touch counters of units and the observation block alone -/

/-- `P` outlives a step of a unit's counters. -/
def Counted (P : State → Prop) : Prop := ∀ s x n k, P s → P (s.updUnit x fun u => u.count n k)

/-- A part of a unit that counting leaves is left by every count. -/
theorem counted_unit {α : Type} (g : UnitSt → α) (hg : ∀ u n k, g (u.count n k) = g u) (x : Nat) (Q : α → Prop) :
    Counted fun s => Q (g (s.unit x)) := by
  intro s y n k h
  simp only [State.updUnit, State.unit_setUnit]
  split
  · rename_i e; subst e; rw [hg]; exact h
  · exact h

theorem Counted.and {P Q : State → Prop} (hp : Counted P) (hq : Counted Q) : Counted fun s => P s ∧ Q s :=
  fun s x n k h => ⟨hp s x n k h.1, hq s x n k h.2⟩

/-- What no update of the units can break, no count breaks. -/
theorem counted_of_frees {P : State → Prop} {m : Nat} (hw : Frees P m) (h : Nat.land 0x10 m = 0x10) : Counted P :=
  fun s _ _ _ hs => hw.free 4 h s _ hs

theorem State.traceEv_inv {P : State → Prop} (hw : Frees P 0x400000000) (hc : Counted P) (s : State) (d kind cls : Nat) (jid : U64)
    (unit : Nat) (tag : U32) (pl : List (Nat × Nat × Nat)) (hs : P s) : P (s.traceEv d kind cls jid unit tag pl) := by
  have ht (v : TraceSt) : P (s.setTrace d v) := hw.free 34 rfl s _ hs
  unfold State.traceEv State.tracePut
  simp only
  split
  · split
    · exact hc _ _ 4 _ (hc _ _ 3 _ (ht _))
    · exact ht _
  · exact hs

theorem State.syncDone_inv {P : State → Prop} (hw : Frees P 0x400000000) (hc : Counted P) (s : State) (x : Nat) (sid : U16) (op : Nat)
    (ret : U64) (hs : P s) : P (s.syncDone x sid op ret) := by
  have h1 : P (if syncHome sid < 24 then s.updUnit (syncHome sid * 16 + 15) fun u => u.count 1 1 else s) := by
    split
    · exact hc _ _ _ _ hs
    · exact hs
  unfold State.syncDone
  simp only
  split
  · exact h1
  · exact State.traceEv_inv hw hc _ _ _ _ _ _ _ _ h1

/-- Entering a wait state leaves what neither the wait state, a count nor an observation can break. -/
theorem State.setWait_inv {P : State → Prop} (hw : Frees P 0x500000000) (hc : Counted P) (s : State) (x : Nat) (w : WaitSt)
    (hs : ∀ n, P (s.setUnit x { s.unit x with wait := w, waitAt := n })) : P (s.setWait x w) := by
  unfold State.setWait
  simp only
  split
  · exact hs (s.unit x).waitAt
  · split
    · exact hs _
    · exact State.jobTrigger_keeps (hw.sub rfl) _ _ _ _ (State.traceEv_inv (hw.sub rfl) hc _ _ _ _ _ _ _ _ (hs _))

/-! ### Units and sync objects -/

theorem State.withUnitJob_some (s : State) (x : Nat) (j : Job) (f : Job → State) (h1 : (s.unit x).job = some j.jid) (h2 : s.job? j.jid = some j) :
    s.withUnitJob x f = f j := by simp [State.withUnitJob, h1, State.withJob, h2]

/-- Writing an object's value: the object, the others, and the parts it leaves. -/
theorem State.putValue_sync (s : State) (sid : U16) (v : U64) (i : Nat) :
    (s.putValue sid v).sync i = if i = sid.toNat then { s.sync sid.toNat with value := v } else s.sync i := by
  unfold State.putValue
  simp only
  split
  · rename_i h
    simp only [beq_iff_eq] at h
    subst h
    split
    · subst_vars; rfl
    · rfl
  · simp only [State.wake, State.sync, State.setSync_syncs, tabGet_tabSet]

theorem State.putValue_parts {P : State → Prop} (hw : Frees P 0x180) (s : State) (sid : U16) (v : U64) (hs : P s) : P (s.putValue sid v) :=
  State.putValue_keeps (hw.sub rfl) _ _ _ hs

end Sys2Proof.Machine
end

