-- ==== Sys2Proof/WellFormed.lean ====
section
/-! DEFINITION. Which commands are well formed: the bounds on their operands that no type says. A meaning is defined on every
command; these are the ones the hardware can meet. -/

namespace Sys2Proof

/-- The four packed fields of a vector instruction by class (R224). -/
inductive VClass where
  | arith | fma | elem | cmp | sel | cvt | logic | shift | pop | push | lred
deriving DecidableEq, Repr

/-- A destination register: V0 to V53 (R220). -/
def VOps.dstOk (w : VOps) : Bool := decide (w.dst.toNat < 54)

/-- Fields marked zero hold zero, and values R224 reserves do not occur. -/
def VOps.wf (k : VClass) (w : VOps) : Bool :=
  match k with
  | .arith => w.dstOk && decide (w.m.toNat < 16)
  | .fma => w.dstOk
  | .elem => w.dstOk && w.b == 0 && decide (w.m.toNat < 4)
  | .cmp => decide (w.dst.toNat < 8) && decide (w.m.toNat < 32)
  | .sel => w.dstOk && decide (w.m.toNat < 8)
  | .cvt => w.dstOk && decide (w.m.toNat % 4 ≠ 3)
  | .logic => w.dstOk && w.m == 0
  | .shift => w.dstOk && (decide (w.m.toNat < 32) || w.b == 0)
  | .pop => w.dstOk && decide (w.a.toNat < 9) && w.b == 0 && decide (w.m.toNat < 8)
  | .push => decide (w.dst.toNat < 16) && w.b == 0
  | .lred => w.dstOk && decide (w.b.toNat < 8)

/-- The program of a unit: six loop levels, sixteen BOUND and BIND_PTR registers (R39, R532). -/
def Cmd.wf (c : Cmd) : Bool := decide (c.bounds.length = 6) && c.gates.all (fun g => decide (g.level < 6)) && c.ins.all (fun p => decide (p.level < 6)) &&
  c.outs.all (fun p => decide (p.level < 6)) && !c.namesSet

def UnitProg.wf (p : UnitProg) : Bool := decide (p.bound.length = 16) && decide (p.bindPtr.length = 16) && p.cmds.all Cmd.wf

/-- A binary: well-formed programs, descriptors numbered in 16 bits (R200, R205). -/
def Binary.wf (b : Binary) : Bool := b.units.all UnitProg.wf && decide (b.tds.length ≤ 65536)

def Fetched.wf (f : Fetched) : Bool := match f.bin with | some b => b.wf | none => true

/-- An address of BAR0 (R519). -/
def barAddr (a : Nat) : Bool := decide (a < 2 ^ 27)

/-- A well-formed command. -/
def Instr.wf : Instr → Bool
  | .beatBoundary env => decide (env.temps.length = 32)
  | .timingWordReceive _ _ _ arr16 => decide (arr16 < 16)
  | .delayEchoReceive _ r => decide (r < 2 ^ 33)
  | .portTrained _ r _ => decide (r < 2 ^ 33)
  | .mxeCommand _ _ n => decide (1 ≤ n)
  | .gather _ n => decide (1 ≤ n)
  | .scatterAdd _ n => decide (1 ≤ n)
  | .route _ n => decide (1 ≤ n)
  | .dmaTransfer _ _ n => decide (1 ≤ n)
  | .pass2Update _ _ n => decide (1 ≤ n)
  | .fadd _ w => w.wf .arith
  | .fsub _ w => w.wf .arith
  | .fmul _ w => w.wf .arith
  | .fmax _ w => w.wf .arith
  | .fmin _ w => w.wf .arith
  | .faddPk _ w => w.wf .arith
  | .fsubPk _ w => w.wf .arith
  | .fmulPk _ w => w.wf .arith
  | .fmaxPk _ w => w.wf .arith
  | .fminPk _ w => w.wf .arith
  | .fma _ w => w.wf .fma
  | .fmaPk _ w => w.wf .fma
  | .exp2 _ w => w.wf .elem
  | .log2 _ w => w.wf .elem
  | .rcp _ w => w.wf .elem
  | .rsqrt _ w => w.wf .elem
  | .tanh _ w => w.wf .elem
  | .sin _ w => w.wf .elem
  | .cos _ w => w.wf .elem
  | .cmp _ w => w.wf .cmp
  | .sel _ w => w.wf .sel
  | .cvt _ w => w.wf .cvt
  | .and _ w => w.wf .logic
  | .or _ w => w.wf .logic
  | .xor _ w => w.wf .logic
  | .shl _ w => w.wf .shift
  | .shr _ w => w.wf .shift
  | .pop _ w => w.wf .pop
  | .push _ w => w.wf .push
  | .lred _ w => w.wf .lred
  | .ingestArrival _ _ _ _ data => !data.isEmpty
  | .gddr7Write _ _ data _ => !data.isEmpty
  | .atsInvalidation _ lo hi => decide (lo < hi)
  | .atsTranslationCompletion _ page _ _ _ n => decide (page < 2 ^ 52) && page % 2 ^ n.val == 0
  | .descriptorFetch _ ds => ds.all Fetched.wf
  | .deniedAccess _ addr _ => barAddr addr
  | .unsupportedRequest _ addr _ => barAddr addr
  | .registerWrite _ addr half v => barAddr addr && (!half || decide (v.toNat < 2 ^ 32))
  | .fruEepromWrite addr data => decide (addr < 8192) && !data.isEmpty
  | _ => true

end Sys2Proof
end

