-- ==== Sys2Proof/Tests/Slice0.lean ====
section
/-! SUPPORT. Tests: an ill-formed command for each check, worked examples of the manual, and for each statement of
Certificates/Slice0/Obligations.lean states and operands that meet what it assumes. -/

open Sys2Proof Sys2Proof.Machine

namespace Sys2Proof.Tests

set_option Elab.async false

/-! ### Ill-formed commands are refused -/

/-- A vector instruction's operands. -/
def ops (d a b m : Nat) : VOps := { dst := BitVec.ofNat 6 d, a := BitVec.ofNat 6 a, b := BitVec.ofNat 6 b, m := BitVec.ofNat 6 m }
def vxe0 : VxId := { die := 0, v := 0 }
def pf : Func := { port := 0, fn := 0 }
def vf : Func := { port := 0, fn := 1 }

/-- A command without ports or waits. -/
def cmdOf (b : Body) : Cmd :=
  { tag := 7, bounds := List.replicate 6 1, maxb := [], ins := [], outs := [], markFwd := 0, gates := [], waits := [], claim := 0, bank := .none,
    tdMaxb := [], envelope := [], writes := [], stage := 0, namesSet := false, body := b }

def prog (x : UnitId) (cs : List Cmd) : UnitProg := { x := x, cmds := cs, bound := List.replicate 16 0, bindPtr := List.replicate 16 0, recipe := [] }

def report0 : Report :=
  { reserveBeats := 10, portShare := 256, stepBeats := 0, steps := 0, crossModule := false, endOffset := 0, pins := [], scratch := [],
    saveBytes := 0, cxlLat := 0, recordBw := false, sampleStrobe := false, samples := 0, corkHolders := [], initial := [],
    torus := { x := 1, y := 1, z := 1, origin := 0, ranks := [] } }

def bin0 : Binary :=
  { digest := 0, tds := [], queues := [], syncs := [], marks := [], units := [], reconfs := [], report := report0, exch := none, update := none }

theorem test_wf_vector_destination :
    (Instr.fadd vxe0 (ops 54 0 0 0)).wf = false ∧ (Instr.fadd vxe0 (ops 53 0 0 15)).wf = true ∧ (Instr.fadd vxe0 (ops 0 0 0 16)).wf = false ∧
      (Instr.fma vxe0 (ops 54 0 0 0)).wf = false ∧ (Instr.exp2 vxe0 (ops 0 0 1 0)).wf = false ∧ (Instr.exp2 vxe0 (ops 0 0 0 4)).wf = false := by decide

theorem test_wf_vector_classes :
    (Instr.cmp vxe0 (ops 8 0 0 0)).wf = false ∧ (Instr.cmp vxe0 (ops 0 0 0 32)).wf = false ∧ (Instr.sel vxe0 (ops 0 0 0 8)).wf = false ∧
      (Instr.cvt vxe0 (ops 0 0 0 3)).wf = false ∧ (Instr.and vxe0 (ops 0 0 0 1)).wf = false ∧ (Instr.shl vxe0 (ops 0 0 1 32)).wf = false ∧
      (Instr.pop vxe0 (ops 0 9 0 0)).wf = false ∧ (Instr.push vxe0 (ops 16 0 0 0)).wf = false ∧ (Instr.lred vxe0 (ops 0 0 8 0)).wf = false := by decide

theorem test_wf_ranges :
    (Instr.delayEchoReceive 0 (2 ^ 33)).wf = false ∧ (Instr.portTrained 0 (2 ^ 33) 0).wf = false ∧ (Instr.timingWordReceive 0 0 true 16).wf = false ∧
      (Instr.ingestArrival 1 0 false 0 []).wf = false ∧ (Instr.atsInvalidation 0 5 5).wf = false ∧
      (Instr.atsTranslationCompletion 0 (2 ^ 52) true true).wf = false ∧ (Instr.atsTranslationCompletion 0 1 true true 0 1).wf = false ∧
      (Instr.gddr7Write (.link 0) 0 [] { pattern := 0 }).wf = false := by decide

theorem test_wf_counts :
    (Instr.mxeCommand 0 0 0).wf = false ∧ (Instr.gather 0 0).wf = false ∧ (Instr.scatterAdd 0 0).wf = false ∧ (Instr.route 0 0).wf = false ∧
      (Instr.dmaTransfer 0 0 0).wf = false ∧ (Instr.pass2Update 0 0 0).wf = false := by decide +kernel

theorem test_wf_registers_and_sideband :
    (Instr.registerWrite pf (2 ^ 27) false 0).wf = false ∧ (Instr.registerWrite pf 0 true (2 ^ 32)).wf = false ∧
      (Instr.deniedAccess pf (2 ^ 27) true).wf = false ∧ (Instr.unsupportedRequest pf (2 ^ 27) 4).wf = false ∧
      (Instr.fruEepromWrite 8192 [0]).wf = false ∧ (Instr.fruEepromWrite 256 []).wf = false ∧
      (Instr.beatBoundary { vin := 0, iin := 0, temps := [], coolIn := 0, coolOut := 0 }).wf = false := by decide

theorem test_wf_binary :
    (Instr.descriptorFetch 0 [{ desc := 0, bin := some bin0 }]).wf = true ∧
      (Instr.descriptorFetch 0 [{ desc := 0, bin := some { bin0 with units := [prog { die := 0, u := 0 } [{ cmdOf .upe with bounds := [] }]] } }]).wf =
        false ∧
      (Instr.descriptorFetch 0 [{ desc := 0, bin := some { bin0 with units := [{ prog { die := 0, u := 0 } [] with bound := [] }] } }]).wf = false ∧
      (UnitProg.wf { prog { die := 0, u := 0 } [] with bindPtr := [] }) = false ∧
      (Cmd.wf { cmdOf .upe with gates := [{ level := 6, mark := 0 }] }) = false ∧ (Cmd.wf { cmdOf .upe with ins := [{ port := 0, level := 6 }] }) = false ∧
      (Cmd.wf { cmdOf .upe with outs := [{ port := 0, level := 6 }] }) = false ∧ (Cmd.wf { cmdOf .upe with namesSet := true }) = false := by decide

/-- The table gives no row any bits, so no word spells a command. -/
theorem test_no_word_spells_a_command : decodeTableWord 32 0 = none ∧ decodeTableWord 0 0 = none := by decide

/-! ### Worked examples and tables of the manual -/

/-- "Worked example" after R66: FETCH_ADD(1) three times at value 8 with BOUND 10 gives claims 8 and 9 and then BOUND. -/
theorem test_worked_example_claims :
    claimsOf { SyncObj.reset with value := 8, ty := 1, bound := 10 } [1, 1, 1] = [(8, 9), (9, 10), (10, 10)] := by decide

/-- "Worked example" after R136: 0x3F80_C000 to BF16 is 0x3F81 under RNE, 0x3F80 under RZ, and under SR 0x3F80 with r = 0x3A00,
0x3F81 with r = 0x4000. -/
theorem test_worked_example_bf16 :
    (bf16.convert .rne false (fp32.decode 0x3F80C000)).1 = 0x3F81 ∧ (bf16.convert .rz false (fp32.decode 0x3F80C000)).1 = 0x3F80 ∧
      (bf16.convert (.sr 0x3A00) false (fp32.decode 0x3F80C000)).1 = 0x3F80 ∧
      (bf16.convert (.sr 0x4000) false (fp32.decode 0x3F80C000)).1 = 0x3F81 := by decide

/-- "Worked example" after R371: the address 0x0012_3456_7840 lies in device 6. -/
theorem test_worked_example_address_map : (gddrMap 0x001234567840).dev = 6 := by decide

/-- "Worked example" of the register reference: the addresses of QCFG[300] and of sync object 5 of CD9, and of NL_TORUS through YP. -/
theorem test_worked_example_registers :
    blockOf 0x02918960 = (.cd 9, 0x18000 + 300 * 8) ∧ blockOf 0x02920050 = (.cd 9, 0x20000 + 5 * 16) ∧
      blockOf 0x04808010 = (.nl 2, 0x10) ∧ blockOf 0x0290A118 = (.cd 9, 10 * 0x1000 + 0x100 + 3 * 8) ∧
      RegBlock.sid (.cd 9) 0x20050 = some 18437 := by decide

/-- The same: bank 13, slot 6 of block 821,021, physical burst 26,272,678. -/
theorem test_worked_example_burst :
    (gddrMap 0x001234567840).blk = 821021 ∧ (gddrMap 0x001234567840).slot = 6 ∧ (gddrMap 0x001234567840).raw = 26272678 ∧
      (gddrMap 0x001234567840).bank = 13 ∧ gddrUnmap 6 821021 6 = 0x001234567840 := by decide

/-- Byte cells of a little-endian word in memory. -/
def cellsOf (a n v : Nat) : List Host.Cell := ((List.range n).zip (bytesOf n v)).filterMap fun e => if e.2 = 0 then none else some (a + e.1, e.2)

/-- "Worked example" after R401: the walk of DVA 0x0001_0000_3456_7840 in context 3 through two tables to a page of 1 GiB. -/
def walkState : State :=
  { State.reset with
    mem := cellsOf 0x201000 8 0x400001 ++ cellsOf 0x400000 8 0x12_0000_000F
    ctxs := [(3, { CtxSt.resetAt 3 with ttCtrl := 0x31, ttRoot := 0x200000 })] }

theorem test_worked_example_walk :
    walkState.walk 3 0x0001000034567840 = .ok { lo := 0x0001000000000000, size := 2 ^ 30, tgt := 0, out := 0x001200000000, r := true, w := true } := by
  decide +kernel

/-- "Worked example" of NL_TORUS: 0x4E73_8063 written through YP reads back through XP with VALID set. -/
theorem test_worked_example_torus :
    (match exec (.nlTorusWrite pf 2 0x4E738063) State.reset with | .next t => t.regRead 0x04800010 | _ => 0) = 0x000020004E738063 := by decide +kernel

/-- R115's table: the largest values of E4M3 and E5M2, the smallest of E4M3. -/
theorem test_table_of_formats :
    e4m3.decode 0x7E = .fin false 14 5 ∧ e5m2.decode 0x7B = .fin false 7 13 ∧ e4m3.decode 0x01 = .fin false 1 (-9) ∧ e4m3.decode 0x7F = .nan false ∧
      e5m2.decode 0x7C = .inf false := by decide

/-- "Worked example" of the ladder: 101 beats below 57 V enter L3, 100 do not. -/
theorem test_worked_example_ladder : risen 2 [0, 0, 101, 0, 0] false = 3 ∧ risen 2 [0, 0, 100, 0, 0] false = 2 := by decide

/-! ### What the statements assume can be met -/

/-- A job of context 0. -/
def jobOf (b : Binary) (ph : JobPhase) : Job := { newJob 0 0 b 0 10 ph with jid := 1 }

/-- A unit of a running job at a command. -/
def busy (x : UnitId) (c : Cmd) (b : Binary) (f : UnitSt → UnitSt) : State :=
  { State.reset with
    jobs := [jobOf b .running]
    units := [(x.addr, f { UnitSt.reset with job := some 1, cmds := [c], ocredit := List.replicate 9 8, wait := .run 7 })] }

def mx : UnitId := { die := 0, u := 0 }
def dma : UnitId := { die := 0, u := 12 }
def cmd0 : Cmd := cmdOf (.dmx 0 0 { org := [], ext := [] } { org := [], ext := [] })

/-- O1, O5, O6: a command waits; the module is on at phase 0; a warm reset is due; it is off; the beat is at its last cycle. -/
theorem witness_step :
    (State.reset.pending = [] ∧ State.reset.pwr.on = true ∧ State.reset.time.phase < 2249 ∧ State.reset.standaloneJob = none ∧
      State.reset.sec.resetAt = none) ∧
    (({ State.reset with sec := { SecSt.reset with resetAt := some 1 } } : State).sec.resetAt = some 1 ∧ 1 ≤ State.reset.gt + 1) ∧
    { State.reset with pwr := { PowerSt.reset with on := false } }.pwr.on = false ∧
    2249 ≤ ({ State.reset with time := { TimeSt.reset with phase := 2249 } } : State).time.phase := by decide

/-- O3, O4: a command goes on, and what it may not write it leaves. -/
theorem witness_frame : exec (.beatEdge 0) State.reset = .next State.reset ∧ Area.mem ∉ (Instr.signal mx 0 0).mayWrite ∧ Safe State.reset :=
  ⟨rfl, by decide, by unfold Safe; decide⟩

/-- O7: what a boundary meets; a warm reset due at it. -/
theorem witness_beat_boundary :
    let s := State.reset
    let held : State := { s with jobs := [jobOf { bin0 with marks := [{ id := 0, offset := 0, step := false, role := .endMark }] } .running] }
    s.pwr.on = true ∧ s.pwr.level < 5 ∧ s.sec.resetAt = none ∧ s.time.ctrlNext = none ∧ s.time.localSet = none ∧ s.time.lockDelta = none ∧
      s.stepGuard = false ∧ ({ s with time := { s.time with localSet := some 5 } } : State).time.localSet = some 5 ∧
      ({ s with time := { s.time with lockDelta := some (-1) } } : State).time.lockDelta = some (-1) ∧
      ({ s with time := { s.time with ctrlNext := some 1 } } : State).time.ctrlNext = some 1 ∧ held.stepGuard = true ∧
      (∀ d : Fin 32, (s.dieAt d.val).cmds = []) ∧ (s.port 5).delayNext = none ∧
      ((s.setPort 5 { NlPort.reset with delayNext := some 3 }).port 5).delayNext = some 3 ∧ 2250 ≤ (s.time.beat + 1) % 2 ^ 48 * 2250 := by decide +kernel

/-- Time states. -/
def timed (f : TimeSt → TimeSt) : State := { State.reset with time := f TimeSt.reset }

/-- O8: an edge at the beat root in each state, at the bounds of 900 ns, 4 beats, and of the holdover limit; a cross-module job at the expiry. -/
theorem witness_edges :
    let acq := timed fun t => { t with role := 1, st := .acquiring, beatSet := some 7, acqAt := some 2250 }
    let out := { timed fun t => { t with st := .holdover, held := 256 } with
      jobs := [jobOf { bin0 with report := { report0 with crossModule := true } } .running] }
    (acq.time.acqAt ≠ some acq.gt ∧ acq.stepGuard = false ∧ acq.time.phase = 0 ∧ acq.time.beatSet = some 7 ∧
      (timed fun t => { t with role := 1, st := .acquiring, beatSet := some 7, acqAt := some 0 }).time.acqAt = some 0 ∧ (899 < 900 ∧ 900 ≤ 900) ∧
      (timed fun t => { t with role := 1, st := .locked }).time.beatSet = none ∧
      (timed fun t => { t with role := 1, st := .locked, beatSet := some 7 }).time.ctrlNext = none ∧ State.reset.pwr.level < 5 ∧
      (timed fun t => { t with role := 1, st := .holdover, held := 255 }).time.held < TimeSt.reset.holdLimit ∧
      (timed fun t => { t with st := .locked, silent := 3 }).time.silent < 4 ∧ (timed fun t => { t with st := .locked, silent := 4 }).time.silent = 4 ∧
      min out.time.holdBeats.toNat 1024 ≤ out.time.held) ∧ ∃ j, out.job? 1 = some j ∧ j.cross = true ∧ j.phase = .running :=
  ⟨by decide +kernel, jobOf { bin0 with report := { report0 with crossModule := true } } .running, by decide +kernel⟩

/-- O9: the control function and another; ROLE 0, 1 and 2; a step held; cross-module jobs or none. -/
theorem witness_time_registers :
    State.reset.barOpen = true ∧ State.reset.dieAnswers 28 = true ∧ State.reset.isControl pf = true ∧ State.reset.isControl vf = false ∧
      State.reset.stepGuard = false ∧ State.reset.crossAdmitted = false ∧
      ({ State.reset with jobs := [jobOf { bin0 with report := { report0 with crossModule := true } } .running] } : State).crossAdmitted = true ∧
      bits (5 : U64) 2 3 < 6 := by decide +kernel

/-- O10: a timing word that a follower accepts, and one it does not; ports that are UP, an echo that is out. -/
def goodWord : BitVec 128 :=
  let w : BitVec 128 := pack 128 [(0, 48, 9), (68, 6, 3), (74, 15, 0x63)]
  putField w 112 16 (timingCrc w).toNat

def follower (f : TimeSt → TimeSt) : State := (timed fun t => f { t with role := 2, upstream := 3 }).setPort 3 { NlPort.reset with st := 2, echo := true }

/-- O10: a timing word that a follower accepts, and one it does not, in each time state; ports that are UP, an echo that is out. -/
theorem witness_timing_distribution :
    let s := follower id
    s.time.role = 2 ∧ s.time.upstream.toNat = (3 : Fin 6).val ∧ (s.port 3).st = 2 ∧ s.time.accepts goodWord = true ∧ s.time.accepts 0 = false ∧
      s.time.st = .free ∧ s.time.upstream.toNat ≠ (2 : Fin 6).val ∧ State.reset.time.role ≠ 2 ∧ (State.reset.port 3).st ≠ 2 ∧
      (follower fun t => { t with st := .locked }).time.accepts goodWord = true ∧
      (follower fun t => { t with st := .acquiring, agree := 15 }).time.accepts goodWord = true ∧
      (follower fun t => { t with st := .holdover, held := 255 }).time.accepts goodWord = true ∧
      (follower fun t => { t with st := .holdover, held := 255 }).time.held < (follower fun t => { t with st := .holdover, held := 255 }).time.holdLimit ∧
      (s.port 3).echo = true ∧ (s.port 2).echo = false ∧ 2 ^ 33 - 1 < 2 ^ 33 ∧ s.time.beat % 1024 = 0 ∧ s.time.phase = 0 ∧ 1023 % 1024 ≠ 0 := by
  decide +kernel

/-- O11: a unit whose operation on an armed object, PLAIN or WORK, is taken. -/
def armed (ty : BitVec 2) : State :=
  (busy dma cmd0 bin0 id).setSync 18437 { SyncObj.reset with value := 8, ty := ty, bound := 10, armed := true }

theorem witness_sync_operations : SyncReady (armed 0) dma.addr 18437 ∧ SyncReady (armed 1) dma.addr 18437 ∧
    ((armed 0).sync 18437).ty = 0 ∧ ((armed 1).sync 18437).ty = 1 := by
  unfold SyncReady Working
  exact ⟨⟨⟨jobOf bin0 .running, by decide +kernel⟩, by decide +kernel⟩, ⟨⟨jobOf bin0 .running, by decide +kernel⟩, by decide +kernel⟩, by decide +kernel⟩

/-- O12: the window with objects armed and not, owned and not; a reply and a satisfied watch on their way to a unit, and none. -/
theorem witness_sync_window_and_replies :
    let s := busy dma cmd0 bin0 fun u => { u with
      replies := [{ sid := 5, value := 1, kind := 0, slot := 0 }, { sid := 5, value := 2, kind := 2, slot := 0 }]
      wait := .sync 5 1 }
    let t := s.setWatch dma.addr (some { sid := 5, value := 1, hit := true })
    (s.barOpen = true ∧ s.dieAnswers (syncHome 5) = true ∧ (s.sync 5).armed = false ∧ ((armed 0).sync 18437).armed = true ∧
      s.isControl pf = true ∧ s.isControl vf = false ∧ (s.sync 5).ctx.toNat = pf.ctx ∧ (s.sync 5).ctx.toNat ≠ vf.ctx) ∧
      (s.unit dma.addr).replies.find? (fun r => r.kind != 1) = some { sid := 5, value := 1, kind := 0, slot := 0 } ∧
      (State.reset.unit dma.addr).replies.find? (fun r => r.kind != 1) = none ∧ s.watch dma.addr = none ∧
      (s.setWatch dma.addr (some { sid := 5, value := 1, hit := false })).watch dma.addr = some { sid := 5, value := 1, hit := false } ∧
      t.watch dma.addr = some { sid := 5, value := 1, hit := true } ∧ (t.unit dma.addr).wait.code = 3 ∧ (t.unit dma.addr).stopped = false ∧
      (t.unit dma.addr).cmd? ≠ none := by decide +kernel

/-- A command that claims two at a time from object 18,437. -/
def claimCmd : Cmd := { cmd0 with claim := pack 64 [(0, 1, 1), (8, 16, 2), (32, 16, 18437)] }

def claiming (c : ClaimSt) : State :=
  (busy dma claimCmd bin0 fun u => { u with started := true, bnd := List.replicate 6 1, claim := c }).setSync 18437
    { SyncObj.reset with value := 8, ty := 1, bound := 10, armed := true }

/-- O13, O17: an object below its bound, and at it; a unit without a claim, with a request out, with the next one at hand, with a reply that
reaches BOUND, and inside a claim. -/
theorem witness_claims :
    (let o : SyncObj := { SyncObj.reset with value := 8, ty := 1, bound := 10 };
      o.ty = 1 ∧ o.value.toNat ≤ o.bound.toNat ∧ ({ o with value := 10 }.fetchAdd 3).2.toNat = o.bound.toNat) ∧
    (∀ c ∈ [ClaimSt.idle, { ClaimSt.idle with inFlight := true }, { ClaimSt.idle with next := some 9 }, { ClaimSt.idle with next := some 10 },
        { ClaimSt.idle with cur := 4, hi := 5 }],
      let s := claiming c
      let u := s.unit dma.addr
      Commanded s dma.addr (jobOf bin0 .running) claimCmd ∧ SyncReady s dma.addr claimCmd.claimSync ∧ claimCmd.claimEn = true ∧ u.started = true ∧
        u.claim.ended = false ∧ u.reads = [] ∧ u.prog = 0 ∧ u.claim = c ∧ u.empty claimCmd = false ∧
        s.clockGated dma.addr (jobOf bin0 .running) claimCmd = false ∧ s.portsBlock dma.addr (claimEndIns claimCmd u) = none ∧
        s.replayed 1 4 [dma.addr, claimCmd.tag.toNat, claimCmd.claimSync.toNat] = none ∧
        s.noCredit dma.addr (((sortPorts claimCmd.outs).filter fun b => b.inline && decide (b.level < claimCmd.claimLevel)).map (·.port.val)) = none ∧
        (s.sync claimCmd.claimSync.toNat).bound.toNat = 10) := by
  refine ⟨by decide, ?_⟩
  intro c hc
  simp only [List.mem_cons, List.not_mem_nil, or_false] at hc
  unfold Commanded SyncReady Working
  rcases hc with h | h | h | h | h <;> subst h <;>
    exact ⟨by decide +kernel, ⟨⟨jobOf bin0 .running, by decide +kernel⟩, by decide +kernel⟩, by decide +kernel⟩

/-- A page of the context's scratchpad that stands locked in its translation unit. -/
def withPage (s : State) : State :=
  { s with locked := [{ asid := 0, lo := 0, size := 65536, tgt := 0, out := scratchAddr 0 0, w := true, ctx := 0, pin := 0, die := 0, grants := 0 }] }

/-- O14: a command not yet started. -/
theorem witness_command_start :
    let s := busy dma cmd0 bin0 id
    let j := jobOf bin0 .running
    Commanded s dma.addr j cmd0 ∧ (s.unit dma.addr).started = false ∧ s.effMaps (whoOf dma.addr j) bin0 cmd0 cmd0.envelope = .ok ([], 0) ∧
      cmd0.tdMaxb = [] ∧ (∀ l < 6, bit (cmd0.bounds.getD l 1) 31 = false) ∧ (s.unit dma.addr).bnd.length = 6 := by
  unfold Commanded Working; decide +kernel

/-- O14: a bound read outstanding, of a sync object with its reply there, its value above MAXB, and of memory, its value not above. -/
theorem witness_bound_reads :
    let j := jobOf bin0 .running
    let r : BoundRead := { slot := 0, word := BitVec.ofNat 32 (2 ^ 29 + 18437), maxb := 7 }
    let q : BoundRead := { slot := 5, word := 3, maxb := 0 }
    let t := busy dma cmd0 bin0 fun u => { u with reads := [r], replies := [{ sid := 18437, value := 8, kind := 1, slot := 0 }] }
    let m := withPage (busy dma cmd0 bin0 fun u => { u with reads := [q] })
    (Commanded t dma.addr j cmd0 ∧ (t.unit dma.addr).reads.find? (fun r => r.slot == 0) = some r ∧ bits r.word 29 2 = 1 ∧
      (t.unit dma.addr).replies.find? (fun q => q.kind == 1 && q.slot == 0) = some { sid := 18437, value := 8, kind := 1, slot := 0 } ∧
      r.maxb.toNat < 8 ∧ t.replayed 1 4 [dma.addr, cmd0.tag.toNat, r.word.toNat] = none) ∧
    (Commanded m dma.addr j cmd0 ∧ (m.unit dma.addr).reads.find? (fun r => r.slot == 5) = some q ∧ bits q.word 29 2 ≠ 1 ∧
      m.boundWord dma.addr j cmd0 q = .ok 0 ∧ m.replayed 1 4 [dma.addr, cmd0.tag.toNat, q.word.toNat] = none) := by
  unfold Commanded Working; decide +kernel

/-- A queue of unit 12 of CD0 at input port 0, one token in it, fed by the same unit's port 1. -/
def queueAt (tok : List Token) : QueueSt :=
  { QueueSt.reset with cfg := pack 64 [(16, 12, 7), (28, 5, 0), (33, 4, 12), (37, 3, 1), (40, 4, 12), (44, 3, 0), (47, 1, 1)], toks := tok }

def tokenOf (kind : Nat) (epoch : Nat) : Token := { hdr := tokenHdr epoch 3 kind false 12 0 0, pay := 0 }

def inCmd : Cmd := { cmd0 with ins := [{ port := 0, level := 0 }], outs := [{ port := 1, level := 0 }], markFwd := 2 }

def fed (f : UnitSt → UnitSt) (l : List Token) : State := (busy dma inCmd bin0 f).setQueue 0 (queueAt l)

/-- O15: an iteration that may fire, of a command with a token at its port and of one that claims; one that waits for a token, meets a stale one,
an END, a MARK; bounds of 0 outside and inside a claim; an envelope not yet read. -/
theorem witness_iteration_fires :
    let on (u : UnitSt) : UnitSt := { u with started := true, bnd := List.replicate 6 1 }
    let j := jobOf bin0 .running
    let s := fed on [tokenOf 0 0]
    let u := s.unit dma.addr
    (Commanded s dma.addr j inCmd ∧ u.started = true ∧ u.done = false ∧ u.reads = [] ∧ u.prog = 0 ∧ inCmd.envelope = [] ∧
      u.empty inCmd = false ∧ u.emptyClaim inCmd = false ∧ inCmd.claimEn = false ∧ s.fireBlock dma.addr j inCmd = none ∧
      (∀ k ∈ (s.popPorts dma.addr ((sortPorts inCmd.ins).filter fun b => innerZero inCmd u b.level)).2, k.tag = 3)) ∧
    (fed on []).fireBlock dma.addr j inCmd = some (.wait (.token 0)) ∧
    (match (fed on [tokenOf 0 5]).fireBlock dma.addr j inCmd with | some (.stale 0) => true | _ => false) = true ∧
    (fed on [tokenOf 3 0]).fireBlock dma.addr j inCmd = some .underrun ∧ (fed on [tokenOf 1 0]).fireBlock dma.addr j inCmd = some .notData ∧
    ((fed (fun u => { on u with bnd := [0, 1, 1, 1, 1, 1] }) []).unit dma.addr).empty inCmd = true ∧
    (let e : Cmd := { inCmd with envelope := [(0, [])] }; e.envelope ≠ [] ∧ u.effMap = []) ∧
    (let c := { ClaimSt.idle with cur := 4, hi := 6, inFlight := true };
      claimCmd.claimEn = true ∧ claimCmd.worked = true ∧ ((claiming c).unit dma.addr).claim.cur < ((claiming c).unit dma.addr).claim.hi ∧
        ((claiming c).unit dma.addr).emptyClaim claimCmd = false ∧ (claiming c).fireBlock dma.addr j claimCmd = none ∧
        ((claiming .idle).unit dma.addr).claim.hi ≤ ((claiming .idle).unit dma.addr).claim.cur) := by
  unfold Commanded Working; decide +kernel

/-- O16: a MARK, a DRAIN, a stale token and an END at the head, with and without credits; a clock-gated unit; a command whose iterations are
done, one whose END is sent, with an END to take, with a DATA token instead, with nothing there, with a command after it. -/
theorem witness_control_tokens_and_command_end :
    let j := jobOf bin0 .running
    let dry (u : UnitSt) : UnitSt := { u with ocredit := List.replicate 9 0 }
    let fwd := (List.range 8).filter fun q => bit inCmd.markFwd q
    let gated : Cmd := { inCmd with gates := [{ level := 0, mark := 9 }] }
    (∀ k ∈ [1, 2], let s := fed id [tokenOf k 0];
      Commanded s dma.addr j inCmd ∧ s.headTok dma.addr 0 = some (0, tokenOf k 0) ∧ s.clockGated dma.addr j inCmd = false ∧
        (tokenOf k 0).epoch = (s.unit dma.addr).epoch.toNat ∧ (tokenOf k 0).kind = k ∧ (s.unit dma.addr).prog = 0 ∧
        (streamPort inCmd).isNone = true ∧ s.noCredit dma.addr fwd = none ∧ ((fed dry [tokenOf k 0]).noCredit dma.addr fwd).isSome = true ∧
        s.noCredit dma.addr ((inCmd.outs.filter fun b => ((inCmd.ins.filter fun b => b.port == (0 : Fin 9)).map (·.level)).contains b.level).map
          (·.port.val)) = none) ∧
    (tokenOf 0 5).epoch ≠ ((fed id [tokenOf 0 5]).unit dma.addr).epoch.toNat ∧
    ({ busy dma gated bin0 (fun u => { u with started := true, bnd := List.replicate 6 1, wait := .mark 100 }) with
      marks := [{ gt := 100, jid := 1, decl := { id := 9, offset := 100, step := false, role := .other }, period := 0, dies := [(0, 1)] }] } : State).clockGated
        dma.addr j gated = true ∧
    (let s := fed (fun u => { u with started := true, done := true }) [];
      let u := s.unit dma.addr
      u.started = true ∧ u.endSent = false ∧ u.reads = [] ∧ u.prog = 0 ∧ u.done = true ∧ inCmd.claimEn = false ∧
        s.noCredit dma.addr ((sortPorts inCmd.outs).map (·.port.val)) = none ∧
        ((fed dry []).noCredit dma.addr ((sortPorts inCmd.outs).map (·.port.val))).isSome = true) ∧
    (let sent (u : UnitSt) : UnitSt := { u with started := true, endSent := true, done := true }
      let ports := (sortPorts inCmd.ins).map fun b => b.port.val
      ((fed sent [tokenOf 3 0]).unit dma.addr).endSent = true ∧ (fed sent [tokenOf 3 0]).endBlock dma.addr ports = none ∧
        ((fed sent [tokenOf 3 0]).unit dma.addr).cmds[((fed sent [tokenOf 3 0]).unit dma.addr).idx + 1]? = none ∧
        (((fed (fun u => { sent u with cmds := [inCmd, inCmd] }) [tokenOf 3 0]).unit dma.addr).cmds[1]?).isSome = true ∧
        (match (fed sent []).endBlock dma.addr ports with | some (.wait _) => true | _ => false) = true ∧
        (fed sent [tokenOf 0 0]).endBlock dma.addr ports = some .underrun) := by
  unfold Commanded Working; decide +kernel

/-- O17: a token in flight between neighbours and none, a credit on its way and none, a disabled queue and an enabled one. -/
theorem witness_crossing_and_credit :
    (State.reset.setChan 1 [{ q := 512, ready := 0, tok := tokenOf 0 0 }]).chan (0 * 32 + 1) = [{ q := 512, ready := 0, tok := tokenOf 0 0 }] ∧
      nextFlying [{ q := 512, ready := 0, tok := tokenOf 0 0 }] = some { q := 512, ready := 0, tok := tokenOf 0 0 } ∧ (edgeOf 0 1).isSome = true ∧
      State.reset.chan 1 = [] ∧ (State.reset.queue 0).credBack = 0 ∧
      0 < ((State.reset.setQueue 0 { queueAt [] with credBack := 1 }).queue (512 * 0 + 0)).credBack ∧
      State.reset.barOpen = true ∧ State.reset.dieAnswers 0 = true ∧ (State.reset.queue 0).en = false ∧
      ((State.reset.setQueue 0 (queueAt [])).queue 0).en = true ∧ bit (queueAt []).cfg 47 = true ∧ State.reset.isControl vf = false := by decide +kernel

/-- Whether an access succeeded. -/
def fine {α : Type} : Acc α → Bool | .ok _ => true | _ => false

/-- O18: a mark of another role and an INGEST_OPEN mark due, an object rearmed by it; a reconfiguration whose queues are empty, and not. -/
def markAt (r : MarkRole) : MarkSt := { gt := 0, jid := 1, decl := { id := 9, offset := 0, step := true, role := r }, period := 0, dies := [(0, 1)] }

def rearmBin : Binary := { bin0 with syncs := [{ sid := 5, value := 3, work := false, signed := false, bound := 0, rearm := some 9 }] }

theorem witness_marks_and_reconfiguration :
    State.reset.dueMarks = [] ∧
    (∀ r ∈ [MarkRole.other, .fwdStart, .ingestOpen],
      let s : State := { State.reset with jobs := [jobOf rearmBin .running], marks := [markAt r] };
      s.dueMarks = [markAt r] ∧ markAt r ∈ s.marks ∧ s.job? (markAt r).jid = some (jobOf rearmBin .running) ∧ (∀ c ∈ rearmBin.reconfs, c.mark ≠ 9) ∧
        s.dieAnswers (syncHome 5) = true ∧ (∀ d ∈ rearmBin.syncs, ∀ e ∈ rearmBin.syncs, e.sid = d.sid → e = d)) ∧
    (let rc : Reconf := { mark := 9, flush := false, units := [prog dma [cmd0]], queues := [{ die := 0, qid := 0, qcfg := (queueAt []).cfg }] };
      let r : RecfgSt := { jid := 1, rc := rc, period := 0, passed := 0, switched := false, units := [], tokens := 0 };
      let s : State := { busy dma cmd0 bin0 id with recfgs := [r] };
      s.recfgs = [r] ∧ r.switched = false ∧ s.job? r.jid = some (jobOf bin0 .running) ∧ s.drained r.rc = true ∧
        (s.setQueue 0 (queueAt [tokenOf 0 0])).drained rc = false ∧ (r.rc.units.map fun p => p.x.addr).Nodup) := by
  decide +kernel

/-- O19: an arrival in a window and after it, under CARRY and without; a job stopping, saving, and resuming with an image that is whole and one
that is not. -/
def upState (j : Job) : State := { State.reset with jobs := [j], hp := [(0, { HostPort.resetAt 0 with link := 2 })] }

def imageOf (d : BitVec 512) : SaveImg :=
  { jid := 1, ctx := 0, dva := 0, pa := 0, digest := d, units := [(dma.addr, { UnitSt.reset with cmds := [cmd0] })], queues := [], syncs := [], watches := [],
    scratch := [], mxe := [], dir := [], dec := [], vregs := [], vmask := [], vx := [], recipe := [], gse := [], rxe := [], marks := [], recfgs := [],
    faults := [], saveGt := 0 }

def winBin (b : Binary) : Binary :=
  { b with marks := [{ id := 1, offset := 0, step := false, role := .ingestOpen }, { id := 2, offset := 2250, step := false, role := .ingestClose }] }

def arriveAt (j : Job) (beat : Nat) : State := { upState j with time := { TimeSt.reset with beat := beat } }

theorem witness_ingest_arrival :
    let j := { jobOf (winBin bin0) .running with base := 10 }
    let c := jobOf (winBin { bin0 with exch := some { header := pack 256 [(16, 2, 1)], buckets := [], halo := [], layerBlock := [], plan := [] } }) .running
    (upState j).job? 1 = some j ∧ ((upState j).hpAt 0).link = 2 ∧ (State.reset.hpAt 0).link ≠ 2 ∧ j.stamped (arriveAt j (j.base - 1)).gt = .before ∧
      j.stamped (arriveAt j j.base).gt = .inside 0 ∧ j.stamped ((arriveAt j j.base).gt + 2249) = .inside 0 ∧
      j.stamped (arriveAt j (j.base + 1)).gt = .late 0 ∧ j.policy ≠ 1 ∧ c.policy = 1 := by
  decide +kernel

/-- The save area of a job that keeps none but its header, with a digest in it. -/
def saveJob : Job := jobOf { bin0 with report := { report0 with saveBytes := 128 } } .resuming
def savedState (d : BitVec 512) : State :=
  { withPage (upState saveJob) with mem := writeBytes [] (scratchAddr 0 0 + 64) (bytesOf 64 d.toNat) }

set_option exponentiation.threshold 600 in
/-- O19: a save area is whole whose header holds the digest of what follows. -/
theorem witness_save_intact : (savedState (Config.sha512 [])).saveIntact saveJob (imageOf (Config.sha512 [])) = true := by
  have he : (savedState (Config.sha512 [])).areaDigest saveJob = Config.sha512 [] := rfl
  have hx : (savedState (Config.sha512 [])).areaPoisoned saveJob.ctx.val saveJob.saveDva saveJob.bin.report.saveBytes = false := by decide +kernel
  have hp : ∀ i < 64, (savedState (Config.sha512 [])).peek? 0 (0 + 64 + i) = some (scratchAddr 0 0 + 64 + i) := by decide +kernel
  generalize Config.sha512 [] = d at he hx hp
  have hm : (savedState d).mem = writeBytes [] (scratchAddr 0 0 + 64) (bytesOf 64 d.toNat) := by simp only [savedState]
  have hv : (savedState d).veiled = [] := by simp only [savedState]; rfl
  have hb (i : Nat) (h : i < 64) : (savedState d).byteAt (scratchAddr 0 0 + 64 + i) = (bytesOf 64 d.toNat).getD i 0 := by
    simp only [State.byteAt, hv, List.find?_nil, hm]
    exact readByte_writeBytes_inside _ _ _ _ (by rw [bytesOf_length]; exact h)
  have ha : (savedState d).areaBytes 0 (0 + 64) 64 = bytesOf 64 d.toNat := by
    have hl : ∀ l : List Byte, l.length = 64 → (List.range 64).map (fun i => l.getD i 0) = l := by
      intro l h
      refine List.ext_getElem (by rw [List.length_map, List.length_range, h]) fun i h1 h2 => ?_
      rw [List.getElem_map, List.getElem_range]
      exact List.getD_eq_getElem _ _ h2
    rw [← hl (bytesOf 64 d.toNat) (bytesOf_length _ _), State.areaBytes]
    refine List.map_congr_left fun i hi => ?_
    rw [hp i (List.mem_range.mp hi)]
    exact hb i (List.mem_range.mp hi)
  have hd : ofBytes ((savedState d).areaBytes 0 (0 + 64) 64) = d.toNat := by
    rw [ha, ofBytes_bytesOf, show (256 : Nat) ^ 64 = 2 ^ 512 from (Nat.pow_mul 2 8 64).symm]; exact Nat.mod_eq_of_lt d.isLt
  have h0 : saveJob.ctx.val = 0 := by decide +kernel
  have h1 : saveJob.saveDva = 0 := by decide +kernel
  have h2 : (imageOf d).digest = d := rfl
  rw [h0, h1] at hx
  simp only [State.saveIntact, Bool.and_eq_true, decide_eq_true_eq, Bool.not_eq_true', h0, h1, h2, hx, hd, he, and_true]

/-- O19: a job stopping, saving with and without a reply outstanding, and resuming with an image, with and without cross-module marks; a save
area damaged, for it holds zeros where a digest of 1 was kept. -/
theorem witness_preemption_chain :
    (∀ ph ∈ [JobPhase.stopping, .saving, .resuming], let s : State := { busy dma cmd0 bin0 id with jobs := [jobOf bin0 ph] };
      s.job? 1 = some (jobOf bin0 ph) ∧ s.repliesIn (jobOf bin0 ph) = true ∧ s.unitsOf 1 ≠ [] ∧ s.saves.find? (fun v => v.jid == 1) = none) ∧
    (let s : State := { busy dma cmd0 bin0 (fun u => { u with replies := [{ sid := 0, value := 0, kind := 0, slot := 0 }] }) with
        jobs := [jobOf bin0 .saving] };
      s.repliesIn (jobOf bin0 .saving) = false) ∧
    (let s : State := { State.reset with jobs := [jobOf bin0 .resuming], saves := [imageOf 1] };
      s.saves.find? (fun v => v.jid == 1) = some (imageOf 1) ∧ (jobOf bin0 .resuming).cross = false ∧
        (jobOf { bin0 with report := { report0 with crossModule := true } } .resuming).cross = true ∧ (imageOf 0).faults = [] ∧ (imageOf 0).units ≠ [] ∧
        ((imageOf 0).units.map (·.1)).Nodup) := by
  decide +kernel

theorem witness_save_damaged :
    ({ State.reset with jobs := [jobOf bin0 .resuming] } : State).saveIntact (jobOf bin0 .resuming) (imageOf 1) = false := by
  simp only [State.saveIntact, Bool.and_eq_false_iff]
  exact .inl (.inr (by decide +kernel))

/-- A descriptor: format, extents of dimensions 0 and 1, base. -/
def tdOf (fmt e0 e1 base : Nat) : TD :=
  pack 1024 [(0, 8, fmt), (8, 3, 2), (64, 57, base), (128, 48, 4096), (256, 32, e0), (288, 32, e1), (320, 32, 1), (352, 32, 1), (384, 32, 1), (416, 32, 1),
    (448, 32, 1), (480, 32, e0)]

/-- Three E4M3 tensors; a page of the context's scratchpad behind them; a job that may read them. -/
def tdBin (n : Nat) : Binary := { bin0 with tds := [tdOf 0x10 n 1 0, tdOf 0x10 n 1 4096, tdOf 0x10 1 1 8192] }

def mxeBody (rows : Nat) : BitVec 256 := pack 256 [(0, 16, 0), (16, 16, 1), (32, 16, 2), (48, 16, 0xFFFF), (96, 13, rows - 1)]

def mxeBind : MxeBind := { aM := 1, aK := 0, bK := 0, bN := 1, aOrg := [], bOrg := [], outOrg := [], aRef := 0, liveMarks := [] }
def mxeCmdOf (rows : Nat) : Cmd := { cmdOf (.mxe (mxeBody rows) 0 mxeBind) with ins := [{ port := 0, level := 0 }] }
def mxeCmd : Cmd := mxeCmdOf 1

def mxeWith (rows n : Nat) (f : State → State) : State :=
  f (withPage (busy mx (mxeCmdOf rows) (tdBin n) fun u => { u with started := true, prog := 1 }))

def mxeAt (n : Nat) (f : State → State) : State := mxeWith 1 n f

def tileAt (passes : Nat) : MxeTile :=
  { coord := 0, pass := 0, passes := passes, row := 0, file := [], emax := none, tag := 0, home := 0, pass0 := 0, last := true }

/-- The next row of engine 0's tile may enter and is, with `fin`, of the last pass, with `whole`, the last of the tile. -/
def rowFits (s : State) (j : Job) (c : Cmd) (fin whole : Bool) : Bool :=
  match mxeCtx j c (s.unit 0), s.tile 0 with
  | some k, some g =>
    let w := whoOf 0 j
    decide (g.pass < g.passes) && g.due.isNone && decide (g.row < k.dec.rows) && !(s.decAt 0).live && decide (g.file.length < 8) && g.finishing == fin &&
      decide (g.row + 1 < k.dec.rows) == !whole &&
      (match s.loadBlock w k.blk (s.unit 0) c.tag g.pass with
        | .ok q =>
          let s1 := (s.setEng 0 { s.engAt 0 with cur := some q, other := none }).beginPass 0 k.blk q 0
          (match s1.passRow w k (s1.unit 0) q (g.pass == 0) g.row with
            | .ok o =>
              let h := g.enter (s.engAt 0).turn o.accs none
              let s2 := s.mxeEnter 0 j c k
              fin || (h.due == some (g.row, o.accs) && (h.rowOut k.dec.rows g.row).due.isNone &&
                fine (s2.writeBackRow w k (s2.unit 0) h g.row o.accs))
            | _ => false)
        | _ => false)
  | _, _ => false

/-- A block that stands in the latch for the pass at hand. -/
def latched : WBlock := { tag := 7, tile := (UnitSt.reset).fired, pass := 0, cols := [] }

/-- O20: a tile to take, granted, and not for a full directory; none to take. -/
theorem witness_accumulator_tile :
    (let s := mxeAt 1 id; let x := mxeAddr 0 0;
      Commanded s x (jobOf (tdBin 1) .running) mxeCmd ∧ (s.unit x).prog ≠ 0 ∧ s.tile x = none ∧ (s.decAt x).idle = true ∧ (s.unit x).cnt.length = 8 ∧
      (match mxeCtx (jobOf (tdBin 1) .running) mxeCmd (s.unit x) with
        | some k => (match dirAsk (s.dir (s.dirHome x (jobOf (tdBin 1) .running) k)) k.tensor k.dec.tile x k.b with | .grant _ _ => true | _ => false)
        | none => false) = true) ∧
    (let e : AccEntry := { tensor := 99, coord := 0, opId := 0, holder := 1, shared := false, psum := 0, next := 0, passNo := 0, held := true };
      match dirAsk (List.replicate 64 e) 0 0 0 (mxeBody 1) with | .wait _ _ _ _ _ => true | _ => false) = true ∧
    ((mxeAt 1 fun s => s.setTile 0 (some (tileAt 1))).tile 0).isSome = true ∧
    ((mxeAt 1 fun s => s.setDec 0 { DecSt.reset with ready := true }).decAt 0).idle = false := by
  unfold Commanded Working; decide +kernel

/-- O20: rows that enter: the last of a tile's last pass, another of it, of a pass before it the last and another; a block in either buffer of the
latch; a row whose access faults; a live Decant; a full file. -/
theorem witness_matrix_rows :
    rowFits (mxeWith 1 1 fun s => s.setTile 0 (some (tileAt 1))) (jobOf (tdBin 1) .running) (mxeCmdOf 1) true true = true ∧
    rowFits (mxeWith 2 1 fun s => s.setTile 0 (some (tileAt 1))) (jobOf (tdBin 1) .running) (mxeCmdOf 2) true false = true ∧
    rowFits (mxeWith 1 257 fun s => s.setTile 0 (some (tileAt 2))) (jobOf (tdBin 257) .running) (mxeCmdOf 1) false true = true ∧
    rowFits (mxeWith 2 257 fun s => s.setTile 0 (some (tileAt 2))) (jobOf (tdBin 257) .running) (mxeCmdOf 2) false false = true ∧
    rowFits (mxeWith 1 1 fun s => s.setTile 0 (some { tileAt 1 with last := false })) (jobOf (tdBin 1) .running) (mxeCmdOf 1) false true = true ∧
    (let s := mxeAt 1 fun s => s.setEng 0 { EngSt.reset with cur := some latched };
      (s.engAt 0).cur.filter (fun q => q.tag == mxeCmd.tag && q.tile == (s.unit 0).fired && q.pass == 0) = some latched) ∧
    (let s := mxeAt 1 fun s => s.setEng 0 { EngSt.reset with other := some latched };
      (s.engAt 0).cur.filter (fun q => q.tag == mxeCmd.tag && q.tile == (s.unit 0).fired && q.pass == 0) = none ∧
        (s.engAt 0).other.filter (fun q => q.tag == mxeCmd.tag && q.tile == (s.unit 0).fired && q.pass == 0) = some latched) ∧
    (let s := mxeAt 1 fun s => { s with locked := [] };
      match mxeCtx (jobOf (tdBin 1) .running) mxeCmd (s.unit 0) with
      | some k => (match s.passRow (whoOf 0 (jobOf (tdBin 1) .running)) k (s.unit 0) latched true 0 with | .bad _ _ _ _ => true | _ => false)
      | none => false) = true ∧
    ((mxeAt 1 fun s => s.setDec 0 { DecSt.reset with live := true }).decAt 0).live = true ∧
    8 ≤ { tileAt 1 with file := List.replicate 8 { no := 0, group := 0, rows := [], out := 0 } }.file.length := by
  decide +kernel

/-- O20: a DRAIN at the streamed input with credits and without, of an idle engine, of one whose iteration has no tile, of one with a tile; a stale
one, a DATA token. -/
theorem witness_matrix_drain :
    let cfg : U64 := pack 64 [(16, 12, 7), (28, 5, 0), (33, 4, 12), (40, 4, 0), (47, 1, 1)]
    let j := jobOf (tdBin 1) .running
    let at_ (tok : Token) (f : State → State) : State := mxeAt 1 fun s => f (s.setQueue 0 { queueAt [tok] with cfg := cfg })
    let s := at_ (tokenOf 2 0) id
    (Commanded s 0 j mxeCmd ∧ (decCtx j mxeCmd (s.unit 0)).isSome = true ∧ streamPort mxeCmd = some { port := 0, level := 0 } ∧
      s.headTok 0 0 = some (0, tokenOf 2 0) ∧ s.clockGated 0 j mxeCmd = false ∧ s.noCredit 0 (drainPorts mxeCmd) = none ∧
      (tokenOf 2 0).epoch = (s.unit 0).epoch.toNat ∧ (tokenOf 2 0).kind = 2 ∧ (s.decAt 0).idle = true ∧ s.nextRow 0 = none ∧ s.tile 0 = none ∧
      (s.unit 0).prog ≠ 0 ∧ ((s.updUnit 0 fun u => { u with prog := 0 }).unit 0).prog = 0) ∧
    (let c : Cmd := { mxeCmd with outs := [{ port := 1, level := 0 }] };
      ((s.updUnit 0 fun u => { u with ocredit := List.replicate 9 0 }).noCredit 0 (drainPorts c)).isSome = true) ∧
    (at_ (tokenOf 2 5) id).headTok 0 0 = some (0, tokenOf 2 5) ∧ (tokenOf 2 5).epoch ≠ (s.unit 0).epoch.toNat ∧ (tokenOf 0 0).kind ≠ 2 ∧
    (let t := at_ (tokenOf 2 0) fun s => s.setTile 0 (some (({ tileAt 1 with last := false }).enter 0 [LAcc.zero] none));
      (t.tile 0).map (fun g => decide (g.pass < g.passes)) = some true ∧ ((t.liveDecant 0 3).decAt 0).live = true) := by
  unfold Commanded Working; decide +kernel

/-- A matrix command of one row and one column, its Decant as f leaves it. -/
def decAt0 (f : DecSt → DecSt) (b : Binary) : State :=
  (withPage (busy mx mxeCmd b fun u => { u with started := true, prog := 1 })).setDec 0 (f .reset)

def rowAt : DecRow := { row := 0, lanes := [], accs := [LAcc.zero], mask := 0, tag := 0 }

/-- The case of decant_row that stores: no fused token, no block open, every element and its bytes found and stored. -/
def storesRow (s : State) (j : Job) (c : Cmd) : Bool :=
  match decCtx j c (s.unit 0), s.nextRow 0 with
  | some k, some r =>
    let s0 := s.payTile 0 k
    (match k.out with
      | some v => s0.fuseToken 0 k == .none && (s.decAt 0).mx.isEmpty && !v.fmt.isMx &&
        (match s0.decRowOut (whoOf 0 j) k v (if fuseOp k.dec = 0 then none else viewOf j.bin c (s0.unit 0) (fuseTd k.dec)) r.row
          (rowCells j c (s0.unit 0) k r) with
          | .ok es =>
            let l : List (List Int × MStores) := es.zipIdx.filterMap fun (p : ColOut × Nat) => p.1.elem.map fun e =>
              (e.idx, (elemBytes v k (s0.ftqBuf 0 k) e r.row p.2).1)
            fine (s0.storeView (whoOf 0 j) v (if placeInOrder k.dec then l.flatMap (·.2) else ((s0.decAt 0).wrote.order l).2))
          | _ => false)
      | none => false)
  | _, _ => false

/-- The case of tile_complete that stores the tile's blocks and bits. -/
def completes (s : State) (j : Job) (c : Cmd) : Bool :=
  match decCtx j c (s.unit 0) with
  | some k => (match k.out with
    | some v => (match s.storeMx 0 (whoOf 0 j) v with
      | .ok s1 => (s1.decAt 0).live == (s.decAt 0).live && (s1.decAt 0).asked.isEmpty &&
        (match s1.storeMasked (whoOf 0 j) (zgStores (zgBase k.dec) (if zgEn k.dec then zgBits v (s1.decAt 0).groups else [])) with
          | .ok s2 => fine (if (donePorts k).isEmpty then .ok 0 else s2.tileRef (whoOf 0 j) k (s1.decAt 0))
          | _ => false)
      | _ => false)
    | none => false)
  | none => false

def shortBin : Binary := { tdBin 1 with tds := (tdBin 1).tds.take 2 }
def withDec (d : BitVec 256) : Cmd := { mxeCmd with body := .mxe (mxeBody 1) d mxeBind }
def portCmd : Cmd := withDec (pack 256 [(43, 1, 1), (44, 3, 1)])
def fuseCmd : Cmd := withDec (pack 256 [(0, 16, 2), (16, 2, 1), (18, 1, 1)])
def decBusy (c : Cmd) (f : DecSt → DecSt) (g : UnitSt → UnitSt) : State :=
  (withPage (busy mx c (tdBin 1) fun u => g { u with started := true, prog := 1 })).setDec 0 (f .reset)

/-- O21: rows: one of a tile that is ready; one held without a credit; one without a descriptor; one whose fused token has another tag; ones that
are stored, in a tile not yet paid for and in one that is. -/
theorem witness_decant_row :
    (let s := decAt0 (fun d => { d with rows := [rowAt], ready := true }) (tdBin 1);
      Commanded s 0 (jobOf (tdBin 1) .running) mxeCmd ∧ s.nextRow 0 = some rowAt ∧ (s.decAt 0).ready = true) ∧
    (let s := decBusy portCmd (fun d => { d with rows := [rowAt] }) (fun u => { u with ocredit := List.replicate 9 0 });
      (match decCtx (jobOf (tdBin 1) .running) portCmd (s.unit 0) with
        | some k => !(s.decAt 0).paid && (s.noCredit 0 (donePorts k)).isSome && (s.noCredit 0 []).isNone
        | none => false) = true ∧ s.nextRow 0 = some rowAt) ∧
    (let s := decAt0 (fun d => { d with rows := [rowAt] }) shortBin;
      s.nextRow 0 = some rowAt ∧ (s.decAt 0).ready = false ∧
      (match decCtx (jobOf shortBin .running) mxeCmd (s.unit 0) with | some k => k.out.isNone | none => false) = true) ∧
    (let s := decBusy fuseCmd (fun d => { d with rows := [rowAt], fuse := some (tokenOf 0 0) }) id;
      (match decCtx (jobOf (tdBin 1) .running) fuseCmd (s.unit 0) with
        | some k => k.out.isSome && (s.payTile 0 k).fuseToken 0 k == .got (tokenOf 0 0) && (tokenOf 0 0).tag != (s.payTile 0 k).tileTag 0 rowAt
        | none => false) = true) ∧
    storesRow (decAt0 (fun d => { d with rows := [rowAt] }) (tdBin 1)) (jobOf (tdBin 1) .running) mxeCmd = true ∧
    storesRow (decBusy portCmd (fun d => { d with rows := [rowAt], paid := true }) id) (jobOf (tdBin 1) .running) portCmd = true := by
  unfold Commanded Working; decide +kernel

/-- O21: tiles: one not ready; one whose DRAIN has no credit; one without a descriptor; one that is stored, an iteration's and a live Decant's. -/
theorem witness_tile_complete :
    (let s := decAt0 id (tdBin 1); Commanded s 0 (jobOf (tdBin 1) .running) mxeCmd ∧ (s.decAt 0).ready = false ∧
      (decCtx (jobOf (tdBin 1) .running) mxeCmd (s.unit 0)).isSome = true) ∧
    (let c := { mxeCmd with outs := [{ port := 1, level := 0 }], ins := [{ port := 0, level := 0 }] };
      let s := decBusy c (fun d => { d with ready := true, drain := some (tokenOf 2 0) }) (fun u => { u with ocredit := List.replicate 9 0 });
      (s.decAt 0).ready = true ∧ (s.noCredit 0 (if (s.decAt 0).drain.isSome then drainPorts c else [])).isSome = true) ∧
    (let s := decAt0 (fun d => { d with ready := true }) shortBin;
      (match decCtx (jobOf shortBin .running) mxeCmd (s.unit 0) with | some k => k.out.isNone && (donePorts k).isEmpty | none => false) = true ∧
        (s.noCredit 0 []).isNone = true ∧ (s.unit 0).sigOwed = false) ∧
    completes (decAt0 (fun d => { d with ready := true }) (tdBin 1)) (jobOf (tdBin 1) .running) mxeCmd = true ∧
    completes (decAt0 (fun d => { d with ready := true, live := true }) (tdBin 1)) (jobOf (tdBin 1) .running) mxeCmd = true ∧
    completes (decBusy portCmd (fun d => { d with ready := true, paid := true, lo := some 0, hi := 0, firstDva := 8192 }) id) (jobOf (tdBin 1) .running) portCmd
      = true := by
  unfold Commanded Working; decide +kernel

/-- A vector engine whose recipe holds one instruction. -/
def vxeBody : BitVec 512 := pack 512 [(0, 16, 0), (128, 16, 2), (144, 10, 0), (160, 11, 1), (176, 6, 0), (192, 8, 255)]
def vxeCmd : Cmd := cmdOf (.vxe vxeBody 0 { rowDim := 1, laneDim := 0, inOrg := [], outOrg := [] })
def vxWith (c : Cmd) (f : UnitSt → UnitSt) (op : Nat) (w : VOps) : State :=
  (withPage (busy { die := 0, u := 4 } c (tdBin 1) fun u => f { u with started := true, prog := 1 })).setRecipe 4 [vxWord op w]
def vxAt (op : Nat) (w : VOps) : State := vxWith vxeCmd id op w

def vxCtx : VCtx := { x := 4, j := jobOf (tdBin 1) .running, c := vxeCmd, body := vxeBody, bind := { rowDim := 1, laneDim := 0, inOrg := [], outOrg := [] }, vx := .reset }

/-- O22 to O24: each vector instruction is at hand on some engine; modes that are not reserved, whole registers. -/
theorem witness_vector_instructions :
    (∀ op ∈ [1, 2, 3, 5, 6, 129, 130, 131, 133, 134, 4, 132, 16, 17, 18, 19, 20, 21, 22, 32, 33, 40, 48, 49, 50, 51, 52, 56, 57, 60],
      VxReady (vxAt op (ops 1 2 3 0)) vxe0 op (ops 1 2 3 0) vxCtx) ∧
    bits (ops 1 2 3 0).m 3 2 ≠ 3 ∧ bits (ops 1 2 3 0).m 0 2 ≠ 3 ∧ (∀ q ∈ [(2 : BitVec 6), 3], ((vxAt 32 (ops 1 2 3 0)).vget vxCtx q).length = 256) := by
  refine ⟨?_, by decide, by decide, by decide +kernel⟩
  have h : ∀ op ∈ [1, 2, 3, 5, 6, 129, 130, 131, 133, 134, 4, 132, 16, 17, 18, 19, 20, 21, 22, 32, 33, 40, 48, 49, 50, 51, 52, 56, 57, 60],
      Commanded (vxAt op (ops 1 2 3 0)) vxe0.addr vxCtx.j vxCtx.c ∧ vxCtx.x = vxe0.addr ∧ vxCtx.vx = (vxAt op (ops 1 2 3 0)).vxAt vxe0.addr ∧
        ((vxAt op (ops 1 2 3 0)).unit vxe0.addr).prog ≠ 0 ∧ vxCtx.vx.base < vxCtx.rows ∧ vxCtx.vx.pos < vxCtx.len ∧
        ((vxAt op (ops 1 2 3 0)).recipe vxe0.addr)[vxCtx.start + vxCtx.vx.pos]? = some (vxWord op (ops 1 2 3 0)) := by
    unfold Commanded Working; decide +kernel
  intro op ho
  obtain ⟨h1, h2, h3, h4, h5, h6, h7⟩ := h op ho
  exact ⟨h1, h2, h3, ⟨0, rfl⟩, h4, h5, h6, h7⟩

/-- A command whose PUSH goes to Decant for an output port, and a vector engine with no credit at all. -/
def vxPortCmd : Cmd := cmdOf (.vxe vxeBody (pack 256 [(43, 1, 1), (44, 3, 1)]) { rowDim := 1, laneDim := 0, inOrg := [], outOrg := [] })
def poor (u : UnitSt) : UnitSt := { u with ocredit := List.replicate 9 0 }

/-- O25: a POP at V53 whose bytes are there, one whose bytes are not; PUSH to Decant and to a port, with a credit and without; LRED with the last
mode and group. -/
theorem witness_vector_pop_push_reduce :
    fine ((vxAt 56 (ops 53 0 0 0)).popPort vxCtx 0 0) = true ∧
      (match ({ vxAt 56 (ops 53 0 0 0) with locked := [] } : State).popPort vxCtx 0 0 with | .bad _ _ _ _ => true | _ => false) = true ∧
      bits (ops 53 8 0 0).a 0 4 = 8 ∧ fine ((vxAt 56 (ops 53 8 0 0)).popFtq vxCtx 0) = true ∧
      (ops 7 1 0 0).dst.getLsbD 3 = false ∧ (ops 8 1 0 0).dst.getLsbD 3 = true ∧ (vxAt 57 (ops 7 1 0 0)).decantFull vxCtx = none ∧
      (((vxWith vxPortCmd poor 57 (ops 7 1 0 0)).setDec 4 { DecSt.reset with rows := [rowAt] }).decantFull { vxCtx with c := vxPortCmd }).isSome = true ∧
      (vxAt 57 (ops 8 1 0 0)).noCredit 4 [bits (ops 8 1 0 0).dst 0 3] = none ∧
      ((vxWith vxeCmd poor 57 (ops 8 1 0 0)).noCredit 4 [bits (ops 8 1 0 0).dst 0 3]).isSome = true ∧ bits (ops 1 2 0 45).m 0 3 < 6 ∧ bits (ops 1 2 0 45).m 3 3 < 6 := by
  decide +kernel

/-- O25: an instruction that has no tile in progress, one after the last row, one past the recipe's end, one that is not the recipe's next. -/
theorem witness_vector_issue_order :
    let s := vxAt 1 (ops 1 2 3 0)
    Commanded s 4 vxCtx.j vxeCmd ∧ ((s.updUnit 4 fun u => { u with prog := 0 }).unit 4).prog = 0 ∧
      bits vxeBody 176 6 + 1 ≤ ((s.setVx 4 { VxSt.reset with base := 1 }).vxAt 4).base ∧ bits vxeBody 160 11 ≤ ((s.setVx 4 { VxSt.reset with pos := 1 }).vxAt 4).pos ∧
      (s.recipe 4)[bits vxeBody 144 10 + (s.vxAt 4).pos]? ≠ some (vxWord 2 (ops 1 2 3 0)) := by
  unfold Commanded Working; decide +kernel

/-- O26: a reduction of one element. -/
def rxeBody (op : Nat) : BitVec 128 := pack 128 [(0, 16, 0), (16, 16, 2), (32, 16, 0xFFFF), (48, 4, op), (56, 6, 1)]
def rxeBind : RxeBind := { org := [], size := [1, 1, 1, 1, 1, 1] }
def rxeState (op : Nat) : State :=
  withPage (busy { die := 0, u := 8 } (cmdOf (.rxe (rxeBody op) rxeBind)) (tdBin 1) fun u => { u with started := true, prog := 1, done := true })

def rxeIns (op : Nat) (s : State) : Acc (List RxePos) :=
  match viewOf (tdBin 1) (cmdOf (.rxe (rxeBody op) rxeBind)) (s.unit 8) (rxeIn (rxeBody op)) with
  | some v => s.rxeRead (whoOf 8 (jobOf (tdBin 1) .running)) v (rxeAdmits (rxeBody op) none (originOf (s.unit 8) rxeBind.org))
      (boxIdx (originOf (s.unit 8) rxeBind.org) ((List.range 6).map fun d => rxeBind.size.getD d 1))
  | none => .ok []

theorem witness_reductions :
    ∀ op ∈ List.range 9, let s := rxeState op; let c := cmdOf (.rxe (rxeBody op) rxeBind); let j := jobOf (tdBin 1) .running;
      Commanded s 8 j c ∧ rxeOp (rxeBody op) = op ∧ rxeOp (rxeBody 9) ≠ op ∧ (s.unit 8).prog ≠ 0 ∧ rxeSrcPort (rxeBody op) = false ∧
      (match rxeIns op { s with locked := [] } with | .bad _ _ _ _ => true | _ => false) = true ∧
      (match viewOf j.bin c (s.unit 8) (rxeIn (rxeBody op)), rxeIns op s with
        | some v, .ok es =>
          let new := (es.filter fun e => v.inside e.idx).foldl (fun l e => accPut l (redKey (rxeBody op) e.idx) fun a =>
            a.take (rxeBody op) (redPos (rxeBody op) v.ext e.idx) (if e.take then some (v.value e.rd) else none)) (s.rxeAt 0)
          es.any (·.take) && fine (s.writeResults 8 j c (rxeBody op) (dueResults (rxeBody op) v (s.unit 8) (s.rxeAt 0) new))
        | _, _ => false) = true := by
  unfold Commanded Working; decide +kernel

def gseBody (op rows count out : Nat) : BitVec 256 :=
  pack 256 [(0, 2, op), (5, 1, out), (16, 16, 0), (32, 16, 1), (48, 16, 2), (64, 16, 3), (80, 16, 0xFFFF), (96, 16, 0xFFFF), (112, 16, 0xFFFF), (176, 6, rows - 1), (192, 32, count)]

def gseCmd (b : BitVec 256) : Cmd := cmdOf (.gse b)

def gseBin : Binary := { bin0 with tds := [tdOf 0x10 1 1 0, tdOf 0x10 1 1 4096, tdOf 0x23 1 1 8192, tdOf 0x23 2 1 12288] }
def gseState (b : BitVec 256) (f : UnitSt → UnitSt) (g : GseSt → GseSt) : State :=
  (withPage (busy { die := 0, u := 10 } (gseCmd b) gseBin fun u => f { u with started := true, prog := 1 })).setGse 0 (g .reset)

def gseCtx (b : BitVec 256) (s : State) : GCtx :=
  { x := 10, j := jobOf gseBin .running, c := gseCmd b, b := b, w := whoOf 10 (jobOf gseBin .running), u := s.unit 10, count := gseCount (gseCmd b) (s.unit 10) }

def gathers (b : BitVec 256) (s : State) : Acc GOut :=
  let k := gseCtx b s
  match k.view 0, k.dst, k.view 2 with | some a, some d, some i => s.gatherRow k a d i (s.gseAt 0).row | _, _, _ => .wait 0

def scatters (b : BitVec 256) (s : State) : Acc GOut :=
  let k := gseCtx b s
  match k.view 0, k.dst, k.view 3 with | some a, some d, some p => s.scatterStep k a d p (s.gseAt 0).row | _, _, _ => .wait 0

def bad {α : Type} : Acc α → Bool | .bad _ _ _ _ => true | _ => false

def gsePlain (op rows count : Nat) : BitVec 256 := gseBody op rows count 0

/-- O27: a GSE with rows to gather, to scatter or to route; the nodes of a scatter. -/
theorem witness_gse_ready :
    (∀ op ∈ [0, 1, 2], GseReady (gseState (gsePlain op 1 1) id id) 0 op (gseCtx (gsePlain op 1 1) (gseState (gsePlain op 1 1) id id))) ∧
    (let k := gseCtx (gsePlain 1 1 1) (gseState (gsePlain 1 1 1) id id);
      (match k.dst, k.view 3 with | some d, some p => k.nodes d p == (1, false) | _, _ => false) = true) := by
  unfold GseReady Commanded Working; decide +kernel

/-- O27: the last row's tile ended, and not, without a credit for its reference and with one, and with no reference. -/
theorem witness_gse_tiles :
    ∀ op ∈ [0, 1],
      (let s := gseState (gsePlain op 1 1) id fun g => { g with row := 1 };
        (s.gseAt 0).unsent = false ∧ (gseCtx (gsePlain op 1 1) s).count ≤ (s.gseAt 0).row) ∧
      (∀ out ∈ [0, 1], let b := gseBody op 1 1 out; let s := gseState b id fun g => { g with row := 1, unsent := true };
        (s.gseAt 0).unsent = true ∧ gseOutEn b = decide (out = 1) ∧ s.noCredit 10 [gseOutPort b] = none ∧
        (match (gseCtx b s).dst with | some d => fine (s.gseTile (gseCtx b s) d ((1 - 1) / gseRows b * gseRows b) 1) | none => false) = true ∧
        ((gseState b poor id).noCredit 10 [gseOutPort b]).isSome = true) := by
  decide +kernel

/-- O27: rows gathered, the last of a tile and another; a destination begun, a message row added; accesses that fault. -/
theorem witness_gse_rows :
    (∀ c ∈ [1, 2], fine (gathers (gsePlain 0 2 c) (gseState (gsePlain 0 2 c) id id)) = true) ∧
    (gseCtx (gsePlain 0 2 2) (gseState (gsePlain 0 2 2) id id)).count = 2 ∧ gseRows (gsePlain 0 2 2) = 2 ∧
    ((gseState (gsePlain 0 2 2) id id).unit 10).cnt.length = 8 ∧
    bad (gathers (gsePlain 0 1 1) { gseState (gsePlain 0 1 1) id id with locked := [] }) = true ∧
    fine (scatters (gsePlain 1 1 1) (gseState (gsePlain 1 1 1) id id)) = true ∧
    fine (scatters (gsePlain 1 1 1) (gseState (gsePlain 1 1 1) id fun g => { g with acc := some [0], last := 1 })) = true ∧
    bad (scatters (gsePlain 1 1 1) { gseState (gsePlain 1 1 1) id id with locked := [] }) = true := by
  decide +kernel

/-- O27: tokens routed: the next of more, the last of a reference's tile of more; one whose access faults; the end of the command, and of each
tile after it, with references and without. -/
theorem witness_route :
    let routes (b : BitVec 256) (s : State) (tok : Option Token) : Acc GOut :=
      let k := gseCtx b s
      match k.view 0 with | some v => s.routeRow k (match tok with | some t => v.byRef t (setAt (List.replicate 6 0) 0 0) | none => v) tok (s.gseAt 0).row | none => .wait 0
    let ref : Token := { hdr := tokenHdr 0 3 0 true 16 0 0, pay := pack 448 [(32, 32, 1), (128, 64, 1)] }
    let filled : GseSt → GseSt := fun g => { g with fill := [0], demand := [0] }
    (let s := gseState (gsePlain 2 2 2) id filled; fine (routes (gsePlain 2 2 2) s none) = true ∧ (gseCtx (gsePlain 2 2 2) s).routeStop none 0 = 2 ∧
      bad (routes (gsePlain 2 2 2) { s with locked := [] } none) = true) ∧
    (let s := gseState (gsePlain 2 1 2) (fun u => { u with inTok := [(0, ref)] }) filled; ref.isRef = true ∧ fine (routes (gsePlain 2 1 2) s (some ref)) = true ∧
      (gseCtx (gsePlain 2 1 2) s).routeStop (some ref) 0 = 1 ∧ (gseCtx (gsePlain 2 1 2) s).count = 2 ∧ (s.unit 10).sigOwed = false) ∧
    (let s := gseState (gsePlain 2 1 1) id fun g => filled { g with row := 1 }; fine (s.routeEnd (gseCtx (gsePlain 2 1 1) s)) = true ∧
      gseOutEn (gsePlain 2 1 1) = false ∧ (gseCtx (gsePlain 2 1 1) s).count = 1) ∧
    (let b := gseBody 2 1 1 1; let s := gseState b poor fun g => filled { g with row := 2 };
      (match (gseCtx b s).dst with | some v => decide ((s.gseAt 0).row - 1 - 1 < ceilDiv (v.extent (gseDim b)) (gseRows b)) | none => false) = true ∧
        gseOutEn b = true ∧ (s.noCredit 10 [gseOutPort b]).isSome = true) := by
  decide +kernel

/-- O28: movers with one element left. -/
def reg1 : Region := { org := [0, 0, 0, 0, 0, 0], ext := [1, 1, 1, 1, 1, 1] }
def moveCmd : Cmd := cmdOf (.dmx 0 1 reg1 reg1)
def lmvCmd : Cmd := cmdOf (.lmv 0 1 reg1 reg1 0)

/-- A mover's command over regions of n elements, its unit at element p. -/
def regN (n : Nat) : Region := { org := [0, 0, 0, 0, 0, 0], ext := [n, 1, 1, 1, 1, 1] }
def dmxAt (n p : Nat) : State := withPage (busy dma (cmdOf (.dmx 0 1 (regN n) (regN n))) (tdBin n) fun u => { u with started := true, prog := p + 1 })
def lmvAt (b : Binary) : State := withPage (busy { die := 0, u := 9 } lmvCmd b fun u => { u with started := true, prog := 1 })
def mxBin : Binary := { tdBin 1 with tds := [tdOf 0x10 1 1 0, pack 1024 [(768, 57, 8192)] ||| tdOf 0x18 1 1 4096, tdOf 0x10 1 1 8192] }

def dmxMoves (n p words : Nat) (s : State) : Bool × Nat :=
  let j := jobOf (tdBin n) .running
  let c := cmdOf (.dmx 0 1 (regN n) (regN n))
  match viewOf j.bin c (s.unit dma.addr) 0, viewOf j.bin c (s.unit dma.addr) 1 with
  | some a, some b =>
    let stop := wordsMoved a.width n p words
    ((s.moveFrom dma.addr (whoOf dma.addr j) a b (fun i q => rawConv s a b (i - p) q) 2 1 p (((regionPairs (regN n) (regN n)).take stop).drop p)).2, stop)
  | _, _ => (false, 0)

/-- O28: a DMA engine that moves all that is left, the first 64 bytes of more, and one whose access faults; DMX1 held by a dump, a lent job at L1. -/
theorem witness_dma :
    (let s := dmxAt 1 0; Commanded s dma.addr (jobOf (tdBin 1) .running) (cmdOf (.dmx 0 1 (regN 1) (regN 1))) ∧ s.dumpHolds = false ∧ s.pwr.eff = 0 ∧
      dmxMoves 1 0 1 s = (true, 1) ∧ (regionPairs (regN 1) (regN 1)).length = 1) ∧
    dmxMoves 65 0 1 (dmxAt 65 0) = (true, 64) ∧ dmxMoves 65 64 1 (dmxAt 65 64) = (true, 65) ∧ (dmxMoves 1 0 1 { dmxAt 1 0 with locked := [] }).1 = false ∧
    (jobOf bin0 .running).guaranteed = true ∧ ({ jobOf bin0 .running with cls := 1 } : Job).guaranteed = false := by
  unfold Commanded Working; decide +kernel

/-- O28: the layout mover, of elements, of elements whose access faults, of MX blocks. -/
theorem witness_layout_mover :
    let moves (s : State) : Option Bool :=
      let j := jobOf (tdBin 1) .running
      match viewOf j.bin lmvCmd (s.unit 9) 0, viewOf j.bin lmvCmd (s.unit 9) 1 with
      | some a, some b => if b.fmt.isMx then none else some (s.moveFrom 9 (whoOf 9 j) a b (fun i q => lmvConv j 0 a b (b.tile reg1.ext reg1.org) 1 i q) 2 1 0 (regionPairs reg1 reg1)).2
      | _, _ => none
    Commanded (lmvAt (tdBin 1)) 9 (jobOf (tdBin 1) .running) lmvCmd ∧ moves (lmvAt (tdBin 1)) = some true ∧ moves { lmvAt (tdBin 1) with locked := [] } = some false ∧
    (let s := lmvAt mxBin; let j := jobOf mxBin .running;
      (match viewOf j.bin lmvCmd (s.unit 9) 0, viewOf j.bin lmvCmd (s.unit 9) 1 with
        | some a, some b => b.fmt.isMx && fine (s.lmvMx 9 (whoOf 9 j) j 0 a b (b.tile reg1.ext reg1.org) 1 (regionPairs reg1 reg1))
        | _, _ => false) = true) := by
  unfold Commanded Working; decide +kernel

/-- O29, O30: a training job of two layers with an update engine. -/
def layerWord : BitVec 256 := pack 256 [(0, 8, 0), (8, 8, 0x11), (16, 13, 0x1FFF), (32, 16, 0), (48, 16, 1), (64, 16, 2), (80, 16, 3), (96, 16, 0xFFFF), (112, 16, 4)]
def trainBin : Binary :=
  { bin0 with
    tds := [tdOf 0x02 2 1 0, tdOf 0x01 2 1 4096, tdOf 0x01 2 1 8192, tdOf 0x01 2 1 12288, tdOf 0x02 2 1 16384]
    update := some { header := pack 512 [(0, 13, 2), (64, 48, 20480), (128, 57, 24576), (192, 57, 28672)], layers := [layerWord, layerWord], groups := [0], assign := [] } }

def trainJob (f : Job → Job) : Job := f { newJob 0 0 trainBin 0 10 .running with jid := 1 }
def training (f : Job → Job) : State := { withPage (busy { die := 0, u := 11 } (cmdOf .upe) trainBin id) with jobs := [trainJob f] }

/-- O29: passes that may run; a period without updates; an update engine that waits on a fault; a norm pass whose access faults. -/
theorem witness_norm_passes :
    let late : Job → Job := fun j => { j with pass1 := true };
    let norms (s : State) : Acc (List (LayerSt × U16)) := accAll (fun l => s.layerNorms (whoOf 11 (trainJob id)) (trainJob id) l) (List.range 2);
    (training id).job? 1 = some (trainJob id) ∧ (training id).mayUpdate (trainJob id) = true ∧ (training id).normUpe 1 = 11 ∧
      (training id).stalled 11 = false ∧ (trainJob id).pass1 = false ∧ (training id).passed (trainJob id) .reduced = true ∧
      (trainJob id).layerTab.length = 2 ∧ fine (norms (training id)) = true ∧ bad (norms { training id with locked := [] }) = true ∧
      (training late).mayUpdate (trainJob late) = true ∧ (trainJob late).norms = false ∧ (trainJob late).bin.exch = none ∧
      fine (accAll (fun l => (training late).totals (whoOf 11 (trainJob late)) (trainJob late) l) (List.range 2)) = true ∧
      (training fun j => { j with outcome := .skip }).mayUpdate (trainJob fun j => { j with outcome := .skip }) = false := by decide +kernel

/-- A training job before its second pass, or in it. -/
def p2Job (p : Option P2) (lrs : List (Nat × List U32)) : Job → Job := fun j => { j with pass1 := true, norms := true, lrs := lrs, p2 := p }

/-- O30: pass 2 begins with a layer; another layer waits. -/
theorem witness_pass2_begins :
    let s := training (p2Job none []); let j := trainJob (p2Job none []);
    s.mayUpdate j = true ∧ j.norms = true ∧ j.updated = false ∧ s.passed j .normed = true ∧ (j.layers.findIdx? fun z => !z.done) = some 0 ∧
      s.upes 1 = [11] ∧ j.lrs = [] ∧ j.p2 = none ∧ s.stalled 11 = false ∧ (s.layOf 11 j (!j.active) 0).isSome = true ∧
      ((s.layOf 11 j j.active 0).map fun k => decide (0 < k.w.rowCount)) = some true ∧ fine (s.readLrs 11 j) = true ∧
      fine (s.storeLabel (whoOf 11 j) j (!j.active) (labelBytes (j.gstep.toNat + 1) 1 1 0 0)) = true ∧ (j.layers.findIdx? fun z => !z.done) ≠ some 1 := by
  decide +kernel

/-- O30: an element is updated and another one is left. -/
theorem witness_pass2_goes_on :
    let f := p2Job (some (P2.start [11] 1 2)) [(11, [0])]; let s := training f; let j := trainJob f;
    (∀ y ∈ s.upes 1, (assoc j.lrs y).isSome) ∧ s.stalled 11 = false ∧
      (match s.upeStep 11 j (P2.start [11] 1 2) 0 with
        | some (.ok r) =>
          let s2 := (r.1.updJob 1 fun j => { j with p2 := some r.2, progress := true }).accessed 0
          (match s2.job? 1 with | some j2 => (s2.upeStep 11 j2 r.2 0).isSome | none => false)
        | _ => false) = true := by decide +kernel

/-- O30: no row is left, and another layer waits. -/
theorem witness_pass2_ends_a_layer :
    let p : P2 := { P2.start [11] 1 2 with pos := [{ upe := 11, row := 1, slot := 0, bytes := [], sum := .empty, kept := 0 }] };
    let s := training (p2Job (some p) [(11, [0])]); let j := trainJob (p2Job (some p) [(11, [0])]);
    (∀ y ∈ s.upes 1, s.stalled y = false ∧ s.upeStep y j p 0 = none) ∧ (j.layers[1]?.map (·.done)) = some false ∧
      (match s.layOf 11 j j.active 0, s.layOf 11 j (!j.active) 0 with
        | some k, some o => fine (s.writeStats (whoOf 11 j) k o (upK k) p)
        | _, _ => false) = true := by decide +kernel

/-- O31: a query in the job's ingest, and none; a late contribution of a bucket under CARRY, and one that is not owed. -/
def carryBin : Binary :=
  { bin0 with
    tds := [tdOf 0x02 256 1 0, tdOf 0x01 256 1 4096]
    exch := some { header := pack 256 [(16, 2, 1)], buckets := [pack 256 [(0, 12, 0), (64, 19, 1), (96, 16, 0), (112, 16, 0xFFFF), (128, 16, 1)]], halo := [],
                   layerBlock := [], plan := [] } }
def carryJob (owes : Bool) : Job :=
  { newJob 0 0 carryBin 0 10 .running with jid := 1, x := { ExchSt.empty with buckets := [{ BucketSt.fresh with owes := owes }] } }

theorem witness_query_and_carry :
    (let i : Ingest := { stamp := 0, query := true, dva := 0, data := [1], window := 0, late := false, bank := false };
      (({ jobOf bin0 .running with ingest := [i] } : Job).ingest.filter fun (i : Ingest) => i.query)[0]? = some i) ∧
    ((jobOf bin0 .running).ingest.filter fun (i : Ingest) => i.query)[0]? = none ∧ ((carryJob false).bucket 0).owes = false ∧
    (let s : State := withPage { State.reset with jobs := [carryJob true] }; let j := carryJob true;
      j.policy = 1 ∧ (j.bucket 0).owes = true ∧ 0 < j.x.buckets.length ∧
      (match j.spec? 0, bankView carryBin false 0, bankView carryBin false 1 with
        | some b, some sv, some cv => s.srcComplete j b && !b.norm && b.num == 1 && b.src == 0 && b.carryTd == 1 &&
          (match accAll (s.carrySum (whoOf (s.dmxOf 1) j) sv cv ((j.bucket 0).carry == 0)) (List.range (b.num * 256)) with
            | .ok es => fine (s.storeView (whoOf (s.dmxOf 1) j) cv (es.flatMap fun e => cv.nthStores e.1 e.2.1.1))
            | _ => false)
        | _, _, _ => false) = true) := by decide +kernel

/-- An entry of a port's plan: a REDUCE packet of bucket 0 on X. -/
def planOf (port : Fin 6) (kind : Nat) (own : Bool) (left : Nat) : PlanPkt :=
  { port := port, kind := BitVec.ofNat 4 kind, own := own, bucket := 0, dim := 0, dir := false, left := BitVec.ofNat 5 left, first := 0, slot := 0 }

/-- A job whose traffic crosses modules: two on X and `y` on Y, one bucket staged in tensor 2, a layer whose gradient is tensor 1. -/
def crossBin (y : Nat) (plan : List PlanPkt) (marks : List MarkDecl) : Binary :=
  { bin0 with
    tds := [tdOf 0x02 256 1 0, tdOf 0x01 256 1 4096, tdOf 0x02 256 1 8192]
    marks := marks
    report := { report0 with crossModule := true, torus := { x := 2, y := y, z := 1, origin := 0, ranks := [] } }
    update := some { header := pack 512 [(0, 13, 1)], layers := [pack 256 [(32, 16, 1), (48, 16, 1)]], groups := [0], assign := [] }
    exch := some {
      header := 0, buckets := [pack 256 [(0, 12, 0), (64, 19, 1), (96, 16, 0), (112, 16, 2), (128, 16, 1)]]
      halo := [{ handle := 3, td := 2, off := 0, len := 16, sid := 5 }], layerBlock := [0], plan := plan } }

def crossOf (b : Binary) (ph : JobPhase) (f : ExchSt → ExchSt) : Job :=
  { newJob 0 0 b 0 10 ph with jid := 1, x := f { ExchSt.empty with buckets := [BucketSt.fresh] } }

def crossJobOf : JobPhase → (ExchSt → ExchSt) → Job := crossOf (crossBin 1 [planOf 0 1 true 1] [])

/-- Port 0 as f has it, ports 0 and 1 UP. -/
def linkedWith (f : NlPort → NlPort) (js : List Job) : State :=
  { withPage State.reset with jobs := js, ports := [(0, f { NlPort.reset with st := 2 }), (1, { NlPort.reset with st := 2 })] }

/-- Port 0 holds a packet. -/
def linked (k : Packet) (js : List Job) : State := linkedWith (fun q => { q with pkts := [k] }) js

/-- A packet of kind `kind` for job `tag` with `hops` hops left. -/
def packetAt (kind tag hops bucket nblk : Nat) : Packet :=
  { hdr := pack 256 [(0, 4, kind), (11, 5, hops), (32, 32, tag), (96, 16, bucket), (112, 6, nblk)], scales := List.replicate 64 0, data := List.replicate 240 0, stamp := 0 }

def corkVal (cover : Nat) : CorkVal := { cover := cover, update := true, delivered := true, nf := false, emax := [] }

def operandAt (n : Nat) : Operand := { port := 0, bucket := 0, dim := 0, first := 0, blocks := List.replicate n [], count := 1, nf := false, sat := false, nfMin := 0xFFFF }

/-- O32: with a hop left, a packet of each kind, of no job here. -/
theorem witness_packets_go_on :
    ∀ e ∈ [(3, 1), (5, 2), (2, 0), (1, 0)], let k := packetAt e.1 7 2 0 1; let s := linked k [];
      (s.port (opposite 0)).st = 2 ∧ (s.port 0).headPkt e.2 = some k ∧ k.kind = e.1 ∧ 0 < k.arrive.left ∧ s.heldAt 0 = none ∧ s.packetJob k.arrive = none := by
  decide +kernel

/-- O32: with a hop left, packets of a job here, whose turn it is or not: the plan lists another packet of the port before them, or none. -/
theorem witness_packets_in_turn :
    (∀ e ∈ [([], false), ([planOf 1 1 true 1, planOf 1 2 false 1], true)],
      let j := crossOf (crossBin 1 e.1 []) .stopping id; let k := packetAt 2 1 2 0 1; let s := linked k [j];
        (s.port 0).headPkt 0 = some k ∧ s.packetJob k.arrive = some j ∧ (j.spec? k.arrive.bucket).isSome = true ∧ s.waitsTurn 0 k.arrive = e.2 ∧
          s.stoppedToPeers j = true) ∧
    (∀ e ∈ [([], false), ([planOf 1 4 true 1, planOf 1 4 false 1], true)],
      let j := crossOf (crossBin 1 e.1 []) .running fun x => { x with cork := some (corkVal 1) }; let k := packetAt 4 1 2 0 0; let s := linked k [j];
        (s.port 0).headPkt 2 = some k ∧ k.kind = 4 ∧ s.packetJob k.arrive = some j ∧ s.waitsTurn 0 k.arrive = e.2 ∧
          j.dims.findIdx? (fun d => d == k.arrive.dim) = some j.x.corkPhase) ∧
    (∀ e ∈ [([], false), ([planOf 1 1 true 1, planOf 1 1 false 1], true)],
      let j := crossOf (crossBin 1 e.1 []) .running fun x => { x with opnds := [operandAt 1] }; let k := packetAt 1 1 2 0 1; let s := linked k [j];
        (s.port 0).headPkt 0 = some k ∧ s.packetJob k.arrive = some j ∧ (j.spec? k.arrive.bucket).isSome = true ∧ s.waitsTurn 0 k.arrive = e.2 ∧
          j.bufferOf 0 k.arrive = some (operandAt 1)) := by decide +kernel

/-- Port 0 holds at its adder a packet that has arrived. -/
def holding (k : Packet) (js : List Job) : State := linkedWith (fun q => { q with held := some k.arrive }) js

def ready (s : State) (j : Job) (k : Packet) : Bool :=
  match j.spec? k.bucket with
  | some b => (match s.operand j 0 b k.dim k.first k.nblk with | some a => fine a | none => false)
  | none => false

def notReady (s : State) (j : Job) (k : Packet) : Bool :=
  match j.spec? k.bucket with
  | some b => (s.operand j 0 b k.dim k.first k.nblk).isNone
  | none => false

/-- O33: nothing held and no packet; a packet of no job held; a REDUCE packet whose operand is not there yet, one whose operand can be placed
ahead, ones that wait: of another kind, with its operand placed, with a full buffer, with no operand formed. -/
theorem witness_adder :
    let k := packetAt 1 1 2 0 1
    ((linkedWith id []).heldAt 0 = none ∧ ((linkedWith id []).port 0).headPkt 0 = none) ∧
    (let s := holding k []; s.heldAt 0 = some k.arrive ∧ s.packetJob k.arrive = none ∧ 0 < k.arrive.left ∧ (s.port (opposite 0)).st = 2) ∧
    (let j := crossJobOf .running id; let s := linked k [j];
      (s.port 0).headPkt 0 = some k ∧ k.kind = 1 ∧ s.heldAt 0 = none ∧ s.packetJob k.arrive = some j ∧ s.packetJob k = some j ∧ s.job? j.jid = some j ∧
        j.bufferOf 0 k.arrive = none ∧ (j.spec? k.arrive.bucket).isSome = true ∧ notReady s j k = true) ∧
    (let j := crossJobOf .stopping id; let s := linked k [j];
      s.packetJob k = some j ∧ j.bufferOf 0 k = none ∧ ready s j k = true ∧
        (match j.spec? k.bucket with | some b => decide (bufferBytes j 0 + k.nblk * (if j.isGxi b then 1024 else 256) ≤ 2 ^ 20) | none => false) = true) ∧
    (packetAt 2 1 2 0 1).kind ≠ 1 ∧ ((crossJobOf .running fun x => { x with opnds := [operandAt 1] }).bufferOf 0 k).isSome = true ∧
    2 ^ 20 < bufferBytes (crossJobOf .running fun x => { x with opnds := [operandAt 4097] }) 0 := by
  decide +kernel

/-- O33: a packet held whose operand is formed and whose turn it is, one whose turn it is not, one whose operand is not formed. -/
theorem witness_adder_lets_go :
    let k := packetAt 1 1 2 0 1
    (let j := crossJobOf .stopping id; let s := holding k [j];
      s.heldAt 0 = some k.arrive ∧ s.packetJob k.arrive = some j ∧ 0 < k.arrive.left ∧ (s.port (opposite 0)).st = 2 ∧ s.waitsTurn 0 k.arrive = false ∧
        ready s j k.arrive = true) ∧
    (let j := crossOf (crossBin 1 [planOf 1 1 true 1, planOf 1 1 false 1] []) .stopping id; let s := holding k [j];
      s.packetJob k.arrive = some j ∧ s.waitsTurn 0 k.arrive = true) ∧
    (let j := crossJobOf .running id; notReady (holding k [j]) j k.arrive = true) := by decide +kernel

/-- A job on two modules of X and two of Y; packets at their last hop. -/
def ring2 (f : ExchSt → ExchSt) (ph : JobPhase) : Job := crossOf (crossBin 2 [] []) ph f

def spreadAt (dim : Nat) : Packet := { packetAt 2 1 1 0 1 with hdr := putField (packetAt 2 1 1 0 1).hdr 8 2 dim, data := List.replicate 480 0 }
def haloAt : Packet := { packetAt 3 1 1 3 0 with hdr := pack 256 [(0, 4, 3), (11, 5, 1), (32, 32, 1), (96, 16, 3), (160, 16, 16)] }

/-- O34: the last hop of a SPREAD packet to a running job, in its first phase and after it; to one that is stopped, past its deadline, past the Cork
release, past the phase. -/
theorem witness_spread_is_delivered :
    (∀ d ∈ [0, 1], let j := ring2 id .running; let s := linked (spreadAt d) [j]; let k := (spreadAt d).arrive;
      s.packetJob k = some j ∧ s.job? j.jid = some j ∧ k.left = 0 ∧ (s.port 0).headPkt 0 = some (spreadAt d) ∧ (spreadAt d).kind = 2 ∧ s.heldAt 0 = none ∧
      s.stoppedToPeers j = false ∧ j.x.cork = none ∧ j.x.result = none ∧ (j.bucket 0).parts = [] ∧ (j.dims.head? == some k.dim) = decide (d = 0) ∧
      (match j.spec? 0, bankView j.bin false 2 with
        | some b, some v => b.stage == 2 && !j.pastDeadline b k.stamp && b.id == 0 && j.x.buckets.length == 1 && fine (if d = 0
            then (s.takePkt 0 (spreadAt d)).storeParts (linkWho j 0) (finalStores j b (k.fmt == 1) k.first k.blocks k.scaleAt)
            else (s.takePkt 0 (spreadAt d)).storeView (linkWho j 0) v (stageStores j b v (k.fmt == 1) k.first k.blocks k.scaleAt))
        | _, _ => false) = true) ∧
    (let j := ring2 id .stopping; (linked (spreadAt 1) [j]).stoppedToPeers j = true) ∧
    (let j := crossOf (crossBin 2 [] [{ id := 1, offset := 0, step := true, role := .reduced }]) .running id;
      (match j.spec? 0 with | some b => j.pastDeadline b 22500 | none => false) = true) ∧
    (ring2 (fun x => { x with cork := some (corkVal 1) }) .running).x.cork.isSome = true ∧
    (ring2 (fun x => { x with result := some (corkVal 1) }) .running).x.result.isSome = true := by decide +kernel

/-- O34: the last hop of a HALO packet, of CORK packets, first and second of their side, of a LINK_DOWN packet. -/
theorem witness_packets_are_delivered :
    (let j := ring2 id .running; let s := linked haloAt [j]; let k := haloAt.arrive;
      s.packetJob k = some j ∧ k.left = 0 ∧ (s.port 0).headPkt 1 = some haloAt ∧ s.stoppedToPeers j = false ∧ bits k.hdr 128 32 + bits k.hdr 160 16 ≤ 16 ∧
      (match j.bin.exch, bankView j.bin false 2 with
        | some x, some v => (match x.halo.find? (fun h => h.handle.toNat == bits k.hdr 96 16) with
          | some h => h.td == 2 && fine ((s.takePkt 0 haloAt).storeView (linkWho j 0) v (v.haloStores (v.base + h.off + bits k.hdr 128 32)
              (k.data.take (bits k.hdr 160 16))))
          | none => false)
        | _, _ => false) = true) ∧
    (∀ q ∈ [none, some (corkVal 1)],
      let j := crossJobOf .running fun x => { x with cork := some (corkVal 1), corkPos := q }; let k := packetAt 4 1 1 0 0; let s := linked k [j];
      (s.port 0).headPkt 2 = some k ∧ k.kind = 4 ∧ s.packetJob k.arrive = some j ∧ k.arrive.left = 0 ∧ k.arrive.dir = 0 ∧ j.x.corkPos = q ∧
        j.dims.findIdx? (fun d => d == k.arrive.dim) = some j.x.corkPhase) ∧
    (let j := crossJobOf .running id; let k := packetAt 5 1 1 0 0; let s := linked k [j];
      (s.port 0).headPkt 2 = some k ∧ k.kind = 5 ∧ s.packetJob k.arrive = some j ∧ k.arrive.left = 0) := by decide +kernel

/-- O35: a phase of the Cork with nothing arrived, complete in a ring of two, as the last, before another, and with a wrong COVER. -/
theorem witness_cork_phases :
    (∀ n ∈ [1, 2], let j := crossJobOf .running fun x => { x with cork := some (corkVal 1), corkPos := some (corkVal n) };
      j.dims[j.x.corkPhase]? = some 0 ∧ j.x.corkBad = false ∧ j.x.result = none ∧ j.x.corkNeg = none ∧ torusSize j.bin.report.torus 0 = 2 ∧ j.dims[1]? = none ∧
        ((j.dims.take 1).map fun d => torusSize j.bin.report.torus d).foldl (· * ·) 1 = 2) ∧
    (crossJobOf .running fun x => { x with cork := some (corkVal 1) }).x.corkPos = none ∧ (ring2 id .running).dims[1]? = some 1 ∧
    (ring2 id .running).dims[0]? = some 0 ∧ torusSize (ring2 id .running).bin.report.torus 0 = 2 := by decide +kernel

/-- What is due of a job's plan on a channel of port 0. -/
def dueOn (s : State) (j : Job) (ch : Nat) : Option (PlanPkt × Nat) := (s.nextPlan j 0 ch).filter fun e => e.1.own && s.planDue j e.1

def originating (j : Job) : State := { withPage State.reset with jobs := [j], ports := [(0, { NlPort.reset with st := 2 })], time := { TimeSt.reset with beat := 10 } }

/-- O35: nothing due; a planned REDUCE packet whose slot has come, its operand not formed and formed; a planned CORK packet. -/
theorem witness_origination :
    (let j := crossOf (crossBin 1 [] []) .running id; dueOn (originating j) j 1 = none ∧ dueOn (originating j) j 0 = none) ∧
    (∀ ph ∈ [JobPhase.running, .stopping], let j := crossJobOf ph id; let s := originating j;
      s.crossJob = some j ∧ s.job? j.jid = some j ∧ (s.port 0).st = 2 ∧ dueOn s j 1 = none ∧
      (s.jobs.any fun i => i.jid == j.jid && i.live && i.standalone) = false ∧
      (match dueOn s j 0 with
        | some (q, _) => q.kind == 1 && (match j.spec? q.bucket.toNat, s.planHalf j q with
          | some b, some h => (match s.operand j 0 b q.dim.toNat q.first (min (packetCap (j.isGxi b)) (h.hi - q.first)) with
            | some a => fine a && ph == .stopping
            | none => ph == .running)
          | _, _ => false)
        | none => false) = true) ∧
    (let j := crossOf (crossBin 1 [planOf 0 4 true 1] []) .running fun x => { x with cork := some (corkVal 1) };
      (match dueOn (originating j) j 1 with
        | some (q, _) => j.dims.head? == some q.dim.toNat && corkHops (torusSize j.bin.report.torus q.dim.toNat) (b2n q.dir) != 0
        | none => false) = true) := by decide +kernel

/-- HXU commands to the module and to a peer. -/
def hxuCmd (d : HxuDest) : Cmd := cmdOf (.hxu 0 reg1 d)
def hxuAt (d : HxuDest) : State := withPage (busy { die := 0, u := 14 } (hxuCmd d) (tdBin 1) fun u => { u with started := true, prog := 1 })

/-- O35: HXU commands whose accesses are there and not. -/
theorem witness_hxu :
    ∀ d ∈ [HxuDest.onModule 1 reg1 0, .peer 0 3 0 1], let s := hxuAt d; let j := jobOf (tdBin 1) .running;
      Commanded s 14 j (hxuCmd d) ∧ (s.unit 14).prog ≠ 0 ∧ (∀ o ∈ (hxuCmd d).outs, o.ref = none) ∧
      (match viewOf j.bin (hxuCmd d) (s.unit 14) 0, viewOf j.bin (hxuCmd d) (s.unit 14) 1 with
        | some a, some b =>
          let moves (s : State) := (s.moveFrom 14 (whoOf 14 j) a b (fun i q => rawConv s a b i q) 2 1 0 (regionPairs reg1 reg1)).2
          let reads (s : State) := accAll (fun i => s.readElem (whoOf 14 j) a i) (boxIdx reg1.org reg1.ext)
          moves s && !(moves { s with locked := [] }) && fine (reads s) && bad (reads { s with locked := [] })
        | _, _ => false) = true := by
  unfold Commanded Working; decide +kernel

/-- A flit of type `ty` under number `seq` whose header acknowledges `ack`; `nak` asks for a replay instead. -/
def flitAt (ty seq : Nat) (ackOn nak : Nat) (ack : Nat) : BitVec 2048 :=
  let w : BitVec 2048 := pack 2048 [(0, 2, ty), (8, 12, seq), (20, 12, ack), (32, 1, ackOn), (33, 1, nak)]
  putField w 96 32 (flitCrc w).toNat
def body0 : FlitBody := { ftype := 2, vc := 0, last := false, body := 0, pk := 0 }

/-- O36: a port that is not UP; one with a flit to replay, with one in line, with none, with a full replay buffer. -/
theorem witness_flit_slot :
    (State.reset.port 0).st ≠ 2 ∧ (let p := (State.reset.setPort 0 { NlPort.reset with st := 2, resend := [(4, body0)] }).port 0; p.st = 2 ∧ p.resend = [(4, body0)]) ∧
    (let q : NlPort := { NlPort.reset with st := 2, tx := [[body0], [], []] };
      q.resend = [] ∧ q.replay.length < 1024 ∧ ([2, 1, 0].find? fun v => !(q.tx.getD v []).isEmpty && q.cred.getD v 0 != 0) = some 0 ∧ q.tx.getD 0 [] = [body0]) ∧
    (([2, 1, 0].all fun v => (NlPort.reset.tx.getD v []).isEmpty || NlPort.reset.cred.getD v 0 == 0) = true) ∧
    1024 ≤ (List.replicate 1024 (0, body0)).length := by decide +kernel

set_option maxRecDepth 40000 in
/-- O36: a flit that fails its CRC; flits that are idle, in order, taken already, after a gap, one that acknowledges. -/
theorem witness_flits_received :
    flitCrc 0 ≠ BitVec.ofNat 32 (bits (0 : BitVec 2048) 96 32) ∧
    (∀ e ∈ [(0, 0), (1, 0), (2, 4095), (2, 1)], let w := flitAt e.1 e.2 1 0 0;
      flitCrc w = BitVec.ofNat 32 (bits w 96 32) ∧ bits w 0 2 = e.1 ∧ bits w 8 12 = e.2 ∧ bits w 2 2 < 3 ∧ bit w 33 = false ∧ bit w 32 = true) ∧
    NlPort.reset.nakRun < 8 ∧ NlPort.reset.rxNext = 0 ∧ NlPort.reset.rxGap = false ∧ seqLe 4095 0 = true ∧ seqLe 1 0 = false := by decide +kernel

set_option maxRecDepth 40000 in
/-- O36: a flit that asks for a replay, the first and the eighth from one number; a port with a replay asked for, and without. -/
theorem witness_naks :
    (let w := flitAt 0 0 0 1 7; flitCrc w = BitVec.ofNat 32 (bits w 96 32) ∧ bit w 33 = true ∧ (bits w 20 12 + 1) % 4096 = 8) ∧
    NlPort.reset.nakRun < 7 ∧ (let q : NlPort := { NlPort.reset with st := 2, nakRun := 7, nakSeq := 8 }; q.nakRun = 7 ∧ q.nakSeq = 8) ∧
    ({ NlPort.reset with nakIn := true } : NlPort).nakIn = true ∧ NlPort.reset.nakIn = false := by decide +kernel

/-- O37: a port DOWN, TRAINING and UP, enabled and not; the control function and another; a live job whose traffic crosses, and none. -/
theorem witness_link_states :
    Served State.reset (linkDie 0) pf ∧ State.reset.isControl vf = false ∧ (State.reset.port 0).st = 0 ∧ (State.reset.port 0).en = false ∧
      (∀ st ∈ [(0 : BitVec 2), 1, 2], let s := State.reset.setPort 0 { NlPort.reset with en := true, st := st, silentSlots := 64 };
        Served s (linkDie 0) pf ∧ (s.port 0).st = st ∧ (s.port 0).en = true ∧ 64 ≤ (s.port 0).silentSlots) ∧ NlPort.reset.silentSlots < 64 ∧
      (State.reset.jobs.any fun j => j.live && j.cross) = false ∧ Served (linked (packetAt 5 1 1 0 0) [crossJobOf .running id]) (linkDie 0) pf ∧
      (linked (packetAt 5 1 1 0 0) [crossJobOf .running id]).jobs.any (fun j => j.live && j.cross) = true := by
  unfold Served; decide +kernel

/-- O37: a torus that lies whole in 32 and a coordinate in it; one that does not. -/
theorem witness_torus :
    let fits (v : U64) : Bool := (List.range 3).all fun d => decide (bits v (40 - 5 * d) 5 + (bits v (15 + 5 * d) 5 + 1) ≤ 32) &&
      decide (bits v (40 - 5 * d) 5 ≤ bits v (10 - 5 * d) 5) && decide (bits v (10 - 5 * d) 5 < bits v (40 - 5 * d) 5 + (bits v (15 + 5 * d) 5 + 1));
    fits 0 = true ∧ fits (pack 64 [(40, 5, 31), (15, 5, 1), (10, 5, 31)]) = false := by decide +kernel

/-! ### Memory, translation, host, jobs -/

def dev0 (f : DevSt → DevSt) : State := { State.reset with devs := [(0, f { DevSt.reset with selfRefresh := false })] }

/-- An error pattern with the symbols of a list wrong. -/
def errAt (l : List Nat) : EccErr := { pattern := pack 512 (l.map fun i => (16 * i, 16, 1)) }

/-- O38: a device that serves outside the window, in it, and in self-refresh; addresses at the start and at the end of a burst, of a clean one and of a
poisoned one; errors of none to three symbols, the last of which the code detects or not. -/
theorem witness_gddr7_access :
    inGddr 0 = true ∧ inGddr (2 ^ 45 - 1) = false ∧ (gddrMap 0).dev = 0 ∧ (gddrMap 63).dev = 0 ∧ burstOf 63 = burstOf 0 ∧
      (let s : State := { dev0 id with time := { TimeSt.reset with phase := 90 } }; s.devServes 0 = true ∧ s.scrubTime = false ∧ s.poisoned (burstOf 0) = false) ∧
      (dev0 id).scrubTime = true ∧ (dev0 fun d => { d with selfRefresh := true }).devServes 0 = false ∧
      ({ dev0 id with poison := [(burstOf 0, true)] } : State).poisoned (burstOf 0) = true ∧ 62 % 64 + [(1 : Byte)].length < 64 ∧
      [[], [5], [0, 31], [1, 2, 3]].map (fun l => (errSymbols (errAt l)).length) = [0, 1, 2, 3] := by decide +kernel

theorem witness_three_wrong_symbols :
    Config.eccDetects (State.reset.burst 0) (errAt [1, 2, 3]).pattern = true ∨ Config.eccDetects (State.reset.burst 0) (errAt [1, 2, 3]).pattern = false := by
  cases Config.eccDetects (State.reset.burst 0) (errAt [1, 2, 3]).pattern <;> simp

def cxl0 (f : CxlPort → CxlPort) : State := State.reset.setCxl 0 (f { CxlPort.reset with link := 2 })
def req (id stream : Nat) : CxlReq := { id := id, stream := stream, addr := 0, write := false, bytes := [], done := none }
def hdm0 : Hdm := { base := 0, size := 2 ^ 28, ways := 0, pos := 0, commit := false, committed := false, err := 0 }
def hdms (h : Hdm) : State := cxl0 fun p => { p with hdm := [h, .reset, .reset, .reset] }

/-- O39: the phases 0, 89 and 90; a device whose block of the beat is checked and one whose is not; a device with an error noted that may post it, and
one whose event is recent. -/
theorem witness_scrub_and_report :
    (dev0 id).time.phase = 0 ∧ 89 < (timed fun t => { t with phase := 90 }).time.phase ∧ (timed fun t => { t with phase := 89 }).time.phase ≤ 89 ∧
      (dev0 id).devServes 0 = true ∧ ((dev0 id).devAt 0).lastScrub ≠ some (dev0 id).time.beat ∧
      ((dev0 fun d => { d with lastScrub := some 0 }).devAt 0).lastScrub = some (dev0 id).time.beat ∧
      (let d := (dev0 fun d => { d with since := 1 }).devAt 0; d.mayPost 0 = true ∧ d.since ≠ 0) ∧
      ((dev0 fun d => { d with lastEvent := some 0 }).devAt 0).lastEvent = some 0 ∧ (dev0 id).time.beat < 0 + 1024 := by decide +kernel

/-- O39: requests of one stream, the first and the second done, and none; ports that may come UP, are disabled, go down. -/
theorem witness_cxl_ports :
    ((cxl0 fun p => { p with reqs := [req 0 1, req 1 1] }).cxlAt 0).reqs = [req 0 1, req 1 1] ∧ ((cxl0 id).cxlAt 0).reqs = [] ∧ (req 0 1).done = none ∧
    (∀ l ∈ [(0 : BitVec 2), 2], let p := (cxl0 fun p => { p with en := true, link := l, perst := true }).cxlAt 0;
      p.en = true ∧ p.hdm.any (·.committed) = false ∧ p.link = l) ∧
    ((cxl0 id).cxlAt 0).en = false ∧ State.reset.pwr.eff < 4 ∧
      (let p := (cxl0 fun p => { p with en := true, hdm := [{ hdm0 with committed := true }] }).cxlAt 0; p.link = 2 ∧ p.hdm.any (·.committed) = true) := by
  decide +kernel

/-- O39: decoders free and committed, whole and wrong, their range in use and not. -/
theorem witness_hdm_commit :
    Served (hdms hdm0) 30 pf ∧ ((hdms hdm0).cxlAt 0).hdm.length = 4 ∧ (hdms hdm0).hdmErr 0 0 hdm0 true = 0 ∧ (hdms hdm0).hdmErr 0 0 hdm0 false = 5 ∧
    (hdms hdm0).hdmErr 0 0 { hdm0 with base := 1 } true = 1 ∧ bit (16 : U64) 4 = true ∧ bit (0 : U64) 4 = false ∧ hdm0.committed = false ∧ hdm0.ways = 0 ∧
    (let h := { hdm0 with committed := true }; ((hdms h).cxlAt 0).hdm.getD 0 .reset = h ∧ (hdms h).rangeBusy h = false ∧
      (({ hdms h with locked := [{ asid := 0, lo := 0, size := 65536, tgt := 0, out := cxlBase, w := true, ctx := 0, pin := 0, die := 0, grants := 0 }] } :
        State).rangeBusy h = true)) := by
  unfold Served; decide +kernel

/-- A unit of a running job in context 3, whose table maps one page. -/
def walking (cls : BitVec 2) : State :=
  { walkState with
    jobs := [{ jobOf bin0 .running with ctx := 3, cls := cls }]
    units := [(dma.addr, { UnitSt.reset with job := some 1 })] }

/-- O40: a walk that ends at a leaf the job may read; one that finds no root; a context whose translation is off; a GUARANTEED job with nothing locked. -/
theorem witness_walks_and_their_faults :
    (∀ cls ∈ [(0 : BitVec 2), 1], let s := walking cls;
      (s.unit dma.addr).job = some 1 ∧ s.job? 1 = some { jobOf bin0 .running with ctx := 3, cls := cls } ∧
        (match s.walk 3 0x0001000034567840 with
          | .ok l => l.tgt == 0 && l.r && l.w && !inCxl (l.out + (0x0001000034567840 - l.lo)) &&
            (match s.physCheck (l.out + (0x0001000034567840 - l.lo)) with | .ok (.phys a) => a == l.out + (0x0001000034567840 - l.lo) | _ => false)
          | _ => false) = true ∧ s.tlb = [] ∧ s.locked = [] ∧ s.faults = []) ∧
    (walking 1).walk 3 (2 ^ 56) = .bad 1 ∧ bit (State.reset.ctxAt 0).ttCtrl 0 = false ∧
    ({ jobOf bin0 .running with cls := 1 } : Job).guaranteed = false ∧ ({ jobOf bin0 .running with cls := 0 } : Job).guaranteed = true := by decide +kernel

def fault0 (pri : Bool) : FaultSt := { fid := 5, ctx := 0, jid := 1, stream := dma.addr, joined := [], dva := 0, write := false, cause := 2, pri := pri }
def faulting (pri : Bool) : State :=
  { withPage (busy dma cmd0 bin0 fun u => { u with wait := .fault 0 }) with faults := [fault0 pri] }

theorem witness_fault_resolution :
    (∀ pri ∈ [true, false], let s := faulting pri;
      s.barOpen = true ∧ s.dieAnswers 30 = true ∧ s.faultOf 0 6 = none ∧ s.faultOf 0 5 = some (fault0 pri) ∧ s.job? 1 = some (jobOf bin0 .running) ∧
        (s.unit dma.addr).wait = .fault 0 ∧ (s.unit dma.addr).cmd?.isSome = true ∧ dma.addr < 512 ∧
        fine (s.locate (whoOf dma.addr (jobOf bin0 .running)) 0 false) = true ∧
        fine ((s.askAgain 0).locate (whoOf dma.addr (jobOf bin0 .running)) 0 false) = true) ∧
    (∀ e ∈ (busy dma cmd0 bin0 id).units, e.2.wait.code ≠ 6) := by decide +kernel

/-- A table that maps a page of the host. -/
def hostTable : State := { walkState with mem := cellsOf 0x201000 8 0x400001 ++ cellsOf 0x400000 8 0x12_0000_001F }

def ctx3 (f : CtxSt → CtxSt) : State := { walkState with ctxs := [(3, f (walkState.ctxAt 3))] }
def pin0 (f : PinEnt → PinEnt) : State := ctx3 fun c => { c with pins := [(0, f .reset)] }
def pf3 : Func := { port := 0, fn := 3 }

/-- O42: an invalidation idle and under way; a PIN free and set; GO and not. -/
theorem witness_invalidation_and_pins :
    (ctx3 id).barOpen = true ∧ (ctx3 id).dieAnswers 30 = true ∧ ((ctx3 id).ctxAt pf3.ctx).invalBusy = false ∧
    ((ctx3 fun c => { c with invalBusy := true }).ctxAt 3).invalBusy = true ∧ (((pin0 id).ctxAt pf3.ctx).pinAt 0).en = false ∧
    (((pin0 fun p => { p with en := true }).ctxAt pf3.ctx).pinAt 0).en = true ∧ bit (1 : U64) 0 = true ∧ bit (0 : U64) 0 = false := by decide +kernel

/-- O42: a PIN that walks a range that is mapped, with room in the translation units and without, one that is not mapped, one of the host. -/
theorem witness_pin_walks :
    let on (b l : Nat) : PinEnt → PinEnt := fun p => { p with en := true, st := 1, base := b, limit := l }
    (let s := pin0 (on 0x0001000034560000 0x0001000034570000); let q := (s.ctxAt 3).pinAt 0;
      q.st = 1 ∧ q.en = true ∧ grantsOf 0 s.locked ≤ 16384 ∧ grantsOf 1 s.locked ≤ 16384 ∧ s.locked.length + 1 ≤ 512 ∧
      (match s.pinWalk 3 q.w q.base q.limit 513 q.base with | .leaves ls => decide (ls.length = 1) && ls.all (fun l => l.1.tgt == 0) | _ => false) = true ∧
      512 < (List.replicate 512 ({ asid := 0, lo := 0, size := 65536, tgt := 0, out := 0, w := true, ctx := 0, pin := 0, die := 0, grants := 0 } : TlbEntry)).length + 1) ∧
    (let s := pin0 (on 0 65536); let q := (s.ctxAt 3).pinAt 0;
      (match s.pinWalk 3 q.w q.base q.limit 513 q.base with | .failed _ => true | _ => false) = true) ∧
    (let s := { hostTable with ctxs := [(3, { hostTable.ctxAt 3 with pins := [(0, on 0x0001000034560000 0x0001000034570000 .reset)] })] };
      let q := (s.ctxAt 3).pinAt 0; (match s.pinWalk 3 q.w q.base q.limit 513 q.base with | .ask _ _ => true | _ => false) = true) := by decide +kernel

/-- Context 0 served by port 0, with a change of its own. -/
def served0 (f : CtxSt → CtxSt) (p : HostPort → HostPort) : State :=
  { State.reset with ctxs := [(0, f { CtxSt.resetAt 0 with en := true })], hp := [(0, p { HostPort.resetAt 0 with link := 2, full := true })] }

/-- O43: a context served over PCIe and over CXL, or not, that waits for its line or not; lines torn, good, and with the SEQ of the last; phases on
both sides of 1800. -/
theorem witness_doorbells_and_fetch :
    (served0 id id).served 0 = true ∧ State.reset.served 0 = false ∧ ((served0 id id).hpAt 0).cxl = false ∧
      ((served0 id fun p => { p with cxl := true }).hpAt 0).cxl = true ∧ ((served0 id id).ctxAt 0).dbWatch = false ∧
      ((served0 (fun c => { c with dbWatch := true }) id).ctxAt 0).dbWatch = true ∧ bits (1 : BitVec 512) 480 32 ≠ bits (1 : BitVec 512) 0 32 ∧
      bits (0 : BitVec 512) 480 32 = bits (0 : BitVec 512) 0 32 ∧
      (CtxSt.resetAt 0).lineOk 0 = true ∧ ({ CtxSt.resetAt 0 with lastSeq := some 0 } : CtxSt).lineOk 0 = false ∧ (served0 id id).time.phase = 0 ∧
      (timed fun t => { t with phase := 1800 }).time.phase ≤ 1800 ∧ 1800 < (timed fun t => { t with phase := 1801 }).time.phase := by decide +kernel

def ring6 : Ring := { Ring.reset with reg := 6 }

/-- O44: a context with four valid sizes, and without; both ports UP under the control function; a port down 999 and 1,000 beats. -/
theorem witness_contexts_and_links :
    State.reset.barOpen = true ∧ State.reset.dieAnswers 30 = true ∧ ring6.sizeOk = true ∧ Ring.reset.sizeOk = false ∧
      (State.reset.ctxAt 0).en = false ∧ ((served0 id id).ctxAt 0).en = true ∧ (served0 id id).isControl pf = true ∧
      (served0 id id).isControl vf = false ∧ ((served0 id id).setHp 1 { HostPort.resetAt 1 with link := 2 }).isControl pf = true ∧
      (((served0 id id).setHp 1 { HostPort.resetAt 1 with link := 2 }).hpAt 1).link = 2 ∧ (State.reset.hpAt 0).link ≠ 2 ∧
      (State.reset.hpAt 0).downBeats < 1000 ∧ 1000 ≤ ((State.reset.setHp 0 { HostPort.resetAt 0 with downBeats := 1000 }).hpAt 0).downBeats ∧ State.reset.time.phase = 0 := by
  decide +kernel

def descAt (kind cls jid : Nat) : BitVec 512 := pack 512 [(0, 2, kind), (2, 2, cls), (64, 64, jid)]
def candAt (d : BitVec 512) (js : List Job) : State :=
  { served0 (fun c => { c with
        cands := [({ desc := d, bin := some bin0 }, 0)]
        pins := [(0, { PinEnt.reset with en := true, w := true, base := 0, limit := 65536, st := 2 })] }) id with
    jobs := js
    locked := [{ asid := 0, lo := 0, size := 65536, tgt := 0, out := 0, w := true, ctx := 0, pin := 0, die := 0, grants := 0 }] }
def fetched (d : BitVec 512) : Fetched := { desc := d, bin := some bin0 }

/-- O45: candidates of both kinds of class that every check passes, with a base and none; one malformed; one with a share its port does not have; a
module at L2; a deadline that cannot be kept. -/
theorem witness_run_admission :
    (∀ cls ∈ [0, 1], let d := descAt 0 cls 7; let s := candAt d []; let s0 := s.dropCand 0;
      s.nextCand = some (0, fetched d) ∧ dKind d = 0 ∧ dClass d = cls ∧ s0.runCause 0 (fetched d) = none ∧ dReplay d = false ∧ dRecord d = false ∧
        dTrace d = false ∧ bin0.report.sampleStrobe = false ∧ bin0.report.crossModule = false ∧ s.pwr.eff < 2 ∧
        s0.capacity 0 (dClass d) false bin0.report.torus 0 = true ∧ s0.resident 0 d bin0 (dClass d == 0) false = true ∧
        s0.portShareOk 0 bin0.report.portShare = true ∧ s0.portShareOk 0 257 = false ∧
        s0.findBase 0 bin0.report.reserveBeats (dNotBefore d) 0 = some 2 ∧ s0.findBase 0 bin0.report.reserveBeats (dNotBefore d) 11 = none) ∧
    (candAt (descAt 0 0 7) [{ jobOf bin0 .admitted with jid := 7 }]).runCause 0 (fetched (descAt 0 0 7)) = some 0x24 ∧
    2 ≤ ({ State.reset with pwr := { PowerSt.reset with eff := 2 } } : State).pwr.eff := by decide +kernel

def preempted (cls : BitVec 2) : Job :=
  { jobOf { bin0 with report := { report0 with saveBytes := 0 } } .preempted with cls := cls, endBeat := 10 }
def resumeDesc (cls : Nat) : BitVec 512 := descAt 1 cls 1

/-- O46: a preempted job of each class named by its token, and none; its reservation clear and not; a job with cross-module marks, its module's time
LOCKED and not, with periods left and none. -/
theorem witness_resume :
    (∀ cls ∈ [0, 1], let j := preempted (BitVec.ofNat 2 cls); let d := resumeDesc cls; let s := { candAt d [j] with saves := [imageOf 0] }; let s0 := s.dropCand 0;
      s.nextCand = some (0, fetched d) ∧ descOk d = true ∧ dKind d = 1 ∧ s0.resumable 0 d = some j ∧ s0.job? 1 = some j ∧ j.cross = false ∧ s.pwr.eff < 2 ∧
        j.guaranteed = (cls == 0) ∧ s0.capacity 0 j.cls.toNat j.cross j.bin.report.torus j.jid = true ∧ s0.resident 0 j.desc j.bin j.guaranteed j.cross = true ∧
        s0.baseOk 0 (s.time.beat + saveBeats j.bin) (j.endBeat - j.saveAt) 0 (dDeadline j.desc) j.jid = true ∧
        s0.baseOk 0 (s.time.beat + saveBeats j.bin) (j.endBeat - j.saveAt) 0 3 j.jid = false) ∧
    ((candAt (resumeDesc 0) []).dropCand 0).resumable 0 (resumeDesc 0) = none ∧
    (∀ n ∈ [0, 2],
      let j : Job := { preempted 0 with bin := { bin0 with report := { report0 with crossModule := true, stepBeats := 4, steps := n, torus := { report0.torus with ranks := [(0, 0)] } } } };
      let d := resumeDesc 0; let s : State := { candAt d [j] with saves := [imageOf 0], time := { TimeSt.reset with st := .locked }, torus := 2 ^ 45 }; let s0 := s.dropCand 0;
      s.nextCand = some (0, fetched d) ∧ s0.resumable 0 d = some j ∧ j.cross = true ∧ s.time.st = .locked ∧
        decide (j.rejoinPeriod (s.time.beat + saveBeats j.bin) < j.periods) = decide (n = 2) ∧
        s0.capacity 0 j.cls.toNat j.cross j.bin.report.torus j.jid = true ∧ s0.resident 0 j.desc j.bin j.guaranteed j.cross = true) ∧
    (candAt 0 []).time.st ≠ .locked := by decide +kernel

/-- O46: PREEMPT and ABORT of a PREEMPTIBLE job, of another, of none. -/
theorem witness_preempt_abort :
    (∀ kind ∈ [2, 3], let d := descAt kind 0 1; let j := { jobOf bin0 .running with cls := 2 }; let s := candAt d [j];
      s.nextCand = some (0, fetched d) ∧ descOk d = true ∧ dKind d = kind ∧ (s.dropCand 0).target 0 (dJob d) = some j ∧ j.preemptible = true ∧
        (s.dropCand 0).job? 1 = some j ∧ ((candAt d []).dropCand 0).target 0 (dJob d) = none) ∧ (jobOf bin0 .running).preemptible = false := by decide +kernel

def alone (j : Job) : State := { State.reset with jobs := [j] }

/-- O47: an admitted job at its base, one that rejoins, one before its base, on a module at L3; a waiting and a parked one that fit in lendable time; one
lent already. -/
theorem witness_job_start :
    (let j := jobOf bin0 .admitted; (alone j).job? 1 = some j ∧ (alone j).time.phase = 0 ∧ j.base ≤ (alone j).time.beat ∧ (alone j).pwr.eff < 3 ∧
      j.bin.update = none ∧ j.cross = false) ∧
    (let j := { jobOf { bin0 with report := { report0 with crossModule := true } } .admitted with rejoin := 1 };
      (alone j).job? 1 = some j ∧ j.bin.update = none ∧ j.cross = true ∧ j.rejoin ≠ 0) ∧
    (let j := { jobOf bin0 .admitted with base := 5 }; (alone j).time.beat < j.base) ∧
    3 ≤ ({ State.reset with pwr := { PowerSt.reset with eff := 3 } } : State).pwr.eff ∧
    (∀ ph ∈ [JobPhase.waiting, .parked], let j := { jobOf bin0 ph with cls := 1 };
      (alone j).lentNow = none ∧ (alone j).lentQueue.head? = some j ∧ (alone j).mayLend j = true ∧ (alone j).pwr.eff < 3 ∧ (alone j).time.phase = 0) ∧
    (alone { jobOf bin0 .running with cls := 2, lent := true }).lentNow.isSome = true ∧
    (let j := { jobOf bin0 .waiting with cls := 1, desc := pack 512 [(384, 48, 1)] };
      (alone j).lentQueue.head? = some j ∧ (alone j).mayLend j = false) := by decide +kernel

/-- O47: a training job whose labels say which bank is its START_STEP's, or that neither holds it yet. -/
theorem witness_training_job_start :
    let j := { trainJob id with phase := .admitted };
    let w : Who := { unit := 30, isDie := true, ctx := 0, jid := 1, lockedOnly := j.guaranteed };
    (∀ st ∈ [0, 2], let s : State := { withPage State.reset with jobs := [j], mem := cellsOf (scratchAddr 0 0 + 24576 + 8) 1 st };
      s.job? 1 = some j ∧ j.bin.update ≠ none ∧ j.cross = false ∧
        (match s.labelOf w j false, s.labelOf w j true with
          | .ok a, .ok b => pickBank (dStart j.desc).toNat a b == some (false, decide (st = 0))
          | _, _ => false) = true) := by decide +kernel

/-- O48: a lent job that meets a reservation, and one that does not; a preempted job at its end and before; a job whose units are done, and not. -/
theorem witness_job_end :
    (let j := { jobOf bin0 .running with cls := 2, lent := true }; let g := { jobOf bin0 .admitted with jid := 2, base := 4, endBeat := 9 };
      let s : State := { State.reset with jobs := [j, g] }; s.job? 1 = some j ∧ j.preemptible = true ∧ s.time.phase = 0 ∧ s.lendsFor (saveBeats j.bin + 1) = false ∧
      (alone j).lendsFor (saveBeats j.bin + 1) = true) ∧
    (let j := { preempted 0 with endBeat := 0 }; (alone j).job? 1 = some j ∧ j.phase = .preempted ∧ j.guaranteed = true ∧ j.endBeat ≤ (alone j).time.beat ∧
      (alone j).time.beat < (preempted 0).endBeat) ∧
    (let j := jobOf bin0 .running; (alone j).job? 1 = some j ∧ j.bin.update = none ∧ (alone j).unitsDone j = true ∧ (alone j).endPending 1 = false ∧
      (alone j).obs.recs = [] ∧ j.limit = some 22500 ∧ (alone j).gt ≤ 22500 ∧ bit j.reasons 0 = false ∧ (busy dma cmd0 bin0 id).unitsDone j = false) := by
  decide +kernel

/-- Die 30 traces for context 3, which drains it; records wait. -/
def tracing (recs : List W256) (f : CtxSt → CtxSt) : State :=
  { walkState with
    obs := { ObsSt.reset with trace := [(30, { TraceSt.reset with recs := recs, jid := some 1, ctx := 3 })] }
    ctxs := [(3, f { walkState.ctxAt 3 with traceRing := 0x0001000034560000 + pack 64 [(0, 5, 10)], traceCfg := 4 })] }

/-- O49: requests held for a boundary and none; claims of which no other of its cycle comes from a higher port; a ring with room for two records; a die with
drops to tell, another with none. -/
theorem witness_counters_and_traces :
    State.reset.barOpen = true ∧ State.reset.dieAnswers 30 = true ∧ State.reset.isControl pf = true ∧ State.reset.isControl vf = false ∧
    State.reset.obs.claims = [] ∧ ({ ObsSt.reset with snapReq := true, clearReq := true } : ObsSt).snapReq = true ∧ ObsSt.reset.snapReq = false ∧ ObsSt.reset.clearReq = false ∧
    (let s := tracing [1, 2] id; let c := s.ctxAt 3; s.dumpHolds = false ∧ c.drainEn = true ∧ c.ringRoom = true ∧ (s.traceAt 30).gap = 0 ∧
      (s.traceAt 30).recs = [1, 2] ∧ (s.traceAt 30).ctx.toNat = 3 ∧ (c.ringTail + 2 ^ 32 + 1 - c.ringHead) % 2 ^ 32 < 2 ^ c.ringLog ∧ c.ringTail + 1 < 2 ^ 32 ∧
      (let w : Who := { unit := 30, isDie := true, ctx := 3, jid := 1, lockedOnly := false };
        fine (s.store w c.ringBase (bytesOf 32 1)) && fine ((s.drainOne 30).store w (c.ringBase + 32) (bytesOf 32 2))) = true) ∧
    (State.reset.ctxAt 0).drainEn = false ∧
    (let r : TraceSt := { TraceSt.reset with sinceEvent := 1 }; r.sinceEvent ≠ 0 ∧ r.lastEvent = none) ∧ TraceSt.reset.sinceEvent = 0 := by decide +kernel

/-- O49: a trigger that may be asked for, one not, one due, one not yet, none; the owners of the TRIG pin. -/
theorem witness_triggers :
    (let s := tracing [] id; s.ctxTraces 3 = true ∧ (s.ctxAt 3).trigAt = none ∧ (s.ctxAt 3).trigDone = false ∧ bits (s.ctxAt 3).traceCfg 3 3 = 0) ∧
    State.reset.ctxTraces 0 = false ∧ ((tracing [] fun c => { c with trigAt := some 0 }).ctxAt 3).trigAt = some 0 ∧ (tracing [] id).gt < 0 + 256 ∧
    0 + 256 ≤ ({ tracing [] id with time := { TimeSt.reset with phase := 256 } } : State).gt ∧ ((tracing [] id).traceAt 30).jid.isSome = true ∧
    State.reset.obs.trigOwner = 0 ∧ ({ ObsSt.reset with trigOwner := 1 } : ObsSt).trigOwner = 1 ∧ (9 < 10 ∧ 10 ≤ 10 ∧ 20 ≤ 20 ∧ 20 < 21) := by decide +kernel

def dump0 (f : DumpSt → DumpSt) : DumpSt := f { ctx := 0, scope := false, hang := false, at_ := 0, jobs := [1], taken := false, units := [] }
def dumping (d : DumpSt) (ph : JobPhase) (f : CtxSt → CtxSt) : State :=
  { State.reset with jobs := [jobOf bin0 ph], obs := { ObsSt.reset with dumps := [d] }, ctxs := [(0, f (.resetAt 0))] }
def withArea (c : CtxSt) : CtxSt :=
  { c with dumpDva := 0x2000000, pins := [(0, { PinEnt.reset with en := true, w := true, base := 0x2000000, limit := 0x4000000, st := 2 })] }

/-- O50: a silent job and one not; a context that traces and one that does not; a dump asked for and none. -/
theorem witness_hang :
    (let j := { jobOf bin0 .running with silentBeats := 467 }; (alone j).job? 1 = some j ∧ (alone j).time.phase = 0 ∧ j.hung = false ∧ j.phase = .running ∧
      ((alone j).ctxAt 0).hangBeats ≤ j.silentBeats ∧ (jobOf bin0 .running).silentBeats < ((alone j).ctxAt 0).hangBeats ∧ (alone j).obs.dumps = [] ∧
      (alone j).barOpen = true ∧ (alone j).dieAnswers 30 = true ∧ (alone j).traceBusy 0 = false) ∧
    (dumping (dump0 id) .running id).obs.dumps ≠ [] := by decide +kernel

/-- O50: a dump with and without an area, over a job that runs and one being saved, at its boundary, before it, and taken. -/
theorem witness_dump :
    (∀ ph ∈ [JobPhase.running, .saving], let s := dumping (dump0 id) ph withArea; (s.ctxAt 0).dumpBase ≠ 0 ∧
      s.isPinned 0 (s.ctxAt 0).dumpBase 0x2000000 true = true ∧ (s.dumpJobs (dump0 id)).any Job.beingSaved = (ph == .saving) ∧
      s.obs.dumps = [dump0 id] ∧ (dump0 id).taken = false ∧ (dump0 id).at_ ≤ s.time.beat ∧ s.time.phase = 0 ∧ s.job? 1 = some (jobOf bin0 ph) ∧
      (s.dumpJobs (dump0 id)).contains (jobOf bin0 ph) = true) ∧
    (dumping (dump0 fun d => { d with at_ := 1 }) .running id).time.beat < (dump0 fun d => { d with at_ := 1 }).at_ ∧
    ((dumping (dump0 id) .running id).ctxAt 0).dumpBase = 0 ∧ (dumping (dump0 id) .running id).dumpHolds = false ∧
    (let s := { dumping (dump0 fun d => { d with taken := true }) .dumping id with time := { TimeSt.reset with beat := 10 } };
      s.dumpHolds = true ∧ 0 + 10 ≤ s.time.beat ∧ s.job? 1 = some (jobOf bin0 .dumping)) := by decide +kernel

/-! ### Power, dies, security, registers, numbers -/

def offState (f : PowerSt → PowerSt) : State := { State.reset with pwr := f { PowerSt.reset with on := false } }

/-- An image of a type under a key that the boot ROM does not have. -/
def badKey (ty : Nat) : Image := { hdr := pack 8192 [(32, 8, ty), (40, 8, 4)], payload := [] }

/-- O51: supply voltages at their bounds; boots before MOD_RST# is released and after, done, failed and in recovery, at L4, at L3 and below; images that
no key signs; what good ones need of the verification that the manual leaves to the boot ROM. -/
theorem witness_supply_and_boot :
    ((offState id).pwr.on = false ∧ (offState id).pwr.tripped = false ∧ (offState fun p => { p with tripped := true }).pwr.tripped = true ∧
      (5200 ≤ 5200 ∧ 8400 ≤ 8400 ∧ 7999 < 8000 ∧ 8400 < 8401 ∧ 10000 < 10001)) ∧
    (let s := State.reset; s.pwr.on = true ∧ s.sec.stage = 0 ∧ s.sec.ready = false ∧ s.sec.recovery = false ∧ s.sec.err = 0 ∧ s.pwr.eff < 3 ∧
      s.pins.modRst = false ∧ s.sec.good 1 (some (badKey 1)) = none ∧ s.sec.good 2 none = none) ∧
    ({ State.reset with pins := { PinSt.reset with modRst := true } } : State).pins.modRst = true ∧
    (∀ e ∈ [3, 4], ({ State.reset with pwr := { PowerSt.reset with eff := e } } : State).pwr.eff = e) ∧
    ({ SecSt.reset with stage := 6 } : SecSt).stage = 6 ∧ ({ SecSt.reset with recovery := true } : SecSt).recovery = true ∧
    ({ SecSt.reset with err := 3 } : SecSt).err ≠ 0 := by decide +kernel

/-- What a boot assumes of a good image, if the boot ROM takes the signature. -/
theorem witness_good_image (c : SecSt) (i : Image) (ty : Nat) (ht : imgType i = ty) (hk : imgKey i = 0) (hr : bit c.revoked 0 = false)
    (hs : sigOk i.hdr 0 = true) (hd : Config.sha512 i.payload = imgDigest i) (hv : c.svnOf ty ≤ imgSvn i) : c.good ty (some i) = some i := by
  have h : c.imageErr i ty = 0 := by
    unfold SecSt.imageErr
    rw [hk, if_neg (by simp [ht]), if_neg (by decide), if_neg (by simp [hr]), if_neg (by simp [hs, hd]), if_neg (by omega)]
  simp [SecSt.good, h]

def hot (f : PowerSt → PowerSt) : State := { State.reset with pwr := f PowerSt.reset }

/-- O52: a boundary and a cycle after it; levels that stay, that rise past L4; a recovery of the supply's level and of the thermal one after 10,000 beats,
neither after 9,999; a level that rises or that the module does not follow yet. -/
theorem witness_shed_ladder :
    (let p := State.reset.pwr; max p.level (max (risen p.supply p.supIn false) (max (risen p.thermal p.thIn true) p.floor)) < 5 ∧ p.acting = false ∧
      p.eff ≤ 2) ∧
    (timed fun t => { t with phase := 1 }).time.phase ≠ 0 ∧ risen 4 [0, 0, 0, 0, 1] true = 5 ∧ risen 4 [0, 0, 0, 0, 101] false = 5 ∧
    (∀ l ∈ [2, 3, 4], let p := (hot fun p => { p with supply := l, level := l, eff := l, supOut := 10000 }).pwr;
      p.acting = false ∧ p.stepped = false ∧ risen p.supply p.supIn false = p.supply ∧ risen p.thermal p.thIn true = p.thermal ∧
        p.thermal < p.supply ∧ p.floor < p.supply ∧ p.eff = p.supply ∧ 10000 ≤ p.supOut) ∧
    (let p := (hot fun p => { p with thermal := 1, level := 1, eff := 1, thOut := 10000 }).pwr;
      p.acting = false ∧ p.stepped = false ∧ risen p.supply p.supIn false = p.supply ∧ risen p.thermal p.thIn true = p.thermal ∧ p.target ≤ p.eff ∧
        p.supOut < 10000 ∧ p.thermal ≠ 0 ∧ 10000 ≤ p.thOut) := by decide +kernel

theorem witness_shed_waits :
    ({ PowerSt.reset with supOut := 9999, thOut := 9999 } : PowerSt).supOut < 10000 ∧ ({ PowerSt.reset with supOut := 9999, thOut := 9999 } : PowerSt).thOut < 10000 ∧
    (let p : PowerSt := { PowerSt.reset with supIn := [101, 0, 0, 0, 0], thIn := [101, 0, 0, 0, 0] };
      p.supply < risen p.supply p.supIn false ∧ p.thermal < risen p.thermal p.thIn true) ∧
    (let p : PowerSt := { PowerSt.reset with supply := 2 }; p.eff < p.target) ∧ ({ PowerSt.reset with stepped := true } : PowerSt).stepped = true ∧
    State.reset.sec.recovery = false ∧ ({ SecSt.reset with recovery := true } : SecSt).recovery = true ∧ State.reset.isControl pf = true ∧
    State.reset.isControl vf = false ∧ ({ PowerSt.reset with force := 7 } : PowerSt).floor = 4 := by decide +kernel

def die0 (d : Nat) (f : DieSt → DieSt) : State := State.reset.setDie d (f (State.reset.dieAt d))

/-- O53: a die in each state that a command meets, ten beats after its fence and nine, its event posted and not; dies that may not be commanded; a module
in recovery and not. -/
theorem witness_die_control :
    (∀ st ∈ [(0 : BitVec 3), 1, 2, 3], ((die0 0 fun d => { d with st := st }).dieAt 0).st = st ∧ (die0 0 fun d => { d with st := st }).dieErr 0 = 0) ∧
    (let s := { (die0 0 fun d => { d with st := 2 }) with time := { TimeSt.reset with beat := 10 } };
      (s.dieAt 0).posted = false ∧ (s.dieAt 0).staged = false ∧ (s.dieAt 0).since + 10 ≤ s.time.beat) ∧
    State.reset.time.beat < (State.reset.dieAt 0).since + 10 ∧ ((die0 0 fun d => { d with st := 2, posted := true }).dieAt 0).posted = true ∧
    (die0 0 fun d => { d with st := 2, posted := true }).dieErr 0 = 0 ∧
    ((die0 0 fun d => { d with ladder := true }).dieAt 0).ladder = true ∧ (die0 0 fun d => { d with ladder := true }).dieErr 0 ≠ 0 ∧
    (alone (jobOf bin0 .running)).jobs.any Job.onModule = true ∧ ((alone (jobOf bin0 .running)).dieAt 24).ladder = false ∧
    State.reset.sec.recovery = false ∧ ({ SecSt.reset with recovery := true } : SecSt).recovery = true ∧ State.reset.isControl pf = true ∧
    State.reset.isControl vf = false := by decide +kernel

/-- O53: the pin at a boundary, low and high, and within a beat; a reset that is due. -/
theorem witness_resets :
    State.reset.pins.modRst = false ∧ ({ PinSt.reset with modRst := true } : PinSt).modRst = true ∧ State.reset.time.phase = 0 ∧
    (timed fun t => { t with phase := 1 }).time.phase ≠ 0 ∧ State.reset.time.phase < 2249 ∧ State.reset.standaloneJob = none ∧ State.reset.gt = 0 ∧
    ({ State.reset with sec := { SecSt.reset with resetAt := some 1 } } : State).sec.resetAt = some 1 ∧ 1 ≤ State.reset.gt + 1 := by decide +kernel

def boxed (f : SecSt → SecSt) : State := { State.reset with sec := f SecSt.reset }

/-- O54: a mailbox free and busy; images of an unknown type, with an unknown key; a slot with nothing in it; a die not quiesced, and quiesced with
nothing staged, with another image and with its own; image types at their bounds; a token with an unknown key. -/
theorem witness_security_mailbox :
    State.reset.isControl pf = true ∧ State.reset.isControl vf = false ∧ State.reset.sec.status ≠ 1 ∧ (boxed fun c => { c with status := 1 }).sec.status = 1 ∧
    imgType (badKey 0) = 0 ∧ 3 < imgType (badKey 4) ∧ (1 ≤ imgType (badKey 1) ∧ imgType (badKey 3) ≤ 3) ∧ State.reset.sec.imageErr (badKey 1) 1 = 1 ∧
    State.reset.sec.flash.getD 1 none = none ∧ (boxed fun c => { c with flash := [none, some (badKey 1)] }).sec.flash.getD 1 none ≠ none ∧
    (State.reset.dieAt 0).st ≠ 2 ∧ State.reset.sec.stagedDie = none ∧
    (∀ ty ∈ [2, 3], let s := { (die0 0 fun d => { d with st := 2 }) with sec := { SecSt.reset with stagedDie := some (badKey ty) } };
      (s.dieAt 0).st = 2 ∧ s.sec.stagedDie = some (badKey ty) ∧ imgType (badKey ty) = ty) ∧
    ((0 : Byte).toNat = 0 ∧ 3 < (4 : Byte).toNat ∧ 1 ≤ (3 : Byte).toNat ∧ (3 : Byte).toNat ≤ State.reset.sec.svn.length) ∧
    State.reset.sec.tokenErr (pack 8192 [(40, 8, 4)]) = 1 := by decide +kernel

/-- O54: what a good image or token needs of the verification, and of the serial number, that the manual leaves open. -/
theorem witness_good_token (c : SecSt) (k : BitVec 8192) (hk : bits k 40 8 = 0) (hr : bit c.revoked 0 = false) (hs : sigOk k 0 = true)
    (hn : bits k 64 64 = Config.serial.toNat) (hl : c.nonceLive = true) (hc : bits k 128 256 = c.nonce.toNat) : c.tokenErr k = 0 := by
  unfold SecSt.tokenErr
  rw [hk, if_neg (by decide), if_neg (by simp [hr]), if_neg (by simp [hs]), if_neg (by simp [hn]), if_neg (by simp [hl, hc])]

/-- O55: the bus open and closed; slot 0 and another; the image of the status registers; writes to the EEPROM at the bounds of its areas. -/
theorem witness_attestation_and_sideband :
    (boxed fun c => { c with stage := 3 }).busOpen = true ∧ State.reset.busOpen = false ∧ (0 : Byte) ≠ 1 ∧
    (let s : State := { boxed (fun c => { c with stage := 3 }) with pins := { PinSt.reset with smb := List.replicate 52 0 } };
      s.busOpen = true ∧ s.pins.smb = bytesOf 8 0 ++ bytesOf 8 0 ++ bytesOf 8 0 ++ bytesOf 8 0 ++ bytesOf 2 0 ++ bytesOf 2 0 ++ bytesOf 8 0 ++ bytesOf 8 0) ∧
    (256 ≤ 256 ∧ 8191 + 1 ≤ 8192 ∧ 255 < 256 ∧ 8192 < 8192 + 1) ∧ State.reset.pins.fruWp = false := by decide +kernel

/-- O56: accesses that are aligned and not; to an open block and a closed one, to a hole; permitted and not. -/
theorem witness_register_accesses :
    (8 % 8 = 0 ∧ 12 % 4 = 0 ∧ 12 % 8 = 4 ∧ 10 % 4 ≠ 0) ∧ State.reset.regAt 0x3000 = none ∧
    (∀ s ∈ [State.reset], let b := blockOf (0x1000 / 8 * 8); s.blockOpen b.1 = true ∧ s.dieAnswers b.1.die = true ∧ s.regAt 0x1000 ≠ none ∧
      s.canWrite pf b.1 b.2 = true ∧ s.canWrite vf b.1 b.2 = false) ∧
    (boxed fun c => { c with recovery := true }).blockOpen (blockOf 0x1000).1 = false ∧
    (die0 28 fun d => { d with st := 2 }).dieAnswers (blockOf 0x1000).1.die = false := by decide +kernel

/-- O57: a read of another context's block and a write of a register of the control function. -/
theorem witness_denied_accesses :
    (let b := blockOf (0x01020000 / 8 * 8); State.reset.blockOpen b.1 = true ∧ State.reset.dieAnswers b.1.die = true ∧ State.reset.regAt 0x01020000 ≠ none ∧
      State.reset.canRead vf b.1 b.2 = false) ∧
    (let b := blockOf (0x1000 / 8 * 8); State.reset.canWrite vf b.1 b.2 = false ∧ 0x1000 % 4 = 0 ∧ 0x1000 % 8 = 0) := by decide +kernel

/-- O58: fuses at 63 and 64, an image below them. -/
theorem witness_fuse_counters :
    State.reset.isControl pf = true ∧ State.reset.sec.status ≠ 1 ∧ State.reset.sec.svn.length = 3 ∧
      (boxed fun c => { c with runSvn := [64, 0, 0] }).sec.runOf 1 = 64 ∧ imgSvn (badKey 1) < (boxed fun c => { c with svn := [1, 0, 0] }).sec.svnOf 1 := by
  decide +kernel

/-- O59: a tie and a sum of 65,536; encodings that are no NaN; accumulators at the ends of their range; a permutation. -/
theorem witness_numbers :
    (2 * 3 = 2 * ((quantize .rz 3 0 1).1 * 2 ^ 1) + 2 ^ 1 ∧ 65536 ≤ 3 % 2 ^ 1 * 65536 / 2 ^ 1 + 32768) ∧
    (∀ f ∈ floatFormats, f.decode 1 = .fin false 1 (f.emin - f.frac) ∧ (f.decode 1).isNan = false ∧ 1 < 2 ^ (1 + f.exp + f.frac)) ∧
    (∀ i ∈ [-(2 ^ 570), (2 ^ 570 : Int) - 1], -(2 ^ 570) ≤ ({ LAcc.zero with i := i } : LAcc).i ∧ ({ LAcc.zero with i := i } : LAcc).i < 2 ^ 570) ∧
    [Val.fin true 1 0, .inf false].Perm [.inf false, .fin true 1 0] := by decide +kernel

/-- O60: values just below the smallest normal of BF16 and E4M3, exact and not. -/
theorem witness_tiny_results :
    bf16 ∈ floatFormats ∧ e4m3 ∈ floatFormats ∧ expOf 1 (-133) < bf16.emin ∧ expOf 1 (-200) < bf16.emin ∧ expOf 1 (-9) < e4m3.emin := by decide

/-- R420: between planned commands, in beats 2 to 4, a running job's time is idle; from beat 6 on no more is planned; an admitted one's is never. -/
theorem test_idle_intervals :
    let plan : List CmdPlan := [{ unit := 0, tag := 1, start := 0, end_ := 4500 }, { unit := 0, tag := 2, start := 11250, end_ := 13500 }];
    let j := jobOf { bin0 with report := { report0 with unitPlan := plan } } .running;
    [1, 2, 4, 5, 6].map j.nextHeld = [some 1, some 5, some 5, some 5, none] ∧ { j with phase := .admitted }.nextHeld 2 = some 2 := by decide +kernel

end Sys2Proof.Tests
end

section
/-! PROOF. BAR0's map read backwards: which register stands at an address of a block (R519); and the state after reset (O5). -/

namespace Sys2Proof.Machine

/-! ### Addresses of the repeated blocks -/

/-- An address given by index and offset lies in the run of blocks there. -/
theorem inBlocks_at {base stride n a i o : Nat} (h : a = base + stride * i + o) (hi : i < n) (ho : o < stride) :
    inBlocks base stride n a = some (i, o) := by
  have hin : stride * i + stride ≤ n * stride := by
    calc stride * i + stride = (i + 1) * stride := by rw [Nat.add_mul, Nat.one_mul, Nat.mul_comm]
      _ ≤ n * stride := Nat.mul_le_mul_right _ hi
  have hsub : a - base = stride * i + o := by omega
  rw [inBlocks, if_pos (by omega), hsub, Nat.mul_add_div (by omega), Nat.div_eq_of_lt ho, Nat.mul_add_mod, Nat.mod_eq_of_lt ho, Nat.add_zero]

/-- An address before or after a run of blocks does not lie in it. -/
theorem inBlocks_outside {base stride n a : Nat} (h : a < base ∨ base + n * stride ≤ a) : inBlocks base stride n a = none :=
  if_neg (by omega)

theorem blockOf_ctx {a n o : Nat} (h : a = 0x01000000 + 0x10000 * n + o) (hn : n < 32) (ho : o < 0x10000) : blockOf a = (.ctx n, o) := by
  have hctx : inBlocks 0x01000000 0x10000 32 a = some (n, o) := inBlocks_at h hn ho
  unfold blockOf
  iterate 7 rw [if_neg (by omega)]
  rw [hctx]

/-- The blocks from 04800000 up lie behind those of the contexts and the dies. -/
theorem inBlocks_behind_dies {a : Nat} (h : 0x04800000 ≤ a) :
    inBlocks 0x01000000 0x10000 32 a = none ∧ inBlocks 0x02000000 0x100000 24 a = none ∧ inBlocks 0x04000000 0x100000 4 a = none :=
  ⟨inBlocks_outside (by omega), inBlocks_outside (by omega), inBlocks_outside (by omega)⟩

theorem blockOf_nl {a p o : Nat} (h : a = 0x04800000 + 0x4000 * p + o) (hp : p < 6) (ho : o < 0x4000) : blockOf a = (.nl p, o) := by
  obtain ⟨hctx, hcd, hmd⟩ := inBlocks_behind_dies (a := a) (by omega)
  have hnl : inBlocks 0x04800000 0x4000 6 a = some (p, o) := inBlocks_at h hp ho
  unfold blockOf
  iterate 7 rw [if_neg (by omega)]
  rw [hctx, hcd, hmd, hnl]

theorem blockOf_cxl {a c o : Nat} (h : a = 0x04900000 + 0x4000 * c + o) (hc : c < 4) (ho : o < 0x4000) : blockOf a = (.cxl c, o) := by
  obtain ⟨hctx, hcd, hmd⟩ := inBlocks_behind_dies (a := a) (by omega)
  have hnl : inBlocks 0x04800000 0x4000 6 a = none := inBlocks_outside (by omega)
  have hcxl : inBlocks 0x04900000 0x4000 4 a = some (c, o) := inBlocks_at h hc ho
  unfold blockOf
  iterate 7 rw [if_neg (by omega)]
  rw [hctx, hcd, hmd, hnl, hcxl]

theorem blockOf_hp {a p o : Nat} (h : a = 0x04A00000 + 0x4000 * p + o) (hp : p < 2) (ho : o < 0x4000) : blockOf a = (.hp p, o) := by
  obtain ⟨hctx, hcd, hmd⟩ := inBlocks_behind_dies (a := a) (by omega)
  have hnl : inBlocks 0x04800000 0x4000 6 a = none := inBlocks_outside (by omega)
  have hcxl : inBlocks 0x04900000 0x4000 4 a = none := inBlocks_outside (by omega)
  have hhp : inBlocks 0x04A00000 0x4000 2 a = some (p, o) := inBlocks_at h hp ho
  unfold blockOf
  iterate 7 rw [if_neg (by omega)]
  rw [hctx, hcd, hmd, hnl, hcxl, hhp]

/-! ### What an aligned address of a block reads as -/

theorem State.regRead_of_blockOf (s : State) {a o : Nat} {b : RegBlock} (h : blockOf a = (b, o)) (ha : a % 8 = 0) :
    s.regRead a = (s.readBlock b o).getD 0 := by
  have ha8 : a / 8 * 8 = a := Nat.div_mul_cancel (Nat.dvd_of_mod_eq_zero ha)
  rw [State.regRead, State.regAt, ha8, h]

theorem State.regRead_time (s : State) {o : Nat} (ho : o < 0x1000) (h8 : o % 8 = 0) : s.regRead (0x1000 + o) = (s.readTime o).getD 0 := by
  have hb : blockOf (0x1000 + o) = (.time, o) := by
    rw [blockOf, if_neg (by omega), if_pos (by omega), Nat.add_sub_cancel_left]
  exact s.regRead_of_blockOf hb (by omega)

theorem State.regRead_ctx (s : State) (n : Fin 32) {a o : Nat} (h : a = 0x01000000 + 0x10000 * n.val + o) (ho : o < 0x10000) (h8 : o % 8 = 0) :
    s.regRead a = (s.readCtx n.val o).getD 0 := s.regRead_of_blockOf (blockOf_ctx h n.isLt ho) (by omega)

theorem State.regRead_nl (s : State) (p : Fin 6) {a o : Nat} (h : a = 0x04800000 + 0x4000 * p.val + o) (ho : o < 0x4000) (h8 : o % 8 = 0) :
    s.regRead a = (s.readNl p.val o).getD 0 := s.regRead_of_blockOf (blockOf_nl h p.isLt ho) (by omega)

theorem State.regRead_cxl (s : State) (c : Fin 4) {a o : Nat} (h : a = 0x04900000 + 0x4000 * c.val + o) (ho : o < 0x4000) (h8 : o % 8 = 0) :
    s.regRead a = (s.readCxl c.val o).getD 0 := s.regRead_of_blockOf (blockOf_cxl h c.isLt ho) (by omega)

theorem State.regRead_hp (s : State) (p : Fin 2) {a o : Nat} (h : a = 0x04A00000 + 0x4000 * p.val + o) (ho : o < 0x4000) (h8 : o % 8 = 0) :
    s.regRead a = (s.readHp p.val o).getD 0 := s.regRead_of_blockOf (blockOf_hp h p.isLt ho) (by omega)

/-! ### The state after reset -/

/-- The time block is LOCAL and FREE at GT 0:0000 (R90, R95, R111). -/
theorem State.reset_time_registers :
    State.reset.regRead 0x1000 = 0 ∧ State.reset.regRead 0x1008 = 0 ∧ State.reset.regRead 0x1020 = 32 ∧ State.reset.regRead 0x1028 = 256 :=
  ⟨State.reset.regRead_time (o := 0x00) (by decide) (by decide), State.reset.regRead_time (o := 0x08) (by decide) (by decide),
    State.reset.regRead_time (o := 0x20) (by decide) (by decide), State.reset.regRead_time (o := 0x28) (by decide) (by decide)⟩

/-- A context's ASID is its number, its INVAL_CTRL shows DONE, its HANG limit is 20, its post-trigger count 4,096; it is disabled
(R387, R409, R443, R454). -/
theorem State.reset_ctx_registers (n : Fin 32) :
    State.reset.regRead (0x01000808 + 0x10000 * n.val) = BitVec.ofNat 64 (16 * n.val) ∧ State.reset.regRead (0x01000818 + 0x10000 * n.val) = 4 ∧
      State.reset.regRead (0x01000A20 + 0x10000 * n.val) = 20 ∧ bits (State.reset.regRead (0x01000A00 + 0x10000 * n.val)) 32 13 = 4096 ∧
      State.reset.regRead (0x01000000 + 0x10000 * n.val) = 0 := by
  have hasid : n.val % 32 * 16 = 16 * n.val := by omega
  have hdone : (CtxSt.resetAt n.val).invalCtrl ||| BitVec.ofNat 64 (b2n (CtxSt.resetAt n.val).invalBusy) = 4 := by decide +revert
  have hpost : bits (CtxSt.resetAt n.val).traceCfg 32 13 = 4096 := by decide +revert
  refine ⟨?_, ?_, ?_, ?_, ?_⟩
  · rw [State.regRead_ctx _ n (o := 0x808) (by omega) (by decide) (by decide), ← hasid]; rfl
  · rw [State.regRead_ctx _ n (o := 0x818) (by omega) (by decide) (by decide)]; exact hdone
  · rw [State.regRead_ctx _ n (o := 0xA20) (by omega) (by decide) (by decide)]; rfl
  · rw [State.regRead_ctx _ n (o := 0xA00) (by omega) (by decide) (by decide)]; exact hpost
  · rw [State.regRead_ctx _ n (o := 0x000) (by omega) (by decide) (by decide)]; rfl

/-- Prefetch of a CXL port is on and the port disabled (R383). -/
theorem State.reset_cxl_ctrl (c : Fin 4) : State.reset.regRead (0x04900008 + 0x4000 * c.val) = 2 := by
  rw [State.regRead_cxl _ c (o := 0x08) (by omega) (by decide) (by decide)]
  revert c; decide

/-- Host port A holds control (R406). -/
theorem State.reset_hp_control (p : Fin 2) : bits (State.reset.regRead (0x04A00000 + 0x4000 * p.val)) 3 1 = if p = 0 then 1 else 0 := by
  rw [State.regRead_hp _ p (o := 0x00) (by omega) (by decide) (by decide)]
  revert p; decide

/-- SHARE is 256, the horizon 2^24 (R408). -/
theorem State.reset_hp_share (p : Fin 2) : State.reset.regRead (0x04A00010 + 0x4000 * p.val) = BitVec.ofNat 64 (16777216 * 65536 + 256) := by
  rw [State.regRead_hp _ p (o := 0x10) (by omega) (by decide) (by decide)]
  revert p; decide

/-- A Nelil port is disabled (R535). -/
theorem State.reset_nl_ctrl (p : Fin 6) : State.reset.regRead (0x04800000 + 0x4000 * p.val) = 0 := by
  rw [State.regRead_nl _ p (o := 0x00) (by omega) (by decide) (by decide)]; rfl

theorem State.reset_safe : Safe State.reset := ⟨State.reset_mem_wf, State.reset_host_wf⟩

end Sys2Proof.Machine

namespace Sys2Proof
open Machine

/-- Settles O5: each register through the map of BAR0, the fields of the state as reset writes them. -/
theorem resetValues : Obligations.reset_values := by
  unfold Obligations.reset_values
  obtain ⟨hctrl, hstatus, hmargin, hhold⟩ := State.reset_time_registers
  refine ⟨⟨rfl, rfl, rfl, rfl, hctrl, hstatus, hmargin, hhold, State.reset_cxl_ctrl, State.reset_ctx_registers, State.reset_hp_control 0,
    State.reset_hp_control 1, State.reset_hp_share, State.reset_nl_ctrl, rfl, rfl, rfl⟩, State.reset_safe, rfl, rfl, rfl⟩

end Sys2Proof
end

section
/-! PROOF. Device memory byte by byte: what a read returns after stores. -/

namespace Sys2Proof.Machine

/-- The number of the free value over an address, if a range of free bytes covers it. -/
def veilAt (l : List (Nat × Nat × Nat)) (a : Nat) : Option Nat := (l.find? fun v => decide (v.1 ≤ a) && decide (a < v.2.1)).map (·.2.2)

@[simp] theorem veilAt_nil (a : Nat) : veilAt [] a = none := rfl

theorem veilAt_cons (v : Nat × Nat × Nat) (l : List (Nat × Nat × Nat)) (a : Nat) :
    veilAt (v :: l) a = if v.1 ≤ a ∧ a < v.2.1 then some v.2.2 else veilAt l a := by
  by_cases h : v.1 ≤ a ∧ a < v.2.1
  · simp [veilAt, h]
  · rw [if_neg h, veilAt, List.find?_cons_of_neg (by simpa using h), veilAt]

theorem veilAt_append (l m : List (Nat × Nat × Nat)) (a : Nat) : veilAt (l ++ m) a = (veilAt l a).or (veilAt m a) := by
  simp [veilAt, List.find?_append, Option.map_or]

/-- A byte is free where a range covers it, and memory's elsewhere. -/
theorem State.byteAt_eq (s : State) (a : Nat) :
    s.byteAt a = (veilAt s.veiled a).elim (readByte s.mem a) (Config.veiledByte · a) := by
  unfold State.byteAt veilAt
  cases s.veiled.find? _ <;> rfl

/-- Bytes depend on memory and the free ranges alone. -/
theorem State.byteAt_congr {s t : State} (hm : t.mem = s.mem) (hv : t.veiled = s.veiled) (a : Nat) : t.byteAt a = s.byteAt a := by
  rw [State.byteAt_eq, State.byteAt_eq, hm, hv]

theorem State.bytesAt_congr {s t : State} (hm : t.mem = s.mem) (hv : t.veiled = s.veiled) (a n : Nat) : t.bytesAt a n = s.bytesAt a n := by
  induction n generalizing a with
  | zero => rfl
  | succ n ih => rw [State.bytesAt, State.bytesAt, State.byteAt_congr hm hv, ih]

/-- An empty range covers nothing. -/
theorem veilAt_filter_nonempty (l : List (Nat × Nat × Nat)) (a : Nat) : veilAt (l.filter fun e => decide (e.1 < e.2.1)) a = veilAt l a := by
  induction l with
  | nil => rfl
  | cons v l ih =>
    by_cases hv : v.1 < v.2.1
    · rw [List.filter_cons_of_pos (by simpa using hv), veilAt_cons, veilAt_cons, ih]
    · rw [List.filter_cons_of_neg (by simpa using hv), veilAt_cons, if_neg (by omega), ih]

/-- One range without an address: the address is free no more, the others as before. -/
theorem veilAt_unveil (v : Nat × Nat × Nat) (a x : Nat) : veilAt (unveil a v) x = if x = a then none else veilAt [v] x := by
  by_cases hin : v.1 ≤ a ∧ a < v.2.1
  · rw [unveil, if_pos hin, veilAt_filter_nonempty]
    simp only [veilAt_cons, veilAt_nil]
    grind
  · rw [unveil, if_neg hin]
    simp only [veilAt_cons, veilAt_nil]
    grind

theorem veilAt_flatMap_unveil (l : List (Nat × Nat × Nat)) (a x : Nat) :
    veilAt (l.flatMap (unveil a)) x = if x = a then none else veilAt l x := by
  induction l with
  | nil => simp
  | cons v l ih =>
    rw [List.flatMap_cons, veilAt_append, ih, veilAt_unveil, ← List.singleton_append (x := v) (l := l), veilAt_append [v]]
    split <;> rfl

/-- Read after a store of one byte. -/
theorem State.byteAt_putByte (s : State) (a x : Nat) (b : Byte) : (s.putByte a b).byteAt x = if x = a then b else s.byteAt x := by
  have hv : veilAt (s.putByte a b).veiled x = if x = a then none else veilAt s.veiled x := veilAt_flatMap_unveil _ _ _
  have hm : (s.putByte a b).mem = writeByte s.mem a b := rfl
  rw [State.byteAt_eq, State.byteAt_eq, hv, hm]
  by_cases hx : x = a
  · simp [hx]
  · simp [hx, readByte_writeByte_other]

/-- Read after a store of bytes upward. -/
theorem State.byteAt_putBytes (s : State) (a x : Nat) (l : List Byte) :
    (s.putBytes a l).byteAt x = if a ≤ x ∧ x < a + l.length then l.getD (x - a) 0 else s.byteAt x := by
  induction l generalizing s a with
  | nil => rw [if_neg (by simp)]; rfl
  | cons b l ih =>
    rw [State.putBytes, ih, State.byteAt_putByte, List.length_cons]
    by_cases hx : x = a
    · subst hx; rw [if_neg (by omega), if_pos rfl, if_pos (by omega), Nat.sub_self, List.getD_cons_zero]
    · by_cases hin : a + 1 ≤ x ∧ x < a + 1 + l.length
      · have hsub : x - a = x - (a + 1) + 1 := by omega
        rw [if_pos hin, if_pos (by omega), hsub, List.getD_cons_succ]
      · rw [if_neg hin, if_neg hx, if_neg (by omega)]

@[simp] theorem State.putBytes_poison (s : State) (a : Nat) (l : List Byte) : (s.putBytes a l).poison = s.poison :=
  State.putBytes_keeps ((frees_poison (· = s.poison)).sub rfl) _ _ _ rfl

@[simp] theorem State.putBytes_units (s : State) (a : Nat) (l : List Byte) : (s.putBytes a l).units = s.units :=
  State.putBytes_keeps ((frees_units (· = s.units)).sub rfl) _ _ _ rfl

@[simp] theorem State.putBytes_jobs (s : State) (a : Nat) (l : List Byte) : (s.putBytes a l).jobs = s.jobs :=
  State.putBytes_keeps ((frees_jobs (· = s.jobs)).sub rfl) _ _ _ rfl

end Sys2Proof.Machine
end

section
/-! PROOF. What an ECC error pattern does to a burst, and poison (R372 to R376); O38. -/

namespace Sys2Proof.Machine

/-! ### What stands in the burst -/

theorem State.burst_congr {s t : State} (hm : t.mem = s.mem) (hv : t.veiled = s.veiled) (k : Nat) : t.burst k = s.burst k := by
  rw [State.burst, State.burst, State.bytesAt_congr hm hv]

theorem State.poisoned_congr {s t : State} (h : t.poison = s.poison) (k : Nat) : t.poisoned k = s.poisoned k := by
  rw [State.poisoned, State.poisoned, h]

/-- Counting touches no byte. -/
@[simp] theorem State.byteAt_cntAdd (s : State) (c k x : Nat) : (s.cntAdd c k).byteAt x = s.byteAt x := State.byteAt_congr rfl rfl x

@[simp] theorem State.burst_cntAdd (s : State) (c k i : Nat) : (s.cntAdd c k).burst i = s.burst i := State.burst_congr rfl rfl i

/-! ### What an error pattern comes to, by the number of wrong symbols (R372) -/

theorem eccOut_clean (w : BitVec 512) (e : EccErr) (h : (errSymbols e).length = 0) : eccOut w e = .clean := by rw [eccOut, h]; rfl

theorem eccOut_corrected (w : BitVec 512) (e : EccErr) (h : (errSymbols e).length = 1) : eccOut w e = .corrected := by rw [eccOut, h]; rfl

theorem eccOut_many (w : BitVec 512) (e : EccErr) (h : 3 ≤ (errSymbols e).length) :
    eccOut w e = if Config.eccDetects w e.pattern then .uncorrectable else .miscorrected := by
  obtain ⟨k, hk⟩ := Nat.exists_eq_add_of_le' h
  rw [eccOut, hk]; rfl

theorem eccOut_uncorrectable (w : BitVec 512) (e : EccErr)
    (h : (errSymbols e).length = 2 ∨ 3 ≤ (errSymbols e).length ∧ Config.eccDetects w e.pattern = true) : eccOut w e = .uncorrectable := by
  rcases h with h | ⟨h, hd⟩
  · rw [eccOut, h]; rfl
  · rw [eccOut_many w e h, if_pos hd]

theorem eccOut_miscorrected (w : BitVec 512) (e : EccErr) (h : 3 ≤ (errSymbols e).length) (hd : Config.eccDetects w e.pattern = false) :
    eccOut w e = .miscorrected := by rw [eccOut_many w e h, hd]; rfl

/-! ### A read of a burst meets the pattern -/

section
variable (s : State) (n : Nat) (e : EccErr) (scrub : Bool)

theorem State.meet_poisoned (h : s.poisoned (burstOf n) = true) : s.meet n e scrub = s := by rw [State.meet, if_pos h]

theorem State.meet_clean (ho : eccOut (s.burst (burstOf n)) e = .clean) : s.meet n e scrub = s := by
  rw [State.meet, ho]; exact ite_self s

variable (h : s.poisoned (burstOf n) = false)
include h

theorem State.meet_corrected (ho : eccOut (s.burst (burstOf n)) e = .corrected) : s.meet n e scrub = s.correct n e scrub := by
  rw [State.meet, h, ho]; rfl

theorem State.meet_miscorrected (ho : eccOut (s.burst (burstOf n)) e = .miscorrected) :
    s.meet n e scrub = (s.miscorrect (burstOf n) e).correct n e scrub := by
  rw [State.meet, h, ho]; rfl

theorem State.meet_uncorrectable (ho : eccOut (s.burst (burstOf n)) e = .uncorrectable) : s.meet n e scrub = s.uncorrectable n := by
  rw [State.meet, h, ho]; rfl

end

/-! ### A correction (R374) -/

section
variable (s : State) (n : Nat) (e : EccErr) (scrub : Bool)

@[simp] theorem State.correct_mem : (s.correct n e scrub).mem = s.mem :=
  State.correct_keeps ((frees_mem (· = s.mem)).sub rfl) _ _ _ _ rfl

@[simp] theorem State.correct_veiled : (s.correct n e scrub).veiled = s.veiled :=
  State.correct_keeps ((frees_veiled (· = s.veiled)).sub rfl) _ _ _ _ rfl

@[simp] theorem State.correct_poison : (s.correct n e scrub).poison = s.poison :=
  State.correct_keeps ((frees_poison (· = s.poison)).sub rfl) _ _ _ _ rfl

/-- Posting the corrections keeps what a device notes of the last one, and of its poison. -/
theorem State.postCorrected_notes (d : Nat) :
    ((s.postCorrected d).devAt d).lastAddr = (s.devAt d).lastAddr ∧ ((s.postCorrected d).devAt d).lastSym = (s.devAt d).lastSym ∧
      ((s.postCorrected d).devAt d).poisonAddr = (s.devAt d).poisonAddr := by
  unfold State.postCorrected
  simp only
  split
  · exact ⟨rfl, rfl, rfl⟩
  · rw [State.devAt_setDev_self]; exact ⟨rfl, rfl, rfl⟩

/-- A read's correction leaves the burst's address and the wrong symbol in the device. -/
theorem State.correct_notes :
    ((s.correct n e false).devAt (gddrMap n).dev).lastAddr = BitVec.ofNat 45 (burstOf n * 64) ∧
      ((s.correct n e false).devAt (gddrMap n).dev).lastSym = firstSymbol e ∧
      ((s.correct n e false).devAt (gddrMap n).dev).poisonAddr = (s.devAt (gddrMap n).dev).poisonAddr := by
  obtain ⟨haddr, hsym, hpois⟩ := State.postCorrected_notes ((s.cntAdd (cntDev (gddrMap n).dev 2) 1).updDev (gddrMap n).dev fun d =>
    { d with since := d.since + 1, lastAddr := BitVec.ofNat 45 (burstOf n * 64), lastSym := firstSymbol e }) (gddrMap n).dev
  rw [State.updDev, State.devAt_setDev_self] at haddr hsym hpois
  exact ⟨haddr, hsym, hpois⟩

/-! ### A miscorrection (R372) -/

@[simp] theorem State.miscorrect_poison (k : Nat) : (s.miscorrect k e).poison = s.poison := State.putBytes_poison _ _ _

theorem State.byteAt_miscorrect (k x : Nat) :
    (s.miscorrect k e).byteAt x = if k * 64 ≤ x ∧ x < k * 64 + 64 then Config.eccByte (s.burst k) e.pattern (x - k * 64) else s.byteAt x := by
  rw [State.miscorrect, State.byteAt_putBytes, List.length_map, List.length_range]
  by_cases hx : k * 64 ≤ x ∧ x < k * 64 + 64
  · rw [if_pos hx, if_pos hx, List.getD_eq_getElem _ _ (by simp; omega), List.getElem_map, List.getElem_range]
  · rw [if_neg hx, if_neg hx]

end

/-! ### An uncorrectable error (R375) -/

section
variable (s : State) (n : Nat)

@[simp] theorem State.event_devs (c k : Nat) (jid : U64) (p : List (Nat × Nat × Nat)) : (s.event c k jid p).devs = s.devs :=
  State.event_keeps ((frees_devs (· = s.devs)).sub rfl) _ _ _ _ _ rfl

@[simp] theorem State.event_poison (c k : Nat) (jid : U64) (p : List (Nat × Nat × Nat)) : (s.event c k jid p).poison = s.poison :=
  State.event_keeps ((frees_poison (· = s.poison)).sub rfl) _ _ _ _ _ rfl

@[simp] theorem State.uncorrectable_mem : (s.uncorrectable n).mem = s.mem :=
  State.uncorrectable_keeps ((frees_mem (· = s.mem)).sub rfl) _ _ rfl

theorem State.poisoned_uncorrectable (k : Nat) : (s.uncorrectable n).poisoned k = if k = burstOf n then true else s.poisoned k := by
  rw [← State.poisoned_setPoison]
  exact State.poisoned_congr (State.event_poison _ _ _ _ _) k

/-- The device notes the poisoned burst. -/
theorem State.uncorrectable_notes :
    ((s.uncorrectable n).devAt (gddrMap n).dev).poisonValid = true ∧
      ((s.uncorrectable n).devAt (gddrMap n).dev).poisonAddr = BitVec.ofNat 45 (burstOf n * 64) := by
  rw [State.uncorrectable, State.devAt, State.event_devs, ← State.devAt, State.updDev, State.devAt_setDev_self]
  exact ⟨rfl, rfl⟩

end

/-! ### Poison reaches a stream (R376), and a whole burst clears it (R375) -/

section
variable (s : State) (b : Stream) (access n : Nat)

@[simp] theorem State.poisonTo_mem : (s.poisonTo b access n).mem = s.mem :=
  State.poisonTo_keeps ((frees_mem (· = s.mem)).sub rfl) _ _ _ _ rfl

@[simp] theorem State.poisonTo_veiled : (s.poisonTo b access n).veiled = s.veiled :=
  State.poisonTo_keeps ((frees_veiled (· = s.veiled)).sub rfl) _ _ _ _ rfl

@[simp] theorem State.poisonTo_poison : (s.poisonTo b access n).poison = s.poison :=
  State.poisonTo_keeps ((frees_poison (· = s.poison)).sub rfl) _ _ _ _ rfl

@[simp] theorem State.poisonTo_devs : (s.poisonTo b access n).devs = s.devs :=
  State.poisonTo_keeps ((frees_devs (· = s.devs)).sub rfl) _ _ _ _ rfl

theorem State.poisoned_cleanBurst (k x : Nat) : (s.cleanBurst k).poisoned x = if x = k then false else s.poisoned x := by
  unfold State.cleanBurst
  by_cases h : s.poisoned k = true
  · rw [h, ← State.poisoned_setPoison]; rfl
  · rw [Bool.not_eq_true] at h
    rw [h]
    by_cases hx : x = k
    · rw [if_pos hx, hx]; exact h
    · rw [if_neg hx]; rfl

@[simp] theorem State.cleanBurst_mem (k : Nat) : (s.cleanBurst k).mem = s.mem :=
  State.cleanBurst_keeps ((frees_mem (· = s.mem)).sub rfl) _ _ rfl

@[simp] theorem State.cleanBurst_veiled (k : Nat) : (s.cleanBurst k).veiled = s.veiled :=
  State.cleanBurst_keeps ((frees_veiled (· = s.veiled)).sub rfl) _ _ rfl

@[simp] theorem State.cleanBurst_units (k : Nat) : (s.cleanBurst k).units = s.units :=
  State.cleanBurst_keeps ((frees_units (· = s.units)).sub rfl) _ _ rfl

@[simp] theorem State.cleanBurst_jobs (k : Nat) : (s.cleanBurst k).jobs = s.jobs :=
  State.cleanBurst_keeps ((frees_jobs (· = s.jobs)).sub rfl) _ _ rfl

end

/-! ### The commands -/

/-- The module is on, and the device of a GDDR7 address serves requests: not in self-refresh, not in the scrub window (R373). -/
structure State.ServesGddr (s : State) (n : Nat) : Prop where
  on : s.pwr.on = true
  inRange : inGddr n = true
  awake : s.devServes (gddrMap n).dev = true
  outsideWindow : s.scrubTime = false

section
variable {s : State} {a : BitVec 45} (b : Stream) (data : List Byte) (e : EccErr)

theorem exec_gddr7Read (s : State) (a : BitVec 45) : exec (.gddr7Read b a e) s = execGddr7Read b a e s := rfl

theorem exec_gddr7Write (s : State) (a : BitVec 45) : exec (.gddr7Write b a data e) s = execGddr7Write b a data e s := rfl

/-- A request waits outside GDDR7's range, in self-refresh and in the scrub window. -/
theorem gddr7_waits (hon : s.pwr.on = true)
    (h : inGddr a.toNat = false ∨ s.devServes (gddrMap a.toNat).dev = false ∨ s.scrubTime = true) :
    exec (.gddr7Read b a e) s = .next s ∧ exec (.gddr7Write b a data e) s = .next s := by
  have hw : (!inGddr a.toNat || !s.devServes (gddrMap a.toNat).dev || s.scrubTime) = true := by
    rcases h with h | h | h <;> simp [h]
  rw [exec_gddr7Read, exec_gddr7Write, execGddr7Read, execGddr7Write, s.ran_on _ hon, s.ran_on _ hon]
  dsimp only
  rw [if_pos hw, if_pos hw]
  exact ⟨rfl, rfl⟩

theorem State.ServesGddr.noWait (h : s.ServesGddr a.toNat) :
    ¬ (!inGddr a.toNat || !s.devServes (gddrMap a.toNat).dev || s.scrubTime) = true := by
  simp [h.inRange, h.awake, h.outsideWindow]

variable (hs : s.ServesGddr a.toNat)
include hs

/-- What a read that finds no poison leaves: its count, and what the pattern did. -/
theorem gddr7Read_of_clean {t : State} (ht : (s.cntAdd (cntDev (gddrMap a.toNat).dev 0) 1).meet a.toNat e false = t)
    (hp : t.poisoned (burstOf a.toNat) = false) : exec (.gddr7Read b a e) s = .next t := by
  rw [exec_gddr7Read, execGddr7Read, s.ran_on _ hs.on]
  dsimp only
  rw [if_neg hs.noWait, ht, if_neg (ne_true_of_eq_false hp)]

/-- A read that finds poison passes it to its stream. -/
theorem gddr7Read_of_poisoned {t : State} (ht : (s.cntAdd (cntDev (gddrMap a.toNat).dev 0) 1).meet a.toNat e false = t)
    (hp : t.poisoned (burstOf a.toNat) = true) : exec (.gddr7Read b a e) s = .next (t.poisonTo b 0 a.toNat) := by
  rw [exec_gddr7Read, execGddr7Read, s.ran_on _ hs.on]
  dsimp only
  rw [if_neg hs.noWait, ht, if_pos hp]

/-- A whole burst is written without a read. -/
theorem gddr7Write_whole (ha : a.toNat % 64 = 0) (hl : data.length = 64) :
    exec (.gddr7Write b a data e) s =
      .next (((s.cntAdd (cntDev (gddrMap a.toNat).dev 1) 1).cleanBurst (burstOf a.toNat)).putBytes a.toNat data) := by
  have htake : data.take (64 - a.toNat % 64) = data := List.take_of_length_le (by omega)
  rw [exec_gddr7Write, execGddr7Write, s.ran_on _ hs.on]
  dsimp only
  rw [if_neg hs.noWait, htake, if_pos hl]

/-- Fewer bytes than a burst, all in it, are merged after a read; a poisoned burst takes none. -/
theorem gddr7Write_part {t : State} (hl : a.toNat % 64 + data.length < 64)
    (ht : ((s.cntAdd (cntDev (gddrMap a.toNat).dev 1) 1).cntAdd (cntDev (gddrMap a.toNat).dev 5) 1).meet a.toNat e false = t) :
    exec (.gddr7Write b a data e) s =
      .next (if t.poisoned (burstOf a.toNat) then t.poisonTo b 1 a.toNat else t.putBytes a.toNat data) := by
  have htake : data.take (64 - a.toNat % 64) = data := List.take_of_length_le (by omega)
  rw [exec_gddr7Write, execGddr7Write, s.ran_on _ hs.on]
  dsimp only
  rw [if_neg hs.noWait, htake, if_neg (by omega), ht]

end

/-! ### Reads, by what the pattern comes to -/

section
variable {s : State} {a : BitVec 45} (b : Stream) (data : List Byte) (e : EccErr) (hs : s.ServesGddr a.toNat)
include hs

theorem gddr7Read_no_error (hp : s.poisoned (burstOf a.toNat) = false) (he : (errSymbols e).length = 0) :
    exec (.gddr7Read b a e) s = .next (s.cntAdd (cntDev (gddrMap a.toNat).dev 0) 1) :=
  gddr7Read_of_clean b e hs (State.meet_clean _ _ _ _ (eccOut_clean _ _ he)) hp

theorem gddr7Read_corrected (hp : s.poisoned (burstOf a.toNat) = false) (he : (errSymbols e).length = 1) :
    ∃ t, exec (.gddr7Read b a e) s = .next t ∧ t.mem = s.mem ∧ t.poison = s.poison ∧
      (t.devAt (gddrMap a.toNat).dev).lastAddr = BitVec.ofNat 45 (burstOf a.toNat * 64) ∧
      (t.devAt (gddrMap a.toNat).dev).lastSym = firstSymbol e ∧
      (t.devAt (gddrMap a.toNat).dev).poisonAddr = (s.devAt (gddrMap a.toNat).dev).poisonAddr := by
  have hmeet := State.meet_corrected (s.cntAdd (cntDev (gddrMap a.toNat).dev 0) 1) a.toNat e false hp (eccOut_corrected _ _ he)
  refine ⟨_, gddr7Read_of_clean b e hs hmeet ?_, State.correct_mem _ _ _ _, State.correct_poison _ _ _ _, State.correct_notes _ _ _⟩
  exact (State.poisoned_congr (State.correct_poison _ _ _ _) _).trans hp

theorem gddr7Read_uncorrectable (hp : s.poisoned (burstOf a.toNat) = false)
    (he : (errSymbols e).length = 2 ∨ 3 ≤ (errSymbols e).length ∧ Config.eccDetects (s.burst (burstOf a.toNat)) e.pattern = true) :
    ∃ t, exec (.gddr7Read b a e) s = .next t ∧ t.mem = s.mem ∧ t.poisoned (burstOf a.toNat) = true ∧
      (∀ k, k ≠ burstOf a.toNat → t.poisoned k = s.poisoned k) ∧ (t.devAt (gddrMap a.toNat).dev).poisonValid = true ∧
      (t.devAt (gddrMap a.toNat).dev).poisonAddr = BitVec.ofNat 45 (burstOf a.toNat * 64) := by
  let s0 := s.cntAdd (cntDev (gddrMap a.toNat).dev 0) 1
  have hmeet : s0.meet a.toNat e false = s0.uncorrectable a.toNat :=
    State.meet_uncorrectable _ _ _ _ hp (eccOut_uncorrectable _ _ (by rwa [State.burst_cntAdd]))
  have hpoison (k : Nat) : ((s0.uncorrectable a.toNat).poisonTo b 0 a.toNat).poisoned k = if k = burstOf a.toNat then true else s.poisoned k :=
    (State.poisoned_congr (State.poisonTo_poison _ _ _ _) k).trans (State.poisoned_uncorrectable _ _ _)
  have hdev : ((s0.uncorrectable a.toNat).poisonTo b 0 a.toNat).devAt (gddrMap a.toNat).dev = (s0.uncorrectable a.toNat).devAt (gddrMap a.toNat).dev := by
    rw [State.devAt, State.poisonTo_devs, ← State.devAt]
  refine ⟨_, gddr7Read_of_poisoned b e hs hmeet ?_, ?_, ?_, fun k hk => ?_, ?_⟩
  · rw [State.poisoned_uncorrectable, if_pos rfl]
  · rw [State.poisonTo_mem, State.uncorrectable_mem]; rfl
  · rw [hpoison, if_pos rfl]
  · rw [hpoison, if_neg hk]
  · rw [hdev]; exact State.uncorrectable_notes _ _

theorem gddr7Read_miscorrected (hp : s.poisoned (burstOf a.toNat) = false) (he : 3 ≤ (errSymbols e).length)
    (hd : Config.eccDetects (s.burst (burstOf a.toNat)) e.pattern = false) :
    ∃ t, exec (.gddr7Read b a e) s = .next t ∧ t.poison = s.poison ∧ ∀ x, t.byteAt x =
      if burstOf a.toNat * 64 ≤ x ∧ x < burstOf a.toNat * 64 + 64
      then Config.eccByte (s.burst (burstOf a.toNat)) e.pattern (x - burstOf a.toNat * 64) else s.byteAt x := by
  let s0 := s.cntAdd (cntDev (gddrMap a.toNat).dev 0) 1
  have hmeet : s0.meet a.toNat e false = (s0.miscorrect (burstOf a.toNat) e).correct a.toNat e false :=
    State.meet_miscorrected _ _ _ _ hp (eccOut_miscorrected _ _ he (by rwa [State.burst_cntAdd]))
  have hpoison : ((s0.miscorrect (burstOf a.toNat) e).correct a.toNat e false).poison = s.poison := by
    rw [State.correct_poison, State.miscorrect_poison]; rfl
  refine ⟨_, gddr7Read_of_clean b e hs hmeet ((State.poisoned_congr hpoison _).trans hp), hpoison, fun x => ?_⟩
  rw [State.byteAt_congr (State.correct_mem _ _ _ _) (State.correct_veiled _ _ _ _), State.byteAt_miscorrect, State.burst_cntAdd,
    State.byteAt_cntAdd]

theorem gddr7Read_poisoned (hp : s.poisoned (burstOf a.toNat) = true) :
    ∃ t, exec (.gddr7Read b a e) s = .next t ∧ t.mem = s.mem ∧ t.veiled = s.veiled ∧ t.poison = s.poison :=
  ⟨_, gddr7Read_of_poisoned b e hs (State.meet_poisoned _ _ _ _ hp) hp, State.poisonTo_mem _ _ _ _, State.poisonTo_veiled _ _ _ _,
    State.poisonTo_poison _ _ _ _⟩

/-! ### Writes -/

theorem gddr7Write_whole_burst (ha : a.toNat % 64 = 0) (hl : data.length = 64) :
    ∃ t, exec (.gddr7Write b a data e) s = .next t ∧
      (∀ x, t.byteAt x = if a.toNat ≤ x ∧ x < a.toNat + data.length then data.getD (x - a.toNat) 0 else s.byteAt x) ∧
      t.poisoned (burstOf a.toNat) = false ∧ (∀ k, k ≠ burstOf a.toNat → t.poisoned k = s.poisoned k) ∧ t.units = s.units ∧ t.jobs = s.jobs := by
  let s0 := s.cntAdd (cntDev (gddrMap a.toNat).dev 1) 1
  have hpoison (k : Nat) : ((s0.cleanBurst (burstOf a.toNat)).putBytes a.toNat data).poisoned k =
      if k = burstOf a.toNat then false else s.poisoned k :=
    (State.poisoned_congr (State.putBytes_poison _ _ _) k).trans (State.poisoned_cleanBurst _ _ _)
  refine ⟨_, gddr7Write_whole b data e hs ha hl, fun x => ?_, ?_, fun k hk => ?_, ?_, ?_⟩
  · rw [State.byteAt_putBytes, State.byteAt_congr (State.cleanBurst_mem _ _) (State.cleanBurst_veiled _ _), State.byteAt_cntAdd]
  · rw [hpoison, if_pos rfl]
  · rw [hpoison, if_neg hk]
  · rw [State.putBytes_units, State.cleanBurst_units]; rfl
  · rw [State.putBytes_jobs, State.cleanBurst_jobs]; rfl

theorem gddr7Write_merges (hl : a.toNat % 64 + data.length < 64) (hp : s.poisoned (burstOf a.toNat) = false) (he : (errSymbols e).length = 0) :
    ∃ t, exec (.gddr7Write b a data e) s = .next t ∧
      (∀ x, t.byteAt x = if a.toNat ≤ x ∧ x < a.toNat + data.length then data.getD (x - a.toNat) 0 else s.byteAt x) ∧
      t.poison = s.poison ∧ t.units = s.units ∧ t.jobs = s.jobs := by
  have hexec := gddr7Write_part b data e hs hl (State.meet_clean _ _ _ _ (eccOut_clean _ _ he))
  refine ⟨_, hexec.trans (congrArg _ (if_neg (ne_true_of_eq_false hp))), fun x => ?_, State.putBytes_poison _ _ _, State.putBytes_units _ _ _,
    State.putBytes_jobs _ _ _⟩
  rw [State.byteAt_putBytes, State.byteAt_cntAdd, State.byteAt_cntAdd]

theorem gddr7Write_poisoned (hl : a.toNat % 64 + data.length < 64) (hp : s.poisoned (burstOf a.toNat) = true) :
    ∃ t, exec (.gddr7Write b a data e) s = .next t ∧ t.mem = s.mem ∧ t.veiled = s.veiled ∧ t.poison = s.poison := by
  have hexec := gddr7Write_part b data e hs hl (State.meet_poisoned _ _ _ _ hp)
  exact ⟨_, hexec.trans (congrArg _ (if_pos hp)), State.poisonTo_mem _ _ _ _, State.poisonTo_veiled _ _ _ _, State.poisonTo_poison _ _ _ _⟩

end

end Sys2Proof.Machine

namespace Sys2Proof
open Machine

/-- Settles O38: one lemma for each outcome of a read and of a write. -/
theorem gddr7Access : Obligations.gddr7_access := by
  intro b a data e s hon
  refine ⟨gddr7_waits b data e hon, fun hin hdev hwin => ?_⟩
  have hs : s.ServesGddr a.toNat := ⟨hon, hin, hdev, hwin⟩
  exact ⟨gddr7Read_no_error b e hs, gddr7Read_corrected b e hs, gddr7Read_uncorrectable b e hs, gddr7Read_miscorrected b e hs,
    gddr7Read_poisoned b e hs, gddr7Write_whole_burst b data e hs, gddr7Write_merges b data e hs, gddr7Write_poisoned b data e hs⟩

end Sys2Proof
end

section
/-! PROOF. Every step keeps the memories in the one canonical form (log entry 2): no part of the state that an operation may write breaks it, and
the `_keeps` lemma of each command carries it through; O4. -/

namespace Sys2Proof.Machine

/-! ### Canonical memories outlive every update -/

/-- Updates of single parts: a memory is only ever updated to cells in canonical form, and no other part counts. -/
theorem free_safe_of_ne_reset {k : Nat} (hk : k ≠ 42) : Free Safe k := by
  unfold Free
  split
  case h_2 => exact fun _ _ hv hs => ⟨hv hs.1, hs.2⟩
  case h_3 => exact fun _ _ hv hs => ⟨hs.1, hv hs.2⟩
  case h_43 => exact absurd rfl hk
  case h_44 => trivial
  all_goals exact fun _ _ hs => hs

/-- A power cycle takes cells of device memory away and leaves the hosts' (log entry 2). -/
theorem State.cold_safe {s : State} (on : Bool) (hs : Safe s) : Safe (s.cold on) := ⟨Memory.wf_filter _ _ hs.1, hs.2⟩

/-- A warm reset keeps both memories; what it does to the devices and the dies writes neither (R485). -/
theorem State.warm_safe {s : State} (wdog : Bool) (hs : Safe s) : Safe (s.warm wdog) := by
  have parts : Frees Safe 0x3FFFFFFFFFF := fun k hk => free_safe_of_ne_reset (by rintro rfl; exact absurd hk (by decide))
  have devs (u : State) (hu : Safe u) : Safe (u.eachDev fun d => { d with selfRefresh := true }) :=
    State.eachDev_keeps (parts.sub rfl) u _ hu
  unfold State.warm
  dsimp only
  split
  · exact State.holdDies_keeps (parts.sub rfl) _ (devs _ hs)
  · exact devs _ hs

theorem frees_safe (m : Nat) : Frees Safe m := by
  intro k _
  by_cases hk : k = 42
  · subst hk
    exact fun _ hs => ⟨fun on => State.cold_safe on hs, fun wdog => State.warm_safe wdog hs⟩
  · exact free_safe_of_ne_reset hk

/-! ### Commands and the idle cycle -/

/-- What no part of the state can break, every command keeps. -/
theorem exec_keeps {P : State → Prop} (hw : ∀ m, Frees P m) (c : Instr) (s : State) (hs : P s) : OutAll P (exec c s) := by
  cases c with
  | beatBoundary env => exact execBeatBoundary_keeps (hw _) env s hs
  | beatEdge sinceNs => exact execBeatEdge_keeps (hw _) sinceNs s hs
  | beatSetWrite f v => exact execBeatSetWrite_keeps (hw _) f v s hs
  | timeCtrlWrite f v => exact execTimeCtrlWrite_keeps (hw _) f v s hs
  | timingWordReceive p w whole arr16 => exact execTimingWordReceive_keeps (hw _) p w whole arr16 s hs
  | delayEchoReceive p roundTripPs => exact execDelayEchoReceive_keeps (hw _) p roundTripPs s hs
  | delayRemeasure => exact execDelayRemeasure_keeps (hw _) s hs
  | holdoverEntry => exact execHoldoverEntry_keeps (hw _) s hs
  | holdoverExpiry => exact execHoldoverExpiry_keeps (hw _) s hs
  | markTakeEffect => exact execMarkTakeEffect_keeps (hw _) s hs
  | reconfigDrain => exact execReconfigDrain_keeps (hw _) s hs
  | commandStart x => exact execCommandStart_keeps (hw _) x s hs
  | boundReadReply x slot => exact execBoundReadReply_keeps (hw _) x slot s hs
  | iterationFire x => exact execIterationFire_keeps (hw _) x s hs
  | markTokenPop x port => exact execMarkTokenPop_keeps (hw _) x port s hs
  | drainTokenPop x port => exact execDrainTokenPop_keeps (hw _) x port s hs
  | commandEnd x => exact execCommandEnd_keeps (hw _) x s hs
  | endTokenPop x => exact execEndTokenPop_keeps (hw _) x s hs
  | tokenCrossing src dst => exact execTokenCrossing_keeps (hw _) src dst s hs
  | creditReturn die q => exact execCreditReturn_keeps (hw _) die q s hs
  | qcfgWrite f die q v => exact execQcfgWrite_keeps (hw _) f die q v s hs
  | fetchAdd x sid a => exact execFetchAdd_keeps (hw _) x sid a s hs
  | fetchMin x sid a => exact execFetchMin_keeps (hw _) x sid a s hs
  | fetchMax x sid a => exact execFetchMax_keeps (hw _) x sid a s hs
  | signal x sid a => exact execSignal_keeps (hw _) x sid a s hs
  | waitGe x sid v => exact execWaitGe_keeps (hw _) x sid v s hs
  | read by_ sid => exact execRead_keeps (hw _) by_ sid s hs
  | set by_ sid v ctl => exact execSet_keeps (hw _) by_ sid v ctl s hs
  | syncReply x => exact execSyncReply_keeps (hw _) x s hs
  | watchNotify x => exact execWatchNotify_keeps (hw _) x s hs
  | preemptStop jid => exact execPreemptStop_keeps (hw _) jid s hs
  | chainSave jid => exact execChainSave_keeps (hw _) jid s hs
  | resumeRestore jid => exact execResumeRestore_keeps (hw _) jid s hs
  | mxeCommand die m rows => exact execMxeCommand_keeps (hw _) die m rows s hs
  | accTake die m => exact execAccTake_keeps (hw _) die m s hs
  | mxeDrain die m => exact execMxeDrain_keeps (hw _) die m s hs
  | decantRow x => exact execDecantRow_keeps (hw _) x s hs
  | tileComplete x => exact execTileComplete_keeps (hw _) x s hs
  | fadd v w => exact execFadd_keeps (hw _) v w s hs
  | fsub v w => exact execFsub_keeps (hw _) v w s hs
  | fmul v w => exact execFmul_keeps (hw _) v w s hs
  | fma v w => exact execFma_keeps (hw _) v w s hs
  | fmax v w => exact execFmax_keeps (hw _) v w s hs
  | fmin v w => exact execFmin_keeps (hw _) v w s hs
  | faddPk v w => exact execFaddPk_keeps (hw _) v w s hs
  | fsubPk v w => exact execFsubPk_keeps (hw _) v w s hs
  | fmulPk v w => exact execFmulPk_keeps (hw _) v w s hs
  | fmaPk v w => exact execFmaPk_keeps (hw _) v w s hs
  | fmaxPk v w => exact execFmaxPk_keeps (hw _) v w s hs
  | fminPk v w => exact execFminPk_keeps (hw _) v w s hs
  | exp2 v w => exact execExp2_keeps (hw _) v w s hs
  | log2 v w => exact execLog2_keeps (hw _) v w s hs
  | rcp v w => exact execRcp_keeps (hw _) v w s hs
  | rsqrt v w => exact execRsqrt_keeps (hw _) v w s hs
  | tanh v w => exact execTanh_keeps (hw _) v w s hs
  | sin v w => exact execSin_keeps (hw _) v w s hs
  | cos v w => exact execCos_keeps (hw _) v w s hs
  | cmp v w => exact execCmp_keeps (hw _) v w s hs
  | sel v w => exact execSel_keeps (hw _) v w s hs
  | cvt v w => exact execCvt_keeps (hw _) v w s hs
  | and v w => exact execAnd_keeps (hw _) v w s hs
  | or v w => exact execOr_keeps (hw _) v w s hs
  | xor v w => exact execXor_keeps (hw _) v w s hs
  | shl v w => exact execShl_keeps (hw _) v w s hs
  | shr v w => exact execShr_keeps (hw _) v w s hs
  | pop v w => exact execPop_keeps (hw _) v w s hs
  | push v w => exact execPush_keeps (hw _) v w s hs
  | lred v w => exact execLred_keeps (hw _) v w s hs
  | rxeSum die => exact execRxeSum_keeps (hw _) die s hs
  | rxeSumsq die => exact execRxeSumsq_keeps (hw _) die s hs
  | rxeNorm2 die => exact execRxeNorm2_keeps (hw _) die s hs
  | rxeMean die => exact execRxeMean_keeps (hw _) die s hs
  | rxeMax die => exact execRxeMax_keeps (hw _) die s hs
  | rxeMin die => exact execRxeMin_keeps (hw _) die s hs
  | rxeArgmax die => exact execRxeArgmax_keeps (hw _) die s hs
  | rxeArgmin die => exact execRxeArgmin_keeps (hw _) die s hs
  | rxeTopk die => exact execRxeTopk_keeps (hw _) die s hs
  | gather die rows => exact execGather_keeps (hw _) die rows s hs
  | scatterAdd die steps => exact execScatterAdd_keeps (hw _) die steps s hs
  | route die tokens => exact execRoute_keeps (hw _) die tokens s hs
  | claim x => exact execClaim_keeps (hw _) x s hs
  | dmaTransfer die e words => exact execDmaTransfer_keeps (hw _) die e words s hs
  | carryAdd jid bucket => exact execCarryAdd_keeps (hw _) jid bucket s hs
  | hxuCommand die => exact execHxuCommand_keeps (hw _) die s hs
  | lmvCopy die => exact execLmvCopy_keeps (hw _) die s hs
  | pass1Norm jid => exact execPass1Norm_keeps (hw _) jid s hs
  | normDerive jid => exact execNormDerive_keeps (hw _) jid s hs
  | pass2Update jid layer elems => exact execPass2Update_keeps (hw _) jid layer elems s hs
  | queryCommand jid query => exact execQueryCommand_keeps (hw _) jid query s hs
  | ingestArrival jid port query dva data => exact execIngestArrival_keeps (hw _) jid port query dva data s hs
  | flitSlot p => exact execFlitSlot_keeps (hw _) p s hs
  | flitReceive p flit => exact execFlitReceive_keeps (hw _) p flit s hs
  | nakReplay p => exact execNakReplay_keeps (hw _) p s hs
  | packetOriginate p => exact execPacketOriginate_keeps (hw _) p s hs
  | reduce p => exact execReduce_keeps (hw _) p s hs
  | adderOperandReady p => exact execAdderOperandReady_keeps (hw _) p s hs
  | spread p => exact execSpread_keeps (hw _) p s hs
  | halo p => exact execHalo_keeps (hw _) p s hs
  | corkPacket p => exact execCorkPacket_keeps (hw _) p s hs
  | corkPhaseStart jid => exact execCorkPhaseStart_keeps (hw _) jid s hs
  | linkDown p => exact execLinkDown_keeps (hw _) p s hs
  | portTrained p roundTripPs polarity => exact execPortTrained_keeps (hw _) p roundTripPs polarity s hs
  | laneLockLoss p => exact execLaneLockLoss_keeps (hw _) p s hs
  | noHeaderTimeout p => exact execNoHeaderTimeout_keeps (hw _) p s hs
  | scrubWindow errs => exact execScrubWindow_keeps (hw _) errs s hs
  | gddr7Read by_ a err => exact execGddr7Read_keeps (hw _) by_ a err s hs
  | gddr7Write by_ a data err => exact execGddr7Write_keeps (hw _) by_ a data err s hs
  | eccCorrected dev => exact execEccCorrected_keeps (hw _) dev s hs
  | cxlCompletion c id poison ns => exact execCxlCompletion_keeps (hw _) c id poison ns s hs
  | hdmCommit f c k v devOk => exact execHdmCommit_keeps (hw _) f c k v devOk s hs
  | cxlPortDown c cause => exact execCxlPortDown_keeps (hw _) c cause s hs
  | cxlPortUp c full devices prsnt => exact execCxlPortUp_keeps (hw _) c prsnt full devices s hs
  | translationWalk by_ ctx dva write => exact execTranslationWalk_keeps (hw _) by_ ctx dva write s hs
  | invalidate f v => exact execInvalidate_keeps (hw _) f v s hs
  | invalidateDone ctx => exact execInvalidateDone_keeps (hw _) ctx s hs
  | atsInvalidation port lo hi => exact execAtsInvalidation_keeps (hw _) port lo hi s hs
  | pageResponse ctx fid success => exact execPageResponse_keeps (hw _) ctx fid success s hs
  | retry f fid => exact execRetry_keeps (hw _) f fid s hs
  | abortFault f fid => exact execAbortFault_keeps (hw _) f fid s hs
  | pinEnable f pin v => exact execPinEnable_keeps (hw _) f pin v s hs
  | pinComplete ctx pin => exact execPinComplete_keeps (hw _) ctx pin s hs
  | pinDisable f pin => exact execPinDisable_keeps (hw _) f pin s hs
  | doorbellPoll => exact execDoorbellPoll_keeps (hw _) s hs
  | doorbellInvalidate ctx => exact execDoorbellInvalidate_keeps (hw _) ctx s hs
  | doorbellLine ctx line => exact execDoorbellLine_keeps (hw _) ctx line s hs
  | descriptorFetch ctx ds => exact execDescriptorFetch_keeps (hw _) ctx ds s hs
  | run => exact execRun_keeps (hw _) s hs
  | resume => exact execResume_keeps (hw _) s hs
  | preempt => exact execPreempt_keeps (hw _) s hs
  | abort => exact execAbort_keeps (hw _) s hs
  | jobStart jid => exact execJobStart_keeps (hw _) jid s hs
  | lentJobStart jid => exact execLentJobStart_keeps (hw _) jid s hs
  | park jid => exact execPark_keeps (hw _) jid s hs
  | reservationEnd jid => exact execReservationEnd_keeps (hw _) jid s hs
  | jobEnd jid => exact execJobEnd_keeps (hw _) jid s hs
  | contextEnable f => exact execContextEnable_keeps (hw _) f s hs
  | contextDisable f => exact execContextDisable_keeps (hw _) f s hs
  | portLinkTimeout port => exact execPortLinkTimeout_keeps (hw _) port s hs
  | handover f port => exact execHandover_keeps (hw _) f port s hs
  | snap f => exact execSnap_keeps (hw _) f s hs
  | clear f => exact execClear_keeps (hw _) f s hs
  | traceDrain die => exact execTraceDrain_keeps (hw _) die s hs
  | traceDrop die => exact execTraceDrop_keeps (hw _) die s hs
  | softTrig f => exact execSoftTrig_keeps (hw _) f s hs
  | trigger ctx => exact execTrigger_keeps (hw _) ctx s hs
  | hang jid => exact execHang_keeps (hw _) jid s hs
  | dumpRequest f scope => exact execDumpRequest_keeps (hw _) f scope s hs
  | stringDump => exact execStringDump_keeps (hw _) s hs
  | dumpRestart => exact execDumpRestart_keeps (hw _) s hs
  | resourceClaim f r want => exact execResourceClaim_keeps (hw _) f r want s hs
  | trigEdge lowNs sinceNs => exact execTrigEdge_keeps (hw _) lowNs sinceNs s hs
  | powerOn vin ms => exact execPowerOn_keeps (hw _) vin ms s hs
  | boot slotA slotB micro train failedDev => exact execBoot_keeps (hw _) slotA slotB micro train failedDev s hs
  | overvoltageTrip vin => exact execOvervoltageTrip_keeps (hw _) vin s hs
  | presBreak => exact execPresBreak_keeps (hw _) s hs
  | shedEntry => exact execShedEntry_keeps (hw _) s hs
  | shedRecovery => exact execShedRecovery_keeps (hw _) s hs
  | forceLevel f v => exact execForceLevel_keeps (hw _) f v s hs
  | quiesce f die => exact execQuiesce_keeps (hw _) f die s hs
  | fence f die => exact execFence_keeps (hw _) f die s hs
  | dieFenced die => exact execDieFenced_keeps (hw _) die s hs
  | reset f die => exact execReset_keeps (hw _) f die s hs
  | rejoin f die => exact execRejoin_keeps (hw _) f die s hs
  | modRst low => exact execModRst_keeps (hw _) low s hs
  | warmReset => exact execWarmReset_keeps (hw _) s hs
  | watchdogExpiry => exact execWatchdogExpiry_keeps (hw _) s hs
  | perst port => exact execPerst_keeps (hw _) port s hs
  | functionLevelReset f => exact execFunctionLevelReset_keeps (hw _) f s hs
  | fwStage f img => exact execFwStage_keeps (hw _) f img s hs
  | fwSelect f => exact execFwSelect_keeps (hw _) f s hs
  | fwActivateDie f die => exact execFwActivateDie_keeps (hw _) f die s hs
  | advanceSvn f ty => exact execAdvanceSvn_keeps (hw _) f ty s hs
  | debugChallenge f => exact execDebugChallenge_keeps (hw _) f s hs
  | debugUnlock f token => exact execDebugUnlock_keeps (hw _) f token s hs
  | moduleReset f => exact execModuleReset_keeps (hw _) f s hs
  | getVersion port => exact execGetVersion_keeps (hw _) port s hs
  | getCapabilities port => exact execGetCapabilities_keeps (hw _) port s hs
  | negotiateAlgorithms port => exact execNegotiateAlgorithms_keeps (hw _) port s hs
  | getDigests port => exact execGetDigests_keeps (hw _) port s hs
  | getCertificate port slot => exact execGetCertificate_keeps (hw _) port slot s hs
  | challenge port slot nonce => exact execChallenge_keeps (hw _) port slot nonce s hs
  | getMeasurements port nonce => exact execGetMeasurements_keeps (hw _) port nonce s hs
  | smbPwrStatus => exact execSmbPwrStatus_keeps (hw _) s hs
  | smbPwrTherm => exact execSmbPwrTherm_keeps (hw _) s hs
  | smbSecBoot => exact execSmbSecBoot_keeps (hw _) s hs
  | smbGtNow => exact execSmbGtNow_keeps (hw _) s hs
  | smbCoolant => exact execSmbCoolant_keeps (hw _) s hs
  | smbHpStatus => exact execSmbHpStatus_keeps (hw _) s hs
  | smbSerial => exact execSmbSerial_keeps (hw _) s hs
  | smbNack why => exact execSmbNack_keeps (hw _) why s hs
  | nlEnable f p => exact execNlEnable_keeps (hw _) f p s hs
  | nlDisable f p => exact execNlDisable_keeps (hw _) f p s hs
  | retrain f p => exact execRetrain_keeps (hw _) f p s hs
  | nlTorusWrite f p v => exact execNlTorusWrite_keeps (hw _) f p v s hs
  | unsupportedRequest f addr size => exact execUnsupportedRequest_keeps (hw _) f addr size s hs
  | deniedAccess f addr write => exact execDeniedAccess_keeps (hw _) f addr write s hs
  | registerWrite f addr half v => exact execRegisterWrite_keeps (hw _) f addr half v s hs
  | hostLinkDown port => exact execHostLinkDown_keeps (hw _) port s hs
  | hostLinkUp port cxl full => exact execHostLinkUp_keeps (hw _) port cxl full s hs
  | vinRemoved => exact execVinRemoved_keeps (hw _) s hs
  | cblPres p low => exact execCblPres_keeps (hw _) p low s hs
  | atsTranslationCompletion port page present write ctx order => exact execAtsTranslationCompletion_keeps (hw _) port ctx page order present write s hs
  | fruEepromWrite addr data => exact execFruEepromWrite_keeps (hw _) addr data s hs

/-- What no part of the state and no taking from the queue can break, every step keeps. -/
theorem step_keeps {P : State → Prop} (hw : ∀ m, Frees P m) (hq : ∀ s q, P s → P { s with pending := q }) (s : State) (hs : P s) :
    OutAll P (step s) := by
  unfold step
  split
  · exact OutAll.next (tick_keeps (hw _) s hs)
  · next c rest _ => exact exec_keeps hw c _ (hq s rest hs)

end Sys2Proof.Machine

namespace Sys2Proof
open Machine

/-- Settles O4: no part of the state breaks the canonical form, and the queue is not part of it. -/
theorem memoryStaysCanonical : Obligations.memory_stays_canonical := by
  intro s t hs hstep
  exact step_keeps frees_safe (fun _ _ h => h) s hs t hstep

end Sys2Proof
end

section
/-! PROOF. Units at work: what a property of one unit outlives, the commands of a unit that works, its wait state (R47). -/

namespace Sys2Proof.Machine

/-! ### Units, each by itself -/

/-- A property of one unit outlives updates of every other part of the state. -/
theorem frees_unit (x : Nat) (Q : UnitSt → Prop) : Frees (fun t => Q (t.unit x)) 0x3FFFFFFFFEF := frees_units fun l => Q (tabGet .reset l x)

theorem State.unit_updUnit (s : State) (a b : Nat) (f : UnitSt → UnitSt) :
    (s.updUnit a f).unit b = if b = a then f (s.unit a) else s.unit b := State.unit_setUnit s a b _

/-- A part of the units that an update leaves in its unit is left in every unit. -/
theorem State.updUnit_part {α : Type} (g : UnitSt → α) (s : State) (a b : Nat) {f : UnitSt → UnitSt} (hf : g (f (s.unit a)) = g (s.unit a)) :
    g ((s.updUnit a f).unit b) = g (s.unit b) := by
  rw [State.unit_updUnit]
  split
  · next h => rw [hf, h]
  · rfl

theorem State.unit_congr {s t : State} (h : t.units = s.units) (x : Nat) : t.unit x = s.unit x := by
  rw [State.unit, State.unit, h]

theorem State.sync_congr {s t : State} (h : t.syncs = s.syncs) (i : Nat) : t.sync i = s.sync i := by
  rw [State.sync, State.sync, h]

/-! ### Units that work -/

section
variable {s : State} {x : Nat} {j : Job} {c : Cmd}

theorem State.withUnitJob_of_working (h : Working s x j) (f : Job → State) : s.withUnitJob x f = f j := by
  obtain ⟨-, hjob, hlive, -⟩ := h
  exact s.withUnitJob_some x j f hjob hlive

/-- A unit that works at a command acts. -/
theorem State.unitRuns_of_commanded (h : Commanded s x j c) (f : Job → Cmd → State) : s.unitRuns x f = f j c := by
  obtain ⟨hw, hcmd⟩ := h
  rw [State.unitRuns, State.unitActs, State.withUnitJob_of_working hw]
  obtain ⟨-, -, -, hrun, hstop, hstall, hdie⟩ := hw
  simp [hcmd, hrun, hstop, hstall, hdie]

/-- A command of a unit that works is what its meaning gives for the unit's job and command. -/
theorem State.ran_unitRuns (h : Commanded s x j c) (f : State → Job → Cmd → State) : (s.ran fun s => s.unitRuns x (f s)) = .next (f s j c) := by
  have ⟨⟨hon, _⟩, _⟩ := h
  rw [s.ran_on _ hon, State.unitRuns_of_commanded h]

end

/-! ### Wait states -/

section
variable (s : State) (x : Nat)

@[simp] theorem State.setWait_syncs (w : WaitSt) : (s.setWait x w).syncs = s.syncs :=
  State.setWait_keeps ((frees_syncs (· = s.syncs)).sub rfl) _ _ _ rfl

@[simp] theorem State.setWait_mem (w : WaitSt) : (s.setWait x w).mem = s.mem :=
  State.setWait_keeps ((frees_mem (· = s.mem)).sub rfl) _ _ _ rfl

@[simp] theorem State.setWait_watches (w : WaitSt) : (s.setWait x w).watches = s.watches :=
  State.setWait_keeps ((frees_watches (· = s.watches)).sub rfl) _ _ _ rfl

@[simp] theorem State.setWait_queues (w : WaitSt) : (s.setWait x w).queues = s.queues :=
  State.setWait_keeps ((frees_queues (· = s.queues)).sub rfl) _ _ _ rfl

/-- The unit is in the wait state. -/
theorem State.setWait_wait (w : WaitSt) : ((s.setWait x w).unit x).wait = w :=
  State.setWait_inv (P := fun t => (t.unit x).wait = w) ((frees_unit x (·.wait = w)).sub rfl)
    (counted_unit UnitSt.wait (fun _ _ _ => rfl) x (· = w)) s x w fun _ => by rw [State.unit_setUnit_self]

/-- A part of the units beside the wait state and the counters is left. -/
theorem State.setWait_part {α : Type} (g : UnitSt → α) (hg : ∀ u n k, g (u.count n k) = g u)
    (hw : ∀ u w n, g ({ u with wait := w, waitAt := n } : UnitSt) = g u) (w : WaitSt) (y : Nat) :
    g ((s.setWait x w).unit y) = g (s.unit y) :=
  State.setWait_inv (P := fun t => g (t.unit y) = g (s.unit y)) ((frees_unit y (g · = g (s.unit y))).sub rfl)
    (counted_unit g hg y (· = g (s.unit y))) s x w fun n =>
      State.updUnit_part g s x y (f := fun u => { u with wait := w, waitAt := n }) (hw _ _ _)

/-- RUN and IDLE are wait states like the others (R47). -/
theorem State.setRun_part {α : Type} (g : UnitSt → α) (hg : ∀ u n k, g (u.count n k) = g u)
    (hw : ∀ u w n, g ({ u with wait := w, waitAt := n } : UnitSt) = g u) (y : Nat) : g ((s.setRun x).unit y) = g (s.unit y) :=
  State.setWait_part _ _ g hg hw _ _

end

end Sys2Proof.Machine
end

section
/-! PROOF. The operations of a unit at the home bank of a sync object (R62 to R67); O11. -/

namespace Sys2Proof.Machine

/-! ### At the home bank -/

section
variable {s : State} {x : Nat} {sid : U16}

/-- An operation taken at the home bank is done there (R66, R68). -/
theorem State.syncOp_of_ready (h : SyncReady s x sid) (f : SyncObj → State) :
    s.syncOp x sid f = (f (s.sync sid.toNat)).exchange (x / 16) (syncHome sid) := by
  obtain ⟨⟨j, hw⟩, hhome, harmed⟩ := h
  rw [State.syncOp, State.withUnitJob_of_working hw]
  obtain ⟨-, -, -, hrun, hstop, -, hdie⟩ := hw
  simp [hrun, hstop, hdie, hhome, harmed]

/-- The read of a bound word is performed at the home bank (R44). -/
theorem State.performRead_of_ready (h : SyncReady s x sid) (slot : Nat) :
    s.performRead x sid slot =
      ((s.sendReply x sid (s.sync sid.toNat).value 1 slot).syncDone x sid 6 (s.sync sid.toNat).value).exchange (x / 16) (syncHome sid) := by
  obtain ⟨⟨j, hw⟩, hhome, harmed⟩ := h
  rw [State.performRead, State.withUnitJob_of_working hw]
  obtain ⟨-, -, -, hrun, -, -, hdie⟩ := hw
  simp [hrun, hdie, hhome, harmed]

theorem State.on_of_ready (h : SyncReady s x sid) : s.pwr.on = true := by
  obtain ⟨⟨j, hon, -⟩, -⟩ := h
  exact hon

end

/-! ### What the count and the trace of an operation leave -/

section
variable (s : State) (x : Nat) (sid : U16) (op : Nat) (ret : U64)

@[simp] theorem State.syncDone_mem : (s.syncDone x sid op ret).mem = s.mem :=
  State.syncDone_keeps ((frees_mem (· = s.mem)).sub rfl) _ _ _ _ _ rfl

@[simp] theorem State.syncDone_syncs : (s.syncDone x sid op ret).syncs = s.syncs :=
  State.syncDone_keeps ((frees_syncs (· = s.syncs)).sub rfl) _ _ _ _ _ rfl

@[simp] theorem State.syncDone_watches : (s.syncDone x sid op ret).watches = s.watches :=
  State.syncDone_keeps ((frees_watches (· = s.watches)).sub rfl) _ _ _ _ _ rfl

@[simp] theorem State.syncDone_queues : (s.syncDone x sid op ret).queues = s.queues :=
  State.syncDone_keeps ((frees_queues (· = s.queues)).sub rfl) _ _ _ _ _ rfl

@[simp] theorem State.syncDone_jobs : (s.syncDone x sid op ret).jobs = s.jobs :=
  State.syncDone_keeps ((frees_jobs (· = s.jobs)).sub rfl) _ _ _ _ _ rfl

@[simp] theorem State.syncDone_ports : (s.syncDone x sid op ret).ports = s.ports :=
  State.syncDone_keeps ((frees_ports (· = s.ports)).sub rfl) _ _ _ _ _ rfl

/-- Of a unit only counters change. -/
theorem State.syncDone_part {α : Type} (g : UnitSt → α) (hg : ∀ u n k, g (u.count n k) = g u) (y : Nat) :
    g ((s.syncDone x sid op ret).unit y) = g (s.unit y) :=
  State.syncDone_inv ((frees_unit y (g · = g (s.unit y))).sub rfl) (counted_unit g hg y (· = g (s.unit y))) _ _ _ _ _ rfl

end

/-! ### The value, the reply, and the operation that does both -/

section
variable (s : State) (x : Nat) (sid : U16) (v : U64)

/-- An object that has the value is left. -/
theorem State.putValue_self : s.putValue sid (s.sync sid.toNat).value = s := by
  simp [State.putValue]

@[simp] theorem State.putValue_units : (s.putValue sid v).units = s.units := State.putValue_parts ((frees_units (· = s.units)).sub rfl) _ _ _ rfl

@[simp] theorem State.putValue_mem : (s.putValue sid v).mem = s.mem := State.putValue_parts ((frees_mem (· = s.mem)).sub rfl) _ _ _ rfl

@[simp] theorem State.putValue_queues : (s.putValue sid v).queues = s.queues :=
  State.putValue_parts ((frees_queues (· = s.queues)).sub rfl) _ _ _ rfl

@[simp] theorem State.putValue_jobs : (s.putValue sid v).jobs = s.jobs := State.putValue_parts ((frees_jobs (· = s.jobs)).sub rfl) _ _ _ rfl

@[simp] theorem State.putValue_ports : (s.putValue sid v).ports = s.ports := State.putValue_parts ((frees_ports (· = s.ports)).sub rfl) _ _ _ rfl

theorem State.sendReply_syncs (kind slot : Nat) : (s.sendReply x sid v kind slot).syncs = s.syncs := rfl

theorem State.sendReply_unit (kind slot : Nat) :
    (s.sendReply x sid v kind slot).unit x =
      { s.unit x with replies := (s.unit x).replies ++ [{ sid := sid, value := v, kind := kind, slot := slot }] } :=
  State.unit_setUnit_self _ _ _

end

/-- What an operation with a reply leaves: the new value, the reply sent, counted and carried. -/
def State.answered (s : State) (x : Nat) (sid : U16) (new old : U64) (op kind slot : Nat) : State :=
  (((s.putValue sid new).sendReply x sid old kind slot).syncDone x sid op old).exchange (x / 16) (syncHome sid)

section
variable (s : State) (x : Nat) (sid : U16) (new old : U64) (op kind slot : Nat)

theorem State.answered_sync (i : Nat) :
    (s.answered x sid new old op kind slot).sync i = if i = sid.toNat then { s.sync sid.toNat with value := new } else s.sync i := by
  rw [State.answered, State.sync_congr (State.exchange_syncs _ _ _), State.sync_congr (State.syncDone_syncs _ _ _ _ _),
    State.sync_congr (State.sendReply_syncs _ _ _ _ _ _), State.putValue_sync]

theorem State.answered_replies :
    ((s.answered x sid new old op kind slot).unit x).replies =
      (s.unit x).replies ++ [{ sid := sid, value := old, kind := kind, slot := slot }] := by
  rw [State.answered, State.unit_congr (State.exchange_units _ _ _), State.syncDone_part _ _ _ _ _ UnitSt.replies fun _ _ _ => rfl,
    State.sendReply_unit, State.unit_congr (s.putValue_units sid new)]

theorem State.answered_mem : (s.answered x sid new old op kind slot).mem = s.mem := by
  rw [State.answered, State.exchange_mem, State.syncDone_mem]; exact s.putValue_mem sid new

theorem State.answered_queues : (s.answered x sid new old op kind slot).queues = s.queues := by
  rw [State.answered, State.exchange_queues, State.syncDone_queues]; exact s.putValue_queues sid new

theorem State.answered_jobs : (s.answered x sid new old op kind slot).jobs = s.jobs := by
  rw [State.answered, State.exchange_jobs, State.syncDone_jobs]; exact s.putValue_jobs sid new

theorem State.answered_ports : (s.answered x sid new old op kind slot).ports = s.ports := by
  rw [State.answered, State.exchange_ports, State.syncDone_ports]; exact s.putValue_ports sid new

/-- The object has the new value, the unit the reply; the other objects and all else but the watches are left. -/
theorem State.answered_effect :
    (s.answered x sid new old op kind slot).sync sid.toNat = { s.sync sid.toNat with value := new } ∧
      ((s.answered x sid new old op kind slot).unit x).replies =
        (s.unit x).replies ++ [{ sid := sid, value := old, kind := kind, slot := slot }] ∧
      (∀ i, i ≠ sid.toNat → (s.answered x sid new old op kind slot).sync i = s.sync i) ∧
      (s.answered x sid new old op kind slot).mem = s.mem ∧ (s.answered x sid new old op kind slot).queues = s.queues ∧
      (s.answered x sid new old op kind slot).jobs = s.jobs ∧ (s.answered x sid new old op kind slot).ports = s.ports :=
  ⟨(State.answered_sync _ _ _ _ _ _ _ _ _).trans (if_pos rfl), State.answered_replies _ _ _ _ _ _ _ _,
    fun i hi => (State.answered_sync _ _ _ _ _ _ _ _ i).trans (if_neg hi), State.answered_mem _ _ _ _ _ _ _ _,
    State.answered_queues _ _ _ _ _ _ _ _, State.answered_jobs _ _ _ _ _ _ _ _, State.answered_ports _ _ _ _ _ _ _ _⟩

end

/-! ### The commands -/

section
variable {s : State} {x : UnitId} {sid : U16} (h : SyncReady s x.addr sid)
include h

theorem exec_fetchAdd_ready (a : U64) : exec (.fetchAdd x sid a) s =
    .next (s.answered x.addr sid ((s.sync sid.toNat).fetchAdd a).1 ((s.sync sid.toNat).fetchAdd a).2 0 0 0) := by
  rw [exec, execFetchAdd, s.ran_on _ (State.on_of_ready h), State.doFetchAdd, State.syncOp_of_ready h]
  rfl

theorem exec_fetchMin_ready (a : U64) : exec (.fetchMin x sid a) s =
    .next (s.answered x.addr sid ((s.sync sid.toNat).fetchMin a) (s.sync sid.toNat).value 1 0 0) := by
  rw [exec, execFetchMin, s.ran_on _ (State.on_of_ready h), State.syncOp_of_ready h]
  rfl

theorem exec_fetchMax_ready (a : U64) : exec (.fetchMax x sid a) s =
    .next (s.answered x.addr sid ((s.sync sid.toNat).fetchMax a) (s.sync sid.toNat).value 2 0 0) := by
  rw [exec, execFetchMax, s.ran_on _ (State.on_of_ready h), State.syncOp_of_ready h]
  rfl

/-- SIGNAL is posted: the value without a reply. -/
theorem exec_signal_ready (a : U64) : exec (.signal x sid a) s =
    .next (((s.putValue sid ((s.sync sid.toNat).fetchAdd a).1).syncDone x.addr sid 3 0).exchange (x.addr / 16) (syncHome sid)) := by
  rw [exec, execSignal, s.ran_on _ (State.on_of_ready h), State.doSignal, State.syncOp_of_ready h]

theorem exec_waitGe_ready (a : U64) : exec (.waitGe x sid a) s =
    .next ((((s.setWatch x.addr (some { sid := sid, value := a, hit := (s.sync sid.toNat).reached a })).setWait x.addr (.sync sid a)).syncDone
      x.addr sid 4 0).exchange (x.addr / 16) (syncHome sid)) := by
  rw [exec, execWaitGe, s.ran_on _ (State.on_of_ready h), State.syncOp_of_ready h]

/-- A READ of an outstanding bound word. -/
theorem exec_read_bound {r : BoundRead} (hr : (s.unit x.addr).boundRead? sid = some r) : exec (.read (.unit x) sid) s =
    .next (s.answered x.addr sid (s.sync sid.toNat).value (s.sync sid.toNat).value 6 1 r.slot) := by
  rw [exec, execRead, s.ran_on _ (State.on_of_ready h), State.answered, State.putValue_self, ← State.performRead_of_ready h]
  simp only [hr]

/-- A READ of the unit's own. -/
theorem exec_read_own (hr : (s.unit x.addr).boundRead? sid = none) : exec (.read (.unit x) sid) s =
    .next (s.answered x.addr sid (s.sync sid.toNat).value (s.sync sid.toNat).value 6 0 0) := by
  rw [exec, execRead, s.ran_on _ (State.on_of_ready h), State.answered, State.putValue_self]
  simp only [hr]
  rw [State.syncOp_of_ready h]

end

/-! ### What the commands leave -/

section
variable (s : State) (x : Nat) (sid : U16)

/-- The value read changes no object and wakes no watch. -/
theorem State.answered_self_syncs (op kind slot : Nat) :
    (s.answered x sid (s.sync sid.toNat).value (s.sync sid.toNat).value op kind slot).syncs = s.syncs := by
  rw [State.answered, State.putValue_self, State.exchange_syncs, State.syncDone_syncs]; rfl

theorem State.answered_self_watches (op kind slot : Nat) :
    (s.answered x sid (s.sync sid.toNat).value (s.sync sid.toNat).value op kind slot).watches = s.watches := by
  rw [State.answered, State.putValue_self, State.exchange_watches, State.syncDone_watches]; rfl

end

section
variable {s : State} {x : UnitId} {sid : U16} (h : SyncReady s x.addr sid)
include h

theorem signal_effect (a : U64) : ∃ t, exec (.signal x sid a) s = .next t ∧
    t.sync sid.toNat = { s.sync sid.toNat with value := ((s.sync sid.toNat).fetchAdd a).1 } ∧
    (t.unit x.addr).replies = (s.unit x.addr).replies ∧ (∀ i, i ≠ sid.toNat → t.sync i = s.sync i) ∧ t.mem = s.mem := by
  refine ⟨_, exec_signal_ready h a, ?_, ?_, fun i hi => ?_, ?_⟩
  · rw [State.sync_congr (State.exchange_syncs _ _ _), State.sync_congr (State.syncDone_syncs _ _ _ _ _), State.putValue_sync, if_pos rfl]
  · rw [State.unit_congr (State.exchange_units _ _ _), State.syncDone_part _ _ _ _ _ UnitSt.replies fun _ _ _ => rfl,
      State.unit_congr (State.putValue_units _ _ _)]
  · rw [State.sync_congr (State.exchange_syncs _ _ _), State.sync_congr (State.syncDone_syncs _ _ _ _ _), State.putValue_sync, if_neg hi]
  · rw [State.exchange_mem, State.syncDone_mem, State.putValue_mem]

theorem read_effect : ∃ t, exec (.read (.unit x) sid) s = .next t ∧ t.syncs = s.syncs ∧ t.watches = s.watches ∧ t.mem = s.mem ∧
    (t.unit x.addr).replies = (s.unit x.addr).replies ++ [match (s.unit x.addr).boundRead? sid with
      | some r => { sid := sid, value := (s.sync sid.toNat).value, kind := 1, slot := r.slot }
      | none => { sid := sid, value := (s.sync sid.toNat).value, kind := 0, slot := 0 }] := by
  cases hr : (s.unit x.addr).boundRead? sid with
  | some r =>
    exact ⟨_, exec_read_bound h hr, State.answered_self_syncs _ _ _ _ _ _, State.answered_self_watches _ _ _ _ _ _, State.answered_mem _ _ _ _ _ _ _ _,
      State.answered_replies _ _ _ _ _ _ _ _⟩
  | none =>
    exact ⟨_, exec_read_own h hr, State.answered_self_syncs _ _ _ _ _ _, State.answered_self_watches _ _ _ _ _ _, State.answered_mem _ _ _ _ _ _ _ _,
      State.answered_replies _ _ _ _ _ _ _ _⟩

theorem waitGe_effect (a : U64) : ∃ t, exec (.waitGe x sid a) s = .next t ∧ t.syncs = s.syncs ∧ t.mem = s.mem ∧
    t.watch x.addr = some { sid := sid, value := a, hit := (s.sync sid.toNat).reached a } ∧ (t.unit x.addr).wait = .sync sid a ∧
    ∀ y, y ≠ x.addr → t.watch y = s.watch y := by
  let s1 := s.setWatch x.addr (some { sid := sid, value := a, hit := (s.sync sid.toNat).reached a })
  have hwatch : (((s1.setWait x.addr (.sync sid a)).syncDone x.addr sid 4 0).exchange (x.addr / 16) (syncHome sid)).watches = s1.watches := by
    rw [State.exchange_watches, State.syncDone_watches, State.setWait_watches]
  have hget (y : Nat) := congrArg (tabGet none · y) hwatch
  refine ⟨_, exec_waitGe_ready h a, ?_, ?_, ?_, ?_, fun y hy => ?_⟩
  · rw [State.exchange_syncs, State.syncDone_syncs, State.setWait_syncs, State.setWatch_syncs]
  · rw [State.exchange_mem, State.syncDone_mem, State.setWait_mem, State.setWatch_mem]
  · exact (hget _).trans (State.watch_setWatch_self _ _ _)
  · rw [State.unit_congr (State.exchange_units _ _ _), State.syncDone_part _ _ _ _ _ UnitSt.wait fun _ _ _ => rfl, State.setWait_wait]
  · exact (hget y).trans ((State.watch_setWatch _ _ _ _).trans (if_neg hy))

end

theorem exec_read_module (s : State) (sid : U16) : exec (.read .module sid) s = .next s := by
  rw [exec, execRead, State.ran]
  exact congrArg _ (ite_self s)

/-- FETCH_ADD of a PLAIN object (R64). -/
theorem SyncObj.fetchAdd_plain {o : SyncObj} (h : o.ty ≠ 1) (a : U64) : o.fetchAdd a = (o.value + a, o.value) := by
  rw [SyncObj.fetchAdd, if_neg (by simpa using h)]

/-- FETCH_ADD of a WORK object stops at BOUND (R65). -/
theorem SyncObj.fetchAdd_work {o : SyncObj} (h : o.ty = 1) (a : U64) : o.fetchAdd a =
    (BitVec.ofNat 64 (min (o.value.toNat + a.toNat) o.bound.toNat), BitVec.ofNat 64 (min o.value.toNat o.bound.toNat)) := by
  simp [SyncObj.fetchAdd, h]

end Sys2Proof.Machine

namespace Sys2Proof
open Machine

/-- Settles O11: one lemma for each operation at the home bank. -/
theorem syncOperations : Obligations.sync_operations := by
  unfold Obligations.sync_operations
  refine ⟨fun x sid a s h => ?_, fun x sid a s h => ⟨signal_effect h a, read_effect h, exec_read_module s sid, waitGe_effect h a⟩⟩
  refine ⟨fun hty => ⟨_, exec_fetchAdd_ready h a, ?_⟩, fun hty => ⟨_, exec_fetchAdd_ready h a, ?_⟩,
    ⟨_, exec_fetchMin_ready h a, State.answered_effect _ _ _ _ _ _ _ _⟩, ⟨_, exec_fetchMax_ready h a, State.answered_effect _ _ _ _ _ _ _ _⟩⟩
  · rw [SyncObj.fetchAdd_plain hty]
    exact State.answered_effect _ _ _ _ _ _ _ _
  · rw [SyncObj.fetchAdd_work hty]
    exact State.answered_effect _ _ _ _ _ _ _ _

end Sys2Proof
end

section
/-! PROOF. Claims of a WORK object (R65, R263); O13. -/

namespace Sys2Proof.Machine

/-! ### What a row of FETCH_ADDs takes -/

section
variable {o : SyncObj} (hty : o.ty = 1) (a : U64)
include hty

/-- A claimant receives the value as it stood. -/
theorem SyncObj.fetchAdd_work_reply (hle : o.value.toNat ≤ o.bound.toNat) : (o.fetchAdd a).2.toNat = o.value.toNat := by
  rw [SyncObj.fetchAdd_work hty, BitVec.toNat_ofNat, Nat.min_eq_left hle, Nat.mod_eq_of_lt o.value.isLt]

/-- The value goes on by what was asked for, up to BOUND. -/
theorem SyncObj.fetchAdd_work_value : (o.fetchAdd a).1.toNat = min (o.value.toNat + a.toNat) o.bound.toNat := by
  have hbound := o.bound.isLt
  rw [SyncObj.fetchAdd_work hty, BitVec.toNat_ofNat, Nat.mod_eq_of_lt (by omega)]

end

/-- The first claimant owns from the value to the next value, the others what the object has left. -/
theorem claimsOf_cons_work {o : SyncObj} (hty : o.ty = 1) (hle : o.value.toNat ≤ o.bound.toNat) (a : U64) (l : List U64) :
    claimsOf o (a :: l) =
      (o.value.toNat, min (o.value.toNat + a.toNat) o.bound.toNat) :: claimsOf { o with value := (o.fetchAdd a).1 } l := by
  rw [claimsOf, SyncObj.fetchAdd_work_reply hty a hle]

/-- How many claims of a list own a claim. -/
def owners (n : Nat) (cs : List (Nat × Nat)) : Nat := (cs.filter fun c => decide (c.1 ≤ n) && decide (n < c.2)).length

@[simp] theorem owners_nil (n : Nat) : owners n [] = 0 := rfl

theorem owners_cons (n : Nat) (c : Nat × Nat) (cs : List (Nat × Nat)) :
    owners n (c :: cs) = (if c.1 ≤ n ∧ n < c.2 then 1 else 0) + owners n cs := by
  unfold owners
  by_cases h : c.1 ≤ n ∧ n < c.2
  · rw [List.filter_cons_of_pos (by simpa using h), List.length_cons, if_pos h, Nat.add_comm]
  · rw [List.filter_cons_of_neg (by simpa using h), if_neg h, Nat.zero_add]

/-- Two stretches that meet own what the whole owns, once. -/
theorem owns_split {a b c n : Nat} (hab : a ≤ b) (hbc : b ≤ c) :
    ((if a ≤ n ∧ n < b then 1 else 0) + if b ≤ n ∧ n < c then 1 else 0) = if a ≤ n ∧ n < c then 1 else 0 := by
  split_ifs <;> omega

/-- R65: what a row of FETCH_ADDs asks for, short of BOUND, is owned once, and nothing else. -/
theorem owners_claimsOf (o : SyncObj) (l : List U64) (n : Nat) (hty : o.ty = 1) (hle : o.value.toNat ≤ o.bound.toNat) :
    owners n (claimsOf o l) =
      if o.value.toNat ≤ n ∧ n < min (o.value.toNat + (l.map BitVec.toNat).sum) o.bound.toNat then 1 else 0 := by
  induction l generalizing o with
  | nil =>
    rw [claimsOf, owners_nil, List.map_nil, List.sum_nil, if_neg (by omega)]
  | cons a l ih =>
    have hvalue := SyncObj.fetchAdd_work_value hty a
    have hend : min (min (o.value.toNat + a.toNat) o.bound.toNat + (l.map BitVec.toNat).sum) o.bound.toNat =
        min (o.value.toNat + ((a :: l).map BitVec.toNat).sum) o.bound.toNat := by
      rw [List.map_cons, List.sum_cons]; omega
    rw [claimsOf_cons_work hty hle, owners_cons, ih { o with value := (o.fetchAdd a).1 } hty (by simp only [hvalue]; omega)]
    simp only [hvalue, hend]
    exact owns_split (by omega) (by rw [← hend]; omega)

/-- A claimant that receives BOUND owns nothing. -/
theorem claimsOf_at_bound (o : SyncObj) (a : U64) (h : (o.fetchAdd a).2.toNat = o.bound.toNat) : ∀ c ∈ claimsOf o [a], ¬ c.1 < c.2 := by
  intro c hc
  rw [claimsOf, claimsOf, List.mem_singleton, h] at hc
  subst hc
  simp

/-! ### The claim that reaches BOUND -/

section
variable (s : State)

/-- The Recorder writes in the observation block alone. -/
theorem State.record_eq_setObs (jid : U64) (kind : Nat) (words : List Nat) (data : List Byte) :
    ∃ o, s.record jid kind words data = s.setObs o := by
  unfold State.record
  cases s.job? jid with
  | none => exact ⟨s.obs, rfl⟩
  | some j => exact ⟨_, rfl⟩

theorem State.noCredit_record (jid : U64) (kind : Nat) (words : List Nat) (data : List Byte) (x : Nat) (ps : List Nat) :
    (s.record jid kind words data).noCredit x ps = s.noCredit x ps := by
  obtain ⟨o, ho⟩ := s.record_eq_setObs jid kind words data
  rw [ho]; rfl

@[simp] theorem State.record_syncs (jid : U64) (kind : Nat) (words : List Nat) (data : List Byte) :
    (s.record jid kind words data).syncs = s.syncs := by
  obtain ⟨o, ho⟩ := s.record_eq_setObs jid kind words data
  rw [ho]; rfl

@[simp] theorem State.claimEnd_syncs (x : Nat) (c : Cmd) : (s.claimEnd x c).syncs = s.syncs :=
  State.claimEnd_keeps ((frees_syncs (· = s.syncs)).sub rfl) _ _ _ rfl

theorem State.claimEnd_ended (x : Nat) (c : Cmd) : ((s.claimEnd x c).unit x).claim.ended = true ∧ ((s.claimEnd x c).unit x).done = true := by
  rw [State.claimEnd, State.unit_updUnit, if_pos rfl]
  exact ⟨rfl, rfl⟩

end

/-- A unit between two claims, nothing of an iteration in flight, has a reply `n` at or above BOUND in hand, and the ports served at the end of
its claims are ready (R263). -/
structure State.ReachesBound (s : State) (x : Nat) (j : Job) (c : Cmd) (n : Nat) : Prop where
  commanded : Commanded s x j c
  claims : c.claimEn = true
  started : (s.unit x).started = true
  goesOn : (s.unit x).claim.ended = false
  reads : (s.unit x).reads = []
  served : (s.unit x).claim.hi ≤ (s.unit x).claim.cur
  idle : (s.unit x).prog = 0
  nonempty : (s.unit x).empty c = false
  ungated : s.clockGated x j c = false
  tokens : s.portsBlock x (claimEndIns c (s.unit x)) = none
  reply : (s.unit x).claim.next = some n
  bound : (s.sync c.claimSync.toNat).bound.toNat ≤ n
  live : s.replayed j.jid 4 [x, c.tag.toNat, c.claimSync.toNat] = none
  credits : s.noCredit x (((sortPorts c.outs).filter fun b => b.inline && decide (b.level < c.claimLevel)).map (·.port.val)) = none

/-- The reply that equals BOUND ends the claims of the command (R263). -/
theorem State.ReachesBound.exec_claim {s : State} {x : UnitId} {j : Job} {c : Cmd} {n : Nat} (h : s.ReachesBound x.addr j c n) :
    exec (.claim x) s = .next ((s.record j.jid 0x04 [x.addr, c.tag.toNat, c.claimSync.toNat, n] []).claimEnd x.addr c) := by
  rw [exec, execClaim, State.ran_unitRuns h.commanded]
  simp [h.claims, h.started, h.goesOn, h.reads, h.nonempty, h.ungated, h.reply, h.live, h.idle, h.tokens, State.noCredit_record, h.credits,
    Nat.not_lt.mpr h.served, h.bound]

end Sys2Proof.Machine

namespace Sys2Proof
open Machine

/-- Settles O13: the claims of a row of FETCH_ADDs by induction on the row, the claim that reaches BOUND by its meaning. -/
theorem claimsPartitionTheWork : Obligations.claims_partition_the_work := by
  refine ⟨owners_claimsOf, fun o a _ h => claimsOf_at_bound o a h, ?_⟩
  intro x j c n s h _ u hclaim hstarted hended hreads hover hprog hempty hgate hports hnext hbound hreplay hcredit
  have hreach : s.ReachesBound x.addr j c n :=
    ⟨h, hclaim, hstarted, hended, hreads, hover, hprog, hempty, hgate, hports, hnext, hbound, hreplay, hcredit⟩
  obtain ⟨hend, hdone⟩ := State.claimEnd_ended (s.record j.jid 0x04 [x.addr, c.tag.toNat, c.claimSync.toNat, n] []) x.addr c
  exact ⟨_, hreach.exec_claim, hend, hdone, by rw [State.claimEnd_syncs, State.record_syncs]⟩

end Sys2Proof
end

section
/-! PROOF. The firing rule (R39, R40, R45 to R47, R52, R263); O15. -/

namespace Sys2Proof.Machine

/-! ### The loop nest of a unit, and what leaves it -/

/-- Where a unit stands in its loop nest and its claims: what firing an iteration writes. -/
structure LoopSt where
  ctr : List U32
  bnd : List U32
  fired : List U32
  claim : ClaimSt
  done : Bool
  prog : Nat
  sigOwed : Bool

def UnitSt.loop (u : UnitSt) : LoopSt :=
  { ctr := u.ctr, bnd := u.bnd, fired := u.fired, claim := u.claim, done := u.done, prog := u.prog, sigOwed := u.sigOwed }

/-- A unit's loop nest stands at `l`; sync objects, device memory and ports are those of `s`. -/
def State.LoopAt (s : State) (x : Nat) (l : LoopSt) (t : State) : Prop :=
  (t.unit x).loop = l ∧ t.syncs = s.syncs ∧ t.mem = s.mem ∧ t.ports = s.ports

section
variable {s t : State} {x : Nat} {l : LoopSt}

theorem State.LoopAt.frees : Frees (s.LoopAt x l) 0x3FFFF7FFF6D :=
  Frees.and ((frees_unit x (·.loop = l)).sub rfl) (Frees.and ((frees_syncs (· = s.syncs)).sub rfl)
    (Frees.and ((frees_mem (· = s.mem)).sub rfl) ((frees_ports (· = s.ports)).sub rfl)))

theorem State.LoopAt.refl : s.LoopAt x (s.unit x).loop s := ⟨rfl, rfl, rfl, rfl⟩

theorem State.LoopAt.updUnit (h : s.LoopAt x l t) (y : Nat) {f : UnitSt → UnitSt} (hf : ∀ u, (f u).loop = u.loop) :
    s.LoopAt x l (t.updUnit y f) := by
  obtain ⟨hloop, hrest⟩ := h
  exact ⟨(State.updUnit_part UnitSt.loop t y x (hf _)).trans hloop, hrest⟩

theorem State.LoopAt.counted : Counted (s.LoopAt x l) := fun _ y _ _ h => h.updUnit y fun _ => rfl

theorem State.LoopAt.traceEv (h : s.LoopAt x l t) (d kind cls : Nat) (jid : U64) (unit : Nat) (tag : U32) (pl : List (Nat × Nat × Nat)) :
    s.LoopAt x l (t.traceEv d kind cls jid unit tag pl) :=
  State.traceEv_inv (State.LoopAt.frees.sub rfl) State.LoopAt.counted _ _ _ _ _ _ _ _ h

theorem State.LoopAt.setRun (h : s.LoopAt x l t) (y : Nat) : s.LoopAt x l (t.setRun y) :=
  State.setWait_inv (State.LoopAt.frees.sub rfl) State.LoopAt.counted _ _ _ fun n =>
    h.updUnit y (f := fun u => { u with wait := _, waitAt := n }) fun _ => rfl

theorem State.LoopAt.popPorts (h : s.LoopAt x l t) (y : Nat) (ps : List PortBind) : s.LoopAt x l (t.popPorts y ps).1 := by
  induction ps generalizing t with
  | nil => exact h
  | cons b ps ih =>
    unfold State.popPorts
    split
    · exact ih h
    · exact ih ((State.popQueue_keeps (State.LoopAt.frees.sub rfl) _ _ h).updUnit y fun _ => rfl)

theorem State.LoopAt.spend (h : s.LoopAt x l t) (y port : Nat) : s.LoopAt x l (t.spend y port) :=
  h.updUnit y (f := fun u => { u with ocredit := modAt u.ocredit port _ }) fun _ => rfl

theorem State.LoopAt.owe (h : s.LoopAt x l t) (y : Nat) (ps : List Nat) : s.LoopAt x l (t.owe y ps) := by
  induction ps generalizing t with
  | nil => exact h
  | cons p ps ih => exact ih ((h.spend y p).updUnit y fun _ => rfl)

theorem State.LoopAt.pushOwed (h : s.LoopAt x l t) (y : Nat) (ps : List Nat) : s.LoopAt x l (t.pushOwed y ps) := by
  induction ps generalizing t with
  | nil => exact h.updUnit y fun _ => rfl
  | cons p ps ih =>
    exact ih (State.tickFresh_keeps (State.LoopAt.frees.sub rfl) _ _ (State.pushToken_keeps (State.LoopAt.frees.sub rfl) _ _ _ _ _ _ _ _ h))

end

/-! ### The counters after an iteration -/

/-- A unit after its iteration has fired, its work begun. -/
def UnitSt.stepped (u : UnitSt) (c : Cmd) : UnitSt := { (u.advance c).1 with prog := 1, sigOwed := (u.advance c).2 }

section
variable (u : UnitSt) {c : Cmd}

/-- Without claims every level steps (R39). -/
theorem UnitSt.stepped_plain (hc : c.claimEn = false) : (u.stepped c).loop =
    { u.loop with ctr := (stepCtr u.bnd 6 u.ctr).1, fired := u.ctr, done := (stepCtr u.bnd 6 u.ctr).2, prog := 1, sigOwed := false } := by
  simp [UnitSt.stepped, UnitSt.advance, UnitSt.loop, hc]

/-- The iteration that fired is the one the counters stood at. -/
theorem UnitSt.stepped_fired (c : Cmd) : (u.stepped c).fired = u.ctr := by
  unfold UnitSt.stepped UnitSt.advance UnitSt.nextClaim
  dsimp only
  split
  · split <;> rfl
  · rfl

/-- In a claim the levels inside the claim's step; when all have wrapped the claim is over (R263). -/
theorem UnitSt.stepped_claim (hc : c.claimEn = true) :
    (u.stepped c).loop.done = u.done ∧ (u.stepped c).loop.sigOwed = (stepInner u.bnd c.claimLevel 6 u.ctr).2 ∧
      (u.stepped c).loop.claim.cur = u.claim.cur + b2n (stepInner u.bnd c.claimLevel 6 u.ctr).2 := by
  cases hr : (stepInner u.bnd c.claimLevel 6 u.ctr).2 <;>
    simp [UnitSt.stepped, UnitSt.advance, UnitSt.loop, UnitSt.nextClaim, hc, hr, b2n]

/-- The step depends on where the loop nest stands. -/
theorem UnitSt.stepped_loop_congr {u v : UnitSt} (h : u.loop = v.loop) (c : Cmd) : (u.stepped c).loop = (v.stepped c).loop := by
  simp only [UnitSt.loop, LoopSt.mk.injEq] at h
  obtain ⟨hctr, hbnd, hfired, hclaim, hdone, hprog, howed⟩ := h
  unfold UnitSt.stepped UnitSt.advance UnitSt.nextClaim UnitSt.loop
  simp only [hctr, hbnd, hclaim, hdone]
  split
  · split <;> rfl
  · rfl

end

/-! ### Firing -/

section
variable {s t : State} {x : Nat} {j : Job} {c : Cmd}

/-- Work without a SIGNAL to send is done: no more of it is in flight (R40). -/
theorem State.LoopAt.workDone {l : LoopSt} (h : s.LoopAt x l t) (howed : l.sigOwed = false) :
    s.LoopAt x { l with prog := 0, sigOwed := false } (t.workDone x) := by
  have ⟨hloop, _⟩ := h
  have hsig : (t.unit x).sigOwed = false := (congrArg LoopSt.sigOwed hloop).trans howed
  let s0 := (t.pushOwed x (t.unit x).owed).updUnit x fun u => { u.endTile with prog := 0, sigOwed := false }
  have hdone : s.LoopAt x { l with prog := 0, sigOwed := false } s0 := by
    obtain ⟨hpushed, hrest⟩ := h.pushOwed x (t.unit x).owed
    refine ⟨?_, hrest⟩
    rw [State.unit_updUnit, if_pos rfl, ← hpushed]
    rfl
  have hcleared : s.LoopAt x { l with prog := 0, sigOwed := false } (if 4 ≤ x % 16 ∧ x % 16 < 8 then s0.setVx x .reset else s0) := by
    split
    · exact State.setVx_keeps (State.LoopAt.frees.sub rfl) _ _ _ hdone
    · exact hdone
  unfold State.workDone
  dsimp only
  split
  · rw [hsig]; exact hcleared
  · exact hcleared

/-- The loop nest after a firing: stepped, and with no work left to do where the unit has no datapath. -/
def UnitSt.afterFire (u : UnitSt) (c : Cmd) : LoopSt := { (u.stepped c).loop with prog := b2n c.worked }

theorem UnitSt.afterFire_worked (u : UnitSt) (hc : c.worked = true) : u.afterFire c = (u.stepped c).loop := by
  rw [UnitSt.afterFire, hc]; rfl

theorem UnitSt.afterFire_unworked (u : UnitSt) (hc : c.worked = false) (hclaim : c.claimEn = false) :
    u.afterFire c = { (u.stepped c).loop with prog := 0, sigOwed := false } := by
  rw [UnitSt.afterFire, hc, UnitSt.stepped_plain u hclaim]; rfl

/-- After the pops: the credits are spent, the counters step, and a unit without a datapath is done with its work (R39, R40). -/
theorem State.LoopAt.fired (h : s.LoopAt x (s.unit x).loop t) (hwork : c.claimEn = true → c.worked = true) (u : UnitSt) :
    s.LoopAt x ((s.unit x).afterFire c) (t.fired x j c u) := by
  let ports := ((sortPorts c.outs).filter fun b => b.inline && innerLast c u b.level).map (·.port.val)
  let s1 := t.owe x ports
  let s2 := (s1.setUnit x ((s1.unit x).stepped c)).updJob j.jid fun j => { j with progress := true }
  let s3 := if c.worked then s2 else s2.workDone x
  have h2 : s.LoopAt x ((s.unit x).stepped c).loop s2 := by
    obtain ⟨hloop, hrest⟩ := h.owe x ports
    refine State.updJob_keeps (State.LoopAt.frees.sub rfl) _ _ _ ⟨?_, hrest⟩
    rw [State.unit_setUnit_self, UnitSt.stepped_loop_congr hloop]
  have h3 : s.LoopAt x ((s.unit x).afterFire c) s3 := by
    cases hw : c.worked with
    | true => simpa [s3, hw, UnitSt.afterFire_worked _ hw] using h2
    | false =>
      have hclaim : c.claimEn = false := Bool.eq_false_iff.mpr fun hc => by rw [hwork hc] at hw; cases hw
      have hdone := h2.workDone (by rw [UnitSt.stepped_plain _ hclaim])
      simpa [s3, hw, UnitSt.afterFire_unworked _ hw hclaim] using hdone
  change s.LoopAt x ((s.unit x).afterFire c) (if (s3.unit x).job.isSome then s3.setRun x else s3)
  split
  · exact h3.setRun x
  · exact h3

end

/-! ### The tokens popped (R52) -/

theorem State.headTok_congr {s t : State} (h : t.queues = s.queues) (x port : Nat) : t.headTok x port = s.headTok x port := by
  unfold State.headTok State.inQueue State.queue
  rw [h]

theorem State.popQueue_congr {s t : State} (h : t.queues = s.queues) (k : Nat) : (t.popQueue k).queues = (s.popQueue k).queues := by
  simp only [State.popQueue, State.setQueue_queues, State.queue, h]

theorem State.popPorts_tokens_congr {s t : State} (h : t.queues = s.queues) (x : Nat) (ps : List PortBind) :
    (t.popPorts x ps).2 = (s.popPorts x ps).2 := by
  induction ps generalizing s t with
  | nil => rfl
  | cons b ps ih =>
    unfold State.popPorts
    rw [State.headTok_congr h]
    split
    · exact ih h
    · next k tok _ => exact congrArg (tok :: ·) (ih (State.popQueue_congr h k))

/-- A firing before its pops: what it counts and traces of the marks it passes (R99, R540). -/
def State.gatesPassed (s : State) (x : Nat) (j : Job) (c : Cmd) : State :=
  let late := lateness j c (s.unit x) s.gt
  let s1 := s.updUnit x fun u => { u with markLate := satAdd u.markLate late.1, gated := u.gated ++ late.2, passed := u.passed ++ late.2, satisfied := [] }
  late.2.foldl (fun (t : State) m => t.traceEv (x / 16) 0x04 2 j.jid x c.tag [(16, 2, m.toNat), (20, 4, t.gt - (gateGt j (s.unit x) m).getD t.gt)])
    (if late.1 = 0 then s1 else s1.updJob j.jid Job.markLate)

section
variable {s : State} {x : Nat} {j : Job} {c : Cmd}

theorem State.LoopAt.gatesPassed : s.LoopAt x (s.unit x).loop (s.gatesPassed x j c) := by
  refine Keep.foldl (fun _ _ h => h.traceEv _ _ _ _ _ _ _) ?_
  have hunit (f : UnitSt → UnitSt) (hf : ∀ u, (f u).loop = u.loop) : s.LoopAt x (s.unit x).loop (s.updUnit x f) := State.LoopAt.refl.updUnit x hf
  split
  · exact hunit _ fun _ => rfl
  · exact State.updJob_keeps (State.LoopAt.frees.sub rfl) _ _ _ (hunit _ fun _ => rfl)

theorem State.gatesPassed_queues : (s.gatesPassed x j c).queues = s.queues := by
  refine Keep.foldl (P := fun t => t.queues = s.queues) (fun _ _ h => State.traceEv_keeps ((frees_queues (· = s.queues)).sub rfl) _ _ _ _ _ _ _ _ h) ?_
  split <;> rfl

/-- Tokens of one tag: after the pops the iteration fires. -/
theorem State.fire_of_one_tag {g : BitVec 12}
    (htag : ∀ k ∈ (s.popPorts x ((sortPorts c.ins).filter fun b => innerZero c (s.unit x) b.level)).2, k.tag = g) :
    s.fire x j c =
      ((s.gatesPassed x j c).popPorts x ((sortPorts c.ins).filter fun b => innerZero c (s.unit x) b.level)).1.fired x j c (s.unit x) := by
  rw [← State.popPorts_tokens_congr (s.gatesPassed_queues (j := j) (c := c))] at htag
  unfold State.fire
  dsimp only
  split
  · next a b l hp =>
    have hone : ∀ k ∈ a :: b :: l, k.tag = g := fun k hk => htag k (hp ▸ hk)
    rw [if_pos]
    · rfl
    · rw [List.all_eq_true]
      intro k hk
      simp [hone k (List.mem_cons_of_mem _ hk), hone a List.mem_cons_self]
  · rfl

end

/-! ### The command -/

/-- A unit stands at an iteration of its command: the command has begun, its bounds are read, no work is in flight. -/
structure State.AtIteration (s : State) (x : Nat) (j : Job) (c : Cmd) : Prop where
  commanded : Commanded s x j c
  started : (s.unit x).started = true
  goesOn : (s.unit x).done = false
  reads : (s.unit x).reads = []
  idle : (s.unit x).prog = 0

/-- What an iteration does about what stops it (R42, R47, R73). -/
def State.meetBlock (s : State) (x : Nat) (j : Job) : Block → State
  | .wait w => s.setWait x w
  | .stale k => s.discardHead x k
  | .underrun => s.jobFault j.jid 0x10 3 x false 0 0
  | .notData => s

/-- The envelope's maps are there, or there is no envelope (R254). -/
theorem UnitSt.mapped_of_or {u : UnitSt} {c : Cmd} (h : c.envelope = [] ∨ u.effMap ≠ []) : (!c.envelope.isEmpty && u.effMap.isEmpty) = false := by
  rcases h with h | h <;> simp [h]

/-- A claim is in hand, or the command claims nothing (R263). -/
theorem UnitSt.claimed_of_imp {u : UnitSt} {c : Cmd} (h : c.claimEn = true → u.claim.cur < u.claim.hi) :
    (c.claimEn && decide (u.claim.hi ≤ u.claim.cur)) = false := by
  cases hc : c.claimEn with
  | false => rfl
  | true => simpa using h hc

section
variable {s : State} {x : UnitId} {j : Job} {c : Cmd} (h : s.AtIteration x.addr j c)
include h

/-- The envelope's maps are read before the first iteration (R254). -/
theorem State.AtIteration.exec_unmapped (henv : c.envelope ≠ []) (hmap : (s.unit x.addr).effMap = []) :
    exec (.iterationFire x) s = .next (s.readMaps x.addr j c) := by
  rw [exec, execIterationFire, State.ran_unitRuns h.commanded]
  simp [h.started, h.goesOn, h.reads, h.idle, henv, hmap]

variable (hmap : c.envelope = [] ∨ (s.unit x.addr).effMap ≠ [])
include hmap

/-- A bound of 0: no iterations (R45). -/
theorem State.AtIteration.exec_empty (hempty : (s.unit x.addr).empty c = true) :
    exec (.iterationFire x) s = .next (s.setUnit x.addr { s.unit x.addr with done := true }) := by
  rw [exec, execIterationFire, State.ran_unitRuns h.commanded]
  simp [h.started, h.goesOn, h.reads, h.idle, UnitSt.mapped_of_or hmap, hempty, State.updUnit]

variable (hempty : (s.unit x.addr).empty c = false)
include hempty

/-- A command that claims waits for its next claim (R263). -/
theorem State.AtIteration.exec_unclaimed (hclaim : c.claimEn = true) (hover : (s.unit x.addr).claim.hi ≤ (s.unit x.addr).claim.cur) :
    exec (.iterationFire x) s = .next s := by
  rw [exec, execIterationFire, State.ran_unitRuns h.commanded]
  simp [h.started, h.goesOn, h.reads, h.idle, UnitSt.mapped_of_or hmap, hempty, hclaim, hover]

variable (hclaim : c.claimEn = true → (s.unit x.addr).claim.cur < (s.unit x.addr).claim.hi)
include hclaim

/-- A claim with a bound of 0 is finished at once (R263). -/
theorem State.AtIteration.exec_emptyClaim (hec : (s.unit x.addr).emptyClaim c = true) :
    exec (.iterationFire x) s = .next ((s.setUnit x.addr ((s.unit x.addr).nextClaim c)).doSignal x.addr c.doneSync 1) := by
  rw [exec, execIterationFire, State.ran_unitRuns h.commanded]
  simp [h.started, h.goesOn, h.reads, h.idle, UnitSt.mapped_of_or hmap, hempty, UnitSt.claimed_of_imp hclaim, hec, State.skipClaim, State.updUnit]

variable (hec : (s.unit x.addr).emptyClaim c = false)
include hec

/-- Something is missing or in the way (R42, R47, R73). -/
theorem State.AtIteration.exec_blocked {b : Block} (hb : s.fireBlock x.addr j c = some b) :
    exec (.iterationFire x) s = .next (s.meetBlock x.addr j b) := by
  rw [exec, execIterationFire, State.ran_unitRuns h.commanded]
  cases b <;>
    simp [h.started, h.goesOn, h.reads, h.idle, UnitSt.mapped_of_or hmap, hempty, UnitSt.claimed_of_imp hclaim, hec, hb, State.meetBlock]

theorem State.AtIteration.exec_fire (hb : s.fireBlock x.addr j c = none) : exec (.iterationFire x) s = .next (s.fire x.addr j c) := by
  rw [exec, execIterationFire, State.ran_unitRuns h.commanded]
  simp [h.started, h.goesOn, h.reads, h.idle, UnitSt.mapped_of_or hmap, hempty, UnitSt.claimed_of_imp hclaim, hec, hb]

end
end Sys2Proof.Machine

namespace Sys2Proof
open Machine

/-- Settles O15: one lemma for each branch of the firing rule. -/
theorem iterationFires : Obligations.iteration_fires := by
  intro x j c g s hcom u hstarted hdone hreads hprog
  have h : s.AtIteration x.addr j c := ⟨hcom, hstarted, hdone, hreads, hprog⟩
  refine ⟨h.exec_unmapped, fun hmap => h.exec_empty hmap, fun hmap hempty => h.exec_unclaimed hmap hempty,
    fun hmap hempty hclaim => h.exec_emptyClaim hmap hempty hclaim, fun hmap hempty hclaim hec => ⟨fun hb hwork htag => ?_, fun w hb => ?_,
      fun k hb => h.exec_blocked hmap hempty hclaim hec hb, fun hb => h.exec_blocked hmap hempty hclaim hec hb,
      fun hb => h.exec_blocked hmap hempty hclaim hec hb⟩⟩
  · obtain ⟨hloop, hsyncs, hmem, hports⟩ := ((State.LoopAt.gatesPassed (j := j) (c := c)).popPorts x.addr _).fired (j := j) hwork u
    refine ⟨_, (h.exec_fire hmap hempty hclaim hec hb).trans (congrArg _ (State.fire_of_one_tag htag)), ?_, congrArg LoopSt.prog hloop, hsyncs,
      hmem, hports, fun hc => ?_, fun hc => ?_⟩
    · exact (congrArg LoopSt.fired hloop).trans (UnitSt.stepped_fired u c)
    · rw [UnitSt.afterFire, UnitSt.stepped_plain u hc] at hloop
      exact ⟨congrArg LoopSt.ctr hloop, congrArg LoopSt.done hloop⟩
    · obtain ⟨hd, ho, hcur⟩ := UnitSt.stepped_claim u hc
      exact ⟨(congrArg LoopSt.done hloop).trans (hd.trans hdone), (congrArg LoopSt.sigOwed hloop).trans ho,
        (congrArg (fun l => l.claim.cur) hloop).trans hcur⟩
  · refine ⟨_, h.exec_blocked hmap hempty hclaim hec hb, State.setWait_wait _ _ _, State.setWait_part _ _ UnitSt.ctr (fun _ _ _ => rfl) (fun _ _ _ => rfl) _ _,
      State.setWait_part _ _ UnitSt.ocredit (fun _ _ _ => rfl) (fun _ _ _ => rfl) _ _, State.setWait_queues _ _ _, State.setWait_syncs _ _ _,
      State.setWait_mem _ _ _⟩

end Sys2Proof
end

section
/-! PROOF. The start of a job (R63, R298, R418, R420, R421, R435); O47. -/

namespace Sys2Proof.Machine

/-! ### The job itself -/

theorem frees_job (k : U64) (Q : Option Job → Prop) : Frees (fun t => Q (t.job? k)) 0x3FFFFDFFFFF :=
  frees_jobs fun l => Q (l.find? fun j => j.jid == k && j.phase != .ended)

/-- A live job put in the place of the one found. -/
theorem State.job?_updJob_const {s : State} {i j : Job} (hi : s.job? j.jid = some i) (hj : j.phase ≠ .ended) :
    (s.updJob j.jid fun _ => j).job? j.jid = some j := by
  let live (k : Job) : Bool := k.jid == j.jid && k.phase != .ended
  let put (k : Job) : Job := if live k then j else k
  have hput : (live ∘ put) = live := by
    funext k
    cases hk : live k <;> simp [put, hk]
    simpa [live] using hj
  have hlive : live i = true := List.find?_some hi
  have hfind : s.jobs.find? live = some i := hi
  change (s.jobs.map put).find? live = some j
  rw [List.find?_map, hput, hfind]
  simp [put, hlive]

/-! ### The units of the job -/

section
variable (s : State) (y : Nat)

/-- A loaded unit belongs to its job; the others belong to whom they did. -/
theorem State.loadUnit_job (jid : U64) (p : UnitProg) (fresh : Bool) (period : Nat) :
    ((s.loadUnit jid p fresh period).unit y).job = if y = p.x.addr then some jid else (s.unit y).job := by
  have hrecipe (t : State) : ((if 4 ≤ p.x.addr % 16 ∧ p.x.addr % 16 < 8 then t.setRecipe p.x.addr p.recipe else t).unit y).job = (t.unit y).job := by
    split <;> rfl
  unfold State.loadUnit
  dsimp only
  rw [hrecipe, State.setRun_part _ _ UnitSt.job (fun _ _ _ => rfl) fun _ _ _ => rfl, State.unit_congr (State.setDec_units _ _ _),
    State.unit_congr (State.setVx_units _ _ _), State.unit_congr (State.setWatch_units _ _ _), State.unit_setUnit]
  split
  · split <;> rfl
  · rfl

theorem State.loadUnits_job_of_mem {jid : U64} {fresh : Bool} {period : Nat} {ps : List UnitProg}
    (h : (s.unit y).job = some jid ∨ ∃ p ∈ ps, y = p.x.addr) : ((s.loadUnits jid fresh period ps).unit y).job = some jid := by
  induction ps generalizing s with
  | nil =>
    obtain h | ⟨p, hp, -⟩ := h
    · exact h
    · cases hp
  | cons p ps ih =>
    refine ih _ ?_
    rw [State.loadUnit_job]
    simp only [List.mem_cons, exists_eq_or_imp] at h
    by_cases hy : y = p.x.addr
    · exact .inl (if_pos hy)
    · rw [if_neg hy]; tauto

theorem State.configure_job (k : Nat) (v : U64) : ((s.configure k v).unit y).job = (s.unit y).job := by
  unfold State.configure
  dsimp only
  split
  · exact State.updUnit_part UnitSt.job _ _ _ rfl
  · rfl

theorem State.loadQueues_job (qs : List QDecl) : ((s.loadQueues qs).unit y).job = (s.unit y).job := by
  induction qs generalizing s with
  | nil => rfl
  | cons q qs ih => exact (ih _).trans (State.configure_job _ _ _ _)

end

/-! ### The sync objects of the job -/

/-- An object is armed for a context (R62, R63). -/
def SyncObj.armedFor (o : SyncObj) (ctx : Fin 32) : Prop := o.armed = true ∧ o.ctx.toNat = ctx.val

theorem State.armSyncs_armed_of_mem (s : State) (ctx : Fin 32) (i : Nat) {ds : List SyncDecl}
    (h : (s.sync i).armedFor ctx ∨ ∃ d ∈ ds, i = d.sid.toNat) : ((s.armSyncs ctx.val ds).sync i).armedFor ctx := by
  induction ds generalizing s with
  | nil =>
    obtain h | ⟨d, hd, -⟩ := h
    · exact h
    · cases hd
  | cons d ds ih =>
    refine ih _ ?_
    rw [State.sync_setSync]
    simp only [List.mem_cons, exists_eq_or_imp] at h
    by_cases hi : i = d.sid.toNat
    · rw [if_pos hi]
      exact .inl ⟨rfl, by simp⟩
    · rw [if_neg hi]; tauto

/-! ### A job that runs -/

/-- A job is on the module as it stands in `j`: its units hold its commands, its objects are armed (R63). -/
def State.Holds (t : State) (j : Job) : Prop :=
  t.job? j.jid = some j ∧ (∀ p ∈ j.bin.units, (t.unit p.x.addr).job = some j.jid) ∧ ∀ d ∈ j.bin.syncs, (t.sync d.sid.toNat).armedFor j.ctx

/-- The job at the start of period π′, the exchange as it was (R366, R435). -/
def Job.late (j : Job) : Job := { (j.newPeriod j.rejoin) with cause := 0, x := j.x }

/-- What is done to a job's bank, objects, units, queues and marks at its start. -/
def State.begun (s : State) (j : Job) : State :=
  ((((((((s.updJob j.jid fun _ => j).armSyncs j.ctx.val j.bin.syncs).loadUnits j.jid true 0 j.bin.units).loadQueues j.bin.queues).addMarks j 0).addMarks
    j 1).addFixedMarks j).recordInitial j j.bin.report.initial)

theorem frees_owned (j : Job) : Frees (fun t => ∀ p ∈ j.bin.units, (t.unit p.x.addr).job = some j.jid) 0x3FFFFFFFFEF :=
  frees_units fun l => ∀ p ∈ j.bin.units, (tabGet .reset l p.x.addr : UnitSt).job = some j.jid

theorem frees_armed (j : Job) : Frees (fun t => ∀ d ∈ j.bin.syncs, (t.sync d.sid.toNat).armedFor j.ctx) 0x3FFFFFFFF7F :=
  frees_syncs fun l => ∀ d ∈ j.bin.syncs, (tabGet .reset l d.sid.toNat : SyncObj).armedFor j.ctx

section
variable {s t : State} {i j : Job}

/-- What writes no job, unit or object leaves a job as it is. -/
theorem State.Holds.frees : Frees (State.Holds · j) 0x3FFFFDFFF6F :=
  Frees.and ((frees_job j.jid (· = some j)).sub rfl) (Frees.and ((frees_owned j).sub rfl) ((frees_armed j).sub rfl))

theorem State.Holds.loadQueues (h : t.Holds j) (qs : List QDecl) : (t.loadQueues qs).Holds j := by
  obtain ⟨hjob, hunits, hsyncs⟩ := h
  refine ⟨State.loadQueues_keeps ((frees_job j.jid (· = some j)).sub rfl) _ _ hjob, fun p hp => (State.loadQueues_job _ _ _).trans (hunits p hp), ?_⟩
  exact State.loadQueues_keeps ((frees_armed j).sub rfl) _ _ hsyncs

/-- The job in its running form, its objects armed, its units loaded; queues, marks and records leave that. -/
theorem State.holds_begun (hi : s.job? j.jid = some i) (hj : j.phase ≠ .ended) : (s.begun j).Holds j := by
  let s1 := s.updJob j.jid fun _ => j
  let s2 := s1.armSyncs j.ctx.val j.bin.syncs
  let s3 := s2.loadUnits j.jid true 0 j.bin.units
  have hjob : s3.job? j.jid = some j :=
    State.loadUnits_keeps ((frees_job j.jid (· = some j)).sub rfl) _ _ _ _ _
      (State.armSyncs_keeps ((frees_job j.jid (· = some j)).sub rfl) _ _ _ (State.job?_updJob_const hi hj))
  have harmed : ∀ d ∈ j.bin.syncs, (s2.sync d.sid.toNat).armedFor j.ctx := fun d hd => State.armSyncs_armed_of_mem _ _ _ (.inr ⟨d, hd, rfl⟩)
  have hsyncs : ∀ d ∈ j.bin.syncs, (s3.sync d.sid.toNat).armedFor j.ctx :=
    State.loadUnits_keeps ((frees_armed j).sub rfl) _ _ _ _ _ harmed
  have hunits : ∀ p ∈ j.bin.units, (s3.unit p.x.addr).job = some j.jid := fun p hp => State.loadUnits_job_of_mem _ _ (.inr ⟨p, hp, rfl⟩)
  have h3 : s3.Holds j := ⟨hjob, hunits, hsyncs⟩
  have hmarks : (((s3.loadQueues j.bin.queues).addMarks j 0).addMarks j 1).Holds j :=
    State.addMarks_keeps (State.Holds.frees.sub rfl) _ _ _ (State.addMarks_keeps (State.Holds.frees.sub rfl) _ _ _ (h3.loadQueues _))
  exact State.recordInitial_keeps (State.Holds.frees.sub rfl) _ _ _ (State.addFixedMarks_keeps (State.Holds.frees.sub rfl) _ _ hmarks)

/-- A job resumed late holds what it held, in its period (R435). -/
theorem State.Holds.startLate (h : t.Holds j) (hj : j.phase ≠ .ended) : (t.startLate j).Holds j.late := by
  let s1 : State := { t with marks := t.marks.filter fun m => !(m.jid == j.jid && m.decl.step) }
  let s2 := s1.repeatRecords j j.cause 0 j.rejoin
  have h2 : s2.Holds j := State.repeatRecords_keeps (State.Holds.frees.sub rfl) _ _ _ _ _ (State.Holds.frees.free 9 rfl t _ h)
  obtain ⟨hjob, hunits, hsyncs⟩ := h2
  have h3 : (s2.updJob j.jid fun _ => j.late).Holds j.late := ⟨State.job?_updJob_const (j := j.late) hjob hj, hunits, hsyncs⟩
  exact State.addMarks_keeps (State.Holds.frees.sub rfl) _ _ _ (State.addMarks_keeps (State.Holds.frees.sub rfl) _ _ _ h3)

end

/-! ### Where a start comes to -/

/-- The running job that a start makes. -/
def Job.running (j : Job) (base endBeat : Nat) (lent bank : Bool) : Job :=
  { j with base := base, endBeat := endBeat, lent := lent, phase := .running, active := bank }

/-- Who reads the labels of a job's banks. -/
def labelWho (j : Job) : Who := { unit := 30, isDie := true, ctx := j.ctx.val, jid := j.jid, lockedOnly := j.guaranteed }

/-- The label of a bank that neither holds is written before the start (R298). -/
def State.labelled (s : State) (j : Job) (fresh : Bool) : State :=
  if fresh then s.storeQuiet j.ctx.val (updLabel j.header false) (labelBytes 0 3 j.jid (gtWord s.gt).toNat 0) else s

section
variable {s : State} {j : Job} (hjob : s.job? j.jid = some j) (base endBeat : Nat) (lent : Bool)

/-- A job without an update set starts from no bank. -/
theorem State.startJob_plain (hup : j.bin.update = none) : s.startJob j base endBeat lent = s.begun (j.running base endBeat lent false) := by
  unfold State.startJob
  dsimp only
  rw [if_pos (by rw [hup]; rfl)]
  rfl

/-- A training job starts from the bank picked by the labels (R298). -/
theorem State.startJob_training {a b : Nat × Nat} {bank fresh : Bool} (hup : j.bin.update ≠ none) (ha : s.labelOf (labelWho j) j false = .ok a)
    (hb : s.labelOf (labelWho j) j true = .ok b) (hpick : pickBank (dStart j.desc).toNat a b = some (bank, fresh)) :
    s.startJob j base endBeat lent = ((s.labelled j fresh).begun (j.running base endBeat lent bank)).accessed 30 := by
  have hsome : ¬ j.bin.update.isNone = true := by simpa using hup
  have ha' : s.labelOf { unit := 30, isDie := true, ctx := j.ctx.val, jid := j.jid, lockedOnly := j.guaranteed } j false = .ok a := ha
  have hb' : s.labelOf { unit := 30, isDie := true, ctx := j.ctx.val, jid := j.jid, lockedOnly := j.guaranteed } j true = .ok b := hb
  unfold State.startJob
  dsimp only
  rw [if_neg hsome, ha', hb']
  simp only [Acc.bind, Acc.map, State.on, hpick]
  rfl

include hjob

theorem State.holds_startJob_plain (hup : j.bin.update = none) :
    (s.startJob j base endBeat lent).Holds (j.running base endBeat lent false) := by
  rw [State.startJob_plain base endBeat lent hup]
  exact State.holds_begun hjob (by simp [Job.running])

theorem State.holds_startJob_training {a b : Nat × Nat} {bank fresh : Bool} (hup : j.bin.update ≠ none)
    (ha : s.labelOf (labelWho j) j false = .ok a) (hb : s.labelOf (labelWho j) j true = .ok b)
    (hpick : pickBank (dStart j.desc).toNat a b = some (bank, fresh)) :
    (s.startJob j base endBeat lent).Holds (j.running base endBeat lent bank) := by
  have hlabel : (s.labelled j fresh).job? j.jid = some j := by
    unfold State.labelled
    split
    · exact State.storeQuiet_keeps ((frees_job j.jid (· = some j)).sub rfl) _ _ _ _ hjob
    · exact hjob
  rw [State.startJob_training base endBeat lent hup ha hb hpick]
  exact State.accessed_keeps (State.Holds.frees.sub rfl) _ _ (State.holds_begun hlabel (by simp [Job.running]))

end

/-! ### The commands -/

/-- An admitted job's start is due: at a boundary from its base on, below L3 (R418). -/
structure State.StartDue (s : State) (j : Job) : Prop where
  on : s.pwr.on = true
  live : s.job? j.jid = some j
  admitted : j.phase = .admitted
  boundary : s.time.phase = 0
  base : j.base ≤ s.time.beat
  level : s.pwr.eff < 3

section
variable {s : State} {j : Job} (h : s.StartDue j)
include h

theorem State.StartDue.exec_once (hcross : j.cross = false ∨ j.rejoin = 0) :
    exec (.jobStart j.jid) s = .next (s.startJob j j.base j.endBeat false) := by
  have hnot : ¬ (j.cross && j.rejoin != 0) = true := by
    rcases hcross with hc | hc <;> simp [hc]
  rw [exec, execJobStart, s.ran_on _ h.on, s.withJob_some _ _ j h.live, if_pos ⟨h.admitted, h.boundary, h.base, h.level⟩]
  dsimp only
  rw [if_neg hnot]

/-- A job preempted before it started goes on in the period of its rejoining (R435). -/
theorem State.StartDue.exec_late (hup : j.bin.update = none) (hcross : j.cross = true) (hrejoin : j.rejoin ≠ 0) :
    exec (.jobStart j.jid) s =
      .next ((s.startJob j j.base j.endBeat false).startLate (j.running j.base j.endBeat false false)) := by
  have hlate : (j.cross && j.rejoin != 0) = true := by simp [hcross, hrejoin]
  obtain ⟨hrun, -⟩ := State.holds_startJob_plain h.live j.base j.endBeat false hup
  rw [exec, execJobStart, s.ran_on _ h.on, s.withJob_some _ _ j h.live, if_pos ⟨h.admitted, h.boundary, h.base, h.level⟩]
  dsimp only
  rw [if_pos hlate, State.withJob_some _ j.jid _ _ hrun]
  rfl

end

theorem exec_jobStart_not_due {s : State} {j : Job} (hon : s.pwr.on = true) (hjob : s.job? j.jid = some j)
    (h : j.phase ≠ .admitted ∨ s.time.phase ≠ 0 ∨ s.time.beat < j.base ∨ 3 ≤ s.pwr.eff) : exec (.jobStart j.jid) s = .next s := by
  rw [exec, execJobStart, s.ran_on _ hon, s.withJob_some _ _ j hjob, if_neg]
  rintro ⟨hadm, hphase, hbase, hlevel⟩
  rcases h with h | h | h | h
  · exact h hadm
  · exact h hphase
  · omega
  · omega

/-- A lent job's turn has come, and it fits in lendable time (R420, R421). -/
structure State.LentDue (s : State) (j : Job) : Prop where
  on : s.pwr.on = true
  live : s.job? j.jid = some j
  boundary : s.time.phase = 0
  free : s.lentNow = none
  level : s.pwr.eff < 3
  first : s.lentQueue.head? = some j
  fits : s.mayLend j = true

/-- A parked job to be restored, its times moved by the beats it stood still (R421). -/
def Job.moved (j : Job) (beats : Nat) : Job :=
  { j with phase := .resuming, rejoin := beats, base := j.base + beats, endBeat := j.endBeat + beats, lent := true }

section
variable {s : State} {j : Job} (h : s.LentDue j)
include h

theorem State.LentDue.exec_waiting (hph : j.phase = .waiting) :
    exec (.lentJobStart j.jid) s = .next (s.startJob j s.time.beat (s.time.beat + j.bin.report.reserveBeats) true) := by
  rw [exec, execLentJobStart, s.ran_on _ h.on]
  simp [h.boundary, h.free, Nat.not_le.mpr h.level, h.first, h.fits, hph]

theorem State.LentDue.exec_parked (hph : j.phase = .parked) :
    exec (.lentJobStart j.jid) s = .next (s.updJob j.jid (·.moved (s.time.beat + saveBeats j.bin - j.saveAt))) := by
  rw [exec, execLentJobStart, s.ran_on _ h.on]
  simp [h.boundary, h.free, Nat.not_le.mpr h.level, h.first, h.fits, hph, Job.moved]

end

theorem exec_lentJobStart_not_due {s : State} {jid : U64} (hon : s.pwr.on = true)
    (h : s.lentNow.isSome = true ∨ ∃ k, s.lentQueue.head? = some k ∧ (k.jid ≠ jid ∨ s.mayLend k = false)) :
    exec (.lentJobStart jid) s = .next s := by
  rw [exec, execLentJobStart, s.ran_on _ hon]
  rcases h with h | ⟨k, hfirst, hk⟩
  · simp [h]
  · have hturn : (k.jid != jid || !s.mayLend k) = true := by simpa using hk
    simp [hfirst, hturn]

end Sys2Proof.Machine

namespace Sys2Proof
open Machine

/-- Settles O47: what a start leaves on the module holds through its marks, queues and records. -/
theorem jobStart : Obligations.job_start := by
  intro jid s j hon hjob
  obtain ⟨-, hid, -⟩ := s.job?_some jid j hjob
  subst hid
  refine ⟨fun hph h0 hb hl hup hcross => ?_, fun hph h0 hb hl hup hcross hrejoin => ?_, fun a b bank fresh hph h0 hb hl hup hcross la lb hpick => ?_,
    exec_jobStart_not_due hon hjob, fun hph h0 hfree hl hfirst hfits hup => ?_, fun hph h0 hfree hl hfirst hfits => ?_,
    exec_lentJobStart_not_due hon⟩
  · have h : s.StartDue j := ⟨hon, hjob, hph, h0, hb, hl⟩
    obtain ⟨hrun, hunits, hsyncs⟩ := State.holds_startJob_plain hjob j.base j.endBeat false hup
    exact ⟨_, _, h.exec_once hcross, hrun, rfl, rfl, rfl, hunits, hsyncs⟩
  · have h : s.StartDue j := ⟨hon, hjob, hph, h0, hb, hl⟩
    obtain ⟨hrun, hunits, hsyncs⟩ := (State.holds_startJob_plain hjob j.base j.endBeat false hup).startLate (by simp [Job.running])
    exact ⟨_, _, h.exec_late hup hcross hrejoin, hrun, rfl, rfl, hunits, hsyncs⟩
  · have h : s.StartDue j := ⟨hon, hjob, hph, h0, hb, hl⟩
    obtain ⟨hrun, hunits, hsyncs⟩ := State.holds_startJob_training hjob j.base j.endBeat false hup la lb hpick
    exact ⟨_, _, h.exec_once hcross, hrun, rfl, rfl, rfl, hunits, hsyncs⟩
  · have h : s.LentDue j := ⟨hon, hjob, h0, hfree, hl, hfirst, hfits⟩
    obtain ⟨hrun, hunits, hsyncs⟩ := State.holds_startJob_plain hjob s.time.beat (s.time.beat + j.bin.report.reserveBeats) true hup
    exact ⟨_, _, h.exec_waiting hph, hrun, rfl, rfl, rfl, rfl, hunits, hsyncs⟩
  · have h : s.LentDue j := ⟨hon, hjob, h0, hfree, hl, hfirst, hfits⟩
    have hmoved := State.job?_updJob s j.jid (·.moved (s.time.beat + saveBeats j.bin - j.saveAt)) (fun _ => rfl) (fun _ _ => by simp [Job.moved]) j.jid
    rw [if_pos rfl, hjob] at hmoved
    exact ⟨_, _, h.exec_parked hph, hmoved, rfl, rfl, rfl, rfl, rfl⟩

end Sys2Proof
end

section
/-! PROOF. The queue, a cycle of the module clock, and what a warm reset leaves (R485; log entries 1 and 3); O1. -/

namespace Sys2Proof.Machine

/-! ### The queue -/

theorem free_pending_of_ne_reset (Q : List Instr → Prop) {k : Nat} (hk : k ≠ 42) : Free (fun t => Q t.pending) k := by
  unfold Free
  split
  case h_2 | h_3 => exact fun _ _ _ h => h
  case h_43 => exact absurd rfl hk
  case h_44 => trivial
  all_goals exact fun _ _ h => h

theorem frees_pending_of_no_reset (Q : List Instr → Prop) : Frees (fun t => Q t.pending) 0x3FFFFFFFFFF := fun k hk =>
  free_pending_of_ne_reset Q (by rintro rfl; exact absurd hk (by decide))

/-! ### After a warm reset -/

/-- `t` is the module after a warm reset of `s` (R485): the queue as it was, everything a reset clears cleared, the boot at the fuses. -/
def State.Restarted (s t : State) : Prop :=
  t.pending = s.pending ∧ t.time = .reset ∧ t.jobs = [] ∧ t.units = [] ∧ t.sec.stage = 1 ∧ t.pwr.on = true

/-- Devices, dies and translation units are no part of it. -/
theorem State.Restarted.frees (s : State) : Frees s.Restarted 0x2012000000 :=
  Frees.and ((frees_pending_of_no_reset (· = s.pending)).sub rfl) <| Frees.and ((frees_time (· = .reset)).sub rfl) <|
    Frees.and ((frees_jobs (· = [])).sub rfl) <| Frees.and ((frees_units (· = [])).sub rfl) <|
    Frees.and ((frees_sec (·.stage = 1)).sub rfl) ((frees_pwr (·.on = true)).sub rfl)

theorem State.warm_restarted (s : State) (wdog : Bool) : s.Restarted (s.warm wdog) := by
  have devs (u : State) (hu : s.Restarted u) : s.Restarted (u.eachDev fun d => { d with selfRefresh := true }) :=
    State.eachDev_keeps ((State.Restarted.frees s).sub rfl) u _ hu
  unfold State.warm
  dsimp only
  split
  · exact State.holdDies_keeps ((State.Restarted.frees s).sub rfl) _ (devs _ ⟨rfl, rfl, rfl, rfl, rfl, rfl⟩)
  · exact devs _ ⟨rfl, rfl, rfl, rfl, rfl, rfl⟩

/-- No operation writes the queue, a reset neither. -/
theorem frees_pending (Q : List Instr → Prop) (m : Nat) : Frees (fun t => Q t.pending) m := by
  intro k _
  by_cases hk : k = 42
  · subst hk
    refine fun s h => ⟨fun _ => h, fun wdog => ?_⟩
    obtain ⟨hq, -⟩ := s.warm_restarted wdog
    rwa [hq]
  · exact free_pending_of_ne_reset Q hk

/-- No command touches the queue (log entry 1). -/
theorem exec_pending (c : Instr) (s t : State) (h : exec c s = .next t) : t.pending = s.pending :=
  exec_keeps (frees_pending (· = s.pending)) c s rfl t h

/-- A warm reset asked for is due when its cycle has come (R494). -/
theorem State.resetDue_none {s : State} (h : s.sec.resetAt = none) : s.resetDue = false := by rw [State.resetDue, h]

theorem State.resetDue_some {s : State} {g : Nat} (h : s.sec.resetAt = some g) : s.resetDue = decide (g ≤ s.gt) := by rw [State.resetDue, h]

/-! ### Cycles that pass -/

section
variable (s : State) (n : Nat)

theorem State.cycles_time : (s.cycles n).time = { s.time with phase := s.time.phase + n } := by
  have hwait : ((s.units.map (·.1)).foldl (fun s x => s.waitCycles n x) s).time = s.time :=
    Keep.foldl (P := fun t => t.time = s.time) (fun t x => State.waitCycles_keeps ((frees_time (· = s.time)).sub rfl) t n x) rfl
  rw [State.cycles]
  dsimp only
  rw [hwait]

/-- Of a job, cycles write the counters of packets held alone (R348). -/
theorem State.cycles_jobs : ∃ f : Job → Job, (∀ j, ∃ a, f j = { j with adderHold := a }) ∧ (s.cycles n).jobs = s.jobs.map f := by
  have hwait : ((s.units.map (·.1)).foldl (fun s x => s.waitCycles n x) s).jobs = s.jobs :=
    Keep.foldl (P := fun t => t.jobs = s.jobs) (fun t x => State.waitCycles_keeps ((frees_jobs (· = s.jobs)).sub rfl) t n x) rfl
  refine ⟨((s.units.map (·.1)).foldl (fun s x => s.waitCycles n x) s).holdCycles n, fun j => ⟨_, rfl⟩, ?_⟩
  rw [State.cycles]
  dsimp only
  rw [hwait]

theorem State.cycles_standaloneJob (h : s.standaloneJob = none) : (s.cycles n).standaloneJob = none := by
  obtain ⟨f, hf, hjobs⟩ := s.cycles_jobs n
  have hsame : (fun j : Job => j.phase == .running && j.standalone) ∘ f = fun j => j.phase == .running && j.standalone := by
    funext j
    obtain ⟨a, ha⟩ := hf j
    rw [Function.comp_apply, ha]
    rfl
  rw [State.standaloneJob, hjobs, List.find?_map, hsame]
  exact congrArg _ h

end

/-! ### The idle cycle -/

/-- One cycle that passes, before a warm reset that falls due in it is taken. -/
def State.cyclePassed (s : State) : State := (s.cycles 1).feed.stoppedPeriods

theorem step_no_command {s : State} (h : s.pending = []) : step s = .next (tick s) := by rw [step, h]

/-- A module that is off rests, and the last cycle of a beat waits for its boundary (log entry 1). -/
theorem tick_rests {s : State} (h : s.pwr.on = false ∨ 2249 ≤ s.time.phase) : tick s = s := by
  rw [tick, if_pos]
  rcases h with h | h <;> simp [h]

theorem tick_passes {s : State} (hon : s.pwr.on = true) (hph : s.time.phase < 2249) :
    tick s = if s.cyclePassed.resetDue then s.cyclePassed.warm false else s.cyclePassed := by
  rw [tick, if_neg (by simp [hon, hph])]
  rfl

section
variable {s : State} (h : s.standaloneJob = none)
include h

/-- Without a standalone replay nothing is supplied (R464). -/
theorem State.cyclePassed_no_replay : s.cyclePassed = (s.cycles 1).stoppedPeriods := by
  rw [State.cyclePassed, State.feed, s.cycles_standaloneJob 1 h]

/-- Such a cycle leaves what neither its time, its jobs, its units nor a free value can break. -/
theorem State.cyclePassed_keeps {P : State → Prop} (hw : Frees P 0x20000200011) (hs : P s) : P s.cyclePassed := by
  rw [State.cyclePassed_no_replay h]
  exact State.stoppedPeriods_keeps (hw.sub rfl) _ (State.cycles_keeps hw _ _ hs)

theorem State.cyclePassed_time : s.cyclePassed.time = { s.time with phase := s.time.phase + 1 } := by
  rw [State.cyclePassed_no_replay h]
  exact State.stoppedPeriods_keeps ((frees_time (· = _)).sub rfl) _ (s.cycles_time 1)

theorem State.cyclePassed_sec : s.cyclePassed.sec = s.sec := State.cyclePassed_keeps h ((frees_sec (· = s.sec)).sub rfl) rfl

theorem State.cyclePassed_gt : s.cyclePassed.gt = s.gt + 1 := by
  rw [State.gt, State.cyclePassed_time h]
  exact (Nat.add_assoc _ _ _).symm

theorem tick_no_reset (hon : s.pwr.on = true) (hph : s.time.phase < 2249) (hreset : s.sec.resetAt = none) : tick s = s.cyclePassed := by
  have hdue : s.cyclePassed.resetDue = false := State.resetDue_none ((congrArg SecSt.resetAt (State.cyclePassed_sec h)).trans hreset)
  rw [tick_passes hon hph, if_neg (ne_true_of_eq_false hdue)]

theorem tick_reset (hon : s.pwr.on = true) (hph : s.time.phase < 2249) {g : Nat} (hreset : s.sec.resetAt = some g) (hg : g ≤ s.gt + 1) :
    tick s = s.cyclePassed.warm false := by
  rw [tick_passes hon hph, State.resetDue_some ((congrArg SecSt.resetAt (State.cyclePassed_sec h)).trans hreset), State.cyclePassed_gt h,
    if_pos (decide_eq_true hg)]

end

end Sys2Proof.Machine

namespace Sys2Proof
open Machine

/-- Settles O1: a step is a command or an idle cycle, and neither writes the queue. -/
theorem stepTakesTheFront : Obligations.step_takes_the_front := by
  refine ⟨⟨fun c s => rfl, fun s hq hon hph hrep hreset => ?_, fun s hq h => ?_, fun s hq hon hph g hreset hg hrep => ?_⟩, exec_pending, ?_⟩
  · refine ⟨_, (step_no_command hq).trans (congrArg _ (tick_no_reset hrep hon hph hreset)), State.cyclePassed_time hrep, ?_, ?_, ?_⟩
    · exact State.cyclePassed_keeps hrep ((frees_mem (· = s.mem)).sub rfl) rfl
    · exact State.cyclePassed_keeps hrep ((frees_syncs (· = s.syncs)).sub rfl) rfl
    · exact State.cyclePassed_keeps hrep (frees_pending (· = []) _) hq
  · rw [step_no_command hq, tick_rests h]
  · obtain ⟨hpending, -, hjobs, hunits, hstage, -⟩ := s.cyclePassed.warm_restarted false
    refine ⟨_, (step_no_command hq).trans (congrArg _ (tick_reset hrep hon hph hreset hg)), hstage, hjobs, hunits, hpending.trans ?_⟩
    exact State.cyclePassed_keeps hrep (frees_pending (· = []) _) hq
  · intro s t hstep
    cases hq : s.pending with
    | nil =>
      rw [step_no_command hq] at hstep
      cases hstep
      exact tick_keeps (frees_pending (· = []) _) s hq
    | cons c rest =>
      rw [step, hq] at hstep
      exact exec_pending c _ t hstep

end Sys2Proof
end

section
/-! PROOF. Writes of BEAT_SET and TIME_CTRL (R82, R90, R95); O9. -/

namespace Sys2Proof.Machine

/-! ### The fields of a TIME_CTRL word -/

/-- The word that ROLE, UPSTREAM and DOWN_MASK make. -/
theorem toNat_timeCtrl (a b c : Nat) : (pack 64 [(0, 2, a), (2, 3, b), (5, 6, c)]).toNat = a % 4 + b % 8 * 4 + c % 64 * 32 := by
  have ha : a % 2 ^ 2 < 4 := Nat.mod_lt _ (by decide)
  have hb : b % 2 ^ 3 < 8 := Nat.mod_lt _ (by decide)
  have hc : c % 2 ^ 6 < 64 := Nat.mod_lt _ (by decide)
  have hhigh : (b % 2 ^ 3) <<< 2 ||| (c % 2 ^ 6) <<< 5 = (c % 2 ^ 6 * 8 + b % 2 ^ 3) <<< 2 := by
    rw [Nat.lor_comm, ← Nat.shiftLeft_add_eq_or_of_lt (by rw [Nat.shiftLeft_eq]; omega)]
    simp only [Nat.shiftLeft_eq]
    omega
  have hall : (a % 2 ^ 2) <<< 0 ||| ((b % 2 ^ 3) <<< 2 ||| (c % 2 ^ 6) <<< 5) = a % 4 + b % 8 * 4 + c % 64 * 32 := by
    rw [hhigh, Nat.lor_comm, Nat.shiftLeft_zero, ← Nat.shiftLeft_add_eq_or_of_lt (by omega)]
    simp only [Nat.shiftLeft_eq]
    omega
  have hlt (n k : Nat) (h : n * 2 ^ k < 2 ^ 64) : (BitVec.ofNat 64 (n <<< k)).toNat = n <<< k := by
    rw [BitVec.toNat_ofNat, Nat.shiftLeft_eq, Nat.mod_eq_of_lt h]
  simp only [pack, BitVec.toNat_or]
  rw [hlt _ _ (by omega), hlt _ _ (by omega), hlt _ _ (by omega), ← hall]
  simp

section
variable (a b c : Nat)

theorem bits_timeCtrl_role : bits (pack 64 [(0, 2, a), (2, 3, b), (5, 6, c)]) 0 2 = a % 4 := by
  rw [bits, toNat_timeCtrl, Nat.shiftRight_eq_div_pow]
  omega

theorem bits_timeCtrl_upstream : bits (pack 64 [(0, 2, a), (2, 3, b), (5, 6, c)]) 2 3 = b % 8 := by
  rw [bits, toNat_timeCtrl, Nat.shiftRight_eq_div_pow]
  omega

theorem bits_timeCtrl_downMask : bits (pack 64 [(0, 2, a), (2, 3, b), (5, 6, c)]) 5 6 = c % 64 := by
  rw [bits, toNat_timeCtrl, Nat.shiftRight_eq_div_pow]
  omega

end

theorem bits_lt {n : Nat} (w : BitVec n) (lo len : Nat) : bits w lo len < 2 ^ len := Nat.mod_lt _ (Nat.two_pow_pos len)

/-! ### The word held for the boundary: reserved values leave what stood there (R10, R90) -/

section
variable (t : TimeSt) (v : U64)

theorem TimeSt.cleanCtrl_role (h : bits v 0 2 ≠ 3) : bits (t.cleanCtrl v) 0 2 = bits v 0 2 := by
  rw [TimeSt.cleanCtrl, bits_timeCtrl_role, if_neg h]
  exact Nat.mod_eq_of_lt (bits_lt v 0 2)

theorem TimeSt.cleanCtrl_upstream (h : bits v 2 3 < 6) : bits (t.cleanCtrl v) 2 3 = bits v 2 3 := by
  rw [TimeSt.cleanCtrl, bits_timeCtrl_upstream, if_neg (Nat.not_le.mpr h)]
  exact Nat.mod_eq_of_lt (bits_lt v 2 3)

theorem TimeSt.cleanCtrl_downMask : bits (t.cleanCtrl v) 5 6 = bits v 5 6 := by
  rw [TimeSt.cleanCtrl, bits_timeCtrl_downMask]
  exact Nat.mod_eq_of_lt (bits_lt v 5 6)

end

/-! ### What the writes do, by role and guard -/

section
variable {s : State} (v : U64)

/-- A role is known by its code (R95). -/
theorem TimeSt.isRoot_iff (t : TimeSt) : t.isRoot = true ↔ t.role = 1 := beq_iff_eq

theorem TimeSt.isLocal_iff (t : TimeSt) : t.isLocal = true ↔ t.role = 0 := beq_iff_eq

theorem State.writeBeatSet_root (h : s.time.role = 1) :
    s.writeBeatSet v = { s with time := { s.time with beatSet := some (v.toNat % 2 ^ 48) } } := by
  rw [State.writeBeatSet, if_pos ((TimeSt.isRoot_iff _).mpr h)]
  rfl

theorem State.writeBeatSet_local (h : s.time.role = 0) : s.writeBeatSet v =
    if s.stepGuard then { s with time := { s.time with localSet := some (v.toNat % 2 ^ 48) } }
    else { s with time := { s.time with beat := v.toNat % 2 ^ 48 } } := by
  have hbeat : s.time.setBeat (bits v 0 48) = { s.time with beat := v.toNat % 2 ^ 48 } := by
    rw [TimeSt.setBeat, Nat.mod_eq_of_lt (bits_lt v 0 48)]
    rfl
  have hroot : ¬ s.time.isRoot = true := by rw [TimeSt.isRoot_iff, h]; decide
  unfold State.writeBeatSet
  dsimp only
  rw [if_neg hroot, if_pos ((TimeSt.isLocal_iff _).mpr h), hbeat]
  rfl

theorem State.writeBeatSet_follower (h : s.time.role = 2) : s.writeBeatSet v = s := by
  have hroot : ¬ s.time.isRoot = true := by rw [TimeSt.isRoot_iff, h]; decide
  have hlocal : ¬ s.time.isLocal = true := by rw [TimeSt.isLocal_iff, h]; decide
  unfold State.writeBeatSet
  dsimp only
  rw [if_neg hroot, if_neg hlocal]

end

/-! ### The accesses -/

@[simp] theorem State.exchange_stepGuard (s : State) (a b : Nat) : (s.exchange a b).stepGuard = s.stepGuard := rfl

/-- An access of a function reaches die 28 (R33, R483). -/
structure State.Reaches28 (s : State) : Prop where
  on : s.pwr.on = true
  bar : s.barOpen = true
  die : s.dieAnswers 28 = true

section
variable {s : State} (h : s.Reaches28) (f : Func) (v : U64)
include h

theorem State.Reaches28.exec_beatSetWrite (hc : s.isControl f = true) :
    exec (.beatSetWrite f v) s = .next ((s.exchange (30 + f.port.val) 28).writeBeatSet v) := by
  rw [exec, execBeatSetWrite, s.byBarOf_open f 28 _ h.on h.bar h.die]
  exact congrArg _ (State.privileged_control _ f _ hc)

theorem State.Reaches28.exec_beatSetWrite_denied (hc : s.isControl f = false) :
    exec (.beatSetWrite f v) s = .next ((s.exchange (30 + f.port.val) 28).deny f) := by
  rw [exec, execBeatSetWrite, s.byBarOf_open f 28 _ h.on h.bar h.die]
  exact congrArg _ (State.privileged_denied _ f _ hc)

theorem State.Reaches28.exec_timeCtrlWrite (hc : s.isControl f = true) :
    exec (.timeCtrlWrite f v) s = .next ((s.exchange (30 + f.port.val) 28).writeTimeCtrl v) := by
  rw [exec, execTimeCtrlWrite, s.byBarOf_open f 28 _ h.on h.bar h.die]
  exact congrArg _ (State.privileged_control _ f _ hc)

theorem State.Reaches28.exec_timeCtrlWrite_denied (hc : s.isControl f = false) :
    exec (.timeCtrlWrite f v) s = .next ((s.exchange (30 + f.port.val) 28).deny f) := by
  rw [exec, execTimeCtrlWrite, s.byBarOf_open f 28 _ h.on h.bar h.die]
  exact congrArg _ (State.privileged_denied _ f _ hc)

end

end Sys2Proof.Machine

namespace Sys2Proof
open Machine

/-- Settles O9: the crossing to die 28 leaves the time block and the guard, on which the write then turns. -/
theorem timeRegisters : Obligations.time_registers := by
  refine ⟨fun f v s hon hbar hdie => ?_, fun f v s hon hbar hdie => ?_⟩
  · have h : s.Reaches28 := ⟨hon, hbar, hdie⟩
    refine ⟨fun hc hr => ?_, fun hc hr hg => ?_, fun hc hr hg => ?_, fun hc hr => ?_, h.exec_beatSetWrite_denied f v, rfl, rfl, rfl, rfl⟩
    · rw [h.exec_beatSetWrite f v hc, State.writeBeatSet_root v (by rwa [State.exchange_time]), State.exchange_time]
    · rw [h.exec_beatSetWrite f v hc, State.writeBeatSet_local v (by rwa [State.exchange_time]), State.exchange_stepGuard,
        State.exchange_time, if_neg (ne_true_of_eq_false hg)]
    · rw [h.exec_beatSetWrite f v hc, State.writeBeatSet_local v (by rwa [State.exchange_time]), State.exchange_stepGuard,
        State.exchange_time, if_pos hg]
    · rw [h.exec_beatSetWrite f v hc, State.writeBeatSet_follower v (by rwa [State.exchange_time])]
  · have h : s.Reaches28 := ⟨hon, hbar, hdie⟩
    refine ⟨h.exec_timeCtrlWrite_denied f v, fun hc hx => ?_, fun hc hx => ⟨s.time.cleanCtrl v, ?_, s.time.cleanCtrl_role v,
      s.time.cleanCtrl_upstream v, s.time.cleanCtrl_downMask v⟩⟩
    · rw [h.exec_timeCtrlWrite f v hc]
      exact congrArg _ (if_pos hx)
    · rw [h.exec_timeCtrlWrite f v hc]
      exact congrArg _ (if_neg (ne_true_of_eq_false hx))

end Sys2Proof
end

section
/-! PROOF. Timing words and the delay measurement (R85, R86, R90, R91); O10. -/

namespace Sys2Proof.Machine

/-! ### Port after port -/

/-- A run over distinct ports whose each step changes its own port alone: every port of the list is changed once, the others not. -/
theorem State.port_foldl {I : State → Prop} {F : State → Nat → State} {g : Nat → NlPort → NlPort} (hI : ∀ t p, I t → I (F t p))
    (hF : ∀ t p q, I t → (F t p).port q = if q = p then g p (t.port p) else t.port q) {l : List Nat} (hl : l.Nodup) (s : State) (hs : I s)
    (q : Nat) : (l.foldl F s).port q = if q ∈ l then g q (s.port q) else s.port q := by
  induction l generalizing s with
  | nil => rw [if_neg List.not_mem_nil]; rfl
  | cons p l ih =>
    obtain ⟨hp, hl⟩ := List.nodup_cons.mp hl
    rw [List.foldl_cons, ih hl _ (hI s p hs), hF s p q hs]
    by_cases hq : q = p
    · subst hq
      rw [if_neg hp, if_pos rfl, if_pos List.mem_cons_self]
    · rw [if_neg hq]
      simp only [List.mem_cons, hq, false_or]

theorem State.port_updPort (s : State) (p q : Nat) (f : NlPort → NlPort) :
    (s.updPort p f).port q = if q = p then f (s.port p) else s.port q := State.port_setPort s p q _

/-- The six Nelil ports. -/
theorem mem_ports {q : Nat} (h : q < 6) : q ∈ [0, 1, 2, 3, 4, 5] := by
  simp only [List.mem_cons, List.not_mem_nil, or_false]
  omega

/-! ### What an accepted word does, by time state -/

section
variable (t : TimeSt) (now arr delay : Nat) (w : BitVec 128)

/-- The beat count goes on; HOPS and ROOT_ID are the word's (R84). -/
theorem TimeSt.word_parts :
    (t.word now arr delay w).hops.toNat = (bits w 68 6 + 1) % 64 ∧ (t.word now arr delay w).rootId.toNat = bits w 74 15 ∧
      (t.word now arr delay w).beat = t.beat ∧ (t.word now arr delay w).phase = t.phase ∧ (t.word now arr delay w).badWords = t.badWords ∧
      (t.word now arr delay w).role = t.role ∧ (t.word now arr delay w).beatSet = t.beatSet := by
  have hroot : (BitVec.ofNat 15 (bits w 74 15)).toNat = bits w 74 15 := Nat.mod_eq_of_lt (bits_lt w 74 15)
  unfold TimeSt.word
  dsimp only
  split
  case h_4 => split <;> exact ⟨rfl, hroot, rfl, rfl, rfl, rfl, rfl⟩
  all_goals exact ⟨rfl, hroot, rfl, rfl, rfl, rfl, rfl⟩

theorem TimeSt.word_free (h : t.st = .free) : (t.word now arr delay w).st = .acquiring ∧ (t.word now arr delay w).agree = 0 := by
  rw [TimeSt.word, h]
  exact ⟨rfl, rfl⟩

theorem TimeSt.word_acquiring (h : t.st = .acquiring) :
    (t.word now arr delay w).st = .acquiring ∧
      (t.word now arr delay w).agree = (if agrees (senderBoundary now arr delay w) then t.agree + 1 else 0) ∧
      (t.word now arr delay w).lockDelta = (if 16 ≤ (t.word now arr delay w).agree
        then some ((bits w 0 48 : Int) - nearestBeat (senderBoundary now arr delay w)) else none) := by
  rw [TimeSt.word, h]
  exact ⟨rfl, rfl, rfl⟩

theorem TimeSt.word_locked (h : t.st = .locked) : (t.word now arr delay w).st = .locked ∧ (t.word now arr delay w).silent = 0 := by
  rw [TimeSt.word, h]
  exact ⟨rfl, rfl⟩

theorem TimeSt.word_holdover (h : t.st = .holdover) (hheld : t.held < t.holdLimit) :
    (t.word now arr delay w).st = .locked ∧ (t.word now arr delay w).held = 0 := by
  rw [TimeSt.word, h]
  dsimp only
  rw [if_pos hheld]
  exact ⟨rfl, rfl⟩

end

/-! ### The commands -/

section
variable {s : State} (p : Fin 6) (w : BitVec 128) (whole : Bool) (arr : Nat) (hon : s.pwr.on = true)
include hon

theorem exec_timingWordReceive_elsewhere (h : s.time.role ≠ 2 ∨ s.time.upstream.toNat ≠ p.val ∨ (s.port p.val).st ≠ 2) :
    exec (.timingWordReceive p w whole arr) s = .next s := by
  rw [exec, execTimingWordReceive, s.ran_on _ hon]
  refine congrArg _ (if_pos ?_)
  simpa [TimeSt.isFollower, or_assoc] using h

section
variable (hrole : s.time.role = 2) (hup : s.time.upstream.toNat = p.val) (htrained : (s.port p.val).st = 2)
include hrole hup htrained

/-- On the trained upstream port of a follower the word is looked at. -/
theorem exec_timingWordReceive_upstream :
    exec (.timingWordReceive p w whole arr) s = .next (if !whole || !s.time.accepts w then s.setTime s.time.badWord
      else s.setTime (s.time.word s.gt arr (s.port p.val).delay w)) := by
  rw [exec, execTimingWordReceive, s.ran_on _ hon]
  refine congrArg _ (if_neg ?_)
  simp [TimeSt.isFollower, hrole, hup, htrained]

theorem exec_timingWordReceive_bad (h : whole = false ∨ s.time.accepts w = false) :
    exec (.timingWordReceive p w whole arr) s = .next { s with time := { s.time with badWords := min (s.time.badWords + 1) 65535 } } := by
  rw [exec_timingWordReceive_upstream p w whole arr hon hrole hup htrained, if_pos (by simpa using h)]
  rfl

theorem exec_timingWordReceive_accepted (hwhole : whole = true) (hacc : s.time.accepts w = true) :
    exec (.timingWordReceive p w whole arr) s = .next { s with time := s.time.word s.gt arr (s.port p.val).delay w } := by
  rw [exec_timingWordReceive_upstream p w whole arr hon hrole hup htrained, if_neg (by simp [hwhole, hacc])]
  rfl

end

theorem exec_delayEchoReceive (r : Nat) : exec (.delayEchoReceive p r) s = .next (s.setPort p.val (if (s.port p.val).echo
    then { s.port p.val with echo := false, delayNext := some (r / 2 % 2 ^ 32) } else s.port p.val)) := by
  rw [exec, execDelayEchoReceive, s.ran_on _ hon]
  rfl

theorem exec_delayRemeasure_between (h : s.time.beat % 1024 ≠ 0 ∨ s.time.phase ≠ 0) : exec .delayRemeasure s = .next s := by
  rw [exec, execDelayRemeasure, s.ran_on _ hon]
  exact congrArg _ (if_neg (by omega))

end

/-- A port of the state sends its echo if it is UP (R86). -/
def State.sendEcho (s : State) (p : Nat) : State :=
  if (s.port p).st == 2 then s.updPort p fun q => { q with echo := true, ctrlTx := q.ctrlTx ++ pieces 1 (echoWord s.fresh) } else s

/-- The echoes write the ports alone, and no port but their own. -/
theorem State.sendEcho_port (s : State) (p q : Nat) : (s.sendEcho p).port q = if q = p then
    if (s.port p).st = 2 then { s.port p with echo := true, ctrlTx := (s.port p).ctrlTx ++ pieces 1 (echoWord s.fresh) } else s.port p
    else s.port q := by
  unfold State.sendEcho
  by_cases h : (s.port p).st = 2
  · rw [if_pos (by rw [h]; rfl), State.port_updPort, if_pos h]
  · rw [if_neg (by simpa using h), if_neg h]
    split
    · next hq => rw [hq]
    · rfl

theorem State.sendEcho_ports (s : State) (p : Nat) : s.sendEcho p = { s with ports := (s.sendEcho p).ports } := by
  unfold State.sendEcho
  split <;> rfl

theorem exec_delayRemeasure_due {s : State} (hon : s.pwr.on = true) (hbeat : s.time.beat % 1024 = 0) (hph : s.time.phase = 0) :
    ∃ t, exec .delayRemeasure s = .next { s with ports := t, fresh := s.fresh + 2 } ∧
      ∀ q : Fin 6, tabGet NlPort.reset t q.val = if (s.port q.val).st = 2
        then { s.port q.val with echo := true, ctrlTx := (s.port q.val).ctrlTx ++ pieces 1 (echoWord s.fresh) } else s.port q.val := by
  let I (t : State) : Prop := ∃ v, t = { s with ports := v }
  let sent (q : NlPort) : NlPort := if q.st = 2 then { q with echo := true, ctrlTx := q.ctrlTx ++ pieces 1 (echoWord s.fresh) } else q
  have hI (t : State) (p : Nat) (h : I t) : I (t.sendEcho p) := by
    obtain ⟨v, rfl⟩ := h
    exact ⟨_, State.sendEcho_ports _ p⟩
  have hF (t : State) (p q : Nat) (h : I t) : (t.sendEcho p).port q = if q = p then sent (t.port p) else t.port q := by
    have hfresh : t.fresh = s.fresh := by
      obtain ⟨v, rfl⟩ := h
      rfl
    rw [State.sendEcho_port, hfresh]
  have hexec : exec .delayRemeasure s = .next (([0, 1, 2, 3, 4, 5].foldl State.sendEcho s).tickFresh 2) := by
    rw [exec, execDelayRemeasure, s.ran_on _ hon]
    exact congrArg _ (if_pos ⟨hbeat, hph⟩)
  obtain ⟨v, hv⟩ : I ([0, 1, 2, 3, 4, 5].foldl State.sendEcho s) := Keep.foldl hI ⟨s.ports, rfl⟩
  refine ⟨v, hexec.trans (congrArg _ (congrArg (State.tickFresh · 2) hv)), fun q => ?_⟩
  have hport := (State.port_foldl (g := fun _ => sent) hI hF (by decide) s ⟨s.ports, rfl⟩ q.val).trans (if_pos (mem_ports q.isLt))
  rw [hv] at hport
  exact hport

end Sys2Proof.Machine

namespace Sys2Proof
open Machine

/-- Settles O10: what a word does by time state, what an echo does at its own port. -/
theorem timingDistribution : Obligations.timing_distribution := by
  refine ⟨fun p w whole arr s hon => ⟨exec_timingWordReceive_elsewhere p w whole arr hon, fun hrole hup htrained => ?_⟩, fun p r s hon => ?_⟩
  · refine ⟨exec_timingWordReceive_bad p w whole arr hon hrole hup htrained, fun hwhole hacc => ?_⟩
    obtain ⟨hhops, hroot, hbeat, hphase, hbad, hrole', hset⟩ := s.time.word_parts s.gt arr (s.port p.val).delay w
    exact ⟨_, exec_timingWordReceive_accepted p w whole arr hon hrole hup htrained hwhole hacc, hhops, hroot, hbeat, hphase, hbad, hrole', hset,
      s.time.word_free _ _ _ _, s.time.word_acquiring _ _ _ _, s.time.word_locked _ _ _ _, s.time.word_holdover _ _ _ _⟩
  · refine ⟨fun h => ?_, fun h => ?_, exec_delayRemeasure_between hon, exec_delayRemeasure_due hon⟩
    · rw [exec_delayEchoReceive p hon, if_pos h]
    · rw [exec_delayEchoReceive p hon, if_neg (ne_true_of_eq_false h)]

end Sys2Proof
end

section
/-! PROOF. The beat boundary (R86, R87, R90, R95, R473, R494); O7. -/

namespace Sys2Proof.Machine

/-! ### The time block at a boundary -/

/-- The time block's part of a boundary: the next beat at phase 0000, silence counted, a written TIME_CTRL, a step that is due. -/
def TimeSt.nextBeat (t : TimeSt) (trained : Nat → Bool) (guard : Bool) : TimeSt :=
  (({ t.setBeat (t.beat + 1) with phase := 0 } : TimeSt).countSilence.applyCtrl trained).stepAtBoundary guard

section
variable (t : TimeSt) (guard : Bool) (trained : Nat → Bool)

theorem TimeSt.countSilence_eq : ∃ m n, t.countSilence = { t with silent := m, held := n, seen := false } := by
  unfold TimeSt.countSilence
  split <;> exact ⟨_, _, rfl⟩

theorem TimeSt.applyCtrl_none (h : t.ctrlNext = none) : t.applyCtrl trained = t := by rw [TimeSt.applyCtrl, h]

/-- A change of role leaves the count, the ports and, where none waits, the steps. -/
theorem TimeSt.changeRole_parts (up : Bool) :
    (t.changeRole up).beat = t.beat ∧ (t.changeRole up).phase = t.phase ∧ (t.changeRole up).role = t.role ∧
      (t.changeRole up).upstream = t.upstream ∧ (t.changeRole up).downMask = t.downMask ∧ (t.changeRole up).ctrlNext = t.ctrlNext ∧
      (t.changeRole up).lockDelta = none ∧ (t.localSet = none → (t.changeRole up).localSet = none) := by
  unfold TimeSt.changeRole
  dsimp only
  split
  · exact ⟨rfl, rfl, rfl, rfl, rfl, rfl, rfl, fun _ => rfl⟩
  · split
    · exact ⟨rfl, rfl, rfl, rfl, rfl, rfl, rfl, fun _ => rfl⟩
    · exact ⟨rfl, rfl, rfl, rfl, rfl, rfl, rfl, id⟩

/-- A written TIME_CTRL is in force, and none waits. -/
theorem TimeSt.applyCtrl_some {v : U64} (h : t.ctrlNext = some v) :
    (t.applyCtrl trained).ctrlNext = none ∧ (t.applyCtrl trained).role.toNat = bits v 0 2 ∧ (t.applyCtrl trained).upstream.toNat = bits v 2 3 ∧
      (t.applyCtrl trained).downMask.toNat = bits v 5 6 := by
  have hrole : (BitVec.ofNat 2 (bits v 0 2)).toNat = bits v 0 2 := Nat.mod_eq_of_lt (bits_lt v 0 2)
  have hup : (BitVec.ofNat 3 (bits v 2 3)).toNat = bits v 2 3 := Nat.mod_eq_of_lt (bits_lt v 2 3)
  have hdown : (BitVec.ofNat 6 (bits v 5 6)).toNat = bits v 5 6 := Nat.mod_eq_of_lt (bits_lt v 5 6)
  unfold TimeSt.applyCtrl
  rw [h]
  dsimp only
  split
  · exact ⟨rfl, hrole, hup, hdown⟩
  · obtain ⟨-, -, hr, hu, hd, hc, -⟩ := TimeSt.changeRole_parts { t with
      role := BitVec.ofNat 2 (bits v 0 2), upstream := BitVec.ofNat 3 (bits v 2 3), downMask := BitVec.ofNat 6 (bits v 5 6), ctrlNext := none }
      (trained (BitVec.ofNat 3 (bits v 2 3)).toNat)
    rw [hr, hu, hd, hc]
    exact ⟨rfl, hrole, hup, hdown⟩

/-- A written TIME_CTRL moves neither beat nor phase, and makes no step. -/
theorem TimeSt.applyCtrl_parts :
    (t.applyCtrl trained).beat = t.beat ∧ (t.applyCtrl trained).phase = t.phase ∧ (t.localSet = none → (t.applyCtrl trained).localSet = none) ∧
      (t.lockDelta = none → (t.applyCtrl trained).lockDelta = none) := by
  unfold TimeSt.applyCtrl
  split
  · exact ⟨rfl, rfl, id, id⟩
  · next v _ =>
    dsimp only
    split
    · exact ⟨rfl, rfl, id, id⟩
    · obtain ⟨hb, hp, -, -, -, -, hd, hl⟩ := TimeSt.changeRole_parts { t with
        role := BitVec.ofNat 2 (bits v 0 2), upstream := BitVec.ofNat 3 (bits v 2 3), downMask := BitVec.ofNat 6 (bits v 5 6), ctrlNext := none }
        (trained (BitVec.ofNat 3 (bits v 2 3)).toNat)
      exact ⟨hb, hp, hl, fun _ => hd⟩

theorem TimeSt.stepAtBoundary_none (hset : t.localSet = none) (hlock : t.lockDelta = none) : t.stepAtBoundary guard = t := by
  rw [TimeSt.stepAtBoundary, hset, hlock]

theorem TimeSt.stepAtBoundary_set {b : Nat} (h : t.localSet = some b) :
    t.stepAtBoundary guard = if guard then t else { t.setBeat b with localSet := none } := by rw [TimeSt.stepAtBoundary, h]

theorem TimeSt.stepAtBoundary_lock {d : Int} (hset : t.localSet = none) (h : t.lockDelta = some d) :
    t.stepAtBoundary guard = if guard then t else
      { t.setBeat ((t.beat : Int) + d).toNat with lockDelta := none, st := .locked, silent := 0, seen := true } := by
  rw [TimeSt.stepAtBoundary, hset, h]

/-- A step moves the beat count; phase, role and ports stay. -/
theorem TimeSt.stepAtBoundary_parts :
    (t.stepAtBoundary guard).phase = t.phase ∧ (t.stepAtBoundary guard).role = t.role ∧ (t.stepAtBoundary guard).upstream = t.upstream ∧
      (t.stepAtBoundary guard).downMask = t.downMask ∧ (t.stepAtBoundary guard).ctrlNext = t.ctrlNext ∧
      (t.stepAtBoundary guard).beatSet = t.beatSet ∧ (t.st = .locked → (t.stepAtBoundary guard).st = .locked) := by
  unfold TimeSt.stepAtBoundary
  split
  · split <;> exact ⟨rfl, rfl, rfl, rfl, rfl, rfl, id⟩
  · split
    · exact ⟨rfl, rfl, rfl, rfl, rfl, rfl, id⟩
    · exact ⟨rfl, rfl, rfl, rfl, rfl, rfl, fun _ => rfl⟩
  · exact ⟨rfl, rfl, rfl, rfl, rfl, rfl, id⟩

/-! The whole part, by what waits. -/

theorem TimeSt.nextBeat_phase : (t.nextBeat trained guard).phase = 0 := by
  obtain ⟨hstep, -⟩ := TimeSt.stepAtBoundary_parts
    ((({ t.setBeat (t.beat + 1) with phase := 0 } : TimeSt).countSilence).applyCtrl trained) guard
  obtain ⟨-, hctrl, -⟩ := TimeSt.applyCtrl_parts (({ t.setBeat (t.beat + 1) with phase := 0 } : TimeSt).countSilence) trained
  obtain ⟨m, n, hcount⟩ := TimeSt.countSilence_eq { t.setBeat (t.beat + 1) with phase := 0 }
  rw [TimeSt.nextBeat, hstep, hctrl, hcount]

/-- Without a written TIME_CTRL the step is made on the next beat. -/
theorem TimeSt.nextBeat_no_ctrl (h : t.ctrlNext = none) : ∃ m n, t.nextBeat trained guard =
    ({ t.setBeat (t.beat + 1) with phase := 0, silent := m, held := n, seen := false } : TimeSt).stepAtBoundary guard := by
  obtain ⟨m, n, hcount⟩ := TimeSt.countSilence_eq { t.setBeat (t.beat + 1) with phase := 0 }
  refine ⟨m, n, ?_⟩
  rw [TimeSt.nextBeat, hcount]
  exact congrArg (TimeSt.stepAtBoundary · guard) (TimeSt.applyCtrl_none _ _ h)

theorem TimeSt.nextBeat_ctrlNext : (t.nextBeat trained guard).ctrlNext = none := by
  cases h : t.ctrlNext with
  | none =>
    obtain ⟨m, n, hnext⟩ := t.nextBeat_no_ctrl guard trained h
    obtain ⟨-, -, -, -, hc, -⟩ := TimeSt.stepAtBoundary_parts
      ({ t.setBeat (t.beat + 1) with phase := 0, silent := m, held := n, seen := false } : TimeSt) guard
    rw [hnext, hc]
    exact h
  | some v =>
    obtain ⟨m, n, hcount⟩ := TimeSt.countSilence_eq { t.setBeat (t.beat + 1) with phase := 0 }
    obtain ⟨hnone, -⟩ := TimeSt.applyCtrl_some ({ t.setBeat (t.beat + 1) with phase := 0, silent := m, held := n, seen := false } : TimeSt) trained h
    rw [TimeSt.nextBeat, hcount]
    exact (TimeSt.stepAtBoundary_parts _ _).2.2.2.2.1.trans hnone

theorem TimeSt.nextBeat_kept (h : t.ctrlNext = none) :
    (t.nextBeat trained guard).role = t.role ∧ (t.nextBeat trained guard).downMask = t.downMask ∧ (t.nextBeat trained guard).beatSet = t.beatSet ∧
      (t.st = .locked → (t.nextBeat trained guard).st = .locked) := by
  obtain ⟨m, n, hnext⟩ := t.nextBeat_no_ctrl guard trained h
  obtain ⟨-, hrole, -, hdown, -, hset, hst⟩ := TimeSt.stepAtBoundary_parts
    ({ t.setBeat (t.beat + 1) with phase := 0, silent := m, held := n, seen := false } : TimeSt) guard
  rw [hnext]
  exact ⟨hrole, hdown, hset, hst⟩

theorem TimeSt.nextBeat_written {v : U64} (h : t.ctrlNext = some v) :
    (t.nextBeat trained guard).role.toNat = bits v 0 2 ∧ (t.nextBeat trained guard).upstream.toNat = bits v 2 3 ∧
      (t.nextBeat trained guard).downMask.toNat = bits v 5 6 := by
  obtain ⟨m, n, hcount⟩ := TimeSt.countSilence_eq { t.setBeat (t.beat + 1) with phase := 0 }
  let u : TimeSt := { t.setBeat (t.beat + 1) with phase := 0, silent := m, held := n, seen := false }
  have hu : t.nextBeat trained guard = (u.applyCtrl trained).stepAtBoundary guard := by rw [TimeSt.nextBeat, hcount]
  obtain ⟨-, hr, hup, hd⟩ := u.applyCtrl_some trained h
  obtain ⟨-, hrole, hupstream, hdown, -⟩ := (u.applyCtrl trained).stepAtBoundary_parts guard
  rw [hu, hrole, hupstream, hdown]
  exact ⟨hr, hup, hd⟩

/-- With nothing pending only the beat count moves (R87). -/
theorem TimeSt.nextBeat_beat (hset : t.localSet = none) (hlock : t.lockDelta = none) :
    (t.nextBeat trained guard).beat = (t.beat + 1) % 2 ^ 48 := by
  obtain ⟨m, n, hcount⟩ := TimeSt.countSilence_eq { t.setBeat (t.beat + 1) with phase := 0 }
  let u : TimeSt := { t.setBeat (t.beat + 1) with phase := 0, silent := m, held := n, seen := false }
  have hu : t.nextBeat trained guard = (u.applyCtrl trained).stepAtBoundary guard := by rw [TimeSt.nextBeat, hcount]
  obtain ⟨hbeat, -, hs, hl⟩ := u.applyCtrl_parts trained
  rw [hu, TimeSt.stepAtBoundary_none _ _ (hs hset) (hl hlock), hbeat]
  rfl

/-- A BEAT_SET that waits in LOCAL is the beat, unless the guard holds it (R82, R90). -/
theorem TimeSt.nextBeat_set {b : Nat} (hset : t.localSet = some b) (h : t.ctrlNext = none) :
    (guard = false → (t.nextBeat trained guard).beat = b % 2 ^ 48 ∧ (t.nextBeat trained guard).localSet = none) ∧
      (guard = true → (t.nextBeat trained guard).beat = (t.beat + 1) % 2 ^ 48 ∧ (t.nextBeat trained guard).localSet = some b) := by
  obtain ⟨m, n, hnext⟩ := t.nextBeat_no_ctrl guard trained h
  rw [hnext.trans (TimeSt.stepAtBoundary_set _ guard hset)]
  refine ⟨fun hg => ?_, fun hg => ?_⟩ <;> subst hg
  · exact ⟨rfl, rfl⟩
  · exact ⟨rfl, hset⟩

/-- A follower's step on entry to LOCKED (R90). -/
theorem TimeSt.nextBeat_lock {d : Int} (hset : t.localSet = none) (hlock : t.lockDelta = some d) (h : t.ctrlNext = none) :
    (t.nextBeat trained false).st = .locked ∧
      (t.nextBeat trained false).beat = (((t.beat + 1) % 2 ^ 48 : Nat) + d).toNat % 2 ^ 48 := by
  obtain ⟨m, n, hnext⟩ := t.nextBeat_no_ctrl false trained h
  rw [hnext.trans (TimeSt.stepAtBoundary_lock _ false hset hlock)]
  exact ⟨rfl, rfl⟩

end

/-! ### The beat that ends, and the values of the next -/

/-- Phase 0000 of the next beat before anything is decided there: the status lines of the beat that ends, the time block, the counters, and
the measured values (R473). -/
def State.beatBegun (s : State) (e : BeatEnv) : State :=
  let s0 := ((s.cycles (2250 - s.time.phase)).writeStatusFrom 32).timeBoundary.countBoundary.accessed 28
  s0.setPwr (s0.pwr.measure e s0.sec.stage.toNat)

section
variable (s : State) (e : BeatEnv)

/-- What the end of a beat can break. -/
theorem State.beatBegun_keeps {P : State → Prop} (hw : Frees P 0x21d00200015) (hs : P s) : P (s.beatBegun e) :=
  State.setPwr_keeps (hw.sub rfl) _ _ <| State.accessed_keeps (hw.sub rfl) _ _ <| State.countBoundary_keeps (hw.sub rfl) _ <|
    State.timeBoundary_keeps (hw.sub rfl) _ <| State.writeStatusFrom_keeps (hw.sub rfl) _ _ <| State.cycles_keeps (hw.sub rfl) _ _ hs

theorem State.cycles_stepGuard (n : Nat) : (s.cycles n).stepGuard = s.stepGuard := by
  obtain ⟨f, hf, hjobs⟩ := s.cycles_jobs n
  have hsame : Job.guards ∘ f = Job.guards := by
    funext j
    obtain ⟨a, ha⟩ := hf j
    rw [Function.comp_apply, ha]
    rfl
  rw [State.stepGuard, hjobs, List.any_map, hsame]
  rfl

/-- What the time block of the next beat is, by that of the last, the ports and the guard. -/
theorem State.beatBegun_time : (s.beatBegun e).time = s.time.nextBeat (fun p => (s.port p).st == 2) s.stepGuard := by
  let s1 := (s.cycles (2250 - s.time.phase)).writeStatusFrom 32
  have htime : s1.time = { s.time with phase := s.time.phase + (2250 - s.time.phase) } :=
    State.writeStatusFrom_keeps ((frees_time (· = _)).sub rfl) _ _ (s.cycles_time _)
  have hports : s1.ports = s.ports :=
    State.writeStatusFrom_keeps ((frees_ports (· = s.ports)).sub rfl) _ _ (State.cycles_keeps ((frees_ports (· = s.ports)).sub rfl) _ _ rfl)
  have hguard : s1.stepGuard = s.stepGuard :=
    State.writeStatusFrom_keeps ((frees_jobs fun l => l.any Job.guards = s.stepGuard).sub rfl) _ _ (s.cycles_stepGuard _)
  have hnext : s1.timeBoundary.time = s.time.nextBeat (fun p => (s.port p).st == 2) s.stepGuard := by
    have hport (p : Nat) : s1.port p = s.port p := by rw [State.port, hports]; rfl
    rw [State.timeBoundary, htime, hguard]
    simp only [hport]
    rfl
  have hcount : s1.timeBoundary.countBoundary.time = s1.timeBoundary.time :=
    State.countBoundary_keeps ((frees_time (· = s1.timeBoundary.time)).sub rfl) _ rfl
  rw [State.beatBegun, State.setPwr_time, State.accessed_time, hcount, hnext]

theorem State.beatBegun_sec : (s.beatBegun e).sec = s.sec := State.beatBegun_keeps s e ((frees_sec (· = s.sec)).sub rfl) rfl

theorem State.beatBegun_ports : (s.beatBegun e).ports = s.ports := State.beatBegun_keeps s e ((frees_ports (· = s.ports)).sub rfl) rfl

theorem State.beatBegun_dies : (s.beatBegun e).dies = s.dies := State.beatBegun_keeps s e ((frees_dies (· = s.dies)).sub rfl) rfl

/-- The measurements are taken; the switch and the level stay. -/
theorem State.beatBegun_pwr :
    (s.beatBegun e).pwr.on = s.pwr.on ∧ (s.beatBegun e).pwr.level = s.pwr.level ∧ (s.beatBegun e).pwr.vin = e.vin ∧
      (s.beatBegun e).pwr.iin = e.iin := by
  have hw := frees_pwr (· = s.pwr)
  have hpwr : ((s.cycles (2250 - s.time.phase)).writeStatusFrom 32).timeBoundary.countBoundary.pwr = s.pwr :=
    State.countBoundary_keeps (hw.sub rfl) _ <| State.timeBoundary_keeps (hw.sub rfl) _ <|
      State.writeStatusFrom_keeps (hw.sub rfl) _ _ <| State.cycles_keeps (hw.sub rfl) _ _ rfl
  rw [State.beatBegun, State.setPwr_pwr, State.accessed_pwr, hpwr]
  exact ⟨rfl, rfl, rfl, rfl⟩

end

/-! ### The shed ladder at a boundary -/

section
variable {P : State → Prop} (hw : Frees P 0x2059a7dfffe)
  (hpwr : ∀ (t : State) a k m n, P t → P (t.setPwr { t.pwr with acting := a, eff := k, supOut := m, thOut := n }))
  (hdie : ∀ t d v, v.cmds = [] → P t → P (t.setDie d v))
include hw hdie

theorem State.holdDies_inv (s : State) (hs : P s) : P s.holdDies :=
  Keep.foldl (fun t d ht => State.dropXlateUnit_keeps (hw.sub rfl) _ d (hdie t d (t.dieAt d).held rfl ht)) hs

theorem State.enterL4_inv (s : State) (hs : P s) : P s.enterL4 := by
  have hdevs : P (s.eachDev fun d => { d with selfRefresh := true }) := State.eachDev_keeps (hw.sub rfl) _ _ hs
  have hdies : P ([24, 25, 26, 27].foldl (fun s d => s.updDie d fun q => { q with ladder := true, cmds := [] })
      (s.eachDev fun d => { d with selfRefresh := true })) := Keep.foldl (fun t d ht => hdie t d { t.dieAt d with ladder := true, cmds := [] } rfl ht) hdevs
  exact Keep.foldl (fun t c ht => State.cxlDown_keeps (hw.sub rfl) t c 6 ht) hdies

include hpwr

theorem State.finishL3_inv (s : State) (hs : P s) : P s.finishL3 := by
  have hheld : P ((List.range 24).foldl (fun s d => s.fencedEvent d 0 fun _ => true) s.holdDies) :=
    Keep.foldl (fun t d ht => State.fencedEvent_keeps (hw.sub rfl) t d _ _ ht) (State.holdDies_inv hw hdie s hs)
  rw [State.finishL3]
  exact hpwr _ _ _ _ _ hheld

omit hdie in
theorem State.enterL3_inv (s : State) (hs : P s) : P s.enterL3 := by
  let asked := s.dropDumps.askPreemptAll 5 ((s.dropDumps.jobs.filter fun j => j.live).map (·.jid))
  have hasked : P asked := State.askPreemptAll_keeps (hw.sub rfl) _ _ _ (State.dropDumps_keeps (hw.sub rfl) s hs)
  have hframe : asked.pwr = s.dropDumps.pwr := State.askPreemptAll_keeps ((frees_pwr (· = s.dropDumps.pwr)).sub rfl) _ _ _ rfl
  have hset := hpwr asked true 3 asked.pwr.supOut asked.pwr.thOut hasked
  rw [hframe] at hset
  exact hset

/-- What no part beside the supply and the dies can break, and no step of the ladder there, the ladder keeps. -/
theorem State.descend_inv (s : State) (n : Nat) (hs : P s) : P (s.descend n) := by
  induction n generalizing s with
  | zero => exact hs
  | succ n ih =>
    unfold State.descend
    dsimp only
    split
    · split
      · exact hs
      · exact ih _ (State.finishL3_inv hw hpwr hdie s hs)
    · split
      · exact hs
      · split
        · exact ih _ (hpwr _ _ _ _ _ (State.enterL1_keeps (hw.sub rfl) s hs))
        · split
          · exact ih _ (hpwr _ _ _ _ _ hs)
          · split
            · exact ih _ (State.enterL3_inv hw hpwr s hs)
            · exact ih _ (hpwr _ _ _ _ _ (State.enterL4_inv hw hdie s hs))

end

section
variable (s : State) (h : s.pwr.level < 5)
include h

theorem State.shed_below_off : s.shed = s.descend 8 := if_neg (by omega)

/-- Below L5 the ladder leaves the switch and the measured values. -/
theorem State.shed_pwr : s.shed.pwr.on = s.pwr.on ∧ s.shed.pwr.vin = s.pwr.vin ∧ s.shed.pwr.iin = s.pwr.iin := by
  rw [s.shed_below_off h]
  exact State.descend_inv (P := fun t => t.pwr.on = s.pwr.on ∧ t.pwr.vin = s.pwr.vin ∧ t.pwr.iin = s.pwr.iin)
    ((frees_pwr fun p => p.on = s.pwr.on ∧ p.vin = s.pwr.vin ∧ p.iin = s.pwr.iin).sub rfl)
    (fun _ _ _ _ _ ht => ht) (fun _ _ _ _ ht => ht) s 8 ⟨rfl, rfl, rfl⟩

theorem State.shed_time : s.shed.time = s.time := by
  rw [s.shed_below_off h]
  exact State.descend_keeps ((frees_time (· = s.time)).sub rfl) _ _ rfl

theorem State.shed_ports : s.shed.ports = s.ports := by
  rw [s.shed_below_off h]
  exact State.descend_keeps ((frees_ports (· = s.ports)).sub rfl) _ _ rfl

/-- No die has a command written for it after the ladder that had none before. -/
theorem State.shed_no_cmds (hc : ∀ d, (s.dieAt d).cmds = []) (d : Nat) : (s.shed.dieAt d).cmds = [] := by
  rw [s.shed_below_off h]
  refine State.descend_inv (P := fun t => ∀ d, (t.dieAt d).cmds = []) ((frees_dies fun l => ∀ d, (tabGet DieSt.reset l d).cmds = []).sub rfl)
    (fun _ _ _ _ _ ht => ht) (fun t k v hv ht d => ?_) s 8 hc d
  rw [State.dieAt_setDie]
  split
  · exact hv
  · exact ht d

end

/-! ### What a boundary does on a module that stays on -/

/-- Everything the boundary does after the shed ladder. -/
def State.boundaryWork (s : State) : State :=
  let s2 := s.dieCommands.endFenced.decideClaims
  let s3 := ([0, 1].foldl State.hostBoundary ([0, 1].foldl State.boundaryHandover s2)).fetchBoundary
  let s4 := ([0, 1, 2, 3, 4, 5].foldl State.delayBoundary s3).launchWords
  s4.closeReconfs.stoppedPeriods.hangBeats.feed.showRecs.pinBoundary

section
variable {P : State → Prop}

/-- What comes after the die commands and before the new delays. -/
theorem State.boundary_hosts_keeps (hw : Frees P 0x7807dfff4) (s : State) (hs : P s) :
    P ([0, 1].foldl State.hostBoundary ([0, 1].foldl State.boundaryHandover s.endFenced.decideClaims)).fetchBoundary :=
  have hclaims := State.decideClaims_keeps (hw.sub rfl) _ (State.endFenced_keeps (hw.sub rfl) _ hs)
  have hhandover := Keep.foldl (fun t p ht => State.boundaryHandover_keeps (hw.sub rfl) t p ht) hclaims
  State.fetchBoundary_keeps (hw.sub rfl) _ (Keep.foldl (fun t p ht => State.hostBoundary_keeps (hw.sub rfl) t p ht) hhandover)

/-- What comes after the timing words. -/
theorem State.boundary_rest_keeps (hw : Frees P 0x28d8e7dfffe) (s : State) (hs : P s) :
    P s.closeReconfs.stoppedPeriods.hangBeats.feed.showRecs.pinBoundary :=
  State.pinBoundary_keeps (hw.sub rfl) _ <| State.showRecs_keeps (hw.sub rfl) _ <| State.feed_keeps (hw.sub rfl) _ <|
    State.hangBeats_keeps (hw.sub rfl) _ <| State.stoppedPeriods_keeps (hw.sub rfl) _ <| State.closeReconfs_keeps (hw.sub rfl) _ hs

theorem State.boundaryWork_keeps (hw : Frees P 0x2af9efffffe) (s : State) (hs : P s) : P s.boundaryWork := by
  have hhosts := State.boundary_hosts_keeps (hw.sub rfl) _ (State.dieCommands_keeps (hw.sub rfl) s hs)
  have hdelays := Keep.foldl (l := [0, 1, 2, 3, 4, 5]) (fun t p ht => State.delayBoundary_keeps (hw.sub rfl) t p ht) hhosts
  exact State.boundary_rest_keeps (hw.sub rfl) _ (State.launchWords_keeps (hw.sub rfl) _ hdelays)

end

theorem State.boundary_eq (s : State) (e : BeatEnv) : s.boundary e =
    if (s.beatBegun e).resetDue then (s.beatBegun e).warm false
    else if (s.beatBegun e).shed.pwr.on then (s.beatBegun e).shed.boundaryWork else (s.beatBegun e).shed := by
  unfold State.boundary State.beatBegun State.boundaryWork
  dsimp only
  generalize State.setPwr _ _ = m
  cases m.resetDue with
  | true => simp only [Bool.true_or, if_true]
  | false => cases hon : m.shed.pwr.on <;> simp [hon]

theorem exec_beatBoundary {s : State} (hon : s.pwr.on = true) (e : BeatEnv) : exec (.beatBoundary e) s = .next (s.boundary e) := by
  rw [exec, execBeatBoundary, s.ran_on _ hon]

section
variable {s : State} (e : BeatEnv) (hon : s.pwr.on = true) (hlevel : s.pwr.level < 5) (hreset : s.sec.resetAt = none)
include hon hlevel

theorem State.beatBegun_stays_on : (s.beatBegun e).pwr.level < 5 ∧ (s.beatBegun e).shed.pwr.on = true := by
  obtain ⟨hon', hlevel', -⟩ := s.beatBegun_pwr e
  have hlow : (s.beatBegun e).pwr.level < 5 := by rwa [hlevel']
  obtain ⟨hshed, -⟩ := State.shed_pwr _ hlow
  exact ⟨hlow, hshed.trans (hon'.trans hon)⟩

include hreset

/-- Where no warm reset is due, a module that stays on does its work. -/
theorem State.boundary_works : s.boundary e = (s.beatBegun e).shed.boundaryWork := by
  have hdue : (s.beatBegun e).resetDue = false := State.resetDue_none ((congrArg SecSt.resetAt (s.beatBegun_sec e)).trans hreset)
  rw [State.boundary_eq, hdue, if_neg (by decide), if_pos (State.beatBegun_stays_on e hon hlevel).2]

theorem State.boundary_time : (s.boundary e).time = s.time.nextBeat (fun p => (s.port p).st == 2) s.stepGuard := by
  have hwork : (s.beatBegun e).shed.boundaryWork.time = (s.beatBegun e).shed.time :=
    State.boundaryWork_keeps ((frees_time (· = (s.beatBegun e).shed.time)).sub rfl) _ rfl
  rw [State.boundary_works e hon hlevel hreset, hwork, State.shed_time _ (State.beatBegun_stays_on e hon hlevel).1, s.beatBegun_time e]

theorem State.boundary_pwr : (s.boundary e).pwr.on = true ∧ (s.boundary e).pwr.vin = e.vin ∧ (s.boundary e).pwr.iin = e.iin := by
  obtain ⟨hlow, hstays⟩ := State.beatBegun_stays_on e hon hlevel
  obtain ⟨-, -, hvin, hiin⟩ := s.beatBegun_pwr e
  obtain ⟨-, hvin', hiin'⟩ := State.shed_pwr _ hlow
  rw [State.boundary_works e hon hlevel hreset]
  exact State.boundaryWork_keeps ((frees_pwr fun p => p.on = true ∧ p.vin = e.vin ∧ p.iin = e.iin).sub rfl) _
    ⟨hstays, hvin'.trans hvin, hiin'.trans hiin⟩

end

/-- A warm reset that falls due in the beat is taken at its end (R494; log entry 3). -/
theorem State.boundary_resets {s : State} (e : BeatEnv) {g : Nat} (hreset : s.sec.resetAt = some g)
    (hg : g ≤ (s.time.beat + 1) % 2 ^ 48 * 2250) (hset : s.time.localSet = none) (hlock : s.time.lockDelta = none) :
    s.boundary e = (s.beatBegun e).warm false := by
  have hgt : (s.beatBegun e).gt = (s.time.beat + 1) % 2 ^ 48 * 2250 := by
    rw [State.gt, s.beatBegun_time e, TimeSt.nextBeat_phase, TimeSt.nextBeat_beat _ _ _ hset hlock, Nat.add_zero]
  have hdue : (s.beatBegun e).resetDue = true := by
    rw [State.resetDue_some ((congrArg SecSt.resetAt (s.beatBegun_sec e)).trans hreset), hgt]
    exact decide_eq_true hg
  rw [State.boundary_eq, if_pos hdue]

/-! ### The new delay of a link (R86) -/

/-- Die commands written for no die do nothing but to the dies. -/
theorem State.dieCommands_none {P : State → Prop} (hw : Frees P 0x2000000000) (s : State) (hc : ∀ d, (s.dieAt d).cmds = []) (hs : P s) :
    P s.dieCommands := by
  have hboth : (∀ d, (s.dieCommands.dieAt d).cmds = []) ∧ P s.dieCommands := by
    refine Keep.foldl (P := fun t => (∀ d, (t.dieAt d).cmds = []) ∧ P t) (fun t d ht => ?_) ⟨hc, hs⟩
    obtain ⟨hcmds, hP⟩ := ht
    dsimp only
    rw [hcmds d]
    refine ⟨fun k => ?_, State.updDie_keeps (hw.sub rfl) _ _ _ hP⟩
    rw [List.foldl_nil, State.updDie, State.dieAt_setDie]
    split
    · rfl
    · exact hcmds k
  exact hboth.2

/-- A port with its new delay in force. -/
def NlPort.delayed (q : NlPort) : NlPort :=
  match q.delayNext with
  | some d => { q with delay := d, delayNext := none }
  | none => q

theorem State.port_delayBoundary (s : State) (p q : Nat) :
    (s.delayBoundary p).port q = if q = p then (s.port p).delayed else s.port q := by
  cases h : (s.port p).delayNext with
  | some d =>
    have hs : s.delayBoundary p = s.updPort p fun q => { q with delay := d, delayNext := none } := by rw [State.delayBoundary, h]
    have hd : (s.port p).delayed = { s.port p with delay := d, delayNext := none } := by rw [NlPort.delayed, h]
    rw [hs, hd, State.port_updPort]
  | none =>
    have hs : s.delayBoundary p = s := by rw [State.delayBoundary, h]
    have hd : (s.port p).delayed = s.port p := by rw [NlPort.delayed, h]
    rw [hs, hd]
    split
    · next hq => rw [hq]
    · rfl

/-- A timing word to launch leaves the delays. -/
theorem State.port_launchWords {α : Type} (g : NlPort → α) (hg : ∀ q b, g { q with twDue := b } = g q) (s : State) (p : Nat) :
    g (s.launchWords.port p) = g (s.port p) := by
  unfold State.launchWords
  split
  · refine Keep.foldl (P := fun t => g (t.port p) = g (s.port p)) (fun t k ht => ?_) rfl
    split
    · rw [State.port_updPort]
      split
      · next hp => rw [hg, ← hp, ht]
      · exact ht
    · exact ht
  · rfl

/-- Where no die has a command, each port has its new delay in force after the boundary's work. -/
theorem State.boundaryWork_delay (s : State) (hc : ∀ d, (s.dieAt d).cmds = []) {p d : Nat} (hp : p < 6)
    (hd : (s.port p).delayNext = some d) : (s.boundaryWork.port p).delay = d ∧ (s.boundaryWork.port p).delayNext = none := by
  let s3 := ([0, 1].foldl State.hostBoundary ([0, 1].foldl State.boundaryHandover s.dieCommands.endFenced.decideClaims)).fetchBoundary
  let s4 := [0, 1, 2, 3, 4, 5].foldl State.delayBoundary s3
  have hports : s3.ports = s.ports :=
    State.boundary_hosts_keeps ((frees_ports (· = s.ports)).sub rfl) _ (State.dieCommands_none ((frees_ports (· = s.ports)).sub rfl) s hc rfl)
  have hport : s3.port p = s.port p := by rw [State.port, hports]; rfl
  have hdelay : s4.port p = (s.port p).delayed := by
    rw [← hport]
    exact (State.port_foldl (I := fun _ => True) (g := fun _ => NlPort.delayed) (fun _ _ _ => trivial)
      (fun t p q _ => State.port_delayBoundary t p q) (by decide) s3 trivial p).trans (if_pos (mem_ports hp))
  have hlaunch : (s4.launchWords.port p).delay = d ∧ (s4.launchWords.port p).delayNext = none := by
    rw [State.port_launchWords NlPort.delay (fun _ _ => rfl), State.port_launchWords NlPort.delayNext (fun _ _ => rfl), hdelay, NlPort.delayed, hd]
    exact ⟨rfl, rfl⟩
  exact State.boundary_rest_keeps ((frees_ports fun l => (tabGet NlPort.reset l p).delay = d ∧ (tabGet NlPort.reset l p).delayNext = none).sub rfl)
    _ hlaunch

end Sys2Proof.Machine

namespace Sys2Proof
open Machine

/-- Settles O7: the time block's part by what waits, the ladder below L5, and the rest, which leaves both. -/
theorem beatBoundary : Obligations.beat_boundary := by
  intro e s hon hlevel
  refine ⟨fun hreset => ?_, fun g hreset hg hctrl hset hlock => ?_⟩
  · obtain ⟨hon', hvin, hiin⟩ := State.boundary_pwr e hon hlevel hreset
    refine ⟨_, exec_beatBoundary hon e, ?_, hon', hvin, hiin, ?_⟩
    · rw [State.boundary_time e hon hlevel hreset, TimeSt.nextBeat_phase]
    rw [State.boundary_time e hon hlevel hreset]
    refine ⟨TimeSt.nextBeat_ctrlNext _ _ _, fun hctrl => ?_, fun v hctrl => TimeSt.nextBeat_written _ _ _ hctrl,
      TimeSt.nextBeat_beat _ _ _, fun b hset hctrl hg => ?_, fun b hset hctrl hg => ?_, fun d hset hlock hctrl hg => ?_, fun hcmds p d hp hd => ?_⟩
    · obtain ⟨hrole, hdown, -⟩ := s.time.nextBeat_kept s.stepGuard (fun p => (s.port p).st == 2) hctrl
      exact ⟨hrole, hdown⟩
    · exact (TimeSt.nextBeat_set _ _ _ hset hctrl).1 hg
    · exact (TimeSt.nextBeat_set _ _ _ hset hctrl).2 hg
    · rw [hg]
      exact TimeSt.nextBeat_lock _ _ hset hlock hctrl
    · obtain ⟨hlow, -⟩ := State.beatBegun_stays_on e hon hlevel
      rw [State.boundary_works e hon hlevel hreset]
      refine State.boundaryWork_delay _ (State.shed_no_cmds _ hlow fun k => ?_) hp ?_
      · rw [State.dieAt, s.beatBegun_dies e]
        exact hcmds k
      · rw [State.port, State.shed_ports _ hlow, s.beatBegun_ports e]
        exact hd
  · obtain ⟨-, htime, hjobs, hunits, hstage, hon'⟩ := (s.beatBegun e).warm_restarted false
    exact ⟨_, (exec_beatBoundary hon e).trans (congrArg _ (State.boundary_resets e hreset hg hset hlock)), hstage, hjobs, hunits, htime, hon'⟩

end Sys2Proof
end

section
/-! PROOF. The guard of R90 over a beat boundary: nothing a boundary does to the jobs makes one count that did not. -/

namespace Sys2Proof.Machine

/-- No job with marks is admitted or preempted: the guard of R90 is open. -/
def State.Unguarded (s : State) : Prop := s.stepGuard = false

theorem State.unguarded_iff (s : State) : s.Unguarded ↔ ∀ j ∈ s.jobs, j.guards = false := by
  rw [State.Unguarded, State.stepGuard, List.any_eq_false]
  simp only [Bool.not_eq_true]

/-- No part beside the jobs counts. -/
theorem frees_unguarded : Frees State.Unguarded 0x3FFFFDFFFFF := frees_jobs fun l => l.any Job.guards = false

/-- A change of a job after which it does not count if it did not before. -/
def Unguarding (f : Job → Job) : Prop := ∀ j, j.guards = false → (f j).guards = false

/-- Life, waiting and the marks are all that counts. -/
theorem unguarding_of_parts {f : Job → Job} (hphase : ∀ j, (f j).phase = j.phase) (hbin : ∀ j, (f j).bin = j.bin) : Unguarding f := by
  intro j hj
  rwa [Job.guards, Job.live, hphase, hbin, ← Job.live, ← Job.guards]

theorem Job.guards_eq_false {j : Job} (h : j.phase = .ended ∨ j.phase = .waiting ∨ j.bin.marks = []) : j.guards = false := by
  rcases h with h | h | h <;> simp [Job.guards, Job.live, h]

theorem Job.guards_false {j : Job} (h : j.guards = false) : j.phase = .ended ∨ j.phase = .waiting ∨ j.bin.marks = [] := by
  by_contra hnot
  obtain ⟨hended, hwaiting, hmarks⟩ : j.phase ≠ .ended ∧ j.phase ≠ .waiting ∧ j.bin.marks ≠ [] := by tauto
  simp [Job.guards, Job.live, hended, hwaiting, hmarks] at h

theorem Job.setBucket_parts (j : Job) (id : Nat) (f : BucketSt → BucketSt) :
    (j.setBucket id f).phase = j.phase ∧ (j.setBucket id f).bin = j.bin := by
  unfold Job.setBucket
  split <;> exact ⟨rfl, rfl⟩

section
variable {s : State} (h : s.Unguarded)
include h

theorem State.Unguarded.updJob {f : Job → Job} (hf : Unguarding f) (k : U64) : (s.updJob k f).Unguarded := by
  rw [State.unguarded_iff] at h ⊢
  intro j hj
  rw [State.updJob_jobs, List.mem_map] at hj
  obtain ⟨i, hi, rfl⟩ := hj
  split
  · exact hf i (h i hi)
  · exact h i hi

theorem State.Unguarded.filter (p : Job → Bool) : { s with jobs := s.jobs.filter p }.Unguarded := by
  rw [State.unguarded_iff] at h ⊢
  exact fun j hj => h j (List.mem_of_mem_filter hj)

/-! ### The end of a job -/

theorem State.Unguarded.release (j : Job) : (s.release j).Unguarded := by
  have hw := frees_unguarded
  have hoff : ((((s.dropRecfgs j.jid).clearUnits (s.unitsOf j.jid)).clearQueues (binQueues j.bin ++ ftqKeys (s.unitsOf j.jid))).disarm
      j.bin.syncs).Unguarded :=
    State.disarm_keeps (hw.sub rfl) _ _ <| State.clearQueues_keeps (hw.sub rfl) _ _ <| State.clearUnits_keeps (hw.sub rfl) _ _ <|
      State.dropRecfgs_keeps (hw.sub rfl) _ _ h
  have hfree := State.freeOwners_keeps (hw.sub rfl) _ j (State.stopTrace_keeps (hw.sub rfl) _ j.jid hoff)
  exact State.updCtx_keeps (hw.sub rfl) _ _ _ (hfree.filter fun k => k.jid != j.jid)

theorem State.Unguarded.finish (j : Job) (disp reason late : Nat) : (s.finish j disp reason late).Unguarded :=
  (State.postCpl_keeps (P := State.Unguarded) (frees_unguarded.sub rfl) _ _ _ h).release j

/-- What is done with a live job, or nothing. -/
theorem State.Unguarded.withJob (k : U64) {f : Job → State} (hf : ∀ j, (f j).Unguarded) : (s.withJob k f).Unguarded := by
  unfold State.withJob
  split
  · exact hf _
  · exact h

theorem State.Unguarded.abortJob (k : U64) (disp : Nat) : (s.abortJob k disp).Unguarded := h.withJob k fun j => h.finish j disp 0 0

theorem State.Unguarded.abortAll (disp : Nat) (l : List U64) : (s.abortAll disp l).Unguarded := by
  induction l generalizing s with
  | nil => exact h
  | cons k l ih => exact ih (h.abortJob k disp)

theorem State.Unguarded.jobFault (k : U64) (cause access unit : Nat) (isDie : Bool) (dva bytes : Nat) :
    (s.jobFault k cause access unit isDie dva bytes).Unguarded :=
  h.withJob k fun _ => State.Unguarded.abortJob (State.postFault_keeps (frees_unguarded.sub rfl) _ _ _ h) k 6

theorem State.Unguarded.poisonFault (k : U64) (access unit : Nat) (isDie : Bool) (dva addr bytes : Nat) :
    (s.poisonFault k access unit isDie dva addr bytes).Unguarded :=
  h.withJob k fun _ => State.Unguarded.jobFault (State.event_keeps (frees_unguarded.sub rfl) _ _ _ _ _ h) k _ _ _ _ _ _

theorem State.Unguarded.unavailable (k : U64) : (s.unavailable k).Unguarded := by
  rw [State.unavailable]
  refine h.updJob (unguarding_of_parts (fun _ => ?_) fun _ => ?_) k <;> rfl

/-! ### The shed ladder -/

theorem State.Unguarded.askPreempt (k : U64) (cause : Nat) : (s.askPreempt k cause).Unguarded := by
  unfold State.askPreempt
  refine h.updJob (fun j hj => ?_) k
  obtain hph | hph | hmarks := Job.guards_false hj
  · rw [hph]; exact hj
  · rw [hph]; exact hj
  · repeat' split
    all_goals exact Job.guards_eq_false (.inr (.inr hmarks))

theorem State.Unguarded.askPreemptAll (cause : Nat) (l : List U64) : (s.askPreemptAll cause l).Unguarded := by
  induction l generalizing s with
  | nil => exact h
  | cons k l ih => exact ih (h.askPreempt k cause)

theorem State.Unguarded.deliverCxl (c : Nat) (r : CxlReq) (poison : Bool) : (s.deliverCxl c r poison).Unguarded := by
  have hw := frees_unguarded
  have hcount (k n : Nat) {t : State} (ht : t.Unguarded) : (t.cntAdd k n).Unguarded := State.cntAdd_keeps (hw.sub rfl) t k n ht
  have hmoved : (if r.write then s.cntAdd (cntCxl c 1) 64 else s.cntAdd (cntCxl c 0) 64).Unguarded := by
    split
    · exact hcount _ _ h
    · exact hcount _ _ h
  unfold State.deliverCxl
  dsimp only
  split
  · exact hmoved
  · have hpoison := hcount (cntCxl c 3) 1 hmoved
    split
    · exact hpoison
    · exact hpoison.withJob _ fun j => State.Unguarded.jobFault (State.event_keeps (hw.sub rfl) _ _ _ _ _ hpoison) _ _ _ _ _ _ _

theorem State.Unguarded.cxlDown (c cause : Nat) : (s.cxlDown c cause).Unguarded := by
  have hw := frees_unguarded
  unfold State.cxlDown
  dsimp only
  split
  · exact h
  · refine Keep.foldl (fun t r ht => ?_) (State.linkDownEvent_keeps (hw.sub rfl) _ _ _ _ _ (State.setCxl_keeps (hw.sub rfl) _ _ _ h))
    split
    · exact State.loseWrite_keeps (hw.sub rfl) t r ht
    · exact ht.deliverCxl c r true

theorem State.Unguarded.enterL4 : s.enterL4.Unguarded := by
  have hw := frees_unguarded
  have hdevs := State.eachDev_keeps (hw.sub rfl) s (fun d => { d with selfRefresh := true }) h
  have hdies := Keep.foldl (l := [24, 25, 26, 27])
    (fun t d ht => State.updDie_keeps (hw.sub rfl) t d (fun q => { q with ladder := true, cmds := [] }) ht) hdevs
  exact Keep.foldl (fun t c ht => State.Unguarded.cxlDown ht c 6) hdies

theorem State.Unguarded.enterL3 : s.enterL3.Unguarded :=
  have hw := frees_unguarded
  State.setPwr_keeps (hw.sub rfl) _ _ (State.Unguarded.askPreemptAll (State.dropDumps_keeps (hw.sub rfl) s h) 5 _)

theorem State.Unguarded.descend (n : Nat) : (s.descend n).Unguarded := by
  have hw := frees_unguarded
  have hpwr {t : State} (p : PowerSt) (ht : t.Unguarded) : (t.setPwr p).Unguarded := State.setPwr_keeps (hw.sub rfl) t p ht
  induction n generalizing s with
  | zero => exact h
  | succ n ih =>
    unfold State.descend
    dsimp only
    split
    · split
      · exact h
      · exact ih (State.finishL3_keeps (hw.sub rfl) s h)
    · split
      · exact h
      · split
        · exact ih (hpwr _ (State.enterL1_keeps (hw.sub rfl) s h))
        · split
          · exact ih (hpwr _ h)
          · split
            · exact ih h.enterL3
            · exact ih (hpwr _ h.enterL4)

/-! ### Dies -/

theorem State.Unguarded.takeDieCmd (d cmd : Nat) : (s.takeDieCmd d cmd).Unguarded := by
  have hw := frees_unguarded
  have hset (q : DieSt) : (s.setDie d q).Unguarded := State.setDie_keeps (hw.sub rfl) s d q h
  unfold State.takeDieCmd
  dsimp only
  split
  · split
    · exact (hset _).abortAll _ _
    · split
      · exact hset _
      · split
        · exact State.resetDie_keeps (hw.sub rfl) _ _ _ (hset _)
        · split
          · exact State.rejoinDie_keeps (hw.sub rfl) _ _ (hset _)
          · exact hset _
  · exact hset _

theorem State.Unguarded.dieCommands : s.dieCommands.Unguarded :=
  Keep.foldl (fun t d ht => Keep.foldl (fun _ c hu => State.Unguarded.takeDieCmd hu d c.toNat)
    (State.updDie_keeps (frees_unguarded.sub rfl) t d _ ht)) h

theorem State.Unguarded.endFenced : s.endFenced.Unguarded := by
  refine Keep.foldl (fun t j ht => ?_) h
  split
  · exact State.Unguarded.abortJob ht _ _
  · exact ht

/-! ### What a standalone replay supplies -/

theorem State.Unguarded.ingestItem (j : Job) (port stamp : Nat) (query : Bool) (dva : Nat) (data : List Byte) :
    (s.ingestItem j port stamp query dva data).Unguarded := by
  have hw := frees_unguarded
  unfold State.ingestItem
  refine State.Unguarded.updJob (State.record_keeps (hw.sub rfl) _ _ _ _ _ (State.storeQuiet_keeps (hw.sub rfl) s _ _ _ h))
    (unguarding_of_parts (fun j => ?_) fun j => ?_) _
  all_goals
    repeat' split
    all_goals rfl

theorem State.Unguarded.delivered (j : Job) (p : Nat) {a : Acc State} {f : State → State} (ha : AccAll State.Unguarded id a)
    (hf : ∀ t, t.Unguarded → (f t).Unguarded) : (s.delivered j p a f).Unguarded := by
  have hcount : (s.cntAdd (cntNelil p 6) 1).Unguarded := State.cntAdd_keeps (frees_unguarded.sub rfl) s _ _ h
  unfold State.delivered
  split
  · exact hf _ (ha _ rfl)
  · dsimp only
    split
    · exact hcount.poisonFault _ _ _ _ _ _ _
    · split
      · exact hcount.unavailable _
      · exact hcount.jobFault _ _ _ _ _ _ _
  · exact hcount.jobFault _ _ _ _ _ _ _

theorem State.Unguarded.moduleSignal (j : Job) (die : Nat) (sid : U16) : (s.moduleSignal j die sid).Unguarded := by
  unfold State.moduleSignal
  dsimp only
  split
  · exact h.unavailable _
  · split
    · exact h.jobFault _ _ _ _ _ _ _
    · exact State.putValue_keeps (frees_unguarded.sub rfl) s sid _ h

/-- A packet of a job is counted, traced and recorded. -/
theorem State.Unguarded.traced (jid : U64) (p : Nat) (k : Packet) (words : List Nat) (data : List Byte) :
    ((s.tracePacket jid p k).record jid 0x05 words data).Unguarded :=
  State.record_keeps (frees_unguarded.sub rfl) _ _ _ _ _ (State.tracePacket_keeps (frees_unguarded.sub rfl) s jid p k h)

theorem State.Unguarded.deliverHalo (j : Job) (p : Nat) (k : Packet) : (s.deliverHalo j p k).Unguarded := by
  have hbad : (s.jobFault j.jid 0x15 3 (28 + p % 2) true 0 0).Unguarded := h.jobFault _ _ _ _ _ _ _
  unfold State.deliverHalo
  dsimp only
  split
  · exact hbad
  · split
    · exact hbad
    · split
      · exact hbad
      · refine h.delivered j p (State.storeView_keeps (frees_unguarded.sub rfl) s _ _ _ h) fun t ht => ?_
        have hrec := State.Unguarded.traced
          (ht.updJob (f := fun j => { j with progress := true }) (unguarding_of_parts (fun _ => rfl) fun _ => rfl) j.jid) j.jid p k
          [bits k.hdr 0 64, bits k.hdr 64 64, bits k.hdr 128 64, bits k.hdr 192 64, k.stamp, digestOf k.data] k.data
        split
        · exact hrec.moduleSignal _ _ _
        · exact hrec

theorem State.Unguarded.deliverBlocks (j : Job) (p : Nat) (b : BSpec) (dim : Nat) (spread : Bool) (pk : Packet) :
    (s.deliverBlocks j p b dim spread pk).Unguarded := by
  have hw := frees_unguarded
  unfold State.deliverBlocks
  dsimp only
  split
  · exact h
  · refine h.delivered j p ?_ fun t ht => ?_
    · split
      · exact State.storeParts_keeps (hw.sub rfl) s _ _ h
      · split
        · exact State.storeView_keeps (hw.sub rfl) s _ _ _ h
        · exact AccAll.ok h
    · refine State.Unguarded.traced (ht.updJob (unguarding_of_parts (fun i => ?_) fun i => ?_) j.jid) _ _ _ _ _
      · exact (i.setBucket_parts b.id _).1
      · exact (i.setBucket_parts b.id _).2

theorem State.Unguarded.deliverCork (j : Job) (k : Packet) : (s.deliverCork j k).Unguarded := by
  unfold State.deliverCork
  dsimp only
  refine State.Unguarded.updJob (State.Unguarded.updJob (h.traced _ _ _ _ _) (unguarding_of_parts (fun i => ?_) fun i => ?_) _)
    (unguarding_of_parts (fun i => ?_) fun i => ?_) _
  all_goals
    repeat' split
    all_goals rfl

theorem State.Unguarded.deliverAgain (j : Job) (e : RecEntry) : (s.deliverAgain j e).Unguarded := by
  unfold State.deliverAgain
  extract_lets k p s1 had
  have hdone : s1.Unguarded := by
    unfold s1
    split
    · exact h.deliverHalo _ _ _
    · split
      · exact h.deliverCork _ _
      · split
        · exact h.deliverBlocks _ _ _ _ _ _
        · exact h
  split
  · exact hdone
  · exact State.record_keeps (frees_unguarded.sub rfl) _ _ _ _ _ hdone

theorem State.Unguarded.supplyAll (jid : U64) (n : Nat) : (s.supplyAll jid n).Unguarded := by
  induction n generalizing s with
  | zero => exact h
  | succ n ih =>
    unfold State.supplyAll
    split
    · split
      · refine ih ?_
        unfold State.supply
        dsimp only
        split
        · exact h.ingestItem _ _ _ _ _ _
        · exact h.deliverAgain _ _
      · exact h
    · exact h

theorem State.Unguarded.feed : s.feed.Unguarded := by
  unfold State.feed
  split
  · exact h
  · split
    · exact h
    · exact h.supplyAll _ _

/-! ### The boundary -/

theorem State.Unguarded.stoppedPeriods : s.stoppedPeriods.Unguarded := by
  refine Keep.foldl (fun t j ht => ?_) h
  unfold State.stoppedPeriod
  dsimp only
  split
  · refine State.Unguarded.updJob ht (unguarding_of_parts (fun _ => ?_) fun _ => ?_) _ <;> rfl
  · exact ht

theorem State.Unguarded.hangBeats : s.hangBeats.Unguarded := by
  refine Keep.foldl (fun t j ht => ?_) h
  unfold State.hangBeat
  dsimp only
  refine State.Unguarded.updJob ht (unguarding_of_parts (fun _ => ?_) fun _ => ?_) _ <;> rfl

theorem State.Unguarded.boundaryWork : s.boundaryWork.Unguarded := by
  have hw := frees_unguarded
  have hclaims := State.decideClaims_keeps (hw.sub rfl) _ h.dieCommands.endFenced
  have hhandover := Keep.foldl (l := [0, 1]) (fun t p ht => State.boundaryHandover_keeps (hw.sub rfl) t p ht) hclaims
  have hfetch := State.fetchBoundary_keeps (hw.sub rfl) _
    (Keep.foldl (l := [0, 1]) (fun t p ht => State.hostBoundary_keeps (hw.sub rfl) t p ht) hhandover)
  have hdelays := Keep.foldl (l := [0, 1, 2, 3, 4, 5]) (fun t p ht => State.delayBoundary_keeps (hw.sub rfl) t p ht) hfetch
  have hclosed : State.Unguarded _ := State.closeReconfs_keeps (hw.sub rfl) _ (State.launchWords_keeps (hw.sub rfl) _ hdelays)
  exact State.pinBoundary_keeps (hw.sub rfl) _ (State.showRecs_keeps (hw.sub rfl) _ hclosed.stoppedPeriods.hangBeats.feed)

theorem State.Unguarded.beatBegun (e : BeatEnv) : (s.beatBegun e).Unguarded := by
  have hw := frees_unguarded
  have hcycles : (s.cycles (2250 - s.time.phase)).Unguarded := (s.cycles_stepGuard _).trans h
  exact State.setPwr_keeps (hw.sub rfl) _ _ <| State.accessed_keeps (hw.sub rfl) _ _ <| State.countBoundary_keeps (hw.sub rfl) _ <|
    State.timeBoundary_keeps (hw.sub rfl) _ <| State.writeStatusFrom_keeps (hw.sub rfl) _ _ hcycles

/-- A boundary on a module that stays on leaves the guard open. -/
theorem State.Unguarded.boundary (e : BeatEnv) (hon : s.pwr.on = true) (hlevel : s.pwr.level < 5) (hreset : s.sec.resetAt = none) :
    (s.boundary e).Unguarded := by
  have hshed := (h.beatBegun e).descend 8
  rw [← State.shed_below_off _ (State.beatBegun_stays_on e hon hlevel).1] at hshed
  rw [State.boundary_works e hon hlevel hreset]
  exact hshed.boundaryWork

end

end Sys2Proof.Machine
end

section
/-! PROOF. Edges at the beat root, and HOLDOVER (R82, R83, R90 to R92, R506); O8. -/

namespace Sys2Proof.Machine

/-! ### What an edge does to the time state -/

section
variable {t : TimeSt} {guard : Bool} {now : Nat}

theorem TimeSt.applySet_held (h : t.beatSet = none ∨ guard = true) : t.applySet guard = t := by
  unfold TimeSt.applySet
  obtain h | h := h
  · rw [h]
  · subst h
    split <;> rfl

theorem TimeSt.applySet_taken {b : Nat} (h : t.beatSet = some b) :
    t.applySet false = { t with beat := b % 2 ^ 48, phase := 0, beatSet := none } := by
  rw [TimeSt.applySet, h]
  rfl

theorem TimeSt.edge_free (h : t.st = .free) : t.edge guard now = { t with st := .acquiring, acqAt := some now } := by
  rw [TimeSt.edge, h]

theorem TimeSt.edge_acquiring_waits (h : t.st = .acquiring) (hw : t.beatSet = none ∨ guard = true ∨ t.acqAt = some now) :
    t.edge guard now = t := by
  rw [TimeSt.edge, h]
  refine if_pos ?_
  rcases hw with hw | hw | hw <;> simp [hw]

theorem TimeSt.edge_acquiring_locks {b : Nat} (h : t.st = .acquiring) (hat : t.acqAt ≠ some now) (hset : t.beatSet = some b) :
    t.edge false now = { t with st := .locked, beat := b % 2 ^ 48, phase := 0, beatSet := none, silent := 0, seen := true } := by
  have hgo : ¬ (t.acqAt == some now || t.beatSet.isNone || false) = true := by simp [hat, hset]
  rw [TimeSt.edge, h]
  dsimp only
  rw [if_neg hgo, TimeSt.applySet_taken hset]

theorem TimeSt.edge_locked (h : t.st = .locked) : t.edge guard now = { t.applySet guard with silent := 0, seen := true } := by
  rw [TimeSt.edge, h]

/-- A BEAT_SET taken in LOCKED is the beat, at phase 0000. -/
theorem TimeSt.edge_steps {b : Nat} (h : t.st = .locked) (hset : t.beatSet = some b) :
    (t.edge false now).st = .locked ∧ (t.edge false now).beat = b % 2 ^ 48 ∧ (t.edge false now).phase = 0 ∧
      (t.edge false now).beatSet = none := by
  rw [TimeSt.edge_locked h, TimeSt.applySet_taken hset]
  exact ⟨h, rfl, rfl, rfl⟩

theorem TimeSt.edge_holdover (h : t.st = .holdover) :
    t.edge guard now = if t.held < t.holdLimit then { t with st := .locked, silent := 0, held := 0, seen := true } else t := by
  rw [TimeSt.edge, h]

end

/-! ### BEAT_EDGE -/

theorem TimeSt.root_passes {t : TimeSt} (h : t.role = 1) : ¬ (!t.isRoot) = true := by simp [TimeSt.isRoot, h]

section
variable {s : State} {ns : Nat} (hon : s.pwr.on = true)
include hon

theorem exec_beatEdge_elsewhere (h : s.time.role ≠ 1) : exec (.beatEdge ns) s = .next s := by
  rw [exec, execBeatEdge, s.ran_on _ hon]
  refine congrArg _ (if_pos ?_)
  simpa [TimeSt.isRoot] using h

variable (hroot : s.time.role = 1)
include hroot

theorem exec_beatEdge_early (h : ns < 900) :
    exec (.beatEdge ns) s = .next { s with time := { s.time with badWords := min (s.time.badWords + 1) 65535 } } := by
  rw [exec, execBeatEdge, s.ran_on _ hon]
  exact congrArg _ ((if_neg (TimeSt.root_passes hroot)).trans (if_pos h))

variable (hns : 900 ≤ ns)
include hns

/-- An edge in time, where no boundary comes before it. -/
theorem exec_beatEdge_here (h : s.edgeTaken = false ∨ s.time.phase = 0) : exec (.beatEdge ns) s = .next
    (if s.time.st = .acquiring ∧ (s.time.edge s.stepGuard s.gt).st = .locked then (s.setTime (s.time.edge s.stepGuard s.gt)).launchWords
      else s.setTime (s.time.edge s.stepGuard s.gt)) := by
  have hno : ¬ (s.edgeTaken && s.time.phase != 0) = true := by
    rcases h with h | h <;> simp [h]
  have hstay : ¬ (!s.pwr.on) = true := by simp [hon]
  rw [exec, execBeatEdge, s.ran_on _ hon]
  dsimp only
  rw [if_neg (TimeSt.root_passes hroot), if_neg (Nat.not_lt.mpr hns), if_neg hno, if_neg hstay]
  rfl

/-- Such an edge that does not lock an acquiring module writes the time state alone. -/
theorem exec_beatEdge_alone (h : s.edgeTaken = false) (hst : s.time.st ≠ .acquiring ∨ (s.time.edge s.stepGuard s.gt).st ≠ .locked) :
    exec (.beatEdge ns) s = .next { s with time := s.time.edge s.stepGuard s.gt } := by
  rw [exec_beatEdge_here hon hroot hns (.inl h), if_neg (by tauto)]
  rfl

theorem exec_beatEdge_free (h : s.time.st = .free) :
    exec (.beatEdge ns) s = .next { s with time := { s.time with st := .acquiring, acqAt := some s.gt } } := by
  have htaken : s.edgeTaken = false := by simp [State.edgeTaken, h]
  rw [exec_beatEdge_alone hon hroot hns htaken (.inl (by rw [h]; decide)), TimeSt.edge_free h]

theorem exec_beatEdge_waits (h : s.time.st = .acquiring) (hw : s.time.beatSet = none ∨ s.stepGuard = true ∨ s.time.acqAt = some s.gt) :
    exec (.beatEdge ns) s = .next s := by
  have htaken : s.edgeTaken = false := by
    rcases hw with hw | hw | hw <;> simp [State.edgeTaken, h, hw]
  have hedge := TimeSt.edge_acquiring_waits h hw
  rw [exec_beatEdge_alone hon hroot hns htaken (.inr (by rw [hedge, h]; decide)), hedge]

theorem exec_beatEdge_locks (hph : s.time.phase = 0) (h : s.time.st = .acquiring) (hg : s.stepGuard = false) (hat : s.time.acqAt ≠ some s.gt)
    {b : Nat} (hset : s.time.beatSet = some b) : exec (.beatEdge ns) s = .next (State.launchWords { s with time :=
      { s.time with st := .locked, beat := b % 2 ^ 48, beatSet := none, silent := 0, seen := true } }) := by
  have hedge := TimeSt.edge_acquiring_locks (now := s.gt) h hat hset
  rw [exec_beatEdge_here hon hroot hns (.inr hph), hg, hedge, if_pos ⟨h, rfl⟩]
  rw [← hph]
  rfl

theorem exec_beatEdge_alive (h : s.time.st = .locked) (hw : s.time.beatSet = none ∨ s.stepGuard = true) :
    exec (.beatEdge ns) s = .next { s with time := { s.time with silent := 0, seen := true } } := by
  have htaken : s.edgeTaken = false := by
    rcases hw with hw | hw <;> simp [State.edgeTaken, hw]
  rw [exec_beatEdge_alone hon hroot hns htaken (.inl (by rw [h]; decide)), TimeSt.edge_locked h, TimeSt.applySet_held hw]

theorem exec_beatEdge_holdover (h : s.time.st = .holdover) : exec (.beatEdge ns) s = .next { s with time :=
    if s.time.held < s.time.holdLimit then { s.time with st := .locked, silent := 0, held := 0, seen := true } else s.time } := by
  have htaken : s.edgeTaken = false := by simp [State.edgeTaken, h]
  rw [exec_beatEdge_alone hon hroot hns htaken (.inl (by rw [h]; decide)), TimeSt.edge_holdover h]

/-- A BEAT_SET in LOCKED is the step, after the boundary where the phase is above 0 (R82). -/
theorem exec_beatEdge_steps (h : s.time.st = .locked) (hg : s.stepGuard = false) (hctrl : s.time.ctrlNext = none) (hreset : s.sec.resetAt = none)
    (hlevel : s.pwr.level < 5) {b : Nat} (hset : s.time.beatSet = some b) : ∃ t, exec (.beatEdge ns) s = .next t ∧
      t.time.st = .locked ∧ t.time.beat = b % 2 ^ 48 ∧ t.time.phase = 0 ∧ t.time.beatSet = none := by
  by_cases hph : s.time.phase = 0
  · refine ⟨_, exec_beatEdge_here hon hroot hns (.inr hph), ?_⟩
    rw [if_neg (by rw [h]; simp), hg]
    exact TimeSt.edge_steps h hset
  · let u := s.boundary s.pwr.env
    have htime : u.time = s.time.nextBeat (fun p => (s.port p).st == 2) s.stepGuard := State.boundary_time s.pwr.env hon hlevel hreset
    obtain ⟨-, -, hkeptSet, hkeptSt⟩ := s.time.nextBeat_kept s.stepGuard (fun p => (s.port p).st == 2) hctrl
    have hst : u.time.st = .locked := by rw [htime]; exact hkeptSt h
    have hus : u.time.beatSet = some b := by rw [htime, hkeptSet, hset]
    have hug : u.stepGuard = false := State.Unguarded.boundary hg s.pwr.env hon hlevel hreset
    obtain ⟨huon, -⟩ := State.boundary_pwr s.pwr.env hon hlevel hreset
    have htaken : (s.edgeTaken && s.time.phase != 0) = true := by simp [State.edgeTaken, hset, hg, h, hph]
    have hstay : ¬ (!u.pwr.on) = true := by simp [u, huon]
    refine ⟨u.setTime (u.time.edge u.stepGuard u.gt), ?_, ?_⟩
    · rw [exec, execBeatEdge, s.ran_on _ hon]
      dsimp only
      rw [if_neg (TimeSt.root_passes hroot), if_neg (Nat.not_lt.mpr hns), if_pos htaken, if_neg hstay, if_neg (by rw [hst]; simp)]
    · rw [hug, State.setTime_time]
      exact TimeSt.edge_steps hst hus

end

/-! ### HOLDOVER -/

section
variable {s : State} (hon : s.pwr.on = true)
include hon

theorem exec_holdoverEntry_not (h : s.time.st ≠ .locked ∨ s.time.silent < 4) : exec .holdoverEntry s = .next s := by
  rw [exec, execHoldoverEntry, s.ran_on _ hon]
  refine congrArg _ (if_neg ?_)
  rintro ⟨hst, hsilent⟩
  rcases h with h | h
  · exact h hst
  · omega

theorem exec_holdoverEntry_silent (h : s.time.st = .locked) (hs : 4 ≤ s.time.silent) : ∃ t, exec .holdoverEntry s = .next t ∧
    t.time = { s.time with st := .holdover, held := 0, silent := 0, lossCount := min (s.time.lossCount + 1) 65535 } := by
  rw [exec, execHoldoverEntry, s.ran_on _ hon]
  let lost : TimeSt := { s.time with st := .holdover, held := 0, silent := 0, lossCount := min (s.time.lossCount + 1) 65535 }
  exact ⟨(s.setTime lost).beatLost, congrArg _ (if_pos ⟨h, hs⟩), State.beatLost_keeps ((frees_time (· = lost)).sub rfl) _ rfl⟩

theorem exec_holdoverExpiry_not (h : s.time.st ≠ .holdover ∨ s.time.held < min s.time.holdBeats.toNat 1024) :
    exec .holdoverExpiry s = .next s := by
  rw [exec, execHoldoverExpiry, s.ran_on _ hon]
  refine congrArg _ (if_neg ?_)
  rintro ⟨hst, hheld⟩
  rcases h with h | h
  · exact h hst
  · exact absurd hheld (Nat.not_le.mpr h)

end

/-- The time state at the limit of HOLDOVER: FREE, beat and phase as they run (R92). -/
def TimeSt.expired (t : TimeSt) : TimeSt :=
  { t with st := .free, beatSet := none, lockDelta := none, agree := 0, acqAt := none, hops := 0, rootId := 0 }

/-- The module at the limit of HOLDOVER, before its cross-module jobs are preempted: no timing word leaves (R83), BEAT_LOST is posted. -/
def State.holdoverEnded (s : State) : State :=
  ([0, 1, 2, 3, 4, 5].foldl (fun (s : State) p => s.updPort p fun q => { q with twDue := false }) (s.setTime s.time.expired)).beatLost

section
variable (s : State)

theorem State.holdoverEnded_keeps {P : State → Prop} (hw : Frees P 0x500800004) (hs : P (s.setTime s.time.expired)) : P s.holdoverEnded :=
  State.beatLost_keeps (hw.sub rfl) _ (Keep.foldl (fun t p ht => State.updPort_keeps (hw.sub rfl) t p _ ht) hs)

theorem State.holdoverEnded_time : s.holdoverEnded.time = s.time.expired :=
  s.holdoverEnded_keeps ((frees_time (· = s.time.expired)).sub rfl) rfl

theorem State.holdoverEnded_jobs : s.holdoverEnded.jobs = s.jobs := s.holdoverEnded_keeps ((frees_jobs (· = s.jobs)).sub rfl) rfl

theorem State.holdoverEnded_twDue {p : Nat} (hp : p < 6) : (s.holdoverEnded.port p).twDue = false := by
  let quiet := [0, 1, 2, 3, 4, 5].foldl (fun (s : State) p => s.updPort p fun q => { q with twDue := false }) (s.setTime s.time.expired)
  have hquiet : (quiet.port p).twDue = false :=
    congrArg NlPort.twDue ((State.port_foldl (I := fun _ => True) (g := fun _ q => { q with twDue := false }) (fun _ _ _ => trivial)
      (fun t p q _ => State.port_updPort t p q _) (by decide) _ trivial p).trans (if_pos (mem_ports hp)))
  exact State.beatLost_keeps ((frees_ports fun l => (tabGet NlPort.reset l p).twDue = false).sub rfl) _ hquiet

/-! ### Jobs asked to stop (R430) -/

/-- A job asked keeps its number and lives on. -/
theorem State.job?_askPreempt (cause : Nat) (k i : U64) : ∃ f : Job → Job,
    (s.askPreempt k cause).job? i = (if i = k then (s.job? i).map f else s.job? i) ∧
    (∀ j, j.phase = .running → f j = { j with phase := .stopping, cause := cause }) ∧
    ∀ j, j.phase = .stopping → j.cause ≠ 0 → f j = j := by
  refine ⟨_, State.job?_updJob s k _ (fun j => ?_) (fun j hj => ?_) i, fun j hj => ?_, fun j hj hc => ?_⟩
  · repeat' split
    all_goals rfl
  · repeat' split
    any_goals exact hj
    all_goals exact JobPhase.noConfusion
  · rw [hj]
  · rw [hj]
    exact if_neg hc

/-- A job being preempted for a reason stays so. -/
theorem State.askPreempt_stopping {cause : Nat} (hc : cause ≠ 0) (k i : U64) {t : State}
    (h : ∃ j, t.job? i = some j ∧ j.phase = .stopping ∧ j.cause = cause) :
    ∃ j, (t.askPreempt k cause).job? i = some j ∧ j.phase = .stopping ∧ j.cause = cause := by
  obtain ⟨j, hj, hph, hjc⟩ := h
  obtain ⟨f, hjob, -, hstay⟩ := t.job?_askPreempt cause k i
  refine ⟨j, ?_, hph, hjc⟩
  rw [hjob, hj]
  split
  · exact congrArg some (hstay j hph (by rwa [hjc]))
  · rfl

theorem State.askPreemptAll_stopping {cause : Nat} (hc : cause ≠ 0) {l : List U64} {i : U64} {t : State}
    (h : (∃ j, t.job? i = some j ∧ j.phase = .stopping ∧ j.cause = cause) ∨ i ∈ l ∧ ∃ j, t.job? i = some j ∧ j.phase = .running) :
    ∃ j, (t.askPreemptAll cause l).job? i = some j ∧ j.phase = .stopping ∧ j.cause = cause := by
  induction l generalizing t with
  | nil =>
    obtain h | ⟨hi, -⟩ := h
    · exact h
    · cases hi
  | cons k l ih =>
    refine ih ?_
    obtain h | ⟨hi, j, hj, hph⟩ := h
    · exact .inl (State.askPreempt_stopping hc k i h)
    · obtain ⟨f, hjob, hrun, -⟩ := t.job?_askPreempt cause k i
      rw [hjob, hj]
      by_cases hk : i = k
      · rw [if_pos hk]
        exact .inl ⟨_, congrArg some (hrun j hph), rfl, rfl⟩
      · rw [if_neg hk]
        exact .inr ⟨(List.mem_cons.mp hi).resolve_left hk, j, rfl, hph⟩

end

theorem exec_holdoverExpiry_due {s : State} (hon : s.pwr.on = true) (h : s.time.st = .holdover)
    (hheld : min s.time.holdBeats.toNat 1024 ≤ s.time.held) :
    exec .holdoverExpiry s =
      .next (s.holdoverEnded.askPreemptAll 3 ((s.holdoverEnded.jobs.filter fun j => j.live && j.cross).map (·.jid))) := by
  rw [exec, execHoldoverExpiry, s.ran_on _ hon]
  exact congrArg _ (if_pos ⟨h, hheld⟩)

end Sys2Proof.Machine

namespace Sys2Proof
open Machine

/-- Settles O8: the edge by time state; the step in LOCKED after a boundary that leaves the guard open. -/
theorem beatEdgeAndHoldover : Obligations.beat_edge_and_holdover := by
  refine ⟨fun ns s hon => ⟨exec_beatEdge_elsewhere hon, exec_beatEdge_early hon, exec_beatEdge_free hon, exec_beatEdge_waits hon, ?_,
    exec_beatEdge_alive hon, ?_, exec_beatEdge_holdover hon⟩, fun s hon => ⟨exec_holdoverEntry_not hon, exec_holdoverEntry_silent hon, exec_holdoverExpiry_not hon, ?_⟩⟩
  · exact fun hroot hns hph h hg hat b hset => exec_beatEdge_locks hon hroot hns hph h hg hat hset
  · exact fun hroot hns h hg hctrl hreset hlevel b hset => exec_beatEdge_steps hon hroot hns h hg hctrl hreset hlevel hset
  · intro h hheld
    have htime : ∀ l, (s.holdoverEnded.askPreemptAll 3 l).time = s.time.expired := fun l =>
      State.askPreemptAll_keeps ((frees_time (· = s.time.expired)).sub rfl) _ _ _ s.holdoverEnded_time
    refine ⟨_, exec_holdoverExpiry_due hon h hheld, ?_, ?_, ?_, ?_, ?_, ?_, ?_, fun p hp => ?_, fun k j hj hcross hph => ?_⟩
    iterate 7 rw [htime]; rfl
    · exact State.askPreemptAll_keeps ((frees_ports fun l => (tabGet NlPort.reset l p).twDue = false).sub rfl) _ _ _ (s.holdoverEnded_twDue hp)
    · have hlive : s.holdoverEnded.job? k = some j := by rw [State.job?, s.holdoverEnded_jobs]; exact hj
      obtain ⟨hmem, hid, hend⟩ := State.job?_some _ k j hlive
      refine State.askPreemptAll_stopping (by decide) (.inr ⟨List.mem_map.mpr ⟨j, List.mem_filter.mpr ⟨hmem, ?_⟩, hid⟩, j, hlive, hph⟩)
      simp [Job.live, hend, hcross]

end Sys2Proof
end

section
/-! PROOF. A sample or query arrives (R100 to R102, R356): what its storing leaves, and what the job takes. -/

namespace Sys2Proof.Machine

/-! ### A port's count of arriving bytes is no other count -/

theorem State.cntAt_cntAdd (s : State) (a k b : Nat) : (s.cntAdd a k).cntAt b = if b = a then satAdd (s.cntAt a) k else s.cntAt b := by
  rw [State.cntAt, State.cntAdd_obs, tabGet_tabSet]
  split <;> rfl

/-- Host bytes written are counted elsewhere than host bytes that arrive (R441). -/
theorem cntHost_written_ne_arrived (p q : Nat) : cntHost p 0 ≠ cntHost q 1 := by
  unfold cntHost
  omega

theorem State.storeLoc_arrived (s : State) (p : Nat) (l : List (Loc × Byte)) : (s.storeLoc l).cntAt (cntHost p 0) = s.cntAt (cntHost p 0) := by
  induction l generalizing s with
  | nil => rfl
  | cons e l ih =>
    obtain ⟨at_ | ⟨q, a⟩, b⟩ := e
    · exact ih _
    · refine (ih _).trans ?_
      rw [State.hostWrite, State.cntAt_cntAdd, if_neg (cntHost_written_ne_arrived p q)]
      rfl

/-- What no memory and nothing a store touches beside can break, and no located byte, a store keeps. -/
theorem State.storeAll_inv {P : State → Prop} (hw : Frees P 0x80e000000) (hloc : ∀ t l, P t → P (t.storeLoc l)) (s : State) (w : Who) (l : Stores)
    (hs : P s) : AccAll P id (s.storeAll w l) := by
  unfold State.storeAll
  refine AccAll.bind fun ps _ => ?_
  dsimp only
  split
  · exact AccAll.bad
  · exact AccAll.bad
  · exact AccAll.ok (State.carryStores_keeps (hw.sub rfl) _ _ _ <| State.dropAhead_keeps (hw.sub rfl) _ _ <|
      State.unpoison_keeps (hw.sub rfl) _ _ (hloc _ _ hs))

theorem State.storeQuiet_arrived (s : State) (p ctx dva : Nat) (b : List Byte) :
    (s.storeQuiet ctx dva b).cntAt (cntHost p 0) = s.cntAt (cntHost p 0) := by
  have hstore (w : Who) := State.storeAll_inv (P := fun t => t.cntAt (cntHost p 0) = s.cntAt (cntHost p 0))
    ((frees_obs fun o => (tabGet 0 o.cnt (cntHost p 0) : BitVec 48) = s.cntAt (cntHost p 0)).sub rfl)
    (fun t l ht => (t.storeLoc_arrived p l).trans ht) s w (storesAt dva b) rfl
  unfold State.storeQuiet
  dsimp only
  split
  · next h => exact hstore _ _ h
  · split
    · next h => exact hstore _ _ h
    · rfl

/-- Entries of the Recorder are no counters. -/
theorem State.record_cntAt (s : State) (jid : U64) (kind : Nat) (words : List Nat) (data : List Byte) (a : Nat) :
    (s.record jid kind words data).cntAt a = s.cntAt a := by
  unfold State.record
  split <;> rfl

/-! ### What the job takes -/

/-- A job after an item arrived, by where its stamp lies (R101, R356). -/
def Job.arrived (j : Job) (w : Stamped) (query : Bool) (item : Ingest) : Job :=
  if query then { j with ingest := j.ingest ++ [item] }
  else match w with
    | .inside _ => { j with ingest := j.ingest ++ [item] }
    | .before => j
    | .late _ =>
      if j.policy = 1 then { j with ingest := j.ingest ++ [{ item with late := true }], lateSamples := j.lateSamples + 1 }
      else { j with lateSamples := j.lateSamples + 1, droppedSamples := j.droppedSamples + 1 }

/-- The window a stamp belongs to, or was too late for. -/
def Stamped.window : Stamped → Nat
  | .inside p => p
  | .late p => p
  | .before => 0

/-- The item as it is kept in time. -/
def Job.itemOf (j : Job) (stamp : Nat) (query : Bool) (dva : Nat) (data : List Byte) : Ingest :=
  { stamp := stamp, query := query, dva := dva, data := data, window := (j.stamped stamp).window, late := false, bank := j.active }

theorem Job.arrived_keeps (j : Job) (w : Stamped) (query : Bool) (item : Ingest) :
    (j.arrived w query item).jid = j.jid ∧ (j.arrived w query item).phase = j.phase := by
  unfold Job.arrived
  repeat' split
  all_goals exact ⟨rfl, rfl⟩

section
variable (s : State) (j : Job) (port stamp : Nat) (query : Bool) (dva : Nat) (data : List Byte)

/-- The item's bytes are stored, the Recorder told, and the job takes it. -/
theorem State.ingestItem_eq : ∃ words, s.ingestItem j port stamp query dva data =
    ((s.storeQuiet j.ctx.val dva data).record j.jid 0x03 words data).updJob j.jid
      (·.arrived (j.stamped stamp) query (j.itemOf stamp query dva data)) := by
  unfold State.ingestItem Job.arrived Job.itemOf Stamped.window
  exact ⟨_, rfl⟩

theorem State.ingestItem_arrived (p : Nat) : (s.ingestItem j port stamp query dva data).cntAt (cntHost p 0) = s.cntAt (cntHost p 0) := by
  obtain ⟨words, h⟩ := s.ingestItem_eq j port stamp query dva data
  rw [h]
  exact (State.record_cntAt _ _ _ _ _ _).trans (s.storeQuiet_arrived p _ _ _)

theorem State.ingestItem_job (h : s.job? j.jid = some j) :
    (s.ingestItem j port stamp query dva data).job? j.jid = some (j.arrived (j.stamped stamp) query (j.itemOf stamp query dva data)) := by
  obtain ⟨words, heq⟩ := s.ingestItem_eq j port stamp query dva data
  have hstored : ((s.storeQuiet j.ctx.val dva data).record j.jid 0x03 words data).job? j.jid = some j :=
    State.record_keeps ((frees_job j.jid (· = some j)).sub rfl) _ _ _ _ _
      (State.storeQuiet_keeps ((frees_job j.jid (· = some j)).sub rfl) s _ _ _ h)
  rw [heq, State.job?_updJob _ _ _ (fun i => (i.arrived_keeps _ _ _).1) fun i hi => by rwa [(i.arrived_keeps _ _ _).2], if_pos rfl, hstored]
  rfl

end

section
variable {s : State} {j : Job} (p : Fin 2) (query : Bool) (dva : BitVec 57) (data : List Byte) (hon : s.pwr.on = true)
  (hjob : s.job? j.jid = some j)
include hon hjob

theorem exec_ingestArrival_down (h : (s.hpAt p.val).link ≠ 2) : exec (.ingestArrival j.jid p query dva data) s = .next s := by
  rw [exec, execIngestArrival, s.ran_on _ hon, s.withJob_some _ _ j hjob]
  exact congrArg _ (if_pos (by simpa using h))

theorem exec_ingestArrival_up (h : (s.hpAt p.val).link = 2) : exec (.ingestArrival j.jid p query dva data) s =
    .next ((s.cntAdd (cntHost p.val 0) data.length).ingestItem j p.val s.gt query dva.toNat data) := by
  rw [exec, execIngestArrival, s.ran_on _ hon, s.withJob_some _ _ j hjob]
  exact congrArg _ (if_neg (by simp [h]))

end

/-! ### What was taken, by the stamp -/

section
variable (j : Job) (w : Stamped) (item : Ingest)

theorem Job.arrived_query : j.arrived w true item = { j with ingest := j.ingest ++ [item] } := rfl

theorem Job.arrived_inside (n : Nat) : j.arrived (.inside n) false item = { j with ingest := j.ingest ++ [item] } := rfl

theorem Job.arrived_before : j.arrived .before false item = j := rfl

theorem Job.arrived_late_kept (n : Nat) (h : j.policy = 1) : j.arrived (.late n) false item =
    { j with ingest := j.ingest ++ [{ item with late := true }], lateSamples := j.lateSamples + 1 } := if_pos h

theorem Job.arrived_late_dropped (n : Nat) (h : j.policy ≠ 1) : j.arrived (.late n) false item =
    { j with lateSamples := j.lateSamples + 1, droppedSamples := j.droppedSamples + 1 } := if_neg h

end

end Sys2Proof.Machine
end

section
/-! PROOF. A job is stopped, saved and restored (R76 to R79, R434, R435); O19. -/

namespace Sys2Proof.Machine

/-! ### What a stop and a start change of a unit -/

/-- What a stop saves of a unit and a start finds again: counters, commands, and how it stands (R76). -/
def UnitSt.standing (u : UnitSt) : List U32 × Nat × List Cmd × Bool × WaitSt × WaitSt := (u.ctr, u.idx, u.cmds, u.stopped, u.wait, u.before)

/-- A unit that stops keeps the wait state it was in. -/
def UnitSt.halted (u : UnitSt) : UnitSt := { u with before := if u.stopped then u.before else u.wait, stopped := true, wait := .stopped }

/-- A unit that starts again is in the wait state its stop found. -/
def UnitSt.resumed (u : UnitSt) : UnitSt := { u with stopped := false, wait := u.before, before := .idle }

/-- A stop of a stopped unit changes nothing. -/
theorem UnitSt.halted_of_standing {u v : UnitSt} (h : u.standing = v.halted.standing) : u.halted.standing = v.halted.standing := by
  simp only [UnitSt.standing, UnitSt.halted, Prod.mk.injEq] at h ⊢
  obtain ⟨hctr, hidx, hcmds, hstop, -, hbefore⟩ := h
  simp [hctr, hidx, hcmds, hstop, hbefore]

theorem UnitSt.resumed_of_standing {u v : UnitSt} (h : u.standing = v.standing) : u.resumed.standing = v.resumed.standing := by
  simp only [UnitSt.standing, UnitSt.resumed, Prod.mk.injEq] at h ⊢
  obtain ⟨hctr, hidx, hcmds, -, -, hbefore⟩ := h
  simp [hctr, hidx, hcmds, hbefore]

theorem UnitSt.halted_congr {u v : UnitSt} (h : u.standing = v.standing) : u.halted.standing = v.halted.standing := by
  simp only [UnitSt.standing, UnitSt.halted, Prod.mk.injEq] at h ⊢
  obtain ⟨hctr, hidx, hcmds, hstop, hwait, hbefore⟩ := h
  simp [hctr, hidx, hcmds, hstop, hwait, hbefore]

section
variable (s : State) (x y : Nat)

/-- A unit changed and put into a wait state stands there; the other units stand as they did. -/
theorem State.standing_updUnit_setWait (f : UnitSt → UnitSt) (w : WaitSt) :
    (((s.updUnit x f).setWait x w).unit y).standing = if y = x then ({ f (s.unit x) with wait := w } : UnitSt).standing else (s.unit y).standing := by
  refine State.setWait_inv (P := fun t => (t.unit y).standing = _) ((frees_unit y (·.standing = _)).sub rfl)
    (counted_unit UnitSt.standing (fun _ _ _ => rfl) y (· = _)) _ x w fun n => ?_
  rw [State.unit_setUnit, State.unit_updUnit, State.unit_updUnit, if_pos rfl]
  split <;> rfl

/-! ### The stop (R77) -/

theorem State.standing_stopUnits (xs : List Nat) :
    ((s.stopUnits xs).unit y).standing = if y ∈ xs then (s.unit y).halted.standing else (s.unit y).standing := by
  induction xs generalizing s with
  | nil => rw [if_neg List.not_mem_nil]; rfl
  | cons x xs ih =>
    let t := (s.updUnit x fun u => { u with before := if u.stopped then u.before else u.wait, stopped := true }).setWait x .stopped
    have hstep : (t.unit y).standing = if y = x then (s.unit x).halted.standing else (s.unit y).standing :=
      s.standing_updUnit_setWait x y _ _
    have htail : ((s.stopUnits (x :: xs)).unit y).standing = if y ∈ xs then (t.unit y).halted.standing else (t.unit y).standing := ih t
    rw [htail]
    by_cases hy : y = x
    · subst hy
      rw [if_pos rfl] at hstep
      rw [if_pos List.mem_cons_self, UnitSt.halted_of_standing hstep, hstep, ite_self]
    · rw [if_neg hy] at hstep
      rw [UnitSt.halted_congr hstep, hstep]
      simp only [List.mem_cons, hy, false_or]

/-- Credits that land are no part of how a unit stands. -/
theorem State.standing_landCredits (k n : Nat) : ((s.landCredits k n).unit y).standing = (s.unit y).standing := by
  induction n generalizing s with
  | zero => rfl
  | succ n ih =>
    refine (ih _).trans ?_
    unfold State.landCredit
    dsimp only
    split
    · rfl
    · exact State.updUnit_part UnitSt.standing _ _ _ rfl

theorem State.standing_landAll (keys : List Nat) : ((s.landAll keys).unit y).standing = (s.unit y).standing := by
  refine Keep.foldl (P := fun t => (t.unit y).standing = (s.unit y).standing) (fun t k ht => (t.standing_landCredits y k _).trans ht) ?_
  exact State.landTokens_keeps ((frees_unit y (·.standing = (s.unit y).standing)).sub rfl) _ _ rfl

theorem State.standing_stopJob (j : Job) (h : y ∈ s.unitsOf j.jid) : ((s.stopJob j).unit y).standing = (s.unit y).halted.standing := by
  rw [State.stopJob, State.standing_landAll, State.standing_stopUnits, if_pos h]

end

/-! ### The save (R77, R78) -/

section
variable (s : State) (y : Nat)

theorem State.clearUnits_job (xs : List Nat) : ((s.clearUnits xs).unit y).job = if y ∈ xs then none else (s.unit y).job := by
  induction xs generalizing s with
  | nil => rw [if_neg List.not_mem_nil]; rfl
  | cons x xs ih =>
    rw [State.clearUnits, ih]
    have hunits : ∀ t : State, ((if x % 16 = 10 then t.setGse (x / 16) .reset else if x % 16 = 8 then t.setRxe (x / 16) [] else t).units = t.units) := by
      intro t
      repeat' split
      all_goals rfl
    have hstep (t : State) (ht : t.units = (s.updUnit x UnitSt.idle).units) : (t.unit y).job = if y = x then none else (s.unit y).job := by
      rw [State.unit_congr ht, State.unit_updUnit]
      split <;> rfl
    rw [hstep _ ?_]
    · by_cases hy : y = x <;> simp [hy]
    · exact hunits _

theorem State.disarm_unarmed (i : Nat) {ds : List SyncDecl} (h : (s.sync i).armed = false ∨ ∃ d ∈ ds, i = d.sid.toNat) :
    ((s.disarm ds).sync i).armed = false := by
  induction ds generalizing s with
  | nil =>
    obtain h | ⟨d, hd, -⟩ := h
    · exact h
    · cases hd
  | cons d ds ih =>
    refine ih _ ?_
    rw [State.sync_setSync]
    simp only [List.mem_cons, exists_eq_or_imp] at h
    by_cases hi : i = d.sid.toNat
    · rw [if_pos hi]
      exact .inl rfl
    · rw [if_neg hi]; tauto

variable (j : Job)

/-- The units of an unloaded job belong to none. -/
theorem State.unload_job (h : y ∈ s.unitsOf j.jid) : ((s.unload j).unit y).job = none := by
  have hclear : (((s.clearUnits (s.unitsOf j.jid)).clearQueues (binQueues j.bin ++ ftqKeys (s.unitsOf j.jid))).unit y).job = none :=
    State.clearQueues_keeps ((frees_unit y (·.job = none)).sub rfl) _ _ ((s.clearUnits_job y _).trans (if_pos h))
  unfold State.unload
  dsimp only
  split
  · exact hclear
  · exact State.disarm_keeps ((frees_unit y (·.job = none)).sub rfl) _ _ hclear

/-- A job that completes disarms its objects (R63). -/
theorem State.unload_unarmed (hc : j.cause ≠ 0) {d : SyncDecl} (hd : d ∈ j.bin.syncs) : ((s.unload j).sync d.sid.toNat).armed = false := by
  unfold State.unload
  dsimp only
  rw [if_neg hc]
  exact State.disarm_unarmed _ _ (.inr ⟨d, hd, rfl⟩)

/-- The save area with bytes the manual does not lay out (R78). -/
def State.areaVeiled : State :=
  s.veilDva j.ctx.val (j.saveDva + 128) (j.saveDva + max j.bin.report.saveBytes 128) (j.bin.report.saveBytes / 65536 + 2)

/-- The saved job: parked, or completing PREEMPTED. -/
def State.savedJob : Job := { s.keepFlags j with phase := if j.cause = 0 then .parked else .preempted, saveAt := s.time.beat + 1 }

/-- The image, its header in the area, is recorded. -/
def State.areaWritten : State :=
  let dig := (s.areaVeiled j).areaDigest j
  let hdr := saveHeader j (Config.freeWord (s.areaVeiled j).fresh).toNat ((saveDies s j).foldl (fun m d => m ||| 2 ^ d) 0) s.gt dig
  (((s.areaVeiled j).storeQuiet j.ctx.val j.saveDva (bytesOf 128 hdr.toNat)).tickFresh 1).record j.jid 0x0B [(gtWord s.gt).toNat] []

/-- The module with the job saved and off it, before the record. -/
def State.savedOff : State :=
  let s2 := ((s.areaWritten j).unload j).updJob j.jid fun _ => s.savedJob j
  { s2 with saves := (s2.saves.filter fun v => v.jid != j.jid) ++ [s.image j ((s.areaVeiled j).areaDigest j)] }

theorem State.areaWritten_keeps {P : State → Prop} (hw : Frees P 0x20c0e00000e) (hs : P s) : P (s.areaWritten j) :=
  State.record_keeps (hw.sub rfl) _ _ _ _ _ <| State.tickFresh_keeps (hw.sub rfl) _ _ <| State.storeQuiet_keeps (hw.sub rfl) _ _ _ _ <|
    State.veilDva_keeps (hw.sub rfl) _ _ _ _ _ hs

theorem State.areaWritten_units : (s.areaWritten j).units = s.units := s.areaWritten_keeps j ((frees_units (· = s.units)).sub rfl) rfl

variable {s y j}

theorem State.savedOff_job? (h : s.job? j.jid = some j) : (s.savedOff j).job? j.jid = some (s.savedJob j) := by
  have hkept : ((s.areaWritten j).unload j).job? j.jid = some j :=
    State.unload_keeps ((frees_job j.jid (· = some j)).sub rfl) _ _ (s.areaWritten_keeps j ((frees_job j.jid (· = some j)).sub rfl) h)
  have hlive : (s.savedJob j).phase ≠ .ended := by
    unfold State.savedJob
    dsimp only
    split <;> exact JobPhase.noConfusion
  exact State.job?_updJob_const (j := s.savedJob j) hkept hlive

theorem State.savedOff_unit (h : y ∈ s.unitsOf j.jid) : ((s.savedOff j).unit y).job = none := by
  refine (s.areaWritten j).unload_job y j ?_
  rwa [State.unitsOf, State.areaWritten_units]

variable (s j) in
/-- PREEMPTED has its record, a parked job none. -/
theorem exec_chainSave (hon : s.pwr.on = true) (hjob : s.job? j.jid = some j) (hph : j.phase = .saving) (hin : s.repliesIn j = true) :
    ∃ r, exec (.chainSave j.jid) s = .next (if j.cause = 0 then s.savedOff j else (s.savedOff j).postCpl j.ctx.val r) := by
  have hgo : ¬ (j.phase != .saving || !s.repliesIn j) = true := by simp [hph, hin]
  rw [exec, execChainSave, s.ran_on _ hon, s.withJob_some _ _ j hjob]
  exact ⟨_, congrArg _ (if_neg hgo)⟩

/-- What no record can break holds of the module with the job saved. -/
theorem State.savedOff_recorded {P : State → Prop} (hw : Frees P 0x500000004) (r : CplRec) (hs : P (s.savedOff j)) :
    P (if j.cause = 0 then s.savedOff j else (s.savedOff j).postCpl j.ctx.val r) := by
  split
  · exact hs
  · exact State.postCpl_keeps hw _ _ _ hs

end

/-! ### The restore (R79, R434) -/

section
variable (s : State)

theorem State.putEach_unit_of_not_mem {l : List (Nat × UnitSt)} {y : Nat} (h : y ∉ l.map (·.1)) :
    (s.putEach (f := State.setUnit) l).unit y = s.unit y := by
  induction l generalizing s with
  | nil => rfl
  | cons e l ih =>
    rw [List.map_cons, List.mem_cons, not_or] at h
    rw [State.putEach, ih _ h.2, State.unit_setUnit, if_neg h.1]

/-- Every unit put back once is as it was saved. -/
theorem State.putEach_unit {l : List (Nat × UnitSt)} (hl : (l.map (·.1)).Nodup) {e : Nat × UnitSt} (he : e ∈ l) :
    (s.putEach (f := State.setUnit) l).unit e.1 = e.2 := by
  induction l generalizing s with
  | nil => cases he
  | cons d l ih =>
    rw [List.map_cons, List.nodup_cons] at hl
    obtain rfl | he := List.mem_cons.mp he
    · rw [State.putEach, State.putEach_unit_of_not_mem _ hl.1, State.unit_setUnit, if_pos rfl]
    · exact ih _ hl.2 he

/-- What is put back beside the units leaves them. -/
theorem State.putImage_units (j : Job) (v : SaveImg) :
    (s.putImage j v).units = ((s.putScratch j.bin v.scratch).putEach (f := State.setUnit) v.units).units := by
  let u := ((s.putScratch j.bin v.scratch).putEach (f := State.setUnit) v.units).units
  have hput {α : Type} (f : State → Nat → α → State) (t : State) (l : List (Nat × α)) (hf : ∀ t k a, (f t k a).units = t.units)
      (ht : t.units = u) : (t.putEach f l).units = u :=
    State.putEach_keeps (P := fun t => t.units = u) ((frees_units (· = u)).sub rfl) f t l ht fun t k a h => (hf t k a).trans h
  unfold State.putImage
  iterate 12 refine hput _ _ _ (fun _ _ _ => rfl) ?_
  rfl

theorem State.standing_runUnits {xs : List Nat} (hxs : xs.Nodup) (y : Nat) :
    ((s.runUnits xs).unit y).standing = if y ∈ xs then (s.unit y).resumed.standing else (s.unit y).standing := by
  induction xs generalizing s with
  | nil => rw [if_neg List.not_mem_nil]; rfl
  | cons x xs ih =>
    obtain ⟨hx, hxs⟩ := List.nodup_cons.mp hxs
    let t := (s.updUnit x fun u => { u with stopped := false, before := .idle }).setWait x (s.unit x).before
    have hstep : (t.unit y).standing = if y = x then (s.unit x).resumed.standing else (s.unit y).standing :=
      s.standing_updUnit_setWait x y _ _
    have htail : ((s.runUnits (x :: xs)).unit y).standing = if y ∈ xs then (t.unit y).resumed.standing else (t.unit y).standing := ih t hxs
    rw [htail]
    by_cases hy : y = x
    · subst hy
      rw [if_neg hx, hstep, if_pos rfl, if_pos List.mem_cons_self]
    · rw [if_neg hy] at hstep
      rw [UnitSt.resumed_of_standing hstep, hstep]
      simp only [List.mem_cons, hy, false_or]

variable {s} {j : Job} {v : SaveImg} (hjob : s.job? j.jid = some j)

/-- A job without cross-module marks goes on where its image says. -/
theorem State.standing_continueAt (hfaults : v.faults = []) (hunits : (v.units.map (·.1)).Nodup) {e : Nat × UnitSt} (he : e ∈ v.units) :
    ((s.continueAt j v).unit e.1).standing = e.2.resumed.standing := by
  have hput : (s.putImage j v).unit e.1 = e.2 := (State.unit_congr (s.putImage_units j v) _).trans (State.putEach_unit _ hunits he)
  unfold State.continueAt
  rw [hfaults]
  refine (State.standing_runUnits _ hunits e.1).trans ?_
  rw [if_pos (List.mem_map_of_mem he)]
  exact congrArg (fun u => u.resumed.standing) hput

include hjob

theorem State.continueAt_job (hfaults : v.faults = []) :
    (s.continueAt j v).job? j.jid = some { j with phase := .running, rejoin := 0 } := by
  have hput : (s.putImage j v).job? j.jid = some j := State.putImage_keeps ((frees_job j.jid (· = some j)).sub rfl) _ _ _ hjob
  unfold State.continueAt
  rw [hfaults]
  refine State.runUnits_keeps ((frees_job j.jid (· = some { j with phase := .running, rejoin := 0 })).sub rfl) _ _ ?_
  refine (State.job?_updJob _ _ (fun j => { j with phase := .running, rejoin := 0 }) (fun _ => rfl) (fun _ _ => JobPhase.noConfusion) _).trans ?_
  rw [if_pos rfl]
  exact congrArg (Option.map _) hput

/-- A job with cross-module marks runs its step program afresh at its rejoin period, the exchange as the link dies left it (R435). -/
theorem State.rejoinAt_job : ∃ k, (s.rejoinAt j v).job? j.jid = some k ∧ k.phase = .running ∧ k.period = j.rejoin ∧ k.x = j.x := by
  have hw := frees_job j.jid (· = some j)
  let e := (s.putScratch j.bin v.scratch).endInterrupted j
  have hid : e.2.jid = j.jid := by
    unfold e State.endInterrupted
    dsimp only
    split <;> rfl
  let j1 : Job := { e.2.newPeriod j.rejoin with phase := .running, x := j.x }
  have hw1 := frees_job j1.jid (· = some j1)
  have hloaded : ((e.1.loadUnits j.jid false j.rejoin j.bin.units).loadQueues j.bin.queues).job? j.jid = some j :=
    State.loadQueues_keeps (hw.sub rfl) _ _ <| State.loadUnits_keeps (hw.sub rfl) _ _ _ _ _ <| State.endInterrupted_keeps (hw.sub rfl) _ _ <|
      State.putScratch_keeps (hw.sub rfl) _ _ _ hjob
  refine ⟨j1, ?_, rfl, rfl, rfl⟩
  have hj1 : j1.jid = j.jid := hid
  rw [← hj1]
  unfold State.rejoinAt
  refine State.record_keeps (hw1.sub rfl) _ _ _ _ _ <| State.addMarks_keeps (hw1.sub rfl) _ _ _ <| State.addMarks_keeps (hw1.sub rfl) _ _ _ ?_
  refine hw1.free 9 rfl _ _ ?_
  have hput := State.putEach_keeps (P := fun t => t.job? j.jid = some j) (hw.sub rfl) State.setSync _ v.syncs
    (State.putEach_keeps (P := fun t => t.job? j.jid = some j) (hw.sub rfl)
      (fun s x u => s.updUnit x fun n => { n with
        flags := u.flags, boundClamps := u.boundClamps, markLate := u.markLate, drainLate := u.drainLate, discards := u.discards,
        epoch := u.epoch + 1 }) _ v.units hloaded fun t x u ht => State.updUnit_keeps (hw.sub rfl) t x _ ht)
    fun t k o ht => State.setSync_keeps (hw.sub rfl) t k o ht
  have hrec := State.repeatRecords_keeps (hw.sub rfl) _ e.2 j.cause (if j.outcome == .commit || j.outcome == .skip then j.period + 1 else j.period)
    (j.rejoin - if j.outcome == .commit || j.outcome == .skip then j.period + 1 else j.period) hput
  rw [← hj1] at hrec
  have hset := State.job?_updJob_const (j := j1) hrec JobPhase.noConfusion
  rw [hj1] at hset ⊢
  exact hset

end

/-! ### The commands -/

section
variable {s : State} {j : Job} (hon : s.pwr.on = true) (hjob : s.job? j.jid = some j)
include hon hjob

theorem exec_preemptStop_not (h : j.phase ≠ .stopping) : exec (.preemptStop j.jid) s = .next s := by
  rw [exec, execPreemptStop, s.ran_on _ hon, s.withJob_some _ _ j hjob]
  exact congrArg _ (if_pos (by simpa using h))

theorem exec_chainSave_not (h : j.phase ≠ .saving ∨ s.repliesIn j = false) : exec (.chainSave j.jid) s = .next s := by
  rw [exec, execChainSave, s.ran_on _ hon, s.withJob_some _ _ j hjob]
  exact congrArg _ (if_pos (by simpa using h))

theorem exec_resumeRestore_not (h : j.phase ≠ .resuming) : exec (.resumeRestore j.jid) s = .next s := by
  rw [exec, execResumeRestore, s.ran_on _ hon, s.withJob_some _ _ j hjob]
  exact congrArg _ (if_pos (by simpa using h))

/-- The job that a stop leaves to be saved (R77). -/
def Job.toSave (j : Job) : Job := { (if j.cause = 0 then j else j.reason j.cause) with phase := .saving, x := { j.x with opnds := [] } }

theorem exec_preemptStop_stops (h : j.phase = .stopping) :
    exec (.preemptStop j.jid) s = .next ((s.stopJob j).updJob j.jid fun _ => j.toSave) := by
  rw [exec, execPreemptStop, s.ran_on _ hon, s.withJob_some _ _ j hjob]
  exact congrArg _ (if_neg (by simp [h]))

omit hon in
theorem State.stopJob_job : ((s.stopJob j).updJob j.jid fun _ => j.toSave).job? j.jid = some j.toSave := by
  have hid : j.toSave.jid = j.jid := by
    unfold Job.toSave
    split <;> rfl
  have hstop : (s.stopJob j).job? j.toSave.jid = some j := by
    rw [hid]
    exact State.stopJob_keeps ((frees_job j.jid (· = some j)).sub rfl) _ _ hjob
  rw [← hid]
  exact State.job?_updJob_const hstop JobPhase.noConfusion

variable (hph : j.phase = .resuming)
include hph

theorem exec_resumeRestore_missing (h : s.saves.find? (fun v => v.jid == j.jid) = none) :
    exec (.resumeRestore j.jid) s = .next (s.jobFault j.jid 24 3 30 true 0 0) := by
  rw [exec, execResumeRestore, s.ran_on _ hon, s.withJob_some _ _ j hjob]
  dsimp only
  rw [if_neg (by simp [hph]), h]

/-- What becomes of a job whose image is found. -/
theorem exec_resumeRestore_found {v : SaveImg} (h : s.saves.find? (fun v => v.jid == j.jid) = some v) :
    exec (.resumeRestore j.jid) s = .next (
      let s1 : State := { s with saves := s.saves.filter fun v => v.jid != j.jid }
      if !s.saveIntact j v then s1.jobFault j.jid 24 3 30 true 0 0
      else if v.units.isEmpty then s1.updJob j.jid fun j => { j with phase := .admitted, rejoin := if j.cross then j.rejoin else 0 }
      else if j.cross then s1.rejoinAt j v
      else s1.continueAt j v) := by
  rw [exec, execResumeRestore, s.ran_on _ hon, s.withJob_some _ _ j hjob]
  dsimp only
  rw [if_neg (by simp [hph]), h]

end

end Sys2Proof.Machine

namespace Sys2Proof
open Machine

/-- What an arrival on an UP port leaves, by the stamp. -/
theorem ingest_arrives {s : State} {j : Job} (p : Fin 2) (query : Bool) (dva : BitVec 57) (data : List Byte) (hon : s.pwr.on = true)
    (hjob : s.job? j.jid = some j) (hup : (s.hpAt p.val).link = 2) : ∃ t, exec (.ingestArrival j.jid p query dva data) s = .next t ∧
      t.job? j.jid = some (j.arrived (j.stamped s.gt) query (j.itemOf s.gt query dva.toNat data)) ∧
      t.cntAt (cntHost p.val 0) = satAdd (s.cntAt (cntHost p.val 0)) data.length ∧ t.units = s.units ∧ t.queues = s.queues := by
  refine ⟨_, exec_ingestArrival_up p query dva data hon hjob hup, ?_, ?_, ?_, ?_⟩
  · exact State.ingestItem_job _ _ _ _ _ _ _ hjob
  · rw [State.ingestItem_arrived, State.cntAt_cntAdd, if_pos rfl]
  · exact State.ingestItem_keeps ((frees_units (· = s.units)).sub rfl) _ _ _ _ _ _ _ rfl
  · exact State.ingestItem_keeps ((frees_queues (· = s.queues)).sub rfl) _ _ _ _ _ _ _ rfl

/-- The stop leaves the job to be saved, its units STOPPED with their wait states kept (R77). -/
theorem preemptStop_stops {s : State} {j : Job} (hon : s.pwr.on = true) (hjob : s.job? j.jid = some j) (hph : j.phase = .stopping) :
    ∃ t k, exec (.preemptStop j.jid) s = .next t ∧ t.job? j.jid = some k ∧ k.phase = .saving ∧ k.x.opnds = [] ∧
      ∀ x ∈ s.unitsOf j.jid, (t.unit x).stopped = true ∧ (t.unit x).wait.code = 8 ∧ (t.unit x).ctr = (s.unit x).ctr ∧
        (t.unit x).before = if (s.unit x).stopped then (s.unit x).before else (s.unit x).wait := by
  refine ⟨_, _, exec_preemptStop_stops hon hjob hph, State.stopJob_job hjob, rfl, rfl, fun x hx => ?_⟩
  have hstand := s.standing_stopJob x j hx
  simp only [UnitSt.standing, UnitSt.halted, Prod.mk.injEq] at hstand
  obtain ⟨hctr, -, -, hstopped, hwait, hbefore⟩ := hstand
  exact ⟨hstopped, congrArg WaitSt.code hwait, hctr, hbefore⟩

/-- The save keeps the image of the job and frees its units (R77, R78). -/
theorem chainSave_saves {s : State} {j : Job} (hon : s.pwr.on = true) (hjob : s.job? j.jid = some j) (hph : j.phase = .saving)
    (hin : s.repliesIn j = true) : ∃ t k v, exec (.chainSave j.jid) s = .next t ∧ t.job? j.jid = some k ∧
      k.phase = (if j.cause = 0 then .parked else .preempted) ∧ v ∈ t.saves ∧ v.jid = j.jid ∧
      v.units = (s.unitsOf j.jid).map (fun x => (x, s.unit x)) ∧ v.saveGt = s.gt ∧ (∀ x ∈ s.unitsOf j.jid, (t.unit x).job = none) ∧
      v.digest = (s.areaVeiled j).areaDigest j ∧ (j.cause ≠ 0 → ∀ d ∈ j.bin.syncs, (t.sync d.sid.toNat).armed = false) := by
  obtain ⟨r, hexec⟩ := exec_chainSave s j hon hjob hph hin
  refine ⟨_, s.savedJob j, s.image j ((s.areaVeiled j).areaDigest j), hexec, ?_, rfl, ?_, rfl, rfl, rfl, fun x hx => ?_, rfl, fun hc d hd => ?_⟩
  · exact State.savedOff_recorded ((frees_job j.jid (· = some (s.savedJob j))).sub rfl) r (State.savedOff_job? hjob)
  · exact State.savedOff_recorded ((frees_saves fun l => s.image j ((s.areaVeiled j).areaDigest j) ∈ l).sub rfl) r
      (List.mem_append_right _ List.mem_cons_self)
  · exact State.savedOff_recorded ((frees_unit x (·.job = none)).sub rfl) r (State.savedOff_unit hx)
  · exact State.savedOff_recorded ((frees_syncs fun l => (tabGet .reset l d.sid.toNat).armed = false).sub rfl) r
      ((s.areaWritten j).unload_unarmed j hc hd)

section
variable {s : State} {j : Job} {v : SaveImg} (hon : s.pwr.on = true) (hjob : s.job? j.jid = some j) (hph : j.phase = .resuming)
  (hfound : s.saves.find? (fun v => v.jid == j.jid) = some v)
include hon hjob hph hfound

/-- A damaged image ends the job with BAD_SAVE. -/
theorem resumeRestore_damaged (h : s.saveIntact j v = false) : exec (.resumeRestore j.jid) s =
    .next (({ s with saves := s.saves.filter fun v => v.jid != j.jid } : State).jobFault j.jid 24 3 30 true 0 0) := by
  refine (exec_resumeRestore_found hon hjob hph hfound).trans (congrArg _ (if_pos ?_))
  simp [h]

variable (hintact : s.saveIntact j v = true)
include hintact

/-- A job saved before it ran is admitted again. -/
theorem resumeRestore_empty (hunits : v.units = []) : ∃ t k, exec (.resumeRestore j.jid) s = .next t ∧ t.job? j.jid = some k ∧
    k.phase = .admitted ∧ t.units = s.units ∧ t.mem = s.mem := by
  let anew (j : Job) : Job := { j with phase := .admitted, rejoin := if j.cross then j.rejoin else 0 }
  let s1 : State := { s with saves := s.saves.filter fun v => v.jid != j.jid }
  have hexec : exec (.resumeRestore j.jid) s = .next (s1.updJob j.jid anew) := by
    refine (exec_resumeRestore_found hon hjob hph hfound).trans (congrArg _ ((if_neg ?_).trans (if_pos ?_)))
    · simp [hintact]
    · simp [hunits]
  refine ⟨_, anew j, hexec, ?_, rfl, rfl, rfl⟩
  rw [State.job?_updJob s1 _ anew (fun _ => rfl) (fun _ _ => JobPhase.noConfusion), if_pos rfl]
  exact congrArg (Option.map anew) hjob

theorem resumeRestore_rejoins (hunits : v.units ≠ []) (hcross : j.cross = true) : ∃ t k, exec (.resumeRestore j.jid) s = .next t ∧
    t.job? j.jid = some k ∧ k.phase = .running ∧ k.period = j.rejoin ∧ k.x = j.x := by
  let s1 : State := { s with saves := s.saves.filter fun v => v.jid != j.jid }
  have hexec : exec (.resumeRestore j.jid) s = .next (s1.rejoinAt j v) := by
    refine (exec_resumeRestore_found hon hjob hph hfound).trans (congrArg _ ((if_neg ?_).trans ((if_neg ?_).trans (if_pos hcross))))
    · simp [hintact]
    · simp [hunits]
  obtain ⟨k, hk⟩ := State.rejoinAt_job (s := s1) (v := v) hjob
  exact ⟨_, k, hexec, hk⟩

theorem resumeRestore_continues (hcross : j.cross = false) (hfaults : v.faults = []) (hunits : v.units ≠ []) (hnodup : (v.units.map (·.1)).Nodup) :
    ∃ t k, exec (.resumeRestore j.jid) s = .next t ∧ t.job? j.jid = some k ∧ k.phase = .running ∧
      ∀ e ∈ v.units, (t.unit e.1).ctr = e.2.ctr ∧ (t.unit e.1).idx = e.2.idx ∧ (t.unit e.1).cmds = e.2.cmds ∧
        (t.unit e.1).stopped = false ∧ (t.unit e.1).wait = e.2.before := by
  let s1 : State := { s with saves := s.saves.filter fun v => v.jid != j.jid }
  have hexec : exec (.resumeRestore j.jid) s = .next (s1.continueAt j v) := by
    refine (exec_resumeRestore_found hon hjob hph hfound).trans (congrArg _ ((if_neg ?_).trans ((if_neg ?_).trans (if_neg ?_))))
    · simp [hintact]
    · simp [hunits]
    · simp [hcross]
  refine ⟨_, _, hexec, State.continueAt_job (s := s1) hjob hfaults, rfl, fun e he => ?_⟩
  have hstand := State.standing_continueAt (s := s1) (j := j) hfaults hnodup he
  simp only [UnitSt.standing, UnitSt.resumed, Prod.mk.injEq] at hstand
  obtain ⟨hctr, hidx, hcmds, hstopped, hwait, -⟩ := hstand
  exact ⟨hctr, hidx, hcmds, hstopped, hwait⟩

end

/-- Settles O19: an arrival by its stamp; the stop, the save and the restore by how each unit stands. -/
theorem ingestAndPreemption : Obligations.ingest_and_preemption := by
  refine ⟨fun jid p query dva data j s hon hjob => ?_, fun jid j s hon hjob => ?_⟩
  · obtain ⟨-, rfl, -⟩ := State.job?_some s jid j hjob
    refine ⟨exec_ingestArrival_down p query dva data hon hjob, fun hup => ?_⟩
    obtain ⟨t, hexec, htaken, hcount, hunits, hqueues⟩ := ingest_arrives p query dva data hon hjob hup
    refine ⟨t, _, hexec, htaken, hcount, hunits, hqueues, ?_, ?_, ?_, ?_, ?_⟩
    · rintro rfl
      rw [Job.arrived_query]
      exact ⟨rfl, _, rfl, rfl, rfl, rfl, rfl, rfl, rfl⟩
    · rintro rfl w hw
      rw [hw, Job.arrived_inside]
      exact ⟨rfl, _, rfl, rfl, rfl, rfl, rfl, rfl, congrArg Stamped.window hw⟩
    · rintro rfl hw
      rw [hw, Job.arrived_before]
      exact ⟨rfl, rfl, rfl⟩
    · rintro rfl w hw hpolicy
      rw [hw, Job.arrived_late_kept _ _ _ hpolicy]
      exact ⟨rfl, _, rfl, rfl, rfl, congrArg Stamped.window hw⟩
    · rintro rfl w hw hpolicy
      rw [hw, Job.arrived_late_dropped _ _ _ hpolicy]
      exact ⟨rfl, rfl, rfl⟩
  · obtain ⟨-, rfl, -⟩ := State.job?_some s jid j hjob
    exact ⟨exec_preemptStop_not hon hjob, fun h => exec_chainSave_not hon hjob (.inl h), exec_resumeRestore_not hon hjob,
      preemptStop_stops hon hjob, fun _ h => exec_chainSave_not hon hjob (.inr h), chainSave_saves hon hjob,
      exec_resumeRestore_missing hon hjob, fun hph v hfound => ⟨resumeRestore_empty hon hjob hph hfound,
        resumeRestore_rejoins hon hjob hph hfound, resumeRestore_continues hon hjob hph hfound, resumeRestore_damaged hon hjob hph hfound⟩⟩

end Sys2Proof
end

section
/-! PROOF. Rounding, encodings and exact sums (R115, R116, R123, R130 to R132, R240); O59 and O60. -/

namespace Sys2Proof.Machine

/-! ### Rounding to a multiple of 2^q (R130) -/

/-- A multiple of 2^q stays what it is. -/
theorem quantize_of_le (mode : RMode) (m : Nat) {e q : Int} (h : q ≤ e) : quantize mode m e q = (m * 2 ^ (e - q).toNat, false) := if_pos h

theorem quantize_self (mode : RMode) (m : Nat) (e : Int) : quantize mode m e e = (m, false) := by
  simp [quantize_of_le mode m (Int.le_refl e)]

/-- What carries out of the first sixteen bits of a discarded fraction when r is added to them. -/
theorem sr_carry {m d r : Nat} (hd : 0 < d) (hr : r < 65536) :
    (m * 65536 / d + r) / 65536 = if 65536 ≤ m % d * 65536 / d + r then m / d + 1 else m / d := by
  have hcarry (n x : Nat) (hx : x < 65536) : (n * 65536 + x + r) / 65536 = if 65536 ≤ x + r then n + 1 else n := by
    split <;> omega
  have hsplit : m * 65536 / d = m / d * 65536 + m % d * 65536 / d := by
    conv_lhs => rw [← Nat.div_add_mod m d, Nat.add_mul, Nat.mul_assoc, Nat.mul_add_div hd]
  have hlt := Nat.mod_lt m hd
  have hfrac : m % d * 65536 / d < 65536 := (Nat.div_lt_iff_lt_mul hd).mpr (by omega)
  rw [hsplit, hcarry _ _ hfrac]

section
variable (mode : RMode) (m : Nat) {e q : Int} (h : e < q)
include h

theorem quantize_inexact : (quantize mode m e q).2 = decide (m % 2 ^ (q - e).toNat ≠ 0) := by
  rw [quantize, if_neg (Int.not_le.mpr h), Bool.eq_iff_iff, bne_iff_ne, decide_eq_true_iff]

theorem quantize_rz : (quantize .rz m e q).1 = m / 2 ^ (q - e).toNat := by
  rw [quantize, if_neg (Int.not_le.mpr h)]

theorem quantize_rne : (quantize .rne m e q).1 =
    if 2 ^ (q - e).toNat < 2 * (m % 2 ^ (q - e).toNat) ∨ 2 * (m % 2 ^ (q - e).toNat) = 2 ^ (q - e).toNat ∧ m / 2 ^ (q - e).toNat % 2 = 1
    then m / 2 ^ (q - e).toNat + 1 else m / 2 ^ (q - e).toNat := by
  rw [quantize, if_neg (Int.not_le.mpr h)]

theorem quantize_sr {r : Nat} (hr : r < 65536) : (quantize (.sr r) m e q).1 =
    if 65536 ≤ m % 2 ^ (q - e).toNat * 65536 / 2 ^ (q - e).toNat + r then m / 2 ^ (q - e).toNat + 1 else m / 2 ^ (q - e).toNat := by
  rw [quantize, if_neg (Int.not_le.mpr h)]
  exact sr_carry (Nat.two_pow_pos _) hr

/-- No mode goes beyond the next multiple. -/
theorem quantize_le_succ (hr : ∀ r, mode = .sr r → r < 65536) : (quantize mode m e q).1 ≤ m / 2 ^ (q - e).toNat + 1 := by
  cases mode with
  | rz => rw [quantize_rz m h]; exact Nat.le_succ _
  | rne => rw [quantize_rne m h]; split <;> omega
  | sr r => rw [quantize_sr m h (hr r rfl)]; split <;> omega

theorem quantize_rz_below : (quantize .rz m e q).1 * 2 ^ (q - e).toNat ≤ m ∧ m < ((quantize .rz m e q).1 + 1) * 2 ^ (q - e).toNat := by
  rw [quantize_rz m h]
  exact ⟨Nat.div_mul_le_self .., (Nat.div_lt_iff_lt_mul (Nat.two_pow_pos _)).mp (Nat.lt_succ_self _)⟩

/-- RNE takes a multiple within half a unit of the value; where the value lies half-way, an even one. -/
theorem quantize_rne_nearest :
    let n := (quantize .rne m e q).1
    let u := 2 ^ (q - e).toNat
    (2 * (n * u) ≤ 2 * m + u ∧ 2 * m ≤ 2 * (n * u) + u) ∧ (2 * (n * u) = 2 * m + u ∨ 2 * m = 2 * (n * u) + u → n % 2 = 0) := by
  intro n u
  have hm : m / u * u + m % u = m := Nat.div_add_mod' m u
  have hlt : m % u < u := Nat.mod_lt m (Nat.two_pow_pos _)
  have hn : n = if u < 2 * (m % u) ∨ 2 * (m % u) = u ∧ m / u % 2 = 1 then m / u + 1 else m / u := quantize_rne m h
  clear_value n u
  subst hn
  split
  case isTrue hup =>
    rw [Nat.add_one_mul (m / u) u]
    omega
  case isFalse => omega

end

/-! ### What the formats have in common (R115) -/

/-- Two exponent bits and one of fraction at least; infinities only beside IEEE's NaNs. -/
structure FloatFmt.Regular (f : FloatFmt) : Prop where
  frac_pos : 1 ≤ f.frac
  two_le_exp : 2 ≤ f.exp
  nan_of_inf : f.inf = true → f.nan ≠ 2

theorem regular_of_mem {f : FloatFmt} (hf : f ∈ floatFormats) : f.Regular := by
  have hall : ∀ f ∈ floatFormats, 1 ≤ f.frac ∧ 2 ≤ f.exp ∧ (f.inf = true → f.nan ≠ 2) := by decide
  obtain ⟨hfrac, hexp, hnan⟩ := hall f hf
  exact ⟨hfrac, hexp, hnan⟩

namespace FloatFmt

variable {f : FloatFmt}

theorem Regular.two_le_two_pow_frac (hf : f.Regular) : 2 ≤ 2 ^ f.frac := Nat.pow_le_pow_right (n := 2) (by decide) hf.frac_pos

theorem Regular.four_le_two_pow_exp (hf : f.Regular) : 4 ≤ 2 ^ f.exp := Nat.pow_le_pow_right (n := 2) (by decide) hf.two_le_exp

theorem maxSig_of_nan_two (h : f.nan = 2) : f.maxSig = 2 * 2 ^ f.frac - 2 := by
  rw [maxSig, if_pos h, Nat.pow_succ']

theorem maxSig_of_nan_ne_two (h : f.nan ≠ 2) : f.maxSig = 2 * 2 ^ f.frac - 1 := by
  rw [maxSig, if_neg h, Nat.pow_succ']

theorem Regular.two_pow_frac_le_maxSig (hf : f.Regular) : 2 ^ f.frac ≤ f.maxSig := by
  have := hf.two_le_two_pow_frac
  by_cases h : f.nan = 2
  · rw [maxSig_of_nan_two h]; omega
  · rw [maxSig_of_nan_ne_two h]; omega

/-- The largest exponent field of a finite value. -/
def topExp (f : FloatFmt) : Nat := if f.inf then 2 ^ f.exp - 2 else 2 ^ f.exp - 1

theorem Regular.maxExp_eq (hf : f.Regular) : f.maxExp = f.topExp - f.bias - f.frac := by
  have := hf.four_le_two_pow_exp
  have hcast : ((2 ^ f.exp : Nat) : Int) = 2 ^ f.exp := by push_cast; rfl
  unfold maxExp topExp
  split <;> omega

theorem Regular.emin_le_maxExp (hf : f.Regular) : f.emin - f.frac ≤ f.maxExp := by
  have := hf.four_le_two_pow_exp
  rw [hf.maxExp_eq, emin, topExp]
  split <;> omega

/-! ### Values the format represents -/

theorem exceeds_of_le {n : Nat} {q : Int} (hq : q ≤ f.maxExp) : f.exceeds n q = decide (f.maxSig * 2 ^ (f.maxExp - q).toNat < n) := by
  simp [exceeds, Int.min_eq_left hq]

theorem not_exceeds_of_le_maxSig {n : Nat} {q : Int} (hq : q ≤ f.maxExp) (hn : n ≤ f.maxSig) : f.exceeds n q = false := by
  rw [exceeds_of_le hq, decide_eq_false_iff_not, Nat.not_lt]
  exact hn.trans (Nat.le_mul_of_pos_right _ (Nat.two_pow_pos _))

theorem not_exceeds_below_maxExp {n : Nat} {q : Int} (hq : q < f.maxExp) (hn : n ≤ f.maxSig * 2) : f.exceeds n q = false := by
  rw [exceeds_of_le hq.le, decide_eq_false_iff_not, Nat.not_lt]
  exact hn.trans (Nat.mul_le_mul_left _ (Nat.le_self_pow (by omega) 2))

/-- A significand with its leading bit in place does not exceed the format below its top exponent. -/
theorem Regular.not_exceeds_normal (hf : f.Regular) {E m : Nat} (hE : E ≤ f.topExp) (hm : m < 2 ^ f.frac)
    (htop : E = f.topExp → m + 2 ^ f.frac ≤ f.maxSig) : f.exceeds (m + 2 ^ f.frac) (E - f.bias - f.frac) = false := by
  rcases hE.eq_or_lt with heq | hlt
  · exact not_exceeds_of_le_maxSig (by rw [hf.maxExp_eq]; omega) (htop heq)
  · have := hf.two_pow_frac_le_maxSig
    exact not_exceeds_below_maxExp (by rw [hf.maxExp_eq]; omega) (by omega)

theorem ulp_of_tiny {m : Nat} {e : Int} (h : expOf m e < f.emin) : f.ulp m e = f.emin - f.frac := by
  rw [ulp, max_eq_right h.le]

theorem expOf_subnormal {m : Nat} (h0 : m ≠ 0) (hm : m < 2 ^ f.frac) : expOf m (f.emin - f.frac) < f.emin := by
  have := (Nat.log2_lt h0).mpr hm
  unfold expOf
  omega

theorem ulp_normal {E m : Nat} (hE : 1 ≤ E) (hm : m < 2 ^ f.frac) : f.ulp (m + 2 ^ f.frac) (E - f.bias - f.frac) = E - f.bias - f.frac := by
  have hlog : Nat.log2 (m + 2 ^ f.frac) = f.frac := (Nat.log2_eq_iff (by omega)).mpr (by rw [Nat.pow_succ]; omega)
  unfold ulp expOf emin
  omega

theorem encode_subnormal (neg : Bool) {n : Nat} (q : Int) (h : n < 2 ^ f.frac) : f.encode neg n q = f.sign neg + n := if_pos h

theorem encode_normal (neg : Bool) {E m : Nat} (hm : m < 2 ^ f.frac) :
    f.encode neg (m + 2 ^ f.frac) (E - f.bias - f.frac) = f.sign neg + E * 2 ^ f.frac + m := by
  have hE : ((E : Int) - f.bias - f.frac + f.frac + f.bias).toNat = E := by omega
  rw [encode, if_neg (by omega), if_neg (by rw [Nat.pow_succ]; omega), hE, Nat.add_sub_cancel]

/-- The smallest normal is 2^frac units of the subnormals, and its encoding follows theirs. -/
theorem encode_at_emin (neg : Bool) {n : Nat} (h : n ≤ 2 ^ f.frac) : f.encode neg n (f.emin - f.frac) = f.sign neg + n := by
  rcases h.eq_or_lt with rfl | hlt
  · have := encode_normal neg (E := 1) (Nat.two_pow_pos f.frac)
    rwa [Nat.zero_add, Nat.one_mul, Nat.add_zero] at this
  · exact encode_subnormal neg _ hlt

theorem round_zero (mode : RMode) (sat neg : Bool) (e : Int) : f.round mode sat neg 0 e = (f.sign neg, 0) := if_pos rfl

/-- What the format represents is encoded without a flag. -/
theorem round_of_represented (mode : RMode) (sat neg : Bool) {m : Nat} {e : Int} (hm : m ≠ 0) (hulp : f.ulp m e = e)
    (hfits : f.exceeds m e = false) : f.round mode sat neg m e = (f.encode neg m e, 0) := by
  simp [round, hm, hulp, quantize_self, hfits]

/-! ### Encodings and their values (R116) -/

/-- An encoding is its sign, its exponent field and its fraction field. -/
theorem fields_join {w : Nat} (hw : w < 2 ^ (1 + f.exp + f.frac)) :
    w = f.sign (w / 2 ^ (f.exp + f.frac) % 2 == 1) + w / 2 ^ f.frac % 2 ^ f.exp * 2 ^ f.frac + w % 2 ^ f.frac := by
  have hlow : w % 2 ^ (f.exp + f.frac) = w % 2 ^ f.frac + 2 ^ f.frac * (w / 2 ^ f.frac % 2 ^ f.exp) := by
    rw [Nat.pow_add', Nat.mod_mul]
  have htop : w / 2 ^ (f.exp + f.frac) < 2 := by
    rw [Nat.div_lt_iff_lt_mul (Nat.two_pow_pos _), ← Nat.pow_add_one']
    rwa [show f.exp + f.frac + 1 = 1 + f.exp + f.frac by omega]
  have hsign : f.sign (w / 2 ^ (f.exp + f.frac) % 2 == 1) = 2 ^ (f.exp + f.frac) * (w / 2 ^ (f.exp + f.frac)) := by
    rw [Nat.mod_eq_of_lt htop]
    obtain h | h : w / 2 ^ (f.exp + f.frac) = 0 ∨ w / 2 ^ (f.exp + f.frac) = 1 := Nat.le_one_iff_eq_zero_or_eq_one.mp (Nat.le_of_lt_succ htop)
    all_goals simp [h, sign]
  rw [hsign, Nat.mul_comm (w / 2 ^ f.frac % 2 ^ f.exp), Nat.add_assoc, Nat.add_comm (2 ^ f.frac * _), ← hlow, Nat.div_add_mod]

/-- Fields that are neither an infinity's nor a NaN's are at most those of the largest finite value. -/
theorem Regular.finite_fields (hf : f.Regular) {E m : Nat} (hE : E < 2 ^ f.exp) (hm : m < 2 ^ f.frac)
    (hnotinf : ¬(E = 2 ^ f.exp - 1 ∧ f.inf = true)) (hnotnan : ¬(E = 2 ^ f.exp - 1 ∧ f.nan = 2 ∧ m = 2 ^ f.frac - 1)) :
    E ≤ f.topExp ∧ (E = f.topExp → m + 2 ^ f.frac ≤ f.maxSig) := by
  constructor
  · rw [topExp]
    split
    case isTrue hinf =>
      have : E ≠ 2 ^ f.exp - 1 := fun h => hnotinf ⟨h, hinf⟩
      omega
    case isFalse => omega
  · intro htop
    by_cases hnan : f.nan = 2
    · have hnoinf : ¬f.inf = true := fun hinf => hf.nan_of_inf hinf hnan
      rw [topExp, if_neg hnoinf] at htop
      have : m ≠ 2 ^ f.frac - 1 := fun h => hnotnan ⟨htop, hnan, h⟩
      rw [maxSig_of_nan_two hnan]
      omega
    · rw [maxSig_of_nan_ne_two hnan]
      omega

/-- An encoding that is no NaN encodes an infinity, a zero or a subnormal, or a normal value up to the largest. -/
theorem Regular.decode_cases (hf : f.Regular) {w : Nat} (hw : w < 2 ^ (1 + f.exp + f.frac)) (hnan : (f.decode w).isNan = false) : ∃ neg,
    (f.inf = true ∧ f.decode w = .inf neg ∧ w = f.infinity neg) ∨
    (∃ m, m < 2 ^ f.frac ∧ f.decode w = .fin neg m (f.emin - f.frac) ∧ w = f.sign neg + m) ∨
    (∃ E m, 1 ≤ E ∧ E ≤ f.topExp ∧ m < 2 ^ f.frac ∧ (E = f.topExp → m + 2 ^ f.frac ≤ f.maxSig) ∧
      f.decode w = .fin neg (m + 2 ^ f.frac) (E - f.bias - f.frac) ∧ w = f.sign neg + E * 2 ^ f.frac + m) := by
  have hjoin := fields_join hw
  have hm : w % 2 ^ f.frac < 2 ^ f.frac := Nat.mod_lt _ (Nat.two_pow_pos _)
  have hE : w / 2 ^ f.frac % 2 ^ f.exp < 2 ^ f.exp := Nat.mod_lt _ (Nat.two_pow_pos _)
  unfold decode at hnan ⊢
  generalize (w / 2 ^ (f.exp + f.frac) % 2 == 1) = neg at *
  generalize w / 2 ^ f.frac % 2 ^ f.exp = E at *
  generalize w % 2 ^ f.frac = m at *
  refine ⟨neg, ?_⟩
  dsimp only at hnan ⊢
  split at hnan
  case isTrue htop =>
    obtain ⟨rfl, hinf⟩ := htop
    split at hnan
    case isFalse => cases hnan
    case isTrue hm0 => exact .inl ⟨hinf, by simp [hinf, hm0], by rw [hjoin, hm0]; rfl⟩
  case isFalse hnotinf =>
    rw [if_neg hnotinf]
    split at hnan
    case isTrue => cases hnan
    case isFalse hnotnan =>
      rw [if_neg hnotnan]
      by_cases h0 : E = 0
      · exact .inr (.inl ⟨m, hm, if_pos h0, by rw [hjoin, h0, Nat.zero_mul, Nat.add_zero]⟩)
      · obtain ⟨htop, hmax⟩ := hf.finite_fields hE hm hnotinf hnotnan
        exact .inr (.inr ⟨E, m, by omega, htop, hm, hmax, if_neg h0, hjoin⟩)

/-- The value of an encoding is converted back to it without a flag, by any rounding. -/
theorem Regular.convert_decode (hf : f.Regular) (mode : RMode) (sat : Bool) {w : Nat} (hw : w < 2 ^ (1 + f.exp + f.frac))
    (hnan : (f.decode w).isNan = false) : f.convert mode sat (f.decode w) = (w, 0) := by
  obtain ⟨neg, ⟨hinf, hv, hw⟩ | ⟨m, hm, hv, hw⟩ | ⟨E, m, hpos, hE, hm, htop, hv, hw⟩⟩ := hf.decode_cases hw hnan
  · rw [hv, hw]
    exact if_pos hinf
  · rw [hv, hw]
    rcases Nat.eq_zero_or_pos m with rfl | hpos
    · exact round_zero mode sat neg _
    · have hfits : f.exceeds m (f.emin - f.frac) = false :=
        not_exceeds_of_le_maxSig hf.emin_le_maxExp (hm.le.trans hf.two_pow_frac_le_maxSig)
      rw [convert, round_of_represented mode sat neg hpos.ne' (ulp_of_tiny (expOf_subnormal hpos.ne' hm)) hfits, encode_subnormal neg _ hm]
  · have hne : m + 2 ^ f.frac ≠ 0 := by omega
    rw [hv, hw, convert, round_of_represented mode sat neg hne (ulp_normal hpos hm) (hf.not_exceeds_normal hE hm htop), encode_normal neg hm]

/-! ### Tiny results (R132) -/

/-- A value below the smallest normal is rounded to 2^frac units of the subnormals at most, which make the smallest normal. -/
theorem quantize_tiny_le (mode : RMode) {m : Nat} {e : Int} (htiny : expOf m e < f.emin) (hr : ∀ r, mode = .sr r → r < 65536) :
    (quantize mode m e (f.emin - f.frac)).1 ≤ 2 ^ f.frac := by
  have hlog : m < 2 ^ (Nat.log2 m + 1) := Nat.lt_log2_self
  unfold expOf at htiny
  rcases lt_or_ge e (f.emin - f.frac) with hlt | hge
  · refine (quantize_le_succ mode m hlt hr).trans (Nat.succ_le_of_lt (Nat.div_lt_of_lt_mul ?_))
    rw [← Nat.pow_add]
    exact hlog.trans_le (Nat.pow_le_pow_right (by decide) (by omega))
  · rw [quantize_of_le mode m hge]
    calc m * 2 ^ (e - (f.emin - f.frac)).toNat
        ≤ 2 ^ (Nat.log2 m + 1) * 2 ^ (e - (f.emin - f.frac)).toNat := Nat.mul_le_mul_right _ hlog.le
      _ = 2 ^ (Nat.log2 m + 1 + (e - (f.emin - f.frac)).toNat) := (Nat.pow_add ..).symm
      _ ≤ 2 ^ f.frac := Nat.pow_le_pow_right (by decide) (by omega)

/-- A tiny result is the sign and the units it is rounded to, with UF and NX where it is inexact. -/
theorem Regular.round_tiny (hf : f.Regular) (mode : RMode) (sat neg : Bool) {m : Nat} {e : Int} (hm : m ≠ 0) (htiny : expOf m e < f.emin)
    (hr : ∀ r, mode = .sr r → r < 65536) : f.round mode sat neg m e =
      (f.sign neg + (quantize mode m e (f.emin - f.frac)).1, if (quantize mode m e (f.emin - f.frac)).2 then fUF ||| fNX else 0) := by
  have hle := quantize_tiny_le mode htiny hr
  have hfits := not_exceeds_of_le_maxSig hf.emin_le_maxExp (hle.trans hf.two_pow_frac_le_maxSig)
  simp [round, hm, ulp_of_tiny htiny, hfits, htiny, encode_at_emin neg hle]

theorem quantize_exact_iff (mode : RMode) (m : Nat) (e q : Int) :
    (quantize mode m e q).2 = false ↔ q ≤ e ∨ m % 2 ^ (q - e).toNat = 0 := by
  rcases lt_or_ge e q with hlt | hge
  · simp [quantize_inexact mode m hlt, Int.not_le.mpr hlt]
  · simp [quantize_of_le mode m hge, hge]

/-- Up to the smallest normal, units and sign do not meet. -/
theorem Regular.sign_add_fields (hf : f.Regular) (neg : Bool) {n : Nat} (hn : n ≤ 2 ^ f.frac) :
    (f.sign neg + n) / 2 ^ (f.exp + f.frac) = (if neg then 1 else 0) ∧ (f.sign neg + n) % 2 ^ (f.exp + f.frac) = n := by
  have hexp := hf.two_le_exp
  have hlt : n < 2 ^ (f.exp + f.frac) := hn.trans_lt (Nat.pow_lt_pow_right (by decide) (by omega))
  cases neg <;> simp [sign, Nat.div_eq_of_lt hlt, Nat.mod_eq_of_lt hlt, Nat.add_div_left]

end FloatFmt

/-! ### Accumulator images (R123) -/

theorem unsigned_lt (n : Nat) (v : Int) : unsigned n v < 2 ^ n := by
  have hpos : (0 : Int) < ((2 ^ n : Nat) : Int) := Int.natCast_pos.mpr (Nat.two_pow_pos n)
  have hnonneg := Int.emod_nonneg v hpos.ne'
  have hlt := Int.emod_lt_of_pos v hpos
  unfold unsigned
  omega

/-- The low bits of a word that hold an integer's image give the integer back, whatever stands above. -/
theorem signed_of_mod_eq_unsigned {n p w : Nat} {v : Int} (hn : n = p + 1) (hw : w % 2 ^ n = unsigned n v) (hlo : -(2 ^ p) ≤ v)
    (hhi : v < 2 ^ p) : signed n w = v := by
  have hpow : 2 ^ n = 2 * 2 ^ p := hn ▸ Nat.pow_succ'
  have hcast : (2 : Int) ^ p = ((2 ^ p : Nat) : Int) := by push_cast; rfl
  rw [signed, hw, unsigned, hpow]
  rw [hcast] at hlo hhi
  generalize 2 ^ p = k at *
  rcases lt_or_ge v 0 with hneg | hpos
  · have hmod : v % ((2 * k : Nat) : Int) = v + (2 * k : Nat) := by
      rw [← Int.add_emod_right, Int.emod_eq_of_lt (by omega) (by omega)]
    rw [hmod, if_neg (by omega)]
    omega
  · have hmod : v % ((2 * k : Nat) : Int) = v := Int.emod_eq_of_lt hpos (by omega)
    rw [hmod, if_pos (by omega)]
    omega

/-- The four state bits of an image, above its integer. -/
def LAcc.stateBits (a : LAcc) : Nat := a.nan.toNat + 2 * a.pinf.toNat + 4 * a.ninf.toNat + 8 * a.ovf.toNat

theorem LAcc.stateBits_apart (a : LAcc) : (a.stateBits / 2 ^ 0 % 2 == 1) = a.nan ∧ (a.stateBits / 2 ^ 1 % 2 == 1) = a.pinf ∧
    (a.stateBits / 2 ^ 2 % 2 == 1) = a.ninf ∧ (a.stateBits / 2 ^ 3 % 2 == 1) = a.ovf := by
  obtain ⟨i, nan, pinf, ninf, ovf⟩ := a
  revert nan pinf ninf ovf
  simp only [stateBits]
  decide

theorem ite_two_pow_add (b : Bool) (n k : Nat) : (if b then 2 ^ (n + k) else 0) = 2 ^ n * (2 ^ k * b.toNat) := by
  cases b <;> simp [Nat.pow_add]

theorem LAcc.image_eq (a : LAcc) : a.image = unsigned 571 a.i + 2 ^ 571 * a.stateBits := by
  have hnan := ite_two_pow_add a.nan 571 0
  have hpinf := ite_two_pow_add a.pinf 571 1
  have hninf := ite_two_pow_add a.ninf 571 2
  have hovf := ite_two_pow_add a.ovf 571 3
  have hcollect (u k b0 b1 b2 b3 : Nat) : u + k * (2 ^ 0 * b0) + k * (2 ^ 1 * b1) + k * (2 ^ 2 * b2) + k * (2 ^ 3 * b3) =
    u + k * (b0 + 2 * b1 + 4 * b2 + 8 * b3) := by ring
  rw [image, hnan, hpinf, hninf, hovf, stateBits, hcollect]

theorem add_two_pow_mul_div {n u : Nat} (hu : u < 2 ^ n) (b k : Nat) : (u + 2 ^ n * b) / 2 ^ (n + k) = b / 2 ^ k := by
  rw [Nat.pow_add, ← Nat.div_div_eq_div_mul, Nat.add_mul_div_left _ _ (Nat.two_pow_pos n), Nat.div_eq_of_lt hu, Nat.zero_add]

theorem add_two_pow_mul_mod {n u : Nat} (hu : u < 2 ^ n) (b : Nat) : (u + 2 ^ n * b) % 2 ^ n = u := by
  rw [Nat.add_mul_mod_self_left, Nat.mod_eq_of_lt hu]

theorem LAcc.image_div (a : LAcc) (k : Nat) : a.image / 2 ^ (571 + k) = a.stateBits / 2 ^ k := by
  rw [a.image_eq, add_two_pow_mul_div (unsigned_lt 571 a.i)]

theorem LAcc.ofImage_image (a : LAcc) (hlo : -(2 ^ 570) ≤ a.i) (hhi : a.i < 2 ^ 570) : LAcc.ofImage a.image = a := by
  have hlow : a.image % 2 ^ 571 = unsigned 571 a.i := by rw [a.image_eq, add_two_pow_mul_mod (unsigned_lt 571 a.i)]
  have hi : signed 571 a.image = a.i := signed_of_mod_eq_unsigned rfl hlow hlo hhi
  obtain ⟨hnan, hpinf, hninf, hovf⟩ := a.stateBits_apart
  rw [ofImage, hi, a.image_div 0, a.image_div 1, a.image_div 2, a.image_div 3, hnan, hpinf, hninf, hovf]

/-! ### Exact sums (R240) -/

/-- A term enters each part of a sum on its own, by an operation whose terms can be exchanged. -/
theorem Exact.add_eq (a : Exact) (v : Val) : a.add v =
    let t := Exact.empty.add v
    { i := a.i + t.i, nan := a.nan || t.nan, pinf := a.pinf || t.pinf, ninf := a.ninf || t.ninf,
      allNegZero := a.allNegZero && t.allNegZero, count := a.count + t.count } := by
  cases v with
  | nan s => simp [add, empty]
  | inf n => cases n <;> simp [add, empty]
  | fin n m e => simp [add, empty, Bool.and_assoc]

theorem Exact.add_right_comm (a : Exact) (v w : Val) : (a.add v).add w = (a.add w).add v := by
  rw [add_eq (a.add v), add_eq a v, add_eq (a.add w), add_eq a w]
  simp only [Int.add_right_comm, Bool.or_right_comm, Bool.and_right_comm, Nat.add_right_comm]

theorem Exact.foldl_add_perm (a : Exact) {l k : List Val} (h : l.Perm k) : l.foldl Exact.add a = k.foldl Exact.add a :=
  h.foldl_eq' (fun v _ w _ b => b.add_right_comm v w) a

end Sys2Proof.Machine

namespace Sys2Proof
open Machine

/-- Settles O59: each mode of `quantize`, encodings by what they encode, images field by field, sums by exchanging two terms. -/
theorem numbersAreExact : Obligations.numbers_are_exact := by
  refine ⟨fun m d r hd hr => ?_, fun f hf mode sat w hw hnan => (regular_of_mem hf).convert_decode mode sat hw hnan, LAcc.ofImage_image,
    fun a l k h => a.foldl_add_perm h⟩
  have hlt : (0 : Int) < d := by omega
  have hd : ((d : Int) - 0).toNat = d := by omega
  have hrne := quantize_rne_nearest m hlt
  have hrz := quantize_rz_below m hlt
  have hsr := quantize_sr m hlt hr
  have hinexact := fun mode => quantize_inexact mode m hlt
  rw [← quantize_rz m hlt] at hsr
  simp only [hd] at hrne hrz hsr hinexact
  exact ⟨hrne.1, hrne.2, hrz, hsr, hinexact⟩

/-- Settles O60: a tiny result is its sign and the units it is rounded to. -/
theorem tinyResults : Obligations.tiny_results := by
  intro f hf mode sat neg m e hm htiny hr q represented
  have hreg := regular_of_mem hf
  have hexact := FloatFmt.quantize_exact_iff mode m e q
  have hle := FloatFmt.quantize_tiny_le mode htiny hr
  obtain ⟨hsign, hunits⟩ := hreg.sign_add_fields neg hle
  rw [hreg.round_tiny mode sat neg hm htiny hr]
  refine ⟨fun h => ?_, fun h => ?_, hsign, hunits.trans_le hle⟩
  · rw [hexact.mpr h]
    rfl
  · rw [Bool.eq_true_of_not_eq_false fun h0 => h (hexact.mp h0)]
    rfl

end Sys2Proof
end

section
/-! PROOF. The movers (R164, R396, R436; R467, R474): what they move, and what the end of their work leaves; O28. -/

namespace Sys2Proof.Machine

/-! ### A unit that rests: no work of it in flight (R40, R77) -/

/-- No work of the unit is in flight. -/
def State.Rests (x : Nat) (s : State) : Prop := (s.unit x).prog = 0

section
variable {x : Nat} {s : State}

theorem State.Rests.frees : Frees (State.Rests x) 0x3FFFFFFFFEF := frees_unit x (·.prog = 0)

theorem State.Rests.counted : Counted (State.Rests x) := counted_unit UnitSt.prog (fun _ _ _ => rfl) x (· = 0)

/-- A fault record posted leaves what neither a count nor the context, its ring or its observation can break. -/
theorem State.postFault_inv {P : State → Prop} (hw : Frees P 0x500000004) (hc : Counted P) (s : State) (ctx : Nat) (f : FaultRec) (hs : P s) :
    P (s.postFault ctx f) := by
  have hset := fun v => State.setCtx_keeps (P := P) (hw.sub rfl) s ctx v hs
  refine State.post_keeps (hw.sub rfl) _ _ _ _ (State.traceEv_inv (hw.sub rfl) hc _ _ _ _ _ _ _ _ ?_)
  split
  · exact State.noteTrigger_keeps (hw.sub rfl) _ _ _ (hset _)
  · exact hset _

/-- Clearing units outlives what their being made idle does not break, nor the loss of their engines' own parts. -/
theorem State.clearUnits_inv {P : State → Prop} (hw : Frees P 0x1df900) (hidle : ∀ s y, P s → P (s.updUnit y UnitSt.idle)) (s : State)
    (xs : List Nat) (hs : P s) : P (s.clearUnits xs) := by
  induction xs generalizing s with
  | nil => exact hs
  | cons y ys ih =>
    have hcleared := State.setDec_keeps (hw.sub rfl) _ y .reset <| State.setVx_keeps (hw.sub rfl) _ y .reset <|
      State.setEng_keeps (hw.sub rfl) _ y .reset <| State.setTile_keeps (hw.sub rfl) _ y none <|
      State.setWatch_keeps (hw.sub rfl) _ y none (hidle s y hs)
    have hregs (t : State) (v m) (ht : P t) : P { t with vregs := v, vmask := m } := hw.free 15 rfl _ m (hw.free 14 rfl t v ht)
    refine ih _ (hregs _ _ _ (State.freeDirs_keeps (hw.sub rfl) _ y ?_))
    split
    · exact State.setGse_keeps (hw.sub rfl) _ _ _ hcleared
    split
    · exact State.setRxe_keeps (hw.sub rfl) _ _ _ hcleared
    · exact hcleared

/-- Units that are cleared rest. -/
theorem State.Rests.clearUnits (h : s.Rests x) (xs : List Nat) : (s.clearUnits xs).Rests x := by
  refine State.clearUnits_inv (State.Rests.frees.sub rfl) (fun t y ht => ?_) s xs h
  rw [State.Rests, State.unit_updUnit]
  split
  · rfl
  · exact ht

/-- The release of a job leaves no work in flight. -/
theorem State.Rests.release (h : s.Rests x) (j : Job) : (s.release j).Rests x := by
  have hw := State.Rests.frees (x := x)
  have hoff : ((((s.dropRecfgs j.jid).clearUnits (s.unitsOf j.jid)).clearQueues (binQueues j.bin ++ ftqKeys (s.unitsOf j.jid))).disarm
      j.bin.syncs).Rests x :=
    State.disarm_keeps (hw.sub rfl) _ _ <| State.clearQueues_keeps (hw.sub rfl) _ _ <|
      State.Rests.clearUnits (State.dropRecfgs_keeps (hw.sub rfl) _ _ h) _
  exact State.updCtx_keeps (hw.sub rfl) _ _ _ (State.freeOwners_keeps (hw.sub rfl) _ j (State.stopTrace_keeps (hw.sub rfl) _ j.jid hoff))

/-- A fault that ends a job leaves no work in flight. -/
theorem State.Rests.jobFault (h : s.Rests x) (k : U64) (cause access unit : Nat) (isDie : Bool) (dva bytes : Nat) :
    (s.jobFault k cause access unit isDie dva bytes).Rests x := by
  have hw := State.Rests.frees (x := x)
  refine State.withJob_keeps (hw.sub rfl) _ _ _ h fun j => ?_
  have hposted (f : FaultRec) : (s.postFault j.ctx.val f).Rests x := State.postFault_inv (hw.sub rfl) State.Rests.counted _ _ _ h
  exact State.withJob_keeps (hw.sub rfl) _ _ _ (hposted _) fun i =>
    State.Rests.release (State.postCpl_keeps (hw.sub rfl) _ _ _ (hposted _)) i

/-- A SIGNAL sent, refused by an object that is not armed, or met by a die that does not answer (R64, R68, R482). -/
theorem State.Rests.doSignal (h : s.Rests x) (y : Nat) (sid : U16) (a : U64) : (s.doSignal y sid a).Rests x := by
  have hw := State.Rests.frees (x := x)
  refine State.withUnitJob_keeps (hw.sub rfl) _ _ _ h fun j => ?_
  dsimp only
  split
  · exact h
  split
  · exact State.unavailable_keeps (hw.sub rfl) _ _ h
  split
  · exact h.jobFault _ _ _ _ _ _ _
  · exact State.exchange_keeps (hw.sub rfl) _ _ _ (State.syncDone_inv (hw.sub rfl) State.Rests.counted _ _ _ _ _
      (State.putValue_keeps (hw.sub rfl) _ _ _ h))

end

/-- Work that is done is no longer in flight, whatever comes of its tokens and its SIGNAL (R40, R263). -/
theorem State.workDone_rests (s : State) (x : Nat) : (s.workDone x).Rests x := by
  have hdone (t : State) : (t.updUnit x fun u => { u.endTile with prog := 0, sigOwed := false }).Rests x := by
    rw [State.Rests, State.unit_updUnit, if_pos rfl]
  have hcleared (t : State) (P : Prop) [Decidable P] (ht : t.Rests x) : (if P then t.setVx x .reset else t).Rests x := by
    split <;> exact ht
  unfold State.workDone
  dsimp only
  split
  · split
    · exact (hcleared _ _ (hdone _)).doSignal _ _ _
    · exact hcleared _ _ (hdone _)
  · exact hcleared _ _ (hdone _)

/-! ### Units at work, stopping or not -/

/-- A unit that works at a command goes on with its iteration. -/
theorem State.ran_unitWorks {s : State} {x : Nat} {j : Job} {c : Cmd} (h : Commanded s x j c) (f : State → Job → Cmd → State) :
    (s.ran fun s => s.unitWorks x (f s)) = .next (f s j c) := by
  obtain ⟨hw, hcmd⟩ := h
  have ⟨hon, _, _, hrun, hstop, hstall, hdie⟩ := hw
  rw [s.ran_on _ hon, State.unitWorks, State.unitActs, State.withUnitJob_of_working hw]
  simp [hcmd, hrun, hstop, hstall, hdie]

/-! ### A list of elements moved -/

section
variable (x : Nat) (w : Who) (sv dv : View) (conv : Nat → Rd → Conv) (srCnt cols : Nat)

/-- The mover's own state after its element `n` is moved: where it stands, the element's flags, its counts (R77, R137, R436). -/
def MoveOut.noted (r : MoveOut) (n : Nat) : State :=
  (((r.s.updUnit x fun u => { (if r.sr then u.count srCnt 1 else u) with prog := n + 2 }).orLanes x (atLane (n % max 1 cols % 256) r.flags)).countOoa x
    r.ooa).accessed w.die

theorem State.countOoa_prog (s : State) (a y k : Nat) : ((s.countOoa a k).unit y).prog = (s.unit y).prog := by
  unfold State.countOoa
  split
  · rfl
  · refine State.updUnit_part UnitSt.prog s a y ?_
    split <;> rfl

theorem MoveOut.noted_prog (r : MoveOut) (n : Nat) : ((r.noted x w srCnt cols n).unit x).prog = n + 2 := by
  rw [MoveOut.noted, State.unit_congr (State.accessed_units _ _), State.countOoa_prog, State.orLanes, State.updUnit_part UnitSt.prog _ _ _ rfl,
    State.unit_updUnit, if_pos rfl]

theorem MoveOut.noted_keeps {P : State → Prop} (hw : Frees P 0x800000010) {r : MoveOut} (n : Nat) (hr : P r.s) : P (r.noted x w srCnt cols n) :=
  State.accessed_keeps (hw.sub rfl) _ _ (State.countOoa_keeps (hw.sub rfl) _ _ _ (State.orLanes_keeps (hw.sub rfl) _ _ _
    (State.updUnit_keeps (hw.sub rfl) _ _ _ hr)))

/-- Where none of a row of elements faults, the first is moved and then the others. -/
theorem State.moveFrom_cons {s : State} {n : Nat} {p : List Int × List Int} {ps : List (List Int × List Int)}
    (hall : (s.moveFrom x w sv dv conv srCnt cols n (p :: ps)).2 = true) : ∃ r, s.moveElem w sv dv (conv n) p = .ok r ∧
      s.moveFrom x w sv dv conv srCnt cols n (p :: ps) = (r.noted x w srCnt cols n).moveFrom x w sv dv conv srCnt cols (n + 1) ps := by
  rw [State.moveFrom] at hall ⊢
  cases hr : s.moveElem w sv dv (conv n) p with
  | ok r => exact ⟨r, rfl, rfl⟩
  | bad c k d a => rw [hr] at hall; cases hall
  | wait d => rw [hr] at hall; cases hall

/-- What moved elements leave, where none of them faults: all that stores, their fabric and the mover's own state cannot break. -/
theorem State.moveFrom_all_keeps {P : State → Prop} (hw : Frees P 0x20c0e00001e) {s : State} {n : Nat} {ps : List (List Int × List Int)} (hs : P s)
    (hall : (s.moveFrom x w sv dv conv srCnt cols n ps).2 = true) : P (s.moveFrom x w sv dv conv srCnt cols n ps).1 := by
  induction ps generalizing s n with
  | nil => exact hs
  | cons p ps ih =>
    obtain ⟨r, hr, heq⟩ := State.moveFrom_cons x w sv dv conv srCnt cols hall
    rw [heq] at hall ⊢
    exact ih (MoveOut.noted_keeps x w srCnt cols (hw.sub rfl) n (State.moveElem_keeps (hw.sub rfl) s w sv dv (conv n) p hs r hr)) hall

/-- `prog` is one more than the elements moved (R77). -/
theorem State.moveFrom_all_prog {s : State} {n : Nat} {ps : List (List Int × List Int)} (hn : (s.unit x).prog = n + 1)
    (hall : (s.moveFrom x w sv dv conv srCnt cols n ps).2 = true) :
    ((s.moveFrom x w sv dv conv srCnt cols n ps).1.unit x).prog = n + ps.length + 1 := by
  induction ps generalizing s n with
  | nil => exact hn
  | cons p ps ih =>
    obtain ⟨r, -, heq⟩ := State.moveFrom_cons x w sv dv conv srCnt cols hall
    rw [heq] at hall ⊢
    rw [ih (MoveOut.noted_prog x w srCnt cols r n) hall, List.length_cons]
    omega

end

/-! ### A region done -/

section
variable {s : State} {x : Nat} {w : Who} {c : Cmd} {sv : View} {sr : Region} {dst : Option (View × Region)} {finish : State → State}

/-- Where no port asks for a reference, the end of a region makes no access: it is counted, its tokens go out, and the work is done. -/
theorem State.moverDone_of_no_refs (hrefs : ∀ o ∈ c.outs, o.ref = none) :
    s.moverDone x w c sv sr dst finish =
      (((finish s).pushMoved x c (fun _ => 0) ((finish s).unit x).owed).workDone x).accessed w.die := by
  have hasked (b : Bool) : (c.outs.any fun o => (s.unit x).owed.contains o.port.val && o.ref == some b) = false := by
    rw [List.any_eq_false]
    intro o ho
    simp [hrefs o ho]
  unfold State.moverDone
  simp only [hasked]
  cases dst <;> exact congrArg (fun f => State.accessed (State.workDone (State.pushMoved (finish s) x c f _) x) w.die)
    (funext fun b => ite_self 0)

theorem State.moverDone_rests (hrefs : ∀ o ∈ c.outs, o.ref = none) : (s.moverDone x w c sv sr dst finish).Rests x := by
  rw [State.moverDone_of_no_refs hrefs]
  exact State.accessed_keeps (State.Rests.frees.sub rfl) _ _ (State.workDone_rests _ x)

theorem State.moverDone_mem (hfinish : ∀ t, (finish t).mem = t.mem) : (s.moverDone x w c sv sr dst finish).mem = s.mem :=
  State.moverDone_keeps ((frees_mem (· = s.mem)).sub rfl) _ _ _ _ _ _ _ _ rfl fun t ht => (hfinish t).trans ht

theorem State.lmvDone_mem {j : Job} {dv : View} {dr : Region} : (s.lmvDone x j c sv dv sr dr).mem = s.mem :=
  State.lmvDone_keeps ((frees_mem (· = s.mem)).sub rfl) _ _ _ _ _ _ _ _ rfl

theorem State.lmvDone_rests {j : Job} {dv : View} {dr : Region} (hrefs : ∀ o ∈ c.outs, o.ref = none) :
    (s.lmvDone x j c sv dv sr dr).Rests x := State.moverDone_rests hrefs

end

/-! ### DMA engines (R396, R467, R474) -/

/-- What a DMA engine moves of its region: from where it stands, as far as the words asked for go; true when no element faults. -/
def State.dmaMove (s : State) (x words : Nat) (j : Job) (sv dv : View) (sr dr : Region) : State × Bool :=
  let n := (s.unit x).prog - 1
  let ps := regionPairs sr dr
  s.moveFrom x (whoOf x j) sv dv (fun i q => rawConv s sv dv (i - n) q) 2 1 n ((ps.take (wordsMoved sv.width ps.length n words)).drop n)

section
variable {s : State} {x words : Nat} {j : Job} {sv dv : View} {sr dr : Region} (hall : (s.dmaMove x words j sv dv sr dr).2 = true)
include hall

theorem State.dmaMove_frame :
    (s.dmaMove x words j sv dv sr dr).1.queues = s.queues ∧ (s.dmaMove x words j sv dv sr dr).1.syncs = s.syncs :=
  State.moveFrom_all_keeps _ _ _ _ _ _ _
    (((frees_queues (· = s.queues)).sub rfl : Frees _ 0x20c0e00001e).and ((frees_syncs (· = s.syncs)).sub rfl)) ⟨rfl, rfl⟩ hall

/-- With elements left over, the engine stands where the words asked for end, if it was not past it. -/
theorem State.dmaMove_prog (hprog : (s.unit x).prog ≠ 0)
    (hleft : wordsMoved sv.width (regionPairs sr dr).length ((s.unit x).prog - 1) words < (regionPairs sr dr).length) :
    ((s.dmaMove x words j sv dv sr dr).1.unit x).prog =
      max ((s.unit x).prog - 1) (wordsMoved sv.width (regionPairs sr dr).length ((s.unit x).prog - 1) words) + 1 := by
  refine (State.moveFrom_all_prog _ _ _ _ _ _ _ (by omega) hall).trans ?_
  rw [List.length_drop, List.length_take]
  omega

end

/-- After elements are moved, before the end of a region: the job has progressed if any was, and the engine counts the whole bytes (R436). -/
def State.dmaCounted (s t : State) (x : Nat) (j : Job) (sv : View) : State :=
  let n := (s.unit x).prog - 1
  let done := (t.unit x).prog - 1
  let t0 := if n < done then t.updJob j.jid fun j => { j with progress := true } else t
  t0.updUnit x fun v => if v.job.isSome then v.count 0 (moved sv.width done - moved sv.width n) else v

section
variable (s t : State) (x : Nat) (j : Job) (sv : View)

theorem State.dmaCounted_keeps {P : State → Prop} (hw : Frees P 0x200010) (ht : P t) : P (s.dmaCounted t x j sv) := by
  refine State.updUnit_keeps (hw.sub rfl) _ _ _ ?_
  split
  · exact State.updJob_keeps (hw.sub rfl) _ _ _ ht
  · exact ht

theorem State.dmaCounted_mem : (s.dmaCounted t x j sv).mem = t.mem :=
  State.dmaCounted_keeps s t x j sv ((frees_mem (· = t.mem)).sub rfl) rfl

theorem State.dmaCounted_queues : (s.dmaCounted t x j sv).queues = t.queues :=
  State.dmaCounted_keeps s t x j sv ((frees_queues (· = t.queues)).sub rfl) rfl

theorem State.dmaCounted_syncs : (s.dmaCounted t x j sv).syncs = t.syncs :=
  State.dmaCounted_keeps s t x j sv ((frees_syncs (· = t.syncs)).sub rfl) rfl

theorem State.dmaCounted_prog : ((s.dmaCounted t x j sv).unit x).prog = (t.unit x).prog := by
  unfold State.dmaCounted
  dsimp only
  refine (State.updUnit_part UnitSt.prog _ x x ?_).trans ?_
  · split
    · split <;> rfl
    · split <;> rfl
  · split <;> rfl

end

theorem exec_dmaTransfer (die : Fin 24) (e : Fin 2) (words : Nat) (s : State) :
    exec (.dmaTransfer die e words) s = execDmaTransfer die e s words := rfl

section
variable {die : Fin 24} {e : Fin 2} {words : Nat} {j : Job} {c : Cmd} {src dst : Nat} {sr dr : Region} {sv dv : View} {s : State}
  (h : Commanded s (die.val * 16 + 12 + e.val) j c) (hbody : c.body = .dmx src dst sr dr)
include h hbody

/-- Without work, while a dump holds DMX1, or while lent jobs pause, the engine stands still. -/
theorem exec_dmaTransfer_still (hstill : (s.unit (die.val * 16 + 12 + e.val)).prog = 0 ∨ (e = 1 ∧ s.dumpHolds = true) ∨
    (1 ≤ s.pwr.eff ∧ j.guaranteed = false)) : exec (.dmaTransfer die e words) s = .next s := by
  rw [exec_dmaTransfer, execDmaTransfer, State.ran_unitWorks h, hbody]
  refine congrArg Host.Outcome.next (if_pos ?_)
  rcases hstill with hprog | ⟨he, hdump⟩ | ⟨heff, hlent⟩
  · simp [hprog]
  · simp [he, hdump]
  · simp [heff, hlent]

/-- Else it moves what it is asked for, and ends its region with the last element. -/
theorem exec_dmaTransfer_moving (hprog : (s.unit (die.val * 16 + 12 + e.val)).prog ≠ 0) (hdump : e = 0 ∨ s.dumpHolds = false)
    (hlevel : s.pwr.eff = 0 ∨ j.guaranteed = true) (hsrc : viewOf j.bin c (s.unit (die.val * 16 + 12 + e.val)) src = some sv)
    (hdst : viewOf j.bin c (s.unit (die.val * 16 + 12 + e.val)) dst = some dv) :
    exec (.dmaTransfer die e words) s = .next
      (let x := die.val * 16 + 12 + e.val
       let ps := regionPairs sr dr
       let r := s.dmaMove x words j sv dv sr dr
       let t := s.dmaCounted r.1 x j sv
       if r.2 && decide (ps.length ≤ wordsMoved sv.width ps.length ((s.unit x).prog - 1) words) then
         t.moverDone x (whoOf x j) c sv sr (some (dv, dr)) fun s => s.updUnit x fun v => v.count 1 1
       else t) := by
  rw [exec_dmaTransfer, execDmaTransfer, State.ran_unitWorks h, hbody]
  refine congrArg Host.Outcome.next ((if_neg ?_).trans ?_)
  · have hfree : (e == 1 && s.dumpHolds) = false := by
      rcases hdump with rfl | hdump
      · rfl
      · simp [hdump]
    have hgo : (decide (1 ≤ s.pwr.eff) && !j.guaranteed) = false := by
      rcases hlevel with heff | hguar
      · simp [heff]
      · simp [hguar]
    simp [hprog, hfree, hgo]
  · dsimp only
    rw [hsrc, hdst]
    rfl

end

/-! ### The layout mover (R130, R136) -/

/-- What the layout mover moves of its tile, element by element; true when no element faults. -/
def State.lmvMove (s : State) (x : Nat) (j : Job) (pass : Nat) (sv dv : View) (sr dr : Region) : State × Bool :=
  let n := (s.unit x).prog - 1
  let cols := dr.ext.getD 0 1
  s.moveFrom x (whoOf x j) sv dv (fun i q => lmvConv j pass sv dv (dv.tile dr.ext dr.org) cols i q) 2 cols n ((regionPairs sr dr).drop n)

theorem exec_lmvCopy (die : Fin 24) (s : State) : exec (.lmvCopy die) s = execLmvCopy die s := rfl

section
variable {die : Fin 24} {j : Job} {c : Cmd} {src dst : Nat} {sr dr : Region} {pass : BitVec 20} {sv dv : View} {s : State}
  (h : Commanded s (die.val * 16 + 9) j c) (hbody : c.body = .lmv src dst sr dr pass)
include h hbody

theorem exec_lmvCopy_idle (hprog : (s.unit (die.val * 16 + 9)).prog = 0) : exec (.lmvCopy die) s = .next s := by
  rw [exec_lmvCopy, execLmvCopy, State.ran_unitWorks h, hbody]
  exact congrArg Host.Outcome.next (if_pos hprog)

variable (hprog : (s.unit (die.val * 16 + 9)).prog ≠ 0) (hsrc : viewOf j.bin c (s.unit (die.val * 16 + 9)) src = some sv)
  (hdst : viewOf j.bin c (s.unit (die.val * 16 + 9)) dst = some dv)
include hprog hsrc hdst

/-- Into a destination of plain elements: one by one, the tile ended with the last. -/
theorem exec_lmvCopy_elements (hmx : dv.fmt.isMx = false) : exec (.lmvCopy die) s = .next
    (let x := die.val * 16 + 9
     let r := s.lmvMove x j pass.toNat sv dv sr dr
     if r.2 then r.1.lmvDone x j c sv dv sr dr else r.1) := by
  rw [exec_lmvCopy, execLmvCopy, State.ran_unitWorks h, hbody]
  refine congrArg Host.Outcome.next ((if_neg hprog).trans ?_)
  dsimp only
  rw [hsrc, hdst]
  simp only [hmx]
  rfl

/-- Into a destination of blocks: all blocks at once, then the end of the tile. -/
theorem exec_lmvCopy_blocks {s1 : State} (hmx : dv.fmt.isMx = true) (hleft : (s.unit (die.val * 16 + 9)).prog ≤ (regionPairs sr dr).length)
    (hstored : s.lmvMx (die.val * 16 + 9) (whoOf (die.val * 16 + 9) j) j pass.toNat sv dv (dv.tile dr.ext dr.org) (dr.ext.getD 0 1)
      (regionPairs sr dr) = .ok s1) : exec (.lmvCopy die) s = .next
    (((s1.updUnit (die.val * 16 + 9) fun u => { u with prog := (regionPairs sr dr).length + 1 }).lmvDone (die.val * 16 + 9) j c sv dv sr dr).accessed
      (whoOf (die.val * 16 + 9) j).die) := by
  rw [exec_lmvCopy, execLmvCopy, State.ran_unitWorks h, hbody]
  refine congrArg Host.Outcome.next ((if_neg hprog).trans ?_)
  dsimp only
  rw [hsrc, hdst]
  simp only [hmx, if_true, if_pos hleft, hstored]
  rfl

end

end Sys2Proof.Machine

namespace Sys2Proof
open Machine

/-- Settles O28: the elements left are moved one after another, and a region whose last element is moved ends the work. -/
theorem movers : Obligations.movers := by
  intro die e words j c src dst sr dr pass sv dv s hrefs
  refine ⟨fun h hbody => ⟨exec_dmaTransfer_still h hbody, fun hprog hdump hlevel hsrc hdst => ?_⟩,
    fun h hbody => ⟨exec_lmvCopy_idle h hbody, fun hprog hsrc hdst => ⟨fun hmx hall => ?_, fun hmx hfault => ?_, fun s1 hmx hleft hstored => ?_⟩⟩⟩
  · have hexec := exec_dmaTransfer_moving (words := words) h hbody hprog hdump hlevel hsrc hdst
    refine ⟨fun hall hlast => ?_, fun hall hleft => ?_, fun hfault => ?_⟩
    · refine ⟨_, hexec.trans (congrArg Host.Outcome.next (if_pos ?_)), ?_, State.moverDone_rests hrefs⟩
      · exact Bool.and_eq_true_iff.mpr ⟨hall, decide_eq_true hlast⟩
      · refine (State.moverDone_mem ?_).trans (State.dmaCounted_mem _ _ _ _ _)
        exact fun _ => rfl
    · obtain ⟨hqueues, hsyncs⟩ := State.dmaMove_frame hall
      refine ⟨_, hexec.trans (congrArg Host.Outcome.next (if_neg ?_)), State.dmaCounted_mem _ _ _ _ _,
        (State.dmaCounted_prog _ _ _ _ _).trans (State.dmaMove_prog hall hprog hleft),
        (State.dmaCounted_queues _ _ _ _ _).trans hqueues, (State.dmaCounted_syncs _ _ _ _ _).trans hsyncs⟩
      exact fun hend => absurd (of_decide_eq_true (Bool.and_eq_true_iff.mp hend).2) (Nat.not_le.mpr hleft)
    · refine ⟨_, hexec.trans (congrArg Host.Outcome.next (if_neg ?_)), State.dmaCounted_mem _ _ _ _ _⟩
      exact fun hend => absurd (Bool.and_eq_true_iff.mp hend).1 (Bool.eq_false_iff.mp hfault)
  · refine ⟨_, (exec_lmvCopy_elements h hbody hprog hsrc hdst hmx).trans (congrArg Host.Outcome.next (if_pos hall)), State.lmvDone_mem,
      State.lmvDone_rests hrefs⟩
  · exact (exec_lmvCopy_elements h hbody hprog hsrc hdst hmx).trans (congrArg Host.Outcome.next (if_neg (Bool.eq_false_iff.mp hfault)))
  · exact ⟨_, exec_lmvCopy_blocks h hbody hprog hsrc hdst hmx hleft hstored, State.lmvDone_mem, State.lmvDone_rests hrefs⟩

end Sys2Proof
end

section
/-! PROOF. The vector engine (R220, R221, R224, R226, R228, R231, R233): what an issued instruction leaves, what its lanes hold; O22 and O24. -/

namespace Sys2Proof.Machine

/-! ### Units beside the one that enters a wait state -/

section
variable {s : State} {x y : Nat}

/-- A trace record is counted at a DCU alone (R436). -/
theorem State.traceEv_unit (hy : y % 16 ≠ 15) (d kind cls : Nat) (jid : U64) (unit : Nat) (tag : U32) (payload : List (Nat × Nat × Nat)) :
    (s.traceEv d kind cls jid unit tag payload).unit y = s.unit y := by
  have hdcu : y ≠ d * 16 + 15 := by omega
  unfold State.traceEv State.tracePut
  dsimp only
  split
  · split
    · rw [State.unit_updUnit, if_neg hdcu, State.unit_updUnit, if_neg hdcu]
      rfl
    · rfl
  · rfl

theorem State.setWait_unit (hx : y ≠ x) (hy : y % 16 ≠ 15) (w : WaitSt) : (s.setWait x w).unit y = s.unit y := by
  have hset (u : UnitSt) : (s.setUnit x u).unit y = s.unit y := by rw [State.unit_setUnit, if_neg hx]
  unfold State.setWait
  dsimp only
  split
  · exact hset _
  · split
    · exact hset _
    · exact State.jobTrigger_keeps ((frees_unit y (· = s.unit y)).sub rfl) _ _ _ _ ((State.traceEv_unit hy _ _ _ _ _ _ _).trans (hset _))

end

/-! ### After an instruction (R233) -/

/-- An update of a unit's counters and popped tokens, and of nothing else of it. -/
def TalliesOnly (f : UnitSt → UnitSt) : Prop := ∀ u, ∃ c i, f u = { u with cnt := c, inTok := i }

/-- The recipe's position after an instruction: its next one, or at its end the next row group's first. -/
def VCtx.advance (k : VCtx) (v : VxSt) : VxSt :=
  if v.pos + 1 < k.len then { v with pos := v.pos + 1 } else { v with base := v.base + k.group, pos := 0, srCount := 0 }

section
variable {s : State} {k : VCtx}

theorem State.vxNext_inv {P : State → Prop} (hvx : ∀ t v, P t → P (t.setVx k.x v)) (hunit : ∀ t f, TalliesOnly f → P t → P (t.updUnit k.x f))
    (hrun : (s.unit k.x).wait.code = 5 → P (s.setRun k.x)) (hs : P s) : P (s.vxNext k) := by
  have hcount (t : State) (n m : Nat) (ht : P t) : P (t.updUnit k.x fun u => u.count n m) := hunit t _ (fun u => ⟨_, u.inTok, rfl⟩) ht
  have hdrop (t : State) (ht : P t) : P (t.dropFtq k) := by
    unfold State.dropFtq
    split
    · exact ht
    · refine hunit t _ (fun u => ?_) ht
      split
      · exact ⟨u.cnt, _, rfl⟩
      · exact ⟨u.cnt, u.inTok, rfl⟩
  have hran : P (if (s.unit k.x).wait.code == 5 then s.setRun k.x else s) := by
    split
    · next h => exact hrun (beq_iff_eq.mp h)
    · exact hs
  have hstep := hcount _ 0 1 hran
  unfold State.vxNext
  dsimp only
  generalize (if (s.unit k.x).wait.code == 5 then s.setRun k.x else s) = s0 at hstep ⊢
  split
  · exact hvx _ _ hstep
  split
  · exact hcount _ _ _ (hvx _ _ hstep)
  · exact hdrop _ (hcount _ _ _ (hvx _ _ hstep))

/-- A part of the units that neither their counters, nor their popped tokens, nor their wait state touch is left. -/
theorem State.vxNext_part {α : Type} (g : UnitSt → α) (htally : ∀ u c i, g ({ u with cnt := c, inTok := i } : UnitSt) = g u)
    (hwait : ∀ u w n, g ({ u with wait := w, waitAt := n } : UnitSt) = g u) (y : Nat) : g ((s.vxNext k).unit y) = g (s.unit y) := by
  refine State.vxNext_inv (P := fun t => g (t.unit y) = g (s.unit y)) (fun t v ht => ht) (fun t f hf ht => ?_) (fun _ => ?_) rfl
  · obtain ⟨c, i, heq⟩ := hf (t.unit k.x)
    exact (State.updUnit_part g t k.x y (by rw [heq, htally])).trans ht
  · exact State.setRun_part s k.x g (fun u _ _ => htally u _ u.inTok) hwait y

/-- An engine that did not wait for a credit keeps its wait state. -/
theorem State.vxNext_wait (h : (s.unit k.x).wait.code ≠ 5) : ((s.vxNext k).unit k.x).wait = (s.unit k.x).wait := by
  refine State.vxNext_inv (P := fun t => (t.unit k.x).wait = (s.unit k.x).wait) (fun t v ht => ht) (fun t f hf ht => ?_) (fun h5 => absurd h5 h) rfl
  obtain ⟨c, i, heq⟩ := hf (t.unit k.x)
  exact (State.updUnit_part UnitSt.wait t k.x k.x (by rw [heq])).trans ht

theorem State.vxNext_unit {y : Nat} (hx : y ≠ k.x) (hy : y % 16 ≠ 15) : (s.vxNext k).unit y = s.unit y := by
  refine State.vxNext_inv (P := fun t => t.unit y = s.unit y) (fun t v ht => ht) (fun t f _ ht => ?_) (fun _ => State.setWait_unit hx hy _) rfl
  rw [State.unit_updUnit, if_neg hx, ht]

theorem State.vxAt_congr {t : State} (h : t.vx = s.vx) (y : Nat) : t.vxAt y = s.vxAt y := by
  rw [State.vxAt, State.vxAt, h]

theorem State.vxNext_vxAt (y : Nat) : (s.vxNext k).vxAt y = if y = k.x then k.advance (s.vxAt k.x) else s.vxAt y := by
  have hran : (if (s.unit k.x).wait.code == 5 then s.setRun k.x else s).vx = s.vx := by
    split
    · exact State.setRun_keeps ((frees_vx (· = s.vx)).sub rfl) _ _ rfl
    · rfl
  have hdrop (t : State) : (t.dropFtq k).vx = t.vx := State.dropFtq_keeps ((frees_vx (· = t.vx)).sub rfl) _ _ rfl
  unfold State.vxNext VCtx.advance
  dsimp only
  generalize (if (s.unit k.x).wait.code == 5 then s.setRun k.x else s) = s0 at hran ⊢
  have hat (z : Nat) : (s0.updUnit k.x fun u => u.count 0 1).vxAt z = s.vxAt z := State.vxAt_congr hran z
  have hset {t : State} {v : VxSt} (ht : t.vx = ((s0.updUnit k.x fun u => u.count 0 1).setVx k.x v).vx) :
      t.vxAt y = if y = k.x then v else s.vxAt y := by
    rw [State.vxAt_congr ht, State.vxAt_setVx, hat]
  rw [hat k.x]
  split
  · exact hset rfl
  split
  · exact hset rfl
  · exact hset (hdrop _)

end

/-! ### What an issued instruction leaves -/

/-- The result of an instruction that writes vector registers or masks and its lanes' flags alone, before the recipe's position steps. -/
def State.vxWrote (s : State) (k : VCtx) (regs : Tab VReg) (masks : Tab (BitVec 256)) (fs : List U16) : State :=
  ({ s with vregs := regs, vmask := masks } : State).orLanes k.x fs

section
variable {s : State} {k : VCtx} {regs : Tab VReg} {masks : Tab (BitVec 256)} {fs : List U16}

theorem State.vxWrote_unit_self : (s.vxWrote k regs masks fs).unit k.x = (s.unit k.x).orLanes fs := State.unit_setUnit_self _ _ _

theorem State.vxWrote_unit {y : Nat} (hy : y ≠ k.x) : (s.vxWrote k regs masks fs).unit y = s.unit y :=
  (State.unit_updUnit _ _ _ _).trans (if_neg hy)

/-- The lanes keep their flags past the step of the recipe (R137). -/
theorem State.vxWrote_lanesFlagged : LanesFlagged s ((s.vxWrote k regs masks fs).vxNext k) k.x fs :=
  ⟨(State.vxNext_part UnitSt.lanes (fun _ _ _ => rfl) (fun _ _ _ => rfl) k.x).trans (congrArg UnitSt.lanes State.vxWrote_unit_self),
    (State.vxNext_part UnitSt.flags (fun _ _ _ => rfl) (fun _ _ _ => rfl) k.x).trans (congrArg UnitSt.flags State.vxWrote_unit_self)⟩

theorem State.vxWrote_vmaskAt (i : Nat) : ((s.vxWrote k regs masks fs).vxNext k).vmaskAt i = tabGet vmaskReset masks i :=
  State.vxNext_keeps ((frees_vmask fun m => tabGet vmaskReset m i = tabGet vmaskReset masks i).sub rfl) _ _ rfl

/-- A part of the engine beside its flags, counters, popped tokens and wait state is left. -/
theorem State.vxWrote_part {α : Type} (g : UnitSt → α) (htally : ∀ u c i, g ({ u with cnt := c, inTok := i } : UnitSt) = g u)
    (hwait : ∀ u w n, g ({ u with wait := w, waitAt := n } : UnitSt) = g u) (hlanes : ∀ u : UnitSt, g (u.orLanes fs) = g u) :
    g (((s.vxWrote k regs masks fs).vxNext k).unit k.x) = g (s.unit k.x) := by
  rw [State.vxNext_part g htally hwait, State.vxWrote_unit_self, hlanes]

theorem State.vxWrote_stepped (hvx : k.vx = s.vxAt k.x) : VxStepped s ((s.vxWrote k regs masks fs).vxNext k) k 0 := by
  have hwait : ((s.vxWrote k regs masks fs).unit k.x).wait = (s.unit k.x).wait := by
    rw [State.vxWrote_unit_self]
    rfl
  refine ⟨?_, fun y hy => ⟨(State.vxNext_vxAt y).trans (if_neg hy), fun h15 => (State.vxNext_unit hy h15).trans (State.vxWrote_unit hy)⟩,
    State.vxWrote_part UnitSt.job (fun _ _ _ => rfl) (fun _ _ _ => rfl) fun _ => rfl,
    State.vxWrote_part UnitSt.prog (fun _ _ _ => rfl) (fun _ _ _ => rfl) fun _ => rfl,
    fun h5 => (State.vxNext_wait (by rwa [hwait])).trans hwait,
    State.vxNext_keeps ((frees_mem (· = s.mem)).sub rfl) _ _ rfl, State.vxNext_keeps ((frees_syncs (· = s.syncs)).sub rfl) _ _ rfl,
    State.vxNext_keeps ((frees_jobs (· = s.jobs)).sub rfl) _ _ rfl, State.vxNext_keeps ((frees_mxe (· = s.mxe)).sub rfl) _ _ rfl,
    State.vxNext_keeps ((frees_time (· = s.time)).sub rfl) _ _ rfl⟩
  rw [hvx]
  exact (State.vxNext_vxAt k.x).trans (if_pos rfl)

/-- A result in a register, unless it is read-only (R220). -/
theorem State.vput_eq_vxWrote (r : BitVec 6) (v : VReg × List U16) :
    s.vput k r v = s.vxWrote k (if r = 54 ∨ r = 55 then s.vregs else tabSet .reset s.vregs (64 * k.x + r.toNat) v.1) s.vmask v.2 := by
  unfold State.vput State.vxWrote
  split <;> rfl

theorem State.vput_vxPut (hvx : k.vx = s.vxAt k.x) (r : BitVec 6) (v : VReg × List U16) : VxPut s ((s.vput k r v).vxNext k) k r 0 v := by
  have hregs : ((s.vput k r v).vxNext k).vregs = if r = 54 ∨ r = 55 then s.vregs else tabSet .reset s.vregs (64 * k.x + r.toNat) v.1 :=
    (State.vxNext_keeps ((frees_vregs (· = (s.vput k r v).vregs)).sub rfl) _ k rfl).trans (congrArg State.vregs (State.vput_eq_vxWrote r v))
  refine ⟨?_, ?_, fun y q hq hne => ?_, ?_⟩
  · rw [State.vreg, hregs]
    split
    · rfl
    · rw [tabGet_tabSet, if_pos rfl]
  · rw [State.vput_eq_vxWrote]
    exact State.vxWrote_lanesFlagged
  · rw [State.vreg, hregs]
    split
    · rfl
    · rw [tabGet_tabSet, if_neg (by omega)]
      rfl
  · rw [State.vput_eq_vxWrote]
    exact ⟨State.vxNext_keeps ((frees_vmask (· = s.vmask)).sub rfl) _ _ rfl, State.vxNext_keeps ((frees_dec (· = s.dec)).sub rfl) _ _ rfl,
      State.vxNext_keeps ((frees_queues (· = s.queues)).sub rfl) _ _ rfl, State.vxWrote_stepped hvx⟩

end

/-! ### Lanes (R221, R231) -/

section
variable {a b : VReg} {x y : Lane} {l : Nat} (ha : a[l]? = some x) (hb : b[l]? = some y)

include ha in
theorem lanes1_getElem? (f : Nat → Nat × U16) :
    (lanes1 f a).1[l]? = some { bits := BitVec.ofNat 32 (f x.bits.toNat).1, valid := x.valid } := by
  simp [lanes1, laneReg, ha]

include ha hb in
theorem lanes2_getElem? (f : Nat → Nat → Nat × U16) :
    (lanes2 f a b).1[l]? = some { bits := BitVec.ofNat 32 (f x.bits.toNat y.bits.toNat).1, valid := x.valid && y.valid } := by
  have hzip : (a.zip b)[l]? = some (x, y) := List.getElem?_zip_eq_some.mpr ⟨ha, hb⟩
  simp [lanes2, laneReg, hzip]

end

/-- Lanes of which none has a flag raise none. -/
theorem laneFlags_eq_zero {rs : List ((Nat × U16) × Bool)} (h : ∀ r ∈ rs, r.1.2 = 0) : ∀ f ∈ laneFlags rs, f = 0 := by
  intro f hf
  obtain ⟨r, hr, rfl⟩ := List.mem_map.mp hf
  rw [h r hr, ite_self]

theorem lanes1_flags_eq_zero {f : Nat → Nat × U16} (hf : ∀ a, (f a).2 = 0) (a : VReg) : ∀ e ∈ (lanes1 f a).2, e = 0 :=
  laneFlags_eq_zero fun _ hr => by
    obtain ⟨p, -, rfl⟩ := List.mem_map.mp hr
    exact hf _

theorem lanes2_flags_eq_zero {f : Nat → Nat → Nat × U16} (hf : ∀ a b, (f a b).2 = 0) (a b : VReg) : ∀ e ∈ (lanes2 f a b).2, e = 0 :=
  laneFlags_eq_zero fun _ hr => by
    obtain ⟨p, -, rfl⟩ := List.mem_map.mp hr
    exact hf _ _

/-- SEL's register: each lane whole from the source the mask selects. -/
def selLanes (m : BitVec 256) (a b : VReg) : VReg := (a.zip b).zipIdx.map fun p => if bit m p.2 then p.1.1 else p.1.2

theorem selLanes_getElem? {a b : VReg} {x y : Lane} {l : Nat} (ha : a[l]? = some x) (hb : b[l]? = some y) (m : BitVec 256) :
    (selLanes m a b)[l]? = some (if m.getLsbD l then x else y) := by
  have hzip : (a.zip b)[l]? = some (x, y) := List.getElem?_zip_eq_some.mpr ⟨ha, hb⟩
  unfold selLanes bit
  simp [hzip]

/-- A bit operation's lanes. -/
def bitLanes (f : U32 → U32 → U32) : VReg → VReg → VReg × List U16 :=
  lanes2 fun a b => ((f (BitVec.ofNat 32 a) (BitVec.ofNat 32 b)).toNat, 0)

theorem bitLanes_getElem? {a b : VReg} {x y : Lane} {l : Nat} (ha : a[l]? = some x) (hb : b[l]? = some y) (f : U32 → U32 → U32) :
    (bitLanes f a b).1[l]? = some { bits := f x.bits y.bits, valid := x.valid && y.valid } := by
  rw [bitLanes, lanes2_getElem? ha hb]
  simp

/-- A shift's lanes: the count stands in the last field or in the second source. -/
def shiftLanes (m : BitVec 6) (f : U32 → Nat → U32) (a b : VReg) : VReg × List U16 :=
  let g (a n : Nat) : Nat × U16 := ((f (BitVec.ofNat 32 a) (n % 32)).toNat, 0)
  if bit m 5 then lanes1 (fun a => g a (bits m 0 5)) a else lanes2 g a b

theorem shiftLanes_getElem? {a b : VReg} {x y : Lane} {l : Nat} (ha : a[l]? = some x) (hb : b[l]? = some y) (m : BitVec 6) (f : U32 → Nat → U32) :
    (shiftLanes m f a b).1[l]? = some (if m.getLsbD 5 then { bits := f x.bits (m.toNat % 32), valid := x.valid }
      else { bits := f x.bits (y.bits.toNat % 32), valid := x.valid && y.valid }) := by
  unfold shiftLanes bit
  split
  · rw [lanes1_getElem? ha]
    simp [bits]
  · rw [lanes2_getElem? ha hb]
    simp

theorem shiftLanes_flags_eq_zero (m : BitVec 6) (f : U32 → Nat → U32) (a b : VReg) : ∀ e ∈ (shiftLanes m f a b).2, e = 0 := by
  unfold shiftLanes
  dsimp only
  split
  · exact lanes1_flags_eq_zero (fun _ => rfl) a
  · exact lanes2_flags_eq_zero (fun _ _ => rfl) a b

/-! ### A mask register from its lanes' bits (R228) -/

theorem testBit_b2n (p : Bool) (n : Nat) : (b2n p).testBit n = [p][n]?.getD false := by
  cases n with
  | zero => cases p <;> rfl
  | succ n => cases p <;> simp [b2n, Nat.testBit_succ]

section
variable {α : Type} (g : α → Bool)

theorem zipIdx_sum_concat (l : List α) (a : α) :
    (l ++ [a]).zipIdx.foldl (fun n r => n + b2n (g r.1) * 2 ^ r.2) 0 =
      2 ^ l.length * b2n (g a) + l.zipIdx.foldl (fun n r => n + b2n (g r.1) * 2 ^ r.2) 0 := by
  simp [List.zipIdx_append, Nat.add_comm, Nat.mul_comm]

theorem zipIdx_sum_lt (l : List α) : l.zipIdx.foldl (fun n r => n + b2n (g r.1) * 2 ^ r.2) 0 < 2 ^ l.length := by
  induction l using List.reverseRecOn with
  | nil => exact Nat.one_pos
  | append_singleton l a ih =>
    have hbit : 2 ^ l.length * b2n (g a) ≤ 2 ^ l.length * 1 := Nat.mul_le_mul_left _ (by cases g a <;> decide)
    rw [zipIdx_sum_concat, List.length_append, List.length_singleton, pow_succ]
    omega

/-- A sum of one power of two for each element that has a property holds, as its bits, which elements have it. -/
theorem testBit_zipIdx_sum (l : List α) (i : Nat) :
    (l.zipIdx.foldl (fun n r => n + b2n (g r.1) * 2 ^ r.2) 0).testBit i = (l[i]?.map g).getD false := by
  induction l using List.reverseRecOn with
  | nil => exact Nat.zero_testBit i
  | append_singleton l a ih =>
    rw [zipIdx_sum_concat, Nat.testBit_two_pow_mul_add _ (zipIdx_sum_lt g l), ih]
    split
    · next hi => rw [List.getElem?_append_left hi]
    · next hi =>
      rw [List.getElem?_append_right (Nat.le_of_not_lt hi), ← List.getElem?_map, List.map_singleton, testBit_b2n]

end

/-- CMP on a pair of lanes: the mask bit, the flags, and whether both are VALID. -/
def cmpPair (w : VOps) (p : Lane × Lane) : (Nat × U16) × Bool :=
  let r := cmpLane (bits w.m 3 2) (bits w.m 0 3) p.1.bits.toNat p.2.bits.toNat
  let ok := p.1.valid && p.2.valid
  ((b2n (ok && r.1), r.2), ok)

/-- The mask register CMP writes. -/
def cmpMask (w : VOps) (a b : VReg) : BitVec 256 :=
  BitVec.ofNat 256 (((a.zip b).map (cmpPair w)).zipIdx.foldl (fun n r => n + r.1.1.1 * 2 ^ r.2) 0)

section
variable {w : VOps} {a b : VReg} {x y : Lane} {l : Nat}

theorem cmpMask_getLsbD (hl : l < 256) (ha : a[l]? = some x) (hb : b[l]? = some y) :
    (cmpMask w a b).getLsbD l =
      (x.valid && y.valid && (cmpLane (bits w.m 3 2) (bits w.m 0 3) x.bits.toNat y.bits.toNat).1) := by
  have hzip : (a.zip b)[l]? = some (x, y) := List.getElem?_zip_eq_some.mpr ⟨ha, hb⟩
  have hsum := testBit_zipIdx_sum (fun p : Lane × Lane =>
    p.1.valid && p.2.valid && (cmpLane (bits w.m 3 2) (bits w.m 0 3) p.1.bits.toNat p.2.bits.toNat).1) (a.zip b) l
  rw [hzip] at hsum
  rw [cmpMask, BitVec.getLsbD_ofNat, decide_eq_true hl, Bool.true_and, List.zipIdx_map, List.foldl_map]
  exact hsum

theorem cmpPair_flags_getElem? (ha : a[l]? = some x) (hb : b[l]? = some y) :
    (laneFlags ((a.zip b).map (cmpPair w)))[l]? =
      some (if x.valid && y.valid then (cmpLane (bits w.m 3 2) (bits w.m 0 3) x.bits.toNat y.bits.toNat).2 else 0) := by
  have hzip : (a.zip b)[l]? = some (x, y) := List.getElem?_zip_eq_some.mpr ⟨ha, hb⟩
  simp [laneFlags, cmpPair, hzip]

end

end Sys2Proof.Machine

namespace Sys2Proof
open Machine

/-! ### Issue (R224) -/

section
variable {s : State} {v : VxId} {op : Nat} {w : VOps} {k : VCtx} {i : Instr} (h : VxReady s v op w k)
include h

theorem VxReady.vx_eq : k.vx = s.vxAt k.x := by
  obtain ⟨-, hx, hvx, -⟩ := h
  rw [hx, hvx]

/-- The recipe's next instruction, of an engine that works with a tile in progress, is issued. -/
theorem VxReady.ran_vxIssue {f : State → VCtx → Issue} {t : State} (hf : f s k = .done t) :
    (s.ran fun s => s.vxIssue v op w (f s)) = .next (t.vxNext k) := by
  obtain ⟨x, j, c, body, bind, vx⟩ := k
  obtain ⟨hcmd, hx, hvx, ⟨dec, hbody⟩, hprog, hrow, hpos, hword⟩ := h
  dsimp only at hx hvx hbody hcmd
  subst hx hvx
  have hgo : (decide ((s.unit v.addr).prog = 0) || decide (VCtx.rows ⟨v.addr, j, c, body, bind, s.vxAt v.addr⟩ ≤ (s.vxAt v.addr).base) ||
      decide (VCtx.len ⟨v.addr, j, c, body, bind, s.vxAt v.addr⟩ ≤ (s.vxAt v.addr).pos)) = false := by
    simp [hprog, hrow, hpos]
  refine (State.ran_unitWorks hcmd _).trans (congrArg Host.Outcome.next ?_)
  simp [hbody, hgo, hword, hf]

/-- An instruction whose meaning is a value for its destination. -/
theorem VxReady.exec_put {r : State → VCtx → VReg × List U16}
    (hexec : exec i s = s.ran fun s => s.vxIssue v op w fun k => .done (s.vput k w.dst (r s k))) :
    ∃ t, exec i s = .next t ∧ VxPut s t k w.dst 0 (r s k) :=
  ⟨_, hexec.trans (h.ran_vxIssue (f := fun s k => .done (s.vput k w.dst (r s k))) rfl), State.vput_vxPut h.vx_eq _ _⟩

/-- A two-source instruction with modifiers on FP32 lanes. -/
theorem VxReady.exec_vx2 (g : FloatFmt → RMode → Nat → Nat → Nat × U16) (hop : op < 128)
    (hexec : exec i s = s.ran fun s => s.vx2 v op w g) :
    ∃ t, exec i s = .next t ∧ VxPut s t k w.dst 0 (lanes2 (withMods 31 w.m (g fp32 k.mode)) (s.vget k w.a) (s.vget k w.b)) := by
  refine h.exec_put (r := fun s k => lanes2 (withMods 31 w.m (g fp32 k.mode)) (s.vget k w.a) (s.vget k w.b)) ?_
  simp only [hexec, State.vx2, if_pos hop]

/-- A two-source instruction with modifiers on pairs of BF16. -/
theorem VxReady.exec_vx2_packed (g : FloatFmt → RMode → Nat → Nat → Nat × U16) (hop : 128 ≤ op)
    (hexec : exec i s = s.ran fun s => s.vx2 v op w g) :
    ∃ t, exec i s = .next t ∧ VxPut s t k w.dst 0 (lanes2 (packed2 (withMods 15 w.m (g bf16 k.mode))) (s.vget k w.a) (s.vget k w.b)) := by
  refine h.exec_put (r := fun s k => lanes2 (packed2 (withMods 15 w.m (g bf16 k.mode))) (s.vget k w.a) (s.vget k w.b)) ?_
  simp only [hexec, State.vx2, if_neg (Nat.not_lt.mpr hop)]

/-- A multiply-add, of one format or packed. -/
theorem VxReady.exec_fma (g : RMode → Nat → Nat → Nat → Nat × U16) (hexec : exec i s =
      s.ran fun s => s.vxIssue v op w fun k => .done (s.vput k w.dst (lanes3 (g k.mode) (s.vget k w.a) (s.vget k w.b) (s.vget k w.m)))) :
    ∃ t, exec i s = .next t ∧ VxPut s t k w.dst 0 (lanes3 (g k.mode) (s.vget k w.a) (s.vget k w.b) (s.vget k w.m)) :=
  h.exec_put (r := fun s k => lanes3 (g k.mode) (s.vget k w.a) (s.vget k w.b) (s.vget k w.m)) hexec

/-- CMP: a mask register and the lanes' flags. -/
theorem VxReady.exec_cmp (hexec : exec i s = execCmp v w s) (hop : op = 0x20) (htype : bits w.m 3 2 ≠ 3) :
    exec i s = .next ((s.vxWrote k s.vregs (tabSet vmaskReset s.vmask (8 * k.x + bits w.dst 0 3) (cmpMask w (s.vget k w.a) (s.vget k w.b)))
      (laneFlags (((s.vget k w.a).zip (s.vget k w.b)).map (cmpPair w)))).vxNext k) := by
  subst hop
  exact hexec.trans (h.ran_vxIssue (if_neg htype))

/-- SEL: lanes by a mask register. -/
theorem VxReady.exec_sel (hexec : exec i s = execSel v w s) (hop : op = 0x21) : ∃ t r, exec i s = .next t ∧ VxPut s t k w.dst 0 (r, []) ∧
    ∀ (l : Nat) (a b : Lane), (s.vget k w.a)[l]? = some a → (s.vget k w.b)[l]? = some b →
      r[l]? = some (if (s.vmaskAt (8 * k.x + bits w.m 0 3)).getLsbD l then a else b) := by
  subst hop
  have hmask : s.mask k (bits w.m 0 3) = s.vmaskAt (8 * k.x + bits w.m 0 3) := by
    have hlt : bits w.m 0 3 < 8 := Nat.mod_lt _ (by decide)
    rw [State.mask, Nat.mod_eq_of_lt hlt]
  obtain ⟨t, ht, hput⟩ := h.exec_put (r := fun s k => (selLanes (s.mask k (bits w.m 0 3)) (s.vget k w.a) (s.vget k w.b), [])) hexec
  refine ⟨t, _, ht, hput, fun l a b ha hb => ?_⟩
  rw [selLanes_getElem? ha hb, hmask]

/-- A bit operation of two registers. -/
theorem VxReady.exec_vxBits (f : U32 → U32 → U32) (hexec : exec i s = s.ran fun s => s.vxBits v op w f) :
    ∃ t r fs, exec i s = .next t ∧ VxPut s t k w.dst 0 (r, fs) ∧ (∀ f ∈ fs, f = 0) ∧
      ∀ (l : Nat) (a b : Lane), (s.vget k w.a)[l]? = some a → (s.vget k w.b)[l]? = some b →
        r[l]? = some { bits := f a.bits b.bits, valid := a.valid && b.valid } := by
  obtain ⟨t, ht, hput⟩ := h.exec_put (r := fun s k => bitLanes f (s.vget k w.a) (s.vget k w.b)) hexec
  exact ⟨t, (bitLanes f (s.vget k w.a) (s.vget k w.b)).1, (bitLanes f (s.vget k w.a) (s.vget k w.b)).2, ht, hput,
    lanes2_flags_eq_zero (fun _ _ => rfl) _ _, fun l a b ha hb => bitLanes_getElem? ha hb f⟩

/-- A shift of a register. -/
theorem VxReady.exec_vxShift (f : U32 → Nat → U32) (hexec : exec i s = s.ran fun s => s.vxShift v op w f) :
    ∃ t r fs, exec i s = .next t ∧ VxPut s t k w.dst 0 (r, fs) ∧ (∀ f ∈ fs, f = 0) ∧
      ∀ (l : Nat) (a b : Lane), (s.vget k w.a)[l]? = some a → (s.vget k w.b)[l]? = some b →
        r[l]? = some (if w.m.getLsbD 5 then { bits := f a.bits (w.m.toNat % 32), valid := a.valid }
          else { bits := f a.bits (b.bits.toNat % 32), valid := a.valid && b.valid }) := by
  obtain ⟨t, ht, hput⟩ := h.exec_put (r := fun s k => shiftLanes w.m f (s.vget k w.a) (s.vget k w.b)) hexec
  exact ⟨t, (shiftLanes w.m f (s.vget k w.a) (s.vget k w.b)).1, (shiftLanes w.m f (s.vget k w.a) (s.vget k w.b)).2, ht, hput,
    shiftLanes_flags_eq_zero _ _ _ _, fun l a b ha hb => shiftLanes_getElem? ha hb w.m f⟩

end

/-- Settles O22: each instruction is issued, and its value is that of its operation on the lanes. -/
theorem vectorArithmetic : Obligations.vector_arithmetic := by
  refine ⟨fun v w k s => ⟨?_, ?_⟩, fun v w k s => ⟨fun h => h.exec_fma (fpFma fp32) rfl, fun h => h.exec_fma (fun m => packed3 (fpFma bf16 m)) rfl⟩⟩
  · simp only [List.forall_mem_cons, List.not_mem_nil, false_imp_iff, implies_true, and_true]
    exact ⟨fun h => h.exec_vx2 (fun f m => fpOp f m Val.add) (by decide) rfl, fun h => h.exec_vx2 (fun f m => fpOp f m Val.sub) (by decide) rfl,
      fun h => h.exec_vx2 (fun f m => fpOp f m Val.mul) (by decide) rfl, fun h => h.exec_vx2 (fun f _ => fpPick f true) (by decide) rfl,
      fun h => h.exec_vx2 (fun f _ => fpPick f false) (by decide) rfl⟩
  · simp only [List.forall_mem_cons, List.not_mem_nil, false_imp_iff, implies_true, and_true]
    exact ⟨fun h => h.exec_vx2_packed (fun f m => fpOp f m Val.add) (by decide) rfl,
      fun h => h.exec_vx2_packed (fun f m => fpOp f m Val.sub) (by decide) rfl,
      fun h => h.exec_vx2_packed (fun f m => fpOp f m Val.mul) (by decide) rfl,
      fun h => h.exec_vx2_packed (fun f _ => fpPick f true) (by decide) rfl,
      fun h => h.exec_vx2_packed (fun f _ => fpPick f false) (by decide) rfl⟩

/-- Settles O24: CMP writes its mask and no register, the others write their destination alone. -/
theorem vectorLogic : Obligations.vector_logic := by
  refine ⟨fun v w k s => ⟨fun h htype hla hlb => ?_, fun h => h.exec_sel rfl rfl⟩, fun v w k s => ⟨?_, ?_⟩⟩
  · refine ⟨_, _, h.exec_cmp rfl rfl htype, fun l hl a b ha hb => ⟨?_, cmpPair_flags_getElem? ha hb⟩, ?_, State.vxWrote_lanesFlagged, fun i hi => ?_,
      State.vxNext_keeps ((frees_vregs (· = s.vregs)).sub rfl) _ _ rfl, State.vxNext_keeps ((frees_dec (· = s.dec)).sub rfl) _ _ rfl,
      State.vxWrote_stepped h.vx_eq⟩
    · rw [State.vxWrote_vmaskAt, tabGet_tabSet, if_pos rfl, cmpMask_getLsbD hl ha hb]
    · simp [laneFlags, hla, hlb]
    · rw [State.vxWrote_vmaskAt, tabGet_tabSet, if_neg hi]
      rfl
  · simp only [List.forall_mem_cons, List.not_mem_nil, false_imp_iff, implies_true, and_true]
    exact ⟨fun h => h.exec_vxBits _ rfl, fun h => h.exec_vxBits _ rfl, fun h => h.exec_vxBits _ rfl⟩
  · simp only [List.forall_mem_cons, List.not_mem_nil, false_imp_iff, implies_true, and_true]
    exact ⟨fun h => h.exec_vxShift _ rfl, fun h => h.exec_vxShift _ rfl⟩

end Sys2Proof
end

section
/-! PROOF. The reduction engine (R238 to R243, R158): an iteration reads its box, takes its elements in and writes the results due; O26. -/

namespace Sys2Proof.Machine

/-! ### Units that lose their job: their open results are dropped, and those of no other unit -/

section
variable {P : State → Prop} (hw : Frees P 0xd806dfff4) (hrxe : ∀ t d, P t → P (t.setRxe d []))
include hw hrxe

/-- What outlives the dropping of open results, and what no other part of a unit's own can break, outlives the clearing of units. -/
theorem State.clearUnits_closes (s : State) (xs : List Nat) (hs : P s) : P (s.clearUnits xs) := by
  induction xs generalizing s with
  | nil => exact hs
  | cons y ys ih =>
    have hcleared := State.setDec_keeps (hw.sub rfl) _ y .reset <| State.setVx_keeps (hw.sub rfl) _ y .reset <|
      State.setEng_keeps (hw.sub rfl) _ y .reset <| State.setTile_keeps (hw.sub rfl) _ y none <|
      State.setWatch_keeps (hw.sub rfl) _ y none <| State.updUnit_keeps (hw.sub rfl) s y UnitSt.idle hs
    have hregs (t : State) (v m) (ht : P t) : P { t with vregs := v, vmask := m } := hw.free 15 rfl _ m (hw.free 14 rfl t v ht)
    refine ih _ (hregs _ _ _ (State.freeDirs_keeps (hw.sub rfl) _ y ?_))
    split
    · exact State.setGse_keeps (hw.sub rfl) _ _ _ hcleared
    split
    · exact hrxe _ _ hcleared
    · exact hcleared

/-- The release of a job clears its units (R423). -/
theorem State.release_closes (s : State) (j : Job) (hs : P s) : P (s.release j) := by
  have hoff := State.disarm_keeps (hw.sub rfl) _ j.bin.syncs <|
    State.clearQueues_keeps (hw.sub rfl) _ (binQueues j.bin ++ ftqKeys (s.unitsOf j.jid)) <|
      State.clearUnits_closes hw hrxe _ (s.unitsOf j.jid) (State.dropRecfgs_keeps (hw.sub rfl) s j.jid hs)
  have hfree := State.freeOwners_keeps (hw.sub rfl) _ j (State.stopTrace_keeps (hw.sub rfl) _ j.jid hoff)
  unfold State.release
  refine State.updCtx_keeps (hw.sub rfl) _ _ _ ?_
  with_reducible exact hw.marks rfl (hw.jobs rfl (hw.saves rfl (hw.faults rfl hfree)))

theorem State.jobFault_closes (s : State) (k : U64) (cause access unit : Nat) (isDie : Bool) (dva bytes : Nat) (hs : P s) :
    P (s.jobFault k cause access unit isDie dva bytes) :=
  State.withJob_keeps (hw.sub rfl) _ _ _ hs fun j =>
    have hposted := State.postFault_keeps (hw.sub rfl) s j.ctx.val _ hs
    State.withJob_keeps (hw.sub rfl) _ _ _ hposted fun i =>
      State.release_closes hw hrxe _ i (State.postCpl_keeps (hw.sub rfl) _ _ _ hposted)

/-- A SIGNAL is sent, meets a die that does not answer, or ends its job at an object that is not armed (R64, R68, R482). -/
theorem State.doSignal_closes (s : State) (x : Nat) (sid : U16) (a : U64) (hs : P s) : P (s.doSignal x sid a) := by
  refine State.withUnitJob_keeps (hw.sub rfl) _ _ _ hs fun j => ?_
  dsimp only
  split
  · exact hs
  split
  · exact State.unavailable_keeps (hw.sub rfl) _ _ hs
  split
  · exact State.jobFault_closes hw hrxe _ _ _ _ _ _ _ _ hs
  · exact State.exchange_keeps (hw.sub rfl) _ _ _ (State.syncDone_keeps (hw.sub rfl) _ _ _ _ _ (State.putValue_keeps (hw.sub rfl) _ _ _ hs))

end

/-! ### The open results of an engine whose work is done -/

section
variable {s : State} {d : Nat}

theorem State.rxeAt_congr {t : State} (h : t.rxe = s.rxe) : t.rxeAt d = s.rxeAt d := by
  rw [State.rxeAt, State.rxeAt, h]

/-- The end of an iteration's work leaves the open results, where none are open when it SIGNALs the end of its claim (R263). -/
theorem State.workDone_rxeAt {x : Nat} (h : (s.unit x).sigOwed = true → s.rxeAt d = []) : (s.workDone x).rxeAt d = s.rxeAt d := by
  have hdone : ((s.pushOwed x (s.unit x).owed).updUnit x fun u => { u.endTile with prog := 0, sigOwed := false }).rxeAt d = s.rxeAt d :=
    State.pushOwed_keeps (P := fun t => t.rxeAt d = s.rxeAt d) ((frees_rxe fun r => tabGet [] r d = s.rxeAt d).sub rfl) _ _ _ rfl
  have hcleared (t : State) (q : Prop) [Decidable q] : (if q then t.setVx x .reset else t).rxeAt d = t.rxeAt d := by split <;> rfl
  unfold State.workDone
  dsimp only
  split
  · split
    · next hsig =>
      rw [h hsig]
      exact State.doSignal_closes (P := fun t => t.rxeAt d = []) ((frees_rxe fun r => tabGet [] r d = []).sub rfl)
        (fun t e ht => by rw [State.rxeAt_setRxe, ht, ite_self]) _ _ _ _ (((hcleared _ _).trans hdone).trans (h hsig))
    · exact (hcleared _ _).trans hdone
  · exact (hcleared _ _).trans hdone

end

/-! ### Results written (R239, R240) -/

theorem State.countOoa_sigOwed (s : State) (a y k : Nat) : ((s.countOoa a k).unit y).sigOwed = (s.unit y).sigOwed := by
  unfold State.countOoa
  split
  · rfl
  · refine State.updUnit_part UnitSt.sigOwed s a y ?_
    split <;> rfl

theorem State.orUnitFlags_sigOwed (s : State) (a y : Nat) (f : U16) : ((s.orUnitFlags a f).unit y).sigOwed = (s.unit y).sigOwed :=
  State.updUnit_part UnitSt.sigOwed s a y rfl

/-- Counting, and ORing flags, changes no signal owed. -/
theorem State.tallied_sigOwed (s : State) (a y n : Nat) (f : U16) {g : UnitSt → UnitSt} (hg : ∀ u, (g u).sigOwed = u.sigOwed) :
    ((((s.updUnit a g).orUnitFlags a f).countOoa a n).unit y).sigOwed = (s.unit y).sigOwed := by
  rw [State.countOoa_sigOwed, State.orUnitFlags_sigOwed, State.updUnit_part UnitSt.sigOwed s a y (hg _)]

/-- Writing results changes of a unit its flags and counters alone. -/
theorem State.writeResults_sigOwed {s s1 : State} {x : Nat} {j : Job} {c : Cmd} {b : BitVec 128} {rs : List RxeAcc}
    (h : s.writeResults x j c b rs = .ok s1) (y : Nat) : (s1.unit y).sigOwed = (s.unit y).sigOwed := by
  have hw := frees_unit y fun u => u.sigOwed = (s.unit y).sigOwed
  refine AccAll.getId (P := fun t => (t.unit y).sigOwed = (s.unit y).sigOwed) ?_ h
  unfold State.writeResults
  refine AccAll.bind fun vs _ => AccAll.bind fun is _ => AccAll.bind fun t1 ht1 => AccAll.map fun t2 ht2 => ?_
  have h1 := AccAll.getId (State.storeOpt_keeps (hw.sub rfl) s _ _ _ rfl) ht1
  have h2 := AccAll.getId (State.storeOpt_keeps (hw.sub rfl) t1 _ _ _ h1) ht2
  dsimp only [id]
  rw [State.tallied_sigOwed]
  · split
    · exact Keep.foldl (P := fun t => (t.unit y).sigOwed = (s.unit y).sigOwed) (fun t r ht => State.recordTile_keeps (hw.sub rfl) _ _ _ _ _ _ _ ht) h2
    · exact h2
  · exact fun _ => rfl

/-! ### An iteration -/

/-- The reference an iteration's tile comes with. -/
def UnitSt.rxeTok (u : UnitSt) (b : BitVec 128) : Option Token := if rxeSrcPort b then u.refTok 0 else none

/-- The tensor an iteration reads. -/
def UnitSt.rxeView (u : UnitSt) (b : BitVec 128) (v0 : View) : View := match u.rxeTok b with | some t => v0.byRef t [] | none => v0

/-- The positions an iteration reads (R158). -/
def State.rxeFoot (s : State) (x : Nat) (j : Job) (b : BitVec 128) (bind : RxeBind) (v0 : View) : Acc (List RxePos) :=
  let u := s.unit x
  let org := originOf u bind.org
  s.rxeRead (whoOf x j) (u.rxeView b v0) (rxeAdmits b (u.rxeTok b) org) (boxIdx org ((List.range 6).map fun d => bind.size.getD d 1))

/-- The open results with the elements of an iteration taken in. -/
def State.rxeTaken (s : State) (x : Nat) (b : BitVec 128) (v0 : View) (es : List RxePos) : List RxeAcc :=
  let v := (s.unit x).rxeView b v0
  (es.filter fun e => v.inside e.idx).foldl (fun l e => accPut l (redKey b e.idx) fun a =>
    a.take b (redPos b v0.ext e.idx) (if e.take then some (v.value e.rd) else none)) (s.rxeAt (x / 16))

/-- The results that stay open after an iteration. -/
def State.rxeKept (s : State) (x : Nat) (b : BitVec 128) (v0 : View) (es : List RxePos) : List RxeAcc :=
  if (s.unit x).done || (s.unit x).sigOwed then [] else s.rxeTaken x b v0 es

theorem State.on_ok {α : Type} {a : Acc α} {v : α} (h : a = .ok v) (s : State) (w : Who) (f : α → State) : s.on w a f = (f v).accessed w.die := by
  rw [h, State.on]

section
variable {s : State} {x : Nat} {j : Job} {c : Cmd} {b : BitVec 128} {bind : RxeBind} {v0 : View} (hview : viewOf j.bin c (s.unit x) (rxeIn b) = some v0)
include hview

/-- A read that faults leaves the results as they were. -/
theorem State.rxeStep_bad {cz a d p : Nat} (hfoot : s.rxeFoot x j b bind v0 = .bad cz a d p) :
    s.rxeStep x j c b bind = s.streamFault (whoOf x j) cz a d p 0 := by
  unfold State.rxeStep
  dsimp only
  rw [hview]
  dsimp only
  exact congrArg (fun r => s.on (whoOf x j) r _) hfoot

theorem State.rxeStep_ok {es : List RxePos} {s1 : State} (hfoot : s.rxeFoot x j b bind v0 = .ok es)
    (hwrite : s.writeResults x j c b (dueResults b v0 (s.unit x) (s.rxeAt (x / 16)) (s.rxeTaken x b v0 es)) = .ok s1) :
    ∃ n nans masked f ooa, s.rxeStep x j c b bind =
      ((((((s1.setRxe (x / 16) (s.rxeKept x b v0 es)).updUnit x fun u => ((u.count 0 n).count 3 nans).count 7 masked).orUnitFlags x f).countOoa x
        ooa).workDone x).accessed (whoOf x j).die).accessed (whoOf x j).die := by
  unfold State.rxeStep
  dsimp only
  rw [hview]
  exact ⟨_, _, _, _, _, (State.on_ok hfoot s (whoOf x j) _).trans (congrArg (State.accessed · (whoOf x j).die) (State.on_ok hwrite s (whoOf x j) _))⟩

/-- An iteration's work is done: what its writes stored stands, the results not due stay open, and nothing is in flight. -/
theorem State.rxeStep_done {es : List RxePos} {s1 : State} (hfoot : s.rxeFoot x j b bind v0 = .ok es)
    (hwrite : s.writeResults x j c b (dueResults b v0 (s.unit x) (s.rxeAt (x / 16)) (s.rxeTaken x b v0 es)) = .ok s1) :
    (s.rxeStep x j c b bind).mem = s1.mem ∧ (s.rxeStep x j c b bind).rxeAt (x / 16) = s.rxeKept x b v0 es ∧ (s.rxeStep x j c b bind).Rests x := by
  obtain ⟨n, nans, masked, f, ooa, heq⟩ := State.rxeStep_ok hview hfoot hwrite
  generalize ht : (((s1.setRxe (x / 16) (s.rxeKept x b v0 es)).updUnit x fun u => ((u.count 0 n).count 3 nans).count 7 masked).orUnitFlags x f).countOoa x
    ooa = t at heq
  have hmem : t.mem = s1.mem := ht ▸ State.countOoa_keeps ((frees_mem (· = s1.mem)).sub rfl) _ _ _ rfl
  have hset : t.rxe = (s1.setRxe (x / 16) (s.rxeKept x b v0 es)).rxe :=
    ht ▸ State.countOoa_keeps ((frees_rxe (· = (s1.setRxe (x / 16) (s.rxeKept x b v0 es)).rxe)).sub rfl) _ _ _ rfl
  have hrxe : t.rxeAt (x / 16) = s.rxeKept x b v0 es := (State.rxeAt_congr hset).trans (State.rxeAt_setRxe_self _ _ _)
  have hsig : (t.unit x).sigOwed = (s.unit x).sigOwed := by
    rw [← ht, State.tallied_sigOwed, State.unit_congr (State.setRxe_units _ _ _), State.writeResults_sigOwed hwrite]
    exact fun _ => rfl
  have hnone (h : (t.unit x).sigOwed = true) : t.rxeAt (x / 16) = [] := by
    rw [hrxe, State.rxeKept, ← hsig, h, Bool.or_true, if_pos rfl]
  rw [heq, State.accessed_mem, State.accessed_mem, State.rxeAt_congr (State.accessed_rxe _ _), State.rxeAt_congr (State.accessed_rxe _ _),
    State.workDone_rxeAt hnone]
  exact ⟨(State.workDone_keeps ((frees_mem (· = t.mem)).sub rfl) t x rfl).trans hmem, hrxe,
    State.accessed_keeps (State.Rests.frees.sub rfl) _ _ (State.accessed_keeps (State.Rests.frees.sub rfl) _ _ (State.workDone_rests t x))⟩

end

/-! ### The commands -/

section
variable {s : State} {die : Fin 24} {j : Job} {c : Cmd} {b : BitVec 128} {bind : RxeBind} (h : Commanded s (die.val * 16 + 8) j c)
  (hbody : c.body = .rxe b bind)
include h hbody

/-- A reduction runs where an iteration of its operation has fired. -/
theorem exec_reduction {i : Instr} {op : Nat} (hexec : exec i s = s.ran fun s => s.rxeRun die op) : exec i s =
    .next (if rxeOp b = op && (s.unit (die.val * 16 + 8)).prog != 0 then s.rxeStep (die.val * 16 + 8) j c b bind else s) := by
  refine (hexec.trans (State.ran_unitWorks h _)).trans (congrArg Host.Outcome.next ?_)
  rw [hbody]

end

end Sys2Proof.Machine

namespace Sys2Proof
open Machine

/-- The nine reductions are one operation, told apart by the command's OP. -/
theorem exec_reductions (die : Fin 24) (s : State) :
    ∀ e ∈ ([(Instr.rxeSum, 0), (Instr.rxeSumsq, 1), (Instr.rxeNorm2, 2), (Instr.rxeMean, 3), (Instr.rxeMax, 4), (Instr.rxeMin, 5),
      (Instr.rxeArgmax, 6), (Instr.rxeArgmin, 7), (Instr.rxeTopk, 8)] : List ((Fin 24 → Instr) × Nat)),
      exec (e.1 die) s = s.ran fun s => s.rxeRun die e.2 := by
  simp only [List.forall_mem_cons, List.not_mem_nil, false_imp_iff, implies_true, and_true]
  exact ⟨rfl, rfl, rfl, rfl, rfl, rfl, rfl, rfl, rfl⟩

/-- Settles O26: an iteration that has fired reads, takes and writes as its command says, and any other command does nothing. -/
theorem reductions : Obligations.reductions := by
  intro die j c b bind v0 s
  dsimp only
  intro e he h hbody
  have hexec := exec_reduction h hbody (exec_reductions die s e he)
  have hdie : (die.val * 16 + 8) / 16 = die.val := by omega
  refine ⟨fun hidle => hexec.trans (congrArg Host.Outcome.next (if_neg ?_)), fun hop hprog hview => ?_⟩
  · rcases hidle with hop | hprog
    · simp [hop]
    · simp [hprog]
  have hrun := hexec.trans (congrArg Host.Outcome.next (if_pos (by simp [hop, hprog])))
  refine ⟨fun cz a d p hbad => hrun.trans (congrArg Host.Outcome.next (State.rxeStep_bad hview hbad)), fun es hread s1 hwrite => ?_⟩
  obtain ⟨hmem, hrxe, hrests⟩ := State.rxeStep_done hview hread (s1 := s1) (by
    rw [State.rxeTaken, hdie]
    exact hwrite)
  rw [State.rxeKept, State.rxeTaken, hdie] at hrxe
  exact ⟨_, hrun, hmem, hrxe, hrests⟩

end Sys2Proof
end

section
/-! PROOF. The requests of a claiming command, token crossings, credits and QCFG (R54, R57, R58, R263, R441); O17. -/

namespace Sys2Proof.Machine

/-! ### The request of a claim -/

/-- The FETCH_ADD of a claim sets out, and the unit knows it is under way (R263). -/
def State.requestClaim (s : State) (x : Nat) (c : Cmd) : State :=
  (s.doFetchAdd x c.claimSync (BitVec.ofNat 64 c.claimSize) 2 0).updUnit x fun u => { u with claim := { u.claim with inFlight := true } }

/-- A reply `n` below BOUND gives its claims: the unit stands at the first, with the bounds inside it to read (R263). -/
def State.takeClaims (s : State) (x : Nat) (c : Cmd) (n : Nat) : State :=
  s.updUnit x fun u => { u with
    ctr := setAt (List.replicate 6 0) c.claimLevel (BitVec.ofNat 32 n), reads := u.reads ++ claimReads c,
    claim := { u.claim with cur := n, hi := min (n + c.claimSize) (s.sync c.claimSync.toNat).bound.toNat, next := none, inFlight := false } }

section
variable {s : State} {x : Nat} {c : Cmd}

/-- What keeps a unit's job and does not stop it leaves its operations on sync objects to be taken. -/
theorem syncReady_updUnit {sid : U16} (h : SyncReady s x sid) {f : UnitSt → UnitSt} (hjob : (f (s.unit x)).job = (s.unit x).job)
    (hstop : (f (s.unit x)).stopped = (s.unit x).stopped) : SyncReady (s.updUnit x f) x sid := by
  obtain ⟨⟨j, hon, hj, hlive, hrun, hgo, hrest⟩, hhome⟩ := h
  refine ⟨⟨j, hon, ?_, hlive, hrun, ?_, hrest⟩, hhome⟩
  · rw [State.unit_updUnit, if_pos rfl, hjob, hj]
  · rw [State.unit_updUnit, if_pos rfl, hstop, hgo]

theorem syncReady_record {sid : U16} (h : SyncReady s x sid) (jid : U64) (kind : Nat) (words : List Nat) (data : List Byte) :
    SyncReady (s.record jid kind words data) x sid := by
  obtain ⟨o, ho⟩ := s.record_eq_setObs jid kind words data
  rw [ho]
  exact h

theorem syncReady_takeClaims (h : SyncReady s x c.claimSync) (n : Nat) : SyncReady (s.takeClaims x c n) x c.claimSync :=
  syncReady_updUnit h rfl rfl

theorem State.requestClaim_of_ready (h : SyncReady s x c.claimSync) : s.requestClaim x c =
    (s.answered x c.claimSync ((s.sync c.claimSync.toNat).fetchAdd (BitVec.ofNat 64 c.claimSize)).1
      ((s.sync c.claimSync.toNat).fetchAdd (BitVec.ofNat 64 c.claimSize)).2 0 2 0).updUnit x
        fun u => { u with claim := { u.claim with inFlight := true } } := by
  rw [State.requestClaim, State.doFetchAdd, State.syncOp_of_ready h]
  rfl

/-- The claim object goes on by the claim size (R64, R263). -/
theorem State.requestClaim_sync (h : SyncReady s x c.claimSync) : (s.requestClaim x c).sync c.claimSync.toNat =
    { s.sync c.claimSync.toNat with value := ((s.sync c.claimSync.toNat).fetchAdd (BitVec.ofNat 64 c.claimSize)).1 } := by
  rw [State.requestClaim_of_ready h]
  exact (State.answered_sync _ _ _ _ _ _ _ _ _).trans (if_pos rfl)

/-- Of the unit's claim only the request under way is new. -/
theorem State.requestClaim_claim (h : SyncReady s x c.claimSync) :
    ((s.requestClaim x c).unit x).claim = { (s.unit x).claim with inFlight := true } := by
  rw [State.requestClaim_of_ready h, State.unit_updUnit, if_pos rfl, State.answered, State.unit_congr (State.exchange_units _ _ _)]
  dsimp only
  rw [State.syncDone_part _ _ _ _ _ UnitSt.claim fun _ _ _ => rfl, State.sendReply_unit, State.unit_congr (s.putValue_units _ _)]

theorem State.takeClaims_claim (n : Nat) : ((s.takeClaims x c n).unit x).claim =
    { (s.unit x).claim with cur := n, hi := min (n + c.claimSize) (s.sync c.claimSync.toNat).bound.toNat, next := none, inFlight := false } := by
  rw [State.takeClaims, State.unit_updUnit, if_pos rfl]

theorem State.takeClaims_sync (n i : Nat) : (s.takeClaims x c n).sync i = s.sync i := rfl

/-- The wait state is no part of the claim. -/
theorem State.setWait_claim (w : WaitSt) : ((s.setWait x w).unit x).claim = (s.unit x).claim :=
  s.setWait_part x UnitSt.claim (fun _ _ _ => rfl) (fun _ _ _ => rfl) w x

theorem State.setRun_claim : ((s.setRun x).unit x).claim = (s.unit x).claim :=
  s.setRun_part x UnitSt.claim (fun _ _ _ => rfl) (fun _ _ _ => rfl) x

theorem State.setRun_sync (i : Nat) : (s.setRun x).sync i = s.sync i := State.sync_congr (State.setWait_syncs _ _ _) i

theorem State.record_unit (jid : U64) (kind : Nat) (words : List Nat) (data : List Byte) (y : Nat) :
    (s.record jid kind words data).unit y = s.unit y := by
  obtain ⟨o, ho⟩ := s.record_eq_setObs jid kind words data
  rw [ho]
  rfl

end

/-! ### CLAIM before the end of the claims -/

/-- A unit goes through the claims of its command, and BOUND is not reached (R263). -/
structure State.Claims (s : State) (x : Nat) (j : Job) (c : Cmd) : Prop where
  commanded : Commanded s x j c
  ready : SyncReady s x c.claimSync
  claims : c.claimEn = true
  started : (s.unit x).started = true
  goesOn : (s.unit x).claim.ended = false
  reads : (s.unit x).reads = []
  nonempty : (s.unit x).empty c = false
  ungated : s.clockGated x j c = false

namespace State.Claims
variable {s : State} {x : UnitId} {j : Job} {c : Cmd} (h : s.Claims x.addr j c)
include h

/-- Inside a claim nothing is asked for. -/
theorem exec_inside (hin : (s.unit x.addr).claim.cur < (s.unit x.addr).claim.hi) : exec (.claim x) s = .next s := by
  rw [exec, execClaim, State.ran_unitRuns h.commanded]
  simp [hin]

section
variable (hover : (s.unit x.addr).claim.hi ≤ (s.unit x.addr).claim.cur)
include hover

theorem exec_awaits (hnext : (s.unit x.addr).claim.next = none) (hfly : (s.unit x.addr).claim.inFlight = true) :
    exec (.claim x) s = .next (s.setWait x.addr (.sync c.claimSync 0)) := by
  rw [exec, execClaim, State.ran_unitRuns h.commanded]
  simp [h.claims, h.started, h.goesOn, h.reads, h.nonempty, h.ungated, Nat.not_lt.mpr hover, hnext, hfly]

theorem exec_asks (hnext : (s.unit x.addr).claim.next = none) (hfly : (s.unit x.addr).claim.inFlight = false) :
    exec (.claim x) s = .next ((s.requestClaim x.addr c).setWait x.addr (.sync c.claimSync 0)) := by
  rw [exec, execClaim, State.ran_unitRuns h.commanded]
  simp [h.claims, h.started, h.goesOn, h.reads, h.nonempty, h.ungated, Nat.not_lt.mpr hover, hnext, hfly, State.requestClaim]

theorem exec_takes {n : Nat} (hnext : (s.unit x.addr).claim.next = some n)
    (hlive : s.replayed j.jid 4 [x.addr, c.tag.toNat, c.claimSync.toNat] = none) (hn : n < (s.sync c.claimSync.toNat).bound.toNat) :
    exec (.claim x) s = .next ((((s.record j.jid 0x04 [x.addr, c.tag.toNat, c.claimSync.toNat, n] []).takeClaims x.addr c n).requestClaim
      x.addr c).setRun x.addr) := by
  rw [exec, execClaim, State.ran_unitRuns h.commanded, State.takeClaims, State.sync_congr (State.record_syncs _ _ _ _ _)]
  simp [h.claims, h.started, h.goesOn, h.reads, h.nonempty, h.ungated, Nat.not_lt.mpr hover, hnext, hlive, Nat.not_le.mpr hn, State.requestClaim]

/-- The first request (R263). -/
theorem asks_effect (hnext : (s.unit x.addr).claim.next = none) (hfly : (s.unit x.addr).claim.inFlight = false) :
    ∃ t, exec (.claim x) s = .next t ∧ (t.unit x.addr).claim.inFlight = true ∧
      t.sync c.claimSync.toNat = { s.sync c.claimSync.toNat with
        value := ((s.sync c.claimSync.toNat).fetchAdd (BitVec.ofNat 64 c.claimSize)).1 } ∧
      (t.unit x.addr).wait = .sync c.claimSync 0 := by
  refine ⟨_, h.exec_asks hover hnext hfly, ?_, ?_, State.setWait_wait _ _ _⟩
  · rw [State.setWait_claim, State.requestClaim_claim h.ready]
  · rw [State.sync_congr (State.setWait_syncs _ _ _), State.requestClaim_sync h.ready]

/-- The claims of a reply below BOUND; the next request goes at once (R263). -/
theorem takes_effect {n : Nat} (hnext : (s.unit x.addr).claim.next = some n)
    (hlive : s.replayed j.jid 4 [x.addr, c.tag.toNat, c.claimSync.toNat] = none) (hn : n < (s.sync c.claimSync.toNat).bound.toNat) :
    ∃ t, exec (.claim x) s = .next t ∧ (t.unit x.addr).claim.cur = n ∧
      (t.unit x.addr).claim.hi = min (n + c.claimSize) (s.sync c.claimSync.toNat).bound.toNat ∧ (t.unit x.addr).claim.inFlight = true ∧
      t.sync c.claimSync.toNat = { s.sync c.claimSync.toNat with
        value := ((s.sync c.claimSync.toNat).fetchAdd (BitVec.ofNat 64 c.claimSize)).1 } := by
  let s0 := s.record j.jid 0x04 [x.addr, c.tag.toNat, c.claimSync.toNat, n] []
  have hready : SyncReady (s0.takeClaims x.addr c n) x.addr c.claimSync := syncReady_takeClaims (syncReady_record h.ready _ _ _ _) n
  have hsync : s0.sync c.claimSync.toNat = s.sync c.claimSync.toNat := State.sync_congr (State.record_syncs _ _ _ _ _) _
  have hclaim : ((((s0.takeClaims x.addr c n).requestClaim x.addr c).setRun x.addr).unit x.addr).claim =
      { (s.unit x.addr).claim with
        cur := n, hi := min (n + c.claimSize) (s.sync c.claimSync.toNat).bound.toNat, next := none, inFlight := true } := by
    rw [State.setRun_claim, State.requestClaim_claim hready, State.takeClaims_claim, State.record_unit, hsync]
  refine ⟨_, h.exec_takes hover hnext hlive hn, by rw [hclaim], by rw [hclaim], by rw [hclaim], ?_⟩
  rw [State.setRun_sync, State.requestClaim_sync hready, State.takeClaims_sync, hsync]

end

end State.Claims

/-! ### Token crossings (R57, R441) -/

/-- The edge that a token crosses counts it. -/
def State.edgeCounted (s : State) (src dst : Nat) : State := (edgeOf src dst).elim s fun k => s.cntAdd (cntEdge src k) 1

/-- A token leaves its channel for the tail of its queue. -/
def State.crossed (s : State) (src dst : Nat) (f : Flying) : State :=
  ((s.edgeCounted src dst).setChan (src * 32 + dst) ((s.chan (src * 32 + dst)).erase f)).setQueue f.q
    { s.queue f.q with toks := (s.queue f.q).toks ++ [f.tok], tail := ((s.queue f.q).tail + 1) % (s.queue f.q).depth }

section
variable (s : State) (src dst : Nat) (f : Flying)

theorem State.edgeCounted_eq_setObs : ∃ o, s.edgeCounted src dst = s.setObs o := by
  unfold State.edgeCounted
  cases edgeOf src dst with
  | none => exact ⟨s.obs, rfl⟩
  | some k => exact ⟨_, rfl⟩

theorem State.edgeCounted_cntAt {e : Nat} (he : edgeOf src dst = some e) :
    (s.edgeCounted src dst).cntAt (cntEdge src e) = satAdd (s.cntAt (cntEdge src e)) 1 := by
  rw [State.edgeCounted, he]
  exact (State.cntAt_cntAdd _ _ _ _).trans (if_pos rfl)

theorem State.crossed_chan : (s.crossed src dst f).chan (src * 32 + dst) = (s.chan (src * 32 + dst)).erase f :=
  State.chan_setChan_self _ _ _

theorem State.crossed_toks : ((s.crossed src dst f).queue f.q).toks = (s.queue f.q).toks ++ [f.tok] := by
  rw [State.crossed, State.queue_setQueue_self]

theorem State.crossed_queue {k : Nat} (hk : k ≠ f.q) : (s.crossed src dst f).queue k = s.queue k := by
  obtain ⟨o, ho⟩ := s.edgeCounted_eq_setObs src dst
  rw [State.crossed, State.queue_setQueue, if_neg hk, ho]
  rfl

theorem State.crossed_frame :
    (s.crossed src dst f).units = s.units ∧ (s.crossed src dst f).syncs = s.syncs ∧ (s.crossed src dst f).mem = s.mem := by
  obtain ⟨o, ho⟩ := s.edgeCounted_eq_setObs src dst
  rw [State.crossed, ho]
  exact ⟨rfl, rfl, rfl⟩

end

section
variable {s : State} {src dst : Fin 24} (hon : s.pwr.on = true)
include hon

theorem exec_tokenCrossing_none (h : s.chan (src.val * 32 + dst.val) = []) : exec (.tokenCrossing src dst) s = .next s := by
  rw [exec, execTokenCrossing, s.ran_on _ hon]
  simp [h, nextFlying]

theorem exec_tokenCrossing_some {f : Flying} (h : nextFlying (s.chan (src.val * 32 + dst.val)) = some f) :
    exec (.tokenCrossing src dst) s = .next (s.crossed src.val dst.val f) := by
  rw [exec, execTokenCrossing, s.ran_on _ hon]
  simp only [h]
  rfl

end

/-! ### Credits (R58) -/

section
variable {s : State} {k : Nat}

theorem State.landCredit_none (h : (s.queue k).credBack = 0) : s.landCredit k = s := if_pos h

/-- A credit of a queue of a compute die lands at the producer that its QCFG names. -/
theorem State.landCredit_some (hk : k < 12288) (h : 0 < (s.queue k).credBack) : s.landCredit k =
    (s.setQueue k { s.queue k with credBack := (s.queue k).credBack - 1 }).updUnit (s.queue k).producer fun u =>
      { u with ocredit := modAt u.ocredit (s.queue k).prodPort fun c => c + 1 } := by
  rw [State.landCredit, if_neg h.ne', State.prodOf, if_pos hk]

theorem State.landCredit_queue (hk : k < 12288) (h : 0 < (s.queue k).credBack) :
    (s.landCredit k).queue k = { s.queue k with credBack := (s.queue k).credBack - 1 } := by
  rw [State.landCredit_some hk h]
  exact State.queue_setQueue_self _ _ _

theorem landCredit_effect (hk : k < 12288) (h : 0 < (s.queue k).credBack) :
    ((s.landCredit k).queue k).credBack = (s.queue k).credBack - 1 ∧ ((s.landCredit k).queue k).toks = (s.queue k).toks ∧
      ((s.landCredit k).unit (s.queue k).producer).ocredit =
        modAt (s.unit (s.queue k).producer).ocredit (s.queue k).prodPort (fun n => n + 1) ∧
      (s.landCredit k).syncs = s.syncs ∧ (s.landCredit k).mem = s.mem ∧ (s.landCredit k).chans = s.chans := by
  rw [State.landCredit_queue hk h, State.landCredit_some hk h]
  refine ⟨rfl, rfl, ?_, rfl, rfl, rfl⟩
  rw [State.unit_updUnit, if_pos rfl]
  rfl

end

theorem exec_creditReturn {s : State} (hon : s.pwr.on = true) (die : Fin 24) (q : Fin 512) :
    exec (.creditReturn die q) s = .next (s.landCredit (512 * die.val + q.val)) := by
  rw [exec, execCreditReturn, s.ran_on _ hon, queueKey]

/-! ### QCFG (R54, R58) -/

/-- A field whose bits a mask lets through. -/
theorem bits_and_mask {n : Nat} (v m : BitVec n) (lo len : Nat) (h : ∀ i < len, m.getLsbD (lo + i) = true) :
    bits (v &&& m) lo len = bits v lo len := by
  refine Nat.eq_of_testBit_eq fun i => ?_
  rw [bits, bits, Nat.testBit_mod_two_pow, Nat.testBit_mod_two_pow, Nat.testBit_shiftRight, Nat.testBit_shiftRight, BitVec.toNat_and,
    Nat.testBit_and]
  by_cases hi : i < len
  · have hm : m.toNat.testBit (lo + i) = true := h i hi
    rw [hm, Bool.and_true]
  · simp [hi]

section
variable (q : QueueSt) (v : U64)

/-- A queue with a new QCFG word. -/
def QueueSt.withCfg : QueueSt := { q with cfg := v &&& qcfgMask }

theorem QueueSt.withCfg_en : (q.withCfg v).en = bit v 47 := by
  have hmask : qcfgMask.getLsbD 47 = true := by decide
  rw [QueueSt.en, QueueSt.withCfg, bit, bit, BitVec.getLsbD_and, hmask, Bool.and_true]

theorem QueueSt.withCfg_depth : (q.withCfg v).depth = bits v 16 12 + 1 :=
  congrArg (· + 1) (bits_and_mask v qcfgMask 16 12 (by decide))

theorem QueueSt.withCfg_producer : (q.withCfg v).producer = bits v 28 5 * 16 + bits v 33 4 :=
  congrArg₂ (· * 16 + ·) (bits_and_mask v qcfgMask 28 5 (by decide)) (bits_and_mask v qcfgMask 33 4 (by decide))

theorem QueueSt.withCfg_prodPort : (q.withCfg v).prodPort = bits v 37 3 := bits_and_mask v qcfgMask 37 3 (by decide)

end

theorem State.queue_congr {s t : State} (h : t.queues = s.queues) (k : Nat) : t.queue k = s.queue k := by
  rw [State.queue, State.queue, h]

section
variable (s : State) (k : Nat) (v : U64)

/-- What a QCFG word changes: the queue, and, where it enables the queue, the credit of the producer's port. -/
theorem State.configure_eq : s.configure k v =
    if bit v 47 then (s.setQueue k ((s.queue k).withCfg v)).updUnit (bits v 28 5 * 16 + bits v 33 4) fun u =>
      { u with ocredit := setAt u.ocredit (bits v 37 3) (BitVec.ofNat 13 (bits v 16 12 + 1)) }
    else s.setQueue k ((s.queue k).withCfg v) := by
  rw [← QueueSt.withCfg_en (s.queue k) v, ← QueueSt.withCfg_producer (s.queue k) v, ← QueueSt.withCfg_prodPort (s.queue k) v,
    ← QueueSt.withCfg_depth (s.queue k) v]
  rfl

/-- No queue but the one written, and neither sync objects nor memory, whether the word enables the queue or not. -/
theorem State.configure_frame : (s.configure k v).queues = (s.setQueue k ((s.queue k).withCfg v)).queues ∧
    (s.configure k v).syncs = s.syncs ∧ (s.configure k v).mem = s.mem := by
  rw [State.configure_eq]
  split <;> exact ⟨rfl, rfl, rfl⟩

theorem State.configure_queue (i : Nat) : (s.configure k v).queue i = if i = k then (s.queue k).withCfg v else s.queue i := by
  obtain ⟨hqueues, -⟩ := s.configure_frame k v
  rw [State.queue_congr hqueues, State.queue_setQueue]

theorem State.configure_units_disabled (h : bit v 47 = false) : (s.configure k v).units = s.units := by
  rw [State.configure_eq, if_neg (ne_true_of_eq_false h)]
  rfl

theorem State.configure_ocredit_enabled (h : bit v 47 = true) : ((s.configure k v).unit (bits v 28 5 * 16 + bits v 33 4)).ocredit =
    setAt (s.unit (bits v 28 5 * 16 + bits v 33 4)).ocredit (bits v 37 3) (BitVec.ofNat 13 (bits v 16 12 + 1)) := by
  rw [State.configure_eq, if_pos h, State.unit_updUnit, if_pos rfl]
  rfl

end

/-- An access of a function that the BAR takes to a die that answers (R19, R33, R483). -/
structure State.Reaches (s : State) (die : Nat) : Prop where
  on : s.pwr.on = true
  bar : s.barOpen = true
  die : s.dieAnswers die = true

section
variable {s : State} {die : Fin 24} (h : s.Reaches die.val) (f : Func) (q : Fin 512) (v : U64)
include h

theorem State.Reaches.exec_qcfgWrite (hc : s.isControl f = true) : exec (.qcfgWrite f die q v) s =
    .next ((s.exchange (30 + f.port.val) die.val).writeQcfg (512 * die.val + q.val) v) := by
  rw [exec, execQcfgWrite, s.byBarOf_open f _ _ h.on h.bar h.die]
  exact congrArg _ (State.privileged_control _ f _ hc)

theorem State.Reaches.exec_qcfgWrite_denied (hc : s.isControl f = false) :
    exec (.qcfgWrite f die q v) s = .next ((s.exchange (30 + f.port.val) die.val).deny f) := by
  rw [exec, execQcfgWrite, s.byBarOf_open f _ _ h.on h.bar h.die]
  exact congrArg _ (State.privileged_denied _ f _ hc)

/-- A disabled queue takes the word. -/
theorem State.Reaches.qcfgWrite_effect (hc : s.isControl f = true) (hen : (s.queue (512 * die.val + q.val)).en = false) :
    ∃ t, exec (.qcfgWrite f die q v) s = .next t ∧
      (t.queue (512 * die.val + q.val)).cfg = v &&& 0xFFFFFFFF7FFF#64 ∧
      (t.queue (512 * die.val + q.val)).toks = (s.queue (512 * die.val + q.val)).toks ∧
      (∀ i, i ≠ 512 * die.val + q.val → t.queue i = s.queue i) ∧ t.syncs = s.syncs ∧ t.mem = s.mem ∧
      (bit v 47 = false → t.units = s.units) ∧
      (bit v 47 = true → (t.unit (bits v 28 5 * 16 + bits v 33 4)).ocredit =
        setAt (s.unit (bits v 28 5 * 16 + bits v 33 4)).ocredit (bits v 37 3) (BitVec.ofNat 13 (bits v 16 12 + 1))) := by
  let r := s.exchange (30 + f.port.val) die.val
  have hwrite : r.writeQcfg (512 * die.val + q.val) v = r.configure (512 * die.val + q.val) v := if_neg (ne_true_of_eq_false hen)
  obtain ⟨-, hsyncs, hmem⟩ := r.configure_frame (512 * die.val + q.val) v
  refine ⟨_, (h.exec_qcfgWrite f q v hc).trans (congrArg _ hwrite), ?_, ?_, fun i hi => ?_, hsyncs, hmem,
    r.configure_units_disabled _ v, r.configure_ocredit_enabled _ v⟩
  · rw [State.configure_queue, if_pos rfl]
    rfl
  · rw [State.configure_queue, if_pos rfl]
    rfl
  · rw [State.configure_queue, if_neg hi]
    rfl

end

end Sys2Proof.Machine

namespace Sys2Proof
open Machine

/-- Settles O17: the claiming unit by what it has in hand, the crossing, the credit and the write by what each leaves. -/
theorem claimsAndQueues : Obligations.claims_and_queues := by
  refine ⟨fun x j c s h hready => ?_, fun src dst die q s hon => ?_, fun f die q v s hon hbar hdie => ?_⟩
  · intro u o hclaim hstarted hended hreads hempty hgate
    have hclaims : s.Claims x.addr j c := ⟨h, hready, hclaim, hstarted, hended, hreads, hempty, hgate⟩
    exact ⟨hclaims.exec_inside, fun hover => ⟨hclaims.exec_awaits hover, hclaims.asks_effect hover, fun n => hclaims.takes_effect hover⟩⟩
  · have hkey : 512 * die.val + q.val < 12288 := by omega
    refine ⟨exec_tokenCrossing_none hon, fun f hf => ⟨_, exec_tokenCrossing_some hon hf, s.crossed_chan _ _ f, s.crossed_toks _ _ f,
      fun k hk => s.crossed_queue _ _ f hk, fun e he => s.edgeCounted_cntAt _ _ he, s.crossed_frame _ _ f⟩, fun hnone => ?_,
      fun hsome => ⟨_, exec_creditReturn hon die q, landCredit_effect hkey hsome⟩⟩
    rw [exec_creditReturn hon, State.landCredit_none hnone]
  · have hreach : s.Reaches die.val := ⟨hon, hbar, hdie⟩
    exact ⟨hreach.qcfgWrite_effect f q v, fun hc hen => (hreach.exec_qcfgWrite f q v hc).trans (congrArg _ (if_pos hen)),
      hreach.exec_qcfgWrite_denied f q v⟩

end Sys2Proof
end

section
/-! PROOF. The passes over the norms (R308 to R310, R312); O29. -/

namespace Sys2Proof.Machine

/-! ### A live job changed, an access that faults -/

/-- The live job after a change that keeps its JOB_ID and phase. -/
theorem State.job?_updJob_live {s : State} {k : U64} {j : Job} {f : Job → Job} (hjid : ∀ i, (f i).jid = i.jid) (hphase : ∀ i, (f i).phase = i.phase)
    (h : s.job? k = some j) : (s.updJob k f).job? k = some (f j) := by
  rw [State.job?_updJob _ _ _ hjid fun i hi => by rwa [hphase], if_pos rfl, h, Option.map_some]

theorem State.on_bad {α : Type} {a : Acc α} {cz x d p : Nat} (h : a = .bad cz x d p) (s : State) (w : Who) (f : α → State) :
    s.on w a f = s.streamFault w cz x d p 0 := by
  rw [h, State.on]

/-! ### A unit of a job, an entry of a list -/

theorem tabGet_mem {α : Type} {d : α} {t : Tab α} {a : Nat} (h : tabGet d t a ≠ d) : (a, tabGet d t a) ∈ t := by
  induction t with
  | nil => exact absurd rfl h
  | cons e t ih =>
    obtain ⟨k, v⟩ := e
    unfold tabGet at h ⊢
    split
    · next hk => rw [hk]; exact List.mem_cons_self
    · next hk => rw [if_neg hk] at h; exact List.mem_cons_of_mem _ (ih h)

/-- A unit of a job is listed among the job's units. -/
theorem State.mem_unitsOf {s : State} {x : Nat} {jid : U64} (h : (s.unit x).job = some jid) : x ∈ s.unitsOf jid := by
  have hlisted : (x, s.unit x) ∈ s.units := tabGet_mem fun hreset => by
    rw [State.unit, hreset] at h
    cases h
  exact List.mem_map.mpr ⟨_, List.mem_filter.mpr ⟨hlisted, by simp [h]⟩, rfl⟩

theorem modAt_eq_modify {α : Type} (l : List α) (n : Nat) (f : α → α) : modAt l n f = l.modify n f := by
  induction l generalizing n with
  | nil => simp [modAt]
  | cons a l ih =>
    cases n with
    | zero => rfl
    | succ n => simp [modAt, ih]

/-! ### PASS1_NORM (R308, R309) -/

/-- The module's sums of every layer are kept, and their flags stand at the engine that took them. -/
def State.takeNorms (s : State) (jid : U64) (ls : List (LayerSt × U16)) : State :=
  ((s.updJob jid fun j => { j with layers := ls.map (·.1), pass1 := true, progress := true }).tickFresh 3).updUnit (s.normUpe jid) fun u =>
    u.orFlags (ls.foldl (fun f l => f ||| l.2) 0)

section
variable {s : State} {jid : U64} {j : Job} (hon : s.pwr.on = true) (hjob : s.job? jid = some j)
include hon hjob

theorem exec_pass1Norm_waits (h : s.mayUpdate j = false ∨ s.stalled (s.normUpe jid) = true ∨ j.pass1 = true ∨ s.passed j .reduced = false) :
    exec (.pass1Norm jid) s = .next s := by
  rw [exec, execPass1Norm, s.ran_on _ hon, s.withJob_some _ _ j hjob]
  refine congrArg _ (if_pos ?_)
  rcases h with h | h | h | h <;> simp [h]

theorem exec_normDerive_waits (h : s.mayUpdate j = false ∨ s.stalled (s.normUpe jid) = true ∨ j.pass1 = false ∨ j.norms = true) :
    exec (.normDerive jid) s = .next s := by
  rw [exec, execNormDerive, s.ran_on _ hon, s.withJob_some _ _ j hjob]
  refine congrArg _ (if_pos ?_)
  rcases h with h | h | h | h <;> simp [h]

variable (hmay : s.mayUpdate j = true) (hstall : s.stalled (s.normUpe jid) = false)
include hmay hstall

theorem exec_pass1Norm_due (hpass : j.pass1 = false) (hmark : s.passed j .reduced = true) : exec (.pass1Norm jid) s =
    .next (s.on (whoOf (s.normUpe jid) j) (accAll (fun l => s.layerNorms (whoOf (s.normUpe jid) j) j l) (List.range j.layerTab.length))
      (s.takeNorms jid)) := by
  rw [exec, execPass1Norm, s.ran_on _ hon, s.withJob_some _ _ j hjob]
  exact congrArg _ (if_neg (by simp [hmay, hstall, hpass, hmark]))

/-- Once the totals can be read, they give the global norm, a factor for each group, and the layers' trust ratios (R310). -/
theorem exec_normDerive_due (hpass : j.pass1 = true) (hnorms : j.norms = false) (hdims : j.dims = [] ∨ j.bin.exch = none)
    {ts : List (Int × Int × Int)}
    (hts : accAll (fun l => s.totals (whoOf (s.normUpe jid) j) j l) (List.range j.layerTab.length) = .ok ts) :
    ∃ (clips : List FW) (ratios : List FW) (fl : U16),
      clips.length = (match j.bin.update with | some u => u.groups.length | none => 0) ∧
      exec (.normDerive jid) s = .next (((s.updJob jid fun i => { i with
        gnorm := BitVec.ofNat 32 (fOf (totalVal (ts.foldl (fun (m : Int) e => m + e.1) 0)).sqrt).1, clips := clips.map fun c => BitVec.ofNat 32 c.1,
        norms := true, progress := true,
        layers := (i.layers.zip ratios).map fun p => { p.1 with tr := BitVec.ofNat 32 p.2.1 } }).updUnit (s.normUpe jid) fun u =>
          u.orFlags fl).accessed (whoOf (s.normUpe jid) j).die) := by
  rw [exec, execNormDerive, s.ran_on _ hon, s.withJob_some _ _ j hjob]
  dsimp only
  rw [if_neg (by rcases hdims with h | h <;> simp [hmay, hstall, hpass, hnorms, h]), State.on_ok hts]
  refine ⟨_, _, _, ?_, rfl⟩
  rw [List.length_map]
  cases j.bin.update <;> rfl

end

end Sys2Proof.Machine

namespace Sys2Proof
open Machine

/-- Settles O29: each pass by what it waits for, then by what its accesses give. -/
theorem normPasses : Obligations.norm_passes := by
  intro jid s j hon hjob x w n
  refine ⟨fun h => ⟨exec_pass1Norm_waits hon hjob (by tauto), exec_normDerive_waits hon hjob (by tauto)⟩, fun hmay hstall =>
    ⟨fun h => exec_pass1Norm_waits hon hjob (by tauto), fun ls hpass hmark hls => ?_, fun cz a d p hpass hmark hbad => ?_,
      fun h => exec_normDerive_waits hon hjob (by tauto), fun ts hpass hnorms hdims hts => ?_⟩⟩
  · refine ⟨_, _, (exec_pass1Norm_due hon hjob hmay hstall hpass hmark).trans (congrArg _ (State.on_ok hls _ _ _)),
      State.job?_updJob_live (fun _ => rfl) (fun _ => rfl) hjob, rfl, rfl, rfl, ?_, rfl, rfl⟩
    exact congrArg UnitSt.flags (State.unit_setUnit_self _ _ _)
  · exact (exec_pass1Norm_due hon hjob hmay hstall hpass hmark).trans (congrArg _ (State.on_bad hbad _ _ _))
  · obtain ⟨clips, ratios, fl, hlen, hexec⟩ := exec_normDerive_due hon hjob hmay hstall hpass hnorms hdims hts
    exact ⟨_, _, hexec, State.job?_updJob_live (fun _ => rfl) (fun _ => rfl) hjob, rfl, rfl, (List.length_map _).trans hlen, hpass, rfl, rfl⟩

end Sys2Proof
end

section
/-! PROOF. PASS2_UPDATE (R300, R302 to R307, R311, R312): a layer begins, goes on by elements, and ends; O30. -/

namespace Sys2Proof.Machine

/-! ### The update engines of a job, over a step of one -/

/-- What a write lists of a table was listed before, or is the entry written. -/
theorem mem_tabSet {α : Type} [DecidableEq α] {d v : α} {t : Tab α} {a : Nat} {e : Nat × α} (h : e ∈ tabSet d t a v) : e ∈ t ∨ e = (a, v) := by
  induction t with
  | nil =>
    unfold tabSet at h
    split at h
    · cases h
    · exact .inr (List.mem_singleton.mp h)
  | cons c t ih =>
    have hrest (he : e ∈ t ∨ e = (a, v)) : e ∈ c :: t ∨ e = (a, v) := he.imp_left (List.mem_cons_of_mem _)
    unfold tabSet at h
    split at h
    · exact hrest (ih h)
    · split at h
      · exact (List.mem_cons.mp h).symm
      · exact (List.mem_cons.mp h).elim (fun he => .inl (he ▸ List.mem_cons_self)) fun he => hrest (ih he)

/-- A unit whose job an update leaves is a job's afterwards only where one was before. -/
theorem State.mem_unitsOf_of_updUnit {s : State} {x y : Nat} {jid : U64} {f : UnitSt → UnitSt} (hf : ∀ u, (f u).job = u.job)
    (h : y ∈ (s.updUnit x f).unitsOf jid) : y ∈ s.unitsOf jid := by
  obtain ⟨e, he, rfl⟩ := List.mem_map.mp h
  obtain ⟨hlisted, hjob⟩ := List.mem_filter.mp he
  obtain hold | rfl := mem_tabSet hlisted
  · exact List.mem_map.mpr ⟨e, List.mem_filter.mpr ⟨hold, hjob⟩, rfl⟩
  · exact State.mem_unitsOf ((hf _).symm.trans (beq_iff_eq.mp hjob))

@[simp] theorem UnitSt.count_job (u : UnitSt) (n k : Nat) : (u.count n k).job = u.job := rfl
@[simp] theorem UnitSt.orLanes_job (u : UnitSt) (fs : List U16) : (u.orLanes fs).job = u.job := rfl
@[simp] theorem UnitSt.endTile_job (u : UnitSt) : u.endTile.job = u.job := rfl

theorem State.upes_congr {s t : State} (h : t.units = s.units) (jid : U64) : t.upes jid = s.upes jid := by
  rw [State.upes, State.upes, State.unitsOf, State.unitsOf, h]

theorem frees_upes (jid : U64) (Q : List Nat → Prop) : Frees (fun t => Q (t.upes jid)) 0x3FFFFFFFFEF :=
  frees_units fun l : Tab UnitSt => Q (((l.filter fun e : Nat × UnitSt => e.2.job == some jid).map Prod.fst).filter fun x => x % 16 == 11)

/-- `P` outlives a unit's update that leaves its job. -/
def JobKept (P : State → Prop) : Prop := ∀ s x f, (∀ u : UnitSt, (f u).job = u.job) → P s → P (s.updUnit x f)

/-- One element of pass 2, and the end of its row, write memory, counters, flags and records. -/
theorem State.upeStep_inv {P : State → Prop} (hw : Frees P 0xc0e00000e) (hunit : JobKept P) {s : State} {x l : Nat} {j : Job} {p : P2}
    {r : State × P2} (hs : P s) (h : s.upeStep x j p l = some (.ok r)) : P r.1 := by
  have hcount (t : State) (y lane : Nat) (e : ElemUp) (ht : P t) : P (t.countElem y lane e) := by
    unfold State.countElem State.orLanes
    exact hunit _ _ _ (fun u => by simp) (hunit _ _ _ (fun u => by simp) ht)
  have hrow (t : State) (k : Lay) (p : P2) (q : UpePos) (row : Nat) (ht : P t) : P (t.rowDone j k p q row).1 := by
    unfold State.rowDone
    exact State.recordTile_keeps (hw.sub rfl) _ _ _ _ _ _ _ (hunit _ _ _ (fun u => by simp) ht)
  have hstep : ∀ a, s.upeStep x j p l = some a → AccAll P Prod.fst a := by
    intro a ha
    unfold State.upeStep at ha
    split at ha
    · obtain ⟨row, -, rfl⟩ := Option.map_eq_some_iff.mp ha
      refine AccAll.bind fun cs _ => AccAll.map fun m hm => ?_
      have hmoved : P m.1 := by
        split at hm
        · cases hm
          exact hs
        · exact (AccAll.map (g := Prod.fst) fun e he =>
            hcount _ _ _ _ (State.elemUpdate_keeps hw s _ _ _ _ _ _ hs e he)) m hm
      dsimp only
      split
      · exact hmoved
      · exact hrow _ _ _ _ _ hmoved
    · cases ha
  exact hstep _ h r rfl

/-- An engine with a row left in the layer goes on. -/
theorem State.upeStep_isSome {s : State} {x l : Nat} {j : Job} {p : P2} {k o : Lay} {q : UpePos} (hk : s.layOf x j j.active l = some k)
    (ho : s.layOf x j (!j.active) l = some o) (hq : (p.pos.find? fun q => q.upe == x) = some q)
    (hrow : (j.nextRow (s.upes j.jid) l k.w.rowCount q).isSome = true) : (s.upeStep x j p l).isSome = true := by
  unfold State.upeStep
  rw [hk, ho, hq]
  exact Option.isSome_map.trans hrow

/-- No engine joins a job by an element of another's. -/
theorem State.upeStep_upes {s : State} {x l y : Nat} {j : Job} {p : P2} {r : State × P2} {jid : U64} (h : s.upeStep x j p l = some (.ok r))
    (hy : y ∈ r.1.upes jid) : y ∈ s.upes jid :=
  State.upeStep_inv (P := fun t => ∀ y ∈ t.upes jid, y ∈ s.upes jid)
    ((frees_upes jid fun l => ∀ y ∈ l, y ∈ s.upes jid).sub rfl)
    (fun t x f hf ht y hy => by
      obtain ⟨hmem, hupe⟩ := List.mem_filter.mp hy
      exact ht y (List.mem_filter.mpr ⟨State.mem_unitsOf_of_updUnit hf hmem, hupe⟩))
    (fun _ => id) h y hy

/-! ### Rows of a lone engine (R311) -/

/-- Every row is the lone engine's: the binary's shares name no other of the job's. -/
theorem Job.rowOwner_lone (j : Job) (x l row : Nat) : j.rowOwner [x] l row = x := by
  unfold Job.rowOwner
  dsimp only
  cases hr : List.find? _ _ with
  | none => rfl
  | some r =>
    have hshare := List.find?_some hr
    simp only [Bool.and_eq_true, List.contains_iff_mem, List.mem_singleton] at hshare
    exact hshare.2

/-- At the start of a layer with rows, a lone engine has one to update. -/
theorem Job.nextRow_start (j : Job) {x l rows : Nat} {q : UpePos} (hrows : 0 < rows) (hq : q.row = 0) (hx : q.upe = x) :
    (j.nextRow [x] l rows q).isSome = true :=
  List.find?_isSome.mpr ⟨0, List.mem_range.mpr hrows, by simp [hq, hx, Job.rowOwner_lone]⟩

/-! ### The parts of PASS2_UPDATE -/

/-- A job's layer as it stands when its update is over. -/
def Job.layerUpdated (j : Job) (l : Nat) (p : P2) : Job :=
  { j with
    progress := true,
    layers := modAt j.layers l fun y => { y with done := true, gzero := p.gzero, lost := p.lost, nfZeroed := p.nf, quiet := quietLayer j.header p },
    p2 := none }

theorem Job.layerUpdated_layers (j : Job) (l m : Nat) (p : P2) : (j.layerUpdated l p).layers[m]? = if m = l then (j.layers[l]?).map fun y =>
    { y with done := true, gzero := p.gzero, lost := p.lost, nfZeroed := p.nf, quiet := quietLayer j.header p } else j.layers[m]? := by
  rw [Job.layerUpdated, modAt_eq_modify, List.getElem?_modify]
  by_cases h : m = l
  · simp [h]
  · simp [h, Ne.symm h]

/-- The rates an engine has read are the job's, recorded as a replay supplies them. -/
def State.takeLrs (s : State) (jid : U64) (x : Nat) (j : Job) (ls : List U32) : State :=
  (s.recordLrs x j (s.replayLrs x j ls)).updJob jid fun i => { i with lrs := i.lrs ++ [(x, s.replayLrs x j ls)], progress := true }

theorem State.takeLrs_frame (s : State) (jid : U64) (x : Nat) (j : Job) (ls : List U32) :
    (s.takeLrs jid x j ls).units = s.units ∧ (s.takeLrs jid x j ls).mem = s.mem :=
  ⟨State.recordLrs_keeps ((frees_units (· = s.units)).sub rfl) s _ _ _ rfl, State.recordLrs_keeps ((frees_mem (· = s.mem)).sub rfl) s _ _ _ rfl⟩

/-- A job whose next layer has begun: its rates, and the sums that are open. -/
def Job.layerBegun (j : Job) (lrs : List (Nat × List U32)) (p : P2) : Job := { j with lrs := lrs, progress := true, p2 := some p }

section
variable {s : State} {jid : U64} {j : Job} {x l : Nat} (hjob : s.job? jid = some j)
include hjob

theorem State.startUpe_started (h : (assoc j.lrs x).isSome = true) : s.startUpe jid x = s := by
  rw [State.startUpe, s.withJob_some _ _ j hjob]
  exact if_pos (by simp [h])

/-- The first engine to start reads its rates and sets the label to WRITING (R297, R300). -/
theorem State.startUpe_first {ls : List U32} {s1 : State} (hlrs : j.lrs = []) (hstall : s.stalled x = false) (hread : s.readLrs x j = .ok ls)
    (hlabel : s.storeLabel (whoOf x j) j (!j.active) (labelBytes (j.gstep.toNat + 1) 1 jid 0 0) = .ok s1) :
    s.startUpe jid x = (s1.takeLrs jid x j ls).accessed (whoOf x j).die := by
  have hacc : ((s.readLrs x j).bind fun ls =>
      (if j.lrs.isEmpty then s.storeLabel (whoOf x j) j (!j.active) (labelBytes (j.gstep.toNat + 1) 1 jid 0 0) else .ok s).map fun s1 => (s1, ls)) =
      .ok (s1, ls) := by
    rw [hread, hlrs, hlabel]
    rfl
  rw [State.startUpe, s.withJob_some _ _ j hjob, if_neg (by simp [hlrs, assoc, hstall]), State.on_ok hacc]
  rfl

theorem State.openLayer_open (h : j.p2.isSome = true) : s.openLayer jid l = s := by
  rw [State.openLayer, s.withJob_some _ _ j hjob]
  exact if_pos h

/-- The sums of a layer are opened for the engines of the job. -/
theorem State.openLayer_starts (h : j.p2 = none) : ∃ rows cols,
    (s.openLayer jid l).job? jid = some { j with p2 := some (P2.start (s.upes jid) rows cols) } ∧ (s.openLayer jid l).units = s.units ∧
      (s.openLayer jid l).mem = s.mem := by
  rw [State.openLayer, s.withJob_some _ _ j hjob]
  dsimp only
  rw [if_neg (by simp [h])]
  exact ⟨_, _, State.job?_updJob_live (fun _ => rfl) (fun _ => rfl) hjob, rfl, rfl⟩

theorem State.takeLrs_job (y : Nat) (i : Job) (ls : List U32) : (s.takeLrs jid y i ls).job? jid =
    some { j with lrs := j.lrs ++ [(y, s.replayLrs y i ls)], progress := true } :=
  State.job?_updJob_live (fun _ => rfl) (fun _ => rfl) (State.recordLrs_keeps ((frees_job jid (· = some j)).sub rfl) s _ _ _ hjob)

theorem State.upeRun_at_end {p : P2} (hp : j.p2 = some p) (hend : s.upeStep x j p l = none) (n : Nat) : s.upeRun jid l x n = s := by
  cases n with
  | zero => rfl
  | succ n =>
    rw [State.upeRun, hjob]
    simp [hp, hend]

/-- One element of an engine that goes on. -/
theorem State.upeRun_one {p : P2} {r : State × P2} (hmay : s.mayUpdate j = true) (hstall : s.stalled x = false)
    (hlrs : (assoc j.lrs x).isSome = true) (hp : j.p2 = some p) (hstep : s.upeStep x j p l = some (.ok r)) : s.upeRun jid l x 1 =
    (r.1.updJob jid fun i => { i with p2 := some r.2, progress := true }).accessed (whoOf x j).die := by
  rw [State.upeRun, hjob]
  dsimp only
  rw [if_neg (by simp [hmay, hstall, Option.isSome_iff_ne_none.mp hlrs]), hp, Option.bind_some, hstep]
  rfl

/-- While the lone engine of a job has an element left, the layer does not end. -/
theorem State.closeLayer_open {p : P2} (hp : j.p2 = some p) (hlone : ∀ y ∈ s.upes jid, y = x) (hleft : (s.upeStep x j p l).isSome = true) :
    s.closeLayer jid l = s := by
  obtain ⟨-, hid, -⟩ := s.job?_some _ _ hjob
  rw [State.closeLayer, s.withJob_some _ _ j hjob, hp]
  refine if_pos ?_
  cases hupes : s.upes jid with
  | nil => simp [State.mayUpdate, hid, hupes]
  | cons y ys =>
    have hy : y = x := hlone y (hupes ▸ List.mem_cons_self)
    simp [hy, hleft]

theorem State.closeLayer_ends {p : P2} {k o : Lay} {t : State} {fl : U16} (hp : j.p2 = some p) (hmay : s.mayUpdate j = true)
    (hstall : s.stalled (s.normUpe jid) = false) (hend : ∀ y ∈ s.upes jid, (assoc j.lrs y).isSome = true ∧ s.upeStep y j p l = none)
    (hk : s.layOf (s.normUpe jid) j j.active l = some k) (ho : s.layOf (s.normUpe jid) j (!j.active) l = some o)
    (hstats : s.writeStats (whoOf (s.normUpe jid) j) k o (upK k) p = .ok (t, fl)) :
    s.closeLayer jid l = (t.layerDone (s.normUpe jid) jid l p fl).accessed (whoOf (s.normUpe jid) j).die := by
  have hall : ((s.upes jid).all fun y => (assoc j.lrs y).isSome && (s.upeStep y j p l).isNone) = true :=
    List.all_eq_true.mpr fun y hy => by simp [hend y hy]
  rw [State.closeLayer, s.withJob_some _ _ j hjob, hp]
  dsimp only
  rw [if_neg (by simp [hmay, hstall, hall]), hk, ho]
  exact State.on_ok hstats _ _ _

/-- A layer is done; another one is left, so the label stays. -/
theorem State.layerDone_others_left {p : P2} {m : Nat} {z : LayerSt} (hm : m ≠ l) (hz : j.layers[m]? = some z) (hdone : z.done = false) (fl : U16) :
    s.layerDone x jid l p fl = (s.updJob jid (·.layerUpdated l p)).updUnit x fun u => u.orFlags fl := by
  have hlive : ((s.updJob jid (·.layerUpdated l p)).updUnit x fun u => u.orFlags fl).job? jid = some (j.layerUpdated l p) :=
    State.job?_updJob_live (fun _ => rfl) (fun _ => rfl) hjob
  have hleft : (j.layerUpdated l p).layers.all (·.done) = false := by
    refine List.all_eq_false.mpr ⟨z, List.mem_of_getElem? (i := m) ?_, by simp [hdone]⟩
    rw [Job.layerUpdated_layers, if_neg hm, hz]
  refine (State.withJob_some _ _ _ _ hlive).trans (if_pos ?_)
  rw [hleft]
  rfl

end

/-! ### The tensors of a layer that has begun -/

/-- The views of a layer rest on the unit, the binary and the bank; rates and sums of pass 2 change none of them. -/
theorem State.layOf_begun {s t : State} {x l : Nat} {j : Job} {bankB : Bool} {k : Lay} (hunits : t.units = s.units) (hk : s.layOf x j bankB l = some k)
    (lrs : List (Nat × List U32)) (p : P2) : ∃ lr, t.layOf x (j.layerBegun lrs p) bankB l = some { k with lr := lr } := by
  have hview : t.upeView x j.bin = s.upeView x j.bin := by
    funext b td
    rw [State.upeView, State.upeView, State.unit_congr hunits]
  unfold State.layOf at hk ⊢
  split at hk
  · next e st he hst =>
    dsimp only at hk ⊢
    rw [show (j.layerBegun lrs p).layerTab = j.layerTab from rfl, show (j.layerBegun lrs p).layers = j.layers from rfl,
      show (j.layerBegun lrs p).bin = j.bin from rfl, he, hst]
    dsimp only
    rw [hview]
    split at hk
    · cases hk
      exact ⟨_, rfl⟩
    · cases hk
  · cases hk

/-- A lone engine has an element or a row's end before it in a layer that has just begun. -/
theorem State.upeStep_begun {s t : State} {x l : Nat} {j : Job} {k o : Lay} (hunits : t.units = s.units) (hlone : s.upes j.jid = [x])
    (hk : s.layOf x j j.active l = some k) (ho : s.layOf x j (!j.active) l = some o) (hrows : 0 < k.w.rowCount) (lrs : List (Nat × List U32))
    (rows cols : Nat) : (t.upeStep x (j.layerBegun lrs (P2.start [x] rows cols)) (P2.start [x] rows cols) l).isSome = true := by
  obtain ⟨a, hk'⟩ := State.layOf_begun hunits hk lrs (P2.start [x] rows cols)
  obtain ⟨b, ho'⟩ := State.layOf_begun hunits ho lrs (P2.start [x] rows cols)
  have hpos : (P2.start [x] rows cols).pos.find? (fun q => q.upe == x) =
      some { upe := x, row := 0, slot := 0, bytes := [], sum := .empty, kept := 0 } := List.find?_cons_of_pos (by simp)
  refine State.upeStep_isSome hk' ho' hpos ?_
  rw [State.upes_congr hunits, show (j.layerBegun lrs (P2.start [x] rows cols)).jid = j.jid from rfl, hlone]
  exact Job.nextRow_start _ hrows rfl rfl

/-! ### The command -/

/-- The next layer of a job in pass 2 (R300, R318). -/
structure State.UpdateDue (s : State) (jid : U64) (j : Job) (l : Nat) : Prop where
  on : s.pwr.on = true
  live : s.job? jid = some j
  may : s.mayUpdate j = true
  norms : j.norms = true
  left : j.updated = false
  marked : s.passed j .normed = true
  next : (j.layers.findIdx? fun z => !z.done) = some l

theorem exec_pass2Update_waits {s : State} {jid : U64} {j : Job} {l : Nat} (hon : s.pwr.on = true) (hjob : s.job? jid = some j)
    (h : s.mayUpdate j = false ∨ j.norms = false ∨ j.updated = true ∨ s.passed j .normed = false ∨
      (j.layers.findIdx? fun z => !z.done) ≠ some l) (n : Nat) : exec (.pass2Update jid l n) s = .next s := by
  rw [exec, execPass2Update, s.ran_on _ hon, s.withJob_some _ _ j hjob]
  refine congrArg _ (if_pos ?_)
  obtain h | h : (s.mayUpdate j = false ∨ j.norms = false ∨ j.updated = true ∨ s.passed j .normed = false) ∨
    (j.layers.findIdx? fun z => !z.done) ≠ some l := by tauto
  · rcases h with h | h | h | h <;> simp [h]
  · cases hnext : j.layers.findIdx? fun z => !z.done with
    | none => by_cases hl : l = j.layers.length <;> simp [hl]
    | some m => simp [show l ≠ m from fun hl => h (hnext.trans (congrArg some hl.symm))]

theorem foldl_eq_self {α β : Type} {f : β → α → β} {b : β} {l : List α} (h : ∀ a ∈ l, f b a = b) : l.foldl f b = b := by
  induction l with
  | nil => rfl
  | cons a l ih =>
    rw [List.foldl_cons, h a List.mem_cons_self]
    exact ih fun c hc => h c (List.mem_cons_of_mem _ hc)

namespace State.UpdateDue
variable {s : State} {jid : U64} {j : Job} {l : Nat} (h : s.UpdateDue jid j l)
include h

theorem exec_parts (n : Nat) : exec (.pass2Update jid l n) s = .next (((s.upes jid).foldl (fun s x => s.upeRun jid l x n)
    (((s.upes jid).foldl (fun s x => s.startUpe jid x) s).openLayer jid l)).closeLayer jid l) := by
  obtain ⟨hlen, -⟩ := List.findIdx?_eq_some_iff_getElem.mp h.next
  rw [exec, execPass2Update, s.ran_on _ h.on, s.withJob_some _ _ j h.live]
  refine congrArg _ (if_neg ?_)
  simp [h.may, h.norms, h.left, h.marked, h.next, hlen]

/-- The layer begins: the lone engine reads its rates, the label says WRITING, the sums are open. -/
theorem begins {x : Nat} {k o : Lay} {ls : List U32} {s1 : State} (hlone : s.upes jid = [x]) (hlrs : j.lrs = []) (hp : j.p2 = none)
    (hstall : s.stalled x = false) (hk : s.layOf x j j.active l = some k) (ho : s.layOf x j (!j.active) l = some o) (hrows : 0 < k.w.rowCount)
    (hread : s.readLrs x j = .ok ls) (hlabel : s.storeLabel (whoOf x j) j (!j.active) (labelBytes (j.gstep.toNat + 1) 1 jid 0 0) = .ok s1) :
    ∃ t i, exec (.pass2Update jid l 0) s = .next t ∧ t.mem = s1.mem ∧ t.job? jid = some i ∧ i.lrs = [(x, s1.replayLrs x j ls)] ∧ i.p2.isSome ∧
      i.layers = j.layers := by
  obtain ⟨-, hid, -⟩ := s.job?_some _ _ h.live
  have hstored {P : State → Prop} (hw : Frees P 0xc0e00000e) (hs : P s) : P s1 :=
    AccAll.getId (State.storeLabel_keeps hw s _ _ _ _ hs) hlabel
  have hunits1 : s1.units = s.units := hstored ((frees_units (· = s.units)).sub rfl) rfl
  have hlive1 : s1.job? jid = some j := hstored ((frees_job jid (· = some j)).sub rfl) h.live
  obtain ⟨hunits2, hmem2⟩ := s1.takeLrs_frame jid x j ls
  have hupes2 : ((s1.takeLrs jid x j ls).accessed (whoOf x j).die).upes jid = [x] :=
    (State.upes_congr (hunits2.trans hunits1) jid).trans hlone
  obtain ⟨rows, cols, hlive, hunits3, hmem3⟩ :=
    State.openLayer_starts (s := (s1.takeLrs jid x j ls).accessed (whoOf x j).die) (l := l) (State.takeLrs_job hlive1 x j ls) hp
  have hunits := hunits3.trans (hunits2.trans hunits1)
  have hupes : (((s1.takeLrs jid x j ls).accessed (whoOf x j).die).openLayer jid l).upes jid = [x] := (State.upes_congr hunits jid).trans hlone
  rw [hupes2] at hlive
  have hleft := State.upeStep_begun hunits (hid ▸ hlone) hk ho hrows (j.lrs ++ [(x, s1.replayLrs x j ls)]) rows cols
  refine ⟨_, _, (h.exec_parts 0).trans (congrArg _ ?_), hmem3.trans hmem2, hlive, congrArg (· ++ _) hlrs, rfl, rfl⟩
  rw [hlone, List.foldl_cons, List.foldl_nil, List.foldl_cons, List.foldl_nil, State.startUpe_first h.live hlrs hstall hread hlabel]
  exact State.closeLayer_open hlive rfl (fun y hy => List.mem_singleton.mp (hupes ▸ hy)) hleft

section
variable (hlrs : ∀ y ∈ s.upes jid, (assoc j.lrs y).isSome = true) {p : P2} (hp : j.p2 = some p)
include hlrs hp

/-- Once every engine has its rates and the sums are open, each goes on in turn. -/
theorem exec_goes_on (n : Nat) : exec (.pass2Update jid l n) s =
    .next (((s.upes jid).foldl (fun s x => s.upeRun jid l x n) s).closeLayer jid l) := by
  have hstarted : (s.upes jid).foldl (fun s x => s.startUpe jid x) s = s := foldl_eq_self fun y hy => State.startUpe_started h.live (hlrs y hy)
  rw [h.exec_parts, hstarted, State.openLayer_open h.live (by simp [hp])]

/-- An element of the lone engine, which is not its last. -/
theorem exec_element {x : Nat} {r : State × P2} {j2 : Job} (hlone : s.upes jid = [x]) (hstall : s.stalled x = false)
    (hstep : s.upeStep x j p l = some (.ok r))
    (hjob2 : ((r.1.updJob jid fun i => { i with p2 := some r.2, progress := true }).accessed (x / 16)).job? jid = some j2)
    (hleft : (((r.1.updJob jid fun i => { i with p2 := some r.2, progress := true }).accessed (x / 16)).upeStep x j2 r.2 l).isSome = true) :
    exec (.pass2Update jid l 1) s = .next ((r.1.updJob jid fun i => { i with p2 := some r.2, progress := true }).accessed (x / 16)) := by
  have hx : x ∈ s.upes jid := hlone ▸ List.mem_cons_self
  have hp2 : j2.p2 = some r.2 := by
    have hmap := (State.job?_updJob r.1 jid (fun i => { i with p2 := some r.2, progress := true }) (fun _ => rfl) (fun _ hi => hi) jid).symm.trans hjob2
    rw [if_pos rfl] at hmap
    obtain ⟨i, -, rfl⟩ := Option.map_eq_some_iff.mp hmap
    rfl
  rw [h.exec_goes_on hlrs hp, hlone, List.foldl_cons, List.foldl_nil, State.upeRun_one h.live h.may hstall (hlrs x hx) hp hstep]
  refine congrArg _ (State.closeLayer_open hjob2 hp2 (fun y hy => ?_) hleft)
  exact List.mem_singleton.mp (hlone ▸ State.upeStep_upes hstep hy)

/-- No engine has a row left: the statistics are written, and the layer is done. -/
theorem ends {k o : Lay} {t1 : State} {fl : U16} {y z : LayerSt} {m : Nat} (hend : ∀ x ∈ s.upes jid, s.stalled x = false ∧ s.upeStep x j p l = none)
    (hk : s.layOf (s.normUpe jid) j j.active l = some k) (ho : s.layOf (s.normUpe jid) j (!j.active) l = some o)
    (hstats : s.writeStats (whoOf (s.normUpe jid) j) k o (upK k) p = .ok (t1, fl)) (hy : j.layers[l]? = some y) (hm : m ≠ l)
    (hz : j.layers[m]? = some z) (hdone : z.done = false) (n : Nat) :
    ∃ t i, exec (.pass2Update jid l n) s = .next t ∧ t.job? jid = some i ∧ t.mem = t1.mem ∧ i.p2 = none ∧
      i.layers[l]? = some { y with done := true, gzero := p.gzero, lost := p.lost, nfZeroed := p.nf, quiet := quietLayer j.header p } ∧
      (∀ m, m ≠ l → i.layers[m]? = j.layers[m]?) ∧ i.updated = false := by
  have hfirst : s.normUpe jid ∈ s.upes jid := by
    obtain ⟨-, hid, -⟩ := s.job?_some _ _ h.live
    have hmay := h.may
    unfold State.normUpe
    cases hupes : s.upes jid with
    | nil => simp [State.mayUpdate, hid, hupes] at hmay
    | cons x xs => exact List.mem_cons_self
  have hlive : t1.job? jid = some j :=
    AccAll.getPair (State.writeStats_keeps ((frees_job jid (· = some j)).sub rfl) s _ _ _ _ _ h.live) hstats
  have hclose := State.closeLayer_ends h.live hp h.may (hend _ hfirst).1 (fun x hx => ⟨hlrs x hx, (hend x hx).2⟩) hk ho hstats
  rw [State.layerDone_others_left hlive hm hz hdone] at hclose
  have hexec := h.exec_goes_on hlrs hp n
  rw [foldl_eq_self fun x hx => State.upeRun_at_end h.live hp (hend x hx).2 n, hclose] at hexec
  refine ⟨_, j.layerUpdated l p, hexec,
    State.job?_updJob_live (f := (·.layerUpdated l p)) (fun _ => rfl) (fun _ => rfl) hlive, rfl, rfl, ?_, fun i hi => ?_, h.left⟩
  · rw [Job.layerUpdated_layers, if_pos rfl, hy, Option.map_some]
  · rw [Job.layerUpdated_layers, if_neg hi]

end

end State.UpdateDue

end Sys2Proof.Machine

namespace Sys2Proof
open Machine

/-- Settles O30: a layer that is not next waits; the next one begins, goes on, or ends. -/
theorem pass2Update : Obligations.pass2_update := by
  intro jid l s j hon hjob xs x0
  refine ⟨exec_pass2Update_waits hon hjob, fun hmay hnorms hleft hmark hnext => ?_⟩
  have h : s.UpdateDue jid j l := ⟨hon, hjob, hmay, hnorms, hleft, hmark, hnext⟩
  refine ⟨fun x k o ls s1 hlone hlrs hp hstall hk ho hrows hread hlabel => h.begins hlone hlrs hp hstall hk ho hrows hread hlabel,
    fun hlrs p hp => ⟨h.exec_goes_on hlrs hp, fun x r j2 hlone hstall hstep => h.exec_element hlrs hp hlone hstall hstep,
      fun k o t1 fl y hend hk ho hstats hy hother => ?_⟩⟩
  obtain ⟨m, z, hm, hz, hdone⟩ := hother
  exact h.ends hlrs hp hend hk ho hstats hy hm hz hdone

end Sys2Proof
end

section
/-! PROOF. A query served next, and a carried contribution added (R321, R354, R355); O31. -/

namespace Sys2Proof.Machine

/-! ### Units at a query (R321) -/

/-- A unit at a command on bank QUERY reads the bank given. -/
def UnitSt.servedFrom (u : UnitSt) (bank : Bool) : UnitSt :=
  match u.cmd? with
  | some c => if c.bank = .query then { u with bankB := bank } else u
  | none => u

/-- One unit is told the bank of the query served next. -/
def State.serveUnit (bank : Bool) (s : State) (x : Nat) : State :=
  match (s.unit x).cmd? with
  | some c => if c.bank = .query then s.updUnit x fun u => { u with bankB := bank } else s
  | none => s

theorem UnitSt.servedFrom_query {u : UnitSt} {c : Cmd} (hcmd : u.cmd? = some c) (hbank : c.bank = .query) (bank : Bool) :
    u.servedFrom bank = { u with bankB := bank } := by
  rw [UnitSt.servedFrom, hcmd]
  exact if_pos hbank

section
variable (bank : Bool) (s : State) (x : Nat)

theorem State.serveUnit_unit (y : Nat) : (s.serveUnit bank x).unit y = if y = x then (s.unit x).servedFrom bank else s.unit y := by
  have hself : s.unit y = if y = x then s.unit x else s.unit y := by split <;> simp [*]
  unfold State.serveUnit UnitSt.servedFrom
  split
  · split
    · exact State.unit_updUnit _ _ _ _
    · exact hself
  · exact hself

theorem State.serveUnit_keeps {P : State → Prop} (hw : Frees P 0x10) (hs : P s) : P (s.serveUnit bank x) := by
  unfold State.serveUnit
  split
  · split
    · exact State.updUnit_keeps hw _ _ _ hs
    · exact hs
  · exact hs

/-- A unit at a query reads the bank once it has been told, and no later unit's turn changes that. -/
theorem State.serveUnits_bankB {s : State} {c : Cmd} {xs : List Nat} (hcmd : (s.unit x).cmd? = some c) (hbank : c.bank = .query)
    (h : x ∈ xs ∨ (s.unit x).bankB = bank) : ((xs.foldl (State.serveUnit bank) s).unit x).bankB = bank := by
  induction xs generalizing s with
  | nil => exact h.resolve_left List.not_mem_nil
  | cons y ys ih =>
    have hunit := s.serveUnit_unit bank y x
    by_cases hy : x = y
    · rw [if_pos hy, ← hy, UnitSt.servedFrom_query hcmd hbank] at hunit
      exact ih (by rw [← hy, hunit]; exact hcmd) (.inr (by rw [← hy, hunit]))
    · rw [if_neg hy] at hunit
      refine ih (by rw [hunit]; exact hcmd) ?_
      rw [hunit]
      exact h.imp_left fun hx => (List.mem_cons.mp hx).resolve_left hy

end

section
variable {s : State} {jid : U64} {j : Job} {n : Nat} (hon : s.pwr.on = true) (hjob : s.job? jid = some j) (hrun : j.phase = .running)
include hon hjob hrun

theorem exec_queryCommand_none (hq : (j.ingest.filter fun i => i.query)[n]? = none) : exec (.queryCommand jid n) s = .next s := by
  rw [exec, execQueryCommand, s.ran_on _ hon, s.withJob_some _ _ j hjob]
  simp [hrun, hq]

theorem exec_queryCommand_some {q : Ingest} (hq : (j.ingest.filter fun i => i.query)[n]? = some q) : exec (.queryCommand jid n) s =
    .next ((s.unitsOf jid).foldl (State.serveUnit q.bank)
      (s.updJob jid fun i => { i with ingest := q :: i.ingest.erase q, progress := true })) := by
  rw [exec, execQueryCommand, s.ran_on _ hon, s.withJob_some _ _ j hjob]
  dsimp only
  rw [if_neg (by simp [hrun]), hq]
  rfl

/-- A query moves to the front, and the units of the job at a query read its bank. -/
theorem queryCommand_effect {q : Ingest} (hq : (j.ingest.filter fun i => i.query)[n]? = some q) :
    ∃ t i, exec (.queryCommand jid n) s = .next t ∧ t.job? jid = some i ∧ i.ingest = q :: j.ingest.erase q ∧ t.mem = s.mem ∧
      t.queues = s.queues ∧
      ∀ x, (s.unit x).job = some jid → (∃ c, (s.unit x).cmd? = some c ∧ c.bank = .query) → (t.unit x).bankB = q.bank := by
  have hkeeps {P : State → Prop} (hw : Frees P 0x10) {t : State} (ht : P t) : P ((s.unitsOf jid).foldl (State.serveUnit q.bank) t) :=
    Keep.foldl (fun t x => State.serveUnit_keeps q.bank t x hw) ht
  have hmoved := State.job?_updJob_live (f := fun i => { i with ingest := q :: i.ingest.erase q, progress := true }) (fun _ => rfl)
    (fun _ => rfl) hjob
  exact ⟨_, _, exec_queryCommand_some hon hjob hrun hq, hkeeps ((frees_job jid (· = _)).sub rfl) hmoved, rfl,
    hkeeps ((frees_mem (· = s.mem)).sub rfl) rfl, hkeeps ((frees_queues (· = s.queues)).sub rfl) rfl,
    fun x hx ⟨c, hcmd, hbank⟩ => State.serveUnits_bankB q.bank x hcmd hbank (.inl (State.mem_unitsOf hx))⟩

end

/-! ### CARRY_ADD (R354, R355) -/

theorem Job.setBucket_identity (j : Job) (id : Nat) (f : BucketSt → BucketSt) :
    (j.setBucket id f).jid = j.jid ∧ (j.setBucket id f).phase = j.phase := by
  unfold Job.setBucket
  split <;> exact ⟨rfl, rfl⟩

/-- A bucket the job has takes its change. -/
theorem Job.bucket_setBucket {j : Job} {id : Nat} (h : id < j.x.buckets.length) (f : BucketSt → BucketSt) :
    (j.setBucket id f).bucket id = f (j.bucket id) := by
  unfold Job.setBucket Job.bucket
  split
  · next hid => rfl
  · next hid => simp [modAt_eq_modify, h]

/-- The bucket of a carried contribution that has been added owes no more. -/
def Job.carried (j : Job) (id : Nat) : Job :=
  { (j.setBucket id fun q => { q with owes := false, added := true, carry := q.carry + 1, carryC := j.layers.map (·.c) }) with progress := true }

theorem Job.carried_bucket {j : Job} {id : Nat} (h : id < j.x.buckets.length) : (j.carried id).bucket id =
    { j.bucket id with owes := false, added := true, carry := (j.bucket id).carry + 1, carryC := j.layers.map (·.c) } :=
  Job.bucket_setBucket h _

section
variable {s : State} {jid : U64} {j : Job} {bucket : Nat} {b : BSpec} (hon : s.pwr.on = true) (hjob : s.job? jid = some j)
  (hspec : j.spec? bucket = some b)
include hon hjob hspec

theorem exec_carryAdd_not_owed (h : b.norm = true ∨ j.policy ≠ 1 ∨ (j.bucket bucket).owes = false ∨ s.srcComplete j b = false) :
    exec (.carryAdd jid bucket) s = .next s := by
  rw [exec, execCarryAdd, s.ran_on _ hon, s.withJob_some _ _ j hjob, hspec]
  refine congrArg _ (if_pos ?_)
  rcases h with h | h | h | h <;> simp [h]

theorem exec_carryAdd_owed {sv cv : View} {es : List (Nat × FW × Nat)} {s1 : State} (hrun : j.phase = .running) (hnorm : b.norm = false)
    (hpolicy : j.policy = 1) (howes : (j.bucket bucket).owes = true) (hsrc : s.srcComplete j b = true)
    (hsv : bankView j.bin false b.src = some sv) (hcv : bankView j.bin false b.carryTd = some cv)
    (hes : accAll (s.carrySum (whoOf (s.dmxOf jid) j) sv cv ((j.bucket bucket).carry == 0)) (List.range (b.num * 256)) = .ok es)
    (hstore : s.storeView (whoOf (s.dmxOf jid) j) cv (es.flatMap fun e => cv.nthStores e.1 e.2.1.1) = .ok s1) :
    ∃ f ooa, exec (.carryAdd jid bucket) s = .next ((((s1.dmxFlags jid f ooa).updJob jid (·.carried bucket)).accessed
      (whoOf (s.dmxOf jid) j).die).accessed (whoOf (s.dmxOf jid) j).die) := by
  rw [exec, execCarryAdd, s.ran_on _ hon, s.withJob_some _ _ j hjob, hspec]
  dsimp only
  rw [if_neg (by simp [hrun, hnorm, hpolicy, howes, hsrc]), hsv, hcv]
  dsimp only
  rw [State.on_ok hes, State.on_ok hstore]
  exact ⟨_, _, rfl⟩

end

/-- Nothing of a carry's end but the bucket, the flags and the counts is new: what it stored stands. -/
theorem State.carried_keeps {P : State → Prop} (hw : Frees P 0x800200010) (s : State) (jid : U64) (bucket d : Nat) (f : U16) (ooa : Nat)
    (hs : P s) : P ((((s.dmxFlags jid f ooa).updJob jid (·.carried bucket)).accessed d).accessed d) :=
  State.accessed_keeps (hw.sub rfl) _ _ <| State.accessed_keeps (hw.sub rfl) _ _ <|
    State.updJob_keeps (hw.sub rfl) _ _ _ <| State.dmxFlags_keeps (hw.sub rfl) _ _ _ _ hs

end Sys2Proof.Machine

namespace Sys2Proof
open Machine

/-- Settles O31: the query by whether the job has it, the carry by whether the bucket owes one. -/
theorem queryAndCarry : Obligations.query_and_carry := by
  intro jid n s j hon hjob hrun
  refine ⟨fun q hq => queryCommand_effect hon hjob hrun hq, exec_queryCommand_none hon hjob hrun, fun b bucket hspec =>
    ⟨exec_carryAdd_not_owed hon hjob hspec, ?_⟩⟩
  intro sv cv es s1 hnorm hpolicy howes hsrc hsv hcv w hes hstore
  obtain ⟨f, ooa, hexec⟩ := exec_carryAdd_owed hon hjob hspec hrun hnorm hpolicy howes hsrc hsv hcv hes hstore
  have hstored {P : State → Prop} (hw : Frees P 0xc0e00000e) (hs : P s) : P s1 :=
    AccAll.getId (State.storeView_keeps hw s _ _ _ hs) hstore
  have hlive : (s1.dmxFlags jid f ooa).job? jid = some j :=
    State.dmxFlags_keeps ((frees_job jid (· = some j)).sub rfl) _ _ _ _ (hstored ((frees_job jid (· = some j)).sub rfl) hjob)
  refine ⟨_, _, hexec, State.carried_keeps ((frees_mem (· = s1.mem)).sub rfl) _ _ _ _ _ _ rfl,
    State.job?_updJob_live (fun i => (i.setBucket_identity _ _).1) (fun i => (i.setBucket_identity _ _).2) hlive,
    State.carried_keeps ((frees_syncs (· = s.syncs)).sub rfl) _ _ _ _ _ _ (hstored ((frees_syncs (· = s.syncs)).sub rfl) rfl),
    State.carried_keeps ((frees_queues (· = s.queues)).sub rfl) _ _ _ _ _ _ (hstored ((frees_queues (· = s.queues)).sub rfl) rfl),
    fun hb => ?_⟩
  rw [Job.carried_bucket hb]
  exact ⟨rfl, rfl, rfl⟩

end Sys2Proof
end

section
/-! PROOF. Packets with hops left go on from port to port (R335 to R339, R349, R359); O32. -/

namespace Sys2Proof.Machine

/-! ### Fields of a header -/

theorem getLsbD_putField {n : Nat} (w : BitVec n) (lo len v i : Nat) :
    (putField w lo len v).getLsbD i = if lo ≤ i ∧ i < lo + len then decide (i < n) && v.testBit (i - lo) else w.getLsbD i := by
  have hput : (BitVec.ofNat n ((v % 2 ^ len) <<< lo)).getLsbD i =
      (decide (i < n) && decide (lo ≤ i) && decide (i < lo + len) && v.testBit (i - lo)) := by
    by_cases hlo : lo ≤ i
    · have hlen : i - lo < len ↔ i < lo + len := by omega
      simp [BitVec.getLsbD_ofNat, Nat.testBit_shiftLeft, Nat.testBit_mod_two_pow, hlo, hlen, Bool.and_assoc]
    · simp [BitVec.getLsbD_ofNat, Nat.testBit_shiftLeft, hlo]
  have hmask : (BitVec.ofNat n ((2 ^ len - 1) <<< lo)).getLsbD i = (decide (i < n) && decide (lo ≤ i) && decide (i < lo + len)) := by
    by_cases hlo : lo ≤ i
    · have hlen : i - lo < len ↔ i < lo + len := by omega
      simp [BitVec.getLsbD_ofNat, Nat.testBit_shiftLeft, Nat.testBit_two_pow_sub_one, hlo, hlen]
    · simp [BitVec.getLsbD_ofNat, Nat.testBit_shiftLeft, hlo]
  rw [putField, BitVec.getLsbD_or, BitVec.getLsbD_and, BitVec.getLsbD_not, hput, hmask]
  by_cases hn : i < n
  · by_cases hin : lo ≤ i ∧ i < lo + len
    · simp [hn, hin]
    · rw [if_neg hin]
      rcases not_and_or.mp hin with h | h <;> simp [hn, h]
  · simp [hn, BitVec.getLsbD_of_ge _ _ (Nat.le_of_not_lt hn)]

theorem testBit_bits {n : Nat} (w : BitVec n) (lo len i : Nat) : (bits w lo len).testBit i = (decide (i < len) && w.getLsbD (lo + i)) := by
  rw [bits, Nat.testBit_mod_two_pow, Nat.testBit_shiftRight, BitVec.getLsbD]

/-- The field written. -/
theorem bits_putField_self {n : Nat} (w : BitVec n) {lo len : Nat} (h : lo + len ≤ n) (v : Nat) :
    bits (putField w lo len v) lo len = v % 2 ^ len := by
  refine Nat.eq_of_testBit_eq fun i => ?_
  rw [testBit_bits, getLsbD_putField, Nat.testBit_mod_two_pow]
  by_cases hi : i < len
  · rw [if_pos (by omega), decide_eq_true (by omega : lo + i < n), Nat.add_sub_cancel_left, Bool.true_and]
  · simp [hi]

/-- A field beside the one written. -/
theorem bits_putField_other {n : Nat} (w : BitVec n) {lo len lo' len' : Nat} (h : lo' + len' ≤ lo ∨ lo + len ≤ lo') (v : Nat) :
    bits (putField w lo len v) lo' len' = bits w lo' len' := by
  refine Nat.eq_of_testBit_eq fun i => ?_
  rw [testBit_bits, testBit_bits, getLsbD_putField]
  by_cases hi : i < len'
  · rw [if_neg (by omega)]
  · simp [hi]

/-! ### A packet on its way -/

section
variable (k : Packet)

/-- Of the fields below bit 120, arriving writes the hops left alone (R336). -/
theorem Packet.bits_arrive {lo len : Nat} (h : lo + len ≤ 120) : bits k.arrive.hdr lo len = bits (putField k.hdr 11 5 (k.left - 1)) lo len := by
  unfold Packet.arrive
  dsimp only
  split
  · rfl
  · exact bits_putField_other _ (.inl h) _

theorem Packet.arrive_left : k.arrive.left = k.left - 1 := by
  have hlt : k.left < 2 ^ 5 := bits_lt k.hdr 11 5
  rw [Packet.left, k.bits_arrive (by decide), bits_putField_self _ (by decide), Nat.mod_eq_of_lt (by omega)]

theorem Packet.arrive_kind : k.arrive.kind = k.kind := by
  rw [Packet.kind, k.bits_arrive (by decide), bits_putField_other _ (.inl (by decide)), Packet.kind]

theorem Packet.arrive_hops (h : k.kind ≠ 4) : k.arrive.hops = (k.hops + 1) % 32 := by
  rw [Packet.arrive, if_neg h]
  exact bits_putField_self _ (by decide) _

theorem Packet.corkInto_left (c : CorkVal) : (corkInto k c).left = k.left := by
  unfold corkInto Packet.left
  dsimp only
  rw [bits_putField_other _ (.inl (by decide)), bits_putField_other _ (.inl (by decide)), bits_putField_other _ (.inl (by decide))]

/-- The adder leaves the hops (R349). -/
theorem State.combine_left (s : State) (j : Job) (o : Operand) : (s.combine j k o).left = k.left := by
  unfold State.combine Packet.left
  dsimp only
  rw [bits_putField_other _ (.inl (by decide)), bits_putField_other _ (.inl (by decide)), bits_putField_other _ (.inl (by decide)),
    bits_putField_other _ (.inl (by decide))]

end

theorem opposite_ne (p : Nat) : opposite p ≠ p := by
  unfold opposite
  split <;> omega

theorem State.port_updPort_self (s : State) (p : Nat) (f : NlPort → NlPort) : (s.updPort p f).port p = f (s.port p) :=
  State.port_setPort_self s p _

/-! ### Going on -/

section
variable {P : State → Prop} {s : State} {p : Nat} {pk : Packet}

/-- A link die's trace record of a packet is counted at no unit (R436, R445). -/
theorem State.tracePacket_inv (hw : Frees P 0x400000000) (jid : U64) (k : Packet) (hs : P s) : P (s.tracePacket jid p k) := by
  have hdie : ¬ 28 + p % 2 < 24 := by omega
  unfold State.tracePacket State.traceEv State.tracePut
  dsimp only
  split
  · rw [if_neg (by simp [hdie])]
    exact hw.free 34 rfl s _ hs
  · exact hs

variable (hup : (s.port (opposite p)).st = 2)
include hup

/-- With the opposite port UP, going on is standing in that port's line; counts and a trace record aside. -/
theorem State.forward_up (hw : Frees P 0x400000000) (hs : P (s.enqueue (opposite p) pk)) : P (s.forward p pk) := by
  have hsent : P ((s.cntAdd (0x11000 + p % 2 * 0x20) pk.flits.length).sendPacket (opposite p) pk) := by
    rw [State.sendPacket, if_pos (by simpa [State.port] using hup)]
    exact State.cntAdd_keeps hw (s.enqueue (opposite p) pk) _ _ hs
  unfold State.forward
  dsimp only
  split
  · exact State.tracePacket_inv hw _ _ hsent
  · exact hsent

theorem State.stalePacket_up (hw : Frees P 0x400000000) (hleft : 0 < pk.left) (hs : P (s.enqueue (opposite p) pk)) : P (s.stalePacket p pk) := by
  rw [State.stalePacket, if_pos hleft]
  exact State.forward_up hup hw hs

theorem State.passOn_up (hw : Frees P 0x400200000) (hs : P (s.enqueue (opposite p) pk)) : P (s.passOn p pk) := by
  unfold State.passOn
  split
  · exact State.forward_up hup (hw.sub rfl) (State.stepPlan_keeps (hw.sub rfl) (s.enqueue (opposite p) pk) _ _ _ _ hs)
  · exact State.forward_up hup (hw.sub rfl) hs

end

/-- What becomes of packet `k0` of port `p` when it leaves by the opposite port as `pk` (R336, R338). -/
def State.Sent (s : State) (p : Nat) (k0 pk : Packet) (t : State) : Prop :=
  (t.port p).pkts = (s.port p).pkts.erase k0 ∧
  (t.port p).freed = (if (s.port p).since ≤ k0.stamp then modAt (s.port p).freed (vcOf k0.kind) (· + k0.entries) else (s.port p).freed) ∧
  (t.port (opposite p)).tx = modAt (s.port (opposite p)).tx (vcOf pk.kind) (· ++ pk.flits) ∧ t.mem = s.mem ∧ t.units = s.units ∧ t.syncs = s.syncs

theorem State.frees_sent (s : State) (p : Nat) (k0 pk : Packet) : Frees (s.Sent p k0 pk) 0x3FFFF7FFF6D :=
  ((frees_ports fun l => (tabGet NlPort.reset l p).pkts = _).sub rfl).and <|
  ((frees_ports fun l => (tabGet NlPort.reset l p).freed = _).sub rfl).and <|
  ((frees_ports fun l => (tabGet NlPort.reset l (opposite p)).tx = _).sub rfl).and <|
  ((frees_mem (· = s.mem)).sub rfl).and <| ((frees_units (· = s.units)).sub rfl).and ((frees_syncs (· = s.syncs)).sub rfl)

section
variable {s : State} {p : Nat} (k0 pk : Packet)

theorem State.takePkt_port (r : Nat) : (s.takePkt p k0).port r = if r = p
    then { s.port p with
      pkts := (s.port p).pkts.erase k0
      freed := if (s.port p).since ≤ k0.stamp then modAt (s.port p).freed (vcOf k0.kind) (· + k0.entries) else (s.port p).freed }
    else s.port r := State.port_updPort _ _ _ _

theorem State.takePkt_pkts : ((s.takePkt p k0).port p).pkts = (s.port p).pkts.erase k0 := by
  rw [State.takePkt_port, if_pos rfl]

theorem State.takePkt_opposite : (s.takePkt p k0).port (opposite p) = s.port (opposite p) := by
  rw [State.takePkt_port, if_neg (opposite_ne p)]

theorem State.takePkt_enqueue_sent : s.Sent p k0 pk ((s.takePkt p k0).enqueue (opposite p) pk) := by
  have hp : ((s.takePkt p k0).enqueue (opposite p) pk).port p = (s.takePkt p k0).port p := by
    rw [State.enqueue, State.port_updPort, if_neg (opposite_ne p).symm]
  refine ⟨?_, ?_, ?_, rfl, rfl, rfl⟩
  · rw [hp, State.takePkt_port, if_pos rfl]
  · rw [hp, State.takePkt_port, if_pos rfl]
  · rw [State.enqueue, State.port_updPort_self, State.takePkt_opposite]

end

/-! ### The commands -/

section
variable {s : State} {p : Fin 6} {k0 : Packet} (hon : s.pwr.on = true)
include hon

theorem exec_halo_goes_on (hhead : (s.port p.val).headPkt 1 = some k0) (hleft : 0 < k0.arrive.left) :
    exec (.halo p) s = .next ((s.takePkt p.val k0).forward p.val k0.arrive) := by
  rw [exec, execHalo, s.ran_on _ hon, hhead]
  dsimp only
  split
  · rw [State.stalePacket, if_pos hleft]
  · rw [if_pos hleft]

theorem exec_linkDown_goes_on (hhead : (s.port p.val).headPkt 2 = some k0) (hkind : k0.kind = 5) (hleft : 0 < k0.arrive.left) :
    exec (.linkDown p) s = .next ((s.takePkt p.val k0).forward p.val k0.arrive) := by
  rw [exec, execLinkDown, s.ran_on _ hon, hhead]
  dsimp only
  rw [if_neg (by simp [hkind])]
  split
  · rw [State.stalePacket, if_pos hleft]
  · rw [if_pos hleft]

theorem exec_corkPacket_in_phase {j : Job} {c : CorkVal} (hhead : (s.port p.val).headPkt 2 = some k0) (hkind : k0.kind = 4)
    (hjob : s.packetJob k0.arrive = some j) (hcork : j.x.cork = some c)
    (hphase : (j.dims.findIdx? fun d => d == k0.arrive.dim) = some j.x.corkPhase) :
    exec (.corkPacket p) s = .next (if s.waitsTurn p.val k0.arrive then s
      else if 0 < k0.arrive.left then (s.takePkt p.val k0).passOn p.val (corkInto k0.arrive ((corkOfPacket k0.arrive).join c))
      else (s.takePkt p.val k0).deliverCork j k0.arrive) := by
  rw [exec, execCorkPacket, s.ran_on _ hon, hhead]
  dsimp only
  rw [if_neg (by simp [hkind]), hjob]
  dsimp only
  rw [hcork]
  dsimp only
  rw [hphase, Option.getD_some, if_neg (by omega), if_neg (by simp)]

section
variable (hhead : (s.port p.val).headPkt 0 = some k0) (hheld : s.heldAt p.val = none)
include hhead hheld

theorem exec_spread_stale (hkind : k0.kind = 2) (hjob : s.packetJob k0.arrive = none) :
    exec (.spread p) s = .next ((s.takePkt p.val k0).stalePacket p.val k0.arrive) := by
  rw [exec, execSpread, s.ran_on _ hon, hhead, hheld]
  dsimp only
  rw [if_neg (by simp [hkind]), hjob]

theorem exec_reduce_stale (hkind : k0.kind = 1) (hjob : s.packetJob k0.arrive = none) :
    exec (.reduce p) s = .next ((s.takePkt p.val k0).stalePacket p.val k0.arrive) := by
  rw [exec, execReduce, s.ran_on _ hon, hhead, hheld]
  dsimp only
  rw [if_neg (by simp [hkind]), hjob]

variable {j : Job} {b : BSpec} (hjob : s.packetJob k0.arrive = some j) (hspec : j.spec? k0.arrive.bucket = some b)
include hjob hspec

/-- `s2` is the state after the copy that goes on, where one does. -/
theorem exec_spread_of_job (hkind : k0.kind = 2) {s2 : State}
    (hs2 : (if 0 < k0.arrive.left then (s.takePkt p.val k0).passOn p.val k0.arrive else s.takePkt p.val k0) = s2) :
    exec (.spread p) s = .next (if s.waitsTurn p.val k0.arrive then s
      else if s.stoppedToPeers j then s2.stoppedDelivery p.val else s2.deliverBlocks j p.val b k0.arrive.dim true k0.arrive) := by
  rw [exec, execSpread, s.ran_on _ hon, hhead, hheld]
  dsimp only
  rw [if_neg (by simp [hkind]), hjob]
  dsimp only
  rw [hspec]
  dsimp only
  rw [hs2]

/-- A REDUCE packet whose operand is not in the contribution buffer is held at the adder (R348). -/
theorem exec_reduce_of_job (hkind : k0.kind = 1) :
    exec (.reduce p) s = .next ((j.bufferOf p.val k0.arrive).elim
      (s.updPort p.val fun q => { q with pkts := q.pkts.erase k0, held := some k0.arrive })
      fun o => if s.waitsTurn p.val k0.arrive then s else ((s.takePkt p.val k0).dropOperand j.jid o).reduceWith p.val j b k0.arrive o) := by
  rw [exec, execReduce, s.ran_on _ hon, hhead, hheld]
  dsimp only
  rw [if_neg (by simp [hkind]), hjob]
  dsimp only
  rw [hspec]
  cases j.bufferOf p.val k0.arrive <;> rfl

end
end

/-- A REDUCE packet with hops left goes on with its operand. -/
theorem State.reduceWith_left {k : Packet} (hleft : 0 < k.left) (s : State) (p : Nat) (j : Job) (b : BSpec) (o : Operand) :
    s.reduceWith p j b k o = s.passOn p (s.combine j k o) :=
  if_pos (by rwa [State.combine_left])

section
variable {s : State} {p : Nat} {k0 : Packet} (hup : (s.port (opposite p)).st = 2) (pk : Packet)
include hup

theorem State.takePkt_forward_sent : s.Sent p k0 pk ((s.takePkt p k0).forward p pk) ∧ ((s.takePkt p k0).forward p pk).jobs = s.jobs :=
  have hup' : ((s.takePkt p k0).port (opposite p)).st = 2 := by rwa [State.takePkt_opposite]
  ⟨State.forward_up hup' ((s.frees_sent p k0 pk).sub rfl) (State.takePkt_enqueue_sent k0 pk),
    State.forward_up hup' ((frees_jobs (· = s.jobs)).sub rfl) rfl⟩

theorem State.takePkt_passOn_sent : s.Sent p k0 pk ((s.takePkt p k0).passOn p pk) :=
  State.passOn_up (by rwa [State.takePkt_opposite]) ((s.frees_sent p k0 pk).sub rfl) (State.takePkt_enqueue_sent k0 pk)

/-- A REDUCE packet whose operand lay in the contribution buffer leaves with it. -/
theorem State.takePkt_reduceWith_sent {k : Packet} (hleft : 0 < k.left) (j : Job) (b : BSpec) (o : Operand) :
    s.Sent p k0 (s.combine j k o) (((s.takePkt p k0).dropOperand j.jid o).reduceWith p j b k o) := by
  rw [State.reduceWith_left hleft]
  refine State.passOn_up (pk := s.combine j k o) ?_ ((s.frees_sent p k0 _).sub rfl) ?_
  · exact (congrArg NlPort.st (State.takePkt_opposite k0)).trans hup
  · exact State.dropOperand_keeps ((s.frees_sent p k0 _).sub rfl) _ _ _ (State.takePkt_enqueue_sent k0 _)

end

end Sys2Proof.Machine

namespace Sys2Proof
open Machine

/-- Settles O32: every kind of packet takes its place in the opposite port's line; what a meaning does besides leaves ports, memory, units and
sync objects. -/
theorem packetsGoOn : Obligations.packets_go_on := by
  intro p k0 s hon hup k sent
  refine ⟨k0.arrive_left, k0.arrive_hops, rfl, k0.arrive_kind, fun hleft => ⟨fun hhead => ?_, fun hhead hkind => ?_,
    fun hhead hheld hjob => ⟨fun hkind => ?_, fun hkind => ?_⟩, fun j hjob => ⟨fun b hhead hheld hkind hspec => ?_,
      fun c hhead hkind hcork hphase => ?_, fun b o hhead hheld hkind hspec hbuf => ?_⟩⟩⟩
  · exact ⟨_, exec_halo_goes_on hon hhead hleft, State.takePkt_forward_sent hup k⟩
  · exact ⟨_, exec_linkDown_goes_on hon hhead hkind hleft, State.takePkt_forward_sent hup k⟩
  · exact ⟨_, (exec_spread_stale hon hhead hheld hkind hjob).trans (congrArg _ (if_pos hleft)), State.takePkt_forward_sent hup k⟩
  · exact ⟨_, (exec_reduce_stale hon hhead hheld hkind hjob).trans (congrArg _ (if_pos hleft)), State.takePkt_forward_sent hup k⟩
  · have hexec := exec_spread_of_job hon hhead hheld hjob hspec hkind (if_pos hleft)
    refine ⟨fun hwait => hexec.trans (congrArg _ (if_pos hwait)), fun hturn hstop => ?_⟩
    rw [if_neg (ne_true_of_eq_false hturn), if_pos hstop] at hexec
    exact ⟨_, hexec, State.stoppedDelivery_keeps ((s.frees_sent p.val k0 k).sub rfl) _ _ (State.takePkt_passOn_sent hup k)⟩
  · have hexec := exec_corkPacket_in_phase hon hhead hkind hjob hcork hphase
    refine ⟨fun hwait => hexec.trans (congrArg _ (if_pos hwait)), fun hturn => ?_⟩
    rw [if_neg (ne_true_of_eq_false hturn), if_pos hleft] at hexec
    exact ⟨_, hexec, State.takePkt_passOn_sent hup _⟩
  · have hexec := exec_reduce_of_job hon hhead hheld hjob hspec hkind
    rw [hbuf, Option.elim_some] at hexec
    refine ⟨fun hwait => hexec.trans (congrArg _ (if_pos hwait)), fun hturn => ?_⟩
    exact ⟨_, hexec.trans (congrArg _ (if_neg (ne_true_of_eq_false hturn))), State.takePkt_reduceWith_sent hup hleft j b o⟩

end Sys2Proof
end

section
/-! PROOF. The adder: a REDUCE packet held for its operand, and operands placed ahead (R348, R349); O33. -/

namespace Sys2Proof.Machine

/-! ### A held packet leaves -/

/-- A packet held at port `p` has left the adder for the opposite port's line as `pk`. -/
def State.LetGo (s : State) (p : Nat) (pk : Packet) (t : State) : Prop :=
  (t.port p).held = none ∧ (t.port (opposite p)).tx = modAt (s.port (opposite p)).tx (vcOf pk.kind) (· ++ pk.flits) ∧ t.mem = s.mem

theorem State.frees_letGo (s : State) (p : Nat) (pk : Packet) : Frees (s.LetGo p pk) 0x3FFFF7FFFFD :=
  ((frees_ports fun l => (tabGet NlPort.reset l p).held = none).sub rfl).and <|
  ((frees_ports fun l => (tabGet NlPort.reset l (opposite p)).tx = _).sub rfl).and ((frees_mem (· = s.mem)).sub rfl)

section
variable {s : State} {p : Nat} (k pk : Packet)

theorem State.freeHeld_opposite : (s.freeHeld p k).port (opposite p) = s.port (opposite p) := by
  rw [State.freeHeld, State.port_updPort, if_neg (opposite_ne p)]

/-- What happens between the adder and the line leaves ports and memory. -/
theorem State.enqueue_letGo {t : State} (hports : t.ports = (s.freeHeld p k).ports) (hmem : t.mem = s.mem) :
    s.LetGo p pk (t.enqueue (opposite p) pk) := by
  have hport (r : Nat) : t.port r = (s.freeHeld p k).port r := congrArg (tabGet NlPort.reset · r) hports
  refine ⟨?_, ?_, hmem⟩
  · rw [State.enqueue, State.port_updPort, if_neg (opposite_ne p).symm, hport, State.freeHeld, State.port_updPort_self]
  · rw [State.enqueue, State.port_updPort_self, hport, State.freeHeld_opposite]

variable (hup : (s.port (opposite p)).st = 2)
include hup

/-- A packet of no job here, or of another period, goes on without an operand (R337). -/
theorem State.freeHeld_stalePacket_letGo (hleft : 0 < k.left) :
    s.LetGo p k ((s.freeHeld p k).stalePacket p k) ∧ ((s.freeHeld p k).stalePacket p k).jobs = s.jobs :=
  have hup' : ((s.freeHeld p k).port (opposite p)).st = 2 := by rwa [State.freeHeld_opposite]
  ⟨State.stalePacket_up hup' ((s.frees_letGo p k).sub rfl) hleft (State.enqueue_letGo k k rfl rfl),
    State.stalePacket_up hup' ((frees_jobs (· = s.jobs)).sub rfl) hleft rfl⟩

/-- The packet leaves with the operand just formed. -/
theorem State.freeHeld_reduceWith_letGo (hleft : 0 < k.left) (j : Job) (b : BSpec) (o : Formed) :
    s.LetGo p (s.combine j k o.op) (((s.freeHeld p k).dmxFlags j.jid o.flags o.ooa).reduceWith p j b k o.op) := by
  have hkeeps {P : State → Prop} (hw : Frees P 0x10) (hs : P (s.freeHeld p k)) : P ((s.freeHeld p k).dmxFlags j.jid o.flags o.ooa) :=
    State.dmxFlags_keeps hw _ _ _ _ hs
  have hcombine : ((s.freeHeld p k).dmxFlags j.jid o.flags o.ooa).combine j k o.op = s.combine j k o.op :=
    hkeeps ((frees_torus fun v => (State.combine { s with torus := v } j k o.op) = s.combine j k o.op).sub rfl) rfl
  rw [State.reduceWith_left hleft, hcombine]
  refine State.passOn_up ?_ ((s.frees_letGo p _).sub rfl) ?_
  · exact hkeeps ((frees_ports fun l => (tabGet NlPort.reset l (opposite p)).st = 2).sub rfl)
      ((congrArg NlPort.st (State.freeHeld_opposite k)).trans hup)
  · exact State.enqueue_letGo k _ (hkeeps ((frees_ports (· = (s.freeHeld p k).ports)).sub rfl) rfl)
      (hkeeps ((frees_mem (· = s.mem)).sub rfl) rfl)

end

/-! ### An operand placed ahead -/

/-- An operand joins the contribution buffers. -/
def Job.withOperand (o : Operand) (j : Job) : Job := { j with x := { j.x with opnds := j.x.opnds ++ [o] } }

/-! ### The command -/

section
variable {s : State} {p : Fin 6} {k : Packet} (hon : s.pwr.on = true)
include hon

theorem exec_adderOperandReady_empty (hheld : s.heldAt p.val = none) (hhead : (s.port p.val).headPkt 0 = none) :
    exec (.adderOperandReady p) s = .next s := by
  rw [exec, execAdderOperandReady, s.ran_on _ hon, hheld]
  dsimp only
  rw [hhead]

theorem exec_adderOperandReady_stale (hheld : s.heldAt p.val = some k) (hjob : s.packetJob k = none) :
    exec (.adderOperandReady p) s = .next ((s.freeHeld p.val k).stalePacket p.val k) := by
  rw [exec, execAdderOperandReady, s.ran_on _ hon, hheld]
  dsimp only
  rw [hjob]

variable {j : Job} {b : BSpec} (hjob : s.packetJob k = some j) (hspec : j.spec? k.bucket = some b)
include hjob hspec

/-- The packet held waits for its operand, and for its turn (R339, R348). -/
theorem exec_adderOperandReady_held (hheld : s.heldAt p.val = some k) :
    exec (.adderOperandReady p) s = .next ((s.operand j p.val b k.dim k.first k.nblk).elim s fun a =>
      if s.waitsTurn p.val k then s
      else s.on (whoOf (s.dmxOf j.jid) j) a fun o => ((s.freeHeld p.val k).dmxFlags j.jid o.flags o.ooa).reduceWith p.val j b k o.op) := by
  rw [exec, execAdderOperandReady, s.ran_on _ hon, hheld]
  dsimp only
  rw [hjob]
  dsimp only
  rw [hspec]
  dsimp only
  cases s.operand j p.val b k.dim k.first k.nblk <;> rfl

/-- With none held, the packet that waits has its operand placed ahead. -/
theorem exec_adderOperandReady_waiting (hheld : s.heldAt p.val = none) (hhead : (s.port p.val).headPkt 0 = some k) :
    exec (.adderOperandReady p) s = .next
      (if k.kind ≠ 1 ∨ (j.bufferOf p.val k).isSome ∨ 2 ^ 20 < bufferBytes j p.val + k.nblk * (if j.isGxi b then 1024 else 256) then s
        else (s.operand j p.val b k.dim k.first k.nblk).elim s fun a =>
          s.on (whoOf (s.dmxOf j.jid) j) a fun o => (s.updJob j.jid (Job.withOperand o.op)).dmxFlags j.jid o.flags o.ooa) := by
  rw [exec, execAdderOperandReady, s.ran_on _ hon, hheld]
  dsimp only
  rw [hhead]
  dsimp only
  rw [hjob]
  dsimp only
  rw [hspec]
  dsimp only
  refine congrArg _ (ite_congr (by simp [or_assoc]) (fun _ => rfl) fun _ => ?_)
  cases s.operand j p.val b k.dim k.first k.nblk <;> rfl

end

end Sys2Proof.Machine

namespace Sys2Proof
open Machine

/-- Settles O33, by what stands at the adder: nothing, a packet held, a packet that waits before it. -/
theorem adderHoldsAndGoesOn : Obligations.adder_holds_and_goes_on := by
  intro p k s hon
  refine ⟨fun hheld hjob hleft hup => ?_, exec_adderOperandReady_empty hon, fun j b hjob hlive hspec => ⟨?_, ?_, ?_⟩⟩
  · obtain ⟨⟨hnone, htx, hmem⟩, hjobs⟩ := State.freeHeld_stalePacket_letGo k hup hleft
    exact ⟨_, exec_adderOperandReady_stale hon hheld hjob, hnone, hmem, hjobs, htx⟩
  · rintro k0 hhead hkind rfl hheld hbuf
    have hexec := exec_reduce_of_job hon hhead hheld hjob hspec hkind
    rw [hbuf, Option.elim_none] at hexec
    have hport := State.port_updPort_self s p.val fun q => { q with pkts := q.pkts.erase k0, held := some k0.arrive }
    exact ⟨_, hexec, by rw [hport], by rw [hport], rfl, rfl⟩
  · intro hheld hhead
    have hexec := exec_adderOperandReady_waiting hon hjob hspec hheld hhead
    refine ⟨fun h => hexec.trans (congrArg _ ?_), fun o hkind hbuf hfull hoperand => ?_⟩
    · rw [ite_eq_left_iff]
      intro hnot
      have hnone : s.operand j p.val b k.dim k.first k.nblk = none := by tauto
      rw [hnone, Option.elim_none]
    · have hplaceable : ¬ (k.kind ≠ 1 ∨ (j.bufferOf p.val k).isSome ∨
          2 ^ 20 < bufferBytes j p.val + k.nblk * (if j.isGxi b then 1024 else 256)) := by
        rw [hbuf]
        exact not_or.mpr ⟨not_not.mpr hkind, not_or.mpr ⟨Bool.false_ne_true, hfull⟩⟩
      rw [if_neg hplaceable, hoperand, Option.elim_some, State.on_ok rfl] at hexec
      have hplaced {P : State → Prop} (hw : Frees P 0x800000010) (hs : P (s.updJob j.jid (Job.withOperand o.op))) :
          P (((s.updJob j.jid (Job.withOperand o.op)).dmxFlags j.jid o.flags o.ooa).accessed (whoOf (s.dmxOf j.jid) j).die) :=
        State.accessed_keeps (hw.sub rfl) _ _ (State.dmxFlags_keeps (hw.sub rfl) _ _ _ _ hs)
      exact ⟨_, j.withOperand o.op, hexec, hplaced ((frees_job j.jid (· = _)).sub rfl)
        (State.job?_updJob_live (f := Job.withOperand o.op) (fun _ => rfl) (fun _ => rfl) hlive), rfl,
        hplaced ((frees_ports (· = s.ports)).sub rfl) rfl, hplaced ((frees_mem (· = s.mem)).sub rfl) rfl⟩
  · intro hheld
    have hexec := exec_adderOperandReady_held hon hjob hspec hheld
    refine ⟨fun h => hexec.trans (congrArg _ ?_), fun o hleft hup hturn hoperand => ?_⟩
    · rcases h with h | h
      · rw [h, Option.elim_none]
      · cases s.operand j p.val b k.dim k.first k.nblk with
        | none => rfl
        | some a => exact if_pos h
    · rw [hoperand, Option.elim_some, if_neg (ne_true_of_eq_false hturn), State.on_ok rfl] at hexec
      obtain ⟨hnone, htx, hmem⟩ := State.accessed_keeps ((s.frees_letGo p.val _).sub rfl) _ (whoOf (s.dmxOf j.jid) j).die
        (State.freeHeld_reduceWith_letGo k hup hleft j b o)
      exact ⟨_, hexec, hmem, hnone, htx⟩

end Sys2Proof
end

section
/-! PROOF. Packets at their last hop are delivered (R347, R357, R359, R363, R365, R366); O34. -/

namespace Sys2Proof.Machine

/-- No packet waits for a turn at its last hop (R339). -/
theorem State.waitsTurn_last {k : Packet} (hlast : k.left = 0) (s : State) (p : Nat) : s.waitsTurn p k = false := by
  rw [State.waitsTurn, hlast]
  rfl

/-- A bucket the job has, or the norm vector, takes its change. -/
theorem Job.bucket_setBucket_of {j : Job} {id : Nat} (h : id = 4095 ∨ id < j.x.buckets.length) (f : BucketSt → BucketSt) :
    (j.setBucket id f).bucket id = f (j.bucket id) := by
  rcases h with rfl | h
  · rfl
  · exact Job.bucket_setBucket h f

/-! ### Blocks (R347, R357) -/

/-- The part a packet of a phase brings. -/
def partOf (dim : Nat) (spread : Bool) (pk : Packet) : Part :=
  { dim := dim, spread := spread, first := pk.first, n := pk.nblk, count := pk.count, nf := pk.nf, sat := pk.sat, nfMin := pk.nfMin }

/-- A bucket of a job with one part more. -/
def Job.withPart (id : Nat) (part : Part) (j : Job) : Job :=
  { j.setBucket id fun q => { q with parts := q.parts ++ [part] } with progress := true }

theorem Job.withPart_bucket {j : Job} {id : Nat} (h : id = 4095 ∨ id < j.x.buckets.length) (part : Part) :
    (j.withPart id part).bucket id = { j.bucket id with parts := (j.bucket id).parts ++ [part] } :=
  Job.bucket_setBucket_of h _

section
variable {s : State} {j : Job} {p : Nat} {b : BSpec} {dim : Nat} {spread : Bool} {pk : Packet}

/-- Blocks that come too late, or twice, are not used. -/
theorem State.deliverBlocks_unused (h : j.pastDeadline b pk.stamp = true ∨ j.x.cork.isSome = true ∨ j.x.result.isSome = true) :
    s.deliverBlocks j p b dim spread pk = s := by
  refine if_pos ?_
  rcases h with h | h | h <;> simp [h]

/-- The bytes stand in memory, the part with its bucket; the trace and a recording beside. -/
theorem State.deliverBlocks_used {s1 : State} (hcork : j.x.cork = none) (hresult : j.x.result = none) (hdue : j.pastDeadline b pk.stamp = false)
    (hnew : ((j.bucket b.id).parts.any fun q => q.dim == dim && q.spread == spread && q.first == pk.first) = false)
    (hstored : (spread = false ∨ j.dims.head? ≠ some dim) ∧ (∃ v, bankView j.bin false b.stage = some v ∧
        s.storeView (linkWho j p) v (stageStores j b v (pk.fmt == 1) pk.first pk.blocks pk.scaleAt) = .ok s1) ∨
      spread = true ∧ j.dims.head? = some dim ∧
        s.storeParts (linkWho j p) (finalStores j b (pk.fmt == 1) pk.first pk.blocks pk.scaleAt) = .ok s1) :
    ∃ words data, s.deliverBlocks j p b dim spread pk =
      ((s1.updJob j.jid (Job.withPart b.id (partOf dim spread pk))).tracePacket j.jid p pk).record j.jid 0x05 words data := by
  unfold State.deliverBlocks
  dsimp only
  rw [if_neg (by simp [hcork, hresult, hdue, hnew])]
  rcases hstored with ⟨hphase, v, hview, hstore⟩ | ⟨rfl, hfinal, hstore⟩
  · rw [if_neg (by rcases hphase with h | h <;> simp [h]), hview]
    dsimp only
    rw [hstore]
    exact ⟨_, _, rfl⟩
  · rw [if_pos (by simp [hfinal]), hstore]
    exact ⟨_, _, rfl⟩

end

/-! ### HALO bytes (R363) -/

/-- A record and a trace of a packet after a change of the job leave what the change left. -/
theorem State.logged_inv {P : State → Prop} (hw : Frees P 0x400000000) {t : State} {p : Nat} (jid : U64) (k : Packet) (kind : Nat) (words : List Nat)
    (data : List Byte) (hs : P t) : P ((t.tracePacket jid p k).record jid kind words data) :=
  State.record_keeps hw _ _ _ _ _ (State.tracePacket_inv hw jid k hs)

section
variable {s s1 : State} {j : Job} {p : Nat} {k : Packet} {x : ExchSec} {h : HaloEntry} {v : View} (hexch : j.bin.exch = some x)
  (hhandle : (x.halo.find? fun h => h.handle.toNat == bits k.hdr 96 16) = some h)
  (hrange : bits k.hdr 128 32 + bits k.hdr 160 16 ≤ h.len) (hview : bankView j.bin false h.td = some v)
  (hstore : s.storeView (linkWho j p) v (v.haloStores (v.base + h.off + bits k.hdr 128 32) (k.data.take (bits k.hdr 160 16))) = .ok s1)
include hexch hhandle hrange hview hstore

theorem State.deliverHalo_stored : ∃ words data, s.deliverHalo j p k =
    let s3 := ((s1.updJob j.jid fun j => { j with progress := true }).tracePacket j.jid p k).record j.jid 0x05 words data
    if bit k.hdr 176 then s3.moduleSignal j (28 + p % 2) h.sid else s3 := by
  unfold State.deliverHalo
  dsimp only
  rw [hexch, Option.bind_some, hhandle]
  dsimp only
  rw [if_neg (Nat.not_lt.mpr hrange), hview]
  dsimp only
  rw [hstore]
  exact ⟨_, _, rfl⟩

/-- A packet that is not its region's last SIGNALs nothing. -/
theorem State.deliverHalo_unfinal_inv {P : State → Prop} (hw : Frees P 0x400200000) (hfinal : bit k.hdr 176 = false) (hs : P s1) :
    P (s.deliverHalo j p k) := by
  obtain ⟨words, data, hdeliver⟩ := State.deliverHalo_stored hexch hhandle hrange hview hstore
  rw [hdeliver]
  dsimp only
  rw [if_neg (ne_true_of_eq_false hfinal)]
  exact State.logged_inv (hw.sub rfl) _ _ _ _ _ (State.updJob_keeps (hw.sub rfl) _ _ _ hs)

/-- What the stores left, but sync objects, jobs and logs, a HALO packet leaves. -/
theorem State.deliverHalo_inv {P : State → Prop} (hw : Frees P 0x5807dfff4) (hs : P s1) : P (s.deliverHalo j p k) := by
  by_cases hfinal : bit k.hdr 176 = true
  · obtain ⟨words, data, hdeliver⟩ := State.deliverHalo_stored hexch hhandle hrange hview hstore
    rw [hdeliver]
    dsimp only
    rw [if_pos hfinal]
    exact State.moduleSignal_keeps hw _ _ _ _ (State.logged_inv (hw.sub rfl) _ _ _ _ _ (State.updJob_keeps (hw.sub rfl) _ _ _ hs))
  · exact State.deliverHalo_unfinal_inv hexch hhandle hrange hview hstore (hw.sub rfl) (eq_false_of_ne_true hfinal) hs

end

/-! ### CORK values (R359) -/

/-- A job that a value of the positive side has reached. -/
def Job.corkFromPositive (taken : Bool) (v : CorkVal) (j : Job) : Job :=
  if taken then { j with x := { j.x with corkBad := true } } else { j with x := { j.x with corkPos := some v } }

theorem State.deliverCork_positive {k : Packet} (hdir : k.dir = 0) (s : State) (j : Job) : ∃ words data,
    s.deliverCork j k = ((((s.tracePacket j.jid (opposite (portOf k.dim k.dir)) k).record j.jid 0x05 words data).updJob j.jid
      fun j => { j with progress := true }).updJob j.jid (Job.corkFromPositive j.x.corkPos.isSome (corkOfPacket k))) := by
  unfold State.deliverCork
  dsimp only
  rw [if_pos hdir]
  refine ⟨_, _, congrArg _ (funext fun i => ?_)⟩
  rw [if_pos hdir]
  rfl

/-! ### What the commands leave -/

section
variable {s : State} {p : Nat} {j : Job} {k0 : Packet}

/-- What outlives the storing of a packet's bytes: the job, the port's buffer without the packet, the sync objects. -/
structure State.Stored (s : State) (p : Nat) (j : Job) (k0 : Packet) (s1 : State) : Prop where
  live : s1.job? j.jid = some j
  buffer : (s1.port p).pkts = (s.port p).pkts.erase k0
  syncs : s1.syncs = s.syncs

theorem State.takePkt_stored {s1 : State} (hlive : s.job? j.jid = some j)
    (hkeeps : ∀ {P : State → Prop}, Frees P 0xc0e00000e → P (s.takePkt p k0) → P s1) : s.Stored p j k0 s1 where
  live := hkeeps ((frees_job j.jid (· = some j)).sub rfl) hlive
  buffer := hkeeps ((frees_ports fun l => (tabGet NlPort.reset l p).pkts = _).sub rfl)
    (State.takePkt_pkts k0)
  syncs := hkeeps ((frees_syncs (· = s.syncs)).sub rfl) rfl

end

section
variable {s : State} {p : Fin 6} {k0 : Packet} {j : Job} (hon : s.pwr.on = true) (hjob : s.packetJob k0.arrive = some j)
  (hlast : k0.arrive.left = 0)
include hon hjob hlast

theorem exec_spread_last {b : BSpec} (hhead : (s.port p.val).headPkt 0 = some k0) (hheld : s.heldAt p.val = none) (hkind : k0.kind = 2)
    (hspec : j.spec? k0.arrive.bucket = some b) :
    exec (.spread p) s = .next (if s.stoppedToPeers j then (s.takePkt p.val k0).stoppedDelivery p.val
      else (s.takePkt p.val k0).deliverBlocks j p.val b k0.arrive.dim true k0.arrive) := by
  rw [exec_spread_of_job hon hhead hheld hjob hspec hkind (if_neg (by omega)), State.waitsTurn_last hlast]
  rfl

theorem exec_halo_last (hhead : (s.port p.val).headPkt 1 = some k0) (hstop : s.stoppedToPeers j = false) :
    exec (.halo p) s = .next ((s.takePkt p.val k0).deliverHalo j p.val k0.arrive) := by
  rw [exec, execHalo, s.ran_on _ hon, hhead]
  dsimp only
  rw [hjob]
  dsimp only
  rw [if_neg (by omega), if_neg (ne_true_of_eq_false hstop)]

theorem exec_linkDown_last (hhead : (s.port p.val).headPkt 2 = some k0) (hkind : k0.kind = 5) :
    exec (.linkDown p) s = .next ((s.takePkt p.val k0).noteDown j.jid) := by
  rw [exec, execLinkDown, s.ran_on _ hon, hhead]
  dsimp only
  rw [if_neg (by simp [hkind]), hjob]
  dsimp only
  rw [if_neg (by omega)]

theorem exec_corkPacket_last {c : CorkVal} (hhead : (s.port p.val).headPkt 2 = some k0) (hkind : k0.kind = 4) (hcork : j.x.cork = some c)
    (hphase : (j.dims.findIdx? fun d => d == k0.arrive.dim) = some j.x.corkPhase) :
    exec (.corkPacket p) s = .next ((s.takePkt p.val k0).deliverCork j k0.arrive) := by
  rw [exec_corkPacket_in_phase hon hhead hkind hjob hcork hphase, State.waitsTurn_last hlast, if_neg (by decide), if_neg (by omega)]

/-- A value of the positive side reaches the job. -/
theorem corkPacket_positive {c : CorkVal} (hlive : s.job? j.jid = some j) (hhead : (s.port p.val).headPkt 2 = some k0) (hkind : k0.kind = 4)
    (hcork : j.x.cork = some c) (hphase : (j.dims.findIdx? fun d => d == k0.arrive.dim) = some j.x.corkPhase) (hdir : k0.arrive.dir = 0) :
    ∃ t, exec (.corkPacket p) s = .next t ∧ t.mem = s.mem ∧
      t.job? j.jid = some (Job.corkFromPositive j.x.corkPos.isSome (corkOfPacket k0.arrive) { j with progress := true }) := by
  obtain ⟨words, data, hdeliver⟩ := State.deliverCork_positive hdir (s.takePkt p.val k0) j
  refine ⟨_, (exec_corkPacket_last hon hjob hlast hhead hkind hcork hphase).trans (congrArg _ hdeliver), ?_, ?_⟩
  · rw [State.updJob_mem, State.updJob_mem]
    exact State.logged_inv ((frees_mem (· = s.mem)).sub rfl) _ _ _ _ _ rfl
  · have hlogged : (((s.takePkt p.val k0).tracePacket j.jid (opposite (portOf k0.arrive.dim k0.arrive.dir)) k0.arrive).record j.jid 0x05
        words data).job? j.jid = some j := State.logged_inv ((frees_job j.jid (· = some j)).sub rfl) _ _ _ _ _ hlive
    refine State.job?_updJob_live (fun i => ?_) (fun i => ?_) (State.job?_updJob_live (fun _ => rfl) (fun _ => rfl) hlogged)
    · unfold Job.corkFromPositive
      split <;> rfl
    · unfold Job.corkFromPositive
      split <;> rfl

end

end Sys2Proof.Machine

namespace Sys2Proof
open Machine

/-- Settles O34, by the kind of packet; a store's state keeps the job and the port's buffer, and what follows it writes the job and the logs. -/
theorem packetsAreDelivered : Obligations.packets_are_delivered := by
  intro p k0 s j hon k s0 w hjob hlive hlast
  refine ⟨fun b hhead hheld hkind hspec => ?_, fun x h v s1 hhead hstop hexch hhandle hrange hview hstore => ?_,
    fun c hhead hkind hcork hphase hdir => ?_, fun hhead hkind => ?_⟩
  · have hexec := exec_spread_last hon hjob hlast hhead hheld hkind hspec
    have hbuffer : (s0.port p.val).pkts = (s.port p.val).pkts.erase k0 := State.takePkt_pkts k0
    refine ⟨fun hunused => ?_, fun s1 hstop hdue hcork hresult hnew hstored => ?_⟩
    · by_cases hstop : s.stoppedToPeers j = true
      · rw [if_pos hstop] at hexec
        exact ⟨_, hexec, rfl, rfl, hbuffer⟩
      · rw [if_neg hstop, State.deliverBlocks_unused (hunused.resolve_left hstop)] at hexec
        exact ⟨_, hexec, rfl, rfl, hbuffer⟩
    · have hs1 : s.Stored p.val j k0 s1 := State.takePkt_stored hlive fun {P} hw hs => by
        rcases hstored with ⟨-, v, -, hstore⟩ | ⟨-, hstore⟩
        · exact AccAll.getId (State.storeView_keeps hw _ _ _ _ hs) hstore
        · exact AccAll.getId (State.storeParts_keeps hw _ _ _ hs) hstore
      obtain ⟨words, data, hdeliver⟩ := State.deliverBlocks_used (spread := true) hcork hresult hdue hnew
        (hstored.imp (fun h => ⟨.inr h.1, h.2⟩) fun h => ⟨rfl, h⟩)
      rw [if_neg (ne_true_of_eq_false hstop), hdeliver] at hexec
      have hjob1 := State.job?_updJob_live (f := Job.withPart b.id (partOf k.dim true k)) (fun i => (i.setBucket_identity _ _).1)
        (fun i => (i.setBucket_identity _ _).2) hs1.live
      refine ⟨_, j.withPart b.id (partOf k.dim true k), hexec, State.logged_inv ((frees_mem (· = s1.mem)).sub rfl) _ _ _ _ _ rfl,
        State.logged_inv ((frees_job j.jid (· = _)).sub rfl) _ _ _ _ _ hjob1,
        State.logged_inv ((frees_ports fun l => (tabGet NlPort.reset l p.val).pkts = _).sub rfl) _ _ _ _ _ hs1.buffer, fun hid => ?_⟩
      rw [Job.withPart_bucket hid]
      exact ⟨_, rfl, rfl, rfl, rfl, rfl, rfl⟩
  · have hs1 : s.Stored p.val j k0 s1 := State.takePkt_stored hlive fun hw hs => AccAll.getId (State.storeView_keeps hw _ _ _ _ hs) hstore
    exact ⟨_, exec_halo_last hon hjob hlast hhead hstop,
      State.deliverHalo_inv hexch hhandle hrange hview hstore ((frees_mem (· = s1.mem)).sub rfl) rfl,
      State.deliverHalo_inv hexch hhandle hrange hview hstore ((frees_ports fun l => (tabGet NlPort.reset l p.val).pkts = _).sub rfl) hs1.buffer,
      fun hfinal => State.deliverHalo_unfinal_inv hexch hhandle hrange hview hstore ((frees_syncs (· = s.syncs)).sub rfl) hfinal hs1.syncs⟩
  · obtain ⟨t, hexec, hmem, hside⟩ := corkPacket_positive hon hjob hlast hlive hhead hkind hcork hphase hdir
    refine ⟨fun hfirst => ?_, fun hsecond => ?_⟩
    · rw [hfirst] at hside
      exact ⟨t, _, hexec, hside, rfl, rfl, hmem⟩
    · rw [hsecond] at hside
      exact ⟨t, _, hexec, hside, rfl, hmem⟩
  · exact ⟨_, _, exec_linkDown_last hon hjob hlast hhead hkind, State.job?_updJob_live (fun _ => rfl) (fun _ => rfl) hlive, rfl, rfl⟩

end Sys2Proof
end

section
/-! PROOF. The states of a Nelil port, and NL_TORUS (R327, R364, R535 to R537); O37. -/

namespace Sys2Proof.Machine

/-! ### A port that goes DOWN (R364, R365) -/

/-- A port that is gone is DOWN, or trains again. -/
theorem NlPort.down_st (q : NlPort) (c : Nat) : (q.down c).st ≠ 2 := by
  unfold NlPort.down
  dsimp only
  split <;> decide

section
variable {s : State} {p : Nat}

/-- What leaves on UP ports leaves a port that is not UP. -/
theorem State.enqueue_port_of_not_up {r : Nat} {pk : Packet} (hp : (s.port p).st ≠ 2) (hr : (s.port r).st = 2) :
    (s.enqueue r pk).port p = s.port p := by
  rw [State.enqueue, State.port_updPort, if_neg]
  rintro rfl
  exact hp hr

/-- LINK_DOWN for a packet that was lost goes out on another port (R365). -/
theorem State.returnDown_port {q : NlPort} (hq : q.st ≠ 2) (r : Nat) (h : W256) (hs : s.port p = q) : (s.returnDown r h).port p = q := by
  have hnoted (jid : U64) : (s.noteDown jid).port p = q := hs
  unfold State.returnDown
  dsimp only
  split
  · exact hs
  · split
    · split
      · exact hnoted _
      · exact hs
    · split
      · next hup => rw [State.enqueue_port_of_not_up (hs ▸ hq) (by simpa using hup), hs]
      · exact hs

theorem State.portDown_of_down (h : (s.port p).st = 0) (c : Nat) : s.portDown p c = s := by
  unfold State.portDown
  dsimp only
  rw [h]
  rfl

theorem State.portDown_port (h : (s.port p).st ≠ 0) (c : Nat) : (s.portDown p c).port p = (s.port p).down c := by
  have hevent : (((s.setPort p ((s.port p).down c)).cntAdd (cntNelil p 5) 1).linkDownEvent 0 p c (Job.usesPort p)).port p = (s.port p).down c :=
    State.linkDownEvent_keeps ((frees_ports fun l => tabGet NlPort.reset l p = _).sub rfl) _ _ _ _ _ (State.port_setPort_self _ _ _)
  have hlost : ((s.port p).lost.foldl (fun s h => s.returnDown p h)
      (((s.setPort p ((s.port p).down c)).cntAdd (cntNelil p 5) 1).linkDownEvent 0 p c (Job.usesPort p))).port p = (s.port p).down c :=
    Keep.foldl (P := fun t => t.port p = (s.port p).down c) (fun t w ht => State.returnDown_port ((s.port p).down_st c) p w ht) hevent
  unfold State.portDown
  dsimp only
  rw [if_neg (by simpa using h)]
  split
  · split
    · exact hlost
    · exact hlost
  · exact hlost

end

/-! ### Beside the ports -/

/-- Memory, units and time are as they were. -/
def State.Beside (s t : State) : Prop := t.mem = s.mem ∧ t.units = s.units ∧ t.time = s.time

theorem State.frees_beside (s : State) : Frees s.Beside 0x3FFFFFFFFEC :=
  ((frees_mem (· = s.mem)).sub rfl).and <| ((frees_units (· = s.units)).sub rfl).and ((frees_time (· = s.time)).sub rfl)

theorem State.beside_refl (s : State) : s.Beside s := ⟨rfl, rfl, rfl⟩

/-- A port of `s` goes DOWN in a state that differs from `s` in its ports and counts. -/
theorem State.portDown_beside {s : State} (t : State) (p c : Nat) (h : s.Beside t) : s.Beside (t.portDown p c) :=
  State.portDown_keeps (s.frees_beside.sub rfl) _ _ _ h

/-! ### Accesses to a port's registers (R404, R405, R535) -/

theorem State.exchange_beside (s : State) (a b : Nat) : s.Beside (s.exchange a b) := s.beside_refl

theorem State.exchange_port (s : State) (a b r : Nat) : (s.exchange a b).port r = s.port r := rfl

section
variable {s : State} {p : Fin 6} {f : Func}

section
variable (h : Served s (linkDie p.val) f)
include h

theorem byBarOf_served (g : State → State) :
    (s.byBarOf f (linkDie p.val) fun s => s.privileged f g) = .next (g (s.exchange (30 + f.port.val) (linkDie p.val))) := by
  obtain ⟨hon, hbar, hdie, hcontrol⟩ := h
  rw [s.byBarOf_open _ _ _ hon hbar hdie]
  exact congrArg _ (State.privileged_control _ _ _ hcontrol)

theorem exec_nlEnable_served : exec (.nlEnable f p) s = .next ((s.exchange (30 + f.port.val) (linkDie p.val)).nlEnable p.val) :=
  byBarOf_served h _

theorem exec_nlDisable_served : exec (.nlDisable f p) s = .next ((s.exchange (30 + f.port.val) (linkDie p.val)).nlDisable p.val) :=
  byBarOf_served h _

theorem exec_retrain_served : exec (.retrain f p) s = .next (if (s.port p.val).en
    then (s.exchange (30 + f.port.val) (linkDie p.val)).portDown p.val 3 else s.exchange (30 + f.port.val) (linkDie p.val)) :=
  byBarOf_served h _

theorem exec_nlTorusWrite_served (v : U64) : exec (.nlTorusWrite f p v) s = .next (if s.jobs.any fun j => j.live && j.cross
    then s.exchange (30 + f.port.val) (linkDie p.val) else { s.exchange (30 + f.port.val) (linkDie p.val) with torus := torusWord v }) :=
  byBarOf_served h _

/-- An enabled port with its cable trains (R327, R535). -/
theorem nlEnable_effect : ∃ t, exec (.nlEnable f p) s = .next t ∧
    t.port p.val = { s.port p.val with en := true, st := if (s.port p.val).st == 0 && (s.port p.val).cable then 1 else (s.port p.val).st } ∧
    s.Beside t := by
  refine ⟨_, exec_nlEnable_served h, ?_, State.nlEnable_keeps (s.frees_beside.sub rfl) _ _ (s.exchange_beside _ _)⟩
  rw [State.nlEnable, State.port_updPort_self, State.exchange_port]

/-- RETRAIN acts on an enabled port alone (R537). -/
theorem exec_retrain_idle (hidle : (s.port p.val).en = false ∨ (s.port p.val).st = 0) :
    exec (.retrain f p) s = .next (s.exchange (30 + f.port.val) (linkDie p.val)) := by
  rw [exec_retrain_served h]
  refine congrArg _ (ite_eq_right_iff.mpr fun hen => State.portDown_of_down ?_ 3)
  rw [State.exchange_port]
  exact hidle.resolve_left (ne_false_of_eq_true hen)

theorem retrain_effect (hen : (s.port p.val).en = true) (hst : (s.port p.val).st ≠ 0) : ∃ t, exec (.retrain f p) s = .next t ∧
    t.port p.val = (s.port p.val).down 3 ∧ s.Beside t := by
  refine ⟨_, (exec_retrain_served h).trans (congrArg _ (if_pos hen)), ?_, State.portDown_beside _ _ _ (s.exchange_beside _ _)⟩
  rw [State.portDown_port, State.exchange_port]
  rwa [State.exchange_port]

theorem nlDisable_effect (hst : (s.port p.val).st ≠ 0) : ∃ t, exec (.nlDisable f p) s = .next t ∧
    t.port p.val = { (s.port p.val).down 3 with en := false, st := 0 } ∧ s.Beside t := by
  refine ⟨_, exec_nlDisable_served h, ?_, State.nlDisable_keeps (s.frees_beside.sub rfl) _ _ (s.exchange_beside _ _)⟩
  rw [State.nlDisable, State.portDown_port, State.port_updPort_self, State.exchange_port]
  · rfl
  · rwa [State.port_updPort_self, State.exchange_port]

theorem nlDisable_effect_down (hst : (s.port p.val).st = 0) : ∃ t, exec (.nlDisable f p) s = .next t ∧
    t.port p.val = { s.port p.val with en := false } ∧ s.Beside t := by
  refine ⟨_, exec_nlDisable_served h, ?_, State.nlDisable_keeps (s.frees_beside.sub rfl) _ _ (s.exchange_beside _ _)⟩
  rw [State.nlDisable, State.portDown_of_down, State.port_updPort_self, State.exchange_port]
  rwa [State.port_updPort_self, State.exchange_port]

end

variable (hon : s.pwr.on = true)
include hon

theorem exec_byBarOf_denied (hbar : s.barOpen = true) (hdie : s.dieAnswers (linkDie p.val) = true) (hcontrol : s.isControl f = false)
    (g : State → State) : (s.byBarOf f (linkDie p.val) fun s => s.privileged f g) =
      .next ((s.exchange (30 + f.port.val) (linkDie p.val)).deny f) := by
  rw [s.byBarOf_open _ _ _ hon hbar hdie]
  exact congrArg _ (State.privileged_denied _ _ _ hcontrol)

/-! ### Training, loss, the cable (R327, R364, R537) -/

theorem exec_laneLockLoss : exec (.laneLockLoss p) s = .next (s.portDown p.val 0) := by
  rw [exec, execLaneLockLoss, s.ran_on _ hon]

theorem exec_noHeaderTimeout : exec (.noHeaderTimeout p) s = .next
    (if (s.port p.val).st == 2 && decide (64 ≤ (s.port p.val).silentSlots) then s.portDown p.val 2 else s) := by
  rw [exec, execNoHeaderTimeout, s.ran_on _ hon]

theorem exec_noHeaderTimeout_silent (hst : (s.port p.val).st = 2) (hsilent : 64 ≤ (s.port p.val).silentSlots) :
    exec (.noHeaderTimeout p) s = .next (s.portDown p.val 2) :=
  (exec_noHeaderTimeout hon).trans (congrArg _ (if_pos (by simp [hst, hsilent])))

theorem exec_noHeaderTimeout_heard (h : (s.port p.val).st ≠ 2 ∨ (s.port p.val).silentSlots < 64) : exec (.noHeaderTimeout p) s = .next s :=
  (exec_noHeaderTimeout hon).trans (congrArg _ (if_neg (by simpa [imp_iff_not_or] using h)))

theorem exec_cblPres_present : exec (.cblPres p true) s =
    .next (s.updPort p.val fun q => { q with cable := true, st := if q.st == 0 && q.en then 1 else q.st }) := by
  rw [exec, execCblPres, s.ran_on _ hon]
  rfl

theorem exec_cblPres_absent : exec (.cblPres p false) s = .next ((s.updPort p.val fun q => { q with cable := false }).portDown p.val 0) := by
  rw [exec, execCblPres, s.ran_on _ hon]
  rfl

/-- A port that is not DOWN loses its lanes with its cable. -/
theorem cableRemoved_effect (hst : (s.port p.val).st ≠ 0) : ∃ t, exec (.cblPres p false) s = .next t ∧ (t.port p.val).st = 0 ∧
    (t.port p.val).cable = false ∧ (t.port p.val).cause = 0 ∧ (t.port p.val).en = (s.port p.val).en ∧ s.Beside t := by
  refine ⟨_, exec_cblPres_absent hon, ?_⟩
  rw [State.portDown_port (by rwa [State.port_updPort_self]), State.port_updPort_self]
  exact ⟨if_neg (by simp), rfl, rfl, rfl, State.portDown_beside _ _ _ s.beside_refl⟩

theorem cableRemoved_effect_down (hst : (s.port p.val).st = 0) : ∃ t, exec (.cblPres p false) s = .next t ∧
    t.port p.val = { s.port p.val with cable := false } ∧ s.Beside t := by
  refine ⟨_, exec_cblPres_absent hon, ?_⟩
  rw [State.portDown_of_down (by rwa [State.port_updPort_self]), State.port_updPort_self]
  exact ⟨rfl, s.beside_refl⟩

theorem exec_portTrained_not_training (h : (s.port p.val).st ≠ 1) (d : Nat) (pol : Byte) : exec (.portTrained p d pol) s = .next s := by
  rw [exec, execPortTrained, s.ran_on _ hon]
  exact congrArg _ (if_pos (by simpa using h))

/-- A port that has trained is UP: its measured delay, fresh numbers, lines and credits, and the packets it had whole. -/
def NlPort.trained (q : NlPort) (d : Nat) (pol : Byte) (now : Nat) : NlPort :=
  { NlPort.reset with
    en := q.en, cable := q.cable, cause := q.cause, polarity := pol, delay := d / 2 % 2 ^ 32, lastTx := q.lastTx, pkts := q.pkts, held := q.held,
    since := now, st := 2 }

theorem exec_portTrained_training (h : (s.port p.val).st = 1) (d : Nat) (pol : Byte) :
    exec (.portTrained p d pol) s = .next (s.setPort p.val ((s.port p.val).trained d pol s.gt)) := by
  rw [exec, execPortTrained, s.ran_on _ hon]
  exact congrArg _ (if_neg (by simp [h]))

end

/-! ### NL_TORUS (R536) -/

theorem torusValid_iff (v : U64) : torusValid v = true ↔ ∀ d : Fin 3, bits v (40 - 5 * d.val) 5 + (bits v (15 + 5 * d.val) 5 + 1) ≤ 32 ∧
    bits v (40 - 5 * d.val) 5 ≤ bits v (10 - 5 * d.val) 5 ∧
    bits v (10 - 5 * d.val) 5 < bits v (40 - 5 * d.val) 5 + (bits v (15 + 5 * d.val) 5 + 1) := by
  simp [torusValid, Fin.forall_fin_succ, and_assoc]

/-- Bits 0 to 44 are the write's, bit 45 is VALID, those above are 0. -/
theorem torusWord_getLsbD (v : U64) (i : Nat) : (torusWord v).getLsbD i = if i = 45 then torusValid v else decide (i < 45) && v.getLsbD i := by
  have hmask : (0x1FFFFFFFFFFF#64).getLsbD i = decide (i < 45) := by
    rw [show (0x1FFFFFFFFFFF#64) = BitVec.ofNat 64 (2 ^ 45 - 1) from rfl, BitVec.getLsbD_ofNat, Nat.testBit_two_pow_sub_one]
    by_cases hi : i < 45
    · simp [hi, show i < 64 by omega]
    · simp [hi]
  rw [torusWord, getLsbD_putField]
  by_cases hi : i = 45
  · subst hi
    cases torusValid v <;> rfl
  · rw [if_neg (by omega), if_neg hi, BitVec.getLsbD_and, hmask, Bool.and_comm]

/-- A write of NL_TORUS: nothing while traffic crosses, else the torus alone. -/
theorem nlTorusWrite_effect {s : State} {p : Fin 6} {f : Func} (h : Served s (linkDie p.val) f) (v : U64) :
    ((s.jobs.any fun j => j.live && j.cross) = true → exec (.nlTorusWrite f p v) s = .next (s.exchange (30 + f.port.val) (linkDie p.val))) ∧
    ((s.jobs.any fun j => j.live && j.cross) = false → ∃ t, exec (.nlTorusWrite f p v) s = .next t ∧
      (∀ i, i < 45 → t.torus.getLsbD i = v.getLsbD i) ∧ (∀ i, 45 < i → t.torus.getLsbD i = false) ∧
      (t.torus.getLsbD 45 = true ↔ ∀ d : Fin 3, bits v (40 - 5 * d.val) 5 + (bits v (15 + 5 * d.val) 5 + 1) ≤ 32 ∧
        bits v (40 - 5 * d.val) 5 ≤ bits v (10 - 5 * d.val) 5 ∧
        bits v (10 - 5 * d.val) 5 < bits v (40 - 5 * d.val) 5 + (bits v (15 + 5 * d.val) 5 + 1)) ∧
      t.ports = s.ports ∧ t.mem = s.mem) := by
  refine ⟨fun hcross => (exec_nlTorusWrite_served h v).trans (congrArg _ (if_pos hcross)), fun hcross => ?_⟩
  refine ⟨_, (exec_nlTorusWrite_served h v).trans (congrArg _ (if_neg (ne_true_of_eq_false hcross))), fun i hi => ?_, fun i hi => ?_, ?_, rfl, rfl⟩
  · simp [torusWord_getLsbD, hi, hi.ne]
  · simp [torusWord_getLsbD, hi.ne', hi.not_gt]
  · rw [torusWord_getLsbD, if_pos rfl, torusValid_iff]

end Sys2Proof.Machine

namespace Sys2Proof
open Machine

/-- Settles O37: what takes a port DOWN is `NlPort.down` with its cause; the torus word bit by bit. -/
theorem linkStates : Obligations.link_states := by
  refine ⟨?_, fun f p v s h => nlTorusWrite_effect h v⟩
  intro p s f hon q r others
  refine ⟨fun h => ⟨fun hst => ?_, fun hst => ?_, nlDisable_effect h, nlDisable_effect_down h, retrain_effect h,
      fun _ hst => exec_retrain_idle h (.inr hst), fun hen => exec_retrain_idle h (.inl hen)⟩,
    fun hbar hdie hcontrol => ⟨exec_byBarOf_denied hon hbar hdie hcontrol _, exec_byBarOf_denied hon hbar hdie hcontrol _,
      exec_byBarOf_denied hon hbar hdie hcontrol _⟩,
    fun d pol hst => exec_portTrained_not_training hon hst d pol, fun d pol hst => ?_,
    fun hst => (exec_laneLockLoss hon).trans (congrArg _ (State.portDown_of_down hst 0)),
    fun hst => ⟨_, exec_laneLockLoss hon, State.portDown_port hst 0, State.portDown_beside _ _ _ s.beside_refl⟩, fun hst hsilent => ?_,
    exec_noHeaderTimeout_heard hon, ⟨_, exec_cblPres_present hon, State.port_updPort_self _ _ _, s.beside_refl⟩,
    cableRemoved_effect hon, cableRemoved_effect_down hon, rfl, rfl, rfl, rfl⟩
  · obtain ⟨t, hexec, hport, hbeside⟩ := nlEnable_effect h
    exact ⟨t, hexec, by simpa [q, hst] using hport, hbeside⟩
  · obtain ⟨t, hexec, hport, hbeside⟩ := nlEnable_effect h
    rw [if_neg (by simpa using fun h => absurd h hst)] at hport
    exact ⟨t, hexec, hport, hbeside⟩
  · refine ⟨_, exec_portTrained_training hon hst d pol, ?_⟩
    rw [State.port_setPort_self]
    exact ⟨rfl, rfl, rfl, rfl, rfl, rfl, rfl, rfl, rfl, s.beside_refl⟩
  · have hnot : (s.port p.val).st ≠ 0 := fun h => absurd (h.symm.trans hst) (by decide)
    exact ⟨_, exec_noHeaderTimeout_silent hon hst hsilent, State.portDown_port hnot 2, State.portDown_beside _ _ _ s.beside_refl⟩

end Sys2Proof
end

section
/-! PROOF. Flits sent, received and replayed (R328, R329, R331 to R334, R364); O36. -/

namespace Sys2Proof.Machine

/-! ### Sending (R328, R333, R334) -/

/-- A port that has chosen what its slot carries. -/
def NlPort.chosen (q : NlPort) : NlPort := q.choose.elim q (·.2.2)

section
variable {q : NlPort}

/-- A flit to be replayed goes first. -/
theorem NlPort.chosen_resend {e : Nat × FlitBody} {l : List (Nat × FlitBody)} (h : q.resend = e :: l) : q.chosen = { q with resend := l } := by
  rw [NlPort.chosen, NlPort.choose, h]
  rfl

/-- Then the head of the line of the first channel that may send, under the next number, kept for replay. -/
theorem NlPort.chosen_next {v : Nat} {f : FlitBody} {l : List FlitBody} (hresend : q.resend = []) (hroom : q.replay.length < 1024)
    (hchannel : ([2, 1, 0].find? fun v => !(q.tx.getD v []).isEmpty && q.cred.getD v 0 != 0) = some v) (hline : q.tx.getD v [] = f :: l) :
    q.chosen = { q with
      tx := setAt q.tx v l, cred := modAt q.cred v (· - 1), txSeq := (q.txSeq + 1) % 4096, replay := q.replay ++ [(q.txSeq, f)] } := by
  rw [NlPort.chosen, NlPort.choose, hresend]
  dsimp only
  rw [if_neg (Nat.not_le.mpr hroom), hchannel, Option.bind_some, hline]
  rfl

theorem NlPort.chosen_idle (hresend : q.resend = [])
    (h : 1024 ≤ q.replay.length ∨ ([2, 1, 0].all fun v => (q.tx.getD v []).isEmpty || q.cred.getD v 0 == 0) = true) : q.chosen = q := by
  have hnone : ¬ 1024 ≤ q.replay.length → ([2, 1, 0].find? fun v => !(q.tx.getD v []).isEmpty && q.cred.getD v 0 != 0) = none := by
    intro hroom
    rw [List.find?_eq_none]
    intro v hv
    simpa [imp_iff_or_not, or_comm] using List.all_eq_true.mp (h.resolve_left hroom) v hv
  rw [NlPort.chosen, NlPort.choose, hresend]
  dsimp only
  split
  · rfl
  · next hroom =>
    rw [hnone hroom]
    rfl

/-- What is received waits for no slot. -/
theorem NlPort.chosen_received (q : NlPort) : q.chosen.rxNext = q.rxNext ∧ q.chosen.pkts = q.pkts := by
  unfold NlPort.chosen NlPort.choose
  split
  · exact ⟨rfl, rfl⟩
  · split
    · exact ⟨rfl, rfl⟩
    · cases [2, 1, 0].find? fun v => !(q.tx.getD v []).isEmpty && q.cred.getD v 0 != 0 with
      | none => exact ⟨rfl, rfl⟩
      | some v =>
        rw [Option.bind_some]
        split <;> exact ⟨rfl, rfl⟩

/-- A port after its slot: what it owed has gone with the flit. -/
def NlPort.slotOver (q : NlPort) (w : BitVec 2048) : NlPort :=
  { q with ctrlTx := q.ctrlTx.tail, ack := false, nak := false, freed := q.freed.map (· - 3), silentSlots := q.silentSlots + 1, lastTx := w }

end

/-- The end of a slot of port `p`, whose flit is `w`. -/
def State.slotEnds (s : State) (p : Nat) (q : NlPort) (w : BitVec 2048) (carried : Bool) : State :=
  let s1 := (s.setPort p (q.slotOver w)).tickFresh 1
  let s2 := if carried then s1.cntAdd (cntNelil p 0) 1 else s1
  if q.nak then s2.cntAdd (cntNelil p 3) 1 else s2

/-- The end of a slot writes the port, counts, and takes a free word. -/
theorem State.slotEnds_inv {P : State → Prop} (hw : Frees P 0x20400000000) (s : State) (p : Nat) (q : NlPort) (w : BitVec 2048)
    (carried : Bool) (hs : P (s.setPort p (q.slotOver w))) : P (s.slotEnds p q w carried) := by
  have htick : P ((s.setPort p (q.slotOver w)).tickFresh 1) := State.tickFresh_keeps (hw.sub rfl) _ _ hs
  have hsent : P (if carried then ((s.setPort p (q.slotOver w)).tickFresh 1).cntAdd (cntNelil p 0) 1
      else (s.setPort p (q.slotOver w)).tickFresh 1) := by
    split
    · exact State.cntAdd_keeps (hw.sub rfl) _ _ _ htick
    · exact htick
  unfold State.slotEnds
  dsimp only
  split
  · exact State.cntAdd_keeps (hw.sub rfl) _ _ _ hsent
  · exact hsent

section
variable {s : State} {p : Fin 6} (hon : s.pwr.on = true)
include hon

theorem exec_flitSlot_not_up (h : (s.port p.val).st ≠ 2) : exec (.flitSlot p) s = .next s := by
  rw [exec, execFlitSlot, s.ran_on _ hon]
  exact congrArg _ (if_pos (by simpa using h))

/-- An UP port sends what it chooses; a timing word that is due changes its control messages before (R83). -/
theorem exec_flitSlot_up (h : (s.port p.val).st = 2) : ∃ due ctrl w carried, exec (.flitSlot p) s =
    .next (s.slotEnds p.val ({ s.port p.val with twDue := due, ctrlTx := ctrl } : NlPort).chosen w carried) := by
  have hword : ∃ due ctrl, (if (s.port p.val).twDue then
      { s.port p.val with
        twDue := false, ctrlTx := pieces 0 s.timingWord ++ (s.port p.val).ctrlTx.drop ((s.port p.val).ctrlTx.length % 8) }
      else s.port p.val) = { s.port p.val with twDue := due, ctrlTx := ctrl } := by
    split <;> exact ⟨_, _, rfl⟩
  obtain ⟨due, ctrl, hword⟩ := hword
  rw [exec, execFlitSlot, s.ran_on _ hon]
  dsimp only
  rw [if_neg (by simp [h]), hword]
  refine ⟨due, ctrl, ?_⟩
  rw [NlPort.chosen]
  cases NlPort.choose _ with
  | none => exact ⟨_, false, rfl⟩
  | some r => exact ⟨_, true, rfl⟩

/-- A slot of an UP port changes that port, by what it carries, and no other. -/
theorem flitSlot_effect (h : (s.port p.val).st = 2) : ∃ t due ctrl w, exec (.flitSlot p) s = .next t ∧
    t.port p.val = ({ s.port p.val with twDue := due, ctrlTx := ctrl } : NlPort).chosen.slotOver w ∧
    t.mem = s.mem ∧ t.jobs = s.jobs ∧ ∀ r, r ≠ p.val → t.port r = s.port r := by
  obtain ⟨due, ctrl, w, carried, hexec⟩ := exec_flitSlot_up hon h
  exact ⟨_, due, ctrl, w, hexec,
    State.slotEnds_inv ((frees_ports fun l => tabGet NlPort.reset l p.val = _).sub rfl) _ _ _ _ _ (State.port_setPort_self _ _ _),
    State.slotEnds_inv ((frees_mem (· = s.mem)).sub rfl) _ _ _ _ _ rfl, State.slotEnds_inv ((frees_jobs (· = s.jobs)).sub rfl) _ _ _ _ _ rfl,
    fun r hr => State.slotEnds_inv ((frees_ports fun l => tabGet NlPort.reset l r = _).sub rfl) _ _ _ _ _
      ((State.port_setPort _ _ _ _).trans (if_neg hr))⟩

end

/-! ### Valid headers: acknowledgements, NAKs, credits (R332 to R334) -/

section
variable (q : NlPort) (w : BitVec 2048)

theorem NlPort.answers_eq : ∃ replay resend nakIn nakFrom nakRun nakSeq, q.answers w = { q with
    cred := [q.cred.getD 0 0 + bits w 34 2, q.cred.getD 1 0 + bits w 36 2, q.cred.getD 2 0 + bits w 38 2], silentSlots := 0,
    replay := replay, resend := resend, nakIn := nakIn, nakFrom := nakFrom, nakRun := nakRun, nakSeq := nakSeq } := by
  unfold NlPort.answers
  dsimp only
  repeat' split
  all_goals exact ⟨_, _, _, _, _, _, rfl⟩

theorem NlPort.ctrl_eq : ∃ ctrlRx ctrlTx, q.ctrl w = { q with ctrlRx := ctrlRx, ctrlTx := ctrlTx } := by
  unfold NlPort.ctrl
  dsimp only
  repeat' split
  all_goals exact ⟨_, _, rfl⟩

/-- A valid header's answers write credits, the buffers of sent flits and the run of NAKs; control messages touch nothing else. -/
theorem NlPort.header_eq : ∃ resend nakSeq ctrlRx ctrlTx, (q.answers w).ctrl w = { q with
    cred := [q.cred.getD 0 0 + bits w 34 2, q.cred.getD 1 0 + bits w 36 2, q.cred.getD 2 0 + bits w 38 2], silentSlots := 0,
    replay := (q.answers w).replay, resend := resend, nakIn := (q.answers w).nakIn, nakFrom := (q.answers w).nakFrom,
    nakRun := (q.answers w).nakRun, nakSeq := nakSeq, ctrlRx := ctrlRx, ctrlTx := ctrlTx } := by
  obtain ⟨ctrlRx, ctrlTx, hctrl⟩ := (q.answers w).ctrl_eq w
  obtain ⟨_, resend, _, _, _, nakSeq, hanswers⟩ := q.answers_eq w
  refine ⟨resend, nakSeq, ctrlRx, ctrlTx, hctrl.trans ?_⟩
  rw [hanswers]

theorem NlPort.header_nakRun : ((q.answers w).ctrl w).nakRun = (q.answers w).nakRun := by
  obtain ⟨_, _, _, _, h⟩ := q.header_eq w
  rw [h]

/-- An acknowledgement frees what it covers (R332). -/
theorem NlPort.answers_replay (h : bit w 32 = true) : (q.answers w).replay = q.replay.filter fun e => !seqLe e.1 (bits w 20 12) := by
  unfold NlPort.answers
  simp only [h, Bool.true_or, if_true]
  split
  · rfl
  · split <;> rfl

/-- Without a NAK the run of NAKs does not grow. -/
theorem NlPort.answers_nakRun_le (h : bit w 33 = false) : (q.answers w).nakRun ≤ q.nakRun := by
  unfold NlPort.answers
  simp only [h, Bool.or_false, Bool.false_eq_true, if_false]
  split <;> split <;> simp

/-- A NAK asks for a replay from its number on, and is counted (R334, R364). -/
theorem NlPort.answers_nak (h : bit w 33 = true) : (q.answers w).nakIn = true ∧ (q.answers w).nakFrom = (bits w 20 12 + 1) % 4096 ∧
    (q.answers w).nakRun = if q.nakSeq = (bits w 20 12 + 1) % 4096 ∧ q.nakRun ≠ 0 then q.nakRun + 1 else 1 := by
  unfold NlPort.answers
  dsimp only
  rw [if_pos h, if_pos (by rw [h, Bool.or_true])]
  exact ⟨rfl, rfl, rfl⟩

/-! ### Flits of a packet (R329, R334) -/

/-- The flit that a word carries. -/
def flitOf (w : BitVec 2048) : FlitBody :=
  { ftype := BitVec.ofNat 2 (bits w 0 2), vc := BitVec.ofNat 2 (bits w 2 2), last := bit w 4, body := BitVec.ofNat 1920 (bits w 128 1920), pk := 0 }

/-- A flit of a packet as the port takes it, by its number. -/
def NlPort.numbered (now : Nat) : NlPort :=
  if bits w 8 12 = q.rxNext then q.accept (flitOf w) now
  else if seqLe (bits w 8 12) q.rxNext then { q with ack := true }
  else if q.rxGap then q else { q with nak := true, rxGap := true }

/-- A flit with a valid header as the port takes it, by its type. -/
def NlPort.taken (now : Nat) : NlPort :=
  if bits w 0 2 = 0 then { q with ack := true }
  else if bits w 0 2 = 3 ∨ bits w 2 2 = 3 then { q with ack := true }
  else q.numbered w now

theorem NlPort.accept_eq (f : FlitBody) (now : Nat) : ∃ part pkts freed, q.accept f now = { q with
    rxNext := (q.rxNext + 1) % 4096, rxGap := false, ack := true, part := part, pkts := pkts, freed := freed } ∧
    (f.last = false → pkts = q.pkts) := by
  unfold NlPort.accept
  dsimp only
  split
  · exact ⟨_, _, _, rfl, fun _ => rfl⟩
  · next hlast =>
    have hlast : f.last = false → False := by simpa using hlast
    split
    · split <;> exact ⟨_, _, _, rfl, fun h => (hlast h).elim⟩
    · exact ⟨_, _, _, rfl, fun h => (hlast h).elim⟩

/-- Taking a flit touches neither what is sent nor what a header answers. -/
theorem NlPort.taken_eq (now : Nat) : ∃ rxNext rxGap ack nak part pkts freed, q.taken w now = { q with
    rxNext := rxNext, rxGap := rxGap, ack := ack, nak := nak, part := part, pkts := pkts, freed := freed } := by
  obtain ⟨part, pkts, freed, haccept, -⟩ := q.accept_eq (flitOf w) now
  unfold NlPort.taken NlPort.numbered
  split
  · exact ⟨_, _, _, _, _, _, _, rfl⟩
  · split
    · exact ⟨_, _, _, _, _, _, _, rfl⟩
    · split
      · exact ⟨_, _, _, _, _, _, _, haccept⟩
      · split
        · exact ⟨_, _, _, _, _, _, _, rfl⟩
        · split <;> exact ⟨_, _, _, _, _, _, _, rfl⟩

/-- A port after a flit with a valid CRC. -/
def NlPort.received (now : Nat) : NlPort := ((q.answers w).ctrl w).taken w now

/-- The header's part. -/
theorem NlPort.received_header (now : Nat) : (q.received w now).st = q.st ∧ (q.received w now).silentSlots = 0 ∧
    (q.received w now).cred = [q.cred.getD 0 0 + bits w 34 2, q.cred.getD 1 0 + bits w 36 2, q.cred.getD 2 0 + bits w 38 2] ∧
    (q.received w now).replay = (q.answers w).replay ∧ (q.received w now).nakIn = (q.answers w).nakIn ∧
    (q.received w now).nakFrom = (q.answers w).nakFrom := by
  obtain ⟨_, _, _, _, hheader⟩ := q.header_eq w
  obtain ⟨_, _, _, _, _, _, _, htaken⟩ := ((q.answers w).ctrl w).taken_eq w now
  rw [NlPort.received, htaken, hheader]
  exact ⟨rfl, rfl, rfl, rfl, rfl, rfl⟩

variable {q w} (now : Nat)

theorem NlPort.received_idle (htype : bits w 0 2 = 0) :
    (q.received w now).ack = true ∧ (q.received w now).rxNext = q.rxNext ∧ (q.received w now).pkts = q.pkts := by
  obtain ⟨_, _, _, _, hheader⟩ := q.header_eq w
  rw [NlPort.received, NlPort.taken, if_pos htype, hheader]
  exact ⟨rfl, rfl, rfl⟩

section
variable (htype : bits w 0 2 = 1 ∨ bits w 0 2 = 2) (hvc : bits w 2 2 < 3)
include htype hvc

theorem NlPort.received_numbered : q.received w now = ((q.answers w).ctrl w).numbered w now := by
  rw [NlPort.received, NlPort.taken, if_neg (by omega), if_neg (by omega)]

/-- In order: taken and acknowledged. -/
theorem NlPort.received_next (hseq : bits w 8 12 = q.rxNext) : (q.received w now).rxNext = (q.rxNext + 1) % 4096 ∧
    (q.received w now).ack = true ∧ (q.received w now).rxGap = false ∧ (bit w 4 = false → (q.received w now).pkts = q.pkts) := by
  obtain ⟨_, _, _, _, hheader⟩ := q.header_eq w
  obtain ⟨_, _, _, haccept, hpkts⟩ := ((q.answers w).ctrl w).accept_eq (flitOf w) now
  rw [NlPort.received_numbered now htype hvc, NlPort.numbered, if_pos (by rw [hheader]; exact hseq), haccept]
  refine ⟨by rw [hheader], rfl, rfl, fun hlast => (hpkts hlast).trans ?_⟩
  rw [hheader]

section
variable (hseq : bits w 8 12 ≠ q.rxNext)
include hseq

/-- Taken already, or after a gap: what was received stands. -/
theorem NlPort.received_other :
    (q.received w now).rxNext = q.rxNext ∧ (q.received w now).pkts = q.pkts ∧ (q.received w now).part = q.part := by
  obtain ⟨_, _, _, _, hheader⟩ := q.header_eq w
  rw [NlPort.received_numbered now htype hvc, NlPort.numbered, hheader, if_neg hseq]
  split
  · exact ⟨rfl, rfl, rfl⟩
  · split <;> exact ⟨rfl, rfl, rfl⟩

/-- Taken already: acknowledged again. -/
theorem NlPort.received_before (hbefore : seqLe (bits w 8 12) q.rxNext = true) :
    (q.received w now).ack = true ∧ (q.received w now).nak = q.nak := by
  obtain ⟨_, _, _, _, hheader⟩ := q.header_eq w
  rw [NlPort.received_numbered now htype hvc, NlPort.numbered, hheader, if_neg hseq, if_pos hbefore]
  exact ⟨rfl, rfl⟩

/-- The first after a gap asks for a replay. -/
theorem NlPort.received_gap (hafter : seqLe (bits w 8 12) q.rxNext = false) (hgap : q.rxGap = false) :
    (q.received w now).nak = true ∧ (q.received w now).rxGap = true ∧ (q.received w now).ack = q.ack := by
  obtain ⟨_, _, _, _, hheader⟩ := q.header_eq w
  rw [NlPort.received_numbered now htype hvc, NlPort.numbered, hheader, if_neg hseq, if_neg (ne_true_of_eq_false hafter),
    if_neg (ne_true_of_eq_false hgap)]
  exact ⟨rfl, rfl, rfl⟩

end
end
end

/-! ### The commands -/

section
variable {s : State} {p : Fin 6} (hon : s.pwr.on = true)
include hon

theorem exec_flitReceive_not_up (h : (s.port p.val).st ≠ 2) (w : BitVec 2048) : exec (.flitReceive p w) s = .next s := by
  rw [exec, execFlitReceive, s.ran_on _ hon]
  exact congrArg _ (if_pos (by simpa using h))

theorem exec_nakReplay_idle (h : (s.port p.val).st ≠ 2 ∨ (s.port p.val).nakIn = false) : exec (.nakReplay p) s = .next s := by
  rw [exec, execNakReplay, s.ran_on _ hon]
  exact congrArg _ (if_pos (by simpa using h))

variable (hup : (s.port p.val).st = 2)
include hup

theorem exec_nakReplay_asked (h : (s.port p.val).nakIn = true) : exec (.nakReplay p) s =
    .next ((s.setPort p.val { s.port p.val with
      nakIn := false, resend := (s.port p.val).replay.filter fun e => seqLe (s.port p.val).nakFrom e.1 }).cntAdd (cntNelil p.val 4) 1) := by
  rw [exec, execNakReplay, s.ran_on _ hon]
  exact congrArg _ (if_neg (by simp [hup, h]))

variable {w : BitVec 2048}

/-- A flit that fails its CRC is not taken. -/
theorem exec_flitReceive_crc (hcrc : flitCrc w ≠ BitVec.ofNat 32 (bits w 96 32)) : exec (.flitReceive p w) s =
    .next (((s.setPort p.val { s.port p.val with nak := true, rxGap := true, ctrlRx := [] }).cntAdd (cntNelil p.val 2) 1).lostPieces
      (!(s.port p.val).ctrlRx.isEmpty)) := by
  rw [exec, execFlitReceive, s.ran_on _ hon]
  dsimp only
  rw [if_neg (by simp [hup]), if_pos (by simpa using hcrc)]

/-- A flit with a valid CRC: its header's answers, then the flit; the eighth NAK in a row takes the port DOWN (R364). -/
theorem exec_flitReceive_valid (hcrc : flitCrc w = BitVec.ofNat 32 (bits w 96 32)) : ∃ t, exec (.flitReceive p w) s =
      .next (if 8 ≤ ((s.port p.val).answers w).nakRun then t.portDown p.val 1 else t) ∧
    t.port p.val = (s.port p.val).received w s.gt ∧ t.mem = s.mem ∧ t.jobs = s.jobs := by
  have hlost {P : State → Prop} (hw : Frees P 0x1) (lost : Bool) {t : State} (hs : P t) : P (t.lostPieces lost) :=
    State.lostPieces_keeps hw _ _ hs
  rw [exec, execFlitReceive, s.ran_on _ hon]
  dsimp only
  rw [if_neg (by simp [hup]), if_neg (by simpa using hcrc)]
  rw [← (s.port p.val).header_nakRun w]
  refine ⟨_, rfl, hlost ((frees_ports fun l => tabGet NlPort.reset l p.val = _).sub rfl) _ ?_, hlost ((frees_mem (· = s.mem)).sub rfl) _ ?_,
    hlost ((frees_jobs (· = s.jobs)).sub rfl) _ ?_⟩
  · change State.port _ p.val = _
    unfold NlPort.received NlPort.taken
    split
    · exact State.port_setPort_self _ _ _
    · split
      · exact State.port_setPort_self _ _ _
      · exact State.port_setPort_self _ _ _
  · split
    · rfl
    · split <;> rfl
  · split
    · rfl
    · split <;> rfl

section
variable (hcrc : flitCrc w = BitVec.ofNat 32 (bits w 96 32))
include hcrc

/-- Short of the eighth NAK in a row the port stays UP. -/
theorem flitReceive_taken (hrun : ((s.port p.val).answers w).nakRun < 8) : ∃ t, exec (.flitReceive p w) s = .next t ∧
    t.port p.val = (s.port p.val).received w s.gt ∧ t.mem = s.mem ∧ t.jobs = s.jobs := by
  obtain ⟨t, hexec, hrest⟩ := exec_flitReceive_valid hon hup hcrc
  exact ⟨t, hexec.trans (congrArg _ (if_neg (Nat.not_le.mpr hrun))), hrest⟩

variable (hnak : bit w 33 = true)
include hnak

theorem flitReceive_nak (hrun : (s.port p.val).nakRun < 7) : ∃ t, exec (.flitReceive p w) s = .next t ∧ (t.port p.val).nakIn = true ∧
    (t.port p.val).nakFrom = (bits w 20 12 + 1) % 4096 ∧ (t.port p.val).st = 2 ∧ t.mem = s.mem ∧ t.jobs = s.jobs := by
  obtain ⟨hin, hfrom, hcount⟩ := (s.port p.val).answers_nak w hnak
  obtain ⟨t, hexec, hport, hrest⟩ := flitReceive_taken hon hup hcrc (by rw [hcount]; split <;> omega)
  obtain ⟨hst, -, -, -, hnakIn, hnakFrom⟩ := (s.port p.val).received_header w s.gt
  rw [← hport] at hst hnakIn hnakFrom
  exact ⟨t, hexec, hnakIn.trans hin, hnakFrom.trans hfrom, hst.trans hup, hrest⟩

theorem flitReceive_eighth_nak (hrun : (s.port p.val).nakRun = 7) (hsame : (s.port p.val).nakSeq = (bits w 20 12 + 1) % 4096) :
    ∃ t, exec (.flitReceive p w) s = .next t ∧ (t.port p.val).st ≠ 2 ∧ (t.port p.val).cause = 1 ∧ t.mem = s.mem := by
  obtain ⟨-, -, hcount⟩ := (s.port p.val).answers_nak w hnak
  rw [if_pos ⟨hsame, by omega⟩, hrun] at hcount
  obtain ⟨t, hexec, hport, hmem, -⟩ := exec_flitReceive_valid hon hup hcrc
  obtain ⟨hst, -⟩ := (s.port p.val).received_header w s.gt
  have hnot : (t.port p.val).st ≠ 0 := by
    rw [hport, hst, hup]
    decide
  refine ⟨_, hexec.trans (congrArg _ (if_pos (by omega))), ?_, ?_, State.portDown_keeps ((frees_mem (· = s.mem)).sub rfl) _ _ _ hmem⟩
  · rw [State.portDown_port hnot]
    exact NlPort.down_st _ _
  · rw [State.portDown_port hnot]
    rfl

end
end

end Sys2Proof.Machine

namespace Sys2Proof
open Machine

/-- Settles O36: what a slot carries by `NlPort.choose`, what a valid flit leaves by `NlPort.received`. -/
theorem flits : Obligations.flits := by
  refine ⟨?_, ?_⟩
  · intro p s hon q
    refine ⟨exec_flitSlot_not_up hon, fun hup => ?_⟩
    obtain ⟨t, due, ctrl, w, hexec, hport, hmem, hjobs, hothers⟩ := flitSlot_effect hon hup
    obtain ⟨hrx, hpkts⟩ := ({ q with twDue := due, ctrlTx := ctrl } : NlPort).chosen_received
    refine ⟨t, hexec, ?_⟩
    rw [hport]
    refine ⟨rfl, rfl, hrx, hpkts, hmem, hjobs, hothers, fun e l hresend => ?_, fun v f l hresend hroom hchannel hline => ?_,
      fun hresend hidle => ?_⟩
    · rw [NlPort.chosen_resend (q := { s.port p.val with twDue := due, ctrlTx := ctrl }) hresend]
      exact ⟨rfl, rfl, rfl, rfl, rfl⟩
    · rw [NlPort.chosen_next (q := { s.port p.val with twDue := due, ctrlTx := ctrl }) hresend hroom hchannel hline]
      exact ⟨rfl, rfl, rfl, rfl, hresend⟩
    · rw [NlPort.chosen_idle (q := { s.port p.val with twDue := due, ctrlTx := ctrl }) hresend hidle]
      exact ⟨rfl, rfl, rfl, rfl⟩
  · intro p w s hon q
    refine ⟨fun hst => ⟨exec_flitReceive_not_up hon hst w, exec_nakReplay_idle hon (.inl hst)⟩, fun hup => ⟨fun hcrc => ?_,
      fun hcrc hrun hnak => ?_, fun hcrc hnak => ⟨flitReceive_nak hon hup hcrc hnak, flitReceive_eighth_nak hon hup hcrc hnak⟩,
      fun hasked => ⟨_, exec_nakReplay_asked hon hup hasked, State.port_setPort_self _ _ _, rfl⟩, fun h => exec_nakReplay_idle hon (.inr h)⟩⟩
    · exact ⟨_, exec_flitReceive_crc hon hup hcrc,
        State.lostPieces_keeps ((frees_ports fun l => tabGet NlPort.reset l p.val = _).sub rfl) _ _ (State.port_setPort_self _ _ _),
        State.lostPieces_keeps ((frees_mem (· = s.mem)).sub rfl) _ _ rfl, State.lostPieces_keeps ((frees_jobs (· = s.jobs)).sub rfl) _ _ rfl⟩
    · obtain ⟨t, hexec, hport, hmem, hjobs⟩ := flitReceive_taken hon hup hcrc (Nat.lt_of_le_of_lt (q.answers_nakRun_le w hnak) hrun)
      obtain ⟨hst, hsilent, hcred, hreplay, -⟩ := q.received_header w s.gt
      refine ⟨t, hexec, hmem, hjobs, ?_⟩
      rw [hport]
      exact ⟨hst.trans hup, hsilent, hcred, NlPort.received_idle _, fun htype hvc => ⟨NlPort.received_next _ htype hvc,
        NlPort.received_other _ htype hvc, NlPort.received_before _ htype hvc, NlPort.received_gap _ htype hvc⟩,
        fun hack => hreplay.trans (q.answers_replay w hack)⟩

end Sys2Proof
end

section
/-! PROOF. Invalidations of cached translations, and the pins of a context (R388, R391, R394); O42. -/

namespace Sys2Proof.Machine

/-! ### The context written -/

theorem State.ctxAt_updCtx (s : State) (n : Nat) (f : CtxSt → CtxSt) : (s.updCtx n f).ctxAt n = f (s.ctxAt n) := State.ctxAt_setCtx s n _

/-- A part of the contexts that an update leaves in its context is left in every context. -/
theorem State.updCtx_part {α : Type} (g : CtxSt → α) (s : State) (a b : Nat) {f : CtxSt → CtxSt} (hf : g (f (s.ctxAt a)) = g (s.ctxAt a)) :
    g ((s.updCtx a f).ctxAt b) = g (s.ctxAt b) := by
  by_cases h : b = a
  · rw [h, State.ctxAt_updCtx, hf]
  · rw [State.updCtx, State.ctxAt_setCtx_other _ _ _ _ h]

theorem CtxSt.pinAt_setPin (c : CtxSt) (i k : Nat) (p : PinEnt) : (c.setPin i p).pinAt k = if k = i then p else c.pinAt k :=
  tabGet_tabSet _ _ _ _ _

/-- An update of one PIN entry: that entry, and the others as they were. -/
theorem State.pinAt_updCtx (s : State) (n i k : Nat) (g : CtxSt → PinEnt) :
    ((s.updCtx n fun c => c.setPin i (g c)).ctxAt n).pinAt k = if k = i then g (s.ctxAt n) else (s.ctxAt n).pinAt k := by
  rw [State.ctxAt_updCtx, CtxSt.pinAt_setPin]

/-! ### Pins revoked (R394) -/

/-- The locked entries that stay: those of no pin in the list. -/
theorem State.foldl_revoke_locked (s : State) (ps : List (Nat × Nat)) :
    (ps.foldl (fun s p => s.revoke p.1 p.2) s).locked = s.locked.filter fun e => !ps.contains (e.ctx, e.pin) := by
  induction ps generalizing s with
  | nil => simp
  | cons p ps ih =>
    have hone : (s.revoke p.1 p.2).locked = s.locked.filter fun e => !(e.ctx == p.1 && e.pin == p.2) := rfl
    rw [List.foldl_cons, ih, hone, List.filter_filter]
    refine List.filter_congr fun e _ => ?_
    have hp : ((e.ctx, e.pin) == p) = (e.ctx == p.1 && e.pin == p.2) := rfl
    rw [List.contains_cons, hp, Bool.not_or, Bool.and_comm]

/-- A revocation leaves no entry of the kind it names, and adds none. -/
theorem State.mem_revokeBy_locked {s : State} {hit : TlbEntry → Bool} {e : TlbEntry} (he : e ∈ (s.revokeBy hit).locked) :
    e ∈ s.locked ∧ hit e = false := by
  rw [State.revokeBy, State.foldl_revoke_locked, List.mem_filter] at he
  obtain ⟨hmem, hkept⟩ := he
  refine ⟨hmem, Bool.eq_false_iff.mpr fun hhit => ?_⟩
  have hpin : (e.ctx, e.pin) ∈ ((s.locked.filter hit).map fun e => (e.ctx, e.pin)).eraseDups :=
    List.mem_eraseDups.mpr (List.mem_map_of_mem (List.mem_filter.mpr ⟨hmem, hhit⟩))
  rw [List.contains_iff_mem.mpr hpin] at hkept
  exact absurd hkept (by decide)

/-- A revocation writes the pins of contexts and nothing else of them. -/
theorem State.revokeBy_part {α : Type} (g : CtxSt → α) (hg : ∀ (c : CtxSt) i p, g (c.setPin i p) = g c) (s : State) (hit : TlbEntry → Bool)
    (n : Nat) : g ((s.revokeBy hit).ctxAt n) = g (s.ctxAt n) :=
  Keep.foldl (P := fun t => g (t.ctxAt n) = g (s.ctxAt n))
    (fun t p ht => (State.updCtx_part g (t.dropLocked p.1 p.2) p.1 n (hg _ _ _)).trans ht) rfl

@[simp] theorem State.revokeBy_tlb (s : State) (hit : TlbEntry → Bool) : (s.revokeBy hit).tlb = s.tlb :=
  State.revokeBy_keeps ((frees_tlb (· = s.tlb)).sub rfl) _ _ rfl

@[simp] theorem State.revokeBy_mem (s : State) (hit : TlbEntry → Bool) : (s.revokeBy hit).mem = s.mem :=
  State.revokeBy_keeps ((frees_mem (· = s.mem)).sub rfl) _ _ rfl

/-! ### The word of INVAL_CTRL (R388) -/

/-- A packed word bit by bit: its first field, or the others. -/
theorem getLsbD_pack_cons (n lo len v : Nat) (l : List (Nat × Nat × Nat)) (i : Nat) :
    (pack n ((lo, len, v) :: l)).getLsbD i =
      (decide (i < n ∧ lo ≤ i ∧ i < lo + len) && v.testBit (i - lo) || (pack n l).getLsbD i) := by
  rw [pack, BitVec.getLsbD_or, BitVec.getLsbD_ofNat, Nat.testBit_shiftLeft, Nat.testBit_mod_two_pow]
  by_cases hlo : lo ≤ i
  · have hlen : i - lo < len ↔ i < lo + len := by omega
    simp [hlo, hlen, Bool.and_assoc]
  · simp [hlo]

/-- ALL and PAGES of a value written with GO; DONE reads 0. -/
def invalWord (v : U64) : U64 := pack 64 [(1, 1, bits v 1 1), (2, 1, 0), (16, 32, bits v 16 32)]

theorem invalWord_done (v : U64) : bit (invalWord v) 2 = false := by
  rw [bit, invalWord, getLsbD_pack_cons, getLsbD_pack_cons, getLsbD_pack_cons]
  simp [pack]

theorem invalWord_pages (v : U64) : bits (invalWord v) 16 32 = bits v 16 32 := by
  refine Nat.eq_of_testBit_eq fun i => ?_
  rw [testBit_bits, invalWord, getLsbD_pack_cons, getLsbD_pack_cons, getLsbD_pack_cons, Nat.add_sub_cancel_left, testBit_bits v 16 32]
  by_cases hi : i < 32
  · have hin : 16 + i < 64 ∧ 16 ≤ 16 + i ∧ 16 + i < 16 + 32 := by omega
    have hall : ¬ (16 + i < 64 ∧ 1 ≤ 16 + i ∧ 16 + i < 1 + 1) := by omega
    rw [decide_eq_true hin, decide_eq_false hall]
    simp [hi, pack]
  · rw [decide_eq_false hi, Bool.false_and, Bool.false_and]

/-! ### INVALIDATE and INVALIDATE_DONE (R388) -/

/-- A context whose invalidation of the range a value names begins. -/
def CtxSt.invalidating (c : CtxSt) (v : U64) : CtxSt := { c with invalCtrl := invalWord v, invalBusy := true }

/-- The entry belongs to the address space of a context and lies in the range its INVAL_CTRL names. -/
def CtxSt.invalCovers (c : CtxSt) (e : TlbEntry) : Bool := e.asid == c.asid && c.invalHits e.lo e.size

section
variable {s : State} {n : Nat} {v : U64}

theorem State.finishInval_idle (h : (s.ctxAt n).invalBusy = false) : s.finishInval n = s := by simp [State.finishInval, h]

/-- An invalidation under way completes: what it covers is cached no more, and DONE reads 1. -/
theorem State.finishInval_busy (h : (s.ctxAt n).invalBusy = true) :
    s.finishInval n = ({ s with tlb := s.tlb.filter fun e => !(s.ctxAt n).invalCovers e } : State).setCtx n
      { s.ctxAt n with invalBusy := false, invalCtrl := putField (s.ctxAt n).invalCtrl 2 1 1 } := by
  simp [State.finishInval, h, CtxSt.invalCovers]

/-- GO: what was under way completes, the new range is under way, the pins it covers are revoked. -/
theorem State.writeInval_go (h : bit v 0 = true) :
    s.writeInval n v = ((s.finishInval n).setCtx n (((s.finishInval n).ctxAt n).invalidating v)).revokeBy
      (((s.finishInval n).ctxAt n).invalidating v).invalCovers := by
  unfold State.writeInval
  simp only [h, if_true, Bool.or_true]
  rfl

/-- A write of GO leaves the context at its new range, under way. -/
theorem State.writeInval_go_ctx (h : bit v 0 = true) :
    ((s.writeInval n v).ctxAt n).invalBusy = true ∧ ((s.writeInval n v).ctxAt n).invalCtrl = invalWord v ∧
      ((s.writeInval n v).ctxAt n).invalBase = ((s.finishInval n).ctxAt n).invalBase := by
  rw [State.writeInval_go h]
  refine ⟨?_, ?_, ?_⟩
  · rw [State.revokeBy_part CtxSt.invalBusy fun _ _ _ => rfl, State.ctxAt_setCtx, CtxSt.invalidating]
  · rw [State.revokeBy_part CtxSt.invalCtrl fun _ _ _ => rfl, State.ctxAt_setCtx, CtxSt.invalidating]
  · rw [State.revokeBy_part CtxSt.invalBase fun _ _ _ => rfl, State.ctxAt_setCtx, CtxSt.invalidating]

theorem State.writeInval_go_tlb (h : bit v 0 = true) : (s.writeInval n v).tlb = (s.finishInval n).tlb := by
  rw [State.writeInval_go h, State.revokeBy_tlb, State.setCtx_tlb]

@[simp] theorem State.writeInval_mem (s : State) (n : Nat) (v : U64) : (s.writeInval n v).mem = s.mem :=
  State.writeInval_keeps ((frees_mem (· = s.mem)).sub rfl) _ _ _ rfl

/-- No locked entry that GO's range covers stays. -/
theorem State.writeInval_go_locked (h : bit v 0 = true) (hidle : (s.ctxAt n).invalBusy = false) {e : TlbEntry}
    (he : e ∈ (s.writeInval n v).locked) :
    e ∈ s.locked ∧ ¬(e.asid = (s.ctxAt n).asid ∧ ((s.writeInval n v).ctxAt n).invalHits e.lo e.size = true) := by
  obtain ⟨-, hctrl, hbase⟩ := State.writeInval_go_ctx (s := s) (n := n) h
  rw [State.writeInval_go h] at he
  obtain ⟨hmem, hkept⟩ := State.mem_revokeBy_locked he
  rw [State.finishInval_idle hidle] at hmem hkept hbase
  refine ⟨hmem, fun ⟨hasid, hhits⟩ => ?_⟩
  have hrange : ((s.writeInval n v).ctxAt n).invalHits e.lo e.size = ((s.ctxAt n).invalidating v).invalHits e.lo e.size := by
    rw [CtxSt.invalHits, CtxSt.invalHits, hctrl, hbase, CtxSt.invalidating]
  have hspace : ((s.ctxAt n).invalidating v).asid = (s.ctxAt n).asid := rfl
  rw [CtxSt.invalCovers, hspace, ← hrange, hhits, hasid] at hkept
  simp at hkept

end

/-- An entry whose EN is cleared: IDLE, and gone for good if it was pinned or revoked. -/
def PinEnt.released (p : PinEnt) : PinEnt := { p with en := false, st := 0, cause := 0, gone := p.st == 2 || p.st == 4 }

/-- A register access by a host port is served: the module is on, BAR0 is open and the port's die answers (R474, R483). -/
structure State.Open (s : State) (f : Func) : Prop where
  on : s.pwr.on = true
  bar : s.barOpen = true
  die : s.dieAnswers (30 + f.port.val) = true

section
variable {s : State} {f : Func} {v : U64} (hs : s.Open f)
include hs

theorem State.byBar_of_open (g : State → State) : s.byBar (30 + f.port.val) g = .next (g s) := s.byBar_open _ g hs.on hs.bar hs.die

theorem exec_invalidate_go (hgo : bit v 0 = true) : exec (.invalidate f v) s = .next (s.writeInval f.ctx v) := by
  rw [exec, execInvalidate, State.byBar_of_open hs, if_pos hgo]

/-- GO while none is under way: the range is under way, the pins it covers are revoked. -/
theorem invalidate_begins (hgo : bit v 0 = true) (hidle : (s.ctxAt f.ctx).invalBusy = false) :
    ∃ t, exec (.invalidate f v) s = .next t ∧ (t.ctxAt f.ctx).invalBusy = true ∧ bit (t.ctxAt f.ctx).invalCtrl 2 = false ∧
      bits (t.ctxAt f.ctx).invalCtrl 16 32 = bits v 16 32 ∧ t.tlb = s.tlb ∧ t.mem = s.mem ∧
      (∀ e ∈ t.locked, e ∈ s.locked ∧ ¬(e.asid = (s.ctxAt f.ctx).asid ∧ (t.ctxAt f.ctx).invalHits e.lo e.size = true)) := by
  obtain ⟨hbusy, hctrl, -⟩ := State.writeInval_go_ctx (s := s) (n := f.ctx) hgo
  refine ⟨_, exec_invalidate_go hs hgo, hbusy, ?_, ?_, ?_, State.writeInval_mem _ _ _, fun e => State.writeInval_go_locked hgo hidle⟩
  · rw [hctrl, invalWord_done]
  · rw [hctrl, invalWord_pages]
  · rw [State.writeInval_go_tlb hgo, State.finishInval_idle hidle]

/-- GO while one is under way: that one completes with the range it had. -/
theorem invalidate_follows (hgo : bit v 0 = true) (hbusy : (s.ctxAt f.ctx).invalBusy = true) :
    ∃ t, exec (.invalidate f v) s = .next t ∧ (t.ctxAt f.ctx).invalBusy = true ∧
      t.tlb = s.tlb.filter (fun e => !(e.asid == (s.ctxAt f.ctx).asid && (s.ctxAt f.ctx).invalHits e.lo e.size)) ∧
      bits (t.ctxAt f.ctx).invalCtrl 16 32 = bits v 16 32 ∧ t.mem = s.mem := by
  obtain ⟨hnew, hctrl, -⟩ := State.writeInval_go_ctx (s := s) (n := f.ctx) hgo
  refine ⟨_, exec_invalidate_go hs hgo, hnew, ?_, ?_, State.writeInval_mem _ _ _⟩
  · rw [State.writeInval_go_tlb hgo, State.finishInval_busy hbusy]
    rfl
  · rw [hctrl, invalWord_pages]

/-! ### PIN_ENABLE and PIN_DISABLE (R391, R394) -/

variable {i : Fin 64}

/-- Without GO, or without EN in the value, nothing is written. -/
theorem exec_without_go (h : bit v 0 = false) : exec (.invalidate f v) s = .next s ∧ exec (.pinEnable f i v) s = .next s := by
  rw [exec, exec, execInvalidate, execPinEnable, State.byBar_of_open hs, State.byBar_of_open hs, if_neg (ne_true_of_eq_false h),
    if_neg (ne_true_of_eq_false h)]
  exact ⟨rfl, rfl⟩

theorem exec_pinEnable_set (hen : ((s.ctxAt f.ctx).pinAt i.val).en = true) : exec (.pinEnable f i v) s = .next s := by
  have hset : s.writePinLo f.ctx i.val v = s := if_pos hen
  rw [exec, execPinEnable, State.byBar_of_open hs, hset, ite_self]

theorem pinEnable_begins (hen : ((s.ctxAt f.ctx).pinAt i.val).en = false) (hv : bit v 0 = true) :
    ∃ t, exec (.pinEnable f i v) s = .next t ∧
      (t.ctxAt f.ctx).pinAt i.val =
        { (s.ctxAt f.ctx).pinAt i.val with en := true, w := bit v 1, base := bits v 16 41 * 65536, st := 1, cause := 0, gone := false } ∧
      (∀ k, k ≠ i.val → (t.ctxAt f.ctx).pinAt k = (s.ctxAt f.ctx).pinAt k) ∧ t.locked = s.locked ∧ t.mem = s.mem := by
  refine ⟨s.writePinLo f.ctx i.val v, ?_, ?_, fun k hk => ?_, ?_, ?_⟩
  · rw [exec, execPinEnable, State.byBar_of_open hs, if_pos hv]
  all_goals rw [State.writePinLo, if_neg (ne_true_of_eq_false hen)]
  · rw [State.pinAt_updCtx, if_pos rfl, hv]
    rfl
  · rw [State.pinAt_updCtx, if_neg hk]
  · rfl
  · rfl

theorem exec_pinDisable_clear (hen : ((s.ctxAt f.ctx).pinAt i.val).en = false) : exec (.pinDisable f i) s = .next s := by
  have hclear : s.clearPin f.ctx i.val = s := if_pos (by rw [hen]; rfl)
  rw [exec, execPinDisable, State.byBar_of_open hs, hclear]

theorem pinDisable_releases (hen : ((s.ctxAt f.ctx).pinAt i.val).en = true) :
    ∃ t, exec (.pinDisable f i) s = .next t ∧
      (t.ctxAt f.ctx).pinAt i.val = ((s.ctxAt f.ctx).pinAt i.val).released ∧
      t.locked = s.locked.filter (fun e => !(e.ctx == f.ctx && e.pin == i.val)) ∧ t.mem = s.mem := by
  have hrel : s.clearPin f.ctx i.val = (s.dropLocked f.ctx i.val).updCtx f.ctx fun c =>
      c.setPin i.val ((s.ctxAt f.ctx).pinAt i.val).released := if_neg (by simp [hen])
  refine ⟨s.clearPin f.ctx i.val, ?_, ?_⟩
  · rw [exec, execPinDisable, State.byBar_of_open hs]
  · rw [hrel]
    exact ⟨(State.pinAt_updCtx _ _ _ _ _).trans (if_pos rfl), rfl, rfl⟩

end

/-! ### PIN_COMPLETE (R391) -/

/-- What ends a pin: its state and cause, and the entries locked for it. -/
theorem State.endPin_effect (s : State) (n i st cause : Nat) (l : List TlbEntry) :
    ((s.endPin n i st cause l).ctxAt n).pinAt i = { (s.ctxAt n).pinAt i with st := st, cause := cause } ∧
      (s.endPin n i st cause l).locked = s.locked ++ l ∧ (s.endPin n i st cause l).mem = s.mem := by
  have hpin := State.pinAt_updCtx { s with locked := s.locked ++ l } n i i fun c => { c.pinAt i with st := st, cause := cause }
  rw [if_pos rfl] at hpin
  unfold State.endPin
  dsimp only
  split
  · exact ⟨hpin, rfl, rfl⟩
  · exact ⟨hpin, rfl, rfl⟩

/-- The locked entry a pin's leaf loads, with the host translations it takes. -/
def State.pinEntry (s : State) (n i : Nat) (l : Leaf × Nat) : TlbEntry :=
  { die := 0, asid := (s.ctxAt n).asid, lo := l.1.lo, size := l.1.size, tgt := l.1.tgt, out := l.1.out, w := l.1.w, ctx := n, pin := i, grants := l.2 }

/-- Entries that lead to no host lock no host translation. -/
theorem grantsOf_append_device (port : Nat) (l m : List TlbEntry) (h : ∀ e ∈ m, e.tgt = 0) : grantsOf port (l ++ m) = grantsOf port l := by
  have hnone : m.filter (fun e => e.tgt == port + 1) = [] := List.filter_eq_nil_iff.mpr fun e he => by simp [h e he]
  rw [grantsOf, List.filter_append, hnone, List.append_nil, grantsOf]

section
variable {s : State} {n : Fin 32} {i : Fin 64} {q : PinEnt} (hon : s.pwr.on = true) (hq : (s.ctxAt n.val).pinAt i.val = q)
include hon hq

theorem exec_pinComplete_not_pinning (hst : q.st ≠ 1) : exec (.pinComplete n i) s = .next s := by
  rw [exec, execPinComplete, s.ran_on _ hon]
  dsimp only
  rw [hq, if_pos (.inl hst)]

variable (hst : q.st = 1) (hen : q.en = true)
include hst hen

theorem pinComplete_fails {k : Nat} (hwalk : s.pinWalk n.val q.w q.base q.limit 513 q.base = .failed k) :
    ∃ t, exec (.pinComplete n i) s = .next t ∧ (t.ctxAt n.val).pinAt i.val = { q with st := 3, cause := k } ∧ t.locked = s.locked := by
  obtain ⟨hpin, hlocked, -⟩ := s.endPin_effect n.val i.val 3 k []
  refine ⟨s.endPin n.val i.val 3 k [], ?_, hpin.trans (by rw [hq]), hlocked.trans (List.append_nil _)⟩
  rw [exec, execPinComplete, s.ran_on _ hon]
  dsimp only
  rw [hq, if_neg (by simp [hst, hen]), hwalk]

theorem exec_pinComplete_asks {port page : Nat} (hwalk : s.pinWalk n.val q.w q.base q.limit 513 q.base = .ask port page) :
    exec (.pinComplete n i) s = .next (s.askHost port n.val page true) := by
  rw [exec, execPinComplete, s.ran_on _ hon]
  dsimp only
  rw [hq, if_neg (by simp [hst, hen]), hwalk]

variable {ls : List (Leaf × Nat)} (hwalk : s.pinWalk n.val q.w q.base q.limit 513 q.base = .leaves ls) (htgt : ∀ l ∈ ls, l.1.tgt = 0)
  (hA : grantsOf 0 s.locked ≤ 16384) (hB : grantsOf 1 s.locked ≤ 16384)
include hwalk htgt hA hB

/-- The range is walked, no leaf of it a host's: FULL if its leaves do not fit the 512 locked entries, else PINNED. -/
theorem exec_pinComplete_leaves :
    exec (.pinComplete n i) s = .next (if 512 < s.locked.length + ls.length then s.endPin n.val i.val 3 4 []
      else s.endPin n.val i.val 2 0 (ls.map (s.pinEntry n.val i.val))) := by
  have hdevice : ∀ e ∈ ls.map (s.pinEntry n.val i.val), e.tgt = 0 := by
    intro e he
    obtain ⟨l, hl, rfl⟩ := List.mem_map.mp he
    exact htgt l hl
  have hfull : (decide (512 < (s.locked ++ ls.map (s.pinEntry n.val i.val)).length) ||
      decide (16384 < grantsOf 0 (s.locked ++ ls.map (s.pinEntry n.val i.val))) ||
      decide (16384 < grantsOf 1 (s.locked ++ ls.map (s.pinEntry n.val i.val)))) = decide (512 < s.locked.length + ls.length) := by
    rw [grantsOf_append_device _ _ _ hdevice, grantsOf_append_device _ _ _ hdevice, List.length_append, List.length_map,
      decide_eq_false (Nat.not_lt.mpr hA), decide_eq_false (Nat.not_lt.mpr hB), Bool.or_false, Bool.or_false]
  rw [exec, execPinComplete, s.ran_on _ hon]
  dsimp only
  rw [hq, if_neg (by simp [hst, hen]), hwalk]
  exact congrArg Host.Outcome.next (if_congr ((Bool.eq_iff_iff.mp hfull).trans decide_eq_true_iff) rfl rfl)

theorem pinComplete_full (hfull : 512 < s.locked.length + ls.length) :
    ∃ t, exec (.pinComplete n i) s = .next t ∧ (t.ctxAt n.val).pinAt i.val = { q with st := 3, cause := 4 } ∧ t.locked = s.locked := by
  obtain ⟨hpin, hlocked, -⟩ := s.endPin_effect n.val i.val 3 4 []
  refine ⟨_, exec_pinComplete_leaves hon hq hst hen hwalk htgt hA hB, ?_⟩
  rw [if_pos hfull]
  exact ⟨hpin.trans (by rw [hq]), hlocked.trans (List.append_nil _)⟩

theorem pinComplete_pins (hroom : s.locked.length + ls.length ≤ 512) :
    ∃ t, exec (.pinComplete n i) s = .next t ∧ (t.ctxAt n.val).pinAt i.val = { q with st := 2, cause := 0 } ∧ t.mem = s.mem ∧
      t.locked = s.locked ++ ls.map fun l =>
        { die := 0, asid := (s.ctxAt n.val).asid, lo := l.1.lo, size := l.1.size, tgt := 0, out := l.1.out, w := l.1.w, ctx := n.val, pin := i.val,
          grants := l.2 } := by
  obtain ⟨hpin, hlocked, hmem⟩ := s.endPin_effect n.val i.val 2 0 (ls.map (s.pinEntry n.val i.val))
  refine ⟨_, exec_pinComplete_leaves hon hq hst hen hwalk htgt hA hB, ?_⟩
  rw [if_neg (Nat.not_lt.mpr hroom)]
  refine ⟨hpin.trans (by rw [hq]), hmem, hlocked.trans (congrArg _ (List.map_congr_left fun l hl => ?_))⟩
  rw [State.pinEntry, htgt l hl]

end

end Sys2Proof.Machine

namespace Sys2Proof
open Machine

/-- Settles O42: one lemma for each outcome of a command, by what INVAL_CTRL, the PIN entry and the walk of its range say. -/
theorem invalidationAndPins : Obligations.invalidation_and_pins := by
  intro f i v s hon hbar hdie
  have hs : s.Open f := ⟨hon, hbar, hdie⟩
  refine ⟨invalidate_begins hs, invalidate_follows hs, exec_without_go hs, fun n => ⟨fun hidle => ?_, fun hbusy => ?_⟩, exec_pinEnable_set hs,
    pinEnable_begins hs, exec_pinDisable_clear hs, pinDisable_releases hs, fun n => ⟨exec_pinComplete_not_pinning hon rfl,
      fun k hst hen => pinComplete_fails hon rfl hst hen, fun port page hst hen => exec_pinComplete_asks hon rfl hst hen,
      fun ls hst hen hwalk htgt hA hB => ⟨pinComplete_full hon rfl hst hen hwalk htgt hA hB, pinComplete_pins hon rfl hst hen hwalk htgt hA hB⟩⟩⟩
  · rw [exec, execInvalidateDone, s.ran_on _ hon, State.finishInval_idle hidle]
  · rw [exec, execInvalidateDone, s.ran_on _ hon, State.finishInval_busy hbusy]
    rfl

end Sys2Proof
end

section
/-! PROOF. Walks of the tables, and what a stream's access meets (R384, R386 to R388, R393, R396, R400); O40. -/

namespace Sys2Proof.Machine

/-! ### The leaf a walk ends at (R384, R386) -/

theorem pageSize_cases (level : Nat) : pageSize level = 2 ^ 16 ∨ pageSize level = 2 ^ 21 ∨ pageSize level = 2 ^ 30 := by
  unfold pageSize
  split
  · exact .inr (.inr rfl)
  · exact .inr (.inl rfl)
  · exact .inl rfl

/-- The page of an address: it holds the address and is aligned. -/
theorem page_of_address {size : Nat} (h : 0 < size) (a : Nat) : a / size * size ≤ a ∧ a < a / size * size + size ∧ a / size * size % size = 0 :=
  ⟨Nat.div_mul_le_self a size, Nat.lt_div_mul_add h, Nat.mul_mod_left _ _⟩

/-- A leaf that is accepted maps the page of its address to an aligned place. -/
theorem checkLeaf_ok {dva addr level : Nat} {e : U64} {l : Leaf} (h : checkLeaf dva e addr level = .ok l) :
    l.lo ≤ dva ∧ dva < l.lo + l.size ∧ l.lo % l.size = 0 ∧ l.out % l.size = 0 ∧ (l.size = 2 ^ 16 ∨ l.size = 2 ^ 21 ∨ l.size = 2 ^ 30) := by
  have hsize := pageSize_cases level
  obtain ⟨hle, hlt, halign⟩ := page_of_address (size := pageSize level) (by omega) dva
  rw [checkLeaf] at h
  split at h
  · cases h
  · next hok =>
    cases h
    have hout : addr % pageSize level = 0 := by
      simp only [Bool.or_eq_true, bne_iff_ne, ne_eq, not_or, Decidable.not_not] at hok
      exact hok.1
    exact ⟨hle, hlt, halign, hout, hsize⟩

/-- Where a walk ends well, the leaf of some level was accepted. -/
theorem State.walkFrom_ok {s : State} {dva : Nat} {l : Leaf} {level table : Nat} (h : s.walkFrom dva level table = .ok l) :
    ∃ e addr k, checkLeaf dva e addr k = .ok l := by
  induction level generalizing table with
  | zero =>
    rw [State.walkFrom] at h
    dsimp only at h
    iterate 4 (split at h; · cases h)
    exact ⟨_, _, _, h⟩
  | succ n ih =>
    rw [State.walkFrom] at h
    dsimp only at h
    iterate 3 (split at h; · cases h)
    split at h
    · split at h
      · cases h
      · exact ⟨_, _, _, h⟩
    split at h
    · cases h
    · exact ih h

theorem State.walk_ok {s : State} {ctx dva : Nat} {l : Leaf} (h : s.walk ctx dva = .ok l) : ∃ e addr k, checkLeaf dva e addr k = .ok l := by
  unfold State.walk at h
  dsimp only at h
  iterate 2 (split at h; · cases h)
  exact State.walkFrom_ok h

/-- With translation off every address is NOT_PRESENT (R387). -/
theorem State.walk_disabled {s : State} {ctx : Nat} (dva : Nat) (h : bit (s.ctxAt ctx).ttCtrl 0 = false) : s.walk ctx dva = .bad 1 :=
  if_pos (by rw [h]; rfl)

/-! ### Translations of an access -/

section
variable {s : State} {die ctx dva : Nat} {wr : Bool}

theorem find?_none_of_any_false {α : Type} {l : List α} {p : α → Bool} (h : l.any p = false) : l.find? p = none :=
  List.find?_eq_none.mpr (List.any_eq_false.mp h)

section
variable (hmiss : s.tlb.any (fun e => e.die == die && e.covers (s.ctxAt ctx).asid dva) = false)
include hmiss

/-- Where nothing is cached the walk decides. -/
theorem State.openXlate_walked {l : Leaf} (hwalk : s.walk ctx dva = .ok l) : s.openXlate die ctx dva wr = s.useLeaf ctx l dva wr false := by
  rw [State.openXlate, find?_none_of_any_false hmiss, hwalk]

theorem State.openXlate_bad {k : Nat} (hwalk : s.walk ctx dva = .bad k) : s.openXlate die ctx dva wr = .bad k := by
  rw [State.openXlate, find?_none_of_any_false hmiss, hwalk]

end

/-- A device-physical leaf that allows the access leads to its place. -/
theorem State.useLeaf_device {l : Leaf} (htgt : l.tgt = 0) (hperm : (if wr then l.w else l.r) = true) :
    s.useLeaf ctx l dva wr false = s.physCheck (l.out + (dva - l.lo)) := by
  have hallow : ((wr && !l.w) || (!wr && !l.r)) = false := by cases wr <;> simpa using hperm
  rw [State.useLeaf, if_neg (ne_true_of_eq_false hallow)]
  dsimp only
  rw [if_pos htgt]

/-- An access that no locked entry covers is NOT_PINNED or PIN_REVOKED (R393, R394). -/
theorem State.lockedXlate_miss (hmiss : s.locked.any (fun e => e.covers (s.ctxAt ctx).asid dva) = false) :
    s.lockedXlate ctx dva wr = .bad 0xA ∨ s.lockedXlate ctx dva wr = .bad 0xB := by
  rw [State.lockedXlate, find?_none_of_any_false hmiss]
  dsimp only
  split
  · exact .inr rfl
  · exact .inl rfl

variable {w : Who}

theorem State.locate_ok {p : Loc} (h : s.xlate w.die w.ctx w.lockedOnly dva wr = .ok p) : s.locate w dva wr = .ok p := by
  rw [State.locate, h]

/-- A translation's fault is that of the access, at the address itself; poison aside, it has the access's type. -/
theorem State.locate_bad {k : Nat} (h : s.xlate w.die w.ctx w.lockedOnly dva wr = .bad k) (hk : k ≠ 0xC) :
    s.locate w dva wr = .bad k (b2n wr) dva dva := by
  rw [State.locate, h]
  dsimp only
  rw [if_neg hk]

end

/-! ### A job that ends leaves no live job of its JOB_ID (R423) -/

theorem State.release_gone (s : State) (j : Job) : (s.release j).job? j.jid = none := by
  unfold State.release State.job?
  rw [State.updCtx, State.setCtx_jobs]
  refine List.find?_eq_none.mpr fun k hk => ?_
  obtain ⟨-, hjid⟩ := List.mem_filter.mp hk
  rw [bne_iff_ne] at hjid
  simp [hjid]

theorem State.abortJob_gone (s : State) (k : U64) (disp : Nat) : (s.abortJob k disp).job? k = none := by
  rw [State.abortJob]
  cases hjob : s.job? k with
  | none => rw [State.withJob, hjob]; exact hjob
  | some j =>
    obtain ⟨-, rfl, -⟩ := s.job?_some k j hjob
    rw [s.withJob_some _ _ j hjob, State.finish, State.release_gone]

theorem State.jobFault_gone (s : State) (k : U64) (cause access unit : Nat) (isDie : Bool) (dva bytes : Nat) :
    (s.jobFault k cause access unit isDie dva bytes).job? k = none := by
  rw [State.jobFault]
  cases hjob : s.job? k with
  | none => rw [State.withJob, hjob]; exact hjob
  | some j => rw [s.withJob_some _ _ j hjob, State.abortJob_gone]

/-! ### A stream's first fault on a page (R396, R397) -/

/-- The outstanding fault of an access no other stream has faulted on. -/
def State.newFault (s : State) (w : Who) (cause access dva : Nat) : FaultSt :=
  { fid := BitVec.ofNat 32 (s.ctxAt w.ctx).nextFid, ctx := BitVec.toFin (BitVec.ofNat 5 w.ctx), jid := w.jid, stream := w.stream, joined := [],
    dva := dva, write := access == 1, cause := cause, pri := cause == 8 }

/-- A job that has faulted is not exact any more (R112). -/
def Job.faulting (j : Job) : Job := { j.reason 1 with faulted := true }

section
variable {s : State} {w : Who} {cause access dva bytes : Nat}
  (hfirst : s.faults.any (fun f => f.ctx.val == w.ctx && page64 f.dva == page64 dva && f.write == (access == 1)) = false) (hunit : w.isDie = false)
include hfirst hunit

/-- The unit waits after its record is posted, its fault outstanding, its job marked. -/
theorem State.stall_first : ∃ s1 : State, s.stall w cause access dva bytes =
      (({ s1 with faults := s1.faults ++ [s.newFault w cause access dva] } : State).updJob w.jid Job.faulting).setWait w.unit (.fault dva) ∧
    s1.faults = s.faults ∧ s1.jobs = s.jobs := by
  rw [State.stall]
  dsimp only
  rw [find?_none_of_any_false hfirst]
  dsimp only
  rw [hunit]
  exact ⟨s.postFault w.ctx _, rfl, State.postFault_keeps ((frees_faults (· = s.faults)).sub rfl) _ _ _ rfl,
    State.postFault_keeps ((frees_jobs (· = s.jobs)).sub rfl) _ _ _ rfl⟩

theorem State.stall_first_effect {j : Job} (hjob : s.job? w.jid = some j) :
    (s.stall w cause access dva bytes).faults = s.faults ++ [s.newFault w cause access dva] ∧
      ((s.stall w cause access dva bytes).unit w.unit).wait = .fault dva ∧
      (s.stall w cause access dva bytes).job? w.jid = some j.faulting := by
  obtain ⟨s1, hstall, hfaults, hjobs⟩ := State.stall_first (cause := cause) (bytes := bytes) hfirst hunit
  have hjob1 : ({ s1 with faults := s1.faults ++ [s.newFault w cause access dva] } : State).job? w.jid = some j := by
    rw [State.job?, hjobs]
    exact hjob
  rw [hstall]
  refine ⟨?_, State.setWait_wait _ _ _, ?_⟩
  · refine State.setWait_keeps ((frees_faults (· = _)).sub rfl) _ _ _ ?_
    rw [State.updJob, hfaults]
  · refine State.setWait_keeps ((frees_job w.jid (· = some j.faulting)).sub rfl) _ _ _ ?_
    rw [State.job?_updJob _ _ Job.faulting (fun _ => rfl) fun _ h => h, if_pos rfl, hjob1]
    rfl

end

/-! ### TRANSLATION_WALK -/

section
variable {s : State} {x : UnitId} {j : Job} {dva : Nat} {wr : Bool}

section
variable (hopen : j.guaranteed = false)
  (hmiss : s.tlb.any (fun e => e.die == x.addr / 16 && e.covers (s.ctxAt j.ctx.val).asid dva) = false)
include hopen hmiss

/-- The walk's device-physical page is cached on the die of the access. -/
theorem State.translated_cached {l : Leaf} (hwalk : s.walk j.ctx.val dva = .ok l) (htgt : l.tgt = 0) (hperm : (if wr then l.w else l.r) = true)
    (hcxl : inCxl (l.out + (dva - l.lo)) = false)
    (hphys : s.physCheck (l.out + (dva - l.lo)) = .ok (.phys (l.out + (dva - l.lo)))) :
    s.translated (whoOf x.addr j) j dva wr = s.cache (x.addr / 16) (s.ctxAt j.ctx.val).asid l := by
  have hloc : s.locate (whoOf x.addr j) dva wr = .ok (.phys (l.out + (dva - l.lo))) := by
    refine State.locate_ok ?_
    rw [State.xlate, whoOf, hopen, if_neg Bool.false_ne_true]
    exact (State.openXlate_walked hmiss hwalk).trans ((State.useLeaf_device htgt hperm).trans hphys)
  rw [State.translated, hloc]
  simp only [whoOf, hopen, hwalk, hcxl, Who.die, Bool.false_eq_true, if_false]

theorem State.translated_bad {k : Nat} (hwalk : s.walk j.ctx.val dva = .bad k) (hk : k ≤ 11) :
    s.translated (whoOf x.addr j) j dva wr = s.streamFault (whoOf x.addr j) k (b2n wr) dva dva 0 := by
  have hloc : s.locate (whoOf x.addr j) dva wr = .bad k (b2n wr) dva dva := by
    refine State.locate_bad ?_ (by omega)
    rw [State.xlate, whoOf, hopen, if_neg Bool.false_ne_true]
    exact State.openXlate_bad hmiss hwalk
  rw [State.translated, hloc]
  simp only [whoOf, hopen, hwalk, Bool.false_eq_true, if_false]

end

/-- A GUARANTEED job's access that no locked entry covers faults with NOT_PINNED or PIN_REVOKED; nothing is cached. -/
theorem State.translated_not_pinned (hguar : j.guaranteed = true)
    (hmiss : s.locked.any (fun e => e.covers (s.ctxAt j.ctx.val).asid dva) = false) : ∃ k ≤ 11,
    s.translated (whoOf x.addr j) j dva wr = s.streamFault (whoOf x.addr j) k (b2n wr) dva dva 0 := by
  have hbad : ∃ k ≤ 11, s.lockedXlate j.ctx.val dva wr = .bad k := by
    rcases State.lockedXlate_miss (wr := wr) hmiss with h | h
    · exact ⟨0xA, by decide, h⟩
    · exact ⟨0xB, by decide, h⟩
  obtain ⟨k, hk, hx⟩ := hbad
  have hloc : s.locate (whoOf x.addr j) dva wr = .bad k (b2n wr) dva dva := by
    refine State.locate_bad ?_ (by omega)
    rw [State.xlate, whoOf, hguar, if_pos rfl]
    exact hx
  refine ⟨k, hk, ?_⟩
  rw [State.translated, hloc]
  simp only [whoOf, hguar, if_true]

/-- A translation fault ends a GUARANTEED job, and stalls the unit of any other (R396, R400). -/
theorem State.streamFault_translation {w : Who} {k access addr bytes : Nat} (hjob : s.job? w.jid = some j) (hk : k ≤ 11) :
    s.streamFault w k access dva addr bytes =
      if j.guaranteed then s.jobFault w.jid k access w.unit w.isDie dva bytes else s.stall w k access dva bytes := by
  rw [State.streamFault, hjob]
  dsimp only
  rw [if_neg (by omega), if_neg (by omega), if_neg (by omega)]

variable {ctx : Fin 32} {a : BitVec 57} (hon : s.pwr.on = true) (hunit : (s.unit x.addr).job = some j.jid) (hjob : s.job? j.jid = some j)
include hon hunit hjob

theorem exec_translationWalk_of_job : exec (.translationWalk (.unit x) ctx a wr) s =
    .next (if j.ctx ≠ ctx then s else s.translated (whoOf x.addr j) j a.toNat wr) := by
  have hwho : s.streamWho (.unit x) = some (whoOf x.addr j) := by
    rw [State.streamWho, hunit, Option.bind_some, hjob, Option.map_some]
  have hctx : (whoOf x.addr j).ctx ≠ ctx.val ↔ j.ctx ≠ ctx := not_congr Fin.val_inj
  rw [exec, execTranslationWalk, s.ran_on _ hon, hwho]
  exact congrArg Host.Outcome.next (if_congr hctx rfl (s.withJob_some _ _ j hjob))

theorem translationWalk_other_ctx (hctx : j.ctx ≠ ctx) : exec (.translationWalk (.unit x) ctx a wr) s = .next s := by
  rw [exec_translationWalk_of_job hon hunit hjob, if_pos hctx]

theorem translationWalk_caches {l : Leaf} (hctx : j.ctx = ctx) (hopen : j.guaranteed = false) (hwalk : s.walk ctx.val a.toNat = .ok l)
    (hmiss : s.tlb.any (fun e => e.die == x.addr / 16 && e.covers (s.ctxAt ctx.val).asid a.toNat) = false) (htgt : l.tgt = 0)
    (hperm : (if wr then l.w else l.r) = true) (hcxl : inCxl (l.out + (a.toNat - l.lo)) = false)
    (hphys : s.physCheck (l.out + (a.toNat - l.lo)) = .ok (.phys (l.out + (a.toNat - l.lo)))) :
    exec (.translationWalk (.unit x) ctx a wr) s = .next (s.cache (x.addr / 16) (s.ctxAt ctx.val).asid l) := by
  subst hctx
  rw [exec_translationWalk_of_job hon hunit hjob, if_neg (not_not.mpr rfl), State.translated_cached hopen hmiss hwalk htgt hperm hcxl hphys]

theorem translationWalk_stalls {k : Nat} (hctx : j.ctx = ctx) (hopen : j.guaranteed = false) (hwalk : s.walk ctx.val a.toNat = .bad k)
    (hk : k ≤ 11) (hmiss : s.tlb.any (fun e => e.die == x.addr / 16 && e.covers (s.ctxAt ctx.val).asid a.toNat) = false)
    (hfirst : s.faults.any (fun f => f.ctx.val == ctx.val && page64 f.dva == page64 a.toNat && f.write == wr) = false) :
    ∃ t i f, exec (.translationWalk (.unit x) ctx a wr) s = .next t ∧ t.faults = s.faults ++ [f] ∧ f.cause = k ∧ f.dva = a.toNat ∧
      f.jid = j.jid ∧ f.write = wr ∧ f.stream = x.addr ∧ (t.unit x.addr).wait = .fault a.toNat ∧ t.job? j.jid = some i ∧ i.faulted = true ∧
      i.isExact = false ∧ t.mem = s.mem ∧ t.tlb = s.tlb := by
  subst hctx
  have hwr : (b2n wr == 1) = wr := by cases wr <;> rfl
  have hfirst1 : s.faults.any (fun f => f.ctx.val == (whoOf x.addr j).ctx && page64 f.dva == page64 a.toNat && f.write == (b2n wr == 1)) = false := by
    rw [hwr]
    exact hfirst
  obtain ⟨hfaults, hwait, hmarked⟩ := State.stall_first_effect (cause := k) (bytes := 0) hfirst1 rfl hjob
  refine ⟨s.stall (whoOf x.addr j) k (b2n wr) a.toNat 0, j.faulting, _, ?_, hfaults, rfl, rfl, rfl, hwr, rfl, hwait, hmarked, rfl, rfl,
    State.stall_keeps ((frees_mem (· = s.mem)).sub rfl) _ _ _ _ _ _ rfl, State.stall_keeps ((frees_tlb (· = s.tlb)).sub rfl) _ _ _ _ _ _ rfl⟩
  rw [exec_translationWalk_of_job hon hunit hjob, if_neg (not_not.mpr rfl), State.translated_bad hopen hmiss hwalk hk,
    State.streamFault_translation (w := whoOf x.addr j) hjob hk, if_neg (ne_true_of_eq_false hopen)]

theorem translationWalk_ends (hctx : j.ctx = ctx) (hguar : j.guaranteed = true)
    (hmiss : s.locked.any (fun e => e.covers (s.ctxAt ctx.val).asid a.toNat) = false) :
    ∃ t, exec (.translationWalk (.unit x) ctx a wr) s = .next t ∧ t.job? j.jid = none ∧ t.mem = s.mem ∧ t.tlb = s.tlb := by
  subst hctx
  obtain ⟨k, hk, hfault⟩ := State.translated_not_pinned (x := x) (wr := wr) hguar hmiss
  refine ⟨s.jobFault j.jid k (b2n wr) x.addr false a.toNat 0, ?_, State.jobFault_gone _ _ _ _ _ _ _ _,
    State.jobFault_keeps ((frees_mem (· = s.mem)).sub rfl) _ _ _ _ _ _ _ _ rfl, State.jobFault_keeps ((frees_tlb (· = s.tlb)).sub rfl) _ _ _ _ _ _ _ _ rfl⟩
  rw [exec_translationWalk_of_job hon hunit hjob, if_neg (not_not.mpr rfl), hfault,
    State.streamFault_translation (w := whoOf x.addr j) hjob hk, if_pos hguar]
  rfl

end

end Sys2Proof.Machine

namespace Sys2Proof
open Machine

/-- Settles O40: the leaf by the check at the walk's end, an access by what its translation gives and the class of its job. -/
theorem walksAndTheirFaults : Obligations.walks_and_their_faults := by
  intro ctx dva wr s
  refine ⟨fun l hwalk => ?_, State.walk_disabled _, fun x j hon hunit hjob => ?_⟩
  · obtain ⟨e, addr, level, hleaf⟩ := State.walk_ok hwalk
    exact checkLeaf_ok hleaf
  · exact ⟨translationWalk_other_ctx hon hunit hjob,
      fun l hctx hopen hwalk hmiss htgt hperm hcxl hphys =>
        translationWalk_caches hon hunit hjob hctx hopen hwalk hmiss htgt hperm hcxl hphys,
      fun k hctx hopen hwalk hk hmiss hfirst => translationWalk_stalls hon hunit hjob hctx hopen hwalk hk hmiss hfirst,
      translationWalk_ends hon hunit hjob⟩

end Sys2Proof
end

section
/-! PROOF. The scrub window and the report of corrections (R373, R374), part of O39. -/

namespace Sys2Proof.Machine

/-! ### A device and its scrub -/

theorem State.devAt_congr {s t : State} (h : t.devs = s.devs) (d : Nat) : t.devAt d = s.devAt d := by
  rw [State.devAt, State.devAt, h]

/-- A part of the devices that an update leaves in its device is left in every device. -/
theorem State.updDev_part {α : Type} (g : DevSt → α) (s : State) (a b : Nat) {f : DevSt → DevSt} (hf : g (f (s.devAt a)) = g (s.devAt a)) :
    g ((s.updDev a f).devAt b) = g (s.devAt b) := by
  rw [State.updDev, State.devAt_setDev]
  split
  · next h => rw [hf, h]
  · rfl

/-- What decides a device's scrub and what the scrub counts: self-refresh, the last beat, the next block, the passes. -/
def DevSt.scrubPart (d : DevSt) : Bool × Option Nat × BitVec 21 × U32 := (d.selfRefresh, d.lastScrub, d.nextBlock, d.passes)

/-- The device serves and its block of this beat is not yet checked. -/
def DevSt.due (d : DevSt) (beat : Nat) : Bool := !d.selfRefresh && d.lastScrub != some beat

/-- The device with its next block checked. -/
def DevSt.checked (d : DevSt) (beat : Nat) : DevSt :=
  { d with lastScrub := some beat, nextBlock := d.nextBlock + 1, passes := if d.nextBlock.toNat + 1 = 2 ^ 21 then satAdd d.passes 1 else d.passes }

theorem DevSt.due_congr {a b : DevSt} (h : a.scrubPart = b.scrubPart) (beat : Nat) : a.due beat = b.due beat := by
  simp only [DevSt.scrubPart, Prod.mk.injEq] at h
  obtain ⟨hself, hlast, -⟩ := h
  rw [DevSt.due, DevSt.due, hself, hlast]

theorem DevSt.checked_congr {a b : DevSt} (h : a.scrubPart = b.scrubPart) (beat : Nat) : (a.checked beat).scrubPart = (b.checked beat).scrubPart := by
  simp only [DevSt.scrubPart, Prod.mk.injEq] at h
  obtain ⟨hself, -, hnext, hpasses⟩ := h
  simp only [DevSt.scrubPart, DevSt.checked, hself, hnext, hpasses]

/-- A block is checked once in a beat. -/
theorem DevSt.checked_not_due (d : DevSt) (beat : Nat) : (d.checked beat).due beat = false := by simp [DevSt.due, DevSt.checked]

/-! ### Errors met by the scrub leave the scrub's own part -/

section
variable (s : State) (d : Nat)

theorem State.postCorrected_scrubPart (k : Nat) : ((s.postCorrected k).devAt d).scrubPart = (s.devAt d).scrubPart := by
  unfold State.postCorrected
  dsimp only
  split
  · rfl
  · rw [State.devAt_setDev, State.devAt_congr (State.event_devs _ _ _ _ _) d]
    split
    · next h => rw [h]; rfl
    · rfl

theorem State.correct_scrubPart (a : Nat) (e : EccErr) (scrub : Bool) : ((s.correct a e scrub).devAt d).scrubPart = (s.devAt d).scrubPart := by
  refine (State.postCorrected_scrubPart _ d _).trans ((State.updDev_part DevSt.scrubPart _ _ d ?_).trans rfl)
  dsimp only
  split <;> rfl

theorem State.uncorrectable_scrubPart (a : Nat) : ((s.uncorrectable a).devAt d).scrubPart = (s.devAt d).scrubPart :=
  (congrArg DevSt.scrubPart (State.devAt_congr (State.event_devs _ _ _ _ _) d)).trans (State.updDev_part DevSt.scrubPart _ _ d rfl)

theorem State.miscorrect_devs (k : Nat) (e : EccErr) : (s.miscorrect k e).devs = s.devs :=
  State.miscorrect_keeps ((frees_devs (· = s.devs)).sub rfl) _ _ _ rfl

theorem State.meet_scrubPart (a : Nat) (e : EccErr) (scrub : Bool) : ((s.meet a e scrub).devAt d).scrubPart = (s.devAt d).scrubPart := by
  unfold State.meet
  split
  · rfl
  cases eccOut (s.burst (burstOf a)) e with
  | clean => rfl
  | corrected => exact s.correct_scrubPart d _ _ _
  | miscorrected =>
    exact (State.correct_scrubPart _ d _ _ _).trans (congrArg DevSt.scrubPart (State.devAt_congr (s.miscorrect_devs _ _) d))
  | uncorrectable => exact s.uncorrectable_scrubPart d _

end

/-! ### One device's block checked -/

/-- The errors the scrub of a block meets. -/
def State.meetAll (s : State) (errs : List ScrubErr) (dev : Nat) : State :=
  (errs.filter fun e => e.dev.val == dev).foldl (fun t e => t.meet (gddrUnmap dev (s.devAt dev).nextBlock.toNat e.slot.val) e.err true) s

/-- What SCRUB_WINDOW does at one device. -/
def State.scrubDev (errs : List ScrubErr) (s : State) (dev : Nat) : State :=
  if !s.devServes dev || (s.devAt dev).lastScrub == some s.time.beat then s
  else
    let blk := (s.devAt dev).nextBlock.toNat
    ((s.meetAll errs dev).cntAdd (cntDev dev 4) 1).updDev dev fun d =>
      { d with lastScrub := some s.time.beat, nextBlock := d.nextBlock + 1, passes := if blk + 1 = 2 ^ 21 then satAdd d.passes 1 else d.passes }

theorem execScrubWindow_eq (errs : List ScrubErr) (s : State) :
    execScrubWindow errs s = s.ran fun s => if !s.scrubTime then s else (List.range 48).foldl (State.scrubDev errs) s := rfl

section
variable (s : State) (errs : List ScrubErr) (dev d : Nat)

theorem State.meetAll_scrubPart : ((s.meetAll errs dev).devAt d).scrubPart = (s.devAt d).scrubPart :=
  Keep.foldl (P := fun t => (t.devAt d).scrubPart = (s.devAt d).scrubPart) (fun t _ ht => (t.meet_scrubPart d _ _ _).trans ht) rfl

/-- What no error met by the scrub and no count can break, outlives the scrub of a device, but for what it counts in that device. -/
theorem State.scrubDev_keeps {P : State → Prop} (hw : Frees P 0x50600000e) (hs : P s) : P (s.scrubDev errs dev) := by
  unfold State.scrubDev
  split
  · exact hs
  · exact State.updDev_keeps (hw.sub rfl) _ _ _ (State.cntAdd_keeps (hw.sub rfl) _ _ _ (Keep.foldl (fun t _ ht => State.meet_keeps (hw.sub rfl) t _ _ _ ht) hs))

theorem State.scrubDev_time : (s.scrubDev errs dev).time = s.time :=
  State.scrubDev_keeps _ _ _ ((frees_time (· = s.time)).sub rfl) rfl

variable {s dev d}

theorem State.not_due_iff : (s.devAt dev).due s.time.beat = false ↔ (!s.devServes dev || (s.devAt dev).lastScrub == some s.time.beat) = true := by
  rw [DevSt.due, State.devServes, Bool.and_eq_false_iff, Bool.or_eq_true, Bool.not_eq_false', bne_eq_false_iff_eq, beq_iff_eq, Bool.not_not]

theorem State.scrubDev_not_due (h : (s.devAt dev).due s.time.beat = false) : s.scrubDev errs dev = s := if_pos (State.not_due_iff.mp h)

/-- The scrub of a device leaves the scrub's part of every other device. -/
theorem State.scrubDev_other (h : d ≠ dev) : ((s.scrubDev errs dev).devAt d).scrubPart = (s.devAt d).scrubPart := by
  unfold State.scrubDev
  split
  · rfl
  · dsimp only
    rw [State.updDev, State.devAt_setDev, if_neg h]
    exact s.meetAll_scrubPart errs dev d

theorem State.scrubDev_due (h : (s.devAt d).due s.time.beat = true) :
    ((s.scrubDev errs d).devAt d).scrubPart = ((s.devAt d).checked s.time.beat).scrubPart := by
  have hdue : ¬ (!s.devServes d || (s.devAt d).lastScrub == some s.time.beat) = true := by
    rw [← State.not_due_iff, h]
    decide
  have hpart := s.meetAll_scrubPart errs d d
  have hnext : ((s.meetAll errs d).devAt d).nextBlock = (s.devAt d).nextBlock := congrArg (fun q => q.2.2.1) hpart
  rw [State.scrubDev, if_neg hdue, State.updDev, State.devAt_setDev_self, ← hnext]
  exact DevSt.checked_congr hpart _

/-- With no error found, the other devices are left as they were. -/
theorem State.scrubDev_nil_other (h : d ≠ dev) : (s.scrubDev [] dev).devAt d = s.devAt d := by
  unfold State.scrubDev
  split
  · rfl
  · dsimp only
    rw [State.updDev, State.devAt_setDev, if_neg h]
    rfl

end

/-! ### The window over all devices (R373) -/

section
variable {s : State} {d : Nat}

/-- A device that is not due stays so, whichever devices are scrubbed. -/
theorem State.scrubAll_not_due (errs : List ScrubErr) (l : List Nat) (h : (s.devAt d).due s.time.beat = false) :
    ((l.foldl (State.scrubDev errs) s).devAt d).scrubPart = (s.devAt d).scrubPart := by
  induction l generalizing s with
  | nil => rfl
  | cons dev l ih =>
    have hone : ((s.scrubDev errs dev).devAt d).scrubPart = (s.devAt d).scrubPart := by
      by_cases hd : d = dev
      · rw [State.scrubDev_not_due errs (hd ▸ h)]
      · exact State.scrubDev_other errs hd
    refine (ih ?_).trans hone
    rw [State.scrubDev_time, DevSt.due_congr hone, h]

/-- A device that is due is checked once. -/
theorem State.scrubAll_due (errs : List ScrubErr) {l : List Nat} (hd : d ∈ l) (h : (s.devAt d).due s.time.beat = true) :
    ((l.foldl (State.scrubDev errs) s).devAt d).scrubPart = ((s.devAt d).checked s.time.beat).scrubPart := by
  induction l generalizing s with
  | nil => cases hd
  | cons dev l ih =>
    rw [List.foldl_cons]
    by_cases heq : d = dev
    · subst heq
      have hone := State.scrubDev_due errs h
      refine (State.scrubAll_not_due errs l ?_).trans hone
      rw [State.scrubDev_time, DevSt.due_congr hone, DevSt.checked_not_due]
    · have hone := State.scrubDev_other (s := s) errs heq
      have hbeat : (s.scrubDev errs dev).time.beat = s.time.beat := congrArg TimeSt.beat (s.scrubDev_time errs dev)
      rw [ih ((List.mem_cons.mp hd).resolve_left heq) (by rw [hbeat, DevSt.due_congr hone, h]), hbeat]
      exact DevSt.checked_congr hone _

/-- With nothing found, a device that is not due is left as it was. -/
theorem State.scrubAll_nil_not_due (l : List Nat) (h : (s.devAt d).due s.time.beat = false) :
    (l.foldl (State.scrubDev []) s).devAt d = s.devAt d := by
  induction l generalizing s with
  | nil => rfl
  | cons dev l ih =>
    have hone : (s.scrubDev [] dev).devAt d = s.devAt d := by
      by_cases hd : d = dev
      · rw [State.scrubDev_not_due [] (hd ▸ h)]
      · exact State.scrubDev_nil_other hd
    refine (ih ?_).trans hone
    rw [State.scrubDev_time, hone, h]

/-- With nothing found no byte and no poison changes. -/
theorem State.scrubAll_nil_keeps (l : List Nat) :
    (l.foldl (State.scrubDev []) s).mem = s.mem ∧ (l.foldl (State.scrubDev []) s).poison = s.poison := by
  refine Keep.foldl (P := fun t => t.mem = s.mem ∧ t.poison = s.poison) (fun t dev ht => ?_) ⟨rfl, rfl⟩
  unfold State.scrubDev
  split
  · exact ht
  · exact ht

variable (hon : s.pwr.on = true)
include hon

theorem exec_scrubWindow_outside (errs : List ScrubErr) (h : 89 < s.time.phase) : exec (.scrubWindow errs) s = .next s := by
  have hout : (!s.scrubTime) = true := by simp [State.scrubTime, h]
  rw [exec, execScrubWindow_eq, s.ran_on _ hon, if_pos hout]

theorem exec_scrubWindow_inside (errs : List ScrubErr) (h : s.time.phase ≤ 89) :
    exec (.scrubWindow errs) s = .next ((List.range 48).foldl (State.scrubDev errs) s) := by
  have hin : ¬ (!s.scrubTime) = true := by simp [State.scrubTime, h]
  rw [exec, execScrubWindow_eq, s.ran_on _ hon, if_neg hin]

theorem scrubWindow_checks (errs : List ScrubErr) (h : s.time.phase ≤ 89) :
    ∃ t, exec (.scrubWindow errs) s = .next t ∧ t.time = s.time ∧ t.ports = s.ports ∧
      (∀ d, d < 48 → s.devServes d = true → (s.devAt d).lastScrub ≠ some s.time.beat → (t.devAt d).nextBlock = (s.devAt d).nextBlock + 1 ∧
        (t.devAt d).lastScrub = some s.time.beat ∧
        (t.devAt d).passes = if (s.devAt d).nextBlock.toNat + 1 = 2 ^ 21 then satAdd (s.devAt d).passes 1 else (s.devAt d).passes) ∧
      (∀ d, d < 48 → (s.devServes d = false ∨ (s.devAt d).lastScrub = some s.time.beat) → errs = [] → t.devAt d = s.devAt d) ∧
      (errs = [] → t.mem = s.mem ∧ t.poison = s.poison) := by
  refine ⟨_, exec_scrubWindow_inside hon errs h, ?_, ?_, fun d hd hserves hlast => ?_, fun d _ hidle herrs => ?_, fun herrs => ?_⟩
  · exact Keep.foldl (P := fun t => t.time = s.time) (fun t _ ht => (t.scrubDev_time errs _).trans ht) rfl
  · exact Keep.foldl (P := fun t => t.ports = s.ports)
      (fun t _ ht => State.scrubDev_keeps _ _ _ ((frees_ports (· = s.ports)).sub rfl) ht) rfl
  · have hdue : (s.devAt d).due s.time.beat = true := by
      rw [DevSt.due, ← State.devServes, hserves, Bool.true_and, bne_iff_ne]
      exact hlast
    have hpart := State.scrubAll_due errs (List.mem_range.mpr hd) hdue
    simp only [DevSt.scrubPart, Prod.mk.injEq] at hpart
    obtain ⟨-, hbeat, hnext, hpasses⟩ := hpart
    exact ⟨hnext, hbeat, hpasses⟩
  · subst herrs
    refine State.scrubAll_nil_not_due _ (State.not_due_iff.mpr ?_)
    rcases hidle with hoff | hdone
    · rw [hoff]
      rfl
    · rw [hdone, beq_self_eq_true, Bool.or_true]
  · subst herrs
    exact State.scrubAll_nil_keeps _

/-! ### ECC_CORRECTED (R374) -/

theorem exec_eccCorrected_not_boundary (d : Fin 48) (h : s.time.phase ≠ 0) : exec (.eccCorrected d) s = .next s := by
  rw [exec, execEccCorrected, s.ran_on _ hon, if_neg h]

theorem eccCorrected_posts (d : Fin 48) (h : s.time.phase = 0) (hsince : (s.devAt d.val).since ≠ 0)
    (hmay : (s.devAt d.val).mayPost s.time.beat = true) :
    ∃ t, exec (.eccCorrected d) s = .next t ∧
      t.devAt d.val = { s.devAt d.val with since := 0, hard := false, lastEvent := some s.time.beat } ∧ t.mem = s.mem ∧ t.jobs = s.jobs := by
  refine ⟨s.postCorrected d.val, ?_, ?_, State.postCorrected_keeps ((frees_mem (· = s.mem)).sub rfl) _ _ rfl,
    State.postCorrected_keeps ((frees_jobs (· = s.jobs)).sub rfl) _ _ rfl⟩
  · rw [exec, execEccCorrected, s.ran_on _ hon, if_pos h]
  · rw [State.postCorrected]
    dsimp only
    rw [if_neg (by simp [hsince, hmay]), State.devAt_setDev_self]

/-- An event within 1,024 beats of the last is held back. -/
theorem exec_eccCorrected_held (d : Fin 48) {b : Nat} (hlast : (s.devAt d.val).lastEvent = some b) (hb : s.time.beat < b + 1024) :
    exec (.eccCorrected d) s = .next s := by
  have hheld : (s.devAt d.val).mayPost s.time.beat = false := by
    rw [DevSt.mayPost, hlast]
    exact decide_eq_false (Nat.not_le.mpr hb)
  have hpost : s.postCorrected d.val = s := if_pos (by simp [hheld])
  rw [exec, execEccCorrected, s.ran_on _ hon, hpost, ite_self]

end

end Sys2Proof.Machine
end

section
/-! PROOF. The CXL ports: completions, link state, decoders (R378, R380, R381, R383, R501); O39. -/

namespace Sys2Proof.Machine

/-! ### A port -/

theorem State.cxlAt_congr {s t : State} (h : t.cxl = s.cxl) (c : Nat) : t.cxlAt c = s.cxlAt c := by
  rw [State.cxlAt, State.cxlAt, h]

theorem State.cxlAt_updCxl (s : State) (c : Nat) (f : CxlPort → CxlPort) : (s.updCxl c f).cxlAt c = f (s.cxlAt c) := State.cxlAt_setCxl_self _ _ _

@[simp] theorem State.deliverCxl_cxl (s : State) (c : Nat) (r : CxlReq) (poison : Bool) : (s.deliverCxl c r poison).cxl = s.cxl :=
  State.deliverCxl_keeps ((frees_cxl (· = s.cxl)).sub rfl) _ _ _ _ rfl

/-! ### Completions (R381) -/

/-- A request with its completion in, if it is the one completed. -/
def CxlReq.complete (id : Nat) (poison : Bool) (r : CxlReq) : CxlReq := if r.id == id then { r with done := some poison } else r

/-- A completion comes in at a port; nothing is returned yet. -/
def State.cxlDone (s : State) (c id : Nat) (poison : Bool) : State :=
  s.updCxl c fun p => { p with reqs := p.reqs.map (CxlReq.complete id poison) }

/-- Requests that stay when others are returned. -/
def stillOut (stream : Nat) (reqs : List CxlReq) : List CxlReq := reqs.filter fun r => !(doneFront stream reqs).contains r

theorem CxlReq.complete_other {id : Nat} {poison : Bool} {r : CxlReq} (h : r.id ≠ id) : r.complete id poison = r := if_neg (by simpa using h)

theorem CxlReq.complete_self (r : CxlReq) (poison : Bool) : r.complete r.id poison = { r with done := some poison } := if_pos (beq_self_eq_true r.id)

theorem CxlReq.map_complete_others {id : Nat} {poison : Bool} {l : List CxlReq} (h : ∀ q ∈ l, q.id ≠ id) : l.map (CxlReq.complete id poison) = l :=
  (List.map_congr_left fun q hq => CxlReq.complete_other (h q hq)).trans (List.map_id l)

/-- Nothing of a stream is returned past its first request that is not complete. -/
theorem doneFront_eq_nil {stream : Nat} {l : List CxlReq} (h : ∀ q ∈ l, q.stream = stream → q.done = none) : doneFront stream l = [] := by
  induction l with
  | nil => rfl
  | cons q l ih =>
    rw [doneFront]
    split
    · exact ih fun x hx => h x (List.mem_cons_of_mem _ hx)
    · next hstream =>
      rw [h q List.mem_cons_self (not_not.mp hstream)]
      rfl

/-- The first request of its stream, complete, goes out alone if no other of the stream is. -/
theorem stillOut_first {r : CxlReq} {l : List CxlReq} (hdone : r.done.isSome = true) (hid : ∀ q ∈ l, q.id ≠ r.id)
    (hopen : ∀ q ∈ l, q.stream = r.stream → q.done = none) : stillOut r.stream (r :: l) = l := by
  have hfront : doneFront r.stream (r :: l) = [r] := by
    rw [doneFront, if_neg (not_not.mpr rfl), if_pos hdone, doneFront_eq_nil hopen]
  have hstays : ∀ q ∈ l, (!([r].contains q)) = true := by
    intro q hq
    have hne : q ≠ r := fun h => hid q hq (congrArg CxlReq.id h)
    simpa using hne
  rw [stillOut, hfront, List.filter_cons_of_neg (by simp), List.filter_eq_self.mpr hstays]

/-- Nothing goes out while the stream's first request is not complete. -/
theorem doneFront_waits {q : CxlReq} (l : List CxlReq) (h : q.done = none) : doneFront q.stream (q :: l) = [] := by
  rw [doneFront, if_neg (not_not.mpr rfl), h]
  rfl

section
variable (s : State) (c : Nat) (stream : Nat)

theorem State.returnCxl_port : (s.returnCxl c stream).cxlAt c = { s.cxlAt c with reqs := stillOut stream (s.cxlAt c).reqs } := by
  have hkept (l : List CxlReq) (t : State) : (l.foldl (fun s r => s.deliverCxl c r (r.done == some true)) t).cxl = t.cxl :=
    Keep.foldl (P := fun u => u.cxl = t.cxl) (fun u _ hu => (u.deliverCxl_cxl _ _ _).trans hu) rfl
  exact (State.cxlAt_congr (hkept _ _) c).trans (State.cxlAt_updCxl s c _)

theorem State.returnCxl_mem : (s.returnCxl c stream).mem = s.mem :=
  State.returnCxl_keeps ((frees_mem (· = s.mem)).sub rfl) _ _ _ rfl

/-- A stream whose first request is not complete gets nothing: the requests stand, and nothing beside the ports is written. -/
theorem State.returnCxl_nothing (h : doneFront stream (s.cxlAt c).reqs = []) :
    ((s.returnCxl c stream).cxlAt c).reqs = (s.cxlAt c).reqs ∧ (s.returnCxl c stream).units = s.units := by
  constructor
  · rw [State.returnCxl_port, stillOut, h]
    exact List.filter_eq_self.mpr fun _ _ => rfl
  · rw [State.returnCxl, h]
    rfl

/-- A late completion is counted at the port, whose requests and decoders stay. -/
theorem State.lateCxl_port (r : CxlReq) (ns : Nat) :
    ((s.lateCxl c r ns).cxlAt c).reqs = (s.cxlAt c).reqs ∧ ((s.lateCxl c r ns).cxlAt c).hdm = (s.cxlAt c).hdm := by
  unfold State.lateCxl
  dsimp only
  split
  · exact ⟨rfl, rfl⟩
  · split
    · rw [State.cxlAt_congr (State.updJob_cxl _ _ _) c, State.cxlAt_setCxl_self]
      exact ⟨rfl, rfl⟩
    · rw [State.cxlAt_setCxl_self]
      exact ⟨rfl, rfl⟩

theorem State.lateCxl_mem (r : CxlReq) (ns : Nat) : (s.lateCxl c r ns).mem = s.mem :=
  State.lateCxl_keeps ((frees_mem (· = s.mem)).sub rfl) _ _ _ _ rfl

theorem State.lateCxl_units (r : CxlReq) (ns : Nat) : (s.lateCxl c r ns).units = s.units :=
  State.lateCxl_keeps ((frees_units (· = s.units)).sub rfl) _ _ _ _ rfl

end

section
variable {s : State} {c : Fin 4} {id : Nat} (poison : Bool) (ns : Nat) (hon : s.pwr.on = true)
include hon

theorem exec_cxlCompletion_unknown (h : ∀ q ∈ (s.cxlAt c.val).reqs, q.id ≠ id ∨ q.done.isSome) :
    exec (.cxlCompletion c id poison ns) s = .next s := by
  have hnone : (s.cxlAt c.val).reqs.find? (fun r => r.id == id && r.done.isNone) = none := by
    refine List.find?_eq_none.mpr fun q hq => ?_
    rcases h q hq with hid | hdone
    · simp [hid]
    · simp [Option.isSome_iff_ne_none.mp hdone]
  rw [exec, execCxlCompletion, s.ran_on _ hon, hnone]

theorem exec_cxlCompletion_of_find {r : CxlReq} (h : (s.cxlAt c.val).reqs.find? (fun r => r.id == id && r.done.isNone) = some r) :
    exec (.cxlCompletion c id poison ns) s = .next (((s.cxlDone c.val id poison).lateCxl c.val r ns).returnCxl c.val r.stream) := by
  rw [exec, execCxlCompletion, s.ran_on _ hon, h]
  rfl

variable {r : CxlReq} {l : List CxlReq}

/-- The oldest request of a stream completes: it leaves the port. -/
theorem cxlCompletion_returns (hreqs : (s.cxlAt c.val).reqs = r :: l) (hid : r.id = id) (hopen : r.done = none) (hids : ∀ q ∈ l, q.id ≠ id)
    (hothers : ∀ q ∈ l, q.stream = r.stream → q.done = none) :
    ∃ t, exec (.cxlCompletion c id poison ns) s = .next t ∧ (t.cxlAt c.val).reqs = l ∧ (t.cxlAt c.val).hdm = (s.cxlAt c.val).hdm ∧ t.mem = s.mem := by
  subst hid
  have hfind : (s.cxlAt c.val).reqs.find? (fun q => q.id == r.id && q.done.isNone) = some r := by
    rw [hreqs, List.find?_cons_of_pos (by simp [hopen])]
  obtain ⟨hlate, hhdm⟩ := (s.cxlDone c.val r.id poison).lateCxl_port c.val r ns
  have hdone : ((s.cxlDone c.val r.id poison).cxlAt c.val).reqs = { r with done := some poison } :: l := by
    rw [State.cxlDone, State.cxlAt_updCxl, hreqs, List.map_cons, CxlReq.complete_self, CxlReq.map_complete_others hids]
  refine ⟨_, exec_cxlCompletion_of_find poison ns hon hfind, ?_, ?_, ?_⟩
  · rw [State.returnCxl_port, hlate, hdone]
    exact stillOut_first (r := { r with done := some poison }) rfl hids hothers
  · rw [State.returnCxl_port, hhdm, State.cxlDone, State.cxlAt_updCxl]
  · rw [State.returnCxl_mem, State.lateCxl_mem]
    rfl

/-- A later request of a stream completes: its completion is kept until the earlier one's is in. -/
theorem cxlCompletion_keeps_order {q : CxlReq} (hreqs : (s.cxlAt c.val).reqs = q :: r :: l) (hq : q.id ≠ id) (hwait : q.done = none)
    (hstream : q.stream = r.stream) (hid : r.id = id) (hopen : r.done = none) (hids : ∀ x ∈ l, x.id ≠ id) :
    ∃ t, exec (.cxlCompletion c id poison ns) s = .next t ∧ (t.cxlAt c.val).reqs = q :: { r with done := some poison } :: l ∧ t.mem = s.mem ∧
      t.units = s.units := by
  subst hid
  have hfind : (s.cxlAt c.val).reqs.find? (fun x => x.id == r.id && x.done.isNone) = some r := by
    rw [hreqs, List.find?_cons_of_neg (by simp [hq]), List.find?_cons_of_pos (by simp [hopen])]
  obtain ⟨hlate, -⟩ := (s.cxlDone c.val r.id poison).lateCxl_port c.val r ns
  have hdone : ((s.cxlDone c.val r.id poison).cxlAt c.val).reqs = q :: { r with done := some poison } :: l := by
    rw [State.cxlDone, State.cxlAt_updCxl, hreqs, List.map_cons, List.map_cons, CxlReq.complete_other hq, CxlReq.complete_self,
      CxlReq.map_complete_others hids]
  obtain ⟨hreturn, hunits⟩ := ((s.cxlDone c.val r.id poison).lateCxl c.val r ns).returnCxl_nothing c.val r.stream (by
    rw [hlate, hdone, ← hstream, doneFront_waits _ hwait])
  refine ⟨_, exec_cxlCompletion_of_find poison ns hon hfind, hreturn.trans (hlate.trans hdone), ?_, hunits.trans (State.lateCxl_units _ _ _ _)⟩
  rw [State.returnCxl_mem, State.lateCxl_mem]
  rfl

end

/-! ### Link state (R378, R383, R501) -/

section
variable {s : State} {c : Nat}

/-- A disabled port, one at L4, and one that is UP with a decoder in force do not train. -/
theorem State.cxlHeld_iff : (!(s.cxlAt c).en || decide (4 ≤ s.pwr.eff) || ((s.cxlAt c).link == 2 && (s.cxlAt c).hdm.any (·.committed))) = true ↔
    (s.cxlAt c).en = false ∨ 4 ≤ s.pwr.eff ∨ (s.cxlAt c).link = 2 ∧ (s.cxlAt c).hdm.any (·.committed) = true := by
  rw [Bool.or_eq_true, Bool.or_eq_true, Bool.not_eq_true', decide_eq_true_iff, Bool.and_eq_true, beq_iff_eq, or_assoc]

/-- What is left of a port that goes down: its switches and its decoders. -/
def CxlPort.down (p : CxlPort) (cause : Nat) : CxlPort :=
  { p with link := 0, perst := true, prsnt := p.prsnt && cause != 4, full := false, devices := if cause = 4 then 0 else p.devices, reqs := [],
           ra := [], lastGran := [] }

theorem State.cxlDown_idle {cause : Nat} (h : (s.cxlAt c).link = 0) : s.cxlDown c cause = s := if_pos h

/-- A port goes down: outstanding reads are poison, the decoders stay, no byte changes. -/
theorem State.cxlDown_reads {cause : Nat} (hlink : (s.cxlAt c).link ≠ 0) (hreads : ∀ r ∈ (s.cxlAt c).reqs, r.write = false) :
    (s.cxlDown c cause).cxlAt c = (s.cxlAt c).down cause ∧ (s.cxlDown c cause).mem = s.mem ∧ (s.cxlDown c cause).ports = s.ports := by
  have hdown : s.cxlDown c cause = (s.cxlAt c).reqs.foldl (fun t r => t.deliverCxl c r true)
      ((s.setCxl c ((s.cxlAt c).down cause)).linkDownEvent 1 c cause (s.usesCxl c)) :=
    (if_neg hlink).trans (List.foldl_ext _ _ _ fun t r hr => by rw [hreads r hr, if_neg Bool.false_ne_true])
  have hkept {P : State → Prop} (hw : Frees P 0x5807dfff4) (h : P (s.setCxl c ((s.cxlAt c).down cause))) : P (s.cxlDown c cause) := by
    rw [hdown]
    exact Keep.foldl (fun t r ht => State.deliverCxl_keeps hw t c r true ht) (State.linkDownEvent_keeps (hw.sub rfl) _ _ _ _ _ h)
  exact ⟨hkept (P := fun t => t.cxlAt c = (s.cxlAt c).down cause) ((frees_cxl fun l => tabGet .reset l c = (s.cxlAt c).down cause).sub rfl)
      (State.cxlAt_setCxl_self _ _ _),
    hkept ((frees_mem (· = s.mem)).sub rfl) rfl, hkept ((frees_ports (· = s.ports)).sub rfl) rfl⟩

end

section
variable {s : State} {c : Fin 4} (hon : s.pwr.on = true)
include hon

theorem exec_cxlPortUp_held (prsnt full : Bool) (dv : BitVec 4)
    (h : (s.cxlAt c.val).en = false ∨ 4 ≤ s.pwr.eff ∨ (s.cxlAt c.val).link = 2 ∧ (s.cxlAt c.val).hdm.any (·.committed) = true) :
    exec (.cxlPortUp c full dv prsnt) s = .next s := by
  rw [exec, execCxlPortUp, s.ran_on _ hon]
  exact congrArg Host.Outcome.next (if_pos (State.cxlHeld_iff.mpr h))

section
variable (full : Bool) (dv : BitVec 4) (hen : (s.cxlAt c.val).en = true) (heff : s.pwr.eff < 4)
  (hfree : (s.cxlAt c.val).link ≠ 2 ∨ (s.cxlAt c.val).hdm.any (·.committed) = false)
include hen heff hfree

/-- An enabled port that may train: by PRSNT#. -/
theorem exec_cxlPortUp_free (prsnt : Bool) : exec (.cxlPortUp c full dv prsnt) s =
    .next (if !prsnt then s.setCxl c.val { s.cxlAt c.val with prsnt := false }
      else s.setCxl c.val { s.cxlAt c.val with
        link := 2, prsnt := true, perst := false, full := full,
        devices := if (s.cxlAt c.val).hdm.any (·.committed) && decide ((s.cxlAt c.val).devices.toNat < dv.toNat) then (s.cxlAt c.val).devices else dv }) := by
  have hidle : ¬ ((s.cxlAt c.val).en = false ∨ 4 ≤ s.pwr.eff ∨ (s.cxlAt c.val).link = 2 ∧ (s.cxlAt c.val).hdm.any (·.committed) = true) := by
    rintro (hoff | hlow | ⟨hlink, hcommitted⟩)
    · rw [hen] at hoff
      cases hoff
    · omega
    · rcases hfree with h | h
      · exact h hlink
      · rw [hcommitted] at h
        cases h
  rw [exec, execCxlPortUp, s.ran_on _ hon]
  exact congrArg Host.Outcome.next (if_neg (State.cxlHeld_iff.not.mpr hidle))

theorem cxlPortUp_trains : ∃ t, exec (.cxlPortUp c full dv true) s = .next t ∧ (t.cxlAt c.val).link = 2 ∧ (t.cxlAt c.val).prsnt = true ∧
    (t.cxlAt c.val).perst = false ∧ (t.cxlAt c.val).full = full ∧ (t.cxlAt c.val).hdm = (s.cxlAt c.val).hdm ∧
    ((s.cxlAt c.val).hdm.any (·.committed) = false → (t.cxlAt c.val).devices = dv) ∧ t.mem = s.mem ∧ t.jobs = s.jobs := by
  refine ⟨_, (exec_cxlPortUp_free hon full dv hen heff hfree true).trans (congrArg _ (if_neg (by decide))), ?_⟩
  rw [State.cxlAt_setCxl_self]
  refine ⟨rfl, rfl, rfl, rfl, rfl, fun hcommitted => ?_, rfl, rfl⟩
  rw [hcommitted, Bool.false_and, if_neg Bool.false_ne_true]

end

theorem exec_cxlPortDown_idle (cause : Fin 7) (hlink : (s.cxlAt c.val).link = 0) (hcause : cause ≠ 3) :
    exec (.cxlPortDown c cause) s = .next s := by
  rw [exec, execCxlPortDown, s.ran_on _ hon, if_neg hcause, State.cxlDown_idle hlink]

theorem cxlPortDown_loses (cause : Fin 7) (hlink : (s.cxlAt c.val).link ≠ 0) (hreads : ∀ r ∈ (s.cxlAt c.val).reqs, r.write = false) :
    ∃ t, exec (.cxlPortDown c cause) s = .next t ∧ (t.cxlAt c.val).link = 0 ∧ (t.cxlAt c.val).reqs = [] ∧
      (t.cxlAt c.val).hdm = (s.cxlAt c.val).hdm ∧ (t.cxlAt c.val).perst = true ∧
      (t.cxlAt c.val).en = (if cause = 3 then false else (s.cxlAt c.val).en) ∧ t.mem = s.mem ∧ t.ports = s.ports := by
  rw [exec, execCxlPortDown, s.ran_on _ hon]
  refine ⟨_, rfl, ?_⟩
  split
  · have hoff := State.cxlAt_updCxl s c.val fun p => { p with en := false }
    obtain ⟨hport, hmem, hports⟩ := State.cxlDown_reads (s := s.updCxl c.val fun p => { p with en := false }) (cause := cause.val)
      (by rw [hoff]; exact hlink) (by rw [hoff]; exact hreads)
    rw [hport, hoff]
    exact ⟨rfl, rfl, rfl, rfl, rfl, hmem, hports⟩
  · obtain ⟨hport, hmem, hports⟩ := State.cxlDown_reads (cause := cause.val) hlink hreads
    rw [hport]
    exact ⟨rfl, rfl, rfl, rfl, rfl, hmem, hports⟩

end

/-! ### Decoders (R379, R380) -/

theorem setAt_eq_set {α : Type} (l : List α) (i : Nat) (v : α) : setAt l i v = l.set i v := by
  induction l generalizing i with
  | nil => rfl
  | cons a l ih =>
    cases i with
    | zero => rfl
    | succ i => rw [setAt, ih, List.set_cons_succ]

/-- Decoder k of a port. -/
def State.hdmAt (s : State) (c k : Nat) : Hdm := (s.cxlAt c).hdm.getD k .reset

/-- Every decoder of the four ports changed by one function. -/
def State.mapHdm (s : State) (F : Hdm → Hdm) : State :=
  [0, 1, 2, 3].foldl (fun s c => s.updCxl c fun p => { p with hdm := p.hdm.map F }) s

section
variable (s : State) {c k : Nat}

theorem State.setHdm_port (h : Hdm) : (s.setHdm c k h).cxlAt c = { s.cxlAt c with hdm := (s.cxlAt c).hdm.set k h } := by
  rw [State.setHdm, State.cxlAt_updCxl, setAt_eq_set]

theorem State.hdmAt_setHdm (hk : k < (s.cxlAt c).hdm.length) (h : Hdm) : (s.setHdm c k h).hdmAt c k = h := by
  rw [State.hdmAt, State.setHdm_port, List.getD_eq_getElem _ _ (by rwa [List.length_set]), List.getElem_set_self]

theorem State.setHdm_length (h : Hdm) : ((s.setHdm c k h).cxlAt c).hdm.length = (s.cxlAt c).hdm.length := by
  rw [State.setHdm_port, List.length_set]

theorem State.mapHdm_port (hc : c < 4) (F : Hdm → Hdm) : (s.mapHdm F).cxlAt c = { s.cxlAt c with hdm := (s.cxlAt c).hdm.map F } := by
  rw [State.mapHdm]
  simp only [List.foldl_cons, List.foldl_nil, State.updCxl, State.cxlAt_setCxl]
  interval_cases c <;> rfl

theorem State.hdmAt_mapHdm (hc : c < 4) (hk : k < (s.cxlAt c).hdm.length) (F : Hdm → Hdm) : (s.mapHdm F).hdmAt c k = F (s.hdmAt c k) := by
  rw [State.hdmAt, State.mapHdm_port s hc, List.getD_eq_getElem _ _ (by rwa [List.length_map]), List.getElem_map, State.hdmAt,
    List.getD_eq_getElem _ _ hk]

/-- A decoder stands in the list of all, under its port and number. -/
theorem State.mem_hdms (hc : c < 4) (hk : k < (s.cxlAt c).hdm.length) : (c, k, s.hdmAt c k) ∈ s.hdms := by
  have hget : (s.cxlAt c).hdm[k]? = some (s.hdmAt c k) := by
    rw [State.hdmAt, List.getD_eq_getElem _ _ hk, List.getElem?_eq_getElem hk]
  refine List.mem_flatMap.mpr ⟨c, by simp; omega, List.mem_map.mpr ⟨(s.hdmAt c k, k), ?_, rfl⟩⟩
  exact List.mem_zipIdx_iff_getElem?.mpr hget

end

/-- A member of a set whose decoders all are committed is in force. -/
def Hdm.joined (set h : Hdm) : Hdm := if h.commit && h.sameSet set then { h with committed := true } else h

section
variable {s : State} {c k : Nat} {h : Hdm} (hc : c < 4) (hk : k < (s.cxlAt c).hdm.length)
include hc hk

/-- A decoder just committed to a set: in force at once if it is alone, and as written but for that. -/
theorem State.hdmAt_joinSet (hcommit : (s.hdmAt c k).commit = true) (hset : (s.hdmAt c k).sameSet h = true) :
    ∃ b, (s.joinSet h).hdmAt c k = { s.hdmAt c k with committed := b } ∧ (h.ways = 0 → b = true) := by
  have hjoin : s.joinSet h = if (s.hdms.filter fun e => e.2.2.commit && e.2.2.sameSet h).length < h.nways then s else s.mapHdm (Hdm.joined h) := rfl
  rw [hjoin]
  split
  · next hfew =>
    refine ⟨(s.hdmAt c k).committed, rfl, fun hways => ?_⟩
    have hone : h.nways = 1 := by rw [Hdm.nways, hways]; rfl
    have hmem : (c, k, s.hdmAt c k) ∈ s.hdms.filter fun e => e.2.2.commit && e.2.2.sameSet h :=
      List.mem_filter.mpr ⟨s.mem_hdms hc hk, by rw [hcommit, hset]; rfl⟩
    have hpos := List.length_pos_of_mem hmem
    omega
  · refine ⟨true, ?_, fun _ => rfl⟩
    rw [State.hdmAt_mapHdm s hc hk]
    exact if_pos (by rw [hcommit, hset]; rfl)

end

/-- WAYS and POS of a value written at a decoder that is not in force; the reserved WAYS leaves what stood there (R10, R380). -/
def Hdm.written (h : Hdm) (v : U64) : Hdm :=
  { h with ways := if bits v 0 2 = 3 then h.ways else BitVec.ofNat 2 (bits v 0 2), pos := BitVec.ofNat 2 (bits v 2 2) }

/-- A commit at a decoder that is not in force: its error, or its place in the set. -/
def State.commitHdm (s : State) (c k : Nat) (h : Hdm) (ok : Bool) : State :=
  match s.hdmErr c k h ok with
  | 0 => (s.setHdm c k { h with commit := true, err := 0 }).joinSet h
  | e => s.setHdm c k { h with commit := false, err := BitVec.ofNat 3 e }

/-- COMMIT cleared at a decoder: refused while its range is in use, else its set goes out of force. -/
def State.clearHdm (s : State) (c k : Nat) (h : Hdm) : State :=
  if h.committed && s.rangeBusy h then s.setHdm c k { h with err := 4 }
  else if h.committed then
    ((s.setHdm c k { h with commit := false, err := 0 }).mapHdm fun q => if q.sameSet h then { q with committed := false } else q).setHdm c k
      { h with commit := false, committed := false, err := 0 }
  else s.setHdm c k { h with commit := false, err := 0 }

section
variable {s : State} {c k : Nat} {h : Hdm} {ok : Bool}

theorem State.commitHdm_accepted (he : s.hdmErr c k h ok = 0) :
    s.commitHdm c k h ok = (s.setHdm c k { h with commit := true, err := 0 }).joinSet h := by
  rw [State.commitHdm, he]
  rfl

theorem State.commitHdm_refused (he : s.hdmErr c k h ok ≠ 0) :
    s.commitHdm c k h ok = s.setHdm c k { h with commit := false, err := BitVec.ofNat 3 (s.hdmErr c k h ok) } := by
  rw [State.commitHdm]
  split
  · next h0 => exact absurd h0 he
  · rfl

theorem State.clearHdm_free (hfree : h.committed = false) : s.clearHdm c k h = s.setHdm c k { h with commit := false, err := 0 } := by
  rw [State.clearHdm, hfree, Bool.false_and, if_neg Bool.false_ne_true, if_neg Bool.false_ne_true]

theorem State.clearHdm_busy (hin : h.committed = true) (hbusy : s.rangeBusy h = true) : s.clearHdm c k h = s.setHdm c k { h with err := 4 } :=
  if_pos (by rw [hin, hbusy]; rfl)

theorem State.clearHdm_idle (hin : h.committed = true) (hidle : s.rangeBusy h = false) : s.clearHdm c k h =
    ((s.setHdm c k { h with commit := false, err := 0 }).mapHdm fun q => if q.sameSet h then { q with committed := false } else q).setHdm c k
      { h with commit := false, committed := false, err := 0 } :=
  (if_neg (by rw [hidle, Bool.and_false]; decide)).trans (if_pos hin)

theorem State.writeHdm_eq (s : State) (c k : Nat) (v : U64) (ok : Bool) : s.writeHdm c k v ok =
    if bit v 4 then
      if (s.hdmAt c k).committed then s
      else s.commitHdm c k (if (s.hdmAt c k).committed then s.hdmAt c k else (s.hdmAt c k).written v) ok
    else s.clearHdm c k (if (s.hdmAt c k).committed then s.hdmAt c k else (s.hdmAt c k).written v) := rfl

@[simp] theorem State.writeHdm_mem (s : State) (c k : Nat) (v : U64) (ok : Bool) : (s.writeHdm c k v ok).mem = s.mem :=
  State.writeHdm_keeps ((frees_mem (· = s.mem)).sub rfl) _ _ _ _ _ rfl

end

/-! ### What the checks of a commit look at -/

section
variable {s t : State} (hmem : t.mem = s.mem) (hveiled : t.veiled = s.veiled) (hpoison : t.poison = s.poison)
include hmem hveiled hpoison

/-- A walk looks at the tables' bytes, their poison and the context's registers. -/
theorem State.walkFrom_congr (dva level table : Nat) : t.walkFrom dva level table = s.walkFrom dva level table := by
  have hpois := State.poisoned_congr hpoison
  have hbytes := State.bytesAt_congr hmem hveiled
  induction level generalizing table with
  | zero =>
    rw [State.walkFrom.eq_1 t, State.walkFrom.eq_1 s]
    simp only [hpois, hbytes]
  | succ n ih =>
    rw [State.walkFrom.eq_1 t, State.walkFrom.eq_1 s]
    simp only [hpois, hbytes, ih]

variable (hctxs : t.ctxs = s.ctxs)
include hctxs

theorem State.walk_congr (ctx dva : Nat) : t.walk ctx dva = s.walk ctx dva := by
  have hctx : t.ctxAt ctx = s.ctxAt ctx := by rw [State.ctxAt, State.ctxAt, hctxs]
  simp only [State.walk, hctx, State.walkFrom_congr hmem hveiled hpoison]

theorem State.leadsInto_congr (ctx a b hi n lo : Nat) : t.leadsInto ctx a b hi n lo = s.leadsInto ctx a b hi n lo := by
  induction n generalizing lo with
  | zero => rfl
  | succ n ih => simp only [State.leadsInto, State.walk_congr hmem hveiled hpoison hctxs, ih]

theorem State.rangeBusy_congr (hlocked : t.locked = s.locked) (hjobs : t.jobs = s.jobs) (h : Hdm) : t.rangeBusy h = s.rangeBusy h := by
  simp only [State.rangeBusy, hlocked, hjobs, State.leadsInto_congr hmem hveiled hpoison hctxs]

end

/-- A register access on its way to a decoder. -/
def State.toDecoder (s : State) (f : Func) (c : Fin 4) : State := s.exchange (30 + f.port.val) (30 + c.val / 2)

/-! ### HDM_COMMIT (R380) -/

section
variable {s : State} {f : Func} {c k : Fin 4} {v : U64} {ok : Bool}

/-- The access changes nothing the checks of R380 look at. -/
theorem State.toDecoder_rangeBusy (h : Hdm) : (s.toDecoder f c).rangeBusy h = s.rangeBusy h :=
  State.rangeBusy_congr (s := s) (t := s.toDecoder f c) (State.exchange_mem s _ _) (State.exchange_veiled s _ _) (State.exchange_poison s _ _)
    (State.exchange_ctxs s _ _) (State.exchange_locked s _ _) (State.exchange_jobs s _ _) h

theorem State.toDecoder_hdmErr (h : Hdm) : (s.toDecoder f c).hdmErr c.val k.val h ok = s.hdmErr c.val k.val h ok := by
  have hhdms : (s.toDecoder f c).hdms = s.hdms := rfl
  simp only [State.hdmErr, hhdms, State.toDecoder_rangeBusy]

theorem State.toDecoder_hdmAt : (s.toDecoder f c).hdmAt c.val k.val = s.hdmAt c.val k.val := rfl

variable (hserved : Served s (30 + c.val / 2) f)

include hserved in
theorem exec_hdmCommit_served : exec (.hdmCommit f c k v ok) s = .next ((s.toDecoder f c).writeHdm c.val k.val v ok) := by
  obtain ⟨hon, hbar, hdie, hctrl⟩ := hserved
  rw [exec, execHdmCommit, s.byBarOf_open _ _ _ hon hbar hdie, State.privileged_control _ _ _ ((s.isControl_exchange f _ _).trans hctrl),
    State.toDecoder]

variable (hlen : (s.cxlAt c.val).hdm.length = 4)

include hlen in
theorem State.toDecoder_in_range : k.val < ((s.toDecoder f c).cxlAt c.val).hdm.length := Nat.lt_of_lt_of_eq k.isLt hlen.symm

section
variable (hfree : (s.hdmAt c.val k.val).committed = false)
include hfree hserved

theorem exec_hdmCommit_commit (hv : bit v 4 = true) : exec (.hdmCommit f c k v ok) s =
    .next ((s.toDecoder f c).commitHdm c.val k.val ((s.hdmAt c.val k.val).written v) ok) := by
  rw [exec_hdmCommit_served hserved, State.writeHdm_eq, State.toDecoder_hdmAt, if_pos hv, if_neg (ne_true_of_eq_false hfree),
    if_neg (ne_true_of_eq_false hfree)]

include hlen

theorem hdmCommit_refused (hv : bit v 4 = true) (he : s.hdmErr c.val k.val ((s.hdmAt c.val k.val).written v) ok ≠ 0) :
    ∃ t, exec (.hdmCommit f c k v ok) s = .next t ∧ t.hdmAt c.val k.val = { (s.hdmAt c.val k.val).written v with
      commit := false, err := BitVec.ofNat 3 (s.hdmErr c.val k.val ((s.hdmAt c.val k.val).written v) ok) } ∧ t.mem = s.mem := by
  refine ⟨_, exec_hdmCommit_commit hserved hfree hv, ?_⟩
  rw [State.commitHdm_refused (by rwa [State.toDecoder_hdmErr]), State.toDecoder_hdmErr]
  exact ⟨State.hdmAt_setHdm _ (State.toDecoder_in_range hlen) _, rfl⟩

theorem hdmCommit_accepted (hv : bit v 4 = true) (he : s.hdmErr c.val k.val ((s.hdmAt c.val k.val).written v) ok = 0) :
    ∃ t, exec (.hdmCommit f c k v ok) s = .next t ∧ (t.hdmAt c.val k.val).commit = true ∧ (t.hdmAt c.val k.val).err = 0 ∧
      (((s.hdmAt c.val k.val).written v).ways = 0 → (t.hdmAt c.val k.val).committed = true) ∧
      (t.hdmAt c.val k.val).base = (s.hdmAt c.val k.val).base ∧ (t.hdmAt c.val k.val).size = (s.hdmAt c.val k.val).size ∧ t.mem = s.mem := by
  let h1 : Hdm := { (s.hdmAt c.val k.val).written v with commit := true, err := 0 }
  have hk : k.val < ((s.toDecoder f c).cxlAt c.val).hdm.length := State.toDecoder_in_range hlen
  have hput : ((s.toDecoder f c).setHdm c.val k.val h1).hdmAt c.val k.val = h1 := State.hdmAt_setHdm _ hk _
  have hsame : h1.sameSet ((s.hdmAt c.val k.val).written v) = true := by simp [h1, Hdm.sameSet]
  obtain ⟨b, hjoin, hways⟩ := State.hdmAt_joinSet (s := (s.toDecoder f c).setHdm c.val k.val h1) (h := (s.hdmAt c.val k.val).written v) c.isLt
    (by rwa [State.setHdm_length]) (by rw [hput]) (by rw [hput, hsame])
  refine ⟨_, exec_hdmCommit_commit hserved hfree hv, ?_⟩
  rw [State.commitHdm_accepted (by rwa [State.toDecoder_hdmErr]), hjoin, hput]
  exact ⟨rfl, rfl, hways, rfl, rfl, State.joinSet_keeps ((frees_mem (· = s.mem)).sub rfl) _ _ rfl⟩

theorem hdmCommit_withdraws (hv : bit v 4 = false) : ∃ t, exec (.hdmCommit f c k v ok) s = .next t ∧
    t.hdmAt c.val k.val = { (s.hdmAt c.val k.val).written v with commit := false, err := 0 } := by
  have hkept : ((s.hdmAt c.val k.val).written v).committed = false := hfree
  refine ⟨_, exec_hdmCommit_served hserved, ?_⟩
  rw [State.writeHdm_eq, State.toDecoder_hdmAt, if_neg (ne_true_of_eq_false hv), if_neg (ne_true_of_eq_false hfree), State.clearHdm_free hkept]
  exact State.hdmAt_setHdm _ (State.toDecoder_in_range hlen) _

end

section
variable (hin : (s.hdmAt c.val k.val).committed = true)
include hin hserved

theorem exec_hdmCommit_in_force (hv : bit v 4 = true) : exec (.hdmCommit f c k v ok) s = .next (s.toDecoder f c) := by
  rw [exec_hdmCommit_served hserved, State.writeHdm_eq, State.toDecoder_hdmAt, if_pos hv, if_pos hin]

theorem exec_hdmCommit_clear (hv : bit v 4 = false) : exec (.hdmCommit f c k v ok) s =
    .next ((s.toDecoder f c).clearHdm c.val k.val (s.hdmAt c.val k.val)) := by
  rw [exec_hdmCommit_served hserved, State.writeHdm_eq, State.toDecoder_hdmAt, if_neg (ne_true_of_eq_false hv), if_pos hin]

include hlen

theorem hdmCommit_busy (hv : bit v 4 = false) (hbusy : s.rangeBusy (s.hdmAt c.val k.val) = true) :
    ∃ t, exec (.hdmCommit f c k v ok) s = .next t ∧ t.hdmAt c.val k.val = { s.hdmAt c.val k.val with err := 4 } := by
  refine ⟨_, exec_hdmCommit_clear hserved hin hv, ?_⟩
  rw [State.clearHdm_busy hin (by rwa [State.toDecoder_rangeBusy])]
  exact State.hdmAt_setHdm _ (State.toDecoder_in_range hlen) _

theorem hdmCommit_releases (hv : bit v 4 = false) (hidle : s.rangeBusy (s.hdmAt c.val k.val) = false) :
    ∃ t, exec (.hdmCommit f c k v ok) s = .next t ∧
      t.hdmAt c.val k.val = { s.hdmAt c.val k.val with commit := false, committed := false, err := 0 } := by
  refine ⟨_, exec_hdmCommit_clear hserved hin hv, ?_⟩
  rw [State.clearHdm_idle hin (by rwa [State.toDecoder_rangeBusy])]
  refine State.hdmAt_setHdm _ ?_ _
  rw [State.mapHdm_port _ c.isLt, List.length_map, State.setHdm_length]
  exact State.toDecoder_in_range hlen

end

end

end Sys2Proof.Machine

namespace Sys2Proof
open Machine

/-- Settles O39: the scrub device by device, completions by the order of a stream's requests, a decoder by what the checks of R380 answer. -/
theorem scrubAndCxl : Obligations.scrub_and_cxl := by
  refine ⟨fun s hon => ⟨fun errs => exec_scrubWindow_outside hon errs, fun errs => scrubWindow_checks hon errs,
    fun d => exec_eccCorrected_not_boundary hon d, fun d => eccCorrected_posts hon d, fun d b => exec_eccCorrected_held hon d⟩, fun c s hon => ?_⟩
  refine ⟨fun id poison ns => exec_cxlCompletion_unknown poison ns hon, fun id poison ns r l => cxlCompletion_returns poison ns hon,
    fun id poison ns q r l => cxlCompletion_keeps_order poison ns hon, fun prsnt full dv => exec_cxlPortUp_held hon prsnt full dv,
    fun full dv hen heff hfree => ⟨(exec_cxlPortUp_free hon full dv hen heff hfree false).trans (congrArg _ (if_pos rfl)),
      cxlPortUp_trains hon full dv hen heff hfree⟩, exec_cxlPortDown_idle hon, cxlPortDown_loses hon, fun f k v ok hserved hlen => ?_⟩
  exact ⟨hdmCommit_refused hserved hlen, hdmCommit_accepted hserved hlen, hdmCommit_withdraws hserved hlen, exec_hdmCommit_in_force hserved,
    hdmCommit_busy hserved hlen, hdmCommit_releases hserved hlen⟩

end Sys2Proof
end

section
/-! PROOF. What all commands have in common: they answer a next state, a module that is off rests, and each leaves the areas it does not name;
O2, O3, O6. -/

namespace Sys2Proof
open Machine

/-! ### Areas of the state and the parts of Laws/Keeps -/

theorem Area.every_getElem (p : Area) : Area.every[p.ctorIdx]? = some p := by cases p <;> rfl

theorem Area.mem_every (p : Area) : p ∈ Area.every := List.mem_of_getElem? p.every_getElem

theorem Area.ctorIdx_lt (p : Area) : p.ctorIdx < 42 := (List.getElem?_eq_some_iff.mp p.every_getElem).1

theorem Area.ctorIdx_inj {p q : Area} (h : p.ctorIdx = q.ctorIdx) : p = q := by
  have hp := p.every_getElem
  rw [h, q.every_getElem] at hp
  exact (Option.some.inj hp).symm

/-- The parts of a list of areas: an area's part is its place in the state. -/
def Area.mask (l : List Area) : Nat := l.foldr (fun p m => 2 ^ p.ctorIdx ||| m) 0

theorem Area.testBit_mask {l : List Area} {k : Nat} (h : (Area.mask l).testBit k = true) : ∃ p ∈ l, p.ctorIdx = k := by
  induction l with
  | nil => simp [Area.mask] at h
  | cons q l ih =>
    rw [Area.mask, List.foldr_cons, Nat.testBit_or, Bool.or_eq_true] at h
    cases h with
    | inl hq => exact ⟨q, List.mem_cons_self, of_decide_eq_true (Nat.testBit_two_pow ▸ hq)⟩
    | inr hl =>
      obtain ⟨p, hp, hk⟩ := ih hl
      exact ⟨p, List.mem_cons_of_mem q hp, hk⟩

theorem Area.same_self (p : Area) (s : State) : p.same s s := by cases p <;> rfl

/-- Every part but its own leaves an area as it was. -/
theorem Area.frees_others (p : Area) (s : State) : Frees (fun t => p.same s t) (2 ^ 42 - (2 ^ p.ctorIdx + 1)) := by
  cases p with
  | time => exact frees_time (· = s.time)
  | mem => exact frees_mem (· = s.mem)
  | host => exact frees_host (· = s.host)
  | veiled => exact frees_veiled (· = s.veiled)
  | units => exact frees_units (· = s.units)
  | queues => exact frees_queues (· = s.queues)
  | chans => exact frees_chans (· = s.chans)
  | syncs => exact frees_syncs (· = s.syncs)
  | watches => exact frees_watches (· = s.watches)
  | marks => exact frees_marks (· = s.marks)
  | recfgs => exact frees_recfgs (· = s.recfgs)
  | mxe => exact frees_mxe (· = s.mxe)
  | eng => exact frees_eng (· = s.eng)
  | accDir => exact frees_accDir (· = s.accDir)
  | vregs => exact frees_vregs (· = s.vregs)
  | vmask => exact frees_vmask (· = s.vmask)
  | vx => exact frees_vx (· = s.vx)
  | recipes => exact frees_recipes (· = s.recipes)
  | dec => exact frees_dec (· = s.dec)
  | gse => exact frees_gse (· = s.gse)
  | rxe => exact frees_rxe (· = s.rxe)
  | jobs => exact frees_jobs (· = s.jobs)
  | saves => exact frees_saves (· = s.saves)
  | ports => exact frees_ports (· = s.ports)
  | torus => exact frees_torus (· = s.torus)
  | devs => exact frees_devs (· = s.devs)
  | poison => exact frees_poison (· = s.poison)
  | cxl => exact frees_cxl (· = s.cxl)
  | tlb => exact frees_tlb (· = s.tlb)
  | locked => exact frees_locked (· = s.locked)
  | ats => exact frees_ats (· = s.ats)
  | faults => exact frees_faults (· = s.faults)
  | ctxs => exact frees_ctxs (· = s.ctxs)
  | hp => exact frees_hp (· = s.hp)
  | obs => exact frees_obs (· = s.obs)
  | fabric => exact frees_fabric (· = s.fabric)
  | pwr => exact frees_pwr (· = s.pwr)
  | dies => exact frees_dies (· = s.dies)
  | sec => exact frees_sec (· = s.sec)
  | pins => exact frees_pins (· = s.pins)
  | answer => exact frees_answer (· = s.answer)
  | fresh => exact frees_fresh (· = s.fresh)

theorem Area.free_other {p q : Area} (s : State) (h : p ≠ q) : Free (fun t => p.same s t) q.ctorIdx := by
  refine p.frees_others s _ ?_
  rw [Nat.testBit_two_pow_sub_succ (Nat.pow_lt_pow_right (by decide) p.ctorIdx_lt), Nat.testBit_two_pow]
  simpa [q.ctorIdx_lt] using fun e => h (Area.ctorIdx_inj e)

/-- What writes parts of a list of areas alone leaves every area outside the list. -/
theorem Area.frees_same {p : Area} {l : List Area} (s : State) (hp : p ∉ l) {m : Nat}
    (hm : Nat.land m (Area.mask l) = m := by simp only [Instr.mayWrite]; decide) :
    Frees (fun t => p.same s t) m := by
  refine Frees.sub (m := Area.mask l) (fun k hk => ?_) hm
  obtain ⟨q, hq, rfl⟩ := Area.testBit_mask hk
  exact Area.free_other s fun e => hp (e ▸ hq)

/-! ### The commands -/

/-- Each command leaves every area that `Instr.mayWrite` does not name for it, by its `_keeps` lemma. -/
theorem exec_same (c : Instr) (s : State) (ar : Area) (har : ar ∉ c.mayWrite) : OutAll (fun t => ar.same s t) (exec c s) := by
  cases c with
  | beatBoundary => exact (har ar.mem_every).elim
  | beatEdge => exact (har ar.mem_every).elim
  | beatSetWrite f v => exact execBeatSetWrite_keeps (Area.frees_same s har) f v s (ar.same_self s)
  | timeCtrlWrite f v => exact execTimeCtrlWrite_keeps (Area.frees_same s har) f v s (ar.same_self s)
  | timingWordReceive p w whole arr16 => exact execTimingWordReceive_keeps (Area.frees_same s har) p w whole arr16 s (ar.same_self s)
  | delayEchoReceive p roundTripPs => exact execDelayEchoReceive_keeps (Area.frees_same s har) p roundTripPs s (ar.same_self s)
  | delayRemeasure => exact execDelayRemeasure_keeps (Area.frees_same s har) s (ar.same_self s)
  | holdoverEntry => exact execHoldoverEntry_keeps (Area.frees_same s har) s (ar.same_self s)
  | holdoverExpiry => exact execHoldoverExpiry_keeps (Area.frees_same s har) s (ar.same_self s)
  | markTakeEffect => exact execMarkTakeEffect_keeps (Area.frees_same s har) s (ar.same_self s)
  | reconfigDrain => exact execReconfigDrain_keeps (Area.frees_same s har) s (ar.same_self s)
  | commandStart x => exact execCommandStart_keeps (Area.frees_same s har) x s (ar.same_self s)
  | boundReadReply x slot => exact execBoundReadReply_keeps (Area.frees_same s har) x slot s (ar.same_self s)
  | iterationFire x => exact execIterationFire_keeps (Area.frees_same s har) x s (ar.same_self s)
  | markTokenPop x port => exact execMarkTokenPop_keeps (Area.frees_same s har) x port s (ar.same_self s)
  | drainTokenPop x port => exact execDrainTokenPop_keeps (Area.frees_same s har) x port s (ar.same_self s)
  | commandEnd x => exact execCommandEnd_keeps (Area.frees_same s har) x s (ar.same_self s)
  | endTokenPop x => exact execEndTokenPop_keeps (Area.frees_same s har) x s (ar.same_self s)
  | tokenCrossing src dst => exact execTokenCrossing_keeps (Area.frees_same s har) src dst s (ar.same_self s)
  | creditReturn die q => exact execCreditReturn_keeps (Area.frees_same s har) die q s (ar.same_self s)
  | qcfgWrite f die q v => exact execQcfgWrite_keeps (Area.frees_same s har) f die q v s (ar.same_self s)
  | fetchAdd x sid a => exact execFetchAdd_keeps (Area.frees_same s har) x sid a s (ar.same_self s)
  | fetchMin x sid a => exact execFetchMin_keeps (Area.frees_same s har) x sid a s (ar.same_self s)
  | fetchMax x sid a => exact execFetchMax_keeps (Area.frees_same s har) x sid a s (ar.same_self s)
  | signal x sid a => exact execSignal_keeps (Area.frees_same s har) x sid a s (ar.same_self s)
  | waitGe x sid v => exact execWaitGe_keeps (Area.frees_same s har) x sid v s (ar.same_self s)
  | read by_ sid => exact execRead_keeps (Area.frees_same s har) by_ sid s (ar.same_self s)
  | set by_ sid v ctl => exact execSet_keeps (Area.frees_same s har) by_ sid v ctl s (ar.same_self s)
  | syncReply x => exact execSyncReply_keeps (Area.frees_same s har) x s (ar.same_self s)
  | watchNotify x => exact execWatchNotify_keeps (Area.frees_same s har) x s (ar.same_self s)
  | preemptStop jid => exact execPreemptStop_keeps (Area.frees_same s har) jid s (ar.same_self s)
  | chainSave jid => exact execChainSave_keeps (Area.frees_same s har) jid s (ar.same_self s)
  | resumeRestore jid => exact execResumeRestore_keeps (Area.frees_same s har) jid s (ar.same_self s)
  | mxeCommand die m rows => exact execMxeCommand_keeps (Area.frees_same s har) die m rows s (ar.same_self s)
  | accTake die m => exact execAccTake_keeps (Area.frees_same s har) die m s (ar.same_self s)
  | mxeDrain die m => exact execMxeDrain_keeps (Area.frees_same s har) die m s (ar.same_self s)
  | decantRow x => exact execDecantRow_keeps (Area.frees_same s har) x s (ar.same_self s)
  | tileComplete x => exact execTileComplete_keeps (Area.frees_same s har) x s (ar.same_self s)
  | fadd v w => exact execFadd_keeps (Area.frees_same s har) v w s (ar.same_self s)
  | fsub v w => exact execFsub_keeps (Area.frees_same s har) v w s (ar.same_self s)
  | fmul v w => exact execFmul_keeps (Area.frees_same s har) v w s (ar.same_self s)
  | fma v w => exact execFma_keeps (Area.frees_same s har) v w s (ar.same_self s)
  | fmax v w => exact execFmax_keeps (Area.frees_same s har) v w s (ar.same_self s)
  | fmin v w => exact execFmin_keeps (Area.frees_same s har) v w s (ar.same_self s)
  | faddPk v w => exact execFaddPk_keeps (Area.frees_same s har) v w s (ar.same_self s)
  | fsubPk v w => exact execFsubPk_keeps (Area.frees_same s har) v w s (ar.same_self s)
  | fmulPk v w => exact execFmulPk_keeps (Area.frees_same s har) v w s (ar.same_self s)
  | fmaPk v w => exact execFmaPk_keeps (Area.frees_same s har) v w s (ar.same_self s)
  | fmaxPk v w => exact execFmaxPk_keeps (Area.frees_same s har) v w s (ar.same_self s)
  | fminPk v w => exact execFminPk_keeps (Area.frees_same s har) v w s (ar.same_self s)
  | exp2 v w => exact execExp2_keeps (Area.frees_same s har) v w s (ar.same_self s)
  | log2 v w => exact execLog2_keeps (Area.frees_same s har) v w s (ar.same_self s)
  | rcp v w => exact execRcp_keeps (Area.frees_same s har) v w s (ar.same_self s)
  | rsqrt v w => exact execRsqrt_keeps (Area.frees_same s har) v w s (ar.same_self s)
  | tanh v w => exact execTanh_keeps (Area.frees_same s har) v w s (ar.same_self s)
  | sin v w => exact execSin_keeps (Area.frees_same s har) v w s (ar.same_self s)
  | cos v w => exact execCos_keeps (Area.frees_same s har) v w s (ar.same_self s)
  | cmp v w => exact execCmp_keeps (Area.frees_same s har) v w s (ar.same_self s)
  | sel v w => exact execSel_keeps (Area.frees_same s har) v w s (ar.same_self s)
  | cvt v w => exact execCvt_keeps (Area.frees_same s har) v w s (ar.same_self s)
  | and v w => exact execAnd_keeps (Area.frees_same s har) v w s (ar.same_self s)
  | or v w => exact execOr_keeps (Area.frees_same s har) v w s (ar.same_self s)
  | xor v w => exact execXor_keeps (Area.frees_same s har) v w s (ar.same_self s)
  | shl v w => exact execShl_keeps (Area.frees_same s har) v w s (ar.same_self s)
  | shr v w => exact execShr_keeps (Area.frees_same s har) v w s (ar.same_self s)
  | pop v w => exact execPop_keeps (Area.frees_same s har) v w s (ar.same_self s)
  | push v w => exact execPush_keeps (Area.frees_same s har) v w s (ar.same_self s)
  | lred v w => exact execLred_keeps (Area.frees_same s har) v w s (ar.same_self s)
  | rxeSum die => exact execRxeSum_keeps (Area.frees_same s har) die s (ar.same_self s)
  | rxeSumsq die => exact execRxeSumsq_keeps (Area.frees_same s har) die s (ar.same_self s)
  | rxeNorm2 die => exact execRxeNorm2_keeps (Area.frees_same s har) die s (ar.same_self s)
  | rxeMean die => exact execRxeMean_keeps (Area.frees_same s har) die s (ar.same_self s)
  | rxeMax die => exact execRxeMax_keeps (Area.frees_same s har) die s (ar.same_self s)
  | rxeMin die => exact execRxeMin_keeps (Area.frees_same s har) die s (ar.same_self s)
  | rxeArgmax die => exact execRxeArgmax_keeps (Area.frees_same s har) die s (ar.same_self s)
  | rxeArgmin die => exact execRxeArgmin_keeps (Area.frees_same s har) die s (ar.same_self s)
  | rxeTopk die => exact execRxeTopk_keeps (Area.frees_same s har) die s (ar.same_self s)
  | gather die rows => exact execGather_keeps (Area.frees_same s har) die rows s (ar.same_self s)
  | scatterAdd die steps => exact execScatterAdd_keeps (Area.frees_same s har) die steps s (ar.same_self s)
  | route die tokens => exact execRoute_keeps (Area.frees_same s har) die tokens s (ar.same_self s)
  | claim x => exact execClaim_keeps (Area.frees_same s har) x s (ar.same_self s)
  | dmaTransfer die e words => exact execDmaTransfer_keeps (Area.frees_same s har) die e words s (ar.same_self s)
  | carryAdd jid bucket => exact execCarryAdd_keeps (Area.frees_same s har) jid bucket s (ar.same_self s)
  | hxuCommand die => exact execHxuCommand_keeps (Area.frees_same s har) die s (ar.same_self s)
  | lmvCopy die => exact execLmvCopy_keeps (Area.frees_same s har) die s (ar.same_self s)
  | pass1Norm jid => exact execPass1Norm_keeps (Area.frees_same s har) jid s (ar.same_self s)
  | normDerive jid => exact execNormDerive_keeps (Area.frees_same s har) jid s (ar.same_self s)
  | pass2Update jid layer elems => exact execPass2Update_keeps (Area.frees_same s har) jid layer elems s (ar.same_self s)
  | queryCommand jid query => exact execQueryCommand_keeps (Area.frees_same s har) jid query s (ar.same_self s)
  | ingestArrival jid port query dva data => exact execIngestArrival_keeps (Area.frees_same s har) jid port query dva data s (ar.same_self s)
  | flitSlot p => exact execFlitSlot_keeps (Area.frees_same s har) p s (ar.same_self s)
  | flitReceive p flit => exact execFlitReceive_keeps (Area.frees_same s har) p flit s (ar.same_self s)
  | nakReplay p => exact execNakReplay_keeps (Area.frees_same s har) p s (ar.same_self s)
  | packetOriginate p => exact execPacketOriginate_keeps (Area.frees_same s har) p s (ar.same_self s)
  | reduce p => exact execReduce_keeps (Area.frees_same s har) p s (ar.same_self s)
  | adderOperandReady p => exact execAdderOperandReady_keeps (Area.frees_same s har) p s (ar.same_self s)
  | spread p => exact execSpread_keeps (Area.frees_same s har) p s (ar.same_self s)
  | halo p => exact execHalo_keeps (Area.frees_same s har) p s (ar.same_self s)
  | corkPacket p => exact execCorkPacket_keeps (Area.frees_same s har) p s (ar.same_self s)
  | corkPhaseStart jid => exact execCorkPhaseStart_keeps (Area.frees_same s har) jid s (ar.same_self s)
  | linkDown p => exact execLinkDown_keeps (Area.frees_same s har) p s (ar.same_self s)
  | portTrained p roundTripPs polarity => exact execPortTrained_keeps (Area.frees_same s har) p roundTripPs polarity s (ar.same_self s)
  | laneLockLoss p => exact execLaneLockLoss_keeps (Area.frees_same s har) p s (ar.same_self s)
  | noHeaderTimeout p => exact execNoHeaderTimeout_keeps (Area.frees_same s har) p s (ar.same_self s)
  | scrubWindow errs => exact execScrubWindow_keeps (Area.frees_same s har) errs s (ar.same_self s)
  | gddr7Read by_ a err => exact execGddr7Read_keeps (Area.frees_same s har) by_ a err s (ar.same_self s)
  | gddr7Write by_ a data err => exact execGddr7Write_keeps (Area.frees_same s har) by_ a data err s (ar.same_self s)
  | eccCorrected dev => exact execEccCorrected_keeps (Area.frees_same s har) dev s (ar.same_self s)
  | cxlCompletion c id poison ns => exact execCxlCompletion_keeps (Area.frees_same s har) c id poison ns s (ar.same_self s)
  | hdmCommit f c k v devOk => exact execHdmCommit_keeps (Area.frees_same s har) f c k v devOk s (ar.same_self s)
  | cxlPortDown c cause => exact execCxlPortDown_keeps (Area.frees_same s har) c cause s (ar.same_self s)
  | cxlPortUp c full devices prsnt => exact execCxlPortUp_keeps (Area.frees_same s har) c prsnt full devices s (ar.same_self s)
  | translationWalk by_ ctx dva write => exact execTranslationWalk_keeps (Area.frees_same s har) by_ ctx dva write s (ar.same_self s)
  | invalidate f v => exact execInvalidate_keeps (Area.frees_same s har) f v s (ar.same_self s)
  | invalidateDone ctx => exact execInvalidateDone_keeps (Area.frees_same s har) ctx s (ar.same_self s)
  | atsInvalidation port lo hi => exact execAtsInvalidation_keeps (Area.frees_same s har) port lo hi s (ar.same_self s)
  | pageResponse ctx fid success => exact execPageResponse_keeps (Area.frees_same s har) ctx fid success s (ar.same_self s)
  | retry f fid => exact execRetry_keeps (Area.frees_same s har) f fid s (ar.same_self s)
  | abortFault f fid => exact execAbortFault_keeps (Area.frees_same s har) f fid s (ar.same_self s)
  | pinEnable f pin v => exact execPinEnable_keeps (Area.frees_same s har) f pin v s (ar.same_self s)
  | pinComplete ctx pin => exact execPinComplete_keeps (Area.frees_same s har) ctx pin s (ar.same_self s)
  | pinDisable f pin => exact execPinDisable_keeps (Area.frees_same s har) f pin s (ar.same_self s)
  | doorbellPoll => exact execDoorbellPoll_keeps (Area.frees_same s har) s (ar.same_self s)
  | doorbellInvalidate ctx => exact execDoorbellInvalidate_keeps (Area.frees_same s har) ctx s (ar.same_self s)
  | doorbellLine ctx line => exact execDoorbellLine_keeps (Area.frees_same s har) ctx line s (ar.same_self s)
  | descriptorFetch ctx ds => exact execDescriptorFetch_keeps (Area.frees_same s har) ctx ds s (ar.same_self s)
  | run => exact execRun_keeps (Area.frees_same s har) s (ar.same_self s)
  | resume => exact execResume_keeps (Area.frees_same s har) s (ar.same_self s)
  | preempt => exact execPreempt_keeps (Area.frees_same s har) s (ar.same_self s)
  | abort => exact execAbort_keeps (Area.frees_same s har) s (ar.same_self s)
  | jobStart jid => exact execJobStart_keeps (Area.frees_same s har) jid s (ar.same_self s)
  | lentJobStart jid => exact execLentJobStart_keeps (Area.frees_same s har) jid s (ar.same_self s)
  | park jid => exact execPark_keeps (Area.frees_same s har) jid s (ar.same_self s)
  | reservationEnd jid => exact execReservationEnd_keeps (Area.frees_same s har) jid s (ar.same_self s)
  | jobEnd jid => exact execJobEnd_keeps (Area.frees_same s har) jid s (ar.same_self s)
  | contextEnable f => exact execContextEnable_keeps (Area.frees_same s har) f s (ar.same_self s)
  | contextDisable f => exact execContextDisable_keeps (Area.frees_same s har) f s (ar.same_self s)
  | portLinkTimeout port => exact execPortLinkTimeout_keeps (Area.frees_same s har) port s (ar.same_self s)
  | handover f port => exact execHandover_keeps (Area.frees_same s har) f port s (ar.same_self s)
  | snap f => exact execSnap_keeps (Area.frees_same s har) f s (ar.same_self s)
  | clear f => exact execClear_keeps (Area.frees_same s har) f s (ar.same_self s)
  | traceDrain die => exact execTraceDrain_keeps (Area.frees_same s har) die s (ar.same_self s)
  | traceDrop die => exact execTraceDrop_keeps (Area.frees_same s har) die s (ar.same_self s)
  | softTrig f => exact execSoftTrig_keeps (Area.frees_same s har) f s (ar.same_self s)
  | trigger ctx => exact execTrigger_keeps (Area.frees_same s har) ctx s (ar.same_self s)
  | hang jid => exact execHang_keeps (Area.frees_same s har) jid s (ar.same_self s)
  | dumpRequest f scope => exact execDumpRequest_keeps (Area.frees_same s har) f scope s (ar.same_self s)
  | stringDump => exact execStringDump_keeps (Area.frees_same s har) s (ar.same_self s)
  | dumpRestart => exact execDumpRestart_keeps (Area.frees_same s har) s (ar.same_self s)
  | resourceClaim f r want => exact execResourceClaim_keeps (Area.frees_same s har) f r want s (ar.same_self s)
  | trigEdge lowNs sinceNs => exact execTrigEdge_keeps (Area.frees_same s har) lowNs sinceNs s (ar.same_self s)
  | powerOn => exact (har ar.mem_every).elim
  | boot slotA slotB micro train failedDev => exact execBoot_keeps (Area.frees_same s har) slotA slotB micro train failedDev s (ar.same_self s)
  | overvoltageTrip => exact (har ar.mem_every).elim
  | presBreak => exact (har ar.mem_every).elim
  | shedEntry => exact (har ar.mem_every).elim
  | shedRecovery => exact execShedRecovery_keeps (Area.frees_same s har) s (ar.same_self s)
  | forceLevel f v => exact execForceLevel_keeps (Area.frees_same s har) f v s (ar.same_self s)
  | quiesce f die => exact execQuiesce_keeps (Area.frees_same s har) f die s (ar.same_self s)
  | fence f die => exact execFence_keeps (Area.frees_same s har) f die s (ar.same_self s)
  | dieFenced die => exact execDieFenced_keeps (Area.frees_same s har) die s (ar.same_self s)
  | reset f die => exact execReset_keeps (Area.frees_same s har) f die s (ar.same_self s)
  | rejoin f die => exact execRejoin_keeps (Area.frees_same s har) f die s (ar.same_self s)
  | modRst => exact (har ar.mem_every).elim
  | warmReset => exact (har ar.mem_every).elim
  | watchdogExpiry => exact (har ar.mem_every).elim
  | perst port => exact execPerst_keeps (Area.frees_same s har) port s (ar.same_self s)
  | functionLevelReset f => exact execFunctionLevelReset_keeps (Area.frees_same s har) f s (ar.same_self s)
  | fwStage f img => exact execFwStage_keeps (Area.frees_same s har) f img s (ar.same_self s)
  | fwSelect f => exact execFwSelect_keeps (Area.frees_same s har) f s (ar.same_self s)
  | fwActivateDie f die => exact execFwActivateDie_keeps (Area.frees_same s har) f die s (ar.same_self s)
  | advanceSvn f ty => exact execAdvanceSvn_keeps (Area.frees_same s har) f ty s (ar.same_self s)
  | debugChallenge f => exact execDebugChallenge_keeps (Area.frees_same s har) f s (ar.same_self s)
  | debugUnlock f token => exact execDebugUnlock_keeps (Area.frees_same s har) f token s (ar.same_self s)
  | moduleReset f => exact execModuleReset_keeps (Area.frees_same s har) f s (ar.same_self s)
  | getVersion port => exact execGetVersion_keeps (Area.frees_same s har) port s (ar.same_self s)
  | getCapabilities port => exact execGetCapabilities_keeps (Area.frees_same s har) port s (ar.same_self s)
  | negotiateAlgorithms port => exact execNegotiateAlgorithms_keeps (Area.frees_same s har) port s (ar.same_self s)
  | getDigests port => exact execGetDigests_keeps (Area.frees_same s har) port s (ar.same_self s)
  | getCertificate port slot => exact execGetCertificate_keeps (Area.frees_same s har) port slot s (ar.same_self s)
  | challenge port slot nonce => exact execChallenge_keeps (Area.frees_same s har) port slot nonce s (ar.same_self s)
  | getMeasurements port nonce => exact execGetMeasurements_keeps (Area.frees_same s har) port nonce s (ar.same_self s)
  | smbPwrStatus => exact execSmbPwrStatus_keeps (Area.frees_same s har) s (ar.same_self s)
  | smbPwrTherm => exact execSmbPwrTherm_keeps (Area.frees_same s har) s (ar.same_self s)
  | smbSecBoot => exact execSmbSecBoot_keeps (Area.frees_same s har) s (ar.same_self s)
  | smbGtNow => exact execSmbGtNow_keeps (Area.frees_same s har) s (ar.same_self s)
  | smbCoolant => exact execSmbCoolant_keeps (Area.frees_same s har) s (ar.same_self s)
  | smbHpStatus => exact execSmbHpStatus_keeps (Area.frees_same s har) s (ar.same_self s)
  | smbSerial => exact execSmbSerial_keeps (Area.frees_same s har) s (ar.same_self s)
  | smbNack why => exact execSmbNack_keeps (Area.frees_same s har) why s (ar.same_self s)
  | nlEnable f p => exact execNlEnable_keeps (Area.frees_same s har) f p s (ar.same_self s)
  | nlDisable f p => exact execNlDisable_keeps (Area.frees_same s har) f p s (ar.same_self s)
  | retrain f p => exact execRetrain_keeps (Area.frees_same s har) f p s (ar.same_self s)
  | nlTorusWrite f p v => exact execNlTorusWrite_keeps (Area.frees_same s har) f p v s (ar.same_self s)
  | unsupportedRequest f addr size => exact execUnsupportedRequest_keeps (Area.frees_same s har) f addr size s (ar.same_self s)
  | deniedAccess f addr write => exact execDeniedAccess_keeps (Area.frees_same s har) f addr write s (ar.same_self s)
  | registerWrite f addr half v => exact execRegisterWrite_keeps (Area.frees_same s har) f addr half v s (ar.same_self s)
  | hostLinkDown port => exact execHostLinkDown_keeps (Area.frees_same s har) port s (ar.same_self s)
  | hostLinkUp port cxl full => exact execHostLinkUp_keeps (Area.frees_same s har) port cxl full s (ar.same_self s)
  | vinRemoved => exact (har ar.mem_every).elim
  | cblPres p low => exact execCblPres_keeps (Area.frees_same s har) p low s (ar.same_self s)
  | atsTranslationCompletion port page present write ctx order => exact execAtsTranslationCompletion_keeps (Area.frees_same s har) port ctx page order present write s (ar.same_self s)
  | fruEepromWrite addr data => exact execFruEepromWrite_keeps (Area.frees_same s har) addr data s (ar.same_self s)

/-- Settles O2: every meaning but that of an overvoltage is a next state as it is written. -/
theorem everyCommandGoesOn : Obligations.every_command_goes_on := by
  intro c s hv
  cases c with
  | overvoltageTrip v =>
    refine ⟨if v ≤ 8400 then s else s.powerOff.setPwr { s.powerOff.pwr with tripped := true }, ?_⟩
    have hmax : ¬ 10000 < v := Nat.not_lt.mpr (hv v rfl)
    change execOvervoltageTrip v s = _
    rw [execOvervoltageTrip, if_neg hmax]
    split <;> rfl
  | _ => exact ⟨_, rfl⟩

/-- Settles O6: every other command runs under the input switch. -/
theorem moduleOffDoesNothing : Obligations.module_off_does_nothing := by
  intro c s hoff
  cases c with
  | powerOn | modRst | overvoltageTrip | presBreak | vinRemoved | fruEepromWrite | smbPwrStatus | smbPwrTherm | smbHpStatus | smbSecBoot
  | smbSerial | smbGtNow | smbCoolant | smbNack => exact trivial
  | _ => exact congrArg Host.Outcome.next (if_neg (ne_true_of_eq_false hoff))

/-- Settles O3: a command's parts lie within the areas it may write. -/
theorem commandFrame : Obligations.command_frame := fun c s t h p hp => exec_same c s p hp t h

end Sys2Proof
end

section
/-! PROOF. What records, events and the ends of jobs leave of the contexts (R414, R423, R426, R449). -/

namespace Sys2Proof.Machine

/-! ### The end of a job, in two parts -/

/-- What leaves the units, queues and objects of a job that ends, its discards posted before. -/
def State.emptied (s : State) (j : Job) : State :=
  (((((s.dropRecfgs j.jid).clearUnits (s.unitsOf j.jid)).clearQueues (binQueues j.bin ++ ftqKeys (s.unitsOf j.jid))).disarm j.bin.syncs).stopTrace
    j.jid).freeOwners j

theorem State.release_eq (s : State) (j : Job) : s.release j = ({ s.emptied j with
    jobs := (s.emptied j).jobs.filter fun k => k.jid != j.jid
    marks := (s.emptied j).marks.filter fun m => m.jid != j.jid
    faults := (s.emptied j).faults.filter fun f => f.jid != j.jid
    saves := (s.emptied j).saves.filter fun v => v.jid != j.jid } : State).updCtx j.ctx.val fun c => { c with
      statusDirty := true, trigAt := none, trigDone := false, counters := j.counters.map fun n => BitVec.ofNat 48 (min n (2 ^ 48 - 1)) } := rfl

section
variable {P : State → Prop} (s : State) (j : Job)

theorem State.afterDrop_keeps (hw : Frees P 0x4001df9f0) (hs : P (s.dropRecfgs j.jid)) : P (s.emptied j) :=
  State.freeOwners_keeps (hw.sub rfl) _ j (State.stopTrace_keeps (hw.sub rfl) _ _ (State.disarm_keeps (hw.sub rfl) _ _
    (State.clearQueues_keeps (hw.sub rfl) _ _ (State.clearUnits_keeps (hw.sub rfl) _ _ hs))))

theorem State.emptied_keeps (hw : Frees P 0x5001dfdf4) (hs : P s) : P (s.emptied j) :=
  s.afterDrop_keeps j (hw.sub rfl) (State.dropRecfgs_keeps (hw.sub rfl) s _ hs)

end

/-! ### The registers no posting touches -/

/-- A context without what a record, an event, a trigger or the end of a job may write in it: the module's side of the three record rings, the
counts of drops, the next FAULT_ID, the trigger and the job counters. -/
def CtxSt.settled (c : CtxSt) : CtxSt :=
  { c with
    evtDrops := 0, stepDrops := 0, dropsSince := 0, statusDirty := false, nextFid := 0, counters := [], trigAt := none, trigSrc := 0,
    trigDone := false, cpl := { c.cpl with tail := 0, wait := [], wrote := false }, evt := { c.evt with tail := 0, wait := [], wrote := false },
    flt := { c.flt with tail := 0, wait := [], wrote := false } }

/-- The contexts of two states differ by postings alone. -/
def State.Posts (s t : State) : Prop := ∀ n, (t.ctxAt n).settled = (s.ctxAt n).settled

theorem State.ctxAt_congr {s t : State} (h : t.ctxs = s.ctxs) (n : Nat) : t.ctxAt n = s.ctxAt n := by rw [State.ctxAt, State.ctxAt, h]

theorem State.hpAt_congr {s t : State} (h : t.hp = s.hp) (p : Nat) : t.hpAt p = s.hpAt p := by rw [State.hpAt, State.hpAt, h]

namespace State.Posts

variable {s t : State}

theorem refl : s.Posts s := fun _ => rfl

/-- A register that `settled` leaves is left. -/
theorem part {α : Type} (g : CtxSt → α) (hg : ∀ c : CtxSt, g c.settled = g c) (h : s.Posts t) (n : Nat) : g (t.ctxAt n) = g (s.ctxAt n) := by
  rw [← hg, h n, hg]

theorem of_ctxs {u : State} (h : s.Posts t) (hu : u.ctxs = t.ctxs) : s.Posts u := fun n => (congrArg _ (State.ctxAt_congr hu n)).trans (h n)

theorem setCtx (h : s.Posts t) {a : Nat} {v : CtxSt} (hv : v.settled = (t.ctxAt a).settled) : s.Posts (t.setCtx a v) := by
  intro n
  by_cases hn : n = a
  · rw [hn, State.ctxAt_setCtx, hv, h a]
  · rw [State.ctxAt_setCtx_other _ _ _ _ hn, h n]

theorem updCtx (h : s.Posts t) {a : Nat} {f : CtxSt → CtxSt} (hf : ∀ c, (f c).settled = c.settled) : s.Posts (t.updCtx a f) :=
  h.setCtx (hf _)

theorem emit (h : s.Posts t) (n : Nat) (k : RingKind) (r : W256) : s.Posts (t.emit n k r) := by
  have hwritten (p a d e : Nat) (b : List Byte) : s.Posts ((t.hostWrite p a b).setCtx n
      { (t.ctxAt n).setRing k { (t.ctxAt n).ring k with tail := d, wrote := true } with dropsSince := e }) :=
    (h.of_ctxs (u := t.hostWrite p a b) rfl).setCtx (by cases k <;> rfl)
  exact hwritten _ _ _ _ _

theorem flushRing (h : s.Posts t) (n : Nat) (k : RingKind) (l : List W256) : s.Posts (t.flushRing n k l) := by
  have hwait (u : State) (hu : s.Posts u) (l : List W256) : s.Posts (u.updCtx n fun c => c.setRing k { c.ring k with wait := l }) :=
    hu.updCtx fun c => by cases k <;> rfl
  induction l generalizing t with
  | nil => exact hwait t h []
  | cons r l ih =>
    rw [State.flushRing]
    split
    · exact ih (h.emit n k r)
    · exact hwait t h (r :: l)

theorem flushCtx (h : s.Posts t) (n : Nat) : s.Posts (t.flushCtx n) := ((h.flushRing n _ _).flushRing n _ _).flushRing n _ _

theorem post (h : s.Posts t) (n : Nat) (k : RingKind) (r : W256) : s.Posts (t.post n k r) := by
  unfold State.post
  dsimp only
  split
  · exact (h.emit n k r).updCtx fun _ => rfl
  · split
    · exact h.setCtx rfl
    · split
      · exact h.setCtx rfl
      · exact h.setCtx (by cases k <;> rfl)

theorem event (h : s.Posts t) (n code : Nat) (jid : U64) (pl : List (Nat × Nat × Nat)) : s.Posts (t.event n code jid pl) := h.post n .evt _

theorem eventTo (h : s.Posts t) (code : Nat) (pl : List (Nat × Nat × Nat)) (cs : List Nat) : s.Posts (t.eventTo code pl cs) := by
  induction cs generalizing t with
  | nil => exact h
  | cons c cs ih => exact ih (h.event c code 0 pl)

theorem moduleEvent (h : s.Posts t) (code : Nat) (pl : List (Nat × Nat × Nat)) (hit : Job → Bool) : s.Posts (t.moduleEvent code pl hit) :=
  h.eventTo code pl _

theorem traceEv (h : s.Posts t) (d kind cls : Nat) (jid : U64) (unit : Nat) (tag : U32) (pl : List (Nat × Nat × Nat)) :
    s.Posts (t.traceEv d kind cls jid unit tag pl) :=
  h.of_ctxs (State.traceEv_keeps ((frees_ctxs (· = t.ctxs)).sub rfl) t d kind cls jid unit tag pl rfl)

theorem noteTrigger (h : s.Posts t) (n src : Nat) : s.Posts (t.noteTrigger n src) := by
  unfold State.noteTrigger
  dsimp only
  split
  · exact h.setCtx rfl
  · exact h

theorem postFault (h : s.Posts t) (n : Nat) (f : FaultRec) : s.Posts (t.postFault n f) := by
  have hfid : s.Posts (t.setCtx n { t.ctxAt n with nextFid := ((t.ctxAt n).nextFid + 1) % 2 ^ 32 }) := h.setCtx rfl
  unfold State.postFault
  dsimp only
  refine (State.Posts.traceEv ?_ _ _ _ _ _ _ _).post n .flt _
  split
  · exact hfid.noteTrigger n 4
  · exact hfid

theorem refuse (h : s.Posts t) (n : Nat) (jid : U64) (disp : Nat) : s.Posts (t.refuse n jid disp) := (h.traceEv _ _ _ _ _ _ _).post n .cpl _

theorem reject (h : s.Posts t) (n : Nat) (jid : U64) (cause : Nat) : s.Posts (t.reject n jid cause) := (h.postFault n _).refuse n jid 6

theorem foldl {α : Type} {f : State → α → State} {l : List α} (hf : ∀ u a, s.Posts u → s.Posts (f u a)) (h : s.Posts t) : s.Posts (l.foldl f t) :=
  Keep.foldl hf h

/-! ### The end of a job -/

theorem postDiscard (h : s.Posts t) (r : RecfgSt) : s.Posts (t.postDiscard r) := by
  unfold State.postDiscard
  split
  · exact h
  · split
    · exact h.event _ _ _ _
    · exact h

theorem dropRecfgs (h : s.Posts t) (jid : U64) : s.Posts (t.dropRecfgs jid) := (foldl (fun _ r hu => hu.postDiscard r) h).of_ctxs rfl

theorem release (h : s.Posts t) (j : Job) : s.Posts (t.release j) := by
  have frees := frees_ctxs (· = (t.dropRecfgs j.jid).ctxs)
  have hrest : (t.emptied j).ctxs = (t.dropRecfgs j.jid).ctxs :=
    t.afterDrop_keeps j (frees.sub rfl) rfl
  rw [State.release_eq]
  refine State.Posts.updCtx ?_ fun _ => rfl
  exact ((h.dropRecfgs j.jid).of_ctxs hrest).of_ctxs rfl

theorem finish (h : s.Posts t) (j : Job) (disp reason late : Nat) : s.Posts (t.finish j disp reason late) := (h.post _ .cpl _).release j

theorem abortJob (h : s.Posts t) (k : U64) (disp : Nat) : s.Posts (t.abortJob k disp) := by
  unfold State.abortJob State.withJob
  split
  · exact h.finish _ _ _ _
  · exact h

theorem abortAll (h : s.Posts t) (disp : Nat) (l : List U64) : s.Posts (t.abortAll disp l) := by
  induction l generalizing t with
  | nil => exact h
  | cons k l ih => exact ih (h.abortJob k disp)

end State.Posts

/-! ### Jobs after the end of some -/

/-- The end of a job takes the jobs of its JOB_ID away and no other. -/
theorem State.release_jobs (s : State) (j : Job) : (s.release j).jobs = s.jobs.filter fun k => k.jid != j.jid := by
  have h : (s.emptied j).jobs = s.jobs := s.emptied_keeps j ((frees_jobs (· = s.jobs)).sub rfl) rfl
  rw [State.release_eq, State.updCtx, State.setCtx_jobs, h]

theorem State.finish_jobs (s : State) (j : Job) (disp reason late : Nat) :
    (s.finish j disp reason late).jobs = s.jobs.filter fun k => k.jid != j.jid := by
  rw [State.finish, State.release_jobs, State.postCpl_keeps ((frees_jobs (· = s.jobs)).sub rfl) s _ _ rfl]

/-- The jobs left after aborts: none live of an aborted JOB_ID, every other one. -/
theorem State.abortAll_jobs (s : State) (disp : Nat) (l : List U64) {j : Job} :
    (j ∈ (s.abortAll disp l).jobs → j ∈ s.jobs ∧ (j.live = true → j.jid ∉ l)) ∧ (j ∈ s.jobs → j.jid ∉ l → j ∈ (s.abortAll disp l).jobs) := by
  induction l generalizing s with
  | nil => exact ⟨fun h => ⟨h, fun _ => List.not_mem_nil⟩, fun h _ => h⟩
  | cons k l ih =>
    have hone : (j ∈ (s.abortJob k disp).jobs → j ∈ s.jobs ∧ (j.live = true → j.jid ≠ k)) ∧ (j ∈ s.jobs → j.jid ≠ k → j ∈ (s.abortJob k disp).jobs) := by
      rw [State.abortJob]
      cases hjob : s.job? k with
      | none =>
        rw [State.withJob, hjob]
        refine ⟨fun h => ⟨h, fun hl e => ?_⟩, fun h _ => h⟩
        have hnone := List.find?_eq_none.mp hjob j h
        rw [e, beq_self_eq_true, Bool.true_and] at hnone
        exact hnone hl
      | some i =>
        obtain ⟨-, rfl, -⟩ := s.job?_some k i hjob
        rw [s.withJob_some _ _ i hjob, State.finish_jobs, List.mem_filter, bne_iff_ne]
        exact ⟨fun h => ⟨h.1, fun _ => h.2⟩, fun h hk => ⟨h, hk⟩⟩
    obtain ⟨hback, hstay⟩ := ih (s.abortJob k disp)
    refine ⟨fun h => ?_, fun h hk => ?_⟩
    · obtain ⟨hmem, hnot⟩ := hback h
      obtain ⟨hs, hk⟩ := hone.1 hmem
      exact ⟨hs, fun hl => List.not_mem_cons_of_ne_of_not_mem (hk hl) (hnot hl)⟩
    · exact hstay (hone.2 h (List.ne_of_not_mem_cons hk)) (List.not_mem_of_not_mem_cons hk)

theorem State.mem_ctxJobs {s : State} {n : Nat} {k : U64} : k ∈ s.ctxJobs n ↔ ∃ j ∈ s.jobs, j.live = true ∧ j.ctx.val = n ∧ j.jid = k := by
  simp [State.ctxJobs, and_assoc]

/-- No live job of a context is left once all of them are aborted. -/
theorem State.abortCtx_no_live (s : State) (disp n : Nat) {j : Job} (h : j ∈ (s.abortAll disp (s.ctxJobs n)).jobs) (hl : j.live = true) :
    j.ctx.val ≠ n := by
  obtain ⟨hs, hnot⟩ := (s.abortAll_jobs disp _).1 h
  exact fun e => hnot hl (State.mem_ctxJobs.mpr ⟨j, hs, hl, e, rfl⟩)

end Sys2Proof.Machine
end

section
/-! PROOF. Doorbells, descriptor fetch, contexts and host ports (R406, R407, R410, R412, R413); O43 and O44. -/

namespace Sys2Proof.Machine

/-! ### Doorbells (R412) -/

/-- A poll asks for the context's line: it is served, on a port trained as PCIe. -/
def State.asksLine (s : State) (n : Nat) : Bool := s.served n && !(s.hpAt (n / 16)).cxl

/-- What DOORBELL_POLL does for one context. -/
def State.pollOne (s : State) (n : Nat) : State := if s.asksLine n then s.readDoorbell n else s

theorem exec_doorbellPoll {s : State} (hon : s.pwr.on = true) :
    exec .doorbellPoll s = .next (if s.time.phase ≠ 0 then s else (List.range 32).foldl State.pollOne s) := congrArg Host.Outcome.next (if_pos hon)

section
variable (s : State) (m n : Nat)

theorem State.readDoorbell_ctxAt : (s.readDoorbell m).ctxAt n = { s.ctxAt n with dbWatch := (s.ctxAt n).dbWatch || decide (n = m) } := by
  have hcnt (c k : Nat) (t : State) : (t.cntAdd c k).ctxAt n = t.ctxAt n := rfl
  rw [State.readDoorbell, hcnt, State.updCtx]
  by_cases h : n = m
  · rw [h, State.ctxAt_setCtx, decide_eq_true rfl, Bool.or_true]
  · rw [State.ctxAt_setCtx_other _ _ _ _ h, decide_eq_false h, Bool.or_false]

theorem State.readDoorbell_asksLine : (s.readDoorbell m).asksLine n = s.asksLine n := by
  rw [State.asksLine, State.served, State.readDoorbell_ctxAt]
  rfl

theorem State.pollOne_ctxAt :
    (s.pollOne m).ctxAt n = { s.ctxAt n with dbWatch := (s.ctxAt n).dbWatch || (decide (n = m) && s.asksLine n) } := by
  rw [State.pollOne]
  by_cases h : n = m
  · subst h
    cases hask : s.asksLine n with
    | false => simp
    | true => simp [State.readDoorbell_ctxAt]
  · split <;> simp [State.readDoorbell_ctxAt, h]

theorem State.pollOne_asksLine : (s.pollOne m).asksLine n = s.asksLine n := by
  rw [State.pollOne]
  split
  · exact s.readDoorbell_asksLine m n
  · rfl

theorem State.pollAll_ctxAt (l : List Nat) :
    (l.foldl State.pollOne s).ctxAt n = { s.ctxAt n with dbWatch := (s.ctxAt n).dbWatch || (decide (n ∈ l) && s.asksLine n) } := by
  induction l generalizing s with
  | nil => simp
  | cons m l ih =>
    rw [List.foldl_cons, ih, State.pollOne_ctxAt, State.pollOne_asksLine]
    by_cases h : n = m <;> cases hask : s.asksLine n <;> simp [h]

end

theorem State.pollAll_keeps {P : State → Prop} (hw : Frees P 0x500000000) (l : List Nat) (s : State) (hs : P s) : P (l.foldl State.pollOne s) := by
  refine Keep.foldl (fun t n ht => ?_) hs
  unfold State.pollOne
  split
  · exact State.readDoorbell_keeps (hw.sub rfl) t n ht
  · exact ht

section
variable {s : State} (hon : s.pwr.on = true)
include hon

theorem doorbellPoll_watches (h : s.time.phase = 0) : ∃ t, exec .doorbellPoll s = .next t ∧ t.mem = s.mem ∧ t.host = s.host ∧ ∀ n, n < 32 →
    t.ctxAt n = { s.ctxAt n with dbWatch := (s.ctxAt n).dbWatch || (s.served n && !(s.hpAt (n / 16)).cxl) } := by
  refine ⟨(List.range 32).foldl State.pollOne s, ?_, State.pollAll_keeps ((frees_mem (· = s.mem)).sub rfl) _ s rfl,
    State.pollAll_keeps ((frees_host (· = s.host)).sub rfl) _ s rfl, fun n hn => ?_⟩
  · rw [exec_doorbellPoll hon, if_neg (by simp [h])]
  · rw [State.pollAll_ctxAt, decide_eq_true (List.mem_range.mpr hn), Bool.true_and, State.asksLine]

theorem exec_doorbellInvalidate (n : Fin 32) : exec (.doorbellInvalidate n) s =
    .next (if s.served n.val && (s.hpAt (n.val / 16)).cxl then s.readDoorbell n.val else s) := congrArg Host.Outcome.next (if_pos hon)

theorem doorbellInvalidate_watches (n : Fin 32) (hserved : s.served n.val = true) (hcxl : (s.hpAt (n.val / 16)).cxl = true) :
    ∃ t, exec (.doorbellInvalidate n) s = .next t ∧ t.ctxAt n.val = { s.ctxAt n.val with dbWatch := true } ∧ t.jobs = s.jobs := by
  refine ⟨s.readDoorbell n.val, ?_, ?_, rfl⟩
  · rw [exec_doorbellInvalidate hon, hserved, hcxl]; rfl
  · rw [State.readDoorbell_ctxAt, decide_eq_true rfl, Bool.or_true]

theorem exec_doorbellInvalidate_not (n : Fin 32) (h : s.served n.val = false ∨ (s.hpAt (n.val / 16)).cxl = false) :
    exec (.doorbellInvalidate n) s = .next s := by
  rw [exec_doorbellInvalidate hon, if_neg]
  cases h with
  | inl h => simp [h]
  | inr h => simp [h]

variable (n : Fin 32) (l : BitVec 512)

theorem exec_doorbellLine_unasked (h : s.served n.val = false ∨ (s.ctxAt n.val).dbWatch = false) : exec (.doorbellLine n l) s = .next s := by
  refine congrArg Host.Outcome.next ((if_pos hon).trans (if_pos ?_))
  cases h with
  | inl h => simp [h]
  | inr h => simp [h]

section
variable (hserved : s.served n.val = true) (hwatch : (s.ctxAt n.val).dbWatch = true)
include hserved hwatch

/-- A line that was asked for: its bytes are counted, then it is torn, taken or refused. -/
theorem exec_doorbellLine : exec (.doorbellLine n l) s = .next (
    let s1 := s.cntAdd (cntHost (n.val / 16) 0) 64
    if bits l 480 32 ≠ bits l 0 32 then s1
    else if (s.ctxAt n.val).lineOk l then (s1.setCtx n.val ((s.ctxAt n.val).takeLine l)).flushCtx n.val
    else s1.setCtx n.val { s.ctxAt n.val with dbErr := true, dbWatch := false, statusDirty := true }) :=
  congrArg Host.Outcome.next ((if_pos hon).trans (if_neg (by simp [hserved, hwatch])))

theorem exec_doorbellLine_torn (h : bits l 480 32 ≠ bits l 0 32) :
    exec (.doorbellLine n l) s = .next (s.cntAdd (cntHost (n.val / 16) 0) 64) := by
  rw [exec_doorbellLine hon n l hserved hwatch]
  exact congrArg _ (if_pos h)

theorem exec_doorbellLine_refused (h : bits l 480 32 = bits l 0 32) (hok : (s.ctxAt n.val).lineOk l = false) :
    ∃ t, exec (.doorbellLine n l) s = .next t ∧
      t.ctxAt n.val = { s.ctxAt n.val with dbErr := true, dbWatch := false, statusDirty := true } ∧ t.host = s.host := by
  refine ⟨(s.cntAdd (cntHost (n.val / 16) 0) 64).setCtx n.val { s.ctxAt n.val with dbErr := true, dbWatch := false, statusDirty := true }, ?_,
    State.ctxAt_setCtx _ _ _, rfl⟩
  rw [exec_doorbellLine hon n l hserved hwatch]
  simp [h, hok]

/-- An accepted line: records that waited for room may follow it, which touch no index of software. -/
theorem exec_doorbellLine_taken (h : bits l 480 32 = bits l 0 32) (hok : (s.ctxAt n.val).lineOk l = true) : ∃ t, exec (.doorbellLine n l) s = .next t ∧
    (t.ctxAt n.val).sub = { (s.ctxAt n.val).sub with head := bits l 32 32 } ∧ (t.ctxAt n.val).cpl.head = bits l 64 32 ∧
    (t.ctxAt n.val).evt.head = bits l 96 32 ∧ (t.ctxAt n.val).flt.head = bits l 128 32 ∧ (t.ctxAt n.val).dbErr = false ∧
    (t.ctxAt n.val).lastSeq = some (bits l 0 32) ∧ t.jobs = s.jobs ∧ t.mem = s.mem := by
  let u := (s.cntAdd (cntHost (n.val / 16) 0) 64).setCtx n.val ((s.ctxAt n.val).takeLine l)
  have hu : u.ctxAt n.val = (s.ctxAt n.val).takeLine l := State.ctxAt_setCtx _ _ _
  have hposts : u.Posts (u.flushCtx n.val) := State.Posts.refl.flushCtx n.val
  have part {α : Type} (g : CtxSt → α) (hg : ∀ c : CtxSt, g c.settled = g c) :
      g ((u.flushCtx n.val).ctxAt n.val) = g ((s.ctxAt n.val).takeLine l) := (hposts.part g hg n.val).trans (congrArg g hu)
  refine ⟨u.flushCtx n.val, ?_, part (·.sub) fun _ => rfl, part (·.cpl.head) fun _ => rfl, part (·.evt.head) fun _ => rfl,
    part (·.flt.head) fun _ => rfl, part (·.dbErr) fun _ => rfl, part (·.lastSeq) fun _ => rfl,
    State.flushCtx_keeps ((frees_jobs (· = s.jobs)).sub rfl) u _ rfl, State.flushCtx_keeps ((frees_mem (· = s.mem)).sub rfl) u _ rfl⟩
  rw [exec_doorbellLine hon n l hserved hwatch]
  simp only [ne_eq, h, not_true_eq_false, if_false, hok, if_true]
  rfl

end

/-! ### Descriptor fetch (R413) -/

theorem exec_descriptorFetch_unserved (ds : List Fetched) (h : s.served n.val = false) : exec (.descriptorFetch n ds) s = .next s :=
  congrArg Host.Outcome.next ((if_pos hon).trans (if_pos (by simp [h])))

theorem descriptorFetch_takes (ds : List Fetched) (h : s.served n.val = true) : let c := s.ctxAt n.val
    ∃ t k, exec (.descriptorFetch n ds) s = .next t ∧
      k = min (min ds.length ((c.sub.head + 2 ^ 32 - c.sub.tail) % 2 ^ 32)) (min (16 - c.fetchedBeat) (64 - (s.hpAt (n.val / 16)).fetched)) ∧
      (t.ctxAt n.val).sub = { c.sub with tail := (c.sub.tail + k) % 2 ^ 32 } ∧ (t.ctxAt n.val).fetchedBeat = c.fetchedBeat + k ∧
      (t.hpAt (n.val / 16)).fetched = (s.hpAt (n.val / 16)).fetched + k ∧
      (s.time.phase ≤ 1800 → (t.ctxAt n.val).cands = c.cands ++ (ds.take k).map fun f => (f, s.time.beat + 1)) ∧
      (1800 < s.time.phase → (t.ctxAt n.val).cands = c.cands ++ (ds.take k).map fun f => (f, s.time.beat + 2)) ∧ t.jobs = s.jobs ∧ t.mem = s.mem := by
  intro c
  refine ⟨_, _, congrArg Host.Outcome.next ((if_pos hon).trans (if_neg (by simp [h]))), rfl, ?_, ?_, ?_, fun hph => ?_, fun hph => ?_, rfl, rfl⟩
  · exact congrArg CtxSt.sub (State.ctxAt_setCtx s n.val _)
  · exact congrArg CtxSt.fetchedBeat (State.ctxAt_setCtx s n.val _)
  · exact congrArg HostPort.fetched (State.hpAt_setHp _ (n.val / 16) _)
  · refine (congrArg CtxSt.cands (State.ctxAt_setCtx s n.val _)).trans ?_
    simp only [hph, if_true]
    rfl
  · refine (congrArg CtxSt.cands (State.ctxAt_setCtx s n.val _)).trans ?_
    simp only [Nat.not_le.mpr hph, if_false]
    rfl

end

end Sys2Proof.Machine

namespace Sys2Proof
open Machine

/-- Settles O43: the poll context by context, and a line by what it holds. -/
theorem doorbellsAndFetch : Obligations.doorbells_and_fetch := by
  refine ⟨fun s hon => ⟨fun h => ?_, doorbellPoll_watches hon, fun n => ⟨doorbellInvalidate_watches hon n, exec_doorbellInvalidate_not hon n⟩,
    fun n l => ?_⟩, fun n ds s hon => ⟨exec_descriptorFetch_unserved hon n ds, descriptorFetch_takes hon n ds⟩⟩
  · rw [exec_doorbellPoll hon, if_pos h]
  · exact ⟨exec_doorbellLine_unasked hon n l, exec_doorbellLine_torn hon n l, exec_doorbellLine_taken hon n l, exec_doorbellLine_refused hon n l⟩

end Sys2Proof
end

section
/-! PROOF. Contexts enabled and disabled, host ports that go down and come up, control (R406, R407, R410); O44. -/

namespace Sys2Proof.Machine

/-! ### Contexts (R410) -/

section
variable {s : State} {n : Nat}

theorem State.enableCtx_refused (h : (s.ctxAt n).en = true ∨ ((s.ctxAt n).sub.sizeOk && (s.ctxAt n).cpl.sizeOk && (s.ctxAt n).evt.sizeOk &&
    (s.ctxAt n).flt.sizeOk) = false) : s.enableCtx n = s := by
  unfold State.enableCtx
  refine if_pos ?_
  cases h with
  | inl h => rw [h, Bool.true_or]
  | inr h => rw [h]; exact Bool.or_true _

/-- A context whose ring sizes are valid is enabled, its rings at index 0. -/
theorem State.enableCtx_enables (hen : (s.ctxAt n).en = false) (hsize : ((s.ctxAt n).sub.sizeOk && (s.ctxAt n).cpl.sizeOk && (s.ctxAt n).evt.sizeOk &&
    (s.ctxAt n).flt.sizeOk) = true) : s.enableCtx n = s.setCtx n { s.ctxAt n with
      en := true, sub := (s.ctxAt n).sub.restart, cpl := (s.ctxAt n).cpl.restart, evt := (s.ctxAt n).evt.restart, flt := (s.ctxAt n).flt.restart,
      lastSeq := none, dbErr := false, dbWatch := (s.hpAt (n / 16)).cxl, cands := [], statusDirty := true } := by
  unfold State.enableCtx
  exact if_neg (by rw [hen, hsize]; decide)

end

section
variable {s : State} {f : Func} (hon : s.pwr.on = true) (hbar : s.barOpen = true) (hdie : s.dieAnswers (30 + f.port.val) = true)
include hon hbar hdie

theorem exec_contextEnable : exec (.contextEnable f) s = .next (s.enableCtx f.ctx) := by
  rw [exec, execContextEnable, s.byBar_open _ _ hon hbar hdie]

theorem exec_contextDisable : exec (.contextDisable f) s = .next (s.disableCtx f.ctx) := by
  rw [exec, execContextDisable, s.byBar_open _ _ hon hbar hdie]

theorem contextEnable_enables (hen : (s.ctxAt f.ctx).en = false) (hsize : ((s.ctxAt f.ctx).sub.sizeOk && (s.ctxAt f.ctx).cpl.sizeOk &&
    (s.ctxAt f.ctx).evt.sizeOk && (s.ctxAt f.ctx).flt.sizeOk) = true) : ∃ t, exec (.contextEnable f) s = .next t ∧
      (t.ctxAt f.ctx).en = true ∧ (t.ctxAt f.ctx).sub.tail = 0 ∧ (t.ctxAt f.ctx).sub.head = 0 ∧ (t.ctxAt f.ctx).cpl.tail = 0 ∧
      (t.ctxAt f.ctx).evt.tail = 0 ∧ (t.ctxAt f.ctx).flt.tail = 0 ∧ (∀ n, n ≠ f.ctx → t.ctxAt n = s.ctxAt n) ∧ t.jobs = s.jobs := by
  refine ⟨_, (exec_contextEnable hon hbar hdie).trans (congrArg _ (State.enableCtx_enables hen hsize)), ?_⟩
  rw [State.ctxAt_setCtx]
  exact ⟨rfl, rfl, rfl, rfl, rfl, rfl, fun n hn => State.ctxAt_setCtx_other _ _ _ _ hn, rfl⟩

/-- EN = 0 aborts the context's live jobs and no job of another JOB_ID. -/
theorem contextDisable_ends (hen : (s.ctxAt f.ctx).en = true) : ∃ t, exec (.contextDisable f) s = .next t ∧ (t.ctxAt f.ctx).en = false ∧
    (∀ j ∈ t.jobs, j.live = true → j.ctx.val ≠ f.ctx) ∧
    (∀ j ∈ s.jobs, (∀ k ∈ s.jobs, k.jid = j.jid → k.ctx.val ≠ f.ctx) → j ∈ t.jobs) ∧ t.mem = s.mem := by
  have hdo : s.disableCtx f.ctx = (s.abortAll 0xC (s.ctxJobs f.ctx)).updCtx f.ctx fun c => { c with en := false, cands := [], dbWatch := false } := by
    unfold State.disableCtx
    exact if_neg (by rw [hen]; decide)
  refine ⟨_, (exec_contextDisable hon hbar hdie).trans (congrArg _ hdo), ?_, fun j hj hl => s.abortCtx_no_live _ _ hj hl, fun j hj hother => ?_, ?_⟩
  · rw [State.ctxAt_updCtx]
  · refine (s.abortAll_jobs _ _).2 hj fun hk => ?_
    obtain ⟨k, hmem, -, hctx, hjid⟩ := State.mem_ctxJobs.mp hk
    exact hother k hmem hjid hctx
  · exact State.abortAll_keeps ((frees_mem (· = s.mem)).sub rfl) s _ _ rfl

theorem exec_contextDisable_not (hen : (s.ctxAt f.ctx).en = false) : exec (.contextDisable f) s = .next s := by
  rw [exec_contextDisable hon hbar hdie, State.disableCtx, hen]
  rfl

end

/-! ### Control (R406, R407) -/

section
variable {s : State} (hon : s.pwr.on = true) (f : Func) (p : Fin 2) (hbar : s.barOpen = true) (hdie : s.dieAnswers (30 + p.val) = true)
include hon hbar hdie

theorem exec_handover : exec (.handover f p) s =
    .next ((s.exchange (30 + f.port.val) (30 + p.val)).privileged f fun s => s.askHandover f p.val) := by
  rw [exec, execHandover, s.byBarOf_open f _ _ hon hbar hdie]

theorem exec_handover_denied (hc : s.isControl f = false) :
    exec (.handover f p) s = .next ((s.exchange (30 + f.port.val) (30 + p.val)).deny f) := by
  rw [exec_handover hon f p hbar hdie, State.privileged_denied (s.exchange _ _) _ _ hc]

theorem exec_handover_asked (hc : s.isControl f = true) (hport : f.port = p) (hup : (s.hpAt (1 - p.val)).link = 2) :
    exec (.handover f p) s = .next ((s.exchange (30 + f.port.val) (30 + p.val)).setHp p.val { s.hpAt p.val with handover := true }) := by
  rw [exec_handover hon f p hbar hdie, State.privileged_control (s.exchange _ _) _ _ hc]
  refine congrArg _ (if_pos ?_)
  rw [hport, beq_self_eq_true, Bool.true_and]
  exact beq_iff_eq.mpr hup

theorem exec_handover_held (hc : s.isControl f = true) (h : f.port ≠ p ∨ (s.hpAt (1 - p.val)).link ≠ 2) :
    exec (.handover f p) s = .next (s.exchange (30 + f.port.val) (30 + p.val)) := by
  rw [exec_handover hon f p hbar hdie, State.privileged_control (s.exchange _ _) _ _ hc]
  refine congrArg _ (if_neg ?_)
  rw [Bool.and_eq_true, beq_iff_eq, beq_iff_eq]
  rintro ⟨hport, hup⟩
  cases h with
  | inl h => exact h (Fin.ext hport)
  | inr h => exact h hup

end

/-- Control moves to one port, away from the other. -/
theorem State.moveControl_control (s : State) {p : Nat} (hp : p < 2) (cause : Nat) :
    ((s.moveControl (1 - p) cause).hpAt p).control = false ∧ ((s.moveControl (1 - p) cause).hpAt (1 - p)).control = true := by
  let s1 := (s.updHp (1 - p) fun h => { h with control := true, handover := false }).updHp (1 - (1 - p)) fun h => { h with control := false, handover := false }
  have hhp : (s.moveControl (1 - p) cause).hp = s1.hp :=
    State.event_keeps ((frees_hp (· = s1.hp)).sub rfl) _ _ _ _ _ (State.event_keeps ((frees_hp (· = s1.hp)).sub rfl) s1 _ _ _ _ rfl)
  have hback : 1 - (1 - p) = p := by omega
  rw [State.hpAt_congr hhp, State.hpAt_congr hhp]
  refine ⟨?_, ?_⟩
  · change ((State.setHp _ (1 - (1 - p)) _).hpAt p).control = false
    rw [hback, State.hpAt_setHp]
  · change ((State.setHp _ (1 - (1 - p)) _).hpAt (1 - p)).control = true
    rw [State.hpAt_setHp_other _ _ _ _ (by omega), State.updHp, State.hpAt_setHp]

/-! ### A port down for 1,000 beats (R406, R410) -/

/-- A port that has control and another that is UP to take it. -/
def State.leavePort (s : State) (p : Nat) : State :=
  if (s.hpAt p).control && (s.hpAt (1 - p)).link == 2 then s.moveControl (1 - p) 1 else s

theorem State.leavePort_keeps {P : State → Prop} (hw : Frees P 0x700000004) (s : State) (p : Nat) (hs : P s) : P (s.leavePort p) := by
  unfold State.leavePort
  split
  · exact State.moveControl_keeps (hw.sub rfl) s _ _ hs
  · exact hs

theorem State.leavePort_control {s : State} {p : Nat} (hp : p < 2) (hctl : (s.hpAt p).control = true) (hup : (s.hpAt (1 - p)).link = 2) :
    ((s.leavePort p).hpAt p).control = false ∧ ((s.leavePort p).hpAt (1 - p)).control = true := by
  rw [State.leavePort, if_pos (by rw [hctl, hup]; rfl)]
  exact s.moveControl_control hp 1

theorem State.leavePort_not {s : State} {p : Nat} (hctl : (s.hpAt p).control = false) : s.leavePort p = s := by
  rw [State.leavePort, hctl]
  rfl

/-- Every live job of a port's contexts ends. -/
def State.abortPort (s : State) (p : Nat) (l : List Nat) : State := l.foldl (fun s f => s.abortAll 0xC (s.ctxJobs (16 * p + f))) s

theorem State.abortPort_keeps {P : State → Prop} (hw : Frees P 0x5807dfff4) (s : State) (p : Nat) (l : List Nat) (hs : P s) : P (s.abortPort p l) :=
  Keep.foldl (fun t _ ht => State.abortAll_keeps hw t _ _ ht) hs

theorem State.abortPort_jobs (s : State) (p : Nat) (l : List Nat) {j : Job} (h : j ∈ (s.abortPort p l).jobs) :
    j ∈ s.jobs ∧ (j.live = true → ∀ f ∈ l, j.ctx.val ≠ 16 * p + f) := by
  induction l generalizing s with
  | nil => exact ⟨h, fun _ _ hf => absurd hf List.not_mem_nil⟩
  | cons f l ih =>
    obtain ⟨hmid, hrest⟩ := ih (s.abortAll 0xC (s.ctxJobs (16 * p + f))) h
    refine ⟨((s.abortAll_jobs _ _).1 hmid).1, fun hl g hg => ?_⟩
    cases List.mem_cons.mp hg with
    | inl e => exact e ▸ s.abortCtx_no_live _ _ hmid hl
    | inr hg => exact hrest hl g hg

/-- None of the sixteen contexts has a live job left. -/
theorem State.abortPort_all (s : State) (p : Nat) {j : Job} (h : j ∈ (s.abortPort p (List.range 16)).jobs) (hl : j.live = true) :
    j.ctx.val / 16 ≠ p := by
  intro e
  refine (s.abortPort_jobs p _ h).2 hl (j.ctx.val % 16) (List.mem_range.mpr (Nat.mod_lt _ (by decide))) ?_
  rw [← e, Nat.div_add_mod]

section
variable {s : State} (hon : s.pwr.on = true) (p : Fin 2)
include hon

theorem exec_portLinkTimeout_not (h : (s.hpAt p.val).link = 2 ∨ (s.hpAt p.val).downBeats < 1000 ∨ s.time.phase ≠ 0) :
    exec (.portLinkTimeout p) s = .next s := by
  refine congrArg Host.Outcome.next ((if_pos hon).trans (if_pos ?_))
  obtain h | h | h := h <;> simp [h]

theorem exec_portLinkTimeout (hlink : (s.hpAt p.val).link ≠ 2) (hdown : 1000 ≤ (s.hpAt p.val).downBeats) (hph : s.time.phase = 0) :
    exec (.portLinkTimeout p) s = .next ((s.abortPort p.val (List.range 16)).leavePort p.val) := by
  refine congrArg Host.Outcome.next ((if_pos hon).trans (if_neg ?_))
  simpa [hph, Nat.not_lt.mpr hdown] using hlink

theorem portLinkTimeout_ends (hlink : (s.hpAt p.val).link ≠ 2) (hdown : 1000 ≤ (s.hpAt p.val).downBeats) (hph : s.time.phase = 0) :
    ∃ t, exec (.portLinkTimeout p) s = .next t ∧ (∀ j ∈ t.jobs, j.live = true → j.ctx.val / 16 ≠ p.val) ∧ t.mem = s.mem ∧
      ((s.hpAt p.val).control = true → (s.hpAt (1 - p.val)).link = 2 → (t.hpAt p.val).control = false ∧ (t.hpAt (1 - p.val)).control = true) ∧
      ((s.hpAt p.val).control = false → t.hp = s.hp) := by
  have hmem : (s.abortPort p.val (List.range 16)).mem = s.mem := State.abortPort_keeps ((frees_mem (· = s.mem)).sub rfl) s _ _ rfl
  have hhp : (s.abortPort p.val (List.range 16)).hp = s.hp := State.abortPort_keeps ((frees_hp (· = s.hp)).sub rfl) s _ _ rfl
  refine ⟨_, exec_portLinkTimeout hon p hlink hdown hph, fun j hj hl => s.abortPort_all p.val ?_ hl, ?_, fun hctl hup => ?_, fun hctl => ?_⟩
  · rwa [State.leavePort_keeps ((frees_jobs (· = (s.abortPort p.val (List.range 16)).jobs)).sub rfl) _ _ rfl] at hj
  · exact State.leavePort_keeps ((frees_mem (· = s.mem)).sub rfl) _ _ hmem
  · exact State.leavePort_control p.isLt (by rwa [State.hpAt_congr hhp]) (by rwa [State.hpAt_congr hhp])
  · rw [State.leavePort_not (by rwa [State.hpAt_congr hhp]), hhp]

/-! ### Links that go down and come up -/

theorem exec_hostLinkDown_down (h : (s.hpAt p.val).link ≠ 2) : exec (.hostLinkDown p) s = .next s :=
  congrArg Host.Outcome.next ((if_pos hon).trans (if_pos h))

theorem exec_hostLinkUp_up (cxl full : Bool) (h : (s.hpAt p.val).link = 2) : exec (.hostLinkUp p cxl full) s = .next s :=
  congrArg Host.Outcome.next ((if_pos hon).trans (if_pos (beq_iff_eq.mpr h)))

omit hon in
/-- A command that writes a port's entry first and no port, job or byte of memory after it. -/
theorem hostLink_effect {c : Instr} {h : HostPort} {g : State → State} (hc : exec c s = .next (g (s.setHp p.val h)))
    (hg : ∀ (P : State → Prop), Frees P 0x20500000004 → ∀ t, P t → P (g t)) : ∃ t, exec c s = .next t ∧ t.hpAt p.val = h ∧ t.jobs = s.jobs ∧ t.mem = s.mem := by
  refine ⟨_, hc, ?_, hg _ ((frees_jobs (· = s.jobs)).sub rfl) _ rfl, hg _ ((frees_mem (· = s.mem)).sub rfl) _ rfl⟩
  exact hg (fun t => t.hpAt p.val = h) ((frees_hp fun l => tabGet (.resetAt p.val) l p.val = h).sub rfl) _ (State.hpAt_setHp _ _ _)

theorem hostLinkDown_loses (h : (s.hpAt p.val).link = 2) : ∃ t, exec (.hostLinkDown p) s = .next t ∧
    t.hpAt p.val = { s.hpAt p.val with link := 0, full := false, downBeats := 0 } ∧ t.jobs = s.jobs ∧ t.mem = s.mem := by
  refine hostLink_effect p (g := fun s1 =>
    (((List.range 16).foldl (fun s f => s.updCtx (16 * p.val + f) fun c => { c with dbWatch := false }) s1).linkDownEvent 2 p.val
      (bits (Config.freeWord s.fresh) 0 8) fun j => j.ctx.val / 16 == p.val).tickFresh 1) ?_ fun P hw t ht => ?_
  · exact congrArg Host.Outcome.next ((if_pos hon).trans (if_neg (not_not.mpr h)))
  · exact State.tickFresh_keeps (hw.sub rfl) _ _ (State.linkDownEvent_keeps (hw.sub rfl) _ _ _ _ _
      (Keep.foldl (fun u f hu => State.updCtx_keeps (hw.sub rfl) u _ _ hu) ht))

theorem hostLinkUp_trains (cxl full : Bool) (h : (s.hpAt p.val).link ≠ 2) : ∃ t, exec (.hostLinkUp p cxl full) s = .next t ∧
    t.hpAt p.val = { s.hpAt p.val with link := 2, cxl := cxl, full := full, downBeats := 0 } ∧ t.jobs = s.jobs ∧ t.mem = s.mem := by
  refine hostLink_effect p (g := fun s1 => (List.range 16).foldl (fun s f =>
    (s.flushCtx (16 * p.val + f)).updCtx (16 * p.val + f) fun c => { c with dbWatch := cxl && c.en }) s1) ?_ fun P hw t ht => ?_
  · exact congrArg Host.Outcome.next ((if_pos hon).trans (if_neg (by simpa using h)))
  · exact Keep.foldl (fun u f hu => State.updCtx_keeps (hw.sub rfl) _ _ _ (State.flushCtx_keeps (hw.sub rfl) u _ hu)) ht

end

end Sys2Proof.Machine

namespace Sys2Proof
open Machine

/-- Settles O44: contexts by EN, control by the port it is asked at, a port by its link. -/
theorem contextsAndLinks : Obligations.contexts_and_links := by
  refine fun s hon => ⟨fun f hbar hdie => ⟨fun h => ?_, contextEnable_enables hon hbar hdie, contextDisable_ends hon hbar hdie,
    exec_contextDisable_not hon hbar hdie⟩, fun f p hbar hdie => ⟨exec_handover_denied hon f p hbar hdie, exec_handover_asked hon f p hbar hdie,
    exec_handover_held hon f p hbar hdie⟩, fun p => ⟨exec_portLinkTimeout_not hon p, portLinkTimeout_ends hon p, exec_hostLinkDown_down hon p,
    exec_hostLinkUp_up hon p, fun h => ?_, fun cxl full h => ?_⟩⟩
  · rw [exec_contextEnable hon hbar hdie, State.enableCtx_refused h]
  · obtain ⟨t, ht, hhp, hjobs, hmem⟩ := hostLinkDown_loses hon p h
    exact ⟨t, ht, hhp ▸ rfl, hhp ▸ rfl, hhp ▸ rfl, hjobs, hmem⟩
  · obtain ⟨t, ht, hhp, hjobs, hmem⟩ := hostLinkUp_trains hon p cxl full h
    exact ⟨t, ht, hhp ▸ rfl, hhp ▸ rfl, hhp ▸ rfl, hhp ▸ rfl, hhp ▸ rfl, hjobs, hmem⟩

end Sys2Proof
end

section
/-! PROOF. Jobs park, end late with their reservation, and end with their work (R421, R423, R431); O48. -/

namespace Sys2Proof.Machine

/-! ### Nothing of a job stays (R423) -/

/-- Nothing of a job stays on the module, memory and the jobs of other JOB_IDs do. -/
def State.Gone (s t : State) (j : Job) : Prop :=
  t.job? j.jid = none ∧ (∀ x, (t.unit x).job ≠ some j.jid) ∧ (∀ m ∈ t.marks, m.jid ≠ j.jid) ∧ (∀ m ∈ t.recfgs, m.jid ≠ j.jid) ∧
    (∀ m ∈ t.faults, m.jid ≠ j.jid) ∧ (∀ m ∈ t.saves, m.jid ≠ j.jid) ∧ (∀ q ∈ binQueues j.bin, t.queue q = .reset) ∧
    (∀ d ∈ j.bin.syncs, (t.sync d.sid.toNat).armed = false) ∧ t.mem = s.mem ∧ (∀ k ∈ s.jobs, k.jid ≠ j.jid → k ∈ t.jobs)

section
variable (s : State) (j : Job)

theorem State.clearQueues_reset {qs : List Nat} {q : Nat} (h : s.queue q = .reset ∨ q ∈ qs) : (s.clearQueues qs).queue q = .reset := by
  induction qs generalizing s with
  | nil => exact h.resolve_right List.not_mem_nil
  | cons k qs ih =>
    refine ih _ ?_
    rw [State.queue_setQueue]
    by_cases hq : q = k
    · exact .inl (if_pos hq)
    · rw [if_neg hq]
      exact h.imp id fun hmem => (List.mem_cons.mp hmem).resolve_left hq

theorem State.emptied_unit (x : Nat) : ((s.emptied j).unit x).job ≠ some j.jid := by
  have hunits : (s.dropRecfgs j.jid).units = s.units := State.dropRecfgs_keeps ((frees_units (· = s.units)).sub rfl) s _ rfl
  have frees := frees_unit x (·.job ≠ some j.jid)
  refine State.freeOwners_keeps (frees.sub rfl) _ j (State.stopTrace_keeps (frees.sub rfl) _ _ (State.disarm_keeps (frees.sub rfl) _ _
    (State.clearQueues_keeps (frees.sub rfl) _ _ ?_)))
  rw [State.clearUnits_job, State.unit_congr hunits]
  split
  · exact nofun
  · next h => exact fun hjob => h (State.mem_unitsOf hjob)

theorem State.emptied_queue {q : Nat} (h : q ∈ binQueues j.bin) : (s.emptied j).queue q = .reset := by
  have frees := frees_queues (tabGet QueueSt.reset · q = .reset)
  exact State.freeOwners_keeps (frees.sub rfl) _ j (State.stopTrace_keeps (frees.sub rfl) _ _ (State.disarm_keeps (frees.sub rfl) _ _
    (State.clearQueues_reset _ (.inr (List.mem_append_left _ h)))))

theorem State.emptied_sync {d : SyncDecl} (h : d ∈ j.bin.syncs) : ((s.emptied j).sync d.sid.toNat).armed = false := by
  have frees := frees_syncs fun l => (tabGet SyncObj.reset l d.sid.toNat).armed = false
  exact State.freeOwners_keeps (frees.sub rfl) _ j (State.stopTrace_keeps (frees.sub rfl) _ _ (State.disarm_unarmed _ _ (.inr ⟨d, h, rfl⟩)))

theorem State.emptied_recfgs : ∀ m ∈ (s.emptied j).recfgs, m.jid ≠ j.jid := by
  refine s.afterDrop_keeps j ((frees_recfgs fun l => ∀ m ∈ l, m.jid ≠ j.jid).sub rfl) fun m hm => ?_
  exact bne_iff_ne.mp (List.mem_filter.mp hm).2

theorem State.release_gone_all : s.Gone (s.release j) j := by
  have hjid {α : Type} {g : α → U64} {l : List α} : ∀ m ∈ l.filter (fun m => g m != j.jid), g m ≠ j.jid :=
    fun m hm => bne_iff_ne.mp (List.mem_filter.mp hm).2
  refine ⟨s.release_gone j, s.emptied_unit j, hjid, s.emptied_recfgs j, hjid, hjid, fun q => s.emptied_queue j, fun d => s.emptied_sync j,
    s.emptied_keeps j ((frees_mem (· = s.mem)).sub rfl) rfl, fun k hk hne => ?_⟩
  rw [State.release_jobs]
  exact List.mem_filter.mpr ⟨hk, bne_iff_ne.mpr hne⟩

theorem State.Gone.of_start {s u t : State} {j : Job} (h : u.Gone t j) (hjobs : u.jobs = s.jobs) (hmem : u.mem = s.mem) : s.Gone t j := by
  obtain ⟨hjob, hunit, hmarks, hrecfgs, hfaults, hsaves, hqueues, hsyncs, htmem, hothers⟩ := h
  exact ⟨hjob, hunit, hmarks, hrecfgs, hfaults, hsaves, hqueues, hsyncs, htmem.trans hmem, hjobs ▸ hothers⟩

theorem State.finish_gone (disp reason late : Nat) : s.Gone (s.finish j disp reason late) j :=
  (State.release_gone_all _ j).of_start (State.postCpl_keeps ((frees_jobs (· = s.jobs)).sub rfl) s _ _ rfl)
    (State.postCpl_keeps ((frees_mem (· = s.mem)).sub rfl) s _ _ rfl)

end

/-! ### The commands -/

section
variable {s : State} {j : Job} (hon : s.pwr.on = true) (hjob : s.job? j.jid = some j)
include hon hjob

theorem exec_park : exec (.park j.jid) s =
    .next (if j.lent && j.preemptible && j.phase == .running && s.time.phase == 0 && !s.lendsFor (saveBeats j.bin + 1) then
      s.updJob j.jid fun j => { j with phase := .stopping, cause := 0 } else s) :=
  congrArg Host.Outcome.next ((if_pos hon).trans (s.withJob_some _ _ j hjob))

theorem exec_park_held (h : s.lendsFor (saveBeats j.bin + 1) = true) : exec (.park j.jid) s = .next s := by
  rw [exec_park hon hjob, h, Bool.not_true, Bool.and_false]
  rfl

theorem park_stops (hlent : j.lent = true) (hpre : j.preemptible = true) (hph : j.phase = .running) (hbeat : s.time.phase = 0)
    (hend : s.lendsFor (saveBeats j.bin + 1) = false) : ∃ t i, exec (.park j.jid) s = .next t ∧ t.job? j.jid = some i ∧ i.phase = .stopping ∧
      i.cause = 0 ∧ t.units = s.units := by
  refine ⟨s.updJob j.jid fun j => { j with phase := .stopping, cause := 0 }, { j with phase := .stopping, cause := 0 }, ?_, ?_, rfl, rfl, rfl⟩
  · rw [exec_park hon hjob, if_pos (by simp [hlent, hpre, hph, hbeat, hend])]
  · rw [State.job?_updJob s j.jid (fun j => { j with phase := .stopping, cause := 0 }) (fun _ => rfl) (fun _ _ => nofun), if_pos rfl, hjob]
    rfl

theorem exec_reservationEnd : exec (.reservationEnd j.jid) s =
    .next (if j.phase == .preempted && j.guaranteed && decide (j.endBeat ≤ s.time.beat) then
      s.finish j 1 (j.firstReason.getD 3) (s.time.beat - j.endBeat) else s) :=
  congrArg Host.Outcome.next ((if_pos hon).trans (s.withJob_some _ _ j hjob))

theorem exec_reservationEnd_passed (hph : j.phase = .preempted) (hg : j.guaranteed = true) (hend : j.endBeat ≤ s.time.beat) :
    exec (.reservationEnd j.jid) s = .next (s.finish j 1 (j.firstReason.getD 3) (s.time.beat - j.endBeat)) := by
  rw [exec_reservationEnd hon hjob, if_pos (by simp [hph, hg, hend])]

theorem exec_reservationEnd_before (h : s.time.beat < j.endBeat) : exec (.reservationEnd j.jid) s = .next s := by
  rw [exec_reservationEnd hon hjob, if_neg (by simp [Nat.not_le.mpr h])]

theorem exec_jobEnd : exec (.jobEnd j.jid) s =
    .next (if j.phase != .running || j.bin.update.isSome || !s.unitsDone j || s.endPending j.jid then s else (s.compareStep j).completeJob j.jid) :=
  congrArg Host.Outcome.next ((if_pos hon).trans (s.withJob_some _ _ j hjob))

theorem exec_jobEnd_not (h : s.unitsDone j = false ∨ j.phase ≠ .running ∨ j.bin.update ≠ none ∨ s.endPending j.jid = true) :
    exec (.jobEnd j.jid) s = .next s := by
  rw [exec_jobEnd hon hjob, if_pos]
  obtain h | h | h | h := h
  · simp [h]
  · simp [h]
  · simp [Option.isSome_iff_ne_none.mpr h]
  · simp [h]

theorem exec_jobEnd_done (hph : j.phase = .running) (hup : j.bin.update = none) (hdone : s.unitsDone j = true) (hmark : s.endPending j.jid = false) :
    exec (.jobEnd j.jid) s = .next ((s.compareStep j).completeJob j.jid) := by
  rw [exec_jobEnd hon hjob, if_neg (by simp [hph, hup, hdone, hmark])]

end

/-- However a job completes, on time or late, it finishes. -/
theorem State.completeJob_finishes {s : State} {j : Job} (h : s.job? j.jid = some j) :
    ∃ disp reason late, s.completeJob j.jid = s.finish j disp reason late := by
  have honTime {c : Bool} {u : State} (hu : ∃ disp reason late, u = s.finish j disp reason late) :
      ∃ disp reason late, (if c then s.finish j 0 0 0 else u) = s.finish j disp reason late := by
    cases c with
    | false => exact hu
    | true => exact ⟨0, 0, 0, rfl⟩
  rw [State.completeJob, s.withJob_some _ _ j h]
  refine honTime ?_
  split
  · exact ⟨_, _, _, rfl⟩
  · split <;> exact ⟨_, _, _, rfl⟩

theorem State.completeJob_on_time {s : State} {j : Job} (h : s.job? j.jid = some j) (hlimit : ∀ l, j.limit = some l → s.gt ≤ l)
    (hreason : bit j.reasons 0 = false) : s.completeJob j.jid = s.finish j 0 0 0 := by
  rw [State.completeJob, s.withJob_some _ _ j h]
  refine if_pos ?_
  rw [hreason]
  split
  · next l hl => simp [ceilDiv, Nat.sub_eq_zero_of_le (hlimit l hl)]
  · rfl

/-- With nothing recorded no replay is compared. -/
theorem State.compareStep_no_recs {s : State} (h : s.obs.recs = []) (j : Job) : s.compareStep j = s := by
  rw [State.compareStep, h, List.map_nil, ← h]
  rfl

theorem jobEnd_gone {s : State} {j : Job} (hon : s.pwr.on = true) (hjob : s.job? j.jid = some j) (hph : j.phase = .running)
    (hup : j.bin.update = none) (hdone : s.unitsDone j = true) (hmark : s.endPending j.jid = false) :
    ∃ t, exec (.jobEnd j.jid) s = .next t ∧ s.Gone t j := by
  obtain ⟨disp, reason, late, hfin⟩ := State.completeJob_finishes (s := s.compareStep j) hjob
  rw [exec_jobEnd_done hon hjob hph hup hdone hmark, hfin]
  exact ⟨_, rfl, (State.finish_gone _ j disp reason late).of_start rfl rfl⟩

end Sys2Proof.Machine

namespace Sys2Proof
open Machine

/-- Settles O48: a job that ends by either command finishes, and what finishes is gone. -/
theorem jobEnd : Obligations.job_end := by
  intro jid s j hon hjob
  obtain ⟨-, rfl, -⟩ := s.job?_some jid j hjob
  refine ⟨park_stops hon hjob, exec_park_held hon hjob, fun hph hg hend => ⟨exec_reservationEnd_passed hon hjob hph hg hend,
    _, exec_reservationEnd_passed hon hjob hph hg hend, s.finish_gone j _ _ _⟩, exec_reservationEnd_before hon hjob,
    fun hph hup hdone hmark => ⟨jobEnd_gone hon hjob hph hup hdone hmark, fun hrecs hlimit hreason => ?_⟩, exec_jobEnd_not hon hjob⟩
  rw [exec_jobEnd_done hon hjob hph hup hdone hmark, State.compareStep_no_recs hrecs, State.completeJob_on_time hjob hlimit hreason]

end Sys2Proof
end

section
/-! PROOF. Accesses that are denied, and the security mailbox (R404, R405, R487, R488, R491 to R494); O57 and O54. -/

namespace Sys2Proof.Machine

/-! ### Denied accesses (R405) -/

/-- What a denied access carried by a host port does to the state: the port counts it, saturating; nothing else of the areas below
changes. -/
def State.Denied (s : State) (p : Nat) (t : State) : Prop :=
  (t.hpAt p).denied = min ((s.hpAt p).denied + 1) 0xFFFF ∧
    (∀ q, q ≠ p → t.hpAt q = s.hpAt q) ∧ t.ctxs = s.ctxs ∧ t.host = s.host ∧ t.faults = s.faults ∧ t.jobs = s.jobs ∧ t.units = s.units ∧
      t.syncs = s.syncs ∧ t.queues = s.queues ∧ t.mem = s.mem ∧ t.time = s.time ∧ t.ports = s.ports ∧ t.cxl = s.cxl ∧ t.sec = s.sec ∧ t.pwr = s.pwr ∧
      t.dies = s.dies

theorem State.denied_of_setHp (s : State) (p src dst c k : Nat) {v : HostPort} (hv : v.denied = min ((s.hpAt p).denied + 1) 0xFFFF) :
    s.Denied p (((s.exchange src dst).setHp p v).cntAdd c k) := by
  have hobs (t : State) (q : Nat) : (t.cntAdd c k).hpAt q = t.hpAt q := rfl
  refine ⟨?_, fun q hq => ?_, by simp [State.cntAdd]⟩
  · rw [hobs, State.hpAt_setHp, hv]
  · rw [hobs, State.hpAt_setHp_other _ _ _ _ hq]
    rfl

/-- The words of the exchange come before the count. -/
theorem State.exchange_deny_denied (s : State) (f : Func) (src dst : Nat) : s.Denied f.port.val ((s.exchange src dst).deny f) :=
  s.denied_of_setHp f.port.val src dst _ _ rfl

section
variable {s : State} (f : Func) (a : Nat) (hon : s.pwr.on = true) (hopen : s.blockOpen (blockOf (a / 8 * 8)).1 = true)
  (hdie : s.dieAnswers (blockOf (a / 8 * 8)).1.die = true) (hreg : s.regAt a ≠ none)
include hon hopen hdie hreg

/-- An access denied, read or write: the exchange, the count, and the zero a read returns. -/
theorem exec_deniedAccess_denied (w : Bool)
    (h : (if w then s.canWrite f (blockOf (a / 8 * 8)).1 (blockOf (a / 8 * 8)).2 else s.canRead f (blockOf (a / 8 * 8)).1 (blockOf (a / 8 * 8)).2) = false) :
    let r := (s.exchange (30 + f.port.val) (blockOf (a / 8 * 8)).1.die).deny f
    exec (.deniedAccess f a w) s = .next (if w then r else r.reply (.value 0)) := by
  refine congrArg Host.Outcome.next ((if_pos hon).trans (if_neg ?_))
  simp [h, hopen, hdie, hreg]

theorem exec_registerWrite_denied (h : s.canWrite f (blockOf (a / 8 * 8)).1 (blockOf (a / 8 * 8)).2 = false) {half : Bool}
    (hal : a % (if half then 4 else 8) = 0) (v : U64) :
    exec (.registerWrite f a half v) s = .next ((s.exchange (30 + f.port.val) (blockOf (a / 8 * 8)).1.die).deny f) := by
  have haligned : aligned a (if half then 4 else 8) = true := by cases half <;> simp_all [aligned]
  refine congrArg Host.Outcome.next ((if_pos hon).trans ?_)
  dsimp only
  rw [if_neg (by simp [haligned]), if_neg (by simp [hopen, hdie, hreg]), if_neg (by simp [h])]

end

/-! ### The mailbox (R491, R493, R494) -/

/-- The control function's command, while none is under way. -/
theorem State.mailbox_runs {s : State} {f : Func} (hon : s.pwr.on = true) (hf : s.isControl f = true) (hidle : s.sec.status ≠ 1) (g : State → State) :
    s.mailbox f g = .next (g (s.exchange (30 + f.port.val) 30)) := by
  rw [State.mailbox, State.ran_on _ _ hon, State.privileged_control (s.exchange _ _) _ _ hf, State.secCmd, State.exchange_sec, if_neg hidle]

theorem State.mailbox_busy {s : State} {f : Func} (hon : s.pwr.on = true) (hf : s.isControl f = true) (hbusy : s.sec.status = 1) (g : State → State) :
    s.mailbox f g = .next (s.exchange (30 + f.port.val) 30) := by
  rw [State.mailbox, State.ran_on _ _ hon, State.privileged_control (s.exchange _ _) _ _ hf, State.secCmd, State.exchange_sec, if_pos hbusy]

theorem State.mailbox_denied {s : State} {f : Func} (hon : s.pwr.on = true) (hf : s.isControl f = false) (g : State → State) :
    s.mailbox f g = .next ((s.exchange (30 + f.port.val) 30).deny f) := by
  rw [State.mailbox, State.ran_on _ _ hon, State.privileged_denied (s.exchange _ _) _ _ hf]

/-- Every command of the mailbox goes through it. -/
theorem exec_eq_mailbox {f : Func} {img : Image} {die : Fin 32} {ty : Byte} {token : BitVec 8192} {i : Instr}
    (h : i ∈ [Instr.fwStage f img, .fwSelect f, .fwActivateDie f die, .advanceSvn f ty, .debugChallenge f, .debugUnlock f token, .moduleReset f]) :
    ∃ g : State → State, ∀ s, exec i s = s.mailbox f g := by
  simp only [List.mem_cons, List.not_mem_nil, or_false] at h
  obtain rfl | rfl | rfl | rfl | rfl | rfl | rfl := h <;> exact ⟨_, fun _ => rfl⟩

/-! ### Images (R491 to R494) -/

/-- A check with a code of its own in front of others. -/
theorem ite_code_eq_zero {p : Prop} [Decidable p] {code rest : Nat} (hcode : code ≠ 0) : (if p then code else rest) = 0 ↔ ¬p ∧ rest = 0 := by
  split <;> simp_all

/-- An image of its own type passes when no check of it fails. -/
theorem SecSt.imageErr_self_eq_zero (c : SecSt) (img : Image) : c.imageErr img (imgType img) = 0 ↔
    imgKey img < 4 ∧ bit c.revoked (imgKey img) = false ∧ sigOk img.hdr (imgKey img) = true ∧ Config.sha512 img.payload = imgDigest img ∧
      c.svnOf (imgType img) ≤ imgSvn img := by
  simp [SecSt.imageErr, ite_code_eq_zero, and_assoc]

/-- A debug token passes when no check of it fails. -/
theorem SecSt.tokenErr_eq_zero (c : SecSt) (token : BitVec 8192) : c.tokenErr token = 0 ↔
    bits token 40 8 < 4 ∧ bit c.revoked (bits token 40 8) = false ∧ sigOk token (bits token 40 8) = true ∧
      bits token 64 64 = Config.serial.toNat ∧ c.nonceLive = true ∧ bits token 128 256 = c.nonce.toNat := by
  simp only [SecSt.tokenErr]
  iterate 5 rw [ite_code_eq_zero (by decide)]
  simp

/-- The slot that is not running. -/
theorem one_sub_b2n (b : Bool) : 1 - b2n b = if b then 0 else 1 := by cases b <;> rfl

section
variable (s : State) (img : Image)

theorem State.fwStage_mistyped (h : imgType img = 0 ∨ 3 < imgType img) : s.fwStage img = s.secFail 4 := if_pos h

theorem State.fwStage_typed (hlo : 1 ≤ imgType img) (hhi : imgType img ≤ 3) :
    s.fwStage img = match s.sec.imageErr img (imgType img) with
      | 0 => if imgType img = 1 then (s.setSec { s.sec with flash := setAt s.sec.flash (1 - b2n s.sec.slot) (some img) }).secDone
        else (s.setSec { s.sec with stagedDie := some img }).secDone
      | e => s.secFail e := if_neg (by omega)

theorem State.fwStage_fails (hlo : 1 ≤ imgType img) (hhi : imgType img ≤ 3) (h : s.sec.imageErr img (imgType img) ≠ 0) :
    s.fwStage img = s.secFail (s.sec.imageErr img (imgType img)) := by
  rw [s.fwStage_typed img hlo hhi]
  split
  · next h0 => exact absurd h0 h
  · rfl

theorem State.fwStage_accepts (hlo : 1 ≤ imgType img) (hhi : imgType img ≤ 3) (h : s.sec.imageErr img (imgType img) = 0) :
    s.fwStage img = s.setSec (if imgType img = 1
      then { s.sec with flash := setAt s.sec.flash (if s.sec.slot then 0 else 1) (some img), status := 2, code := 0 }
      else { s.sec with stagedDie := some img, status := 2, code := 0 }) := by
  rw [s.fwStage_typed img hlo hhi, h, one_sub_b2n]
  by_cases h1 : imgType img = 1
  · rw [if_pos h1, if_pos h1]
    rfl
  · rw [if_neg h1, if_neg h1]
    rfl

theorem State.fwSelect_eq : s.fwSelect = if s.sec.flash.getD (if s.sec.slot then 0 else 1) none = none then s.secFail 5
    else s.setSec { s.sec with preferred := !s.sec.slot, status := 2, code := 0 } := by
  rw [State.fwSelect]
  dsimp only
  rw [one_sub_b2n]
  cases s.sec.flash.getD (if s.sec.slot then 0 else 1) none <;> rfl

/-! ### Die images, fuses, tokens (R487, R488, R494) -/

theorem State.fwActivate_unfenced (d : Nat) (h : (s.dieAt d).st ≠ 2) : s.fwActivate d = s.secFail 6 := if_pos (by simpa using h)

theorem State.fwActivate_fenced (d : Nat) (h : (s.dieAt d).st = 2) : s.fwActivate d = match s.sec.stagedDie with
    | none => s.secFail 5
    | some i => if imgType i ≠ 2 then s.secFail 4 else (s.updDie d fun d => { d with staged := true }).secDone := if_neg (by simp [h])

theorem State.advanceSvn_svnOf (t k : Nat) (ht : 1 ≤ t) (hhi : t ≤ 3) (hlen : t ≤ s.sec.svn.length) (hk : 1 ≤ k) :
    (s.advanceSvn t).sec.svnOf k = if k = t then max (s.sec.svnOf t) (min (s.sec.runOf t) 64) else s.sec.svnOf k := by
  rw [State.advanceSvn, if_neg (by omega)]
  change (setAt s.sec.svn (t - 1) _).getD (k - 1) 0 = _
  rw [setAt_eq_set, List.getD_eq_getElem?_getD, List.getElem?_set]
  split
  · next h => rw [if_pos (by omega), if_pos (by omega)]; rfl
  · next h => rw [if_neg (by omega), ← List.getD_eq_getElem?_getD]; rfl

theorem State.debugUnlock_fails (token : BitVec 8192) (h : s.sec.tokenErr token ≠ 0) : s.debugUnlock token =
    s.setSec { s.sec with nonceLive := false, status := 3, code := BitVec.ofNat 8 (s.sec.tokenErr token) } := by
  rw [State.debugUnlock]
  dsimp only
  split
  · next h0 => exact absurd h0 h
  · rfl

theorem State.debugUnlock_accepts (token : BitVec 8192) (h : s.sec.tokenErr token = 0) : (s.debugUnlock token).sec =
    { s.sec with
      nonceLive := false, status := 2, code := 0, scope := BitVec.ofNat 2 (bits token 32 2)
      meas := modAt s.sec.meas 5 fun m => extendM m (Config.sha512 (bytesOf 1024 token.toNat)) } := by
  rw [State.debugUnlock]
  dsimp only
  rw [h]
  rfl

end

end Sys2Proof.Machine

namespace Sys2Proof
open Machine

/-- Settles O57: whatever carries the denied access, the state it leaves is the exchange's with one count more. -/
theorem deniedAccessesAreCounted : Obligations.denied_accesses_are_counted := by
  intro f a s hon b counted hopen hdie hreg
  have hcounted : counted ((s.exchange (30 + f.port.val) b.1.die).deny f) := s.exchange_deny_denied f _ _
  refine ⟨fun hr => ⟨_, exec_deniedAccess_denied f a hon hopen hdie hreg false hr, rfl, hcounted⟩, fun hw => ⟨?_, fun h v hal => ?_⟩⟩
  · exact ⟨_, exec_deniedAccess_denied f a hon hopen hdie hreg true hw, hcounted⟩
  · exact ⟨_, exec_registerWrite_denied f a hon hopen hdie hreg hw hal v, hcounted⟩

/-- Settles O54: who may command the mailbox, then each command by the checks its operand passes or fails. -/
theorem securityMailbox : Obligations.security_mailbox := by
  intro f img die ty token s hon c r fail commands
  refine ⟨fun hf i hi => ?_, fun hf hbusy i hi => ?_, fun hf hidle => ?_⟩
  · obtain ⟨g, hg⟩ := exec_eq_mailbox hi
    rw [hg, State.mailbox_denied hon hf]
  · obtain ⟨g, hg⟩ := exec_eq_mailbox hi
    rw [hg, State.mailbox_busy hon hf hbusy]
  have runs {i : Instr} {g : State → State} (hi : exec i s = s.mailbox f g) : exec i s = .next (g r) := hi.trans (State.mailbox_runs hon hf hidle g)
  have stage : exec (.fwStage f img) s = .next (r.fwStage img) := runs (g := fun t => t.fwStage img) rfl
  have activate : exec (.fwActivateDie f die) s = .next (r.fwActivate die.val) := runs (g := fun t => t.fwActivate die.val) rfl
  have advance : exec (.advanceSvn f ty) s = .next (r.advanceSvn ty.toNat) := runs (g := fun t => t.advanceSvn ty.toNat) rfl
  have unlock : exec (.debugUnlock f token) s = .next (r.debugUnlock token) := runs (g := fun t => t.debugUnlock token) rfl
  refine ⟨fun h => ?_, fun hlo hhi => ⟨fun h => ?_, fun h => ?_⟩, c.imageErr_self_eq_zero img, ?_, fun h => ?_, fun h hnone => ?_, fun i h hi hty => ?_,
    fun h => ?_, fun i h hi hty => ?_, fun hlo hhi hlen => ?_, ⟨_, runs rfl, rfl⟩, fun h => ?_, fun h => ?_, c.tokenErr_eq_zero token, runs (g := State.moduleReset) rfl⟩
  · rw [stage, State.fwStage_mistyped r img h]; rfl
  · rw [stage, State.fwStage_fails r img hlo hhi h]; rfl
  · rw [stage, State.fwStage_accepts r img hlo hhi h]; rfl
  · have hsel : exec (.fwSelect f) s = .next r.fwSelect := runs (g := State.fwSelect) rfl
    rw [hsel, State.fwSelect_eq]
    exact apply_ite _ _ _ _
  · rw [activate, State.fwActivate_unfenced r die.val h]; rfl
  · rw [activate, State.fwActivate_fenced r die.val h]
    have hr : r.sec.stagedDie = none := hnone
    rw [hr]; rfl
  · rw [activate, State.fwActivate_fenced r die.val h]
    have hr : r.sec.stagedDie = some i := hi
    simp only [hr, if_pos hty]
    rfl
  · rw [advance, State.advanceSvn, if_pos h]; rfl
  · rw [activate, State.fwActivate_fenced r die.val h]
    have hr : r.sec.stagedDie = some i := hi
    simp only [hr, if_neg (not_not_intro hty)]
    exact ⟨_, rfl, State.dieAt_setDie_self r die.val _, rfl⟩
  · have hsvn := State.advanceSvn_svnOf r ty.toNat
    refine ⟨_, advance, ?_, ?_, (hsvn _ hlo hhi hlen hlo).trans (if_pos rfl), fun k hk hne => (hsvn k hlo hhi hlen hk).trans (if_neg hne)⟩
    · rw [State.advanceSvn, if_neg (by omega)]; rfl
    · rw [State.advanceSvn, if_neg (by omega)]; rfl
  · rw [unlock, State.debugUnlock_fails r token h]; rfl
  · have hsec := State.debugUnlock_accepts r token h
    exact ⟨_, unlock, by rw [hsec], by rw [hsec], by rw [hsec]⟩

end Sys2Proof
end

section
/-! PROOF. Attestation, the management bus, the FRU EEPROM (R489, R490, R512, R513, R515); O55. -/

namespace Sys2Proof.Machine

/-! ### Attestation (R490) -/

/-- The measurements reported are those held, then those of the dies whose microcode differs. -/
theorem State.measured_length (s : State) : s.measured.length =
    s.sec.meas.length + ((List.range 24).filter fun d => (s.dieAt d).fwVer != (s.dieAt 0).fwVer).length := by
  rw [State.measured]
  rw [List.length_append, setAt_eq_set, List.length_set, List.length_map]

/-- Only the third measurement is reported otherwise than held. -/
theorem State.measured_getElem? (s : State) {i : Nat} (hi : i < s.sec.meas.length) (h : i ≠ 2) : s.measured[i]? = s.sec.meas[i]? := by
  rw [State.measured]
  rw [setAt_eq_set, List.getElem?_append_left (by rwa [List.length_set]), List.getElem?_set_ne (Ne.symm h)]

section
variable {s : State} (hon : s.pwr.on = true) (p : Fin 2) (nonce : BitVec 256)
include hon

theorem exec_getCertificate_slot (slot : Byte) :
    exec (.getCertificate p slot) s = .next (if slot = 0 then s.spdm .certificate [Config.certDigest] none else s.spdm .error [] none) :=
  congrArg Host.Outcome.next (if_pos hon)

theorem exec_challenge_slot (slot : Byte) : exec (.challenge p slot nonce) s = .next (if slot = 0
    then s.spdm .challengeAuth [Config.certDigest] (some (signOver nonce [Config.certDigest])) else s.spdm .error [] none) :=
  congrArg Host.Outcome.next (if_pos hon)

theorem exec_getMeasurements_signed :
    exec (.getMeasurements p nonce) s = .next (s.reply (.spdm 0x60 0 s.measured (some (signOver nonce s.measured)))) :=
  congrArg Host.Outcome.next (if_pos hon)

end

/-! ### The management bus (R512, R513) -/

section
variable {s : State}

theorem State.busOpen_iff : s.busOpen = true ↔ s.pwr.on = true ∧ 3 ≤ s.sec.stage.toNat ∧ s.pins.modRst = false := by
  simp [State.busOpen, and_assoc]

theorem State.smbRead_closed (h : s.busOpen = false) (lo n : Nat) : s.smbRead lo n = s.reply .nack := if_neg (by simp [h])

/-- A block read answers its part of what the last boundary copied. -/
theorem State.smbRead_part (h : s.busOpen = true) {a b c : List Byte} {lo n : Nat} (hsmb : s.pins.smb = a ++ (b ++ c)) (ha : a.length = lo)
    (hb : b.length = n) (hn : 0 < n) : s.smbRead lo n = s.reply (.bytes b) := by
  have hne : s.pins.smb.isEmpty = false := by
    rw [List.isEmpty_eq_false_iff, hsmb]
    intro h0
    have hlen := congrArg List.length h0
    rw [List.length_append, List.length_append, List.length_nil] at hlen
    omega
  rw [State.smbRead, if_pos h, hne, if_neg Bool.false_ne_true, hsmb, List.drop_left' ha, List.take_left' hb]

theorem exec_smbNack_known_not {w : Byte} (h : w = 0 ∨ 7 < w.toNat ∨ s.busOpen = false) : exec (.smbNack (.unknownCommand w)) s = .next (s.reply .nack) := by
  refine congrArg Host.Outcome.next (if_neg ?_)
  obtain rfl | h | h := h
  · simp
  · simp; omega
  · simp [h]

/-! ### The FRU EEPROM (R515) -/

/-- A string written from byte `a` reads back, and nothing beside it changes. -/
theorem tabGet_fruStore (t : Tab Byte) (a b : Nat) (l : List Byte) :
    tabGet 0 (fruStore t a l) b = if a ≤ b ∧ b < a + l.length then l.getD (b - a) 0 else tabGet 0 t b := by
  induction l generalizing t a with
  | nil => rw [fruStore, if_neg (by simp only [List.length_nil]; omega)]
  | cons x l ih =>
    rw [fruStore, ih, tabGet_tabSet, List.length_cons]
    by_cases hb : b = a
    · subst hb
      rw [if_neg (by omega), if_pos rfl, if_pos (by omega), Nat.sub_self, List.getD_cons_zero]
    by_cases hin : a + 1 ≤ b ∧ b < a + 1 + l.length
    · rw [if_pos hin, if_pos (by omega), show b - a = b - (a + 1) + 1 by omega, List.getD_cons_succ]
    · rw [if_neg hin, if_neg hb, if_neg (by omega)]

/-- A byte of the integrator area. -/
theorem State.fruByte_integrator {a : Nat} (h : 256 ≤ a) : s.fruByte a = tabGet 0 s.pins.fru a := by
  rw [State.fruByte, if_neg (by omega), if_neg (by omega)]

/-- The identity block is of the part, not of the state. -/
theorem State.fruByte_identity (t : State) {a : Nat} (h : a < 256) : t.fruByte a = s.fruByte a := by
  rw [State.fruByte, State.fruByte, if_pos h, if_pos h]

variable (a : Nat) (l : List Byte)

theorem exec_fruEepromWrite_refused (h : a < 256 ∨ 8192 < a + l.length ∨ s.pins.fruWp = true) :
    exec (.fruEepromWrite a l) s = .next (s.reply .nack) :=
  congrArg Host.Outcome.next (if_pos (by simpa [or_assoc] using h))

theorem exec_fruEepromWrite_stored (ha : 256 ≤ a) (hl : a + l.length ≤ 8192) (hwp : s.pins.fruWp = false) :
    exec (.fruEepromWrite a l) s = .next (s.setPins { s.pins with fru := fruStore s.pins.fru a l }) :=
  congrArg Host.Outcome.next (if_neg (by simp [hwp]; omega))

/-- What the EEPROM holds after a write of the integrator area. -/
theorem State.fruByte_stored (ha : 256 ≤ a) (b : Nat) : (s.setPins { s.pins with fru := fruStore s.pins.fru a l }).fruByte b =
    if a ≤ b ∧ b < a + l.length then l.getD (b - a) 0 else s.fruByte b := by
  by_cases hb : b < 256
  · rw [if_neg (by omega), State.fruByte_identity _ hb]
  · rw [State.fruByte_integrator (Nat.le_of_not_lt hb), State.fruByte_integrator (s := s) (Nat.le_of_not_lt hb)]
    exact tabGet_fruStore s.pins.fru a b l

end

end Sys2Proof.Machine

namespace Sys2Proof
open Machine

/-- Settles O55: each message's answer; each block read as a part of the boundary's copy; a write of the EEPROM byte by byte. -/
theorem attestationAndSideband : Obligations.attestation_and_sideband := by
  refine ⟨fun p slot nonce s hon => ⟨congrArg Host.Outcome.next (if_pos hon), congrArg Host.Outcome.next (if_pos hon), congrArg Host.Outcome.next (if_pos hon), congrArg Host.Outcome.next (if_pos hon), fun h => ⟨?_, ?_⟩,
    fun h => ⟨?_, ?_⟩, s.measured, exec_getMeasurements_signed hon p nonce, ?_, fun i hi h => s.measured_getElem? hi h, s.measured_length⟩,
    fun s => ⟨State.busOpen_iff, fun h i hi => ?_, fun w => ⟨rfl, rfl, exec_smbNack_known_not⟩,
    fun pst pth boot gt hp0 hp1 ci co hopen hsmb => ?_, fun a l ha hl hwp => ?_, fun a l h => exec_fruEepromWrite_refused a l h⟩⟩
  · rw [exec_getCertificate_slot hon, if_pos h]; rfl
  · rw [exec_challenge_slot hon, if_pos h]; rfl
  · rw [exec_getCertificate_slot hon, if_neg h]; rfl
  · rw [exec_challenge_slot hon, if_neg h]; rfl
  · rw [s.measured_length]; omega
  · have hread (lo n : Nat) : Host.Outcome.next (s.smbRead lo n) = (.next (s.reply .nack) : Host.Outcome State Fault Refusal) :=
      congrArg _ (State.smbRead_closed h lo n)
    simp only [List.mem_cons, List.not_mem_nil, or_false] at hi
    obtain rfl | rfl | rfl | rfl | rfl | rfl | rfl := hi
    · exact hread 0 8
    · exact hread 8 8
    · exact hread 16 8
    · exact hread 24 8
    · exact hread 32 4
    · exact hread 36 16
    · exact congrArg Host.Outcome.next (if_neg (by simp [h]))
  · simp only [List.append_assoc] at hsmb
    refine ⟨?_, ?_, ?_, ?_, ?_, ?_, congrArg Host.Outcome.next (if_pos hopen)⟩ <;> refine congrArg Host.Outcome.next ?_
    · exact State.smbRead_part (a := []) hopen hsmb rfl (bytesOf_length _ _) (by decide)
    · exact State.smbRead_part (a := bytesOf 8 pst.toNat) hopen hsmb (bytesOf_length _ _) (bytesOf_length _ _) (by decide)
    · exact State.smbRead_part (a := bytesOf 8 pst.toNat ++ bytesOf 8 pth.toNat) hopen (by simpa only [List.append_assoc] using hsmb)
        (by simp only [List.length_append, bytesOf_length]) (bytesOf_length _ _) (by decide)
    · exact State.smbRead_part (a := bytesOf 8 pst.toNat ++ (bytesOf 8 pth.toNat ++ bytesOf 8 boot.toNat)) hopen
        (by simpa only [List.append_assoc] using hsmb) (by simp only [List.length_append, bytesOf_length]) (bytesOf_length _ _) (by decide)
    · exact State.smbRead_part (a := bytesOf 8 pst.toNat ++ (bytesOf 8 pth.toNat ++ (bytesOf 8 boot.toNat ++ bytesOf 8 gt.toNat))) hopen
        (by simpa only [List.append_assoc] using hsmb) (by simp only [List.length_append, bytesOf_length])
        (by simp only [List.length_append, bytesOf_length]) (by decide)
    · exact State.smbRead_part (c := [])
        (a := bytesOf 8 pst.toNat ++ (bytesOf 8 pth.toNat ++ (bytesOf 8 boot.toNat ++ (bytesOf 8 gt.toNat ++ (bytesOf 2 ci ++ bytesOf 2 co))))) hopen
        (by simpa only [List.append_assoc, List.append_nil] using hsmb) (by simp only [List.length_append, bytesOf_length])
        (by simp only [List.length_append, bytesOf_length]) (by decide)
  · have hbyte := State.fruByte_stored (s := s) a l ha
    refine ⟨_, exec_fruEepromWrite_stored a l ha hl hwp, fun k hk => ?_, fun b hb => ?_, rfl, rfl, rfl, rfl⟩
    · rw [hbyte, if_pos (by omega), Nat.add_sub_cancel_left]
    · rw [hbyte, if_neg (by omega)]

end Sys2Proof
end

section
/-! PROOF. Admission of RUN (R413, R415, R417 to R420); O45. -/

namespace Sys2Proof.Machine

/-! ### The candidate (R413, R417) -/

theorem State.takeKind_some {s : State} {n kind : Nat} {f : Fetched} (hc : s.nextCand = some (n, f)) (hk : dKind f.desc = kind)
    (g : State → Nat → Fetched → State) : s.takeKind kind g = g (s.dropCand n) n f := by
  rw [State.takeKind, hc]
  exact if_pos hk

/-- What posts no more than a refusal takes the candidate and nothing else from its context's queue. -/
theorem State.Posts.cands_tail {s t : State} {n : Nat} (h : (s.dropCand n).Posts t) : (t.ctxAt n).cands = (s.ctxAt n).cands.tail := by
  rw [h.part CtxSt.cands (fun _ => rfl) n, State.dropCand, State.updCtx, State.ctxAt_setCtx]

section
variable {s : State} {n : Nat} {f : Fetched} (hon : s.pwr.on = true) (hc : s.nextCand = some (n, f)) (hk : dKind f.desc = 0)
include hon hc hk

theorem exec_run_faulty {c : Nat} (hcause : (s.dropCand n).runCause n f = some c) :
    exec .run s = .next ((s.dropCand n).reject n (dJob f.desc) c) := by
  rw [exec, execRun, s.ran_on _ hon, State.takeKind_some hc hk, hcause]

theorem exec_run_checked {b : Binary} (hbin : f.bin = some b) (hcause : (s.dropCand n).runCause n f = none) (hreplay : dReplay f.desc = false) :
    exec .run s = .next ((s.dropCand n).admitRun n f.desc b none) := by
  rw [exec, execRun, s.ran_on _ hon, State.takeKind_some hc hk, hcause, hbin]
  exact congrArg _ (if_neg (by rw [hreplay]; decide))

end

/-! ### The base (R418, R419) -/

/-- A base that admission finds lies beyond the next boundary and NOT_BEFORE, apart from other reservations, within the deadline. -/
theorem State.findBase_spec {s : State} {port n notBefore deadline b : Nat} (h : s.findBase port n notBefore deadline = some b) :
    notBefore ≤ b ∧ s.time.beat + 2 ≤ b ∧ apart (s.spans 0) b n = true ∧ (deadline = 0 ∨ b + n ≤ deadline) := by
  unfold State.findBase at h
  dsimp only at h
  split at h
  · simp at h
  · next c cs hcands =>
    obtain ⟨hdead, rfl⟩ := Option.ite_none_right_eq_some.mp h |>.imp_right Option.some.inj
    have hmem : cs.foldl min c ∈ c :: cs := List.min?_mem List.min?_cons'
    rw [← hcands, List.mem_filter, Bool.and_eq_true, Bool.and_eq_true, decide_eq_true_iff] at hmem
    obtain ⟨-, ⟨hlo, hapart⟩, -⟩ := hmem
    exact ⟨le_trans (le_max_left _ _) hlo, le_trans (le_max_right _ _) hlo, hapart, hdead⟩

/-! ### Steps 2 to 5 (R417 to R420) -/

/-- An accepted job is the last of the jobs; nothing else of them changes. -/
theorem State.accept_jobs (s : State) (ctx : Nat) (j : Job) : (s.accept ctx j none).jobs = s.jobs ++ [j] := by
  have frees := frees_jobs (· = s.jobs ++ [j])
  unfold State.accept
  refine State.updCtx_keeps (frees.sub rfl) _ _ _ (State.traceEv_keeps (frees.sub rfl) _ _ _ _ _ _ _ _ ?_)
  have hrec {u : State} (hu : u.jobs = s.jobs ++ [j]) (k w b) : (u.record j.jid k w b).jobs = s.jobs ++ [j] :=
    State.record_keeps (frees.sub rfl) u _ _ _ _ hu
  have hbegun : ∀ u : State, u.jobs = s.jobs ++ [j] → (if j.traced then u.startTrace ctx j.jid else u).jobs = s.jobs ++ [j] := by
    intro u hu
    split
    · exact State.startTrace_keeps (frees.sub rfl) u _ _ hu
    · exact hu
  refine hbegun _ (hrec ?_ _ _ _)
  dsimp only
  split <;> rfl

/-- A job that claims nothing and replays nothing is the new job itself. -/
theorem newJob_claimed {ctx base endBeat : Nat} {d : BitVec 512} {b : Binary} {phase : JobPhase} (hreplay : dReplay d = false) :
    (newJob ctx d b base endBeat phase).claimed false false false false = newJob ctx d b base endBeat phase :=
  if_neg (ne_true_of_eq_false hreplay)

theorem State.admitRun_shed {s : State} {ctx : Nat} {d : BitVec 512} {b : Binary} {replay : Option RecSt} (h : 2 ≤ s.pwr.eff) :
    s.admitRun ctx d b replay = s.refuse ctx (dJob d) 0xB := if_pos h

section
variable {s : State} {ctx : Nat} {d : BitVec 512} {b : Binary} (hreplay : dReplay d = false) (hrec : dRecord d = false) (htrace : dTrace d = false)
  (hstrobe : b.report.sampleStrobe = false) (hcross : b.report.crossModule = false) (heff : s.pwr.eff < 2)
  (hcap : s.capacity ctx (dClass d) false b.report.torus 0 = true) (hres : s.resident ctx d b (dClass d == 0) false = true)
include hreplay hrec htrace hstrobe hcross heff hcap hres

omit hreplay hcross heff hcap hres in
theorem State.claimAll_nothing : s.claimAll ctx d b = (s, false, false, false) := by
  rw [State.claimAll, hrec, htrace, hstrobe]
  rfl

theorem State.admitRun_waits (hcls : dClass d ≠ 0) : s.admitRun ctx d b none = s.accept ctx (newJob ctx d b 0 0 .waiting) none := by
  have hclass : (dClass d == 0) = false := beq_eq_false_iff_ne.mpr hcls
  rw [hclass] at hres
  simp only [State.admitRun, hclass, hcross, hcap, hres, Nat.not_le.mpr heff, State.claimAll_nothing hrec htrace hstrobe, newJob_claimed hreplay,
    if_false, Bool.not_true, Bool.false_and, Bool.false_eq_true]

theorem State.admitRun_based {bb : Nat} (hcls : dClass d = 0) (hshare : s.portShareOk (ctx / 16) b.report.portShare = true)
    (hbase : s.findBase (ctx / 16) b.report.reserveBeats (dNotBefore d) (dDeadline d) = some bb) :
    s.admitRun ctx d b none = s.accept ctx (newJob ctx d b bb (bb + b.report.reserveBeats) .admitted) none := by
  rw [hcls] at hcap hres
  simp only [State.admitRun, hcls, hcross, hcap, beq_self_eq_true, Nat.not_le.mpr heff, State.claimAll_nothing hrec htrace hstrobe, hshare, hbase,
    if_false, Bool.not_true, Bool.false_and, Bool.and_false, Bool.or_false, Bool.false_eq_true, if_true, newJob_claimed hreplay]
  rw [beq_self_eq_true] at hres
  simp only [hres, Bool.not_true, Bool.false_eq_true, if_false]

omit hreplay in
theorem State.admitRun_baseless (hcls : dClass d = 0) (h : s.portShareOk (ctx / 16) b.report.portShare = false ∨
    s.findBase (ctx / 16) b.report.reserveBeats (dNotBefore d) (dDeadline d) = none) : s.admitRun ctx d b none = s.refuse ctx (dJob d) 3 := by
  have hbase : (if !s.portShareOk (ctx / 16) b.report.portShare then none
      else s.findBase (ctx / 16) b.report.reserveBeats (dNotBefore d) (dDeadline d)) = none := by
    obtain h | h := h
    · rw [h]; rfl
    · rw [h, ite_self]
  rw [hcls] at hcap hres
  rw [beq_self_eq_true] at hres
  simp only [State.admitRun, hcls, hcross, hcap, hres, beq_self_eq_true, Nat.not_le.mpr heff, State.claimAll_nothing hrec htrace hstrobe, hbase,
    if_false, Bool.not_true, Bool.false_and, Bool.and_false, Bool.or_false, Bool.false_eq_true, if_true]

end

theorem newJob_ctx {ctx base endBeat : Nat} {d : BitVec 512} {b : Binary} {phase : JobPhase} (h : ctx < 32) :
    (newJob ctx d b base endBeat phase).ctx.val = ctx := Nat.mod_eq_of_lt h

theorem newJob_cls {ctx base endBeat : Nat} {d : BitVec 512} {b : Binary} {phase : JobPhase} :
    (newJob ctx d b base endBeat phase).cls.toNat = dClass d := Nat.mod_eq_of_lt (bits_lt d 2 2)

end Sys2Proof.Machine

namespace Sys2Proof
open Machine

/-- Settles O45: a candidate that a check refuses, at any step, is refused by a record; one that passes is accepted. -/
theorem runAdmission : Obligations.run_admission := by
  intro n f s hon hc hk hn s0 d
  have hreject (c : Nat) : s0.Posts (s0.reject n (dJob d) c) := State.Posts.refl.reject _ _ _
  have hrefuse (disp : Nat) : s0.Posts (s0.refuse n (dJob d) disp) := State.Posts.refl.refuse _ _ _
  have hrefused (disp : Nat) : (s0.refuse n (dJob d) disp).jobs = s.jobs := State.refuse_keeps ((frees_jobs (· = s.jobs)).sub rfl) s0 _ _ _ rfl
  have hlevel : s0.pwr = s.pwr := rfl
  rw [← hlevel]
  refine ⟨fun c hcause => ?_, fun b hbin hcause hreplay => ⟨fun hshed => ?_, fun hrec htrace hstrobe hcross heff hcap hres => ⟨fun hcls h => ?_,
    fun bb hcls hshare hbase => ?_, fun hcls => ?_⟩⟩⟩
  · exact ⟨_, exec_run_faulty hon hc hk hcause, State.reject_keeps ((frees_jobs (· = s.jobs)).sub rfl) s0 _ _ _ rfl, (hreject c).cands_tail,
      State.reject_keeps ((frees_mem (· = s.mem)).sub rfl) s0 _ _ _ rfl⟩
  · rw [exec_run_checked hon hc hk hbin hcause hreplay, State.admitRun_shed hshed]
    exact ⟨_, rfl, hrefused _, (hrefuse _).cands_tail⟩
  · rw [exec_run_checked hon hc hk hbin hcause hreplay, State.admitRun_baseless hrec htrace hstrobe hcross heff hcap hres hcls h]
    exact ⟨_, rfl, hrefused _⟩
  · obtain ⟨hafter, hnext, hapart, hdead⟩ := State.findBase_spec hbase
    rw [exec_run_checked hon hc hk hbin hcause hreplay, State.admitRun_based hreplay hrec htrace hstrobe hcross heff hcap hres hcls hshare hbase]
    refine ⟨hafter, hnext, hapart, hdead, _, _, rfl, s0.accept_jobs n _, rfl, newJob_ctx hn, rfl, rfl, rfl, rfl, ?_, rfl⟩
    exact BitVec.eq_of_toNat_eq (newJob_cls.trans hcls)
  · rw [exec_run_checked hon hc hk hbin hcause hreplay, State.admitRun_waits hreplay hrec htrace hstrobe hcross heff hcap hres hcls]
    exact ⟨_, _, rfl, s0.accept_jobs n _, rfl, newJob_ctx hn, rfl, rfl, newJob_cls⟩

end Sys2Proof
end

section
/-! PROOF. Tables changed entry by entry; the supply and the boot (R470 to R472, R476, R486, R499, R514); O51. -/

namespace Sys2Proof.Machine

/-! ### A fold that changes one entry at each step -/

/-- A fold over indices without repetition changes each entry it names once, where an invariant makes each step do so. -/
theorem foldl_entries_inv {S V : Type} (P : S → Prop) (get : S → Nat → V) (step : S → Nat → S) (g : Nat → V → V) (hP : ∀ s i, P s → P (step s i))
    {l : List Nat} (hstep : ∀ i ∈ l, ∀ s k, P s → get (step s i) k = if k = i then g i (get s k) else get s k) (hl : l.Nodup) {s : S} (hs : P s)
    (k : Nat) : get (l.foldl step s) k = if k ∈ l then g k (get s k) else get s k := by
  induction l generalizing s with
  | nil => rw [List.foldl_nil, if_neg List.not_mem_nil]
  | cons i l ih =>
    obtain ⟨hi, hl⟩ := List.nodup_cons.mp hl
    rw [List.foldl_cons, ih (fun i hi => hstep i (List.mem_cons_of_mem _ hi)) hl (hP s i hs), hstep i List.mem_cons_self s k hs]
    by_cases hk : k = i
    · subst hk
      rw [if_neg hi, if_pos rfl, if_pos List.mem_cons_self]
    · rw [if_neg hk]
      exact if_congr (by rw [List.mem_cons, or_iff_right hk]) rfl rfl

theorem foldl_entries {S V : Type} (get : S → Nat → V) (step : S → Nat → S) (g : Nat → V → V)
    (hstep : ∀ s i k, get (step s i) k = if k = i then g i (get s k) else get s k) {l : List Nat} (hl : l.Nodup) (s : S) (k : Nat) :
    get (l.foldl step s) k = if k ∈ l then g k (get s k) else get s k :=
  foldl_entries_inv (fun _ => True) get step g (fun _ _ _ => trivial) (fun i _ s k _ => hstep s i k) hl trivial k

theorem State.devAt_updDev (s : State) (a b : Nat) (f : DevSt → DevSt) : (s.updDev a f).devAt b = if b = a then f (s.devAt b) else s.devAt b := by
  rw [State.updDev, State.devAt_setDev]
  split
  · next h => rw [h]
  · rfl

theorem State.dieAt_updDie (s : State) (a b : Nat) (f : DieSt → DieSt) : (s.updDie a f).dieAt b = if b = a then f (s.dieAt b) else s.dieAt b := by
  rw [State.updDie, State.dieAt_setDie]
  split
  · next h => rw [h]
  · rfl

theorem State.holdDies_dieAt (s : State) {d : Nat} (hd : d < 24) : s.holdDies.dieAt d = (s.dieAt d).held := by
  have hstep := foldl_entries State.dieAt (fun s d => (s.updDie d DieSt.held).dropXlateUnit d) (fun _ => DieSt.held)
    (fun s i k => s.dieAt_updDie i k DieSt.held) (List.nodup_range (n := 24)) s d
  exact hstep.trans (if_pos (List.mem_range.mpr hd))

/-! ### Off (R470, R476) -/

/-- A state that has been through L5: everything on the package is lost but fuses, flash and the FRU EEPROM, and what lies behind the CXL
ports. -/
def State.IsOff (s t : State) : Prop :=
  t.pwr.on = false ∧ t.pwr.level = 5 ∧ t.jobs = [] ∧ t.units = [] ∧ t.queues = [] ∧ t.syncs = [] ∧ t.ctxs = [] ∧
    (∀ c ∈ t.mem, c ∈ s.mem ∧ inCxl c.1 = true) ∧ (∀ a, inGddr a = true → t.byteAt a = Config.veiledByte s.fresh a) ∧
    t.sec.svn = s.sec.svn ∧ t.sec.revoked = s.sec.revoked ∧ t.sec.flash = s.sec.flash ∧ t.pins.fru = s.pins.fru ∧ t.host = s.host

/-- All of GDDR7 is veiled by what the loss of power left. -/
theorem State.cold_byteAt (s : State) (on : Bool) {a : Nat} (ha : inGddr a = true) : (s.cold on).byteAt a = Config.veiledByte s.fresh a := by
  have hin : (decide (0 ≤ a) && decide (a < gddrTop)) = true := by rw [decide_eq_true (Nat.zero_le a), Bool.true_and]; exact ha
  rw [State.byteAt_eq]
  change (veilAt ((0, gddrTop, s.fresh) :: _) a).elim _ _ = _
  rw [veilAt, List.find?_cons_of_pos (by exact hin)]
  rfl

/-- Whatever the pins and the rest of the supply's registers are set to next. -/
theorem State.powerOff_isOff (s : State) {p : PowerSt} {q : PinSt} (hon : p.on = false) (hlevel : p.level = 5) (hfru : q.fru = s.pins.fru) :
    s.IsOff ((s.powerOff.setPwr p).setPins q) :=
  ⟨hon, hlevel, rfl, rfl, rfl, rfl, rfl, fun _ hc => List.mem_filter.mp hc, fun _ ha => s.cold_byteAt false ha, rfl, rfl, rfl, hfru, rfl⟩

/-! ### On (R471, R472, R499) -/

section
variable {s : State} {vin ms : Nat}

theorem exec_powerOn_rests (h : s.pwr.on = true ∨ vin < 5200 ∨ 8400 < vin ∨ ms < 10 ∨ (s.pwr.tripped = true ∧ 8000 ≤ vin)) :
    exec (.powerOn vin ms) s = .next s := by
  refine congrArg Host.Outcome.next (if_pos ?_)
  obtain h | h | h | h | ⟨h, h'⟩ := h <;> simp [*]

/-- The block as power-on leaves it, before the dies are held off. -/
def State.powered (s : State) (vin : Nat) : State :=
  let t := s.cold true
  (t.setPwr { t.pwr with vin := vin, supply := 4, level := 4, eff := 4 }).setPins { t.pins with pres := true }

theorem exec_powerOn (hoff : s.pwr.on = false) (hlo : 5200 ≤ vin) (hhi : vin ≤ 8400) (hms : 10 ≤ ms) (htrip : s.pwr.tripped = true → vin < 8000) :
    exec (.powerOn vin ms) s = .next (s.powered vin).holdDies := by
  refine congrArg Host.Outcome.next (if_neg ?_)
  simp only [hoff, Bool.false_or, Bool.or_eq_true, Bool.and_eq_true, decide_eq_true_eq, not_or, not_and, Nat.not_lt, Nat.not_le]
  exact ⟨⟨⟨hlo, hhi⟩, hms⟩, htrip⟩

theorem powerOn_begins (hoff : s.pwr.on = false) (hlo : 5200 ≤ vin) (hhi : vin ≤ 8400) (hms : 10 ≤ ms) (htrip : s.pwr.tripped = true → vin < 8000) :
    ∃ t, exec (.powerOn vin ms) s = .next t ∧ t.pwr.on = true ∧ t.pwr.supply = 4 ∧ t.pwr.eff = 4 ∧ t.pwr.level = 4 ∧ t.pwr.vin = vin ∧
      t.pwr.tripped = false ∧ t.jobs = [] ∧ t.time = TimeSt.reset ∧ t.sec.stage = 0 ∧ t.sec.svn = s.sec.svn ∧ t.sec.flash = s.sec.flash ∧
      (∀ d, d < 24 → (t.dieAt d).st = 4) ∧ t.host = s.host := by
  have hpwr : (s.powered vin).holdDies.pwr = (s.powered vin).pwr := State.holdDies_keeps ((frees_pwr (· = (s.powered vin).pwr)).sub rfl) _ rfl
  have hsec : (s.powered vin).holdDies.sec = (s.powered vin).sec := State.holdDies_keeps ((frees_sec (· = (s.powered vin).sec)).sub rfl) _ rfl
  refine ⟨_, exec_powerOn hoff hlo hhi hms htrip, ?_⟩
  rw [hpwr, hsec]
  refine ⟨rfl, rfl, rfl, rfl, rfl, rfl, State.holdDies_keeps ((frees_jobs (· = [])).sub rfl) _ rfl,
    State.holdDies_keeps ((frees_time (· = TimeSt.reset)).sub rfl) _ rfl, rfl, rfl, rfl, fun d hd => ?_,
    State.holdDies_keeps ((frees_host (· = s.host)).sub rfl) _ rfl⟩
  rw [State.holdDies_dieAt _ hd]
  rfl

end

/-! ### The steps of the boot (R472, R486) -/

/-- A boot that has failed or is in recovery. -/
def State.bootStopped (s : State) : Bool := s.sec.recovery || s.sec.err != 0

def State.bootFlash (s : State) (a b : Option Image) : State :=
  s.sec! fun c => { c with flash := [a.orElse fun _ => c.flash.getD 0 none, b.orElse fun _ => c.flash.getD 1 none] }

def State.bootStep1 (s : State) : State := if s.bootStopped || decide (1 < s.sec.stage.toNat) then s else s.bootFuses
def State.bootStep3 (s : State) : State := if s.bootStopped || s.pins.modRst || s.sec.stage != 1 then s else s.bootMgmt
def State.bootStep4 (s : State) (micro train : Option Image) : State := if s.bootStopped || s.sec.stage != 3 then s else s.bootDies micro train
def State.bootStep5 (s : State) (failed : Option (Fin 48)) : State := if s.bootStopped || s.sec.stage != 4 then s else s.bootTrain failed
def State.bootStep6 (s : State) : State := if s.bootStopped || s.sec.stage != 5 then s else s.sec! fun c => { c with stage := 6, ready := true }

section
variable {s : State}

theorem exec_boot (hon : s.pwr.on = true) (a b micro train : Option Image) (x : Option (Fin 48)) : exec (.boot a b micro train x) s =
    .next (((((s.bootFlash a b).bootStep1.bootStep3).bootStep4 micro train).bootStep5 x).bootStep6) :=
  congrArg Host.Outcome.next (if_pos hon)

/-- A boot that has stopped, or is done, does no step. -/
theorem State.boot_rests (h : s.bootStopped = true ∨ s.sec.stage = 6) (micro train : Option Image) (x : Option (Fin 48)) :
    ((s.bootStep1.bootStep3.bootStep4 micro train).bootStep5 x).bootStep6 = s := by
  have h1 : s.bootStep1 = s := if_pos (by obtain h | h := h <;> simp [h])
  have h3 : s.bootStep3 = s := if_pos (by obtain h | h := h <;> simp [h])
  have h4 : s.bootStep4 micro train = s := if_pos (by obtain h | h := h <;> simp [h])
  have h5 : s.bootStep5 x = s := if_pos (by obtain h | h := h <;> simp [h])
  have h6 : s.bootStep6 = s := if_pos (by obtain h | h := h <;> simp [h])
  rw [h1, h3, h4, h5, h6]

theorem State.bootStep4_rests (h : s.bootStopped = true ∨ s.sec.stage ≠ 3) (micro train : Option Image) : s.bootStep4 micro train = s :=
  if_pos (by obtain h | h := h <;> simp_all)

theorem State.bootStep5_rests (h : s.bootStopped = true ∨ s.sec.stage ≠ 4) (x : Option (Fin 48)) : s.bootStep5 x = s :=
  if_pos (by obtain h | h := h <;> simp_all)

theorem State.bootStep6_rests (h : s.bootStopped = true ∨ s.sec.stage ≠ 5) : s.bootStep6 = s :=
  if_pos (by obtain h | h := h <;> simp_all)

end

/-- A boot under way at a step, neither failed nor in recovery nor done. -/
structure SecSt.Booting (c : SecSt) (stage : BitVec 4) : Prop where
  stage : c.stage = stage
  ready : c.ready = false
  recovery : c.recovery = false
  err : c.err = 0

section
variable {s : State} {c : SecSt}

theorem SecSt.Booting.not_stopped {k : BitVec 4} (h : c.Booting k) : (s.setSec c).bootStopped = false := by
  rw [State.bootStopped]
  change (c.recovery || c.err != 0) = false
  rw [h.recovery, h.err]
  rfl

theorem State.bootStep1_reads (h : c.Booting 0) : (s.setSec c).bootStep1 = (s.setSec c).bootFuses := by
  refine if_neg ?_
  rw [h.not_stopped]
  change ¬(false || decide (1 < c.stage.toNat)) = true
  rw [h.stage]
  decide

theorem State.bootStep3_loads (h : c.Booting 1) (hrst : s.pins.modRst = false) : (s.setSec c).bootStep3 = (s.setSec c).bootMgmt := by
  refine if_neg ?_
  rw [h.not_stopped]
  change ¬(false || s.pins.modRst || c.stage != 1) = true
  rw [h.stage, hrst]
  decide

theorem State.bootStep4_loads (h : c.Booting 3) (micro train : Option Image) : (s.setSec c).bootStep4 micro train = (s.setSec c).bootDies micro train := by
  refine if_neg ?_
  rw [h.not_stopped]
  change ¬(false || c.stage != 3) = true
  rw [h.stage]
  decide

theorem State.bootStep5_trains (h : c.Booting 4) (x : Option (Fin 48)) : (s.setSec c).bootStep5 x = (s.setSec c).bootTrain x := by
  refine if_neg ?_
  rw [h.not_stopped]
  change ¬(false || c.stage != 4) = true
  rw [h.stage]
  decide

theorem State.bootStep6_ready (h : c.Booting 5) : (s.setSec c).bootStep6 = s.setSec { c with stage := 6, ready := true } := by
  refine if_neg ?_
  rw [h.not_stopped]
  change ¬(false || c.stage != 5) = true
  rw [h.stage]
  decide

end

/-! ### Images at boot (R486) -/

/-- The slot a boot takes the management image from, and the image. -/
def SecSt.bootSlot (c : SecSt) : Option (Bool × Image) :=
  [c.preferred, !c.preferred].findSome? fun b => (c.good 1 (c.flash.getD (b2n b) none)).map fun i => (b, i)

section
variable {c : SecSt}

theorem SecSt.bootSlot_first (h : (c.good 1 (c.flash.getD (if c.preferred then 1 else 0) none)).isSome = true) :
    ∃ i, c.bootSlot = some (c.preferred, i) := by
  obtain ⟨i, hi⟩ := Option.isSome_iff_exists.mp h
  refine ⟨i, ?_⟩
  rw [SecSt.bootSlot, List.findSome?_cons, b2n, hi]
  rfl

theorem SecSt.bootSlot_some (h : (c.good 1 (c.flash.getD 0 none)).isSome = true ∨ (c.good 1 (c.flash.getD 1 none)).isSome = true) :
    ∃ b i, c.bootSlot = some (b, i) := by
  obtain ⟨p, hp⟩ : ∃ p, c.bootSlot = some p := Option.isSome_iff_exists.mp (by
    rw [SecSt.bootSlot, List.findSome?_isSome_iff]
    simp only [Option.isSome_map]
    cases hpref : c.preferred <;> obtain h | h := h
    · exact ⟨false, by simp, h⟩
    · exact ⟨true, by simp, h⟩
    · exact ⟨false, by simp, h⟩
    · exact ⟨true, by simp, h⟩)
  exact ⟨p.1, p.2, hp⟩

theorem SecSt.bootSlot_none (h0 : c.good 1 (c.flash.getD 0 none) = none) (h1 : c.good 1 (c.flash.getD 1 none) = none) : c.bootSlot = none := by
  refine List.findSome?_eq_none_iff.mpr fun b _ => ?_
  cases b with
  | false => exact congrArg _ h0
  | true => exact congrArg _ h1

end

section
variable {s : State} {c : SecSt}

theorem State.bootMgmt_slots : (if c.preferred then [true, false] else [false, true]) = [c.preferred, !c.preferred] := by
  cases c.preferred <;> rfl

/-- No slot holds a good management image: recovery. -/
theorem State.bootMgmt_none (h : c.bootSlot = none) : (s.setSec c).bootMgmt = s.setSec { c with recovery := true, err := 1 } := by
  rw [State.bootMgmt, State.setSec_sec, State.bootMgmt_slots]
  rw [SecSt.bootSlot] at h
  rw [h]
  rfl

theorem State.bootMgmt_some {b : Bool} {i : Image} (h : c.bootSlot = some (b, i)) : (s.setSec c).bootMgmt = s.setSec { c with
    stage := 3, slot := b, mgmtVersion := imgVersion i, mgmtSvn := BitVec.ofNat 8 (imgSvn i), runSvn := setAt c.runSvn 0 (imgSvn i)
    meas := modAt c.meas 1 fun m => extendM m (imgDigest i) } := by
  rw [State.bootMgmt, State.setSec_sec, State.bootMgmt_slots]
  rw [SecSt.bootSlot] at h
  rw [h]
  rfl

theorem State.bootDies_bad {micro train : Option Image} (h : c.good 2 micro = none ∨ c.good 3 train = none) :
    (s.setSec c).bootDies micro train = s.setSec { c with err := 2 } := by
  rw [State.bootDies, State.setSec_sec]
  split
  · next hm ht => simp_all
  · rfl

theorem State.bootDies_good {micro train : Option Image} {m k : Image} (hm : c.good 2 micro = some m) (hk : c.good 3 train = some k) :
    (s.setSec c).bootDies micro train = s.setSec { c with
      stage := 4, microVersion := imgVersion m, microDigest := imgDigest m, runSvn := setAt (setAt c.runSvn 1 (imgSvn m)) 2 (imgSvn k)
      meas := modAt (modAt c.meas 2 fun x => extendM x (imgDigest m)) 3 fun x => extendM x (imgDigest k) } := by
  rw [State.bootDies, State.setSec_sec, hm, hk]
  rfl

end

/-! ### Devices and microcode (R472, R486) -/

/-- The devices as training leaves them. -/
def State.trained (s : State) (failed : Option (Fin 48)) : State :=
  (List.range 48).foldl (fun s i => s.updDev i fun d => { d with trained := failed.map (·.val) != some i, selfRefresh := false }) s

/-- The microcode on every compute die. -/
def State.microcoded (s : State) : State :=
  (List.range 24).foldl (fun s d => s.updDie d fun q => { q with fwVer := s.sec.microVersion, fwDigest := s.sec.microDigest, fwOk := true }) s

section
variable (s : State) (x : Option (Fin 48))

theorem State.trained_keeps {P : State → Prop} (hw : Frees P 0x2000000) (hs : P s) : P (s.trained x) :=
  Keep.foldl (fun t i ht => State.updDev_keeps hw t i _ ht) hs

theorem State.microcoded_keeps {P : State → Prop} (hw : Frees P 0x2000000000) (hs : P s) : P s.microcoded :=
  Keep.foldl (fun t i ht => State.updDie_keeps hw t i _ ht) hs

theorem State.trained_sec : (s.trained x).sec = s.sec := s.trained_keeps x ((frees_sec (· = s.sec)).sub rfl) rfl

theorem State.trained_dies : (s.trained x).dies = s.dies := s.trained_keeps x ((frees_dies (· = s.dies)).sub rfl) rfl

theorem State.trained_mem : (s.trained x).mem = s.mem := s.trained_keeps x ((frees_mem (· = s.mem)).sub rfl) rfl

theorem State.microcoded_sec : s.microcoded.sec = s.sec := s.microcoded_keeps ((frees_sec (· = s.sec)).sub rfl) rfl

theorem State.microcoded_devs : s.microcoded.devs = s.devs := s.microcoded_keeps ((frees_devs (· = s.devs)).sub rfl) rfl

theorem State.microcoded_mem : s.microcoded.mem = s.mem := s.microcoded_keeps ((frees_mem (· = s.mem)).sub rfl) rfl

theorem State.dieAt_setSec (c : SecSt) (d : Nat) : (s.setSec c).dieAt d = s.dieAt d := rfl

theorem State.devAt_setSec (c : SecSt) (i : Nat) : (s.setSec c).devAt i = s.devAt i := rfl

theorem State.trained_devAt {i : Nat} (hi : i < 48) :
    (s.trained x).devAt i = { s.devAt i with trained := x.map (·.val) != some i, selfRefresh := false } :=
  (foldl_entries State.devAt (fun s i => s.updDev i fun d => { d with trained := x.map (·.val) != some i, selfRefresh := false })
    (fun i d => { d with trained := x.map (·.val) != some i, selfRefresh := false })
    (fun s i k => s.devAt_updDev i k _) (List.nodup_range (n := 48)) s i).trans (if_pos (List.mem_range.mpr hi))

theorem State.microcoded_dieAt {d : Nat} (hd : d < 24) :
    s.microcoded.dieAt d = { s.dieAt d with fwVer := s.sec.microVersion, fwDigest := s.sec.microDigest, fwOk := true } := by
  refine (foldl_entries_inv (fun t => t.sec = s.sec) State.dieAt _
    (fun _ q => { q with fwVer := s.sec.microVersion, fwDigest := s.sec.microDigest, fwOk := true })
    (fun t i ht => State.updDie_keeps ((frees_sec (· = s.sec)).sub rfl) t i _ ht) (fun i _ t k ht => ?_) (List.nodup_range (n := 24)) rfl d).trans
    (if_pos (List.mem_range.mpr hd))
  rw [State.dieAt_updDie, ht]

theorem State.bootTrain_off (h : 4 ≤ s.pwr.eff) : s.bootTrain x = s := if_pos h

theorem State.bootTrain_failed (h : ¬ 4 ≤ s.pwr.eff) (d : Fin 48) :
    s.bootTrain (some d) = (s.trained (some d)).sec! fun c => { c with err := 3, dev := BitVec.ofNat 6 d.val } := if_neg h

theorem State.bootTrain_devices (h : s.pwr.eff = 3) : s.bootTrain none = s.trained none :=
  (if_neg (by omega)).trans (if_pos (Nat.le_of_eq h.symm))

theorem State.bootTrain_dies (h : s.pwr.eff < 3) : s.bootTrain none = (s.trained none).microcoded.sec! fun c => { c with stage := 5 } :=
  (if_neg (by omega)).trans (if_neg (by omega))

end

/-! ### The boot from its start -/

section
variable {s : State} {a b : Option Image} (hstage : s.sec.stage = 0) (hready : s.sec.ready = false) (hrec : s.sec.recovery = false) (herr : s.sec.err = 0)
include hstage hready hrec herr

/-- The fuses are read. -/
theorem State.boot_fuses : ∃ c, (s.bootFlash a b).bootStep1 = s.setSec c ∧ c.Booting 1 ∧ c.preferred = s.sec.preferred ∧
    c.flash = [a.orElse fun _ => s.sec.flash.getD 0 none, b.orElse fun _ => s.sec.flash.getD 1 none] ∧ (∀ ty i, c.good ty i = s.sec.good ty i) :=
  ⟨_, State.bootStep1_reads ⟨hstage, hready, hrec, herr⟩, ⟨rfl, hready, hrec, herr⟩, rfl, rfl, fun _ _ => rfl⟩

/-- The management image is loaded. -/
theorem State.boot_mgmt (hrst : s.pins.modRst = false)
    (hgood : (s.sec.good 1 (a.orElse fun _ => s.sec.flash.getD 0 none)).isSome = true ∨ (s.sec.good 1 (b.orElse fun _ => s.sec.flash.getD 1 none)).isSome = true) :
    ∃ c, (s.bootFlash a b).bootStep1.bootStep3 = s.setSec c ∧ c.Booting 3 ∧ (∀ ty i, c.good ty i = s.sec.good ty i) ∧
      ((s.sec.good 1 ([a.orElse fun _ => s.sec.flash.getD 0 none, b.orElse fun _ => s.sec.flash.getD 1 none].getD (if s.sec.preferred then 1 else 0) none)).isSome =
        true → c.slot = s.sec.preferred) := by
  obtain ⟨c, hc, hboot, hpref, hflash, hsame⟩ := State.boot_fuses (a := a) (b := b) hstage hready hrec herr
  have hany : (c.good 1 (c.flash.getD 0 none)).isSome = true ∨ (c.good 1 (c.flash.getD 1 none)).isSome = true := by
    rw [hflash, hsame, hsame]
    exact hgood
  obtain ⟨slot, i, hslot⟩ := SecSt.bootSlot_some hany
  refine ⟨_, (congrArg State.bootStep3 hc).trans ((State.bootStep3_loads hboot hrst).trans (State.bootMgmt_some hslot)),
    ⟨rfl, hboot.ready, hboot.recovery, hboot.err⟩, hsame, fun hfirst => ?_⟩
  rw [← hflash, ← hpref, ← hsame] at hfirst
  obtain ⟨k, hk⟩ := SecSt.bootSlot_first hfirst
  rw [hslot] at hk
  exact (congrArg Prod.fst (Option.some.inj hk)).trans hpref

/-- The die images are loaded: the boot stands before the training of the devices. -/
theorem State.boot_dies (hrst : s.pins.modRst = false)
    (hgood : (s.sec.good 1 (a.orElse fun _ => s.sec.flash.getD 0 none)).isSome = true ∨ (s.sec.good 1 (b.orElse fun _ => s.sec.flash.getD 1 none)).isSome = true)
    {micro train : Option Image} {m k : Image} (hm : s.sec.good 2 micro = some m) (hk : s.sec.good 3 train = some k) :
    ∃ c, (s.bootFlash a b).bootStep1.bootStep3.bootStep4 micro train = s.setSec c ∧ c.Booting 4 ∧ c.microVersion = imgVersion m ∧
      ((s.sec.good 1 ([a.orElse fun _ => s.sec.flash.getD 0 none, b.orElse fun _ => s.sec.flash.getD 1 none].getD (if s.sec.preferred then 1 else 0) none)).isSome =
        true → c.slot = s.sec.preferred) := by
  obtain ⟨c, hc, hboot, hsame, hslot⟩ := State.boot_mgmt hstage hready hrec herr hrst hgood
  rw [hc, State.bootStep4_loads hboot micro train, State.bootDies_good ((hsame 2 micro).trans hm) ((hsame 3 train).trans hk)]
  exact ⟨_, rfl, ⟨rfl, hboot.ready, hboot.recovery, hboot.err⟩, rfl, hslot⟩

end

end Sys2Proof.Machine

namespace Sys2Proof
open Machine

/-- What the supply does at each of its thresholds. -/
theorem supply_effects (s : State) :
    (∀ vin ms, s.pwr.on = false → 5200 ≤ vin → vin ≤ 8400 → 10 ≤ ms → (s.pwr.tripped = true → vin < 8000) →
      ∃ t, exec (.powerOn vin ms) s = .next t ∧ t.pwr.on = true ∧ t.pwr.supply = 4 ∧ t.pwr.eff = 4 ∧ t.pwr.level = 4 ∧ t.pwr.vin = vin ∧
        t.pwr.tripped = false ∧ t.jobs = [] ∧ t.time = TimeSt.reset ∧ t.sec.stage = 0 ∧ t.sec.svn = s.sec.svn ∧ t.sec.flash = s.sec.flash ∧
        (∀ d, d < 24 → (t.dieAt d).st = 4) ∧ t.host = s.host) ∧
    (∀ vin ms, (s.pwr.on = true ∨ vin < 5200 ∨ 8400 < vin ∨ ms < 10 ∨ (s.pwr.tripped = true ∧ 8000 ≤ vin)) → exec (.powerOn vin ms) s = .next s) ∧
    (∀ v, v ≤ 8400 → exec (.overvoltageTrip v) s = .next s) ∧
    (∀ v, 8400 < v → v ≤ 10000 → ∃ t, exec (.overvoltageTrip v) s = .next t ∧ s.IsOff t ∧ t.pwr.tripped = true) ∧
    (∀ v, 10000 < v → exec (.overvoltageTrip v) s = .fault .absoluteMaximum) ∧
    (∃ t, exec .presBreak s = .next t ∧ s.IsOff t ∧ t.pins.pres = false) ∧ (∃ t, exec .vinRemoved s = .next t ∧ s.IsOff t) := by
  refine ⟨fun vin ms hoff hlo hhi hms htrip => powerOn_begins hoff hlo hhi hms htrip, fun vin ms h => exec_powerOn_rests h, fun v hv => ?_,
    fun v hlo hhi => ⟨s.powerOff.setPwr { s.powerOff.pwr with tripped := true }, ?_, s.powerOff_isOff (q := s.powerOff.pins) rfl rfl rfl, rfl⟩,
    fun v hv => if_pos hv, ⟨_, rfl, s.powerOff_isOff (p := s.powerOff.pwr) rfl rfl rfl, rfl⟩,
    ⟨_, rfl, s.powerOff_isOff (p := s.powerOff.pwr) (q := s.powerOff.pins) rfl rfl rfl⟩⟩
  · exact (if_neg (by omega)).trans (if_pos hv)
  · exact (if_neg (by omega)).trans (if_neg (by omega))

/-- Settles O51: the supply by its thresholds, the boot step by step from where it stands. -/
theorem supplyAndBoot : Obligations.supply_and_boot := by
  refine ⟨supply_effects, ?_⟩
  intro a b micro train s hon f first good
  refine ⟨fun x h => ?_, fun hstage hready hrec herr => ⟨fun x hrst => ?_, fun x hrst h0 h1 => ?_, fun x hrst hgood hbad => ?_,
    fun x hrst hgood hm hk heff => ?_, fun hrst hgood hm hk heff => ?_, fun m k hrst hfirst hm hk heff => ?_⟩⟩
  · have hrests : (s.bootFlash a b).bootStopped = true ∨ (s.bootFlash a b).sec.stage = 6 := by
      obtain h | h | h := h
      · exact .inl (by rw [State.bootStopped, show (s.bootFlash a b).sec.recovery = true from h]; rfl)
      · exact .inl (by rw [State.bootStopped, show ((s.bootFlash a b).sec.err != 0) = true from bne_iff_ne.mpr h, Bool.or_true])
      · exact .inr h
    rw [exec_boot hon, State.boot_rests hrests]
    rfl
  · obtain ⟨c, hc, hboot, -, -, -⟩ := State.boot_fuses (a := a) (b := b) hstage hready hrec herr
    have h3 : (s.setSec c).bootStep3 = s.setSec c := if_pos (by simp [hrst])
    rw [exec_boot hon, hc, h3, State.bootStep4_rests (.inr (by rw [State.setSec_sec, hboot.stage]; decide)),
      State.bootStep5_rests (.inr (by rw [State.setSec_sec, hboot.stage]; decide)), State.bootStep6_rests (.inr (by rw [State.setSec_sec, hboot.stage]; decide))]
    exact ⟨_, rfl, hboot.stage, hboot.ready, hboot.recovery, rfl, rfl⟩
  · obtain ⟨c, hc, hboot, -, hflash, hsame⟩ := State.boot_fuses (a := a) (b := b) hstage hready hrec herr
    have hnone (i : Nat) (h : good i = false) : c.good 1 (c.flash.getD i none) = none := by
      rw [hflash, hsame]
      exact Option.isNone_iff_eq_none.mp (Option.isSome_eq_false_iff.mp h)
    have hstop : (s.setSec { c with recovery := true, err := 1 }).bootStopped = true := rfl
    rw [exec_boot hon, hc, State.bootStep3_loads hboot hrst, State.bootMgmt_none (SecSt.bootSlot_none (hnone 0 h0) (hnone 1 h1)), State.bootStep4_rests (.inl hstop),
      State.bootStep5_rests (.inl hstop), State.bootStep6_rests (.inl hstop)]
    exact ⟨_, rfl, rfl, rfl, hboot.ready, rfl, rfl⟩
  · obtain ⟨c, hc, hboot, hsame, -⟩ := State.boot_mgmt (a := a) (b := b) hstage hready hrec herr hrst hgood
    have hbadc : c.good 2 micro = none ∨ c.good 3 train = none := by
      rw [hsame, hsame]
      exact hbad
    have hstop : (s.setSec { c with err := 2 }).bootStopped = true := Bool.or_true _
    rw [exec_boot hon, hc, State.bootStep4_loads hboot, State.bootDies_bad hbadc, State.bootStep5_rests (.inl hstop), State.bootStep6_rests (.inl hstop)]
    exact ⟨_, rfl, rfl, hboot.stage, hboot.ready, rfl⟩
  · obtain ⟨m, hm⟩ := Option.ne_none_iff_exists'.mp hm
    obtain ⟨k, hk⟩ := Option.ne_none_iff_exists'.mp hk
    obtain ⟨c, hc, hboot, -, -⟩ := State.boot_dies (a := a) (b := b) hstage hready hrec herr hrst hgood hm hk
    rw [exec_boot hon, hc, State.bootStep5_trains hboot, State.bootTrain_off (s.setSec c) x heff, State.bootStep6_rests (.inr (by rw [State.setSec_sec, hboot.stage]; decide))]
    exact ⟨_, rfl, hboot.stage, hboot.err, hboot.ready, rfl, rfl⟩
  · obtain ⟨m, hm⟩ := Option.ne_none_iff_exists'.mp hm
    obtain ⟨k, hk⟩ := Option.ne_none_iff_exists'.mp hk
    obtain ⟨c, hc, hboot, -, -⟩ := State.boot_dies (a := a) (b := b) hstage hready hrec herr hrst hgood hm hk
    have hsec : ((s.setSec c).trained none).sec = c := State.trained_sec _ _
    rw [exec_boot hon, hc, State.bootStep5_trains hboot, State.bootTrain_devices (s.setSec c) heff, State.bootStep6_rests (.inr (by rw [hsec, hboot.stage]; decide))]
    refine ⟨_, rfl, ?_, ?_, ?_, State.trained_dies _ _, fun i hi => ?_⟩
    · rw [hsec, hboot.stage]
    · rw [hsec, hboot.err]
    · rw [hsec, hboot.ready]
    · rw [State.trained_devAt _ _ hi]
      rfl
  · have hgood : good 0 = true ∨ good 1 = true := by
      cases hp : s.sec.preferred with
      | false => exact .inl (by simpa only [first, hp, Bool.false_eq_true, if_false, if_true] using hfirst)
      | true => exact .inr (by simpa only [first, hp, Bool.false_eq_true, if_false, if_true] using hfirst)
    obtain ⟨c, hc, hboot, hver, hslot⟩ := State.boot_dies (a := a) (b := b) hstage hready hrec herr hrst hgood hm hk
    refine ⟨?_, fun x => ?_⟩
    · have hready : SecSt.Booting { c with stage := 5 } 5 := ⟨rfl, hboot.ready, hboot.recovery, hboot.err⟩
      rw [exec_boot hon, hc, State.bootStep5_trains hboot, State.bootTrain_dies (s.setSec c) heff, State.sec!, State.microcoded_sec,
        State.trained_sec, State.setSec_sec, State.bootStep6_ready hready]
      refine ⟨_, rfl, rfl, rfl, hboot.err, hslot hfirst, hver, fun d hd => ?_, fun i hi => ?_, ?_⟩
      · rw [State.dieAt_setSec, State.microcoded_dieAt _ hd, State.trained_sec, State.setSec_sec]
        exact ⟨hver, rfl⟩
      · rw [State.devAt_setSec, State.devAt_congr (State.microcoded_devs _), State.trained_devAt _ _ hi]
        exact ⟨rfl, rfl⟩
      · rw [State.setSec_mem, State.microcoded_mem, State.trained_mem, State.setSec_mem]
    · have hstop (u : State) : (u.setSec { c with err := 3, dev := BitVec.ofNat 6 x.val }).bootStopped = true := Bool.or_true _
      have heff4 : ¬4 ≤ (s.setSec c).pwr.eff := not_le.mpr (Nat.lt_trans heff (by decide))
      rw [exec_boot hon, hc, State.bootStep5_trains hboot, State.bootTrain_failed _ heff4, State.sec!, State.trained_sec, State.setSec_sec,
        State.bootStep6_rests (.inl (hstop _))]
      have hdev : (BitVec.ofNat 6 x.val).toNat = x.val := by
        rw [BitVec.toNat_ofNat]
        exact Nat.mod_eq_of_lt (Nat.lt_trans x.isLt (by decide))
      refine ⟨_, rfl, rfl, hdev, hboot.ready, ?_, by rw [State.setSec_dies, State.trained_dies, State.setSec_dies]⟩
      rw [State.devAt_setSec, State.trained_devAt _ _ x.isLt]
      exact bne_self_eq_false _

end Sys2Proof
end

section
/-! PROOF. The shed ladder (R474, R475, R477 to R480); O52. -/

namespace Sys2Proof.Machine

/-! ### The reset of a die (R482, R484) -/

theorem tabGet_without {α : Type} (d : α) (t : Tab α) (p : Nat → Bool) (x : Nat) : tabGet d (without t p) x = if p x then d else tabGet d t x := by
  induction t with
  | nil => rw [without, List.filter_nil, tabGet, ite_self]
  | cons e t ih =>
    obtain ⟨k, v⟩ := e
    rw [without] at ih ⊢
    by_cases hk : p k = true
    · rw [List.filter_cons_of_neg (by simp [hk]), ih, tabGet]
      by_cases hx : x = k
      · rw [hx, if_pos hk, if_pos hk]
      · rw [if_neg hx]
    · rw [List.filter_cons_of_pos (by simp [hk]), tabGet, tabGet, ih]
      by_cases hx : x = k
      · rw [if_pos hx, hx, if_neg hk, if_pos rfl]
      · rw [if_neg hx, if_neg hx]

/-- What RESET clears, before the die's own registers. -/
def State.clearDie (s : State) (d : Nat) : State :=
  let s0 := s.dropXlateUnit d
  let s1 := if d < 24 then s0.clearCompute d else s0
  let s2 : State := { s1 with syncs := without s1.syncs fun k => d < 28 && homeOf k == d }
  let s3 := s2.setTrace d .reset
  if d = 28 ∨ d = 29 then [0, 2, 4].foldl (fun s p => s.updPort (p + (d - 28)) fun q => { NlPort.reset with cable := q.cable }) s3
  else if d = 31 then
    let t := [2, 3].foldl (fun (s : State) c => s.setCxl c .reset) s3
    (List.range 16).foldl (fun s f => s.setCtx (16 + f) (.resetAt (16 + f))) (t.setHp 1 (.resetAt 1))
  else if 24 ≤ d && d < 28 then
    (List.range 12).foldl (fun s c => s.updDev (12 * (d - 24) + c) fun v => { DevSt.reset with trained := v.trained, devFault := v.devFault, selfRefresh := v.selfRefresh }) s3
  else s3

/-- The registers a die keeps through RESET, with the microcode that RESET loads. -/
def DieSt.reloaded (c : SecSt) (d : Nat) (staged : Bool) (q : DieSt) : DieSt :=
  { q with
    epoch := q.epoch + 1, posted := false, staged := false, fwOk := d < 24
    fwVer := if d < 24 then (match staged, c.stagedDie with | true, some i => BitVec.ofNat 32 (bits i.hdr 64 32) | _, _ => c.microVersion) else q.fwVer
    fwDigest := if d < 24 then (match staged, c.stagedDie with | true, some i => BitVec.ofNat 512 (bits i.hdr 192 512) | _, _ => c.microDigest) else q.fwDigest }

section
variable (s : State) (d : Nat) (staged : Bool)

theorem State.resetDie_eq : s.resetDie d staged = (s.clearDie d).updDie d (DieSt.reloaded s.sec d staged) := rfl

/-- Of a compute die RESET clears no port, context or device. -/
theorem State.clearDie_compute (hd : d < 24) : s.clearDie d =
    ({ (s.dropXlateUnit d).clearCompute d with syncs := without ((s.dropXlateUnit d).clearCompute d).syncs fun k => d < 28 && homeOf k == d } : State).setTrace d .reset := by
  rw [State.clearDie]
  dsimp only
  rw [if_pos hd, if_neg (by omega), if_neg (by omega), if_neg (by simp; omega)]

/-- Nothing RESET clears stands in the dies' registers. -/
theorem State.clearDie_dies : (s.clearDie d).dies = s.dies := by
  have hcores : (if d < 24 then (s.dropXlateUnit d).clearCompute d else s.dropXlateUnit d).dies = s.dies := by split <;> rfl
  have hsyncs (u : State) (l : Tab SyncObj) (hu : u.dies = s.dies) : (({ u with syncs := l } : State).setTrace d .reset).dies = s.dies := hu
  have hbefore := hsyncs _ (without (if d < 24 then (s.dropXlateUnit d).clearCompute d else s.dropXlateUnit d).syncs fun k => d < 28 && homeOf k == d) hcores
  have frees := frees_dies (· = s.dies)
  rw [State.clearDie]
  dsimp only
  split
  · exact Keep.foldl (P := fun t => t.dies = s.dies) (fun t p ht => State.updPort_keeps (frees.sub rfl) t _ _ ht) hbefore
  · split
    · refine Keep.foldl (P := fun t => t.dies = s.dies) (fun t f ht => State.setCtx_keeps (frees.sub rfl) t _ _ ht) (State.setHp_keeps (frees.sub rfl) _ _ _ ?_)
      exact Keep.foldl (P := fun t => t.dies = s.dies) (fun t c ht => State.setCxl_keeps (frees.sub rfl) t _ _ ht) hbefore
    · split
      · exact Keep.foldl (P := fun t => t.dies = s.dies) (fun t c ht => State.updDev_keeps (frees.sub rfl) t _ _ ht) hbefore
      · exact hbefore

theorem State.resetDie_dieAt (k : Nat) :
    (s.resetDie d staged).dieAt k = if k = d then DieSt.reloaded s.sec d staged (s.dieAt k) else s.dieAt k := by
  rw [State.resetDie_eq, State.dieAt_updDie, State.dieAt, s.clearDie_dies d]
  rfl

theorem State.resetDie_unit (hd : d < 24) (x : Nat) : (s.resetDie d staged).unit x = if x / 16 = d then .reset else s.unit x := by
  have hunits : (s.resetDie d staged).units = without s.units fun x => x / 16 == d := by
    rw [State.resetDie_eq, s.clearDie_compute d hd]
    rfl
  rw [State.unit, hunits, tabGet_without]
  exact if_congr beq_iff_eq rfl rfl

theorem State.rejoinDie_dieAt (k : Nat) : (s.rejoinDie d).dieAt k =
    if k = d then { s.dieAt k with st := 0, ladder := false, posted := false } else s.dieAt k := by
  have hdies : (s.rejoinDie d).dies = (s.updDie d fun q => { q with st := 0, ladder := false, posted := false }).dies :=
    State.fencedEvent_keeps ((frees_dies (· = _)).sub rfl) _ _ _ _ rfl
  rw [State.dieAt, hdies]
  exact s.dieAt_updDie d k _

theorem State.rejoinDie_units : (s.rejoinDie d).units = s.units := State.rejoinDie_keeps ((frees_units (· = s.units)).sub rfl) s d rfl

end

/-! ### The levels rise (R474, R475, R479) -/

def PowerSt.risenSupply (p : PowerSt) : Nat := risen p.supply p.supIn false
def PowerSt.risenThermal (p : PowerSt) : Nat := risen p.thermal p.thIn true

/-- The module's level once the supply, the thermal level and the floor have been looked at. -/
def PowerSt.risenLevel (p : PowerSt) : Nat := max p.level (max p.risenSupply (max p.risenThermal p.floor))

/-- The new levels, their events and their counts. -/
def State.postLevels (s : State) : State :=
  let p := s.pwr
  let s1 := s.setPwr { p with supply := p.risenSupply, thermal := p.risenThermal }
  let s2 := if p.risenSupply = p.supply then s1 else (s1.supplyEvent p.risenSupply p.supply).countEntries 6 p.supply p.risenSupply
  if p.risenThermal = p.thermal then s2 else (s2.thermalEvent p.risenThermal p.thermal).countEntries 11 p.thermal p.risenThermal

/-- The state the ladder is entered in. -/
def State.raised (s : State) : State :=
  let p := s.pwr
  let same := decide (p.risenSupply = p.supply) && decide (p.risenThermal = p.thermal)
  s.postLevels.setPwr { s.postLevels.pwr with
    level := max p.level s.postLevels.pwr.target, supOut := if same then p.supOut else 0, thOut := if same then p.thOut else 0 }

section
variable (s : State)

theorem State.postLevels_keeps {P : State → Prop} (hw : Frees P 0x500000004)
    (hs : P (s.setPwr { s.pwr with supply := s.pwr.risenSupply, thermal := s.pwr.risenThermal })) : P s.postLevels := by
  have hsupply : P (if s.pwr.risenSupply = s.pwr.supply then s.setPwr { s.pwr with supply := s.pwr.risenSupply, thermal := s.pwr.risenThermal }
      else ((s.setPwr { s.pwr with supply := s.pwr.risenSupply, thermal := s.pwr.risenThermal }).supplyEvent s.pwr.risenSupply s.pwr.supply).countEntries 6
        s.pwr.supply s.pwr.risenSupply) := by
    split
    · exact hs
    · exact State.countEntries_keeps (hw.sub rfl) _ _ _ _ (State.supplyEvent_keeps (hw.sub rfl) _ _ _ hs)
  unfold State.postLevels
  dsimp only
  split
  · exact hsupply
  · exact State.countEntries_keeps (hw.sub rfl) _ _ _ _ (State.thermalEvent_keeps (hw.sub rfl) _ _ _ hsupply)

theorem State.raised_pwr : ∃ so th, s.raised.pwr = { s.pwr with
    supply := s.pwr.risenSupply, thermal := s.pwr.risenThermal, level := s.pwr.risenLevel, supOut := so, thOut := th } := by
  have hpost : s.postLevels.pwr = { s.pwr with supply := s.pwr.risenSupply, thermal := s.pwr.risenThermal } :=
    s.postLevels_keeps ((frees_pwr (· = { s.pwr with supply := s.pwr.risenSupply, thermal := s.pwr.risenThermal })).sub rfl) rfl
  refine ⟨s.raised.pwr.supOut, s.raised.pwr.thOut, ?_⟩
  rw [State.raised, State.setPwr_pwr, hpost]
  rfl

theorem State.raised_keeps {P : State → Prop} (hw : Frees P 0x1500000004) (hs : P s) : P s.raised :=
  State.setPwr_keeps (hw.sub rfl) _ _ (s.postLevels_keeps (hw.sub rfl) (State.setPwr_keeps (hw.sub rfl) s _ hs))

variable {s} (hon : s.pwr.on = true)
include hon

theorem exec_shedEntry_between (h : s.time.phase ≠ 0) : exec .shedEntry s = .next s := congrArg Host.Outcome.next ((if_pos hon).trans (if_pos h))

theorem exec_shedEntry (h : s.time.phase = 0) : exec .shedEntry s = .next s.raised.shed :=
  congrArg Host.Outcome.next ((if_pos hon).trans (if_neg (not_not_intro h)))

end

/-! ### Down the ladder (R475, R478) -/

section
variable (s : State)

theorem State.finishL3_pwr : s.finishL3.pwr = { s.pwr with acting := false, supOut := 0, thOut := 0 } := by
  have hheld : ((List.range 24).foldl (fun s d => s.fencedEvent d 0 fun _ => true) s.holdDies).pwr = s.pwr :=
    Keep.foldl (P := fun t => t.pwr = s.pwr) (fun t d ht => State.fencedEvent_keeps ((frees_pwr (· = s.pwr)).sub rfl) t d _ _ ht)
      (State.holdDies_keeps ((frees_pwr (· = s.pwr)).sub rfl) s rfl)
  rw [State.finishL3, State.setPwr_pwr, hheld]

theorem State.enterL3_pwr : s.enterL3.pwr = { s.pwr with eff := 3, acting := true } := by
  have hdump : s.dropDumps.pwr = s.pwr := State.dropDumps_keeps ((frees_pwr (· = s.pwr)).sub rfl) s rfl
  rw [State.enterL3, State.setPwr_pwr, hdump]

theorem State.enterL1_pwr : (s.enterL1.setPwr { s.enterL1.pwr with eff := 1, supOut := 0, thOut := 0 }).pwr =
    { s.pwr with eff := 1, supOut := 0, thOut := 0 } := by
  have hp : s.enterL1.pwr = s.pwr := State.enterL1_keeps ((frees_pwr (· = s.pwr)).sub rfl) s rfl
  rw [State.setPwr_pwr, hp]

theorem State.enterL4_pwr : (s.enterL4.setPwr { s.enterL4.pwr with eff := 4, supOut := 0, thOut := 0 }).pwr =
    { s.pwr with eff := 4, supOut := 0, thOut := 0 } := by
  have hp : s.enterL4.pwr = s.pwr := State.enterL4_keeps ((frees_pwr (· = s.pwr)).sub rfl) s rfl
  rw [State.setPwr_pwr, hp]

/-- The ladder leaves the levels and never leaves the level it has entered. -/
theorem State.descend_levels (n : Nat) (h : s.pwr.level < 5) : s.pwr.eff ≤ (s.descend n).pwr.eff ∧ (s.descend n).pwr.supply = s.pwr.supply ∧
    (s.descend n).pwr.thermal = s.pwr.thermal ∧ (s.descend n).pwr.level = s.pwr.level := by
  induction n generalizing s with
  | zero => exact ⟨le_rfl, rfl, rfl, rfl⟩
  | succ n ih =>
    have step {t : State} {q : PowerSt} (ht : t.pwr = q) (heff : s.pwr.eff ≤ q.eff) (hsup : q.supply = s.pwr.supply)
        (hth : q.thermal = s.pwr.thermal) (hlevel : q.level = s.pwr.level) : s.pwr.eff ≤ (t.descend n).pwr.eff ∧
        (t.descend n).pwr.supply = s.pwr.supply ∧ (t.descend n).pwr.thermal = s.pwr.thermal ∧ (t.descend n).pwr.level = s.pwr.level := by
      subst ht
      obtain ⟨he, hs, ht, hl⟩ := ih t (hlevel ▸ h)
      exact ⟨heff.trans he, hs.trans hsup, ht.trans hth, hl.trans hlevel⟩
    unfold State.descend
    dsimp only
    split
    · split
      · exact ⟨le_rfl, rfl, rfl, rfl⟩
      · exact step s.finishL3_pwr le_rfl rfl rfl rfl
    split
    · exact ⟨le_rfl, rfl, rfl, rfl⟩
    next hlow =>
    split
    · next h0 => exact step s.enterL1_pwr (by rw [h0]; exact Nat.zero_le _) rfl rfl rfl
    split
    · next h1 => exact step (State.setPwr_pwr _ _) (by rw [h1]; exact Nat.le_succ 1) rfl rfl rfl
    split
    · next h2 => exact step s.enterL3_pwr (by rw [h2]; exact Nat.le_succ 2) rfl rfl rfl
    · exact step s.enterL4_pwr (by change s.pwr.eff ≤ 4; omega) rfl rfl rfl

/-- To L2 at most, the ladder goes at once and takes no job and no byte of memory. -/
theorem State.descend_low (n : Nat) (hact : s.pwr.acting = false) (hlevel : s.pwr.level ≤ 2) (hn : s.pwr.level ≤ s.pwr.eff + n) :
    (s.descend n).pwr.eff = max s.pwr.eff s.pwr.level ∧ (s.descend n).jobs = s.jobs ∧ (s.descend n).mem = s.mem := by
  induction n generalizing s with
  | zero => exact ⟨(max_eq_left hn).symm, rfl, rfl⟩
  | succ n ih =>
    have step {t : State} {q : PowerSt} (ht : t.pwr = q) (hq : q.acting = s.pwr.acting ∧ q.level = s.pwr.level) (heff : q.eff = s.pwr.eff + 1)
        (hlt : s.pwr.eff < s.pwr.level) (hjobs : t.jobs = s.jobs) (hmem : t.mem = s.mem) :
        (t.descend n).pwr.eff = max s.pwr.eff s.pwr.level ∧ (t.descend n).jobs = s.jobs ∧ (t.descend n).mem = s.mem := by
      subst ht
      obtain ⟨hqact, hqlevel⟩ := hq
      obtain ⟨he, hj, hm⟩ := ih t (hqact.trans hact) (hqlevel ▸ hlevel) (by rw [hqlevel, heff]; omega)
      exact ⟨by rw [he, hqlevel, heff]; omega, hj.trans hjobs, hm.trans hmem⟩
    unfold State.descend
    dsimp only
    split
    · next h => exact absurd (hact ▸ h) Bool.false_ne_true
    split
    · next hle => exact ⟨(max_eq_left hle).symm, rfl, rfl⟩
    next hlow =>
    split
    · next h0 =>
      have hjobs : s.enterL1.jobs = s.jobs := State.enterL1_keeps ((frees_jobs (· = s.jobs)).sub rfl) s rfl
      have hmem : s.enterL1.mem = s.mem := State.enterL1_keeps ((frees_mem (· = s.mem)).sub rfl) s rfl
      exact step s.enterL1_pwr ⟨rfl, rfl⟩ (by rw [h0]) (Nat.lt_of_not_le hlow) (by rw [State.setPwr_jobs, hjobs]) (by rw [State.setPwr_mem, hmem])
    split
    · next h1 => exact step (State.setPwr_pwr _ _) ⟨rfl, rfl⟩ (by rw [h1]) (Nat.lt_of_not_le hlow) rfl rfl
    · omega

end

/-! ### Recovery (R477, R478) -/

section
variable (s : State)

theorem State.ascend_pwr : s.ascend.pwr = s.pwr := State.ascend_keeps ((frees_pwr (· = s.pwr)).sub rfl) s rfl

theorem State.recover_pwr : s.recover.pwr =
    { s.pwr with eff := s.pwr.eff - 1, level := s.pwr.eff - 1, supOut := 0, thOut := 0, stepped := true } := by
  rw [State.recover, State.setPwr_pwr, s.ascend_pwr]

theorem State.recover_jobs : s.recover.jobs = s.jobs := State.ascend_keeps ((frees_jobs (· = s.jobs)).sub rfl) s rfl

/-- Up to L2 nothing that was shed needs undoing. -/
theorem State.ascend_low (h : s.pwr.eff ≤ 2) : s.ascend = s := by
  unfold State.ascend
  split
  · omega
  · omega
  · rfl

theorem State.ascend_three (h : s.pwr.eff = 3) : s.ascend = (List.range 24).foldl (fun s d => (s.resetDie d false).rejoinDie d) s := by
  rw [State.ascend, h]
  rfl

theorem State.ascend_four (h : s.pwr.eff = 4) : s.ascend =
    [24, 25, 26, 27].foldl (fun s d => s.updDie d fun q => { q with ladder := false }) (s.eachDev fun d => { d with selfRefresh := false }) := by
  rw [State.ascend, h]
  rfl

/-- A fold over the compute dies that changes each once. -/
theorem foldl_range_entry {V : Type} (n : Nat) (get : State → Nat → V) (step : State → Nat → State) (g : Nat → V → V)
    (hstep : ∀ i < n, ∀ s k, get (step s i) k = if k = i then g i (get s k) else get s k) {d : Nat} (hd : d < n) :
    get ((List.range n).foldl step s) d = g d (get s d) :=
  (foldl_entries_inv (fun _ => True) get step g (fun _ _ _ => trivial) (fun i hi s k _ => hstep i (List.mem_range.mp hi) s k) List.nodup_range trivial
    d).trans (if_pos (List.mem_range.mpr hd))

/-- Leaving L3, each compute die is reset and rejoins. -/
theorem State.ascend_dieAt (h : s.pwr.eff = 3) {d : Nat} (hd : d < 24) :
    (s.ascend.dieAt d).st = 0 ∧ (s.ascend.dieAt d).epoch = (s.dieAt d).epoch + 1 := by
  rw [s.ascend_three h, ← Prod.mk.injEq]
  exact foldl_range_entry s 24 (fun t k => ((t.dieAt k).st, (t.dieAt k).epoch)) (fun s d => (s.resetDie d false).rejoinDie d)
    (fun _ v => (0, v.2 + 1)) (fun i hi t k => by
      rw [State.rejoinDie_dieAt, t.resetDie_dieAt i false]
      by_cases hk : k = i
      · rw [if_pos hk, if_pos hk, if_pos hk]
        rfl
      · rw [if_neg hk, if_neg hk, if_neg hk]) hd

theorem State.ascend_unit (h : s.pwr.eff = 3) {d x : Nat} (hd : d < 24) (hx : x / 16 = d) : s.ascend.unit x = .reset := by
  have hpart := foldl_range_entry s 24 (fun t k y => t.unit (16 * k + y % 16)) (fun s d => (s.resetDie d false).rejoinDie d)
    (fun _ _ _ => UnitSt.reset) (fun i hi t k => by
      funext y
      have hdiv : (16 * k + y % 16) / 16 = k := by omega
      rw [State.unit_congr (State.rejoinDie_units _ i), t.resetDie_unit i false hi, hdiv]
      by_cases hk : k = i
      · rw [if_pos hk, if_pos hk]
      · rw [if_neg hk, if_neg hk]) hd
  have hx' : 16 * d + x % 16 = x := by omega
  rw [s.ascend_three h]
  exact hx' ▸ congrFun hpart x

theorem State.eachDev_devAt (f : DevSt → DevSt) {i : Nat} (hi : i < 48) : (s.eachDev f).devAt i = f (s.devAt i) :=
  foldl_range_entry s 48 State.devAt (fun s i => s.updDev i f) (fun _ => f) (fun i _ s k => s.devAt_updDev i k f) hi

omit s in
theorem State.unladdered_devs (t : State) : ([24, 25, 26, 27].foldl (fun s d => s.updDie d fun q => { q with ladder := false }) t).devs = t.devs :=
  Keep.foldl (P := fun u => u.devs = t.devs) (fun u d hu => State.updDie_keeps ((frees_devs (· = t.devs)).sub rfl) u d _ hu) rfl

theorem State.ascend_devAt (h : s.pwr.eff = 4) {i : Nat} (hi : i < 48) : (s.ascend.devAt i).selfRefresh = false := by
  rw [s.ascend_four h, State.devAt_congr (State.unladdered_devs _), s.eachDev_devAt _ hi]

end

/-- The level of one kind that is left, the supply's before the thermal one. -/
def State.leaveLevel (s : State) : State :=
  let p := s.pwr
  if p.supply != 0 && decide (10000 ≤ p.supOut) then (s.setPwr { p with supply := p.supply - 1, supOut := 0, stepped := true }).supplyEvent (p.supply - 1) p.supply
  else if p.thermal != 0 && decide (10000 ≤ p.thOut) then (s.setPwr { p with thermal := p.thermal - 1, thOut := 0, stepped := true }).thermalEvent (p.thermal - 1) p.thermal
  else s

/-- What is undone once the highest level has fallen. -/
def State.recoverFrom (s : State) : State := if s.pwr.target < s.pwr.eff then s.recover else s

section
variable (s : State)

theorem State.leaveLevel_keeps {P : State → Prop} (hw : Frees P 0x1500000004) (hs : P s) : P s.leaveLevel := by
  unfold State.leaveLevel
  dsimp only
  split
  · exact State.supplyEvent_keeps (hw.sub rfl) _ _ _ (State.setPwr_keeps (hw.sub rfl) s _ hs)
  · split
    · exact State.thermalEvent_keeps (hw.sub rfl) _ _ _ (State.setPwr_keeps (hw.sub rfl) s _ hs)
    · exact hs

theorem State.leaveLevel_supply (hpos : s.pwr.supply ≠ 0) (h : 10000 ≤ s.pwr.supOut) :
    s.leaveLevel.pwr = { s.pwr with supply := s.pwr.supply - 1, supOut := 0, stepped := true } := by
  have hstep : s.leaveLevel = (s.setPwr { s.pwr with supply := s.pwr.supply - 1, supOut := 0, stepped := true }).supplyEvent (s.pwr.supply - 1)
      s.pwr.supply := if_pos (by simp [hpos, h])
  rw [hstep]
  exact State.supplyEvent_keeps ((frees_pwr (· = _)).sub rfl) _ _ _ rfl

theorem State.leaveLevel_thermal (hno : s.pwr.supOut < 10000) (hpos : s.pwr.thermal ≠ 0) (h : 10000 ≤ s.pwr.thOut) :
    s.leaveLevel.pwr = { s.pwr with thermal := s.pwr.thermal - 1, thOut := 0, stepped := true } := by
  have hstep : s.leaveLevel = (s.setPwr { s.pwr with thermal := s.pwr.thermal - 1, thOut := 0, stepped := true }).thermalEvent (s.pwr.thermal - 1)
      s.pwr.thermal := (if_neg (by simp [Nat.not_le.mpr hno])).trans (if_pos (by simp [hpos, h]))
  rw [hstep]
  exact State.thermalEvent_keeps ((frees_pwr (· = _)).sub rfl) _ _ _ rfl

theorem State.leaveLevel_none (hno : s.pwr.supOut < 10000) (hnot : s.pwr.thOut < 10000) : s.leaveLevel = s :=
  (if_neg (by simp [Nat.not_le.mpr hno])).trans (if_neg (by simp [Nat.not_le.mpr hnot]))

/-- What recovery leaves of the supply's registers whether or not something is undone. -/
theorem State.recoverFrom_pwr : s.recoverFrom.pwr.thermal = s.pwr.thermal ∧ s.recoverFrom.pwr.supply = s.pwr.supply ∧
    (s.pwr.thOut = 0 → s.recoverFrom.pwr.thOut = 0) ∧ (s.pwr.stepped = true → s.recoverFrom.pwr.stepped = true) := by
  rw [State.recoverFrom]
  split
  · rw [s.recover_pwr]
    exact ⟨rfl, rfl, fun _ => rfl, fun _ => rfl⟩
  · exact ⟨rfl, rfl, id, id⟩

theorem State.recoverFrom_jobs : s.recoverFrom.jobs = s.jobs := by
  rw [State.recoverFrom]
  split
  · exact s.recover_jobs
  · rfl

end

section
variable {s : State} (hon : s.pwr.on = true)
include hon

theorem exec_shedRecovery_rests (h : s.time.phase ≠ 0 ∨ s.pwr.acting = true ∨ s.pwr.stepped = true ∨ s.pwr.supply ≠ s.pwr.risenSupply ∨
    s.pwr.thermal ≠ s.pwr.risenThermal ∨ s.pwr.eff < s.pwr.target) : exec .shedRecovery s = .next s := by
  refine congrArg Host.Outcome.next ((if_pos hon).trans (if_pos ?_))
  simp only [Bool.or_eq_true, bne_iff_ne, decide_eq_true_eq, or_assoc]
  exact h

variable (hph : s.time.phase = 0) (hact : s.pwr.acting = false) (hstep : s.pwr.stepped = false) (hsup : s.pwr.risenSupply = s.pwr.supply)
  (hth : s.pwr.risenThermal = s.pwr.thermal) (heff : s.pwr.target ≤ s.pwr.eff)
include hph hact hstep hsup hth heff

omit hon in
theorem State.recovery_open : ¬(decide (s.time.phase ≠ 0) || s.pwr.acting || s.pwr.stepped || s.pwr.supply != risen s.pwr.supply s.pwr.supIn false ||
    s.pwr.thermal != risen s.pwr.thermal s.pwr.thIn true || decide (s.pwr.eff < s.pwr.target)) = true := by
  have hu : s.pwr.supply = risen s.pwr.supply s.pwr.supIn false := hsup.symm
  have ht : s.pwr.thermal = risen s.pwr.thermal s.pwr.thIn true := hth.symm
  rw [← hu, ← ht, hph, hact, hstep]
  simpa using heff

theorem exec_shedRecovery : exec .shedRecovery s = .next s.leaveLevel.recoverFrom :=
  congrArg Host.Outcome.next ((if_pos hon).trans (if_neg (State.recovery_open hph hact hstep hsup hth heff)))

end

/-! ### The floor (R479, R480) -/

section
variable {s : State} (hon : s.pwr.on = true) (f : Func) (v : U64)
include hon

theorem exec_forceLevel_recovery (h : s.sec.recovery = true) : exec (.forceLevel f v) s = .next s :=
  congrArg Host.Outcome.next ((if_pos hon).trans (if_pos h))

theorem exec_forceLevel (h : s.sec.recovery = false) :
    exec (.forceLevel f v) s = .next ((s.exchange (30 + f.port.val) 30).privileged f fun s => s.writeForce v) := by
  rw [exec, execForceLevel, s.byPwr_open _ hon h]

end

theorem State.writeForce_of_forced {P : State → Prop} (hw : Frees P 0x500000004) (s : State) (v : U64) (hs : P (s.setPwr { s.pwr with force := bits v 0 3 })) :
    P (s.writeForce v) := by
  unfold State.writeForce
  dsimp only
  split
  · exact hs
  · exact State.supplyEvent_keeps hw _ _ _ hs

end Sys2Proof.Machine

namespace Sys2Proof
open Machine

/-- Settles O52: up the ladder from the state the new levels leave, down it one level at a time. -/
theorem shedLadder : Obligations.shed_ladder := by
  intro s hon p u h lv
  refine ⟨fun hph => ⟨exec_shedEntry_between hon hph, exec_shedRecovery_rests hon (.inl hph)⟩, fun hph hlv => ?_, fun hph hlv => ?_,
    fun hph hact hstep hsup hth hthlow hfloor heff => ⟨fun hout => ?_, fun hout hthout => ?_⟩, fun hph hact hstep hsup hth htarget hout hpos hthout => ?_,
    fun hany => exec_shedRecovery_rests hon ?_, fun f v hrec => exec_forceLevel_recovery hon f v hrec, fun f v hrec => ⟨fun hf => ?_, fun hf => ?_, rfl⟩⟩
  · obtain ⟨so, th, hp⟩ := s.raised_pwr
    have hlevel : s.raised.pwr.level = lv := by rw [hp]; rfl
    obtain ⟨heff, hsupply, hthermal, hstay⟩ := s.raised.descend_levels 8 (hlevel ▸ hlv)
    have hlow : s.raised.shed = s.raised.descend 8 := s.raised.shed_below_off (hlevel ▸ hlv)
    refine ⟨_, exec_shedEntry hon hph, ?_, ?_, ?_, ?_, ?_, ?_, fun hact heff2 hlv2 => ?_⟩
    · rw [(s.raised.shed_pwr (hlevel ▸ hlv)).1, hp]; exact hon
    · rw [hlow, hsupply, hp]; rfl
    · rw [hlow, hthermal, hp]; rfl
    · rw [hlow, hstay, hlevel]
    · rw [hlow]
      rw [hp] at heff
      exact heff
    · rw [s.raised.shed_time (hlevel ▸ hlv)]
      exact s.raised_keeps ((frees_time (· = s.time)).sub rfl) rfl
    · have hact' : s.raised.pwr.acting = false := by rw [hp]; exact hact
      obtain ⟨he, hj, hm⟩ := s.raised.descend_low 8 hact' (hlevel ▸ hlv2) (by rw [hlevel]; omega)
      rw [hlow, he, hj, hm, hlevel, hp]
      exact ⟨rfl, s.raised_keeps ((frees_jobs (· = s.jobs)).sub rfl) rfl, s.raised_keeps ((frees_mem (· = s.mem)).sub rfl) rfl⟩
  · obtain ⟨so, th, hp⟩ := s.raised_pwr
    have hoff : s.raised.shed = s.raised.powerOff := if_pos (by rw [hp]; exact hlv)
    rw [exec_shedEntry hon hph, hoff]
    exact ⟨_, rfl, rfl, rfl⟩
  · have hpos : s.pwr.supply ≠ 0 := Nat.ne_of_gt (Nat.lt_of_le_of_lt (Nat.zero_le _) hfloor)
    have hp := s.leaveLevel_supply hpos hout
    have htarget : s.pwr.target ≤ s.pwr.eff := by
      have e : s.pwr.eff = s.pwr.supply := heff
      rw [PowerSt.target, e]
      exact max_le le_rfl (max_le (Nat.le_of_lt hthlow) (Nat.le_of_lt hfloor))
    have hrec : s.leaveLevel.recoverFrom = s.leaveLevel.recover := by
      refine if_pos ?_
      rw [hp]
      change max (s.pwr.supply - 1) (max s.pwr.thermal s.pwr.floor) < s.pwr.eff
      have e : s.pwr.eff = s.pwr.supply := heff
      have h1 : s.pwr.thermal < s.pwr.supply := hthlow
      have h2 : s.pwr.floor < s.pwr.supply := hfloor
      omega
    have heffl : s.leaveLevel.pwr.eff = s.pwr.supply := by rw [hp]; exact heff
    have hdie (d : Nat) : s.leaveLevel.dieAt d = s.dieAt d :=
      s.leaveLevel_keeps ((frees_dies fun l => tabGet DieSt.reset l d = s.dieAt d).sub rfl) rfl
    rw [exec_shedRecovery hon hph hact hstep hsup hth htarget, hrec]
    refine ⟨_, rfl, ?_, ?_, ?_, ?_, ?_, ?_, ?_, fun h2 => ?_, fun h3 d hd => ?_, fun h4 i hi => s.leaveLevel.ascend_devAt (heffl.trans h4) hi⟩
    · rw [State.recover_pwr, hp]
    · rw [State.recover_pwr, heffl]
    · rw [State.recover_pwr, heffl]
    · rw [State.recover_pwr]
    · rw [State.recover_pwr]
    · rw [State.recover_pwr]
    · rw [State.recover_jobs]
      exact s.leaveLevel_keeps ((frees_jobs (· = s.jobs)).sub rfl) rfl
    · have hundo : s.leaveLevel.ascend = s.leaveLevel := State.ascend_low _ (heffl ▸ h2)
      rw [State.recover, hundo]
      exact ⟨s.leaveLevel_keeps ((frees_mem (· = s.mem)).sub rfl) rfl, s.leaveLevel_keeps ((frees_units (· = s.units)).sub rfl) rfl⟩
    · obtain ⟨hst, hepoch⟩ := s.leaveLevel.ascend_dieAt (heffl.trans h3) hd
      exact ⟨hst, hepoch.trans (by rw [hdie]), fun x hx => s.leaveLevel.ascend_unit (heffl.trans h3) hd hx⟩
  · have htarget : s.pwr.target = s.pwr.eff := by
      have e : s.pwr.eff = s.pwr.supply := heff
      rw [PowerSt.target, e]
      exact max_eq_left (max_le (Nat.le_of_lt hthlow) (Nat.le_of_lt hfloor))
    rw [exec_shedRecovery hon hph hact hstep hsup hth (Nat.le_of_eq htarget), s.leaveLevel_none hout hthout]
    exact congrArg _ (if_neg (by rw [htarget]; exact Nat.lt_irrefl _))
  · have hp := s.leaveLevel_thermal hout hpos hthout
    obtain ⟨hthermal, hsupply, hcount, hstepped⟩ := s.leaveLevel.recoverFrom_pwr
    rw [exec_shedRecovery hon hph hact hstep hsup hth htarget]
    refine ⟨_, rfl, hthermal.trans (by rw [hp]), hsupply.trans (by rw [hp]), hcount (by rw [hp]), hstepped (by rw [hp]), ?_⟩
    rw [State.recoverFrom_jobs]
    exact s.leaveLevel_keeps ((frees_jobs (· = s.jobs)).sub rfl) rfl
  · obtain h | h | h | h | h := hany
    · exact .inr (.inl h)
    · exact .inr (.inr (.inl h))
    · exact .inr (.inr (.inr (.inl (Nat.ne_of_lt h))))
    · exact .inr (.inr (.inr (.inr (.inl (Nat.ne_of_lt h)))))
    · exact .inr (.inr (.inr (.inr (.inr h))))
  · rw [exec_forceLevel hon f v hrec, State.privileged_denied (s.exchange _ _) _ _ hf]
  · rw [exec_forceLevel hon f v hrec, State.privileged_control (s.exchange _ _) _ _ hf]
    refine ⟨_, rfl, ?_, ?_, ?_, ?_⟩
    · exact State.writeForce_of_forced ((frees_pwr (· = { p with force := bits v 0 3 })).sub rfl) _ v (by rw [State.setPwr_pwr, State.exchange_pwr])
    · exact State.writeForce_of_forced ((frees_jobs (· = s.jobs)).sub rfl) _ v (by rw [State.setPwr_jobs, State.exchange_jobs])
    · exact State.writeForce_of_forced ((frees_units (· = s.units)).sub rfl) _ v (by rw [State.setPwr_units, State.exchange_units])
    · exact State.writeForce_of_forced ((frees_mem (· = s.mem)).sub rfl) _ v (by rw [State.setPwr_mem, State.exchange_mem])

end Sys2Proof
end

section
/-! PROOF. The hang detector and the String Dump (R453 to R457); O50. -/

namespace Sys2Proof.Machine

/-! ### What leaves the dump asked for -/

theorem State.job?_congr {s t : State} (h : t.jobs = s.jobs) (k : U64) : t.job? k = s.job? k := by rw [State.job?, State.job?, h]

section
variable (s : State)

theorem State.hostWrite_dumps (p a : Nat) (b : List Byte) : (s.hostWrite p a b).obs.dumps = s.obs.dumps := rfl

theorem State.emit_dumps (n : Nat) (k : RingKind) (r : W256) : (s.emit n k r).obs.dumps = s.obs.dumps := by
  rw [State.emit, State.setCtx_obs, State.hostWrite_dumps]

theorem State.post_dumps (n : Nat) (k : RingKind) (r : W256) : (s.post n k r).obs.dumps = s.obs.dumps := by
  unfold State.post
  dsimp only
  split
  · rw [State.updCtx, State.setCtx_obs, State.emit_dumps]
  · split
    · rw [State.setCtx_obs]
    · split
      · rw [State.setCtx_obs]
      · rw [State.setCtx_obs]

theorem State.event_dumps (n code : Nat) (jid : U64) (pl : List (Nat × Nat × Nat)) : (s.event n code jid pl).obs.dumps = s.obs.dumps := s.post_dumps n .evt _

theorem State.storeLoc_dumps (l : List (Loc × Byte)) : (s.storeLoc l).obs.dumps = s.obs.dumps := by
  induction l generalizing s with
  | nil => rfl
  | cons e l ih =>
    obtain ⟨at_ | ⟨q, a⟩, b⟩ := e
    · exact ih _
    · exact (ih _).trans (s.hostWrite_dumps q a [b])

theorem State.storeQuiet_dumps (ctx dva : Nat) (b : List Byte) : (s.storeQuiet ctx dva b).obs.dumps = s.obs.dumps := by
  have hstore (w : Who) := State.storeAll_inv (P := fun t => t.obs.dumps = s.obs.dumps) ((frees_obs fun o => o.dumps = s.obs.dumps).sub rfl)
    (fun t l ht => (t.storeLoc_dumps l).trans ht) s w (storesAt dva b) rfl
  unfold State.storeQuiet
  dsimp only
  split
  · next h => exact hstore _ _ h
  · split
    · next h => exact hstore _ _ h
    · rfl

end

/-- What no fresh byte and no store of the module's own breaks, the writing of a dump keeps. -/
theorem State.writeSegments_inv {P : State → Prop} (hw : Frees P 0x2000000000a) (hstore : ∀ (t : State) c a b, P t → P (t.storeQuiet c a b))
    (s : State) (d : DumpSt) (js : List Job) (base : Nat) (hs : P s) : P (s.writeSegments d js base) := by
  have hunit (t : State) (x : Nat) (ht : P t) : P (t.dumpUnit d.ctx.val base x) := by
    unfold State.dumpUnit
    exact hstore _ _ _ _ (State.dumpEntry_keeps (hw.sub rfl) t _ _ _ ht)
  have hstart := State.dumpTraces_keeps (hw.sub rfl) _ d.ctx.val base js (State.veilDva_keeps (hw.sub rfl) s d.ctx.val base (base + 0x2000000) 512 hs)
  unfold State.writeSegments
  dsimp only
  split
  · exact Keep.foldl (fun t x ht => hunit t x ht) hstart
  · refine Keep.foldl (fun t e ht => State.dumpSync_keeps (hw.sub rfl) t _ _ _ ht) ?_
    refine Keep.foldl (fun t q ht => State.dumpQueue_keeps (hw.sub rfl) t _ _ _ ht) ?_
    refine Keep.foldl (fun t x ht => hunit t x ht) ?_
    refine Keep.foldl (fun t n ht => State.overDva_keeps (hw.sub rfl) _ t _ _ _ _ ht fun u lo hi hu => State.blank_keeps (hw.sub rfl) u lo hi hu) ?_
    exact State.dumpOthers_keeps (hw.sub rfl) _ _ _ _ hstart

namespace State.Posts

variable {s t : State}

theorem jobTrigger (h : s.Posts t) (jid : U64) (src : Nat) (arg : Option Nat) : s.Posts (t.jobTrigger jid src arg) := by
  unfold State.jobTrigger
  split
  · exact h
  · split
    · exact h.noteTrigger _ _
    · exact h

theorem setWait (h : s.Posts t) (x : Nat) (w : WaitSt) : s.Posts (t.setWait x w) := by
  have hunit (v : UnitSt) : s.Posts (t.setUnit x v) := h.of_ctxs rfl
  unfold State.setWait
  dsimp only
  split
  · exact hunit _
  · split
    · exact hunit _
    · exact ((hunit _).traceEv _ _ _ _ _ _ _).jobTrigger _ _ _

theorem runUnits (h : s.Posts t) (xs : List Nat) : s.Posts (t.runUnits xs) := by
  induction xs generalizing t with
  | nil => exact h
  | cons x xs ih =>
    refine ih (State.Posts.setWait ?_ x _)
    exact h.of_ctxs rfl

end State.Posts

/-! ### DUMP_CTRL (R455) -/

section
variable (c : CtxSt)

theorem CtxSt.setDump_state {k : Nat} (hk : k < 4) (r : Nat) : (c.setDump k r).dumpState = k := by
  rw [CtxSt.dumpState, CtxSt.setDump, bits_putField_other _ (.inl (by decide)), bits_putField_self _ (by decide)]
  exact Nat.mod_eq_of_lt hk

theorem CtxSt.setDump_result (k : Nat) {r : Nat} (hr : r < 8) : bits (c.setDump k r).dumpCtrl 4 3 = r := by
  rw [CtxSt.setDump, bits_putField_self _ (by decide)]
  exact Nat.mod_eq_of_lt hr

theorem CtxSt.setDump_count (k r : Nat) : bits (c.setDump k r).dumpCtrl 16 16 = bits c.dumpCtrl 16 16 := by
  rw [CtxSt.setDump, bits_putField_other _ (.inr (by decide)), bits_putField_other _ (.inr (by decide))]

end

/-! ### Asking for a dump (R454, R455) -/

section
variable (s : State) (n : Nat) (scope hang : Bool) (at_ : Nat)

theorem State.askDump_first (h : s.obs.dumps = []) : ∃ d, (s.askDump n scope hang at_).obs.dumps = [d] ∧ d.ctx.val = n % 32 ∧ d.scope = scope ∧
    d.at_ = at_ ∧ d.taken = false ∧ ((s.askDump n scope hang at_).ctxAt n).dumpState = 1 := by
  have hask : s.askDump n scope hang at_ = (s.updCtx n fun c => c.setDump 1 (bits c.dumpCtrl 4 3)).setObs { s.obs with dumps := [
      { ctx := BitVec.toFin (BitVec.ofNat 5 n), scope := scope, hang := hang, at_ := at_, jobs := [], taken := false, units := [] }] } :=
    if_pos (by rw [h]; rfl)
  have hctx (t : State) (o : ObsSt) : (t.setObs o).ctxAt n = t.ctxAt n := rfl
  refine ⟨{ ctx := BitVec.toFin (BitVec.ofNat 5 n), scope := scope, hang := hang, at_ := at_, jobs := [], taken := false, units := [] }, ?_, rfl, rfl,
    rfl, rfl, ?_⟩
  · rw [hask, State.setObs_obs]
  · rw [hask, hctx, State.ctxAt_updCtx, CtxSt.setDump_state _ (by decide)]

theorem State.askDump_busy (h : s.obs.dumps ≠ []) : (s.askDump n scope hang at_).obs = s.obs ∧
    bits ((s.askDump n scope hang at_).ctxAt n).dumpCtrl 4 3 = 2 := by
  have hask : s.askDump n scope hang at_ = s.updCtx n fun c => c.setDump c.dumpState 2 := if_neg (by simpa using h)
  rw [hask, State.ctxAt_updCtx]
  exact ⟨rfl, CtxSt.setDump_result _ _ (by decide)⟩

end

section
variable {s : State} (hon : s.pwr.on = true)
include hon

/-- A silent job is reported with an event and asks for a dump. -/
theorem exec_hang {j : Job} (hjob : s.job? j.jid = some j) (hph : s.time.phase = 0) (hnew : j.hung = false) (hrun : j.phase = .running)
    (hbeats : (s.ctxAt j.ctx.val).hangBeats ≤ j.silentBeats) : ∃ pl, exec (.hang j.jid) s =
      .next (((s.event j.ctx.val 0x04 j.jid pl).updJob j.jid fun j => { j with hung := true }).askDump j.ctx.val false true s.time.beat) := by
  refine ⟨_, congrArg Host.Outcome.next ((if_pos hon).trans ((s.withJob_some _ _ j hjob).trans (if_neg ?_)))⟩
  simp [hph, hnew, hrun, Nat.not_lt.mpr hbeats]

theorem exec_hang_not {j : Job} (hjob : s.job? j.jid = some j)
    (h : s.time.phase ≠ 0 ∨ j.hung = true ∨ j.phase ≠ .running ∨ j.silentBeats < (s.ctxAt j.ctx.val).hangBeats) : exec (.hang j.jid) s = .next s := by
  refine congrArg Host.Outcome.next ((if_pos hon).trans ((s.withJob_some _ _ j hjob).trans (if_pos ?_)))
  obtain h | h | h | h := h <;> simp [h]

theorem hang_reports {j : Job} (hjob : s.job? j.jid = some j) (hph : s.time.phase = 0) (hnew : j.hung = false) (hrun : j.phase = .running)
    (hbeats : (s.ctxAt j.ctx.val).hangBeats ≤ j.silentBeats) :
    ∃ t i, exec (.hang j.jid) s = .next t ∧ t.job? j.jid = some i ∧ i.hung = true ∧ t.units = s.units ∧ t.mem = s.mem ∧
      (s.obs.dumps = [] → ∃ d, t.obs.dumps = [d] ∧ d.ctx = j.ctx ∧ d.at_ = s.time.beat ∧ d.taken = false) := by
  obtain ⟨pl, hexec⟩ := exec_hang hon hjob hph hnew hrun hbeats
  have hkeep {P : State → Prop} (hw : Frees P 0x500200004) (hs : P s) : P (((s.event j.ctx.val 0x04 j.jid pl).updJob j.jid fun j =>
      { j with hung := true }).askDump j.ctx.val false true s.time.beat) :=
    State.askDump_keeps (hw.sub rfl) _ _ _ _ _ (State.updJob_keeps (hw.sub rfl) _ _ _ (State.event_keeps (hw.sub rfl) s _ _ _ _ hs))
  have hposted : (s.event j.ctx.val 0x04 j.jid pl).jobs = s.jobs := State.event_keeps ((frees_jobs (· = s.jobs)).sub rfl) s _ _ _ _ rfl
  have hjobs : (((s.event j.ctx.val 0x04 j.jid pl).updJob j.jid fun j => { j with hung := true }).askDump j.ctx.val false true s.time.beat).jobs =
      ((s.event j.ctx.val 0x04 j.jid pl).updJob j.jid fun j => { j with hung := true }).jobs :=
    State.askDump_keeps ((frees_jobs (· = _)).sub rfl) _ _ _ _ _ rfl
  refine ⟨_, { j with hung := true }, hexec, ?_, rfl, hkeep ((frees_units (· = s.units)).sub rfl) rfl, hkeep ((frees_mem (· = s.mem)).sub rfl) rfl,
    fun hnone => ?_⟩
  · rw [State.job?_congr hjobs, State.job?_updJob _ _ (fun j => { j with hung := true }) (fun _ => rfl) (fun _ h => h), if_pos rfl,
      State.job?_congr hposted, hjob]
    rfl
  · obtain ⟨d, hd, hctx, -, hat, htaken, -⟩ := State.askDump_first ((s.event j.ctx.val 0x04 j.jid pl).updJob j.jid fun j => { j with hung := true })
      j.ctx.val false true s.time.beat ((s.event_dumps _ _ _ pl).trans hnone)
    exact ⟨d, hd, Fin.ext (hctx.trans (Nat.mod_eq_of_lt j.ctx.isLt)), hat, htaken⟩

theorem exec_dumpRequest (f : Func) (sc : Bool) (hbar : s.barOpen = true) (hdie : s.dieAnswers (30 + f.port.val) = true) :
    exec (.dumpRequest f sc) s = .next (s.writeDumpCtrl f true sc) := by
  rw [exec, execDumpRequest, s.byBar_open _ _ hon hbar hdie]

end

theorem State.writeDumpCtrl_keeps_rest {P : State → Prop} (hw : Frees P 0x500000000) (s : State) (f : Func) (sc : Bool) (hs : P s) :
    P (s.writeDumpCtrl f true sc) :=
  State.askDump_keeps (hw.sub rfl) _ _ _ _ _ (State.updCtx_keeps (hw.sub rfl) s _ _ hs)

theorem func_ctx_lt (f : Func) : f.ctx < 32 := by
  have := f.port.isLt
  have := f.fn.isLt
  rw [Func.ctx]
  omega

/-! ### A dump at its boundary (R455, R456) -/

section
variable {s : State} (hon : s.pwr.on = true)
include hon

theorem exec_stringDump_none (h : (s.obs.dumps.find? fun d => !d.taken && decide (d.at_ ≤ s.time.beat)) = none) : exec .stringDump s = .next s := by
  rw [exec, execStringDump, s.ran_on _ hon, h]

theorem exec_stringDump_between (h : s.time.phase ≠ 0) : exec .stringDump s = .next s := by
  rw [exec, execStringDump, s.ran_on _ hon]
  split
  · rfl
  · exact congrArg _ (if_pos h)

theorem exec_stringDump {d : DumpSt} (hfind : (s.obs.dumps.find? fun d => !d.taken && decide (d.at_ ≤ s.time.beat)) = some d) (hph : s.time.phase = 0) :
    exec .stringDump s = .next (if (s.ctxAt d.ctx.val).dumpBase = 0 || !s.isPinned d.ctx.val (s.ctxAt d.ctx.val).dumpBase 0x2000000 true
      then s.refuseDump d 1 else if (s.dumpJobs d).any Job.beingSaved then s.refuseDump d 3 else s.takeDump { d with at_ := s.time.beat }) := by
  rw [exec, execStringDump, s.ran_on _ hon, hfind]
  exact congrArg _ (if_neg (not_not_intro hph))

end

theorem State.refuseDump_result (s : State) (d : DumpSt) {r : Nat} (hr : r < 8) : (s.refuseDump d r).obs.dumps = [] ∧
    ((s.refuseDump d r).ctxAt d.ctx.val).dumpState = 0 ∧ bits ((s.refuseDump d r).ctxAt d.ctx.val).dumpCtrl 4 3 = r ∧
    (s.refuseDump d r).jobs = s.jobs ∧ (s.refuseDump d r).mem = s.mem := by
  rw [State.refuseDump, State.ctxAt_updCtx]
  exact ⟨rfl, CtxSt.setDump_state _ (by decide) _, CtxSt.setDump_result _ _ hr, rfl, rfl⟩

/-- A job of a dump stops. -/
def State.dumpJob (s : State) (j : Job) : State := (s.stopJob j).updJob j.jid fun j => { j.reason 2 with phase := .dumping }

theorem State.dumpJob_job? (s : State) (j : Job) (k : U64) :
    (s.dumpJob j).job? k = if k = j.jid then (s.job? k).map fun j => { j.reason 2 with phase := .dumping } else s.job? k := by
  have hjobs : (s.stopJob j).jobs = s.jobs := State.stopJob_keeps ((frees_jobs (· = s.jobs)).sub rfl) s j rfl
  rw [State.dumpJob, State.job?_updJob _ _ (fun j => { j.reason 2 with phase := .dumping }) (fun _ => rfl) (fun _ _ => nofun), State.job?_congr hjobs]

/-- Every job of a list of jobs stops; one that has stopped stays so. -/
theorem State.foldl_dumpJob (s : State) (js : List Job) (k : U64) {j : Job} (hj : s.job? k = some j)
    (h : (∃ i ∈ js, i.jid = k) ∨ (j.phase = .dumping ∧ j.isExact = false)) :
    ∃ i, (js.foldl State.dumpJob s).job? k = some i ∧ i.phase = .dumping ∧ i.isExact = false := by
  induction js generalizing s j with
  | nil =>
    obtain ⟨i, hi, -⟩ | h := h
    · exact absurd hi List.not_mem_nil
    · exact ⟨j, hj, h⟩
  | cons a js ih =>
    by_cases hk : k = a.jid
    · exact ih (s.dumpJob a) (by rw [s.dumpJob_job?, if_pos hk, hj]; rfl) (.inr ⟨rfl, rfl⟩)
    · refine ih (s.dumpJob a) (by rw [s.dumpJob_job?, if_neg hk, hj]) (h.imp_left fun ⟨i, hi, hik⟩ => ?_)
      cases List.mem_cons.mp hi with
      | inl e => exact absurd (e ▸ hik).symm hk
      | inr hi => exact ⟨i, hi, hik⟩

section
variable (s : State) (d : DumpSt)

/-- The state in which the segments are written. -/
def State.dumpBegun (s : State) (d : DumpSt) : State :=
  let js := (s.dumpJobs d).filter fun j => j.phase == .running
  let ws : List (Nat × WaitSt) := (js.flatMap fun j => s.unitsOf j.jid).map fun x => (x, (s.unit x).wait)
  let s1 := js.foldl State.dumpJob (s.pauseLent d)
  (s1.setObs { s1.obs with dumps := [{ d with taken := true, jobs := js.map (·.jid), units := ws }] }).updCtx d.ctx.val fun c =>
    { c with dumpCtrl := putField c.dumpCtrl 2 2 2 }

theorem State.takeDump_eq : s.takeDump d =
    (s.dumpBegun d).writeSegments d ((s.dumpJobs d).filter fun j => j.phase == .running) (s.ctxAt d.ctx.val).dumpBase := rfl

theorem State.takeDump_holds : (s.takeDump d).dumpHolds = true := by
  have hdumps : (s.takeDump d).obs.dumps = (s.dumpBegun d).obs.dumps := by
    rw [s.takeDump_eq]
    exact State.writeSegments_inv (P := fun t => t.obs.dumps = (s.dumpBegun d).obs.dumps)
      ((frees_obs fun o => o.dumps = (s.dumpBegun d).obs.dumps).sub rfl) (fun t c a b ht => (t.storeQuiet_dumps c a b).trans ht) _ _ _ _ rfl
  rw [State.dumpHolds, hdumps]
  rfl

theorem State.takeDump_state : ((s.takeDump d).ctxAt d.ctx.val).dumpState = 2 := by
  have hctxs : (s.takeDump d).ctxs = (s.dumpBegun d).ctxs := by
    rw [s.takeDump_eq]
    exact State.writeSegments_keeps ((frees_ctxs (· = (s.dumpBegun d).ctxs)).sub rfl) _ _ _ _ rfl
  rw [State.ctxAt_congr hctxs, State.dumpBegun, State.ctxAt_updCtx]
  exact bits_putField_self _ (by decide) 2

theorem State.takeDump_job? {k : U64} {j : Job} (hj : s.job? k = some j) (hd : j ∈ s.dumpJobs d) (hrun : j.phase = .running) :
    ∃ i, (s.takeDump d).job? k = some i ∧ i.phase = .dumping ∧ i.isExact = false := by
  have hjobs : (s.takeDump d).jobs = (s.dumpBegun d).jobs := by
    rw [s.takeDump_eq]
    exact State.writeSegments_keeps ((frees_jobs (· = (s.dumpBegun d).jobs)).sub rfl) _ _ _ _ rfl
  have hpaused : (s.pauseLent d).jobs = s.jobs := State.pauseLent_keeps ((frees_jobs (· = s.jobs)).sub rfl) s d rfl
  obtain ⟨-, hjid, -⟩ := s.job?_some k j hj
  have hmem : j ∈ (s.dumpJobs d).filter fun j => j.phase == .running := List.mem_filter.mpr ⟨hd, by rw [hrun]; rfl⟩
  rw [State.job?_congr hjobs]
  exact (s.pauseLent d).foldl_dumpJob _ k ((State.job?_congr hpaused k).trans hj) (.inl ⟨j, hmem, hjid⟩)

end

/-! ### The end of a dump (R456) -/

/-- A job that a dump held runs again. -/
def Job.restarted (j : Job) : Job := if j.phase == .dumping then { j with phase := .running } else j

def State.restartJob (s : State) (k : U64) : State :=
  s.withJob k fun j => if j.phase == .dumping then (s.updJob k fun j => { j with phase := .running }).runUnits (s.unitsOf k) else s

section
variable (s : State) (k : U64)

theorem State.restartJob_job? (i : U64) : (s.restartJob k).job? i = if i = k then (s.job? i).map Job.restarted else s.job? i := by
  rw [State.restartJob]
  cases hj : s.job? k with
  | none =>
    rw [State.withJob, hj]
    dsimp only
    split
    · next h => rw [h, hj]; rfl
    · rfl
  | some j =>
    rw [s.withJob_some _ _ j hj]
    have hjobs : ((s.updJob k fun j => { j with phase := .running }).runUnits (s.unitsOf k)).jobs = (s.updJob k fun j => { j with phase := .running }).jobs :=
      State.runUnits_keeps ((frees_jobs (· = _)).sub rfl) _ _ rfl
    by_cases hd : (j.phase == .dumping) = true
    · rw [if_pos hd, State.job?_congr hjobs, State.job?_updJob _ _ (fun j => { j with phase := .running }) (fun _ => rfl) (fun _ _ => nofun)]
      split
      · next h => rw [h, hj, Option.map_some, Option.map_some, Job.restarted, if_pos hd]
      · rfl
    · rw [if_neg hd]
      split
      · next h => rw [h, hj, Option.map_some, Job.restarted, if_neg hd]
      · rfl

theorem State.restartJob_keeps {P : State → Prop} (hw : Frees P 0x500200010) (hs : P s) : P (s.restartJob k) := by
  rw [State.restartJob, State.withJob]
  split
  · split
    · exact State.runUnits_keeps (hw.sub rfl) _ _ (State.updJob_keeps (hw.sub rfl) s _ _ hs)
    · exact hs
  · exact hs

theorem State.Posts.restartJob {s t : State} (h : s.Posts t) (k : U64) : s.Posts (t.restartJob k) := by
  rw [State.restartJob, State.withJob]
  split
  · split
    · refine State.Posts.runUnits ?_ _
      exact h.of_ctxs rfl
    · exact h
  · exact h

/-- Every job of a list runs again; one that runs goes on. -/
theorem State.foldl_restartJob (l : List U64) {j : Job} (hj : s.job? k = some j) (h : j.phase = .running ∨ (j.phase = .dumping ∧ k ∈ l)) :
    ∃ i, (l.foldl State.restartJob s).job? k = some i ∧ i.phase = .running := by
  induction l generalizing s j with
  | nil =>
    obtain h | ⟨-, hk⟩ := h
    · exact ⟨j, hj, h⟩
    · exact absurd hk List.not_mem_nil
  | cons a l ih =>
    by_cases hk : k = a
    · refine ih (s.restartJob a) (j := j.restarted) (by rw [s.restartJob_job?, if_pos hk, hj]; rfl) (.inl ?_)
      obtain h | ⟨h, -⟩ := h <;> simp [Job.restarted, h]
    · refine ih (s.restartJob a) (by rw [s.restartJob_job?, if_neg hk, hj]) (h.imp_right fun ⟨hd, hmem⟩ => ⟨hd, ?_⟩)
      exact (List.mem_cons.mp hmem).resolve_left hk

end

/-- The jobs run again and the trace counters of the dies count the dump. -/
def State.restarted (s : State) (d : DumpSt) : State :=
  (List.range 24).foldl (fun s c => s.updUnit (c * 16 + 15) fun u => u.count 7 1) (d.jobs.foldl State.restartJob s)

theorem State.restarted_keeps {P : State → Prop} (hw : Frees P 0x500200010) (s : State) (d : DumpSt) (hs : P s) : P (s.restarted d) :=
  Keep.foldl (fun t _ ht => State.updUnit_keeps (hw.sub rfl) t _ _ ht) (Keep.foldl (fun t k ht => t.restartJob_keeps k hw ht) hs)

theorem State.restarted_posts (s : State) (d : DumpSt) : s.Posts (s.restarted d) :=
  State.Posts.foldl (fun _ _ hu => hu.of_ctxs rfl) (State.Posts.foldl (fun _ k hu => hu.restartJob k) State.Posts.refl)

section
variable {s : State} (hon : s.pwr.on = true)
include hon

theorem exec_dumpRestart_none (h : s.dumpHolds = false) : exec .dumpRestart s = .next s := by
  have hnone : (s.obs.dumps.find? fun d => d.taken && decide (d.at_ + 10 ≤ s.time.beat)) = none := by
    refine List.find?_eq_none.mpr fun d hd => ?_
    have hnot : ¬d.taken = true := List.any_eq_false.mp h d hd
    simp [hnot]
  rw [exec, execDumpRestart, s.ran_on _ hon, hnone]

theorem exec_dumpRestart {d : DumpSt} (h : (s.obs.dumps.find? fun d => d.taken && decide (d.at_ + 10 ≤ s.time.beat)) = some d) :
    exec .dumpRestart s = .next (((s.restarted d).setObs { (s.restarted d).obs with dumps := [] }).updCtx d.ctx.val fun c =>
      { c.setDump 0 0 with dumpCtrl := putField (c.setDump 0 0).dumpCtrl 16 16 (min (bits (c.setDump 0 0).dumpCtrl 16 16 + 1) 0xFFFF) }) := by
  rw [exec, execDumpRestart, s.ran_on _ hon, h]
  rfl

end

end Sys2Proof.Machine

namespace Sys2Proof
open Machine

/-- Settles O50: a dump from the silence or the write that asks for it to the restart ten beats on. -/
theorem hangAndDump : Obligations.hang_and_dump := by
  intro s hon
  refine ⟨fun jid j hjob hph hnew hrun hbeats => ?_, fun jid j hjob h => ?_, fun f sc hbar hdie => ?_, fun h => ?_, fun d l hd hnew hat hph => ?_,
    fun d l hd htaken hat => ?_, exec_dumpRestart_none hon⟩
  · obtain ⟨-, rfl, -⟩ := s.job?_some jid j hjob
    exact hang_reports hon hjob hph hnew hrun hbeats
  · obtain ⟨-, rfl, -⟩ := s.job?_some jid j hjob
    exact exec_hang_not hon hjob h
  · intro scope
    refine ⟨fun hnone => ?_, fun hsome => ?_⟩
    · obtain ⟨d, hdumps, hctx, hscope, hat, htaken, hstate⟩ := State.askDump_first
        (s.updCtx f.ctx fun c => { c with dumpCtrl := putField c.dumpCtrl 1 1 (b2n scope) }) f.ctx (scope && s.isControl f) false (s.time.beat + 1) hnone
      exact ⟨_, d, exec_dumpRequest hon f sc hbar hdie, hdumps, hctx.trans (Nat.mod_eq_of_lt (func_ctx_lt f)), hscope, hat, htaken, hstate,
        s.writeDumpCtrl_keeps_rest ((frees_jobs (· = s.jobs)).sub rfl) f sc rfl, s.writeDumpCtrl_keeps_rest ((frees_mem (· = s.mem)).sub rfl) f sc rfl⟩
    · obtain ⟨hobs, hresult⟩ := State.askDump_busy
        (s.updCtx f.ctx fun c => { c with dumpCtrl := putField c.dumpCtrl 1 1 (b2n scope) }) f.ctx (scope && s.isControl f) false (s.time.beat + 1) hsome
      exact ⟨_, exec_dumpRequest hon f sc hbar hdie, hobs, hresult, s.writeDumpCtrl_keeps_rest ((frees_jobs (· = s.jobs)).sub rfl) f sc rfl⟩
  · obtain h | h := h
    · refine exec_stringDump_none hon (List.find?_eq_none.mpr fun d hd => ?_)
      obtain h | h := h d hd
      · simp [h]
      · simp [Nat.not_le.mpr h]
    · exact exec_stringDump_between hon h
  · have hfind : (s.obs.dumps.find? fun d => !d.taken && decide (d.at_ ≤ s.time.beat)) = some d := by
      rw [hd]
      exact List.find?_cons_of_pos (by simp [hnew, hat])
    have hexec := exec_stringDump hon hfind hph
    intro base
    refine ⟨fun harea => ?_, fun hbase hpin hsave => ?_, fun hbase hpin hsave => ?_⟩
    · rw [if_pos (by simp only [base] at harea; obtain h | h := harea <;> simp [h])] at hexec
      exact ⟨_, hexec, s.refuseDump_result d (by decide)⟩
    · rw [if_neg (by simp [base] at hbase hpin; simp [hbase, hpin]), if_pos hsave] at hexec
      obtain ⟨hdumps, hstate, hresult, hjobs, -⟩ := s.refuseDump_result d (r := 3) (by decide)
      exact ⟨_, hexec, hdumps, hstate, hresult, hjobs⟩
    · rw [if_neg (by simp [base] at hbase hpin; simp [hbase, hpin]), if_neg (by rw [hsave]; exact Bool.false_ne_true)] at hexec
      exact ⟨_, hexec, s.takeDump_holds _, s.takeDump_state { d with at_ := s.time.beat }, fun k j hj hdump hrun =>
        s.takeDump_job? { d with at_ := s.time.beat } hj hdump hrun⟩
  · have hfind : (s.obs.dumps.find? fun d => d.taken && decide (d.at_ + 10 ≤ s.time.beat)) = some d := by
      rw [hd]
      exact List.find?_cons_of_pos (by simp [htaken, hat])
    have hctrl : ((s.restarted d).ctxAt d.ctx.val).dumpCtrl = (s.ctxAt d.ctx.val).dumpCtrl := (s.restarted_posts d).part CtxSt.dumpCtrl (fun _ => rfl) _
    have hobs (t : State) (o : ObsSt) (n : Nat) : (t.setObs o).ctxAt n = t.ctxAt n := rfl
    refine ⟨_, exec_dumpRestart hon hfind, rfl, ?_, ?_, fun k hk j hj hdump => ?_, ?_⟩
    · rw [State.ctxAt_updCtx]
      exact (bits_putField_other _ (.inl (by decide)) _).trans (CtxSt.setDump_state _ (by decide) 0)
    · rw [State.ctxAt_updCtx, hobs, CtxSt.setDump_count, hctrl]
      exact (bits_putField_self _ (by decide) _).trans (Nat.mod_eq_of_lt (Nat.lt_of_le_of_lt (Nat.min_le_right _ _) (by decide)))
    · have hunits : (s.restarted d).jobs = (d.jobs.foldl State.restartJob s).jobs :=
        Keep.foldl (P := fun t => t.jobs = (d.jobs.foldl State.restartJob s).jobs) (fun t _ ht => State.updUnit_keeps
          ((frees_jobs (· = (d.jobs.foldl State.restartJob s).jobs)).sub rfl) t _ _ ht) rfl
      obtain ⟨i, hi, hrun⟩ := s.foldl_restartJob k d.jobs hj (.inr ⟨hdump, hk⟩)
      have hbeside (t : State) (o : ObsSt) (n : Nat) (f : CtxSt → CtxSt) : ((t.setObs o).updCtx n f).jobs = t.jobs := rfl
      exact ⟨i, by rw [State.job?_congr (hbeside _ _ _ _), State.job?_congr hunits, hi], hrun⟩
    · rw [State.updCtx, State.setCtx_mem, State.setObs_mem]
      exact s.restarted_keeps ((frees_mem (· = s.mem)).sub rfl) d rfl

end Sys2Proof
end

section
/-! PROOF. DIE_CTRL and the resets (R480 to R485, R510); O53. -/

namespace Sys2Proof.Machine

/-! ### DIE_CTRL (R481) -/

section
variable {s : State}

theorem State.byPwr_recovery (hon : s.pwr.on = true) (h : s.sec.recovery = true) (g : State → State) : s.byPwr g = .next s :=
  congrArg Host.Outcome.next ((if_pos hon).trans (if_pos h))

/-- A write of DIE_CTRL. -/
def State.writeDieCtrl (s : State) (f : Func) (d cmd : Nat) : Host.Outcome State Fault Refusal :=
  s.byPwr fun s => (s.exchange (30 + f.port.val) 30).privileged f fun s => s.dieCommand d cmd

theorem State.writeDieCtrl_denied (hon : s.pwr.on = true) (h : s.sec.recovery = false) {f : Func} (hf : s.isControl f = false) (d cmd : Nat) :
    s.writeDieCtrl f d cmd = .next ((s.exchange (30 + f.port.val) 30).deny f) := by
  rw [State.writeDieCtrl, s.byPwr_open _ hon h, State.privileged_denied (s.exchange (30 + f.port.val) 30) f _ hf]

theorem State.writeDieCtrl_control (hon : s.pwr.on = true) (h : s.sec.recovery = false) {f : Func} (hf : s.isControl f = true) (d : Nat) {cmd : Nat}
    (hcmd : 1 ≤ cmd ∧ cmd ≤ 4) : s.writeDieCtrl f d cmd =
      .next ((s.exchange (30 + f.port.val) 30).setDie d { s.dieAt d with cmds := (s.dieAt d).cmds ++ [BitVec.ofNat 3 cmd] }) := by
  rw [State.writeDieCtrl, s.byPwr_open _ hon h, State.privileged_control (s.exchange (30 + f.port.val) 30) f _ hf, State.dieCommand, if_pos hcmd]
  rfl

/-- The four instructions write the four commands. -/
theorem exec_dieCtrl {P : Host.Outcome State Fault Refusal → Prop} (f : Func) (d : Fin 32) (h : ∀ cmd, P (s.writeDieCtrl f d.val cmd)) :
    ∀ i ∈ [Instr.quiesce f d, .fence f d, .reset f d, .rejoin f d], P (exec i s) := by
  simp only [List.forall_mem_cons]
  exact ⟨h 1, h 2, h 3, h 4, fun _ h => absurd h List.not_mem_nil⟩

end

/-! ### A command at its boundary (R481, R482) -/

section
variable {s : State} {d : Nat}

theorem State.dieErr_hd0 : s.dieErr 30 = 3 := if_pos rfl

theorem State.dieErr_ladder (hd : d ≠ 30) (h : (s.dieAt d).ladder = true) : s.dieErr d = 4 := by rw [State.dieErr, if_neg hd, if_pos h]

theorem State.dieErr_memory (hlo : 24 ≤ d) (hhi : d < 28) (h : (s.dieAt d).ladder = false) (hjobs : s.jobs.any Job.onModule = true) : s.dieErr d = 2 := by
  rw [State.dieErr, if_neg (by omega), if_neg (ne_true_of_eq_false h), if_pos ⟨hlo, hhi, hjobs⟩]

theorem State.takeDieCmd_refused (h : s.dieErr d ≠ 0) (c : Nat) :
    s.takeDieCmd d c = s.setDie d { s.dieAt d with err := BitVec.ofNat 3 (s.dieErr d) } := by
  unfold State.takeDieCmd
  split
  · next h0 => exact absurd h0 h
  · rfl

section
variable (h : s.dieErr d = 0)
include h

theorem State.takeDieCmd_allowed (c : Nat) : s.takeDieCmd d c =
    if c = 1 ∧ (s.dieAt d).st = 0 then (s.setDie d { s.dieAt d with st := 1, err := 0 }).endPeers (s.jobs.filter fun j => j.spans d)
    else if c = 2 ∧ (s.dieAt d).st = 1 then s.setDie d { s.dieAt d with st := 2, err := 0, since := s.time.beat, posted := false }
    else if c = 3 ∧ (s.dieAt d).st = 2 ∧ (s.dieAt d).posted then (s.setDie d { s.dieAt d with st := 3, err := 0 }).resetDie d (s.dieAt d).staged
    else if c = 4 ∧ (s.dieAt d).st = 3 then (s.setDie d { s.dieAt d with err := 0 }).rejoinDie d
    else s.setDie d { s.dieAt d with err := 1 } := by
  rw [State.takeDieCmd, h]
  rfl

theorem State.takeDieCmd_quiesce (hst : (s.dieAt d).st = 0) : ((s.takeDieCmd d 1).dieAt d).st = 1 ∧
    ∀ j ∈ (s.takeDieCmd d 1).jobs, j ∈ s.jobs ∧ j.spans d = false := by
  rw [State.takeDieCmd_allowed h, if_pos ⟨rfl, hst⟩, State.endPeers]
  refine ⟨?_, fun j hj => ?_⟩
  · have hdies := State.abortAll_keeps ((frees_dies (· = (s.setDie d { s.dieAt d with st := 1, err := 0 }).dies)).sub rfl) _ 0xA
      ((s.jobs.filter fun j => j.spans d).map (·.jid)) rfl
    rw [State.dieAt, hdies, State.setDie_dies, tabGet_tabSet_self]
  · obtain ⟨hmem, hnot⟩ := (State.abortAll_jobs _ _ _).1 hj
    rw [State.setDie_jobs] at hmem
    refine ⟨hmem, Bool.eq_false_iff.mpr fun hspans => ?_⟩
    have hlive : j.live = true := by
      rw [Job.spans] at hspans
      simp only [Bool.and_eq_true] at hspans
      exact hspans.1.1.1
    exact hnot hlive (List.mem_map.mpr ⟨j, List.mem_filter.mpr ⟨hmem, hspans⟩, rfl⟩)

theorem State.takeDieCmd_fence (hst : (s.dieAt d).st = 1) :
    s.takeDieCmd d 2 = s.setDie d { s.dieAt d with st := 2, err := 0, since := s.time.beat, posted := false } := by
  rw [State.takeDieCmd_allowed h, if_neg (by simp), if_pos ⟨rfl, hst⟩]

theorem State.takeDieCmd_reset (hst : (s.dieAt d).st = 2) (hposted : (s.dieAt d).posted = true) :
    s.takeDieCmd d 3 = (s.setDie d { s.dieAt d with st := 3, err := 0 }).resetDie d (s.dieAt d).staged := by
  rw [State.takeDieCmd_allowed h, if_neg (by simp), if_neg (by simp), if_pos ⟨rfl, hst, hposted⟩]

theorem State.takeDieCmd_reset_dieAt (hst : (s.dieAt d).st = 2) (hposted : (s.dieAt d).posted = true) :
    (s.takeDieCmd d 3).dieAt d = DieSt.reloaded s.sec d (s.dieAt d).staged { s.dieAt d with st := 3, err := 0 } := by
  rw [State.takeDieCmd_reset h hst hposted, State.resetDie_dieAt, if_pos rfl, State.dieAt_setDie, if_pos rfl, State.setDie_sec]

theorem State.takeDieCmd_rejoin (hst : (s.dieAt d).st = 3) : ((s.takeDieCmd d 4).dieAt d).st = 0 := by
  rw [State.takeDieCmd_allowed h, if_neg (by simp), if_neg (by simp), if_neg (by simp), if_pos ⟨rfl, hst⟩, State.rejoinDie_dieAt, if_pos rfl]

theorem State.takeDieCmd_order {c : Nat} (hc : (c = 1 ∧ (s.dieAt d).st ≠ 0) ∨ (c = 2 ∧ (s.dieAt d).st ≠ 1) ∨
    (c = 3 ∧ ((s.dieAt d).st ≠ 2 ∨ (s.dieAt d).posted = false)) ∨ (c = 4 ∧ (s.dieAt d).st ≠ 3)) :
    s.takeDieCmd d c = s.setDie d { s.dieAt d with err := 1 } := by
  rw [State.takeDieCmd_allowed h]
  obtain ⟨rfl, hq⟩ | ⟨rfl, hq⟩ | ⟨rfl, hq⟩ | ⟨rfl, hq⟩ := hc
  · rw [if_neg fun e => hq e.2, if_neg (by simp), if_neg (by simp), if_neg (by simp)]
  · rw [if_neg (by simp), if_neg fun e => hq e.2, if_neg (by simp), if_neg (by simp)]
  · rw [if_neg (by simp), if_neg (by simp), if_neg fun e => ?_, if_neg (by simp)]
    obtain ⟨-, hst, hposted⟩ := e
    exact hq.elim (fun h => h hst) fun h => Bool.false_ne_true (h.symm.trans hposted)
  · rw [if_neg (by simp), if_neg (by simp), if_neg (by simp), if_neg fun e => hq e.2]

end

/-! ### DIE_FENCED (R483) -/

theorem exec_dieFenced (hon : s.pwr.on = true) (d : Fin 32) : exec (.dieFenced d) s = .next
    (if (s.dieAt d.val).st != 2 || (s.dieAt d.val).posted || decide (s.time.beat < (s.dieAt d.val).since + 10) then s
      else (s.setDie d.val { s.dieAt d.val with posted := true }).fencedEvent d.val 0 fun j => j.spans d.val) :=
  congrArg Host.Outcome.next (if_pos hon)

theorem State.fencedEvent_rest (t : State) (d st : Nat) (hit : Job → Bool) : (t.fencedEvent d st hit).dieAt d = t.dieAt d ∧
    (t.fencedEvent d st hit).jobs = t.jobs ∧ (t.fencedEvent d st hit).units = t.units ∧ (t.fencedEvent d st hit).mem = t.mem :=
  ⟨congrArg (fun l => tabGet DieSt.reset l d) (State.fencedEvent_keeps ((frees_dies (· = t.dies)).sub rfl) t d st hit rfl : _ = t.dies),
    State.fencedEvent_keeps ((frees_jobs (· = t.jobs)).sub rfl) t d st hit rfl, State.fencedEvent_keeps ((frees_units (· = t.units)).sub rfl) t d st hit rfl,
    State.fencedEvent_keeps ((frees_mem (· = t.mem)).sub rfl) t d st hit rfl⟩

end

/-! ### A warm reset (R485, R510) -/

/-- `t` is the module after a warm reset of `s`. -/
def State.WarmOf (s t : State) : Prop :=
  t.pwr.on = true ∧ t.jobs = [] ∧ t.gt = 0 ∧ t.time = TimeSt.reset ∧ t.mem = s.mem ∧ t.veiled = s.veiled ∧
    t.poison = s.poison ∧ t.units = [] ∧ t.syncs = [] ∧ t.ctxs = [] ∧ t.sec.stage = 1 ∧ t.sec.scope = 0 ∧ t.sec.svn = s.sec.svn ∧
    t.sec.flash = s.sec.flash ∧ t.pwr.supply = s.pwr.supply ∧ t.pwr.thermal = s.pwr.thermal ∧ t.pwr.force = 0 ∧
    (∀ i, i < 48 → (t.devAt i).selfRefresh = true)

section
variable (s : State) (wdog : Bool)

/-- What a warm reset leaves, before the devices and the dies. -/
def State.warmBase : State :=
  { s.cold true with
    mem := s.mem, veiled := s.veiled, poison := s.poison, sec := { (s.cold true).sec with stage := 1, wdog := wdog },
    pwr := { (s.cold true).pwr with
      supply := s.pwr.supply, thermal := s.pwr.thermal, level := max s.pwr.supply s.pwr.thermal, eff := s.pwr.eff, tripped := s.pwr.tripped } }

theorem State.warm_eq : s.warm wdog = if decide (3 ≤ s.pwr.eff) then ((s.warmBase wdog).eachDev fun d => { d with selfRefresh := true }).holdDies
    else (s.warmBase wdog).eachDev fun d => { d with selfRefresh := true } := rfl

/-- Devices, dies and translation units aside, a warm reset leaves what `warmBase` says. -/
theorem State.warm_inv {P : State → Prop} (hw : Frees P 0x2012000000) (h : P (s.warmBase wdog)) : P (s.warm wdog) := by
  have hdevs : P ((s.warmBase wdog).eachDev fun d => { d with selfRefresh := true }) := State.eachDev_keeps (hw.sub rfl) _ _ h
  rw [State.warm_eq]
  split
  · exact State.holdDies_keeps (hw.sub rfl) _ hdevs
  · exact hdevs

theorem State.warm_devAt {i : Nat} (hi : i < 48) : ((s.warm wdog).devAt i).selfRefresh = true := by
  have hdev : (((s.warmBase wdog).eachDev fun d => { d with selfRefresh := true }).devAt i).selfRefresh = true := by rw [State.eachDev_devAt _ _ hi]
  rw [State.warm_eq]
  split
  · rw [State.devAt_congr (State.holdDies_keeps ((frees_devs (· = _)).sub rfl) _ rfl), hdev]
  · exact hdev

theorem State.warm_time : (s.warm wdog).time = TimeSt.reset := s.warm_inv wdog ((frees_time (· = TimeSt.reset)).sub rfl) rfl
theorem State.warm_sec : (s.warm wdog).sec = (s.warmBase wdog).sec := s.warm_inv wdog ((frees_sec (· = (s.warmBase wdog).sec)).sub rfl) rfl
theorem State.warm_pwr : (s.warm wdog).pwr = (s.warmBase wdog).pwr := s.warm_inv wdog ((frees_pwr (· = (s.warmBase wdog).pwr)).sub rfl) rfl

theorem State.warm_warmOf : s.WarmOf (s.warm wdog) := by
  rw [State.WarmOf, State.gt, s.warm_time, s.warm_sec, s.warm_pwr]
  exact ⟨rfl, s.warm_inv wdog ((frees_jobs (· = [])).sub rfl) rfl, rfl, rfl, s.warm_inv wdog ((frees_mem (· = s.mem)).sub rfl) rfl,
    s.warm_inv wdog ((frees_veiled (· = s.veiled)).sub rfl) rfl, s.warm_inv wdog ((frees_poison (· = s.poison)).sub rfl) rfl,
    s.warm_inv wdog ((frees_units (· = [])).sub rfl) rfl, s.warm_inv wdog ((frees_syncs (· = [])).sub rfl) rfl,
    s.warm_inv wdog ((frees_ctxs (· = [])).sub rfl) rfl, rfl, rfl, rfl, rfl, rfl, rfl, rfl, fun i hi => s.warm_devAt wdog hi⟩

variable {s}

/-- What a warm reset leaves depends on memory, its poison, the supply and the fuses alone. -/
theorem State.WarmOf.of_start {u t : State} (h : u.WarmOf t) (hmem : u.mem = s.mem) (hveiled : u.veiled = s.veiled) (hpoison : u.poison = s.poison)
    (hsec : u.sec = s.sec) (hpwr : u.pwr = s.pwr) : s.WarmOf t := by
  rwa [State.WarmOf, hmem, hveiled, hpoison, hsec, hpwr] at h

theorem tick_warmOf (hon : s.pwr.on = true) {g : Nat} (hreset : s.sec.resetAt = some g) (hg : g ≤ s.gt + 1) (hph : s.time.phase < 2249)
    (hrep : s.standaloneJob = none) : s.WarmOf (tick s) := by
  rw [tick_reset hrep hon hph hreset hg]
  exact (s.cyclePassed.warm_warmOf false).of_start (State.cyclePassed_keeps hrep ((frees_mem (· = s.mem)).sub rfl) rfl)
    (State.cyclePassed_keeps hrep ((frees_veiled (· = s.veiled)).sub rfl) rfl) (State.cyclePassed_keeps hrep ((frees_poison (· = s.poison)).sub rfl) rfl)
    (State.cyclePassed_sec hrep) (State.cyclePassed_keeps hrep ((frees_pwr (· = s.pwr)).sub rfl) rfl)

/-! ### MOD_RST# (R510) -/

section
variable (hon : s.pwr.on = true)
include hon

theorem exec_modRst_between (low : Bool) (h : s.time.phase ≠ 0) : exec (.modRst low) s = .next s :=
  congrArg Host.Outcome.next ((if_neg (by rw [hon]; decide)).trans (if_pos h))

theorem exec_modRst_falls (h : s.time.phase = 0) (hpin : s.pins.modRst = false) :
    exec (.modRst true) s = .next ((s.warm false).setPins { (s.warm false).pins with modRst := true }) :=
  congrArg Host.Outcome.next ((if_neg (by rw [hon]; decide)).trans ((if_neg (not_not_intro h)).trans (if_pos (by rw [hpin]; rfl))))

theorem exec_modRst_stays (low : Bool) (h : s.time.phase = 0) (hpin : low = false ∨ s.pins.modRst = true) :
    exec (.modRst low) s = .next { s with pins := { s.pins with modRst := low } } :=
  congrArg Host.Outcome.next ((if_neg (by rw [hon]; decide)).trans ((if_neg (not_not_intro h)).trans
    (if_neg (by obtain hpin | hpin := hpin <;> simp [hpin]))))

end

end

/-! ### A function-level reset (R485, R527) -/

section
variable (s : State)

/-- A job of which no reconfiguration is left posts nothing as it leaves. -/
theorem State.dropRecfgs_none {jid : U64} (h : ∀ r ∈ s.recfgs, r.jid ≠ jid) : s.dropRecfgs jid = s := by
  have hnone : s.recfgs.filter (fun r => r.jid == jid) = [] := List.filter_eq_nil_iff.mpr fun r hr => by simp [h r hr]
  have hall : s.recfgs.filter (fun r => r.jid != jid) = s.recfgs := List.filter_eq_self.mpr fun r hr => by simp [h r hr]
  rw [State.dropRecfgs, hnone, List.foldl_nil]
  rw [hall]

/-- `t` is `s` without some jobs of context `n`, whose reconfigurations had gone before. -/
structure State.Rid (s t : State) (n : Nat) : Prop where
  host : t.host = s.host
  mem : t.mem = s.mem
  recfgs : t.recfgs = s.recfgs
  others : ∀ k, k ≠ n → t.ctxAt k = s.ctxAt k

theorem State.release_rid {j : Job} (h : ∀ r ∈ s.recfgs, r.jid ≠ j.jid) : s.Rid (s.release j) j.ctx.val := by
  have hdrop := s.dropRecfgs_none h
  have hkeeps {P : State → Prop} (hw : Frees P 0x4001df9f0) (hs : P s) : P (s.emptied j) := s.afterDrop_keeps j hw (by rwa [hdrop])
  have hctxs : (s.emptied j).ctxs = s.ctxs := hkeeps ((frees_ctxs (· = s.ctxs)).sub rfl) rfl
  rw [State.release_eq, State.updCtx]
  refine ⟨?_, ?_, ?_, fun k hk => ?_⟩
  · rw [State.setCtx_host]
    exact hkeeps ((frees_host (· = s.host)).sub rfl) rfl
  · rw [State.setCtx_mem]
    exact hkeeps ((frees_mem (· = s.mem)).sub rfl) rfl
  · rw [State.setCtx_recfgs]
    exact hkeeps ((frees_recfgs (· = s.recfgs)).sub rfl) rfl
  · rw [State.ctxAt_setCtx_other _ _ _ _ hk]
    exact State.ctxAt_congr hctxs k

theorem State.foldl_release_rid (n : Nat) (js : List Job) (hctx : ∀ j ∈ js, j.ctx.val = n) (h : ∀ j ∈ js, ∀ r ∈ s.recfgs, r.jid ≠ j.jid) :
    s.Rid (js.foldl State.release s) n := by
  induction js generalizing s with
  | nil => exact ⟨rfl, rfl, rfl, fun _ _ => rfl⟩
  | cons j js ih =>
    have hone := s.release_rid (h j List.mem_cons_self)
    rw [hctx j List.mem_cons_self] at hone
    have hrest := ih (s.release j) (fun i hi => hctx i (List.mem_cons_of_mem _ hi)) fun i hi => by
      rw [hone.recfgs]
      exact h i (List.mem_cons_of_mem _ hi)
    exact ⟨hrest.host.trans hone.host, hrest.mem.trans hone.mem, hrest.recfgs.trans hone.recfgs,
      fun k hk => (hrest.others k hk).trans (hone.others k hk)⟩

theorem State.foldl_release_jobs (js : List Job) {i : Job} (h : i ∈ (js.foldl State.release s).jobs) : i ∈ s.jobs ∧ ∀ j ∈ js, i.jid ≠ j.jid := by
  induction js generalizing s with
  | nil => exact ⟨h, fun _ hj => absurd hj List.not_mem_nil⟩
  | cons j js ih =>
    obtain ⟨hmem, hrest⟩ := ih (s.release j) h
    rw [State.release_jobs] at hmem
    obtain ⟨hi, hne⟩ := List.mem_filter.mp hmem
    exact ⟨hi, List.forall_mem_cons.mpr ⟨bne_iff_ne.mp hne, hrest⟩⟩

variable (n : Nat)

/-- The jobs a function-level reset ends. -/
def State.flrJobs : List Job := s.jobs.filter fun j => j.live && j.ctx.val == n

/-- The state in which they leave. -/
def State.flrBegun : State := { s with recfgs := s.recfgs.filter fun r => !(s.flrJobs n).any fun j => j.jid == r.jid }

/-- The state they have left. -/
def State.flrRid : State := (s.flrJobs n).foldl State.release (s.flrBegun n)

theorem State.flr_eq : s.flr n = (({ s.flrRid n with
    locked := (s.flrRid n).locked.filter fun e => e.ctx != n, faults := (s.flrRid n).faults.filter fun f => f.ctx.val != n } : State).setObs
    { (s.flrRid n).obs with
      dumps := (s.flrRid n).obs.dumps.filter fun d => d.ctx.val != n, claims := (s.flrRid n).obs.claims.filter fun c => c.ctx != n,
      resReq := tabSet false (s.flrRid n).obs.resReq n false }).setCtx n (.resetAt n) := rfl

theorem State.flrRid_rid : (s.flrBegun n).Rid (s.flrRid n) n := by
  refine State.foldl_release_rid _ n _ (fun j hj => ?_) fun j hj r hr he => ?_
  · obtain ⟨-, hown⟩ := List.mem_filter.mp hj
    rw [Bool.and_eq_true, beq_iff_eq] at hown
    exact hown.2
  · obtain ⟨-, hnot⟩ := List.mem_filter.mp hr
    rw [Bool.not_eq_true', List.any_eq_false] at hnot
    exact hnot j hj (beq_iff_eq.mpr he.symm)

theorem State.flr_ctxAt (k : Nat) : (s.flr n).ctxAt k = if k = n then .resetAt n else s.ctxAt k := by
  rw [State.flr_eq]
  by_cases hk : k = n
  · rw [if_pos hk, hk, State.ctxAt_setCtx]
  · rw [if_neg hk, State.ctxAt_setCtx_other _ _ _ _ hk]
    exact (s.flrRid_rid n).others k hk

theorem State.flr_mem : (s.flr n).mem = s.mem := by
  rw [State.flr_eq, State.setCtx_mem, State.setObs_mem]
  exact (s.flrRid_rid n).mem

theorem State.flr_host : (s.flr n).host = s.host := by
  rw [State.flr_eq, State.setCtx_host, State.setObs_host]
  exact (s.flrRid_rid n).host

theorem State.flr_jobs {j : Job} (h : j ∈ (s.flr n).jobs) : j ∈ s.jobs ∧ (j.live = true → j.ctx.val ≠ n) := by
  rw [State.flr_eq, State.setCtx_jobs, State.setObs_jobs] at h
  obtain ⟨hmem, hnot⟩ := State.foldl_release_jobs _ _ h
  refine ⟨hmem, fun hlive hctx => hnot j (List.mem_filter.mpr ⟨hmem, ?_⟩) rfl⟩
  rw [hlive, hctx, beq_self_eq_true]
  rfl

theorem State.flr_locked : ∀ e ∈ (s.flr n).locked, e.ctx ≠ n := by
  rw [State.flr_eq, State.setCtx_locked, State.setObs_locked]
  exact fun e he => bne_iff_ne.mp (List.mem_filter.mp he).2

theorem State.flr_faults : ∀ e ∈ (s.flr n).faults, e.ctx.val ≠ n := by
  rw [State.flr_eq, State.setCtx_faults, State.setObs_faults]
  exact fun e he => bne_iff_ne.mp (List.mem_filter.mp he).2

end

/-! ### PERST# (R485) -/

section
variable (s : State) (p : Nat)

/-- The sixteen functions of a port are reset. -/
def State.portReset : State := (List.range 16).foldl (fun s f => s.flr (16 * p + f)) s

theorem State.portReset_ctxAt {n : Nat} (h : n / 16 = p) : (s.portReset p).ctxAt n = .resetAt n := by
  have hn : 16 * p + n % 16 = n := by omega
  have hfold := foldl_range_entry s 16 (fun t f => t.ctxAt (16 * p + f)) (fun s f => s.flr (16 * p + f)) (fun f _ => .resetAt (16 * p + f))
    (fun i _ t k => by rw [State.flr_ctxAt]; exact if_congr Nat.add_left_cancel_iff rfl rfl) (Nat.mod_lt n (by decide))
  rw [hn] at hfold
  exact hfold

theorem State.portReset_mem : (s.portReset p).mem = s.mem :=
  Keep.foldl (P := fun t => t.mem = s.mem) (fun t f ht => (t.flr_mem (16 * p + f)).trans ht) rfl

theorem State.portReset_host : (s.portReset p).host = s.host :=
  Keep.foldl (P := fun t => t.host = s.host) (fun t f ht => (t.flr_host (16 * p + f)).trans ht) rfl

theorem State.foldl_flr_jobs (l : List Nat) {j : Job} (h : j ∈ (l.foldl (fun s f => s.flr (16 * p + f)) s).jobs) :
    j ∈ s.jobs ∧ (j.live = true → ∀ f ∈ l, j.ctx.val ≠ 16 * p + f) := by
  induction l generalizing s with
  | nil => exact ⟨h, fun _ _ hf => absurd hf List.not_mem_nil⟩
  | cons f l ih =>
    obtain ⟨hmem, hrest⟩ := ih (s.flr (16 * p + f)) h
    obtain ⟨hs, hone⟩ := s.flr_jobs (16 * p + f) hmem
    exact ⟨hs, fun hlive => List.forall_mem_cons.mpr ⟨hone hlive, hrest hlive⟩⟩

theorem State.portReset_jobs {j : Job} (h : j ∈ (s.portReset p).jobs) (hlive : j.live = true) : j.ctx.val / 16 ≠ p := by
  intro hp
  exact (s.foldl_flr_jobs p (List.range 16) h).2 hlive (j.ctx.val % 16) (List.mem_range.mpr (Nat.mod_lt _ (by decide))) (by omega)

end

end Sys2Proof.Machine

namespace Sys2Proof
open Machine

/-- Settles O53: DIE_CTRL command by command, then each kind of reset. -/
theorem dieControlAndResets : Obligations.die_control_and_resets := by
  refine ⟨fun d s hon => ?_, fun s hon => ?_⟩
  · intro q
    refine ⟨fun f => ?_, fun h => ?_, fun c h => State.takeDieCmd_refused h c, State.dieErr_hd0, State.dieErr_ladder, State.dieErr_memory,
      fun hst hposted hbeats => ?_, fun h => ?_⟩
    · intro r cmds
      refine ⟨fun h => ?_, fun h hf => ?_, fun h hf => ?_⟩
      · exact exec_dieCtrl (P := (· = .next s)) f d fun cmd => State.byPwr_recovery hon h _
      · exact exec_dieCtrl (P := (· = .next (r.deny f))) f d fun cmd => State.writeDieCtrl_denied hon h hf d.val cmd
      · have hheld {cmd : Nat} := State.writeDieCtrl_control hon h hf d.val (cmd := cmd)
        exact ⟨hheld (by decide), hheld (by decide), hheld (by decide), hheld (by decide)⟩
    · refine ⟨State.takeDieCmd_quiesce h, State.takeDieCmd_fence h, fun hst hposted => ?_, State.takeDieCmd_rejoin h,
        fun hst => State.takeDieCmd_order h (.inl ⟨rfl, hst⟩), fun hst => State.takeDieCmd_order h (.inr (.inl ⟨rfl, hst⟩)),
        fun hst => State.takeDieCmd_order h (.inr (.inr (.inl ⟨rfl, hst⟩))), fun hst => State.takeDieCmd_order h (.inr (.inr (.inr ⟨rfl, hst⟩)))⟩
      have hdie := State.takeDieCmd_reset_dieAt h hst hposted
      refine ⟨by rw [hdie]; rfl, by rw [hdie]; rfl, fun hd hstaged => ⟨?_, fun x hx => ?_⟩⟩
      · rw [hdie, hstaged]
        exact if_pos hd
      · rw [State.takeDieCmd_reset h hst hposted, State.resetDie_unit _ _ _ hd, if_pos hx]
    · have hexec := exec_dieFenced hon d
      rw [if_neg (by simp only [q] at hst hposted hbeats; simp [hst, hposted, hbeats])] at hexec
      obtain ⟨hdie, hjobs, hunits, hmem⟩ := (s.setDie d.val { q with posted := true }).fencedEvent_rest d.val 0 fun j => j.spans d.val
      exact ⟨_, hexec, hdie.trans (by rw [State.dieAt_setDie, if_pos rfl]), hjobs, hunits, hmem⟩
    · rw [exec_dieFenced hon d, if_pos (by rw [Bool.or_eq_true, Bool.or_eq_true, bne_iff_ne, decide_eq_true_eq, or_assoc]; exact h)]
  · intro warm
    refine ⟨⟨_, congrArg Host.Outcome.next (if_pos hon), s.warm_warmOf false, congrArg SecSt.wdog (s.warm_sec false)⟩,
      ⟨_, congrArg Host.Outcome.next (if_pos hon), s.warm_warmOf true, congrArg SecSt.wdog (s.warm_sec true)⟩,
      fun hph hpin => ⟨_, exec_modRst_falls hon hph hpin, s.warm_warmOf false, rfl⟩, fun low hph hpin => exec_modRst_stays hon low hph hpin,
      fun low hph => exec_modRst_between hon low hph, fun g hreset hg hph hrep => tick_warmOf hon hreset hg hph hrep, fun f => ?_, fun p => ?_⟩
    · refine ⟨_, congrArg Host.Outcome.next (if_pos hon), ?_, fun n hn _ => ?_, fun j hj => (s.flr_jobs f.ctx hj).2, s.flr_locked f.ctx, s.flr_faults f.ctx,
        s.flr_mem f.ctx, s.flr_host f.ctx⟩
      · rw [State.flr_ctxAt, if_pos rfl]
      · rw [State.flr_ctxAt, if_neg hn]
    · exact ⟨_, congrArg Host.Outcome.next (if_pos hon), fun n hn => s.portReset_ctxAt p.val hn, fun j hj hlive => s.portReset_jobs p.val hj hlive,
        s.portReset_mem p.val, s.portReset_host p.val⟩

end Sys2Proof
end
